-- ==== Sys2Proof/Word.lean ====
section
/-! DEFINITION. The word types of the YC512: bytes, register words, and the numbering of pins, gloves, quadrants and
channels (R8, R11, spec/00_scope.md). -/

namespace Sys2Proof

/-- One byte of device DRAM, host memory or flash. -/
abbrev Byte := BitVec 8
/-- A 16-bit register field, tag, status code or event code. -/
abbrev W16 := BitVec 16
/-- A 32-bit register. -/
abbrev W32 := BitVec 32
/-- A 64-bit register. -/
abbrev W64 := BitVec 64
/-- A pin `P000` to `P511` (R11). -/
abbrev Pin := Fin 512
/-- A glove, and the TIU and PPMU ADC it owns (R11, Table 1.2). -/
abbrev Glove := Fin 64
/-- A quadrant `Q0` to `Q3` (R11). -/
abbrev Quad := Fin 4
/-- An I/O bank `B0` to `B7` (R11). -/
abbrev Bank := Fin 8
/-- A margin channel `MX00` to `MX15` (R320). -/
abbrev Chan := Fin 16
/-- A Hargo port `HL0` to `HL3` (R339). -/
abbrev Port := Fin 4
/-- A level DAC in the order `DHI`, `DLO`, `CHI`, `CLO`, `VTT`, `FRC` (Table 5.1, R134). -/
abbrev DacIx := Fin 6

/-- The glove of a pin (R11). -/
def gloveOf (p : Pin) : Glove := ⟨p.val / 8, by have := p.isLt; omega⟩
/-- The quadrant of a pin (R11). -/
def quadOf (p : Pin) : Quad := ⟨p.val / 128, by have := p.isLt; omega⟩
/-- The bank of a pin (R11). -/
def bankOf (p : Pin) : Bank := ⟨p.val / 64, by have := p.isLt; omega⟩
/-- The quadrant of a glove: 16 gloves each (R11). -/
def quadOfGlove (g : Glove) : Quad := ⟨g.val / 16, by have := g.isLt; omega⟩

/-- Sparse byte memory: address and byte pairs, addresses strictly rising, no entry equal to what an unlisted address
reads as (`Mem.wf`, Machine/Ops.lean). -/
abbrev Mem := List Host.Cell

end Sys2Proof
end

