-- ==== Sys2Proof/Syntax.lean ====
section
/-! DEFINITION. The commands of the block: one constructor for each of the 200 rows of spec/opcode_table.json, in the
table's order. The table gives its rows no operands; an operand here is what the step takes from outside the block (a value
a host writes, what a PCIe or DRAM read finds, a count or reading that an analog circuit delivers), see log 1. -/

namespace Sys2Proof

/-- What a SECDED-protected read finds (R149, R189, R225, R251, R318). -/
inductive Ecc where
  | ok | corrected | uncorrectable
deriving DecidableEq, Repr

/-- What a read of an object in device DRAM finds: its outcome, and where it is not clean the byte offset of the failing granule
from the object's first byte (R156, R189). -/
structure DramFind where
  /-- The outcome. -/
  ecc : Ecc := .ok
  /-- The offset of the granule concerned. -/
  at_ : Nat := 0
deriving DecidableEq, Repr

/-- A `CS_CLOSE` command: its tag, and what the reads of staged frames find, in order; those not listed are clean (R296). -/
structure CloseReq where
  /-- The tag of the command. -/
  tag : W16
  /-- The outcomes of the staging reads. -/
  reads : List DramFind := []
deriving DecidableEq, Repr

/-- The two comparator thresholds of a pin (R116). -/
inductive Threshold where
  | clo | chi
deriving DecidableEq, Repr

/-- What a PCIe read of BAR0 or BAR4 asks for (R371, R374). -/
structure BarReq where
  /-- BAR4 instead of BAR0. -/
  bar4 : Bool := false
  /-- The offset in the BAR. -/
  off : Nat
  /-- The bytes asked for. -/
  len : Nat
deriving DecidableEq, Repr

/-- The four crossing kinds of Table 11.1, in code order. -/
inductive XKind where
  | cloFall | cloRise | chiRise | chiFall
deriving DecidableEq, Repr

/-- The length of a `PARK_N` low pulse (R128): 10 ns or longer, 2 to 10 ns, or shorter than 2 ns. -/
inductive ParkPulse where
  | held | between | glitch
deriving DecidableEq, Repr

/-- What one attic fetch brings: a vector, one aligned 64-byte lane block of a pin, or a lane descriptor (R176, R179). -/
inductive FetchItem where
  | vector (addr : Nat)
  | lane (pin : Pin) (addr : Nat)
  | desc (addr : Nat)
deriving DecidableEq, Repr

/-- Host memory as the block's PCIe reads find it: the bytes, or a failed read (its address and the completion status of
R186). Bytes not listed read 0x00 (log 5). -/
structure HostRead where
  /-- The bytes found. -/
  cells : List Host.Cell := []
  /-- A failed completion: host address and status byte. -/
  fail : Option (Nat × Byte) := none
deriving DecidableEq, Repr

/-- A trigger class (Table 11.3). -/
inductive TClass where
  | width | runt | timeout | slew
deriving DecidableEq, Repr

/-- What wakes the Axras core (R399). -/
inductive Wake where
  | doorbell | record | smbus | timer
deriving DecidableEq, Repr

/-- Where a margin jump request comes from (R331). -/
inductive JumpSrc where
  | mxj | trigger | evtIn
deriving DecidableEq, Repr

/-- How port training ended (R344): the measured raw latency in ticks and, for `HL0`, the depth of the parent as the training
exchange tells it (log 1), or no lane lock. -/
inductive Training where
  | measured (d parentDepth : Nat)
  | noLock
deriving DecidableEq, Repr

/-- A control slot as the deserializer of a port gives it (R341, R342): the sync headers of its two lanes and its 32 bytes. -/
structure CtlSlot where
  /-- The sync header of lane 0. -/
  sync0 : BitVec 2 := 2
  /-- The sync header of lane 1. -/
  sync1 : BitVec 2 := 2
  /-- The bytes of both lanes. -/
  bytes : List Byte
deriving DecidableEq, Repr

/-- An acknowledgement of data slots (R354): the port on which it comes and the number up to which slots are acknowledged. -/
structure SlotAck where
  /-- The port. -/
  port : Port
  /-- The number of the last slot acknowledged. -/
  upTo : Nat
deriving DecidableEq, Repr

/-- A member's report on its way to the leader: the downstream port on which it comes, and the member. -/
structure Sender where
  /-- The port. -/
  port : Port
  /-- The member. -/
  member : Fin 64
deriving DecidableEq, Repr

/-- How a join travels (R349, R350): the downstream ports that lead from this device to the joining member, and on the way back the case
of the refusal. -/
structure JoinWay where
  /-- The ports, nearest first; none at the member itself. -/
  path : List Port := []
  /-- The case of Table 14.2a, for a refusal on its way down. -/
  refusal : Option (Fin 5) := none
deriving DecidableEq, Repr

/-- The two checksums that a member's arm-check reply carries (R356, R357): of its image, and `PT_CRC`. -/
structure ReplyCrc where
  /-- `SEQ_VER.CRC`. -/
  image : W32
  /-- `PT_CRC`. -/
  table : W32
deriving DecidableEq, Repr

/-- The command language of the block: one constructor per row of spec/opcode_table.json. -/
inductive Instr where
  -- resets, boot and time base (02, 17)
  | powerOnReset
  | conventionalReset
  | perstNDeassert
  | bootComplete
  | flr
  | refclkMissingEdge
  | refclkMonitorWindowEnd (count : Nat)
  | lockDetectorAssert (q : Quad)
  | lockDetectorDeassert (q : Quad)
  | guardWindowEnd (q : Quad) (count : Nat) (stayed : Bool)
  | phaseAlignDone (q : Quad) (phi : Int)
  | acquisitionTimeout
  | fabSwitchComplete
  | epochWrap
  | tbEpochLoRead (req : BarReq)
  -- host writes and run control (15, 08)
  | postedWriteReceive (bar4 : Bool) (off : Nat) (bytes : List (Option Byte))
  | registerWrite (off : Nat) (bytes : List (Option Byte))
  | arm
  | go
  | halt
  | abort
  | runCtlInvalidCmd (cmd : BitVec 4)
  | pendingStopAtBoundary
  | atticFillComplete
  -- vectors, edges, compares, conditions (03, 04, 08, 09)
  | vectorIssue
  | vectorAtFormatter
  | edgeFire (p : Pin)
  | compareEdge (p : Pin)
  | conditionResolve
  | commitRelease (finds : List (Nat × Ecc))
  | runEnd
  -- vector-context words (08)
  | vec (ecc : Ecc)
  | rpt (ecc : Ecc)
  | loop (ecc : Ecc)
  | endl (ecc : Ecc)
  | br (ecc : Ecc)
  | wait (ecc : Ecc)
  | ltk (ecc : Ecc)
  | mark (ecc : Ecc)
  | tgate (ecc : Ecc)
  | mxj (ecc : Ecc)
  | site (ecc : Ecc)
  | evt (ecc : Ecc)
  | svc (ecc : Ecc)
  | haltWord (ecc : Ecc)
  | evtOutputAct
  | evtPulseEnd (line : Fin 4)
  -- service context (08)
  | serviceProcedureStart
  | call (ecc : Ecc)
  | ret (ecc : Ecc)
  | sjmp (ecc : Ecc)
  | loadw (ecc : Ecc)
  | loadwComplete (dr : DramFind)
  | lvl (ecc : Ecc)
  | pfn (ecc : Ecc)
  | pmeas (ecc : Ecc)
  | tiurd (ecc : Ecc)
  | tiurdComplete
  | sequenceStoreScrub (addr : Nat) (ecc : Ecc)
  | sqLoad (tag : W16) (src : HostRead) (dr : DramFind)
  | sqConfig (tag : W16)
  -- pin front end (05)
  | levelTimerExpiry
  | levelTick
  | deglitchHoldEnd (p : Pin) (d : DacIx)
  | slewStep (p : Pin) (d : DacIx)
  | functionEnable (p : Pin)
  | ppmuRangeOverlapEnd (p : Pin)
  | ppmuMeasStart (g : Glove)
  | ppmuMuxConnected (g : Glove)
  | ppmuSettleExpiry (g : Glove)
  | ppmuConversion (g : Glove) (code : BitVec 18) (clamped : Bool)
  | parkNFall (pulse : ParkPulse)
  | parkNRise
  | pfConfig (tag : W16)
  | pfUnpark (tag : W16)
  | pfPpmuMeas (tag : W16)
  -- pin table (06)
  | ptBind (tag : W16) (src : HostRead) (dr : DramFind)
  | ptRefresh (tag : W16) (src : HostRead) (dr : DramFind)
  | storeRoomScrub (off : Nat) (ecc : Ecc)
  -- pattern memory (07)
  | pmConfig (tag : W16)
  | pmConfigFrameApply
  | pmRegion (tag : W16)
  | pmWfclr (tag : W16)
  | pmVerify (tag : W16) (src : HostRead) (dr : DramFind)
  | atticFetchComplete (item : FetchItem) (spare : Bool) (dr : DramFind)
  | hostsrcReadComplete (item : FetchItem) (spare : Bool) (src : HostRead)
  | dramScrub (addr : Nat) (ecc : Ecc)
  | bar2Write (addr : Nat) (bytes : List Byte) (poisoned : Bool)
  | bar2WriteApply (ecc : Ecc)
  | bar2Read (addr : Nat) (len : Nat) (dr : DramFind)
  -- cellar (10)
  | cellarGranuleWrite
  | cellarReadbackComplete (ecc : Ecc)
  | clCntSnap
  | clConfig (tag : W16)
  -- capture stream (11)
  | comparatorCrossing (p : Pin) (th : Threshold) (at_ : Nat) (rise : Bool) (tiuUE : Option Glove)
  | triggerSpanTimeout (p : Pin)
  | triggerHitDelivery
  | rawSample (p : Pin)
  | unitPlace (pset : Fin 16)
  | frameFlushExpiry (pset : Fin 16)
  | frameSend
  | stagingWrite
  | stagingReadComplete (dr : DramFind)
  | streamIrqTimer
  | csConsWrite (v : W64)
  | csOpen (tag : W16)
  | csClose (req : CloseReq)
  -- time-interval units (12)
  | tgateAct
  | gateInEdge (line : Fin 4) (rise : Bool)
  | evtInEdge (line : Fin 4) (rise : Bool)
  | tiuGateReady (g : Glove) (r1 r2 : Nat)
  | tiuShotOverflow (g : Glove)
  | tiConfig (tag : W16)
  | tiClear (tag : W16)
  | tiRead (tag : W16)
  | tiSnap (mask : W64)
  -- margin outputs (13)
  | mxUpdate (larderUE : Option (Chan × Nat))
  | mxJumpRequest (ch : Chan) (src : JumpSrc)
  | mxSegmentRead (ch : Chan) (addr : Nat) (ecc : Ecc)
  | sineBlockWrite (off : Nat) (bytes : List (Option Byte))
  | mxConfig (tag : W16)
  | mxSegtab (tag : W16)
  | mxLoad (tag : W16) (src : HostRead) (dr : DramFind)
  | mxStart (tag : W16)
  | mxJump (tag : W16)
  | mxStop (tag : W16)
  -- ensembles (14)
  | ensForm (tag : W16)
  | ensFormTimeout
  | ensBreak (tag : W16)
  | ensExpect (tag : W16)
  | ensTmark (tag : W16)
  | tmarkSend
  | timeMarkEvent
  | portTrainingDone (port : Port) (result : Training)
  | hargoControlSlot (port : Port) (slot : CtlSlot)
  | linkBlockLockLost (port : Port)
  | syncProbeSend
  | syncProbe (time : Nat)
  | refclkCountCheck (count : Nat)
  | contribBurst
  | resultBurst
  | armBurst
  | armBurstAtime
  | goBurst
  | goBurstAtime
  | haltBurst
  | haltBurstParkAtime
  | haltreqBurst
  | discordBurst
  | tmarkBurst
  | joinMessage (port : Port) (member : Nat) (ensId : W64) (major : W16) (depth : Nat) (way : JoinWay)
  | formedMessage (members : Nat)
  | armCheckRequest
  | armCheckReply (src : Sender) (pass : Bool) (digest : W64) (imageId : W64) (crc : ReplyCrc) (profile : Byte)
      (common : W32)
  | armCheckReplyTimeout
  | armedReport (src : Sender) (idle : Bool)
  | breakMessage
  | mgmtRetransmitTimeout (port : Port)
  -- rings and mirror (15)
  | hiCmdDb (v : W32)
  | commandFetch (entry : List Byte)
  | commandStart (src : HostRead)
  | completionWrite
  | completionIrqTimer
  | hiCplHead (v : W32)
  | hiCmdSize (v : W32)
  | hiCplSize (v : W32)
  | hiNop (tag : W16)
  | hiInfo (tag : W16)
  | mirrorRefresh
  -- management and power (16)
  | coreWake (cause : Wake)
  | sensorSlotEnd (reading : W16)
  | thermalTrip115 (sensor : Fin 32)
  | thermalTrip125 (sensor : Fin 32)
  | eventLogDrain
  | persistCopy (ok : Bool)
  | diagSnapshot
  | pwrSet (tag : W16)
  | powerStepComplete (ok : Bool)
  | mgRelease (tag : W16)
  | mgLogRead (tag : W16)
  | mgSensors (tag : W16)
  | mgDbgUnlockChallenge (tag : W16)
  | mgDbgUnlockToken (tag : W16)
  | smbReadStatus
  | smbReadSensors
  | smbReadRecord
  | smbPwrSet (target : Byte)
  | smbAlertResponse
  | mgCtrlWrite (v : W32)
  | muxKeeperRelease
  -- update and calibration (17)
  | fwStage (tag : W16) (flashOk : Bool)
  | fwCommit (tag : W16) (flashOk : Bool)
  | fwActivate (tag : W16) (flashOk : Bool)
  | fwInfo (tag : W16)
  | calSave (tag : W16)
  | calLoad (tag : W16) (src : HostRead) (flashOk : Bool)
  | calCheck (tag : W16) (dev : List Int)
  | localEntryResolution
  | axrasStart (busMaster : Bool)
  | dataSlotAcknowledgement (ack : SlotAck)
deriving DecidableEq, Repr

end Sys2Proof
end

