-- ==== Sys2Proof/Config.lean ====
section
/-! DEFINITION. The free values: what spec/ leaves open after an action that goes on. Each is an opaque constant, applied to
the model's own counter `freeCtr` or to the operands it depends on; nothing in Lean can evaluate it (log 3). -/

namespace Sys2Proof

/-- A free truth value: the outcome of "may or may not" (R128, R273, R94). -/
opaque Config.freeBool : Nat → Bool
/-- A free byte: contents that spec/ calls undefined (R165, R231), a random challenge (R423). -/
opaque Config.freeByte : Nat → Byte
/-- A free word of the sequence store after a failed `SQ_LOAD` (R231), by load serial and word address. -/
opaque Config.freeStoreWord : Nat → Nat → BitVec 128
/-- Whether an ECDSA P-384 signature verifies (R428, R441, R423): key 0 firmware, 1 calibration, 2 debug; the signed bytes;
the signature bytes. spec/ does not give the keys, so which signatures verify is open. -/
opaque Config.sigValid : Nat → List Byte → List Byte → Bool
/-- The 16-tap interpolation filter of R329 at a phase from 1 to 1023, over the 16 samples of the stream, oldest first:
spec/ states its value at phase 0 only. -/
opaque Config.interp : Nat → List Nat → Int
/-- A byte of device DRAM whose contents are undefined (R165): by the serial of the power-up and the device address. -/
opaque Config.freeDram : Nat → Nat → Byte
/-- What a DRAM slot carries beyond 57,600 bytes (R168): refresh and turnaround take at most 10 % of each slot, by slot number. -/
opaque Config.slotExtra : Nat → Nat
/-- What is read as a pin's compare result where it is undefined (R469): by free counter and pin. -/
opaque Config.freeResult : Nat → Nat → BitVec 16
/-- A number whose value spec/ does not state: a calibration gain that does not fit its register or a shot value outside the
number range it is kept in (R304, R313). -/
opaque Config.freeWord : Nat → W64
/-- The systematic skew in ticks that the routing matrix leaves from a pin to the TIU of another glove (R301); it acts within the bounds
of Table 12.3. -/
opaque Config.tiuSkew : Nat → Nat → Int
/-- The random jitter in ticks that the routing matrix adds to an event of a pin at the TIU of another glove (R301): by free counter and
TIU; Table 12.3 bounds its rms value only. -/
opaque Config.tiuJitter : Nat → Nat → Int
/-- The observed state of a comparator sampled within 256 ticks of a drive transition (R94), 0 low, 1 mid, 2 high. -/
opaque Config.freeState : Nat → Fin 3

/-- The nominal values in mV of the monitors RM20 to RM23 (Table 16.2): their windows are relative to values that spec/ does not
give (factory values, the always-on regulator, the band-gap output). -/
opaque Config.railNominal : Nat → Nat
/-- The bytes of the nominal trims (R445) in the sections of Table 17.6 after the timing trims, by offset in the body: spec/
gives their meaning and not their layout. -/
opaque Config.nominalTrim : Nat → Byte

end Sys2Proof
end

