-- ==== Sys2Proof/Machine/Bits.lean ====
section
/-! DEFINITION. Bit-field, byte-order and vector helpers: little-endian bytes (R8), two's complement, CRC-32C, SHA-384 and
total maps over fixed-length vectors. -/

namespace Sys2Proof.Machine

open Sys2Proof

/-- The value of little-endian bytes (R8). -/
def leNat : List Byte → Nat
  | [] => 0
  | b :: r => b.toNat + 256 * leNat r

/-- The low `n` bytes of a value, little-endian (R8). -/
def leBytes : Nat → Nat → List Byte
  | 0, _ => []
  | n + 1, v => BitVec.ofNat 8 v :: leBytes n (v / 256)

/-- The value of big-endian bytes. -/
def beNat (l : List Byte) : Nat := leNat l.reverse

/-- Bits `[hi:lo]` of a value. -/
def fld (v hi lo : Nat) : Nat := v / 2 ^ lo % 2 ^ (hi + 1 - lo)

/-- Bit `i` of a value. -/
def bitAt (v i : Nat) : Bool := v.testBit i

/-- 1 for true. -/
def b2n (b : Bool) : Nat := if b then 1 else 0

/-- A value of fields: each field's value at its lowest bit. -/
def pack (l : List (Nat × Nat)) : Nat := l.foldl (fun n f => n + f.1 * 2 ^ f.2) 0

/-- A single-bit field. -/
def bit (b : Bool) (i : Nat) : Nat × Nat := (b2n b, i)

/-- The two's-complement value of the low `w` bits. -/
def sgn (w v : Nat) : Int :=
  if v % 2 ^ w < 2 ^ (w - 1) then (v % 2 ^ w : Nat) else ((v % 2 ^ w : Nat) : Int) - (2 ^ w : Nat)

/-- The low `w` bits of an integer in two's complement. -/
def unsgn (w : Nat) (i : Int) : Nat := (i % (2 ^ w : Nat)).toNat

/-- One more, saturating at `m`. -/
def satSucc (m v : Nat) : Nat := min m (v + 1)

/-- The least multiple of `m` at or above `v`. -/
def ceilTo (m v : Nat) : Nat := (v + m - 1) / m * m

/-- `n` bytes from offset `o`. -/
def slice (l : List Byte) (o n : Nat) : List Byte := (l.drop o).take n

/-- The little-endian field of `n` bytes at offset `o`. -/
def fieldAt (l : List Byte) (o n : Nat) : Nat := leNat (slice l o n)

/-- All bytes are zero. -/
def allZero (l : List Byte) : Bool := l.all (· == 0)

/-- `n` zero bytes. -/
def zeros (n : Nat) : List Byte := List.replicate n 0

/-- The bytes of a list, padded with zeros or cut to length `n`. -/
def padTo (n : Nat) (l : List Byte) : List Byte := l.take n ++ zeros (n - l.length)

/-- A function on every element of a vector. -/
def vmap {α β : Type} {n : Nat} (f : α → β) (v : Vector α n) : Vector β n :=
  ⟨(v.toList.map f).toArray, by simp⟩

/-- A function of index and element on every element of a vector. -/
def vmapIdx {α β : Type} {n : Nat} (f : Fin n → α → β) (v : Vector α n) : Vector β n :=
  ⟨(List.zipWith f (List.finRange n) v.toList).toArray, by simp⟩

/-- One element of a vector changed. -/
def vupd {α : Type} {n : Nat} (v : Vector α n) (i : Fin n) (f : α → α) : Vector α n := v.set i.val (f v[i]) i.isLt

/-- One element of a vector replaced. -/
def vset {α : Type} {n : Nat} (v : Vector α n) (i : Fin n) (x : α) : Vector α n := v.set i.val x i.isLt

/-- The bits of a mask, as the indices below `n` that are set, ascending. -/
def maskBits (n m : Nat) : List (Fin n) := (List.finRange n).filter fun i => m.testBit i.val

/-- The mask whose bit `i` is `f i`. -/
def maskOf (n : Nat) (f : Fin n → Bool) : Nat :=
  (List.finRange n).foldl (fun m i => if f i then m + 2 ^ i.val else m) 0

/-- Bits of a vector as a mask, bit i from element i. -/
def bitsOf {n : Nat} (v : Vector Bool n) : Nat := maskOf n fun i => v[i]

/-- The first element that satisfies a test, with its index counted from `i`. -/
def firstIdx {α : Type} (p : α → Bool) : Nat → List α → Option (Nat × α)
  | _, [] => none
  | i, x :: r => if p x then some (i, x) else firstIdx p (i + 1) r

/-- One bit of the reflected CRC-32C division. -/
def crcBit (c : W32) : W32 := if c.getLsbD 0 then (c >>> 1) ^^^ 0x82F63B78 else c >>> 1

/-- One byte of CRC-32C. -/
def crcByte (c : W32) (b : Byte) : W32 :=
  let c0 := c ^^^ b.setWidth 32
  crcBit (crcBit (crcBit (crcBit (crcBit (crcBit (crcBit (crcBit c0)))))))

/-- CRC-32C of a byte string (R226, R342, R393). -/
def crc32c (l : List Byte) : W32 := ~~~ (l.foldl crcByte 0xFFFFFFFF)

/-- The primes below 410, the first 80 there are: SHA-384 takes its constants from them. -/
def shaPrimes : List Nat :=
  (List.range 410).filter fun n => decide (2 ≤ n) && (List.range 21).all fun d => decide (d < 2 ∨ n ≤ d ∨ n % d ≠ 0)

/-- The largest number below `2 ^ n`, above what `r` holds, whose `k`-th power is at most `x`, found bit by bit. -/
def rootBelow (k x : Nat) : Nat → Nat → Nat
  | 0, r => r
  | n + 1, r => rootBelow k x n (if (r + 2 ^ n) ^ k ≤ x then r + 2 ^ n else r)

/-- The first 64 bits of the fraction of a prime's `k`-th root. -/
def rootFrac (k p : Nat) : W64 := BitVec.ofNat 64 (rootBelow k (p * 2 ^ (64 * k)) 69 0)

/-- The round constants of SHA-384: of the cube roots. -/
def shaK : List W64 := shaPrimes.map (rootFrac 3)

/-- Its starting hash value: of the square roots of the ninth to the sixteenth prime. -/
def shaInit : List W64 := ((shaPrimes.drop 8).take 8).map (rootFrac 2)

/-- The message schedule of SHA-384 grown by `n` words; the list holds the newest word first. -/
def shaSched : Nat → List W64 → List W64
  | 0, w => w
  | n + 1, w =>
    let w2 := w.getD 1 0
    let w7 := w.getD 6 0
    let w15 := w.getD 14 0
    let w16 := w.getD 15 0
    let s0 := (w15.rotateRight 1) ^^^ (w15.rotateRight 8) ^^^ (w15 >>> 7)
    let s1 := (w2.rotateRight 19) ^^^ (w2.rotateRight 61) ^^^ (w2 >>> 6)
    shaSched n ((w16 + s0 + w7 + s1) :: w)

/-- One round of SHA-384 over the eight working words. -/
def shaRound (h : List W64) (kw : W64) : List W64 :=
  match h with
  | [a, b, c, d, e, f, g, hh] =>
    let s1 := (e.rotateRight 14) ^^^ (e.rotateRight 18) ^^^ (e.rotateRight 41)
    let ch := (e &&& f) ^^^ (~~~ e &&& g)
    let t1 := hh + s1 + ch + kw
    let s0 := (a.rotateRight 28) ^^^ (a.rotateRight 34) ^^^ (a.rotateRight 39)
    let mj := (a &&& b) ^^^ (a &&& c) ^^^ (b &&& c)
    [t1 + s0 + mj, a, b, c, d + t1, e, f, g]
  | _ => h

/-- One 128-byte block of SHA-384. -/
def shaBlock (h : List W64) (blk : List Byte) : List W64 :=
  let w0 := (List.range 16).map fun i => BitVec.ofNat 64 (beNat (slice blk (8 * i) 8))
  let w := (shaSched 64 w0.reverse).reverse
  let r := (List.zipWith (· + ·) shaK w).foldl shaRound h
  List.zipWith (· + ·) h r

/-- SHA-384 of a message that, padded, fits `n` blocks of 128 bytes. -/
def shaBlocks : Nat → List W64 → List Byte → List W64
  | 0, h, _ => h
  | n + 1, h, l => shaBlocks n (shaBlock h (l.take 128)) (l.drop 128)

/-- The first eight bytes of the SHA-384 hash of a message (R357). -/
def sha384Head (m : List Byte) : List Byte :=
  let pad := (m ++ [0x80] : List Byte)
  let k := (pad.length + 16 + 127) / 128
  let full := pad ++ zeros (k * 128 - pad.length - 16) ++ (leBytes 16 (8 * m.length)).reverse
  let h := shaBlocks k shaInit full
  (leBytes 8 (h.getD 0 0).toNat).reverse

end Sys2Proof.Machine
end

