-- ==== Sys2Proof/Machine/State.lean ====
section
/-! DEFINITION. The state of the YC512 as plain data: every register, queue, buffer, counter, mode and pin that spec/
gives it, block by block, each field with the table or rule that names it; the queue of waiting commands; the reset state.
Every field's default value is its value in `State.reset`. Where spec/ states no reset value the default is the one that
log 4 (registers), 5 (memories), 6 (flash and OTP) or 9 (PCIe) names. -/

namespace Sys2Proof.Machine

open Sys2Proof

/-- The phases of a quadrant PLL and its lock guard (R35, R36, R39, R40, Table 2.1). -/
inductive PllPhase where
  | off | acquiring | window | aligning | running
deriving DecidableEq, Repr

/-- The source of the fabric clock (R38, `TB_STAT.FAB_SRC`). -/
inductive FabSrc where
  | edge | safe | backup
deriving DecidableEq, Repr

/-- One item of an event record's data: its size in bytes and its value (R406). -/
structure Item where
  /-- 1, 2, 4 or 8 bytes. -/
  size : Nat
  /-- The value, little-endian in its bytes. -/
  val : Nat
deriving DecidableEq, Repr

/-- An event record (Table 16.5). -/
structure EventRec where
  code : Nat
  sev : Nat
  run : Bool
  evalid : Bool
  persist : Bool := false
  member : Nat
  seq : W64
  epoch : W64
  rtc : Nat
  wrap : W16
  data : List Item
  /-- Issued while `DOUBLE` held (R409). -/
  inDouble : Bool := false
deriving DecidableEq, Repr

/-- The RW1C bits of one block that events have set in a fabric cycle (00 R10): the cycle by its first instant, and the bits at their places
in the block's register. -/
structure Fresh where
  cycle : Nat := 0
  bits : W32 := 0
deriving DecidableEq, Repr

/-- State of the time base (02). Each field names what spec/ names it. -/
structure TB where
  /-- `TB_STAT.REFCLK_OK` (02 Table 2.7, R33, R34). -/
  refclkOk : Bool := false
  /-- `TB_STAT.REFCLK_LOST` (02 Table 2.7, R33). -/
  refclkLost : Bool := false
  /-- a missing-edge detection fell in the present frequency-monitor window (02 R34). -/
  refMiss : Bool := false
  /-- consecutive good monitor windows while `REFCLK` is lost (02 R34). -/
  goodWins : Nat := 0
  /-- last frequency-monitor count (02 R33, Table 2.8). -/
  refCount : Nat := 0
  /-- frequency-monitor windows ended since power-on, which places the grid (02 R468). -/
  wins : Nat := 0
  /-- time at which the acquisition in progress or last made started (02 R40). -/
  acqFrom : Nat := 0
  /-- start of the lock-guard window each quadrant counts (02 R36, R37). -/
  winFrom : Vector Nat 4 := .replicate 4 0
  /-- phase of each quadrant PLL and its guard (02 R35, R36, R39). -/
  pll : Vector PllPhase 4 := .replicate 4 .off
  /-- `TB_STAT.PLL_LOCK` (02 Table 2.7). -/
  lockDet : Vector Bool 4 := .replicate 4 false
  /-- `TB_STAT.LOCK_LOST` (02 Table 2.7, R37). -/
  lockLost : Vector Bool 4 := .replicate 4 false
  /-- `TB_STAT.GUARD_OPEN` (02 Table 2.7, R35). -/
  guardOpen : Vector Bool 4 := .replicate 4 false
  /-- the RW1C bits that stood set when the present fabric cycle began and that no write of it has cleared, for the twelve registers of `w1cRegs` (00 R10). -/
  sticky : Vector W32 12 := .replicate 12 0
  /-- the guard of the quadrant closed for a reason of its own (R37, R40): its PLL stays stopped until P2 and then P1 (02 R39). -/
  barred : Vector Bool 4 := .replicate 4 false
  /-- last edge-clock count of each quadrant (02 R36, Table 2.8). -/
  qCount : Vector Nat 4 := .replicate 4 0
  /-- quadrant phase offset in 1/256 tick (02 R35). -/
  phi : Vector Int 4 := .replicate 4 0
  /-- `TB_STAT.FAB_SRC` (02 Table 2.7, R38). -/
  fabSrc : FabSrc := .backup
  /-- `TB_STAT.EPOCH_VALID` (02 Table 2.7, R42). -/
  epochValid : Bool := false
  /-- `TB_STAT.EPOCH_WRAPPED` (02 Table 2.7, R44). -/
  epochWrapped : Bool := false
  /-- the epoch counter in ticks (02 R41 to R44). -/
  epoch : W64 := 0
  /-- the wrap count (02 R44). -/
  wraps : W16 := 0
  /-- `TB_EPOCH_HI` as latched (02 Table 2.3, R46). -/
  hiLatch : W32 := 0
  /-- `TB_EPOCH_WRAP` as latched (02 Table 2.4, R46). -/
  wrapLatch : W16 := 0
  /-- ticks of ideal time since `VAUX` power-up; `MG_RTC` is its count of AON cycles (250,000,000 ticks each) (02 R25, R468; 16 Table 16.15). -/
  now : Nat := 0
  /-- the block's RW1C bits set in the present fabric cycle (00 R10). -/
  fresh : Fresh := {}
deriving DecidableEq, Repr

/-- The front-end control fields of Table 5.6 that a level tick carries from staged to active. -/
structure FeCtl where
  func : BitVec 3 := 0
  term : BitVec 2 := 0
  hyst : BitVec 2 := 0
  mode : BitVec 2 := 0
  range : BitVec 3 := 0
  glitch : BitVec 6 := 0
  slewStep : BitVec 12 := 0
  slewRate : BitVec 16 := 0
deriving DecidableEq, Repr

/-- One level DAC of a pin (R105 to R112, R129). -/
structure Dac where
  /-- Staged code (R107). -/
  staged : W16 := 0
  /-- Staged code as it stood before the present cycle's writes (R108). -/
  old : W16 := 0
  /-- Requested code (R106). -/
  req : W16 := 0
  /-- Active code (R106). -/
  act : W16 := 0
  /-- The service context wrote the staged code at this time (R107). -/
  svcAt : Option Nat := none
  /-- Code at the output. -/
  out : W16 := 0x1746
  /-- Park code (R129). -/
  park : W16 := 0x1746
  /-- The 10 ns deglitcher hold is running: its end in ideal time (R111, R112). -/
  hold : Option Nat := none
  /-- The slew limiter is stepping: the time of its next step (R111, R112). -/
  slew : Option Nat := none
deriving DecidableEq, Repr

/-- The action of a placed edge (Tables 4.3, 4.4, 4.7). `strobe` and `open_`/`close` are E4 and E5. -/
inductive EdgeAct where
  | enable (v : Bool) | enableData (d : Bool) | data (d : Bool) | strobe | open_ | close
deriving DecidableEq, Repr

/-- An edge the formatter has placed and its generator has not fired yet (R63 to R65). -/
structure PEdge where
  pin : Pin
  /-- Edge number 0 to 5. -/
  e : Nat
  /-- UI number, 0 for a standard symbol. -/
  ui : Nat
  /-- Emission number of the vector, idle vectors counted (R62). -/
  n : Nat
  /-- Vector index, or for an idle vector the index the next vector takes (R79). -/
  idx : Nat
  idle : Bool
  /-- Programmed time in extended epoch ticks (R63, R64). -/
  prog : Nat
  /-- Land time in extended epoch ticks (R65). -/
  land : Nat
  act : EdgeAct
  /-- Expect code of a compare (Table 4.6). -/
  exp : Nat := 0
  /-- The vector is a burst vector on this pin (Table 4.8 form). -/
  burst : Bool := false
  /-- R70 has dropped it. -/
  dropped : Bool := false
deriving DecidableEq, Repr

/-- A physical firing (R72): edge, clock cycle, phase and tap. -/
structure Fired where
  e : Nat
  land : Nat
  cycle : Int
  phase : Int
  tap : Nat
deriving DecidableEq, Repr

/-- A window compare in progress on a pin (R95). -/
structure Win where
  n : Nat
  ui : Nat
  /-- Index of its vector. -/
  idx : Nat := 0
  exp : Nat
  burst : Bool
  /-- Observed state code at E4. -/
  first : Nat
  /-- First failing state seen. -/
  bad : Option Nat := none
  /-- The failing state of the excursion that runs, and since when the state has been failing (R95). -/
  tent : Option (Nat × Nat) := none
deriving DecidableEq, Repr

/-- The trigger classifier of a pin (Table 11.3): the stamps that open its spans. -/
structure Cls where
  chiUp : Option Int := none
  cloDn : Option Int := none
  runtLo : Option Int := none
  runtHi : Option Int := none
  slewR : Option Int := none
  slewF : Option Int := none
  /-- Long-width hit already given for the open high or low pulse. -/
  longHi : Bool := false
  longLo : Bool := false
  /-- Start of the quiet interval of the timeout class. -/
  quiet : Int := 0
  /-- The timeout hit of this quiet interval was given. -/
  quietHit : Bool := false
  /-- Commit cycle of the trigger parameters in force (R277). -/
  from_ : Int := 0
deriving DecidableEq, Repr

/-- State of the one pin: formatter, generators, front end, comparator, stamper (03, 04, 05, 11); 512 of them. Each field names what spec/ names it. -/
structure PinSt where
  /-- formatter drive enable (04 R87, R131). -/
  en : Bool := false
  /-- formatter data register (04 R87). -/
  dat : Bool := false
  /-- land time of the last drive edge not dropped (03 R68). -/
  lastDrive : Option Nat := none
  /-- land time of the last drive transition of the line (04 R94). -/
  lastTrans : Option Nat := none
  /-- that transition went from level to level, with the driver enabled before and after it (04 R94). -/
  swing : Bool := false
  /-- land time of the last firing of each generator (03 R67). -/
  lastFire : Vector (Option Nat) 6 := .replicate 6 none
  /-- the physical edge last fired (03 R72). -/
  fired : Option Fired := none
  /-- comparator output above `CHI` (04 R92; 05 R116). -/
  hi : Bool := false
  /-- comparator output below `CLO` (04 R92; 05 R116). -/
  lo : Bool := false
  /-- window compare in progress (04 R95). -/
  win : Option Win := none
  /-- land time of the E5 of the last window (03 R69). -/
  lastE5 : Option Nat := none
  /-- observed states that ended within 160 ticks, newest first: state and the epoch tick of its end (04 R95). -/
  past : List (Nat × Nat) := []
  /-- window just closed while an excursion younger than 160 ticks went on (04 R95). -/
  late : Option Win := none
  /-- the six level DACs (05 R105 to R112, R129). -/
  dacs : Vector Dac 6 := ⟨#[{act := 0x1746}, {act := 0x1746}, {}, {}, {act := 0x1746}, {}], rfl⟩
  /-- active front-end control fields (05 Table 5.6, R118). -/
  ctl : FeCtl := {}
  /-- staged front-end control fields (05 R119, R121, R124). -/
  stg : FeCtl := {}
  /-- staged fields as they stood before the present cycle's writes (05 R108). -/
  old : FeCtl := {}
  /-- time of the last staged write (05 R108). -/
  stgAt : Nat := 0
  /-- the pin's function is enabled (05 R119, R131). -/
  enabled : Bool := false
  /-- time at which the pending function enable is due (05 R119, R120, R131). -/
  enableAt : Option Nat := none
  /-- time at which the function was last enabled (08 R221). -/
  enabledAt : Nat := 0
  /-- epoch at which the last function-change tick fell (04 R91). -/
  tickCyc : Option Nat := none
  /-- park termination setting in force (05 R129). -/
  parkTerm : BitVec 2 := 0
  /-- the earlier PPMU range while a make-before-break overlap runs (05 R124). -/
  rangeFrom : Option (BitVec 3) := none
  /-- time at which that overlap ends (05 R124). -/
  rangeEnd : Nat := 0
  /-- the force value the stage holds through the overlap: its code, the range and the mode it was set in (05 R124). -/
  rangeForce : W16 := 0
  /-- as above (05 R124). -/
  rangeHeld : BitVec 3 := 0
  /-- as above (05 R124). -/
  rangeMode : BitVec 2 := 0
  /-- time of the last tick that changed the function, `FRC`, mode or range (05 R126). -/
  ppmuTick : Nat := 0
  /-- trigger classifier (11 R276). -/
  cls : Cls := {}
  /-- stamps in the per-pin queue when last reckoned (11 R274). -/
  qLevel : Nat := 0
  /-- time of that reckoning (11 R274). -/
  qAt : Nat := 0
deriving DecidableEq, Repr

/-- A measurement request at a glove ADC (R19, R126). -/
structure MeasReq where
  /-- `none` for the service context, else the tag of the mailbox command. -/
  src : Option W16
  pin : Pin
  settle : Nat
  log2n : Nat
  /-- Time of arrival at the glove (R19). -/
  arrived : Nat
deriving DecidableEq, Repr

/-- Where a measurement stands (R126). -/
inductive MeasPhase where
  | mux | settle | conv
deriving DecidableEq, Repr

/-- The measurement a glove ADC is making (R126). -/
structure Meas where
  req : MeasReq
  phase : MeasPhase := .mux
  /-- End of step 1; from the first conversion on, the start of the conversions. -/
  muxEnd : Nat := 0
  n : Nat := 0
  sum : Int := 0
  overR : Bool := false
  clamp : Bool := false
deriving DecidableEq, Repr

/-- One PPMU ADC. -/
structure Adc where
  queue : List MeasReq := []
  cur : Option Meas := none
deriving DecidableEq, Repr

/-- State of the pin front end, shared part (05). Each field names what spec/ names it. -/
structure PF where
  /-- the glove ADCs and their request queues (05 R19, R126; 01 Table 1.2). -/
  adcs : Vector Adc 64 := .replicate 64 {}
  /-- `VIO_CODE` of each bank (05 R106, Table 5.9). -/
  vio : Vector W16 8 := .replicate 8 0
  /-- level-timer period in fabric cycles (05 R109, Table 5.9). -/
  timer : W32 := 0
  /-- level ticks scheduled, by epoch (05 R109). -/
  ticks : List Nat := []
  /-- the bank's pins are left parked: its supply was outside 0.9 to 1.8 V at the last release or has left that range since (01 R21). -/
  bankPark : Vector Bool 8 := .replicate 8 true
  /-- last measured `VIO_Bb` in mV (05 Table 5.7 check 4; 16 Table 16.2). -/
  bankMv : Vector Nat 8 := .replicate 8 0
  /-- `PF_STAT.CLAMP` (05 Table 5.8). -/
  clamp : Bool := false
  /-- `PF_STAT.PPMU_CLAMP` (05 Table 5.8). -/
  ppmuClamp : Bool := false
  /-- `PF_STAT.PARKED`: the park state holds (05 Table 5.8, R127). -/
  parked : Bool := true
  /-- level of the `PARK_N` land (05 R128, R133). -/
  parkN : Bool := false
  /-- times the park path has acted (05 R130). -/
  parkActs : Nat := 0
  /-- the block's RW1C bits set in the present fabric cycle (00 R10). -/
  fresh : Fresh := {}
deriving DecidableEq, Repr

/-- State of the timing generators, shared part (03). Each field names what spec/ names it. -/
structure TG where
  /-- edges placed and not yet fired (03 R63 to R70). -/
  edges : List PEdge := []
  /-- `TG_DROP_CNT` (03 Table 3.8). -/
  dropCnt : Nat := 0
  /-- `TG_DROP_FIRST` (03 Table 3.9). -/
  dropFirst : W32 := 0
  /-- generators marked invalid (03 R81). -/
  bad : List (Pin × Fin 6) := []
deriving DecidableEq, Repr

/-- State of the pin table and store room (06). Each field names what spec/ names it. -/
structure PT where
  /-- `PT_STAT.BOUND` (06 Table 6.9, R148). -/
  bound : Bool := false
  /-- `PT_STAT.STALE` (06 Table 6.9, R149). -/
  stale : Bool := false
  /-- `PT_STAT.HOSTMEM` (06 Table 6.9). -/
  hostMem : Bool := false
  /-- `PT_STAT.ECC_CE` (06 Table 6.9). -/
  eccCe : Nat := 0
  /-- store-room offsets of the damaged words (06 R149). -/
  staleAt : List Nat := []
  /-- bound base address (06 R145). -/
  base : W64 := 0
  /-- the store room with the device section, as the table image of R140 (06 R140 to R142, R146). -/
  room : Mem := []
  /-- store-room shadow in device DRAM (06 R147). -/
  shadow : Mem := []
  /-- the shadow is valid (06 R148). -/
  shadowOk : Bool := false
  /-- `PT_CRC` (06 Table 6.10). -/
  crc : W32 := 0
  /-- bytes of device DRAM that a BAR2 write has changed while a bind or refresh executes: tag of the command, address, byte before (the model's own field) (06 R154). -/
  mixed : List (W16 × Nat × Byte) := []
deriving DecidableEq, Repr

/-- The access classes of DRAM slots (Tables 1.4, 7.3). -/
inductive SlotClass where
  | pattern | cellar | stream | host | maint
deriving DecidableEq, Repr

/-- A region-map entry in use (Table 7.1). -/
structure Region where
  base : Nat := 0
  /-- In MB. -/
  size : Nat := 0
  /-- Table 7.2; 0 is `UNUSED`. -/
  typ : Nat := 0
  host : Nat := 0
deriving DecidableEq, Repr

/-- A BAR2 write received and not yet applied (R378). -/
structure Bar2Req where
  addr : Nat
  bytes : List Byte
  poisoned : Bool
deriving DecidableEq, Repr

/-- A fetched item in the attic (R179, R180): what it is, its bytes, its shelf and whether it is poisoned. -/
structure Shelf where
  item : FetchItem
  bytes : List Byte
  spare : Bool
  ue : Bool
  /-- It came from a `HOSTSRC` region. -/
  host : Bool
  /-- The address that could not be corrected (R189). -/
  bad : Nat := 0
  /-- A lane block of which some UI have been consumed (R175). -/
  part : Bool := false
deriving DecidableEq, Repr

/-- A starvation episode in progress (R187, R188). -/
structure Episode where
  cause : Nat
  pin : Nat
  idles : Nat
  /-- Index of the due vector. -/
  idx : Nat := 0
deriving DecidableEq, Repr

/-- State of the pattern memory (07). Each field names what spec/ names it. -/
structure PM where
  /-- device DRAM by device address (07 R161). -/
  dram : Mem := []
  /-- the region map (07 R164, R165). -/
  regions : Vector Region 16 := .replicate 16 {}
  /-- `PM_STAT.PROFILE` (07 Table 7.9, R169). -/
  profileB : Bool := false
  /-- `PM_STAT.STARVE_ACT`: contain (07 Table 7.9, R169). -/
  starveAct : Bool := false
  /-- `PM_CONFIG` waiting for the frame boundary: tag, profile, action (07 R169). -/
  newCfg : Option (W16 × Bool × Bool) := none
  /-- for each access class the number of the DRAM slot that carries its last transfer, counted from the epoch clear (07 R166, R168). -/
  slotAt : Vector Nat 5 := .replicate 5 0
  /-- bytes that slot carries (07 R168). -/
  slotUsed : Vector Nat 5 := .replicate 5 0
  /-- serial of the DRAM contents that are undefined since DRAM was last powered (the model's own field) (07 R165). -/
  dramFree : Option Nat := none
  /-- ranges of device DRAM written since then: address, length (the model's own field) (07 R165). -/
  dramKnown : List (Nat × Nat) := []
  /-- `PM_STARVE_CNT` (07 Table 7.10). -/
  starveCnt : Nat := 0
  /-- `PM_STARVE_FIRST` (07 Table 7.11). -/
  starveFirst : W64 := 0
  /-- `PM_WFAULT` (07 Table 7.12). -/
  wfault : Nat := 0
  /-- `PM_WFAULT_ADDR` (07 Table 7.13). -/
  wfaultAddr : W64 := 0
  /-- address and length of every write dropped since the last clear (06 R156; 07 R191). -/
  wranges : List (Nat × Nat) := []
  /-- `PM_REGFAULT` (07 Table 7.14). -/
  regfault : BitVec 16 := 0
  /-- `PM_ECC.CE` (07 Table 7.15). -/
  eccCe : Nat := 0
  /-- `PM_ECC.UE` (07 Table 7.15). -/
  eccUe : Nat := 0
  /-- `PM_STAT.STARVED` (07 Table 7.9). -/
  starved : Bool := false
  /-- `PM_STAT.ECC_UE` (07 Table 7.9). -/
  ueFlag : Bool := false
  /-- starvation episode in progress (07 R187). -/
  episode : Option Episode := none
  /-- starvation episodes in the run (07 R188). -/
  episodes : Nat := 0
  /-- BAR2 writes received and not yet applied (07 R190; 15 R378). -/
  bar2 : List Bar2Req := []
  /-- attic shelves and header queue (07 R179 to R182). -/
  shelf : List Shelf := []
  /-- lane cursor of each pin, as the UI number counted from device address 0 (07 R175, R176). -/
  cursors : Vector (Option Nat) 512 := .replicate 512 none
  /-- the block's RW1C bits set in the present fabric cycle (00 R10). -/
  fresh : Fresh := {}
deriving DecidableEq, Repr

/-- Requests attached to a carrier (R205, R206). -/
structure Reqs where
  ltk : Bool := false
  mark : Option Nat := none
  /-- TIU masks to open and to close. -/
  topen : W64 := 0
  tclose : W64 := 0
  /-- Margin jumps: channel, segment, immediate. -/
  mxj : List (Chan × Nat × Bool) := []
  sites : W64 := 0
  /-- Event outputs: line, action, width. -/
  evt : List (Fin 4 × Nat × Nat) := []
deriving DecidableEq, Repr

/-- What the vector context is emitting (R203, R212). -/
inductive CurKind where
  | vec | rpt | wait (cond : Nat) (sense : Bool) (deadline : Nat) (ttarget : Nat) (stay : Bool)
deriving DecidableEq, Repr

/-- The `VEC`, `RPT` or `WAIT` word that supplies the vectors (R203, R212). -/
structure Cur where
  kind : CurKind
  /-- Its word address. -/
  word : Nat
  /-- Device address of the next vector. -/
  addr : Nat
  /-- Vectors still to emit; unused by a `WAIT`. -/
  left : Nat
  /-- Vectors emitted by this word. -/
  done : Nat := 0
  /-- Lane descriptor to load before the first vector (R204). -/
  desc : Option Nat := none
  /-- Index of the first repetition of a `WAIT` (R213). -/
  idx0 : Nat := 0
deriving DecidableEq, Repr

/-- A checkpoint of the vector context (R209). -/
structure Check where
  pc : Nat
  /-- The wait to return to in stay mode, for a go `WAIT` (R212). -/
  cur : Option Cur
  loops : Vector Nat 8
  reqs : Reqs
  vindex : Nat
  cursors : Vector (Option Nat) 512
  retired : W64
  gserial : Nat
deriving DecidableEq, Repr

/-- The subject vector of a condition (R210, R237, R238). -/
structure Subj where
  n : Nat
  idx : Nat
  start : Nat
  period : Nat
  /-- Vectors counted by R246 up to and including it. -/
  cnt : Nat := 0
  /-- Sites retired before it on its path (R235). -/
  retired : W64 := 0
deriving DecidableEq, Repr

/-- A condition decoded and not yet open, or open and unresolved (R209, R239, R240). -/
structure Cond where
  /-- Identity of this opening. -/
  cid : Nat
  /-- Word address of its `BR` or `WAIT`. -/
  word : Nat
  /-- Entry of the condition table. -/
  entry : Nat
  sense : Bool
  /-- The prediction: the branch is taken, or the wait satisfied. -/
  pred : Bool
  /-- It is a stay `WAIT`. -/
  stay : Bool := false
  /-- It is a `WAIT` in go mode. -/
  goWait : Bool := false
  subj : Subj
  check : Check
  /-- Index of the first tail vector, once one is issued. -/
  tail0 : Option Nat := none
  /-- Tail vectors that took an index. -/
  tails : Nat := 0
  /-- Number of its global condition (R249). -/
  gserial : Nat := 0
  /-- Stay `WAIT`: repetitions issued and not yet resolved, in order, and the deadline of R213. -/
  reps : List Subj := []
  deadline : Nat := 0
  /-- Stay `WAIT`: index of its first repetition (R213). -/
  idx0 : Nat := 0
deriving DecidableEq, Repr

/-- A vector issued and not yet released (R15, R62, R242). -/
structure VRec where
  /-- Emission number (R62). -/
  n : Nat
  /-- Its index, or the next vector's index for an idle vector. -/
  idx : Nat
  idle : Bool
  isWait : Bool
  tset : Nat
  start : Nat
  period : Nat
  /-- UI per vector. -/
  nui : Nat
  syms : Vector (BitVec 4) 512
  /-- UI symbols of burst pins. -/
  uis : List (Pin × List (BitVec 2))
  reqs : Reqs
  /-- Conditions open when it was issued (R242). -/
  conds : List Nat
  /-- Sites retired for it (R235, R265). -/
  retired : W64
  /-- It has reached the formatters (R15). -/
  atFm : Bool := false
  /-- Compare results taken so far: pin and word (Table 4.8). -/
  res : List (Pin × W16) := []
  /-- Brims after it or after the next vector, in which no compare is made (R76, R96). -/
  brims : List (Nat × Nat) := []
  /-- Start of the second vector emitted after it, once that is issued (R70). -/
  cut : Option Nat := none
  /-- It stands on a path that a mispredict has discarded: its drive goes on, its results are discarded (R242, R245). -/
  dead : Bool := false
deriving DecidableEq, Repr

/-- A request of a carrier waiting to act at S_c + Λ (R207, R245). -/
structure Act where
  /-- Epoch at which it acts. -/
  due : Nat
  /-- Emission number of the carrier. -/
  n : Nat
  idx : Nat
  conds : List Nat
  reqs : Reqs
deriving DecidableEq, Repr

/-- A blocking service word (Table 8.5). -/
inductive Block where
  | loadw (src dest count : Nat)
  | pmeas (dest : Nat) (pins todo : List Pin) (started : Nat)
  | tiurd (dest : Nat) (bytes : List Byte)
deriving DecidableEq, Repr

/-- The procedure the service context executes (R220). -/
structure Proc where
  entry : Nat
  pc : Nat
  stack : List Nat := []
  block : Option Block := none
  /-- After an `ABORT`: the executing word is the last one run (R214). -/
  last : Bool := false
deriving DecidableEq, Repr

/-- A post held behind older conditions (R219). -/
structure Held where
  entry : Nat
  word : Nat
  full : Bool
  conds : List Nat
deriving DecidableEq, Repr

/-- A condition-table entry (Table 9.1), kept as its four 64-bit words. -/
structure CondEntry where
  w0 : W64 := 0
  w1 : W64 := 0
  w2 : W64 := 0
  w3 : W64 := 0
deriving DecidableEq, Repr

/-- The run states of Table 8.3. -/
inductive RunState where
  | idle | arming | armed | running | draining
deriving DecidableEq, Repr

/-- State of the sequencer (08). Each field names what spec/ names it. -/
structure SQ where
  /-- sequence store: words not all zero, by address (08 R196). -/
  store : List (Nat × BitVec 128) := []
  /-- the store contents are undefined since a failed load (free value) (08 R231). -/
  storeFree : Option Nat := none
  /-- poisoned words (08 R225). -/
  poison : List Nat := []
  /-- target range of the copy in flight: first word, count (08 R224). -/
  underLoad : Option (Nat × Nat) := none
  /-- `SQ_STAT.LOADED` (08 Table 8.13). -/
  loaded : Bool := false
  /-- `SEQ_VER.IMAGE_ID` (08 Table 8.8). -/
  imageId : W64 := 0
  /-- `SEQ_VER.CRC` (08 Table 8.8). -/
  imgCrc : W32 := 0
  /-- `SEQ_VER.WORDS` (08 Table 8.8). -/
  words : Nat := 0
  /-- `ENTRY` of the loaded image (08 Table 8.7). -/
  entry : Nat := 0
  /-- `PROFILE` of the loaded image (08 Table 8.7). -/
  profile : Byte := 0xFF
  /-- condition table (08 R226; 09 R233). -/
  conds : List CondEntry := []
  /-- pin-group table (08 R226). -/
  groups : List (BitVec 512) := []
  /-- service-fault action: contain (08 R231, Table 8.16). -/
  svcContain : Bool := false
  /-- `SQ_STAT.STATE` (08 Table 8.3, Table 8.13). -/
  state : RunState := .idle
  /-- program counter of the vector context (08 R199). -/
  pc : Nat := 0
  /-- loop counters (08 R208). -/
  loops : Vector Nat 8 := .replicate 8 0
  /-- word supplying vectors (08 R203, R212). -/
  cur : Option Cur := none
  /-- pending modifier requests (08 R205). -/
  reqs : Reqs := {}
  /-- `SQ_VINDEX` (08 Table 8.14). -/
  vindex : Nat := 0
  /-- the vector context has stopped (08 R214, R216). -/
  stopped : Bool := true
  /-- `HALT` word waiting for older conditions: its code (08 R216). -/
  haltWait : Option Nat := none
  /-- end cause decided at the stop (08 R229). -/
  stopCause : Nat := 0
  /-- `CODE` of the `HALT` word that stopped the vector context (08 R229). -/
  stopCode : Nat := 0
  /-- `HI_RUNSTAT.GO_HELD` (15 Table 15.4a). -/
  goHeld : Bool := false
  /-- `HI_RUNSTAT.PEND_HALT` (15 Table 15.4a). -/
  pendHalt : Bool := false
  /-- `HI_RUNSTAT.PEND_ABORT` (15 Table 15.4a). -/
  pendAbort : Bool := false
  /-- the pending stop is a stop-on-fail (10 R266). -/
  pendSof : Bool := false
  /-- epoch before which a pending stop does not act (`ATIME` of a `HALT` burst) (14 R355). -/
  pendAt : Nat := 0
  /-- `SQ_STAT.END_CAUSE` (08 Table 8.13). -/
  endCause : Nat := 0
  /-- `SQ_STAT.HALT_CODE` (08 Table 8.13). -/
  haltCode : Nat := 0
  /-- `SQ_FAULT` (08 Table 8.10). -/
  fault : W64 := 0
  /-- `SQ_STAT.SVC_FAULT` (08 Table 8.13). -/
  svcFault : Bool := false
  /-- `SQ_STAT.SVC_LOST` (08 Table 8.13). -/
  svcLost : Bool := false
  /-- `SQ_STAT.OVERLAID` (08 Table 8.13). -/
  overlaid : Bool := false
  /-- `SQ_STAT.ECC_CE` (08 Table 8.13). -/
  eccCe : Nat := 0
  /-- `SQ_CNT.TIMEOUTS` (08 Table 8.15). -/
  timeouts : Nat := 0
  /-- `SQ_CNT.DSTALL` (08 Table 8.15). -/
  dstall : Nat := 0
  /-- idle vectors of the decode-stall episode in progress (08 R218). -/
  stallRun : Nat := 0
  /-- index of its due vector (08 R218). -/
  stallIdx : Nat := 0
  /-- words that the vector context has decoded and not yet executed, 64 at most (08 R217). -/
  decoded : Nat := 0
  /-- fabric cycle up to which decode slots have been reckoned (08 R217). -/
  decAt : Nat := 0
  /-- decode slots used in that cycle (08 R217). -/
  decUsed : Nat := 0
  /-- service queue: entries (08 R219). -/
  svcQueue : List Nat := []
  /-- posts held behind older conditions (08 R219). -/
  held : List Held := []
  /-- service context (08 R220). -/
  proc : Option Proc := none
  /-- emission number of the next vector, idle vectors counted (03 R62). -/
  nEmit : Nat := 0
  /-- the run's start tick S_0 (08 R200; 03 R78). -/
  startTick : Nat := 0
  /-- last vector emitted: timing set, start, period (03 R62). -/
  lastV : Option (Nat × Nat × Nat) := none
  /-- last vector with an index in word order (08 R210). -/
  lastIdx : Option Subj := none
  /-- start of the last vector issued that took an index, wrong-path tail vectors counted (08 R201, R229). -/
  lastTook : Option Nat := none
  /-- words decoded ahead whose check found something else at decode than it would find when they act: address, and the cause found or 0 for none (08 R198, R224). -/
  early : List (Nat × Nat) := []
  /-- symbol of each pin in the previous vector (04 R84). -/
  prevSym : Vector (BitVec 4) 512 := .replicate 512 0
  /-- carrier requests waiting for S_c + Λ (08 R207). -/
  acts : List Act := []
  /-- event codes already issued under a 'first in run' rule, one entry per occurrence (07 R188; 08 R213; 09 R253). -/
  once : List Nat := []
  /-- levels of `EVT_OUT0` to `EVT_OUT3` (08 R207). -/
  evtOut : Vector Bool 4 := .replicate 4 false
  /-- pulse running: end time and level to return to (08 R207). -/
  pulse : Vector (Option (Nat × Bool)) 4 := .replicate 4 none
  /-- the block's RW1C bits set in the present fabric cycle (00 R10). -/
  fresh : Fresh := {}
deriving DecidableEq, Repr

/-- State of the speculation and commit (09). Each field names what spec/ names it. -/
structure SP where
  /-- conditions whose first vector is not yet issued (09 R239). -/
  toOpen : List Cond := []
  /-- unresolved conditions, oldest first (09 R246, Table 9.7). -/
  open_ : List Cond := []
  /-- identity of the next condition (09 R239). -/
  nextCid : Nat := 0
  /-- vectors issued and not yet released, in emission order (09 R242, R244; 01 R15). -/
  inflight : List VRec := []
  /-- released vectors that are still the subject of a condition, or the last one with an index (09 R234, R239). -/
  kept : List VRec := []
  /-- vectors issued since arm that count toward the horizon; `SP_STAT.HORIZON` is what it has gained since the oldest open condition's subject (09 R246). -/
  counted : Nat := 0
  /-- `SP_STAT.CLOAK_CE` (09 Table 9.7). -/
  cloakCe : Nat := 0
  /-- `SP_STAT.CLOAK_UE` (09 Table 9.7). -/
  cloakUe : Bool := false
  /-- `SP_STAT.STALLED` (09 Table 9.7). -/
  stalled : Bool := false
  /-- `SP_STAT.REDIRECTED` (09 Table 9.7). -/
  redirected : Bool := false
  /-- idle vectors of the limit-stall episode in progress (`STALLING` is 1 while not 0) (09 R247). -/
  stallRun : Nat := 0
  /-- index of its due vector (09 R247, R248). -/
  stallIdx : Nat := 0
  /-- its cause: 0 conditions, 1 horizon (09 Table 9.10). -/
  stallCause : Nat := 0
  /-- a redirect waits for the data of its first vector (09 R241). -/
  bubble : Bool := false
  /-- idle vectors of the redirect bubble in progress (09 R241). -/
  bubbleRun : Nat := 0
  /-- `SP_CNT.MISPRED` (09 Table 9.8). -/
  mispred : Nat := 0
  /-- `SP_CNT.RESOLVED` (09 Table 9.8). -/
  resolved : Nat := 0
  /-- `SP_STALL.STALL` (09 Table 9.9). -/
  stall : Nat := 0
  /-- `SP_STALL.BUBBLE` (09 Table 9.9). -/
  bubbles : Nat := 0
  /-- sites retired on the present path (09 R235). -/
  retired : W64 := 0
  /-- number of the next global condition (09 R249). -/
  gserial : Nat := 0
  /-- global results received: number, S_n, `ATIME`, value (09 R249). -/
  gresults : List (Nat × Nat × Nat × Bool) := []
  /-- fabric cycle of the last release (09 R244). -/
  relCyc : Nat := 0
  /-- vectors released in that cycle, 16 at most (09 R244). -/
  relN : Nat := 0
  /-- the block's RW1C bits set in the present fabric cycle (00 R10). -/
  fresh : Fresh := {}
deriving DecidableEq, Repr

/-- State of the cellar (10). Each field names what spec/ names it. -/
structure CL where
  /-- logging mode (10 Table 10.8). -/
  mode : BitVec 2 := 3
  /-- `FULL_ACT`: wrap (10 Table 10.8). -/
  fullAct : Bool := false
  /-- `FRONT_ACT`: contain (10 R269). -/
  frontAct : Bool := false
  /-- stop-on-fail condition (10 R269). -/
  sof : BitVec 2 := 0
  /-- N of modes 1 and 2 (10 R269). -/
  nLimit : Nat := 0
  /-- `SOF_THRESH` (10 R269). -/
  sofThresh : Nat := 0
  /-- `CL_STAT.WIDE_SAT` (10 Table 10.8). -/
  wideSat : Bool := false
  /-- `CL_STAT.PIN_SAT` (10 Table 10.8). -/
  pinSat : Bool := false
  /-- `CL_STAT.SOF_HIT` (10 Table 10.8). -/
  sofHit : Bool := false
  /-- `CL_STAT.RB_ERR` (10 Table 10.8). -/
  rbErr : Bool := false
  /-- `CL_STAT.NDONE` (10 Table 10.8). -/
  nDone : Bool := false
  /-- `CL_STAT.LOST` (10 Table 10.8). -/
  lost : Bool := false
  /-- `CL_STAT.WRAPPED` (10 Table 10.8). -/
  wrapped : Bool := false
  /-- `CL_STAT.FULL` (10 Table 10.8). -/
  full : Bool := false
  /-- logging has stopped for the run (10 R262). -/
  halted : Bool := false
  /-- pin fail counters (10 R255). -/
  pins : Vector Nat 512 := .replicate 512 0
  /-- site fail counters (10 R255). -/
  sites : Vector Nat 64 := .replicate 64 0
  /-- device fail counter (10 R255). -/
  dev : Nat := 0
  /-- appearance counts of mode 2 (10 R259). -/
  appear : Vector Nat 512 := .replicate 512 0
  /-- records built since arm, the next `RSEQ` (10 R259). -/
  built : Nat := 0
  /-- cellar front: record bytes, `RSEQ`, vector index (10 R260). -/
  front : List (List Byte × Nat × Nat) := []
  /-- granules of the front's first record already written (10 R260). -/
  headOut : Nat := 0
  /-- wrap mode waits for the read-back of the oldest header (10 R262). -/
  readNeed : Bool := false
  /-- `CL_PROD` (10 Table 10.9). -/
  prod : Nat := 0
  /-- `CL_OLDEST` (10 Table 10.9). -/
  oldest : Nat := 0
  /-- `CL_LOST.FULL` (10 Table 10.10). -/
  lostFull : Nat := 0
  /-- `CL_LOST.FRONT` (10 Table 10.10). -/
  lostFront : Nat := 0
  /-- `CL_RETIRED` (10 Table 10.11). -/
  retired : W64 := 0
  /-- `CL_SOFVEC` (10 Table 10.11). -/
  sofVec : W64 := 0
  /-- index of the last released vector, for a snapshot (10 R257). -/
  relVec : Option Nat := none
  /-- `CL_PINCNT0` to `CL_PINCNT511` (10 R257). -/
  snapPins : Vector Nat 512 := .replicate 512 0
  /-- `CL_SITECNT0` to `CL_SITECNT63` (10 R257). -/
  snapSites : Vector Nat 64 := .replicate 64 0
  /-- `CL_DEVCNT` (10 R257). -/
  snapDev : Nat := 0
  /-- `CL_SNAPVEC` (10 R257). -/
  snapVec : W64 := 0
  /-- time of the last snapshot (10 R257). -/
  snapAt : Nat := 0
  /-- time of the last release, and the counters before it, for R257 (10 R257). -/
  relAt : Nat := 0
  /-- counters as they stood before the releases of cycle `relAt` (10 R257). -/
  prePins : Vector Nat 512 := .replicate 512 0
  /-- as above (10 R257). -/
  preSites : Vector Nat 64 := .replicate 64 0
  /-- as above (10 R257). -/
  preDev : Nat := 0
  /-- as above (10 R257). -/
  preVec : Option Nat := none
  /-- the block's RW1C bits set in the present fabric cycle (00 R10). -/
  fresh : Fresh := {}
deriving DecidableEq, Repr

/-- A stamp or raw sample waiting for the assembler (R272, R280). -/
structure Datum where
  pin : Pin
  /-- Epoch clears before it. -/
  era : Nat := 0
  /-- Key epoch, a multiple of 64, in epoch ticks. -/
  key : Nat
  raw : Bool
  /-- Crossing kind, or observed state of a raw sample. -/
  val : Nat
deriving DecidableEq, Repr

/-- A mark waiting for the assembler in one pin set (R282, R283). -/
structure Mark where
  pset : Fin 16
  /-- Epoch clears before it. -/
  era : Nat := 0
  key : Nat
  /-- Word0 without `OFF`: type, kind, `PROV` and kind-specific bits. -/
  w0 : W64
  w1 : W64
  /-- A sequence mark: the conditions its carrier still depends on. -/
  conds : List Nat := []
deriving DecidableEq, Repr

/-- A frame: hat-word fields and units (R281, R282). Offsets are already in the units. -/
structure Frame where
  pset : Fin 16
  fseq : Nat := 0
  first : Nat
  /-- Epoch clears before its first unit. -/
  era : Nat := 0
  wrap : W16
  armseq : Nat
  flags : Nat := 0
  units : List (W64 × W64) := []
  marks : Nat := 0
  /-- The marks of the frame, kept for R290 and R292. -/
  kept : List Mark := []
deriving DecidableEq, Repr

/-- What a pin set has lost and its next frame must report first (R291, R292). -/
structure Gap where
  pset : Fin 16
  /-- `FSEQ`, `FIRST_EPOCH` and epoch clears of the first dropped frame. -/
  fseq : Nat
  key : Nat
  era : Nat
  /-- Frames dropped. -/
  frames : Nat
  /-- Marks lost with unreadable frames (R292), and the key of the first. -/
  marks : Nat := 0
  markKey : Nat := 0
deriving DecidableEq, Repr

/-- Marks of a pin set that found the mark queue full (R291): their number, key and epoch clears of the first. -/
structure LostMarks where
  pset : Fin 16
  count : Nat
  key : Nat
  era : Nat
deriving DecidableEq, Repr

/-- A change of a comparator output that its stamper has seen and not yet given on, since a second change in the same step would
take both back (R273). -/
structure PendX where
  pin : Pin
  kind : XKind
  /-- Epoch tick of the change, and the ideal time at which it was seen. -/
  at_ : Nat
  seen : Nat
deriving DecidableEq, Repr

/-- A trigger hit (R276). -/
structure Hit where
  pin : Pin
  cls : TClass
  side : Bool
  value : Nat
  key : Nat
  /-- Epoch at which it reached the condition logic (R278). -/
  at_ : Nat := 0
deriving DecidableEq, Repr

/-- State of the capture stream (11). Each field names what spec/ names it. -/
structure CS where
  /-- `CS_STAT.OPEN` (11 Table 11.10). -/
  open_ : Bool := false
  /-- `CS_STAT.CONS_ERR` (11 Table 11.10). -/
  consErr : Bool := false
  /-- `CS_STAT.STAMP_OVF` (11 Table 11.10). -/
  stampOvf : Bool := false
  /-- `CS_STAT.MARKS_LOST` (11 Table 11.10). -/
  marksLost : Bool := false
  /-- `CS_STAT.DROPPED` (11 Table 11.10). -/
  dropped : Bool := false
  /-- `CS_STAT.STAGE_UE` (11 Table 11.10). -/
  stageUe : Bool := false
  /-- `RING_BASE` (11 Table 11.8). -/
  ringBase : Nat := 0
  /-- `LOG2SIZE` (11 Table 11.8). -/
  log2 : Nat := 20
  /-- `FLUSH` (11 Table 11.8). -/
  flush : Nat := 1
  /-- `IRQ_FRAMES` (11 Table 11.8). -/
  irqFrames : Nat := 0
  /-- `IRQ_VEC` (11 Table 11.8). -/
  irqVec : Nat := 0
  /-- `PROD_WB` (11 Table 11.8). -/
  prodWb : Nat := 0
  /-- `CS_PROD`: byte offset and lap, as offset + lap x 2^48 (11 Table 11.11). -/
  prod : Nat := 0
  /-- `CS_CONS` (11 Table 11.11). -/
  cons : Nat := 0
  /-- `CS_SENT` (11 Table 11.12). -/
  sent : Nat := 0
  /-- `CS_DROP.FRAMES` (11 Table 11.12). -/
  dropFrames : Nat := 0
  /-- `CS_DROP.MARKS` (11 Table 11.12). -/
  dropMarks : Nat := 0
  /-- `CS_STAGED.PEAK` (11 Table 11.12). -/
  stagedPeak : Nat := 0
  /-- `OPENSEQ` (11 R281, R295). -/
  openSeq : Nat := 0
  /-- next `FSEQ` (11 R281). -/
  fseq : Nat := 0
  /-- epoch clears since reset, which order the keys of different epochs (11 R281, R284). -/
  era : Nat := 0
  /-- epoch time of the completion of `CS_OPEN`; 0 once the epoch has been cleared since, `none` while `CS_OPEN` executes (11 R295). -/
  openAt : Option Nat := some 0
  /-- output changes whose step may not be over (11 R273). -/
  pendX : List PendX := []
  /-- stamps and samples waiting to be placed (11 R274, R280). -/
  data : List Datum := []
  /-- mark queue (11 R290, R291). -/
  marks : List Mark := []
  /-- marks lost per pin set (11 R291). -/
  lostMarks : List LostMarks := []
  /-- frames dropped per pin set and not yet reported (11 R291, R292). -/
  gaps : List Gap := []
  /-- epoch-cleared and epoch-wrap marks that wait to begin a frame (11 R284). -/
  begin_ : List Mark := []
  /-- open frame of each pin set (11 R281, R284). -/
  frames : Vector (Option Frame) 16 := .replicate 16 none
  /-- stream staging front (11 R289). -/
  front : List Frame := []
  /-- frames held in the staging region (11 R289). -/
  staged : List Frame := []
  /-- frames ever written to the region since open, which places them (11 R289). -/
  stagedAt : Nat := 0
  /-- frames staged in the present staging episode (11 R290). -/
  episodeN : Nat := 0
  /-- drop episode in progress: pin set, first `FSEQ`, frames (11 R290). -/
  dropRun : Option (Fin 16 × Nat × Nat) := none
  /-- frames sent since the last message (11 R288). -/
  unsig : Nat := 0
  /-- time at which the first unsignalled frame was sent (11 R288). -/
  unsigAt : Nat := 0
  /-- `FSEQ` of the last frame sent (11 R296, Table 11.15). -/
  lastSent : Nat := 0
  /-- event 0x0A06 was issued in this open (11 R290). -/
  lostSaid : Bool := false
  /-- pins whose event 0x0A07 was issued in this open (11 Table 11.15). -/
  ovfSaid : List Pin := []
  /-- hits not yet delivered (11 R276). -/
  hits : List Hit := []
  /-- hits delivered to the `TRIG` conditions of the run (11 R278; 09 R238). -/
  seen : List Hit := []
  /-- raw samples due: pin and land time (11 R280). -/
  raws : List (Pin × Nat) := []
  /-- the block's RW1C bits set in the present fabric cycle (00 R10). -/
  fresh : Fresh := {}
deriving DecidableEq, Repr

/-- TIU statistics (R312). -/
structure Stats where
  count : Nat := 0
  min : Nat := 0
  max : Nat := 0
  sum : Nat := 0
  sumSq : Nat := 0
  first : W64 := 0
  noStop : Nat := 0
  ovr : Nat := 0
deriving DecidableEq, Repr

/-- What a calibration of a time-interval unit gives (R304). -/
structure CalRes where
  calErr : Bool
  gain : W32
  offset : W32
  r1 : Nat
  r2 : Nat
deriving DecidableEq, Repr

/-- A shot of a `GATE_IN` gate that has ended and that a closing edge may still take back (12 R307). -/
structure EndedShot where
  tiu : Glove
  start : Int
  stop : Int
  /-- It ended as an overflow (R302). -/
  overflow : Bool
deriving DecidableEq, Repr

/-- One time-interval unit (R299 to R314). -/
structure Tiu where
  start : W32 := 0
  stop : W32 := 0
  stopN : Nat := 0
  n : Nat := 0
  gate : Nat := 0
  /-- Gate open, ready, and the time its calibration ends (R305). -/
  gopen : Bool := false
  ready : Option Int := none
  calAt : Option Nat := none
  calErr : Bool := false
  gain : W32 := 0
  offset : W32 := 0
  /-- Sums of the 64 counts of each injected interval of the last calibration (R305). -/
  r1 : Nat := 0
  r2 : Nat := 0
  com : Stats := {}
  held : Option Stats := none
  /-- The carrier conditions of a provisional gate (R310). -/
  prov : List Nat := []
  /-- The emission number of the wait repetition that carried it, until that is released (R244). -/
  provN : Option Nat := none
  done : Bool := false
  /-- The shot in progress: start time and qualifying stops seen. -/
  shot : Option (Int × Nat) := none
  lastStop : Option Int := none
  /-- Closed by containment: waits for a new rising edge (R308). -/
  barred : Bool := false
  /-- Events 0x0B02 and 0x0B03 already issued since the last clear (R319). -/
  said : List Nat := []
  /-- Events 0x0B02 and 0x0B03 already issued in this run (R319). -/
  saidRun : List Nat := []
  /-- What the calibration that made a `GATE_IN` gate ready replaced, for a closing edge recorded before the ready epoch (R305, R307). -/
  calWas : Option CalRes := none
deriving DecidableEq, Repr

/-- State of the time-interval units (12). Each field names what spec/ names it. -/
structure TI where
  /-- the TIUs (12 R299 to R314). -/
  units : Vector Tiu 64 := .replicate 64 {}
  /-- `TI_STAT.STATE_UE` (12 Table 12.7). -/
  stateUe : Bool := false
  /-- `TI_STAT.OPEN_IGN` (12 Table 12.7). -/
  openIgn : Bool := false
  /-- `TI_STAT.CALERR` (12 Table 12.7). -/
  calErr : Bool := false
  /-- `TI_STAT.OVR` (12 Table 12.7). -/
  ovr : Bool := false
  /-- `TI_RES` window (12 R315). -/
  window : Mem := []
  /-- levels of `EVT_IN0` to `EVT_IN3` (02 R53; 18 R459). -/
  evtIn : Vector Bool 4 := .replicate 4 false
  /-- levels of `GATE_IN0` to `GATE_IN3` (12 R307; 18 R459). -/
  gateIn : Vector Bool 4 := .replicate 4 false
  /-- rising edges of the run: line, recorded epoch, and the epoch at which it reached the condition logic (02 R53; 09 R238). -/
  evtEpochs : List (Fin 4 × Nat × Nat) := []
  /-- shots of `GATE_IN` gates that have ended and may lie after a closing edge not yet visible (02 R53; 12 R307). -/
  recent : List EndedShot := []
  /-- the block's RW1C bits set in the present fabric cycle (00 R10). -/
  fresh : Fresh := {}
deriving DecidableEq, Repr

/-- A segment-table entry (Table 13.2), as its three words. -/
structure Seg where
  w0 : W64 := 0
  w1 : W64 := 0
  rate : W64 := 0
deriving DecidableEq, Repr

/-- States of a margin channel (Table 13.9). -/
inductive ChState where
  | stopped | playing | dead | holding | sine | parked
deriving DecidableEq, Repr

/-- State of the one margin channel (13); 16 of them. Each field names what spec/ names it. -/
structure MxCh where
  /-- `CLAMP_LO` (13 Table 13.1; 17 Table 17.4). -/
  clampLo : BitVec 18 := 0
  /-- `CLAMP_HI` (13 Table 13.1). -/
  clampHi : BitVec 18 := 0
  /-- `PARK` (13 R333). -/
  park : BitVec 18 := 0
  /-- `SENSE` (13 Table 13.1). -/
  sense : Bool := false
  /-- `ROUTE` (13 Table 13.1). -/
  route : BitVec 4 := 0
  /-- bytes 14 and 15: `TRIG_EN`, `TRIG_MODE`, `TRIG_SEG` (13 Table 13.1). -/
  trig : BitVec 16 := 0
  /-- bytes 16 to 19: trigger source (13 Table 13.1). -/
  trigSrc : W32 := 0
  /-- `RATE0` (13 Table 13.1). -/
  rate0 : W64 := 0
  /-- `MX_CHSTAT.STATE` (13 Table 13.9). -/
  state : ChState := .parked
  /-- `MX_CHSTAT.SEG` (13 Table 13.9). -/
  seg : Nat := 0
  /-- `MX_CHSTAT.PASS` (13 Table 13.9). -/
  pass : Nat := 0
  /-- stream position: sample number in the pass (13 R329). -/
  pos : Nat := 0
  /-- rate in force (13 R329, R330). -/
  rate : W64 := 0
  /-- end-aligned jump latched: it takes effect at the end of the pass (13 Table 13.9, Table 13.3). -/
  pend : Option Nat := none
  /-- end-aligned request waiting or held for the next decision update (13 Table 13.3). -/
  cand : Option Nat := none
  /-- end-aligned jump latched for the end of the pass that comes next, and whether that pass has begun (13 Table 13.3). -/
  next : Option (Nat × Bool) := none
  /-- epoch of the decision update of the pass, once that has passed (13 R331, R332). -/
  decAt : Option Int := none
  /-- immediate jump: dead-time updates left, target, and whether the channel stood stopped (13 Table 13.3). -/
  imm : Option (Nat × Nat × Bool) := none
  /-- the segment has been entered by a command and its sample 0 is not yet output (13 R334). -/
  fresh : Bool := false
  /-- jump requests that have reached the channel and wait for the first update after them: epoch of the cycle, source, target, immediate (13 R331, Table 13.3). -/
  inbox : List (Int × Nat × Nat × Bool) := []
  /-- `MX_STOP` to act at the next update: true = move to `PARK` (13 R334). -/
  stopReq : Option Bool := none
  /-- output code of the last update (13 R320, R333). -/
  code : BitVec 18 := 0
  /-- codes of the last updates with the time at which each one reaches the land, newest first (13 R321). -/
  outs : List (Nat × BitVec 18) := []
  /-- code at the land before those (13 R321). -/
  base : BitVec 18 := 0
  /-- stream samples of the interpolation filter, newest first (13 R329, Table 13.3). -/
  hist : List (BitVec 18) := []
  /-- a code was limited since the last start (13 R322). -/
  clamped : Bool := false
  /-- DRAM read buffer: device address and 64 bytes (13 R327). -/
  buf : List (Nat × List Byte) := []
  /-- sine `EN` (13 Table 13.4). -/
  en : Bool := false
  /-- sine `FTW` in force (13 Table 13.4). -/
  ftw : BitVec 48 := 0
  /-- sine `POFF` in force (13 Table 13.4). -/
  poff : BitVec 48 := 0
  /-- lower half of `FTW` written, waiting for the upper half (13 R335). -/
  ftwLo : W32 := 0
  /-- lower half of `POFF` written, waiting for the upper half (13 R335). -/
  poffLo : W32 := 0
  /-- sine `AMPL` (13 Table 13.4). -/
  ampl : BitVec 18 := 0
  /-- sine `DC` (13 Table 13.4). -/
  dc : BitVec 18 := 0
  /-- sine accumulator (13 R336). -/
  acc : BitVec 48 := 0
deriving DecidableEq, Repr

/-- State of the margin outputs, shared part (13). Each field names what spec/ names it. -/
structure MX where
  /-- the channels (13 R320). -/
  ch : Vector MxCh 16 := .replicate 16 {}
  /-- sample store of the larder (13 R324). -/
  larder : Mem := []
  /-- segment table (13 Table 13.2). -/
  segs : Vector Seg 1024 := .replicate 1024 {}
  /-- `MX_FLAGS.LARDER_UE` (13 Table 13.8). -/
  larderUe : Bool := false
  /-- `MX_FLAGS.FETCH_ERR` (13 Table 13.8). -/
  fetchErr : Bool := false
  /-- `MX_FLAGS.CLAMPED` (13 Table 13.8). -/
  clamped : Bool := false
  /-- `MX_FLAGS.JUMP_IGN` (13 Table 13.8). -/
  jumpIgn : Bool := false
  /-- next update instant to compute (13 R321, R330). -/
  nextK : Nat := 0
  /-- requests of trigger hits and `EVT_IN` edges on their way: channel, whether `EVT_IN`, first epoch at which it may arrive (13 R331). -/
  reqs : List (Chan × Bool × Int) := []
  /-- the block's RW1C bits set in the present fabric cycle (00 R10). -/
  fresh : Fresh := {}
deriving DecidableEq, Repr

/-- States of the ensemble block (Table 14.8). -/
inductive EnState where
  | standalone | forming | formed | discord
deriving DecidableEq, Repr

/-- A real-time burst (Table 14.2) without its copy bit, pair number and CRC. -/
structure Burst where
  /-- Table 14.3. -/
  stype : Nat
  origin : Nat
  aux : Nat
  atime : Nat
  payload : List Byte
deriving DecidableEq, Repr

/-- An arm-check reply (R356). -/
structure ArmReply where
  member : Nat
  pass : Bool
  digest : W64
  imageId : W64
  crc : W32
  ptCrc : W32
  profile : Byte
  common : W32
deriving DecidableEq, Repr

/-- A management message (R354); a join and its refusal carry the ports between the device and the joining member (log 39). -/
inductive Mgmt where
  | join (member : Nat) (ensId : W64) (major : Nat) (depth : Nat) (path : List Port)
  | refuse (member : Nat) (case_ : Nat) (path : List Port)
  | formed (members : Nat)
  | armCheck
  | armReply (r : ArmReply)
  | armedReport (member : Nat) (idle : Bool)
  | breakMsg
deriving DecidableEq, Repr

/-- What leaves on a Hargo port: a burst pair, a sync probe, a numbered data slot with a management message, or the acknowledgement of
the data slots received up to a number (R352, R354). -/
inductive TxMsg where
  | burst (bseq : Nat) (b : Burst)
  | probe (time : Nat)
  | data (n : Nat) (m : Mgmt)
  | ack (n : Nat)
deriving DecidableEq, Repr

/-- One Hargo port (R343, R344, R352 to R354). -/
structure HPort where
  up : Bool := false
  training : Bool := false
  d : Nat := 0
  /-- Pair number last sent and last accepted. -/
  txSeq : Nat := 0
  rxSeq : Nat := 0
  /-- Consecutive bad slots (R364). -/
  badRun : Nat := 0
  /-- Two consecutive bad control slots are a lost pair (R353). -/
  badCtl : Nat := 0
  /-- Data slots sent and received: each direction numbers its own from 1 (R354). -/
  txData : Nat := 0
  rxData : Nat := 0
  /-- Data slots sent and not yet acknowledged, with their numbers, and retransmissions made since (R354). -/
  unacked : List (Nat × Mgmt) := []
  retries : Nat := 0
  /-- When the oldest of them was sent, or sent again (R354). -/
  sentAt : Nat := 0
deriving DecidableEq, Repr

/-- State of the ensemble (14). Each field names what spec/ names it. -/
structure EN where
  /-- `EN_STAT.STATE` (14 Table 14.8). -/
  state : EnState := .standalone
  /-- `EN_STAT.MEMBERS`: M (14 Table 14.8). -/
  members : Nat := 0
  /-- `EN_STAT.MEMBER` (14 Table 14.8). -/
  member : Nat := 0
  /-- `ENS_ID` of this member's `ENS_FORM` (14 R349). -/
  ensId : W64 := 0
  /-- `EN_STAT.DEPTH` (14 Table 14.8). -/
  depth : Nat := 0
  /-- `EN_STAT.LEADER` (14 Table 14.8). -/
  leader : Bool := false
  /-- the Hargo ports (14 Table 14.8, R352). -/
  ports : Vector HPort 4 := .replicate 4 {}
  /-- A_m (14 Table 14.10, R346). -/
  align : Int := 0
  /-- `EN_ALIGN.ADJ` (14 Table 14.10). -/
  adj : Nat := 0
  /-- the member has been aligned (14 R346). -/
  aligned : Bool := false
  /-- differences of the last 64 probes (14 R348). -/
  deltas : List Int := []
  /-- probe intervals counted for the frequency check (14 R364). -/
  probes : Nat := 0
  /-- when the last probe was sent (14 R348). -/
  probeAt : Option Nat := none
  /-- `EN_DISCORD` (14 Table 14.9). -/
  discord : W64 := 0
  /-- `EN_MISMATCH` (14 Table 14.11). -/
  mismatch : W64 := 0
  /-- tag of the executing `ENS_FORM` (14 R349). -/
  formTag : Option W16 := none
  /-- when `ENS_FORM` began to form (14 R350, Table 14.7). -/
  formAt : Nat := 0
  /-- leader: members joined, with the port each came from (14 R350). -/
  joined : List (Nat × Nat) := []
  /-- expected digests of `ENS_EXPECT` (14 R367). -/
  expect : Option (Vector W64 64) := none
  /-- leader: arm-check replies received (14 R356). -/
  replies : List ArmReply := []
  /-- leader: an arm waits for replies (14 R356). -/
  armWait : Bool := false
  /-- member: between the arm-check request and the `ARM` burst (14 R356). -/
  armAsked : Option Nat := none
  /-- leader: members whose fill is complete (14 R358). -/
  armReports : List Nat := []
  /-- leader: members that report `IDLE` (14 R358). -/
  idleReports : List Nat := []
  /-- `ATIME` of the pending `ARM` burst (14 R356). -/
  armAt : Option Nat := none
  /-- `ATIME` of the pending `GO` burst (14 R358). -/
  goAt : Option Nat := none
  /-- `ATIME` of the pending park, with the member and the discord cause it names (14 R362). -/
  parkAt : Option (Nat × Nat × Nat) := none
  /-- leader: mark runs to send: tag, next time, marks left, period, index of the next mark (14 R361). -/
  tmarks : List (Nat × Nat × Nat × Nat × Nat) := []
  /-- time marks scheduled on this member: tag and time (14 R361). -/
  events : List (Nat × Nat) := []
  /-- bursts accepted and not yet released, with the time of their release (14 R345, R353). -/
  rx : List (Port × Burst × Nat) := []
  /-- contributions gathered: number, S_n, `ATIME`, value, members covered, source (port, 4 = own) (14 R359, R360). -/
  contribs : List (Nat × Nat × Nat × Bool × Nat × Nat) := []
  /-- what has been sent, in order (14 R352, R354). -/
  tx : List (Port × TxMsg) := []
deriving DecidableEq, Repr

/-- A command entry as fetched (Table 15.9). -/
structure CmdEntry where
  opcode : W16
  tag : W16
  fence : Bool
  indirect : Bool
  /-- Bytes 4 to 15 hold a reserved bit that is not 0. -/
  badHdr : Bool
  /-- The 48 payload bytes. -/
  pay : List Byte
  /-- CRC-32C of the 64 bytes (R393). -/
  hash : W32
deriving DecidableEq, Repr

/-- A command that executes (R391). -/
structure Exec where
  entry : CmdEntry
  /-- Indirect payload read at the start (R389). -/
  ind : List Byte := []
  /-- No run was in progress when it started (R29, R153). -/
  idle : Bool
  /-- `parkActs` when it started (R130). -/
  parkActs : Nat
  /-- It has changed state already (R410). -/
  changed : Bool := false
  /-- Measurements still outstanding, and result words gathered (R138). -/
  left : List Pin := []
  got : List (Pin × W64) := []
deriving DecidableEq, Repr

/-- A completion waiting to be written (R390, R391). -/
structure Cpl where
  tag : W16
  status : W16
  opcode : W16
  replay : Bool := false
  data : List Byte := []
  /-- Hash for the replay history; `none` for `E_DUP` and replayed entries (R393). -/
  hash : Option W32
  /-- it ends an executing command: neither `E_DUP` nor a replay (R393). -/
  wasExec : Bool := true
deriving DecidableEq, Repr

/-- A write in the posted-write buffer (R376): its bytes from the offset on, none where the byte enable is off; bytes already applied are
off as well. -/
structure Posted where
  bar4 : Bool
  off : Nat
  bytes : List (Option Byte)
deriving DecidableEq, Repr

/-- State of the host interface (15). Each field names what spec/ names it. -/
structure HI where
  /-- `HI_ERRSUM.BLK` (15 Table 15.5). -/
  blk : BitVec 16 := 0
  /-- `HI_ERRSUM.BAR_ERR` (15 Table 15.5). -/
  barErr : Bool := false
  /-- `HI_ERRSUM.RING_ERR` (15 Table 15.5). -/
  ringErr : Bool := false
  /-- `HI_ERRSUM.RUNCTL_REF` (15 Table 15.5). -/
  runRef : Bool := false
  /-- `HI_ERRSUM.ARM_REF` (15 Table 15.5). -/
  armRef : Bool := false
  /-- `HI_ERRMASK` (15 R382). -/
  mask : W32 := 0
  /-- `HI_REFUSE` (15 Table 15.4b). -/
  refuse : W64 := 0
  /-- `HI_RUNSTAT.ARMSEQ` (15 Table 15.4a). -/
  armSeq : Nat := 0
  /-- `HI_BARERR` (15 Table 15.6). -/
  barErrCnt : Nat := 0
  /-- `HI_CMD_BASE` (15 Table 15.8). -/
  cmdBase : W64 := 0
  /-- `HI_CMD_SIZE.ENTRIES` (15 Table 15.8). -/
  cmdSize : Nat := 0
  /-- `HI_CMD_DB.PROD` (15 Table 15.8). -/
  cmdDb : W32 := 0
  /-- `HI_CMD_HEAD` (15 Table 15.8). -/
  cmdHead : W32 := 0
  /-- `HI_CPL_BASE` (15 Table 15.8). -/
  cplBase : W64 := 0
  /-- `HI_CPL_SIZE.ENTRIES` (15 Table 15.8). -/
  cplSize : Nat := 0
  /-- `HI_CPL_TAIL` (15 Table 15.8). -/
  cplTail : W32 := 0
  /-- `HI_CPL_HEAD` (15 Table 15.8). -/
  cplHead : W32 := 0
  /-- `HI_CPL_IRQ` (15 Table 15.8). -/
  cplIrq : W32 := 0
  /-- completions written since the last completion message (15 Table 15.8). -/
  unsig : Nat := 0
  /-- time at which the first completion not yet signalled was written (15 Table 15.8). -/
  unsigAt : Nat := 0
  /-- AON doorbell latch (02 Table 2.5; 16 R399). -/
  dbLatch : Bool := false
  /-- entries fetched and waiting to start (15 R391). -/
  fetched : List CmdEntry := []
  /-- executing commands, in order of start (15 R391). -/
  exec : List Exec := []
  /-- completions waiting to be written (15 R391). -/
  cpls : List Cpl := []
  /-- replay history, newest last (15 R393). -/
  history : List Cpl := []
  /-- posted-write buffer (15 R376). -/
  posted : List Posted := []
  /-- MSI-X table, apart from the vector mask bits (15 Table 15.2). -/
  msix : Mem := []
  /-- MSI-X vector mask bits (15 Table 15.2). -/
  msixMask : W64 := 0xFFFFFFFFFFFFFFFF
  /-- MSI-X pending-bit array (15 Table 15.2). -/
  pba : W64 := 0
  /-- MSI-X vectors sent, in order (15 R385). -/
  sent : List Nat := []
  /-- PCIe bus mastering enabled (07 Table 7.8 check 2; 15 R369). -/
  busMaster : Bool := false
  /-- the PCIe link is up (15 R369; 17 R432). -/
  linkUp : Bool := false
  /-- the endpoint serves configuration space and BAR0 (17 R432). -/
  serving : Bool := false
  /-- Vendor ID (15 R370). -/
  vendor : W16 := 0x1E6B
  /-- Device ID (15 R370). -/
  device : W16 := 0x0512
  /-- Class code (15 R370). -/
  classCode : BitVec 24 := 0x118000
  /-- the Advanced Error Reporting capability stands in the configuration header (15 R369). -/
  aer : Bool := true
  /-- Subsystem Vendor ID (low half) and Subsystem ID (15 R370). -/
  subsys : W32 := 0x05121E6B
  /-- data of the last modelled read completion (15 R378; 02 R46). -/
  rdata : List Byte := []
  /-- that completion was poisoned (07 R189). -/
  rpoison : Bool := false
  /-- that completion was a Completer Abort (15 R374). -/
  rabort : Bool := false
  /-- BAR4 status mirror (15 R383, R384). -/
  mirror : Mem := []
  /-- when the mirror was last refreshed (15 R384). -/
  mirrorAt : Option Nat := none
  /-- `MSEQ` (15 Table 15.7). -/
  mseq : W64 := 0
  /-- the block's RW1C bits set in the present fabric cycle (00 R10). -/
  fresh : Fresh := {}
deriving DecidableEq, Repr

/-- The power transition in progress (R417, R418). -/
structure Pwr where
  target : Nat
  /-- `none` when the SMBus asked. -/
  tag : Option W16
deriving DecidableEq, Repr

/-- A fatal record whose handling is not complete (R410). -/
structure Fatal where
  event : EventRec
  copied : Bool
  snapped : Bool
deriving DecidableEq, Repr

/-- State of the management and power (16). Each field names what spec/ names it. -/
structure MG where
  /-- power state; reads P0 while a run is in progress (R416) (16 Table 16.12). -/
  pstate : Nat := 3
  /-- power transition in progress (16 R417, Table 16.12). -/
  pwr : Option Pwr := none
  /-- `DBG_UNLOCKED` (16 Table 16.12). -/
  dbg : Bool := false
  /-- challenge valid for one phase 1 (16 R423). -/
  challenge : Option (BitVec 128) := none
  /-- `FASTSTOP` (16 Table 16.12). -/
  fastStop : Bool := false
  /-- `DOUBLE` (16 Table 16.12). -/
  double : Bool := false
  /-- `CONTAINED` (16 Table 16.12). -/
  contained : Bool := false
  /-- `MG_CONTAIN` (16 Table 16.13). -/
  contain : W64 := 0
  /-- `THERM_WARN` (16 Table 16.12). -/
  thermWarn : Bool := false
  /-- `RAIL_ERR` (16 Table 16.12). -/
  railErr : Bool := false
  /-- `CORE_AWAKE` (16 Table 16.12, R399). -/
  awake : Bool := false
  /-- an SMBus transaction or AON-timer work is in progress (16 R399). -/
  smbWork : Bool := false
  /-- `SEQ` counter (16 R407). -/
  seq : W64 := 0
  /-- event queues by severity (16 R407). -/
  queues : Vector (List EventRec) 4 := .replicate 4 []
  /-- `MG_EVQ`, by severity (16 Table 16.16). -/
  lost : Vector Nat 4 := .replicate 4 0
  /-- SRAM event log, oldest first (16 R408). -/
  log : List EventRec := []
  /-- records whose flash copy is pending (16 R409). -/
  toPersist : List EventRec := []
  /-- records held by the persisted log (16 R409). -/
  persisted : Nat := 0
  /-- records not persisted (16 R409). -/
  notKept : Nat := 0
  /-- fatal record being handled (16 R410). -/
  fatal : Option Fatal := none
  /-- code of a second fatal record issued meanwhile (16 R410). -/
  second : Option Nat := none
  /-- fatal records drained and waiting for the one in handling, or for the end of `DOUBLE` (16 R410, R415). -/
  fatalTodo : List EventRec := []
  /-- diagnostic snapshot area (16 R470). -/
  diag : Mem := []
  /-- `DSEQ` (16 R470). -/
  dseq : W64 := 0
  /-- sampling slot in progress (16 R401). -/
  slot : Nat := 0
  /-- sampler frame number (16 R424). -/
  frame : W32 := 0
  /-- latest readings by slot (16 Table 16.1). -/
  temps : Vector W16 64 := .replicate 64 0
  /-- consecutive frames each rail was out of its window (16 R402). -/
  outRun : Vector Nat 24 := .replicate 24 0
  /-- the rail has been reported out of its window (16 R402). -/
  railOut : Vector Bool 24 := .replicate 24 false
  /-- `MG_TEMP.TJ` (16 Table 16.14). -/
  tj : W16 := 0
  /-- `MG_TEMP.TSTACK` (16 Table 16.14). -/
  tstack : W16 := 0
  /-- the rails that the containment in force names by cause 0x0E or 0x0F, first or further (16 R402, R415). -/
  railNamed : Vector Bool 24 := .replicate 24 false
  /-- `MG_RTC` at the end of the last frame (16 R424). -/
  rtcFrame : Nat := 0
  /-- `MG_CTRL` (16 Table 16.17). -/
  ctrl : BitVec 8 := 0
  /-- by land (`DBG_TX`, `DBG_RX`, `SMB_ALERT_N`): multiplexing and levels that its keeper holds (16 R422). -/
  muxOld : Vector (Option (BitVec 8)) 3 := .replicate 3 none
  /-- the alert as it stood when the keeper of `SMB_ALERT_N` took hold (16 R422). -/
  muxAlert : Bool := false
  /-- time at which each keeper releases (16 R422). -/
  muxAt : Vector Nat 3 := .replicate 3 0
  /-- `SMB_ALERT_N` driven low (16 R421). -/
  alert : Bool := false
  /-- target of an SMBus power request that waits for executing commands (16 R418, R420). -/
  smbWait : Option Nat := none
  /-- last SMBus response (16 R420). -/
  smbReply : List Byte := []
  /-- the block's RW1C bits set in the present fabric cycle (00 R10). -/
  fresh : Fresh := {}
deriving DecidableEq, Repr

/-- The trims in force (R443, R445): nominal, or the body of a calibration image. -/
inductive Trims where
  | nominal
  | image (body : Mem)
deriving DecidableEq, Repr

/-- State of the boot, update and calibration (17). Each field names what spec/ names it. -/
structure BT where
  /-- boot flash (17 Table 17.1). -/
  flash : Mem := []
  /-- module serial in OTP (17 R432, Table 17.9). -/
  serial : W64 := 0
  /-- anti-rollback counter in OTP (17 R429). -/
  fuses : Nat := 0
  /-- `BT_STAT.ROLLBACK` and `BT_SERIAL` valid: counter as read in step 1 (17 Table 17.8). -/
  rollback : Nat := 0
  /-- `BT_SERIAL` (17 Table 17.9). -/
  serialReg : W64 := 0
  /-- `BT_STAT.CAL` (17 Table 17.8). -/
  cal : Nat := 0
  /-- `BT_STAT.CAL_FLASH` (17 Table 17.8). -/
  calFlash : Bool := false
  /-- `BT_STAT.RECOVERY` (17 Table 17.8). -/
  recovery : Bool := false
  /-- `BT_STAT.TRIAL` (17 Table 17.8). -/
  trial : Bool := false
  /-- `BT_STAT.NEXT` (17 Table 17.8). -/
  next : Nat := 0
  /-- `BT_STAT.RUN_SLOT` (17 Table 17.8). -/
  runSlot : Nat := 0
  /-- `BT_STAT.A_OK` (17 Table 17.8). -/
  aOk : Bool := false
  /-- `BT_STAT.B_OK` (17 Table 17.8). -/
  bOk : Bool := false
  /-- `BT_STAT.FLASH_ERR` (17 Table 17.8). -/
  flashErr : Bool := false
  /-- `BT_STAT.FW_READY` (17 Table 17.8). -/
  fwReady : Bool := false
  /-- `BT_FWVER` (17 Table 17.9). -/
  fwVer : BitVec 48 := 0
  /-- the boot ROM has started and boot is not complete (17 R432). -/
  booting : Bool := false
  /-- the Axras firmware has been started (17 R432). -/
  axras : Bool := false
  /-- `PERST_N` is low (17 R431, R432). -/
  inReset : Bool := true
  /-- trim registers (17 R443, Table 17.6). -/
  trims : Trims := .nominal
  /-- the block's RW1C bits set in the present fabric cycle (00 R10). -/
  fresh : Fresh := {}
deriving DecidableEq, Repr

/-- The whole state of the block. -/
structure State where
  /-- Time base (02). -/
  tb : TB := {}
  /-- The 512 pins (03, 04, 05, 11). -/
  pins : Vector PinSt 512 := .replicate 512 {}
  /-- Pin front end, shared part (05). -/
  pf : PF := {}
  /-- Timing generators, shared part (03). -/
  tg : TG := {}
  /-- Pin table and store room (06). -/
  pt : PT := {}
  /-- Pattern memory (07). -/
  pm : PM := {}
  /-- Sequencer (08). -/
  sq : SQ := {}
  /-- Speculation and commit (09). -/
  sp : SP := {}
  /-- Cellar (10). -/
  cl : CL := {}
  /-- Capture stream (11). -/
  cs : CS := {}
  /-- Time-interval units (12). -/
  ti : TI := {}
  /-- Margin outputs (13). -/
  mx : MX := {}
  /-- Ensemble (14). -/
  en : EN := {}
  /-- Host interface (15). -/
  hi : HI := {}
  /-- Management and power (16). -/
  mg : MG := {}
  /-- Boot, update and calibration (17). -/
  bt : BT := {}
  /-- Bytes the block has written to host memory (rings, mirrors, result buffers): host address and byte. -/
  hostMem : Mem := []
  /-- Commands waiting, first in first out: the model's own queue (log 2). -/
  pending : List Instr := []
  /-- The model's own counter: how many free values have been taken (log 3). Not a register of the block. -/
  freeCtr : Nat := 0
deriving DecidableEq, Repr

/-- Why a step stops with a fault: it never does, spec/ has no command at which the machine stops (NOTES.md, Stops). -/
inductive Fault where
deriving DecidableEq, Repr

/-- Why a step has no meaning. -/
inductive Refusal where
  /-- Raised by `exec` for a command whose meaning is not written yet, with its mnemonic. Safe: the model stops. -/
  | notModelled (mnemonic : String)
deriving DecidableEq, Repr

/-- What a command answers. -/
abbrev Result := Host.Outcome State Fault Refusal

/-- The block right after power-on reset: every field at the value spec/ states, or at the value log 4, 5, 6 or 9 names. -/
def State.reset : State := {}

end Sys2Proof.Machine
end

