-- ==== Sys2Proof/Machine/Ops.lean ====
section
/-! DEFINITION. The operations every block shares: sparse memory, time, messages to the host, event records (R404 to R407),
and the refusal of a run-control write. -/

namespace Sys2Proof.Machine

open Sys2Proof

/-! ### Sparse memory -/

/-- The byte at an address; `d` is what an unlisted address reads as (log 5, log 6). -/
def memGet (d : Byte) : Mem → Nat → Byte
  | [], _ => d
  | (k, v) :: r, a => if k = a then v else if a < k then d else memGet d r a

/-- One byte written; writing the value an unlisted address reads as removes the entry. -/
def memPut (d : Byte) : Mem → Nat → Byte → Mem
  | [], a, b => if b = d then [] else [(a, b)]
  | (k, v) :: r, a, b =>
    if a < k then (if b = d then (k, v) :: r else (a, b) :: (k, v) :: r)
    else if a = k then (if b = d then r else (a, b) :: r)
    else (k, v) :: memPut d r a b

/-- `n` bytes from an address. -/
def memRead (d : Byte) (m : Mem) (a n : Nat) : List Byte := (List.range n).map fun i => memGet d m (a + i)

/-- The cells of a byte string from an address upward, without the bytes equal to what an unlisted address reads as. -/
def memCells (d : Byte) (a : Nat) (l : List Byte) : Mem := ((l.zipIdx a).filter fun x => x.1 != d).map fun x => (x.2, x.1)

/-- Bytes written from an address upward. -/
def memWrite (d : Byte) (m : Mem) (a : Nat) (l : List Byte) : Mem :=
  (m.filter fun c => decide (c.1 < a)) ++ memCells d a l ++ m.filter fun c => decide (a + l.length ≤ c.1)

/-- The canonical form from an address on: addresses strictly rising, no entry equal to the default. -/
def Memory.wfFrom (d : Byte) : Nat → Mem → Bool
  | _, [] => true
  | lo, (k, v) :: r => decide (lo ≤ k) && (v != d) && Memory.wfFrom d (k + 1) r

/-- The canonical form of a sparse memory. -/
def Memory.wf (d : Byte) (m : Mem) : Bool := Memory.wfFrom d 0 m

/-- The memory without the entries of a range of addresses: the range reads as the default again. -/
def memErase (m : Mem) (a n : Nat) : Mem := m.filter fun c => decide (c.1 < a ∨ a + n ≤ c.1)

/-- DRAM is powered, and its controllers run: P0 to P2 (R48, Table 16.8). -/
def dramOn (s : State) : Bool := decide (s.mg.pstate ≤ 2)

/-- One byte of device DRAM (R161, R165): what was written since DRAM was powered, else undefined (free); before any power-up of
DRAM in the model the unlisted value of log 5. -/
def dramByte (p : PM) (a : Nat) : Byte :=
  match p.dramFree with
  | none => memGet 0 p.dram a
  | some k => if p.dramKnown.any fun r => decide (r.1 ≤ a ∧ a < r.1 + r.2) then memGet 0 p.dram a else Config.freeDram k a

/-- `n` bytes of device DRAM (R8, R161). -/
def dramRead (s : State) (a n : Nat) : List Byte := (List.range n).map fun i => dramByte s.pm (a + i)

/-- Bytes written to device DRAM; without power it keeps none (R48, R165). -/
def dramWrite (a : Nat) (l : List Byte) (s : State) : State :=
  if dramOn s then
    { s with pm := { s.pm with
      dram := memWrite 0 s.pm.dram a l
      dramKnown := if s.pm.dramFree.isNone then s.pm.dramKnown else s.pm.dramKnown ++ [(a, l.length)] } }
  else s

/-- Part of device DRAM in the canonical form, as a memory whose unlisted bytes are 0. -/
def dramPart (s : State) (a n : Nat) : Mem :=
  match s.pm.dramFree with
  | none => s.pm.dram
  | some _ => memCells 0 a (dramRead s a n)

/-- Bytes written to host memory by the block (R394). -/
def hostWrite (a : Nat) (l : List Byte) (s : State) : State := { s with hostMem := memWrite 0 s.hostMem a l }

/-- What a read of host memory brings (R395). -/
def hostBytes (h : HostRead) (a n : Nat) : List Byte := memRead 0 h.cells a n

/-! ### Time (R25, R41 to R45) -/

/-- The land latency Λ (R65). -/
def landLat : Nat := 1638400

/-- The extended epoch: wrap count and epoch count (R45). -/
def ext (s : State) : Nat := s.tb.wraps.toNat * 2 ^ 64 + s.tb.epoch.toNat

/-- A run is in progress (R199). -/
def running (s : State) : Bool := s.sq.state != .idle

/-- The power state as `MG_STAT` reports it (R416): P0 while a run is in progress. -/
def pstate (s : State) : Nat := if running s then 0 else s.mg.pstate

/-- AON cycles since `VAUX` power-up: `MG_RTC` (Table 16.15), 250,000,000 ticks to a cycle of 32.768 kHz. -/
def rtc (s : State) : Nat := s.tb.now / 250000000 % 2 ^ 64

/-- The device is a member of a formed ensemble (Table 14.8). -/
def formed (s : State) : Bool := s.en.state == .formed

/-- The lock guards of all four quadrants are open. -/
def guardsOpen (s : State) : Bool := s.tb.guardOpen.toList.all id

/-- The member number an event record carries (Table 16.5): 0 when standalone. -/
def memberNo (s : State) : Nat := if s.en.state == .standalone then 0 else s.en.member

/-- A free value is taken: the model's own counter advances (log 3). -/
def takeFree (s : State) : State := { s with freeCtr := s.freeCtr + 1 }

/-- One pin changed. -/
def updPin (p : Pin) (f : PinSt → PinSt) (s : State) : State := { s with pins := vupd s.pins p f }

/-! ### RW1C bits (R10) -/

/-- The registers with RW1C bits, by their BAR0 offsets (Table 15.2). -/
def w1cRegs : List Nat := [
  0x0020, 0x0100, 0x0200, 0x0300, 0x0380, 0x0400, 0x0480, 0x0500, 0x0580, 0x0604, 0x0800, 0x0C00]

/-- The RW1C bits of the host interface and of the time base, the front end and the memories (Tables 15.5, 2.7, 5.8, 7.9). -/
def stickyFront (s : State) : List Nat := [
  pack [(s.hi.blk.toNat, 16), bit s.hi.barErr 4, bit s.hi.ringErr 3, bit s.hi.runRef 2, bit s.hi.armRef 1],
  pack [(bitsOf s.tb.lockLost, 16), bit s.tb.epochWrapped 7, bit s.tb.refclkLost 3],
  pack [bit s.pf.clamp 4, bit s.pf.ppmuClamp 3], pack [bit s.pm.starved 7, bit s.pm.ueFlag 5],
  pack [bit s.sq.svcFault 8, bit s.sq.svcLost 7],
  pack [bit s.sp.cloakUe 3, bit s.sp.stalled 2, bit s.sp.redirected 1]]

/-- Those of the cellar, stream, TIUs, margin outputs, management and boot (Tables 10.8, 11.10, 12.7, 13.8, 16.12, 17.8). -/
def stickyBack (s : State) : List Nat := [
  pack [bit s.cl.wideSat 8, bit s.cl.pinSat 7, bit s.cl.sofHit 6, bit s.cl.rbErr 5, bit s.cl.lost 3, bit s.cl.wrapped 2],
  pack [bit s.cs.consErr 11, bit s.cs.stampOvf 10, bit s.cs.marksLost 9, bit s.cs.dropped 8, bit s.cs.stageUe 7],
  pack [bit s.ti.stateUe 3, bit s.ti.openIgn 2, bit s.ti.calErr 1, bit s.ti.ovr 0],
  pack [bit s.mx.larderUe 3, bit s.mx.fetchErr 2, bit s.mx.clamped 1, bit s.mx.jumpIgn 0], pack [bit s.mg.railErr 13],
  pack [bit s.bt.flashErr 2]]

/-- The RW1C bits that stand now, register by register in the order of `w1cRegs`: a fabric cycle begins with them (R10). -/
def stickyNow (s : State) : Vector W32 12 :=
  vmap (BitVec.ofNat 32) ⟨#[(stickyFront s).getD 0 0, (stickyFront s).getD 1 0, (stickyFront s).getD 2 0, (stickyFront s).getD 3 0,
    (stickyFront s).getD 4 0, (stickyFront s).getD 5 0, (stickyBack s).getD 0 0, (stickyBack s).getD 1 0, (stickyBack s).getD 2 0,
    (stickyBack s).getD 3 0, (stickyBack s).getD 4 0, (stickyBack s).getD 5 0], rfl⟩

/-! ### Messages to the host (R382, R385) -/

/-- An MSI-X message of a vector, or its pending bit while the vector is masked (R385; log 9). -/
def msix (v : Nat) (s : State) : State :=
  { s with hi := { s.hi with
      sent := if s.hi.msixMask.getLsbD v then s.hi.sent else s.hi.sent ++ [v]
      pba := if s.hi.msixMask.getLsbD v then s.hi.pba ||| (1#64 <<< v) else s.hi.pba } }

/-- `HI_ERRSUM` (Table 15.5). -/
def errsum (s : State) : W32 :=
  let body : Nat := s.hi.blk.toNat * 2 ^ 16 + b2n s.mg.double * 2 ^ 15 + b2n s.mg.contained * 2 ^ 14
    + b2n (s.pm.wfault != 0) * 2 ^ 5 + b2n s.hi.barErr * 2 ^ 4 + b2n s.hi.ringErr * 2 ^ 3
    + b2n s.hi.runRef * 2 ^ 2 + b2n s.hi.armRef * 2
  BitVec.ofNat 32 (body + b2n (body != 0))

/-- Vector 0 when a bit of the error summary has gone from 0 to 1 under the mask (R382). -/
def errIrq (before : W32) (s : State) : State :=
  if errsum s &&& ~~~ before &&& s.hi.mask &&& 0xFFFFFFFE#32 = 0 then s else msix 0 s

/-! ### Event records (R404 to R407) -/

/-- A one-byte item. -/
def i1 (v : Nat) : Item := ⟨1, v⟩
/-- A two-byte item. -/
def i2 (v : Nat) : Item := ⟨2, v⟩
/-- A four-byte item. -/
def i4 (v : Nat) : Item := ⟨4, v⟩
/-- An eight-byte item. -/
def i8 (v : Nat) : Item := ⟨8, v⟩
/-- A vector index as events carry it: bits [47:0] in eight bytes (R201, R406). -/
def iv (v : Nat) : Item := ⟨8, v % 2 ^ 48⟩
/-- An item offered as alternatives (R406): the alternative's number and the value. -/
def iAlt (a v : Nat) : Item := ⟨4, a * 2 ^ 24 + v⟩

/-- The error codes of Table 16.4, with the error codes of Table 17.10. -/
def errorCodes : List Nat := [
  0x0101, 0x0104, 0x0105, 0x0206, 0x0207, 0x0406, 0x0503, 0x0505, 0x0602, 0x0605, 0x0606, 0x0607, 0x0608, 0x0701, 0x0702,
  0x0704, 0x0706, 0x0805, 0x0806, 0x0905, 0x0907, 0x0A08, 0x0B06, 0x0C02, 0x0C06, 0x0D04, 0x0D05, 0x0D06, 0x0E07, 0x0F03,
  0x0F07, 0x0F0C, 0x1002, 0x1003, 0x1004, 0x1007, 0x100A]

/-- The warning codes of Table 16.4, with the warning code of Table 17.10. -/
def warningCodes : List Nat := [
  0x0201, 0x0301, 0x0401, 0x0501, 0x0603, 0x0708, 0x0801, 0x0901, 0x0A0A, 0x0D03, 0x0202, 0x0203, 0x0204, 0x0205, 0x0302,
  0x0402, 0x0404, 0x0405, 0x0502, 0x0601, 0x0609, 0x0705, 0x0709, 0x0802, 0x0804, 0x0902, 0x0904, 0x0908, 0x0A05, 0x0A06,
  0x0A07, 0x0A09, 0x0B01, 0x0B02, 0x0B03, 0x0B04, 0x0B07, 0x0C01, 0x0C03, 0x0D02, 0x0E01, 0x0E02, 0x0E03, 0x0E06, 0x0E08,
  0x0F04, 0x0F09, 0x0F0A, 0x1009]

/-- The severity of an event code (R404, Table 16.4, Table 17.10): 3 fatal, 2 error, 1 warning, 0 info. -/
def severity (code : Nat) : Nat :=
  if code = 0x0F01 ∨ code = 0x0F06 then 3
  else if errorCodes.contains code then 2
  else if warningCodes.contains code then 1 else 0

/-- The record of an event as it is issued now (Table 16.5). -/
def eventRec (code : Nat) (items : List Item) (s : State) : EventRec :=
  { code := code, sev := severity code, run := running s, evalid := s.tb.epochValid, member := memberNo s
    seq := s.mg.seq, epoch := s.tb.epoch, rtc := rtc s, wrap := s.tb.wraps, data := items
    inDouble := s.mg.double }

/-- The event queue of a severity (R407). -/
def evQueue (sev : Nat) (g : MG) : List EventRec := g.queues.toList.getD sev []

/-- Ticks of one fabric cycle (R38). -/
def cycleTicks (s : State) : Nat := if s.tb.fabSrc = .edge then 8192 else 32768

/-- The first instant of the present fabric cycle. -/
def cycleStart (s : State) : Nat := s.tb.now / cycleTicks s * cycleTicks s

/-- An event sets RW1C bits of a block in the present fabric cycle (R10), again where they stand. -/
def freshen (s : State) (bits : W32) (f : Fresh) : Fresh :=
  if f.cycle = cycleStart s then { f with bits := f.bits ||| bits } else { cycle := cycleStart s, bits := bits }

/-- A record takes the next `SEQ` and enters the queue of its severity, or is dropped and counted when the queue is full
(R407). -/
def enqueue (r : EventRec) (g : MG) : MG :=
  let i : Fin 4 := Fin.ofNat 4 r.sev
  let full := decide (64 ≤ g.queues[i].length)
  { g with
    seq := g.seq + 1
    queues := if full then g.queues else vupd g.queues i (· ++ [r])
    lost := if full then vupd g.lost i (satSucc 0xFFFF) else g.lost
    alert := g.alert || (!full && decide (2 ≤ r.sev)) }

/-- Event 0x0F09 when a drop was the first of its severity since the count was last cleared (R407); where that event is itself the first
warning dropped, one more of them, for the warnings, is issued and dropped. -/
def overflowEvent (sev : Nat) (before : MG) (s : State) : MG :=
  let i : Fin 4 := Fin.ofNat 4 sev
  if before.lost[i] = 0 ∧ s.mg.lost[i] ≠ 0 then
    let g := enqueue (eventRec 0x0F09 [i1 sev] s) s.mg
    if s.mg.lost[(1 : Fin 4)] = 0 ∧ g.lost[(1 : Fin 4)] ≠ 0 then enqueue (eventRec 0x0F09 [i1 1] { s with mg := g }) g else g
  else s.mg

/-- A second fatal record while one is handled (R410): its code is kept until the handling completes. -/
def noteFatal (code : Nat) (g : MG) : MG :=
  if severity code = 3 ∧ g.fatal.isSome ∧ g.second.isNone ∧ ¬ g.double then { g with second := some code } else g

/-- An event is issued (R404 to R407, R410, R421). -/
def issue (code : Nat) (items : List Item) (s : State) : State :=
  let s1 : State := { s with mg := noteFatal code (enqueue (eventRec code items s) s.mg) }
  let s2 : State := { s1 with mg := overflowEvent (severity code) s.mg s1 }
  let bit_ : BitVec 16 := if 2 ≤ severity code then 1#16 <<< (code / 256 - 1) else 0
  errIrq (errsum s) { s2 with hi := { s2.hi with
    blk := s.hi.blk ||| bit_, fresh := freshen s (bit_.setWidth 32 <<< 16) s.hi.fresh } }

/-- How often an event of this run has been counted. -/
def onceCount (code : Nat) (s : State) : Nat := s.sq.once.count code

/-- An event issued for the first `n` occurrences in a run; outside a run each time (R188, R213, R253 and the 'first in
run' rules; what 'first in run' means while no run is in progress: log 10). -/
def issueUpTo (n code : Nat) (items : List Item) (s : State) : State :=
  if running s then
    if onceCount code s < n then issue code items { s with sq := { s.sq with once := s.sq.once ++ [code] } } else s
  else issue code items s

/-- An event issued for its first occurrence since arm: edges of a run may land after the run has ended, and later occurrences only
count (R79, R92). -/
def issueFirst (code : Nat) (items : List Item) (s : State) : State :=
  if s.sq.once.contains code then s else issue code items { s with sq := { s.sq with once := s.sq.once ++ [code] } }

/-- An event issued for the first occurrence in a run. -/
def issueOnce (code : Nat) (items : List Item) (s : State) : State := issueUpTo 1 code items s

/-- The packed items of a record (R406): each at the next multiple of its size. -/
def packItems : List Item → List Byte → List Byte
  | [], acc => acc
  | i :: r, acc => packItems r (acc ++ zeros (ceilTo i.size acc.length - acc.length) ++ leBytes i.size i.val)

/-- The 64 bytes of an event record (Table 16.5). -/
def eventBytes (r : EventRec) : List Byte :=
  leBytes 2 r.code
    ++ [BitVec.ofNat 8 (r.sev * 64 + b2n r.run * 32 + b2n r.evalid * 16 + b2n r.persist * 8), BitVec.ofNat 8 r.member]
    ++ zeros 4 ++ leBytes 8 r.seq.toNat ++ leBytes 8 r.epoch.toNat ++ leBytes 4 (fld r.rtc 46 15)
    ++ leBytes 2 (fld r.rtc 14 0) ++ leBytes 2 r.wrap.toNat ++ padTo 32 (packItems r.data [])

/-! ### Refusals of run control (R381) -/

/-- A refusal of a `RUN_CTL` write: error-summary bits, `HI_REFUSE` and event 0x0E03 (R381, Table 15.4b). -/
def refuseRunCtl (cmd cause event : Nat) (s : State) : State :=
  let s1 : State := { s with hi := { s.hi with
    runRef := true
    armRef := s.hi.armRef || decide (cmd = 1)
    fresh := freshen s (if cmd = 1 then 6 else 4) s.hi.fresh
    refuse := BitVec.ofNat 64 (2 ^ 63 + cause * 2 ^ 56 + cmd * 2 ^ 48 + event * 2 ^ 32) } }
  issue 0x0E03 [i1 cmd, i1 cause, i2 event] (errIrq (errsum s) s1)

end Sys2Proof.Machine
end

