-- ==== Sys2Proof/Machine/Table.lean ====
section
/-! DEFINITION. The fields of the store room (06): the device section and the pin entries as the formatters, levels, stampers
and commit unit read them (R140 to R142). -/

namespace Sys2Proof.Machine

open Sys2Proof

/-- A field of the store room: offset in the table image and size in bytes (R140). -/
def roomAt (s : State) (o n : Nat) : Nat := leNat (memRead 0 s.pt.room o n)

/-- Offset of a pin entry in the table image (R140). -/
def pinOff (p : Pin) : Nat := 0x4000 + p.val * 0x1000

/-- Size of a table image (R140). -/
def tableSize : Nat := 2113536

/-! ### Timing sets (Table 3.1, Table 3.2) -/

/-- First word of a timing-set record. -/
def tsW0 (s : State) (t : Nat) : Nat := roomAt s (0x400 + 16 * t) 8
/-- Second word of a timing-set record. -/
def tsW1 (s : State) (t : Nat) : Nat := roomAt s (0x408 + 16 * t) 8
/-- `VALID`. -/
def tsValid (s : State) (t : Nat) : Bool := bitAt (tsW0 s t) 49
/-- `COHERENT`. -/
def tsCoherent (s : State) (t : Nat) : Bool := bitAt (tsW0 s t) 48
/-- UI per vector, N. -/
def tsUi (s : State) (t : Nat) : Nat := 2 ^ fld (tsW0 s t) 47 44
/-- `PERIOD`. -/
def tsPeriod (s : State) (t : Nat) : Nat := fld (tsW0 s t) 40 0
/-- `PHASE`. -/
def tsPhase (s : State) (t : Nat) : Nat := fld (tsW1 s t) 40 0
/-- The edge word of edge `e` of a pin in a timing set (R55). -/
def edgeWord (s : State) (p : Pin) (t e : Nat) : Nat := roomAt s (pinOff p + 8 * (6 * t + e)) 8
/-- `OFFSET` of an edge word. -/
def edgeOffset (s : State) (p : Pin) (t e : Nat) : Nat := fld (edgeWord s p t e) 40 0

/-! ### Pin entries (Table 6.2) -/

/-- A symbol-table entry (Table 4.1). -/
def symEntry (s : State) (p : Pin) (i : Nat) : Nat := roomAt s (pinOff p + 0xC00 + 4 * i) 4
/-- The level block (R134). -/
def levelBlock (s : State) (p : Pin) : List Byte := memRead 0 s.pt.room (pinOff p + 0xC40) 32
/-- The mode word (Table 6.4). -/
def modeWord (s : State) (p : Pin) : Nat := roomAt s (pinOff p + 0xC60) 8
/-- `USE`: bit 0 of the mode word's first byte. -/
def used (s : State) (p : Pin) : Bool := bitAt (roomAt s (pinOff p + 0xC60) 1) 0
/-- `BURST_EN`. -/
def burstEn (s : State) (p : Pin) : Bool := bitAt (modeWord s p) 8
/-- `IDLE_SYM`. -/
def idleSym (s : State) (p : Pin) : Nat := fld (modeWord s p) 19 16
/-- `SITE`. -/
def siteOf (s : State) (p : Pin) : Nat := fld (modeWord s p) 37 32
/-- `NOSITE`. -/
def noSite (s : State) (p : Pin) : Bool := bitAt (modeWord s p) 39
/-- `DESKEW_DRV` (R58). -/
def deskewDrv (s : State) (p : Pin) : Int := sgn 32 (roomAt s (pinOff p + 0xC68) 4)
/-- `DESKEW_CMP` (R58). -/
def deskewCmp (s : State) (p : Pin) : Int := sgn 32 (roomAt s (pinOff p + 0xC6C) 4)
/-- The return-latency word (Table 6.5). -/
def rlatWord (s : State) (p : Pin) : Nat := roomAt s (pinOff p + 0xC70) 8
/-- `RLAT`. -/
def rlat (s : State) (p : Pin) : Nat := fld (rlatWord s p) 31 0
/-- A field of the trigger-parameter block (Table 11.2). -/
def trigAt (s : State) (p : Pin) (o n : Nat) : Nat := roomAt s (pinOff p + 0xC80 + o) n
/-- A limit of the trigger-parameter block (Table 11.2): bits [40:0]. -/
def trigLimit (s : State) (p : Pin) (o : Nat) : Nat := fld (trigAt s p o 8) 40 0
/-- `PSET` (Table 11.4). -/
def psetOf (s : State) (p : Pin) : Fin 16 := Fin.ofNat 16 (fld (roomAt s (pinOff p + 0xCC0) 8) 7 4)
/-- `CAPMODE` (Table 11.4). -/
def capMode (s : State) (p : Pin) : Nat := fld (roomAt s (pinOff p + 0xCC0) 8) 1 0

/-- The used pins, ascending (R144). -/
def usedPins (s : State) : List Pin := (List.finRange 512).filter fun p => used s p

/-- The largest `RLAT` of some pins (R229, R237). -/
def maxRlat (s : State) (l : List Pin) : Nat := l.foldl (fun m p => max m (rlat s p)) 0

/-! ### Site records and ensemble parameters (Table 6.3, Table 14.5) -/

/-- First word of a site record. -/
def siteW0 (s : State) (i : Nat) : Nat := roomAt s (0x800 + 16 * i) 8
/-- `VALID` of a site record. -/
def siteValid (s : State) (i : Nat) : Bool := bitAt (siteW0 s i) 48
/-- The sites with `VALID` 1, as a mask. -/
def validSites (s : State) : W64 := BitVec.ofNat 64 (maskOf 64 fun i => siteValid s i.val)
/-- A field of the ensemble-parameter block. -/
def ensAt (s : State) (o n : Nat) : Nat := roomAt s (0xC00 + o) n
/-- `MSKEW` while a member, else 0 (R347). -/
def mskew (s : State) : Int := if s.en.state = .standalone then 0 else sgn 32 (ensAt s 132 4)

/-! ### The region map (R164) -/

/-- The entry of the region map that covers an address, if any. -/
def regionOf (s : State) (a : Nat) : Option (Nat × Region) :=
  firstIdx (fun r => decide (r.typ ≠ 0 ∧ r.base ≤ a ∧ a < r.base + r.size * 2 ^ 20)) 0 s.pm.regions.toList

/-- The type an address behaves as (Table 7.2): `GENERAL` where no entry covers it. -/
def regionTyp (s : State) (a : Nat) : Nat :=
  match regionOf s a with
  | some (_, r) => r.typ
  | none => 5

/-- The region map holds an entry that covers a whole range with one of some types; an uncovered range below the system
region is `GENERAL` (R162, R164). -/
def rangeIn (s : State) (types : List Nat) (a n : Nat) : Bool :=
  match regionOf s a with
  | some (_, r) => types.contains r.typ && decide (a + n ≤ r.base + r.size * 2 ^ 20)
  | none =>
    types.contains 5 && decide (a + n ≤ 0x1FFC000000)
      && s.pm.regions.toList.all fun r => decide (r.typ = 0 ∨ a + n ≤ r.base ∨ r.base + r.size * 2 ^ 20 ≤ a)

/-- Every byte of a range lies in a region of one of some types (R221). -/
def bytesIn (s : State) (types : List Nat) (a n : Nat) : Bool :=
  let ends := (s.pm.regions.toList.filter fun r => r.typ != 0).flatMap fun r => [r.base, r.base + r.size * 2 ^ 20]
  let points := a :: ends.filter fun x => decide (a < x ∧ x < a + n)
  decide (a + n ≤ 0x1FFC000000) && points.all fun x => types.contains (regionTyp s x)

/-- The first entry of a type. -/
def regionByType (s : State) (t : Nat) : Option (Nat × Region) := firstIdx (fun r => decide (r.typ = t)) 0 s.pm.regions.toList

/-- The host address behind an address of a `HOSTSRC` region (R185). -/
def hostAddr (s : State) (a : Nat) : Nat :=
  match regionOf s a with
  | some (_, r) => r.host + (a - r.base)
  | none => a

/-- The store room holds the bound table, `PT_STAT.BOUND` (R147, Table 16.7): below P1 it does not. -/
def roomHeld (s : State) : Bool := s.pt.bound && decide (s.mg.pstate ≤ 1)

end Sys2Proof.Machine
end

