-- ==== Sys2Proof/Machine/Slots.lean ====
section
/-! DEFINITION. The slot frame of device DRAM (07): the class of every slot (R166, R167, R168, Table 7.3), what a slot carries
(R168, R23), the bounds on read requests (R170), and the slots that a transfer takes (R24, R168). -/

namespace Sys2Proof.Machine

open Sys2Proof

/-- The class of slot `k`, counted from the epoch clear, in profile A or B (Table 7.3). -/
def slotClass (profileB : Bool) (k : Nat) : SlotClass :=
  let m := k % 8
  if m < 4 then .pattern
  else if m = 4 then (if profileB then .stream else .pattern)
  else if m = 5 then .cellar
  else if m = 6 then .stream
  else if k % 64 = 7 ∨ k % 64 = 39 then .maint else .host

/-- The slots of a class in a frame of 64 (Tables 1.4, 7.3). -/
def slotShare (profileB : Bool) (c : SlotClass) : Nat :=
  ((List.range 64).filter fun k => decide (slotClass profileB k = c)).length

/-- Ticks of a slot: 16 fabric cycles (R166). -/
def slotTicks : Nat := 131072

/-- The bytes that every slot carries at least (R168). -/
def slotBytes : Nat := 57600

/-- The bytes that slot `k` carries: 57,600 at least and 64,000 at most, as refresh and turnaround leave it (R168; free, log 48). -/
def slotCap (k : Nat) : Nat := slotBytes + min 6400 (Config.slotExtra k)

/-- The bytes a frame carries for a class at least (R23, R183): 90 % of the peak. -/
def frameSupply (profileB : Bool) (c : SlotClass) : Nat := slotBytes * slotShare profileB c

/-- The bound on a class's read requests of 64 bytes in flight (Table 7.4). -/
def reqBound : SlotClass → Nat
  | .pattern => 2048
  | .cellar => 256
  | .stream => 512
  | .host => 1024
  | .maint => 128

/-- The bytes of one round of a class's requests: as many rounds fill a slot as the bound makes necessary, and the requests of a
round wait until those of the round before are complete (R170; DESIGN CHOICE, log 48). -/
def roundBytes (c : SlotClass) : Nat := slotBytes / ((slotBytes / 64 + reqBound c - 1) / reqBound c)

/-- The place of a class in the records of the slots. -/
def classIx : SlotClass → Fin 5
  | .pattern => 0
  | .cellar => 1
  | .stream => 2
  | .host => 3
  | .maint => 4

/-- The number of the present slot, counted from the epoch clear (R166). -/
def slotNow (s : State) : Nat := ext s / slotTicks

/-- What slot `k` has carried for a class so far. -/
def slotLoad (s : State) (c : SlotClass) (k : Nat) : Nat :=
  if s.pm.slotAt[classIx c] = k then s.pm.slotUsed[classIx c] else 0

/-- Slot `k` has room for `n` more bytes. -/
def slotRoom (s : State) (c : SlotClass) (k n : Nat) : Bool :=
  decide (slotLoad s c k + n ≤ slotBytes) || decide (slotLoad s c k + n ≤ slotCap k)

/-- The first slot from `k` on, `fuel` at most, that is of a class and has room (R168): a slot of another class is never used. -/
def findSlot (s : State) (c : SlotClass) (n k : Nat) : Nat → Nat
  | 0 => k
  | fuel + 1 =>
    if slotClass s.pm.profileB k = c ∧ slotRoom s c k n then k else findSlot s c n (k + 1) fuel

/-- The record of a class's slots after slot `k` has carried `n` bytes more. -/
def slotCarries (c : SlotClass) (k n : Nat) (s : State) : State :=
  { s with pm := { s.pm with
    slotUsed := vset s.pm.slotUsed (classIx c) (n + slotLoad s c k), slotAt := vset s.pm.slotAt (classIx c) k } }

/-- One round of a transfer in the next slot of its class with room for it, not before the slot that carried the class's last one. -/
def bookRound (c : SlotClass) (n : Nat) (s : State) : State :=
  slotCarries c (findSlot s c n (max (slotNow s) s.pm.slotAt[classIx c]) 128) n s

/-- The rounds of a transfer one after another; at most `fuel` and one more. -/
def bookRounds (c : SlotClass) : Nat → Nat → State → State
  | 0, n, s => bookRound c (min n (roundBytes c)) s
  | fuel + 1, n, s =>
    if n ≤ roundBytes c then bookRound c n s else bookRounds c fuel (n - roundBytes c) (bookRound c (roundBytes c) s)

/-- The slots that a transfer of `n` bytes takes (R23, R24, R168): whole frames carry what a class has in a frame, the rest goes round by
round. Time does not pass here. -/
def bookSlots (c : SlotClass) (n : Nat) (s : State) : State :=
  let whole := (n - 1) / frameSupply s.pm.profileB c
  let from_ := max (slotNow s) s.pm.slotAt[classIx c]
  bookRounds c 40 (n - whole * frameSupply s.pm.profileB c)
    (if whole = 0 then s else slotCarries c (from_ + 64 * whole) 0 s)

end Sys2Proof.Machine
end

