-- ==== Sys2Proof/Machine/Capture.lean ====
section
/-! DEFINITION. The stream assembler (11): marks and their queue (R282, R283, R291), frames (R281, R284), drops and gaps (R290,
R291), the host ring (R285 to R288) and the staging region (R289), and the closing of the stream (R296). -/

namespace Sys2Proof.Machine

open Sys2Proof

/-! ### Marks -/

/-- A pin set is active: some pin of it has `CAPMODE` not 0 (R279). -/
def setActive (s : State) (ps : Fin 16) : Bool :=
  (List.finRange 512).any fun p => decide (psetOf s p = ps) && capMode s p != 0

/-- The active pin sets, ascending. -/
def activeSets (s : State) : List (Fin 16) := (List.finRange 16).filter fun ps => setActive s ps

/-- Marks of a set lost, with the key and the epoch of the first (R291). -/
def addLost (m : Mark) (l : List LostMarks) : List LostMarks :=
  if l.any (fun x => x.pset = m.pset) then l.map fun x => if x.pset = m.pset then { x with count := x.count + 1 } else x
  else l ++ [{ pset := m.pset, count := 1, key := m.key, era := m.era }]

/-- A mark that finds the mark queue full (R290, R291): counted, and reported when room returns. -/
def loseMark (m : Mark) (s : State) : State :=
  let s1 : State := { s with cs := { s.cs with
    dropMarks := satSucc 0xFFFFFFFF s.cs.dropMarks, marksLost := true, fresh := freshen s 0x200 s.cs.fresh, lostSaid := true
    lostMarks := addLost m s.cs.lostMarks } }
  if s.cs.lostSaid then s1 else issue 0x0A06 [i1 m.pset.val, i4 1] s1

/-- What is keyed before the completion of `CS_OPEN` is not captured, nor anything while the stream is closed (R295, R296). -/
def captures (s : State) (key : Nat) : Bool := s.cs.open_ && s.cs.openAt.any fun t => decide (t ≤ key)

/-- A mark enters the mark queue, or is counted when the queue holds 1024 (R290, R291). -/
def queueMark (m : Mark) (s : State) : State :=
  if ¬ captures s m.key then s
  else if s.cs.marks.length < 1024 then
    { s with cs := { s.cs with marks := s.cs.marks ++ [{ m with era := s.cs.era }] } }
  else loseMark { m with era := s.cs.era } s

/-- Word0 of a mark without `OFF` (R282): kind and kind-specific bits [54:40]. -/
def markW0 (kind spec : Nat) : W64 := BitVec.ofNat 64 (3 * 2 ^ 60 + kind * 2 ^ 56 + spec * 2 ^ 40)

/-- One copy of a mark for every active set (R283). -/
def markAll (key : Nat) (w0 w1 : W64) (conds : List Nat) (s : State) : State :=
  (activeSets s).foldl (fun t ps => queueMark { pset := ps, key := key / 64 * 64, w0 := w0, w1 := w1, conds := conds } t) s

/-! ### Frames -/

/-- A frame's bytes (R281, Table 11.6a). -/
def frameBytes (openSeq : Nat) (f : Frame) : List Byte :=
  let hat := leBytes 8 f.fseq ++ leBytes 8 f.first ++ leBytes 2 f.wrap.toNat
    ++ [BitVec.ofNat 8 f.pset.val, BitVec.ofNat 8 f.flags] ++ leBytes 2 f.units.length ++ leBytes 2 f.marks
    ++ leBytes 4 f.armseq ++ leBytes 4 openSeq ++ zeros 28
  let body := padTo 4032 (f.units.flatMap fun u => leBytes 8 u.1.toNat ++ leBytes 8 u.2.toNat)
  hat ++ leBytes 4 (crc32c (hat ++ zeros 4 ++ body)).toNat ++ body

/-- Frames the staging region can hold (R289); 0 where the map has no `STAGING` entry. -/
def stagingCap (s : State) : Nat :=
  match regionByType s 4 with
  | some (_, r) => r.size * 256
  | none => 0

/-- Bytes free in the host ring (R285). -/
def ringFree (s : State) : Nat :=
  let size := 2 ^ s.cs.log2
  let po := s.cs.prod % 2 ^ 48
  let co := s.cs.cons % 2 ^ 48
  let held := if s.cs.prod / 2 ^ 48 = s.cs.cons / 2 ^ 48 then po - co else size - co + po
  size - held

/-- A ring pointer advanced by one frame (R285). -/
def ringNext (log2 v : Nat) : Nat :=
  let o := v % 2 ^ 48 + 4096
  if o = 2 ^ log2 then (1 - v / 2 ^ 48 % 2) * 2 ^ 48 else v / 2 ^ 48 * 2 ^ 48 + o

/-- A frame goes to the ring (R285, R286, R288): its bytes, `CS_PROD`, `PROD_WB`, `CS_SENT`, the message. -/
def sendFrame (f : Frame) (s : State) : State :=
  let np := ringNext s.cs.log2 s.cs.prod
  let s1 := hostWrite (s.cs.ringBase + s.cs.prod % 2 ^ 48) (frameBytes s.cs.openSeq f) s
  let s2 := if s.cs.prodWb = 0 then s1 else hostWrite s.cs.prodWb (leBytes 8 np) s1
  let fire := decide (s.cs.irqFrames ≠ 0 ∧ s.cs.irqFrames ≤ s.cs.unsig + 1)
  let s3 : State := { s2 with cs := { s2.cs with
    prod := np, sent := (s.cs.sent + 1) % 2 ^ 64, lastSent := f.fseq, unsig := if fire then 0 else s.cs.unsig + 1
    unsigAt := if s.cs.unsig = 0 then s.tb.now else s.cs.unsigAt } }
  if fire then msix s.cs.irqVec s3 else s3

/-- Two reports of one set as one: the first dropped frame is that of the lower `FSEQ`. -/
def joinGap (a b : Gap) : Gap :=
  let first := if b.fseq < a.fseq then b else a
  { first with
    frames := a.frames + b.frames, marks := a.marks + b.marks
    markKey := if a.marks = 0 then b.markKey else if b.marks = 0 then a.markKey else first.markKey }

/-- Dropped frames to report in the set's next frame (R291, R292). -/
def addGap (g : Gap) (l : List Gap) : List Gap :=
  if l.any (fun x => x.pset = g.pset) then l.map fun x => if x.pset = g.pset then joinGap x g else x else l ++ [g]

/-- A mark is a gap mark. -/
def isGap (m : Mark) : Bool := fld m.w0.toNat 59 56 == 4

/-- The stream stands at level Direct (R290): the staging region holds no frame and the ring has room. -/
def direct (s : State) : Bool := s.cs.staged.isEmpty && decide (4096 ≤ ringFree s)

/-- Front and staging region are both full when a frame closes (R290). At level Direct the front is not full, since its frames go to the
ring (DEDUCED, log 37). -/
def mustDrop (s : State) : Bool := decide (1024 ≤ s.cs.front.length ∧ stagingCap s ≤ s.cs.staged.length) && !direct s

/-- The end of a drop episode (R290). -/
def endDrop (s : State) : State :=
  match s.cs.dropRun with
  | none => s
  | some (ps, f, n) => issue 0x0A05 [i1 ps.val, i8 f, i4 n] { s with cs := { s.cs with dropRun := none } }

/-- The marks of a dropped frame return to the mark queue ahead of those created since (R283, R290); those that find it full
are lost. -/
def returnMarks (l : List Mark) (s : State) : State :=
  let room := 1024 - s.cs.marks.length
  (l.drop room).foldl (fun t m => loseMark m t) { s with cs := { s.cs with marks := l.take room ++ s.cs.marks } }

/-- What a gap mark that goes down with its frame had reported. -/
def gapOf (f : Frame) (m : Mark) : Gap :=
  { pset := f.pset, fseq := m.w1.toNat / 2 ^ 32, key := m.key, era := m.era, frames := m.w1.toNat % 2 ^ 32 }

/-- A closed frame is dropped (R290, R291): its data goes, its marks return to the mark queue, its `FSEQ` is used up. -/
def dropFrame (f : Frame) (s : State) : State :=
  let own : Gap := { pset := f.pset, fseq := f.fseq, key := f.first, era := f.era, frames := 1 }
  let gap := match (f.kept.filter isGap).head? with
    | some m => joinGap (gapOf f m) own
    | none => own
  let run := match s.cs.dropRun with
    | some (ps, q, n) => (ps, q, n + 1)
    | none => (f.pset, f.fseq, 1)
  returnMarks (f.kept.filter fun m => !isGap m) { s with cs := { s.cs with
    gaps := addGap gap s.cs.gaps, dropRun := some run, dropped := true, fresh := freshen s 0x100 s.cs.fresh
    dropFrames := satSucc 0xFFFFFFFF s.cs.dropFrames } }

/-- The device address of a staged frame, counted from the open (R289). -/
def stageAddr (s : State) (n : Nat) : Nat :=
  match regionByType s 4 with
  | some (_, r) => r.base + n % (r.size * 256) * 4096
  | none => 0

/-- The oldest frame of the front goes to the staging region (R289, R290, Table 11.7). -/
def stageOldest (s : State) : State :=
  match s.cs.front with
  | [] => s
  | f :: r =>
    let first := s.cs.staged.isEmpty
    let s1 := dramWrite (stageAddr s s.cs.stagedAt) (frameBytes s.cs.openSeq f) s
    let s2 : State := { s1 with cs := { s1.cs with
      front := r, staged := s1.cs.staged ++ [f], stagedAt := s1.cs.stagedAt + 1
      stagedPeak := max s1.cs.stagedPeak (s1.cs.staged.length + 1)
      episodeN := if first then 1 else s1.cs.episodeN + 1 } }
    if first then issue 0x0A03 [i8 f.fseq] s2 else s2

/-- The oldest frame of the front goes to the ring (R285, R289). -/
def sendOldest (s : State) : State :=
  match s.cs.front with
  | [] => s
  | f :: r => sendFrame f { s with cs := { s.cs with front := r } }

/-- Room in the front for one more frame (R289, R290): of a full front the oldest frame goes to the ring at level Direct, else to the
staging region, in stream slots that it takes ahead (R24; log 48). -/
def frontRoom (s : State) : State :=
  if s.cs.front.length < 1024 then s
  else if direct s then sendOldest s else stageOldest (bookSlots .stream 4096 s)

/-- The open frame of a set closes (R284): it takes the next `FSEQ` and waits in the front, or is dropped (R290). -/
def closeFrame (ps : Fin 16) (flag : Nat) (s : State) : State :=
  match s.cs.frames[ps] with
  | none => s
  | some f =>
    let f1 := { f with fseq := s.cs.fseq, flags := f.flags ||| flag }
    let s1 : State := { s with cs := { s.cs with frames := vset s.cs.frames ps none, fseq := s.cs.fseq + 1 } }
    if mustDrop s then dropFrame f1 s1
    else
      let s2 := frontRoom s1
      endDrop { s2 with cs := { s2.cs with front := s2.cs.front ++ [f1] } }

/-- The number of epoch clears as `ARMSEQ` counts them (Table 11.6a). -/
def armSeqOf (s : State) (era : Nat) : Nat := (s.hi.armSeq + (2 ^ 32 - (s.cs.era - era) % 2 ^ 32)) % 2 ^ 32

/-- A unit enters its set's frame (R284): a frame opens with it if none is open, and closes when its 252 units are full. -/
def putUnit (ps : Fin 16) (era key : Nat) (w0 w1 : W64) (mk : Option Mark) (flag : Nat) (s : State) : State :=
  let f := s.cs.frames[ps].getD
    { pset := ps, first := key, era := era, wrap := BitVec.ofNat 16 (min 0xFFFF (key / 2 ^ 64)), armseq := armSeqOf s era }
  let off := (key - f.first) / 64 % 2 ^ 40
  let f1 := { f with
    units := f.units ++ [(w0 ||| BitVec.ofNat 64 off, w1)]
    marks := f.marks + (if mk.isSome then 1 else 0)
    kept := f.kept ++ mk.toList
    flags := f.flags ||| flag }
  let s1 : State := { s with cs := { s.cs with frames := vset s.cs.frames ps (some f1) } }
  if f1.units.length = 252 then closeFrame ps 0 s1 else s1

/-- Of two things that wait, the one of the earlier epoch comes first, then the one of the lower key (R283). -/
def comesFirst (e1 k1 e2 k2 : Nat) : Bool := decide (e1 < e2 ∨ e1 = e2 ∧ k1 < k2)

/-- The first mark waiting for a set in key order, marks of equal keys in the order of their creation (R283). -/
def firstMark (ps : Fin 16) (l : List Mark) : Option Mark :=
  l.foldl (fun b m => if m.pset ≠ ps then b else match b with
    | none => some m
    | some x => if comesFirst m.era m.key x.era x.key then some m else b) none

/-- The mark that reports marks lost for want of room, at the key of the first of them (R291). -/
def lostMark (x : LostMarks) : Mark :=
  { pset := x.pset, era := x.era, key := x.key, w0 := markW0 5 0, w1 := BitVec.ofNat 64 (x.count % 2 ^ 32) }

/-- The first mark of a set: an epoch mark comes before the other marks of its key (R284); the report of lost marks waits for its turn in
key order, by which room has returned (R283, R291; DEDUCED, log 37). -/
def nextMark (s : State) (ps : Fin 16) : Option Mark := firstMark ps (s.cs.begin_ ++ s.cs.marks ++ s.cs.lostMarks.map lostMark)

/-- The first datum waiting for a set in key order. -/
def firstDatum (s : State) (ps : Fin 16) : Option Datum :=
  s.cs.data.foldl (fun b d => if psetOf s d.pin ≠ ps then b else match b with
    | none => some d
    | some x => if comesFirst d.era d.key x.era x.key then some d else b) none

/-- The data of one unit (R282): the datum, and further data of its pin up to the key of the next mark of the set, two
stamps or 32 samples in all (log 12). -/
def unitData (s : State) (d : Datum) (limit : Option Nat) : List Datum :=
  let more := s.cs.data.filter fun x => decide (x.pin = d.pin ∧ x.raw = d.raw ∧ x.era = d.era)
    && decide (d.key ≤ x.key) && (limit.all fun k => decide (x.key ≤ k))
  more.take (if d.raw then 32 else 2)

/-- An edge unit (R282). -/
def edgeUnit (d : Datum) (second : Option Datum) : W64 × W64 :=
  (BitVec.ofNat 64 (2 ^ 60 + d.pin.val * 2 ^ 51 + b2n second.isSome * 2 ^ 50 + d.val * 2 ^ 48
    + (second.map fun x => x.val * 2 ^ 46).getD 0), 0)

/-- A raw unit (R282). -/
def rawUnit (l : List Datum) : W64 × W64 :=
  (BitVec.ofNat 64 (2 * 2 ^ 60 + ((l.head?.map fun d => d.pin.val).getD 0) * 2 ^ 51 + (l.length - 1) * 2 ^ 46),
   BitVec.ofNat 64 (l.foldr (fun d acc => d.val + 4 * acc) 0))

/-- The unit of some data, with the offset of a second stamp against the frame's `FIRST_EPOCH`. -/
def placeData (ps : Fin 16) (l : List Datum) (s : State) : State :=
  match l with
  | [] => s
  | d :: r =>
    let s1 : State := { s with cs := { s.cs with data := l.foldl (fun q x => q.erase x) s.cs.data } }
    let first := (s.cs.frames[ps].map fun f => f.first).getD d.key
    if d.raw then putUnit ps d.era d.key (rawUnit l).1 (rawUnit l).2 none 0 s1
    else putUnit ps d.era d.key (edgeUnit d r.head?).1
      (BitVec.ofNat 64 ((r.head?.map fun x => (x.key - first) / 64 % 2 ^ 40).getD 0)) none 0 s1

/-- A mark placed in its set's frame (R282, R284): `PROV` is 1 while a condition of its carrier stands unconfirmed. -/
def placeMark (m : Mark) (s : State) : State :=
  let prov := !m.conds.isEmpty
  let w0 := if prov then m.w0 ||| (1#64 <<< 55) else m.w0
  let clear := decide (fld m.w0.toNat 59 56 = 6)
  putUnit m.pset m.era m.key w0 m.w1 (some m) (b2n prov * 4 + b2n clear * 8) s

/-- The marks that report a drop at the start of the set's next frame (R291, R292): the gap mark, and a marks-lost mark where
marks went with unreadable frames. -/
def gapMarks (g : Gap) : List Mark :=
  { pset := g.pset, era := g.era, key := g.key, w0 := markW0 4 0
    w1 := BitVec.ofNat 64 (g.fseq % 2 ^ 32 * 2 ^ 32 + g.frames % 2 ^ 32) }
  :: (if g.marks = 0 then [] else
    [{ pset := g.pset, era := g.era, key := g.markKey, w0 := markW0 5 0, w1 := BitVec.ofNat 64 (g.marks % 2 ^ 32) }])

/-- A mark leaves where it waits and is placed: an epoch mark, a mark of the queue, or a report of lost marks (R283, R284, R291). -/
def placeQueued (m : Mark) (s : State) : State :=
  if s.cs.begin_.contains m then placeMark m { s with cs := { s.cs with begin_ := s.cs.begin_.erase m } }
  else if s.cs.marks.contains m then placeMark m { s with cs := { s.cs with marks := s.cs.marks.erase m } }
  else placeMark m { s with cs := { s.cs with lostMarks := s.cs.lostMarks.filter fun x => lostMark x != m } }

/-- The open frame of a set belongs to an epoch, or a count of wraps, before the next unit's: it closes first (R284). A frame
that holds only returned marks waits while it would be dropped again (R291; DESIGN CHOICE, log 37). -/
def stalePlace (ps : Fin 16) (f : Frame) (s : State) : State :=
  if mustDrop s ∧ f.units.length = f.marks then s else closeFrame ps 0 s

/-- A unit of an era and key does not belong in a frame. -/
def stale (f : Frame) (era key : Nat) : Bool := f.era != era || f.first / 2 ^ 64 != key / 2 ^ 64

/-- A mark comes before a datum (R283, R284): by epoch and key, and an epoch mark at an equal key. -/
def markFirst (s : State) (d : Datum) (m : Mark) : Bool :=
  comesFirst m.era m.key d.era d.key || (s.cs.begin_.contains m && m.era == d.era && m.key == d.key)

/-- The assembler places a datum or mark 32 ns after its key (R284). -/
def placeLag : Nat := 262144

/-- The last key that a unit beginning with a datum may hold: not past the next mark of the set, nor younger than 32 ns at `upTo`, where
that is given (R283, R284). -/
def unitLimit (d : Datum) (m : Option Mark) (upTo : Option Nat) : Option Nat :=
  match m.filter (fun x => x.era == d.era), upTo with
  | some x, some t => some (min x.key (t - placeLag))
  | some x, none => some x.key
  | none, t => t.map (· - placeLag)

/-- The next datum or mark of a set is placed (R283, R284): data before marks at equal keys. -/
def placeItem (ps : Fin 16) (upTo : Option Nat) (s : State) : State :=
  match firstDatum s ps, nextMark s ps with
  | none, none => s
  | some d, none => placeData ps (unitData s d (unitLimit d none upTo)) s
  | none, some m => placeQueued m s
  | some d, some m =>
    if markFirst s d m then placeQueued m s else placeData ps (unitData s d (unitLimit d (some m) upTo)) s

/-- The era and key of what a set places next. -/
def nextItem (ps : Fin 16) (s : State) : Option (Nat × Nat) :=
  match firstDatum s ps, nextMark s ps with
  | some d, some m => some (if comesFirst m.era m.key d.era d.key then (m.era, m.key) else (d.era, d.key))
  | some d, none => some (d.era, d.key)
  | none, some m => some (m.era, m.key)
  | none, none => none

/-- One step of a set's assembler (R284, R291): a frame of an earlier epoch closes, a frame after a drop begins with its gap
mark, else the next unit is placed. -/
def placeNext (ps : Fin 16) (upTo : Option Nat) (s : State) : State :=
  match nextItem ps s with
  | none => s
  | some (era, key) =>
    match s.cs.frames[ps] with
    | some f => if stale f era key then stalePlace ps f s else placeItem ps upTo s
    | none =>
      match s.cs.gaps.find? (fun g => g.pset = ps) with
      | some g => (gapMarks g).foldl (fun t m => placeMark m t)
          { s with cs := { s.cs with gaps := s.cs.gaps.filter fun x => decide (x.pset ≠ ps) } }
      | none => placeItem ps upTo s

/-- What a set places next is of an earlier epoch, or its key is 32 ns old at `upTo` (R284). -/
def ripe (upTo : Option Nat) (s : State) (x : Nat × Nat) : Bool :=
  x.1 != s.cs.era || upTo.all fun t => decide (x.2 + placeLag ≤ t)

/-- Everything ripe that waits for a set is placed, `n` steps at most. -/
def placeAll (ps : Fin 16) (upTo : Option Nat) : Nat → State → State
  | 0, s => s
  | n + 1, s => if (nextItem ps s).any (ripe upTo s) then placeAll ps upTo n (placeNext ps upTo s) else s

/-- The steps that placing everything takes at most: each datum and mark, and a gap or a stale frame for each epoch. -/
def placeSteps (s : State) : Nat :=
  2 * (s.cs.data.length + s.cs.marks.length + s.cs.lostMarks.length + s.cs.begin_.length + s.cs.gaps.length) + 4

/-- What waits ripe for a set is placed and its open frame closes with a flag (R284, R296). -/
def closeSet (upTo : Option Nat) (flag : Nat) (s : State) (ps : Fin 16) : State :=
  closeFrame ps flag (placeAll ps upTo (placeSteps s) s)

/-- What waits ripe is placed and every open frame closes with a flag (R284, R296). -/
def closeFrames (upTo : Option Nat) (flag : Nat) (s : State) : State := (List.finRange 16).foldl (closeSet upTo flag) s

/-- The frames of an epoch, or of a count of wraps, close as it ends: what is keyed in it is placed first, ahead of the 32 ns of R284,
since every set's next frame begins with the epoch's mark (DEDUCED, log 37). -/
def closeEpoch (s : State) : State := closeFrames none 0 s

/-- The epoch has cleared (6) or wrapped (7) and frames have closed (R284): the first frame after it of every active set begins
with its mark. -/
def epochMark (kind key : Nat) (w1 : W64) (s : State) : State :=
  if s.cs.open_ then
    { s with cs := { s.cs with begin_ := s.cs.begin_ ++ (activeSets s).map fun ps =>
        { pset := ps, era := s.cs.era, key := key, w0 := markW0 kind 0, w1 := w1 } } }
  else s

/-- The staging region has emptied (Table 11.7). -/
def stageEmpty (s : State) : State := if s.cs.staged.isEmpty then issue 0x0A04 [i4 s.cs.episodeN] s else s

/-- The staging region and the drop episode end with the stream (R290, Table 11.7). -/
def endFill (s : State) : State :=
  let s1 : State := { s with cs := { s.cs with staged := [], front := [] } }
  endDrop (if s.cs.staged.isEmpty then s1 else stageEmpty s1)

/-- The stream has closed (R295, R296): what still waits is discarded; event 0x0A02 with the last `FSEQ` sent and the frames discarded. -/
def streamShut (cause discarded : Nat) (s : State) : State :=
  let s2 := endFill s
  issue 0x0A02 [i1 cause, i8 s2.cs.lastSent, i4 discarded]
    { s2 with cs := { s2.cs with
        open_ := false, data := [], marks := [], lostMarks := [], gaps := [], begin_ := [], frames := .replicate 16 none
        raws := [] } }

end Sys2Proof.Machine
end

