-- ==== Sys2Proof/Machine/Link.lean ====
section
/-! DEFINITION. Sending on the Hargo link, and the discord (14): bursts up and down the tree, the `DISCORD` record. -/

namespace Sys2Proof.Machine

open Sys2Proof

/-- Ensemble time of the present fabric cycle: the epoch plus A_m (R346). -/
def ensTime (s : State) : Int := (ext s : Int) + s.en.align

/-- What the member adds to a common land time to have its own epoch: it fires at ensemble time plus `MSKEW` (R347); 0 when
standalone. -/
def memberShift (s : State) : Int := if s.en.state = .standalone then 0 else mskew s - s.en.align

/-- The lead of the leader's bursts: 144 ns (R354). -/
def burstLead : Nat := 1179648

/-- What leaves on a port; a burst pair takes the next `BSEQ` of the port (R352). -/
def enTx (p : Port) (m : TxMsg) (s : State) : State :=
  { s with en := { s.en with tx := s.en.tx ++ [(p, m)] } }

/-- A burst pair on one port, if the port is up (R352). -/
def enBurst (b : Burst) (s : State) (p : Port) : State :=
  if s.en.ports[p].up then
    let n := (s.en.ports[p].txSeq + 1) % 65536
    enTx p (.burst n b) { s with en := { s.en with ports := vupd s.en.ports p fun q => { q with txSeq := n } } }
  else s

/-- A burst to the parent (R353). -/
def burstUp (b : Burst) (s : State) : State := enBurst b s 0

/-- A burst to every child on a trained downstream port (R353). -/
def burstDown (b : Burst) (s : State) : State := [1, 2, 3].foldl (enBurst b) s

/-- A management message on one port, if it is up: the next data slot, which waits for its acknowledgement (R354). -/
def enMsg (m : Mgmt) (s : State) (p : Port) : State :=
  if s.en.ports[p].up then
    let n := s.en.ports[p].txData + 1
    enTx p (.data n m) { s with en := { s.en with ports := vupd s.en.ports p fun q =>
      { q with txData := n, unacked := q.unacked ++ [(n, m)], sentAt := if q.unacked.isEmpty then s.tb.now else q.sentAt } } }
  else s

/-- A management message to every child. -/
def msgDown (m : Mgmt) (s : State) : State := [1, 2, 3].foldl (enMsg m) s

/-- A `HALT` burst of a kind, 144 ns ahead (R354, R355, R362): kind, requesting or cause member, discord cause. -/
def haltBurst (kind member cause : Nat) (s : State) : Burst :=
  { stype := 0x14, origin := s.en.member, aux := kind, atime := (ensTime s + burstLead).toNat % 2 ^ 64
    payload := [BitVec.ofNat 8 member, BitVec.ofNat 8 cause] ++ zeros 10 }

/-- The `DISCORD` burst of Table 14.3. -/
def discordMsg (cause port detail : Nat) (s : State) : Burst :=
  { stype := 0x17, origin := s.en.member, aux := cause, atime := 0
    payload := [BitVec.ofNat 8 s.en.member, BitVec.ofNat 8 port, BitVec.ofNat 8 detail] ++ zeros 9 }

/-- A discord recorded (R363, Table 14.9): the state, the first discord, event 0x0D04. -/
def recordDiscord (cause member port detail : Nat) (s : State) : State :=
  let w : W64 := BitVec.ofNat 64 (2 ^ 63 + cause * 2 ^ 60 + member * 2 ^ 54 + port * 2 ^ 52 + detail * 2 ^ 48
    + (ensTime s % (2 ^ 48 : Nat)).toNat)
  issue 0x0D04 [i1 cause, i1 member, i1 port, i1 detail]
    { s with en := { s.en with state := .discord, discord := if s.en.discord.getLsbD 63 then s.en.discord else w } }

/-- What the detecting member sends (R362): its `DISCORD` up the tree; the leader answers with a park `HALT` down; a member
that has lost its own upstream port sends that `HALT` down its own subtree. -/
def sendDiscord (cause port detail : Nat) (s : State) : State :=
  if s.en.leader ∨ ¬ s.en.ports[(0 : Port)].up then
    burstDown (haltBurst 2 s.en.member cause s)
      { s with en := { s.en with parkAt := if s.en.leader then some ((ensTime s + burstLead).toNat, s.en.member, cause) else s.en.parkAt } }
  else burstUp (discordMsg cause port detail s) s

end Sys2Proof.Machine
end

