-- ==== Sys2Proof/Machine/Shots.lean ====
section
/-! DEFINITION. The statistics of the time-interval units (12): what a shot, a shot without stop and an overflow add (R302, R304,
R310, R312), and the shots of `GATE_IN` gates that a closing edge may still take back (R53, R307). -/

namespace Sys2Proof.Machine

open Sys2Proof

/-- The statistics set that takes a shot now: the held set while one is pending (R310). -/
def tiuStats (u : Tiu) : Stats := u.held.getD u.com

/-- A change to the set that takes shots now. -/
def tiuSet (f : Stats → Stats) (u : Tiu) : Tiu :=
  match u.held with
  | some h => { u with held := some (f h) }
  | none => { u with com := f u.com }

/-- One TIU changed. -/
def updTiu (g : Glove) (f : Tiu → Tiu) (s : State) : State :=
  { s with ti := { s.ti with units := vupd s.ti.units g f } }

/-- Events 0x0B02 and 0x0B03 (R319): the first of a `TGATE` TIU in a run, the first of a `GATE_IN` TIU since its last clear. -/
def tiuSayOnce (g : Glove) (code : Nat) (start : Int) (s : State) : State :=
  let u := s.ti.units[g]
  if (if u.gate = 0 then u.saidRun else u.said).contains code then s
  else issue code [i1 g.val, i8 (unsgn 64 start)] (updTiu g (fun u => { u with said := u.said ++ [code], saidRun := u.saidRun ++ [code] }) s)

/-- A shot in progress ends as no stop (R302). -/
def tiuNoStop (g : Glove) (s : State) : State :=
  match s.ti.units[g].shot with
  | none => s
  | some (st, _) =>
    tiuSayOnce g 0x0B02 st
      (updTiu g (fun u => tiuSet (fun x => { x with noStop := satSucc 0xFFFFFFFF x.noStop }) { u with shot := none }) s)

/-- The count that runs toward `N`: committed and held together (R310), with the shots that a closing edge may still take back. -/
def tiuCount (s : State) (g : Glove) : Nat :=
  let u := s.ti.units[g]
  u.com.count + (u.held.map fun h => h.count).getD 0 + (s.ti.recent.filter fun x => x.tiu == g && !x.overflow).length

/-- The `DONE` flag and event 0x0B05 when the committed count reaches `N` (R302, R310). -/
def tiuCheckDone (g : Glove) (s : State) : State :=
  let u := s.ti.units[g]
  if u.done = false ∧ u.n ≠ 0 ∧ u.n ≤ u.com.count then
    issue 0x0B05 [i1 g.val, i4 u.com.count, i8 u.com.first.toNat] (updTiu g (fun x => { x with done := true }) s)
  else s

/-- A statistics set with one more shot (R312). -/
def statsAdd (v : Nat) (start : Int) (x : Stats) : Stats :=
  { x with
    count := x.count + 1
    min := if x.count = 0 then v else Nat.min x.min v
    max := Nat.max x.max v
    sum := x.sum + v
    sumSq := x.sumSq + v * v
    first := if x.count = 0 then BitVec.ofNat 64 (unsgn 64 start) else x.first }

/-- The value of a shot of `r` bins (R304): `gain * r + offset`, halves up, from the sums of 64 calibration shots each. -/
def shotRaw (u : Tiu) (r : Int) : Int :=
  let d : Int := (u.r2 : Int) - u.r1
  1024 + (2 * 1024 * (64 * r - u.r1) + d) / (2 * d)

/-- The value of a shot, free where it leaves the 50 bits that hold it. -/
def shotVal (u : Tiu) (r : Int) (n : Nat) : Nat :=
  let v := shotRaw u r
  if 0 ≤ v ∧ v < 2 ^ 50 then v.toNat else (Config.freeWord n).toNat % 2 ^ 50

/-- A shot is accumulated and counted (R302, R312). -/
def countShot (g : Glove) (start stop : Int) (s : State) : State :=
  let u := s.ti.units[g]
  let r := (stop - start) / 16
  let v := shotRaw u r
  let s1 := updTiu g (tiuSet (statsAdd (shotVal u r s.freeCtr) start)) s
  tiuCheckDone g (if 0 ≤ v ∧ v < 2 ^ 50 then s1 else takeFree s1)

/-- What an edge takes to become visible beyond its recorded epoch (R53). -/
def edgeLag : Nat := 24576

/-- A shot has ended as an overflow (R302): counted in `OVR`, not accumulated; event 0x0B03. -/
def countOver (g : Glove) (start : Int) (s : State) : State :=
  let s1 := updTiu g (tiuSet fun x => { x with ovr := satSucc 0xFFFFFFFF x.ovr }) s
  tiuSayOnce g 0x0B03 start { s1 with ti := { s1.ti with ovr := true, fresh := freshen s1 1 s1.ti.fresh } }

/-- An ended shot stands: counted as a shot or as an overflow. -/
def countEnded (s : State) (x : EndedShot) : State :=
  if x.overflow then countOver x.tiu x.start s else countShot x.tiu x.start x.stop s

/-- Ended shots that no closing edge takes back are counted, in the order in which they ended. -/
def tiuSettle (f : EndedShot → Bool) (s : State) : State :=
  (s.ti.recent.filter f).foldl countEnded
    { s with ti := { s.ti with recent := s.ti.recent.filter fun x => !f x } }

/-- The recorded epoch of an edge that becomes visible from now on lies after the end of a shot: the shot stands (R307). -/
def tiuPast (s : State) : State := tiuSettle (fun x => decide (x.stop + edgeLag ≤ (ext s : Int))) s

/-- A shot of a `GATE_IN` gate that has ended, judged at the closing epoch (R302, R307): one that ended by then counts, one that was in
progress then ends as no stop, one that began later never was. -/
def tiuJudge (e : Int) (s : State) (x : EndedShot) : State :=
  if x.stop ≤ e then countEnded s x
  else if x.start ≤ e then
    tiuSayOnce x.tiu 0x0B02 x.start (updTiu x.tiu (tiuSet fun y => { y with noStop := satSucc 0xFFFFFFFF y.noStop }) s)
  else s

/-- A gate that closed before its ready epoch has not calibrated (R305): gain, offset and `CALERR` stand as before. -/
def tiuUncal (e : Int) (u : Tiu) : Tiu :=
  match u.calWas with
  | some w =>
    if u.ready.any fun r => decide (e < r) then { u with calErr := w.calErr, gain := w.gain, offset := w.offset, r1 := w.r1, r2 := w.r2 } else u
  | none => u

/-- A gate closes at a recorded epoch (R53, R302, R307): its shots and its calibration are judged there. -/
def tiuCloseAt (g : Glove) (e : Int) (s : State) : State :=
  if s.ti.units[g].gopen then
    let mine := s.ti.recent.filter fun x => x.tiu == g
    let s1 := mine.foldl (tiuJudge e) { s with ti := { s.ti with recent := s.ti.recent.filter fun x => x.tiu != g } }
    let late : Bool := (s1.ti.units[g].shot.map fun x => decide (e < x.1)).getD false
    let s2 := if late then updTiu g (fun u => { u with shot := none }) s1 else tiuNoStop g s1
    updTiu g (fun u => { tiuUncal e u with gopen := false, ready := none, calAt := none }) s2
  else s

end Sys2Proof.Machine
end

