-- ==== Sys2Proof/Machine/Safe.lean ====
section
/-! DEFINITION. The safe states: the park path (R127), TIU gates closing (R308), the stop of the vector context (R214, R215,
R248), the end of a run (R229), containment (R411 to R413) and the discord (R362). -/

namespace Sys2Proof.Machine

open Sys2Proof

/-! ### The park path -/

/-- A DAC at its park code (R127). -/
def parkDac (d : Dac) : Dac := { d with out := d.park, hold := none, slew := none }

/-- A pin in the park state (R127): driver and force stage off, every DAC at its park code. -/
def parkPin (p : PinSt) : PinSt :=
  { p with enabled := false, enableAt := none, en := false, rangeFrom := none, dacs := vmap parkDac p.dacs }

/-- A margin channel in the park state (R333, R336). -/
def mxParkCh (c : MxCh) : MxCh :=
  { c with state := .parked, code := c.park, outs := [], pend := none, cand := none, next := none, decAt := none, imm := none
           fresh := false, inbox := [], stopReq := none, en := false }

/-- A channel that plays, is in a dead time, holds at `END` or is in sine mode. -/
def mxActive (st : ChState) : Bool := st == .playing || st == .dead || st == .holding || st == .sine

/-- Event 0x0C05 for a channel that the park path stops. -/
def mxStopEvent (cause : Nat) (s : State) (i : Chan) : State :=
  if mxActive s.mx.ch[i].state then issue 0x0C05 [i1 i.val, i1 cause] s else s

/-- The park path (R127, R333): every pin, every margin output. -/
def parkAll (mxCause : Nat) (s : State) : State :=
  let s1 := (List.finRange 16).foldl (mxStopEvent mxCause) s
  { s1 with
    pins := vmap parkPin s1.pins
    mx := { s1.mx with ch := vmap mxParkCh s1.mx.ch }
    pf := { s1.pf with parked := true, bankPark := .replicate 8 true, parkActs := s1.pf.parkActs + 1 } }

/-! ### TIU gates -/

/-- A gate closes in the present cycle (R302, R305): its shots until now count, a shot in progress ends as no stop. -/
def tiuClose (g : Glove) (s : State) : State :=
  if s.ti.units[g].gopen then
    updTiu g (fun u => { u with gopen := false, ready := none, calAt := none }) (tiuNoStop g (tiuSettle (fun x => x.tiu == g) s))
  else s

/-- The held set of a discarded carrier (R310): it goes, with any shot in progress, and an open gate closes. -/
def tiuUndo (u : Tiu) : Tiu :=
  if u.held.isSome then { u with held := none, prov := [], provN := none, shot := none, gopen := false, ready := none, calAt := none }
  else u

/-- Containment and `ABORT` close every gate and discard every held set (R308, Table 9.4); a `GATE_IN` gate then waits for a
new rising edge. -/
def tiuCloseAll (s : State) : State :=
  let s1 : State := { s with ti := { s.ti with units := vmap tiuUndo s.ti.units } }
  let s2 := (List.finRange 64).foldl (fun t g => tiuClose g t) s1
  { s2 with ti := { s2.ti with units := vmap (fun u => if u.gate = 0 then u else { u with barred := true }) s2.ti.units } }

/-! ### The vector context stops -/

/-- The end of a starvation episode (R188): event 0x0601 for the first 64 in a run, event 0x0609 at the 65th. -/
def endStarve (s : State) : State :=
  match s.pm.episode with
  | none => s
  | some e =>
    let s1 : State := { s with pm := { s.pm with episode := none, episodes := s.pm.episodes + 1 } }
    if s1.pm.episodes ≤ 64 then
      issue 0x0601 [i1 e.cause, iv e.idx, i2 e.pin, i4 e.idles] s1
    else if s1.pm.episodes = 65 then issue 0x0609 [iv e.idx] s1 else s1

/-- The end of a decode-stall episode (R218). -/
def endDstall (s : State) : State :=
  if s.sq.stallRun = 0 then s
  else issue 0x0705 [iv s.sq.stallIdx, i4 s.sq.stallRun] { s with sq := { s.sq with stallRun := 0 } }

/-- The end of a redirect bubble (R241, R253). -/
def endBubble (s : State) : State :=
  let s1 : State := { s with sp := { s.sp with bubble := false, bubbleRun := 0 } }
  if s.sp.bubbleRun = 0 then s1 else issueUpTo 64 0x0804 [iv s.sq.vindex, i4 s.sp.bubbleRun] s1

/-- The end of a limit-stall episode (R247, R253). -/
def endLimit (s : State) : State :=
  if s.sp.stallRun = 0 then s
  else issueUpTo 64 0x0802 [i1 s.sp.stallCause, iv s.sp.stallIdx, i4 s.sp.stallRun]
    { s with sp := { s.sp with stallRun := 0 } }

/-- Every episode in progress ends (R248). -/
def endEpisodes (s : State) : State := endLimit (endBubble (endDstall (endStarve s)))

/-- Posts behind a condition that never opens are discarded with it (R214, R219). -/
def dropUnopened (c : List Cond) (l : List Held) : List Held :=
  l.filter fun h => h.conds.all fun i => c.all fun x => x.cid != i

/-- The vector context stops (R214, R216, R229): episodes end, the state is `DRAINING` from now on. An abort of a `HALT` burst whose
`ATIME` lies ahead stays pending (R353, R355). -/
def stopVector (cause code : Nat) (s : State) : State :=
  let s1 := endEpisodes s
  { s1 with
    sp := { s1.sp with toOpen := [] }
    sq := { s1.sq with
      held := dropUnopened s1.sp.toOpen s1.sq.held
      state := .draining, stopped := true, cur := none, haltWait := none, early := [], stopCause := cause, stopCode := code
      pendHalt := false, pendAbort := s.sq.pendAbort && decide (ext s < s.sq.pendAt), pendSof := false, goHeld := false } }

/-- The results of issued vectors are discarded; a vector on its way to the formatters still drives (R245, R229). -/
def dropResults (l : List VRec) : List VRec := (l.filter fun v => !v.atFm).map fun v => { v with dead := true }

/-- Nothing is left of a carrier's requests. -/
def actDone (a : Act) : Bool := a.reqs.evt.isEmpty && a.reqs.mxj.isEmpty && a.reqs.topen == 0 && a.reqs.tclose == 0

/-- A carrier's `TGATE` open requests are dropped; what is never undone stays (R245, R311). -/
def dropOpens (a : Act) : Act := { a with reqs := { a.reqs with topen := 0 } }

/-- No `TGATE` open request is left to act: the gates have closed for the run (R308). Those of carriers already committed go with
the others (DEDUCED, log 14). -/
def closeOpens (l : List Act) : List Act := (l.map dropOpens).filter fun a => !actDone a

/-- Tail vectors that took an index, as a field below `limit` carries them (R243): a number that does not fit is free (log 3). -/
def tailCount (limit : Nat) (c : Cond) (s : State) : Nat :=
  if c.tails < limit then c.tails else (Config.freeWord s.freeCtr).toNat % limit

/-- The retraction mark (R243, Table 11.6). -/
def retract (c : Cond) (s : State) : State :=
  let key := ext s + landLat
  let tail0 := c.tail0.getD c.check.vindex
  markAll key (markW0 3 ((tail0 - c.subj.idx) % 4096))
    (BitVec.ofNat 64 (tailCount 4096 c s * 2 ^ 52 + c.subj.idx % 2 ^ 48)) [] s

/-- Every provisional state is discarded as on a mispredict of the oldest open condition (R18, R214, R215, Table 9.4): conditions,
unreleased results, held posts, gates to open; a retraction mark covers the marks of the tail. -/
def dropProvisional (s : State) : State :=
  let s1 := match s.sp.open_ with
    | [] => s
    | c :: _ => if 4096 ≤ c.tails then takeFree (retract c s) else retract c s
  { s1 with
    sp := { s1.sp with toOpen := [], open_ := [], inflight := dropResults s1.sp.inflight }
    sq := { s1.sq with acts := closeOpens s1.sq.acts, held := [], svcQueue := [], reqs := {} } }

/-- A service procedure after `ABORT` (R214): a blocking word that executes is the last one run. -/
def abortProc (p : Option Proc) : Option Proc :=
  match p with
  | some q => if q.block.isSome then some { q with last := true } else none
  | none => none

/-- A device of an ensemble, formed or since in discord, reports that it returns to `IDLE` (R358): the leader to itself, another member up
the tree. -/
def reportIdle (s : State) : State :=
  if s.en.leader then { s with en := { s.en with idleReports := s.en.idleReports ++ [0] } }
  else if s.en.state = .standalone then s else enMsg (.armedReport s.en.member true) s 0

/-- The run ends (R229): its cause is recorded, event 0x070A issued, the state returns to `IDLE`; `TGATE` gates close
(R308). `HALT_CODE` is 0 after a run that no `HALT` word ended (log 11). -/
def finishRun (cause code : Nat) (s : State) : State :=
  let s1 := (List.finRange 64).foldl (fun t g => if t.ti.units[g].gate = 0 then tiuClose g t else t) s
  let s2 := issue 0x070A [i1 cause, i2 (if cause = 1 then code else 0), i8 s.sq.vindex] s1
  reportIdle { s2 with
    sq := { s2.sq with
      state := .idle, stopped := true, cur := none, haltWait := none, endCause := cause
      haltCode := if cause = 1 then code else 0
      pendHalt := false, pendAbort := false, pendSof := false, goHeld := false, held := [], acts := closeOpens s2.sq.acts }
    sp := { s2.sp with toOpen := [], open_ := [], inflight := dropResults s2.sp.inflight } }

/-! ### Containment -/

/-- The run's part of containment (R412, R215): the vector context stops, provisional state, service queue and procedure go;
the run ends with cause containment. -/
def containRun (s : State) : State :=
  if running s then
    let s1 := dropProvisional (stopVector 5 0 s)
    { s1 with sq := { s1.sq with proc := none, underLoad := none } }
  else s

/-- Entry to containment (R411, R412) without the ensemble's part. -/
def enterContain (cause : Nat) (s : State) : State :=
  let run := b2n (running s)
  let s1 := parkAll 2 (tiuCloseAll (containRun s))
  let s2 : State := { s1 with mg := { s1.mg with
    contained := true
    contain := BitVec.ofNat 64 (2 ^ 63 + cause * 2 ^ 56 + s.tb.epoch.toNat % 2 ^ 48) } }
  issue 0x0F01 [i1 cause, i1 run, i1 0] (errIrq (errsum s1) s2)

/-- A further cause while containment holds (R413). -/
def containAgain (cause : Nat) (s : State) : State :=
  let n := fld s.mg.contain.toNat 55 48
  issue 0x0F01 [i1 cause, i1 (b2n (running s)), i1 1]
    { s with mg := { s.mg with contain := BitVec.ofNat 64 (s.mg.contain.toNat + (satSucc 0xFF n - n) * 2 ^ 48) } }

/-- Containment (R411 to R413): a formed member also declares discord cause 4, unless the cause is 0x0B. -/
def contain (cause : Nat) (s : State) : State :=
  if s.mg.contained then containAgain cause s
  else
    let s1 := enterContain cause s
    if formed s ∧ cause ≠ 0x0B then sendDiscord 4 0 0 (recordDiscord 4 s.en.member 0 0 s1) else s1

/-- A discord detected on this member (R362): containment at once, and the burst. -/
def discord (cause port detail : Nat) (s : State) : State :=
  if formed s then
    sendDiscord cause port detail (recordDiscord cause s.en.member port detail (contain 0x0B s))
  else s

/-! ### The lock guards -/

/-- FAB's source as R38 gives it: the edge clock while all guards are open, else the safe clock while `REFCLK` is present,
else the backup oscillator. -/
def fabTarget (s : State) : FabSrc :=
  if guardsOpen s then .edge else if s.tb.refclkOk then .safe else .backup

/-- A quadrant's share of a closing guard (R36, R309, R436): its pending edges are not fired, its TIUs take no shots. -/
def guardTiu (q : Quad) (s : State) (g : Glove) : State :=
  if quadOfGlove g = q ∧ s.ti.units[g].gopen then
    issue 0x0B07 [i1 g.val, i1 q.val]
      (updTiu g (fun u => { u with ready := none, calAt := none }) (tiuNoStop g s))
  else s

/-- The P2 to P1 transition is in progress (R39, R40). -/
def raising (s : State) : Bool := s.mg.pstate == 2 && (s.mg.pwr.any fun p => p.target == 1)

/-- A compare in progress on a pin is gone: its `E5` is not to come (R91, R436). -/
def noWin (p : PinSt) : PinSt := { p with win := none }

/-- A guard closes (R37, R436): pending edges, raw samples, windows and stamps not yet crossed of the quadrant go; outside a run, where
the closing does not contain the device, R309 holds for its TIUs. -/
def shutGuard (q : Quad) (s : State) : State :=
  let s1 : State := { s with
    tb := { s.tb with guardOpen := vset s.tb.guardOpen q false }
    tg := { s.tg with edges := s.tg.edges.filter fun e => quadOf e.pin != q }
    pins := vmapIdx (fun p x => if quadOf p = q then noWin x else x) s.pins
    cs := { s.cs with
      raws := s.cs.raws.filter fun r => quadOf r.1 != q, pendX := s.cs.pendX.filter fun x => quadOf x.pin != q } }
  if running s then s1 else (List.finRange 64).foldl (guardTiu q) s1

/-- A loss of lock (R37, R20): the guard closes, `LOCK_LOST`, event 0x0104 (cause 0 lock detector, 1 count, 2 `REFCLK`
loss); during a run the device is contained. A guard that closes by lock detector or count stays closed until P2 and then P1,
but in the transition that opened it (R39). -/
def loseLock (q : Quad) (cause : Nat) (s : State) : State :=
  if s.tb.guardOpen[q] || s.tb.pll[q] == .aligning then
    let run := running s
    let s1 := shutGuard q s
    let s2 : State := { s1 with tb := { s1.tb with
      lockLost := vset s1.tb.lockLost q true
      fresh := freshen s1 (1#32 <<< (16 + q.val)) s1.tb.fresh
      barred := if raising s ∨ cause = 2 then s1.tb.barred else vset s1.tb.barred q true
      pll := vset s1.tb.pll q (if raising s then .acquiring else .off) } }
    let s3 := issue 0x0104 [i1 q.val, i1 cause, i1 (b2n run)] s2
    if run then contain 0x01 s3 else s3
  else s

/-- A PLL is stopped (R37): its guard closes without a loss of lock. -/
def stopPll (q : Quad) (s : State) : State :=
  let s1 := if s.tb.guardOpen[q] then shutGuard q s else s
  { s1 with tb := { s1.tb with pll := vset s1.tb.pll q .off } }

/-- All four PLLs are stopped (R37, R40, R414). -/
def stopPlls (s : State) : State := (List.finRange 4).foldl (fun t q => stopPll q t) s

end Sys2Proof.Machine
end

