-- ==== Sys2Proof/Machine/Stamps.lean ====
section
/-! DEFINITION. Edge stamps and trigger classes (11): the stampers (R272 to R274), the classifier (R276, R277) and the hits on
their way to the condition logic (R278); then the passing of time, with which a stamp is given on, a hit is delivered and the epoch
wraps (R44). -/

namespace Sys2Proof.Machine

open Sys2Proof

/-! ### Crossings -/

/-- A crossing kind's code (Table 11.1). -/
def xkCode : XKind → Nat
  | .cloFall => 0
  | .cloRise => 1
  | .chiRise => 2
  | .chiFall => 3

/-- The comparator outputs after a crossing (Table 11.1). -/
def xkApply (k : XKind) (p : PinSt) : PinSt :=
  match k with
  | .cloFall => { p with lo := true }
  | .cloRise => { p with lo := false }
  | .chiRise => { p with hi := true }
  | .chiFall => { p with hi := false }

/-- The output changes by this crossing. -/
def xkMoves (k : XKind) (p : PinSt) : Bool :=
  match k with
  | .cloFall => !p.lo
  | .cloRise => p.lo
  | .chiRise => !p.hi
  | .chiFall => p.hi

/-- The active `CHI` code is below the active `CLO` code. -/
def thresholdsCrossed (s : State) (p : Pin) : Bool :=
  decide (s.pins[p].dacs[(2 : DacIx)].act.toNat < s.pins[p].dacs[(3 : DacIx)].act.toNat)

/-- The time of a land event in ensemble time minus `MSKEW` (R347); the epoch time when standalone. -/
def repTime (s : State) (t : Int) : Int := t - memberShift s

/-- The stamp of a crossing (R272). -/
def stampOf (t : Int) : Int := 64 * ((t + 32) / 64)

/-! ### The classifier -/

/-- A hit of the classifier: class, side, value, key. -/
abbrev RawHit := TClass × Bool × Nat × Int

/-- A bit of word 0 of the trigger-parameter block (Table 11.2). -/
def trigBit (s : State) (p : Pin) (i : Nat) : Bool := bitAt (trigAt s p 0 8) i

/-- A multiple of 64 at or above a time. -/
def ceil64 (t : Int) : Int := 64 * ((t + 63) / 64)

/-- The first step at which an open pulse exceeds `WMAX`, under the parameters in force (Table 11.3, R277). -/
def longKey (wmax : Nat) (from_ u : Int) : Int := max (u + 64 * ((wmax / 64 : Nat) + 1)) (ceil64 from_)

/-- The key of a pulse that may still give its long-width hit. -/
def longDue (s : State) (p : Pin) (high : Bool) : Option Int :=
  let c := s.pins[p].cls
  let wmax := trigLimit s p 16
  if trigBit s p 8 && trigBit s p (if high then 7 else 6) && wmax != 0 && !(if high then c.longHi else c.longLo) then
    (if high then c.chiUp else c.cloDn).map (longKey wmax c.from_)
  else none

/-- The key of the timeout hit of the present quiet interval, if it is to come. -/
def toutDue (s : State) (p : Pin) : Option Int :=
  let c := s.pins[p].cls
  let tout := trigLimit s p 40
  if trigBit s p 10 && tout != 0 && !c.quietHit then some (max (ceil64 (c.quiet + tout)) (ceil64 c.from_)) else none

/-- The hits that elapsed time gives up to a time, with the classifier after them (Table 11.3). -/
def clsExpire (s : State) (p : Pin) (t : Int) : Cls × List RawHit :=
  let c := s.pins[p].cls
  let val (a b : Option Int) : Nat := ((a.getD 0 - b.getD 0) / 64).toNat
  let hi := (longDue s p true).filter fun k => decide (k ≤ t)
  let lo := (longDue s p false).filter fun k => decide (k ≤ t)
  let qt := (toutDue s p).filter fun k => decide (k ≤ t)
  ({ c with longHi := c.longHi || hi.isSome, longLo := c.longLo || lo.isSome, quietHit := c.quietHit || qt.isSome },
    (hi.toList.map fun k => (TClass.width, true, val hi c.chiUp, k))
      ++ (lo.toList.map fun k => (TClass.width, false, val lo c.cloDn, k))
      ++ (qt.toList.map fun k => (TClass.timeout, false, val qt (some c.quiet), k)))

/-- The spans that a crossing opens and closes (Table 11.3), and the quiet interval it starts. -/
def clsMove (k : XKind) (t : Int) (c : Cls) : Cls :=
  let d := { c with quiet := t, quietHit := false }
  match k with
  | .chiRise => { d with chiUp := some t, longHi := false, runtLo := none, runtHi := none, slewR := none }
  | .chiFall => { d with chiUp := none, runtLo := none, runtHi := some t, slewF := some t }
  | .cloFall => { d with cloDn := some t, longLo := false, runtLo := none, runtHi := none, slewF := none }
  | .cloRise => { d with cloDn := none, runtHi := none, runtLo := some t, slewR := some t }

/-- The width and transition-time judgements of a span (Table 11.3): short of the minimum, or beyond the maximum. -/
def slewBad (span smin smax : Nat) : Bool := decide (span < smin ∨ smax ≠ 0 ∧ smax < span)

/-- The hits that a crossing itself gives (Table 11.3). -/
def clsHits (s : State) (p : Pin) (k : XKind) (t : Int) (c : Cls) : List RawHit :=
  let span (a : Int) : Nat := (t - a).toNat
  let wide (u : Option Int) (side : Bool) (bit : Nat) (given : Bool) : List RawHit :=
    (u.filter fun a => !given && trigBit s p 8 && trigBit s p bit && decide (span a < trigLimit s p 8)).toList.map
      fun a => (TClass.width, side, span a / 64, t)
  let runt (u : Option Int) (side : Bool) : List RawHit :=
    (u.filter fun _ => trigBit s p 9 && !thresholdsCrossed s p).toList.map fun a => (TClass.runt, side, span a / 64, t)
  let slew (u : Option Int) (side : Bool) (bit : Nat) : List RawHit :=
    (u.filter fun a => trigBit s p 11 && trigBit s p bit && !thresholdsCrossed s p
      && slewBad (span a) (trigLimit s p 24) (trigLimit s p 32)).toList.map fun a => (TClass.slew, side, span a / 64, t)
  match k with
  | .chiFall => wide c.chiUp true 7 c.longHi
  | .cloRise => wide c.cloDn false 6 c.longLo
  | .cloFall => runt c.runtLo false ++ slew c.slewF false 4
  | .chiRise => runt c.runtHi true ++ slew c.slewR true 5

/-- The code of a trigger class in marks and source words. -/
def clsCode : TClass → Nat
  | .width => 0
  | .runt => 1
  | .timeout => 2
  | .slew => 3

/-- The trigger mark of a hit (Table 11.6). -/
def hitMark (s : State) (p : Pin) (h : RawHit) : Mark :=
  { pset := psetOf s p, key := h.2.2.2.toNat, w0 := markW0 1 0
    w1 := BitVec.ofNat 64 (clsCode h.1 * 2 ^ 62 + b2n h.2.1 * 2 ^ 61 + p.val * 2 ^ 48 + h.2.2.1 % 2 ^ 40) }

/-- The margin channels whose trigger source a hit is (Table 13.1). -/
def hitChans (s : State) (p : Pin) (c : TClass) : List Chan :=
  (List.finRange 16).filter fun i =>
    let x := s.mx.ch[i]
    x.trig.getLsbD 15 && decide (fld x.trigSrc.toNat 31 30 = 0 ∧ fld x.trigSrc.toNat 29 21 = p.val)
      && bitAt (fld x.trigSrc.toNat 20 17) (clsCode c)

/-- A hit (R276, R278, R331): to the conditions, to the stream by `MARKEN`, to the margin channels that select it. -/
def giveHit (p : Pin) (s : State) (h : RawHit) : State :=
  let hit : Hit := { pin := p, cls := h.1, side := h.2.1, value := h.2.2.1, key := h.2.2.2.toNat }
  let reqs := (hitChans s p h.1).map fun i => (i, false, h.2.2.2 + memberShift s + 131072)
  let s1 : State := { s with cs := { s.cs with hits := s.cs.hits ++ [hit] }, mx := { s.mx with reqs := s.mx.reqs ++ reqs } }
  if trigBit s p (12 + clsCode h.1) && capMode s p != 0 then queueMark (hitMark s p h) s1 else s1

/-- The classifier sees a stamp (R276). -/
def classify (p : Pin) (k : XKind) (t : Int) (s : State) : State :=
  let (c, old) := clsExpire s p t
  let new := clsHits s p k t c
  let s1 := updPin p (fun x => { x with cls := clsMove k t c }) s
  (old ++ new).foldl (giveHit p) s1

/-! ### Stamps into the stream -/

/-- A stamp lost (R274): counted in the overflow mark that waits for its set, or in a new one. -/
def addOverflow (p : Pin) (t : Nat) (s : State) : State :=
  let mine (m : Mark) : Bool := decide (fld m.w0.toNat 59 56 = 8 ∧ fld m.w1.toNat 56 48 = p.val)
  if s.cs.marks.any mine then
    { s with cs := { s.cs with marks := s.cs.marks.map fun m => if mine m then { m with w1 := m.w1 + 1 } else m } }
  else queueMark { pset := psetOf s p, key := t, w0 := markW0 8 0, w1 := BitVec.ofNat 64 (p.val * 2 ^ 48 + 1) } s

/-- A stamp that finds the pin's queue full (R274, Table 11.15). -/
def loseStamp (p : Pin) (t : Nat) (s : State) : State :=
  let said := s.cs.ovfSaid.contains p
  let s1 : State := { s with cs := { s.cs with
    stampOvf := true, fresh := freshen s 0x400 s.cs.fresh, ovfSaid := if said then s.cs.ovfSaid else s.cs.ovfSaid ++ [p] } }
  let s2 := addOverflow p t s1
  if said then s2 else issue 0x0A07 [i2 p.val, i4 1] s2

/-- A stamp of a pin in edge mode (R274): through the queue of 64, which drains 4 stamps a fabric cycle. -/
def streamStamp (p : Pin) (k : XKind) (t : Int) (seen : Nat) (s : State) : State :=
  if captures s t.toNat ∧ capMode s p = 2 then
    let x := s.pins[p]
    let level := x.qLevel - 4 * ((seen - x.qAt) / 8192)
    let s1 := updPin p (fun y => { y with qLevel := min 64 (level + 1), qAt := seen }) s
    if 64 ≤ level then loseStamp p t.toNat s1
    else { s1 with cs := { s1.cs with data := s1.cs.data ++ [{ pin := p, era := s.cs.era, key := t.toNat, raw := false, val := xkCode k }] } }
  else s


/-! ### Stamps given on -/

/-- A pending change is given on (R272 to R274, R276): its stamp goes to the classifier and to the stream. -/
def stampOut (s : State) (x : PendX) : State :=
  let t := stampOf (repTime s x.at_)
  streamStamp x.pin x.kind t x.seen (classify x.pin x.kind t s)

/-- The step of a change is over at an epoch time (R273); a cycle more, since the model's time moves in fabric cycles. -/
def stepOver (e : Nat) (x : PendX) : Bool := decide (x.at_ / 64 * 64 + 96 + 8192 ≤ e)

/-- The pending changes that satisfy a test are given on, in the order in which they came. -/
def flushX (f : PendX → Bool) (s : State) : State :=
  (s.cs.pendX.filter f).foldl stampOut { s with cs := { s.cs with pendX := s.cs.pendX.filter fun x => !f x } }

/-- Every pending change is given on: before the epoch clears, the trigger parameters change, or the stream opens or closes. -/
def flushAll (s : State) : State := flushX (fun _ => true) s

/-! ### Hits delivered -/

/-- The window in which a hit reaches the condition logic (R278): 16 to 24 ns after its key, in the member's epoch. -/
def hitFrom (s : State) (h : Hit) : Nat := ((h.key : Int) + memberShift s).toNat + 131072
/-- The end of that window. -/
def hitBy (s : State) (h : Hit) : Nat := ((h.key : Int) + memberShift s).toNat + 196608

/-- A hit reaches the condition logic at an epoch time (R278); while no run is in progress there is no condition. -/
def deliverHit (e : Nat) (s : State) (h : Hit) : State :=
  { s with cs := { s.cs with
    hits := s.cs.hits.erase h, seen := if running s then s.cs.seen ++ [{ h with at_ := e }] else s.cs.seen } }

/-- A hit whose window is over has been delivered, at its end at the latest (R278). -/
def deliverDue (s : State) : State :=
  (s.cs.hits.filter fun h => decide (hitBy s h ≤ ext s)).foldl (fun t h => deliverHit (hitBy s h) t h) s

/-! ### The passing of time -/

/-- The epoch counter wraps (R44): the wrap count, the flag, event 0x0106; the stream's frames close, and their sets' next frames
begin with the mark (R284). -/
def wrapEffects (s : State) : State :=
  let w : W16 := BitVec.ofNat 16 (satSucc 0xFFFF s.tb.wraps.toNat)
  let s1 := issue 0x0106 [i2 w.toNat] { s with tb := { s.tb with
    wraps := w, epochWrapped := true, fresh := freshen s 0x80 s.tb.fresh } }
  epochMark 7 (w.toNat * 2 ^ 64) (BitVec.ofNat 64 w.toNat) (if s1.cs.open_ then closeEpoch (flushAll s1) else s1)

/-- What follows when the epoch has moved on: changes whose step is over are given on, hits are delivered, and the shots of `GATE_IN`
gates stand that no closing edge can take back. -/
def passed (s : State) : State := tiuPast (deliverDue (flushX (stepOver (ext s)) s))

/-- `n` nanoseconds pass (R41, R44): ideal time, and the epoch while FAB runs from the edge clock (log 2). A new fabric cycle
begins with the RW1C bits that stand (R10; DEDUCED, log 46). -/
def pass (n : Nat) (s : State) : State :=
  let s0 : State := { s with tb := { s.tb with now := s.tb.now + 8192 * n } }
  let s1 : State := { s0 with tb := { s0.tb with sticky := if cycleStart s0 = cycleStart s then s.tb.sticky else stickyNow s } }
  if s.tb.fabSrc = .edge then
    let e := s.tb.epoch.toNat + 8192 * n
    let s2 : State := { s1 with tb := { s1.tb with epoch := BitVec.ofNat 64 e } }
    if n = 0 then s2 else passed (if 2 ^ 64 ≤ e then wrapEffects s2 else s2)
  else s1

/-- Time moves on to an instant of extended epoch time, unless it has passed: an event happens at its due time (log 2). -/
def toEpoch (e : Nat) (s : State) : State := pass ((e - ext s + 8191) / 8192) s

/-- Time moves on to an instant of ideal time, unless it has passed (log 2). -/
def toTime (t : Nat) (s : State) : State := pass ((t - s.tb.now + 8191) / 8192) s

/-- One idle fabric cycle: 1 ns from the edge clock, 4 ns from the safe clock or the backup oscillator (R38, R48; log 2). -/
def idleCycle (s : State) : State := pass (if s.tb.fabSrc = .edge then 1 else 4) s

/-! ### Slots -/

/-- A transfer of `n` bytes of a class: it waits for the slots of its class that carry it (R24, R168), and is complete in the last of
them. While FAB does not run from the edge clock the epoch holds, no slot passes, and the transfer is carried at once (log 48). -/
def inSlot (c : SlotClass) (n : Nat) (s : State) : State :=
  if s.tb.fabSrc = .edge then
    let u := bookSlots c n s
    toEpoch (u.pm.slotAt[classIx c] * slotTicks) u
  else s

end Sys2Proof.Machine
end

