-- ==== Sys2Proof/Machine/Front.lean ====
section
/-! DEFINITION. Levels and pin functions (05): the bank clamp (R106), the level tick (R107 to R112), function changes (R119),
the release from the park state (R131), and staged writes (R108, R110). -/

namespace Sys2Proof.Machine

open Sys2Proof

/-- The DAC is `DHI`, `DLO` or `VTT`, which the bank limits clamp (R106). -/
def clamped (d : DacIx) : Bool := d.val = 0 || d.val = 1 || d.val = 4

/-- The active code of a requested code under a bank's `VIO_CODE` (R106). -/
def clampCode (vio req : W16) (d : DacIx) : W16 :=
  if ¬ clamped d then req
  else if vio = 0 then 0x1746
  else if vio.toNat < req.toNat then vio
  else if req.toNat < 0x1746 then 0x1746 else req

/-- One slew step from a code toward a target (R111). -/
def stepToward (o t : W16) (n : Nat) : W16 :=
  if o.toNat ≤ t.toNat then BitVec.ofNat 16 (min t.toNat (o.toNat + n))
  else BitVec.ofNat 16 (max t.toNat (o.toNat - n))

/-- A DAC follows its new active code by its glitch option (R111, R112); `prev` is the code it had before. -/
def moveDac (c : FeCtl) (now cyc : Nat) (i : DacIx) (prev : W16) (d : Dac) : Dac :=
  if c.glitch.getLsbD i.val then
    if d.slew.isSome then { d with hold := none }
    else
      let o := stepToward d.out d.act c.slewStep.toNat
      { d with out := o, hold := none, slew := if o = d.act then none else some (now + (c.slewRate.toNat + 1) * cyc) }
  else if prev.toNat / 4096 ≠ d.act.toNat / 4096 ∨ d.hold.isSome then { d with hold := some (now + 81920), slew := none }
  else { d with out := d.act, slew := none }

/-- A new active code on a DAC (R106, R111): nothing moves while the code is unchanged or the park state holds. -/
def setActive' (parked : Bool) (c : FeCtl) (now cyc : Nat) (i : DacIx) (act : W16) (d : Dac) : Dac :=
  if act = d.act then d
  else if parked then { d with act := act }
  else moveDac c now cyc i d.act { d with act := act }

/-- A level tick on one DAC (R106, R107): a staged code that is unchanged changes nothing. -/
def tickDac (parked : Bool) (c : FeCtl) (vio : W16) (now cyc : Nat) (fresh : Bool) (i : DacIx) (d : Dac) : Dac :=
  let src := if fresh then d.staged else d.old
  if src = d.req then d
  else setActive' parked c now cyc i (clampCode vio src i) { d with req := src }

/-- A range change while the stage forces starts the make-before-break overlap of 2 µs (R124), in which the stage holds the force
value that it had at the tick; a second range change in it starts it again, with the same value and the largest range's clamp. -/
def startOverlap (now : Nat) (p : PinSt) : PinSt :=
  match p.rangeFrom with
  | some r => { p with rangeFrom := some (if r.toNat < p.ctl.range.toNat then p.ctl.range else r), rangeEnd := now + 16384000 }
  | none => { p with
      rangeFrom := some p.ctl.range, rangeEnd := now + 16384000
      rangeForce := p.dacs[(5 : DacIx)].out, rangeHeld := p.ctl.range, rangeMode := p.ctl.mode }

/-- The control fields that a level tick makes active on one pin (R119, R121, R124). A slew limiter that is stepping steps on to its
target though `GLITCH` now selects the deglitcher, until a new code comes (R121 does not say; DESIGN CHOICE, log 33). -/
def tickCtl (parked fresh : Bool) (now e : Nat) (p : PinSt) : PinSt :=
  let src := if fresh then p.stg else p.old
  let fchg := src.func != p.ctl.func
  let rchg := src.range != p.ctl.range
  let mchg := src.mode != p.ctl.mode
  let p1 := if rchg ∧ p.enabled ∧ ¬ fchg ∧ p.ctl.func = 4 then startOverlap now p
    else if fchg then { p with rangeFrom := none } else p
  { p1 with
    ctl := src
    enabled := if fchg then false else p.enabled
    en := if fchg then false else p.en
    enableAt := if fchg then (if parked then none else some (now + 327680)) else p.enableAt
    tickCyc := if fchg then some e else p.tickCyc
    ppmuTick := if fchg || rchg || mchg then now else p.ppmuTick }

/-- A tick sees the staged values of the present cycle only when it is the tick that the write itself performs while idle
(R108, R110). -/
def freshFor (idle : Bool) (now : Nat) (p : PinSt) : Bool := idle || p.stgAt != now

/-- A level tick on one pin (R107). -/
def tickPin (parked idle : Bool) (vio : W16) (now e cyc : Nat) (p : PinSt) : PinSt :=
  let fresh := freshFor idle (now / cyc * cyc) p
  let p1 := tickCtl parked fresh now e p
  let frc := p1.dacs[(5 : DacIx)]
  let frcNew := if fresh then frc.staged else frc.old
  { p1 with
    dacs := vmapIdx (fun i d => tickDac parked p1.ctl vio now cyc fresh i d) p1.dacs
    ppmuTick := if frcNew = frc.req then p1.ppmuTick else now }

/-- The clamps a tick makes on a pin (R106): DAC, requested code, clamp code. -/
def pinClamps (idle : Bool) (vio : W16) (now : Nat) (p : PinSt) : List (DacIx × W16 × W16) :=
  (List.finRange 6).filterMap fun i =>
    let d := p.dacs[i]
    let src := if freshFor idle now p then d.staged else d.old
    let c := clampCode vio src i
    if src ≠ d.req ∧ vio ≠ 0 ∧ c ≠ src then some (i, src, c) else none

/-- A clamp reported (R106): `PF_STAT.CLAMP`, and event 0x0404 for the first clamp in a run. -/
def reportClamp (p : Pin) (l : List (DacIx × W16 × W16)) (s : State) : State :=
  match l with
  | [] => s
  | (i, req, c) :: _ =>
    issueOnce 0x0404 [i2 p.val, i1 i.val, i2 req.toNat, i2 c.toNat] { s with pf := { s.pf with clamp := true, fresh := freshen s 0x10 s.pf.fresh } }

/-- A pin is parked: the module's park state, or a bank supply out of 0.9 to 1.8 V (R21, R127). -/
def pinParked (s : State) (p : Pin) : Bool := s.pf.parked || s.pf.bankPark[bankOf p]

/-- A level tick on the pins of a set (R107, R110). -/
def tickPins (idle : Bool) (sel : Pin → Bool) (s : State) : State :=
  let now := s.tb.now
  let first := (List.finRange 512).find? fun p =>
    sel p && !(pinClamps idle s.pf.vio[bankOf p] (cycleStart s) s.pins[p]).isEmpty
  let s1 : State := { s with pins := vmapIdx (fun p x =>
    if sel p then tickPin (pinParked s p) idle s.pf.vio[bankOf p] now (ext s) (cycleTicks s) x else x) s.pins }
  match first with
  | some p => reportClamp p (pinClamps idle s.pf.vio[bankOf p] (cycleStart s) s.pins[p]) s1
  | none => s1

/-- A staged code kept as it stood before the present cycle's writes (R108). -/
def keepOld (d : Dac) : Dac := { d with old := d.staged }

/-- A staged write to one pin (R107, R108): the values before the present cycle's writes are kept beside. -/
def stagePin (now : Nat) (f : PinSt → PinSt) (p : PinSt) : PinSt :=
  let p1 := if p.stgAt = now then p
    else { p with stgAt := now, old := p.stg, dacs := vmap keepOld p.dacs }
  f p1

/-- A write has changed what is staged on a pin (R110). -/
def stagedMoved (a b : PinSt) : Bool := a.stg != b.stg || a.dacs.toList.map (fun d => d.staged) != b.dacs.toList.map fun d => d.staged

/-- Staged codes and fields written on some pins; while no run is in progress a write that changes them performs the tick for
those pins (R110). -/
def stageWrite (sel : Pin → Bool) (f : Pin → PinSt → PinSt) (s : State) : State :=
  let s1 : State := { s with pins := vmapIdx (fun p x => if sel p then stagePin (cycleStart s) (f p) x else x) s.pins }
  if running s then s1 else tickPins true (fun p => sel p && stagedMoved s.pins[p] s1.pins[p]) s1

/-- A bank's `VIO_CODE` changes (R106): the active `DHI`, `DLO` and `VTT` codes of its pins are formed again. -/
def reclampPin (parked : Bool) (vio : W16) (now cyc : Nat) (p : PinSt) : PinSt :=
  let move := fun (i : DacIx) (d : Dac) => if clamped i then setActive' parked p.ctl now cyc i (clampCode vio d.req i) d else d
  { p with dacs := vmapIdx move p.dacs }

/-- The release of one pin from the park state (R131). -/
def releasePin (now cyc : Nat) (p : PinSt) : PinSt :=
  let move := fun (i : DacIx) (d : Dac) => if d.out = d.act then { d with hold := none, slew := none }
    else moveDac p.ctl now cyc i d.out { d with hold := none, slew := none }
  { p with
    en := false
    dacs := vmapIdx move p.dacs
    enableAt := some (now + 327680) }

/-- A bank's measured supply lies within 0.9 to 1.8 V (R21). -/
def bankInRange (mv : Nat) : Bool := decide (900 ≤ mv ∧ mv ≤ 1800)

/-- The release from the park state (R21, R130, R131, R333): a bank whose supply is out of range leaves its pins parked, margin
channels stay stopped and keep their park code. -/
def releaseAll (s : State) : State :=
  let now := s.tb.now
  let free (p : Pin) : Bool := pinParked s p && bankInRange s.pf.bankMv[bankOf p]
  let s1 : State := { s with
    pf := { s.pf with parked := false, bankPark := vmapIdx (fun b x => x && !bankInRange s.pf.bankMv[b]) s.pf.bankPark }
    pins := vmapIdx (fun p x => if free p then releasePin now (cycleTicks s) x else x) s.pins
    mx := { s.mx with ch := vmap (fun c => if c.state = .parked then { c with state := .stopped } else c) s.mx.ch } }
  issue 0x0403 [] s1

/-- The control word of a level block as the front end holds it (Table 5.6). -/
def ctlOf (w : Nat) : FeCtl :=
  { func := BitVec.ofNat 3 (fld w 2 0), term := BitVec.ofNat 2 (fld w 5 4), hyst := BitVec.ofNat 2 (fld w 9 8)
    mode := BitVec.ofNat 2 (fld w 12 11), range := BitVec.ofNat 3 (fld w 15 13), glitch := BitVec.ofNat 6 (fld w 21 16)
    slewStep := BitVec.ofNat 12 (fld w 33 22), slewRate := BitVec.ofNat 16 (fld w 49 34) }

/-- Checks 1 and 2 of Table 5.7 on a level block: the first that fails. -/
def levelCheck (l : List Byte) : Option Nat :=
  let w := fieldAt l 24 8
  if fld w 63 50 ≠ 0 ∨ bitAt w 10 ∨ bitAt w 3 ∨ 4 < fld w 2 0 ∨ 1 < fld w 5 4 ∨ 1 < fld w 7 6 ∨ 2 < fld w 12 11
      ∨ 4 < fld w 15 13 then some 1
  else if fld w 33 22 = 0 ∧ fld w 21 16 ≠ 0 then some 2 else none

/-- A bank meets checks 3 and 4 of Table 5.7: its `VIO_CODE` in range and its supply within 50 mV of it (R105). -/
def bankMeets (vio : W16) (mv : Nat) : Bool :=
  decide (0x8000 ≤ vio.toNat ∧ vio.toNat ≤ 0xE8BA) &&
  decide (-50 * 65536 ≤ ((mv : Int) + 200) * 65536 - 2200 * (vio.toNat : Int)
    ∧ ((mv : Int) + 200) * 65536 - 2200 * (vio.toNat : Int) ≤ 50 * 65536)

/-- A land time falls between a function-change tick and the enabling of the new function 40 ns later (R91, R119). -/
def switching (p : PinSt) (land : Nat) : Bool := p.tickCyc.any fun t => decide (t ≤ land ∧ land < t + 327680)

/-- The formatter places an edge on its pin as the pin's function stands (R91, Table 5.3: 2 monitor only, 3 pattern): drive edges
in pattern function outside a function change, compare edges in both; a generator that has been marked invalid never fires (R81). -/
def placed (s : State) (e : PEdge) : Bool :=
  let p := s.pins[e.pin]
  if s.tg.bad.contains (e.pin, Fin.ofNat 6 e.e) then false
  else if e.e ≤ 3 then p.ctl.func == 3 && !switching p e.land && (p.enabled || pinParked s e.pin)
  else p.ctl.func == 2 || p.ctl.func == 3

/-- A pin's function acts now: enabled, and no park state. -/
def acts (s : State) (p : Pin) : Bool := s.pins[p].enabled && !pinParked s p

/-- The observed state of a pin record (Table 4.5). -/
def obsOf (p : PinSt) : Nat := b2n p.hi * 2 + b2n p.lo

/-- The observed state of a pin (Table 4.5) as its code. -/
def observed (s : State) (p : Pin) : Nat := obsOf s.pins[p]

end Sys2Proof.Machine
end

