-- ==== Sys2Proof/Machine/Operands.lean ====
section
/-! DEFINITION. The operand forms of the mailbox (15): the command index with its payload kinds (R389, R396), command and
completion entries (Tables 15.9, 15.10), reserved payload bytes, masks, and the status codes of Table 15.11. -/

namespace Sys2Proof.Machine

open Sys2Proof

/-! ### Status codes (Table 15.11) -/

/-- `E_OK`. -/
def eOk : Nat := 0x0000
/-- `E_UNKNOWN`. -/
def eUnknown : Nat := 0x0001
/-- `E_INVAL`. -/
def eInval : Nat := 0x0002
/-- `E_RANGE`. -/
def eRange : Nat := 0x0003
/-- `E_LEN`. -/
def eLen : Nat := 0x0004
/-- `E_BUSY`. -/
def eBusy : Nat := 0x0005
/-- `E_STATE`. -/
def eState : Nat := 0x0006
/-- `E_DUP`. -/
def eDup : Nat := 0x0007
/-- `E_MEMERR`. -/
def eMemerr : Nat := 0x0009
/-- `E_CRC`. -/
def eCrc : Nat := 0x000A
/-- `E_LOCK`. -/
def eLock : Nat := 0x000B
/-- `E_VERSION`. -/
def eVersion : Nat := 0x000C
/-- `E_TIMEOUT`. -/
def eTimeout : Nat := 0x000D
/-- `E_SIG`. -/
def eSig : Nat := 0x000E
/-- `E_ROLLBACK`. -/
def eRollback : Nat := 0x000F
/-- `E_ACTIVE`. -/
def eActive : Nat := 0x0010
/-- `E_UNCAL`. -/
def eUncal : Nat := 0x0011
/-- `E_HOSTERR`. -/
def eHosterr : Nat := 0x0012
/-- `E_ABORTED`. -/
def eAborted : Nat := 0x0013

/-! ### Register writes by byte enable (R374) -/

/-- The byte that a write of `bytes` at `off` gives the address `a`; none where the byte is not enabled. -/
def wByte (off : Nat) (bytes : List (Option Byte)) (a : Nat) : Option Byte := if a < off then none else bytes.getD (a - off) none

/-- The written value of a register of `n` bytes at `base`: bytes that are not enabled as 0. -/
def wValue (off : Nat) (bytes : List (Option Byte)) (base n : Nat) : Nat :=
  leNat ((List.range n).map fun i => (wByte off bytes (base + i)).getD 0)

/-- The value of an RW register of `n` bytes after the enabled bytes are written. -/
def wMerge (off : Nat) (bytes : List (Option Byte)) (base n cur : Nat) : Nat :=
  leNat (List.zipWith (fun i c => (wByte off bytes (base + i)).getD c) (List.range n) (leBytes n cur))

/-- The write enables a byte of a register. -/
def wHits (off : Nat) (bytes : List (Option Byte)) (base n : Nat) : Bool :=
  (List.range n).any fun i => (wByte off bytes (base + i)).isSome

/-- The write enables every byte of a register. -/
def wFull (off : Nat) (bytes : List (Option Byte)) (base n : Nat) : Bool :=
  (List.range n).all fun i => (wByte off bytes (base + i)).isSome

/-! ### The command index (R389, R396) -/

/-- The payload kind of a command: inline, indirect with its fixed `LENGTH` if the table fixes one, or either (R389). -/
inductive PayKind where
  | inl | ind (len : Option Nat) | both (len : Nat)
deriving DecidableEq, Repr

/-- The commands with inline payload, `none` payloads included (Table 15.12 and the command tables of each chapter). -/
def inlineOps : List Nat := [
  0x0401, 0x0402, 0x0501, 0x0502, 0x0601, 0x0603, 0x0604, 0x0701, 0x0702, 0x0901, 0x0A01, 0x0A02, 0x0B02, 0x0B03, 0x0C03,
  0x0C04, 0x0C05, 0x0C06, 0x0D01, 0x0D02, 0x0D04, 0x0E01, 0x0E02, 0x0F01, 0x0F02, 0x0F03, 0x0F04, 0x1002, 0x1003, 0x1004,
  0x1005, 0x1006]

/-- The commands with indirect payload. -/
def indirectOps : List (Nat × Option Nat) := [
  (0x0403, some 80), (0x0602, some 512), (0x0B01, none), (0x0C01, none), (0x0C02, none), (0x0D03, some 512), (0x1001, none),
  (0x1007, some 72)]

/-- The payload kind of an opcode; `none` where Table 15.12 does not list it. -/
def payKind (op : Nat) : Option PayKind :=
  if inlineOps.contains op then some .inl
  else if op = 0x0F05 then some (.both 128)
  else (indirectOps.find? fun x => x.1 = op).map fun x => .ind x.2

/-- The commands that require an idle sequencer whatever they ask (R29). -/
def idleOnlyOps : List Nat := [
  0x0401, 0x0501, 0x0601, 0x0602, 0x0701, 0x0702, 0x0901, 0x0A01, 0x0D01, 0x0D03, 0x0F01, 0x1006, 0x1007]

/-- The commands that count as idle-only when they start while idle: `PT_REFRESH` (R153), `ENS_BREAK` (R351), `MG_RELEASE`
(R415). -/
def idleStartOps : List Nat := [0x0502, 0x0D02, 0x0F04]

/-- The commands that run while `DOUBLE` holds (R410). -/
def doubleOps : List Nat := [0x0E01, 0x0E02, 0x0F01, 0x0F02, 0x0F03, 0x0F04]

/-- The commands that recovery accepts (R434). -/
def recoveryOps : List Nat := [0x0E01, 0x0E02, 0x1001, 0x1002, 0x1003, 0x1004]

/-! ### Entries -/

/-- A command entry from its 64 bytes (Table 15.9). -/
def entryOf (l : List Byte) : CmdEntry :=
  let b := padTo 64 l
  { opcode := BitVec.ofNat 16 (fieldAt b 0 2), tag := BitVec.ofNat 16 (fieldAt b 2 2)
    fence := bitAt (fieldAt b 4 1) 1, indirect := bitAt (fieldAt b 4 1) 0
    badHdr := decide (4 ≤ fieldAt b 4 1) || !allZero (slice b 5 11)
    pay := slice b 16 48, hash := crc32c b }

/-- A payload field of an executing command: of its inline payload, or of the indirect payload it read. -/
def payF (e : Exec) (o n : Nat) : Nat := if e.entry.indirect then fieldAt e.ind o n else fieldAt e.entry.pay o n

/-- Payload bytes from `o` on are 0. -/
def payZero (e : Exec) (o n : Nat) : Bool :=
  allZero (if e.entry.indirect then slice e.ind o n else slice e.entry.pay o n)

/-- The bytes of a completion entry (Table 15.10). -/
def cplBytes (c : Cpl) (phase : Bool) (head : W32) : List Byte :=
  leBytes 2 c.tag.toNat ++ leBytes 2 c.status.toNat ++ leBytes 2 c.opcode.toNat
    ++ [BitVec.ofNat 8 (b2n c.replay * 2 + b2n phase), 0] ++ leBytes 4 head.toNat ++ zeros 4 ++ padTo 16 c.data

/-! ### Executing commands (R391) -/

/-- The command has its completion waiting already. -/
def finished (s : State) (tag : W16) : Bool := s.hi.cpls.any fun c => c.wasExec && c.tag == tag

/-- The executing command of an opcode and tag that has not yet answered. -/
def executing (op : Nat) (tag : W16) (s : State) : Option Exec :=
  s.hi.exec.find? fun e => e.entry.opcode == BitVec.ofNat 16 op && e.entry.tag == tag && !finished s tag

/-- A completion queued for a command (R390): `DATA` is 0 for every status other than `E_OK`. -/
def answer (e : Exec) (status : Nat) (data : List Byte) (s : State) : State :=
  let c : Cpl := { tag := e.entry.tag, status := BitVec.ofNat 16 status, opcode := e.entry.opcode
                   data := if status = 0 then data else [], hash := some e.entry.hash }
  { s with hi := { s.hi with cpls := s.hi.cpls ++ [c] } }

/-- The meaning of a mailbox row: nothing where no such command executes, else what the command does (R391). -/
def runCmd (op : Nat) (tag : W16) (f : Exec → State → State) (s : State) : State :=
  match executing op tag s with
  | some e => f e s
  | none => s

/-- A command changed while it executes. -/
def updExec (tag : W16) (f : Exec → Exec) (s : State) : State :=
  { s with hi := { s.hi with exec := s.hi.exec.map fun e => if e.entry.tag = tag then f e else e } }

/-- A command's own checks: the first that fails is its status (R392 step 6), else its effect. -/
def checked (checks : List (Bool × Nat)) (e : Exec) (eff : State → State) (s : State) : State :=
  match checks.find? fun c => c.1 with
  | some (_, st) => answer e st [] s
  | none => eff s

/-- A command is idle-only (R29): always, or because it started while idle. -/
def idleOnly (e : Exec) : Bool :=
  idleOnlyOps.contains e.entry.opcode.toNat || (idleStartOps.contains e.entry.opcode.toNat && e.idle)

/-- An idle-only command executes (R29, R153). -/
def idleOnlyBusy (s : State) : Bool := s.hi.exec.any idleOnly

end Sys2Proof.Machine
end

