-- ==== Sys2Proof/Machine/ArmCheck.lean ====
section
/-! DEFINITION. The checks that every block applies when `ARM` takes effect (R59, R85, R135, R159, R192, R228, R252, R268,
R297, R366), and the fields of the condition table (R233) they read. -/

namespace Sys2Proof.Machine

open Sys2Proof

/-- The first failure of a list of checks, as data of its event. -/
def firstSome {α β : Type} (f : α → Option β) : List α → Option β
  | [] => none
  | a :: r => match f a with
    | some b => some b
    | none => firstSome f r

/-- The number of the first check that does not hold, counted from `n`. -/
def firstBad (n : Nat) : List Bool → Option Nat
  | [] => none
  | b :: r => if b then firstBad (n + 1) r else some n

/-! ### Timing (Table 3.3) -/

/-- Checks 1 to 6 on a timing-set record. -/
def tsBad (s : State) (t : Nat) : Option Nat :=
  let w0 := tsW0 s t
  let n := tsUi s t
  let p := tsPeriod s t
  if ¬ tsValid s t then none
  else firstBad 1 [
    decide (8192 ≤ p ∧ p ≤ 2 ^ 40), decide (fld w0 47 44 ≤ 4), decide (p % n = 0), decide (512 ≤ p / n)
    , !tsCoherent s t || decide (tsPhase s t ≤ p - 1)
    , decide (fld w0 63 50 = 0 ∧ fld w0 43 41 = 0 ∧ fld (tsW1 s t) 63 41 = 0)]

/-- Checks 7 to 9 on an edge word. -/
def edgeBad (s : State) (p : Pin) (t e : Nat) : Option Nat :=
  let o := edgeOffset s p t e
  let per := tsPeriod s t
  let perUi := decide (e = 1 ∨ e = 2 ∨ e = 4 ∨ e = 5) && decide (1 < tsUi s t) && burstEn s p
  firstBad 7 [decide (o ≤ 2 * per - 1), !perUi || decide (o ≤ per / tsUi s t - 1), decide (fld (edgeWord s p t e) 63 41 = 0)]

/-- Checks 7 to 11 on a used pin: check number and timing set. -/
def pinTimingBad (s : State) (p : Pin) : Option (Nat × Nat) :=
  let inRange (v : Int) : Bool := decide (-524288 ≤ v ∧ v ≤ 524287)
  match firstSome (fun t => if tsValid s t then firstSome (fun e => (edgeBad s p t e).map fun c => (c, t)) (List.range 6)
      else none) (List.range 64) with
  | some x => some x
  | none =>
    if ¬ (inRange (deskewDrv s p) ∧ inRange (deskewCmp s p)) then some (10, 0)
    else if s.tg.bad.any (fun b => b.1 = p) then some (11, 0) else none

/-- The timing checks (R59): check, timing set, pin or device. -/
def armTg (s : State) : Option (Nat × List Item) :=
  match firstSome (fun t => (tsBad s t).map fun c => [i1 c, i1 t, iAlt 1 0]) (List.range 64) with
  | some l => some (0x0201, l)
  | none => (firstSome (fun p => (pinTimingBad s p).map fun x => [i1 x.1, i1 x.2, iAlt 0 p.val]) (usedPins s)).map
      fun l => (0x0201, l)

/-! ### Symbols (Table 4.2) -/

/-- Checks 1 to 6 on a symbol-table entry. -/
def symBad (s : State) (p : Pin) (i : Nat) : Option Nat :=
  let w := symEntry s p i
  let burst := bitAt w 15
  let bdir := bitAt w 14
  let fmt := fld w 13 11
  let dact := fld w 10 9
  firstBad 1 [
    decide (fld w 31 16 = 0 ∧ fld w 3 0 = 0 ∧ fmt ≤ 4 ∧ fld w 6 4 ≤ 4), burst || !bdir, !burst || burstEn s p
    , !burst || decide (fmt ≤ 2), !(burst && !bdir) || decide (dact = 1 ∨ dact = 2), !(burst && bdir) || decide (dact = 0 ∨ dact = 3)]

/-- The symbol checks (R85): check, pin, entry or idle symbol (or none). -/
def armFm (s : State) : Option (Nat × List Item) :=
  let pinBad (p : Pin) : Option (List Item) :=
    match firstSome (fun i => (symBad s p i).map fun c => [i1 c, i2 p.val, iAlt 0 i]) (List.range 16) with
    | some l => some l
    | none => if bitAt (symEntry s p (idleSym s p)) 15 then some [i1 7, i2 p.val, iAlt 1 (idleSym s p)] else none
  match firstSome pinBad (usedPins s) with
  | some l => some (0x0301, l)
  | none => if tsValid s 0 then none else some (0x0301, [i1 8, i2 0, iAlt 2 0])

/-! ### Front end (Table 5.7) -/

/-- The banks that hold used pins, ascending. -/
def usedBanks (s : State) : List Bank := (List.finRange 8).filter fun b => (usedPins s).any fun p => decide (bankOf p = b)

/-- The front-end checks (R135), check by check: check, pin or bank. A used bank whose supply lies outside 0.9 to 1.8 V fails
check 4, and a used pin that its bank keeps parked fails check 5 (R21 refuses the arm and names no check; DEDUCED, log 49). -/
def armPf (s : State) : Option (Nat × List Item) :=
  let pins := usedPins s
  let pinCheck (c : Nat) : Option (List Item) :=
    (pins.find? fun p => levelCheck (levelBlock s p) = some c).map fun p => [i1 c, iAlt 0 p.val]
  let bankCheck (c : Nat) (ok : Bank → Bool) : Option (List Item) :=
    ((usedBanks s).find? fun b => !ok b).map fun b => [i1 c, iAlt 1 b.val]
  let inRange (b : Bank) : Bool := decide (0x8000 ≤ s.pf.vio[b].toNat ∧ s.pf.vio[b].toNat ≤ 0xE8BA)
  let near (b : Bank) : Bool := !inRange b || (bankMeets s.pf.vio[b] s.pf.bankMv[b] && bankInRange s.pf.bankMv[b])
  let parked : Option (List Item) := if pins.any (pinParked s) then pins.head?.map fun p => [i1 5, iAlt 0 p.val] else none
  (firstSome id [pinCheck 1, pinCheck 2, bankCheck 3 inRange, bankCheck 4 near, parked]).map fun l => (0x0401, l)

/-! ### Pin table (Table 6.8) -/

/-- The reserved bits of the device-section header are 0 (Table 6.8). -/
def headerOk (s : State) : Bool :=
  allZero (memRead 0 s.pt.room 2 6) && allZero (memRead 0 s.pt.room 16 48)

/-- The reserved bits of a site record are 0. -/
def siteOk (s : State) (i : Nat) : Bool :=
  decide (fld (siteW0 s i) 63 49 = 0 ∧ fld (siteW0 s i) 31 10 = 0 ∧ roomAt s (0x808 + 16 * i) 8 = 0)

/-- The reserved bits of a pin's mode word and return-latency word are 0. -/
def modeOk (s : State) (p : Pin) : Bool :=
  let m := modeWord s p
  decide (fld m 63 40 = 0 ∧ fld m 38 38 = 0 ∧ fld m 31 20 = 0 ∧ fld m 15 9 = 0 ∧ fld m 7 1 = 0
    ∧ fld (rlatWord s p) 63 32 = 0)

/-- Used pins with `NOSITE` 0 assigned to a site. -/
def sitePins (s : State) (i : Nat) : List Pin := (usedPins s).filter fun p => !noSite s p && decide (siteOf s p = i)

/-- Check 3: header, then site records, then the mode and return-latency words of every pin. -/
def ptReserved (s : State) : Option (List Item) :=
  if ¬ headerOk s then some [i1 3, iAlt 2 0]
  else match (List.range 64).find? (fun i => !siteOk s i) with
    | some i => some [i1 3, iAlt 1 i]
    | none => ((List.finRange 512).find? fun p => !modeOk s p).map fun p => [i1 3, iAlt 0 p.val]

/-- The pin-table checks (R159): check, pin or site (or none). -/
def armPt (s : State) : Option (Nat × List Item) :=
  let bound : Option (List Item) := if roomHeld s ∧ ¬ s.pt.stale then none else some [i1 1, iAlt 2 0]
  let any : Option (List Item) := if (usedPins s).isEmpty then some [i1 2, iAlt 2 0] else none
  let named := ((usedPins s).find? fun p => !noSite s p && !siteValid s (siteOf s p)).map fun p => [i1 4, iAlt 0 p.val]
  let valid := (List.range 64).filter fun i => siteValid s i
  let counts := (valid.find? fun i => fld (siteW0 s i) 9 0 != (sitePins s i).length).map fun i => [i1 5, iAlt 1 i]
  let gsite (i : Nat) : Nat := fld (siteW0 s i) 47 32
  let twins := (valid.find? fun i => valid.any fun j => i != j && gsite i == gsite j).map fun i => [i1 6, iAlt 1 i]
  let late := ((usedPins s).find? fun p => decide (rlat s p < 1638400)).map fun p => [i1 7, iAlt 0 p.val]
  (firstSome id [bound, any, ptReserved s, named, counts, twins, late]).map fun l => (0x0501, l)

/-! ### Pattern memory (Table 7.8) -/

/-- A region covers part of a DRAM-resident bound pin table. -/
def coversTable (s : State) (r : Region) : Bool :=
  s.pt.bound && !s.pt.hostMem && decide (r.base < s.pt.base.toNat + tableSize ∧ s.pt.base.toNat < r.base + r.size * 2 ^ 20)

/-- A command of some opcodes executes. -/
def running' (ops : List Nat) (s : State) : Bool := s.hi.exec.any fun e => ops.contains e.entry.opcode.toNat

/-- The memory checks (R192): check, region entry. -/
def armPm (s : State) : Option (Nat × List Item) :=
  let bad := firstIdx (fun (x : Region × Bool) => x.2 && ([1, 2, 6].contains x.1.typ || (x.1.typ != 0 && coversTable s x.1))) 0
    (List.zip s.pm.regions.toList ((List.range 16).map fun i => s.pm.regfault.getLsbD i))
  let host := regionByType s 6
  match bad with
  | some (i, _) => some (0x0603, [i1 1, i1 i])
  | none =>
    if host.isSome ∧ ¬ s.hi.busMaster then some (0x0603, [i1 2, i1 ((host.map fun x => x.1).getD 0)])
    else if running' [0x0601, 0x0602] s then some (0x0603, [i1 3, i1 0]) else none

/-! ### Sequence (Table 8.9) -/

/-- The power state is P1 and FAB runs from the edge clock with all four guards open (R42, check 5 of Table 8.9). -/
def timeBaseReady (s : State) : Bool := decide (s.mg.pstate = 1 ∧ s.tb.fabSrc = .edge) && guardsOpen s

/-- The sequence checks (R228): check number. -/
def armSq (s : State) : Option (Nat × List Item) :=
  (firstBad 1 [
    s.sq.loaded, s.sq.poison.isEmpty, s.sq.profile == 0xFF || s.sq.profile.toNat == b2n s.pm.profileB
    , !running' [0x0701, 0x0702] s, timeBaseReady s]).map
    fun c => (0x0708, [i1 c])

/-! ### Condition table (Tables 9.1 and 9.5) -/

/-- An entry of the condition table, all zero where the table has none. -/
def condEnt (s : State) (i : Nat) : CondEntry := s.sq.conds.getD i {}
/-- `SRC`. -/
def cSrc (e : CondEntry) : Nat := fld e.w0.toNat 63 56
/-- `GROUP`. -/
def cGroup (e : CondEntry) : Nat := fld e.w0.toNat 55 48
/-- `SCOPE`. -/
def cScope (e : CondEntry) : Nat := fld e.w0.toNat 47 46
/-- `SITE`. -/
def cSite (e : CondEntry) : Nat := fld e.w0.toNat 45 40
/-- `CLASS`. -/
def cClass (e : CondEntry) : Nat := fld e.w0.toNat 39 36
/-- `EVIN`. -/
def cEvin (e : CondEntry) : Nat := fld e.w0.toNat 35 32
/-- `LOCAL`. -/
def cLocal (e : CondEntry) : Nat := fld e.w0.toNat 31 26
/-- `GOP`. -/
def cGop (e : CondEntry) : Bool := bitAt e.w0.toNat 25
/-- `THRESH`. -/
def cThresh (e : CondEntry) : Nat := e.w2.toNat
/-- `LAT`. -/
def cLat (e : CondEntry) : Nat := fld e.w3.toNat 63 32
/-- `WOFF`. -/
def cWoff (e : CondEntry) : Nat := fld e.w3.toNat 31 0

/-- The pins of a pin group. -/
def groupPins (s : State) (g : Nat) : List Pin :=
  match s.sq.groups[g]? with
  | some m => (List.finRange 512).filter fun p => m.getLsbD p.val
  | none => []

/-- The used pins of `GROUP`: all used pins for 0xFF. -/
def condPins (s : State) (e : CondEntry) : List Pin :=
  if cGroup e = 0xFF then usedPins s else (groupPins s (cGroup e)).filter fun p => used s p

/-- The latency R of an entry of source 1 to 3 (R237). -/
def condR (s : State) (e : CondEntry) : Nat := maxRlat s (condPins s e)

/-- A resolution latency from the subject's start: R, or `LAT` (R237, R238, R249). -/
def condLat (s : State) (e : CondEntry) : Nat := if cSrc e ≤ 3 then condR s e else cLat e

/-- The checks of Table 9.5 on one entry. -/
def condBad (s : State) (e : CondEntry) : Option Nat :=
  let src := cSrc e
  let sc := cScope e
  let lo := condEnt s (cLocal e)
  let sitesOk := (List.range 64).all fun i => !e.w1.getLsbD i || siteValid s i
  firstBad 1 [
    decide (1 ≤ src ∧ src ≤ 6 ∧ fld e.w0.toNat 24 0 = 0)
    , decide (cGroup e < s.sq.groups.length ∨ cGroup e = 0xFF) && (!(List.contains [3, 5, 6] src) || decide (cGroup e = 0xFF))
    , !(List.contains [1, 2, 4] src) || !(condPins s e).isEmpty
    , if sc = 1 then siteValid s (cSite e) else if sc = 0 then decide (cSite e = 0 ∧ e.w1 = 0) else e.w1 != 0 && sitesOk
    , !(List.contains [4, 5, 6] src) || decide (sc = 0)
    , (decide (sc = 1) || decide (cSite e = 0)) && (decide (2 ≤ sc) || e.w1 == 0) && (decide (src = 4) || decide (cClass e = 0))
        && (decide (src = 5) || decide (cEvin e = 0)) && (decide (src = 6) || decide (cLocal e = 0 ∧ cGop e = false))
        && (if src = 3 then decide (1 ≤ cThresh e) else decide (cThresh e = 0)) && (decide (4 ≤ src) || decide (cLat e = 0))
        && (decide (src = 4 ∨ src = 5) || decide (cWoff e = 0))
    , (decide (src ≠ 4) || decide (cClass e ≠ 0)) && (decide (src ≠ 5) || decide (cEvin e ≠ 0))
        && (!(List.contains [4, 5] src) || decide (cWoff e < cLat e))
    , decide (src ≠ 6) || (decide (cLocal e < s.sq.conds.length ∧ 1 ≤ cSrc lo ∧ cSrc lo ≤ 5 ∧ cScope lo = 0) && formed s
        && decide (condLat s lo + 2293760 ≤ cLat e))]

/-- The condition-table checks (R252): check, entry. -/
def armSp (s : State) : Option (Nat × List Item) :=
  firstSome (fun i => (condBad s (condEnt s i)).map fun c => (0x0801, [i1 c, i1 i])) (List.range s.sq.conds.length)

/-! ### Cellar, stream, ensemble (Tables 10.6, 11.9, 14.6) -/

/-- Records wait in the cellar front or granules in flight: `CL_STAT.BUSY` (Table 10.8). -/
def cellarBusy (s : State) : Bool := !s.cl.front.isEmpty

/-- The cellar checks (R268): check number. -/
def armCl (s : State) : Option (Nat × List Item) :=
  (firstBad 1 [
    s.cl.mode == 3 || (match regionByType s 3 with
      | some (i, _) => !s.pm.regfault.getLsbD i
      | none => false)
    , !cellarBusy s, !running' [0x0901] s, s.cl.sof != 3 || (List.range 64).any fun i => siteValid s i]).map
    fun c => (0x0901, [i1 c])

/-- Pins in raw capture mode (R293). -/
def rawPins (s : State) : List Pin := (List.finRange 512).filter fun p => decide (capMode s p = 3)

/-- The stream checks (R297), with the stream open: check number. -/
def armCs (s : State) : Option (Nat × List Item) :=
  if s.cs.open_ then
    (firstBad 1 [
      decide ((rawPins s).length ≤ 64)
      , (match regionByType s 4 with
        | some (i, _) => !s.pm.regfault.getLsbD i
        | none => true)
      , !running' [0x0A01, 0x0A02] s]).map fun c => (0x0A0A, [i1 c])
  else none

/-- The ensemble checks on a member (R366): event 0x0D03 with case 'member check' and the check number. -/
def armEn (s : State) : Option (Nat × List Item) :=
  if s.en.state = .standalone then none
  else
    let ms := mskew s
    (firstBad 1 [
      formed s
      , decide (ensAt s 0 2 = 1) && allZero (memRead 0 s.pt.room 0xC03 5) && allZero (memRead 0 s.pt.room 0xC10 112)
          && allZero (memRead 0 s.pt.room 0xC81 3) && allZero (memRead 0 s.pt.room 0xC88 120)
      , decide (ensAt s 2 1 = s.en.members ∧ ensAt s 8 8 = s.en.ensId.toNat ∧ ensAt s 128 1 = s.en.member)
      , decide (-8192 ≤ ms ∧ ms ≤ 8191), !s.en.leader || s.en.expect.isSome]).map
      fun c => (0x0D03, [i1 0, i1 0, i1 0, i1 c])

/-- Every block's failing arm check, in chapter order: event code and data. -/
def armFailures (s : State) : List (Nat × List Item) :=
  [armTg s, armFm s, armPf s, armPt s, armPm s, armSq s, armSp s, armCl s, armCs s, armEn s].filterMap id

/-- Every failing block issues its event (R59, R85, R135, R159, R192, R228, R252, R268, R297, R366). -/
def issueFailures (l : List (Nat × List Item)) (s : State) : State := l.foldl (fun t x => issue x.1 x.2 t) s

end Sys2Proof.Machine
end

