-- ==== Sys2Proof/Machine/Dram.lean ====
section
/-! DEFINITION. Device DRAM as its readers and writers see it (07): ECC counting (R189), BAR2 writes (R190, R378), host reads,
and the posted-write buffer's front (R376). -/

namespace Sys2Proof.Machine

open Sys2Proof

/-- An ECC outcome counted (R189): a corrected error and the first in a run's event 0x0604, or an uncorrectable one. -/
def noteEcc (ecc : Ecc) (addr : Nat) (s : State) : State :=
  match ecc with
  | .ok => s
  | .corrected => issueOnce 0x0604 [i1 (fld addr 11 10), i8 addr]
      { s with pm := { s.pm with eccCe := satSucc 0xFFFF s.pm.eccCe } }
  | .uncorrectable => { s with pm := { s.pm with eccUe := satSucc 0xFFFF s.pm.eccUe, ueFlag := true
                                                 fresh := freshen s 0x20 s.pm.fresh } }

/-- An uncorrectable read that contains nothing: event 0x0606 with its requester (0 BAR2, 1 maintenance, 2 discarded fetch;
R189). -/
def noteReadUe (ecc : Ecc) (addr requester : Nat) (s : State) : State :=
  let s1 := noteEcc ecc addr s
  if ecc = .uncorrectable then issue 0x0606 [i8 addr, i1 requester] s1 else s1

/-- The addresses of a write fall under R162 or a type that Table 7.2 keeps from BAR2. -/
def bar2Outside (s : State) (a n : Nat) : Bool :=
  decide (0x1FFC000000 < a + n) || s.pm.regions.toList.any fun r =>
    (r.typ == 3 || r.typ == 4) && decide (r.base < a + n ∧ a < r.base + r.size * 2 ^ 20)

/-- Why a BAR2 write is dropped (R190): 1 poisoned, 2 out of region, 3 uncorrectable merge. Of several, the first in the
order of the rule's list (DESIGN CHOICE, log 35). -/
def bar2Cause (ecc : Ecc) (w : Bar2Req) (s : State) : Option Nat :=
  if w.poisoned then some 1
  else if bar2Outside s w.addr w.bytes.length then some 2
  else if ecc = .uncorrectable ∧ (w.addr % 32 ≠ 0 ∨ (w.addr + w.bytes.length) % 32 ≠ 0) then some 3 else none

/-- A BAR2 write dropped (R190): counted, the first recorded, event 0x0602, and the region entry marked. -/
def bar2Drop (cause : Nat) (w : Bar2Req) (s : State) : State :=
  let mark : BitVec 16 := match regionOf s w.addr with
    | some (i, _) => if cause = 2 then 0 else 1#16 <<< i
    | none => 0
  let s1 : State := { s with pm := { s.pm with
    wfault := satSucc 0xFFFFFFFF s.pm.wfault
    wfaultAddr := if s.pm.wfault = 0 then BitVec.ofNat 64 (cause * 2 ^ 61 + w.addr) else s.pm.wfaultAddr
    wranges := s.pm.wranges ++ [(w.addr, w.bytes.length)], regfault := s.pm.regfault ||| mark } }
  issue 0x0602 [i8 w.addr, i1 cause] (errIrq (errsum s) s1)

/-- The tags of the commands that execute and have still to read the pin table (R154). -/
def ptReading (s : State) : List W16 :=
  (s.hi.exec.map fun e => e.entry).filterMap fun c =>
    if List.contains [0x0501, 0x0502] c.opcode.toNat && !finished s c.tag then some c.tag else none

/-- The bytes a write is about to change, kept for every bind or refresh that executes (R154). -/
def noteMixed (w : Bar2Req) (s : State) : State :=
  { s with pt := { s.pt with mixed := s.pt.mixed ++ (ptReading s).flatMap fun tag =>
    (List.range w.bytes.length).map fun i => (tag, w.addr + i, dramByte s.pm (w.addr + i)) } }

/-- One received BAR2 write applied, or dropped whole (R190). -/
def bar2One (ecc : Ecc) (w : Bar2Req) (s : State) : State :=
  match bar2Cause ecc w s with
  | some c => bar2Drop c w (if c = 3 then noteEcc ecc w.addr s else s)
  | none => dramWrite w.addr w.bytes (noteMixed w (if ecc = .corrected then noteEcc ecc w.addr s else s))

/-- The oldest received BAR2 write is applied (R378), in a host slot (R24). -/
def bar2Apply (ecc : Ecc) (s : State) : State :=
  match s.pm.bar2 with
  | [] => s
  | w :: r => bar2One ecc w (inSlot .host w.bytes.length { s with pm := { s.pm with bar2 := r } })

/-- Every BAR2 write received before is applied (R378). -/
def bar2Drain (s : State) : State :=
  (List.range s.pm.bar2.length).foldl (fun t _ => bar2Apply .ok t) s

/-! ### The posted-write buffer (R376) -/

/-- The buffered writes that wait: BAR4 writes at the front are applied at once, since they change nothing (R384). -/
def waiting (l : List Posted) : List Posted := l.dropWhile fun w => w.bar4

/-- The buffered write that is applied next. -/
def frontWrite (s : State) : Option Posted := (waiting s.hi.posted).head?

/-- A write without its bytes at some offsets, which have been applied. -/
def appliedAt (f : Nat → Bool) (w : Posted) : Posted :=
  { w with bytes := (List.range w.bytes.length).map fun i => if f (w.off + i) then none else w.bytes.getD i none }

/-- The bytes of the front write at some offsets have been applied; with none left it leaves the buffer. -/
def popBytes (f : Nat → Bool) (s : State) : State :=
  match waiting s.hi.posted with
  | [] => s
  | w :: r =>
    let w1 := appliedAt f w
    { s with hi := { s.hi with posted := if w1.bytes.all Option.isNone then waiting r else w1 :: r } }

/-- The bytes of a register of `n` bytes at `base` have been applied. -/
def popWrite (base n : Nat) (s : State) : State := popBytes (fun a => decide (base ≤ a ∧ a < base + n)) s

/-- The front of the posted-write buffer writes a register of `n` bytes at `base`, whose contents are `cur`, to a value that meets a
test. -/
def written (base n cur : Nat) (ok : Nat → Bool) (s : State) : Bool :=
  match frontWrite s with
  | some w => wHits w.off w.bytes base n && ok (wMerge w.off w.bytes base n cur)
  | none => false

/-- A register write is applied (R376): it acts as the front of the buffer, in the order of arrival, and never without a request that the
endpoint has received (R432). -/
def applyReg (base n cur : Nat) (ok : Nat → Bool) (f : State → State) (s : State) : State :=
  if written base n cur ok s then f (popWrite base n s) else s

/-- A `RUN_CTL` write of a `CMD` is the next to be applied (Table 15.3). -/
def cmdWritten (cmd : Nat) (s : State) : Bool := written 0x0010 4 0 (fun v => v % 16 == cmd) s

/-- A `RUN_CTL` write leaves the buffer and reaches the vector context after every earlier BAR2 write (R378). -/
def runCtlWrite (s : State) : State := bar2Drain (popWrite 0x0010 4 s)

/-- A `RUN_CTL` write of a `CMD` is applied. -/
def applyRunCtl (cmd : Nat) (f : State → State) (s : State) : State := if cmdWritten cmd s then f (runCtlWrite s) else s

/-- Bytes of an object a command names, in device DRAM or host memory, with the failure a read of it had (R395). -/
def objBytes (s : State) (host : Bool) (src : HostRead) (a n : Nat) : List Byte :=
  if host then hostBytes src a n else dramRead s a n

/-- A write fault recorded since the last clear lies in a range of device DRAM (R156). -/
def faultIn (s : State) (a n : Nat) : Bool := s.pm.wranges.any fun w => decide (w.1 < a + n ∧ a < w.1 + w.2)

/-- The read of such an object failed: uncorrectable in DRAM, a failed completion from the host (R395). -/
def objFails (host : Bool) (src : HostRead) (dr : DramFind) : Bool :=
  if host then src.fail.isSome else decide (dr.ecc = .uncorrectable)

/-- The DRAM read of a command counted (R189). -/
def objNote (host : Bool) (dr : DramFind) (a : Nat) (s : State) : State :=
  if host then s else noteReadUe dr.ecc (a + dr.at_) 1 s

end Sys2Proof.Machine
end

