-- ==== Sys2Proof/Machine/RunCtl.lean ====
section
/-! DEFINITION. Run control (08, 15): `ARM`, `GO`, `HALT`, `ABORT` by Table 8.3, the epoch clear (R42), pending stops (R214,
R380), the fill (R182) and the end of a run (R229). -/

namespace Sys2Proof.Machine

open Sys2Proof

/-! ### The epoch clear -/

/-- The classifier's open spans in the new epoch count (R42). -/
def shiftCls (e : Int) (c : Cls) : Cls :=
  { c with chiUp := c.chiUp.map (· - e), cloDn := c.cloDn.map (· - e), runtLo := c.runtLo.map (· - e)
           runtHi := c.runtHi.map (· - e), slewR := c.slewR.map (· - e), slewF := c.slewF.map (· - e)
           quiet := 0, quietHit := false, from_ := c.from_ - e }

/-- A pin's times in the new epoch count; the timeout span starts at the clear (Table 11.3). -/
def shiftPin (e : Int) (p : PinSt) : PinSt :=
  { p with lastDrive := none, lastTrans := none, lastFire := .replicate 6 none, lastE5 := none, tickCyc := none
           past := [], late := none, win := none
           cls := shiftCls e p.cls }

/-- A TIU's times in the new epoch count. -/
def shiftTiu (e : Int) (u : Tiu) : Tiu :=
  { u with ready := u.ready.map (· - e), shot := u.shot.map fun x => (x.1 - e, x.2), lastStop := u.lastStop.map (· - e) }

/-- A margin channel's times in the new epoch count (R330). -/
def shiftCh (e : Int) (c : MxCh) : MxCh :=
  { c with decAt := c.decAt.map (· - e), inbox := c.inbox.map fun x => (x.1 - e, x.2) }

/-- What is scheduled keeps its instant in the new epoch count. -/
def shiftTimes (s : State) : State :=
  let e := ext s
  let edges := s.tg.edges.map fun x => { x with land := x.land - e, prog := x.prog - e }
  let acts := s.sq.acts.map fun a => { a with due := a.due - e, conds := [] }
  { s with
    pins := vmap (shiftPin e) s.pins
    tg := { s.tg with edges := edges }
    sq := { s.sq with acts := acts }
    pf := { s.pf with ticks := [] }
    cs := { s.cs with raws := s.cs.raws.map (fun x => (x.1, x.2 - e)), hits := [] }
    ti := { s.ti with
      units := vmap (shiftTiu e) s.ti.units, evtEpochs := []
      recent := s.ti.recent.map fun x => { x with start := x.start - e, stop := x.stop - e } }
    mx := { s.mx with nextK := 0, reqs := s.mx.reqs.map (fun x => (x.1, x.2.1, x.2.2 - e)), ch := vmap (shiftCh e) s.mx.ch } }

/-- The keys of a new epoch begin (R281, R284, R295): every active set's next frame begins with an epoch-cleared mark. -/
def clearMark (n : Nat) (s : State) : State :=
  epochMark 6 0 (BitVec.ofNat 64 n) { s with cs := { s.cs with era := s.cs.era + 1, openAt := s.cs.openAt.map fun _ => 0 } }

/-- The epoch clear at arm (R42, R166, R284): epoch and wrap count 0, `EPOCH_VALID`, the arm number, event 0x0107; slot 0 begins, and
a transfer carried until now is complete. -/
def clearEpoch (ensemble : Bool) (s : State) : State :=
  let n := (s.hi.armSeq + 1) % 2 ^ 32
  let s1 := shiftTimes (clearMark n (closeEpoch (flushAll s)))
  issue 0x0107 [i4 n, i1 (b2n ensemble)]
    { s1 with
      tb := { s1.tb with epoch := 0, wraps := 0, epochValid := true }
      pm := { s1.pm with slotAt := .replicate 5 0, slotUsed := .replicate 5 0 }
      hi := { s1.hi with armSeq := n } }

/-! ### Arm -/

/-- A TIU's statistics cleared (R314). -/
def tiuClear (u : Tiu) : Tiu :=
  { u with com := {}, held := none, prov := [], provN := none, done := false, said := [] }

/-- The counters of a snapshot taken in the cycle of the arm: zeros (R257). -/
def armSnap (now : Nat) (c : CL) : CL :=
  if c.snapAt = now then
    { c with snapPins := .replicate 512 0, snapSites := .replicate 64 0, snapDev := 0, snapVec := 0 }
  else c

/-- The cellar's counters and registers that arm clears (R255, R259, R263, R265, Tables 10.8 to 10.11). -/
def armCellar (c : CL) : CL :=
  { c with
    pins := .replicate 512 0, sites := .replicate 64 0, dev := 0, appear := .replicate 512 0, built := 0, headOut := 0
    readNeed := false, prod := 0, oldest := 0, lostFull := 0, lostFront := 0, retired := 0, sofVec := 0, relVec := none
    nDone := false, wrapped := false, full := false, halted := false
    prePins := .replicate 512 0, preSites := .replicate 64 0, preDev := 0, preVec := none }

/-- What arm does to the sequencer (Table 8.3): the program counter at `ENTRY`, loop counters, index, queue and stack empty. A blocking
word of the run before that still executes completes (R214, R224). -/
def armSeq (s : State) : SQ :=
  { s.sq with
    state := .arming, pc := s.sq.entry, loops := .replicate 8 0, cur := none, reqs := {}, vindex := 0, stopped := false
    haltWait := none, stopCause := 0, stopCode := 0, goHeld := false, pendHalt := false, pendAbort := false, pendSof := false
    pendAt := 0, fault := 0, timeouts := 0, dstall := 0, stallRun := 0, decoded := 0, decAt := 0, decUsed := 0, svcQueue := [], held := []
    proc := (abortProc s.sq.proc).map fun p => { p with stack := [] }
    lastV := none, lastIdx := none, lastTook := none, early := [], prevSym := Vector.ofFn fun p => BitVec.ofNat 4 (idleSym s p), once := [] }

/-- `ARM` takes effect (R42, R182, Table 8.3): the epoch clears, every counter of the last run clears, the fill starts. -/
def armEffect (ensemble : Bool) (s0 : State) : State :=
  let s := clearEpoch ensemble s0
  { s with
    sq := armSeq s
    sp := { s.sp with toOpen := [], open_ := [], inflight := [], kept := [], counted := 0, stallRun := 0, bubble := false, bubbleRun := 0
                      mispred := 0, resolved := 0, stall := 0, bubbles := 0, retired := 0, gserial := 0, gresults := [], relCyc := 0, relN := 0 }
    tg := { s.tg with dropCnt := 0, dropFirst := 0 }
    pm := { s.pm with starveCnt := 0, starveFirst := 0, episode := none, episodes := 0, shelf := []
                      cursors := .replicate 512 none }
    cl := armCellar (armSnap s.tb.now s.cl)
    cs := { s.cs with seen := [] }
    ti := { s.ti with units := vmap (fun u => { (if u.gate = 0 then tiuClear u else u) with saidRun := [] }) s.ti.units }
    en := { s.en with armReports := [], idleReports := [], armAsked := none, armWait := false, contribs := [] } }

/-- Why an `ARM` is refused before its checks: not the leader (R355), state (Table 8.3), contained (R415). -/
def armBlocked (s : State) : Option Nat :=
  if s.en.state = .formed ∧ ¬ s.en.leader then some 3
  else if running s ∨ s.en.armWait then some 1
  else if s.mg.contained then some 5 else none

/-- The `ARM` burst of the leader, 144 ns ahead (R354, R356); the arm number is that of the clear it makes. -/
def sendArm (s : State) : State :=
  let t := (ensTime s + burstLead).toNat
  burstDown { stype := 0x13, origin := 0, aux := 0, atime := t % 2 ^ 64
              payload := leBytes 4 (s.hi.armSeq + 1) ++ zeros 8 }
    { s with en := { s.en with armAt := some t, armWait := false, mismatch := 0 } }

/-- The CRC-32C of the common part of the ensemble-parameter block (R357, R365). -/
def commonCrc (s : State) : W32 := crc32c (memRead 0 s.pt.room 0xC00 128)

/-- The configuration digest of this device (R357). -/
def ownDigest (s : State) : W64 :=
  BitVec.ofNat 64 (leNat (sha384Head (leBytes 8 s.sq.imageId.toNat ++ leBytes 4 s.sq.imgCrc.toNat ++ leBytes 4 s.pt.crc.toNat
    ++ [BitVec.ofNat 8 (b2n s.pm.profileB), BitVec.ofNat 8 s.en.member, 0, 0] ++ leBytes 4 (commonCrc s).toNat ++ zeros 8)))

/-- This device's own reply to an arm check (R356). -/
def ownReply (pass : Bool) (s : State) : ArmReply :=
  { member := s.en.member, pass := pass, digest := ownDigest s, imageId := s.sq.imageId, crc := s.sq.imgCrc, ptCrc := s.pt.crc
    profile := BitVec.ofNat 8 (b2n s.pm.profileB), common := commonCrc s }

/-- Why the leader refuses an arm for a member (R356): 0 member check, 1 digest, 2 common item, 3 no reply. -/
def memberCase (s : State) (m : Nat) : Option Nat :=
  let own := ownReply true s
  match (own :: s.en.replies).find? (fun r => r.member = m) with
  | none => some 3
  | some r =>
    if ¬ r.pass then some 0
    else if (s.en.expect.map fun v => v.toList.getD m 0) ≠ some r.digest then some 1
    else if r.imageId ≠ own.imageId ∨ r.crc ≠ own.crc ∨ r.profile ≠ own.profile ∨ r.common ≠ own.common then some 2
    else none

/-- The leader decides on the arm (R356): the `ARM` burst, or the refusal with `EN_MISMATCH` and event 0x0D03, whose case is
the first of the table's that occurs; `HI_REFUSE` cause 6 (Table 15.4b). -/
def armDecide (s : State) : State :=
  let bad := (List.range s.en.members).filterMap fun m => (memberCase s m).map fun c => (m, c)
  match bad with
  | [] => sendArm s
  | (m, _) :: _ =>
    let case_ := bad.foldl (fun k x => min k x.2) 3
    let mask := bad.foldl (fun k x => k + 2 ^ x.1) 0
    refuseRunCtl 1 6 0x0D03 (issue 0x0D03 [i1 case_, i1 bad.length, i1 m, i1 0]
      { s with en := { s.en with armWait := false, armAsked := none, mismatch := BitVec.ofNat 64 mask } })

/-- An `ARM` whose own checks pass: standalone it takes effect, on the leader the members are asked first (R356). -/
def armPassed (s : State) : State :=
  if formed s then
    let s1 : State := { s with en := { s.en with armWait := true, armAsked := some s.tb.now, replies := [] } }
    if s.en.members ≤ 1 then armDecide s1 else msgDown .armCheck s1
  else armEffect false s

/-- An idle-only command executes, or the power state changes: an `ARM` is refused (R29, R418). -/
def armHeldOff (s : State) : Bool := idleOnlyBusy s || s.mg.pwr.isSome

/-- The leader's own checks have failed (R356): member 0 caused the refusal. -/
def ownRefusal (s : State) : State :=
  if formed s then issue 0x0D03 [i1 0, i1 1, i1 0, i1 0] { s with en := { s.en with mismatch := 1 } } else s

/-- `ARM` (R199, R228, R381). Its checks come before the refusal for an idle-only command, as check 4 of Table 8.9 and check 3 of
Tables 7.8, 10.6 and 11.9 name commands of that kind: a failing check gives cause 2, else the command gives cause 4 (DEDUCED, log 8).
The leader's own failing checks refuse it with cause 2; member 0 has then caused the refusal (R356, log 39).
What blocks the command, containment before a state that is not `IDLE`, is tested in the order of `armBlocked` (log 14). -/
def armWrite (s : State) : State :=
  match armBlocked s with
  | some c => refuseRunCtl 1 c 0 s
  | none =>
    match armFailures s with
    | [] => if armHeldOff s then refuseRunCtl 1 4 0 s else armPassed s
    | (code, d) :: r => refuseRunCtl 1 2 code (ownRefusal (issueFailures ((code, d) :: r) s))

/-- A write of `ARM` to `RUN_CTL`. -/
def execArm (s : State) : Host.Outcome State Fault Refusal := .next (applyRunCtl 1 armWrite s)

/-! ### Go -/

/-- The run enters `RUNNING` with its start tick (R200, R358). -/
def goAt (start : Nat) (s : State) : State :=
  { s with sq := { s.sq with state := .running, startTick := start, goHeld := false } }

/-- `GO` in `ARMED` (R200, R358): standalone S_0 is 8 fabric cycles on; the leader sends a `GO` burst. -/
def goNow (s : State) : State :=
  if formed s then
    let t := (ensTime s + burstLead).toNat
    burstDown { stype := 0x12, origin := 0, aux := 0, atime := t % 2 ^ 64, payload := leBytes 4 s.hi.armSeq ++ zeros 8 }
      { s with en := { s.en with goAt := some t }, sq := { s.sq with goHeld := false } }
  else goAt (ext s + 65536) s

/-- `GO` (Table 8.3, R355). -/
def goWrite (s : State) : State :=
  if formed s ∧ ¬ s.en.leader then refuseRunCtl 2 3 0 s
  else match s.sq.state with
    | .arming => issue 0x0707 [i8 s.tb.epoch.toNat] { s with sq := { s.sq with goHeld := true } }
    | .armed => if s.en.goAt.isSome then refuseRunCtl 2 1 0 s else goNow s
    | _ => refuseRunCtl 2 1 0 s

/-- A write of `GO` to `RUN_CTL`. -/
def execGo (s : State) : Host.Outcome State Fault Refusal := .next (applyRunCtl 2 goWrite s)

/-- `ABORT` ends the run's provisional part (R214, R308): conditions, unreleased results, posts and gates go; the executing
service word is the last one run. -/
def abortRun (s : State) : State :=
  let s1 := tiuCloseAll (dropProvisional s)
  { s1 with sq := { s1.sq with proc := abortProc s1.sq.proc } }

/-! ### Word boundaries -/

/-- A stop is pending and its instant has come (R214, R355). -/
def stopDue (s : State) : Bool :=
  (s.sq.pendHalt || s.sq.pendAbort || s.sq.pendSof) && decide (s.sq.pendAt ≤ ext s)

/-- The vector context stands at a word boundary, or before the 1024th, 2048th … vector of a word (R214). A `HALT`
word that waits for older conditions is one, for it has issued nothing (DESIGN CHOICE, log 14). -/
def atBoundary (s : State) : Bool :=
  match s.sq.cur with
  | none => true
  | some c => (c.done + 1) % 1024 == 0

/-- The pending stop takes effect (R214): after an `ABORT` all provisional state is discarded. -/
def takeStop (s : State) : State :=
  if s.sq.pendAbort then abortRun (stopVector 3 0 s) else stopVector 2 0 s

/-- The pending halt or abort acts (R214, Table 8.3): at a word boundary in `RUNNING`; in `ARMING` and `ARMED` at once; in `DRAINING` an
abort alone, and a contained run keeps its cause. -/
def stopHere (s : State) : State :=
  match s.sq.state with
  | .idle => s
  | .running => if atBoundary s then takeStop s else s
  | .draining => if s.sq.pendAbort then finishRun (if s.sq.stopCause = 5 then 5 else 3) 0 (abortRun s) else s
  | _ => if s.sq.pendAbort then finishRun 3 0 (tiuCloseAll s) else finishRun 2 0 s

/-- A pending halt or abort once its instant has come (R214, R355); time passes to it. -/
def execPendingStopAtBoundary (s : State) : Host.Outcome State Fault Refusal :=
  let s1 := if s.sq.pendHalt || s.sq.pendAbort || s.sq.pendSof then toEpoch s.sq.pendAt s else s
  .next (if stopDue s1 then stopHere s1 else s1)

/-! ### Halt and abort -/

/-- A stop that is not held to an instant ahead acts at once outside `RUNNING` (Table 8.3). -/
def stopNow (s : State) : State := if s.sq.state ≠ .running ∧ stopDue s then stopHere s else s

/-- A halt of this device by Table 8.3, at the first boundary at or after an instant (R355); one more while a halt or an abort is pending
is ignored (R380). -/
def haltNow (at_ : Nat) (s : State) : State :=
  match s.sq.state with
  | .idle => s
  | .draining => s
  | _ =>
    if s.sq.pendAbort ∨ s.sq.pendHalt then s
    else stopNow { s with sq := { s.sq with pendHalt := true, pendAt := at_ } }

/-- An abort of this device by Table 8.3 (R214, R308); it replaces a pending halt, and one more while it is pending is ignored (R380). -/
def abortNow (at_ : Nat) (s : State) : State :=
  if s.sq.state = .idle ∨ s.sq.pendAbort then s
  else stopNow { s with sq := { s.sq with pendAbort := true, pendHalt := false, pendSof := false, pendAt := at_ } }

/-- The `HALTREQ` burst of a member (R355): kind 0 host halt, 1 abort, 2 stop-on-fail. -/
def haltReq (kind : Nat) (s : State) : State :=
  burstUp { stype := 0x16, origin := s.en.member, aux := kind, atime := 0
            payload := [BitVec.ofNat 8 s.en.member] ++ zeros 11 } s

/-- A halt (0) or abort (1) on a formed device (R355): the leader sends a `HALT` burst and acts on it itself, another member
asks the leader. -/
def haltEnsemble (kind member : Nat) (s : State) : State :=
  if s.en.leader then
    let t := (ext s + burstLead)
    let s1 := burstDown (haltBurst kind member 0 s) s
    if kind = 1 then abortNow t s1 else haltNow t s1
  else haltReq kind s

/-- `HALT` reaches the vector context (R199, R355, R380): on a formed device it asks the ensemble whatever its own run does. -/
def haltWrite (s : State) : State :=
  if formed s then (if s.sq.pendHalt ∨ s.sq.pendAbort then s else haltEnsemble 0 s.en.member s) else haltNow 0 s

/-- A write of `HALT` to `RUN_CTL`. -/
def execHalt (s : State) : Host.Outcome State Fault Refusal := .next (applyRunCtl 3 haltWrite s)

/-- `ABORT` reaches the vector context (R199, R355, R380). -/
def abortWrite (s : State) : State :=
  if formed s then (if s.sq.pendAbort then s else haltEnsemble 1 s.en.member s) else abortNow 0 s

/-- A write of `ABORT` to `RUN_CTL`. -/
def execAbort (s : State) : Host.Outcome State Fault Refusal := .next (applyRunCtl 4 abortWrite s)

/-- A write of `CMD` 0 or 5 to 15 to `RUN_CTL` (R379): a refusal with cause 1; nothing for the four commands, which have rows
of their own. -/
def execRunCtlInvalidCmd (cmd : BitVec 4) (s : State) : Host.Outcome State Fault Refusal :=
  .next (if 1 ≤ cmd.toNat ∧ cmd.toNat ≤ 4 then s else applyRunCtl cmd.toNat (refuseRunCtl cmd.toNat 1 0) s)

/-! ### The fill and the end of a run -/

/-- The leader has the report of every member, its own included (R358). -/
def allArmed (s : State) : Bool := (List.range s.en.members).all fun m => s.en.armReports.contains m

/-- Entry to `ARMED` (Table 8.3, R358); a held `GO` acts. -/
def enterArmed (s : State) : State :=
  let s1 : State := { s with sq := { s.sq with state := .armed } }
  if s.sq.goHeld then goNow s1 else s1

/-- The initial fill completes (R182, R358): the device is armed; a member reports to the leader, which waits for all. -/
def fillDone (s : State) : State :=
  if s.sq.state ≠ .arming then s
  else if formed s then
    if s.en.leader then
      let s1 : State := { s with en := { s.en with armReports := s.en.armReports ++ [0] } }
      if allArmed s1 then enterArmed s1 else s1
    else enMsg (.armedReport s.en.member false) (enterArmed s) 0
  else enterArmed s

/-- The instant from which the last vector's results are in (R229). -/
def resultsDue (s : State) : Nat :=
  match s.sq.lastTook with
  | some t => t + maxRlat s (usedPins s)
  | none => 0

/-- The service context is idle and its queue empty (R229). -/
def serviceIdle (s : State) : Bool := s.sq.proc.isNone && s.sq.svcQueue.isEmpty && s.sq.held.isEmpty

/-- Nothing is left of the run but the passing of time (R229): after `ABORT`, a fault or containment only the stop is needed. -/
def runOver (s : State) : Bool :=
  s.sq.state == .draining && (decide (3 ≤ s.sq.stopCause)
    || (s.sp.open_.isEmpty && s.sp.inflight.all (fun v => v.idle || v.dead) && serviceIdle s))

/-- The run ends (R229), once its last results are due; a member reports `IDLE` to its leader (R358). -/
def execRunEnd (s : State) : Host.Outcome State Fault Refusal :=
  .next (if runOver s then
      let s1 := if 3 ≤ s.sq.stopCause then s else toEpoch (resultsDue s) s
      finishRun s1.sq.stopCause s1.sq.stopCode s1
    else s)

end Sys2Proof.Machine
end

