-- ==== Sys2Proof/Machine/Words.lean ====
section
/-! DEFINITION. Sequence words (08): the sequence store, decoding with its fault causes in the order of R198, the predicted path
of the word stream, decode slots (R217, R218), the vector-context fault, and posts to the service queue (R219). -/

namespace Sys2Proof.Machine

open Sys2Proof

/-! ### The store -/

/-- The word at an address of the sequence store (R196); undefined after a failed load (R231). No address above 262,143
exists: the all-zero word stands there. -/
def wordAt (s : State) (a : Nat) : Nat :=
  match s.sq.store.find? (fun x => x.1 == a) with
  | some x => x.2.toNat
  | none => if 262144 ≤ a then 0 else (s.sq.storeFree.map fun n => (Config.freeStoreWord n a).toNat).getD 0

/-- One word written; all-zero words are not listed. -/
def putWord (l : List (Nat × BitVec 128)) (a : Nat) (w : BitVec 128) : List (Nat × BitVec 128) :=
  let r := l.filter fun x => x.1 != a
  if w = 0 then r else (a, w) :: r

/-- `OPCODE` (R197). -/
def opOf (w : Nat) : Nat := w / 2 ^ 122 % 64

/-- A vector-context opcode (Table 8.1). -/
def isVecOp (op : Nat) : Bool := decide (1 ≤ op ∧ op ≤ 14)
/-- A service-context opcode (Table 8.1). -/
def isSvcOp (op : Nat) : Bool := decide (0x20 ≤ op ∧ op ≤ 0x27)

/-! ### Decoding -/

/-- The reserved bits of each word (Tables 8.2 and 8.5), as pairs of most and least significant bit. -/
def reservedTable : List (Nat × List (Nat × Nat)) := [
  (0x01, [(18, 0)]), (0x02, [(18, 0)]), (0x03, [(86, 0)]), (0x04, [(121, 90), (86, 18)]), (0x05, [(112, 18)])
  , (0x06, [(30, 18)]), (0x07, [(121, 0)]), (0x08, [(121, 16)]), (0x09, [(119, 64)]), (0x0A, [(120, 26)])
  , (0x0B, [(121, 64)]), (0x0C, [(119, 20), (11, 4)]), (0x0D, [(120, 18)]), (0x0E, [(121, 16)]), (0x20, [(121, 18)])
  , (0x21, [(121, 0)]), (0x22, [(121, 18)]), (0x23, [(63, 18)]), (0x24, [(109, 16)]), (0x25, [(115, 16), (10, 3)])
  , (0x26, [(95, 41)]), (0x27, [(121, 105)])]

/-- Every reserved bit of a word is 0. -/
def reservedOk (w : Nat) : Bool :=
  match reservedTable.find? (fun x => x.1 == opOf w) with
  | some x => x.2.all fun r => fld w r.1 r.2 == 0
  | none => true

/-- A `VEC` or `RPT` in range (Table 8.2). -/
def rangeVec (w : Nat) : Bool :=
  decide (fld w 121 90 ≠ 0) && decide (fld w 53 49 = 0) && (bitAt w 48 || decide (fld w 47 19 = 0))

/-- A `WAIT` in range. -/
def rangeWait (s : State) (w : Nat) : Bool :=
  decide (fld w 121 115 < s.sq.conds.length ∧ 1 ≤ fld w 112 72 ∧ fld w 112 72 ≤ 2 ^ 40 ∧ fld w 35 31 = 0)

/-- An `EVT` in range. -/
def rangeEvt (w : Nat) : Bool :=
  decide (fld w 3 0 ≠ 0) && (if fld w 121 120 = 2 then decide (fld w 19 12 ≠ 0) else decide (fld w 19 12 = 0))

/-- A `LOADW` in range: `COUNT`, `SRC` aligned, the target within the store (Table 8.5, R221, R223). -/
def rangeLoadw (w : Nat) : Bool :=
  decide (1 ≤ fld w 121 105 ∧ fld w 121 105 ≤ 65536 ∧ fld w 67 64 = 0 ∧ fld w 17 0 + fld w 121 105 ≤ 262144)

/-- `GROUP` names an entry of the pin-group table (R221). -/
def rangeGroup (s : State) (w : Nat) : Bool := decide (fld w 121 116 < s.sq.groups.length)

/-- The fields of a word are within their ranges (Tables 8.2, 8.4, 8.5; R221, R223). -/
def rangeOk (s : State) (w : Nat) : Bool :=
  match opOf w with
  | 0x01 => rangeVec w
  | 0x02 => rangeVec w
  | 0x03 => decide (fld w 121 90 ≠ 0)
  | 0x05 => decide (fld w 121 115 = 0x40 ∨ fld w 121 115 < s.sq.conds.length)
  | 0x06 => rangeWait s w
  | 0x09 => decide (1 ≤ fld w 121 120 ∧ fld w 121 120 ≤ 2 ∧ fld w 63 0 ≠ 0)
  | 0x0A => decide (fld w 15 0 ≠ 0)
  | 0x0B => decide (fld w 63 0 ≠ 0)
  | 0x0C => rangeEvt w
  | 0x23 => rangeLoadw w
  | 0x24 => rangeGroup s w
  | 0x25 => rangeGroup s w && decide (fld w 15 13 ≤ 4 ∧ fld w 12 11 ≤ 2 ∧ fld w 2 0 ≤ 4)
  | 0x26 => rangeGroup s w && decide (fld w 99 96 ≤ 12 ∧ fld w 2 0 = 0)
  | 0x27 => decide (fld w 66 64 = 0)
  | _ => true

/-- The address lies in the target range of a copy in flight (R224). -/
def underLoad (s : State) (a : Nat) : Bool :=
  match s.sq.underLoad with
  | some (d, n) => decide (d ≤ a ∧ a < d + n)
  | none => false

/-- A conditional `BR` before any vector with an index (R210). -/
def noSubject (s : State) (w : Nat) : Bool := opOf w == 0x05 && fld w 121 115 != 0x40 && s.sq.lastIdx.isNone

/-- The fault cause of a word at decode, the first in the order of R198; `svc` for the service context. Of a word that the vector context has
decoded ahead, what was found then counts (`early`). -/
def decodeCause (svc : Bool) (s : State) (a : Nat) : Option Nat :=
  let w := wordAt s a
  let early : Option Nat := if svc then none else (s.sq.early.find? fun x => x.1 == a).map fun x => x.2
  if early == some 0x9 || (early.isNone && !svc && underLoad s a) then some 0x9
  else if early.isNone && s.sq.poison.contains a then some 0x7
  else if !isVecOp (opOf w) && !isSvcOp (opOf w) then some 0x1
  else if svc && isVecOp (opOf w) || !svc && isSvcOp (opOf w) then some 0x3
  else if !reservedOk w then some 0x1
  else if !rangeOk s w then some 0x2
  else if noSubject s w then some 0xD else none

/-- A store error found by decode (0) or scrub (1) (R225). -/
def storeEcc (ecc : Ecc) (a found : Nat) (s : State) : State :=
  match ecc with
  | .ok => s
  | .corrected => issueOnce 0x0703 [i8 a] { s with sq := { s.sq with eccCe := satSucc 0xF s.sq.eccCe } }
  | .uncorrectable =>
    if s.sq.poison.contains a then s
    else issue 0x0704 [i8 a, i1 found] { s with sq := { s.sq with poison := a :: s.sq.poison } }

/-! ### The predicted path -/

/-- `LC` of a `LOOP` or `ENDL` word. -/
def loopIx (w : Nat) : Fin 8 := Fin.ofNat 8 (fld w 89 87)

/-- The word that follows a word on the predicted path (R179, R208, R210, R212), with the loop counters there: a conditional `BR` by
its `HINT`, a `WAIT` satisfied; none after a `HALT` or a word that faults at decode. -/
def pathNext (s : State) (a : Nat) (loops : Vector Nat 8) : Option (Nat × Vector Nat 8) :=
  let w := wordAt s a
  if (decodeCause false s a).any (fun c => c != 0xD) then none
  else match opOf w with
    | 0x03 => some (a + 1, vset loops (loopIx w) (fld w 121 90))
    | 0x04 =>
      let n := loops[loopIx w]
      if n = 0 then none else some (if n = 1 then a + 1 else fld w 17 0, vset loops (loopIx w) (n - 1))
    | 0x05 => some (if fld w 121 115 = 0x40 ∨ bitAt w 113 then fld w 17 0 else a + 1, loops)
    | 0x0E => none
    | _ => some (a + 1, loops)

/-- The first `n` words of the predicted path from a word on. -/
def pathWords (s : State) : Nat → Nat → Vector Nat 8 → List Nat
  | 0, _, _ => []
  | n + 1, a, loops => a :: match pathNext s a loops with
    | some (b, l) => pathWords s n b l
    | none => []

/-! ### Decode slots (R217, R218) -/

/-- The nominal start of the next vector (R62, R200): the end of the last vector emitted, or the run's start tick. -/
def nextStart (s : State) : Nat :=
  match s.sq.lastV with
  | some (_, st, p) => st + p
  | none => s.sq.startTick

/-- The vector context decodes ahead: from the arm on, until it stops (R217; that it begins with the arm: DEDUCED, log 31). -/
def decodes (s : State) : Bool := running s && !s.sq.stopped

/-- The decode slots of the fabric cycles that have begun, two in each (R217): the vector context takes them first, while it has
decoded fewer than 64 words ahead. -/
def decodeAccount (s : State) : State :=
  let k := ext s / 8192 - s.sq.decAt
  let need := if decodes s then 64 - s.sq.decoded else 0
  if k = 0 then s
  else { s with sq := { s.sq with
    decoded := s.sq.decoded + min need (2 * k), decUsed := min 2 (need - 2 * (k - 1)), decAt := ext s / 8192 } }

/-- A slot of the present cycle goes to the vector context (R217): while the cycle has one free it is that one, else one that
decoded a word ahead. -/
def useSlot (s : State) : State :=
  if s.sq.decUsed < 2 then { s with sq := { s.sq with decUsed := s.sq.decUsed + 1 } }
  else { s with sq := { s.sq with decoded := s.sq.decoded - 1 } }

/-- The next word of the vector context, decoded (R217, R218): in this cycle where its slot has come, else in the next one, unless
the vector it may supply is due before; then `none`, and the vector context stalls for decode. -/
def takeSlot (s : State) : Option State :=
  let s1 := decodeAccount s
  if 1 ≤ s1.sq.decoded then some (useSlot s1)
  else
    let t := (ext s1 / 8192 + 1) * 8192
    let s2 := decodeAccount (toEpoch t s1)
    if t ≤ nextStart s1 ∧ 1 ≤ s2.sq.decoded then some (useSlot s2) else none

/-- The next word of the vector context is decoded by the start of the vector due (R218). -/
def wordReady (s : State) : Bool := decide (1 ≤ (decodeAccount s).sq.decoded)

/-- The internal boundary of R214 uses a slot (R217). -/
def boundarySlot (s : State) : State := useSlot (decodeAccount s)

/-- A slot that the vector context leaves free, in this cycle or the first later one that has one (R217). -/
def freeSlot (s : State) : State :=
  let s1 := decodeAccount s
  let wait := if s1.sq.decUsed < 2 then 0 else (if decodes s1 then 64 - s1.sq.decoded else 0) / 2 + 1
  let s2 := decodeAccount (toEpoch ((ext s1 / 8192 + wait) * 8192) s1)
  { s2 with sq := { s2.sq with decUsed := s2.sq.decUsed + 1 } }

/-! ### Faults and posts -/

/-- `SQ_FAULT` records a fault (Table 8.10). -/
def recordFault (ctx cause a : Nat) (s : State) : State :=
  { s with sq := { s.sq with
      fault := BitVec.ofNat 64 (2 ^ 63 + ctx * 2 ^ 62 + cause * 2 ^ 58 + a % 2 ^ 18) } }

/-- A vector-context fault (R198): recorded, event 0x0701, the device contained with cause 0x04. -/
def vecFault (cause a : Nat) (s : State) : State :=
  contain 0x04 (issue 0x0701 [i1 cause, i8 a, iv s.sq.vindex] (recordFault 0 cause a s))

/-- A post reaches the service queue, or finds it full (R219). -/
def postNow (h : Held) (s : State) : State :=
  if s.sq.svcQueue.length < 16 then { s with sq := { s.sq with svcQueue := s.sq.svcQueue ++ [h.entry] } }
  else if h.full then vecFault 0xC h.word s
  else issue 0x0706 [i8 h.word, i8 h.entry] { s with sq := { s.sq with
    svcLost := true, fresh := freshen s 0x80 s.sq.fresh } }

/-- Identities of every condition older than the present place in the word stream (R219, R242). -/
def olderConds (s : State) : List Nat := (s.sp.open_ ++ s.sp.toOpen).map fun c => c.cid

/-! ### Words of the vector context -/

/-- A vector that names a timing set that is not valid is on its way to the formatters; the vector context waits (R60). -/
def badVector (s : State) : Bool := s.sp.inflight.any fun v => !v.atFm && !v.idle && !tsValid s v.tset

/-- The vector context runs. -/
def vecRuns (s : State) : Bool := s.sq.state == .running && !s.sq.stopped && !badVector s

/-- The vector context stands before a word. -/
def atWord (s : State) : Bool := vecRuns s && s.sq.cur.isNone && s.sq.haltWait.isNone

/-- The program counter past a word, whose check at decode is used up (R198, R199). -/
def stepPast (a : Nat) (s : State) : State :=
  { s with sq := { s.sq with pc := a + 1, early := s.sq.early.filter fun x => x.1 != a } }

/-- The word at the program counter, decoded, executes (R198, R225): nothing of it where it is another one (`s0` is the state
before its slot); a word that faults has no effect. -/
def runWord (op : Nat) (ecc : Ecc) (f : Nat → Nat → State → State) (s0 s : State) : State :=
  let a := s.sq.pc
  let s1 := storeEcc ecc a 0 s
  match decodeCause false s1 a with
  | some c => vecFault c a s1
  | none => if opOf (wordAt s a) = op then f a (wordAt s a) (stepPast a s1) else s0

/-- A vector-context word executes (R198, R214, R217): a pending stop acts at its boundary; a word whose decode slot has not come
waits for it, and a decode stall comes before (R218). Faults are taken when the word acts, in word order (DEDUCED, log 31). -/
def vecWord (op : Nat) (ecc : Ecc) (f : Nat → Nat → State → State) (s : State) : State :=
  if !atWord s then s
  else if stopDue s then takeStop s
  else match takeSlot s with
    | some t => runWord op ecc f s t
    | none => s

end Sys2Proof.Machine
end

