-- ==== Sys2Proof/Machine/SeqWords.lean ====
section
/-! DEFINITION. The words of the vector context (08): vector runs, loops, branches, waits, modifiers, posts and halt, and the
event outputs (R203 to R219). -/

namespace Sys2Proof.Machine

open Sys2Proof

/-! ### Vector runs and loops -/

/-- A `VEC` or `RPT` becomes the word that supplies vectors (R203, R204). -/
def startRun (k : CurKind) (a w : Nat) (s : State) : State :=
  let c : Cur := { kind := k, word := a, addr := fld w 89 49, left := fld w 121 90
                   desc := if bitAt w 48 then some (fld w 47 19 * 4096) else none }
  { s with sq := { s.sq with cur := some c } }

/-- `VEC` (R203). -/
def execVec (ecc : Ecc) (s : State) : Host.Outcome State Fault Refusal := .next (vecWord 0x01 ecc (startRun .vec) s)

/-- `RPT` (R203). -/
def execRpt (ecc : Ecc) (s : State) : Host.Outcome State Fault Refusal := .next (vecWord 0x02 ecc (startRun .rpt) s)

/-- `LOOP` loads its counter (R208). -/
def loopWord (_ w : Nat) (s : State) : State :=
  { s with sq := { s.sq with loops := vset s.sq.loops (loopIx w) (fld w 121 90) } }

/-- `LOOP`. -/
def execLoop (ecc : Ecc) (s : State) : Host.Outcome State Fault Refusal := .next (vecWord 0x03 ecc loopWord s)

/-- `ENDL` decrements its counter and branches while it stays nonzero; it faults on a zero counter (R208). -/
def endlWord (a w : Nat) (s : State) : State :=
  let n := s.sq.loops[loopIx w]
  if n = 0 then vecFault 0x4 a s
  else
    let pc := if n = 1 then s.sq.pc else fld w 17 0
    { s with sq := { s.sq with loops := vset s.sq.loops (loopIx w) (n - 1), pc := pc } }

/-- `ENDL`. -/
def execEndl (ecc : Ecc) (s : State) : Host.Outcome State Fault Refusal := .next (vecWord 0x04 ecc endlWord s)

/-! ### Branches and waits -/

/-- The checkpoint of R209, with the program counter of the path not taken and the wait a redirect returns to. -/
def checkpoint (pc : Nat) (cur : Option Cur) (s : State) : Check :=
  { pc := pc, cur := cur, loops := s.sq.loops, reqs := s.sq.reqs, vindex := s.sq.vindex, cursors := s.pm.cursors
    retired := s.sp.retired, gserial := s.sp.gserial }

/-- A condition waits for its first vector (R239); a global one takes the next instance number (R249). -/
def addCond (c : Cond) (s : State) : State :=
  let g := cSrc (condEnt s c.entry) = 6
  let next := if g then (s.sp.gserial + 1) % 2 ^ 32 else s.sp.gserial
  let c1 := { c with cid := s.sp.nextCid, gserial := s.sp.gserial, check := { c.check with gserial := next } }
  { s with sp := { s.sp with toOpen := s.sp.toOpen ++ [c1], nextCid := s.sp.nextCid + 1, gserial := next } }

/-- No vector yet: the subject of a stay `WAIT` before its first repetition. -/
def noSubj (s : State) : Subj := { n := s.sq.nEmit, idx := s.sq.vindex, start := 0, period := 0, cnt := s.sp.counted }

/-- `BR` (R210): unconditional, or predicted by `HINT` with a condition on the last vector with an index. -/
def brWord (a w : Nat) (s : State) : State :=
  let target := fld w 17 0
  if fld w 121 115 = 0x40 then { s with sq := { s.sq with pc := target } }
  else
    let hint := bitAt w 113
    let other := if hint then a + 1 else target
    let c : Cond := { cid := 0, word := a, entry := fld w 121 115, sense := bitAt w 114, pred := hint
                      subj := s.sq.lastIdx.getD (noSubj s), check := checkpoint other none s }
    addCond c { s with sq := { s.sq with pc := if hint then target else a + 1 } }

/-- `BR`. -/
def execBr (ecc : Ecc) (s : State) : Host.Outcome State Fault Refusal := .next (vecWord 0x05 ecc brWord s)

/-- The open condition of a stay `WAIT` (R212). -/
def stayCond (cur : Cur) (entry : Nat) (sense : Bool) (s : State) : Cond :=
  { cid := 0, word := cur.word, entry := entry, sense := sense, pred := true, stay := true, subj := noSubj s
    check := checkpoint (fld (wordAt s cur.word) 17 0) none s }

/-- `WAIT` (R212): in stay mode its condition opens with the first repetition. -/
def waitWord (a w : Nat) (s : State) : State :=
  let stay := !bitAt w 113
  let c : Cur := { kind := .wait (fld w 121 115) (bitAt w 114) 0 (fld w 17 0) stay, word := a, addr := fld w 71 31, left := 0 }
  let s1 : State := { s with sq := { s.sq with cur := some c } }
  if stay then addCond (stayCond c (fld w 121 115) (bitAt w 114) s) s1 else s1

/-- `WAIT`. -/
def execWait (ecc : Ecc) (s : State) : Host.Outcome State Fault Refusal := .next (vecWord 0x06 ecc waitWord s)

/-! ### Modifiers -/

/-- The pending requests changed (R205). -/
def setReqs (f : Reqs → Reqs) (s : State) : State := { s with sq := { s.sq with reqs := f s.sq.reqs } }

/-- `LTK` (R205). -/
def execLtk (ecc : Ecc) (s : State) : Host.Outcome State Fault Refusal :=
  .next (vecWord 0x07 ecc (fun _ _ => setReqs fun r => { r with ltk := true }) s)

/-- `MARK` (R205): the tag of the last one stands (R206). -/
def execMark (ecc : Ecc) (s : State) : Host.Outcome State Fault Refusal :=
  .next (vecWord 0x08 ecc (fun _ w => setReqs fun r => { r with mark := some (fld w 15 0) }) s)

/-- `TGATE` (R206): masks are ORed within an action; a TIU both opened and closed faults. -/
def tgateWord (a w : Nat) (s : State) : State :=
  let m : W64 := BitVec.ofNat 64 (fld w 63 0)
  let isOpen := fld w 121 120 = 1
  if (if isOpen then s.sq.reqs.tclose else s.sq.reqs.topen) &&& m ≠ 0 then vecFault 0x5 a s
  else if isOpen then setReqs (fun r => { r with topen := r.topen ||| m }) s
  else setReqs (fun r => { r with tclose := r.tclose ||| m }) s

/-- `TGATE`. -/
def execTgate (ecc : Ecc) (s : State) : Host.Outcome State Fault Refusal := .next (vecWord 0x09 ecc tgateWord s)

/-- `MXJ` (R206): a channel that two words name faults. -/
def mxjWord (a w : Nat) (s : State) : State :=
  let l := (maskBits 16 (fld w 15 0)).map fun c => (c, fld w 25 16, bitAt w 121)
  if s.sq.reqs.mxj.any (fun x => l.any fun y => y.1 = x.1) then vecFault 0x5 a s
  else setReqs (fun r => { r with mxj := r.mxj ++ l }) s

/-- `MXJ`. -/
def execMxj (ecc : Ecc) (s : State) : Host.Outcome State Fault Refusal := .next (vecWord 0x0A ecc mxjWord s)

/-- `SITE` (R205, R206). -/
def execSite (ecc : Ecc) (s : State) : Host.Outcome State Fault Refusal :=
  .next (vecWord 0x0B ecc (fun _ w => setReqs fun r => { r with sites := r.sites ||| BitVec.ofNat 64 (fld w 63 0) }) s)

/-- `EVT` (R206): an output that two words name faults. -/
def evtWord (a w : Nat) (s : State) : State :=
  let l := (maskBits 4 (fld w 3 0)).map fun c => (c, fld w 121 120, fld w 19 12)
  if s.sq.reqs.evt.any (fun x => l.any fun y => y.1 = x.1) then vecFault 0x5 a s
  else setReqs (fun r => { r with evt := r.evt ++ l }) s

/-- `EVT`. -/
def execEvt (ecc : Ecc) (s : State) : Host.Outcome State Fault Refusal := .next (vecWord 0x0C ecc evtWord s)

/-! ### Posts and halt -/

/-- `SVC` (R219): queued at decode, or held behind the older unresolved conditions. -/
def svcWord (a w : Nat) (s : State) : State :=
  let h : Held := { entry := fld w 17 0, word := a, full := bitAt w 121, conds := olderConds s }
  if h.conds.isEmpty then postNow h s else { s with sq := { s.sq with held := s.sq.held ++ [h] } }

/-- `SVC`. -/
def execSvc (ecc : Ecc) (s : State) : Host.Outcome State Fault Refusal := .next (vecWord 0x0D ecc svcWord s)

/-- `HALT` (R205, R216): it stops the vector context, or waits for the older conditions; it faults with a request pending. -/
def haltWord' (a w : Nat) (s : State) : State :=
  if s.sq.reqs ≠ {} then vecFault 0x5 a s
  else if (olderConds s).isEmpty then stopVector 1 (fld w 15 0) s
  else { s with sq := { s.sq with haltWait := some (fld w 15 0) } }

/-- `HALT`. -/
def execHaltWord (ecc : Ecc) (s : State) : Host.Outcome State Fault Refusal := .next (vecWord 0x0E ecc haltWord' s)

/-! ### Requests that act, and the event outputs -/

/-- The first waiting carrier request that satisfies a test: the earliest due, in emission order at equal times. -/
def firstAct (p : Act → Bool) (l : List Act) : Option Act :=
  l.foldl (fun b a => if ¬ p a then b else match b with
    | none => some a
    | some x => if a.due < x.due then some a else b) none

/-- A carrier's requests with a part taken out. -/
def takeAct (a : Act) (f : Reqs → Reqs) (s : State) : State :=
  let l := s.sq.acts.map fun x => if x = a then { x with reqs := f x.reqs } else x
  { s with sq := { s.sq with acts := l.filter fun x => !actDone x } }

/-- One event-output action (R207): low, high, a pulse of `WIDTH` fabric cycles, toggle. A new action on a line ends a pulse
that runs on it; a pulse returns to the level before it (log 13). -/
def driveEvt (s : State) (x : Fin 4 × Nat × Nat) : State :=
  let i := x.1
  let base := (s.sq.pulse[i].map fun p => p.2).getD s.sq.evtOut[i]
  let level := if x.2.1 = 0 then false else if x.2.1 = 3 then !s.sq.evtOut[i] else true
  let pulse := if x.2.1 = 2 then some (s.tb.now + 8192 * x.2.2, base) else none
  { s with sq := { s.sq with evtOut := vset s.sq.evtOut i level, pulse := vset s.sq.pulse i pulse } }

/-- An `EVT` request acts in the first fabric cycle at or after S_c + Λ (R207). -/
def execEvtOutputAct (s : State) : Host.Outcome State Fault Refusal :=
  .next (match firstAct (fun a => !a.reqs.evt.isEmpty) s.sq.acts with
    | none => s
    | some a => a.reqs.evt.foldl driveEvt (takeAct a (fun r => { r with evt := [] }) (toEpoch a.due s)))

/-- The end of an `EVT` pulse (R207). -/
def execEvtPulseEnd (line : Fin 4) (s : State) : Host.Outcome State Fault Refusal :=
  .next (match s.sq.pulse[line] with
    | none => s
    | some (t, level) =>
      let s1 := toTime t s
      { s1 with sq := { s1.sq with
          pulse := vset s1.sq.pulse line none
          evtOut := vset s1.sq.evtOut line level } })

end Sys2Proof.Machine
end

