-- ==== Sys2Proof/Machine/Vector.lean ====
section
/-! DEFINITION. The issue of vectors (07, 08, 09): vector headers and symbols (R172 to R174), lane data (R175 to R178), start
times and brims (R62, R75), starvation, decode stalls, redirect bubbles and limit stalls (R187, R218, R241, R247), carriers
(R205 to R207), and the drops of R70. -/

namespace Sys2Proof.Machine

open Sys2Proof

/-! ### Vector headers and symbols -/

/-- `TSET` (Table 7.6). -/
def vTset (b : List Byte) : Nat := fld (fieldAt b 0 8) 5 0
/-- `BODY`. -/
def vBody (b : List Byte) : Nat := fld (fieldAt b 0 8) 7 6
/-- `MARK`. -/
def vMark (b : List Byte) : Bool := bitAt (fieldAt b 0 8) 16
/-- `LTK`. -/
def vLtk (b : List Byte) : Bool := bitAt (fieldAt b 0 8) 17
/-- `MARK_ID`. -/
def vMarkId (b : List Byte) : Nat := fld (fieldAt b 0 8) 63 48
/-- `GMASK`. -/
def vGmask (b : List Byte) : Nat := fieldAt b 8 8
/-- Gloves present in a glove-sparse body. -/
def vGloves (b : List Byte) : Nat := (maskBits 64 (vGmask b)).length

/-- The size of a vector (R172). -/
def vSize (b : List Byte) : Nat :=
  if vBody b = 0 then 288 else if vBody b = 1 then 32 + 32 * ((vGloves b + 7) / 8) else 32

/-- A malformed header (R174). -/
def vHdrBad (b : List Byte) : Bool :=
  let w := fieldAt b 0 8
  decide (2 ≤ vBody b) || decide (fld w 47 18 ≠ 0) || decide (fld w 15 8 ≠ 0) || (vBody b == 0 && vGmask b != 0)
    || !allZero (slice b 16 16)

/-- Nonzero padding after the last present glove (R173, R174). -/
def vPadBad (b : List Byte) : Bool :=
  vBody b == 1 && !allZero (slice b (32 + 4 * vGloves b) (vSize b - 32 - 4 * vGloves b))

/-- The symbol of a pin in a vector (R84, R173); `prev` is its symbol in the previous vector. -/
def vSym (b : List Byte) (prev : BitVec 4) (p : Pin) : BitVec 4 :=
  let g := p.val / 8
  let pick (j : Nat) : BitVec 4 := BitVec.ofNat 4 (fieldAt b (32 + 4 * j) 4 / 2 ^ (4 * (p.val % 8)))
  if vBody b = 0 then pick g
  else if bitAt (vGmask b) g then pick (maskBits 64 (vGmask b % 2 ^ g)).length
  else prev

/-- Every pin's symbol in a vector. -/
def vSyms (s : State) (b : List Byte) : Vector (BitVec 4) 512 := vmapIdx (fun p x => vSym b x p) s.sq.prevSym

/-- The symbol of a pin selects burst (Table 4.1). -/
def symBurst (s : State) (p : Pin) (sym : BitVec 4) : Bool := bitAt (symEntry s p sym.toNat) 15

/-- The used pins whose symbols select burst, ascending. -/
def burstPins (s : State) (syms : Vector (BitVec 4) 512) : List Pin := (usedPins s).filter fun p => symBurst s p syms[p]

/-! ### What the attic holds -/

/-- The main shelf's item of a kind (R179). -/
def shelfItem (i : FetchItem) (s : State) : Option Shelf := s.pm.shelf.find? fun x => !x.spare && x.item == i

/-- One item taken from the main shelf. -/
def eraseItem (i : FetchItem) (l : List Shelf) : List Shelf :=
  match l.find? (fun x => !x.spare && x.item == i) with
  | some x => l.erase x
  | none => l

/-- The first main-shelf item of a kind is consumed in part. -/
def markPart (i : FetchItem) : List Shelf → List Shelf
  | [] => []
  | x :: r => if !x.spare && x.item == i then { x with part := true } :: r else x :: markPart i r

/-- The byte addresses that `n` UI from a cursor touch (R175). -/
def laneBytes (cur n : Nat) : List Nat := (List.range ((cur + n + 3) / 4 - cur / 4)).map fun i => cur / 4 + i

/-- The 64-byte blocks that `n` UI from a cursor touch (R179). -/
def laneBlocks (cur n : Nat) : List Nat := ((laneBytes cur n).map fun a => a / 64 * 64).eraseDups

/-- A UI symbol of a pin's lane (R175). -/
def laneUi (s : State) (p : Pin) (ui : Nat) : BitVec 2 :=
  let a := ui / 4
  match shelfItem (.lane p (a / 64 * 64)) s with
  | some x => BitVec.ofNat 2 ((x.bytes.getD (a % 64) 0).toNat / 4 ^ (ui % 4))
  | none => 0

/-- A fetch fault (R174, R178, R203): event 0x0607 and containment. -/
def fetchFault (addr pin : Nat) (s : State) : State := contain 0x06 (issue 0x0607 [i8 addr, i2 pin, iv s.sq.vindex] s)

/-- Poisoned data needed (R189): event 0x0605 and containment. -/
def poisonFault (addr : Nat) (s : State) : State := contain 0x06 (issue 0x0605 [i8 addr, iv s.sq.vindex] s)

/-- What one burst pin's lane lacks (R178, R187, R189). -/
inductive LaneState where
  | ready | outside (addr : Nat) | poisoned (addr : Nat) | missing (host : Bool)
deriving DecidableEq, Repr

/-- The state of a burst pin's lane for the next `n` UI. -/
def laneState (s : State) (n : Nat) (p : Pin) : LaneState :=
  match s.pm.cursors[p] with
  | none => .outside 0
  | some c =>
    match (laneBytes c n).find? (fun a => !([2, 6].contains (regionTyp s a))) with
    | some a => .outside a
    | none =>
      let blocks := laneBlocks c n
      match blocks.findSome? (fun a => (shelfItem (.lane p a) s).filter fun x => x.ue) with
      | some x => .poisoned x.bad
      | none =>
        match blocks.find? (fun a => (shelfItem (.lane p a) s).isNone) with
        | some a => .missing (regionTyp s a == 6)
        | none => .ready

/-! ### Start times -/

/-- The brim before a vector of timing set `t` (R62, R75, R78). -/
def brim (s : State) (t : Nat) : Nat :=
  let enters : Bool := match s.sq.lastV with
    | some (t0, _, _) => t0 != t
    | none => true
  if enters ∧ tsCoherent s t then (((tsPhase s t : Int) - nextStart s) % (tsPeriod s t : Int)).toNat else 0

/-! ### Dropped edges (R79) -/

/-- A drop or a changed window counted (R79): cause 1 generator interval, 2 drive conflict, 3 window order, 4 overhang; `kind`
0 strobe only, 1 masked. -/
def countDrop (cause : Nat) (e : PEdge) (kind : Nat) (s : State) : State :=
  let first : Nat := 2 ^ 31 + cause * 2 ^ 28 + e.e * 2 ^ 25 + e.pin.val * 2 ^ 16
  let s1 : State := { s with tg := { s.tg with
    dropCnt := satSucc 0xFFFFFFFF s.tg.dropCnt
    dropFirst := if s.tg.dropFirst = 0 then BitVec.ofNat 32 first else s.tg.dropFirst } }
  let full := [i2 e.pin.val, i1 e.e, iv e.idx, i1 (b2n e.idle)]
  if cause = 1 then issueFirst 0x0202 full s1
  else if cause = 2 then issueFirst 0x0203 full s1
  else if cause = 3 then issueFirst 0x0205 [i2 e.pin.val, iv e.idx, i1 kind] s1
  else issueFirst 0x0204 full s1

/-- An edge that R70 drops: it overhangs to or past the start of the second vector after its own. R74 says that the drop rules use
land times, R70 speaks of the programmed start S_{n+2}: the edge's programmed time is compared with it, without deskew (DESIGN
CHOICE, log 32). -/
def overhangs (n start : Nat) (e : PEdge) : Bool := e.n + 2 == n && decide (start ≤ e.prog)

/-- Two edges of one vector and UI on one pin. -/
def sameSpan (a b : PEdge) : Bool := decide (a.pin = b.pin ∧ a.n = b.n ∧ a.ui = b.ui)

/-- The E5 of a window that R69 makes a strobe: it is not placed. -/
def shortWin (l : List PEdge) (e : PEdge) : Bool :=
  e.e == 5 && l.any fun x => sameSpan x e && x.e == 4 && decide (e.land < x.land + 256)

/-- What a drop leaves of a vector's edges (R67, R70, R96): the others stay, and an E4 whose E5 is dropped gives no result; with
an E4 goes an E5 that R69 does not place. -/
def afterDrop (e x : PEdge) : Option PEdge :=
  if sameSpan x e then
    if x.e = e.e ∨ e.e = 4 ∧ x.e = 5 ∧ x.land < e.land + 256 then none
    else if e.e = 5 ∧ x.e = 4 then some { x with dropped := true } else some x
  else some x

/-- A window in progress whose E5 is dropped gives no result (R96). -/
def dropWin (e : PEdge) (p : PinSt) : PinSt :=
  if e.e = 5 ∧ p.win.any (fun w => w.n = e.n ∧ w.ui = e.ui) then { p with win := none } else p

/-- An edge dropped and counted. -/
def dropEdge (cause : Nat) (e : PEdge) (s : State) : State :=
  let s1 : State := { s with
    tg := { s.tg with edges := s.tg.edges.filterMap (afterDrop e) }
    pins := vupd s.pins e.pin (dropWin e) }
  countDrop cause e 0 s1

/-- No compare is made in a brim (R76, R96): an E4 programmed in it gives no result. A window whose E4 is programmed before the brim
is performed whole, though its E5 or a later part of it lies in the brim (DESIGN CHOICE, log 32). -/
def maskBrim (lo hi : Nat) (e : PEdge) : PEdge := if e.e = 4 ∧ lo ≤ e.prog ∧ e.prog < hi then { e with dropped := true } else e

/-- A brim before the vector of emission number `n`: the compares of the two vectors before it that fall in it are masked. -/
def noteBrim (n lo hi : Nat) (s : State) : State :=
  if lo < hi then
    { s with
      tg := { s.tg with edges := s.tg.edges.map (maskBrim lo hi) }
      sp := { s.sp with inflight := s.sp.inflight.map fun v => if n ≤ v.n + 2 then { v with brims := (lo, hi) :: v.brims } else v } }
  else s

/-- An overhang edge is dropped and counted (R70); one that is not placed on its pin, by the function of this moment, is not
counted (R90, R91; DESIGN CHOICE, log 32: the function at its land time is not known yet), nor an E5 that R69 does not place. -/
def cutEdge (l : List PEdge) (s : State) (e : PEdge) : State :=
  if shortWin l e then s
  else if placed s e then dropEdge 4 e s
  else { s with
    tg := { s.tg with edges := s.tg.edges.filterMap (afterDrop e) }
    pins := vupd s.pins e.pin (dropWin e) }

/-- The drops of R70 when the vector of emission number `n` is issued at `start`: edges placed already, and edges that its
record still has to place. -/
def cutOverhang (n start : Nat) (s : State) : State :=
  let s1 := (s.tg.edges.filter (overhangs n start)).foldl (cutEdge s.tg.edges) s
  { s1 with sp := { s1.sp with inflight := s1.sp.inflight.map fun v => if v.n + 2 = n then { v with cut := some start } else v } }

/-! ### Conditions open (R239, R246) -/

/-- The oldest subject counted from: of a stay `WAIT` its oldest unresolved repetition (R212, R246). -/
def subjCnt (s : State) (c : Cond) : Nat :=
  if c.stay then (c.reps.head?.map fun r => r.cnt).getD s.sp.counted else c.subj.cnt

/-- The horizon (R246). -/
def horizon (s : State) : Nat :=
  match s.sp.open_ with
  | [] => 0
  | c :: _ => s.sp.counted - subjCnt s c

/-- Conditions that wait open with an idle vector: in order, up to the limit of R246, and no stay `WAIT`, whose first
repetition is not issued. -/
def openSome : Nat → State → State
  | 0, s => s
  | n + 1, s =>
    match s.sp.toOpen with
    | [] => s
    | c :: r =>
      if c.stay ∨ 4 ≤ s.sp.open_.length then s
      else openSome n { s with sp := { s.sp with toOpen := r, open_ := s.sp.open_ ++ [c] } }

/-- Every condition that waits opens. -/
def openAll (s : State) : State := { s with sp := { s.sp with toOpen := [], open_ := s.sp.open_ ++ s.sp.toOpen } }

/-- Why the due vector may not be issued (R247): 0 a fifth unresolved condition, 1 the horizon. -/
def limitCause (counts : Bool) (s : State) : Option Nat :=
  if 4 < s.sp.open_.length + s.sp.toOpen.length then some 0
  else if counts ∧ (openAll s).sp.open_ ≠ [] ∧ 2048 < horizon (openAll s) + 1 then some 1 else none

/-! ### Idle vectors -/

/-- Why an idle vector is issued (R187, R216, R218, R241, R247). -/
inductive IdleKind where
  | limit (cause : Nat) | decode | starve (cause pin : Nat) | bubble | halt
deriving DecidableEq, Repr

/-- Episodes of other kinds end with a vector that is not of their kind (R187, R218, R247). -/
def endOthers (k : Option IdleKind) (s : State) : State :=
  let s1 := match k with
    | some (.starve _ _) => s
    | _ => endStarve s
  let s2 := if k = some .decode then s1 else endDstall s1
  match k with
  | some (.limit _) => s2
  | none => endLimit (endBubble s2)
  | _ => endLimit s2

/-- A starvation idle vector (R187, R188): the count, the episode, the first episode since arm. -/
def noteStarve (cause pin : Nat) (s : State) : State :=
  let first : Nat := 2 ^ 63 + cause * 2 ^ 60 + pin * 2 ^ 48 + s.sq.vindex % 2 ^ 48
  let ep : Episode := match s.pm.episode with
    | some e => { e with idles := e.idles + 1 }
    | none => { cause := cause, pin := pin, idles := 1, idx := s.sq.vindex }
  { s with pm := { s.pm with
      starveCnt := satSucc 0xFFFFFFFF s.pm.starveCnt, starved := true, fresh := freshen s 0x80 s.pm.fresh, episode := some ep
      starveFirst := if s.pm.starveFirst = 0 then BitVec.ofNat 64 first else s.pm.starveFirst } }

/-- The counters of an idle vector of a kind. -/
def noteIdle (k : IdleKind) (s : State) : State :=
  match k with
  | .limit c =>
    let first := s.sp.stallRun = 0
    { s with sp := { s.sp with
        stall := satSucc 0xFFFFFFFF s.sp.stall, stallRun := s.sp.stallRun + 1, stalled := true, fresh := freshen s 4 s.sp.fresh
        stallCause := if first then c else s.sp.stallCause, stallIdx := if first then s.sq.vindex else s.sp.stallIdx } }
  | .decode => { s with sq := { s.sq with
      dstall := satSucc 0xFFFFFFFF s.sq.dstall, stallRun := s.sq.stallRun + 1
      stallIdx := if s.sq.stallRun = 0 then s.sq.vindex else s.sq.stallIdx } }
  | .starve c p => noteStarve c p s
  | .bubble => { s with sp := { s.sp with bubbles := satSucc 0xFFFFFFFF s.sp.bubbles, bubbleRun := s.sp.bubbleRun + 1 } }
  | .halt => s

/-- An idle vector is emitted at its start (R101): the timing set of the last vector, every pin's idle symbol, no index. A run that
begins with an idle vector whose timing set 0 is coherent starts at the start tick without a brim, off the grid of R78 (DESIGN
CHOICE, log 32). -/
def emitIdle (counts : Bool) (start : Nat) (s : State) : State :=
  let t := (s.sq.lastV.map fun v => v.1).getD 0
  let n := s.sq.nEmit
  let v : VRec := { n := n, idx := s.sq.vindex, idle := true, isWait := false, tset := t, start := start
                    period := tsPeriod s t, nui := tsUi s t, syms := Vector.ofFn fun p => BitVec.ofNat 4 (idleSym s p)
                    uis := [], reqs := {}, conds := [], retired := s.sp.retired }
  cutOverhang n start { s with
    sq := { s.sq with nEmit := n + 1, lastV := some (t, start, tsPeriod s t) }
    sp := { s.sp with
      inflight := s.sp.inflight ++ [v]
      counted := if counts then s.sp.counted + 1 else s.sp.counted } }

/-- An idle vector in place of the due one (R247): one that would stand younger than a fifth unresolved condition, or raise the
horizon above its limit, counts as a limit stall only. -/
def idleVector (k : IdleKind) (start : Nat) (s : State) : State :=
  let s1 := openSome 4 s
  let k1 : IdleKind := match k with
    | .limit c => .limit c
    | _ => if 4 < s.sp.open_.length + s.sp.toOpen.length then .limit 0
      else if s1.sp.open_ ≠ [] ∧ 2048 < horizon s1 + 1 then .limit 1 else k
  let counts : Bool := match k1 with
    | .limit _ => false
    | _ => true
  emitIdle counts start (noteIdle k1 (endOthers (some k1) s1))

/-- Missing data (R187, R188, R241): a bubble after a redirect, else starvation, or containment where the action says so. -/
def missingData (cause pin start : Nat) (s : State) : State :=
  if s.sp.bubble then idleVector .bubble start s
  else if s.pm.starveAct then contain 0x06 s
  else idleVector (.starve cause pin) start s

/-! ### The due vector -/

/-- The requests of a carrier: the pending words and the header's bits (R206). -/
def carrierReqs (b : List Byte) (r : Reqs) : Reqs :=
  { r with ltk := r.ltk || vLtk b, mark := if r.mark.isSome then r.mark else if vMark b then some (vMarkId b) else none }

/-- The first fabric cycle at or after S_c + Λ (R207). -/
def actCycle (start : Nat) : Nat := ceilTo 8192 (start + landLat)

/-- What a carrier's requests set going (R109, R207, R282): the level tick, the actions, the sequence mark. -/
def carry (n idx start : Nat) (conds : List Nat) (r : Reqs) (s : State) : State :=
  let due := actCycle start
  let a : Act := { due := due, n := n, idx := idx, conds := conds
                   reqs := { r with ltk := false, mark := none, sites := 0 } }
  let ticks := if r.ltk ∧ ¬ s.pf.ticks.contains due then s.pf.ticks ++ [due] else s.pf.ticks
  let acts := if actDone a then s.sq.acts else s.sq.acts ++ [a]
  let s1 : State := { s with pf := { s.pf with ticks := ticks }, sq := { s.sq with acts := acts } }
  match r.mark with
  | some m => markAll (start + landLat) (markW0 2 0) (BitVec.ofNat 64 (m % 2 ^ 16 * 2 ^ 48 + idx % 2 ^ 48)) conds s1
  | none => s1

/-- The subject of a vector just emitted enters the open conditions (R212, R240): the tails grow, the stay `WAIT` that emits
gains a repetition. -/
def noteSubject (word deadline idx0 : Nat) (rep : Bool) (sub : Subj) (c : Cond) : Cond :=
  if c.stay then (if rep ∧ c.word = word then { c with reps := c.reps ++ [sub], deadline := deadline, idx0 := idx0 } else c)
  else { c with tails := c.tails + 1, tail0 := some (c.tail0.getD sub.idx) }

/-- The word that supplies vectors after one more (R203, R212). -/
def nextCur (c : Cur) (size idx start timeout : Nat) : Option Cur :=
  let c1 := { c with done := c.done + 1, left := c.left - 1, desc := none }
  match c.kind with
  | .vec => if c.left ≤ 1 then none else some { c1 with addr := c.addr + size }
  | .rpt => if c.left ≤ 1 then none else some c1
  | .wait e sn d tt stay =>
    let k : CurKind := .wait e sn (if c.done = 0 then start + timeout else d) tt stay
    some { c1 with kind := k, idx0 := if c.done = 0 then idx else c.idx0 }

/-- The shelf after a pin has consumed `n` UI from a cursor (R175, R179): a block whose last UI is consumed is freed. -/
def takeLane (p : Pin) (cur n : Nat) (l : List Shelf) : List Shelf :=
  (laneBlocks cur n).foldl
    (fun t a => if a + 64 ≤ (cur + n) / 4 then eraseItem (.lane p a) t else markPart (.lane p a) t) l

/-- The attic after a vector has taken its data (R175, R179): the last vector that needs it frees the item; the burst pins consume
`n` UI each. -/
def takeData (c : Cur) (last : Bool) (pins : List Pin) (n : Nat) (m : PM) : PM :=
  let shelf := if last then eraseItem (.vector c.addr) m.shelf else m.shelf
  let one := fun (l : List Shelf) (p : Pin) => match m.cursors[p] with
    | some u => takeLane p u n l
    | none => l
  { m with
    shelf := pins.foldl one shelf
    cursors := vmapIdx (fun p x => if pins.contains p then x.map (· + n) else x) m.cursors }

/-- A vector of the word is the last one to need the item it was fetched as (R179): each of a `VEC`, the last repetition of an `RPT`,
the one repetition of a `WAIT` in go mode. -/
def lastUse (c : Cur) : Bool :=
  match c.kind with
  | .vec => true
  | .rpt => decide (c.left ≤ 1)
  | .wait _ _ _ _ stay => !stay

/-- The deadline of the `WAIT` that supplies vectors (R213). -/
def deadlineOf (c : Option Cur) : Nat :=
  match c with
  | some x => (match x.kind with
    | .wait _ _ d _ _ => d
    | _ => 0)
  | none => 0

/-- The `WAIT` word's `TIMEOUT`. -/
def timeoutOf (s : State) (c : Cur) : Nat := fld (wordAt s c.word) 112 72

/-- A `WAIT` in go mode after its one repetition (R212): its condition waits to open, predicting that it is satisfied. -/
def goAfter (c : Cur) (sub : Subj) (s : State) : State :=
  match c.kind with
  | .wait e sn d tt false =>
    let back : Cur := { c with kind := .wait e sn d tt true }
    let s1 : State := { s with sq := { s.sq with cur := none } }
    addCond { cid := 0, word := c.word, entry := e, sense := sn, pred := true, goWait := true, subj := sub
              check := checkpoint c.word (some back) s1 } s1
  | _ => s

/-- The due vector is emitted (R15, R62, R201, R242); before every 1024th of a word stands a boundary that uses a decode slot (R217).
-/
def emitVector (c : Cur) (b : List Byte) (start : Nat) (s0 : State) : State :=
  let s := endOthers none (openAll (if (c.done + 1) % 1024 = 0 then boundarySlot s0 else s0))
  let t := vTset b
  let n := s.sq.nEmit
  let idx := s.sq.vindex
  let syms := vSyms s b
  let pins := burstPins s syms
  let nui := tsUi s t
  let rep : Bool := match c.kind with
    | .wait _ _ _ _ stay => stay
    | _ => false
  let isWait : Bool := match c.kind with
    | .wait _ _ _ _ _ => true
    | _ => false
  let cnt := if rep then s.sp.counted else s.sp.counted + 1
  let sub : Subj := { n := n, idx := idx, start := start, period := tsPeriod s t, cnt := cnt
                      retired := s.sp.retired }
  let conds := (s.sp.open_.filter fun x => !x.stay).map fun x => x.cid
  let reqs := carrierReqs b s.sq.reqs
  let cur := nextCur c (vSize b) idx start (timeoutOf s c)
  let uis := pins.map fun p => (p, (List.range nui).map fun i => laneUi s p ((s.pm.cursors[p].getD 0) + i))
  let v : VRec := { n := n, idx := idx, idle := false, isWait := isWait, tset := t, start := start, period := tsPeriod s t
                    nui := nui, syms := syms, uis := uis, reqs := reqs, conds := conds, retired := s.sp.retired }
  let s1 : State := { s with
    sq := { s.sq with
      nEmit := n + 1, vindex := idx + 1, lastV := some (t, start, tsPeriod s t), lastIdx := some sub, lastTook := some start, prevSym := syms
      reqs := {}, cur := cur }
    sp := { s.sp with
      inflight := s.sp.inflight ++ [v], counted := cnt, retired := s.sp.retired ||| (reqs.sites &&& validSites s)
      open_ := s.sp.open_.map (noteSubject c.word (deadlineOf cur) ((cur.map fun k => k.idx0).getD idx) rep sub) }
    pm := takeData c (lastUse c) pins nui s.pm }
  let s2 := cutOverhang n start (noteBrim n (nextStart s) start (carry n idx start conds reqs s1))
  match cur with
  | some k => goAfter k sub s2
  | none => s2

/-- A vector that names a timing set that is not valid (R60): it goes to the formatters without an index. -/
def emitBad (b : List Byte) (start : Nat) (s : State) : State :=
  let v : VRec := { n := s.sq.nEmit, idx := s.sq.vindex, idle := false, isWait := false, tset := vTset b, start := start
                    period := 0, nui := 1, syms := s.sq.prevSym, uis := [], reqs := {}, conds := [], retired := s.sp.retired }
  { s with sp := { s.sp with inflight := s.sp.inflight ++ [v] } }

/-- The first burst pin whose lane is in a given state. -/
def laneFind (f : LaneState → Bool) (l : List (Pin × LaneState)) : Option (Pin × LaneState) := l.find? fun x => f x.2

/-- The lane data of the due vector (R178, R187, R189), then the vector. A descriptor that has not arrived holds the word's first
vector back, which it precedes (R204), as missing lane data of the lowest burst pin, or of pin 0 (R188 names no pin for it; DESIGN
CHOICE, log 28). -/
def issueLanes (c : Cur) (b : List Byte) (start : Nat) (s : State) : State :=
  let pins := burstPins s (vSyms s b)
  let st := pins.map fun p => (p, laneState s (tsUi s (vTset b)) p)
  match c.desc with
  | some d => missingData (if regionTyp s d = 6 then 3 else 2) ((pins.head?.map fun p => p.val).getD 0) start s
  | none =>
    match laneFind (fun x => match x with
        | .outside _ => true
        | _ => false) st with
    | some (p, .outside a) => fetchFault a p.val s
    | _ =>
      match laneFind (fun x => match x with
          | .poisoned _ => true
          | _ => false) st with
      | some (_, .poisoned a) => poisonFault a s
      | _ =>
        match laneFind (fun x => match x with
            | .missing _ => true
            | _ => false) st with
        | some (p, .missing host) => missingData (if host then 3 else 2) p.val start s
        | _ =>
          if ¬ tsValid s (vTset b) then emitBad b start s
          else
            let at_ := start + brim s (vTset b)
            emitVector c b at_ (toEpoch (at_ - at_ % 8192) s)

/-- The lane descriptor of the word is loaded when it is due (R176, R178, R189, R204): present, absent, or a fault. What a pin has
left of its last lane block goes. -/
def loadDesc (c : Cur) (s : State) : Option (Cur × State) :=
  match c.desc with
  | none => some (c, s)
  | some d =>
    if ¬ rangeIn s [2, 6] d 4096 then none
    else match shelfItem (.desc d) s with
      | none => some (c, s)
      | some x =>
        if x.ue then none
        else
          let move := fun (p : Pin) (u : Option Nat) =>
            let w := fieldAt x.bytes (8 * p.val) 8
            if bitAt w 63 then some (fld w 47 0 * 4) else u
          let c1 := { c with desc := none }
          let old (y : Shelf) : Bool := !y.spare && y.part && (match y.item with
            | .lane p _ => bitAt (fieldAt x.bytes (8 * p.val) 8) 63
            | _ => false)
          some (c1, { s with
            pm := { s.pm with
              cursors := vmapIdx move s.pm.cursors, shelf := (eraseItem (.desc d) s.pm.shelf).filter fun y => !old y }
            sq := { s.sq with cur := some c1 } })

/-- A descriptor that cannot load (R178, R189). -/
def descFault (d : Nat) (s : State) : State :=
  if ¬ rangeIn s [2, 6] d 4096 then fetchFault d 0 s else poisonFault (((shelfItem (.desc d) s).map fun x => x.bad).getD d) s

/-- The due vector's own data (R174, R187, R203, R212). -/
def issueDue (c : Cur) (start : Nat) (s : State) : State :=
  let isWait : Bool := match c.kind with
    | .wait _ _ _ _ _ => true
    | _ => false
  if ¬ rangeIn s [1, 6] c.addr 32 then fetchFault c.addr 0 s
  else match shelfItem (.vector c.addr) s with
    | none => missingData (if regionTyp s c.addr = 6 then 3 else 1) 0 start s
    | some x =>
      if x.ue then poisonFault x.bad s
      else if vHdrBad x.bytes ∨ vPadBad x.bytes ∨ ¬ rangeIn s [1, 6] c.addr (vSize x.bytes) then fetchFault c.addr 0 s
      else if isWait ∧ burstPins s (vSyms s x.bytes) ≠ [] then vecFault 0x6 c.word s
      else issueLanes c x.bytes start s

/-- A vector start with a word that supplies vectors (R204, R214, R247). -/
def issueWord (c : Cur) (start : Nat) (s : State) : State :=
  let counts : Bool := match c.kind with
    | .wait _ _ _ _ stay => !stay
    | _ => true
  match limitCause counts s with
  | some k => idleVector (.limit k) start s
  | none =>
    match loadDesc c s with
    | none => descFault (c.desc.getD 0) s
    | some (c1, s1) => issueDue c1 start s1

/-- A vector start (R187, R200, R214, R216, R218): the vector context issues the due vector or an idle vector, or stops. Where the
next word is decoded in time it acts first, and nothing is issued before it. -/
def vectorStart (s0 : State) : State :=
  if ¬ vecRuns s0 then s0
  else
    let start := nextStart s0
    let s := toEpoch (start - start % 8192) s0
    if stopDue s ∧ atBoundary s then takeStop s
    else match s.sq.cur with
      | some c => issueWord c start s
      | none =>
        if s.sq.haltWait.isSome then idleVector .halt start s
        else if wordReady s then s0
        else idleVector .decode start s

/-- The start of the vector that would be issued next: the end of a brim, where one comes first (R62, R75). -/
def peekStart (s : State) : Nat :=
  let t := vectorStart s
  if s.sq.nEmit < t.sq.nEmit then (t.sq.lastV.map fun v => v.2.1).getD (nextStart s) else nextStart s

/-! ### Resolution cycles (R237 to R239, R249) -/

/-- The cycle in which the result for a subject is available. -/
def resCycle (s : State) (e : CondEntry) (sub : Subj) : Nat := ceilTo 8192 (sub.start + condLat s e)

/-- Every repetition of a stay `WAIT` that started before the deadline has resolved, and no other will (R213). -/
def stayOver (s : State) (c : Cond) : Bool :=
  match c.reps with
  | r :: _ => decide (c.deadline ≤ r.start)
  | [] => decide (c.deadline ≤ nextStart s) || s.sq.stopped

/-- When a condition that is the oldest can resolve; `none` while a stay `WAIT` has no repetition to resolve. -/
def condDue (s : State) (c : Cond) : Option Nat :=
  if ¬ c.stay then some (resCycle s (condEnt s c.entry) c.subj)
  else if stayOver s c then some 0
  else c.reps.head?.map fun r => resCycle s (condEnt s c.entry) r

/-- The resolution cycle of the oldest open condition: not before the present cycle, in which a held result acts (R239). -/
def oldestDue (s : State) : Option Nat := (s.sp.open_.head?.bind (condDue s)).map fun t => max t (ext s)

/-- The result received for a global condition (R249): its instance number and S_n match. -/
def globalResult (s : State) (c : Cond) (sub : Subj) : Option Bool :=
  (s.sp.gresults.find? fun r => r.1 == c.gserial && r.2.1 == sub.start % 2 ^ 64).map fun r => r.2.2.2

/-- The subject that resolves next. -/
def subjOf (c : Cond) : Subj := if c.stay then c.reps.head?.getD c.subj else c.subj

/-- The resolution cycle of a younger global condition that has no matching result (R250). -/
def lateCycle (s : State) (c : Cond) : Option Nat :=
  if cSrc (condEnt s c.entry) = 6 ∧ (globalResult s c (subjOf c)).isNone then condDue s c else none

/-- The younger global condition that first reaches its resolution cycle without a matching result, and that cycle (R250). -/
def lateGlobal (s : State) : Option (Nat × Cond) :=
  s.sp.open_.tail.foldl (fun b c => match lateCycle s c, b with
    | some t, some x => if t < x.1 then some (t, c) else b
    | some t, none => some (t, c)
    | none, _ => b) none

/-- The cycle of the next resolution: of the oldest condition, or of a younger global one that contains the device (R239, R250). -/
def nextResolve (s : State) : Option Nat :=
  match oldestDue s, (lateGlobal s).map fun x => max x.1 (ext s) with
  | some a, some b => some (min a b)
  | some a, none => some a
  | none, b => b

/-- `VECTOR_ISSUE`: in time order with the resolutions (R240, R250): a vector that starts in a cycle after the resolution cycle of
the oldest condition, or of a global one without a result, is not issued before that has been dealt with. -/
def execVectorIssue (s : State) : Host.Outcome State Fault Refusal :=
  let start := peekStart s
  .next (if (nextResolve s).any fun r => decide (r < start - start % 8192) then s else vectorStart s)

end Sys2Proof.Machine
end

