-- ==== Sys2Proof/Machine/Edges.lean ====
section
/-! DEFINITION. Edges and compares (03, 04): the edges that the formatter places (R87 to R90, R97 to R99), the land time (R63 to
R65), the vernier (R72), drive edges with the intervals of Table 3.4, and compare edges with their results (R92 to R100). -/

namespace Sys2Proof.Machine

open Sys2Proof

/-! ### The edges of a symbol -/

/-- `FMT` (Table 4.1). -/
def symFmt (w : Nat) : Nat := fld w 13 11
/-- `DACT`. -/
def symDact (w : Nat) : Nat := fld w 10 9
/-- `CMODE`. -/
def symWindow (w : Nat) : Bool := bitAt w 7

/-- The edge actions of a standard drive (Tables 4.3, 4.4). -/
def driveActs (w : Nat) : List (Nat × EdgeAct) :=
  let d := bitAt w 8
  let fmt := symFmt w
  let dact := symDact w
  let drives := decide (dact = 1 ∨ dact = 2)
  let e0 : List (Nat × EdgeAct) := if fmt = 4 then [(0, .enableData !d)] else [(0, .enable true)]
  let e2 : List (Nat × EdgeAct) :=
    if fmt = 1 then [(2, .data false)] else if fmt = 2 then [(2, .data true)] else if fmt = 3 then [(2, .enable false)]
    else if fmt = 4 then [(2, .data !d)] else []
  let e3 : List (Nat × EdgeAct) := if 2 ≤ dact then [(3, .enable false)] else []
  (if drives then e0 ++ [(1, .data d)] ++ e2 else []) ++ e3

/-- The compare edges of one compare (R90). -/
def compareActs (w : Nat) : List (Nat × EdgeAct) := if symWindow w then [(4, .open_), (5, .close)] else [(4, .strobe)]

/-- What one edge of a vector is: edge number, UI, action, expect code, and whether its time is counted per UI (R63, R64). -/
structure Plan where
  e : Nat
  ui : Nat
  act : EdgeAct
  exp : Nat := 0
  perUi : Bool := false
deriving DecidableEq, Repr

/-- The edges of a standard symbol (R89, R90); an idle vector places no compare (R101). -/
def planStd (w : Nat) (idle : Bool) : List Plan :=
  let drive := (driveActs w).map fun x => ({ e := x.1, ui := 0, act := x.2 } : Plan)
  let exp := fld w 6 4
  drive ++ (if idle ∨ exp = 0 then []
    else (compareActs w).map fun x => ({ e := x.1, ui := 0, act := x.2, exp := exp } : Plan))

/-- The edges of one UI of a burst symbol (Table 4.7, R98, R99). -/
def planUi (w : Nat) (i : Nat) (v : BitVec 2) : List Plan :=
  let cmp (exp : Nat) : List Plan :=
    (compareActs w).map fun x => ({ e := x.1, ui := i, act := x.2, exp := exp, perUi := true } : Plan)
  if bitAt w 14 then (if v = 3 then [] else cmp (v.toNat + 1))
  else
    let e2 : List Plan := if symFmt w = 1 then [{ e := 2, ui := i, act := .data false, perUi := true }]
      else if symFmt w = 2 then [{ e := 2, ui := i, act := .data true, perUi := true }] else []
    [({ e := 1, ui := i, act := .data (v.getLsbD 0), perUi := true } : Plan)] ++ e2
      ++ (if v.getLsbD 1 then cmp (if v.getLsbD 0 then 2 else 1) else [])

/-- The edges of a burst symbol (R98, R99). -/
def planBurst (w : Nat) (uis : List (BitVec 2)) : List Plan :=
  let bdir := bitAt w 14
  let e0 : List Plan := if bdir then [] else [{ e := 0, ui := 0, act := .enable true }]
  let e3 : List Plan := if (if bdir then symDact w = 3 else symDact w = 2) then [{ e := 3, ui := 0, act := .enable false }] else []
  e0 ++ ((List.range uis.length).flatMap fun i => planUi w i (uis.getD i 0)) ++ e3

/-- The programmed and the land time of a planned edge (R63 to R65, R74), the latter in the member's own epoch (R347). -/
def placePlan (s : State) (v : VRec) (p : Pin) (burst : Bool) (k : Plan) : PEdge :=
  let prog := v.start + (if k.perUi then k.ui * (v.period / v.nui) else 0) + edgeOffset s p v.tset k.e
  let land := ((prog : Int) + (if k.e ≤ 3 then deskewDrv s p else deskewCmp s p) + landLat + memberShift s).toNat
  let masked := k.e == 4 && v.brims.any fun b => decide (b.1 ≤ prog ∧ prog < b.2)
  { pin := p, e := k.e, ui := k.ui, n := v.n, idx := v.idx, idle := v.idle, prog := prog, land := land, act := k.act
    exp := k.exp, burst := burst, dropped := masked }

/-- The edges that a vector places on a used pin (R15, R87 to R90); a generator marked invalid never fires (R81), nor does one
of a quadrant whose guard is closed (R436). -/
def pinEdges (s : State) (v : VRec) (p : Pin) : List PEdge :=
  let w := symEntry s p v.syms[p].toNat
  let burst := !v.idle && bitAt w 15
  let plan := if burst then planBurst w (((v.uis.find? fun x => x.1 = p).map fun x => x.2).getD []) else planStd w v.idle
  if s.tb.guardOpen[quadOf p] then
    (plan.filter fun k => !(s.tg.bad.contains (p, Fin.ofNat 6 k.e))).map (placePlan s v p burst)
  else []

/-- The samples that a vector takes on a raw pin (R280): one, or one per UI where its symbol selects burst, whatever its `USE`. -/
def rawLands (s : State) (v : VRec) (p : Pin) : List (Pin × Nat) :=
  let n := if !v.idle && bitAt (symEntry s p v.syms[p].toNat) 15 then v.nui else 1
  (List.range n).map fun i => (p, ((v.start : Int) + i * (v.period / v.nui : Nat) + edgeOffset s p v.tset 4
    + deskewCmp s p + landLat).toNat)

/-- A vector reaches the formatters with a valid timing set: its edges are placed, overhangs that R70 drops are counted, and a
record without results to come is let go. -/
def placeVector (v : VRec) (s : State) : State :=
  let all := (usedPins s).flatMap (pinEdges s v)
  let cut (e : PEdge) : Bool := v.cut.any fun c => decide (c ≤ e.prog)
  let raws := if s.cs.open_ then (rawPins s).flatMap (rawLands s v) else []
  let s1 : State := { s with
    tg := { s.tg with edges := s.tg.edges ++ all }
    cs := { s.cs with raws := s.cs.raws ++ raws }
    sp := { s.sp with inflight := s.sp.inflight.filterMap fun x =>
      if x.n = v.n then (if v.idle ∨ v.dead then none else some { x with atFm := true }) else some x } }
  (all.filter cut).foldl (cutEdge all) s1

/-- The oldest vector in the pipeline reaches all formatters 96 fabric cycles after its issue (R15); one that names a timing set
that is not valid contains the device (R60). -/
def execVectorAtFormatter (s : State) : Host.Outcome State Fault Refusal :=
  .next (match s.sp.inflight.find? (fun v => !v.atFm) with
    | none => s
    | some v =>
      let s1 := toEpoch (v.start - v.start % 8192 + 786432) s
      if tsValid s1 v.tset then placeVector v s1
      else
        let s2 : State := { s1 with sp := { s1.sp with inflight := s1.sp.inflight.erase v } }
        if v.idle then s2 else contain 0x03 (issue 0x0206 [iv v.idx, i1 v.tset] s2))

/-! ### The vernier (R71, R72) -/

/-- `TAP[j]` of a generator (Table 3.5, Table 17.6): nominal, or from the image in force. -/
def tapAt (s : State) (p : Pin) (e j : Nat) : Nat :=
  match s.bt.trims with
  | .nominal => 256 * j
  | .image b => leNat (memRead 0 b ((p.val * 6 + e) * 163 + 2 * j) 2)

/-- `ZERO` of a generator. -/
def zeroAt (s : State) (p : Pin) (e : Nat) : Int :=
  match s.bt.trims with
  | .nominal => 0
  | .image b => sgn 24 (leNat (memRead 0 b ((p.val * 6 + e) * 163 + 160) 3))

/-- The tap nearest to a target, the lower one on a tie (R72). -/
def nearestTap (s : State) (p : Pin) (e : Nat) (target : Int) : Nat :=
  (List.range 80).foldl (fun b j =>
    if ((tapAt s p e j : Int) - target).natAbs < ((tapAt s p e b : Int) - target).natAbs then j else b) 0

/-- The physical edge of a land time (R72). -/
def physical (s : State) (p : Pin) (e land : Nat) : Fired :=
  let u : Int := 256 * (land : Int) + zeroAt s p e + s.tb.phi[quadOf p]
  let q := u / 256
  { e := e, land := land, cycle := q / 1024, phase := q % 1024 / 64
    tap := nearestTap s p e (256 * (q % 64) + u % 256) }

/-! ### Which edges stand -/

/-- One edge comes before another on its pin: by land time, then edge number, then vector and UI. -/
def before (a b : PEdge) : Bool :=
  decide (a.land < b.land ∨ a.land = b.land ∧ (a.e < b.e ∨ a.e = b.e ∧ (a.n < b.n ∨ a.n = b.n ∧ a.ui < b.ui)))

/-- The next edge of a pin that satisfies a test. -/
def nextEdge (p : Pin) (f : PEdge → Bool) (l : List PEdge) : Option PEdge :=
  l.foldl (fun b x => if ¬ (x.pin = p ∧ f x) then b else match b with
    | none => some x
    | some y => if before x y then some x else b) none

/-- Two edges of one generator, the first earlier in vector and UI order (R67). -/
def genBefore (a b : PEdge) : Bool :=
  decide (a.pin = b.pin ∧ a.e = b.e ∧ (a.n < b.n ∨ a.n = b.n ∧ a.ui < b.ui))

/-- A firing would fall earlier than 512 ticks after the generator's previous firing in vector and UI order (R67): the last one
made, or one still to come by an edge that `st` says stands. -/
def tooSoon (s : State) (st : PEdge → Bool) (e : PEdge) : Bool :=
  (s.pins[e.pin].lastFire[Fin.ofNat 6 e.e].any fun t => decide (e.land < t + 512))
    || s.tg.edges.any fun x => genBefore x e && decide (e.land < x.land + 512) && st x

/-- A drive edge falls 1 to 255 ticks after the pin's preceding drive edge (R68): the last that landed, or one that is to land
before it and stands. An edge that gives way to it by R67 is no reference. -/
def conflicts (s : State) (st : PEdge → Bool) (e : PEdge) : Bool :=
  (s.pins[e.pin].lastDrive.any fun t => decide (t < e.land ∧ e.land < t + 256))
    || s.tg.edges.any fun x => decide (x.pin = e.pin ∧ x.e ≤ 3 ∧ x.land < e.land ∧ e.land < x.land + 256) && !genBefore e x && st x

/-- An edge that waits will land: it is placed, and neither R67 nor R68 drops it. Chains of edges that hang on one another are
followed `k` deep. An edge that R70 may still drop stands until that is decided (DEDUCED, log 32). -/
def stands (s : State) : Nat → PEdge → Bool
  | 0, _ => true
  | k + 1, x =>
    placed s x && !shortWin s.tg.edges x && !tooSoon s (stands s k) x && !(decide (x.e ≤ 3) && conflicts s (stands s k) x)

/-- R67 drops an edge that lands now. -/
def tooClose (s : State) (e : PEdge) : Bool := tooSoon s (stands s 4) e

/-! ### Drive edges -/

/-- A generator fires (R67, R72). -/
def fireGen (s : State) (e : PEdge) (p : PinSt) : PinSt :=
  { p with lastFire := vset p.lastFire (Fin.ofNat 6 e.e) (some e.land), fired := some (physical s e.pin e.e e.land) }

/-- The drive state after an edge action (R87). -/
def actOn (a : EdgeAct) (x : Bool × Bool) : Bool × Bool :=
  match a with
  | .enable v => (v, x.2)
  | .enableData d => (true, d)
  | .data d => (x.1, d)
  | _ => x

/-- The line sees a transition: the enable changes, or the level of an enabled driver. -/
def moves (a b : Bool × Bool) : Bool := a.1 != b.1 || (a.1 && a.2 != b.2)

/-- A drive edge acts on the pin (R68, R87): no effect on the driver while parked (R91). -/
def driveEdge (parked : Bool) (e : PEdge) (p : PinSt) : PinSt :=
  let r := if parked then (p.en, p.dat) else actOn e.act (p.en, p.dat)
  { p with en := r.1, dat := r.2, lastDrive := some e.land }

/-- A drive edge lands (R67, R68, R87, R91). One that breaks both R67 and R68 is counted once, under cause 1 (DESIGN CHOICE,
log 32). -/
def fireDrive (s0 : State) (e : PEdge) : State :=
  let s : State := { s0 with tg := { s0.tg with edges := s0.tg.edges.erase e } }
  if ¬ placed s e then s
  else if tooClose s e then countDrop 1 e 0 s
  else if conflicts s (fun _ => false) e then countDrop 2 e 0 s
  else updPin e.pin (fun x => driveEdge (pinParked s e.pin) e (fireGen s e x)) s

/-- The drive edges of a pin that land together, in the order E0 to E3 (R68). -/
def landTogether (s : State) (p : Pin) (land : Nat) : List PEdge :=
  [0, 1, 2, 3].flatMap fun k => s.tg.edges.filter fun e => decide (e.pin = p ∧ e.e = k ∧ e.land = land)

/-- The transition that edges of one land time make together, if the line moves (R68). -/
def noteTrans (land : Nat) (was : PinSt) (p : PinSt) : PinSt :=
  if moves (was.en, was.dat) (p.en, p.dat) then { p with lastTrans := some land, swing := was.en && p.en } else p

/-- `EDGE_FIRE`: the next drive edges of a pin land; those of one land time act as one transition (R68). -/
def execEdgeFire (p : Pin) (s : State) : Host.Outcome State Fault Refusal :=
  .next (match nextEdge p (fun e => decide (e.e ≤ 3)) s.tg.edges with
    | none => s
    | some e =>
      let s1 := toEpoch e.land s
      updPin p (noteTrans e.land s1.pins[p]) ((landTogether s1 p e.land).foldl fireDrive s1))

/-! ### Results -/

/-- A state passes an expect code (Table 4.6). -/
def passes (exp st : Nat) : Bool :=
  if exp = 1 then st == 1 else if exp = 2 then st == 2 else if exp = 3 then st == 0
  else if exp = 4 then st == 1 || st == 2 else true

/-- The result word of a compare (Table 4.8). -/
def resultWord (burst window fail : Bool) (ui st : Nat) : W16 :=
  if burst then (if fail then 1#16 <<< ui else 0)
  else BitVec.ofNat 16 (b2n window * 32 + 16 + b2n fail * 8 + st)

/-- A result kept with its vector; UI results of one pin are ORed (R100). -/
def addResult (p : Pin) (w : W16) (l : List (Pin × W16)) : List (Pin × W16) :=
  if l.any (fun x => x.1 = p) then l.map fun x => if x.1 = p then (p, x.2 ||| w) else x else l ++ [(p, w)]

/-- The results of a vector changed, unless it is gone. -/
def onResults (n : Nat) (f : List (Pin × W16) → List (Pin × W16)) (s : State) : State :=
  let one := fun (v : VRec) => if v.n = n then { v with res := f v.res } else v
  { s with sp := { s.sp with inflight := s.sp.inflight.map one } }

/-- A result enters the cloakroom, unless its vector is gone (R100, R242). -/
def putResult (n : Nat) (p : Pin) (w : W16) (s : State) : State := onResults n (addResult p w) s

/-- The first crossed observation in a run (R92), with the codes of that moment (R104): the active codes, also while a DAC is on its way
to one (Table 4.10 says only "at the time"; DESIGN CHOICE, log 32). -/
def noteCrossed (p : Pin) (idx st : Nat) (s : State) : State :=
  if st = 3 then
    issueFirst 0x0302 [i2 p.val, iv idx, i2 s.pins[p].dacs[(2 : DacIx)].act.toNat, i2 s.pins[p].dacs[(3 : DacIx)].act.toNat] s
  else s

/-! ### Strobes -/

/-- An edge in its place among edges ordered by `before`. -/
def insertEdge (e : PEdge) : List PEdge → List PEdge
  | [] => [e]
  | x :: r => if before e x then e :: x :: r else x :: insertEdge e r

/-- The drive state of a pin after some edges, in order. -/
def driven (l : List PEdge) (x : Bool × Bool) : Bool × Bool := l.foldl (fun y e => actOn e.act y) x

/-- The drive edges of a pin that land from an instant to 256 ticks after it and stand, in order. -/
def edgesAhead (s : State) (p : Pin) (t : Nat) : List PEdge :=
  (s.tg.edges.filter fun e => decide (e.pin = p ∧ e.e ≤ 3 ∧ t ≤ e.land ∧ e.land ≤ t + 256) && stands s 4 e).foldr insertEdge []

/-- The drive state before and after each land time of such edges, those of one land time together (R68, R94). -/
def stepsAhead (s : State) (p : Pin) (t : Nat) : List ((Bool × Bool) × (Bool × Bool)) :=
  let l := edgesAhead s p t
  let x := (s.pins[p].en, s.pins[p].dat)
  if pinParked s p then []
  else l.map fun e =>
    (driven (l.filter fun y => decide (y.land < e.land)) x, driven (l.filter fun y => decide (y.land ≤ e.land)) x)

/-- Such edges move the line (R94). -/
def moveAhead (s : State) (p : Pin) (t : Nat) : Bool := (stepsAhead s p t).any fun x => moves x.1 x.2

/-- A drive transition of the recent past lies within 256 ticks of a strobe (R94). -/
def nearPast (s : State) (p : Pin) (t : Nat) : Bool := s.pins[p].lastTrans.any fun u => decide (t ≤ u + 256 ∧ u ≤ t + 256)

/-- The strobe falls within 256 ticks of a drive transition (R94). -/
def nearDrive (s : State) (p : Pin) (t : Nat) : Bool := nearPast s p t || moveAhead s p t

/-- The drive transitions near a strobe take the line from one level of its driver to the other, and no further (R94). -/
def swingOnly (s : State) (p : Pin) (t : Nat) : Bool :=
  (!nearPast s p t || s.pins[p].swing) && (stepsAhead s p t).all fun x => !moves x.1 x.2 || (x.1.1 && x.2.1)

/-- The states that a line passes through between two codes of its level DACs, by the codes of `CLO` and `CHI` (Table 4.5). -/
def spanStates (a b lo hi : Nat) : List Nat :=
  (if a < lo ∧ a ≤ hi then [1] else []) ++ (if hi < b ∧ lo ≤ b then [2] else [])
    ++ (if max a lo ≤ min b hi then [0] else []) ++ if max a hi < min b lo then [3] else []

/-- The states that the line of a pin may pass through at a strobe near a drive transition (R94): between the driver's two levels, where it
goes from one to the other; every state where its driver is switched on or off, since the level of the line without it is the DUT's
affair (DESIGN CHOICE, log 45). -/
def passable (s : State) (p : Pin) (t : Nat) : List Nat :=
  let code (i : DacIx) : Nat := s.pins[p].dacs[i].out.toNat
  observed s p :: if swingOnly s p t then spanStates (min (code 0) (code 1)) (max (code 0) (code 1)) (code 3) (code 2)
    else [1, 2, if thresholdsCrossed s p then 3 else 0]

/-- The code of a free observed state (R94): low, high, or the state between the thresholds, which is crossed while `CHI` is below
`CLO`; one that the line does not pass through gives way to the observed one. -/
def freeCode (s : State) (p : Pin) (t : Nat) : Nat :=
  let st := if Config.freeState s.freeCtr = 0 then 1
    else if Config.freeState s.freeCtr = 1 then (if thresholdsCrossed s p then 3 else 0) else 2
  if (passable s p t).contains st then st else observed s p

/-- An edge strobe takes the observed state (R94); near a drive transition it is any state the line passes through. -/
def strobe (e : PEdge) (s : State) : State :=
  let near := nearDrive s e.pin e.land
  let st := if near then freeCode s e.pin e.land else observed s e.pin
  let s1 := if near then takeFree s else s
  putResult e.n e.pin (resultWord e.burst false (!passes e.exp st) e.ui st) (noteCrossed e.pin e.idx st s1)

/-! ### Windows -/

/-- The E5 that closes the window an E4 opens. -/
def closing (s : State) (e : PEdge) : Option PEdge :=
  s.tg.edges.find? fun x => sameSpan x e && x.e == 5

/-- Since when the state of a pin has been failing an expect code (R95): the end of the last passing state, if that is within
160 ticks; 0 if longer. -/
def failSince (p : PinSt) (exp : Nat) : Nat := ((p.past.find? fun x => passes exp x.1).map fun x => x.2).getD 0

/-- A window opens (R95). -/
def openWin (e : PEdge) (s : State) : State :=
  let st := observed s e.pin
  let w : Win := { n := e.n, ui := e.ui, idx := e.idx, exp := e.exp, burst := e.burst, first := st
                   tent := if passes e.exp st then none else some (st, failSince s.pins[e.pin] e.exp) }
  noteCrossed e.pin e.idx st (updPin e.pin (fun p => { p with win := some w }) s)

/-- An E4 of a window (R69, R95): a short window is a strobe at E4, whatever came before; a window that opens before the last one has
closed, or less than 256 ticks after that, is masked (a window that R69 itself has masked or made a strobe is no previous one;
DEDUCED, log 32). -/
def windowE4 (e : PEdge) (s : State) : State :=
  match closing s e with
  | none => s
  | some c =>
    if c.land < e.land + 256 then
      strobe e (countDrop 3 c 0 { s with tg := { s.tg with edges := s.tg.edges.erase c } })
    else if s.pins[e.pin].win.isSome ∨ s.pins[e.pin].lastE5.any (fun t => decide (e.land < t + 256)) then countDrop 3 e 1 s
    else openWin e s

/-- The failing state that a window has seen at its end (R95): an excursion that still runs counts as seen. -/
def winBad (w : Win) : Option Nat := if w.bad.isSome then w.bad else w.tent.map fun x => x.1

/-- At its end a window's only excursion still runs and is younger than 160 ticks: whether it is seen is decided later (R95). -/
def winLate (w : Win) (t : Nat) : Option Win :=
  if w.bad.isNone ∧ w.tent.any (fun x => decide (t < x.2 + 160)) then some w else none

/-- An E5 closes its window (R95): the recorded state is the first failing one, or the state at E4. -/
def closeWin (e : PEdge) (s : State) : State :=
  match s.pins[e.pin].win with
  | none => s
  | some w =>
    if w.n = e.n ∧ w.ui = e.ui then
      let bad := winBad w
      putResult e.n e.pin (resultWord w.burst true bad.isSome w.ui (bad.getD w.first))
        (updPin e.pin (fun p => { p with win := none, lastE5 := some e.land, late := winLate w e.land }) s)
    else s

/-- A window sees a new observed state (R95): an excursion that ends after 160 ticks or more counts, a shorter one may. -/
def winSee (st t : Nat) (free : Bool) (w : Win) : Win :=
  if w.bad.isSome then w
  else match w.tent with
    | none => if passes w.exp st then w else { w with tent := some (st, t) }
    | some (f, u) =>
      if passes w.exp st then { w with tent := none, bad := if u + 160 ≤ t ∨ free = true then some f else none } else w

/-- An excursion that a window follows ends before 160 ticks, so that its detection is open (R95). -/
def winOpen (st t : Nat) (w : Win) : Bool :=
  w.bad.isNone && passes w.exp st && w.tent.any fun x => decide (t < x.2 + 160)

/-- The result of a window whose late excursion was not seen (R95): it passes. -/
def passLate (p : Pin) (w : Win) (s : State) : State :=
  let one := fun (x : Pin × W16) =>
    if x.1 ≠ p then x else (p, if w.burst then x.2 &&& ~~~(1#16 <<< w.ui) else resultWord false true false w.ui w.first)
  onResults w.n (List.map one) s

/-- The excursion that ran on when a window closed goes on, or is decided (R95). -/
def seeLate (p : Pin) (st t : Nat) (free : Bool) (s : State) : State :=
  match s.pins[p].late with
  | none => s
  | some w =>
    let s1 := updPin p (fun x => { x with late := none }) s
    if winOpen st t w then (if free then s1 else passLate p w s1)
    else if passes w.exp st ∨ w.tent.any (fun x => decide (x.2 + 160 ≤ t)) then s1 else s

/-- A comparator output changes at an epoch tick (R92, R95): the state that ends is kept for 160 ticks, a window takes the new one;
a crossed state that a window sees is an observation (R92; DEDUCED, log 32). -/
def observe (p : Pin) (f : PinSt → PinSt) (t : Nat) (s : State) : State :=
  let x := s.pins[p]
  let st := obsOf (f x)
  let draw := x.win.any (winOpen st t) || x.late.any (winOpen st t)
  let free := Config.freeBool s.freeCtr
  let past := ((obsOf x, t) :: x.past).filter fun y => decide (t < y.2 + 160)
  let s1 := updPin p (fun y => { f y with past := past, win := y.win.map (winSee st t free) }) (if draw then takeFree s else s)
  let s2 := seeLate p st t free s1
  match x.win with
  | some w => noteCrossed p w.idx st s2
  | none => s2

/-! ### Compares -/

/-- An E4 that is programmed in a brim that has begun and is not over yet: no compare is made (R76, R96). -/
def inBrim (s : State) (e : PEdge) : Bool :=
  s.sq.state == .running && !s.sq.stopped && decide (nextStart s ≤ e.prog ∧ e.prog < peekStart s)

/-- An E4 or E5 lands (R67, R69, R91, R94 to R96). -/
def fireCompare (e : PEdge) (s0 : State) : State :=
  let s : State := { s0 with tg := { s0.tg with edges := s0.tg.edges.erase e } }
  if ¬ placed s e then updPin e.pin (dropWin e) s
  else if tooClose s e then
    countDrop 1 e 0 (updPin e.pin (dropWin e) { s with tg := { s.tg with edges := s.tg.edges.filterMap (afterDrop e) } })
  else
    let s1 := updPin e.pin (fireGen s e) s
    if e.e = 5 then closeWin e s1
    else if e.dropped ∨ switching s.pins[e.pin] e.land ∨ inBrim s1 e then
      { s1 with tg := { s1.tg with edges := s1.tg.edges.filterMap (afterDrop e) } }
    else if e.act = .open_ then windowE4 e s1 else strobe e s1

/-- An E4 or E5 that may land next: an E5 programmed before the E4 of its own window waits for it, since R69 makes that window
a strobe and does not place the E5. -/
def landsNext (l : List PEdge) (e : PEdge) : Bool :=
  e.e == 4 || (e.e == 5 && !l.any fun x => sameSpan x e && x.e == 4)

/-- `COMPARE_EDGE`: the next E4 or E5 of a pin lands. -/
def execCompareEdge (p : Pin) (s : State) : Host.Outcome State Fault Refusal :=
  .next (match nextEdge p (landsNext s.tg.edges) s.tg.edges with
    | none => s
    | some e => fireCompare e (toEpoch e.land s))

end Sys2Proof.Machine
end

