-- ==== Sys2Proof/Machine/Tiu.lean ====
section
/-! DEFINITION. Time-interval units (12): source events and shots (R299 to R303), calibration (R304, R305), gates (R306 to
R311), results (R312 to R315) and the TI commands (R316, R317). -/

namespace Sys2Proof.Machine

open Sys2Proof

/-! ### Shots -/

/-- Two statistics sets as one (R310). -/
def statsMerge (c h : Stats) : Stats :=
  { count := c.count + h.count
    min := if h.count = 0 then c.min else if c.count = 0 then h.min else Nat.min c.min h.min
    max := Nat.max c.max h.max
    sum := c.sum + h.sum
    sumSq := c.sumSq + h.sumSq
    first := if c.count = 0 then h.first else c.first
    noStop := Nat.min 0xFFFFFFFF (c.noStop + h.noStop)
    ovr := Nat.min 0xFFFFFFFF (c.ovr + h.ovr) }

/-- A shot completes (R302): accumulated and counted; that of a `GATE_IN` gate once no closing edge can take it back (R307). -/
def tiuShot (g : Glove) (start stop : Int) (s : State) : State :=
  let s1 := updTiu g (fun x => { x with shot := none, lastStop := some stop }) s
  if s.ti.units[g].gate ≠ 0 ∧ s.tb.fabSrc = .edge then { s1 with ti := { s1.ti with recent := s1.ti.recent ++ [⟨g, start, stop, false⟩] } }
  else countShot g start stop s1

/-- A shot ends as an overflow (R302) at its full length; that of a `GATE_IN` gate once no closing edge can take it back (R307). -/
def tiuOverflow (g : Glove) (start : Int) (s : State) : State :=
  let stop := start + (2 ^ 50 - 1)
  let s1 := updTiu g (fun u => { u with shot := none, lastStop := some stop }) s
  if s.ti.units[g].gate ≠ 0 ∧ s.tb.fabSrc = .edge then { s1 with ti := { s1.ti with recent := s1.ti.recent ++ [⟨g, start, stop, true⟩] } }
  else countOver g start s1

/-- A shot that has passed 2^50 − 1 ticks ends as an overflow before a later event counts (R302). -/
def tiuExpire (g : Glove) (t : Int) (s : State) : State :=
  match s.ti.units[g].shot with
  | some (st, _) => if st + (2 ^ 50 - 1) < t then tiuOverflow g st s else s
  | none => s

/-- A TIU takes shots: gate open and ready, guard open, calibrated, not done (R302, R304, R309, R310). -/
def tiuReady (s : State) (g : Glove) (t : Int) : Bool :=
  let u := s.ti.units[g]
  u.gopen && !u.calErr && !u.done && decide (tiuCount s g < u.n) && s.tb.guardOpen[quadOfGlove g]
    && u.ready.any fun r => decide (r ≤ t)

/-- A start event (R302): at or after the ready epoch, and 8192 ticks or more after the last stop. -/
def tiuStart (g : Glove) (t : Int) (s : State) : State :=
  let u := s.ti.units[g]
  if tiuReady s g t && u.lastStop.all fun l => decide (l + 8192 ≤ t) then updTiu g (fun x => { x with shot := some (t, 0) }) s
  else s

/-- A stop event (R302): qualifying ones lie 512 ticks or more after the start; the `STOPN`-th ends the shot. -/
def tiuStop (g : Glove) (st t : Int) (k : Nat) (s : State) : State :=
  if t < st + 512 then s
  else if k + 1 = s.ti.units[g].stopN then tiuShot g st t s
  else updTiu g (fun x => { x with shot := some (st, k + 1) }) s

/-- `KIND` of a source word (Table 12.2). -/
def srcKind (w : W32) : Nat := fld w.toNat 31 30

/-- The stop source of a TIU takes an event (`KIND` 0b11: the start source). -/
def tiuStopSel (u : Tiu) (sel : W32 → Bool) : Bool := if srcKind u.stop = 3 then sel u.start else sel u.stop

/-- An event at a time reaches one TIU (R302); `sel` tells whether a source word selects it. -/
def tiuEvent (sel : W32 → Bool) (t : Int) (s0 : State) (g : Glove) : State :=
  if sel s0.ti.units[g].start || tiuStopSel s0.ti.units[g] sel then
    let s := tiuExpire g t s0
    match s.ti.units[g].shot with
    | some (st, k) => if tiuStopSel s.ti.units[g] sel then tiuStop g st t k s else s
    | none => if sel s.ti.units[g].start then tiuStart g t s else s
  else s0

/-- The skew that the routing matrix leaves between a pin and a TIU (R301, Table 12.3): none from its own glove, within 41 ticks
from its quadrant, within 82 from another (a free value of the machine; log 45). -/
def routeSkew (p : Pin) (g : Glove) : Int :=
  let lim : Int := if quadOf p = quadOfGlove g then 41 else 82
  if gloveOf p = g then 0 else max (-lim) (min lim (Config.tiuSkew p.val g.val))

/-- An event reaches every TIU. -/
def tiuFeed (sel : W32 → Bool) (t : Int) (s : State) : State := (List.finRange 64).foldl (tiuEvent sel t) s

/-- A source word selects a crossing of a pin (R300, Table 12.2). -/
def selCross (p : Pin) (kind : Nat) (w : W32) : Bool :=
  decide (srcKind w = 0 ∧ fld w.toNat 29 21 = p.val) && bitAt (fld w.toNat 20 17) kind

/-- The random jitter that the routing matrix adds to one event (R301, Table 12.3): none from the own glove; a free value, since the
table bounds its rms value only. -/
def routeJitter (n : Nat) (p : Pin) (g : Glove) : Int := if gloveOf p = g then 0 else Config.tiuJitter n g.val

/-- A TIU outside a pin's glove selects a crossing of it. -/
def routedTo (p : Pin) (kind : Nat) (s : State) : Bool :=
  (List.finRange 64).any fun g =>
    let u := s.ti.units[g]
    gloveOf p != g && (selCross p kind u.start || tiuStopSel u (selCross p kind))

/-- A crossing of a pin reaches every TIU, through the routing matrix (R301), and is interpolated to 16 ticks there (R300, R303). -/
def tiuCross (p : Pin) (kind : Nat) (t : Int) (s : State) : State :=
  (List.finRange 64).foldl
    (fun u g => tiuEvent (selCross p kind) ((t + routeSkew p g + routeJitter s.freeCtr p g) / 16 * 16) u g)
    (if routedTo p kind s then takeFree s else s)

/-- A source word selects a rising edge of an `EVT_IN` line. -/
def selEvt (i : Fin 4) (w : W32) : Bool := decide (srcKind w = 1 ∧ fld w.toNat 16 15 = i.val)

/-- A source word selects a time mark. -/
def selMark (tag : Nat) (w : W32) : Bool := decide (srcKind w = 2 ∧ fld w.toNat 14 7 = tag)

/-- A shot reaches 2^50 − 1 ticks without its stop (R302). -/
def execTiuShotOverflow (g : Glove) (s : State) : Host.Outcome State Fault Refusal :=
  .next (match s.ti.units[g].shot with
    | none => s
    | some (st, _) => tiuOverflow g st (toEpoch (st + 2 ^ 50).toNat s))

/-- An uncorrectable error in a TIU's state (R318): statistics cleared, gate closed, event 0x0B06. -/
def tiuStateUe (g : Glove) (s : State) : State :=
  let s1 := updTiu g (fun u => { tiuClear u with gopen := false, ready := none, calAt := none, shot := none }) s
  issue 0x0B06 [i1 g.val]
    { s1 with ti := { s1.ti with
      stateUe := true, fresh := freshen s1 8 s1.ti.fresh, recent := s1.ti.recent.filter fun x => x.tiu != g } }

/-! ### Gates and calibration -/

/-- A gate opens (R305, R309): calibration runs for 1000 ns from the opening epoch, `ago` ticks back (R53), while the quadrant's guard
is open. `CALERR` stays until it ends (R304, R305). -/
def tiuOpen (ago : Nat) (g : Glove) (s : State) : State :=
  let cal := if s.tb.guardOpen[quadOfGlove g] then some (s.tb.now + 8192000 - ago) else none
  updTiu g (fun u => { u with gopen := true, ready := none, calAt := cal, calWas := none, shot := none, lastStop := none }) s

/-- A `TGATE` open request acts (R306, R310, R311). -/
def tgateOpen (a : Act) (s : State) (g : Glove) : State :=
  let u := s.ti.units[g]
  if u.gate ≠ 0 then s
  else if u.held.isSome then
    issue 0x0B04 [i1 g.val, iv a.idx] { s with ti := { s.ti with
      openIgn := true, fresh := freshen s 4 s.ti.fresh } }
  else if u.gopen then s
  else
    let wait := (s.sp.inflight.find? fun v => v.n == a.n && v.isWait).map fun v => v.n
    if a.conds.isEmpty then tiuOpen 0 g s
    else updTiu g (fun x => { x with held := some {}, prov := a.conds, provN := wait }) (tiuOpen 0 g s)

/-- A `TGATE` close request acts whatever the path (R306, R311). -/
def tgateClose (s : State) (g : Glove) : State := if s.ti.units[g].gate ≠ 0 then s else tiuClose g s

/-- `TGATE` requests of a carrier act in the first fabric cycle at or after S_c + Λ (R306). -/
def execTgateAct (s : State) : Host.Outcome State Fault Refusal :=
  .next (match firstAct (fun a => a.reqs.topen != 0 || a.reqs.tclose != 0) s.sq.acts with
    | none => s
    | some a =>
      let s1 := takeAct a (fun r => { r with topen := 0, tclose := 0 }) (toEpoch a.due s)
      let s2 := (maskBits 64 a.reqs.tclose.toNat).foldl tgateClose s1
      (maskBits 64 a.reqs.topen.toNat).foldl (tgateOpen a) s2)

/-- The carrier of a gate is confirmed (R310): the held set merges into the committed statistics. -/
def tiuMerge (s : State) (g : Glove) : State :=
  match s.ti.units[g].held with
  | some h =>
    if s.ti.units[g].prov.isEmpty ∧ s.ti.units[g].provN.isNone then
      tiuCheckDone g (updTiu g (fun x => { x with com := statsMerge x.com h, held := none }) s)
    else s
  | none => s

/-- Every held set whose carrier has committed merges. -/
def tiuMergeAll (s : State) : State := (List.finRange 64).foldl tiuMerge s

/-- The recorded epoch of an edge that becomes visible now (R53). -/
def recorded (s : State) : Int := (ext s : Int) - edgeLag

/-- A `GATE_IN` line moves one TIU's gate at the recorded epoch (R53, R307, R308): containment holds it closed until a new rising edge
after it. -/
def gateInTiu (line : Fin 4) (rise : Bool) (s : State) (g : Glove) : State :=
  let u := s.ti.units[g]
  if u.gate ≠ line.val + 1 then s
  else if rise then
    if s.mg.contained then s
    else
      let s1 := updTiu g (fun x => { x with barred := false }) s
      if u.gopen then s1 else tiuOpen edgeLag g s1
  else tiuCloseAt g (recorded s) s

/-- `GATE_IN_EDGE`. -/
def execGateInEdge (line : Fin 4) (rise : Bool) (s : State) : Host.Outcome State Fault Refusal :=
  let s1 : State := { s with ti := { s.ti with gateIn := vset s.ti.gateIn line rise } }
  .next (if s.ti.gateIn[line] = rise then s else (List.finRange 64).foldl (gateInTiu line rise) s1)

/-- A number rounded to nearest, halves up. -/
def roundDiv (a b : Int) : Int := (2 * a + b) / (2 * b)

/-- The measured gain in 2^−24 tick per bin (R304, R313), where it fits its register. -/
def gainReg (r1 r2 : Nat) : Option Nat :=
  if r1 < r2 ∧ roundDiv (2 ^ 40) ((r2 : Int) - r1) < 2 ^ 32 then some (roundDiv (2 ^ 40) ((r2 : Int) - r1)).toNat else none

/-- The measured offset in 1/256 tick (R304, R313), where it fits its register. -/
def offsetReg (r1 r2 : Nat) : Option Int :=
  let v := roundDiv (262144 * ((r2 : Int) - 2 * r1)) ((r2 : Int) - r1)
  if r1 < r2 ∧ -(2 ^ 31) ≤ v ∧ v < 2 ^ 31 then some v else none

/-- The gain lies within 15.2 to 16.8 ticks per bin (R304). -/
def gainOk (r1 r2 : Nat) : Bool :=
  decide (r1 < r2 ∧ 152 * (r2 - r1) ≤ 655360 ∧ 655360 ≤ 168 * (r2 - r1))

/-- What a calibration replaces. -/
def calNow (u : Tiu) : CalRes := { calErr := u.calErr, gain := u.gain, offset := u.offset, r1 := u.r1, r2 := u.r2 }

/-- Calibration ends (R304, R305): gain and offset, then the ready epoch or the failure with event 0x0B01. -/
def tiuCalibrated (g : Glove) (r1 r2 : Nat) (s : State) : State :=
  let ok := gainOk r1 r2
  let gain := BitVec.ofNat 32 ((gainReg r1 r2).getD (Config.freeWord s.freeCtr).toNat)
  let off := (offsetReg r1 r2).map fun v => BitVec.ofInt 32 v
  let s1 := updTiu g (fun u => { u with
    calAt := none, calWas := if u.gate ≠ 0 then some (calNow u) else none, calErr := !ok, r1 := r1, r2 := r2, gain := gain
    offset := off.getD ((Config.freeWord (s.freeCtr + 1)).setWidth 32)
    ready := if ok then some (ext s : Int) else none }) (takeFree (takeFree s))
  if ok then s1 else issue 0x0B01 [i1 g.val, i4 gain.toNat] { s1 with ti := { s1.ti with
    calErr := true, fresh := freshen s1 2 s1.ti.fresh } }

/-- `TIU_GATE_READY`: 1000 ns after the gate opened; `r1` and `r2` are the sums of the 64 raw results of one and of two
edge-clock periods. A failure of a `GATE_IN` gate is said once no closing edge can lie before the ready epoch (R305, R307). -/
def execTiuGateReady (g : Glove) (r1 r2 : Nat) (s : State) : Host.Outcome State Fault Refusal :=
  .next (match s.ti.units[g].calAt with
    | none => s
    | some t => tiuCalibrated g r1 r2 (toTime (if s.ti.units[g].gate ≠ 0 ∧ ¬ gainOk r1 r2 then t + edgeLag else t) s))

/-! ### Results -/

/-- `MEAN` in 1/256 tick, halves up (R312). -/
def statsMean (x : Stats) : Nat := if x.count = 0 then 0 else (512 * x.sum + x.count) / (2 * x.count)

/-- `SD` in 1/256 tick, to nearest (R312). -/
def statsSd (x : Stats) : Nat :=
  if x.count = 0 then 0
  else (Nat.sqrt (4 * 65536 * (x.count * x.sumSq - x.sum * x.sum)) + x.count) / (2 * x.count)

/-- A result block (Table 12.4). -/
def tiuBlock (u : Tiu) : List Byte :=
  let flags := b2n u.done * 2 ^ 63 + b2n u.calErr * 2 ^ 62 + b2n u.held.isSome * 2 ^ 61 + b2n u.gopen * 2 ^ 60
  leBytes 8 (flags + u.com.count % 2 ^ 25) ++ leBytes 8 (if u.com.count = 0 then 0 else u.com.min)
    ++ leBytes 8 (if u.com.count = 0 then 0 else u.com.max) ++ leBytes 8 (statsMean u.com) ++ leBytes 8 (statsSd u.com)
    ++ leBytes 4 u.com.noStop ++ leBytes 4 u.com.ovr ++ leBytes 8 (if u.com.count = 0 then 0 else u.com.first.toNat)
    ++ leBytes 4 u.gain.toNat ++ leBytes 4 u.offset.toNat

/-- The result blocks of the TIUs in a mask, ascending (R317). -/
def tiuBlocks (s : State) (mask : Nat) : List Byte := (maskBits 64 mask).flatMap fun g => tiuBlock s.ti.units[g]

/-- A write of `TI_SNAP` (R315): the selected blocks enter the `TI_RES` window in one cycle. -/
def tiuSnap (mask : W64) (s : State) : State :=
  let put := fun (m : Mem) (g : Glove) => memWrite 0 m (64 * g.val) (tiuBlock s.ti.units[g])
  { s with ti := { s.ti with window := (maskBits 64 mask.toNat).foldl put s.ti.window } }

/-- `TI_SNAP`. -/
def execTiSnap (mask : W64) (s : State) : Host.Outcome State Fault Refusal := .next (applyReg 0x0598 8 0 (· == mask.toNat) (tiuSnap mask) s)

/-! ### Commands -/

/-- A source word is well formed (R299, R317); `stop` for the `STOP` word. -/
def srcOk (stop : Bool) (w : Nat) : Bool :=
  let kind := fld w 31 30
  let pin := fld w 29 21
  let xk := fld w 20 17
  let evin := fld w 16 15
  let tag := fld w 14 7
  decide (fld w 6 0 = 0) && (if kind = 0 then decide (xk ≠ 0 ∧ evin = 0 ∧ tag = 0)
    else if kind = 1 then decide (pin = 0 ∧ xk = 0 ∧ tag = 0)
    else if kind = 2 then decide (pin = 0 ∧ xk = 0 ∧ evin = 0)
    else stop && decide (pin = 0 ∧ xk = 0 ∧ evin = 0 ∧ tag = 0))

/-- A configuration record is well formed (Table 12.1). -/
def tiRecOk (r : List Byte) : Bool :=
  let stopn := fieldAt r 8 4
  let n := fieldAt r 12 4
  srcOk false (fieldAt r 0 4) && srcOk true (fieldAt r 4 4) && decide (1 ≤ stopn ∧ stopn ≤ 2 ^ 24 ∧ 1 ≤ n ∧ n ≤ 2 ^ 24)
    && decide (fieldAt r 16 1 ≤ 4) && allZero (slice r 17 15)

/-- A record names an ensemble time mark. -/
def tiRecMark (r : List Byte) : Bool := decide (fld (fieldAt r 0 4) 31 30 = 2 ∨ fld (fieldAt r 4 4) 31 30 = 2)

/-- A TIU takes a configuration record (R299, R314). -/
def tiApply (r : List Byte) (u : Tiu) : Tiu :=
  { tiuClear u with
    start := BitVec.ofNat 32 (fieldAt r 0 4), stop := BitVec.ofNat 32 (fieldAt r 4 4), stopN := fieldAt r 8 4
    n := fieldAt r 12 4, gate := fieldAt r 16 1
    barred := u.barred && decide (u.gate = fieldAt r 16 1) }

/-- A configured TIU; one gated by a line that is high opens at once (R307) unless R308 makes it wait for a rising edge. -/
def tiConfigOne (s : State) (x : Glove × List Byte) : State :=
  let s1 := updTiu x.1 (tiApply x.2) s
  let gate := fieldAt x.2 16 1
  if gate ≠ 0 ∧ (s.ti.gateIn.toList.getD (gate - 1) false) ∧ ¬ s.mg.contained ∧ ¬ s1.ti.units[x.1].barred then tiuOpen 0 x.1 s1
  else s1

/-- A selected TIU has its gate open or a held set (Table 12.6). -/
def tiuInUse (s : State) (mask : Nat) : Bool :=
  (maskBits 64 mask).any fun g => s.ti.units[g].gopen || s.ti.units[g].held.isSome

/-- The TIUs of a mask with their records. -/
def tiRecords (e : Exec) (mask : Nat) : List (Glove × List Byte) :=
  List.zipWith (fun g i => (g, slice e.ind (8 + 32 * i) 32)) (maskBits 64 mask) (List.range 64)

/-- `TI_CONFIG` (R316, R317). -/
def tiConfigCmd (e : Exec) (s : State) : State :=
  let mask := payF e 0 8
  let recs := tiRecords e mask
  checked [
    (mask == 0 || e.ind.length != 8 + 32 * recs.length, eInval), (recs.any fun x => !tiRecOk x.2, eInval)
    , (recs.any (fun x => tiRecMark x.2) && !formed s, eState), (tiuInUse s mask, eBusy)]
    e (fun t => answer e eOk [] (recs.foldl tiConfigOne t)) s

/-- `TI_CONFIG`. -/
def execTiConfig (tag : W16) (s : State) : Host.Outcome State Fault Refusal := .next (runCmd 0x0B01 tag tiConfigCmd s)

/-- `TI_CLEAR` (R314, R316). -/
def tiClearCmd (e : Exec) (s : State) : State :=
  let mask := payF e 0 8
  checked [(mask == 0 || !payZero e 8 40, eInval), (tiuInUse s mask, eBusy)] e
    (fun t => answer e eOk [] ((maskBits 64 mask).foldl (fun u g => updTiu g tiuClear u) t)) s

/-- `TI_CLEAR`. -/
def execTiClear (tag : W16) (s : State) : Host.Outcome State Fault Refusal := .next (runCmd 0x0B02 tag tiClearCmd s)

/-- `TI_READ` (R316, R317): the blocks as they stood when the command started (`ind`, kept by the start) go to the host before
the completion. -/
def tiReadCmd (e : Exec) (s : State) : State :=
  let mask := fieldAt e.entry.pay 0 8
  let addr := fieldAt e.entry.pay 8 8
  checked [(mask == 0 || !allZero (slice e.entry.pay 16 32) || addr % 8 != 0, eInval)] e
    (fun t => answer e eOk [] (hostWrite addr e.ind t)) s

/-- `TI_READ`. -/
def execTiRead (tag : W16) (s : State) : Host.Outcome State Fault Refusal := .next (runCmd 0x0B03 tag tiReadCmd s)

end Sys2Proof.Machine
end

