-- ==== Sys2Proof/Machine/Conditions.lean ====
section
/-! DEFINITION. Conditions (09): the value of an entry for a subject vector (R234 to R238), the fails a vector counts (R254,
R255), confirmation and mispredict (R239 to R243), stay and go waits (R212, R213). -/

namespace Sys2Proof.Machine

open Sys2Proof

/-! ### Results of a vector -/

/-- A compare of a vector on a pin is not complete: its result is undefined where it is taken now (R469). -/
def pendingCmp (s : State) (v : VRec) (p : Pin) : Bool :=
  !v.atFm || s.tg.edges.any (fun e => decide (e.pin = p ∧ e.n = v.n ∧ 4 ≤ e.e)) || s.pins[p].win.any fun w => w.n == v.n

/-- A vector's symbol selects burst on a pin. -/
def burstOn (v : VRec) (p : Pin) : Bool := v.uis.any fun x => x.1 == p

/-- The result word of a pin (Table 4.8): taken as it is, or free while a compare is pending (R469). -/
def resWord (s : State) (v : VRec) (p : Pin) : W16 :=
  if pendingCmp s v p then (Config.freeResult s.freeCtr p.val) &&& (if burstOn v p then 0xFFFF else 0x003B)
  else ((v.res.find? fun x => x.1 = p).map fun x => x.2).getD 0

/-- What a result adds to the pin counter if it counts (R254, R255). -/
def failAmount (s : State) (v : VRec) (p : Pin) : Nat :=
  let w := resWord s v p
  if burstOn v p then (maskBits 16 w.toNat).length else b2n (w.getLsbD 3)

/-- A pin's site is retired under a mask (R235, R265). -/
def retiredPin (s : State) (ret : W64) (p : Pin) : Bool := !noSite s p && ret.getLsbD (siteOf s p)

/-- The pins that count a fail for a vector, with their amounts (R254). -/
def vecFails (s : State) (ret : W64) (v : VRec) : List (Pin × Nat) :=
  (usedPins s).filterMap fun p =>
    if retiredPin s ret p then none
    else match failAmount s v p with
      | 0 => none
      | n + 1 => some (p, n + 1)

/-- A site counts a failing vector (R255). -/
def siteFails (s : State) (l : List (Pin × Nat)) (i : Nat) : Bool := l.any fun x => !noSite s x.1 && siteOf s x.1 == i

/-- Some pin's result of a vector is undefined now. -/
def anyPending (s : State) (v : VRec) : Bool := (usedPins s).any fun p => pendingCmp s v p

/-! ### Values (R234 to R236) -/

/-- A vector's record: in the cloakroom or kept for its conditions. -/
def recOf (s : State) (n : Nat) : Option VRec := (s.sp.inflight ++ s.sp.kept).find? fun v => v.n == n

/-- The fails of each unreleased vector up to and including the subject, on the present path (R234, R256). -/
def pathFails (s : State) (sub : Subj) : List (List (Pin × Nat)) :=
  (s.sp.inflight.filter fun v => !v.idle && !v.isWait && !v.dead && decide (v.n ≤ sub.n)).map fun v => vecFails s v.retired v

/-- A pin passes for `MATCH`: it was not compared, or did not fail (Table 9.2). -/
def matchPin (s : State) (v : VRec) (p : Pin) : Bool :=
  let w := resWord s v p
  if burstOn v p then w == 0 else !(w.getLsbD 4 && w.getLsbD 3)

/-- Sources 1 to 3 over a set of pins and, for `FCOUNT`, a site or the device. -/
def srcValue (s : State) (e : CondEntry) (sub : Subj) (path : List (List (Pin × Nat))) (pins : List Pin) (site : Option Nat) :
    Bool :=
  match cSrc e with
  | 1 => (match recOf s sub.n with
    | some v => pins.all fun p => matchPin s v p
    | none => true)
  | 2 => pins.any fun p => decide (s.cl.pins[p] ≠ 0) || path.any fun l => l.any fun x => x.1 == p
  | _ =>
    let base := match site with
      | some i => s.cl.sites.toList.getD i 0
      | none => s.cl.dev
    let more := (path.filter fun l => match site with
      | some i => siteFails s l i
      | none => !l.isEmpty).length
    decide (cThresh e ≤ base + more)

/-- The reduction of `SCOPE` 0 (R235). -/
def unretired (s : State) (e : CondEntry) (sub : Subj) : List Pin := (condPins s e).filter fun p => !retiredPin s sub.retired p

/-- The pins of one site within `GROUP`. -/
def sitePart (s : State) (e : CondEntry) (i : Nat) : List Pin :=
  (condPins s e).filter fun p => !noSite s p && siteOf s p == i

/-- Sources 1 to 3 reduced by `SCOPE` (Table 9.3). -/
def scopedValue (s : State) (e : CondEntry) (sub : Subj) : Bool :=
  let path := pathFails s sub
  let sel := (List.range 64).filter fun i => e.w1.getLsbD i && !sub.retired.getLsbD i
  match cScope e with
  | 0 => srcValue s e sub path (unretired s e sub) none
  | 1 => srcValue s e sub path (if sub.retired.getLsbD (cSite e) then [] else sitePart s e (cSite e)) (some (cSite e))
  | 2 => sel.any fun i => srcValue s e sub path (sitePart s e i) (some i)
  | _ => sel.all fun i => srcValue s e sub path (sitePart s e i) (some i)

/-- An event time lies in the window of a subject (R238). -/
def inWindow (e : CondEntry) (sub : Subj) (t : Nat) : Bool :=
  decide (sub.start + cWoff e ≤ t ∧ t < sub.start + cWoff e + sub.period)

/-- What reaches the condition logic at an epoch is in time for a subject (R238): not after its resolution cycle, though the
condition may resolve later behind an older one, with the result held since (R239). -/
def inTime (s : State) (e : CondEntry) (sub : Subj) (at_ : Nat) : Bool := decide (at_ < resCycle s e sub + 8192)

/-- The class bit of a trigger class. -/
def classBit : TClass → Nat
  | .width => 0
  | .runt => 1
  | .timeout => 2
  | .slew => 3

/-- `TRIG` (Table 9.2, R238): a delivered hit of a selected class in the window. -/
def trigValue (s : State) (e : CondEntry) (sub : Subj) : Bool :=
  s.cs.seen.any fun h => bitAt (cClass e) (classBit h.cls) && inWindow e sub h.key && inTime s e sub h.at_
    && (unretired s e sub).contains h.pin

/-- `EVTIN` (Table 9.2, R238). -/
def evtinValue (s : State) (e : CondEntry) (sub : Subj) : Bool :=
  s.ti.evtEpochs.any fun x => bitAt (cEvin e) x.1.val && inWindow e sub x.2.1 && inTime s e sub x.2.2

/-- The value of a local entry for a subject (R234). -/
def localValue (s : State) (e : CondEntry) (sub : Subj) : Bool :=
  match cSrc e with
  | 4 => trigValue s e sub
  | 5 => evtinValue s e sub
  | _ => scopedValue s e sub

/-- The value of a condition; `none` for a global one without its result (R250). -/
def condValue (s : State) (c : Cond) (sub : Subj) : Option Bool :=
  let e := condEnt s c.entry
  if cSrc e = 6 then globalResult s c sub else some (localValue s e sub)

/-- The value was taken from an undefined result (R469): a free value is drawn. -/
def drawFree (s : State) (c : Cond) (sub : Subj) : State :=
  let e := condEnt s c.entry
  let from_ := s.sp.inflight.filter fun v => !v.idle && !v.dead && decide (v.n ≤ sub.n)
  if 1 ≤ cSrc e ∧ cSrc e ≤ 3 ∧ from_.any (anyPending s) then takeFree s else s

/-! ### Confirmation -/

/-- The marks that wait, or that stand in frames and may return to the queue (R290), without a condition. -/
def forgetMarks (cid : Nat) (c : CS) : CS :=
  let mark := fun (m : Mark) => { m with conds := m.conds.filter fun i => i != cid }
  let frame := fun (f : Frame) => { f with kept := f.kept.map mark }
  { c with
    marks := c.marks.map mark, frames := vmap (fun f => f.map frame) c.frames, front := c.front.map frame
    staged := c.staged.map frame }

/-- A condition no longer stands over what depends on it (R242, Table 9.4). -/
def forget (cid : Nat) (s : State) : State :=
  let keep := fun (l : List Nat) => l.filter fun i => i != cid
  { s with
    sp := { s.sp with
      inflight := s.sp.inflight.map fun v => { v with conds := keep v.conds }
      open_ := s.sp.open_.filter fun c => c.cid != cid }
    sq := { s.sq with
      acts := s.sq.acts.map fun a => { a with conds := keep a.conds }
      held := s.sq.held.map fun h => { h with conds := keep h.conds } }
    cs := forgetMarks cid s.cs
    ti := { s.ti with units := vmap (fun u => { u with prov := keep u.prov }) s.ti.units } }

/-- Posts that no condition holds any longer are queued, in order (R219). -/
def releasePosts (s : State) : State :=
  let go := s.sq.held.filter fun h => h.conds.isEmpty
  go.foldl (fun t h => postNow h t) { s with sq := { s.sq with held := s.sq.held.filter fun h => !h.conds.isEmpty } }

/-- A discarded shelf item that was poisoned is reported (R189): event 0x0606, requester 2. -/
def reportShelf (s : State) (x : Shelf) : State :=
  if x.ue then issue 0x0606 [i8 x.bad, i1 2] s else s

/-- The spare shelf of a confirmed condition is not needed (R180). Its poisoned data is logged like data that a redirect discards (R189
speaks of a redirect alone; DESIGN CHOICE, log 35). -/
def dropSpare (s : State) : State :=
  let gone := s.pm.shelf.filter fun x => x.spare
  gone.foldl reportShelf { s with pm := { s.pm with shelf := s.pm.shelf.filter fun x => !x.spare } }

/-- A redirect (R181): the main shelf is discarded and the spare contents take its place. -/
def swapShelf (s : State) : State :=
  let gone := s.pm.shelf.filter fun x => !x.spare
  let stay := (s.pm.shelf.filter fun x => x.spare).map fun x => { x with spare := false }
  gone.foldl reportShelf { s with pm := { s.pm with shelf := stay } }

/-- A `HALT` word stops the vector context once no older condition is left (R216). -/
def haltReady (s : State) : State :=
  match s.sq.haltWait with
  | some code => if s.sp.open_.isEmpty ∧ s.sp.toOpen.isEmpty then stopVector 1 code s else s
  | none => s

/-- A condition resolved is counted (Table 9.8). -/
def countResolved (s : State) : State := { s with sp := { s.sp with resolved := satSucc 0xFFFFFFFF s.sp.resolved } }

/-- A condition is confirmed (R240, R242): what waited for it alone is committed. -/
def confirm (c : Cond) (s : State) : State :=
  haltReady (releasePosts (tiuMergeAll (dropSpare (forget c.cid (countResolved s)))))

/-! ### Mispredict -/

/-- A vector of the tail: its results are discarded; on its way to the formatters it still drives (R242, R245). -/
def killTail (cid : Nat) (l : List VRec) : List VRec :=
  l.filterMap fun v =>
    if ¬ v.conds.contains cid then some v else if v.atFm then none else some { v with dead := true }

/-- A tail carrier's requests: gates do not open, what is never undone acts (R245, R311). -/
def killAct (cid : Nat) (a : Act) : Act :=
  if a.conds.contains cid then { a with reqs := { a.reqs with topen := 0 } } else a

/-- Every provisional state behind a condition is discarded (R240, Table 9.4). -/
def discardTail (c : Cond) (s : State) : State :=
  let acts := (s.sq.acts.map (killAct c.cid)).filter fun a => !actDone a
  { s with
    sp := { s.sp with inflight := killTail c.cid s.sp.inflight, toOpen := [], open_ := [] }
    sq := { s.sq with acts := acts, held := s.sq.held.filter fun h => !h.conds.contains c.cid }
    ti := { s.ti with units := vmap (fun u => if u.prov.contains c.cid then tiuUndo u else u) s.ti.units } }

/-- The checkpoint is restored (R209, R240). The words of the path not predicted count as decoded, so that no decode stall delays
its first vector (R241; DEDUCED, log 28). -/
def restore (c : Cond) (s : State) : State :=
  let k := c.check
  { s with
    sq := { s.sq with
      decoded := 64, pc := k.pc, cur := if s.sq.stopped then none else k.cur, loops := k.loops, reqs := k.reqs, vindex := k.vindex
      haltWait := none, lastIdx := some c.subj, early := [] }
    sp := { s.sp with
      counted := c.subj.cnt, retired := k.retired, gserial := k.gserial, bubble := !s.sq.stopped, redirected := true
      fresh := freshen s 2 s.sp.fresh }
    pm := { s.pm with cursors := k.cursors } }

/-- A brim in progress at the resolution is served to its end, the first vector start after it (R240, R76). -/
def serveBrim (s : State) : State :=
  let lo := nextStart s
  let hi := peekStart s
  if lo ≤ ext s ∧ lo < hi then
    let s1 := noteBrim s.sq.nEmit lo hi s
    { s1 with sq := { s1.sq with lastV := s1.sq.lastV.map fun v => (v.1, v.2.1, v.2.2 + (hi - lo)) } }
  else s

/-- A time-out counted (R213), with event 0x0709 for the first 64 in a run. -/
def countTimeout (word idx0 : Nat) (s : State) : State :=
  issueUpTo 64 0x0709 [i8 word, iv idx0] { s with sq := { s.sq with timeouts := satSucc 0xFFFFFFFF s.sq.timeouts } }

/-- The time-out of a stay `WAIT` (R213): counted, and the vector context goes to `TTARGET`. -/
def timeOut (word target idx0 : Nat) (s : State) : State :=
  countTimeout word idx0 { s with sq := { s.sq with cur := none, pc := target } }

/-- A go `WAIT` that mispredicts returns to the `WAIT` in stay mode (R212), or has timed out already (R213). -/
def backToWait (s : State) : State :=
  match s.sq.cur with
  | some k => (match k.kind with
    | .wait e sn d tt true =>
      if d ≤ nextStart s then timeOut k.word tt k.idx0 s else addCond (stayCond k e sn s) s
    | _ => s)
  | none => s

/-- A mispredict (R240 to R243, R253). -/
def mispredict (c : Cond) (s0 : State) : State :=
  let s := retract c (serveBrim s0)
  let s1 := swapShelf (restore c (discardTail c (countResolved s)))
  let s2 : State := { s1 with sp := { s1.sp with mispred := satSucc 0xFFFFFFFF s1.sp.mispred } }
  let s3 := issueUpTo 64 0x0803 [i8 c.word, iv c.subj.idx, i2 (tailCount 65536 c s0)] s2
  backToWait (if 4096 ≤ c.tails then takeFree s3 else s3)

/-! ### Resolution -/

/-- The word that supplies vectors is the stay `WAIT` of a condition. -/
def waitOf (c : Cond) (s : State) : Option (Cur × Nat) :=
  match s.sq.cur with
  | some k => (match k.kind with
    | .wait _ _ _ tt true => if k.word = c.word then some (k, tt) else none
    | _ => none)
  | none => none

/-- A stay `WAIT` has no repetition left to resolve: it times out (R213). Where a stop has ended its repetitions the time-out is counted and
reported, and the vector context stays stopped (R214; DEDUCED, log 28). -/
def endStay (c : Cond) (s : State) : State :=
  match waitOf c s with
  | some (k, tt) => timeOut c.word tt k.idx0 (swapShelf (forget c.cid (countResolved s)))
  | none =>
    let t := forget c.cid (countResolved s)
    haltReady (if c.deadline = 0 then t else countTimeout c.word c.idx0 t)

/-- A stay `WAIT` is satisfied (R212): the vector context continues with the next word. -/
def satisfied (c : Cond) (s : State) : State :=
  let s1 := confirm c s
  match waitOf c s with
  | some (k, _) => { s1 with
      sq := { s1.sq with cur := none, pc := c.word + 1 }
      pm := { s1.pm with shelf := eraseItem (.vector k.addr) s1.pm.shelf } }
  | none => s1

/-- The next repetition of a stay `WAIT` resolves (R212, R213). -/
def resolveStay (c : Cond) (v : Bool) (s : State) : State :=
  if v = c.sense then satisfied c s
  else
    let drop := fun (x : Cond) => if x.cid = c.cid then { x with reps := x.reps.tail } else x
    { s with sp := { s.sp with open_ := s.sp.open_.map drop } }

/-- A branch or a go `WAIT` resolves (R210, R212, R240). -/
def resolveBranch (c : Cond) (v : Bool) (s : State) : State :=
  let taken := v == c.sense
  if (if c.goWait then taken else taken == c.pred) then confirm c s else mispredict c s

/-- A global condition reaches its resolution cycle without a matching result (R250). -/
def noResult (c : Cond) (s : State) : State :=
  contain 0x08 (issue 0x0805 [i4 c.gserial, i8 ((subjOf c).start % 2 ^ 64), i1 c.entry] s)

/-- The oldest condition resolves in the present cycle (R239, R240, R249, R250). -/
def resolveNow (c : Cond) (s0 : State) : State :=
  if c.stay ∧ stayOver s0 c then endStay c s0
  else
    let v := condValue s0 c (subjOf c)
    let s := drawFree s0 c (subjOf c)
    match v with
    | none => noResult c s
    | some b => if c.stay then resolveStay c b s else resolveBranch c b s

/-- The oldest open condition resolves in a cycle. -/
def resolveOldest (r : Nat) (s : State) : State :=
  match s.sp.open_ with
  | c :: _ => resolveNow c (toEpoch r s)
  | [] => s

/-- The next resolution, in cycle `r` (R239, R250): a younger global condition that comes to its cycle before the oldest one does, and has
no result, contains the device in that cycle; else the oldest condition resolves. -/
def resolveAt (r : Nat) (s : State) : State :=
  match lateGlobal s, oldestDue s with
  | some (t, g), some o => if max t (ext s) < o then noResult g (toEpoch r s) else resolveOldest r s
  | some (_, g), none => noResult g (toEpoch r s)
  | none, _ => resolveOldest r s

/-- `CONDITION_RESOLVE`: the next resolution; the vectors that start up to and including its cycle are issued first (R240). -/
def execConditionResolve (s : State) : Host.Outcome State Fault Refusal :=
  .next (match nextResolve s with
    | some r =>
      let start := peekStart s
      if vecRuns s ∧ start - start % 8192 ≤ r then s else resolveAt r s
    | none => s)

end Sys2Proof.Machine
end

