-- ==== Sys2Proof/Machine/Fetch.lean ====
section
/-! DEFINITION. The fetcher of the attic (07): the walk along the predicted path (R179), the path of the spare shelf (R180), what is
missing on each, the capacities of the shelves, and the read requests in flight (R170, R185). -/

namespace Sys2Proof.Machine

open Sys2Proof

/-! ### The walk (R179) -/

/-- One step of the fetcher: it needs items that are not in the attic, it ends, or it goes on. -/
inductive Walk where
  | need (l : List FetchItem) | over | on (vector : Bool) (u : State)
deriving DecidableEq, Repr

/-- The word at an address supplies vectors: the run that it starts (R203, R212). -/
def runOf (a w : Nat) : Option Cur :=
  let desc := if bitAt w 48 then some (fld w 47 19 * 4096) else none
  match opOf w with
  | 0x01 => some { kind := .vec, word := a, addr := fld w 89 49, left := fld w 121 90, desc := desc }
  | 0x02 => some { kind := .rpt, word := a, addr := fld w 89 49, left := fld w 121 90, desc := desc }
  | 0x06 => some { kind := .wait (fld w 121 115) (bitAt w 114) 0 (fld w 17 0) false, word := a, addr := fld w 71 31, left := 1 }
  | _ => none

/-- The fetcher passes a word (R179): `u` is the machine as it would stand there. -/
def walkWord (u : State) : Walk :=
  if u.sq.haltWait.isSome then .over
  else match pathNext u u.sq.pc u.sq.loops with
    | none => .over
    | some (a, l) => .on false { u with sq := { u.sq with pc := a, loops := l, cur := runOf u.sq.pc (wordAt u u.sq.pc) } }

/-- The blocks of a pin's lane that the next `n` UI need and the shelf lacks (R179). -/
def laneNeeds (u : State) (n : Nat) (p : Pin) : List FetchItem :=
  match u.pm.cursors[p] with
  | none => []
  | some c => ((laneBlocks c n).filter fun a => (shelfItem (.lane p a) u).isNone).map fun a => .lane p a

/-- The word after one of its vectors on the predicted path: a `WAIT` is satisfied, and an `RPT` without burst needs no more. -/
def walkCur (c : Cur) (size : Nat) (burst : Bool) : Option Cur :=
  match c.kind with
  | .vec => nextCur c size 0 0 0
  | .rpt => if burst then nextCur c size 0 0 0 else none
  | .wait _ _ _ _ _ => none

/-- The fetcher passes a vector whose header and symbols are there (R179): with its lane data it goes on. -/
def walkLanes (c : Cur) (b : List Byte) (u : State) : Walk :=
  let syms := vSyms u b
  let pins := burstPins u syms
  let n := tsUi u (vTset b)
  let isWait : Bool := match c.kind with
    | .wait _ _ _ _ _ => true
    | _ => false
  if isWait ∧ pins ≠ [] then .over
  else if pins.any (fun p => match laneState u n p with
      | .outside _ => true
      | .poisoned _ => true
      | _ => false) then .over
  else match pins.flatMap (laneNeeds u n) with
    | i :: l => .need (i :: l)
    | [] =>
      let next := walkCur c (vSize b) (!pins.isEmpty)
      .on true { u with
        pm := takeData c (next.isNone || c.kind == .vec) pins n u.pm
        sq := { u.sq with cur := next, prevSym := syms } }

/-- The fetcher passes a vector (R179): its item first, then its lane data. What could not be issued ends the path (R174, R189,
R203). -/
def walkVector (c : Cur) (u : State) : Walk :=
  if ¬ rangeIn u [1, 6] c.addr 32 then .over
  else match shelfItem (.vector c.addr) u with
    | none => .need [.vector c.addr]
    | some x =>
      if x.ue ∨ vHdrBad x.bytes ∨ vPadBad x.bytes ∨ ¬ rangeIn u [1, 6] c.addr (vSize x.bytes) then .over
      else walkLanes c x.bytes u

/-- One step of the fetcher (R179, R204): a word, a lane descriptor, or a vector. -/
def walkStep (u : State) : Walk :=
  match u.sq.cur with
  | none => walkWord u
  | some c => match loadDesc c u with
    | none => .over
    | some (c1, u1) => match c1.desc with
      | some d => .need [.desc d]
      | none => walkVector c1 u1

/-- What the fetcher needs next on a path of `k` vectors at most; `fuel` bounds the steps it looks ahead (log 35). -/
def walk : Nat → Nat → State → List FetchItem
  | 0, _, _ => []
  | fuel + 1, k, u =>
    if k = 0 then []
    else match walkStep u with
      | .need l => l
      | .over => []
      | .on vector v => walk fuel (if vector then k - 1 else k) v

/-- The steps that the fetcher looks ahead: more than the shelves can hold vectors and lane data for. -/
def walkFuel : Nat := 65536

/-! ### The two paths -/

/-- The predicted path as the fetcher sees it: the vector context's position with the main shelf (R179). -/
def mainPath (s : State) : State := { s with pm := { s.pm with shelf := s.pm.shelf.filter fun x => !x.spare } }

/-- Another path from a place on it, with the spare shelf (R180). -/
def sparePath (pc : Nat) (cur : Option Cur) (loops : Vector Nat 8) (cursors : Vector (Option Nat) 512) (s : State) : State :=
  { s with
    sq := { s.sq with pc := pc, cur := cur, loops := loops, haltWait := none }
    pm := { s.pm with
      cursors := cursors, shelf := (s.pm.shelf.filter fun x => x.spare).map fun x => { x with spare := false } } }

/-- The path that a `WAIT` does not predict (R212): its `TTARGET` in stay mode, the wait itself in go mode. -/
def waitOther (a : Nat) (s : State) : State :=
  let w := wordAt s a
  let back : Cur := { kind := .wait (fld w 121 115) (bitAt w 114) 0 (fld w 17 0) true, word := a, addr := fld w 71 31, left := 1 }
  if bitAt w 113 then sparePath (a + 1) (some back) s.sq.loops s.pm.cursors s
  else sparePath (fld w 17 0) none s.sq.loops s.pm.cursors s

/-- The first words of a run, up to the first that supplies vectors, call for the spare shelf (R182): a `WAIT` among them. -/
def firstWait (s : State) : Nat → Nat → Vector Nat 8 → Option Nat
  | 0, _, _ => none
  | n + 1, a, loops =>
    if opOf (wordAt s a) = 6 then some a
    else if (runOf a (wordAt s a)).isSome then none
    else match pathNext s a loops with
      | some (b, l) => firstWait s n b l
      | none => none

/-- The path that the spare shelf serves (R180): that of the oldest unresolved condition, and before the run has issued a word that of
its first `WAIT` (R182). -/
def otherPath (s : State) : Option State :=
  match s.sp.open_ ++ s.sp.toOpen with
  | c :: _ => some (sparePath c.check.pc c.check.cur c.check.loops c.check.cursors s)
  | [] =>
    if s.sq.state = .arming ∨ s.sq.state = .armed then (firstWait s 64 s.sq.pc s.sq.loops).map fun a => waitOther a s else none

/-- What the fetcher needs next (R179, R180): on the predicted path, or for the spare shelf, which takes at most 512 vectors. -/
def wanted (s : State) (spare : Bool) : List FetchItem :=
  if spare then ((otherPath s).map (walk walkFuel 512)).getD [] else walk walkFuel walkFuel (mainPath s)

/-! ### Capacities -/

/-- An item is a vector. -/
def isVecItem : FetchItem → Bool
  | .vector _ => true
  | _ => false

/-- An item is a pin's lane block. -/
def isLaneOf (p : Pin) : FetchItem → Bool
  | .lane q _ => decide (q = p)
  | _ => false

/-- Header-queue entries in use on a path (R179). -/
def headersUsed (s : State) (spare : Bool) : Nat :=
  (s.pm.shelf.filter fun x => x.spare == spare && isVecItem x.item).length

/-- Bytes of a pin's shelf in use: half a byte a vector and 64 bytes a lane block (R179, R180). -/
def shelfUse (s : State) (spare : Bool) (p : Pin) : Nat :=
  (headersUsed s spare + 1) / 2 + 64 * (s.pm.shelf.filter fun x => x.spare == spare && isLaneOf p x.item).length

/-- The bytes of a pin's shelf (07, The attic). -/
def shelfCap (spare : Bool) : Nat := if spare then 4096 else 12288

/-- The header-queue entries of a path (07, The attic). -/
def headerCap (spare : Bool) : Nat := if spare then 512 else 3584

/-- The fetcher stops on the predicted path (R179): its header queue is full, or any used pin's main shelf is. -/
def fetchFull (s : State) : Bool :=
  decide (headerCap false ≤ headersUsed s false) || (usedPins s).any fun p => decide (shelfCap false ≤ shelfUse s false p)

/-- There is room for an item (R179, R180). -/
def atticRoom (s : State) (spare : Bool) (i : FetchItem) : Bool :=
  match i with
  | .vector _ => decide (headersUsed s spare < headerCap spare)
  | .lane p _ => decide (shelfUse s spare p + 64 ≤ shelfCap spare)
  | .desc _ => true

/-- The fetcher works: from arm until the vector context stops (R179, R182, R214). -/
def fetching (s : State) : Bool := running s && !s.sq.stopped

/-! ### Requests in flight -/

/-- The bound on the PCIe read requests of a `HOSTSRC` region in flight (R185). -/
def hostReqBound : Nat := 64

/-- The bound on the block's own read requests outstanding (R369). Every other read of host memory begins and ends within its row, so that
only those of a `HOSTSRC` region are outstanding between rows. -/
def ownReqBound : Nat := 256

/-- The window address of an item. -/
def itemAddr : FetchItem → Nat
  | .vector a => a
  | .lane _ a => a / 64 * 64
  | .desc a => a

/-- The type a fetch from device DRAM uses (R176, R178). -/
def itemTyp : FetchItem → Nat
  | .vector _ => 1
  | .lane _ _ => 2
  | .desc _ => 2

/-- The requests of 64 bytes that an item's read takes; of a vector, whose size is not known before, those of the longest. -/
def itemReqs : FetchItem → Nat
  | .vector _ => 5
  | .lane _ _ => 1
  | .desc _ => 64

/-- The items of a list that are read from a `HOSTSRC` region, or from device DRAM. -/
def fromHost (s : State) (host : Bool) (l : List FetchItem) : List FetchItem :=
  l.filter fun i => (regionTyp s (itemAddr i) == 6) == host

/-- The items whose requests are in flight within a bound; those after them wait in the class queue (R170). -/
def withinBound : Nat → List FetchItem → List FetchItem
  | _, [] => []
  | n, i :: r => if itemReqs i ≤ n then i :: withinBound (n - itemReqs i) r else []

/-- The items that the fetcher has requested and that have not arrived (R170, R185): those of the predicted path first, while it is
not full, then those of the spare shelf. -/
def requested (s : State) (host : Bool) : List (Bool × FetchItem) :=
  let main := if fetchFull s then [] else fromHost s host ((wanted s false).filter (atticRoom s false))
  let spare := fromHost s host ((wanted s true).filter (atticRoom s true))
  let n := if host then min hostReqBound ownReqBound else (withinBound (reqBound .pattern) (main ++ spare)).length
  (main.map (fun i => (false, i)) ++ spare.map fun i => (true, i)).take n

/-- The pattern-class reads in flight, in requests of 64 bytes (R170). -/
def patternInFlight (s : State) : Nat := ((requested s false).map fun x => itemReqs x.2).foldl (· + ·) 0

/-- The initial fill is complete (R182): the main shelves and the header queue take no more of the predicted path, and the spare shelf
has what the first words call for. -/
def filled (s : State) : Bool := (requested s false).isEmpty && (requested s true).isEmpty

end Sys2Proof.Machine
end

