-- ==== Sys2Proof/Machine/Cellar.lean ====
section
/-! DEFINITION. The commit unit and the cellar (09, 10): release (R244, R251), counters (R254, R255, R257), fail records and
logging modes (R258, R259), the front and the region (R260 to R264), site retirement (R265), stop-on-fail (R266, R267) and
`CL_CONFIG` (R269). -/

namespace Sys2Proof.Machine

open Sys2Proof

/-! ### Counters -/

/-- An increment brings a counter to its maximum, or would carry it past (R255). -/
def saturates (max old inc : Nat) : Bool := inc != 0 && decide (max ≤ old + inc)

/-- The first saturation in a run (R255): event 0x0908, pin, site or device. -/
def saySat (wide : Bool) (alt v : Nat) (s : State) : State :=
  issueOnce 0x0908 [iAlt alt v] { s with cl := { s.cl with
    wideSat := s.cl.wideSat || wide, pinSat := s.cl.pinSat || !wide, fresh := freshen s (if wide then 0x100 else 0x80) s.cl.fresh } }

/-- A pin counts (R255). -/
def countPin (s : State) (x : Pin × Nat) : State :=
  let old := s.cl.pins[x.1]
  let s1 : State := { s with cl := { s.cl with pins := vset s.cl.pins x.1 (min 0xFFFFFFFF (old + x.2)) } }
  if saturates 0xFFFFFFFF old x.2 then saySat false 0 x.1.val s1 else s1

/-- A site counts a failing vector (R255). -/
def countSite (s : State) (i : Fin 64) : State :=
  let old := s.cl.sites[i]
  let s1 : State := { s with cl := { s.cl with sites := vset s.cl.sites i (satSucc 0xFFFFFFFFFFFFFFFF old) } }
  if saturates 0xFFFFFFFFFFFFFFFF old 1 then saySat true 1 i.val s1 else s1

/-- The device counts a failing vector (R255). -/
def countDev (s : State) : State :=
  let old := s.cl.dev
  let s1 : State := { s with cl := { s.cl with dev := satSucc 0xFFFFFFFFFFFFFFFF old } }
  if saturates 0xFFFFFFFFFFFFFFFF old 1 then saySat true 2 0 s1 else s1

/-- The counters of a released vector (R255). -/
def countVector (l : List (Pin × Nat)) (s : State) : State :=
  if l.isEmpty then s
  else countDev (((List.finRange 64).filter fun i => siteFails s l i.val).foldl countSite (l.foldl countPin s))

/-- The counters as they stood before the releases of the present cycle (R257). -/
def keepCounts (s : State) : State :=
  if s.cl.relAt = s.tb.now then s
  else { s with cl := { s.cl with
    relAt := s.tb.now, prePins := s.cl.pins, preSites := s.cl.sites, preDev := s.cl.dev, preVec := s.cl.relVec } }

/-- A write of `CL_CNT_SNAP` (R257): every vector released before this cycle, none released in it. -/
def cntSnap (s : State) : State :=
  let s1 := keepCounts s
  let vec := match s1.cl.preVec with
    | some i => 2 ^ 63 + i % 2 ^ 48
    | none => 0
  { s1 with cl := { s1.cl with
    snapAt := s.tb.now, snapPins := s1.cl.prePins, snapSites := s1.cl.preSites, snapDev := s1.cl.preDev, snapVec := BitVec.ofNat 64 vec } }

/-- `CL_CNT_SNAP`. -/
def execClCntSnap (s : State) : Host.Outcome State Fault Refusal := .next (applyReg 0x0484 4 0 (fun _ => true) cntSnap s)

/-! ### Records (R258) -/

/-- The failing gloves of a vector, ascending. -/
def failGloves (l : List (Pin × Nat)) : List Glove := (List.finRange 64).filter fun g => l.any fun x => gloveOf x.1 == g

/-- Pin `8g + i`. -/
def glovePin (g : Glove) (i : Fin 8) : Pin := ⟨8 * g.val + i.val, by have := g.isLt; have := i.isLt; omega⟩

/-- A pin was compared (Table 10.2). -/
def wasCompared (s : State) (v : VRec) (p : Pin) : Bool :=
  if burstOn v p then v.res.any (fun x => x.1 == p) || pendingCmp s v p else (resWord s v p).getLsbD 4

/-- One pin's part of a glove word (Table 10.2); a pin that R254 excludes reads 0. -/
def pinBits (s : State) (ret : W64) (v : VRec) (p : Pin) (i : Nat) : Nat :=
  if ¬ used s p ∨ retiredPin s ret p then 0
  else
    let w := resWord s v p
    let cmp := wasCompared s v p
    (if burstOn v p then 2 ^ (16 + i) else if cmp then w.toNat % 4 * 2 ^ (32 + 2 * i) else 0)
      + b2n cmp * 2 ^ (8 + i) + b2n (failAmount s v p != 0) * 2 ^ i

/-- The glove word of a failing glove. -/
def gloveWord (s : State) (ret : W64) (v : VRec) (g : Glove) : Nat :=
  (List.finRange 8).foldl (fun a i => a + pinBits s ret v (glovePin g i) i.val) 0

/-- The 16-byte UI block of a failing glove. -/
def uiBlock (s : State) (ret : W64) (v : VRec) (g : Glove) : List Byte :=
  (List.finRange 8).flatMap fun i =>
    let p := glovePin g i
    leBytes 2 (if burstOn v p ∧ used s p ∧ ¬ retiredPin s ret p then (resWord s v p).toNat else 0)

/-- A byte string padded to a whole number of granules. -/
def toGranule (l : List Byte) : List Byte := padTo (ceilTo 64 l.length) l

/-- A pin used a burst symbol in a vector, whether it is used or not (Table 10.1). -/
def symIsBurst (s : State) (v : VRec) (p : Pin) : Bool := burstOn v p || symBurst s p v.syms[p]

/-- A pin of a failing glove used a burst symbol (Table 10.1). -/
def burstRecord (s : State) (v : VRec) (gl : List Glove) : Bool :=
  gl.any fun g => (List.finRange 8).any fun i => symIsBurst s v (glovePin g i)

/-- The record of a failing vector (R258, Tables 10.1, 10.2). -/
def recordBytes (s : State) (v : VRec) (l : List (Pin × Nat)) (rseq : Nat) : List Byte :=
  let ret := s.cl.retired
  let gl := failGloves l
  let burst := burstRecord s v gl
  let words := gl.map fun g => leBytes 8 (gloveWord s ret v g)
  let head := padTo 32 (words.take 4).flatten
  let more := toGranule (words.drop 4).flatten
  let uis := if burst then toGranule (gl.flatMap fun g => uiBlock s ret v g) else []
  let grans := 1 + (more.length + uis.length) / 64
  let w0 := (1 + b2n burst) * 2 ^ 60 + grans * 2 ^ 55 + v.tset % 64 * 2 ^ 48 + v.idx % 2 ^ 48
  leBytes 8 w0 ++ leBytes 8 v.start ++ leBytes 8 (maskOf 64 fun g => gl.contains g) ++ leBytes 8 rseq ++ head ++ more ++ uis

/-- The logging mode builds a record for a failing vector (R259). -/
def buildsRecord (s : State) (l : List (Pin × Nat)) : Bool :=
  match s.cl.mode.toNat with
  | 0 => true
  | 1 => decide (s.cl.built < s.cl.nLimit)
  | 2 => l.any fun x => decide (s.cl.appear[x.1] < s.cl.nLimit)
  | _ => false

/-- The build reaches the first-N limit (R259). -/
def reachesLimit (s : State) : Bool :=
  match s.cl.mode.toNat with
  | 1 => decide (s.cl.built = s.cl.nLimit)
  | 2 => !s.cl.nDone && (usedPins s).all fun p => decide (s.cl.nLimit ≤ s.cl.appear[p])
  | _ => false

/-- Granules the front holds (R260). -/
def frontGranules (c : CL) : Nat := c.front.foldl (fun n r => n + r.1.length / 64) 0 - c.headOut

/-- A built record enters the front (R261), or is lost there, or not written once logging has stopped (R262). -/
def storeRecord (bytes : List Byte) (rseq idx : Nat) (s : State) : State :=
  if s.cl.halted then { s with cl := { s.cl with lostFull := satSucc 0xFFFFFFFF s.cl.lostFull } }
  else if frontGranules s.cl + bytes.length / 64 ≤ 65536 then
    { s with cl := { s.cl with front := s.cl.front ++ [(bytes, rseq, idx)] } }
  else if s.cl.frontAct then contain 0x0A (issue 0x0905 [i8 rseq, iv idx] s)
  else issueOnce 0x0904 [i8 rseq, iv idx]
    { s with cl := { s.cl with lostFront := satSucc 0xFFFFFFFF s.cl.lostFront, lost := true, fresh := freshen s 8 s.cl.fresh } }

/-- The record of a failing vector, if the mode selects it (R258, R259). -/
def logVector (v : VRec) (l : List (Pin × Nat)) (s : State) : State :=
  if l.isEmpty ∨ ¬ buildsRecord s l then s
  else
    let rseq := s.cl.built
    let bytes := recordBytes s v l rseq
    let hit := fun (p : Pin) (n : Nat) => if l.any (fun x => x.1 == p) then satSucc 0xFFFF n else n
    let s1 : State := { s with cl := { s.cl with
      built := rseq + 1, appear := if s.cl.mode = 2 then vmapIdx hit s.cl.appear else s.cl.appear } }
    let s2 := if reachesLimit s1 then
        issue 0x0909 [i8 rseq, iv v.idx] { s1 with cl := { s1.cl with nDone := true } }
      else s1
    storeRecord bytes rseq v.idx s2

/-! ### Stop-on-fail -/

/-- The stop condition holds (Table 10.4). -/
def sofTrue (s : State) : Bool :=
  match s.cl.sof.toNat with
  | 1 => s.cl.dev != 0
  | 2 => decide (s.cl.sofThresh ≤ s.cl.dev)
  | 3 => (List.finRange 64).all fun i => !siteValid s i.val || s.cl.sites[i] != 0 || s.cl.retired.getLsbD i.val
  | _ => false

/-- The stop itself (R266, R267, R355): as a `HALT`; a formed member asks its leader. -/
def sofStop (s : State) : State :=
  if formed s then (if s.en.leader then haltEnsemble 0 s.en.member s else haltReq 2 s)
  else if s.sq.pendAbort then s
  else { s with sq := { s.sq with pendSof := true } }

/-- Stop-on-fail becomes true at the release of a vector (R266): once the vector context has stopped it sets `SOF_HIT` and
`CL_SOFVEC` and changes nothing else (R267). -/
def checkSof (idx : Nat) (s : State) : State :=
  if sofTrue s ∧ ¬ s.cl.sofVec.getLsbD 63 then
    let s1 : State := { s with cl := { s.cl with
      sofHit := true, fresh := freshen s 0x40 s.cl.fresh, sofVec := BitVec.ofNat 64 (2 ^ 63 + idx % 2 ^ 48) } }
    if s.sq.stopped then s1 else sofStop (issue 0x0906 [i1 s.cl.sof.toNat, iv idx] s1)
  else s

/-! ### Release -/

/-- Sites become retired (R265). -/
def retire (m : W64) (s : State) : State :=
  { s with cl := { s.cl with retired := s.cl.retired ||| (m &&& validSites s) } }

/-- A vector is released (R244, R254 to R259, R265, R266). -/
def releaseVector (v : VRec) (s0 : State) : State :=
  let l := vecFails s0 s0.cl.retired v
  let s1 := logVector v l (countVector l (keepCounts s0))
  let s2 := retire v.reqs.sites (if anyPending s0 v then takeFree s1 else s1)
  checkSof v.idx { s2 with cl := { s2.cl with relVec := some v.idx } }

/-- The requests of a wait repetition commit (R244). -/
def commitWait (v : VRec) (s : State) : State :=
  let clear := fun (u : Tiu) => if u.provN = some v.n then { u with provN := none } else u
  tiuMergeAll (retire v.reqs.sites { s with ti := { s.ti with units := vmap clear s.ti.units } })

/-- A released record is still the subject of a condition, or may become one (R210, R239). -/
def stillSubject (s : State) (v : VRec) : Bool :=
  s.sq.lastIdx.any (fun x => x.n == v.n)
    || (s.sp.open_ ++ s.sp.toOpen).any fun c => c.subj.n == v.n || c.reps.any fun r => r.n == v.n

/-- A record leaves the cloakroom; it is kept aside while a condition may still ask for its results. -/
def letGo (v : VRec) (s : State) : State :=
  let kept := (s.sp.kept ++ [v]).filter fun x => stillSubject s x
  { s with sp := { s.sp with inflight := s.sp.inflight.erase v, kept := kept } }

/-- A record that results are to be released from: not idle and not on a discarded path. -/
def holdsResults (v : VRec) : Bool := !v.idle && !v.dead

/-- The instant at which a vector's results are available (R229, R244). -/
def availAt (s : State) (v : VRec) : Nat := ceilTo 8192 (v.start + maxRlat s (usedPins s))

/-- Vectors that may still be released in the present cycle (R244). -/
def releaseRoom (s : State) : Nat := if s.sp.relCyc = ext s / 8192 then 16 - s.sp.relN else 16

/-- A vector released in the present cycle (R244). -/
def countRelease (s : State) : State :=
  { s with sp := { s.sp with relCyc := ext s / 8192, relN := 17 - releaseRoom s } }

/-- Time moves to the next fabric cycle of the epoch where the present one has had its 16 releases (R244). -/
def nextRelease (s : State) : State := if releaseRoom s = 0 then toEpoch ((ext s / 8192 + 1) * 8192) s else s

/-- The releases of one cycle, `n` vectors at most and in vector order (R244). -/
def releaseSome : Nat → Nat → State → State
  | 0, _, s => s
  | fuel + 1, n, s =>
    match s.sp.inflight.find? holdsResults with
    | none => s
    | some v =>
      if ¬ v.conds.isEmpty ∨ ext s < availAt s v then s
      else if v.isWait then releaseSome fuel n (commitWait v (letGo v s))
      else if n = 0 then s
      else releaseSome fuel (n - 1) (releaseVector v (letGo v (countRelease s)))

/-- What the cloakroom read of a vector finds (R251): a corrected error is counted, an uncorrectable one contains the device. -/
def cloakEcc (ecc : Ecc) (v : VRec) (s : State) : State :=
  match ecc with
  | .ok => s
  | .corrected => issueOnce 0x0807 [iv v.idx] { s with sp := { s.sp with cloakCe := satSucc 0xF s.sp.cloakCe } }
  | .uncorrectable => contain 0x09 (issue 0x0806 [iv v.idx] { s with sp := { s.sp with
      cloakUe := true, fresh := freshen s 8 s.sp.fresh } })

/-- The errors that cloakroom reads find, each in the stored results of the vector of an emission number (R251): also of a vector that is
still provisional, or that waits behind another. -/
def cloakFinds (finds : List (Nat × Ecc)) (s : State) : State :=
  finds.foldl (fun t x => match t.sp.inflight.find? fun v => holdsResults v && v.n == x.1 with
    | some v => cloakEcc x.2 v t
    | none => t) s

/-- `COMMIT_RELEASE`: the releases of one fabric cycle, the first in which the oldest vector can be released, after the cloakroom errors
that its reads find (R251). -/
def execCommitRelease (finds : List (Nat × Ecc)) (s : State) : Host.Outcome State Fault Refusal :=
  .next (match s.sp.inflight.find? holdsResults with
    | none => s
    | some v =>
      if ¬ v.conds.isEmpty then cloakFinds finds s
      else
        let s1 := cloakFinds finds (nextRelease (toEpoch (availAt s v) s))
        releaseSome s1.sp.inflight.length (releaseRoom s1) s1)

/-! ### The region (R260 to R264) -/

/-- Base and size in granules of the cellar region. -/
def cellarRegion (s : State) : Option (Nat × Nat) := (regionByType s 3).map fun x => (x.2.base, x.2.size * 16384)

/-- Logging stops for the rest of the run (R262): the records in the front are counted and not written. -/
def haltLog (s : State) : State :=
  { s with cl := { s.cl with
      halted := true, front := [], headOut := 0, readNeed := false
      lostFull := min 0xFFFFFFFF (s.cl.lostFull + s.cl.front.length) } }

/-- One granule of the front's first record goes to the region in a cellar slot (R24); `CL_PROD` advances with the last (R260, R263).
-/
def writeGranule (base g : Nat) (bytes : List Byte) (s0 : State) : State :=
  let s := inSlot .cellar 64 s0
  let k := s.cl.prod + s.cl.headOut
  let s1 := dramWrite (base + k % g * 64) (slice bytes (64 * s.cl.headOut) 64) s
  if s.cl.headOut + 1 < bytes.length / 64 then { s1 with cl := { s1.cl with headOut := s.cl.headOut + 1 } }
  else { s1 with cl := { s1.cl with
    headOut := 0, front := s.cl.front.tail, prod := s.cl.prod + bytes.length / 64 } }

/-- `CELLAR_GRANULE_WRITE` (R260, R262): in stop mode a record that would not fit ends the logging; in wrap mode it waits for
the read-back of the oldest record. -/
def granule (s : State) : State :=
  match s.cl.front, cellarRegion s with
  | (bytes, rseq, idx) :: _, some (base, g) =>
    let need := s.cl.prod + bytes.length / 64
    if s.cl.headOut ≠ 0 then writeGranule base g bytes s
    else if s.cl.fullAct then
      (if g < need - s.cl.oldest then { s with cl := { s.cl with readNeed := true } } else writeGranule base g bytes s)
    else if g < need then haltLog (issue 0x0902 [i8 rseq, iv idx] { s with cl := { s.cl with full := true } })
    else writeGranule base g bytes s
  | _, _ => s

/-- `CELLAR_GRANULE_WRITE`. -/
def execCellarGranuleWrite (s : State) : Host.Outcome State Fault Refusal := .next (granule s)

/-- The read-back of the oldest record's header, in a cellar slot (R262, Table 7.4): `CL_OLDEST` passes it, or logging stops. -/
def readback (ecc : Ecc) (base g : Nat) (s0 : State) : State :=
  let a := base + s0.cl.oldest % g * 64
  let s := noteEcc ecc a (inSlot .cellar 64 s0)
  if ecc = .uncorrectable then haltLog (issue 0x0907 [i8 a] { s with cl := { s.cl with
      rbErr := true, fresh := freshen s 0x20 s.cl.fresh } })
  else
    let n := fld (leNat (dramRead s a 8)) 59 55
    let s1 : State := { s with cl := { s.cl with oldest := s.cl.oldest + n, readNeed := false } }
    if s.cl.oldest = 0 then issue 0x0903 [i8 s.cl.prod] { s1 with cl := { s1.cl with
      wrapped := true, fresh := freshen s1 4 s1.cl.fresh } } else s1

/-- `CELLAR_READBACK_COMPLETE`. -/
def execCellarReadbackComplete (ecc : Ecc) (s : State) : Host.Outcome State Fault Refusal :=
  .next (match cellarRegion s with
    | some (base, g) => if s.cl.readNeed then readback ecc base g s else s
    | none => s)

/-! ### Command -/

/-- `CL_CONFIG` completes (R269): its settings take effect. -/
def clSettings (e : Exec) (s : State) : State :=
  { s with cl := { s.cl with
    mode := BitVec.ofNat 2 (payF e 0 1), fullAct := payF e 1 1 == 1, frontAct := payF e 2 1 == 1, sof := BitVec.ofNat 2 (payF e 3 1)
    nLimit := payF e 4 4, sofThresh := payF e 8 8 } }

/-- `CL_CONFIG` (R269, Table 10.7). -/
def clConfigCmd (e : Exec) (s : State) : State :=
  let mode := payF e 0 1
  let sof := payF e 3 1
  let n := payF e 4 4
  let th := payF e 8 8
  let nOk := if mode = 1 then decide (1 ≤ n) else if mode = 2 then decide (1 ≤ n ∧ n ≤ 65536 - 1) else decide (n = 0)
  let thOk := if sof = 2 then decide (1 ≤ th) else decide (th = 0)
  checked [
    (decide (3 < mode ∨ 1 < payF e 1 1 ∨ 1 < payF e 2 1 ∨ 3 < sof) || !payZero e 16 32, eInval), (!nOk, eRange)
    , (!thOk, eRange)] e (answer e eOk []) s

/-- `CL_CONFIG`. -/
def execClConfig (tag : W16) (s : State) : Host.Outcome State Fault Refusal := .next (runCmd 0x0901 tag clConfigCmd s)

end Sys2Proof.Machine
end

