-- ==== Sys2Proof/Machine/Service.lean ====
section
/-! DEFINITION. The service context (08): procedures and service words (R220, R221), service faults (R222), overlay loads (R223,
R224), the store scrub (R225), and the SQ commands (R226 to R231). -/

namespace Sys2Proof.Machine

open Sys2Proof

/-! ### Procedures -/

/-- The executing procedure changed. -/
def updProc (f : Proc → Proc) (s : State) : State := { s with sq := { s.sq with proc := s.sq.proc.map f } }

/-- A service fault (R222): the procedure is abandoned, the fault recorded, event 0x0702; the device is contained where
`SQ_CONFIG` says so. -/
def svcFaultAt (cause a : Nat) (s : State) : State :=
  let entry := (s.sq.proc.map fun p => p.entry).getD 0
  let s1 : State := { s with sq := { s.sq with
    proc := none, svcFault := true, fresh := freshen s 0x100 s.sq.fresh, underLoad := none } }
  let s2 := issue 0x0702 [i1 cause, i8 a, i8 entry] (recordFault 1 cause a s1)
  if s.sq.svcContain then contain 0x05 s2 else s2

/-- The service context takes the next post (R220). -/
def execServiceProcedureStart (s : State) : Host.Outcome State Fault Refusal :=
  .next (match s.sq.proc, s.sq.svcQueue with
    | none, e :: r => { s with sq := { s.sq with proc := some { entry := e, pc := e }, svcQueue := r } }
    | _, _ => s)

/-- A service word executes (R198, R217, R220) in a decode slot that the vector context leaves free: nothing where the word at the
procedure's program counter is another one, or where a blocking word still holds the context; a word that faults has no effect. -/
def svcRun (op : Nat) (ecc : Ecc) (f : Nat → Nat → Proc → State → State) (s0 : State) : State :=
  match s0.sq.proc with
  | none => s0
  | some p =>
    if p.block.isSome then s0
    else
      let s := freeSlot s0
      let s1 := storeEcc ecc p.pc 0 s
      match decodeCause true s1 p.pc with
      | some c => svcFaultAt c p.pc s1
      | none =>
        if opOf (wordAt s p.pc) = op then
          f p.pc (wordAt s p.pc) { p with pc := p.pc + 1 } (updProc (fun q => { q with pc := q.pc + 1 }) s1)
        else s0

/-- A blocking word is done (R220); after an `ABORT` it was the last one (R214). -/
def unblock (s : State) : State :=
  { s with sq := { s.sq with proc := match s.sq.proc with
      | some p => if p.last then none else some { p with block := none }
      | none => none } }

/-- A word blocks the service context. -/
def blockOn (b : Block) (s : State) : State := updProc (fun p => { p with block := some b }) s

/-- `CALL` (R220): a ninth push faults. -/
def callWord (a w : Nat) (p : Proc) (s : State) : State :=
  if 8 ≤ p.stack.length then svcFaultAt 0xA a s
  else updProc (fun q => { q with stack := p.pc :: q.stack, pc := fld w 17 0 }) s

/-- `CALL`. -/
def execCall (ecc : Ecc) (s : State) : Host.Outcome State Fault Refusal := .next (svcRun 0x20 ecc callWord s)

/-- `RET` (R220): with an empty stack the procedure ends. -/
def retWord (p : Proc) (s : State) : State :=
  match p.stack with
  | [] => { s with sq := { s.sq with proc := none } }
  | r :: rest => updProc (fun q => { q with pc := r, stack := rest }) s

/-- `RET`. -/
def execRet (ecc : Ecc) (s : State) : Host.Outcome State Fault Refusal := .next (svcRun 0x21 ecc (fun _ _ => retWord) s)

/-- `SJMP` (R220). -/
def execSjmp (ecc : Ecc) (s : State) : Host.Outcome State Fault Refusal :=
  .next (svcRun 0x22 ecc (fun _ w _ => updProc fun q => { q with pc := fld w 17 0 }) s)

/-! ### Levels and functions -/

/-- The six DAC positions that a `DACS` mask selects (Table 8.5). -/
def dacSel (m : Nat) (i : DacIx) : Bool := m.testBit i.val

/-- `LVL` (Table 8.5, R107, R108, R110): staged codes of the selected DACs of a group. -/
def lvlWord (w : Nat) (s : State) : State :=
  let pins := groupPins s (fld w 121 116)
  let code : W16 := BitVec.ofNat 16 (fld w 15 0)
  let put := fun (i : DacIx) (d : Dac) =>
    if dacSel (fld w 115 110) i then { d with staged := code, svcAt := some (cycleStart s) } else d
  if pins.isEmpty then s
  else stageWrite (fun p => pins.contains p) (fun _ x => { x with dacs := vmapIdx put x.dacs }) s

/-- `LVL`. -/
def execLvl (ecc : Ecc) (s : State) : Host.Outcome State Fault Refusal := .next (svcRun 0x24 ecc (fun _ w _ => lvlWord w) s)

/-- `PFN` (Table 8.5): three control fields staged for a group. -/
def pfnWord (w : Nat) (s : State) : State :=
  let pins := groupPins s (fld w 121 116)
  let put := fun (c : FeCtl) => { c with
    func := BitVec.ofNat 3 (fld w 2 0), mode := BitVec.ofNat 2 (fld w 12 11), range := BitVec.ofNat 3 (fld w 15 13) }
  if pins.isEmpty then s
  else stageWrite (fun p => pins.contains p) (fun _ x => { x with stg := put x.stg }) s

/-- `PFN`. -/
def execPfn (ecc : Ecc) (s : State) : Host.Outcome State Fault Refusal := .next (svcRun 0x25 ecc (fun _ w _ => pfnWord w) s)

/-! ### Measurements and result blocks -/

/-- A request joins a glove's queue; in one fabric cycle the service context's come first (R19). -/
def joinQueue (r : MeasReq) (q : List MeasReq) : List MeasReq :=
  if r.src.isSome then q ++ [r]
  else q.takeWhile (fun x => x.src.isNone || x.arrived != r.arrived) ++ [r]
    ++ q.dropWhile (fun x => x.src.isNone || x.arrived != r.arrived)

/-- Measurement requests of some pins, ascending, at their gloves. -/
def askMeas (src : Option W16) (pins : List Pin) (settle log2n : Nat) (s : State) : State :=
  let one := fun (t : State) (p : Pin) =>
    let r : MeasReq := { src := src, pin := p, settle := settle, log2n := log2n, arrived := s.tb.now }
    { t with pf := { t.pf with adcs := vupd t.pf.adcs (gloveOf p) fun x => { x with queue := joinQueue r x.queue } } }
  pins.foldl one s

/-- `PMEAS` (Table 8.5, R221): every pin of the group is asked for at its glove. -/
def pmeasWord (a w : Nat) (s : State) : State :=
  let pins := groupPins s (fld w 121 116)
  let dest := fld w 40 0
  if pins.isEmpty then s
  else if ¬ bytesIn s [5] dest (8 * pins.length) then svcFaultAt 0xB a s
  else blockOn (.pmeas dest pins pins s.tb.now) (askMeas none pins (fld w 115 100) (fld w 99 96) s)

/-- `PMEAS`. -/
def execPmeas (ecc : Ecc) (s : State) : Host.Outcome State Fault Refusal :=
  .next (svcRun 0x26 ecc (fun a w _ => pmeasWord a w) s)

/-- `TIURD` (Table 8.5, R313): the result blocks of the selected TIUs, as they stand when the word acts. -/
def tiurdWord (a w : Nat) (s : State) : State :=
  let bytes := tiuBlocks s (fld w 63 0)
  let dest := fld w 104 64
  if bytes.isEmpty then s
  else if ¬ bytesIn s [5] dest bytes.length then svcFaultAt 0xB a s
  else blockOn (.tiurd dest bytes) s

/-- `TIURD`. -/
def execTiurd (ecc : Ecc) (s : State) : Host.Outcome State Fault Refusal :=
  .next (svcRun 0x27 ecc (fun a w _ => tiurdWord a w) s)

/-- `TIURD_COMPLETE`: the blocks stand in device DRAM, written in maintenance slots (R221). -/
def execTiurdComplete (s : State) : Host.Outcome State Fault Refusal :=
  .next (match s.sq.proc.bind fun p => p.block with
    | some (.tiurd dest bytes) => unblock (dramWrite dest bytes (inSlot .maint bytes.length s))
    | _ => s)

/-! ### Overlay loads -/

/-- A range of word addresses overlaps a word and the 1024 words after it (R223). -/
def nearOverlap (dest count a : Nat) : Bool := decide (dest ≤ a + 1024 ∧ a < dest + count)

/-- The words whose neighbourhood the protected set holds (R223): the word the vector context executes (a `HALT` that waits stands before the
program counter), its next word, the first word of the path not predicted of each unresolved condition, and the `LOADW` itself. -/
def protectedWords (s : State) (a : Nat) : List Nat :=
  let here := if s.sq.stopped then [] else [s.sq.pc, (s.sq.cur.map fun c => c.word).getD s.sq.pc]
  let halt := if s.sq.haltWait.isSome then [s.sq.pc - 1] else []
  a :: halt ++ here ++ (s.sp.open_ ++ s.sp.toOpen).map fun c => c.check.pc

/-- The words that the vector context has decoded and not yet executed (R217, R223). -/
def decodedWords (s : State) : List Nat :=
  if s.sq.stopped ∨ s.sq.haltWait.isSome then [] else pathWords s (decodeAccount s).sq.decoded s.sq.pc s.sq.loops

/-- The words decoded ahead that meet a test keep what their check found at decode (R198). -/
def keepEarly (cause : Nat) (f : Nat → Bool) (s : State) : State :=
  let new := (decodedWords s).filter fun a => f a && !s.sq.early.any fun x => x.1 == a
  { s with sq := { s.sq with early := s.sq.early ++ new.map fun a => (a, cause) } }

/-- A target range overlaps the protected set (R223). -/
def protected_ (s : State) (a dest count : Nat) : Bool :=
  (protectedWords s a).any (nearOverlap dest count) || (decodedWords s).any fun x => decide (dest ≤ x ∧ x < dest + count)

/-- `LOADW` at its boundary (R221, R223, R224): a protected target faults, then a source outside its regions; else the target
is under load. -/
def loadwWord (a w : Nat) (s : State) : State :=
  let count := fld w 121 105
  let src := fld w 104 64
  let dest := fld w 17 0
  if protected_ s a dest count then svcFaultAt 0x8 a s
  else if ¬ bytesIn s [1, 5] src (16 * count) then svcFaultAt 0xB a s
  else blockOn (.loadw src dest count) { s with sq := { s.sq with underLoad := some (dest, count) } }

/-- `LOADW`. -/
def execLoadw (ecc : Ecc) (s : State) : Host.Outcome State Fault Refusal :=
  .next (svcRun 0x23 ecc (fun a w _ => loadwWord a w) s)

/-- The word of 16 bytes (R197). -/
def wordOf (l : List Byte) : BitVec 128 := BitVec.ofNat 128 (leNat (l.take 16))

/-- `n` words copied into the store from `dest` up: those of a source, or free words where the source could not be read. -/
def copyWords (get : Nat → BitVec 128) (dest n : Nat) (s : State) : State :=
  let put := fun (l : List (Nat × BitVec 128)) (i : Nat) => (dest + i, get i) :: l.filter fun x => x.1 != dest + i
  let l := (List.range n).foldl put s.sq.store
  { s with sq := { s.sq with
    store := if s.sq.storeFree.isSome then l else l.filter fun x => x.2 != 0
    poison := s.sq.poison.filter fun a => !(decide (dest ≤ a ∧ a < dest + n)) } }

/-- The copy of a `LOADW` completes (R221, R224), read in maintenance slots: fresh words, the range no longer under load, `OVERLAID`;
words decoded under load keep that fault; what an uncorrectable source brings is not stated and free. -/
def loadwDone (dr : DramFind) (src dest count : Nat) (s0 : State) : State :=
  let ecc := dr.ecc
  let s := noteReadUe ecc (src + dr.at_) 1 (inSlot .maint (16 * count) s0)
  let bytes := dramRead s src (16 * count)
  let get := fun (i : Nat) => if ecc = .uncorrectable then Config.freeStoreWord s.freeCtr (dest + i) else wordOf (bytes.drop (16 * i))
  let s1 := copyWords get dest count (if ecc = .uncorrectable then takeFree s else s)
  let s2 := keepEarly 0x9 (underLoad s1) s1
  unblock { s2 with sq := { s2.sq with underLoad := none, overlaid := true } }

/-- `LOADW_COMPLETE`. -/
def execLoadwComplete (dr : DramFind) (s : State) : Host.Outcome State Fault Refusal :=
  .next (match s.sq.proc.bind fun p => p.block with
    | some (.loadw src dest count) => loadwDone dr src dest count s
    | _ => s)

/-- A scrub of one store word (R225): a word that it poisons and that was decoded before stays as decoded (R198). -/
def execSequenceStoreScrub (addr : Nat) (ecc : Ecc) (s : State) : Host.Outcome State Fault Refusal :=
  .next (if 262144 ≤ addr then s
    else
      let t := storeEcc ecc addr 1 s
      if ecc = .uncorrectable ∧ ¬ s.sq.poison.contains addr then keepEarly 0 (fun a => a == addr) t else t)

/-! ### Commands -/

/-- The size of a sequence image by its header (R226). -/
def seqSize (h : List Byte) : Nat := 64 + 16 * fieldAt h 16 4 + 32 * fieldAt h 29 1 + 64 * fieldAt h 30 1

/-- The header of a sequence image is of the right kind (Table 8.7). -/
def seqHdrOk (h : List Byte) : Bool :=
  decide (fieldAt h 0 4 = 0x4B595351 ∧ fieldAt h 4 2 = 1 ∧ fieldAt h 6 2 = 3) && allZero (slice h 31 33)
    && List.contains [0, 1, 0xFF] (fieldAt h 28 1)

/-- The header's counts are in range (R231). -/
def seqRangeOk (h : List Byte) : Bool :=
  decide (1 ≤ fieldAt h 16 4 ∧ fieldAt h 16 4 ≤ 262144 ∧ fieldAt h 20 4 < fieldAt h 16 4 ∧ fieldAt h 29 1 ≤ 64
    ∧ fieldAt h 30 1 ≤ 64)

/-- A failed load (R231): `LOADED` 0, the store contents undefined. -/
def seqFail (s : State) : State :=
  takeFree { s with sq := { s.sq with
    loaded := false, imageId := 0, imgCrc := 0, words := 0, store := [], storeFree := some s.freeCtr } }

/-- The image is written to the store and its tables (R196, R226, R231); `LOADED` and `SEQ_VER` follow when the command completes
(R227). -/
def seqInstall (img : List Byte) (s : State) : State :=
  let nw := fieldAt img 16 4
  let nc := fieldAt img 29 1
  let ng := fieldAt img 30 1
  let co := 64 + 16 * nw
  let cond := fun (i : Nat) =>
    ({ w0 := BitVec.ofNat 64 (fieldAt img (co + 32 * i) 8), w1 := BitVec.ofNat 64 (fieldAt img (co + 32 * i + 8) 8)
       w2 := BitVec.ofNat 64 (fieldAt img (co + 32 * i + 16) 8)
       w3 := BitVec.ofNat 64 (fieldAt img (co + 32 * i + 24) 8) } : CondEntry)
  let group := fun (i : Nat) => BitVec.ofNat 512 (fieldAt img (co + 32 * nc + 64 * i) 64)
  let words := (List.range nw).map fun i => (i, wordOf (img.drop (64 + 16 * i)))
  { s with sq := { s.sq with
    store := words.filter fun x => x.2 != 0, storeFree := none, poison := [], loaded := false, imageId := 0, imgCrc := 0, words := 0
    overlaid := false, entry := fieldAt img 20 4, profile := BitVec.ofNat 8 (fieldAt img 28 1)
    conds := (List.range nc).map cond, groups := (List.range ng).map group } }

/-- `SQ_LOAD` completes (R227, R231): `LOADED`, and `SEQ_VER` from the image's header. -/
def seqLoaded (h : List Byte) (s : State) : State :=
  { s with sq := { s.sq with
    loaded := true, imageId := BitVec.ofNat 64 (fieldAt h 8 8), imgCrc := BitVec.ofNat 32 (fieldAt h 24 4), words := fieldAt h 16 4 } }

/-- `SQ_LOAD` (R230, R231). -/
def sqLoadCmd (src : HostRead) (dr : DramFind) (e : Exec) (s0 : State) : State :=
  let a := payF e 0 8
  let host := payF e 8 1 == 1
  if 1 < payF e 8 1 ∨ ¬ payZero e 9 39 then answer e eInval [] s0
  else
    let s := objNote host dr a s0
    let h := objBytes s host src a 64
    let n := seqSize h
    if ¬ host ∧ ¬ rangeIn s [1, 5] a 64 then answer e eRange [] (seqFail s)
    else if objFails host src dr then answer e eMemerr [] (seqFail s)
    else if ¬ seqHdrOk h then answer e eInval [] (seqFail s)
    else if ¬ seqRangeOk h ∨ (¬ host ∧ ¬ rangeIn s [1, 5] a n) then answer e eRange [] (seqFail s)
    else if ¬ host ∧ faultIn s a n then answer e eMemerr [] (seqFail s)
    else
      let s := if host then s else inSlot .maint n s
      let img := objBytes s host src a n
      if crc32c (img.drop 64) ≠ BitVec.ofNat 32 (fieldAt h 24 4) then answer e eCrc [] (seqFail s)
      else answer e eOk [] (updExec e.entry.tag (fun x => { x with ind := h }) (seqInstall img s))

/-- `SQ_LOAD`. -/
def execSqLoad (tag : W16) (src : HostRead) (dr : DramFind) (s : State) : Host.Outcome State Fault Refusal :=
  .next (runCmd 0x0701 tag (sqLoadCmd src dr) s)

/-- `SQ_CONFIG` completes (R231): its setting takes effect. -/
def sqSettings (e : Exec) (s : State) : State := { s with sq := { s.sq with svcContain := payF e 0 1 == 1 } }

/-- `SQ_CONFIG` (R230, R231). -/
def sqConfigCmd (e : Exec) (s : State) : State := checked [(decide (1 < payF e 0 1) || !payZero e 1 47, eInval)] e (answer e eOk []) s

/-- `SQ_CONFIG`. -/
def execSqConfig (tag : W16) (s : State) : Host.Outcome State Fault Refusal := .next (runCmd 0x0702 tag sqConfigCmd s)

end Sys2Proof.Machine
end

