-- ==== Sys2Proof/Machine/FrontEnd.lean ====
section
/-! DEFINITION. The rows of the pin front end (05): level ticks (R107 to R110), glitch options (R111, R112), function changes
(R119, R124), PPMU measurement (R126), `PARK_N` (R128, R132) and the PF commands (R130, R137, R138). -/

namespace Sys2Proof.Machine

open Sys2Proof

/-- One DAC of a pin changed. -/
def updDac (p : Pin) (i : DacIx) (f : Dac → Dac) (s : State) : State :=
  updPin p (fun x => { x with dacs := vupd x.dacs i f }) s

/-! ### Level ticks -/

/-- The first multiple of a period, from an epoch on, whose tick is not scheduled yet. -/
def nextTick (per : Nat) (ticks : List Nat) : Nat → Nat → Nat
  | 0, e => e
  | n + 1, e => if ticks.contains (e + landLat) then nextTick per ticks n (e + per) else e

/-- `LEVEL_TIMER_EXPIRY` (R109, R110): during a run, an epoch cycle that is a multiple of the period schedules a tick Λ later. -/
def execLevelTimerExpiry (s : State) : Host.Outcome State Fault Refusal :=
  let per := 8192 * s.pf.timer.toNat
  .next (if per = 0 ∨ ¬ running s then s
    else
      let e := nextTick per s.pf.ticks (s.pf.ticks.length + 1) (ceilTo per (ext s))
      let s1 := toEpoch e s
      { s1 with pf := { s1.pf with ticks := s1.pf.ticks ++ [e + landLat] } })

/-- The earliest scheduled tick. -/
def firstTick : List Nat → Option Nat
  | [] => none
  | t :: r => match firstTick r with
    | some u => some (min t u)
    | none => some t

/-- `LEVEL_TICK` (R107, R109): the earliest scheduled tick acts on every pin. A tick scheduled in a run that falls due after its end
still acts, and one that waits at an epoch clear is dropped (R110 does not say; DESIGN CHOICE, log 33). -/
def execLevelTick (s : State) : Host.Outcome State Fault Refusal :=
  .next (match firstTick s.pf.ticks with
    | none => s
    | some t =>
      let s1 := toEpoch t s
      tickPins false (fun _ => true) { s1 with pf := { s1.pf with ticks := s1.pf.ticks.filter fun u => u != t } })

/-- `DEGLITCH_HOLD_END` (R111): the output follows the new code. -/
def execDeglitchHoldEnd (p : Pin) (d : DacIx) (s : State) : Host.Outcome State Fault Refusal :=
  .next (match s.pins[p].dacs[d].hold with
    | none => s
    | some t => updDac p d (fun x => { x with out := x.act, hold := none }) (toTime t s))

/-- One step of the slew limiter (R111). -/
def slewOnce (c : FeCtl) (t cyc : Nat) (d : Dac) : Dac :=
  let o := stepToward d.out d.act c.slewStep.toNat
  { d with out := o, slew := if o = d.act then none else some (t + (c.slewRate.toNat + 1) * cyc) }

/-- `SLEW_STEP` (R111, R112). -/
def execSlewStep (p : Pin) (d : DacIx) (s : State) : Host.Outcome State Fault Refusal :=
  .next (match s.pins[p].dacs[d].slew with
    | none => s
    | some t => updDac p d (slewOnce s.pins[p].ctl t (cycleTicks s)) (toTime t s))

/-- `FUNCTION_ENABLE` (R119, R120, R131). -/
def execFunctionEnable (p : Pin) (s : State) : Host.Outcome State Fault Refusal :=
  .next (match s.pins[p].enableAt with
    | none => s
    | some t => updPin p (fun x => { x with enabled := true, enableAt := none, enabledAt := t }) (toTime t s))

/-- `PPMU_RANGE_OVERLAP_END` (R124): 2 µs after the tick that changed the range. -/
def execPpmuRangeOverlapEnd (p : Pin) (s : State) : Host.Outcome State Fault Refusal :=
  .next (if s.pins[p].rangeFrom.isSome then
      updPin p (fun x => { x with rangeFrom := none }) (toTime s.pins[p].rangeEnd s)
    else s)

/-! ### PPMU measurement -/

/-- One glove ADC changed. -/
def updAdc (g : Glove) (f : Adc → Adc) (s : State) : State := { s with pf := { s.pf with adcs := vupd s.pf.adcs g f } }

/-- The `PMEAS` that a service request belongs to: its boundary time (R221). -/
def pmeasOf (s : State) (r : MeasReq) : Option Nat :=
  match s.sq.proc.bind fun p => p.block with
  | some (.pmeas _ _ todo t) => if t = r.arrived ∧ todo.contains r.pin then some t else none
  | _ => none

/-- The word address of the executing service word. -/
def svcWordAt (s : State) : Nat := (s.sq.proc.map fun p => p.pc - 1).getD 0

/-- The request leaves the queue and the multiplexer connects (R126). -/
def beginMeas (g : Glove) (r : MeasReq) (s : State) : State :=
  updAdc g (fun a => { queue := a.queue.tail, cur := some { req := r, muxEnd := s.tb.now + 8192000 } }) s

/-- Nothing that is scheduled can still tick a staged function onto a pin, so the wait of R221 runs out. -/
def noTickComing (s : State) (p : Pin) : Bool :=
  s.pins[p].enableAt.isNone && s.pf.ticks.isEmpty && s.pf.timer == 0 && s.sq.stopped

/-- A `PMEAS` request due to start (R221): in PPMU force, enabled within 1 ms of the word's boundary, it starts; staged for it, it
waits that long at most; else the word faults. The fault is taken when the measurement is due to start (DEDUCED, log 31). -/
def startService (g : Glove) (r : MeasReq) (t0 : Nat) (s : State) : State :=
  let x := s.pins[r.pin]
  let limit := t0 + 8192000000
  if x.ctl.func = 4 ∧ x.enabled then (if x.enabledAt ≤ limit then beginMeas g r s else svcFaultAt 0xB (svcWordAt s) s)
  else if x.ctl.func ≠ 4 ∧ x.stg.func ≠ 4 then svcFaultAt 0xB (svcWordAt s) s
  else
    let s1 := if noTickComing s r.pin then toTime limit s else s
    if limit ≤ s1.tb.now then svcFaultAt 0xB (svcWordAt s1) s1 else s

/-- A request of a `CAL_CHECK`, whose measurements the command makes itself (R446). -/
def forCheck (s : State) (r : MeasReq) : Bool :=
  r.src.any fun t => s.hi.exec.any fun e => e.entry.tag == t && e.entry.opcode == 0x1007#16

/-- `PPMU_MEAS_START`: a free ADC takes its next request (R19, R126); a request whose `PMEAS` is gone is dropped, and one of a
`CAL_CHECK` waits for that command. -/
def measStart (g : Glove) (s : State) : State :=
  match s.pf.adcs[g].cur, s.pf.adcs[g].queue with
  | none, r :: _ =>
    if forCheck s r then s
    else if r.src.isSome then beginMeas g r s
    else match pmeasOf s r with
      | some t0 => startService g r t0 s
      | none => updAdc g (fun a => { a with queue := a.queue.tail }) s
  | _, _ => s

/-- `PPMU_MEAS_START`. -/
def execPpmuMeasStart (g : Glove) (s : State) : Host.Outcome State Fault Refusal := .next (measStart g s)

/-- `PPMU_MUX_CONNECTED` (R126 step 1). -/
def execPpmuMuxConnected (g : Glove) (s : State) : Host.Outcome State Fault Refusal :=
  .next (match s.pf.adcs[g].cur with
    | some m =>
      if m.phase = .mux then updAdc g (fun a => { a with cur := some { m with phase := .settle } }) (toTime m.muxEnd s) else s
    | none => s)

/-- `PPMU_SETTLE_EXPIRY` (R126 step 2): counted from the later of the end of step 1 and the last tick that matters. -/
def execPpmuSettleExpiry (g : Glove) (s : State) : Host.Outcome State Fault Refusal :=
  .next (match s.pf.adcs[g].cur with
    | some m =>
      if m.phase = .settle then
        let t := max m.muxEnd s.pins[m.req.pin].ppmuTick + 8192000 * m.req.settle
        let s1 := toTime t s
        updAdc g (fun a => { a with cur := some { m with phase := .conv, muxEnd := s1.tb.now } }) s1
      else s
    | none => s)

/-- The mean of the conversions, halves toward +∞ (R126). -/
def measMean (sum : Int) (n : Nat) : Int := (2 * sum + n) / (2 * n)

/-- The result word (Table 5.5). -/
def measWord (s : State) (m : Meas) : W64 :=
  let qty := if s.pins[m.req.pin].ctl.mode = 0 then 1 else 2
  BitVec.ofNat 64 (m.n * 2 ^ 32 + b2n m.overR * 2 ^ 31 + b2n m.clamp * 2 ^ 30 + qty * 2 ^ 28 + unsgn 18 (measMean m.sum m.n))

/-- A service result (Table 8.5): written at its place in a maintenance slot (R221); the last one releases the context. -/
def giveService (p : Pin) (w : W64) (s : State) : State :=
  match s.sq.proc.bind fun q => q.block with
  | some (.pmeas dest pins todo t) =>
    let i := (pins.takeWhile fun x => x != p).length
    let s1 := dramWrite (dest + 8 * i) (leBytes 8 w.toNat) (inSlot .maint 8 s)
    let rest := todo.filter fun x => x != p
    if rest.isEmpty then unblock s1 else blockOn (.pmeas dest pins rest t) s1
  | _ => s

/-- The words of a `PF_PPMU_MEAS` in ascending pin order. -/
def gotBytes (e : Exec) : List Byte :=
  (List.finRange 512).flatMap fun p => match e.got.find? (fun x => x.1 = p) with
    | some x => leBytes 8 x.2.toNat
    | none => []

/-- A mailbox result (R138): with the last one the words go to the host buffer and the command completes. -/
def giveMailbox (tag : W16) (p : Pin) (w : W64) (s : State) : State :=
  let s1 := updExec tag (fun e => { e with left := e.left.filter (fun x => x != p), got := e.got ++ [(p, w)] }) s
  match executing 0x0403 tag s1 with
  | some e => if e.left.isEmpty then answer e eOk [] (hostWrite (payF e 72 8) (gotBytes e) s1) else s1
  | none => s1

/-- The last conversion ends the measurement (R126 step 4). -/
def measDone (g : Glove) (m : Meas) (s : State) : State :=
  let w := measWord s m
  let s1 := updAdc g (fun a => { a with cur := none }) s
  match m.req.src with
  | some tag => giveMailbox tag m.req.pin w s1
  | none => if (pmeasOf s m.req).isSome then giveService m.req.pin w s1 else s1

/-- The pin's force stage forces (R122): PPMU force function, enabled, not parked, in a mode that forces. -/
def forces (s : State) (p : Pin) : Bool := s.pins[p].ctl.func == 4 && acts s p && s.pins[p].ctl.mode != 2

/-- The first clamp in a measurement (R123): event 0x0405 and the flag. -/
def noteClamp (m : Meas) (clamped : Bool) (s : State) : State :=
  let x := s.pins[m.req.pin]
  if clamped ∧ ¬ m.clamp then
    issue 0x0405 [i2 m.req.pin.val, i1 x.ctl.range.toNat, i1 x.ctl.mode.toNat] 
      { s with pf := { s.pf with ppmuClamp := true, fresh := freshen s 8 s.pf.fresh } }
  else s

/-- A conversion ends (R125, R126 step 3): one every 500 ns. A limit can act only on a stage that forces (R122, R123). -/
def convert (g : Glove) (code : BitVec 18) (limited : Bool) (m : Meas) (s0 : State) : State :=
  let t := toTime (m.muxEnd + 4096000 * (m.n + 1)) s0
  let clamped := limited && forces t m.req.pin
  let s := noteClamp m clamped t
  let beyond := code == 0x1FFFF#18 || code == 0x20000#18
  let m1 : Meas := { m with
    n := m.n + 1, sum := m.sum + code.toInt, overR := m.overR || beyond, clamp := m.clamp || clamped }
  if 2 ^ m.req.log2n ≤ m1.n then measDone g m1 s else updAdc g (fun a => { a with cur := some m1 }) s

/-- `PPMU_CONVERSION`: the code that the converter yields, and whether a force limit acted. -/
def execPpmuConversion (g : Glove) (code : BitVec 18) (clamped : Bool) (s : State) : Host.Outcome State Fault Refusal :=
  .next (match s.pf.adcs[g].cur with
    | some m => if m.phase = .conv then convert g code clamped m s else s
    | none => s)

/-! ### `PARK_N` -/

/-- `PARK_N` parks the module (R128, R132): during a run the device is contained. -/
def parkLand (s : State) : State :=
  let run := running s
  let s1 := issue 0x0402 [i1 (b2n run)] (parkAll 1 s)
  if run then contain 0x02 s1 else s1

/-- `PARK_N_FALL` (R128): a pulse under 2 ns is ignored, one of 10 ns or longer parks, one between may or may not. -/
def execParkNFall (pulse : ParkPulse) (s : State) : Host.Outcome State Fault Refusal :=
  .next (if s.pf.parkN then
      match pulse with
      | .glitch => s
      | .between => if Config.freeBool s.freeCtr then parkLand (takeFree s) else takeFree s
      | .held => parkLand { s with pf := { s.pf with parkN := false } }
    else s)

/-- `PARK_N_RISE` (R130, R133): the park state persists. -/
def execParkNRise (s : State) : Host.Outcome State Fault Refusal := .next { s with pf := { s.pf with parkN := true } }

/-! ### Commands -/

/-- The `VIO_CODE` of a bank in a `PF_CONFIG` payload. -/
def payVio (e : Exec) (b : Bank) : W16 := BitVec.ofNat 16 (payF e (4 + 2 * b.val) 2)

/-- The clamps that a new `VIO_CODE` makes on a pin (R106). -/
def vioClamps (vio : W16) (p : PinSt) : List (DacIx × W16 × W16) :=
  (List.finRange 6).filterMap fun i =>
    let d := p.dacs[i]
    let c := clampCode vio d.req i
    if vio ≠ 0 ∧ c ≠ d.req then some (i, d.req, c) else none

/-- `PF_CONFIG` takes effect (R106, R109): the pins of each bank whose code changes form their active codes again. -/
def pfApply (e : Exec) (s : State) : State :=
  let vio := Vector.ofFn fun b => payVio e b
  let changed (p : Pin) : Bool := vio[bankOf p] != s.pf.vio[bankOf p]
  let hit := (List.finRange 512).find? fun p => changed p && !(vioClamps vio[bankOf p] s.pins[p]).isEmpty
  let s1 : State := { s with
    pf := { s.pf with timer := BitVec.ofNat 32 (payF e 0 4), vio := vio }
    pins := vmapIdx (fun p x =>
      if changed p then reclampPin (pinParked s p) vio[bankOf p] s.tb.now (cycleTicks s) x else x) s.pins }
  match hit with
  | some p => reportClamp p (vioClamps vio[bankOf p] s.pins[p]) s1
  | none => s1

/-- `PF_CONFIG` (R137, Table 5.9). -/
def pfConfigCmd (e : Exec) (s : State) : State :=
  let vioBad := (List.finRange 8).any fun b =>
    let v := (payVio e b).toNat
    v != 0 && !(decide (0x8000 ≤ v ∧ v ≤ 0xE8BA))
  checked [(decide (1 ≤ payF e 0 4 ∧ payF e 0 4 ≤ 7) || vioBad || !payZero e 20 28, eInval)] e
    (fun t => answer e eOk [] (pfApply e t)) s

/-- `PF_CONFIG`. -/
def execPfConfig (tag : W16) (s : State) : Host.Outcome State Fault Refusal := .next (runCmd 0x0401 tag pfConfigCmd s)

/-- The module or some bank in range is parked: a release would act (R21, R130). -/
def anyParked (s : State) : Bool :=
  s.pf.parked || (List.finRange 8).any fun b => s.pf.bankPark[b] && bankInRange s.pf.bankMv[b]

/-- `PF_UNPARK` in its release cycle (R130, R131, R416): refused where `PARK_N` is low, the device contained, the power state
below P1, or the park path has acted since the start. With no park state held it completes `E_OK`, releases nothing and
issues no event 0x0403 (DESIGN CHOICE, log 33). -/
def pfUnparkCmd (e : Exec) (s : State) : State :=
  checked [
    (!s.pf.parkN || s.mg.contained || decide (1 < s.mg.pstate) || e.parkActs != s.pf.parkActs, eState)] e
    (fun t => answer e eOk [] (if anyParked t then releaseAll t else t)) s

/-- `PF_UNPARK`. -/
def execPfUnpark (tag : W16) (s : State) : Host.Outcome State Fault Refusal := .next (runCmd 0x0402 tag pfUnparkCmd s)

/-- The pins of a `PF_PPMU_MEAS` mask, ascending. -/
def measPins (e : Exec) : List Pin :=
  let m := BitVec.ofNat 512 (payF e 0 64)
  (List.finRange 512).filter fun p => m.getLsbD p.val

/-- `PF_PPMU_MEAS` starts (R137, R138): every pin is asked for at its glove, service requests of the same cycle first. A payload
at fault is answered before a pin's function (the rule gives no order; DESIGN CHOICE, log 33). -/
def pfPpmuMeasCmd (e : Exec) (s : State) : State :=
  let pins := measPins e
  if ¬ e.left.isEmpty then s
  else checked [
    (pins.isEmpty || decide (12 < payF e 66 1) || !payZero e 67 5 || payF e 72 8 % 8 != 0, eInval)
    , (pins.any fun p => s.pins[p].ctl.func != 4, eState)] e
    (fun t => askMeas (some e.entry.tag) pins (payF e 64 2) (payF e 66 1)
      (updExec e.entry.tag (fun x => { x with left := pins }) t)) s

/-- `PF_PPMU_MEAS`. -/
def execPfPpmuMeas (tag : W16) (s : State) : Host.Outcome State Fault Refusal := .next (runCmd 0x0403 tag pfPpmuMeasCmd s)

end Sys2Proof.Machine
end

