-- ==== Sys2Proof/Machine/PinTable.lean ====
section
/-! DEFINITION. The rows of the pin table (06): bind and refresh (R145, R151 to R158), the commit of the store room (R147, R150,
R152), and the scrub (R149). -/

namespace Sys2Proof.Machine

open Sys2Proof

/-! ### Copies between sparse memories -/

/-- The entries of `m` in a range of `n` bytes from `a`, moved to start at `o`. -/
def memShift (m : Mem) (a n o : Nat) : Mem :=
  (m.filter fun c => decide (a ≤ c.1 ∧ c.1 < a + n)).map fun c => (c.1 - a + o, c.2)

/-- `dst` with the `n` bytes from `o` replaced by those of `src` from `a`. -/
def memSplice (dst : Mem) (o n : Nat) (src : Mem) (a : Nat) : Mem :=
  (dst.filter fun c => decide (c.1 < o)) ++ memShift src a n o ++ dst.filter fun c => decide (o + n ≤ c.1)

/-- The bytes a PCIe read brought, in the canonical form. -/
def hostMemOf (h : HostRead) : Mem := h.cells.foldr (fun c m => memPut 0 m c.1 c.2) []

/-! ### The selected part -/

/-- Offset and length in the table image of the part that a scope selects (R151, Table 6.7). -/
def ptRange (scope n : Nat) : Nat × Nat :=
  if scope = 0 then (0x4000 + n * 0x1000, 0x1000)
  else if scope = 1 then (0x4000 + n * 0x8000, 0x8000)
  else if scope = 2 then (0x4000, 0x200000)
  else if scope = 3 then (0, 0x4000) else (0, tableSize)

/-- The pins of a part, ascending. -/
def ptPins (r : Nat × Nat) : List Pin := (List.finRange 512).filter fun p => decide (r.1 ≤ pinOff p ∧ pinOff p < r.1 + r.2)

/-- The bytes of device DRAM that a bind or refresh may find old or new, because a BAR2 write changed them while it executes: each
one is a free choice (R154). -/
def mixOld (k : Nat) (l : List (Nat × Byte)) (m : Mem) : Mem :=
  l.zipIdx.foldl (fun d x => if Config.freeBool (k + x.2) then memPut 0 d x.1.1 x.1.2 else d) m

/-- The bytes changed while a command executes (R154). -/
def mixedOf (tag : W16) (s : State) : List (Nat × Byte) := (s.pt.mixed.filter fun x => x.1 == tag).map fun x => x.2

/-- The table's bytes as a bind or refresh finds them, in one memory. -/
def ptSource (tag : W16) (s : State) (host : Bool) (src : HostRead) (a n : Nat) : Mem :=
  if host then hostMemOf src else mixOld s.freeCtr (mixedOf tag s) (dramPart s a n)

/-- The image after a command has read a part of the table at base `a` (R151). -/
def ptImage (tag : W16) (s : State) (host : Bool) (src : HostRead) (a : Nat) (r : Nat × Nat) : Mem :=
  memSplice s.pt.room r.1 r.2 (ptSource tag s host src (a + r.1) r.2) (a + r.1)

/-- What a command was to find mixed is forgotten (R154). -/
def dropMixed (tag : W16) (s : State) : State := { s with pt := { s.pt with mixed := s.pt.mixed.filter fun x => x.1 != tag } }

/-- The read of a table is over: the choices of R154 are taken. -/
def ptReadEnd (tag : W16) (s : State) : State := { dropMixed tag s with freeCtr := s.freeCtr + (mixedOf tag s).length }

/-- The checks of a bind or refresh before it reads: a refused one reads nothing (R151, R158). -/
def ptChecked (checks : List (Bool × Nat)) (e : Exec) (eff : State → State) (s : State) : State :=
  match checks.find? fun c => c.1 with
  | some (_, st) => answer e st [] (dropMixed e.entry.tag s)
  | none => eff s

/-- A field of an image: offset and size in bytes. -/
def imgAt (m : Mem) (o n : Nat) : Nat := leNat (memRead 0 m o n)

/-! ### Live and non-live fields -/

/-- Bits of the control word's bytes that Table 6.6 does not list (Table 5.6). -/
def ctlFixed (i : Nat) : Nat :=
  if i = 0 then 0x0F else if i = 1 ∨ i = 6 then 0xFC else if i = 7 then 0xFF else 0

/-- The bits of an image byte that are not live while a run is in progress (Table 6.6): the reserved areas too, so one that
differs refuses a refresh in a run (R151 against R143; DESIGN CHOICE, log 34). -/
def fixedBits (o : Nat) : Nat :=
  let w := (o - 0x4000) % 0x1000
  if o < 0x4000 then 0xFF
  else if 0xC40 ≤ w ∧ w < 0xC58 then 0
  else if 0xC58 ≤ w ∧ w < 0xC60 then ctlFixed (w - 0xC58)
  else if 0xC80 ≤ w ∧ w < 0xCC0 then 0 else 0xFF

/-- The offsets at which two images differ, in no order. -/
def imgDiff (a b : Mem) : List Nat := ((a ++ b).map fun c => c.1).filter fun o => memGet 0 a o != memGet 0 b o

/-- The lowest offset at which a non-live field differs. -/
def firstFixed (a b : Mem) : Option Nat :=
  (imgDiff a b).foldl (fun best o =>
    if (memGet 0 a o ^^^ memGet 0 b o).toNat &&& fixedBits o = 0 then best else match best with
      | none => some o
      | some x => some (min x o)) none

/-- Where the field that holds a device-section byte starts (Tables 6.1, 3.1, 6.3, 14.5). -/
def devFieldAt (o : Nat) : Nat :=
  if o < 2 then 0 else if o < 8 then 2 else if o < 16 then 8
  else if 0x400 ≤ o ∧ o < 0xC00 then o / 8 * 8
  else if 0xC00 ≤ o ∧ o < 0xC02 then 0xC00
  else if 0xC08 ≤ o ∧ o < 0xC10 then 0xC08
  else if 0xC84 ≤ o ∧ o < 0xC88 then 0xC84 else o

/-- Where the field that holds a byte of a pin entry starts (Table 6.2). -/
def pinFieldAt (w : Nat) : Nat :=
  if w < 0xC00 then w / 8 * 8 else if w < 0xC40 then w / 4 * 4 else if w < 0xC58 then w / 2 * 2
  else if 0xC68 ≤ w ∧ w < 0xC70 then w / 4 * 4 else if w < 0xD00 then w / 8 * 8 else w

/-- The pin-or-device item and entry offset of an image byte (Table 6.12). -/
def imgItems (o : Nat) : List Item :=
  if o < 0x4000 then [iAlt 1 0, i2 (devFieldAt o)]
  else [iAlt 0 ((o - 0x4000) / 0x1000), i2 (pinFieldAt ((o - 0x4000) % 0x1000))]

/-! ### Commit -/

/-- A staged, park or control value of a pin's level block in an image (R134). -/
def imgCode (m : Mem) (p : Pin) (i : Nat) : W16 := BitVec.ofNat 16 (imgAt m (pinOff p + 0xC40 + 2 * i) 2)
/-- A park code (R134). -/
def imgPark (m : Mem) (p : Pin) (i : Nat) : W16 := BitVec.ofNat 16 (imgAt m (pinOff p + 0xC4C + 2 * i) 2)
/-- The control word (Table 5.6). -/
def imgCtl (m : Mem) (p : Pin) : Nat := imgAt m (pinOff p + 0xC58) 8

/-- The staged values of a refreshed pin (R121, R152): every one when the refresh started idle, else the codes that differ
from the store room and the fields that are live. A code that the service context writes in the same fabric cycle is kept
(R107). -/
def stageFrom (now : Nat) (idle : Bool) (old new : Mem) (p : Pin) (x : PinSt) : PinSt :=
  let c := ctlOf (imgCtl new p)
  let live : FeCtl := { c with func := x.stg.func, mode := x.stg.mode, range := x.stg.range }
  let code (i : DacIx) (d : Dac) : Dac :=
    if (idle || imgCode new p i.val != imgCode old p i.val) && d.svcAt != some now then { d with staged := imgCode new p i.val }
    else d
  { x with stg := if idle then c else live, dacs := vmapIdx code x.dacs }

/-- The park registers of a refreshed pin are loaded (R129): during the park state the outputs move at once. -/
def loadPark (parked : Bool) (new : Mem) (p : Pin) (x : PinSt) : PinSt :=
  let code (i : DacIx) (d : Dac) : Dac :=
    { d with park := imgPark new p i.val, out := if parked then imgPark new p i.val else d.out }
  { x with parkTerm := BitVec.ofNat 2 (fld (imgCtl new p) 7 6), dacs := vmapIdx code x.dacs }

/-- The timeout class of a pin in an image: enabled, with a quiet time (Table 11.2). -/
def imgTout (m : Mem) (p : Pin) : Bool :=
  bitAt (imgAt m (pinOff p + 0xC80) 8) 10 && fld (imgAt m (pinOff p + 0xCA8) 8) 40 0 != 0

/-- The trigger-parameter block of a pin changes (R277). -/
def trigChanged (old new : Mem) (p : Pin) : Bool := memRead 0 old (pinOff p + 0xC80) 64 != memRead 0 new (pinOff p + 0xC80) 64

/-- A change of the trigger parameters acts at the commit cycle (R277); a timeout class that it enables starts its quiet
interval there (Table 11.3). -/
def commitTout (old new : Mem) (e : Nat) (p : Pin) (x : PinSt) : PinSt :=
  let x1 : PinSt := if trigChanged old new p then { x with cls := { x.cls with from_ := (e : Int) } } else x
  if imgTout new p ∧ ¬ imgTout old p then { x1 with cls := { x1.cls with quiet := (e : Int), quietHit := false } } else x1

/-- Participation and set of a pin in an image (R279). -/
def imgSel (m : Mem) (p : Pin) : Bool × Nat :=
  let w := imgAt m (pinOff p + 0xCC0) 8
  (fld w 1 0 != 0, fld w 7 4)

/-- The pin sets whose membership changes (R279). -/
def setsChanged (old new : Mem) (pins : List Pin) : List (Fin 16) :=
  (List.finRange 16).filter fun ps => pins.any fun p =>
    imgSel old p != imgSel new p && ((imgSel old p).2 == ps.val || (imgSel new p).2 == ps.val)

/-- What comes before a commit: changes seen until now are stamped and classified under the parameters in force until now (R277), and
the open frames of the sets whose membership changes close (R279, R284). -/
def beforeCommit (old new : Mem) (pins : List Pin) (s : State) : State :=
  let sets := setsChanged old new pins
  let s1 := if sets ≠ [] ∨ pins.any (trigChanged old new) then flushAll s else s
  sets.foldl (closeSet (some (repTime s1 (ext s1)).toNat) 0) s1

/-- The commit cycle (R147, R150, R152): store room, shadow and `PT_CRC` are written, park registers, staged values and the
classifier follow. A shadow written while DRAM has no power is lost (R165; DEDUCED, log 34). -/
def ptCommit (idle : Bool) (r : Nat × Nat) (new : Mem) (s0 : State) : State :=
  let old := s0.pt.room
  let pins := ptPins r
  let s := beforeCommit old new pins s0
  let sel (p : Pin) : Bool := pins.contains p
  let left := s.pt.staleAt.filter fun o => decide (o < r.1 ∨ r.1 + r.2 ≤ o)
  let s1 : State := { s with
    pt := { s.pt with
      room := new, shadow := new, shadowOk := dramOn s, crc := crc32c (memRead 0 new 0 tableSize)
      stale := s.pt.stale && !left.isEmpty, staleAt := left }
    pins := vmapIdx (fun p x =>
      if sel p then commitTout old new (ext s) p (loadPark (pinParked s p) new p x) else x) s.pins }
  stageWrite sel (stageFrom (cycleStart s1) idle old new) s1

/-! ### Commands -/

/-- A DRAM-resident table breaks R145. -/
def badPlace (s : State) (a : Nat) : Bool :=
  decide (0x1FFC000000 < a + tableSize) || s.pm.regions.toList.any fun x =>
    List.contains [1, 2, 3, 4] x.typ && decide (x.base < a + tableSize ∧ a < x.base + x.size * 2 ^ 20)

/-- The first write fault that lies in a range (R156). -/
def firstFault (s : State) (a n : Nat) : Option Nat :=
  (s.pm.wranges.find? fun w => decide (w.1 < a + n ∧ a < w.1 + w.2)).map fun w => w.1

/-- The read fault of a part of the table, if it has one (R156): address and cause. -/
def ptFault (s : State) (host : Bool) (src : HostRead) (dr : DramFind) (a n : Nat) : Option (Nat × Nat) :=
  if host then src.fail.map fun x => (x.1, 2)
  else match firstFault s a n with
    | some w => some (w, 0)
    | none => if dr.ecc = .uncorrectable then some (a + dr.at_, 1) else none

/-- A command refused for a read fault (R156). -/
def ptMemerr (e : Exec) (f : Nat × Nat) (s : State) : State := answer e eMemerr [] (issue 0x0503 [i8 f.1, i1 f.2] s)

/-- The level block of a refreshed pin fails check 1 or 2 of Table 5.7 (R135). -/
def badLevels (new : Mem) (pins : List Pin) : Bool :=
  pins.any fun p => (levelCheck (memRead 0 new (pinOff p + 0xC40) 32)).isSome

/-- No command of the pin table that started earlier executes: each one does so until its completion entry is written (R154,
R391). -/
def ptTurn (tag : W16) (s : State) : Bool :=
  ((s.hi.exec.filter fun e => List.contains [0x0501, 0x0502] e.entry.opcode.toNat).head?).all fun e => e.entry.tag == tag

/-- `PT_BIND` once its address is accepted (R155, R156, R158). -/
def bindRead (e : Exec) (src : HostRead) (dr : DramFind) (a : Nat) (host : Bool) (s0 : State) : State :=
  let s1 := objNote host dr a (if host then s0 else inSlot .maint tableSize (bar2Drain s0))
  let new := ptImage e.entry.tag s1 host src a (0, tableSize)
  let s := ptReadEnd e.entry.tag s1
  match ptFault s host src dr a tableSize with
  | some f => ptMemerr e f s
  | none =>
    if imgAt new 0 2 ≠ 1 ∨ badLevels new (List.finRange 512) then answer e eInval [] s
    else
      let u := inSlot .maint tableSize s
      answer e eOk [] (ptCommit true (0, tableSize) new { u with pt := { u.pt with
        bound := true, hostMem := host, base := BitVec.ofNat 64 a, stale := false, staleAt := [] } })

/-- `PT_BIND` (R157, R158), in P3 too, where its shadow cannot be written (DEDUCED, log 34). -/
def ptBindCmd (src : HostRead) (dr : DramFind) (e : Exec) (s : State) : State :=
  let a := payF e 0 8
  let host := payF e 8 1 == 1
  if ¬ ptTurn e.entry.tag s then s
  else ptChecked [
    (decide (1 < payF e 8 1) || !payZero e 9 39 || a % 4096 != 0, eInval)
    , (!host && badPlace s a, eRange)] e (bindRead e src dr a host) s

/-- `PT_BIND`. -/
def execPtBind (tag : W16) (src : HostRead) (dr : DramFind) (s : State) : Host.Outcome State Fault Refusal :=
  .next (runCmd 0x0501 tag (ptBindCmd src dr) s)

/-- A refresh whose part was read (R151): refused for a change it may not make, else committed, with its shadow written in maintenance
slots (R147, R168). -/
def refreshEnd (e : Exec) (r : Nat × Nat) (new : Mem) (s : State) : State :=
  if e.idle then
    if badLevels new (ptPins r) then answer e eInval [] s else answer e eOk [] (ptCommit true r new (inSlot .maint r.2 s))
  else match firstFixed s.pt.room new with
    | some o => answer e eBusy [] (issue 0x0502 (imgItems o) s)
    | none => answer e eOk [] (ptCommit false r new (inSlot .maint r.2 s))

/-- `PT_REFRESH` once it may read (R155, R156). -/
def refreshRead (e : Exec) (src : HostRead) (dr : DramFind) (s0 : State) : State :=
  let r := ptRange (payF e 0 1) (payF e 2 2)
  let host := s0.pt.hostMem
  let a := s0.pt.base.toNat
  let s1 := objNote host dr (a + r.1) (if host then s0 else inSlot .maint r.2 (bar2Drain s0))
  let new := ptImage e.entry.tag s1 host src a r
  let s := ptReadEnd e.entry.tag s1
  match ptFault s host src dr (a + r.1) r.2 with
  | some f => ptMemerr e f s
  | none => refreshEnd e r new s

/-- `PT_REFRESH` (R151, R157): its payload is checked before `BOUND` (DESIGN CHOICE, log 34). -/
def ptRefreshCmd (src : HostRead) (dr : DramFind) (e : Exec) (s : State) : State :=
  let scope := payF e 0 1
  let ix := payF e 2 2
  if ¬ ptTurn e.entry.tag s then s
  else ptChecked [
    (decide (4 < scope) || payF e 1 1 != 0 || !payZero e 4 44 || (decide (2 ≤ scope) && ix != 0), eInval)
    , ((scope == 0 && decide (511 < ix)) || (scope == 1 && decide (63 < ix)), eRange)
    , (!roomHeld s, eState)] e (refreshRead e src dr) s

/-- `PT_REFRESH`. -/
def execPtRefresh (tag : W16) (src : HostRead) (dr : DramFind) (s : State) : Host.Outcome State Fault Refusal :=
  .next (runCmd 0x0502 tag (ptRefreshCmd src dr) s)

/-! ### The scrub -/

/-- An error found in the store room at an offset of the image (R149). -/
def roomError (off : Nat) (ecc : Ecc) (s : State) : State :=
  match ecc with
  | .ok => s
  | .corrected => issueOnce 0x0504 (imgItems off) { s with pt := { s.pt with eccCe := satSucc 0xFFFF s.pt.eccCe } }
  | .uncorrectable =>
    let run := running s
    let place : Item := if off < 0x4000 then iAlt 1 0 else iAlt 0 ((off - 0x4000) / 0x1000)
    let s1 := issue 0x0505 [place, i1 (b2n run)] { s with pt := { s.pt with stale := true, staleAt := s.pt.staleAt ++ [off] } }
    if run then contain 0x07 s1 else s1

/-- `STORE_ROOM_SCRUB` (R149): a word of the store room at its offset in the image, or a read of it for use. -/
def execStoreRoomScrub (off : Nat) (ecc : Ecc) (s : State) : Host.Outcome State Fault Refusal :=
  .next (roomError (off % tableSize) ecc s)

end Sys2Proof.Machine
end

