-- ==== Sys2Proof/Machine/PatternMem.lean ====
section
/-! DEFINITION. The rows of the pattern memory (07): the slot profile (R169), the region map (R164, R165), image verification
(R171, R194), the attic's fetches (R179, R180, R185, R186), scrub (R189) and BAR2 (R162, R189, R190, R378). -/

namespace Sys2Proof.Machine

open Sys2Proof

/-! ### Configuration -/

/-- `PM_CONFIG` (R169, R193): once its checks pass it waits for the next frame boundary. -/
def pmConfigCmd (e : Exec) (s : State) : State :=
  if s.pm.newCfg.isSome then s
  else checked [(decide (1 < payF e 0 1 ∨ 1 < payF e 1 1) || !payZero e 2 46, eInval)] e
    (fun t => { t with pm := { t.pm with newCfg := some (e.entry.tag, payF e 0 1 == 1, payF e 1 1 == 1) } }) s

/-- `PM_CONFIG`. -/
def execPmConfig (tag : W16) (s : State) : Host.Outcome State Fault Refusal := .next (runCmd 0x0601 tag pmConfigCmd s)

/-- Time moves to the next frame boundary: a multiple of 1024 fabric cycles of the epoch, while that counts (R166). -/
def toFrame (s : State) : State := if s.tb.fabSrc = .edge then toEpoch ((ext s / 8388608 + 1) * 8388608) s else s

/-- `PM_CONFIG_FRAME_APPLY` (R169): both settings take effect together, and the command completes. -/
def execPmConfigFrameApply (s : State) : Host.Outcome State Fault Refusal :=
  .next (match s.pm.newCfg with
    | none => s
    | some (tag, b, act) =>
      let s1 := toFrame s
      runCmd 0x0601 tag (fun e t => answer e eOk [] t)
        { s1 with pm := { s1.pm with profileB := b, starveAct := act, newCfg := none } })

/-- An entry of a `PM_REGION` payload (Table 7.1); of an `UNUSED` entry only the type counts (R165). -/
def payRegion (e : Exec) (i : Nat) : Region :=
  let o := 32 * i
  if payF e (o + 12) 1 = 0 then {}
  else { base := payF e o 8, size := payF e (o + 8) 4, typ := payF e (o + 12) 1, host := payF e (o + 16) 8 }

/-- An entry breaks the `E_INVAL` rule of R165. -/
def regionInval (e : Exec) (i : Nat) : Bool :=
  let r := payRegion e i
  r.typ != 0 && (decide (6 < r.typ ∨ r.base % 2 ^ 20 ≠ 0 ∨ r.size = 0 ∨ 131072 < r.size)
    || (if r.typ = 6 then r.host % 4096 != 0 else r.host != 0)
    || !payZero e (32 * i + 13) 3 || !payZero e (32 * i + 24) 8)

/-- The end of a region. -/
def regionEnd (r : Region) : Nat := r.base + r.size * 2 ^ 20

/-- A used entry lies where its type allows (R165): below the system region, or in the host-source window. -/
def regionPlaced (r : Region) : Bool :=
  if r.typ = 6 then decide (0x010000000000 ≤ r.base ∧ regionEnd r ≤ 0x020000000000) else decide (regionEnd r ≤ 0x1FFC000000)

/-- Two used entries overlap. -/
def regionsMeet (a b : Region) : Bool := decide (a.base < regionEnd b ∧ b.base < regionEnd a)

/-- Some two entries of a list overlap. -/
def anyMeet : List Region → Bool
  | [] => false
  | r :: l => l.any (regionsMeet r) || anyMeet l

/-- A map breaks the `E_RANGE` rules of R165. -/
def mapRange (s : State) (l : List Region) : Bool :=
  let u := l.filter fun r => r.typ != 0
  let one (t : Nat) : Bool :=
    decide ((u.filter fun r => r.typ = t).length ≤ 1) && u.all fun r => r.typ != t || decide (r.size ≤ 32768)
  let table : Bool := s.pt.bound && !s.pt.hostMem && u.any fun r =>
    List.contains [1, 2, 3, 4] r.typ && decide (r.base < s.pt.base.toNat + tableSize ∧ s.pt.base.toNat < regionEnd r)
  !u.all regionPlaced || anyMeet u || !one 3 || !one 4 || table

/-- `PM_REGION` (R165): the whole map is replaced. -/
def pmRegionCmd (e : Exec) (s : State) : State :=
  let new := (List.range 16).map (payRegion e)
  checked [((List.range 16).any (regionInval e), eInval), (mapRange s new, eRange)] e
    (fun t => answer e eOk [] { t with pm := { t.pm with regions := Vector.ofFn fun i => payRegion e i.val } }) s

/-- `PM_REGION`. -/
def execPmRegion (tag : W16) (s : State) : Host.Outcome State Fault Refusal := .next (runCmd 0x0602 tag pmRegionCmd s)

/-- `PM_WFCLR` (R191). -/
def pmWfclrCmd (e : Exec) (s : State) : State :=
  checked [(!payZero e 0 48, eInval)] e
    (fun t => answer e eOk [] { t with pm := { t.pm with wfault := 0, wfaultAddr := 0, regfault := 0, wranges := [] } }) s

/-- `PM_WFCLR`. -/
def execPmWfclr (tag : W16) (s : State) : Host.Outcome State Fault Refusal := .next (runCmd 0x0603 tag pmWfclrCmd s)

/-! ### Verification -/

/-- An image header that `PM_VERIFY` accepts (Table 7.5). -/
def imgHdrOk (h : List Byte) : Bool :=
  decide (fieldAt h 0 4 = 0x4B595049 ∧ fieldAt h 4 2 = 1) && decide (fieldAt h 6 2 = 1 ∨ fieldAt h 6 2 = 2)
    && allZero (slice h 36 4) && allZero (slice h 48 16)

/-- The result of `PM_VERIFY` (R194) from the image's header and body. -/
def verifyData (h body : List Byte) : List Byte :=
  let c := crc32c body
  [BitVec.ofNat 8 (b2n (c.toNat != fieldAt h 32 4)), 0, 0, 0] ++ leBytes 4 c.toNat ++ slice h 8 8

/-- `PM_VERIFY` (R194, R395): the image lies in one region, which it may leave nowhere; DRAM is read in maintenance slots (R170).
A header that cannot be read answers `E_MEMERR`, since its fields are not known (DEDUCED, log 35). -/
def pmVerifyCmd (src : HostRead) (dr : DramFind) (e : Exec) (s0 : State) : State :=
  let a := payF e 0 8
  let host := regionTyp s0 a == 6
  let at_ := if host then hostAddr s0 a else a
  let types := [1, 2, 3, 4, 5, 6]
  if ¬ payZero e 8 40 then answer e eInval [] s0
  else if ¬ rangeIn s0 types a 64 then answer e eRange [] s0
  else
    let s := objNote host dr a s0
    let h := objBytes s host src at_ 64
    let n := fieldAt h 24 8
    checked [
      (objFails host src dr, eMemerr), (!imgHdrOk h, eInval), (!rangeIn s types a (64 + n), eRange)] e
      (fun t =>
        let u := if host then t else inSlot .maint (64 + n) t
        answer e eOk (verifyData h (objBytes u host src (at_ + 64) n)) u) s

/-- `PM_VERIFY`. -/
def execPmVerify (tag : W16) (src : HostRead) (dr : DramFind) (s : State) : Host.Outcome State Fault Refusal :=
  .next (runCmd 0x0604 tag (pmVerifyCmd src dr) s)

/-! ### The attic -/

/-- A lane block is fetched aligned (R179). -/
def itemNorm : FetchItem → FetchItem
  | .lane p a => .lane p (a / 64 * 64)
  | i => i

/-- The bytes of an item where they are read. -/
def itemBytes (read : Nat → Nat → List Byte) (a : Nat) : FetchItem → List Byte
  | .vector _ => read a (vSize (read a 32))
  | .lane _ _ => read a 64
  | .desc _ => read a 4096

/-- An item arrives in the attic. -/
def shelve (x : Shelf) (s : State) : State := { s with pm := { s.pm with shelf := s.pm.shelf ++ [x] } }

/-- The item is requested and its data may arrive (R170, R179, R180, R185). -/
def fetchDue (host spare : Bool) (i : FetchItem) (s : State) : Bool := fetching s && (requested s host).contains (spare, i)

/-- `ATTIC_FETCH_COMPLETE` (R179, R180, R189): an item of a region of its own type arrives in a pattern slot, poisoned where it is
uncorrectable. -/
def atticFetch (item : FetchItem) (spare : Bool) (dr : DramFind) (s : State) : State :=
  let i := itemNorm item
  let a := itemAddr i
  if fetchDue false spare i s ∧ regionTyp s a = itemTyp i then
    let bytes := itemBytes (dramRead s) a i
    let ue := dr.ecc == .uncorrectable
    shelve { item := i, bytes := bytes, spare := spare, ue := ue, host := false, bad := if ue then a + dr.at_ else 0 }
      (noteEcc dr.ecc (a + dr.at_) (inSlot .pattern bytes.length s))
  else s

/-- `ATTIC_FETCH_COMPLETE`. -/
def execAtticFetchComplete (item : FetchItem) (spare : Bool) (dr : DramFind) (s : State) : Host.Outcome State Fault Refusal :=
  .next (atticFetch item spare dr s)

/-- A PCIe read of the fetcher (R185, R186): a failed one contains the device. -/
def hostFetch (item : FetchItem) (spare : Bool) (src : HostRead) (s : State) : State :=
  let i := itemNorm item
  let a := itemAddr i
  if fetchDue true spare i s then
    match src.fail with
    | some (h, st) => contain 0x06 (issue 0x0608 [i8 h, i1 st.toNat] s)
    | none => shelve { item := i, bytes := itemBytes (hostBytes src) (hostAddr s a) i, spare := spare, ue := false, host := true } s
  else s

/-- `HOSTSRC_READ_COMPLETE`. -/
def execHostsrcReadComplete (item : FetchItem) (spare : Bool) (src : HostRead) (s : State) :
    Host.Outcome State Fault Refusal := .next (hostFetch item spare src s)

/-- `ATTIC_FILL_COMPLETE` (R182): the initial fill completes once the shelves are filled. -/
def execAtticFillComplete (s : State) : Host.Outcome State Fault Refusal := .next (if filled s then fillDone s else s)

/-! ### Scrub and BAR2 -/

/-- `DRAM_SCRUB` (R170, R189): what the scrub of a granule finds, in a maintenance slot. -/
def execDramScrub (addr : Nat) (ecc : Ecc) (s : State) : Host.Outcome State Fault Refusal :=
  .next (noteReadUe ecc (addr / 32 * 32) 1 (inSlot .maint 32 s))

/-- The bytes of a request that lie in the 128 GB window of BAR2 (R161, R371): no request reaches the block at another address. -/
def bar2Here (addr n : Nat) : Nat := min n (2 ^ 37 - addr)

/-- `BAR2_WRITE` (R378): the request is received. -/
def execBar2Write (addr : Nat) (bytes : List Byte) (poisoned : Bool) (s : State) : Host.Outcome State Fault Refusal :=
  let part := bytes.take (bar2Here addr bytes.length)
  .next (if part.isEmpty then s
    else { s with pm := { s.pm with bar2 := s.pm.bar2 ++ [{ addr := addr, bytes := part, poisoned := poisoned }] } })

/-- `BAR2_WRITE_APPLY` (R190). -/
def execBar2WriteApply (ecc : Ecc) (s : State) : Host.Outcome State Fault Refusal := .next (bar2Apply ecc s)

/-- What a BAR2 read returns: the system region reads 0 (R162). -/
def bar2Data (s : State) (a n : Nat) : List Byte :=
  (List.range n).map fun i => if 0x1FFC000000 ≤ a + i then 0 else dramByte s.pm (a + i)

/-- `BAR2_READ` (R170, R189, R378): every earlier BAR2 write is applied first; the read goes in a host slot, and an uncorrectable
granule poisons the completion. -/
def execBar2Read (addr : Nat) (len : Nat) (dr : DramFind) (s : State) : Host.Outcome State Fault Refusal :=
  let n := bar2Here addr len
  let s1 := inSlot .host n (bar2Drain s)
  let s2 := noteReadUe dr.ecc (addr + dr.at_) 0 s1
  .next { s2 with hi := { s2.hi with rdata := bar2Data s1 addr n, rpoison := dr.ecc == .uncorrectable, rabort := false } }

end Sys2Proof.Machine
end

