-- ==== Sys2Proof/Machine/Stream.lean ====
section
/-! DEFINITION. The rows of the capture stream (11): crossings and stamps (R272 to R274), trigger classes (R276 to R278), raw
samples (R280), frames (R281 to R284), the ring and staging (R285 to R292), and the CS commands (R294 to R296). -/

namespace Sys2Proof.Machine

open Sys2Proof

/-! ### Crossings -/

/-- Stampers run (R274): the guard of the quadrant is open and the epoch counts from the edge clock. -/
def stampsOn (s : State) (p : Pin) : Bool := s.tb.guardOpen[quadOf p] && decide (s.tb.fabSrc = .edge)

/-- The output that a crossing kind belongs to (Table 11.1): 0 `CLO`, 1 `CHI`. -/
def xkOut (k : XKind) : Nat := xkCode k / 2

/-- A second change of one output in one 64-tick step (R273). -/
def sameStep (p : Pin) (k : XKind) (at_ : Nat) (x : PendX) : Bool :=
  decide (x.pin = p ∧ xkOut x.kind = xkOut k ∧ x.at_ / 64 = at_ / 64)

/-- A change seen by the stamper (R273): it waits for the end of its step; two changes of one output in one step cancel (a third
would stand; DESIGN CHOICE, log 37). -/
def noteChange (p : Pin) (k : XKind) (at_ : Nat) (s : State) : State :=
  match s.cs.pendX.find? (sameStep p k at_) with
  | some x => { s with cs := { s.cs with pendX := s.cs.pendX.erase x } }
  | none => { s with cs := { s.cs with pendX := s.cs.pendX ++ [{ pin := p, kind := k, at_ := at_, seen := s.tb.now }] } }

/-- A comparator output changes at an epoch tick (R92, R95, R272 to R274, R300): a window, the stamper and the TIUs see it. -/
def crossing (p : Pin) (k : XKind) (at_ : Nat) (s0 : State) : State :=
  let s := if s0.tb.fabSrc = .edge ∧ ¬ s0.cs.pendX.any (sameStep p k at_) then toEpoch at_ s0 else s0
  if ¬ xkMoves k s.pins[p] then s
  else
    let s1 := observe p (xkApply k) at_ s
    let s2 := if stampsOn s1 p then noteChange p k at_ s1 else s1
    if s1.tb.guardOpen[quadOf p] then tiuCross p (xkCode k) (repTime s1 at_) s2 else s2

/-- The crossing of a threshold by a rising or a falling line (Table 11.1). -/
def xkOf (th : Threshold) (rise : Bool) : XKind :=
  match th with
  | .clo => if rise then .cloRise else .cloFall
  | .chi => if rise then .chiRise else .chiFall

/-- `COMPARATOR_CROSSING`: a pin's output change, and a TIU whose state is found uncorrectable when it takes it (R318). -/
def execComparatorCrossing (p : Pin) (th : Threshold) (at_ : Nat) (rise : Bool) (tiuUE : Option Glove) (s : State) :
    Host.Outcome State Fault Refusal :=
  let t := crossing p (xkOf th rise) at_ s
  .next (match tiuUE with
    | some g => tiuStateUe g t
    | none => t)

/-- The least of some keys. -/
def minKey : List Int → Option Int
  | [] => none
  | k :: r => match minKey r with
    | some m => some (min k m)
    | none => some k

/-- `TRIGGER_SPAN_TIMEOUT` (R276): the earliest span of a pin that elapsed time ends; changes seen before come first. -/
def spanTimeout (p : Pin) (s0 : State) : State :=
  let due (s : State) := minKey ((longDue s p true).toList ++ (longDue s p false).toList ++ (toutDue s p).toList)
  let s := flushX (fun x => x.pin == p && (due s0).any fun k => decide (repTime s0 x.at_ < k)) s0
  match due s with
  | none => s
  | some k =>
    if stampsOn s p then
      let s1 := toEpoch (k + memberShift s).toNat s
      let (c, l) := clsExpire s1 p k
      l.foldl (giveHit p) (updPin p (fun x => { x with cls := c }) s1)
    else s

/-- `TRIGGER_SPAN_TIMEOUT`. -/
def execTriggerSpanTimeout (p : Pin) (s : State) : Host.Outcome State Fault Refusal := .next (spanTimeout p s)

/-- The undelivered hit with the earliest key. -/
def firstHit : List Hit → Option Hit
  | [] => none
  | h :: r => match firstHit r with
    | some g => if g.key < h.key then some g else some h
    | none => some h

/-- `TRIGGER_HIT_DELIVERY` (R278): the earliest hit reaches the condition logic, 16 ns or more after its key. -/
def execTriggerHitDelivery (s : State) : Host.Outcome State Fault Refusal :=
  .next (match firstHit s.cs.hits with
    | none => s
    | some h =>
      let s1 := toEpoch (hitFrom s h) s
      if s1.cs.hits.contains h then deliverHit (ext s1) s1 h else s1)

/-! ### Samples, units and frames -/

/-- The next raw sample of a pin (R280). -/
def firstRaw (p : Pin) : List (Pin × Nat) → Option (Pin × Nat)
  | [] => none
  | x :: r => if x.1 = p then (match firstRaw p r with
      | some y => if y.2 < x.2 then some y else some x
      | none => some x) else firstRaw p r

/-- A raw sample is taken (R280): not while the quadrant's guard is closed (R36). -/
def rawSample (p : Pin) (land : Nat) (s : State) : State :=
  let d : Datum := { pin := p, era := s.cs.era, key := land / 64 * 64, raw := true, val := observed s p }
  if captures s d.key ∧ s.tb.guardOpen[quadOf p] then { s with cs := { s.cs with data := s.cs.data ++ [d] } } else s

/-- `RAW_SAMPLE` (R280): the observed state at the sample's land time. A crossed state that only a sample or a comparator change
sees is no crossed observation of R92, which speaks of compares (DESIGN CHOICE, log 32). -/
def execRawSample (p : Pin) (s : State) : Host.Outcome State Fault Refusal :=
  .next (match firstRaw p s.cs.raws with
    | none => s
    | some x =>
      let s1 := toEpoch ((x.2 : Int) + memberShift s).toNat s
      rawSample p x.2 { s1 with cs := { s1.cs with raws := s1.cs.raws.erase x } })

/-- The last key of what a set places next (R284): of a unit the last datum's, as Table 11.14 waits for the second stamp. -/
def placeKey (ps : Fin 16) (s : State) : Nat :=
  match firstDatum s ps, nextMark s ps with
  | some d, m =>
    (match m.filter fun x => markFirst s d x with
      | some x => x.key
      | none => ((unitData s d (unitLimit d m none)).map fun x => x.key).foldl max d.key)
  | none, some m => m.key
  | none, none => 0

/-- A pin's trigger classes may still give a marked hit at or before a key, by time that has elapsed (R276, R284). -/
def hitBehind (p : Pin) (key : Nat) (s : State) : Bool :=
  let near (o : Option Int) : Bool := o.any fun k => decide (k ≤ (key : Int))
  stampsOn s p && capMode s p != 0
    && (trigBit s p 12 && (near (longDue s p true) || near (longDue s p false)) || trigBit s p 14 && near (toutDue s p))

/-- A source of the set may still produce a key at or before an instant (R284): a raw sample that is due by then, a change whose step
is not over, or an open span that a mark will report. -/
def sourceBehind (ps : Fin 16) (key : Nat) (s : State) : Bool :=
  (s.cs.raws.any fun x => psetOf s x.1 == ps && decide (x.2 / 64 * 64 ≤ key))
    || (s.cs.pendX.any fun x => psetOf s x.pin == ps && decide (stampOf (repTime s x.at_) ≤ (key : Int)))
    || (List.finRange 512).any fun p => psetOf s p == ps && hitBehind p key s

/-- A step of a set's assembler at its time (R284): 32 ns or more after the key, and not before every source has passed it. -/
def unitPlace (ps : Fin 16) (s : State) : State :=
  let k := placeKey ps s
  match nextItem ps s with
  | none => s
  | some (era, _) =>
    if era ≠ s.cs.era then placeNext ps none s
    else
      let s1 := toEpoch (((k : Int) + memberShift s).toNat + placeLag) s
      if sourceBehind ps k s1 then s1 else placeNext ps (some (k + placeLag)) s1

/-- `UNIT_PLACE` (R284): a datum or mark enters its set's frame. -/
def execUnitPlace (pset : Fin 16) (s : State) : Host.Outcome State Fault Refusal := .next (unitPlace pset s)

/-- `FRAME_FLUSH_EXPIRY` (R284): `FLUSH` µs after its `FIRST_EPOCH` the frame closes. -/
def execFrameFlushExpiry (pset : Fin 16) (s : State) : Host.Outcome State Fault Refusal :=
  .next (match s.cs.frames[pset] with
    | none => s
    | some f => closeFrame pset 1 (toEpoch (((f.first : Int) + memberShift s).toNat + 8192000 * s.cs.flush) s))

/-! ### The ring and staging -/

/-- `FRAME_SEND` (R285, R286, R289): the first frame of the front, while the region holds none and the ring has room. -/
def execFrameSend (s : State) : Host.Outcome State Fault Refusal :=
  .next (match s.cs.front with
    | [] => s
    | _ :: _ => if direct s then sendOldest s else s)

/-- `STAGING_WRITE` (R289, R290, Table 11.7): in stream slots (R24). -/
def stageFrame (s : State) : State :=
  if s.cs.front.isEmpty ∨ (s.cs.staged.isEmpty ∧ 4096 ≤ ringFree s) ∨ stagingCap s ≤ s.cs.staged.length then s
  else stageOldest (inSlot .stream 4096 s)

/-- `STAGING_WRITE`. -/
def execStagingWrite (s : State) : Host.Outcome State Fault Refusal := .next (stageFrame s)

/-- A staged frame that cannot be read (R292): dropped, marks included, to be reported by a gap mark and a marks-lost mark in the
next frame of its set. -/
def unreadable (f : Frame) (addr : Nat) (s : State) : State :=
  let gap : Gap := { pset := f.pset, fseq := f.fseq, key := f.first, era := f.era, frames := 1, marks := f.marks
                     markKey := ((f.kept.head?).map fun m => m.key).getD f.first }
  issue 0x0A08 [i8 f.fseq, i8 addr] { s with cs := { s.cs with
    dropFrames := satSucc 0xFFFFFFFF s.cs.dropFrames, dropMarks := min 0xFFFFFFFF (s.cs.dropMarks + f.marks), stageUe := true
    fresh := freshen s 0x80 s.cs.fresh
    gaps := addGap gap s.cs.gaps } }

/-- `STAGING_READ_COMPLETE` (R289, R292): the oldest staged frame, read in stream slots (R24), goes to the ring. -/
def stageRead (dr : DramFind) (s0 : State) : State :=
  if s0.cs.staged.isEmpty ∨ ringFree s0 < 4096 then s0
  else
    let s := inSlot .stream 4096 s0
    match s.cs.staged with
    | [] => s
    | f :: r =>
      let addr := stageAddr s (s.cs.stagedAt - s.cs.staged.length) + dr.at_
      let s2 := noteEcc dr.ecc addr { s with cs := { s.cs with staged := r } }
      stageEmpty (if dr.ecc = .uncorrectable then unreadable f addr s2 else sendFrame f s2)

/-- `STAGING_READ_COMPLETE`. -/
def execStagingReadComplete (dr : DramFind) (s : State) : Host.Outcome State Fault Refusal := .next (stageRead dr s)

/-! ### The stream closes -/

/-- The frames that wait go to the ring while it has room (R296), `n` at most: those of the staging region first, each read in stream slots
with its outcome (R289), then those of the front. -/
def sendWaiting : Nat → List DramFind → State → State
  | 0, _, s => s
  | n + 1, reads, s =>
    if ringFree s < 4096 then s
    else if s.cs.staged.isEmpty then sendWaiting n reads (sendOldest s)
    else sendWaiting n reads.tail (stageRead (reads.headD {}) s)

/-- Every open frame closes with a flag, with what is ripe placed in it (R284, R296). -/
def closeDue (flag : Nat) (s : State) : State := closeFrames (some (repTime s (ext s)).toNat) flag s

/-- The waiting frames as the stream closes (R296): sent while the ring has room if `send` holds; the number that is discarded. -/
def closeFill (send : Bool) (reads : List DramFind) (s : State) : Nat × State :=
  let n := s.cs.staged.length + s.cs.front.length
  let s1 := if send then sendWaiting n reads s else s
  (n - (s1.cs.sent - s.cs.sent), s1)

/-- The stream closes (R295, R296) with a cause: 0 command, 1 power state, 2 reset. -/
def closeStream (cause : Nat) (send : Bool) (s : State) : State :=
  let (n, s1) := closeFill send [] (closeDue 2 s)
  streamShut cause n s1

/-- `STREAM_IRQ_TIMER` (R288). -/
def execStreamIrqTimer (s : State) : Host.Outcome State Fault Refusal :=
  .next (if s.cs.irqFrames = 0 ∨ s.cs.unsig = 0 then s
    else
      let s1 := toTime (s.cs.unsigAt + 8192000 * s.cs.flush) s
      msix s1.cs.irqVec { s1 with cs := { s1.cs with unsig := 0 } })

/-- A consumer value that `CS_CONS` accepts (R285, R287). -/
def consOk (s : State) (v : Nat) : Bool :=
  let o := fld v 47 0
  let po := s.cs.prod % 2 ^ 48
  decide (o % 4096 = 0 ∧ o < 2 ^ s.cs.log2)
    && (if fld v 48 48 = s.cs.prod / 2 ^ 48 then decide (o ≤ po) else decide (po ≤ o))

/-- `CS_CONS_WRITE` (R287): ignored while the stream is closed. -/
def consWrite (v : W64) (s : State) : State :=
  if ¬ s.cs.open_ then s
  else if consOk s v.toNat then { s with cs := { s.cs with cons := v.toNat % 2 ^ 49 } }
  else issue 0x0A09 [i8 v.toNat] { s with cs := { s.cs with
    consErr := true, fresh := freshen s 0x800 s.cs.fresh } }

/-- `CS_CONS_WRITE`. -/
def execCsConsWrite (v : W64) (s : State) : Host.Outcome State Fault Refusal := .next (applyReg 0x0528 8 0 (· == v.toNat) (consWrite v) s)

/-! ### Commands -/

/-- `CS_OPEN` opens the stream (R295); keys are captured from the completion on (`streamOpened`). -/
def streamOpen (e : Exec) (s0 : State) : State :=
  let s := flushAll s0
  let n := (s.cs.openSeq + 1) % 2 ^ 32
  issue 0x0A01 [i4 n, i8 (2 ^ payF e 8 1)] { s with cs := { s.cs with
    open_ := true, openAt := none, openSeq := n, fseq := 0, prod := 0, cons := 0, sent := 0, dropFrames := 0, dropMarks := 0
    ringBase := payF e 0 8, log2 := payF e 8 1, flush := payF e 9 3, irqFrames := payF e 12 2, irqVec := payF e 14 1
    prodWb := payF e 16 8, stagedPeak := 0, stagedAt := 0, episodeN := 0, unsig := 0, lastSent := 0, lostSaid := false
    ovfSaid := [], dropRun := none, data := [], marks := [], lostMarks := [], gaps := [], begin_ := []
    frames := .replicate 16 none, front := [], staged := [], raws := [] } }

/-- `CS_OPEN` has completed (R295): keys from now on are captured. -/
def streamOpened (s : State) : State :=
  { s with cs := { s.cs with openAt := if s.cs.open_ then some (repTime s (ext s)).toNat else s.cs.openAt } }

/-- `CS_OPEN` (R294, R295). -/
def csOpenCmd (e : Exec) (s : State) : State :=
  checked [
    (payF e 0 8 % 4096 != 0 || decide (payF e 8 1 < 20 ∨ 48 < payF e 8 1) || decide (payF e 9 3 = 0 ∨ 1000000 < payF e 9 3)
      || decide (256 < payF e 12 2 ∨ 63 < payF e 14 1) || payF e 15 1 != 0 || payF e 16 8 % 8 != 0 || !payZero e 24 24, eInval)
    , (s.cs.open_, eState)] e (fun t => answer e eOk [] (streamOpen e t)) s

/-- `CS_OPEN`. -/
def execCsOpen (tag : W16) (s : State) : Host.Outcome State Fault Refusal := .next (runCmd 0x0A01 tag csOpenCmd s)

/-- `CS_CLOSE` (R294, R296): the completion carries the last `FSEQ` sent and the frames discarded. -/
def csCloseCmd (reads : List DramFind) (e : Exec) (s : State) : State :=
  checked [(!payZero e 0 48, eInval), (!s.cs.open_, eState)] e
    (fun t =>
      let (n, t1) := closeFill true reads (closeDue 2 (flushAll t))
      let t2 := streamShut 0 n t1
      answer e eOk (leBytes 8 t2.cs.lastSent ++ leBytes 8 n) t2) s

/-- `CS_CLOSE`. -/
def execCsClose (req : CloseReq) (s : State) : Host.Outcome State Fault Refusal :=
  .next (runCmd 0x0A02 req.tag (csCloseCmd req.reads) s)

end Sys2Proof.Machine
end

