-- ==== Sys2Proof/Machine/Margin.lean ====
section
/-! DEFINITION. The rows of the margin outputs (13): jump requests (R331, R332), the update with its resampler (R321 to R330),
parking and stopping (R327, R333, R334), the sine mode (R335, R336), the MX commands (R326, R328, R337), and `EVT_IN` edges
(R53, R331). -/

namespace Sys2Proof.Machine

open Sys2Proof

/-! ### Segments (Table 13.2) -/

/-- A segment-table entry; all zero beyond the table. -/
def segAt (s : State) (i : Nat) : Seg := s.mx.segs.toList.getD i {}
/-- `VALID`. -/
def segValid (g : Seg) : Bool := g.w0.getLsbD 63
/-- `SRC`: device DRAM. -/
def segDram (g : Seg) : Bool := g.w0.getLsbD 62
/-- `END`. -/
def segEnd (g : Seg) : Nat := fld g.w0.toNat 61 60
/-- `NEXT`. -/
def segNext (g : Seg) : Nat := fld g.w0.toNat 59 50
/-- `ADDR`. -/
def segAddr (g : Seg) : Nat := fld g.w0.toNat 40 0
/-- `LOOPS`. -/
def segLoops (g : Seg) : Nat := fld g.w1.toNat 63 32
/-- `LEN` in granules. -/
def segLen (g : Seg) : Nat := fld g.w1.toNat 23 0

/-- One channel changed. -/
def updCh (i : Chan) (f : MxCh → MxCh) (s : State) : State := { s with mx := { s.mx with ch := vupd s.mx.ch i f } }

/-- A playing channel enters `NEXT` after the segment that it plays (R325, R328): the passes are counted, the end does not hold, and
no latched jump leaves the segment before its last pass has ended. -/
def entersNext (s : State) (c : MxCh) : Bool :=
  let g := segAt s c.seg
  segLoops g != 0 && segEnd g == 0 && c.pend.isNone
    && (match c.next with
      | none => true
      | some (_, due) => !due && decide (segLoops g ≤ c.pass + 1))

/-- The segments that a channel plays, has latched as a jump target, or will enter by `NEXT` (R328). A request that waits or is held is
not latched. -/
def segsOf (s : State) (c : MxCh) : List Nat :=
  let now := if c.state = .playing then c.seg :: (if entersNext s c then [segNext (segAt s c.seg)] else []) else []
  now ++ c.pend.toList ++ (c.next.map Prod.fst).toList ++ (c.imm.map fun x => x.2.1).toList

/-- Every segment in use (R328). -/
def segsUsed (s : State) : List Nat := s.mx.ch.toList.flatMap (segsOf s)

/-! ### Requests -/

/-- The update that comes next is computed at or after the present while no channel needs the ones before (R321). -/
def mxSync (s : State) : State :=
  if s.mx.ch.toList.any fun c => mxActive c.state || c.stopReq.isSome || !c.inbox.isEmpty then s
  else { s with mx := { s.mx with nextK := max s.mx.nextK ((ext s + 32767) / 32768) } }

/-- A jump ignored (R331, R336): the flag and event 0x0C01. -/
def jumpIgnored (i : Chan) (seg src : Nat) (s : State) : State :=
  issue 0x0C01 [i1 i.val, i2 seg, i1 src] { s with mx := { s.mx with jumpIgn := true, fresh := freshen s 1 s.mx.fresh } }

/-- The rank of a source within one fabric cycle (Table 13.3): `MXJ` over trigger and `EVT_IN`, these over the host. -/
def srcRank (src : Nat) : Nat := if src = 0 then 0 else if src ≤ 2 then 1 else 2

/-- A request enters the inbox; of two in one fabric cycle the lower in rank is discarded (Table 13.3). -/
def inboxAdd (c : Int) (src seg : Nat) (imm : Bool) (l : List (Int × Nat × Nat × Bool)) : List (Int × Nat × Nat × Bool) :=
  match l.find? (fun x => x.1 / 8192 = c / 8192) with
  | some x => if srcRank src < srcRank x.2.1 then l.filter (fun y => y != x) ++ [(c, src, seg, imm)] else l
  | none => l ++ [(c, src, seg, imm)]

/-- A jump request reaches a channel in a fabric cycle (R331): source 0 `MXJ`, 1 trigger, 2 `EVT_IN`, 3 host. -/
def mxRequest (i : Chan) (src seg : Nat) (imm : Bool) (cyc : Int) (s0 : State) : State :=
  let s := mxSync s0
  let c := s.mx.ch[i]
  if ¬ segValid (segAt s seg) ∨ c.en then jumpIgnored i seg src s
  else if c.state = .parked then s
  else updCh i (fun x => { x with inbox := inboxAdd cyc src seg imm x.inbox }) s

/-- The `MXJ` request of a carrier for a channel acts in the cycle of R207. -/
def mxjRequest (i : Chan) (s : State) : State :=
  match firstAct (fun a => a.reqs.mxj.any fun x => x.1 = i) s.sq.acts with
  | none => s
  | some a =>
    let s1 := takeAct a (fun r => { r with mxj := r.mxj.filter fun x => decide (x.1 ≠ i) }) (toEpoch a.due s)
    match a.reqs.mxj.find? (fun x => x.1 = i) with
    | some (_, seg, imm) => mxRequest i 0 seg imm (ceilTo 8192 a.due : Nat) s1
    | none => s1

/-- A trigger hit's or an `EVT_IN` edge's request arrives (R331) and names the channel's `TRIG_SEG` and `TRIG_MODE`: a hit's 16 to 24 ns
after its key, in the cycle that the row finds or at the latest 24 ns after; an edge's in the cycle in which it became visible. -/
def trigRequest (i : Chan) (evt : Bool) (s : State) : State :=
  match s.mx.reqs.find? (fun x => x.1 = i ∧ x.2.1 = evt) with
  | none => s
  | some x =>
    let s1 := toEpoch x.2.2.toNat s
    let s2 : State := { s1 with mx := { s1.mx with reqs := s1.mx.reqs.erase x } }
    let t := s2.mx.ch[i].trig.toNat
    let cyc := if evt then x.2.2 else min (ext s2) (x.2.2 + 65536)
    mxRequest i (if evt then 2 else 1) (fld t 9 0) (bitAt t 14) (cyc / 8192 * 8192) s2

/-- `MX_JUMP_REQUEST`. -/
def execMxJumpRequest (ch : Chan) (src : JumpSrc) (s : State) : Host.Outcome State Fault Refusal :=
  .next (match src with
    | .mxj => mxjRequest ch s
    | .trigger => trigRequest ch false s
    | .evtIn => trigRequest ch true s)

/-! ### Position -/

/-- A channel enters a segment at sample 0 (R330): its rate where that is not 0, else the rate in force. -/
def mxEnter (s : State) (seg : Nat) (c : MxCh) : MxCh :=
  let r := (segAt s seg).rate
  { c with state := .playing, seg := seg, pass := 0, pos := 0, decAt := none, rate := if r = 0 then c.rate else r }

/-- The jump latched for the end of the pass that plays (Table 13.3). -/
def dueJump (c : MxCh) : Option Nat := c.pend <|> ((c.next.filter fun x => x.2).map Prod.fst)

/-- The last sample of a pass has been played (R325, R332): the latched jump, the next pass, `NEXT`, or the hold at `END`; a
`NEXT` that is no longer `VALID` holds (log 15). A jump latched for the end of the pass that comes next starts where none comes. -/
def mxPassEnd (s : State) (c : MxCh) : MxCh :=
  let g := segAt s c.seg
  match dueJump c with
  | some t => mxEnter s t { c with pend := none, next := none }
  | none =>
    let c1 := { c with next := c.next.map fun x => (x.1, true) }
    if segLoops g = 0 ∨ c.pass + 1 < segLoops g then { c1 with pos := 0, pass := satSucc 0xFFFFFFFF c.pass, decAt := none }
    else if segEnd g = 0 ∧ segValid (segAt s (segNext g)) then mxEnter s (segNext g) c1
    else match c.next with
      | some x => mxEnter s x.1 { c with next := none }
      | none => { c with state := .holding, pass := satSucc 0xFFFFFFFF c.pass, decAt := none }

/-- One sample further (R329, R330); a granule that is left frees its place in the read buffer (R327). -/
def mxNext (s : State) (c : MxCh) : MxCh :=
  if c.state ≠ .playing then c
  else
    let g := segAt s c.seg
    let a := segAddr g + c.pos / 16 * 64
    let c1 := if c.pos % 16 = 15 then { c with buf := c.buf.filter fun x => x.1 != a } else c
    if c.pos + 1 < 16 * segLen g then { c1 with pos := c.pos + 1 } else mxPassEnd s c1

/-- Some samples further. -/
def mxAdvance (s : State) : Nat → MxCh → MxCh
  | 0, c => c
  | n + 1, c => mxAdvance s n (mxNext s c)

/-- The sample at a channel's position (R324): from the larder, or from the read buffer that R327 never leaves empty. -/
def mxSample (s : State) (c : MxCh) : BitVec 18 :=
  let g := segAt s c.seg
  let o := 4 * c.pos
  let word : Nat :=
    if segDram g then
      (match c.buf.find? (fun x => x.1 = segAddr g + o / 64 * 64) with
        | some x => fieldAt x.2 (o % 64) 4
        | none => leNat (dramRead s (segAddr g + o) 4))
    else leNat (memRead 0 s.mx.larder (64 * segAddr g + o) 4)
  BitVec.ofNat 18 word

/-- The next samples of the stream, as it stands. -/
def mxAhead (s : State) : Nat → MxCh → List Nat
  | 0, _ => []
  | n + 1, c => (mxSample s (mxNext s c)).toNat :: mxAhead s n (mxNext s c)

/-- The grid count G(k) (R329). -/
def gridCount (k : Int) (rate : W64) : Int := k * (rate.toNat : Int) / 2 ^ 32

/-- The interpolation phase at update k (R329). -/
def mxPhase (k : Nat) (rate : W64) : Nat := k * rate.toNat % 2 ^ 32 / 2 ^ 22

/-- The value of the stream at an update (R329): the sample itself at phase 0, else the filter over 16 samples. -/
def mxValue (s : State) (k : Nat) (c : MxCh) : Int :=
  let ph := mxPhase k c.rate
  if ph = 0 then ((mxSample s c).toNat : Int)
  else Config.interp ph (((c.hist.take 8).reverse.map fun x => x.toNat) ++ mxAhead s 8 c)

/-! ### The update -/

/-- The code of an update on its way to the land (R321): it arrives 24 ns after the update; eight are on the way at most. -/
def pushOut (now : Nat) (code : BitVec 18) (c : MxCh) : MxCh :=
  { c with
    code := code, outs := ((now + 196608, code) :: c.outs).take 8
    base := match c.outs.drop 7 with
      | [] => if c.outs.isEmpty then c.code else c.base
      | x :: _ => x.2 }

/-- The code that a channel's land stands at (R321). -/
def mxLand (s : State) (c : MxCh) : BitVec 18 :=
  match c.outs.find? (fun x => decide (x.1 ≤ s.tb.now)) with
  | some x => x.2
  | none => if c.outs.isEmpty then c.code else c.base

/-- The code goes out within the clamp (R322): the first limited one since the start sets the flag and issues 0x0C03. -/
def mxOut (i : Chan) (v : Int) (s : State) : State :=
  let c := s.mx.ch[i]
  let lo : Int := c.clampLo.toNat
  let hi : Int := c.clampHi.toNat
  let w := if v < lo then lo else if hi < v then hi else v
  let s1 := updCh i (fun x => { pushOut s.tb.now (BitVec.ofNat 18 w.toNat) x with clamped := x.clamped || decide (w ≠ v) }) s
  if w = v ∨ c.clamped then s1
  else issue 0x0C03 [i1 i.val, i4 (unsgn 32 v)] { s1 with mx := { s1.mx with
    clamped := true, fresh := freshen s1 2 s1.mx.fresh } }

/-- A segment starts or is jumped to at this update: sample 0, with the filter's history filled with it (Table 13.3; for a start
log 16). After a dead time the code is the target's sample 0 itself; at a start it is the stream's value (R329). -/
def mxSample0 (i : Chan) (seg k : Nat) (s : State) : State :=
  let dead := s.mx.ch[i].state == .dead
  let s1 := updCh i (fun c => mxEnter s seg { c with pend := none, next := none, imm := none, fresh := false }) s
  let v := mxSample s1 s1.mx.ch[i]
  let s2 := updCh i (fun c => { c with hist := List.replicate 8 v }) s1
  mxOut i (if dead then (v.toNat : Int) else mxValue s2 k s2.mx.ch[i]) s2

/-- A stopped channel starts by a jump (R334): at `RATE0` unless the segment has a rate; event 0x0C04. -/
def mxJumpStart (i : Chan) (seg : Nat) (s : State) : State :=
  issue 0x0C04 [i1 i.val, i2 seg, i1 1] (updCh i (fun c => { c with clamped := false, rate := c.rate0 }) s)

/-- No pass comes after the present one (Table 13.3): the last pass of a segment that holds at its end. -/
def lastPass (s : State) (c : MxCh) : Bool :=
  let g := segAt s c.seg
  c.pend.isNone && segLoops g != 0 && decide (segLoops g ≤ c.pass + 1)
    && !(segEnd g == 0 && segValid (segAt s (segNext g)))

/-- An end-aligned request to a playing channel (Table 13.3): up to the decision update it waits or is latched for this pass; after it
the first is latched for the end of the pass that comes next; while one is latched it is held. -/
def mxAligned (s : State) (at_ : Int) (seg : Nat) (c : MxCh) : MxCh :=
  if c.decAt.isNone ∨ c.next.isSome then { c with cand := some seg }
  else if c.decAt.any fun d => decide (at_ ≤ d) then { c with pend := some seg }
  else if c.pend.isSome then { c with cand := some seg }
  else if lastPass s c then { c with imm := some (0, seg, false) }
  else { c with next := some (seg, false) }

/-- A request of the inbox takes effect at an update (R332, Table 13.3); a target that starts at this update is put into `imm`
with no dead time left. -/
def mxTake (s : State) (c : MxCh) (r : Int × Nat × Nat × Bool) : MxCh :=
  let seg := r.2.2.1
  let still := c.state == .stopped
  if r.2.2.2 then
    let was : Bool := match c.imm with
      | some x => x.2.2
      | none => still
    { c with state := .dead, imm := some (16, seg, was), pend := none, cand := none, next := none, fresh := false }
  else match c.state with
    | .playing => mxAligned s r.1 seg c
    | .dead => { c with cand := some seg }
    | .stopped => { c with imm := some (0, seg, true) }
    | .holding => { c with imm := some (0, seg, false) }
    | _ => c

/-- A request put in its place by time. -/
def insertReq (r : Int × Nat × Nat × Bool) : List (Int × Nat × Nat × Bool) → List (Int × Nat × Nat × Bool)
  | [] => [r]
  | x :: l => if r.1 < x.1 then r :: x :: l else x :: insertReq r l

/-- Every request whose cycle lies before an instant takes effect, in order of arrival. -/
def mxInbox (s : State) (e : Nat) (c : MxCh) : MxCh :=
  let due := (c.inbox.filter fun r => decide (r.1 < (e : Int))).foldl (fun l r => insertReq r l) []
  due.foldl (mxTake s) { c with inbox := c.inbox.filter fun r => !decide (r.1 < (e : Int)) }

/-- The decision update of a pass (R331, R332): the first that stands in the pass's last granule latches the waiting request, but for
one that is held while a jump is latched. -/
def mxDecide (s : State) (e : Nat) (c : MxCh) : MxCh :=
  if c.state = .playing ∧ c.decAt.isNone ∧ 16 * segLen (segAt s c.seg) - 16 ≤ c.pos then
    if c.next.isSome then { c with decAt := some (e : Int) } else { c with decAt := some (e : Int), pend := c.cand, cand := none }
  else c

/-- The samples by which the stream advances at update k (R329). -/
def mxGrid (k : Nat) (c : MxCh) : Nat :=
  if c.fresh then 0 else (gridCount k c.rate - gridCount ((k : Int) - 1) c.rate).toNat

/-- A channel plays one update (R329): it advances on the grid, and the value goes out. -/
def mxPlay (i : Chan) (k : Nat) (s : State) : State :=
  let c := s.mx.ch[i]
  let adv := mxGrid k c
  let c1 := mxAdvance s adv c
  let v := mxSample s c1
  let hist := if c.fresh then List.replicate 8 v else if adv = 0 then c.hist else (v :: c.hist).take 16
  let c2 := mxDecide s (32768 * k) { c1 with hist := hist, fresh := false }
  let s1 := updCh i (fun _ => c2) s
  mxOut i (if c2.state = .playing then mxValue s1 k c2 else (v.toNat : Int)) s1

/-- A channel in a dead time (Table 13.3): it holds, then starts its target. -/
def mxDead (i : Chan) (k : Nat) (s : State) : State :=
  match s.mx.ch[i].imm with
  | none => s
  | some (0, seg, was) => mxSample0 i seg k (if was then mxJumpStart i seg s else s)
  | some (n + 1, seg, was) => updCh i (fun c => { c with imm := some (n, seg, was) }) s

/-! ### Sine mode -/

/-- Fixed-point terms of the sine series: `x` in units of 2^−96, summed with alternating signs. -/
def sinTerms : Nat → Nat → Nat → Int → Int → Int
  | 0, _, _, _, acc => acc
  | n + 1, x, k, term, acc =>
    let t := term * x / 2 ^ 96 * x / 2 ^ 96 / (2 * k * (2 * k + 1) : Nat)
    sinTerms n x (k + 1) t (if k % 2 = 1 then acc - t else acc + t)

/-- round(131071 sin(π i / 2048)) for i up to 1024 (R336); the constant is π in units of 2^−96. -/
def sinQuarter (i : Nat) : Nat :=
  let x := 248902613312231085230521944622 * i / 2048
  ((2 * 131071 * sinTerms 13 x 1 x x + 2 ^ 96) / 2 ^ 97).toNat

/-- The fixed table of R336. -/
def sinTable (a : Nat) : Int :=
  let r := a % 1024
  match a / 1024 % 4 with
  | 0 => (sinQuarter r : Int)
  | 1 => (sinQuarter (1024 - r) : Int)
  | 2 => -(sinQuarter r : Int)
  | _ => -(sinQuarter (1024 - r) : Int)

/-- The code of the sine mode before the clamp (R336). -/
def sineCode (c : MxCh) : Int :=
  let v := (c.dc.toNat : Int) + (c.ampl.toNat : Int) * sinTable ((c.acc + c.poff).toNat / 2 ^ 36) / 131072
  if v < 0 then 0 else if 0x3FFFF < v then 0x3FFFF else v

/-- A channel in sine mode at an update (R336): the first update after the start finds the accumulator at 0. -/
def mxSine (i : Chan) (s : State) : State :=
  let s1 := updCh i (fun c => { c with acc := if c.fresh then 0 else c.acc + c.ftw, fresh := false }) s
  mxOut i (sineCode s1.mx.ch[i]) s1

/-! ### One update of one channel -/

/-- A channel stopped (R334): it holds its last code. -/
def mxStopped (c : MxCh) : MxCh :=
  { c with
    state := .stopped, pend := none, cand := none, next := none, decAt := none, imm := none, fresh := false
    stopReq := none, inbox := [] }

/-- `MX_STOP` acts at the first update after it (R334), in sine mode too, where `EN` stays as written; a parked channel is not moved by it
(log 38). -/
def mxStopAct (i : Chan) (s : State) : State :=
  let c := s.mx.ch[i]
  match c.stopReq with
  | none => s
  | some toPark =>
    if c.state = .parked then updCh i (fun x => { x with stopReq := none }) s
    else
      let s1 := if mxActive c.state then issue 0x0C05 [i1 i.val, i1 0] s else s
      updCh i (fun x => if toPark then pushOut s.tb.now x.park (mxStopped x) else mxStopped x) s1

/-- A channel that a read error moves to its park code and stops (R327, R333): cause 3, fault. -/
def mxFault (i : Chan) (s : State) : State :=
  issue 0x0C05 [i1 i.val, i1 3] (updCh i (fun c => { mxStopped c with code := c.park, outs := [] }) s)

/-- The position from which a channel reads at update k, once its requests have taken effect: the start of a target, or the grid's advance;
none where it reads no segment. -/
def mxReadsAt (s : State) (k : Nat) (c : MxCh) : Option MxCh :=
  match c.imm with
  | some (0, seg, _) => some (mxEnter s seg { c with pend := none, next := none, imm := none })
  | some _ => none
  | none => if c.state = .playing then some (mxAdvance s (mxGrid k c) c) else none

/-- The larder granules of a position and of the samples that follow it. -/
def larderAhead (s : State) : Nat → MxCh → List Nat
  | 0, _ => []
  | n + 1, c =>
    let g := segAt s c.seg
    (if segDram g then [] else [segAddr g + c.pos / 16]) ++ larderAhead s n (mxNext s c)

/-- The larder granules that a channel reads at update k (R324, R329): its sample and the eight that the filter looks ahead to. -/
def larderReads (s : State) (k : Nat) (c : MxCh) : List Nat :=
  match mxReadsAt s k c with
  | some c1 => larderAhead s 9 c1
  | none => []

/-- The larder read that comes out uncorrectable at this update is one of this channel's. -/
def larderHit (ue : Option (Chan × Nat)) (i : Chan) (k : Nat) (s : State) : Option Nat :=
  (ue.filter fun x => x.1 == i && (larderReads s k s.mx.ch[i]).contains x.2).map Prod.snd

/-- An uncorrectable larder read (R327): event 0x0C06 names the granule; the channel goes to its park code and stops. -/
def larderFault (i : Chan) (granule : Nat) (s : State) : State :=
  mxFault i (issue 0x0C06 [i1 i.val, i2 granule] { s with mx := { s.mx with
    larderUe := true, fresh := freshen s 8 s.mx.fresh } })

/-- One channel at update k (R321, R327, R332); `ue` names a channel and a larder granule whose read comes out uncorrectable. -/
def mxUpdateCh (k : Nat) (ue : Option (Chan × Nat)) (s0 : State) (i : Chan) : State :=
  let s1 := mxStopAct i s0
  let s := updCh i (mxInbox s1 (32768 * k)) s1
  let c := s.mx.ch[i]
  match larderHit ue i k s with
  | some g => larderFault i g s
  | none =>
    if c.imm.isSome then mxDead i k s
    else match c.state with
      | .playing => mxPlay i k s
      | .sine => mxSine i s
      | _ => s

/-- `MX_UPDATE` (R321): the next update of every channel. -/
def mxUpdate (ue : Option (Chan × Nat)) (s0 : State) : State :=
  let s := mxSync s0
  if s.tb.fabSrc ≠ .edge then s
  else
    let k := s.mx.nextK
    let s1 := toEpoch (32768 * k) s
    (List.finRange 16).foldl (mxUpdateCh k ue) { s1 with mx := { s1.mx with nextK := k + 1 } }

/-- `MX_UPDATE`. -/
def execMxUpdate (larderUE : Option (Chan × Nat)) (s : State) : Host.Outcome State Fault Refusal := .next (mxUpdate larderUE s)

/-! ### DRAM segments -/

/-- A granule belongs to a DRAM segment that a channel needs. -/
def needsGranule (s : State) (c : MxCh) (a : Nat) : Bool :=
  (segsOf s c).any fun i =>
    let g := segAt s i
    segDram g && decide (segAddr g ≤ a ∧ a < segAddr g + 64 * segLen g)

/-- A granule's region has taken a write fault (R327). -/
def granuleFaulted (s : State) (a : Nat) : Bool :=
  match regionOf s a with
  | some (i, _) => s.pm.regfault.getLsbD i
  | none => false

/-- `MX_SEGMENT_READ` (R327): 64 bytes, read in a maintenance slot, into the channel's buffer of 16 KB, or the channel parks and stops.
-/
def segRead (i : Chan) (addr : Nat) (ecc : Ecc) (s : State) : State :=
  let a := addr / 64 * 64
  if ¬ needsGranule s s.mx.ch[i] a then s
  else
    let s1 := noteReadUe ecc a 1 (inSlot .maint 64 s)
    if ecc = .uncorrectable ∨ granuleFaulted s1 a then
      mxFault i (issue 0x0C02 [i1 i.val, i8 a] { s1 with mx := { s1.mx with
        fetchErr := true, fresh := freshen s1 4 s1.mx.fresh } })
    else
      updCh i (fun c => { c with buf := ((a, dramRead s1 a 64) :: c.buf.filter fun x => x.1 != a).take 256 }) s1

/-- `MX_SEGMENT_READ`. -/
def execMxSegmentRead (ch : Chan) (addr : Nat) (ecc : Ecc) (s : State) : Host.Outcome State Fault Refusal :=
  .next (segRead ch addr ecc s)

/-! ### Sine blocks -/

/-- The 32 register bytes of a sine block (Table 13.4), the halves written last where they wait for their upper half. -/
def sineBytes (c : MxCh) : List Byte :=
  leBytes 4 (b2n c.en) ++ zeros 4 ++ leBytes 4 c.ftwLo.toNat ++ leBytes 4 (fld c.ftw.toNat 47 32) ++ leBytes 4 c.poffLo.toNat
    ++ leBytes 4 (fld c.poff.toNat 47 32) ++ leBytes 4 c.ampl.toNat ++ leBytes 4 c.dc.toNat

/-- A list with the enabled bytes of a write from an offset laid over it. -/
def overlay (l : List Byte) (o : Nat) (b : List (Option Byte)) : List Byte :=
  List.zipWith (fun i c => (wByte o b i).getD c) (List.range l.length) l

/-- A write covers a byte of a range. -/
def covers (o n lo hi : Nat) : Bool := decide (o < hi ∧ lo < o + n)

/-- The fields of a sine block after a write (R335). -/
def sineFields (o : Nat) (b : List (Option Byte)) (c : MxCh) : MxCh :=
  let l := overlay (sineBytes c) o b
  { c with
    ftwLo := BitVec.ofNat 32 (fieldAt l 8 4), poffLo := BitVec.ofNat 32 (fieldAt l 16 4)
    ftw := if wHits o b 12 4 then BitVec.ofNat 48 (fieldAt l 8 8) else c.ftw
    poff := if wHits o b 20 4 then BitVec.ofNat 48 (fieldAt l 16 8) else c.poff
    ampl := BitVec.ofNat 18 (fieldAt l 24 4), dc := BitVec.ofNat 18 (fieldAt l 28 4) }

/-- `EN` written 0 to 1 (R336): playback stops, the accumulator starts at 0. -/
def sineOn (c : MxCh) : MxCh :=
  { mxStopped c with state := .sine, en := true, acc := 0, fresh := true, clamped := false }

/-- A write of a sine block (R335, R336); the park state keeps `EN` clear. -/
def sineWrite (i : Chan) (o : Nat) (b : List (Option Byte)) (s : State) : State :=
  let c := s.mx.ch[i]
  let s1 := updCh i (sineFields o b) (mxSync s)
  let en := bitAt (fieldAt (overlay (sineBytes c) o b) 0 1) 0
  if en = c.en ∨ c.state = .parked then s1
  else
    let s2 := if mxActive c.state then issue 0x0C05 [i1 i.val, i1 0] s1 else s1
    if en then updCh i sineOn s2 else updCh i (fun x => { mxStopped x with en := false }) s2

/-- A BAR0 write that reaches a sine block (R335): offsets 0x1000 to 0x13FF; bytes 0x20 to 0x3F of a block are reserved. -/
def sineAt (off : Nat) (bytes : List (Option Byte)) (s : State) : State :=
  if 0x1000 ≤ off ∧ off < 0x1400 ∧ off % 64 < 32 then
    sineWrite (Fin.ofNat 16 ((off - 0x1000) / 64)) (off % 64) (bytes.take (32 - off % 64)) s
  else s

/-- `SINE_BLOCK_WRITE`. -/
def execSineBlockWrite (off : Nat) (bytes : List (Option Byte)) (s : State) : Host.Outcome State Fault Refusal :=
  .next (if frontWrite s = some { bar4 := false, off := off, bytes := bytes } ∧ 0x1000 ≤ off ∧ off < 0x1400 then
      sineAt off bytes (popWrite off bytes.length s)
    else s)

/-! ### Commands -/

/-- A channel stands stopped or parked (Table 13.6). -/
def atRest (c : MxCh) : Bool := c.state == .stopped || c.state == .parked

/-- A configuration record is well formed (Table 13.1). -/
def mxRecOk (i : Chan) (r : List Byte) : Bool :=
  let lo := fieldAt r 0 4
  let hi := fieldAt r 4 4
  let src := fieldAt r 16 4
  let kind := fld src 31 30
  decide (lo < 2 ^ 18 ∧ hi < 2 ^ 18 ∧ lo ≤ hi ∧ fieldAt r 8 4 < 2 ^ 18 ∧ fieldAt r 12 1 ≤ 1 ∧ fieldAt r 13 1 ≤ 15)
    && decide (i.val < 8 ∨ fieldAt r 13 1 = 0) && decide (fld (fieldAt r 14 2) 13 10 = 0 ∧ fld src 14 0 = 0 ∧ fieldAt r 20 4 = 0)
    && (if kind = 0 then decide (fld src 20 17 ≠ 0 ∧ fld src 16 15 = 0)
      else decide (kind = 1 ∧ fld src 29 21 = 0 ∧ fld src 20 17 = 0))

/-- A channel takes its record; in the park state the output follows the new `PARK` code. -/
def mxApply (r : List Byte) (c : MxCh) : MxCh :=
  let park := BitVec.ofNat 18 (fieldAt r 8 4)
  { c with
    clampLo := BitVec.ofNat 18 (fieldAt r 0 4), clampHi := BitVec.ofNat 18 (fieldAt r 4 4), park := park
    sense := fieldAt r 12 1 == 1, route := BitVec.ofNat 4 (fieldAt r 13 1), trig := BitVec.ofNat 16 (fieldAt r 14 2)
    trigSrc := BitVec.ofNat 32 (fieldAt r 16 4), rate0 := BitVec.ofNat 64 (fieldAt r 24 8)
    code := if c.state = .parked then park else c.code }

/-- The channels of a mask with their records. -/
def mxRecords (e : Exec) (mask : Nat) : List (Chan × List Byte) :=
  List.zipWith (fun i j => (i, slice e.ind (8 + 32 * j) 32)) (maskBits 16 mask) (List.range 16)

/-- `MX_CONFIG` (R337). -/
def mxConfigCmd (e : Exec) (s : State) : State :=
  let mask := payF e 0 2
  let recs := mxRecords e mask
  checked [
    (mask == 0 || !payZero e 2 6 || e.ind.length != 8 + 32 * recs.length, eInval), (recs.any (fun x => !mxRecOk x.1 x.2), eInval)
    , (recs.any (fun x => !atRest s.mx.ch[x.1]), eBusy)] e
    (fun t => answer e eOk [] (recs.foldl (fun u x => updCh x.1 (mxApply x.2) u) t)) s

/-- `MX_CONFIG`. -/
def execMxConfig (tag : W16) (s : State) : Host.Outcome State Fault Refusal := .next (runCmd 0x0C01 tag mxConfigCmd s)

/-- Entry `j` of an `MX_SEGTAB` payload. -/
def paySeg (e : Exec) (j : Nat) : Seg :=
  { w0 := BitVec.ofNat 64 (payF e (8 + 32 * j) 8), w1 := BitVec.ofNat 64 (payF e (16 + 32 * j) 8)
    rate := BitVec.ofNat 64 (payF e (24 + 32 * j) 8) }

/-- The segment table after an `MX_SEGTAB`. -/
def newSegs (e : Exec) (first n : Nat) (s : State) : Vector Seg 1024 :=
  vmapIdx (fun i g => if first ≤ i.val ∧ i.val < first + n then paySeg e (i.val - first) else g) s.mx.segs

/-- An entry breaks the `E_INVAL` rule of R326. -/
def segInval (t : Vector Seg 1024) (e : Exec) (j : Nat) : Bool :=
  let g := paySeg e j
  segValid g && (decide (fld g.w0.toNat 49 41 ≠ 0 ∨ fld g.w1.toNat 31 24 ≠ 0 ∨ 1 < segEnd g ∨ segLen g < 4)
    || !payZero e (32 + 32 * j) 8 || (g.rate != 0 && decide (g.rate.toNat < 0x431C ∨ 2 ^ 32 < g.rate.toNat))
    || (segEnd g == 0 && !segValid (t.toList.getD (segNext g) {})) || (segDram g && segAddr g % 64 != 0))

/-- An entry breaks the `E_RANGE` rule of R326. -/
def segRange (s : State) (e : Exec) (j : Nat) : Bool :=
  let g := paySeg e j
  segValid g && (if segDram g then !rangeIn s [1, 5] (segAddr g) (64 * segLen g) else decide (60928 < segAddr g + segLen g))

/-- `MX_SEGTAB` (R326, R328). -/
def mxSegtabCmd (e : Exec) (s : State) : State :=
  let first := payF e 0 2
  let n := payF e 2 2
  let t := newSegs e first n s
  let busy := (segsUsed s).any fun i => t.toList.getD i {} != segAt s i
  checked [
    (n == 0 || !payZero e 4 4 || e.ind.length != 8 + 32 * n, eInval), (decide (1024 < first + n), eRange)
    , ((List.range n).any (segInval t e), eInval), ((List.range n).any (segRange s e), eRange), (busy, eBusy)] e
    (fun u => answer e eOk [] { u with mx := { u.mx with segs := t } }) s

/-- `MX_SEGTAB`. -/
def execMxSegtab (tag : W16) (s : State) : Host.Outcome State Fault Refusal := .next (runCmd 0x0C02 tag mxSegtabCmd s)

/-- A larder range meets a segment in use (R328). -/
def larderBusy (s : State) (first n : Nat) : Bool :=
  (segsUsed s).any fun i =>
    let g := segAt s i
    !segDram g && decide (first < segAddr g + segLen g ∧ segAddr g < first + n)

/-- `MX_LOAD` (R328, R337, R395). -/
def mxLoadCmd (src : HostRead) (dr : DramFind) (e : Exec) (s0 : State) : State :=
  let a := payF e 0 8
  let host := payF e 8 1 == 1
  let first := payF e 12 4
  let n := payF e 16 4
  let s := objNote host dr a (if host then s0 else inSlot .maint (64 * n) s0)
  let failed := objFails host src dr || (!host && faultIn s a (64 * n))
  let early := [
    (decide (1 < payF e 8 1 ∨ n = 0) || !payZero e 9 3 || !payZero e 20 28, eInval), (decide (16384 < n), eLen)
    , (decide (60928 < first + n) || (!host && decide (0x1FFC000000 < a + 64 * n)), eRange), (larderBusy s0 first n, eBusy)]
  if early.any fun c => c.1 then checked early e id s0
  else checked [(failed, eMemerr)] e
    (fun t => answer e eOk [] { t with mx := { t.mx with
      larder := memWrite 0 t.mx.larder (64 * first) (objBytes t host src a (64 * n)) } }) s

/-- `MX_LOAD`. -/
def execMxLoad (tag : W16) (src : HostRead) (dr : DramFind) (s : State) : Host.Outcome State Fault Refusal :=
  .next (runCmd 0x0C03 tag (mxLoadCmd src dr) s)

/-- A channel starts by command (R334). -/
def mxStartCh (seg : Nat) (s : State) (i : Chan) : State :=
  issue 0x0C04 [i1 i.val, i2 seg, i1 0]
    (updCh i (fun c => mxEnter s seg { c with clamped := false, fresh := true, rate := c.rate0 }) s)

/-- `MX_START` (R334, R336, R337). -/
def mxStartCmd (e : Exec) (s : State) : State :=
  let l := maskBits 16 (payF e 0 2)
  let seg := payF e 2 2
  checked [
    (l.isEmpty || !payZero e 4 44 || !segValid (segAt s seg), eInval)
    , (l.any (fun i => s.mx.ch[i].state != .stopped || s.mx.ch[i].en), eState)] e
    (fun t => answer e eOk [] (l.foldl (mxStartCh seg) (mxSync t))) s

/-- `MX_START`. -/
def execMxStart (tag : W16) (s : State) : Host.Outcome State Fault Refusal := .next (runCmd 0x0C04 tag mxStartCmd s)

/-- `MX_JUMP` (R331, R337): the host's request, in the cycle in which the command executes. -/
def mxJumpCmd (e : Exec) (s : State) : State :=
  let l := maskBits 16 (payF e 0 2)
  let cyc : Int := (ext s : Int) / 8192 * 8192
  checked [(l.isEmpty || decide (1 < payF e 4 1) || !payZero e 5 43, eInval), (decide (1023 < payF e 2 2), eRange)] e
    (fun t => answer e eOk [] (l.foldl (fun u i => mxRequest i 3 (payF e 2 2) (payF e 4 1 == 1) cyc u) t)) s

/-- `MX_JUMP`. -/
def execMxJump (tag : W16) (s : State) : Host.Outcome State Fault Refusal := .next (runCmd 0x0C05 tag mxJumpCmd s)

/-- `MX_STOP` (R334, R337). -/
def mxStopCmd (e : Exec) (s : State) : State :=
  let l := maskBits 16 (payF e 0 2)
  checked [(l.isEmpty || decide (1 < payF e 2 1) || !payZero e 3 45, eInval)] e
    (fun t => answer e eOk []
      (l.foldl (fun u i => updCh i (fun c => { c with stopReq := some (payF e 2 1 == 1) }) u) (mxSync t))) s

/-- `MX_STOP`. -/
def execMxStop (tag : W16) (s : State) : Host.Outcome State Fault Refusal := .next (runCmd 0x0C06 tag mxStopCmd s)

/-! ### `EVT_IN` -/

/-- The margin channels that select a line (Table 13.1). -/
def evtChans (s : State) (line : Fin 4) : List Chan :=
  (List.finRange 16).filter fun i =>
    let x := s.mx.ch[i]
    x.trig.getLsbD 15 && decide (fld x.trigSrc.toNat 31 30 = 1 ∧ fld x.trigSrc.toNat 16 15 = line.val)

/-- A rising edge of a line (R53, R300, R331): recorded for the conditions, an event for the TIUs, a request for the channels. -/
def evtRise (line : Fin 4) (s : State) : State :=
  let t := recorded s
  let reqs := (evtChans s line).map fun i => (i, true, (ext s : Int))
  let epochs := if running s then s.ti.evtEpochs ++ [(line, t.toNat, ext s)] else s.ti.evtEpochs
  tiuFeed (selEvt line) t { s with ti := { s.ti with evtEpochs := epochs }, mx := { s.mx with reqs := s.mx.reqs ++ reqs } }

/-- `EVT_IN_EDGE`. -/
def execEvtInEdge (line : Fin 4) (rise : Bool) (s : State) : Host.Outcome State Fault Refusal :=
  let s1 : State := { s with ti := { s.ti with evtIn := vset s.ti.evtIn line rise } }
  .next (if s.ti.evtIn[line] = rise then s else if rise then evtRise line s1 else s1)

end Sys2Proof.Machine
end

