-- ==== Sys2Proof/Machine/Ensemble.lean ====
section
/-! DEFINITION. The rows of the ensemble (14): slots and bursts (R342, R352 to R354), forming and breaking (R349 to R351), run
control (R355 to R358), global conditions (R359, R360), time marks (R361), probes and discords (R348, R362 to R364). What other
members do reaches this device as these rows (log 30). -/

namespace Sys2Proof.Machine

open Sys2Proof

/-! ### Time -/

/-- Ensemble time nearest the present of a 64-bit epoch count (Table 14.2). -/
def nearTime (s : State) (t : Nat) : Int :=
  let now := ensTime s
  let base : Int := now / (2 ^ 64 : Nat) * (2 ^ 64 : Nat) + t
  if base + (2 ^ 63 : Nat) < now then base + (2 ^ 64 : Nat)
  else if now + (2 ^ 63 : Nat) < base ∧ (2 ^ 64 : Nat) ≤ base then base - (2 ^ 64 : Nat) else base

/-- Time moves on to the member's fabric cycle for an action time: the one with that epoch count, which begins at the ensemble time plus
A_m, so that it is the same cycle on every member (R42, R347; DEDUCED, log 39). -/
def toEns (t : Nat) (s : State) : State := toEpoch t s

/-! ### Ports and slots -/

/-- A port of the link changed. -/
def updPort (p : Port) (f : HPort → HPort) (s : State) : State := { s with en := { s.en with ports := vupd s.en.ports p f } }

/-- A port goes down (R364): event 0x0D06 (0 block lock, 1 bad slots, 2 retransmission), bursts received on it and not yet released are
lost (R51, Table 17.5); in a formed ensemble a discord. -/
def portDown (p : Port) (cause : Nat) (s : State) : State :=
  if s.en.ports[p].up then
    let s1 := updPort p (fun q => { q with up := false, training := false, unacked := [] }) s
    discord 3 p.val 2 (issue 0x0D06 [i1 p.val, i1 cause]
      { s1 with en := { s1.en with rx := s1.en.rx.filter fun x => x.1 != p } })
  else s

/-- A good data slot with a management message has come on a trained port (R354, R364): it breaks a run of bad slots, and it is counted
and acknowledged by its number. -/
def goodData (p : Port) (s : State) : State :=
  if s.en.ports[p].up then
    let n := s.en.ports[p].rxData + 1
    enTx p (.ack n) (updPort p (fun q => { q with badRun := 0, rxData := n }) s)
  else s

/-- `STYPE` of a control slot (Table 14.1). -/
def slotType (l : List Byte) : Nat := fieldAt l 0 1

/-- A control slot is good (R341, R342): both lanes carry the sync header of a control slot, its CRC holds and its type is not reserved. -/
def slotGood (c : CtlSlot) : Bool :=
  let l := c.bytes
  let t := slotType l
  c.sync0 == 2 && c.sync1 == 2 && decide (l.length = 32) && (crc32c (l.take 28) == BitVec.ofNat 32 (fieldAt l 28 4))
    && decide (t ≤ 3 ∨ 0x10 ≤ t ∧ t ≤ 0x17)

/-- A bad control slot (R353, R364): the second control slot in a row is a lost pair, the fourth slot in a row puts the port down. -/
def badSlot (p : Port) (s : State) : State :=
  let q := s.en.ports[p]
  let s1 := updPort p (fun x => { x with badRun := q.badRun + 1, badCtl := q.badCtl + 1 }) s
  let s2 := if 1 ≤ q.badCtl then discord 3 p.val 1 s1 else s1
  if 3 ≤ q.badRun then portDown p 1 s2 else s2

/-- The burst that a good slot carries (Table 14.2). -/
def slotBurst (l : List Byte) : Burst :=
  { stype := slotType l, origin := fieldAt l 4 1, aux := fieldAt l 6 2, atime := fieldAt l 8 8, payload := slice l 16 12 }

/-- A pair number ahead of the last accepted one by more than 1 (R353). -/
def gapAhead (last b : Nat) : Bool := let d := (b + 65536 - last) % 65536; decide (2 ≤ d ∧ d < 32768)

/-- The fixed hop latency (R345). -/
def hopLat : Nat := 196608

/-- When the pair of a slot that appears now is released (R345): 24 ns after its copy 0 began at the sender, whichever copy this is; the
raw latency D lies between the sender's transmitter and this receiver. -/
def releaseAt (p : Port) (copy : Nat) (s : State) : Nat := s.tb.now + hopLat - s.en.ports[p].d - copy * 66560

/-- A good control slot (R353): an idle tells of a lost pair, a burst is accepted, or is the duplicate of one. -/
def goodSlot (p : Port) (l : List Byte) (s : State) : State :=
  let s1 := updPort p (fun q => { q with badRun := 0, badCtl := 0 }) s
  let t := slotType l
  let last := s.en.ports[p].rxSeq
  let b := fieldAt l 2 2
  if t = 2 ∨ t = 3 then s1
  else if gapAhead last b then discord 3 p.val 0 s1
  else if 0x10 ≤ t ∧ b = (last + 1) % 65536 then
    let s2 := updPort p (fun q => { q with rxSeq := b }) s1
    { s2 with en := { s2.en with rx := s2.en.rx ++ [(p, slotBurst l, releaseAt p (fieldAt l 1 1 % 2) s)] } }
  else s1

/-- `HARGO_CONTROL_SLOT` (R341, R342, R353): a control slot appears at the deserializer of a trained port; one whose lanes carry different
sync headers is a bad one and counts as a control slot (log 39). -/
def execHargoControlSlot (port : Port) (slot : CtlSlot) (s : State) : Host.Outcome State Fault Refusal :=
  .next (if ¬ s.en.ports[port].up then s else if slotGood slot then goodSlot port slot.bytes s else badSlot port s)

/-- `LINK_BLOCK_LOCK_LOST` (R364). -/
def execLinkBlockLockLost (port : Port) (s : State) : Host.Outcome State Fault Refusal := .next (portDown port 0 s)

/-- 2 µs without an acknowledgement (R354): the unacknowledged data slots go again, from the first; eight retransmissions in a row that
failed put the port down. -/
def retransmit (p : Port) (s : State) : State :=
  let q := s.en.ports[p]
  if ¬ q.up ∨ q.unacked.isEmpty then s
  else
    let s0 := toTime (q.sentAt + 16384000) s
    let s1 := updPort p (fun x => { x with retries := x.retries + 1, sentAt := s0.tb.now }) s0
    if 8 ≤ q.retries then portDown p 2 s1 else q.unacked.foldl (fun t x => enTx p (.data x.1 x.2) t) s1

/-- `MGMT_RETRANSMIT_TIMEOUT`. -/
def execMgmtRetransmitTimeout (port : Port) (s : State) : Host.Outcome State Fault Refusal := .next (retransmit port s)

/-- A port once data slots are acknowledged up to a number (R354): the wait for the others begins anew; a good slot ends a run of bad ones
(R364). -/
def portAck (now upTo : Nat) (q : HPort) : HPort :=
  let l := q.unacked.filter fun x => decide (upTo < x.1)
  if l.length < q.unacked.length then { q with unacked := l, retries := 0, sentAt := now, badRun := 0 } else { q with badRun := 0 }

/-- `DATA_SLOT_ACKNOWLEDGEMENT` (R354). -/
def execDataSlotAcknowledgement (ack : SlotAck) (s : State) : Host.Outcome State Fault Refusal :=
  .next (updPort ack.port (portAck s.tb.now ack.upTo) s)

/-! ### Released bursts -/

/-- The first accepted burst of a type that is not yet released. -/
def firstBurst (t : Nat) (s : State) : Option (Port × Burst × Nat) := s.en.rx.find? fun x => x.2.1.stype = t

/-- A burst of a type is released at the fixed hop latency (R345, R353): it leaves the receive list, then acts. -/
def onBurst (t : Nat) (f : Port → Burst → State → State) (s : State) : State :=
  match firstBurst t s with
  | some x =>
    let u := toTime x.2.2 s
    f x.1 x.2.1 { u with en := { u.en with rx := u.en.rx.erase x } }
  | none => s

/-- A downstream burst with an action time (R353, R354): discarded, and so not forwarded, when that has passed (log 39); else forwarded,
and it acts. -/
def onDown (t : Nat) (f : Burst → Nat → State → State) (s : State) : State :=
  onBurst t (fun _ b u => if nearTime u b.atime < ensTime u then u else f b (nearTime u b.atime).toNat (burstDown b u)) s

/-- `ARM_BURST` (R356). -/
def execArmBurst (s : State) : Host.Outcome State Fault Refusal :=
  .next (onDown 0x13 (fun _ t u => { u with en := { u.en with armAt := some t } }) s)

/-- The arm takes effect at the `ATIME` of its burst (R356), in a state in which an `ARM` may (R29, R42): every member clears its
epoch. -/
def armAtTime (s : State) : State :=
  match s.en.armAt with
  | none => s
  | some t =>
    let s1 := toEns t s
    let s2 : State := { s1 with en := { s1.en with armAt := none, armAsked := none } }
    if running s2 ∨ s2.mg.contained ∨ armHeldOff s2 ∨ ¬ timeBaseReady s2 then s2 else armEffect true s2

/-- `ARM_BURST_ATIME`. -/
def execArmBurstAtime (s : State) : Host.Outcome State Fault Refusal := .next (armAtTime s)

/-- `GO_BURST` (R358). -/
def execGoBurst (s : State) : Host.Outcome State Fault Refusal :=
  .next (onDown 0x12 (fun _ t u => { u with en := { u.en with goAt := some t } }) s)

/-- Every member enters `RUNNING` with S_0 equal to the `ATIME` of the `GO` burst (R358). -/
def goAtTime (s : State) : State :=
  match s.en.goAt with
  | none => s
  | some t =>
    let s1 := toEns t s
    let s2 : State := { s1 with en := { s1.en with goAt := none } }
    if s2.sq.state = .armed then goAt t s2 else s2

/-- `GO_BURST_ATIME`. -/
def execGoBurstAtime (s : State) : Host.Outcome State Fault Refusal := .next (goAtTime s)

/-- A `HALT` burst (R355, R362): halt and abort act at `ATIME`, in `RUNNING` at the first boundary at or after it, a park at `ATIME`. -/
def haltAct (b : Burst) (t : Nat) (s : State) : State :=
  match b.aux % 4 with
  | 0 => haltNow t s
  | 1 => abortNow t s
  | 2 => { s with en := { s.en with parkAt := some (t, fieldAt b.payload 0 1, fieldAt b.payload 1 1) } }
  | _ => s

/-- `HALT_BURST`. -/
def execHaltBurst (s : State) : Host.Outcome State Fault Refusal := .next (onDown 0x14 haltAct s)

/-- The `ATIME` of a park (R362, R363): every member contains itself and records the discord. -/
def parkAtTime (s : State) : State :=
  match s.en.parkAt with
  | none => s
  | some (t, m, c) =>
    let s1 := toEns t s
    let s2 := contain 0x0B { s1 with en := { s1.en with parkAt := none } }
    if s2.en.state = .formed then recordDiscord c m 0 0 s2 else s2

/-- `HALT_BURST_PARK_ATIME`. -/
def execHaltBurstParkAtime (s : State) : Host.Outcome State Fault Refusal := .next (parkAtTime s)

/-- A `HALTREQ` (R355): forwarded up; the leader of a formed ensemble answers each with one `HALT` burst. -/
def haltreqAct (_ : Port) (b : Burst) (s : State) : State :=
  if s.en.leader then
    if formed s then haltEnsemble (if b.aux % 4 = 1 then 1 else 0) (fieldAt b.payload 0 1) s else s
  else burstUp b s

/-- `HALTREQ_BURST`. -/
def execHaltreqBurst (s : State) : Host.Outcome State Fault Refusal := .next (onBurst 0x16 haltreqAct s)

/-- A `DISCORD` (R362, R363): forwarded up; the leader records it and answers with a park. -/
def discordAct (_ : Port) (b : Burst) (s : State) : State :=
  let m := fieldAt b.payload 0 1
  let c := b.aux % 8
  if s.en.leader then
    if s.en.state = .formed then
      let s1 := burstDown (haltBurst 2 m c s) { s with en := { s.en with parkAt := some ((ensTime s + burstLead).toNat, m, c) } }
      recordDiscord c m (fieldAt b.payload 1 1) (fieldAt b.payload 2 1) s1
    else s
  else burstUp b s

/-- `DISCORD_BURST`. -/
def execDiscordBurst (s : State) : Host.Outcome State Fault Refusal := .next (onBurst 0x17 discordAct s)

/-! ### Global conditions -/

/-- The bytes of a contribution's or result's payload (Table 14.3). -/
def globPay (num sn : Nat) : List Byte := leBytes 4 num ++ leBytes 8 (sn % 2 ^ 64)

/-- The open global conditions with their subjects (R359, R360). -/
def globals (s : State) : List (Cond × Subj) :=
  (s.sp.open_.filter fun c => cSrc (condEnt s c.entry) = 6).flatMap fun c => if c.stay then c.reps.map fun r => (c, r) else [(c, c.subj)]

/-- The open global condition of an instance number and S_n (R249). -/
def globalOf (s : State) (num sn : Nat) : Option (Cond × Subj) :=
  (globals s).find? fun x => x.1.gserial == num && x.2.start % 2 ^ 64 == sn % 2 ^ 64

/-- A gathered contribution: number, S_n, `ATIME`, value, members covered, source (4 = own). -/
abbrev Contrib := Nat × Nat × Nat × Bool × Nat × Nat

/-- A gathered contribution belongs to an instance. -/
def ofPair (num sn : Nat) (x : Contrib) : Bool := x.1 == num && x.2.1 == sn % 2 ^ 64

/-- The sources whose values this member combines: itself and every trained downstream port (R359). -/
def globSources (s : State) : List Nat :=
  4 :: ((List.finRange 4).filter fun (p : Port) => decide (p ≠ 0) && s.en.ports[p].up).map fun p => p.val

/-- A member's values are complete (R359): the combination goes up, or from the leader down as the result. -/
def sendGlobal (entry : Nat) (l : List Contrib) (num sn atime : Nat) (s : State) : State :=
  let val := if cGop (condEnt s entry) then l.all fun x => x.2.2.2.1 else l.any fun x => x.2.2.2.1
  let covered := l.foldl (fun k x => k + x.2.2.2.2.1) 0
  let b (t aux : Nat) : Burst :=
    { stype := t, origin := s.en.member, aux := aux, atime := atime % 2 ^ 64, payload := globPay num sn }
  if s.en.leader then
    if covered = s.en.members then
      burstDown (b 0x11 (entry + b2n val * 256))
        { s with sp := { s.sp with gresults := s.sp.gresults ++ [(num, sn % 2 ^ 64, atime, val)] } }
    else s
  else burstUp (b 0x10 (entry + b2n val * 256 + (covered - 1) * 512)) s

/-- The value of every source is in (R359). -/
def tryGlobal (num sn : Nat) (s : State) : State :=
  let l := s.en.contribs.filter (ofPair num sn)
  match globalOf s num sn with
  | some (c, sub) =>
    if (globSources s).all fun k => l.any fun x => x.2.2.2.2.2 == k then
      sendGlobal c.entry l num sn (sub.start + cLat (condEnt s c.entry)) s
    else s
  | none => s

/-- A contribution is gathered. -/
def gather (x : Contrib) (s : State) : State := { s with en := { s.en with contribs := s.en.contribs ++ [x] } }

/-- The own value of an open global condition is not yet formed. -/
def ownMissing (s : State) (x : Cond × Subj) : Bool :=
  !(s.en.contribs.any fun y => ofPair x.1.gserial x.2.start y && y.2.2.2.2.2 == 4)

/-- The resolution time of the `LOCAL` entry for a subject (R237, R238, R359). -/
def localDue (s : State) (x : Cond × Subj) : Nat :=
  x.2.start + condLat s (condEnt s (cLocal (condEnt s x.1.entry)))

/-- The open global condition whose local value is formed next. -/
def nextLocal (s : State) : Option (Cond × Subj) :=
  ((globals s).filter (ownMissing s)).foldl (fun b x => match b with
    | none => some x
    | some y => if localDue s x < localDue s y then some x else b) none

/-- `LOCAL_ENTRY_RESOLUTION` (R359): the member forms its value in the resolution cycle of the `LOCAL` entry; contributions of
instances that are no longer open are let go (R360). -/
def localResolve (s0 : State) : State :=
  match (if formed s0 then nextLocal s0 else none) with
  | none => s0
  | some (c, sub) =>
    let s1 := toEns (ceilTo 8192 (localDue s0 (c, sub))) s0
    let e := condEnt s1 c.entry
    let lc : Cond := { c with entry := cLocal e }
    let v := localValue s1 (condEnt s1 (cLocal e)) sub
    let s2 := drawFree s1 lc sub
    let own : Contrib := (c.gserial, sub.start % 2 ^ 64, (sub.start + cLat e) % 2 ^ 64, v, 1, 4)
    let keep := s2.en.contribs.filter fun x => (globalOf s2 x.1 x.2.1).isSome
    tryGlobal c.gserial sub.start (gather own { s2 with en := { s2.en with contribs := keep } })

/-- `LOCAL_ENTRY_RESOLUTION`. -/
def execLocalEntryResolution (s : State) : Host.Outcome State Fault Refusal := .next (localResolve s)

/-- A `CONTRIB` (R354, R359, R360): ignored where its time has passed or no open condition matches. -/
def contribAct (p : Port) (b : Burst) (s : State) : State :=
  let num := fieldAt b.payload 0 4
  let sn := fieldAt b.payload 4 8
  if nearTime s b.atime < ensTime s ∨ (globalOf s num sn).isNone then s
  else tryGlobal num sn (gather (num, sn, b.atime, bitAt b.aux 8, fld b.aux 14 9 + 1, p.val) s)

/-- `CONTRIB_BURST`. -/
def execContribBurst (s : State) : Host.Outcome State Fault Refusal := .next (onBurst 0x10 contribAct s)

/-- A `RESULT` (R249, R354, R359): forwarded down, and held for its matching condition. -/
def resultAct (b : Burst) (t : Nat) (s : State) : State :=
  let num := fieldAt b.payload 0 4
  let sn := fieldAt b.payload 4 8
  if (globalOf s num sn).isNone then s
  else { s with sp := { s.sp with gresults := s.sp.gresults ++ [(num, sn, t, bitAt b.aux 8)] } }

/-- `RESULT_BURST`. -/
def execResultBurst (s : State) : Host.Outcome State Fault Refusal := .next (onDown 0x11 resultAct s)

/-! ### Time marks -/

/-- `TMARK_BURST` (R361): the mark is scheduled on this member. -/
def execTmarkBurst (s : State) : Host.Outcome State Fault Refusal :=
  .next (onDown 0x15 (fun b t u => { u with en := { u.en with events := u.en.events ++ [(b.aux % 256, t)] } }) s)

/-- The mark to send next: the earliest of all runs. -/
def nextMarkRun (l : List (Nat × Nat × Nat × Nat × Nat)) : Option (Nat × Nat × Nat × Nat × Nat) :=
  l.foldl (fun b x => match b with
    | none => some x
    | some y => if x.2.1 < y.2.1 then some x else b) none

/-- A run of marks after one of them. -/
def runAfter (x : Nat × Nat × Nat × Nat × Nat) : List (Nat × Nat × Nat × Nat × Nat) :=
  let (tag, t, left, per, ix) := x
  if left ≤ 1 then [] else [(tag, t + per, left - 1, per, ix + 1)]

/-- What a pair may wait from its request to its first slot (R345): one slot and one fabric cycle. -/
def burstSend : Nat := 74752

/-- `TMARK_SEND` (R361): the pair of the next mark leaves 144 ns or more before its time; the leader takes the mark as well. -/
def tmarkSend (s : State) : State :=
  match nextMarkRun s.en.tmarks with
  | none => s
  | some x =>
    let (tag, t, _, _, ix) := x
    let s1 := toEns ((t - burstLead - burstSend) / 8192 * 8192) s
    let b : Burst := { stype := 0x15, origin := 0, aux := tag, atime := t % 2 ^ 64, payload := leBytes 2 ix ++ zeros 10 }
    burstDown b { s1 with en := { s1.en with
      tmarks := s1.en.tmarks.flatMap fun y => if y = x then runAfter x else [y], events := s1.en.events ++ [(tag, t)] } }

/-- `TMARK_SEND`. -/
def execTmarkSend (s : State) : Host.Outcome State Fault Refusal := .next (tmarkSend s)

/-- The earliest scheduled mark. -/
def firstEvent (l : List (Nat × Nat)) : Option (Nat × Nat) :=
  l.foldl (fun b x => match b with
    | none => some x
    | some y => if x.2 < y.2 then some x else b) none

/-- `TIME_MARK_EVENT` (R300, R361): the TIUs that select the tag take the mark at exactly its time. -/
def execTimeMarkEvent (s : State) : Host.Outcome State Fault Refusal :=
  .next (match firstEvent s.en.events with
    | none => s
    | some x =>
      let s1 := toEns x.2 s
      tiuFeed (selMark x.1) x.2 { s1 with en := { s1.en with events := s1.en.events.erase x } })

/-! ### Probes -/

/-- A probe on one port, if the port is up. -/
def probeOn (s : State) (p : Port) : State := if s.en.ports[p].up then enTx p (.probe (ensTime s).toNat) s else s

/-- The next probes are due (R348): 2048 slots after the last. -/
def probeDue (s : State) : State :=
  match s.en.probeAt with
  | some t => toTime (t + 2048 * 66560) s
  | none => s

/-- `SYNC_PROBE_SEND` (R348): a probe on every trained downstream port; a member that is not aligned itself aligns no child (R346). -/
def execSyncProbeSend (s : State) : Host.Outcome State Fault Refusal :=
  .next (if s.en.state = .standalone ∨ ¬ s.en.aligned then s
    else
      let s1 := probeDue s
      [1, 2, 3].foldl probeOn { s1 with en := { s1.en with probeAt := some s1.tb.now } })

/-- Alignment at the first probe (R346), from its release time in extended time: epoch and wrap count equal the leader's, A_m is what is
left. -/
def alignTo (t : Nat) (s : State) : State :=
  let e := (t + 4096) / 8192 * 8192
  { s with
    tb := { s.tb with epoch := BitVec.ofNat 64 e, wraps := BitVec.ofNat 16 (min 0xFFFF (e / 2 ^ 64)) }
    en := { s.en with align := (t : Int) - e, aligned := true, deltas := [], probes := 0 } }

/-- The mean of the last differences, to nearest, halves up (R348). -/
def meanDelta (l : List Int) : Int := if l.isEmpty then 0 else (2 * l.foldl (· + ·) 0 + l.length) / (2 * l.length)

/-- A probe on an aligned member (R348): A_m follows by up to one tick, a larger difference is a discord. The 64-bit time of the probe
is taken in the wrap period nearest the present (R45, Table 14.1). -/
def track (time : Nat) (s : State) : State :=
  let l := ((nearTime s (time % 2 ^ 64) + hopLat - ensTime s) :: s.en.deltas).take 64
  let d := meanDelta l
  let a := s.en.align + d
  let s1 : State := { s with en := { s.en with deltas := l, probes := s.en.probes + 1 } }
  if 1 < d.natAbs ∨ a < -4096 ∨ 4095 < a then discord 1 0 0 s1
  else if d = 0 then s1
  else { s1 with en := { s1.en with align := a, adj := satSucc 0xFFFF s1.en.adj } }

/-- `SYNC_PROBE` (R346, R348): a probe of the parent is released; `time` is its sender time, extended by the sender's wrap count, which
alignment copies (R346; how it reaches the member, the probe's 64 bits do not show: log 39). -/
def execSyncProbe (time : Nat) (s : State) : Host.Outcome State Fault Refusal :=
  .next (if s.en.state = .standalone ∨ s.en.leader ∨ ¬ s.en.ports[(0 : Port)].up then s
    else if s.en.aligned then track time s else alignTo (time + hopLat) s)

/-- `REFCLK_COUNT_CHECK` (R364): after 4096 probe intervals, the count of the member's own `REFCLK`. -/
def execRefclkCountCheck (count : Nat) (s : State) : Host.Outcome State Fault Refusal :=
  .next (if s.en.state = .standalone ∨ s.en.leader ∨ s.en.probes < 4096 then s
    else
      let s1 : State := { s with en := { s.en with probes := s.en.probes - 4096 } }
      if count < 6815744 - 13 ∨ 6815744 + 13 < count then discord 2 0 0 s1 else s1)

/-! ### Forming and breaking -/

/-- The running Axras major version (Table 17.9). -/
def axrasMajor (s : State) : Nat := fld s.bt.fwVer.toNat 47 32

/-- The device is standalone again (R350, R351): the ensemble's registers are cleared. -/
def breakLocal (s : State) : State := { s with en := { tx := s.en.tx, rx := [] } }

/-- The executing `ENS_FORM` answers. -/
def formAnswer (status : Nat) (s : State) : State :=
  match s.en.formTag with
  | some t => runCmd 0x0D01 t (fun e u => answer e status [] u) { s with en := { s.en with formTag := none } }
  | none => s

/-- The ensemble is formed (R349): event 0x0D01, `ENS_FORM` completes, the registers of an earlier one are cleared. -/
def becomeFormed (m : Nat) (s : State) : State :=
  formAnswer eOk (issue 0x0D01 [i8 s.en.ensId.toNat, i1 m, i1 s.en.depth]
    { s with en := { s.en with state := .formed, members := m, discord := 0, mismatch := 0 } })

/-- `ENS_FORM` starts (R349): the ports train; the leader's `HL0` stays untrained (R339). -/
def startForm (e : Exec) (s : State) : State :=
  let m := payF e 0 1
  let en : EN := { tx := s.en.tx, state := .forming, member := m, members := payF e 1 1, leader := m == 0
                   ensId := BitVec.ofNat 64 (payF e 8 8), aligned := m == 0, formTag := some e.entry.tag
                   formAt := s.tb.now
                   ports := Vector.ofFn fun p => { training := decide (m ≠ 0 ∨ p ≠ 0) } }
  let s1 : State := { s with en := en }
  if m = 0 ∧ payF e 1 1 = 1 then becomeFormed 1 s1 else s1

/-- `ENS_FORM` (R349, R367). -/
def ensFormCmd (e : Exec) (s : State) : State :=
  let m := payF e 0 1
  let big := payF e 1 1
  if s.en.formTag = some e.entry.tag then s
  else checked [
    (decide (63 < m) || (if m = 0 then decide (big = 0 ∨ 64 < big) else big != 0) || !payZero e 2 6 || !payZero e 16 32, eInval)
    , (decide (s.mg.pstate ≠ 1) || s.en.state != .standalone, eState)] e (startForm e) s

/-- `ENS_FORM`. -/
def execEnsForm (tag : W16) (s : State) : Host.Outcome State Fault Refusal := .next (runCmd 0x0D01 tag ensFormCmd s)

/-- `PORT_TRAINING_DONE` (R344, R349): the port is up, or fails with event 0x0D05; with `HL0` up the member asks to join. -/
def trained (p : Port) (r : Training) (s : State) : State :=
  if s.en.state ≠ .forming ∨ ¬ s.en.ports[p].training then s
  else match r with
    | .noLock => issue 0x0D05 [i1 p.val, iAlt 1 0] (updPort p (fun q => { q with training := false }) s)
    | .measured d depth =>
      if 36864 < d then issue 0x0D05 [i1 p.val, iAlt 0 (d % 65536)] (updPort p (fun q => { q with training := false }) s)
      else
        let s1 := updPort p (fun q => { q with training := false, up := true, d := d }) s
        if p = 0 ∧ ¬ s.en.leader then
          let s2 : State := { s1 with en := { s1.en with depth := depth + 1 } }
          enMsg (.join s2.en.member s2.en.ensId (axrasMajor s2) (depth + 1) []) s2 0
        else s1

/-- `PORT_TRAINING_DONE`. -/
def execPortTrainingDone (port : Port) (result : Training) (s : State) : Host.Outcome State Fault Refusal :=
  .next (trained port result s)

/-- Why the leader refuses a join (Table 14.2a): the number of the case. -/
def joinCase (s : State) (member : Nat) (ensId : W64) (major : W16) (depth : Nat) : Option Nat :=
  if major.toNat ≠ axrasMajor s then some 0
  else if member = 0 ∨ s.en.joined.any fun x => x.1 = member then some 1
  else if 4 < depth then some 2
  else if ensId ≠ s.en.ensId then some 3
  else if s.en.members ≤ s.en.joined.length + 1 then some 4 else none

/-- The status of a refused member's `ENS_FORM` (Table 14.2a). -/
def joinStatus (c : Nat) : Nat := if c = 0 then eVersion else if c = 1 ∨ c = 3 then eState else eRange

/-- A join at the leader (R350): accepted, or refused with event 0x0D02. -/
def joinLeader (p : Port) (path : List Port) (member : Nat) (ensId : W64) (major : W16) (depth : Nat) (s : State) : State :=
  match joinCase s member ensId major depth with
  | some c => enMsg (.refuse member c path) (issue 0x0D02 [i1 member, i1 c] s) p
  | none => { s with en := { s.en with joined := s.en.joined ++ [(member, p.val)] } }

/-- A refusal on its way down (R350): the member to which its path leads leaves; another passes it on. A member of the same number that
has been accepted stays. -/
def joinRefused (member c : Nat) (path : List Port) (s : State) : State :=
  match path with
  | p :: rest => enMsg (.refuse member c rest) s p
  | [] =>
    if s.en.state = .forming ∧ ¬ s.en.leader then breakLocal (formAnswer (joinStatus c) (issue 0x0D02 [i1 member, i1 c] s)) else s

/-- `JOIN_MESSAGE` (R349, R350): a join on its way up, or its refusal on its way down. -/
def execJoinMessage (port : Port) (member : Nat) (ensId : W64) (major : W16) (depth : Nat) (way : JoinWay)
    (s : State) : Host.Outcome State Fault Refusal :=
  .next (if s.en.state = .standalone then s
    else
      let u := goodData port s
      match way.refusal with
      | some c => joinRefused member c.val way.path u
      | none =>
        if s.en.leader then (if s.en.state = .forming then joinLeader port way.path member ensId major depth u else u)
        else enMsg (.join member ensId major.toNat depth (port :: way.path)) u 0)

/-- The formed message (R349): it goes down the tree and forms each member that is aligned. The leader sends it when all M members have
joined and every one has been aligned, which its row says at the leader (log 39). -/
def formedAct (members : Nat) (s : State) : State :=
  if s.en.state ≠ .forming ∨ ¬ s.en.aligned then s
  else if s.en.leader then
    if s.en.joined.length + 1 = s.en.members then becomeFormed s.en.members (msgDown (.formed s.en.members) s) else s
  else becomeFormed members (msgDown (.formed members) s)

/-- `FORMED_MESSAGE`. -/
def execFormedMessage (members : Nat) (s : State) : Host.Outcome State Fault Refusal :=
  .next (formedAct members (if s.en.leader then s else goodData 0 s))

/-- The leader's bound of 250 ms expires (R350, Table 14.7): every member that has joined returns to standalone. -/
def formTimeout (s : State) : State :=
  let s1 := toTime (s.en.formAt + 2048000000000) s
  breakLocal (formAnswer eTimeout (msgDown .breakMsg s1))

/-- `ENS_FORM_TIMEOUT`. -/
def execEnsFormTimeout (s : State) : Host.Outcome State Fault Refusal :=
  .next (if s.en.state = .forming ∧ s.en.leader then formTimeout s else s)

/-- Event 0x0D07. -/
def broken (s : State) : State := issue 0x0D07 [i8 s.en.ensId.toNat] s

/-- `ENS_BREAK` (R351): on the leader of a formed ensemble when it started while idle (R29), on any member in the forming and discord states, where it breaks
itself only. -/
def ensBreakCmd (e : Exec) (s : State) : State :=
  checked [
    (!payZero e 0 48, eInval), (s.en.state == .standalone || (formed s && !s.en.leader), eState), (formed s && !e.idle, eBusy)] e
    (fun t =>
      let t1 := if formed t then msgDown .breakMsg t else t
      answer e eOk [] (breakLocal (formAnswer eState (broken t1)))) s

/-- `ENS_BREAK`. -/
def execEnsBreak (tag : W16) (s : State) : Host.Outcome State Fault Refusal := .next (runCmd 0x0D02 tag ensBreakCmd s)

/-- `BREAK_MESSAGE` (R351): the member returns to standalone; one that was forming completes its `ENS_FORM` with `E_TIMEOUT`. -/
def execBreakMessage (s : State) : Host.Outcome State Fault Refusal :=
  .next (if s.en.state = .standalone then s
    else
      let s1 := msgDown .breakMsg (goodData 0 s)
      breakLocal (if s.en.state = .forming then formAnswer eTimeout s1 else broken s1))

/-! ### Arm across the ensemble -/

/-- The device would refuse an `ARM` before any check (Table 8.3, R29, R415). -/
def armUnready (s : State) : Bool := running s || s.mg.contained || armHeldOff s

/-- `ARM_CHECK_REQUEST` (R356): the member checks, replies, and refuses idle-only commands from now on. -/
def execArmCheckRequest (s : State) : Host.Outcome State Fault Refusal :=
  .next (if ¬ formed s ∨ s.en.leader then s
    else
      let f := armFailures s
      let s1 := issueFailures f (msgDown .armCheck (goodData 0 s))
      enMsg (.armReply (ownReply (f.isEmpty && !armUnready s) s))
        { s1 with en := { s1.en with armAsked := some s1.tb.now } } 0)

/-- `ARM_CHECK_REPLY` (R356): passed up; with the last one the leader decides. -/
def armReplyAct (r : ArmReply) (s : State) : State :=
  if s.en.leader then
    if s.en.armWait then
      let s1 : State := { s with en := { s.en with replies := (s.en.replies.filter fun x => x.member != r.member) ++ [r] } }
      if (List.range s1.en.members).all fun m => m == 0 || s1.en.replies.any fun x => x.member == m then armDecide s1 else s1
    else s
  else if s.en.state = .standalone then s else enMsg (.armReply r) s 0

/-- `ARM_CHECK_REPLY`. -/
def execArmCheckReply (src : Sender) (pass : Bool) (digest : W64) (imageId : W64) (crc : ReplyCrc) (profile : Byte)
    (common : W32) (s : State) : Host.Outcome State Fault Refusal :=
  .next (armReplyAct { member := src.member.val, pass := pass, digest := digest, imageId := imageId, crc := crc.image
                       ptCrc := crc.table, profile := profile, common := common } (goodData src.port s))

/-- `ARM_CHECK_REPLY_TIMEOUT` (R356): 50 µs after the request the leader refuses for the members that have not replied. -/
def execArmCheckReplyTimeout (s : State) : Host.Outcome State Fault Refusal :=
  .next (if s.en.leader ∧ s.en.armWait then
      match s.en.armAsked with
      | some t => armDecide (toTime (t + 409600000) s)
      | none => s
    else s)

/-- `ARMED_REPORT` (R358): a member's fill is complete, or it reports `IDLE`. -/
def armedAct (m : Nat) (idle : Bool) (s : State) : State :=
  if ¬ s.en.leader then (if s.en.state = .standalone then s else enMsg (.armedReport m idle) s 0)
  else if idle then { s with en := { s.en with idleReports := s.en.idleReports ++ [m] } }
  else
    let s1 : State := { s with en := { s.en with armReports := s.en.armReports ++ [m] } }
    if s1.sq.state = .arming ∧ allArmed s1 then enterArmed s1 else s1

/-- `ARMED_REPORT`. -/
def execArmedReport (src : Sender) (idle : Bool) (s : State) : Host.Outcome State Fault Refusal :=
  .next (armedAct src.member.val idle (goodData src.port s))

/-! ### Commands -/

/-- `ENS_EXPECT` (R367): the expected digests of all members. -/
def ensExpectCmd (e : Exec) (s : State) : State :=
  let over_ := (List.range 64).any fun m => decide (s.en.members ≤ m) && payF e (8 * m) 8 != 0
  checked [(!(formed s && s.en.leader), eState), (over_, eInval)] e
    (fun t => answer e eOk [] { t with en := { t.en with
      expect := some (Vector.ofFn fun m => BitVec.ofNat 64 (payF e (8 * m.val) 8)) } }) s

/-- `ENS_EXPECT`. -/
def execEnsExpect (tag : W16) (s : State) : Host.Outcome State Fault Refusal := .next (runCmd 0x0D03 tag ensExpectCmd s)

/-- `ENS_TMARK` (R361, R367). -/
def ensTmarkCmd (e : Exec) (s : State) : State :=
  let count := payF e 2 2
  let per := payF e 16 8
  let t0 := nearTime s (payF e 8 8)
  checked [
    (payF e 1 1 != 0 || count == 0 || !payZero e 4 4 || (if count = 1 then per != 0 else decide (per < 8192000))
      || !payZero e 24 24, eInval)
    , (decide (t0 < (ext s : Int) + 2097152), eRange), (!(formed s && s.en.leader), eState)] e
    (fun t => answer e eOk [] { t with en := { t.en with tmarks := t.en.tmarks ++ [(payF e 0 1, t0.toNat, count, per, 0)] } }) s

/-- `ENS_TMARK`. -/
def execEnsTmark (tag : W16) (s : State) : Host.Outcome State Fault Refusal := .next (runCmd 0x0D04 tag ensTmarkCmd s)

end Sys2Proof.Machine
end

