-- ==== Sys2Proof/Machine/Flags.lean ====
section
/-! DEFINITION. The status registers as a read of BAR0 finds them (Table 15.2 and the register tables of each chapter), their image
for the status mirror and the diagnostic snapshot (R383, R470), and writes by access type: RW merge and RW1C clear (R9, Table 0.5). -/

namespace Sys2Proof.Machine

open Sys2Proof

/-! ### Status registers -/

/-- `DEV_FAMCAP` (Table 0.2). -/
def famcap : Nat := 0x000001FF03100440

/-- `TB_STAT` (Table 2.7). -/
def tbStat (s : State) : Nat :=
  let src := match s.tb.fabSrc with
    | .edge => 0
    | .safe => 1
    | .backup => 2
  pack [(bitsOf s.tb.lockLost, 16), (bitsOf s.tb.guardOpen, 12), (bitsOf s.tb.lockDet, 8), bit s.tb.epochWrapped 7,
    bit s.tb.epochValid 6, (src, 4), bit s.tb.refclkLost 3, bit s.tb.refclkOk 2]

/-- `PF_STAT` (Table 5.8). -/
def pfStat (s : State) : Nat :=
  pack [(maskOf 8 fun b => bankMeets s.pf.vio[b] s.pf.bankMv[b], 8), bit s.pf.clamp 4, bit s.pf.ppmuClamp 3,
    bit s.mg.contained 2, bit s.pf.parked 1, bit s.pf.parkN 0]

/-- `PT_STAT` (Table 6.9). -/
def ptStat (s : State) : Nat :=
  pack [(s.pt.eccCe, 16), bit (s.pt.bound && s.pt.hostMem) 2, bit s.pt.stale 1, bit (roomHeld s) 0]

/-- `PM_STAT` (Table 7.9). -/
def pmStat (s : State) : Nat :=
  pack [bit s.pm.starved 7, bit (s.pm.wfault != 0) 6, bit s.pm.ueFlag 5, bit (s.pm.regions.toList.any fun r => r.typ == 6) 4,
    bit s.pm.starveAct 2, bit s.pm.profileB 0]

/-- The codes of Table 8.3. -/
def runCode (r : RunState) : Nat :=
  match r with
  | .idle => 0
  | .arming => 1
  | .armed => 2
  | .running => 3
  | .draining => 4

/-- `SQ_STAT` (Table 8.13). -/
def sqStat (s : State) : Nat :=
  pack [(s.sq.haltCode, 16), (s.sq.eccCe, 12), (s.sq.endCause, 9), bit s.sq.svcFault 8, bit s.sq.svcLost 7,
    bit (!s.sq.poison.isEmpty) 6, bit s.sq.overlaid 5, bit s.sq.loaded 4, (runCode s.sq.state, 0)]

/-- `HI_RUNSTAT` (Table 15.4a). -/
def runStat (s : State) : Nat :=
  pack [(s.hi.armSeq, 32), bit s.sq.goHeld 15, (s.sq.endCause, 9), bit (s.sq.pendAbort && s.sq.state == .running) 8,
    bit (s.sq.pendHalt && s.sq.state == .running) 7,
    (runCode s.sq.state, 0)]

/-- `SP_STAT` (Table 9.7). -/
def spStat (s : State) : Nat :=
  pack [(s.sp.cloakCe, 28), (horizon s, 16), (s.sp.open_.length, 8), bit s.sp.cloakUe 3, bit s.sp.stalled 2,
    bit s.sp.redirected 1, bit (s.sp.stallRun != 0) 0]

/-- `CL_STAT` (Table 10.8). -/
def clStat (s : State) : Nat :=
  pack [(s.cl.mode.toNat, 14), bit s.cl.fullAct 13, bit s.cl.wideSat 8, bit s.cl.pinSat 7, bit s.cl.sofHit 6, bit s.cl.rbErr 5,
    bit s.cl.nDone 4, bit s.cl.lost 3, bit s.cl.wrapped 2, bit s.cl.full 1, bit (!s.cl.front.isEmpty) 0]

/-- `CS_STAT` (Table 11.10). -/
def csStat (s : State) : Nat :=
  pack [bit s.cs.consErr 11, bit s.cs.stampOvf 10, bit s.cs.marksLost 9, bit s.cs.dropped 8, bit s.cs.stageUe 7,
    bit (!s.cs.staged.isEmpty) 6, bit (decide (ringFree s < 4096)) 5, bit s.cs.open_ 4]

/-- `TI_STAT` (Table 12.7). -/
def tiStat (s : State) : Nat := pack [bit s.ti.stateUe 3, bit s.ti.openIgn 2, bit s.ti.calErr 1, bit s.ti.ovr 0]

/-- `MX_STAT` (Table 13.7). -/
def mxStat (s : State) : Nat :=
  pack [(maskOf 16 fun i => s.mx.ch[i].en, 16), (maskOf 16 fun i => s.mx.ch[i].state == .playing || s.mx.ch[i].state == .dead, 0)]

/-- `MX_FLAGS` (Table 13.8). -/
def mxFlags (s : State) : Nat := pack [bit s.mx.larderUe 3, bit s.mx.fetchErr 2, bit s.mx.clamped 1, bit s.mx.jumpIgn 0]

/-- The codes of `MX_CHSTAT.STATE`. -/
def chCode (c : ChState) : Nat :=
  match c with
  | .stopped => 0
  | .playing => 1
  | .dead => 2
  | .holding => 3
  | .sine => 4
  | .parked => 5

/-- `MX_CHSTAT` of a channel (Table 13.9); `PSEG` names the latched jump before a held one (DEDUCED, log 18). -/
def mxChStat (c : MxCh) : Nat :=
  let p := c.pend <|> c.next.map Prod.fst <|> c.cand
  pack [(chCode c.state, 61), bit p.isSome 60, (c.seg, 50), (p.getD 0, 40), (min 0xFFFFFFFF c.pass, 0)]

/-- Every member has reported `IDLE` (R358). -/
def allIdle (s : State) : Bool :=
  s.en.leader && (s.en.state == .formed || s.en.state == .discord) && (List.range s.en.members).all fun m => s.en.idleReports.contains m

/-- `EN_STAT` (Table 14.8). `DEPTH` reads 0 at a forming member below depth 4, whose join the leader refuses (R350, log 39). -/
def enStat (s : State) : Nat :=
  let st := match s.en.state with
    | .standalone => 0
    | .forming => 1
    | .formed => 2
    | .discord => 3
  pack [(if 2 ≤ st then s.en.members else 0, 24), (s.en.member, 18), (maskOf 4 fun p => s.en.ports[p].up, 12), (if s.en.depth ≤ 4 then s.en.depth else 0, 9),
    bit s.en.leader 8, bit (allIdle s) 7, (st, 0)]

/-- `EN_ALIGN` (Table 14.10). -/
def enAlign (s : State) : Nat := pack [(min 0xFFFF s.en.adj, 16), (unsgn 16 s.en.align, 0)]

/-- The Axras core has work (R399). -/
def coreWork (s : State) : Bool :=
  !s.hi.exec.isEmpty || !s.hi.fetched.isEmpty || !s.hi.cpls.isEmpty || s.mg.queues.toList.any (fun q => !q.isEmpty)
    || !s.mg.toPersist.isEmpty || s.mg.fatal.isSome || s.mg.smbWork || s.mg.pwr.isSome || s.hi.dbLatch

/-- With no work left the core stops its PLL at once (R399). -/
def coreSettle (s : State) : State := if coreWork s then s else { s with mg := { s.mg with awake := false } }

/-- `MG_STAT` (Table 16.12). -/
def mgStat (s : State) : Nat :=
  pack [(pstate s, 20), bit (s.mg.pwr.isSome || s.hi.exec.any fun e => e.entry.opcode == 0x0F01#16) 19, bit s.mg.dbg 18, bit s.mg.fastStop 17, bit s.mg.double 16, bit s.mg.contained 15,
    bit s.mg.thermWarn 14, bit s.mg.railErr 13, bit s.mg.awake 12]

/-- `MG_TEMP` (Table 16.14). -/
def mgTemp (s : State) : Nat := pack [(s.mg.tstack.toNat, 16), (s.mg.tj.toNat, 0)]

/-- `MG_EVQ` (Table 16.16). -/
def mgEvq (s : State) : Nat :=
  pack [(s.mg.lost[(3 : Fin 4)], 48), (s.mg.lost[(2 : Fin 4)], 32), (s.mg.lost[(1 : Fin 4)], 16), (s.mg.lost[(0 : Fin 4)], 0)]

/-- `BT_STAT` (Table 17.8). -/
def btStat (s : State) : Nat :=
  pack [(s.bt.rollback, 24), (s.bt.cal, 10), bit s.bt.calFlash 9, bit s.bt.recovery 8, bit s.bt.trial 7, (s.bt.next, 6),
    (s.bt.runSlot, 5), bit s.bt.bOk 4, bit s.bt.aOk 3, bit s.bt.flashErr 2, bit s.bt.fwReady 1]

/-! ### BAR0 offsets 0x0000 to 0x0FFF as one snapshot (R383, R470) -/

/-- The registers of the host interface and time base: offset, size, value; WO registers read 0 and stand in no list. -/
def regsHi (s : State) : List (Nat × Nat × Nat) := [
  (0x0000, 8, famcap), (0x0018, 8, runStat s), (0x0020, 4, (errsum s).toNat), (0x0024, 4, s.hi.mask.toNat),
  (0x0028, 8, s.hi.refuse.toNat), (0x0030, 8, s.hi.cmdBase.toNat), (0x0038, 4, s.hi.cmdSize), (0x003C, 4, s.hi.cmdDb.toNat),
  (0x0040, 4, s.hi.cmdHead.toNat), (0x0044, 4, s.hi.cplSize), (0x0048, 8, s.hi.cplBase.toNat), (0x0050, 4, s.hi.cplTail.toNat),
  (0x0054, 4, s.hi.cplHead.toNat), (0x0058, 4, s.hi.cplIrq.toNat), (0x005C, 4, s.hi.barErrCnt), (0x0100, 4, tbStat s),
  (0x0108, 8, s.tb.epoch.toNat), (0x0110, 4, s.tb.wraps.toNat)]

/-- The registers of chapters 03 to 10. -/
def regsRun (s : State) : List (Nat × Nat × Nat) := [
  (0x0180, 4, s.tg.dropCnt), (0x0184, 4, s.tg.dropFirst.toNat), (0x0200, 4, pfStat s), (0x0280, 4, ptStat s),
  (0x0284, 4, if roomHeld s then s.pt.crc.toNat else 0), (0x0300, 4, pmStat s), (0x0304, 4, s.pm.starveCnt),
  (0x0308, 8, s.pm.starveFirst.toNat), (0x0310, 4, s.pm.wfault), (0x0314, 4, s.pm.regfault.toNat),
  (0x0318, 8, s.pm.wfaultAddr.toNat), (0x0320, 4, s.pm.eccCe * 2 ^ 16 + s.pm.eccUe), (0x0380, 4, sqStat s),
  (0x0388, 8, s.sq.vindex), (0x0390, 8, s.sq.fault.toNat), (0x0398, 8, s.sq.timeouts * 2 ^ 32 + s.sq.dstall),
  (0x03A0, 8, s.sq.imageId.toNat), (0x03A8, 8, s.sq.imgCrc.toNat * 2 ^ 32 + s.sq.words), (0x0400, 4, spStat s),
  (0x0408, 8, s.sp.mispred * 2 ^ 32 + s.sp.resolved), (0x0410, 8, s.sp.stall * 2 ^ 32 + s.sp.bubbles), (0x0480, 4, clStat s),
  (0x0488, 8, s.cl.prod), (0x0490, 8, s.cl.oldest), (0x0498, 8, s.cl.lostFull * 2 ^ 32 + s.cl.lostFront),
  (0x04A0, 8, s.cl.retired.toNat), (0x04A8, 8, s.cl.sofVec.toNat)]

/-- The registers of chapters 11 to 14. -/
def regsObs (s : State) : List (Nat × Nat × Nat) := [
  (0x0500, 4, csStat s), (0x0508, 8, s.cs.sent), (0x0510, 8, s.cs.dropMarks * 2 ^ 32 + s.cs.dropFrames),
  (0x0518, 8, s.cs.stagedPeak * 2 ^ 32 + s.cs.staged.length), (0x0520, 8, s.cs.prod), (0x0528, 8, s.cs.cons), (0x0580, 4, tiStat s),
  (0x0588, 8, maskOf 64 fun g => s.ti.units[g].gopen), (0x0590, 8, maskOf 64 fun g => s.ti.units[g].done), (0x0600, 4, mxStat s),
  (0x0604, 4, mxFlags s)] ++ ((List.finRange 16).map fun i => (0x0680 + 8 * i.val, 8, mxChStat s.mx.ch[i])) ++ [
  (0x0700, 4, enStat s), (0x0704, 4, enAlign s), (0x0708, 8, s.en.discord.toNat), (0x0710, 8, s.en.mismatch.toNat)]

/-- The registers of chapters 16 and 17. -/
def regsMg (s : State) : List (Nat × Nat × Nat) := [
  (0x0800, 4, mgStat s), (0x0808, 8, s.mg.contain.toNat), (0x0810, 4, mgTemp s), (0x0818, 8, rtc s), (0x0820, 8, mgEvq s),
  (0x0828, 4, s.mg.ctrl.toNat), (0x0C00, 4, btStat s), (0x0C08, 8, s.bt.fwVer.toNat), (0x0C10, 8, s.bt.serialReg.toNat)]

/-- Every register of BAR0 offsets 0x0000 to 0x0FFF as one snapshot shows it (R383): WO registers read 0, the epoch registers
hold one consistent count. -/
def regs (s : State) : List (Nat × Nat × Nat) := regsHi s ++ regsRun s ++ regsObs s ++ regsMg s

/-- That snapshot as sparse memory: offsets not listed read 0 (R373). -/
def regImage (s : State) : Mem := (regs s).foldl (fun m r => memWrite 0 m r.1 (leBytes r.2.1 r.2.2)) []

/-! ### Writes by access type (R9, R374) -/

/-- An RW1C bit after a write of `w` to its register. -/
def w1c (b : Bool) (w i : Nat) : Bool := b && !bitAt w i

/-- RW1C bits of the time base (Table 2.7). -/
def clearTb (w : Nat) (t : TB) : TB :=
  { t with
    lockLost := vmapIdx (fun q b => w1c b w (16 + q.val)) t.lockLost
    epochWrapped := w1c t.epochWrapped w 7, refclkLost := w1c t.refclkLost w 3 }

/-- RW1C bits of `CL_STAT` (Table 10.8). -/
def clearCl (w : Nat) (c : CL) : CL :=
  { c with
    wideSat := w1c c.wideSat w 8, pinSat := w1c c.pinSat w 7, sofHit := w1c c.sofHit w 6, rbErr := w1c c.rbErr w 5
    lost := w1c c.lost w 3, wrapped := w1c c.wrapped w 2 }

/-- RW1C bits of `CS_STAT` (Table 11.10). -/
def clearCs (w : Nat) (c : CS) : CS :=
  { c with
    consErr := w1c c.consErr w 11, stampOvf := w1c c.stampOvf w 10, marksLost := w1c c.marksLost w 9, dropped := w1c c.dropped w 8
    stageUe := w1c c.stageUe w 7 }

/-- RW1C bits of `HI_ERRSUM` (Table 15.5). -/
def clearHi (w : Nat) (h : HI) : HI :=
  { h with
    blk := h.blk &&& ~~~ BitVec.ofNat 16 (w / 2 ^ 16), barErr := w1c h.barErr w 4, ringErr := w1c h.ringErr w 3
    runRef := w1c h.runRef w 2, armRef := w1c h.armRef w 1 }

/-- The RW1C bits that events have set in the present fabric cycle, in the order of `w1cRegs`. -/
def freshNow (s : State) : List W32 :=
  [s.hi.fresh, s.tb.fresh, s.pf.fresh, s.pm.fresh, s.sq.fresh, s.sp.fresh, s.cl.fresh, s.cs.fresh, s.ti.fresh, s.mx.fresh, s.mg.fresh
  , s.bt.fresh].map fun f => if f.cycle = cycleStart s then f.bits else 0

/-- The bits of an RW1C register that a write can clear: those that stood when the fabric cycle began and that no event has set in it,
anew or again (R10). -/
def clearable (s : State) (base : Nat) : Nat :=
  (((w1cRegs.zip (s.tb.sticky.toList.zip (freshNow s))).find? fun x => x.1 = base).map fun x => (x.2.1 &&& ~~~ x.2.2).toNat).getD 0

/-- The bits of an RW1C register that a write clears: those it writes as 1 and can clear. -/
def wClears (off : Nat) (bytes : List (Option Byte)) (s : State) (base : Nat) : Nat := wValue off bytes base 4 &&& clearable s base

/-- The RW1C fields that a write at `off` reaches (R9, R10): every status register of Table 15.2 that has some. -/
def writeClears (off : Nat) (bytes : List (Option Byte)) (s : State) : State :=
  let v := wClears off bytes s
  { s with
    hi := clearHi (v 0x0020) s.hi
    tb := { clearTb (v 0x0100) s.tb with
            sticky := vmapIdx (fun i w => w &&& ~~~ BitVec.ofNat 32 (v (w1cRegs.getD i.val 0))) s.tb.sticky }
    pf := { s.pf with clamp := w1c s.pf.clamp (v 0x0200) 4, ppmuClamp := w1c s.pf.ppmuClamp (v 0x0200) 3 }
    pm := { s.pm with starved := w1c s.pm.starved (v 0x0300) 7, ueFlag := w1c s.pm.ueFlag (v 0x0300) 5 }
    sq := { s.sq with svcFault := w1c s.sq.svcFault (v 0x0380) 8, svcLost := w1c s.sq.svcLost (v 0x0380) 7 }
    sp := { s.sp with
            cloakUe := w1c s.sp.cloakUe (v 0x0400) 3, stalled := w1c s.sp.stalled (v 0x0400) 2
            redirected := w1c s.sp.redirected (v 0x0400) 1 }
    cl := clearCl (v 0x0480) s.cl
    cs := clearCs (v 0x0500) s.cs
    ti := { s.ti with
            stateUe := w1c s.ti.stateUe (v 0x0580) 3, openIgn := w1c s.ti.openIgn (v 0x0580) 2
            calErr := w1c s.ti.calErr (v 0x0580) 1, ovr := w1c s.ti.ovr (v 0x0580) 0 }
    mx := { s.mx with
            larderUe := w1c s.mx.larderUe (v 0x0604) 3, fetchErr := w1c s.mx.fetchErr (v 0x0604) 2
            clamped := w1c s.mx.clamped (v 0x0604) 1, jumpIgn := w1c s.mx.jumpIgn (v 0x0604) 0 }
    mg := { s.mg with railErr := w1c s.mg.railErr (v 0x0800) 13 }
    bt := { s.bt with flashErr := w1c s.bt.flashErr (v 0x0C00) 2 } }

end Sys2Proof.Machine
end

