-- ==== Sys2Proof/Machine/Trims.lean ====
section
/-! DEFINITION. The trim registers (17): which tap maps fail R73, the loading of trims (R442, R443, R81), and the trims of a `CAL_LOAD`
coming into force (R444). -/

namespace Sys2Proof.Machine

open Sys2Proof

/-- Body bytes of a user trim set: Table 17.6 without the conformance data. -/
def trimBytes : Nat := 1229888

/-- The failing condition of R73 for a tap map: 0 `TAP[0]`, 1 an increment, 2 `TAP[79]`. -/
def tapFault (tap : Nat → Nat) : Option Nat :=
  if tap 0 ≠ 0 then some 0
  else if (List.range 79).any fun j => decide (tap (j + 1) < tap j ∨ tap j + 512 < tap (j + 1)) then some 1
  else if tap 79 < 16640 then some 2 else none

/-- The tap map of a generator in a body (Table 17.6; the layout per generator is PRESUMED, log 25). -/
def tapIn (body : Mem) (p : Pin) (e j : Nat) : Nat := leNat (memRead 0 body ((p.val * 6 + e) * 163 + 2 * j) 2)

/-- Every generator whose map in a body fails R73, with the failing condition. -/
def badMaps (body : Mem) : List (Pin × Fin 6 × Nat) :=
  (List.finRange 512).flatMap fun p => (List.finRange 6).filterMap fun e =>
    (tapFault (tapIn body p e.val)).map fun c => (p, e, c)

/-- Trims loaded (R442, R443, R81): a generator whose map fails R73 is marked, with event 0x0207. -/
def loadTrims (body : Mem) (s : State) : State :=
  let bad := badMaps body
  let s1 : State := { s with
    bt := { s.bt with trims := .image body }
    tg := { s.tg with bad := bad.map fun x => (x.1, x.2.1) } }
  bad.foldl (fun t x => issue 0x0207 [i2 x.1.val, i1 x.2.1.val, i1 x.2.2] t) s1

/-- The trims of an accepted image come into force (R444): `KIND` tells factory from user trims; event 0x1008. -/
def trimsInForce (image : List Byte) (stored : Bool) (s : State) : State :=
  let kind := fieldAt image 6 2
  let s1 := loadTrims (memWrite 0 [] 0 ((image.drop 512).take trimBytes)) { s with bt := { s.bt with cal := if kind = 5 then 1 else 2 } }
  issue 0x1008 [i2 kind, i1 (b2n (stored && kind == 5))] s1

end Sys2Proof.Machine
end

