-- ==== Sys2Proof/Machine/HostIf.lean ====
section
/-! DEFINITION. The host interface (15): the posted-write buffer (R374, R376), plain register writes (R9), the ring registers (R386,
R387), fetching and starting commands (R391 to R393), completions (R390, R394), `HI_NOP`, `HI_INFO`, and the status mirror (R384). -/

namespace Sys2Proof.Machine

open Sys2Proof

/-! ### Posted writes -/

/-- The registers whose write acts (R374): offset and size. -/
def actingRegs : List (Nat × Nat) := [(0x0010, 4), (0x003C, 4), (0x0054, 4), (0x0528, 8), (0x0484, 4), (0x0598, 8)]

/-- The offsets of the bytes that a write request carries: those that are enabled. -/
def enabledAt (off : Nat) (bytes : List (Option Byte)) : List Nat :=
  ((List.range bytes.length).map (off + ·)).filter fun a => (wByte off bytes a).isSome

/-- A BAR0 write request is well formed (R374): it carries 1 to 8 bytes in one aligned 8-byte block, acting registers in full. -/
def writeOk (off : Nat) (bytes : List (Option Byte)) : Bool :=
  let l := enabledAt off bytes
  !l.isEmpty && (l.all fun a => a / 8 == l.headD 0 / 8)
    && actingRegs.all fun r => !wHits off bytes r.1 r.2 || wFull off bytes r.1 r.2

/-- The byte enables of a write request, within the aligned 8-byte block of its first byte. -/
def byteEnables (off : Nat) (bytes : List (Option Byte)) : Nat :=
  maskOf 8 fun i => (wByte off bytes (off / 8 * 8 + i.val)).isSome

/-- A BAR0 write dropped (R374): counted, `BAR_ERR`, event 0x0E01 for the first since `BAR_ERR` was clear. -/
def dropWrite (off : Nat) (bytes : List (Option Byte)) (s : State) : State :=
  let s1 : State := { s with hi := { s.hi with
    barErrCnt := satSucc 0xFFFFFFFF s.hi.barErrCnt, barErr := true, fresh := freshen s 0x10 s.hi.fresh } }
  let s2 := errIrq (errsum s) s1
  if s.hi.barErr then s2 else issue 0x0E01 [i2 (off % 65536), i1 (byteEnables off bytes)] s2

/-- A BAR0 or BAR4 write arrives (R376): it takes an entry of the buffer; with the buffer full it gets no credit and does not
arrive. A write outside its BAR, or while the endpoint serves none, has no effect (R371, R432). -/
def receive (w : Posted) (s : State) : State :=
  let size := if w.bar4 then 0x1000000 else 0x10000
  let l := waiting s.hi.posted
  if ¬ s.hi.serving ∨ ¬ s.hi.linkUp ∨ size < w.off + w.bytes.length then s
  else if ¬ w.bar4 ∧ ¬ writeOk w.off w.bytes then dropWrite w.off w.bytes s
  else if 16 ≤ l.length then s
  else { s with hi := { s.hi with posted := l ++ [w] } }

/-- `POSTED_WRITE_RECEIVE`. -/
def execPostedWriteReceive (bar4 : Bool) (off : Nat) (bytes : List (Option Byte)) (s : State) : Host.Outcome State Fault Refusal :=
  .next (receive { bar4 := bar4, off := off, bytes := bytes } s)

/-! ### Plain register writes -/

/-- A ring register write ignored (R386, R387): `RING_ERR` and event 0x0E02 with the register by its place in Table 15.8. -/
def ringError (reg v : Nat) (s : State) : State :=
  issue 0x0E02 [i1 reg, i8 v] (errIrq (errsum s) { s with hi := { s.hi with
    ringErr := true, fresh := freshen s 8 s.hi.fresh } })

/-- A write of a ring's `ADDR` (R386): ignored while the ring is open. -/
def baseWrite (off : Nat) (bytes : List (Option Byte)) (s : State) : State :=
  let s1 := if ¬ wHits off bytes 0x0030 8 then s
    else if s.hi.cmdSize ≠ 0 then ringError 0 (wValue off bytes 0x0030 8) s
    else { s with hi := { s.hi with cmdBase := BitVec.ofNat 64 (wMerge off bytes 0x0030 8 s.hi.cmdBase.toNat) } }
  if ¬ wHits off bytes 0x0048 8 then s1
  else if s1.hi.cplSize ≠ 0 then ringError 4 (wValue off bytes 0x0048 8) s1
  else { s1 with hi := { s1.hi with cplBase := BitVec.ofNat 64 (wMerge off bytes 0x0048 8 s1.hi.cplBase.toNat) } }

/-- The message of a vector that is unmasked while its pending bit stands (PCIe specification, log 9). -/
def unmaskOne (s : State) (v : Fin 64) : State :=
  if s.hi.pba.getLsbD v.val && !s.hi.msixMask.getLsbD v.val then
    { s with hi := { s.hi with sent := s.hi.sent ++ [v.val], pba := s.hi.pba &&& ~~~ (1#64 <<< v.val) } }
  else s

/-- The mask bits after a write to the MSI-X table: bit 0 of byte 12 of each entry. -/
def msixMaskOf (off : Nat) (bytes : List (Option Byte)) (m : W64) : W64 :=
  BitVec.ofNat 64 (maskOf 64 fun v => match wByte off bytes (0x2000 + 16 * v.val + 12) with
    | some b => b.getLsbD 0
    | none => m.getLsbD v.val)

/-- A byte of the MSI-X table as it is kept: the reserved bits and the mask bit of an entry's last word apart. -/
def msixKeep (a : Nat) (b : Byte) : Byte := if 12 ≤ a % 16 then 0 else if a % 16 = 0 then b &&& 0xFC else b

/-- A write to the MSI-X table (Table 15.2, log 9). -/
def msixWrite (off : Nat) (bytes : List (Option Byte)) (s : State) : State :=
  if 0x2000 ≤ off ∧ off + bytes.length ≤ 0x2400 then
    let put := fun (m : Mem) (a : Nat) => memWrite 0 m (a - 0x2000) [msixKeep (a - 0x2000) ((wByte off bytes a).getD 0)]
    (List.finRange 64).foldl unmaskOne
      { s with hi := { s.hi with msix := (enabledAt off bytes).foldl put s.hi.msix, msixMask := msixMaskOf off bytes s.hi.msixMask } }
  else s

/-- A write to a register without behaviour of its own (R9, R374): RW fields take the enabled bytes, RW1C bits clear, RO and
reserved fields and offsets that are not listed ignore it. -/
def plainWrite (off : Nat) (bytes : List (Option Byte)) (s : State) : State :=
  let s1 := writeClears off bytes s
  let s2 : State := { s1 with hi := { s1.hi with
    mask := BitVec.ofNat 32 (wMerge off bytes 0x0024 4 s1.hi.mask.toNat) &&& 0xFFFFFFFE#32
    cplIrq := BitVec.ofNat 32 (wMerge off bytes 0x0058 4 s1.hi.cplIrq.toNat) &&& 0x803FFFFF#32 } }
  msixWrite off bytes (baseWrite off bytes s2)

/-- The registers whose write has a row of its own: offset and size. -/
def rowRegs : List (Nat × Nat) := [
  (0x0010, 4), (0x0038, 4), (0x003C, 4), (0x0044, 4), (0x0054, 4), (0x0484, 4), (0x0528, 8), (0x0598, 8), (0x0828, 4), (0x1000, 0x400)]

/-- An offset outside those registers. -/
def plainAt (a : Nat) : Bool := rowRegs.all fun r => decide (a < r.1 ∨ r.1 + r.2 ≤ a)

/-- `REGISTER_WRITE`: the request at the front of the buffer, as far as it writes registers without a row of their own (R376). -/
def execRegisterWrite (off : Nat) (bytes : List (Option Byte)) (s : State) : Host.Outcome State Fault Refusal :=
  .next (if frontWrite s = some { bar4 := false, off := off, bytes := bytes } then plainWrite off bytes (popBytes plainAt s) else s)

/-! ### Ring registers -/

/-- A difference of free-running 32-bit counts (R387). -/
def cntDiff (a b : W32) : Nat := (a - b).toNat

/-- A write of `HI_CMD_DB` is accepted (R387). -/
def dbOk (v : W32) (s : State) : Bool :=
  decide (s.hi.cmdSize ≠ 0 ∧ cntDiff v s.hi.cmdHead ≤ s.hi.cmdSize ∧ cntDiff v s.hi.cmdDb < 2 ^ 31)

/-- The doorbell (R378, R387): every earlier BAR2 write is applied first. -/
def doorbell (v : W32) (s0 : State) : State :=
  let s := bar2Drain s0
  if dbOk v s then { s with hi := { s.hi with cmdDb := v, dbLatch := true } } else ringError 2 v.toNat s

/-- `HI_CMD_DB`. -/
def execHiCmdDb (v : W32) (s : State) : Host.Outcome State Fault Refusal := .next (applyReg 0x003C 4 0 (· == v.toNat) (doorbell v) s)

/-- A write of `HI_CPL_HEAD` is accepted (R387). -/
def cplHeadOk (v : W32) (s : State) : Bool :=
  decide (s.hi.cplSize ≠ 0 ∧ cntDiff s.hi.cplTail v ≤ cntDiff s.hi.cplTail s.hi.cplHead)

/-- A write of `HI_CPL_HEAD` (R387): accepted, or ignored with an error. -/
def cplHeadWrite (v : W32) (s : State) : State :=
  if cplHeadOk v s then { s with hi := { s.hi with cplHead := v } } else ringError 7 v.toNat s

/-- `HI_CPL_HEAD`. -/
def execHiCplHead (v : W32) (s : State) : Host.Outcome State Fault Refusal := 
  .next (applyReg 0x0054 4 0 (· == v.toNat) (cplHeadWrite v) s)

/-- A valid nonzero `ENTRIES` (Table 15.8). -/
def validEntries (n : Nat) : Bool := List.contains [64, 128, 256, 512, 1024, 2048, 4096] n

/-- The command ring closes (R386): entries not fetched are never executed; event 0x0E05. -/
def closeCmd (s : State) : State :=
  issue 0x0E05 [i2 (cntDiff s.hi.cmdDb s.hi.cmdHead)] { s with hi := { s.hi with cmdSize := 0, dbLatch := false } }

/-- A write of `HI_CMD_SIZE` (R386). -/
def cmdSizeWrite (v : W32) (s : State) : State :=
  let n := v.toNat % 8192
  if n = 0 then (if s.hi.cmdSize = 0 then s else closeCmd s)
  else if s.hi.cmdSize ≠ 0 ∨ ¬ validEntries n then ringError 1 v.toNat s
  else issue 0x0E04 [i2 n] { s with hi := { s.hi with cmdSize := n, cmdDb := 0, cmdHead := 0, history := [] } }

/-- `HI_CMD_SIZE`. -/
def execHiCmdSize (v : W32) (s : State) : Host.Outcome State Fault Refusal := 
  .next (applyReg 0x0038 4 s.hi.cmdSize (· == v.toNat) (cmdSizeWrite v) s)

/-- A write of `HI_CPL_SIZE` (R386). -/
def cplSizeWrite (v : W32) (s : State) : State :=
  let n := v.toNat % 8192
  if n = 0 then
    if s.hi.exec.isEmpty ∧ s.hi.cpls.isEmpty then { s with hi := { s.hi with cplSize := 0 } } else ringError 5 v.toNat s
  else if s.hi.cplSize ≠ 0 ∨ ¬ validEntries n then ringError 5 v.toNat s
  else { s with hi := { s.hi with cplSize := n, cplTail := 0, cplHead := 0 } }

/-- `HI_CPL_SIZE`. -/
def execHiCplSize (v : W32) (s : State) : Host.Outcome State Fault Refusal := 
  .next (applyReg 0x0044 4 s.hi.cplSize (· == v.toNat) (cplSizeWrite v) s)

/-! ### Fetch -/

/-- Commands that execute (R391): started, and their completion entry not yet written. -/
def execCount (s : State) : Nat := s.hi.exec.length + (s.hi.cpls.filter fun c => !c.wasExec).length

/-- An entry may be fetched (R391, R432). -/
def mayFetch (s : State) : Bool :=
  s.bt.fwReady && decide (s.hi.cmdSize ≠ 0 ∧ s.hi.cmdHead ≠ s.hi.cmdDb ∧ execCount s < 64 ∧ s.mg.pstate ≠ 4)

/-- One entry fetched in ring order (R391). -/
def fetchEntry (entry : List Byte) (s : State) : State :=
  let head := s.hi.cmdHead + 1
  { s with
    hi := { s.hi with fetched := s.hi.fetched ++ [entryOf entry], cmdHead := head, dbLatch := s.hi.dbLatch && head != s.hi.cmdDb }
    mg := { s.mg with awake := true } }

/-- `COMMAND_FETCH`: the 64 bytes are those the read of the ring slot finds. -/
def execCommandFetch (entry : List Byte) (s : State) : Host.Outcome State Fault Refusal :=
  .next (if mayFetch s then fetchEntry entry s else s)

/-! ### Start -/

/-- The commands with a payload of "none" (R389). -/
def noneOps : List Nat := [0x0402, 0x0603, 0x0A02, 0x0D02, 0x0E01, 0x0E02, 0x0F04, 0x1004]

/-- The address of an indirect payload (Table 15.9). -/
def indAddr (c : CmdEntry) : Nat := fieldAt c.pay 0 8
/-- `LENGTH` of an indirect payload. -/
def indLen (c : CmdEntry) : Nat := fieldAt c.pay 8 4

/-- Step 3 of R392: header reserved bytes, `INDIRECT` of the command's kind, the indirect fields; "none" payloads are 0 (R389). -/
def headerBad (k : PayKind) (c : CmdEntry) : Bool :=
  let kind := match k with
    | .inl => !c.indirect
    | .ind _ => c.indirect
    | .both _ => true
  c.badHdr || !kind || (c.indirect && (indAddr c % 8 != 0 || !allZero (slice c.pay 12 36)))
    || (noneOps.contains c.opcode.toNat && !allZero c.pay)

/-- The `LENGTH` that a command's table requires, if it is one number. -/
def fixedLen (k : PayKind) : Option Nat :=
  match k with
  | .inl => none
  | .ind n => n
  | .both n => some n

/-- The `LENGTH` that the header of an indirect payload asks for, where the command's table lets it vary (Tables 12.6, 13.6, 17.7). -/
def headerLen (op : Nat) (h : List Byte) : Option Nat :=
  if op = 0x0B01 then some (8 + 32 * (maskBits 64 (fieldAt h 0 8)).length)
  else if op = 0x0C01 then some (8 + 32 * (maskBits 16 (fieldAt h 0 2)).length)
  else if op = 0x0C02 then some (8 + 32 * fieldAt h 2 2)
  else if op = 0x1001 then some (16 + fieldAt h 8 4) else none

/-- A `LENGTH` that no payload of such a command has. -/
def lenImpossible (op n : Nat) : Bool :=
  if op = 0x0B01 ∨ op = 0x0C01 ∨ op = 0x0C02 then decide (n < 8 ∨ n % 32 ≠ 8)
  else decide (op = 0x1001 ∧ n < 16)

/-- `LENGTH` is not what the command's table requires (R392 step 4): the one number, or what the payload's header asks for, as far as the read
of the payload has brought the header. -/
def lenWrong (k : PayKind) (c : CmdEntry) (src : HostRead) : Bool :=
  let op := c.opcode.toNat
  let read := src.fail.all fun f => decide (indAddr c + 16 ≤ f.1)
  (fixedLen k).any (fun n => n != indLen c) || lenImpossible op (indLen c)
    || (read && (headerLen op (hostBytes src (indAddr c) 16)).any fun n => n != indLen c)

/-- The tag of a command that executes (R391, R393). -/
def tagBusy (s : State) (tag : W16) : Bool := s.hi.exec.any (fun e => e.entry.tag == tag) || s.hi.cpls.any fun c => c.tag == tag

/-- The completion in the replay history that an entry repeats (R393). -/
def replayOf (s : State) (c : CmdEntry) : Option Cpl := s.hi.history.find? fun h => h.tag == c.tag && h.hash == some c.hash

/-- A started command executes. -/
def enterExec (e : Exec) (s : State) : State := { s with hi := { s.hi with exec := s.hi.exec ++ [e] } }

/-- A command that is refused at its start (R392). -/
def refuseStart (c : CmdEntry) (st : Nat) (s : State) : State :=
  let e : Exec := { entry := c, idle := !running s, parkActs := s.pf.parkActs }
  answer e st [] (enterExec e s)

/-- What the device's mode refuses once the payload is read: recovery (R434), `DOUBLE` (R410), an idle-only command during a
run (R29) or while the ensemble arms (R356), `PF_UNPARK` against R130. -/
def modeRefusal (s : State) (c : CmdEntry) : Option Nat :=
  let op := c.opcode.toNat
  if s.bt.recovery ∧ ¬ recoveryOps.contains op then some eState
  else if s.mg.double ∧ ¬ doubleOps.contains op then some eState
  else if (idleOnlyOps.contains op ∧ running s) ∨ ((idleOnlyOps ++ idleStartOps).contains op ∧ s.en.armAsked.any fun t => decide (s.tb.now < t + 819200000)) then some eBusy
  else if op = 0x0402 ∧ (¬ s.pf.parkN ∨ s.mg.contained) then some eState else none

/-- The bytes that a started command has at hand: its indirect payload, or for `TI_READ` the committed statistics of its TIUs as
they stand now (R317). -/
def startBytes (s : State) (c : CmdEntry) (src : HostRead) : List Byte :=
  if c.indirect then hostBytes src (indAddr c) (indLen c)
  else if c.opcode = 0x0B03#16 then tiuBlocks s (fieldAt c.pay 0 8) else []

/-- Steps 2 to 5 of R392 and the mode: the status that refuses the command, if one does. -/
def startStatus (s : State) (c : CmdEntry) (src : HostRead) : Option Nat :=
  match payKind c.opcode.toNat with
  | none => some eUnknown
  | some k =>
    if headerBad k c then some eInval
    else if c.indirect ∧ (indLen c = 0 ∨ 1048576 < indLen c) then some eLen
    else if c.indirect ∧ lenWrong k c src then some eInval
    else if c.indirect ∧ src.fail.isSome then some eHosterr
    else modeRefusal s c

/-- A new command starts (R392): refused with the first status that applies, else it executes; event 0x0E07 for a failed read of
its payload. -/
def startNew (c : CmdEntry) (src : HostRead) (s : State) : State :=
  match startStatus s c src with
  | some st =>
    let s1 := if st = eHosterr then
        issue 0x0E07 [i2 c.tag.toNat, i8 ((src.fail.map fun f => f.1).getD 0), i1 ((src.fail.map fun f => f.2.toNat).getD 0)] s
      else s
    refuseStart c st s1
  | none => enterExec { entry := c, ind := startBytes s c src, idle := !running s, parkActs := s.pf.parkActs } s

/-- Step 1 of R392 (R393): a duplicate tag is refused with event 0x0E06, a repeated entry gets its completion again. -/
def startEntry (c : CmdEntry) (src : HostRead) (s : State) : State :=
  if tagBusy s c.tag then
    let d : Cpl := { tag := c.tag, status := BitVec.ofNat 16 eDup, opcode := c.opcode, hash := none, wasExec := false }
    issue 0x0E06 [i2 c.tag.toNat, i2 c.opcode.toNat] { s with hi := { s.hi with cpls := s.hi.cpls ++ [d] } }
  else match replayOf s c with
    | some h => { s with hi := { s.hi with cpls := s.hi.cpls ++ [{ h with replay := true, hash := none, wasExec := false }] } }
    | none => startNew c src s

/-- The entry must wait before it starts (R391, R418): at the limit of 64, behind a `PWR_SET` or an SMBus power transition, or for
an empty execution set. -/
def mustWait (s : State) (c : CmdEntry) : Bool :=
  decide (64 ≤ execCount s) || s.mg.pwr.isSome || s.hi.exec.any (fun e => e.entry.opcode == 0x0F01#16)
    || ((c.fence || c.opcode == 0x0F01#16) && decide (execCount s ≠ 0))

/-- `COMMAND_START`: the oldest fetched entry starts, unless it must wait. -/
def execCommandStart (src : HostRead) (s : State) : Host.Outcome State Fault Refusal :=
  .next (match s.hi.fetched with
    | [] => s
    | c :: r => if mustWait s c then s else startEntry c src { s with hi := { s.hi with fetched := r } })

/-! ### Completions -/

/-- A completion message when `COUNT` completions have been written since the last (R385, Table 15.8). -/
def cplSignal (s : State) : State :=
  let n := s.hi.unsig + 1
  let at_ := if s.hi.unsig = 0 then s.tb.now else s.hi.unsigAt
  if s.hi.cplIrq.getLsbD 31 ∧ max 1 (fld s.hi.cplIrq.toNat 15 8) ≤ n then
    msix (fld s.hi.cplIrq.toNat 21 16) { s with hi := { s.hi with unsig := 0 } }
  else { s with hi := { s.hi with unsig := n, unsigAt := at_ } }

/-- The completion ring is open and has room (R391). -/
def cplRoom (s : State) : Bool := decide (s.hi.cplSize ≠ 0 ∧ cntDiff s.hi.cplTail s.hi.cplHead < s.hi.cplSize)

/-- What takes effect when a command completes (R391): the settings of `CL_CONFIG` and `SQ_CONFIG` (R269, R231), `SEQ_VER` after
`SQ_LOAD` (R227), the stream of `CS_OPEN` (R295), the trims of `CAL_LOAD` (R444). -/
def takesEffect (c : Cpl) (s : State) : State :=
  match (if c.wasExec ∧ c.status = 0 then s.hi.exec.find? (fun e => e.entry.tag == c.tag) else none) with
  | none => s
  | some e =>
    if c.opcode = 0x0901#16 then clSettings e s
    else if c.opcode = 0x0702#16 then sqSettings e s
    else if c.opcode = 0x0701#16 then seqLoaded e.ind s
    else if c.opcode = 0x0A01#16 then streamOpened s
    else if c.opcode = 0x1006#16 then trimsInForce e.ind (payF e 8 1 == 1) s else s

/-- One completion entry written (R390, R393, R394): the ring entry, the history, the end of its command, the message. -/
def writeCpl (c : Cpl) (s : State) : State :=
  let n := s.hi.cplTail.toNat
  let phase := decide (n / s.hi.cplSize % 2 = 0)
  let s1 := hostWrite (s.hi.cplBase.toNat + 32 * (n % s.hi.cplSize)) (cplBytes c phase s.hi.cmdHead) (takesEffect c s)
  let kept := if c.hash.isSome then (s.hi.history ++ [c]).drop (s.hi.history.length + 1 - 64) else s.hi.history
  cplSignal { s1 with hi := { s1.hi with
    cplTail := s.hi.cplTail + 1, history := kept
    exec := if c.wasExec then s1.hi.exec.filter fun e => e.entry.tag != c.tag else s1.hi.exec } }

/-- The oldest waiting completion is written if the ring has room. -/
def cplWrite (s : State) : State :=
  match s.hi.cpls with
  | [] => s
  | c :: r => if cplRoom s then coreSettle (writeCpl c { s with hi := { s.hi with cpls := r } }) else s

/-- `COMPLETION_IRQ_TIMER` (R385, Table 15.8): `TIME` µs after the first completion not yet signalled. -/
def execCompletionIrqTimer (s : State) : Host.Outcome State Fault Refusal :=
  let t := fld s.hi.cplIrq.toNat 7 0
  .next (if s.hi.cplIrq.getLsbD 31 ∧ t ≠ 0 ∧ s.hi.unsig ≠ 0 then
      let s1 := toTime (s.hi.unsigAt + 8192000 * t) s
      msix (fld s1.hi.cplIrq.toNat 21 16) { s1 with hi := { s1.hi with unsig := 0 } }
    else s)

/-! ### Own commands and the mirror -/

/-- `HI_NOP` (R397). -/
def hiNopCmd (e : Exec) (s : State) : State := answer e eOk [] s

/-- `HI_NOP`. -/
def execHiNop (tag : W16) (s : State) : Host.Outcome State Fault Refusal := .next (runCmd 0x0E01 tag hiNopCmd s)

/-- The data of `HI_INFO` (R397, R434, R445). -/
def infoBytes (s : State) : List Byte :=
  let v := s.bt.fwVer.toNat
  leBytes 2 (fld v 47 32) ++ leBytes 2 (fld v 31 16) ++ leBytes 2 (fld v 15 0)
    ++ [BitVec.ofNat 8 s.bt.runSlot, BitVec.ofNat 8 (b2n (s.bt.cal != 0))] ++ leBytes 8 s.bt.serialReg.toNat

/-- `HI_INFO`. -/
def hiInfoCmd (e : Exec) (s : State) : State := answer e eOk (infoBytes s) s

/-- `HI_INFO`. -/
def execHiInfo (tag : W16) (s : State) : Host.Outcome State Fault Refusal := .next (runCmd 0x0E02 tag hiInfoCmd s)

/-- The next refresh of the mirror is due (R384): 1 µs after the last. -/
def mirrorDue (s : State) : State :=
  match s.hi.mirrorAt with
  | some t => toTime (t + 8192000) s
  | none => s

/-- The whole mirror from one snapshot, between two increments of `MSEQ` (R384). -/
def mirrorFill (s : State) : State :=
  { s with hi := { s.hi with mirror := regImage s, mseq := s.hi.mseq + 2, mirrorAt := some s.tb.now } }

/-- `MIRROR_REFRESH`. -/
def execMirrorRefresh (s : State) : Host.Outcome State Fault Refusal := .next (mirrorFill (mirrorDue s))

end Sys2Proof.Machine
end

