-- ==== Sys2Proof/Machine/Mgmt.lean ====
section
/-! DEFINITION. The management subsystem (16): the sensor sampler with its thermal and supply actions (R401 to R403), the trips
(R403, R414), the event log, its persisted copy and the diagnostic snapshot (R408 to R410, R470), the core's wake (R399), the MG
commands (R415, R423, R424), the SMBus reads (R420, R421) and `MG_CTRL` (R422). -/

namespace Sys2Proof.Machine

open Sys2Proof

/-! ### The Axras core -/

/-- The core wakes (R399). The AON timer's work is not described in spec/: with nothing else to do the core sleeps again at once
(log 17). -/
def wakeCore (cause : Wake) (s : State) : State :=
  let s1 : State := { s with mg := { s.mg with awake := true } }
  match cause with
  | .smbus => { s1 with mg := { s1.mg with smbWork := true } }
  | _ => coreSettle s1

/-- `CORE_WAKE`. -/
def execCoreWake (cause : Wake) (s : State) : Host.Outcome State Fault Refusal := .next (wakeCore cause s)

/-! ### Sensors -/

/-- The latest reading of a slot. -/
def readingAt (s : State) (i : Nat) : W16 := s.mg.temps.toList.getD i 0

/-- The highest of some temperature readings, two's complement. -/
def maxTemp (l : List W16) : W16 :=
  l.foldl (fun m x => if m.toInt < x.toInt then x else m) (l.headD 0)

/-- The latest die readings. -/
def dieTemps (s : State) : List W16 := (List.range 32).map fun i => readingAt s i

/-- The latest stack readings. -/
def stackTemps (s : State) : List W16 := (List.range 4).map fun i => readingAt s (32 + i)

/-- A die reading came in (R403, Table 16.3): the warning at 105 °C, its end below 100 °C, in 1/16 °C. -/
def dieReading (k : Nat) (r : W16) (s : State) : State :=
  if ¬ s.mg.thermWarn ∧ 1680 ≤ r.toInt then
    issue 0x0F04 [i1 k, i2 r.toNat] { s with mg := { s.mg with thermWarn := true } }
  else if s.mg.thermWarn ∧ (dieTemps s).all (fun t => decide (t.toInt < 1600)) then
    issue 0x0F05 [i2 (maxTemp (dieTemps s)).toNat] { s with mg := { s.mg with thermWarn := false } }
  else s

/-- A stack reading came in (R403): containment at 105 °C, a further cause where the reading before lay below (log 19). -/
def stackReading (old r : W16) (s : State) : State :=
  if 1680 ≤ r.toInt ∧ (¬ s.mg.contained ∨ old.toInt < 1680) then contain 0x0D s else s

/-- A rail monitor whose fault contains the device by R402: RM00 to RM11 and RM20 to RM23. -/
def coreRail (j : Nat) : Bool := decide (j < 12 ∨ 20 ≤ j)

/-- A reading in mV lies in the window of a monitor other than RM12 to RM19 (Table 16.2). -/
def railWindow (j r : Nat) : Bool :=
  let near (nom pct : Nat) : Bool := decide (100 * nom ≤ 100 * r + pct * nom ∧ 100 * r ≤ 100 * nom + pct * nom)
  if j < 4 then near 750 5 else if j = 4 then near 850 5 else if j = 5 then near 900 5 else if j < 10 then near 1100 5
  else if j = 10 then near 1200 5 else if j = 11 then near 1800 5 else near (Config.railNominal j) (if j = 23 then 1 else 5)

/-- A reading lies in the window of its monitor: for RM12 to RM19 checks 3 and 4 of Table 5.7, which a bank with `VIO_CODE` 0 never
meets. -/
def railIn (s : State) (j r : Nat) : Bool :=
  if coreRail j then railWindow j r else bankMeets (s.pf.vio.toList.getD (j - 12) 0) r

/-- The event of a rail that leaves (first code) or enters its window (R402). -/
def railEvent (j r codeCore codeBank : Nat) (s : State) : State :=
  if coreRail j then issue codeCore [i1 j, i2 r] s else issue codeBank [i1 (j - 12), i2 r] s

/-- The run uses a pin of a bank. -/
def bankUsed (s : State) (b : Nat) : Bool := (usedPins s).any fun p => (bankOf p).val == b

/-- A supply fault of R402 by a rail: its name is kept for the release (R415); it contains, and is a further cause when it is new. -/
def railCause (j : Fin 24) (cause : Nat) (fresh : Bool) (s : State) : State :=
  let old := if s.mg.contained then s.mg.railNamed else .replicate 24 false
  let s1 := if s.mg.contained ∧ ¬ fresh then s else contain cause s
  { s1 with mg := { s1.mg with railNamed := vset old j true } }

/-- The supply faults of R402: a core rail out in P0 to P2, a used bank out during a run. -/
def railContain (j : Fin 24) (fresh : Bool) (s : State) : State :=
  if coreRail j.val then (if s.mg.pstate ≤ 2 then railCause j 0x0E fresh s else s)
  else if running s ∧ bankUsed s (j.val - 12) then railCause j 0x0F fresh s else s

/-- A bank's supply was measured (R21): its pins park where it lies outside 0.9 to 1.8 V. -/
def bankReading (b : Bank) (r : Nat) (s : State) : State :=
  let s1 : State := { s with pf := { s.pf with bankMv := vset s.pf.bankMv b r } }
  if bankInRange r ∨ s.pf.bankPark[b] then s1
  else { s1 with
    pf := { s1.pf with bankPark := vset s1.pf.bankPark b true }
    pins := vmapIdx (fun p x => if bankOf p = b then parkPin x else x) s1.pins }

/-- A rail reading came in (R402): out of the window in two frames it is reported, back inside at the next reading. -/
def railReading (j : Fin 24) (r : Nat) (s0 : State) : State :=
  let s := if coreRail j.val then s0 else bankReading (Fin.ofNat 8 (j.val - 12)) r s0
  if railIn s j.val r then
    let s1 : State := { s with mg := { s.mg with outRun := vset s.mg.outRun j 0, railOut := vset s.mg.railOut j false } }
    if s.mg.railOut[j] then railEvent j.val r 0x0F08 0x0407 s1 else s1
  else
    let n := satSucc 2 s.mg.outRun[j]
    let s1 : State := { s with mg := { s.mg with outRun := vset s.mg.outRun j n } }
    if n < 2 then s1
    else if s.mg.railOut[j] then railContain j false s1
    else railContain j true (railEvent j.val r 0x0F07 0x0406
      { s1 with mg := { s1.mg with
        railOut := vset s1.mg.railOut j true, railErr := true, fresh := freshen s1 0x2000 s1.mg.fresh } })

/-- The slot's reading acts (R402, R403). -/
def slotReading (k : Nat) (old r : W16) (s : State) : State :=
  if k < 32 then dieReading k r s
  else if k < 36 then stackReading old r s
  else if k < 60 then railReading (Fin.ofNat 24 (k - 36)) r.toNat s else s

/-- The end of a frame (R401): `MG_TEMP`, the frame number, `MG_RTC`. -/
def frameEnd (s : State) : State :=
  { s with mg := { s.mg with
    slot := 0, frame := s.mg.frame + 1, tj := maxTemp (dieTemps s), tstack := maxTemp (stackTemps s), rtcFrame := rtc s } }

/-- `SENSOR_SLOT_END` (R401): the reading of the slot in progress is complete; a slot lasts 16 AON cycles. -/
def execSensorSlotEnd (reading : W16) (s : State) : Host.Outcome State Fault Refusal :=
  let k := s.mg.slot
  let s1 := toTime ((s.mg.frame.toNat * 64 + k + 1) * 4000000000) s
  let s2 : State := { s1 with mg := { s1.mg with temps := vset s1.mg.temps (Fin.ofNat 64 k) reading, slot := k + 1 } }
  let s3 := slotReading k (readingAt s k) reading s2
  .next (if 63 ≤ k then frameEnd s3 else s3)

/-- `THERMAL_TRIP_115` (R403): containment, cause 0x0C. -/
def execThermalTrip115 (_sensor : Fin 32) (s : State) : Host.Outcome State Fault Refusal := .next (contain 0x0C s)

/-- The 125 °C trip (R403, R414): containment if not in force, then the fast clocks stop. -/
def tripFast (sensor : Fin 32) (s : State) : State :=
  let s1 := stopPlls (if s.mg.contained then s else contain 0x0C s)
  issue 0x0F06 [i1 sensor.val] { s1 with mg := { s1.mg with fastStop := true } }

/-- `THERMAL_TRIP_125`. -/
def execThermalTrip125 (sensor : Fin 32) (s : State) : Host.Outcome State Fault Refusal := .next (tripFast sensor s)

/-! ### The event log -/

/-- Flash address of the persisted log (Table 17.1). -/
def logBase : Nat := 0x020000

/-- A record that the full persisted log cannot take (R409): counted, event 0x0F0A for the first. -/
def notPersisted (r : EventRec) (s : State) : State :=
  let s1 : State := { s with mg := { s.mg with notKept := satSucc 0xFFFFFFFF s.mg.notKept } }
  if s.mg.notKept = 0 then issue 0x0F0A [i8 r.seq.toNat] s1 else s1

/-- The copy of a record is asked for (R409), unless the persisted log is full. -/
def askCopy (r : EventRec) (s : State) : State :=
  if 256 ≤ s.mg.persisted then notPersisted r s else { s with mg := { s.mg with toPersist := s.mg.toPersist ++ [r] } }

/-- A fatal record's handling begins (R410): its copy has been asked for when it was drained. -/
def beginFatal (r : EventRec) (s : State) : State :=
  { s with mg := { s.mg with fatal := some {
    event := r, copied := !(s.mg.toPersist.any fun x => x.seq == r.seq), snapped := false } } }

/-- The next fatal record drained meanwhile is handled (R410). -/
def nextFatal (s : State) : State :=
  match s.mg.fatal, s.mg.fatalTodo with
  | none, r :: t => if s.mg.double then s else beginFatal r { s with mg := { s.mg with fatalTodo := t } }
  | _, _ => s

/-- A glove ADC without the requests and the measurement of a command. -/
def adcWithout (tag : W16) (a : Adc) : Adc :=
  { queue := a.queue.filter fun r => r.src != some tag
    cur := a.cur.filter fun m => m.req.src != some tag }

/-- A command that has not yet changed any state completes with `E_ABORTED` when `DOUBLE` is set (R410): its measurement requests go as
well. -/
def abortCmd (s : State) (e : Exec) : State :=
  if doubleOps.contains e.entry.opcode.toNat ∨ finished s e.entry.tag ∨ e.changed ∨ s.en.formTag = some e.entry.tag then s
  else answer e eAborted [] { s with
    pm := { s.pm with newCfg := if s.pm.newCfg.any (fun c => c.1 == e.entry.tag) then none else s.pm.newCfg }
    pf := { s.pf with adcs := vmap (adcWithout e.entry.tag) s.pf.adcs } }

/-- `DOUBLE` is entered (R410): event 0x0F03 with the second record's code; fatal records that wait are not handled while it holds. -/
def enterDouble (code : Nat) (s : State) : State :=
  let s1 : State := { s with mg := { s.mg with double := true, second := none } }
  let s2 := issue 0x0F03 [i2 code] (errIrq (errsum s) s1)
  s2.hi.exec.foldl abortCmd s2

/-- Handling of a fatal record is complete once copy and snapshot are written (R410). -/
def fatalCheck (s : State) : State :=
  match s.mg.fatal with
  | none => s
  | some f =>
    if f.copied ∧ f.snapped then
      let s1 : State := { s with mg := { s.mg with fatal := none } }
      match s.mg.second with
      | some c => enterDouble c s1
      | none => nextFatal s1
    else s

/-- The first record in drain order and the queues without it (R408): fatal, error, warning, info. -/
def firstQueued (g : MG) : Option (EventRec × Vector (List EventRec) 4) :=
  ([3, 2, 1, 0] : List (Fin 4)).foldl (fun (b : Option (EventRec × Vector (List EventRec) 4)) (i : Fin 4) => match b, g.queues[i] with
    | none, r :: t => some (r, vset g.queues i t)
    | b, _ => b) none

/-- A drained record enters the SRAM log, which keeps the latest 4096 (R408), and what follows from its severity (R409, R410): every fatal
and every error record is copied, but for a fatal one issued while `DOUBLE` held, which is neither copied nor handled. -/
def drainRec (r : EventRec) (s : State) : State :=
  let s1 : State := { s with mg := { s.mg with log := (s.mg.log ++ [r]).drop (s.mg.log.length + 1 - 4096) } }
  if r.sev = 3 then
    if r.inDouble then s1
    else
      let s2 := askCopy r s1
      nextFatal { s2 with mg := { s2.mg with fatalTodo := s2.mg.fatalTodo ++ [r] } }
  else if r.sev = 2 then askCopy r s1 else s1

/-- `EVENT_LOG_DRAIN` (R408): one record. -/
def execEventLogDrain (s : State) : Host.Outcome State Fault Refusal :=
  .next (match firstQueued s.mg with
    | none => s
    | some (r, q) => coreSettle (drainRec r { s with mg := { s.mg with queues := q, awake := true } }))

/-- The records of the SRAM log marked as persisted. -/
def markPersist (seq : W64) (l : List EventRec) : List EventRec :=
  l.map fun r => if r.seq = seq then { r with persist := true } else r

/-- The copy of the oldest waiting record completes (R409, R410). A program that fails its read-back sets `FLASH_ERR`, issues
event 0x100A (R440), and the copy is made again (log 20). -/
def persistOne (ok : Bool) (s : State) : State :=
  match s.mg.toPersist with
  | [] => s
  | r :: t =>
    let a := logBase + 64 * s.mg.persisted
    let done (x : State) : State := fatalCheck { x with mg := { x.mg with
      fatal := x.mg.fatal.map fun f => if f.event.seq = r.seq then { f with copied := true } else f } }
    if 256 ≤ s.mg.persisted then done (notPersisted r { s with mg := { s.mg with toPersist := t } })
    else if ¬ ok then issue 0x100A [i8 a] { s with bt := { s.bt with flashErr := true, fresh := freshen s 4 s.bt.fresh } }
    else done { s with
      bt := { s.bt with flash := memWrite 0xFF s.bt.flash a (eventBytes { r with persist := true }) }
      mg := { s.mg with toPersist := t, persisted := s.mg.persisted + 1, log := markPersist r.seq s.mg.log } }

/-- `PERSIST_COPY`. -/
def execPersistCopy (ok : Bool) (s : State) : Host.Outcome State Fault Refusal := .next (coreSettle (persistOne ok s))

/-- The diagnostic snapshot of a fatal record (R470, Table 16.18). -/
def diagImage (r : EventRec) (s : State) : Mem :=
  let before := match firstIdx (fun (x : EventRec) => x.seq == r.seq) 0 s.mg.log with
    | some (i, _) => (s.mg.log.take i).drop (i - 62)
    | none => []
  let rec_ := ((s.mg.log.find? fun x => x.seq == r.seq).getD r)
  let m0 := memWrite 0 [] 0 (leBytes 8 (s.mg.dseq.toNat + 2) ++ leBytes 8 r.seq.toNat ++ leBytes 2 before.length)
  let m1 := memWrite 0 (memWrite 0 m0 0x40 (eventBytes rec_)) 0x80 (before.flatMap eventBytes)
  m1 ++ memShift (regImage s) 0 0x1000 0x1000

/-- `DIAG_SNAPSHOT` (R410, R470): the snapshot of the fatal record in handling, between two increments of `DSEQ`. -/
def execDiagSnapshot (s : State) : Host.Outcome State Fault Refusal :=
  .next (match s.mg.fatal with
    | none => s
    | some f =>
      if f.snapped then s
      else coreSettle (fatalCheck { s with mg := { s.mg with
        diag := diagImage f.event s, dseq := s.mg.dseq + 2, fatal := some { f with snapped := true } } }))

/-! ### Commands -/

/-- A temperature cause is still present for `MG_RELEASE` (R415): a die reading of 105 °C or a stack reading of 95 °C. -/
def stillHot (s : State) : Bool :=
  (dieTemps s).any (fun t => decide (1680 ≤ t.toInt)) || (stackTemps s).any fun t => decide (1520 ≤ t.toInt)

/-- A core rail stands out of its window. -/
def coreRailOut (s : State) : Bool := (List.finRange 24).any fun j => coreRail j.val && s.mg.railOut[j]

/-- A rail named by cause 0x0E or 0x0F, first or further, is still out (R415). -/
def railStillOut (s : State) : Bool := (List.finRange 24).any fun j => s.mg.railNamed[j] && s.mg.railOut[j]

/-- `MG_RELEASE` (R415), idle-only from its start (R29): a release that none of R415's cases refuses succeeds (log 21). -/
def mgReleaseCmd (e : Exec) (s : State) : State :=
  checked [(!e.idle, eBusy), (stillHot s || railStillOut s || s.en.state == .discord, eState)] e
    (fun t => answer e eOk [] (issue 0x0F02 [i1 (fld t.mg.contain.toNat 62 56), i1 (fld t.mg.contain.toNat 55 48)]
      (nextFatal { t with mg := { t.mg with
        contained := false, double := false, railNamed := .replicate 24 false } }))) s

/-- `MG_RELEASE`. -/
def execMgRelease (tag : W16) (s : State) : Host.Outcome State Fault Refusal := .next (runCmd 0x0F04 tag mgReleaseCmd s)

/-- A record put in its place by `SEQ`. -/
def insertSeq (r : Nat × List Byte) : List (Nat × List Byte) → List (Nat × List Byte)
  | [] => [r]
  | x :: l => if r.1 < x.1 then r :: x :: l else x :: insertSeq r l

/-- The records of the SRAM log with their `SEQ`. -/
def sramRecords (s : State) : List (Nat × List Byte) := s.mg.log.map fun r => (r.seq.toNat, eventBytes r)

/-- The records of the persisted log with their `SEQ`. -/
def flashRecords (s : State) : List (Nat × List Byte) :=
  (List.range s.mg.persisted).map fun i =>
    let b := memRead 0xFF s.bt.flash (logBase + 64 * i) 64
    (fieldAt b 8 8, b)

/-- The persisted log emptied (R409). -/
def clearPersisted (s : State) : State :=
  { s with
    bt := { s.bt with flash := memErase s.bt.flash logBase 65536 }
    mg := { s.mg with persisted := 0, notKept := 0, log := s.mg.log.map fun r => { r with persist := false } } }

/-- `MG_LOG_READ` (R424): records from a lowest `SEQ` on, in `SEQ` order, then the clears asked for. -/
def logRead (e : Exec) (s : State) : State :=
  let all := if payF e 8 1 = 1 then flashRecords s else sramRecords s
  let l := ((all.foldl (fun m r => insertSeq r m) []).filter fun r => decide (payF e 16 8 ≤ r.1)).take (payF e 10 2)
  let data := leBytes 4 l.length ++ leBytes 4 s.mg.notKept ++ leBytes 8 ((l.getLast?.map fun r => r.1).getD 0)
  let s1 := hostWrite (payF e 0 8) (l.flatMap fun r => r.2) s
  let s2 := if bitAt (payF e 9 1) 0 then clearPersisted s1 else s1
  answer e eOk data (if bitAt (payF e 9 1) 1 then { s2 with mg := { s2.mg with lost := .replicate 4 0 } } else s2)

/-- `MG_LOG_READ`. -/
def mgLogReadCmd (e : Exec) (s : State) : State :=
  let n := payF e 10 2
  checked [
    (payF e 0 8 % 64 != 0 || decide (1 < payF e 8 1 ∨ 3 < payF e 9 1 ∨ n = 0 ∨ 4096 < n)
      || (bitAt (payF e 9 1) 0 && payF e 8 1 != 1) || !payZero e 12 4 || !payZero e 24 24, eInval)] e (logRead e) s

/-- `MG_LOG_READ`. -/
def execMgLogRead (tag : W16) (s : State) : Host.Outcome State Fault Refusal := .next (runCmd 0x0F02 tag mgLogReadCmd s)

/-- Readings of some slots as they are written out. -/
def frameSlots (s : State) (a n : Nat) : List Byte := (List.range n).flatMap fun i => leBytes 2 (readingAt s (a + i)).toNat

/-- The 256-byte block of `MG_SENSORS` (R424): the slots stand in the order of the block. -/
def sensorBlock (s : State) : List Byte :=
  padTo 256 (frameSlots s 0 64 ++ leBytes 8 s.mg.rtcFrame ++ leBytes 4 s.mg.frame.toNat)

/-- `MG_SENSORS`. -/
def mgSensorsCmd (e : Exec) (s : State) : State :=
  checked [(payF e 0 8 % 8 != 0 || !payZero e 8 40, eInval)] e
    (fun t => answer e eOk [] (hostWrite (payF e 0 8) (sensorBlock t) t)) s

/-- `MG_SENSORS`. -/
def execMgSensors (tag : W16) (s : State) : Host.Outcome State Fault Refusal := .next (runCmd 0x0F03 tag mgSensorsCmd s)

/-- Free bytes, from the counter on (log 3). -/
def freeBytes (n : Nat) (s : State) : List Byte := (List.range n).map fun i => Config.freeByte (s.freeCtr + i)

/-- The counter moves past them. -/
def takeFrees (n : Nat) (s : State) : State := { s with freeCtr := s.freeCtr + n }

/-- Phase 0 of `MG_DBG_UNLOCK` (R423): a random challenge, whose bytes are free. -/
def challengeCmd (e : Exec) (s : State) : State :=
  if e.entry.indirect then s
  else checked [(!payZero e 0 48, eInval)] e
    (fun t => answer e eOk (freeBytes 16 t)
      (takeFrees 16 { t with mg := { t.mg with challenge := some (BitVec.ofNat 128 (leNat (freeBytes 16 t))) } })) s

/-- Phase 0 of `MG_DBG_UNLOCK`. -/
def execMgDbgUnlockChallenge (tag : W16) (s : State) : Host.Outcome State Fault Refusal := .next (runCmd 0x0F05 tag challengeCmd s)

/-- A token is right (R423): the challenge in force, this module's serial, zeros, and a signature that verifies. -/
def tokenOk (t : List Byte) (s : State) : Bool :=
  (s.mg.challenge.any fun c => c.toNat == fieldAt t 0 16) && fieldAt t 16 8 == s.bt.serialReg.toNat && allZero (slice t 24 8)
    && Config.sigValid 2 (slice t 0 32) (slice t 32 96)

/-- Phase 1 of `MG_DBG_UNLOCK` (R423). -/
def tokenCmd (e : Exec) (s : State) : State :=
  if ¬ e.entry.indirect then s
  else
    let s1 : State := { s with mg := { s.mg with challenge := none } }
    if tokenOk e.ind s then answer e eOk [] (issue 0x0F0D [i8 s.bt.serialReg.toNat] { s1 with mg := { s1.mg with dbg := true } })
    else answer e eSig [] (issue 0x0F0C [i1 1] s1)

/-- Phase 1 of `MG_DBG_UNLOCK`. -/
def execMgDbgUnlockToken (tag : W16) (s : State) : Host.Outcome State Fault Refusal := .next (runCmd 0x0F05 tag tokenCmd s)

/-! ### SMBus -/

/-- A response of the SMBus target (R420): the core works while it forms it and may then sleep. -/
def smbRespond (f : State → List Byte) (s : State) : State :=
  let s1 : State := { s with mg := { s.mg with awake := true, smbWork := true } }
  coreSettle { s1 with mg := { s1.mg with smbReply := f s1, smbWork := false } }

/-- `SMB_READ_STATUS` (Table 16.10). -/
def execSmbReadStatus (s : State) : Host.Outcome State Fault Refusal :=
  .next (smbRespond (fun t => 0 :: (leBytes 4 (mgStat t) ++ leBytes 4 (mgTemp t))) s)

/-- The slot of the latest `VCORE` current. -/
def currentSlot (s : State) : Nat := if s.mg.slot ≤ 60 then 63 else s.mg.slot - 1

/-- `SMB_READ_SENSORS` (Table 16.10). -/
def execSmbReadSensors (s : State) : Host.Outcome State Fault Refusal :=
  .next (smbRespond (fun t => 0 :: (frameSlots t 32 4 ++ frameSlots t 36 12 ++ frameSlots t (currentSlot t) 1)) s)

/-- The latest record of the SRAM log of severity error or above. -/
def lastError (s : State) : Option EventRec := s.mg.log.reverse.find? fun r => decide (2 ≤ r.sev)

/-- `SMB_READ_RECORD` (Table 16.10); with no such record its 64 bytes are free, since spec/ states none (log 22). -/
def execSmbReadRecord (s : State) : Host.Outcome State Fault Refusal :=
  .next (match lastError s with
    | some r => smbRespond (fun _ => 0 :: eventBytes r) s
    | none => takeFrees 64 (smbRespond (fun t => 0 :: freeBytes 64 t) s))

/-- `SMB_ALERT_RESPONSE` (R421). -/
def execSmbAlertResponse (s : State) : Host.Outcome State Fault Refusal := .next { s with mg := { s.mg with alert := false } }

/-! ### `MG_CTRL` -/

/-- `MG_CTRL_WRITE` (R422, Table 16.17): the fields take the value; a changed `MUX` bit starts the keeper of its land, which holds the land
as it was until two AON cycles after the next. -/
def mgCtrl (v : W32) (s : State) : State :=
  let c : BitVec 8 := v.setWidth 8 &&& 0xE7
  let moved := fun (i : Fin 3) => c.getLsbD i.val != s.mg.ctrl.getLsbD i.val
  { s with mg := { s.mg with
    ctrl := c
    muxOld := vmapIdx (fun i o => if moved i then some (o.getD s.mg.ctrl) else o) s.mg.muxOld
    muxAlert := if moved 2 ∧ s.mg.muxOld[(2 : Fin 3)].isNone then s.mg.alert else s.mg.muxAlert
    muxAt := vmapIdx (fun i t => if moved i then (s.tb.now / 250000000 + 3) * 250000000 else t) s.mg.muxAt } }

/-- `MG_CTRL_WRITE`. -/
def execMgCtrlWrite (v : W32) (s : State) : Host.Outcome State Fault Refusal := 
  .next (applyReg 0x0828 4 s.mg.ctrl.toNat (· == v.toNat) (mgCtrl v) s)

/-- The level of `SMB_ALERT_N` (R421, R422): low while an alert stands, or the general-purpose level; while its keeper holds, the level at
the write. -/
def alertLand (s : State) : Bool :=
  match s.mg.muxOld[(2 : Fin 3)] with
  | some c => if c.getLsbD 2 then c.getLsbD 7 else !s.mg.muxAlert
  | none => if s.mg.ctrl.getLsbD 2 then s.mg.ctrl.getLsbD 7 else !s.mg.alert

/-- The level of `DBG_TX` (0) or `DBG_RX` (1) as a general-purpose output (R422); the debug port's own levels are not the block's
state. -/
def debugLand (s : State) (i : Fin 2) : Option Bool :=
  let c := s.mg.muxOld[i.castSucc].getD s.mg.ctrl
  if c.getLsbD i.val then some (c.getLsbD (5 + i.val)) else none

/-- When the keeper that holds longest since releases next, if one holds (R422). -/
def keeperDue (s : State) : Option Nat :=
  (((List.finRange 3).filter fun i => s.mg.muxOld[i].isSome).map fun i => s.mg.muxAt[i]).min?

/-- `MUX_KEEPER_RELEASE` (R422): the keepers whose time comes first release their lands. -/
def execMuxKeeperRelease (s : State) : Host.Outcome State Fault Refusal :=
  .next (match keeperDue s with
    | none => s
    | some t =>
      let s1 := toTime t s
      { s1 with mg := { s1.mg with
        muxOld := vmapIdx (fun i o => if s1.mg.muxAt[i] ≤ s1.tb.now then none else o) s1.mg.muxOld } })

end Sys2Proof.Machine
end

