-- ==== Sys2Proof/Machine/TimeBase.lean ====
section
/-! DEFINITION. The time base (02): `REFCLK` monitors, quadrant PLLs and lock guards, the fabric-clock source, the epoch
counter and its latched read. -/

namespace Sys2Proof.Machine

open Sys2Proof

/-- The length of a frequency-monitor window: 512 AON cycles in ticks (R468). -/
def monWindow : Nat := 128000000000

/-- The length of a lock-guard window: 64 µs in ticks (R36). -/
def guardWindow : Nat := 524288000

/-- A frequency-monitor count within 1,562,500 ± 781 (R33). -/
def refInRange (count : Nat) : Bool := decide (1561719 ≤ count ∧ count ≤ 1563281)

/-- An edge-clock count within 512,000 ± 102 (R36). -/
def edgeInRange (count : Nat) : Bool := decide (511898 ≤ count ∧ count ≤ 512102)

/-- `REFCLK` declared lost (R33): the flags, event 0x0101 (cause 0 missing edge, 1 count), and all guards close (R37). While
`REFCLK_OK` is 0 a further missing edge or count declares no second loss (DEDUCED, log 47: R33 says what a loss clears and sets,
and not whether one is declared again before the recovery). -/
def loseRefclk (cause : Nat) (s : State) : State :=
  if s.tb.refclkOk then
    let s1 := issue 0x0101 [i1 cause, i4 s.tb.refCount]
      { s with tb := { s.tb with refclkOk := false, refclkLost := true, goodWins := 0, fresh := freshen s 8 s.tb.fresh } }
    (List.finRange 4).foldl (fun t q => loseLock q 2 t) s1
  else s

/-- A stopped PLL starts to acquire (R39), unless its guard closed for a reason of its own. -/
def startPll (s : State) (q : Quad) : State :=
  if s.tb.pll[q] = .off ∧ ¬ s.tb.barred[q] then { s with tb := { s.tb with pll := vset s.tb.pll q .acquiring } } else s

/-- Acquisition of every stopped PLL starts now (R39, Table 2.1). -/
def startPlls (s : State) : State :=
  (List.finRange 4).foldl startPll { s with tb := { s.tb with acqFrom := s.tb.now } }

/-- `REFCLK` declared recovered (R34): the flag, event 0x0102, and in P1 or P0 the stopped PLLs acquire again (R39), but not
after a fast-clock stop (R414). -/
def recoverRefclk (s : State) : State :=
  let s1 := issue 0x0102 [i4 s.tb.refCount] { s with tb := { s.tb with refclkOk := true, goodWins := 0 } }
  if s1.mg.pstate ≤ 1 ∧ ¬ s1.mg.fastStop then startPlls s1 else s1

/-- A frequency-monitor window judged (R33, R34). -/
def judgeWindow (count : Nat) (s : State) : State :=
  let good := refInRange count && !s.tb.refMiss
  let s1 : State := { s with tb := { s.tb with
    refCount := count, wins := s.tb.wins + 1, refMiss := false
    goodWins := if s.tb.refclkOk ∨ ¬ good then 0 else s.tb.goodWins + 1 } }
  if s.tb.refclkOk then (if refInRange count then s1 else loseRefclk 1 s1)
  else if s1.tb.goodWins = 2 then recoverRefclk s1 else s1

/-- No `REFCLK` edge for 40 ns (R33, R34). -/
def execRefclkMissingEdge (s : State) : Host.Outcome State Fault Refusal :=
  .next (loseRefclk 0 { s with tb := { s.tb with refMiss := true, goodWins := 0 } })

/-- The end of a frequency-monitor window (R468, R33, R34); it falls on the grid of 512 AON cycles (log 2). -/
def execRefclkMonitorWindowEnd (count : Nat) (s : State) : Host.Outcome State Fault Refusal :=
  .next (judgeWindow count (toTime ((s.tb.wins + 1) * monWindow) s))

/-- The lock detector of a quadrant asserts (R36): an acquiring PLL's guard window begins. -/
def execLockDetectorAssert (q : Quad) (s : State) : Host.Outcome State Fault Refusal :=
  let s1 : State := { s with tb := { s.tb with lockDet := vset s.tb.lockDet q true } }
  .next (if s.tb.pll[q] = .acquiring then
      { s1 with tb := { s1.tb with pll := vset s1.tb.pll q .window, winFrom := vset s1.tb.winFrom q s1.tb.now } }
    else s1)

/-- The lock detector of a quadrant deasserts (R36, R37): a guard window in progress restarts, an open guard closes. -/
def execLockDetectorDeassert (q : Quad) (s : State) : Host.Outcome State Fault Refusal :=
  let s1 : State := { s with tb := { s.tb with lockDet := vset s.tb.lockDet q false } }
  .next (if s.tb.pll[q] = .window then { s1 with tb := { s1.tb with pll := vset s1.tb.pll q .acquiring } }
    else loseLock q 0 s1)

/-- The acquisition time of event 0x0103 in µs: from the start of the acquisition to the opening (R54, R40);
the fraction is dropped and the value ends at 0xFFFF, for the rule gives no rounding (DESIGN CHOICE, log 51). -/
def acqTime (s : State) : Nat := min 0xFFFF ((s.tb.now - s.tb.acqFrom) / 8192000)

/-- A lock-guard window judged (R36, R37): a closed guard opens and its quadrant aligns (event 0x0103), or its window starts
again; an open guard stays open or closes. `stayed` says that the lock detector has stayed asserted over the window. -/
def judgeGuard (q : Quad) (count : Nat) (stayed : Bool) (s : State) : State :=
  let s1 : State := { s with tb := { s.tb with
    qCount := vset s.tb.qCount q count, winFrom := vset s.tb.winFrom q s.tb.now } }
  if s.tb.pll[q] = .window then
    if edgeInRange count ∧ stayed ∧ s.tb.lockDet[q] then
      issue 0x0103 [i1 q.val, i2 (acqTime s)] { s1 with tb := { s1.tb with pll := vset s1.tb.pll q .aligning } }
    else s1
  else if ¬ stayed then loseLock q 0 s1
  else if edgeInRange count then s1 else loseLock q 1 s1

/-- The end of a 64 µs lock-guard window (R36, R37); nothing where the quadrant counts none. -/
def execGuardWindowEnd (q : Quad) (count : Nat) (stayed : Bool) (s : State) : Host.Outcome State Fault Refusal :=
  .next (if s.tb.pll[q] = .window ∨ s.tb.pll[q] = .aligning ∨ s.tb.pll[q] = .running then
      judgeGuard q count stayed (toTime (s.tb.winFrom[q] + guardWindow) s)
    else s)

/-- A TIU whose gate is open calibrates again when its quadrant's guard opens (R309, R305). -/
def recalTiu (q : Quad) (now : Nat) (g : Glove) (u : Tiu) : Tiu :=
  if quadOfGlove g = q ∧ u.gopen then { u with ready := none, calAt := some (now + 8192000) } else u

/-- Phase alignment of a quadrant completes (R35): Φ_q is held and `GUARD_OPEN` reads 1; the guard's windows go on (R37). -/
def execPhaseAlignDone (q : Quad) (phi : Int) (s : State) : Host.Outcome State Fault Refusal :=
  .next (if s.tb.pll[q] = .aligning then
      { s with
        tb := { s.tb with
          pll := vset s.tb.pll q .running, guardOpen := vset s.tb.guardOpen q true, phi := vset s.tb.phi q phi }
        ti := { s.ti with units := vmapIdx (recalTiu q s.tb.now) s.ti.units } }
    else s)

/-- A switch of FAB's source completes (R38, R41): the source that R38 gives; leaving the edge clock clears `EPOCH_VALID`. -/
def execFabSwitchComplete (s : State) : Host.Outcome State Fault Refusal :=
  .next { s with tb := { s.tb with
    fabSrc := fabTarget s, epochValid := s.tb.epochValid && (fabTarget s == .edge) } }

/-- The epoch counter reaches its wrap (R44); it advances only on the edge clock (R41). -/
def execEpochWrap (s : State) : Host.Outcome State Fault Refusal :=
  .next (if s.tb.fabSrc = .edge then pass ((2 ^ 64 - s.tb.epoch.toNat + 8191) / 8192) s else s)

end Sys2Proof.Machine
end

