-- ==== Sys2Proof/Machine/Power.lean ====
section
/-! DEFINITION. The power states (16): `PWR_SET` and the SMBus request (R418, R420), the steps of Table 16.8 with what each state
loses (Table 16.7), and the time limit of the acquisition (R40). -/

namespace Sys2Proof.Machine

open Sys2Proof

/-! ### What the states lose (Table 16.7) -/

/-- The park path acts unless the park state already holds (R416). -/
def parkOnce (s : State) : State := if s.pf.parked then s else parkAll 1 s

/-- One granule of the cellar front drained; in wrap mode the read-back that it waits for comes first (R262). -/
def drainOne (s : State) : State :=
  let s1 := granule s
  match s1.cl.readNeed, cellarRegion s1 with
  | true, some (base, g) => readback .ok base g s1
  | _, _ => s1

/-- The cellar front drained, in `n` steps at most (Table 16.8). -/
def drainCellar : Nat → State → State
  | 0, s => s
  | n + 1, s => if s.cl.front.isEmpty then s else drainCellar n (drainOne s)

/-- Entry to P2 (Tables 16.7, 16.8): the cellar front drained, PLLs stopped, store room and attic lost. -/
def enterP2 (s : State) : State :=
  let s1 := stopPlls (drainCellar (s.cl.front.length * 1024) s)
  { s1 with pt := { s1.pt with room := [] }, pm := { s1.pm with shelf := [], cursors := .replicate 512 none } }

/-- The sequence store and what `SQ_LOAD` filled are lost (Table 16.7, Table 17.4). -/
def loseStore (q : SQ) : SQ :=
  { q with
    store := [], storeFree := none, poison := [], underLoad := none, loaded := false, imageId := 0, imgCrc := 0, words := 0, entry := 0
    profile := 0xFF, conds := [], groups := [], overlaid := false }

/-- The pin table unbound, store room and shadow lost (R148); with no copy left `STALE` reads 0 (DESIGN CHOICE, log 34). -/
def unbind (p : PT) : PT :=
  { p with bound := false, stale := false, hostMem := false, staleAt := [], base := 0, room := [], shadow := [], shadowOk := false, crc := 0 }

/-- Device DRAM whose contents are undefined from now on (R165): a new serial of the free contents, nothing written yet. -/
def loseDram (s : State) : State :=
  { s with pm := { s.pm with dram := [], dramFree := some s.freeCtr, dramKnown := [] }, freeCtr := s.freeCtr + 1 }

/-- Entry to P3 or P4 (Table 16.7, R148, R165, R295): DRAM, region map, every SRAM partition but management, the binding and the
stream. -/
def enterP3 (s : State) : State :=
  let s1 := loseDram (if s.cs.open_ then closeStream 1 true s else s)
  { s1 with
    pm := { s1.pm with regions := .replicate 16 {}, shelf := [] }
    pt := unbind s1.pt
    sq := loseStore s1.sq
    cl := { s1.cl with front := [], headOut := 0 }
    ti := { s1.ti with units := .replicate 64 {}, recent := [] }
    mx := { s1.mx with larder := [], segs := .replicate 1024 {} } }

/-- Entry to P4 (Table 16.7, R148, R165, R386): what P3 loses, then both rings closed, the PCIe link down, its crossings flushed (Table 17.5). -/
def enterP4 (s0 : State) : State :=
  let s := enterP3 s0
  let s1 := if s.hi.cmdSize = 0 then s else closeCmd s
  { s1 with
    hi := { s1.hi with cplSize := 0, linkUp := false, posted := [] }
    pm := { s1.pm with bar2 := [] } }

/-! ### The transition -/

/-- The command that asked for the transition answers; an SMBus request has no completion. -/
def pwrAnswer (status : Nat) (s : State) : State :=
  let s1 : State := { s with mg := { s.mg with pwr := none } }
  match s.mg.pwr with
  | some p => match p.tag with
    | some t => runCmd 0x0F01 t (fun e u => answer e status [] u) s1
    | none => s1
  | none => s1

/-- A step begins (Table 16.8): toward P2 to P4 the park path first, toward P1 from P2 the acquisition (Table 2.1). -/
def beginStep (target : Nat) (s : State) : State :=
  if s.mg.pstate < target then parkOnce s
  else if s.mg.pstate = 2 ∧ target = 1 then startPlls { s with tb := { s.tb with barred := .replicate 4 false } } else s

/-- A transition starts toward a target other than the present state (R417). -/
def pwrStart (target : Nat) (tag : Option W16) (s : State) : State :=
  beginStep target { s with mg := { s.mg with pwr := some { target := target, tag := tag } } }

/-- A completed step (R417): the state and event 0x0F0B. -/
def stepTo (n : Nat) (s : State) : State :=
  issue 0x0F0B [i1 s.mg.pstate, i1 n] { s with mg := { s.mg with pstate := n } }

/-- The store room reloaded from its shadow at P2 to P1 (R147), in maintenance slots; a table whose shadow was lost is no longer bound (DEDUCED, log 34);
`FASTSTOP` ends (R415). -/
def enterP1 (s0 : State) : State :=
  let s := if s0.pt.bound && s0.pt.shadowOk then inSlot .maint tableSize s0 else s0
  { s with
    pt := { s.pt with bound := s.pt.bound && s.pt.shadowOk, room := if s.pt.bound && s.pt.shadowOk then s.pt.shadow else [] }
    mg := { s.mg with fastStop := false } }

/-- After a completed step: the next one begins, or the command answers (R417). -/
def pwrNext (target : Nat) (s : State) : State :=
  if s.mg.pstate = target then pwrAnswer eOk s else beginStep target s

/-- A step down completes (Table 16.8); before P4 the completion is written, for which the step waits while its ring is full (R391). -/
def stepDown (target : Nat) (s : State) : State :=
  let n := s.mg.pstate
  if n = 1 then pwrNext target (stepTo 2 (enterP2 s))
  else if n = 2 then pwrNext target (stepTo 3 (enterP3 s))
  else if n = 3 then
    (if (s.mg.pwr.any fun p => p.tag.isSome) ∧ ¬ cplRoom s then s else enterP4 (cplWrite (pwrNext target (stepTo 4 s))))
  else s

/-- A step up completes or fails (Table 16.8, R418): DRAM comes up with undefined contents, its training may fail, P2 to P1 waits for the guards and FAB's source (R40). -/
def stepUp (target : Nat) (ok : Bool) (s : State) : State :=
  let n := s.mg.pstate
  if n = 4 then pwrNext target (stepTo 3 (enterP3 { s with hi := { s.hi with linkUp := true } }))
  else if n = 3 then (if ok then pwrNext target (stepTo 2 (loseDram s)) else pwrAnswer eMemerr s)
  else if n = 2 then
    (if guardsOpen s ∧ s.tb.fabSrc = .edge then pwrNext target (stepTo 1 (enterP1 s)) else s)
  else s

/-- `POWER_STEP_COMPLETE` (R417, R418): nothing where no transition is in progress. -/
def execPowerStepComplete (ok : Bool) (s : State) : Host.Outcome State Fault Refusal :=
  .next (match s.mg.pwr with
    | none => s
    | some p => coreSettle (if s.mg.pstate < p.target then stepDown p.target s else stepUp p.target ok s))

/-- A cause that keeps P1 from being entered is still present (R418): a die at 115 °C, a stack at 105 °C, a core rail out. -/
def p1Blocked (s : State) : Bool :=
  (dieTemps s).any (fun t => decide (1840 ≤ t.toInt)) || (stackTemps s).any (fun t => decide (1680 ≤ t.toInt)) || coreRailOut s

/-- The refusals of a request for a target (R418, R351); in recovery the power state stays P3 (R434). -/
def pwrChecks (target : Nat) (s : State) : List (Bool × Nat) := [
  (decide (target = 0 ∨ 4 < target), eInval), (running s, eBusy),
  (s.bt.recovery || (formed s && decide (2 ≤ target)) || (decide (target = 1) && p1Blocked s), eState)]

/-- `PWR_SET` (R418). -/
def pwrSetCmd (e : Exec) (s : State) : State :=
  let t := payF e 0 1
  if s.mg.pwr.isSome then s
  else checked ((!payZero e 1 47, eInval) :: pwrChecks t s) e
    (fun u => if t = u.mg.pstate then answer e eOk [] u else pwrStart t (some e.entry.tag) u) s

/-- `PWR_SET`. -/
def execPwrSet (tag : W16) (s : State) : Host.Outcome State Fault Refusal := .next (runCmd 0x0F01 tag pwrSetCmd s)

/-- The SMBus target's answer to a request: its status byte (R420). -/
def smbStatus (st : Nat) (s : State) : State :=
  { s with mg := { s.mg with smbReply := [BitVec.ofNat 8 st], smbWait := none, smbWork := false } }

/-- An SMBus power request (R420): `E_BUSY` while a mailbox `PWR_SET` executes; under R418 it waits while other commands execute. -/
def smbPwr (t : Nat) (s : State) : State :=
  if s.mg.pwr.isSome ∨ s.hi.exec.any (fun e => e.entry.opcode == 0x0F01#16) then smbStatus eBusy s
  else match (pwrChecks t s).find? fun c => c.1 with
    | some (_, st) => smbStatus st s
    | none =>
      if execCount s ≠ 0 then { s with mg := { s.mg with smbWait := some t, smbWork := true } }
      else if t = s.mg.pstate then smbStatus eOk s else smbStatus eOk (pwrStart t none s)

/-- `SMB_PWR_SET` (R420). -/
def execSmbPwrSet (target : Byte) (s : State) : Host.Outcome State Fault Refusal :=
  .next (coreSettle (smbPwr target.toNat { s with mg := { s.mg with awake := true } }))

/-- An SMBus power request that waits starts when no command executes any more (R418). -/
def smbResume (s : State) : State :=
  match s.mg.smbWait with
  | some t => if execCount s = 0 then coreSettle (smbPwr t s) else s
  | none => s

/-- `COMPLETION_WRITE`. -/
def execCompletionWrite (s : State) : Host.Outcome State Fault Refusal := .next (smbResume (cplWrite s))

/-! ### The time limit of the acquisition (R40) -/

/-- 450 µs in ticks. -/
def acqLimit : Nat := 3686400000

/-- A quadrant's guard has opened (R36, event 0x0103): it aligns, or has aligned. -/
def guardOpened (s : State) (q : Quad) : Bool := s.tb.pll[q] == .aligning || s.tb.pll[q] == .running

/-- A quadrant whose guard has not opened: event 0x0105, its PLL stops, and stays so until P2 and then P1 (R39, R40). -/
def acqFail (s : State) (q : Quad) : State :=
  if guardOpened s q ∨ s.tb.pll[q] = .off then s
  else
    let s1 := stopPll q (issue 0x0105 [i1 q.val, i4 s.tb.qCount[q]] s)
    { s1 with tb := { s1.tb with barred := vset s1.tb.barred q true } }

/-- The limit is reached: in a P2 to P1 transition the command ends with `E_LOCK`, all PLLs stop, the state reads P2. -/
def acqTimeout (s : State) : State :=
  let s1 := (List.finRange 4).foldl acqFail s
  if raising s ∧ ¬ (List.finRange 4).all (guardOpened s) then stopPlls (pwrAnswer eLock s1) else s1

/-- `ACQUISITION_TIMEOUT` (R40): 450 µs after acquisition started, where some PLL has not opened its guard. -/
def execAcquisitionTimeout (s : State) : Host.Outcome State Fault Refusal :=
  .next (if (List.finRange 4).any fun q => !guardOpened s q && (raising s || s.tb.pll[q] != .off) then
      coreSettle (acqTimeout (toTime (s.tb.acqFrom + acqLimit) s))
    else s)

end Sys2Proof.Machine
end

