-- ==== Sys2Proof/Machine/Boot.lean ====
section
/-! DEFINITION. Start-up and resets (17): the boot flash and its records (R426 to R429), the choice of the slot (R433, R434), the
calibration image (R441, R442, R73, R81), the boot rows (R432) and the three resets with Table 17.4 (R372, R435, R436). -/

namespace Sys2Proof.Machine

open Sys2Proof

/-! ### The boot flash -/

/-- Bytes of the boot flash; what was never written reads 0xFF (log 6). -/
def flashRead (s : State) (a n : Nat) : List Byte := memRead 0xFF s.bt.flash a n

/-- Sectors erased, then bytes programmed from their start (R426). -/
def flashWrite (a : Nat) (l : List Byte) (s : State) : State :=
  { s with bt := { s.bt with flash := memWrite 0xFF (memErase s.bt.flash a (ceilTo 4096 l.length)) a l } }

/-- The fields of a boot record (R427). -/
structure BootRec where
  gen : Nat := 0
  next : Nat := 0
  prev : Nat := 0
  /-- Bits: A committed, B committed, trial pending, trial tried. -/
  flags : Nat := 0
deriving DecidableEq, Repr

/-- A boot-record copy, if it is valid (R427). -/
def recCopy (s : State) (k : Nat) : Option BootRec :=
  let b := flashRead s (0x1000 * k) 64
  if fieldAt b 0 4 = 0x4B594252 ∧ fieldAt b 60 4 = (crc32c (b.take 60)).toNat then
    some { gen := fieldAt b 4 4, next := fieldAt b 8 1, prev := fieldAt b 9 1, flags := fieldAt b 10 1 }
  else none

/-- The copy in force and its number (R427): the valid one with the larger `GEN`. -/
def recInForce (s : State) : Option (Nat × BootRec) :=
  match recCopy s 0, recCopy s 1 with
  | some a, some b => if a.gen < b.gen then some (1, b) else some (0, a)
  | some a, none => some (0, a)
  | none, some b => some (1, b)
  | none, none => none

/-- The record in force; with no valid copy no slot is committed (R427). -/
def bootRec (s : State) : BootRec := ((recInForce s).map fun x => x.2).getD {}

/-- The copy that the next update is written to: the other one (R427). -/
def nextCopy (s : State) : Nat := ((recInForce s).map fun x => 1 - x.1).getD 0

/-- The 64 bytes of a boot record. -/
def recBytes (r : BootRec) : List Byte :=
  let b := leBytes 4 0x4B594252 ++ leBytes 4 r.gen ++ leBytes 1 r.next ++ leBytes 1 r.prev ++ leBytes 1 r.flags ++ zeros 49
  b ++ leBytes 4 (crc32c b).toNat

/-- The boot record updated (R427), with `BT_STAT.NEXT`, `A_OK` and `B_OK`. -/
def writeRec (r : BootRec) (s : State) : State :=
  let s1 := flashWrite (0x1000 * nextCopy s) (recBytes { r with gen := (bootRec s).gen + 1 }) s
  { s1 with bt := { s1.bt with next := r.next % 2, aOk := bitAt r.flags 0, bOk := bitAt r.flags 1 } }

/-- A flag of a record set or cleared. -/
def setFlag (i : Nat) (v : Bool) (n : Nat) : Nat := n - b2n (bitAt n i) * 2 ^ i + b2n v * 2 ^ i

/-! ### Firmware images (R428, R429) -/

/-- Flash address of a slot (Table 17.1). -/
def slotBase (k : Nat) : Nat := if k = 0 then 0x030000 else 0x1F0000

/-- The header of the image in a slot. -/
def fwHeader (s : State) (k : Nat) : List Byte := flashRead s (slotBase k) 256

/-- A header passes the checks of Table 17.2. -/
def fwHeaderOk (h : List Byte) : Bool :=
  decide (fieldAt h 0 4 = 0x4B594657 ∧ fieldAt h 4 2 = 1 ∧ fieldAt h 6 2 = 4 ∧ 1 ≤ fieldAt h 14 1 ∧ fieldAt h 14 1 ≤ 64
    ∧ fieldAt h 15 1 = 0 ∧ 4096 ≤ fieldAt h 16 4 ∧ fieldAt h 16 4 ≤ 1572864)
    && allZero (slice h 20 108) && allZero (slice h 224 32)

/-- `ROLLBACK` of the image in a slot, 0 without a readable header. -/
def fwRollback (s : State) (k : Nat) : Nat := if fwHeaderOk (fwHeader s k) then fieldAt (fwHeader s k) 14 1 else 0

/-- The version of the image in a slot in the layout of `BT_FWVER`, 0 without a readable header. -/
def fwVersion (s : State) (k : Nat) : Nat :=
  let h := fwHeader s k
  if fwHeaderOk h then fieldAt h 8 2 * 2 ^ 32 + fieldAt h 10 2 * 2 ^ 16 + fieldAt h 12 2 else 0

/-- The signature of the image in a slot verifies (R428). -/
def fwSigned (s : State) (k : Nat) : Bool :=
  let h := fwHeader s k
  Config.sigValid 0 (h.take 128 ++ flashRead s (slotBase k + 256) (fieldAt h 16 4)) (slice h 128 96)

/-- Why the image in a slot is not bootable (R429): 0 header, 1 signature, 2 rollback, 3 not committed. -/
def slotCause (s : State) (k : Nat) : Option Nat :=
  if ¬ fwHeaderOk (fwHeader s k) then some 0
  else if ¬ fwSigned s k then some 1
  else if fwRollback s k < s.bt.fuses then some 2
  else if ¬ bitAt (bootRec s).flags k then some 3 else none

/-! ### The choice of the slot (R433) -/

/-- The trial state of the boot record moves on (R433 cases 1 to 3); the second part is the slot chosen. -/
def trialStep (s : State) : State × Nat :=
  let r := bootRec s
  if bitAt r.flags 2 ∧ ¬ bitAt r.flags 3 then (writeRec { r with flags := setFlag 3 true r.flags } s, r.next % 2)
  else if bitAt r.flags 2 then
    let s1 := writeRec { r with next := r.prev, flags := setFlag 2 false (setFlag 3 false r.flags) } s
    (issue 0x1004 [i1 (r.next % 2), i8 (fwVersion s (r.next % 2))] s1, r.prev % 2)
  else (s, r.next % 2)

/-- A slot boots: its version, and whether it is an unconfirmed trial. -/
def bootSlot (k : Nat) (s : State) : State :=
  let r := bootRec s
  { s with bt := { s.bt with
    axras := true, runSlot := k, fwVer := BitVec.ofNat 48 (fwVersion s k), next := r.next % 2, aOk := bitAt r.flags 0
    bOk := bitAt r.flags 1, trial := bitAt r.flags 2 && bitAt r.flags 3 && decide (r.next % 2 = k) } }

/-- Recovery (R434): the boot ROM serves the rings itself, so `FW_READY` is set (log 23). -/
def enterRecovery (a b : Nat) (s : State) : State :=
  let r := bootRec s
  issue 0x1003 [i1 a, i1 b] { s with bt := { s.bt with
    recovery := true, fwReady := true, booting := false, next := r.next % 2, aOk := bitAt r.flags 0, bOk := bitAt r.flags 1 } }

/-- Steps 2 to 4 of the boot (R433): the chosen slot, else the other with event 0x1002, else recovery. -/
def bootFirmware (s0 : State) : State :=
  let (s, k) := trialStep s0
  match slotCause s k, slotCause s (1 - k) with
  | none, _ => bootSlot k s
  | some c, none => bootSlot (1 - k) (issue 0x1002 [i1 k, i1 c] s)
  | some c, some d => if k = 0 then enterRecovery c d s else enterRecovery d c s

/-- Subsystem IDs of the board data (R370, R426): the defaults where it is absent. -/
def boardIds (s : State) : W32 :=
  let b := flashRead s 0x010000 12
  if fieldAt b 0 4 = 0x4B594244 ∧ fieldAt b 8 4 = (crc32c (b.take 8)).toNat then BitVec.ofNat 32 (fieldAt b 4 4) else 0x05121E6B

/-- `AXRAS_START` (R432): steps 2 to 5 of Table 17.3; the host has set bus mastering by configuration (log 9). -/
def execAxrasStart (busMaster : Bool) (s : State) : Host.Outcome State Fault Refusal :=
  .next (if s.bt.booting ∧ ¬ s.hi.serving then
      let s1 := bootFirmware s
      { s1 with hi := { s1.hi with serving := true, busMaster := busMaster, subsys := boardIds s } }
    else s)

/-! ### Calibration images (R441, R442) -/

/-- Body bytes of a factory image. -/
def factoryBytes : Nat := 3032128

/-- The header of a calibration image is as R441 requires for a `KIND`, `MAGIC` apart. -/
def calHeaderOk (kind : Nat) (h : List Byte) : Bool :=
  decide (fieldAt h 4 2 = 1 ∧ fieldAt h 6 2 = kind) && allZero (slice h 40 88) && allZero (slice h 224 288)
    && (if kind = 5 then fieldAt h 16 4 == factoryBytes
        else fieldAt h 16 4 == trimBytes && fieldAt h 8 8 == 0 && allZero (slice h 128 96))

/-- The CRC-32C of an image's body matches its header. -/
def calCrcOk (h body : List Byte) : Bool := fieldAt h 20 4 == (crc32c body).toNat

/-- A factory image's signature verifies (R441). -/
def calSigned (h body : List Byte) : Bool := Config.sigValid 1 (h.take 128 ++ body) (slice h 128 96)

/-- Why the image in the calibration partition is not loaded (R442): 0 absent (`MAGIC` differs, log 24), 1 header, 2 body CRC,
3 signature, 4 serial. -/
def calCause (h body : List Byte) (serial : W64) : Option Nat :=
  if fieldAt h 0 4 ≠ 0x4B59434C then some 0
  else if ¬ calHeaderOk 5 h then some 1
  else if ¬ calCrcOk h body then some 2
  else if ¬ calSigned h body then some 3
  else if fieldAt h 8 8 ≠ serial.toNat then some 4 else none

/-- Flash address of the calibration partition (Table 17.1). -/
def calBase : Nat := 0x400000

/-- Step 6 of the boot (R442): the factory image of the partition, or the nominal trims with event 0x1007. -/
def bootCal (s : State) : State :=
  let h := flashRead s calBase 512
  match calCause h (flashRead s (calBase + 512) factoryBytes) s.bt.serial with
  | none =>
    loadTrims (memWrite 0 [] 0 (flashRead s (calBase + 512) trimBytes))
      { s with bt := { s.bt with cal := 1, calFlash := true } }
  | some c => issue 0x1007 [i1 c] { s with bt := { s.bt with cal := 0, calFlash := false, trims := .nominal }, tg := { s.tg with bad := [] } }

/-- `BOOT_COMPLETE` (R432): steps 6 and 7 of Table 17.3. -/
def execBootComplete (s : State) : Host.Outcome State Fault Refusal :=
  .next (if s.bt.booting ∧ s.bt.axras then
      let s1 := bootCal s
      issue 0x1001 [i1 s1.bt.runSlot, i8 s1.bt.fwVer.toNat, i1 s1.bt.cal]
        { s1 with bt := { s1.bt with booting := false, fwReady := true } }
    else s)

/-- `PERST_N_DEASSERT` (R432): link training, and step 1 of the boot: serial and anti-rollback counter from OTP. -/
def execPerstNDeassert (s : State) : Host.Outcome State Fault Refusal :=
  .next (if s.bt.inReset then
      { s with
        bt := { s.bt with inReset := false, booting := true, serialReg := s.bt.serial, rollback := s.bt.fuses }
        hi := { s.hi with linkUp := true } }
    else s)

/-! ### Resets (R435, Table 17.4) -/

/-- What every reset leaves: the reset state with flash, OTP and persisted log, the levels of the input lands, host memory, and the
model's own queue, counter and records of what was sent. -/
def coldReset (s : State) : State :=
  { State.reset with
    pf := { parkN := s.pf.parkN }
    ti := { evtIn := s.ti.evtIn, gateIn := s.ti.gateIn }
    en := { tx := s.en.tx }
    hi := { sent := s.hi.sent }
    mg := { persisted := s.mg.persisted, notKept := s.mg.notKept }
    bt := { flash := s.bt.flash, serial := s.bt.serial, fuses := s.bt.fuses }
    hostMem := s.hostMem, pending := s.pending, freeCtr := s.freeCtr }

/-- The comparator outputs as the analog supplies rise (R116): the plain comparison of the line, which is the board's, against the
thresholds; free (log 3). -/
def startLines (s : State) : State :=
  let k := s.freeCtr
  takeFrees 1024 { s with pins := vmapIdx (fun p x =>
    { x with hi := Config.freeBool (k + 2 * p.val), lo := Config.freeBool (k + 2 * p.val + 1) }) s.pins }

/-- `POWER_ON_RESET` (R435): `MG_RTC` and the sampler restart too. -/
def execPowerOnReset (s : State) : Host.Outcome State Fault Refusal := .next (startLines (coldReset s))

/-- A pin after a conventional reset: its comparator outputs stand, as no reset sets them (R116). -/
def keepLine (old new : PinSt) : PinSt := { new with hi := old.hi, lo := old.lo }

/-- A conventional reset keeps `MG_RTC` with the AON grid (R468) and the AON sampler with its readings. -/
def warmReset (s : State) : State :=
  let c := coldReset s
  { c with
    pins := vmapIdx (fun p x => keepLine s.pins[p] x) c.pins
    tb := { c.tb with now := s.tb.now, wins := s.tb.wins, refMiss := s.tb.refMiss }
    pf := { c.pf with bankMv := s.pf.bankMv }
    mg := { c.mg with
            slot := s.mg.slot, frame := s.mg.frame, temps := s.mg.temps, outRun := s.mg.outRun, railOut := s.mg.railOut
            tj := s.mg.tj, tstack := s.mg.tstack, rtcFrame := s.mg.rtcFrame } }

/-- `CONVENTIONAL_RESET` (R435); the boot follows with `PERST_N_DEASSERT`. -/
def execConventionalReset (s : State) : Host.Outcome State Fault Refusal := .next (warmReset s)

/-- The host interface after an FLR (R372, R436): `HI_` registers, rings, MSI-X and buffers reset; link, identity and mirror
stay; the host sets bus mastering again at once (PRESUMED, log 9). -/
def flrHi (h : HI) : HI :=
  { sent := h.sent, busMaster := h.busMaster, linkUp := h.linkUp, serving := h.serving, subsys := h.subsys, mirror := h.mirror, mirrorAt := h.mirrorAt
    mseq := h.mseq
    rdata := h.rdata, rpoison := h.rpoison, rabort := h.rabort }

/-- Measurement requests of abandoned commands leave the glove ADCs (R372). -/
def flrAdc (a : Adc) : Adc :=
  { queue := a.queue.filter fun r => r.src.isNone
    cur := match a.cur with
      | some m => if m.req.src.isNone then some m else none
      | none => none }

/-- A power transition that a mailbox command asked for is abandoned with its command (R372): the state in force is kept, and in
P2 its PLLs are stopped (R35; DEDUCED, log 42). -/
def flrPower (s : State) : State :=
  if s.mg.pwr.any fun p => p.tag.isSome then
    let s1 := if s.mg.pstate = 2 then stopPlls s else s
    { s1 with mg := { s1.mg with pwr := none } }
  else s

/-- The blocks at an FLR (Table 17.4): the run ends as by `ABORT`, the park path acts, TIU gates and stream close, core debug
locks, the ensemble breaks. The time base is kept: Table 17.4 has no row for it, and an FLR is not taken for the reset after which
R43 has the epoch counter start from 0 (DEDUCED, log 42). -/
def flrBlocks (s : State) : State :=
  let s1 := parkAll 1 (tiuCloseAll (abortNow 0 s))
  let s2 := if s1.cs.open_ then closeStream 2 false s1 else s1
  flrPower { breakLocal s2 with
    hi := flrHi s2.hi
    pf := { s2.pf with adcs := vmap flrAdc s2.pf.adcs }
    pt := { s2.pt with mixed := [] }
    pm := { s2.pm with bar2 := [], newCfg := none }
    mg := { s2.mg with dbg := false, challenge := none } }

/-- `FLR` (R372, R435): a formed member contains itself first, with cause 0x10; event 0x0E08 with the commands abandoned. An SMBus power
request that waited for them starts (R418). -/
def flr (s : State) : State :=
  let s1 := if formed s then contain 0x10 s else s
  let n := s1.hi.exec.length
  smbResume (coreSettle (issue 0x0E08 [i1 (min 255 n)] (flrBlocks s1)))

/-- `FLR`. -/
def execFlr (s : State) : Host.Outcome State Fault Refusal := .next (flr s)

end Sys2Proof.Machine
end

