-- ==== Sys2Proof/Machine/Update.lean ====
section
/-! DEFINITION. Firmware update and calibration commands (17): `FW_STAGE`, `FW_COMMIT`, `FW_ACTIVATE`, `FW_INFO` (R437 to R440),
`CAL_SAVE`, `CAL_LOAD`, `CAL_CHECK` (R444 to R446). -/

namespace Sys2Proof.Machine

open Sys2Proof

/-! ### Firmware update -/

/-- No firmware-update command that started earlier executes (R440). -/
def fwTurn (tag : W16) (s : State) : Bool :=
  ((s.hi.exec.filter fun e => List.contains [0x1001, 0x1002, 0x1003] e.entry.opcode.toNat && !finished s e.entry.tag).head?).all
    fun e => e.entry.tag == tag

/-- A slot is the running one; in recovery no slot runs (R434). -/
def slotRuns (s : State) (k : Nat) : Bool := !s.bt.recovery && s.bt.runSlot == k

/-- A flash erase or program failed (R440): `E_MEMERR`, `FLASH_ERR`, event 0x100A with the flash address. -/
def flashFail (a : Nat) (e : Exec) (s : State) : State :=
  answer e eMemerr [] (issue 0x100A [i8 a] { s with bt := { s.bt with flashErr := true, fresh := freshen s 4 s.bt.fresh } })

/-- A slot uncommitted before it is staged (R437): where it was `NEXT`, the trial flags are cleared and the running slot is `NEXT`; in
recovery no slot runs and `NEXT` stays (log 43). -/
def uncommit (k : Nat) (s : State) : State :=
  let r := bootRec s
  let f := setFlag k false r.flags
  if r.next % 2 = k then
    writeRec { r with next := if s.bt.recovery then r.next else s.bt.runSlot, flags := setFlag 2 false (setFlag 3 false f) } s
  else writeRec { r with flags := f } s

/-- A write of the boot record failed for a slot (R440): the command fails, and the slot is left uncommitted (log 43). -/
def recordFail (k : Nat) (e : Exec) (s : State) : State :=
  let r := bootRec s
  flashFail (0x1000 * nextCopy s) e (writeRec { r with flags := setFlag k false r.flags } s)

/-- `FW_STAGE` accepted (R437): the slot is uncommitted, then the chunk's sectors are erased and written; after a failed program
their contents are free (log 3). -/
def stageRun (ok : Bool) (e : Exec) (s : State) : State :=
  let a := slotBase (payF e 0 1) + payF e 4 4
  let n := payF e 8 4
  let s1 := uncommit (payF e 0 1) s
  if ok then answer e eOk [] (flashWrite a (slice e.ind 16 n) s1)
  else
    let m := ceilTo 4096 n
    flashFail a e (takeFrees m (flashWrite a (freeBytes m s1) s1))

/-- `FW_STAGE` (R437, Table 17.7). -/
def fwStageCmd (ok : Bool) (e : Exec) (s : State) : State :=
  let k := payF e 0 1
  let off := payF e 4 4
  let n := payF e 8 4
  if ¬ fwTurn e.entry.tag s then s
  else checked [
    (decide (1 < k ∨ off % 4096 ≠ 0 ∨ n = 0 ∨ 1048560 < n ∨ indLen e.entry ≠ 16 + n) || !payZero e 1 3 || !payZero e 12 4, eInval)
    , (decide (1835008 < off + n), eRange), (slotRuns s k, eActive)] e (stageRun ok e) s

/-- `FW_STAGE`. -/
def execFwStage (tag : W16) (flashOk : Bool) (s : State) : Host.Outcome State Fault Refusal :=
  .next (runCmd 0x1001 tag (fwStageCmd flashOk) s)

/-- `FW_COMMIT` accepted (R438): the committed flag is set, event 0x1005. -/
def commitRun (ok : Bool) (k : Nat) (e : Exec) (s : State) : State :=
  let r := bootRec s
  if ok then
    answer e eOk [] (issue 0x1005 [i1 k, i8 (fwVersion s k)] (writeRec { r with flags := setFlag k true r.flags } s))
  else recordFail k e s

/-- `FW_COMMIT` (R438). -/
def fwCommitCmd (ok : Bool) (e : Exec) (s : State) : State :=
  let k := payF e 0 1
  if ¬ fwTurn e.entry.tag s then s
  else checked [
    (decide (1 < k) || !payZero e 1 47, eInval), (slotRuns s k, eActive), (!fwHeaderOk (fwHeader s k), eInval)
    , (!fwSigned s k, eSig), (decide (fwRollback s k < s.bt.fuses), eRollback), (decide (fieldAt (fwHeader s k) 8 2 < 3), eVersion)] e
    (commitRun ok k e) s

/-- `FW_COMMIT`. -/
def execFwCommit (tag : W16) (flashOk : Bool) (s : State) : Host.Outcome State Fault Refusal :=
  .next (runCmd 0x1002 tag (fwCommitCmd flashOk) s)

/-- A slot selected for the next boot, as a trial (R439), event 0x1006. -/
def activate (k : Nat) (s : State) : State :=
  let r := bootRec s
  issue 0x1006 [i1 k, i8 (fwVersion s k)]
    (writeRec { r with next := k, prev := s.bt.runSlot, flags := setFlag 2 true (setFlag 3 false r.flags) } s)

/-- The running trial confirmed (R439): trial flags cleared, fuses blown up to `ROLLBACK`, event 0x100B. -/
def confirmTrial (k : Nat) (s : State) : State :=
  let r := bootRec s
  let s1 := writeRec { r with flags := setFlag 2 false (setFlag 3 false r.flags) } s
  let s2 : State := { s1 with bt := { s1.bt with trial := false } }
  let n := fwRollback s k
  if s.bt.fuses < n then issue 0x100B [i1 n] { s2 with bt := { s2.bt with fuses := n, rollback := n } } else s2

/-- `FW_ACTIVATE` (R439). -/
def fwActivateCmd (ok : Bool) (e : Exec) (s : State) : State :=
  let k := payF e 0 1
  let sel := bitAt (bootRec s).flags k && !slotRuns s k
  let conf := slotRuns s k && s.bt.trial
  if ¬ fwTurn e.entry.tag s then s
  else checked [(decide (1 < k) || !payZero e 1 47, eInval), (!sel && !conf, eState)] e
    (fun t => if ¬ ok then recordFail k e t
      else answer e eOk [] (if sel then activate k t else confirmTrial k t)) s

/-- `FW_ACTIVATE`. -/
def execFwActivate (tag : W16) (flashOk : Bool) (s : State) : Host.Outcome State Fault Refusal :=
  .next (runCmd 0x1003 tag (fwActivateCmd flashOk) s)

/-- A version as 6 bytes: `MAJOR`, `MINOR`, `PATCH`. -/
def versionBytes (v : Nat) : List Byte := leBytes 2 (fld v 47 32) ++ leBytes 2 (fld v 31 16) ++ leBytes 2 (fld v 15 0)

/-- The data of `FW_INFO` (Table 17.7). -/
def fwInfoBytes (s : State) : List Byte :=
  let r := bootRec s
  versionBytes (fwVersion s 0) ++ versionBytes (fwVersion s 1)
    ++ [BitVec.ofNat 8 (r.flags % 4 + r.next % 2 * 4 + b2n (bitAt r.flags 2) * 8 + s.bt.runSlot * 16), BitVec.ofNat 8 s.bt.fuses
      , BitVec.ofNat 8 (fwRollback s 0), BitVec.ofNat 8 (fwRollback s 1)]

/-- `FW_INFO`. -/
def fwInfoCmd (e : Exec) (s : State) : State := answer e eOk (fwInfoBytes s) s

/-- `FW_INFO`. -/
def execFwInfo (tag : W16) (s : State) : Host.Outcome State Fault Refusal := .next (runCmd 0x1004 tag fwInfoCmd s)

/-! ### Calibration -/

/-- The nominal tap maps (R445): `TAP[j]` = 256 x j and `ZERO` = 0 for one generator. -/
def nominalGen : List Byte := ((List.range 80).flatMap fun j => leBytes 2 (256 * j)) ++ zeros 3

/-- The trim registers in force as the sections of Table 17.6 (R444). -/
def trimBody (s : State) : List Byte :=
  match s.bt.trims with
  | .image b => memRead 0 b 0 trimBytes
  | .nominal => ((List.range 3072).flatMap fun _ => nominalGen)
      ++ ((List.range (trimBytes - 500736)).map fun i => Config.nominalTrim (500736 + i))

/-- The header of a user trim set (R441, R444); `CALDATE` and `VBG` are free, since spec/ states none for it (log 26). -/
def trimHeader (body : List Byte) (s : State) : List Byte :=
  padTo 512 (leBytes 4 0x4B59434C ++ leBytes 2 1 ++ leBytes 2 6 ++ zeros 8 ++ leBytes 4 body.length ++ leBytes 4 (crc32c body).toNat
    ++ freeBytes 16 s)

/-- `CAL_SAVE` (R444). -/
def calSaveCmd (e : Exec) (s : State) : State :=
  checked [(payF e 0 8 % 64 != 0 || !payZero e 8 40, eInval)] e
    (fun t =>
      let l := trimHeader (trimBody t) t ++ trimBody t
      answer e eOk (leBytes 4 (512 + trimBytes)) (takeFrees 16 (hostWrite (payF e 0 8) l t))) s

/-- `CAL_SAVE`. -/
def execCalSave (tag : W16) (s : State) : Host.Outcome State Fault Refusal := .next (runCmd 0x1005 tag calSaveCmd s)

/-- The body of a user trim set holds a map that fails R73. -/
def userMapsBad (body : List Byte) : Bool := !(badMaps (memWrite 0 [] 0 body)).isEmpty

/-- Why `CAL_LOAD` refuses an image it has read (R444): header with its length, body CRC, signature or serial, tap maps. -/
def calRefusal (h body : List Byte) (len : Nat) (serial : W64) : Option Nat :=
  let kind := fieldAt h 6 2
  if fieldAt h 0 4 ≠ 0x4B59434C ∨ (kind ≠ 5 ∧ kind ≠ 6) ∨ ¬ calHeaderOk kind h ∨ len ≠ 512 + fieldAt h 16 4 then some eInval
  else if ¬ calCrcOk h body then some eCrc
  else if kind = 5 ∧ (¬ calSigned h body ∨ fieldAt h 8 8 ≠ serial.toNat) then some eSig
  else if kind = 6 ∧ userMapsBad body then some eInval else none

/-- A checked image is accepted (R444): a factory image is stored first where that is asked for; the command keeps the image, whose trims
come into force when its completion is written (`takesEffect`). -/
def calApply (ok store : Bool) (e : Exec) (h body : List Byte) (s : State) : State :=
  let kind := fieldAt h 6 2
  let put := store && kind == 5
  if put ∧ ¬ ok then
    let n := ceilTo 4096 (512 + body.length)
    flashFail calBase e (takeFrees n (flashWrite calBase (freeBytes n s) { s with bt := { s.bt with calFlash := false } }))
  else
    let s1 := if put then flashWrite calBase (h ++ body) { s with bt := { s.bt with calFlash := true } } else s
    answer e eOk [] (updExec e.entry.tag (fun x => { x with ind := h ++ body }) s1)

/-- `CAL_LOAD` (R444, Table 17.7): the whole image is read and checked before any trim changes. -/
def calLoadCmd (src : HostRead) (ok : Bool) (e : Exec) (s : State) : State :=
  let a := payF e 0 8
  let len := payF e 12 4
  checked [
    (decide (1 < payF e 8 1) || !payZero e 9 3 || !payZero e 16 32, eInval), (decide (3145728 < len), eRange)
    , (decide (len < 512), eInval), (src.fail.isSome, eMemerr)] e
    (fun t =>
      let h := hostBytes src a 512
      let body := hostBytes src (a + 512) (len - 512)
      match calRefusal h body len t.bt.serial with
      | some st => answer e st [] t
      | none => calApply ok (payF e 8 1 == 1) e h body t) s

/-- `CAL_LOAD`. -/
def execCalLoad (tag : W16) (src : HostRead) (flashOk : Bool) (s : State) : Host.Outcome State Fault Refusal :=
  .next (runCmd 0x1006 tag (calLoadCmd src flashOk) s)

/-- One record of `CAL_CHECK` (R446): the pin, the flag, 18 deviations in µV. -/
def checkRecord (p : Pin) (dev : List Int) : List Byte :=
  let d := (List.range 18).map fun i => dev.getD i 0
  let flag := d.any fun x => decide (500 < x.natAbs)
  padTo 128 (leBytes 2 p.val ++ leBytes 1 (b2n flag) ++ zeros 5 ++ d.flatMap fun x => leBytes 4 (unsgn 32 x))

/-- `CAL_CHECK` accepted (R446): one record per pin, ascending; event 0x1009 once where a pin is flagged. `dev` holds what the
calibration path measured: 18 deviations per pin. -/
def checkRun (dev : List Int) (e : Exec) (s : State) : State :=
  let pins := measPins e
  let recs := pins.zipIdx.map fun x => (x.1, (dev.drop (18 * x.2)).take 18)
  let big := recs.filter fun x => x.2.any fun d => decide (500 < d.natAbs)
  let worst := (dev.take (18 * pins.length)).foldl (fun m d => if m.natAbs < d.natAbs then d else m) 0
  let s1 := hostWrite (payF e 64 8) (recs.flatMap fun x => checkRecord x.1 x.2) s
  answer e eOk [] (if big.isEmpty then s1 else issue 0x1009 [i2 big.length, i4 (unsgn 32 worst)] s1)

/-- At every glove of its pins the ADC is free and the command's request is the next one (R19). -/
def adcTurn (e : Exec) (s : State) : Bool :=
  (measPins e).all fun p =>
    let a := s.pf.adcs[gloveOf p]
    a.cur.isNone && a.queue.head?.any fun r => r.src == some e.entry.tag

/-- The requests of a command leave the glove ADCs. -/
def adcLeave (tag : W16) (s : State) : State :=
  let go := fun (a : Adc) => { a with queue := a.queue.filter fun r => r.src != some tag }
  { s with pf := { s.pf with adcs := vmap go s.pf.adcs } }

/-- `CAL_CHECK` waits for the glove ADCs of its pins, which it asks for as a mailbox command (R19), and makes its measurements when
all of them are free for it (DEDUCED, log 31). -/
def checkTurn (dev : List Int) (e : Exec) (s : State) : State :=
  if adcTurn e s then checkRun dev e (adcLeave e.entry.tag s) else s

/-- `CAL_CHECK` (R445, R446). -/
def calCheckCmd (dev : List Int) (e : Exec) (s : State) : State :=
  let pins := measPins e
  if ¬ e.left.isEmpty then checkTurn dev e s
  else checked [
    (pins.isEmpty || payF e 64 8 % 8 != 0, eInval), (s.bt.cal == 0, eUncal)
    , (pins.any fun p => s.pins[p].ctl.func != 0 && !pinParked s p, eState)] e
    (fun t => checkTurn dev e
      (askMeas (some e.entry.tag) pins 0 0 (updExec e.entry.tag (fun x => { x with left := pins }) t))) s

/-- `CAL_CHECK`. -/
def execCalCheck (tag : W16) (dev : List Int) (s : State) : Host.Outcome State Fault Refusal :=
  .next (runCmd 0x1007 tag (calCheckCmd dev) s)

end Sys2Proof.Machine
end

