-- ==== Sys2Proof/Machine/HostRead.lean ====
section
/-! DEFINITION. Reads of BAR0 and BAR4: the register and window contents of Table 15.2 and Table 15.7 (R9, R373, R375, R383), the
epoch latch (R46, R47), the sizes of R374, and the merged view of a read that overlaps posted writes (R377). -/

namespace Sys2Proof.Machine

open Sys2Proof

/-! ### Register contents -/

/-- BAR0 offsets 0x0000 to 0x0FFF as a read finds them: the live registers, with the latched `TB_EPOCH_HI` and `TB_EPOCH_WRAP`
(R46). -/
def readImage (s : State) : Mem :=
  memWrite 0 (regImage s) 0x010C (leBytes 4 s.tb.hiLatch.toNat ++ leBytes 4 s.tb.wrapLatch.toNat)

/-- A byte of the MSI-X table: bit 0 of byte 12 of an entry is its mask bit (Table 15.2, log 9). -/
def msixByte (s : State) (a : Nat) : Byte :=
  if a % 16 = 12 then BitVec.ofNat 8 (b2n (s.hi.msixMask.getLsbD (a / 16))) else memGet 0 s.hi.msix a

/-- A byte of the snapshot counters: offset from 0x4000 (R257, Table 15.2). -/
def countByte (s : State) (a : Nat) : Byte :=
  if a < 0x800 then (leBytes 4 s.cl.snapPins[Fin.ofNat 512 (a / 4)]).getD (a % 4) 0
  else if a < 0xA00 then (leBytes 8 s.cl.snapSites[Fin.ofNat 64 ((a - 0x800) / 8)]).getD (a % 8) 0
  else if a < 0xA08 then (leBytes 8 s.cl.snapDev).getD (a % 8) 0
  else if a < 0xA10 then (leBytes 8 s.cl.snapVec.toNat).getD (a % 8) 0 else 0

/-- A byte of BAR0 above the registers: the windows of Table 15.2; offsets not listed read 0 (R373). -/
def windowByte (s : State) (a : Nat) : Byte :=
  if 0x1000 ≤ a ∧ a < 0x1400 then (sineBytes s.mx.ch[Fin.ofNat 16 ((a - 0x1000) / 64)]).getD (a % 64) 0
  else if 0x2000 ≤ a ∧ a < 0x2400 then msixByte s (a - 0x2000)
  else if 0x2800 ≤ a ∧ a < 0x2808 then (leBytes 8 s.hi.pba.toNat).getD (a % 8) 0
  else if 0x3000 ≤ a ∧ a < 0x4000 then memGet 0 s.ti.window (a - 0x3000)
  else if 0x4000 ≤ a then countByte s (a - 0x4000) else 0

/-- What a read of BAR0 finds (R9, R373, R375): WO registers and reserved bits read 0. -/
def bar0Bytes (s : State) (off n : Nat) : List Byte :=
  let img := readImage s
  (List.range n).map fun i => if off + i < 0x1000 then memGet 0 img (off + i) else windowByte s (off + i)

/-- A byte of BAR4 (Table 15.7). -/
def bar4Byte (s : State) (a : Nat) : Byte :=
  if a < 0x1000 then memGet 0 s.hi.mirror a
  else if a < 0x1008 then (leBytes 8 s.hi.mseq.toNat).getD (a % 8) 0
  else if 0x100000 ≤ a ∧ a < 0x102000 then memGet 0 s.mg.diag (a - 0x100000) else 0

/-! ### Posted writes that a read overlaps -/

/-- The request covers a byte of a register. -/
def hitsReg (w : Posted) (base n : Nat) : Bool := wHits w.off w.bytes base n

/-- A `RUN_CTL` write by its `CMD` (Table 15.3), after every earlier BAR2 write (R378). -/
def runCtlAct (cmd : Nat) (s0 : State) : State :=
  let s := bar2Drain s0
  if cmd = 1 then armWrite s
  else if cmd = 2 then goWrite s
  else if cmd = 3 then haltWrite s
  else if cmd = 4 then abortWrite s
  else refuseRunCtl cmd 1 0 s

/-- The registers of the host interface whose write acts (R374, R386, R387). -/
def ringAct (w : Posted) (s : State) : State :=
  let s1 := if hitsReg w 0x0038 4 then cmdSizeWrite (BitVec.ofNat 32 (wMerge w.off w.bytes 0x0038 4 s.hi.cmdSize)) s else s
  let s2 := if hitsReg w 0x003C 4 then doorbell (BitVec.ofNat 32 (wValue w.off w.bytes 0x003C 4)) s1 else s1
  let s3 := if hitsReg w 0x0044 4 then cplSizeWrite (BitVec.ofNat 32 (wMerge w.off w.bytes 0x0044 4 s2.hi.cplSize)) s2 else s2
  if hitsReg w 0x0054 4 then cplHeadWrite (BitVec.ofNat 32 (wValue w.off w.bytes 0x0054 4)) s3 else s3

/-- The registers of the other blocks whose write acts (R257, R287, R315, R335, R422). -/
def blockAct (w : Posted) (s : State) : State :=
  let s1 := if hitsReg w 0x0484 4 then cntSnap s else s
  let s2 := if hitsReg w 0x0528 8 then consWrite (BitVec.ofNat 64 (wValue w.off w.bytes 0x0528 8)) s1 else s1
  let s3 := if hitsReg w 0x0598 8 then tiuSnap (BitVec.ofNat 64 (wValue w.off w.bytes 0x0598 8)) s2 else s2
  let s4 := if hitsReg w 0x0828 4 then mgCtrl (BitVec.ofNat 32 (wMerge w.off w.bytes 0x0828 4 s3.mg.ctrl.toNat)) s3 else s3
  sineAt w.off w.bytes s4

/-- A BAR0 write leaves the buffer and is applied: every register it covers, in the order of the offsets within each block. -/
def applyPosted (w : Posted) (s : State) : State :=
  if w.bar4 then s
  else
    let s1 := plainWrite w.off w.bytes s
    let s2 := if hitsReg w 0x0010 4 then runCtlAct (wValue w.off w.bytes 0x0010 4 % 16) s1 else s1
    blockAct w (ringAct w s2)

/-- A read covers a byte of a buffered write. -/
def overlaps (bar4 : Bool) (off n : Nat) (w : Posted) : Bool :=
  w.bar4 == bar4 && wHits w.off w.bytes off n

/-- The buffered writes that a read waits for (R377): those up to the last that it covers a byte of. -/
def waitsFor (bar4 : Bool) (off n : Nat) (l : List Posted) : List Posted :=
  (l.reverse.dropWhile fun w => !overlaps bar4 off n w).reverse

/-- Those writes applied in order, the rest of the buffer kept (R377). -/
def mergeWrites (bar4 : Bool) (off n : Nat) (s : State) : State :=
  let l := waitsFor bar4 off n s.hi.posted
  let keep := s.hi.posted.drop l.length
  let s1 := l.foldl (fun t w => applyPosted w t) { s with hi := { s.hi with posted := [] } }
  { s1 with hi := { s1.hi with posted := keep } }

/-! ### Reads -/

/-- A read of BAR0 completes (R374): 1 to 64 bytes within one aligned 64-byte block. -/
def readOk (off n : Nat) : Bool := decide (1 ≤ n ∧ n ≤ 64 ∧ off / 64 = (off + n - 1) / 64)

/-- A read that covers `TB_EPOCH_LO` latches the high word and the wrap count (R46, R47). -/
def latchEpoch (s : State) : State :=
  { s with tb := { s.tb with hiLatch := BitVec.ofNat 32 (s.tb.epoch.toNat / 2 ^ 32), wrapLatch := s.tb.wraps } }

/-- A read request of BAR0 or BAR4: it waits for the posted writes it overlaps (R377), then returns what stands there; a BAR0
read of another size is a Completer Abort. -/
def barRead (bar4 : Bool) (off n : Nat) (s : State) : State :=
  if ¬ bar4 ∧ ¬ readOk off n then { s with hi := { s.hi with rdata := [], rpoison := false, rabort := true } }
  else
    let s1 := mergeWrites bar4 off n s
    let s2 := if ¬ bar4 ∧ covers off n 0x0108 0x010C then latchEpoch s1 else s1
    let data := if bar4 then (List.range n).map fun i => bar4Byte s2 (off + i) else bar0Bytes s2 off n
    { s2 with hi := { s2.hi with rdata := data, rpoison := false, rabort := false } }

/-- `TB_EPOCH_LO_READ`: the table's one read of a register; its operands admit every read of BAR0 and BAR4 (log 1). A request
outside its BAR, or while the endpoint serves none, has no effect (R371, R432). -/
def execTbEpochLoRead (req : BarReq) (s : State) : Host.Outcome State Fault Refusal :=
  let size := if req.bar4 then 0x1000000 else 0x10000
  .next (if s.hi.serving ∧ s.hi.linkUp ∧ req.off + req.len ≤ size ∧ req.len ≠ 0 then barRead req.bar4 req.off req.len s else s)

end Sys2Proof.Machine
end

