-- ==== Sys2Proof/Machine/Dispatch.lean ====
section
/-! DEFINITION. The dispatch: one arm for each command, each a direct call of its meaning. -/

namespace Sys2Proof.Machine

/-- The effect of a command on everything but the queue. -/
def exec (i : Instr) (s : State) : Host.Outcome State Fault Refusal :=
  match i with
  | .powerOnReset => Sys2Proof.Machine.execPowerOnReset s
  | .conventionalReset => Sys2Proof.Machine.execConventionalReset s
  | .perstNDeassert => Sys2Proof.Machine.execPerstNDeassert s
  | .bootComplete => Sys2Proof.Machine.execBootComplete s
  | .flr => Sys2Proof.Machine.execFlr s
  | .refclkMissingEdge => Sys2Proof.Machine.execRefclkMissingEdge s
  | .refclkMonitorWindowEnd count => Sys2Proof.Machine.execRefclkMonitorWindowEnd count s
  | .lockDetectorAssert q => Sys2Proof.Machine.execLockDetectorAssert q s
  | .lockDetectorDeassert q => Sys2Proof.Machine.execLockDetectorDeassert q s
  | .guardWindowEnd q count stayed => Sys2Proof.Machine.execGuardWindowEnd q count stayed s
  | .phaseAlignDone q phi => Sys2Proof.Machine.execPhaseAlignDone q phi s
  | .acquisitionTimeout => Sys2Proof.Machine.execAcquisitionTimeout s
  | .fabSwitchComplete => Sys2Proof.Machine.execFabSwitchComplete s
  | .epochWrap => Sys2Proof.Machine.execEpochWrap s
  | .tbEpochLoRead req => Sys2Proof.Machine.execTbEpochLoRead req s
  | .postedWriteReceive bar4 off bytes => Sys2Proof.Machine.execPostedWriteReceive bar4 off bytes s
  | .registerWrite off bytes => Sys2Proof.Machine.execRegisterWrite off bytes s
  | .arm => Sys2Proof.Machine.execArm s
  | .go => Sys2Proof.Machine.execGo s
  | .halt => Sys2Proof.Machine.execHalt s
  | .abort => Sys2Proof.Machine.execAbort s
  | .runCtlInvalidCmd cmd => Sys2Proof.Machine.execRunCtlInvalidCmd cmd s
  | .pendingStopAtBoundary => Sys2Proof.Machine.execPendingStopAtBoundary s
  | .atticFillComplete => Sys2Proof.Machine.execAtticFillComplete s
  | .vectorIssue => Sys2Proof.Machine.execVectorIssue s
  | .vectorAtFormatter => Sys2Proof.Machine.execVectorAtFormatter s
  | .edgeFire p => Sys2Proof.Machine.execEdgeFire p s
  | .compareEdge p => Sys2Proof.Machine.execCompareEdge p s
  | .conditionResolve => Sys2Proof.Machine.execConditionResolve s
  | .commitRelease finds => Sys2Proof.Machine.execCommitRelease finds s
  | .runEnd => Sys2Proof.Machine.execRunEnd s
  | .vec ecc => Sys2Proof.Machine.execVec ecc s
  | .rpt ecc => Sys2Proof.Machine.execRpt ecc s
  | .loop ecc => Sys2Proof.Machine.execLoop ecc s
  | .endl ecc => Sys2Proof.Machine.execEndl ecc s
  | .br ecc => Sys2Proof.Machine.execBr ecc s
  | .wait ecc => Sys2Proof.Machine.execWait ecc s
  | .ltk ecc => Sys2Proof.Machine.execLtk ecc s
  | .mark ecc => Sys2Proof.Machine.execMark ecc s
  | .tgate ecc => Sys2Proof.Machine.execTgate ecc s
  | .mxj ecc => Sys2Proof.Machine.execMxj ecc s
  | .site ecc => Sys2Proof.Machine.execSite ecc s
  | .evt ecc => Sys2Proof.Machine.execEvt ecc s
  | .svc ecc => Sys2Proof.Machine.execSvc ecc s
  | .haltWord ecc => Sys2Proof.Machine.execHaltWord ecc s
  | .evtOutputAct => Sys2Proof.Machine.execEvtOutputAct s
  | .evtPulseEnd line => Sys2Proof.Machine.execEvtPulseEnd line s
  | .serviceProcedureStart => Sys2Proof.Machine.execServiceProcedureStart s
  | .call ecc => Sys2Proof.Machine.execCall ecc s
  | .ret ecc => Sys2Proof.Machine.execRet ecc s
  | .sjmp ecc => Sys2Proof.Machine.execSjmp ecc s
  | .loadw ecc => Sys2Proof.Machine.execLoadw ecc s
  | .loadwComplete dr => Sys2Proof.Machine.execLoadwComplete dr s
  | .lvl ecc => Sys2Proof.Machine.execLvl ecc s
  | .pfn ecc => Sys2Proof.Machine.execPfn ecc s
  | .pmeas ecc => Sys2Proof.Machine.execPmeas ecc s
  | .tiurd ecc => Sys2Proof.Machine.execTiurd ecc s
  | .tiurdComplete => Sys2Proof.Machine.execTiurdComplete s
  | .sequenceStoreScrub addr ecc => Sys2Proof.Machine.execSequenceStoreScrub addr ecc s
  | .sqLoad tag src dr => Sys2Proof.Machine.execSqLoad tag src dr s
  | .sqConfig tag => Sys2Proof.Machine.execSqConfig tag s
  | .levelTimerExpiry => Sys2Proof.Machine.execLevelTimerExpiry s
  | .levelTick => Sys2Proof.Machine.execLevelTick s
  | .deglitchHoldEnd p d => Sys2Proof.Machine.execDeglitchHoldEnd p d s
  | .slewStep p d => Sys2Proof.Machine.execSlewStep p d s
  | .functionEnable p => Sys2Proof.Machine.execFunctionEnable p s
  | .ppmuRangeOverlapEnd p => Sys2Proof.Machine.execPpmuRangeOverlapEnd p s
  | .ppmuMeasStart g => Sys2Proof.Machine.execPpmuMeasStart g s
  | .ppmuMuxConnected g => Sys2Proof.Machine.execPpmuMuxConnected g s
  | .ppmuSettleExpiry g => Sys2Proof.Machine.execPpmuSettleExpiry g s
  | .ppmuConversion g code clamped => Sys2Proof.Machine.execPpmuConversion g code clamped s
  | .parkNFall pulse => Sys2Proof.Machine.execParkNFall pulse s
  | .parkNRise => Sys2Proof.Machine.execParkNRise s
  | .pfConfig tag => Sys2Proof.Machine.execPfConfig tag s
  | .pfUnpark tag => Sys2Proof.Machine.execPfUnpark tag s
  | .pfPpmuMeas tag => Sys2Proof.Machine.execPfPpmuMeas tag s
  | .ptBind tag src dr => Sys2Proof.Machine.execPtBind tag src dr s
  | .ptRefresh tag src dr => Sys2Proof.Machine.execPtRefresh tag src dr s
  | .storeRoomScrub off ecc => Sys2Proof.Machine.execStoreRoomScrub off ecc s
  | .pmConfig tag => Sys2Proof.Machine.execPmConfig tag s
  | .pmConfigFrameApply => Sys2Proof.Machine.execPmConfigFrameApply s
  | .pmRegion tag => Sys2Proof.Machine.execPmRegion tag s
  | .pmWfclr tag => Sys2Proof.Machine.execPmWfclr tag s
  | .pmVerify tag src dr => Sys2Proof.Machine.execPmVerify tag src dr s
  | .atticFetchComplete item spare dr => Sys2Proof.Machine.execAtticFetchComplete item spare dr s
  | .hostsrcReadComplete item spare src => Sys2Proof.Machine.execHostsrcReadComplete item spare src s
  | .dramScrub addr ecc => Sys2Proof.Machine.execDramScrub addr ecc s
  | .bar2Write addr bytes poisoned => Sys2Proof.Machine.execBar2Write addr bytes poisoned s
  | .bar2WriteApply ecc => Sys2Proof.Machine.execBar2WriteApply ecc s
  | .bar2Read addr len dr => Sys2Proof.Machine.execBar2Read addr len dr s
  | .cellarGranuleWrite => Sys2Proof.Machine.execCellarGranuleWrite s
  | .cellarReadbackComplete ecc => Sys2Proof.Machine.execCellarReadbackComplete ecc s
  | .clCntSnap => Sys2Proof.Machine.execClCntSnap s
  | .clConfig tag => Sys2Proof.Machine.execClConfig tag s
  | .comparatorCrossing p th at_ rise tiuUE => Sys2Proof.Machine.execComparatorCrossing p th at_ rise tiuUE s
  | .triggerSpanTimeout p => Sys2Proof.Machine.execTriggerSpanTimeout p s
  | .triggerHitDelivery => Sys2Proof.Machine.execTriggerHitDelivery s
  | .rawSample p => Sys2Proof.Machine.execRawSample p s
  | .unitPlace pset => Sys2Proof.Machine.execUnitPlace pset s
  | .frameFlushExpiry pset => Sys2Proof.Machine.execFrameFlushExpiry pset s
  | .frameSend => Sys2Proof.Machine.execFrameSend s
  | .stagingWrite => Sys2Proof.Machine.execStagingWrite s
  | .stagingReadComplete dr => Sys2Proof.Machine.execStagingReadComplete dr s
  | .streamIrqTimer => Sys2Proof.Machine.execStreamIrqTimer s
  | .csConsWrite v => Sys2Proof.Machine.execCsConsWrite v s
  | .csOpen tag => Sys2Proof.Machine.execCsOpen tag s
  | .csClose req => Sys2Proof.Machine.execCsClose req s
  | .tgateAct => Sys2Proof.Machine.execTgateAct s
  | .gateInEdge line rise => Sys2Proof.Machine.execGateInEdge line rise s
  | .evtInEdge line rise => Sys2Proof.Machine.execEvtInEdge line rise s
  | .tiuGateReady g r1 r2 => Sys2Proof.Machine.execTiuGateReady g r1 r2 s
  | .tiuShotOverflow g => Sys2Proof.Machine.execTiuShotOverflow g s
  | .tiConfig tag => Sys2Proof.Machine.execTiConfig tag s
  | .tiClear tag => Sys2Proof.Machine.execTiClear tag s
  | .tiRead tag => Sys2Proof.Machine.execTiRead tag s
  | .tiSnap mask => Sys2Proof.Machine.execTiSnap mask s
  | .mxUpdate larderUE => Sys2Proof.Machine.execMxUpdate larderUE s
  | .mxJumpRequest ch src => Sys2Proof.Machine.execMxJumpRequest ch src s
  | .mxSegmentRead ch addr ecc => Sys2Proof.Machine.execMxSegmentRead ch addr ecc s
  | .sineBlockWrite off bytes => Sys2Proof.Machine.execSineBlockWrite off bytes s
  | .mxConfig tag => Sys2Proof.Machine.execMxConfig tag s
  | .mxSegtab tag => Sys2Proof.Machine.execMxSegtab tag s
  | .mxLoad tag src dr => Sys2Proof.Machine.execMxLoad tag src dr s
  | .mxStart tag => Sys2Proof.Machine.execMxStart tag s
  | .mxJump tag => Sys2Proof.Machine.execMxJump tag s
  | .mxStop tag => Sys2Proof.Machine.execMxStop tag s
  | .ensForm tag => Sys2Proof.Machine.execEnsForm tag s
  | .ensFormTimeout => Sys2Proof.Machine.execEnsFormTimeout s
  | .ensBreak tag => Sys2Proof.Machine.execEnsBreak tag s
  | .ensExpect tag => Sys2Proof.Machine.execEnsExpect tag s
  | .ensTmark tag => Sys2Proof.Machine.execEnsTmark tag s
  | .tmarkSend => Sys2Proof.Machine.execTmarkSend s
  | .timeMarkEvent => Sys2Proof.Machine.execTimeMarkEvent s
  | .portTrainingDone port result => Sys2Proof.Machine.execPortTrainingDone port result s
  | .hargoControlSlot port slot => Sys2Proof.Machine.execHargoControlSlot port slot s
  | .linkBlockLockLost port => Sys2Proof.Machine.execLinkBlockLockLost port s
  | .syncProbeSend => Sys2Proof.Machine.execSyncProbeSend s
  | .syncProbe time => Sys2Proof.Machine.execSyncProbe time s
  | .refclkCountCheck count => Sys2Proof.Machine.execRefclkCountCheck count s
  | .contribBurst => Sys2Proof.Machine.execContribBurst s
  | .resultBurst => Sys2Proof.Machine.execResultBurst s
  | .armBurst => Sys2Proof.Machine.execArmBurst s
  | .armBurstAtime => Sys2Proof.Machine.execArmBurstAtime s
  | .goBurst => Sys2Proof.Machine.execGoBurst s
  | .goBurstAtime => Sys2Proof.Machine.execGoBurstAtime s
  | .haltBurst => Sys2Proof.Machine.execHaltBurst s
  | .haltBurstParkAtime => Sys2Proof.Machine.execHaltBurstParkAtime s
  | .haltreqBurst => Sys2Proof.Machine.execHaltreqBurst s
  | .discordBurst => Sys2Proof.Machine.execDiscordBurst s
  | .tmarkBurst => Sys2Proof.Machine.execTmarkBurst s
  | .joinMessage port member ensId major depth way => Sys2Proof.Machine.execJoinMessage port member ensId major depth way s
  | .formedMessage members => Sys2Proof.Machine.execFormedMessage members s
  | .armCheckRequest => Sys2Proof.Machine.execArmCheckRequest s
  | .armCheckReply src pass digest imageId crc profile common => Sys2Proof.Machine.execArmCheckReply src pass digest imageId crc profile common s
  | .armCheckReplyTimeout => Sys2Proof.Machine.execArmCheckReplyTimeout s
  | .armedReport src idle => Sys2Proof.Machine.execArmedReport src idle s
  | .breakMessage => Sys2Proof.Machine.execBreakMessage s
  | .mgmtRetransmitTimeout port => Sys2Proof.Machine.execMgmtRetransmitTimeout port s
  | .hiCmdDb v => Sys2Proof.Machine.execHiCmdDb v s
  | .commandFetch entry => Sys2Proof.Machine.execCommandFetch entry s
  | .commandStart src => Sys2Proof.Machine.execCommandStart src s
  | .completionWrite => Sys2Proof.Machine.execCompletionWrite s
  | .completionIrqTimer => Sys2Proof.Machine.execCompletionIrqTimer s
  | .hiCplHead v => Sys2Proof.Machine.execHiCplHead v s
  | .hiCmdSize v => Sys2Proof.Machine.execHiCmdSize v s
  | .hiCplSize v => Sys2Proof.Machine.execHiCplSize v s
  | .hiNop tag => Sys2Proof.Machine.execHiNop tag s
  | .hiInfo tag => Sys2Proof.Machine.execHiInfo tag s
  | .mirrorRefresh => Sys2Proof.Machine.execMirrorRefresh s
  | .coreWake cause => Sys2Proof.Machine.execCoreWake cause s
  | .sensorSlotEnd reading => Sys2Proof.Machine.execSensorSlotEnd reading s
  | .thermalTrip115 sensor => Sys2Proof.Machine.execThermalTrip115 sensor s
  | .thermalTrip125 sensor => Sys2Proof.Machine.execThermalTrip125 sensor s
  | .eventLogDrain => Sys2Proof.Machine.execEventLogDrain s
  | .persistCopy ok => Sys2Proof.Machine.execPersistCopy ok s
  | .diagSnapshot => Sys2Proof.Machine.execDiagSnapshot s
  | .pwrSet tag => Sys2Proof.Machine.execPwrSet tag s
  | .powerStepComplete ok => Sys2Proof.Machine.execPowerStepComplete ok s
  | .mgRelease tag => Sys2Proof.Machine.execMgRelease tag s
  | .mgLogRead tag => Sys2Proof.Machine.execMgLogRead tag s
  | .mgSensors tag => Sys2Proof.Machine.execMgSensors tag s
  | .mgDbgUnlockChallenge tag => Sys2Proof.Machine.execMgDbgUnlockChallenge tag s
  | .mgDbgUnlockToken tag => Sys2Proof.Machine.execMgDbgUnlockToken tag s
  | .smbReadStatus => Sys2Proof.Machine.execSmbReadStatus s
  | .smbReadSensors => Sys2Proof.Machine.execSmbReadSensors s
  | .smbReadRecord => Sys2Proof.Machine.execSmbReadRecord s
  | .smbPwrSet target => Sys2Proof.Machine.execSmbPwrSet target s
  | .smbAlertResponse => Sys2Proof.Machine.execSmbAlertResponse s
  | .mgCtrlWrite v => Sys2Proof.Machine.execMgCtrlWrite v s
  | .muxKeeperRelease => Sys2Proof.Machine.execMuxKeeperRelease s
  | .fwStage tag flashOk => Sys2Proof.Machine.execFwStage tag flashOk s
  | .fwCommit tag flashOk => Sys2Proof.Machine.execFwCommit tag flashOk s
  | .fwActivate tag flashOk => Sys2Proof.Machine.execFwActivate tag flashOk s
  | .fwInfo tag => Sys2Proof.Machine.execFwInfo tag s
  | .calSave tag => Sys2Proof.Machine.execCalSave tag s
  | .calLoad tag src flashOk => Sys2Proof.Machine.execCalLoad tag src flashOk s
  | .calCheck tag dev => Sys2Proof.Machine.execCalCheck tag dev s
  | .localEntryResolution => Sys2Proof.Machine.execLocalEntryResolution s
  | .axrasStart busMaster => Sys2Proof.Machine.execAxrasStart busMaster s
  | .dataSlotAcknowledgement ack => Sys2Proof.Machine.execDataSlotAcknowledgement ack s

end Sys2Proof.Machine
end

