-- ==== Sys2Proof/Machine/Analog.lean ====
section
/-! DEFINITION. What the lands of a pin and of a margin output show (05, 13): level voltages (R105, R323), the driver (R114), the
terminator (R115, R118, R119, R127), the comparator thresholds (R116), the force stage (R122 to R124), and the margin output (R320,
R321). Voltages are in 1/65536 mV, so that every code's level is a whole number. No row reads these definitions: they say what the
state means at the lands. -/

namespace Sys2Proof.Machine

open Sys2Proof

/-! ### Levels -/

/-- The voltage of a level code (R105): −0.2 V + code x 2.2 V / 65,536, in 1/65536 mV. -/
def codeVolt (c : W16) : Int := 2200 * (c.toNat : Int) - 200 * 65536

/-- The voltage of a margin output's code (R320): code x 2.0 V / 262,144, in 1/65536 mV. -/
def mxVolt (c : BitVec 18) : Int := 500 * (c.toNat : Int)

/-- What the margin channel of a bank adds to a level that its `ROUTE` selects (R323): (V_MX − 1.0 V) / 4; `bit` is 1 for `VTT`, 2
for `CHI`, 3 for `CLO`. -/
def refShift (s : State) (b : Bank) (bit : Nat) : Option Int :=
  let c := s.mx.ch[(Fin.ofNat 16 b.val : Chan)]
  if c.route.getLsbD 0 ∧ c.route.getLsbD bit then some ((mxVolt (mxLand s c) - 1000 * 65536) / 4) else none

/-- A voltage within limits. -/
def limitTo (lo hi v : Int) : Int := max lo (min hi v)

/-- The voltage that a level DAC of a pin gives (R105, R129, R323): its output code, with the bank reference where a margin channel
modulates it. -/
def levelVolt (s : State) (p : Pin) (i : DacIx) : Int :=
  let v := codeVolt s.pins[p].dacs[i].out
  let b := bankOf p
  let shift := if i = 4 then refShift s b 1 else if i = 2 then refShift s b 2 else if i = 3 then refShift s b 3 else none
  match shift with
  | none => v
  | some d => if i = 4 then limitTo 0 (s.pf.bankMv[b] * 65536) (v + d) else limitTo (-200 * 65536) (2000 * 65536) (v + d)

/-! ### Driver and terminator -/

/-- What the driver puts out (R114, R118): `DHI` for data 1 and `DLO` for data 0 while its enable is 1 in pattern function, within its swing of
0 V to `VIO_Bb`; else it is at high impedance, as in the park state and in the break of a function change (R119, R127). -/
def driverOut (s : State) (p : Pin) : Option Int :=
  let x := s.pins[p]
  if acts s p ∧ x.ctl.func = 3 ∧ x.en then
    some (limitTo 0 (s.pf.bankMv[bankOf p] * 65536) (levelVolt s p (if x.dat then 0 else 1)))
  else none

/-- The function connects the terminator (Table 5.3). -/
def funcTerm (f : BitVec 3) : Bool := f == 1 || f == 2 || f == 3

/-- The voltage that a connected 50 Ω terminator pulls to (R115); `none` while it is disconnected. In the park state, and until a
function is enabled, it stands at `PARK_TERM`, to the `VTT` park code (R119, R127, Table 5.6). -/
def terminator (s : State) (p : Pin) : Option Int :=
  let x := s.pins[p]
  if acts s p then
    (if funcTerm x.ctl.func ∧ x.ctl.term = 1 ∧ (driverOut s p).isNone then some (levelVolt s p 4) else none)
  else if x.parkTerm = 1 then some (codeVolt x.dacs[(4 : DacIx)].park) else none

/-! ### Comparators -/

/-- The hysteresis of a pin in 1/65536 mV (R116, Table 5.6). -/
def hystOf (c : FeCtl) : Int := 65536 * (match c.hyst.toNat with
  | 0 => 0
  | 1 => 5
  | 2 => 10
  | _ => 20)

/-- The line voltage at which a comparator output makes a crossing (R116): threshold + h/2 on a rising line, − h/2 on a falling
one. -/
def crossVolt (s : State) (p : Pin) (k : XKind) : Int :=
  let h := hystOf s.pins[p].ctl / 2
  match k with
  | .chiRise => levelVolt s p 2 + h
  | .chiFall => levelVolt s p 2 - h
  | .cloRise => levelVolt s p 3 + h
  | .cloFall => levelVolt s p 3 - h

/-! ### The force stage -/

/-- A PPMU range in pA (Table 5.4). -/
def rangePa (r : BitVec 3) : Nat :=
  match r.toNat with
  | 0 => 2000000
  | 1 => 20000000
  | 2 => 200000000
  | 3 => 2000000000
  | _ => 32000000000

/-- The current clamp of a range in FVMI, in pA (Table 5.4): 105 % of the range. -/
def clampPa (r : BitVec 3) : Nat := rangePa r / 100 * 105

/-- The clamp in force: the larger range's through a make-before-break overlap (R124). -/
def clampNow (p : PinSt) : Nat :=
  match p.rangeFrom with
  | some r => max (clampPa r) (clampPa p.ctl.range)
  | none => clampPa p.ctl.range

/-- What the force stage does at the land (R122, R123). -/
inductive Force where
  /-- Off: the function is another one, or the park state holds. -/
  | off
  /-- FNMV: at high impedance. -/
  | highZ
  /-- FVMI: a voltage in 1/65536 mV, and the current clamp in pA. -/
  | volt (v : Int) (clamp : Nat)
  /-- FIMV: a current in 1/32768 pA, and the span that limits the voltage. -/
  | current (i lo hi : Int)
deriving DecidableEq, Repr

/-- The force value's code, range and mode (R122 to R124): held through an overlap. -/
def forceCode (p : PinSt) : W16 × BitVec 3 × BitVec 2 :=
  if p.rangeFrom.isSome then (p.rangeForce, p.rangeHeld, p.rangeMode)
  else (p.dacs[(5 : DacIx)].out, p.ctl.range, p.ctl.mode)

/-- The force stage of a pin (R122 to R124). -/
def forceOut (s : State) (p : Pin) : Force :=
  let x := s.pins[p]
  let f := forceCode x
  if ¬ (acts s p ∧ x.ctl.func = 4) then .off
  else match f.2.2.toNat with
    | 0 => .volt (codeVolt f.1) (clampNow x)
    | 1 =>
      let a := levelVolt s p 3
      let b := levelVolt s p 2
      .current (((f.1.toNat : Int) - 0x8000) * rangePa f.2.1) (min a b) (max a b)
    | _ => .highZ

/-- The block neither drives nor loads a land (R115). -/
def undriven (s : State) (p : Pin) : Bool :=
  (driverOut s p).isNone && (terminator s p).isNone && (forceOut s p == .off || forceOut s p == .highZ)

/-! ### Margin outputs -/

/-- What a margin output regulates (R320, R321): the voltage, and whether at the sense land `MXSnn` (`SENSE` 1) or at `MXnn`. -/
def mxRegulates (s : State) (i : Chan) : Int × Bool := (mxVolt (mxLand s s.mx.ch[i]), s.mx.ch[i].sense)

/-- The clamp code toward which a channel drives with `SENSE` 1 and `MXSnn` open (R456); which of the two is not stated, and free
(log 45). -/
def mxOpenCode (s : State) (i : Chan) : BitVec 18 :=
  if Config.freeBool i.val then s.mx.ch[i].clampHi else s.mx.ch[i].clampLo

/-- The voltage that a margin output drives toward; `sensed` says whether its sense land is connected (R456). -/
def mxDrives (s : State) (i : Chan) (sensed : Bool) : Int :=
  if s.mx.ch[i].sense && !sensed then mxVolt (mxOpenCode s i) else (mxRegulates s i).1

/-! ### Package and life -/

/-- The land at column `c` and ring `r` of a quadrant's edge band: X and Y (R466, R464). -/
def bandLand (q : Nat) (c r : Nat) : Nat × Nat :=
  match q with
  | 0 => (c, r)
  | 1 => (77 - r, c)
  | 2 => (77 - c, 77 - r)
  | _ => (r, 77 - c)

/-- The column of a pin's land (R466). -/
def pinColumn (p : Pin) : Nat := 9 * (p.val % 128 / 16) + p.val % 16 / 2 + 1

/-- The land of a pin (R466): an even pin on ring 1, an odd one on ring 4. -/
def pinLand (p : Pin) : Nat × Nat := bandLand (p.val / 128) (pinColumn p) (if p.val % 2 = 0 then 1 else 4)

/-- The ground land of a pin (R466): on ring 2 for an even pin, on ring 3 for an odd one. -/
def pinGround (p : Pin) : Nat × Nat := bandLand (p.val / 128) (pinColumn p) (if p.val % 2 = 0 then 2 else 3)

/-- The four shield grounds of group `j` of a quadrant's pins (R466): column 9j + 9 on every ring. -/
def shieldLands (q j : Nat) : List (Nat × Nat) := [1, 2, 3, 4].map fun r => bandLand q (9 * j + 9) r

/-- Tenths of a year of life that a year at a junction temperature in 1/16 °C uses (R463, Table 18.11); none is stated above 110 °C. -/
def lifeUse (tj : W16) : Option Nat :=
  let t := tj.toInt
  if t ≤ 1520 then some 10 else if t ≤ 1600 then some 16 else if t ≤ 1680 then some 25 else if t ≤ 1760 then some 40 else none

end Sys2Proof.Machine
end

