-- ==== Sys2Proof/Safety.lean ====
section
/-! DEFINITION. What the statements are written in: the parts of the state and frames over them, the traces that an event leaves
in the log and the error summary, canonical memories, a sound time base, the park state, and what a safe run is. -/

namespace Sys2Proof.Machine

open Sys2Proof

/-! ### Frames -/

/-- The parts of the state: one for each field of `State`. -/
inductive Part where
  | tb | pins | pf | tg | pt | pm | sq | sp | cl | cs | ti | mx | en | hi | mg | bt | hostMem | pending | freeCtr
deriving DecidableEq, Repr

/-- A part is the same in two states. -/
def samePart (s t : State) : Part → Prop
  | .tb => t.tb = s.tb
  | .pins => t.pins = s.pins
  | .pf => t.pf = s.pf
  | .tg => t.tg = s.tg
  | .pt => t.pt = s.pt
  | .pm => t.pm = s.pm
  | .sq => t.sq = s.sq
  | .sp => t.sp = s.sp
  | .cl => t.cl = s.cl
  | .cs => t.cs = s.cs
  | .ti => t.ti = s.ti
  | .mx => t.mx = s.mx
  | .en => t.en = s.en
  | .hi => t.hi = s.hi
  | .mg => t.mg = s.mg
  | .bt => t.bt = s.bt
  | .hostMem => t.hostMem = s.hostMem
  | .pending => t.pending = s.pending
  | .freeCtr => t.freeCtr = s.freeCtr

/-- Every part but the listed ones is the same. -/
def Keeps (l : List Part) (s t : State) : Prop := ∀ p : Part, p ∉ l → samePart s t p

/-- Management state with the event-log fields of another: `SEQ`, the queues, their drop counts, `SMB_ALERT_N` and a second
fatal code (R405, R407, R410, R421). -/
def withLog (a b : MG) : MG :=
  { b with seq := a.seq, queues := a.queues, lost := a.lost, alert := a.alert, second := a.second }

/-- Host-interface state with the error-summary and message traces of another: `HI_ERRSUM.BLK`, messages sent, the pending-bit
array, the bits set in the present cycle (R10, R382, R385). -/
def withTrace (a b : HI) : HI := { b with blk := a.blk, sent := a.sent, pba := a.pba, fresh := a.fresh }

/-- The management registers are the same but for the event log. -/
def SameMg (s t : State) : Prop := withLog s.mg t.mg = s.mg

/-- The host-interface registers are the same but for the traces that events leave. -/
def SameHi (s t : State) : Prop := withTrace s.hi t.hi = s.hi

/-- Everything is the same but the listed parts and the log: what a command that only issues events beside its effect leaves. -/
def KeepsButLog (l : List Part) (s t : State) : Prop :=
  Keeps (.mg :: .hi :: l) s t ∧ (Part.mg ∉ l → SameMg s t) ∧ (Part.hi ∉ l → SameHi s t)

/-- What the passing of time can change before the epoch wraps (log 2): time itself, and the stamps, hits and shots that come due; the
wrap may also write frames to the staging region (R44, R284, R289). -/
abbrev passParts : List Part := [.tb, .pins, .cs, .ti, .mx, .hi, .mg, .freeCtr]

/-- Device DRAM reads the same outside a range of addresses. -/
def DramSameOutside (a n : Nat) (s t : State) : Prop :=
  ∀ x, (x < a ∨ a + n ≤ x) → dramByte t.pm x = dramByte s.pm x

/-- Host memory reads the same outside a range of addresses. -/
def HostSameOutside (a n : Nat) (s t : State) : Prop :=
  ∀ x, (x < a ∨ a + n ≤ x) → memGet 0 t.hostMem x = memGet 0 s.hostMem x

/-! ### Where a word executes -/

/-- The vector context stands before word `w` of an opcode, no stop is due, and the word decodes without a fault (R198, R214);
`u` is the state with the word's decode slot taken (R217, R218). -/
abbrev VecReady (op w : Nat) (s u : State) : Prop :=
  atWord s = true ∧ stopDue s = false ∧ takeSlot s = some u ∧ wordAt u u.sq.pc = w ∧ opOf w = op
    ∧ decodeCause false u u.sq.pc = none

/-- The commands of the vector context's words with an outcome of the store's SECDED check (Table 8.1). -/
def vecCommands (ecc : Ecc) : List Instr := [
  .vec ecc, .rpt ecc, .loop ecc, .endl ecc, .br ecc, .wait ecc, .ltk ecc, .mark ecc, .tgate ecc, .mxj ecc, .site ecc, .evt ecc
  , .svc ecc, .haltWord ecc]

/-- The state with the program counter of the vector context past the word it stands at. -/
def pastWord (s : State) : State := stepPast s.sq.pc s

/-- The service context stands before word `w` of an opcode in procedure `p`, and the word decodes without a fault (R198,
R220); `u` is the state with the word's decode slot taken (R217). -/
abbrev SvcReady (op w : Nat) (p : Proc) (s u : State) : Prop :=
  s.sq.proc = some p ∧ p.block = none ∧ u = freeSlot s ∧ wordAt u p.pc = w ∧ opOf w = op ∧ decodeCause true u p.pc = none

/-- The state with another procedure in the service context. -/
def withProc (p : Option Proc) (s : State) : State := { s with sq := { s.sq with proc := p } }

/-! ### Completions -/

/-- The completion of a command with a status and result data (Table 15.10): data only with `E_OK` (R390). -/
def cplOf (e : Exec) (status : Nat) (data : List Byte) : Cpl :=
  { tag := e.entry.tag, status := BitVec.ofNat 16 status, opcode := e.entry.opcode
    data := if status = 0 then data else [], hash := some e.entry.hash }

/-- The command's completion, and nothing else of the host interface, is new in `t`. -/
def Answered (e : Exec) (status : Nat) (data : List Byte) (s t : State) : Prop :=
  t.hi = { s.hi with cpls := s.hi.cpls ++ [cplOf e status data] }

/-- The command's completion is new in `t`; events beside it may have left their traces (R382). -/
def Replied (e : Exec) (status : Nat) (data : List Byte) (s t : State) : Prop :=
  t.hi.cpls = s.hi.cpls ++ [cplOf e status data] ∧ withTrace s.hi { t.hi with cpls := s.hi.cpls } = s.hi

/-! ### Invariants -/

/-- The trims in force hold their image in canonical form. -/
def trimsWf : Trims → Bool
  | .nominal => true
  | .image b => Memory.wf 0 b

/-- Every sparse memory of the block has the canonical form (log 5, log 6). -/
def memoriesWf (s : State) : Bool :=
  Memory.wf 0 s.pm.dram && Memory.wf 0 s.hostMem && Memory.wf 0 s.pt.room && Memory.wf 0 s.pt.shadow
    && Memory.wf 0 s.ti.window && Memory.wf 0 s.mx.larder && Memory.wf 0 s.hi.msix && Memory.wf 0 s.hi.mirror
    && Memory.wf 0 s.mg.diag && Memory.wf 0xFF s.bt.flash && trimsWf s.bt.trims

/-- The time base is sound: the epoch is a multiple of the 8,192 ticks of a fabric cycle, and it is valid only while FAB runs
from the edge clock (R41, R42). -/
def timeBaseSound (s : State) : Bool :=
  decide (s.tb.epoch.toNat % 8192 = 0) && (!s.tb.epochValid || s.tb.fabSrc == .edge)

/-- The park state holds on every pin and every margin channel (R127, R333): drivers off, every DAC and every margin output at
its park code. -/
def Parked (s : State) : Prop :=
  s.pf.parked = true
    ∧ (∀ p : Pin, s.pins[p].enabled = false ∧ s.pins[p].en = false ∧ ∀ d : DacIx, s.pins[p].dacs[d].out = s.pins[p].dacs[d].park)
    ∧ ∀ c : Chan, s.mx.ch[c].state = .parked ∧ s.mx.ch[c].code = s.mx.ch[c].park

/-- A safe run of `n` steps: none of them stops. -/
def safeRun : Nat → State → Prop
  | 0, _ => True
  | n + 1, s => ∃ t, step s = .next t ∧ safeRun n t

end Sys2Proof.Machine
end

