-- ==== Sys2Proof/Certificates/Slice0/Obligations.lean ====
section
/-! DEFINITION. The statements about the model, for the provers. Each formalises rules of the specification, cited in its docstring;
where a clause rests on a choice of the model, the docstring names the log entry. -/

open Sys2Proof Sys2Proof.Machine

/-- A step takes the front command and runs `exec` on it with the queue's rest; an empty queue lets one fabric cycle pass (the
model's choice, log 2). One idle fabric cycle (log 2): 1 ns and 8,192 epoch ticks on the edge clock, below the wrap; 4 ns and no epoch tick on the
safe clock or the backup oscillator (R38, R41). The stamps, hits and shots that come due with time are R273, R278 and R307. -/
def Obligations.stepRunsFrontCommand : Prop :=
  ((∀ (c : Instr) (rest : List Instr) (s : State),
      step { s with pending := c :: rest } = exec c { s with pending := rest })
    ∧ ∀ s : State, s.pending = [] → step s = .next (idleCycle s))
    ∧ (∀ s : State, s.pending = [] →
    (s.tb.fabSrc = .edge → s.tb.epoch.toNat + 8192 < 2 ^ 64 →
      ∃ t, step s = .next t
        ∧ t.tb = { s.tb with now := s.tb.now + 8192, epoch := s.tb.epoch + 8192, sticky := stickyNow s }
        ∧ Keeps passParts s t
        ∧ (s.cs.pendX = [] → s.cs.hits = [] → s.ti.recent = [] → Keeps [.tb] s t))
    ∧ (s.tb.fabSrc ≠ .edge →
      step s = .next { s with tb := { s.tb with now := s.tb.now + 32768, sticky := stickyNow s } }))

/-- What reset leaves (02, 05, 06, 08, 14, 15, 16, 17), as far as spec/ gives it. Two values are the model's choice: that every MSI-X
vector is masked and that bus mastering is off (log 9). -/
def Obligations.resetHoldsSpecValues : Prop :=
  let s := State.reset
  (s.pf.parked = true ∧ ∀ p : Pin, s.pins[p].enabled = false ∧ s.pins[p].dacs[(0 : DacIx)].out = 0x1746)
    ∧ (s.mg.pstate = 3 ∧ s.mg.contained = false ∧ s.mg.log = [] ∧ s.mg.seq = 0)
    ∧ (s.sq.state = .idle ∧ s.sq.loaded = false ∧ s.pt.bound = false)
    ∧ (s.en.state = .standalone ∧ s.en.discord = 0)
    ∧ (s.tb.epochValid = false ∧ s.tb.epoch = 0 ∧ s.tb.wraps = 0 ∧ ∀ q : Quad, s.tb.guardOpen[q] = false)
    ∧ (s.hi.cmdSize = 0 ∧ s.hi.cplSize = 0 ∧ s.hi.msixMask = 0xFFFFFFFFFFFFFFFF ∧ s.hi.busMaster = false)
    ∧ (s.hi.vendor = 0x1E6B ∧ s.hi.device = 0x0512 ∧ s.hi.classCode = 0x118000)
    ∧ (s.cs.open_ = false ∧ s.pm.profileB = false ∧ ∀ c : Chan, s.mx.ch[c].state = .parked)
    ∧ (s.bt.inReset = true ∧ s.bt.cal = 0)
    ∧ s.pending = []

/-- R33 and its effect on the guards (R37): both ways of declaring the loss. The window ends on the grid of R468. That no second
loss is declared before the recovery is the model's reading (log 47). R33, R34: a window in range while `REFCLK` is good; the first and the second good window while it is lost. -/
def Obligations.refclkMonitored : Prop :=
  ((∀ s : State, s.tb.refclkOk = true →
      ∃ t, exec .refclkMissingEdge s = .next t ∧ t.tb.refclkOk = false ∧ t.tb.refclkLost = true ∧ t.tb.refMiss = true
        ∧ (∀ q : Quad, t.tb.guardOpen[q] = false)
        ∧ (running s = false → Keeps [.tb, .tg, .pins, .cs, .ti, .hi, .mg] s t))
    ∧ (∀ s : State, s.tb.refclkOk = false →
      exec .refclkMissingEdge s = .next { s with tb := { s.tb with refMiss := true, goodWins := 0 } })
    ∧ ∀ (s : State) (count : Nat),
      let u := toTime ((s.tb.wins + 1) * 128000000000) s
      u.tb.refclkOk = true → (count < 1561719 ∨ 1563281 < count) →
      ∃ t, exec (.refclkMonitorWindowEnd count) s = .next t ∧ t.tb.refclkOk = false ∧ t.tb.refclkLost = true
        ∧ t.tb.refCount = count ∧ (∀ q : Quad, t.tb.guardOpen[q] = false)
        ∧ (running u = false → Keeps [.tb, .tg, .pins, .cs, .ti, .hi, .mg] u t))
    ∧ (∀ (s : State) (count : Nat), 1561719 ≤ count → count ≤ 1563281 →
    let u := toTime ((s.tb.wins + 1) * 128000000000) s
    (u.tb.refclkOk = true →
      exec (.refclkMonitorWindowEnd count) s = .next { u with tb := { u.tb with
        refCount := count, wins := u.tb.wins + 1, refMiss := false, goodWins := 0 } })
    ∧ (u.tb.refclkOk = false → u.tb.refMiss = false → u.tb.goodWins = 0 →
      exec (.refclkMonitorWindowEnd count) s = .next { u with tb := { u.tb with
        refCount := count, wins := u.tb.wins + 1, refMiss := false, goodWins := 1 } })
    ∧ (u.tb.refclkOk = false → u.tb.refMiss = false → u.tb.goodWins = 1 →
      ∃ t, exec (.refclkMonitorWindowEnd count) s = .next t ∧ t.tb.refclkOk = true ∧ t.tb.refclkLost = u.tb.refclkLost
        ∧ t.tb.goodWins = 0 ∧ t.tb.refCount = count ∧ Keeps [.tb, .hi, .mg] u t
        ∧ (u.mg.pstate ≤ 1 → u.mg.fastStop = false →
          ∀ q : Quad, t.tb.pll[q] = if u.tb.pll[q] = .off ∧ u.tb.barred[q] = false then .acquiring else u.tb.pll[q])))

/-- R35, R36: the three steps by which a guard opens, each with all it changes. R37: both ways in which an open guard closes; outside a run nothing else changes, in a run the device is
contained, with cause 0x01 in MG_CONTAIN. -/
def Obligations.lockGuardsOpenAndClose : Prop :=
  (∀ (s : State) (q : Quad),
    (s.tb.pll[q] = .acquiring →
      exec (.lockDetectorAssert q) s = .next { s with tb := { s.tb with
        lockDet := vset s.tb.lockDet q true, pll := vset s.tb.pll q .window, winFrom := vset s.tb.winFrom q s.tb.now } })
    ∧ (∀ count : Nat, s.tb.pll[q] = .window → 511898 ≤ count → count ≤ 512102 →
        let u := toTime (s.tb.winFrom[q] + 524288000) s
        u.tb.pll[q] = .window → u.tb.lockDet[q] = true →
        exec (.guardWindowEnd q count true) s = .next (issue 0x0103 [i1 q.val, i2 (min 0xFFFF ((u.tb.now - u.tb.acqFrom) / 8192000))] { u with tb := { u.tb with
          qCount := vset u.tb.qCount q count, winFrom := vset u.tb.winFrom q u.tb.now, pll := vset u.tb.pll q .aligning } }))
    ∧ (∀ (count : Nat) (stayed : Bool), s.tb.pll[q] = .window →
        let u := toTime (s.tb.winFrom[q] + 524288000) s
        u.tb.pll[q] = .window → (stayed = false ∨ u.tb.lockDet[q] = false ∨ count < 511898 ∨ 512102 < count) →
        exec (.guardWindowEnd q count stayed) s = .next { u with tb := { u.tb with
          qCount := vset u.tb.qCount q count, winFrom := vset u.tb.winFrom q u.tb.now } })
    ∧ ∀ phi : Int, s.tb.pll[q] = .aligning →
        ∃ t, exec (.phaseAlignDone q phi) s = .next t ∧ t.tb.guardOpen[q] = true ∧ t.tb.phi[q] = phi ∧ t.tb.pll[q] = .running
          ∧ (∀ r : Quad, r ≠ q → t.tb.guardOpen[r] = s.tb.guardOpen[r] ∧ t.tb.phi[r] = s.tb.phi[r])
          ∧ t.tb.winFrom = s.tb.winFrom ∧ Keeps [.tb, .ti] s t)
    ∧ ((∀ (s : State) (q : Quad), s.tb.pll[q] = .running → s.tb.guardOpen[q] = true →
      ∃ t, exec (.lockDetectorDeassert q) s = .next t ∧ t.tb.guardOpen[q] = false ∧ t.tb.lockLost[q] = true
        ∧ t.tb.lockDet[q] = false ∧ (∀ r : Quad, r ≠ q → t.tb.guardOpen[r] = s.tb.guardOpen[r])
        ∧ (running s = true → t.mg.contained = true ∧ (s.mg.contained = false → t.mg.contain.toNat / 2 ^ 56 = 0x80 + 0x01))
        ∧ (running s = false → Keeps [.tb, .tg, .pins, .cs, .ti, .hi, .mg] s t ∧ (∀ r ∈ t.cs.raws, quadOf r.1 ≠ q)
          ∧ (∀ x ∈ t.cs.pendX, quadOf x.pin ≠ q)
          ∧ ∀ p : Pin, t.pins[p] = if quadOf p = q then { s.pins[p] with win := none } else s.pins[p]))
    ∧ (∀ (s : State) (q : Quad) (count : Nat) (stayed : Bool), s.tb.pll[q] = .running →
        (stayed = false ∨ count < 511898 ∨ 512102 < count) →
        let u := toTime (s.tb.winFrom[q] + 524288000) s
        u.tb.pll[q] = .running → u.tb.guardOpen[q] = true →
        ∃ t, exec (.guardWindowEnd q count stayed) s = .next t ∧ t.tb.guardOpen[q] = false ∧ t.tb.lockLost[q] = true
          ∧ t.tb.qCount[q] = count
          ∧ (running u = true → t.mg.contained = true ∧ (u.mg.contained = false → t.mg.contain.toNat / 2 ^ 56 = 0x80 + 0x01)))
    ∧ ∀ (s : State) (q : Quad), s.tb.pll[q] = .window →
        exec (.lockDetectorDeassert q) s = .next { s with tb := { s.tb with
          lockDet := vset s.tb.lockDet q false, pll := vset s.tb.pll q .acquiring } })

/-- R38, R41, R44. R46 (and the 8-byte form of R47): the returned bytes and the two latches, all else unchanged; R374: a read of another size;
R377: the merged view of a read that overlaps a buffered write. -/
def Obligations.fabSourceAndEpoch : Prop :=
  ((∀ s : State, ∃ t, exec .fabSwitchComplete s = .next t
      ∧ (t.tb.fabSrc = .edge ↔ ∀ q : Quad, s.tb.guardOpen[q] = true)
      ∧ (t.tb.fabSrc ≠ .edge → t.tb.epochValid = false ∧ (t.tb.fabSrc = .safe ↔ s.tb.refclkOk = true))
      ∧ (t.tb.fabSrc = .edge → t.tb.epochValid = s.tb.epochValid)
      ∧ t.tb.epoch = s.tb.epoch ∧ t.tb.wraps = s.tb.wraps ∧ Keeps [.tb] s t)
    ∧ ∀ s : State, s.tb.fabSrc = .edge → s.cs.open_ = false →
      ∃ t, exec .epochWrap s = .next t ∧ t.tb.epochWrapped = true ∧ t.tb.epoch.toNat < 8192
        ∧ t.tb.wraps.toNat = min 0xFFFF (s.tb.wraps.toNat + 1) ∧ t.tb.epochValid = s.tb.epochValid
        ∧ Keeps passParts s t ∧ (s.cs.pendX = [] → s.cs.hits = [] → s.ti.recent = [] → KeepsButLog [.tb, .cs] s t))
    ∧ ((∀ (s : State) (wide : Bool), s.hi.serving = true → s.hi.linkUp = true →
      (∀ w ∈ s.hi.posted, overlaps false 0x108 (if wide then 8 else 4) w = false) →
      ∃ t, exec (.tbEpochLoRead { off := 0x108, len := if wide then 8 else 4 }) s = .next t
        ∧ leNat t.hi.rdata = (if wide then s.tb.epoch.toNat else s.tb.epoch.toNat % 2 ^ 32)
        ∧ t.hi.rdata.length = (if wide then 8 else 4)
        ∧ t.tb.hiLatch.toNat = s.tb.epoch.toNat / 2 ^ 32 ∧ t.tb.wrapLatch = s.tb.wraps
        ∧ { t.tb with hiLatch := s.tb.hiLatch, wrapLatch := s.tb.wrapLatch } = s.tb
        ∧ { t.hi with rdata := s.hi.rdata, rpoison := s.hi.rpoison, rabort := s.hi.rabort } = s.hi ∧ Keeps [.tb, .hi] s t)
    ∧ (∀ s : State, s.hi.serving = true → s.hi.linkUp = true → (∀ w ∈ s.hi.posted, overlaps false 0x10C 4 w = false) →
      ∃ t, exec (.tbEpochLoRead { off := 0x10C, len := 4 }) s = .next t ∧ leNat t.hi.rdata = s.tb.hiLatch.toNat ∧ Keeps [.hi] s t)
    ∧ (∀ (s : State) (off len : Nat), s.hi.serving = true → s.hi.linkUp = true → 1 ≤ len → off + len ≤ 0x10000 →
      off / 64 ≠ (off + len - 1) / 64 →
      exec (.tbEpochLoRead { off := off, len := len }) s =
        .next { s with hi := { s.hi with rdata := [], rpoison := false, rabort := true } })
    ∧ ∀ (s : State) (b : List Byte), s.hi.serving = true → s.hi.linkUp = true → b.length = 4 →
      s.hi.posted = [{ bar4 := false, off := 0x24, bytes := b.map some }] →
      ∃ t, exec (.tbEpochLoRead { off := 0x24, len := 4 }) s = .next t ∧ t.hi.posted = []
        ∧ t.hi.mask.toNat = leNat b / 2 * 2 ∧ leNat t.hi.rdata = t.hi.mask.toNat)

/-- R435 and Table 17.4: what the two resets leave. The levels of the input lands, and the model's own queue, are no registers of
the block and stay; no reset sets the comparator outputs (R116), which at power-on are free (log 3). What spec/ does not say is the
model's choice: that the MSI-X vectors are masked (log 9), and that a conventional reset keeps the grid and the miss of the frequency
monitor and the sampler's readings (log 42). R432 steps 1, 6 and 7, and the FLR of R372 and Table 17.4. That an FLR masks the MSI-X vectors is log 9, and that it keeps the
epoch and the pin table's state is log 42: the model's choice. R433, R434 with R429: which slot `AXRAS_START` leaves running; bus mastering is what the host has configured (log 9). -/
def Obligations.resetsBootAndFlr : Prop :=
  (∀ s : State,
    let r := State.reset
    let common := fun t : State =>
      ((∀ p : Pin, t.pins[p] = { r.pins[p] with hi := t.pins[p].hi, lo := t.pins[p].lo }) ∧ t.tg = r.tg ∧ t.pt = r.pt ∧ t.pm = r.pm ∧ t.sq = r.sq ∧ t.sp = r.sp ∧ t.cl = r.cl ∧ t.cs = r.cs ∧ t.mx = r.mx)
        ∧ t.ti.units = r.ti.units ∧ t.en.state = .standalone ∧ t.pf.parked = true
        ∧ t.bt.flash = s.bt.flash ∧ t.bt.serial = s.bt.serial ∧ t.bt.fuses = s.bt.fuses
        ∧ { t.bt with flash := r.bt.flash, serial := r.bt.serial, fuses := r.bt.fuses } = r.bt
        ∧ { t.hi with sent := r.hi.sent } = r.hi
        ∧ t.mg.persisted = s.mg.persisted ∧ t.mg.pstate = 3 ∧ t.mg.log = [] ∧ t.mg.seq = 0
        ∧ t.hostMem = s.hostMem ∧ t.pending = s.pending
        ∧ { t.pf with parkN := r.pf.parkN, bankMv := r.pf.bankMv } = r.pf
    (∃ t, exec .powerOnReset s = .next t ∧ common t ∧ t.tb = r.tb ∧ t.mg.temps = r.mg.temps
        ∧ ∀ p : Pin, t.pins[p].hi = Config.freeBool (s.freeCtr + 2 * p.val) ∧ t.pins[p].lo = Config.freeBool (s.freeCtr + 2 * p.val + 1))
    ∧ ∃ t, exec .conventionalReset s = .next t ∧ common t ∧ t.tb.now = s.tb.now ∧ t.tb.wins = s.tb.wins
        ∧ { t.tb with now := r.tb.now, wins := r.tb.wins, refMiss := r.tb.refMiss } = r.tb ∧ t.tb.refMiss = s.tb.refMiss
        ∧ (∀ p : Pin, t.pins[p].hi = s.pins[p].hi ∧ t.pins[p].lo = s.pins[p].lo) ∧ t.freeCtr = s.freeCtr ∧ t.mg.temps = s.mg.temps ∧ t.mg.frame = s.mg.frame)
    ∧ ((∀ s : State, s.bt.inReset = true →
      exec .perstNDeassert s = .next { s with
        bt := { s.bt with inReset := false, booting := true, serialReg := s.bt.serial, rollback := s.bt.fuses }
        hi := { s.hi with linkUp := true } })
    ∧ (∀ s : State, s.bt.booting = true → s.bt.axras = true →
      ∃ t, exec .bootComplete s = .next t ∧ t.bt.booting = false ∧ t.bt.fwReady = true
        ∧ (t.bt.cal = 1 ↔ calCause (flashRead s 0x400000 512) (flashRead s 0x400200 3032128) s.bt.serial = none)
        ∧ (t.bt.cal = 1 ∨ (t.bt.cal = 0 ∧ t.bt.trims = .nominal))
        ∧ t.bt.flash = s.bt.flash ∧ t.bt.fuses = s.bt.fuses ∧ Keeps [.bt, .tg, .hi, .mg] s t ∧ SameMg s t)
    ∧ ∀ s : State,
      ∃ t, exec .flr s = .next t ∧ Parked t ∧ t.en.state = .standalone ∧ t.mg.dbg = false ∧ t.mg.challenge = none
        ∧ t.hi.exec = [] ∧ t.hi.fetched = [] ∧ t.hi.cpls = [] ∧ t.hi.posted = [] ∧ t.hi.cmdSize = 0 ∧ t.hi.cplSize = 0
        ∧ t.hi.msixMask = 0xFFFFFFFFFFFFFFFF ∧ t.hi.linkUp = s.hi.linkUp ∧ t.hi.serving = s.hi.serving ∧ t.cs.open_ = false
        ∧ { t.pt with mixed := s.pt.mixed } = s.pt ∧ t.pt.mixed = [] ∧ t.bt = s.bt ∧ t.pending = s.pending)
    ∧ (∀ (s : State) (bm : Bool), s.bt.booting = true → s.hi.serving = false → s.bt.axras = false → s.bt.recovery = false →
    ∃ t, exec (.axrasStart bm) s = .next t ∧ t.hi.serving = true ∧ t.hi.busMaster = bm ∧ t.hi.subsys = boardIds s
      ∧ (t.bt.axras = true ∨ t.bt.recovery = true)
      ∧ (t.bt.axras = true → slotCause t t.bt.runSlot = none ∧ t.bt.runSlot ≤ 1)
      ∧ (t.bt.recovery = true → slotCause t 0 ≠ none ∧ slotCause t 1 ≠ none)
      ∧ t.bt.fuses = s.bt.fuses ∧ t.bt.serial = s.bt.serial ∧ Keeps [.bt, .hi, .mg] s t)

/-- R417, R418, R40; R434 for recovery. A transition that a command asked for completes it: `E_OK`, `E_MEMERR` or `E_LOCK`. -/
def Obligations.powerStepsAndAcquisition : Prop :=
  let completes := fun (e : Exec) (status : Nat) => ({ tag := e.entry.tag, status := BitVec.ofNat 16 status, opcode := e.entry.opcode, data := [], hash := some e.entry.hash } : Cpl)
  (∀ (s : State) (tag : W16) (e : Exec) (n : Nat), executing 0x0F01 tag s = some e → payF e 0 1 = n → payZero e 1 47 = true →
      s.bt.recovery = false → s.mg.pwr = none → 1 ≤ n → n ≤ 4 → running s = false → (formed s = true → n = 1) → (n = 1 → p1Blocked s = false) →
      (s.mg.pstate = n → exec (.pwrSet tag) s = .next (answer e 0 [] s))
      ∧ (s.mg.pstate < n → ∃ t, exec (.pwrSet tag) s = .next t ∧ t.mg.pwr = some { target := n, tag := some e.entry.tag }
          ∧ t.pf.parked = true ∧ t.mg.pstate = s.mg.pstate ∧ Keeps [.pins, .pf, .mx, .hi, .mg] s t)
      ∧ (n < s.mg.pstate → ∃ t, exec (.pwrSet tag) s = .next t ∧ t.mg.pwr = some { target := n, tag := some e.entry.tag }
          ∧ t.mg.pstate = s.mg.pstate ∧ Keeps [.tb, .mg] s t))
    ∧ (∀ (s : State) (tag : W16) (e : Exec), executing 0x0F01 tag s = some e → payZero e 1 47 = true → 1 ≤ payF e 0 1 → payF e 0 1 ≤ 4 →
      s.bt.recovery = true → s.mg.pwr = none → running s = false → exec (.pwrSet tag) s = .next (answer e 6 [] s))
    ∧ (∀ (s : State) (p : Pwr), s.mg.pwr = some p → p.target < s.mg.pstate →
      (s.mg.pstate = 3 → ∃ t, exec (.powerStepComplete true) s = .next t ∧ t.mg.pstate = 2 ∧ t.pm.dram = [] ∧ t.pm.dramKnown = []
          ∧ t.pm.dramFree = some s.freeCtr ∧ t.freeCtr = s.freeCtr + 1 ∧ t.bt = s.bt)
      ∧ (s.mg.pstate = 4 → ∀ ok, ∃ t, exec (.powerStepComplete ok) s = .next t ∧ t.mg.pstate = 3 ∧ t.hi.linkUp = true
          ∧ t.pt.bound = false ∧ t.bt = s.bt)
      ∧ (s.mg.pstate = 3 → p.tag = none →
          exec (.powerStepComplete false) s = .next (coreSettle { s with mg := { s.mg with pwr := none } }))
      ∧ (∀ (tag : W16) (e : Exec), s.mg.pstate = 3 → p.tag = some tag → executing 0x0F01 tag s = some e →
          exec (.powerStepComplete false) s = .next (coreSettle (answer e 9 [] { s with mg := { s.mg with pwr := none } })))
      ∧ (s.mg.pstate = 2 → (guardsOpen s && s.tb.fabSrc == .edge) = false →
          ∀ ok, exec (.powerStepComplete ok) s = .next (coreSettle s))
      ∧ (s.mg.pstate = 2 → guardsOpen s = true → s.tb.fabSrc = .edge → p.target = 1 → p.tag = none → ∀ ok,
          ∃ t, exec (.powerStepComplete ok) s = .next t ∧ t.mg.pstate = 1 ∧ t.mg.pwr = none ∧ t.mg.fastStop = false
            ∧ t.pt.room = (if s.pt.bound && s.pt.shadowOk then s.pt.shadow else []) ∧ Keeps (.pt :: .pm :: .hostMem :: passParts) s t)
      ∧ (∀ (tag : W16) (e : Exec), s.mg.pstate = 2 → guardsOpen s = true → s.tb.fabSrc = .edge → p.target = 1 → p.tag = some tag →
          executing 0x0F01 tag s = some e → ∀ ok, ∃ t, exec (.powerStepComplete ok) s = .next t ∧ t.mg.pstate = 1 ∧ t.mg.pwr = none
            ∧ t.hi.cpls = s.hi.cpls ++ [completes e 0]))
    ∧ (∀ (s : State) (p : Pwr) (ok : Bool), s.mg.pwr = some p → s.mg.pstate = 1 → 1 < p.target →
      ∃ t, exec (.powerStepComplete ok) s = .next t ∧ t.mg.pstate = 2 ∧ t.pt.room = [] ∧ t.pm.shelf = []
        ∧ ∀ q : Quad, t.tb.pll[q] = .off ∧ t.tb.guardOpen[q] = false)
    ∧ (∀ (s : State) (p : Pwr) (ok : Bool), s.mg.pwr = some p → s.mg.pstate = 3 → p.target = 4 → p.tag = none →
      ∃ t, exec (.powerStepComplete ok) s = .next t ∧ t.mg.pstate = 4 ∧ t.hi.linkUp = false ∧ t.hi.cmdSize = 0
        ∧ t.hi.cplSize = 0 ∧ t.hi.posted = [] ∧ t.pm.bar2 = [] ∧ t.pt.bound = false)
    ∧ (∀ (s : State) (p : Pwr) (ok : Bool), s.mg.pwr = some p → s.mg.pstate = 2 → 2 < p.target →
      ∃ t, exec (.powerStepComplete ok) s = .next t ∧ t.mg.pstate = 3 ∧ t.pm.dram = [] ∧ t.pt.bound = false
        ∧ t.sq.loaded = false ∧ t.cs.open_ = false ∧ t.bt = s.bt)
    ∧ (∀ s : State, raising s = true → (∃ q : Quad, guardOpened s q = false) →
      ∃ t, exec .acquisitionTimeout s = .next t ∧ t.mg.pwr = none ∧ t.mg.pstate = 2
        ∧ (∀ q : Quad, t.tb.pll[q] = .off) ∧ (∀ q : Quad, t.tb.guardOpen[q] = false)
        ∧ ∀ (tag : W16) (e : Exec), (s.mg.pwr.map fun p => p.tag) = some (some tag) → executing 0x0F01 tag s = some e →
          t.hi.cpls = s.hi.cpls ++ [completes e 11])
    ∧ ∀ s : State, raising s = false → (∃ q : Quad, guardOpened s q = false ∧ s.tb.pll[q] ≠ .off) →
      ∃ t, exec .acquisitionTimeout s = .next t
        ∧ ∀ q : Quad, t.tb.pll[q] = if guardOpened s q then s.tb.pll[q] else .off

/-- The refusals of Table 8.3 and R381 by their causes: 1 state or code, 3 not the leader, 5 contained; of several the first in the
order of log 14. Table 8.3's rows for `GO`, `HALT` and `ABORT`, as writes at the front of the posted-write buffer (R376). That HALT and ABORT in ARMING
and ARMED end with END_CAUSE 2 and 3, and ABORT in DRAINING with 5 where the run was contained and else 3, is log 14 (DEDUCED). -/
def Obligations.runControlByState : Prop :=
  (∀ s : State,
    let u := runCtlWrite s
    let refusedBy := fun (t : State) (cmd cause : Nat) => t.hi.runRef = true
      ∧ t.hi.refuse.toNat = 2 ^ 63 + cause * 2 ^ 56 + cmd * 2 ^ 48 ∧ (cmd = 1 → t.hi.armRef = true) ∧ Keeps [.hi, .mg] u t ∧ SameMg u t
    (formed u = true → u.en.leader = false →
      (cmdWritten 1 s = true → ∃ t, exec .arm s = .next t ∧ refusedBy t 1 3)
      ∧ (cmdWritten 2 s = true → ∃ t, exec .go s = .next t ∧ refusedBy t 2 3))
    ∧ (cmdWritten 1 s = true → formed u = false → running u = true → ∃ t, exec .arm s = .next t ∧ refusedBy t 1 1)
    ∧ (cmdWritten 1 s = true → formed u = false → running u = false → u.en.armWait = false → u.mg.contained = true →
      ∃ t, exec .arm s = .next t ∧ refusedBy t 1 5)
    ∧ (cmdWritten 2 s = true → formed u = false → u.sq.state ≠ .arming → u.sq.state ≠ .armed → ∃ t, exec .go s = .next t ∧ refusedBy t 2 1)
    ∧ ∀ cmd : BitVec 4, (cmd.toNat = 0 ∨ 5 ≤ cmd.toNat) → cmdWritten cmd.toNat s = true →
      ∃ t, exec (.runCtlInvalidCmd cmd) s = .next t ∧ refusedBy t cmd.toNat 1)
    ∧ (∀ s : State,
    let u := runCtlWrite s
    formed u = false →
    (u.sq.state = .armed → u.en.goAt = none → cmdWritten 2 s = true →
      exec .go s = .next { u with sq := { u.sq with state := .running, startTick := ext u + 65536, goHeld := false } })
    ∧ (u.sq.state = .arming → cmdWritten 2 s = true → ∃ t, exec .go s = .next t ∧ t.sq = { u.sq with goHeld := true } ∧ Keeps [.sq, .hi, .mg] u t)
    ∧ (u.sq.state = .draining → cmdWritten 3 s = true → exec .halt s = .next u)
    ∧ (u.sq.state = .idle → (cmdWritten 3 s = true → exec .halt s = .next u) ∧ (cmdWritten 4 s = true → exec .abort s = .next u))
    ∧ ((u.sq.state = .arming ∨ u.sq.state = .armed) → u.sq.pendHalt = false → u.sq.pendAbort = false →
      (cmdWritten 3 s = true → ∃ t, exec .halt s = .next t ∧ t.sq.state = .idle ∧ t.sq.endCause = 2)
      ∧ (cmdWritten 4 s = true → ∃ t, exec .abort s = .next t ∧ t.sq.state = .idle ∧ t.sq.endCause = 3))
    ∧ (u.sq.state = .running → cmdWritten 3 s = true →
      (u.sq.pendAbort = false → u.sq.pendHalt = false → exec .halt s = .next { u with sq := { u.sq with pendHalt := true, pendAt := 0 } })
      ∧ ((u.sq.pendAbort || u.sq.pendHalt) = true → exec .halt s = .next u))
    ∧ (u.sq.state = .running → cmdWritten 4 s = true →
      (u.sq.pendAbort = false →
        exec .abort s = .next { u with sq := { u.sq with pendAbort := true, pendHalt := false, pendSof := false, pendAt := 0 } })
      ∧ (u.sq.pendAbort = true → exec .abort s = .next u))
    ∧ (u.sq.state = .draining → u.sq.pendAbort = false → cmdWritten 4 s = true → ∃ t, exec .abort s = .next t ∧ t.sq.state = .idle ∧ t.sp.open_ = []
        ∧ t.sq.endCause = if u.sq.stopCause = 5 then 5 else 3))

/-- R42 and Table 8.3 `ARM`; the refusals by a failing check (R228, R381) and by an idle-only command (R29), in
the order of log 8. -/
def Obligations.armClearsTheRun : Prop :=
  ∀ s : State,
    let u := runCtlWrite s
    u.en.state = .standalone → u.sq.state = .idle → u.mg.contained = false → u.en.armWait = false →
    cmdWritten 1 s = true →
    (armFailures u = [] → idleOnlyBusy u = false → u.mg.pwr = none → ∃ t, exec .arm s = .next t ∧ t.tb.epoch = 0 ∧ t.tb.wraps = 0 ∧ t.tb.epochValid = true
        ∧ t.hi.armSeq = (u.hi.armSeq + 1) % 2 ^ 32 ∧ t.sq.state = .arming ∧ t.sq.pc = u.sq.entry ∧ t.sq.loops = .replicate 8 0
        ∧ t.sq.vindex = 0 ∧ t.sq.fault = 0 ∧ t.sq.svcQueue = []
        ∧ (t.sq.proc = none ↔ ∀ p, u.sq.proc = some p → p.block = none) ∧ t.sq.store = u.sq.store
        ∧ t.sp.open_ = [] ∧ t.sp.inflight = [] ∧ t.sp.mispred = 0 ∧ t.tg.dropCnt = 0 ∧ t.pm.starveCnt = 0 ∧ t.cl.prod = 0
        ∧ t.cl.dev = 0 ∧ t.pm.dram = u.pm.dram ∧ t.pt = u.pt ∧ t.bt = u.bt)
    ∧ (armFailures u = [] → armHeldOff u = true → ∃ t, exec .arm s = .next t ∧ t.hi.armRef = true ∧ t.hi.runRef = true
        ∧ t.hi.refuse.toNat / 2 ^ 48 % 2 ^ 15 = 4 * 2 ^ 8 + 1 ∧ Keeps [.hi, .mg] u t)
    ∧ (armFailures u ≠ [] → ∃ t, exec .arm s = .next t ∧ t.hi.armRef = true ∧ t.hi.runRef = true
        ∧ t.hi.refuse.toNat / 2 ^ 48 % 2 ^ 15 = 2 * 2 ^ 8 + 1 ∧ Keeps [.hi, .mg] u t)

/-- R214, R182 and R229; that `HALT_CODE` is 0 after a run which no `HALT` word ended is log 11 (DEDUCED). -/
def Obligations.stopFillAndRunEnd : Prop :=
  (∀ s : State, (s.sq.pendHalt || s.sq.pendAbort) = true →
      let u := toEpoch s.sq.pendAt s
      u.sq.state = .running → stopDue u = true → atBoundary u = true →
      ∃ t, exec .pendingStopAtBoundary s = .next t ∧ t.sq.state = .draining ∧ t.sq.stopped = true ∧ t.sq.cur = none
        ∧ t.sq.pendHalt = false ∧ t.sq.pendAbort = false ∧ t.sq.stopCause = (if u.sq.pendAbort then 3 else 2)
        ∧ (u.sq.pendAbort = true → t.sp.open_ = [] ∧ t.sq.svcQueue = [] ∧ ∀ g : Glove, t.ti.units[g].gopen = false))
    ∧ (∀ s : State, s.sq.state = .arming → formed s = false → filled s = true →
      (s.sq.goHeld = false → exec .atticFillComplete s = .next { s with sq := { s.sq with state := .armed } })
      ∧ (s.sq.goHeld = true → exec .atticFillComplete s = .next { s with sq := { s.sq with
          state := .running, startTick := ext s + 65536, goHeld := false } }))
    ∧ ∀ s : State, runOver s = true → formed s = false →
      ∃ t, exec .runEnd s = .next t ∧ t.sq.state = .idle ∧ t.sq.endCause = s.sq.stopCause
        ∧ t.sq.haltCode = (if s.sq.stopCause = 1 then s.sq.stopCode else 0)
        ∧ (∀ g : Glove, t.ti.units[g].gate = 0 → t.ti.units[g].gopen = false) ∧ (resultsDue s ≤ ext s → t.pm = s.pm)

/-- R203, R204, R208, each word with all it changes. -/
def Obligations.vectorRunWords : Prop :=
  ∀ (s u : State) (w : Nat),
    (VecReady 0x01 w s u → exec (.vec .ok) s = .next { pastWord u with sq := { (pastWord u).sq with
      cur := some { kind := .vec, word := u.sq.pc, addr := fld w 89 49, left := fld w 121 90
                    desc := if w.testBit 48 then some (fld w 47 19 * 4096) else none } } })
    ∧ (VecReady 0x02 w s u → exec (.rpt .ok) s = .next { pastWord u with sq := { (pastWord u).sq with
      cur := some { kind := .rpt, word := u.sq.pc, addr := fld w 89 49, left := fld w 121 90
                    desc := if w.testBit 48 then some (fld w 47 19 * 4096) else none } } })
    ∧ ∀ lc : Fin 8, fld w 89 87 = lc.val →
      (VecReady 0x03 w s u → exec (.loop .ok) s = .next { pastWord u with sq := { (pastWord u).sq with
        loops := vset u.sq.loops lc (fld w 121 90) } })
      ∧ (VecReady 0x04 w s u → 1 < u.sq.loops[lc] → exec (.endl .ok) s = .next { pastWord u with sq := { (pastWord u).sq with
          loops := vset u.sq.loops lc (u.sq.loops[lc] - 1), pc := fld w 17 0 } })
      ∧ (VecReady 0x04 w s u → u.sq.loops[lc] = 1 → exec (.endl .ok) s = .next { pastWord u with sq := { (pastWord u).sq with
          loops := vset u.sq.loops lc 0 } })
      ∧ (VecReady 0x04 w s u → u.sq.loops[lc] = 0 → exec (.endl .ok) s = .next (vecFault 0x4 u.sq.pc (pastWord u)))

/-- R209, R210, R212: the prediction, the checkpoint, and the condition that waits for its first vector. -/
def Obligations.branchAndWaitWords : Prop :=
  ∀ (s u : State) (w : Nat),
    (VecReady 0x05 w s u → fld w 121 115 = 0x40 →
      exec (.br .ok) s = .next { pastWord u with sq := { (pastWord u).sq with pc := fld w 17 0 } })
    ∧ (∀ v : Subj, VecReady 0x05 w s u → fld w 121 115 ≠ 0x40 → u.sq.lastIdx = some v →
      ∃ (t : State) (c : Cond), exec (.br .ok) s = .next t
        ∧ t.sq.pc = (if w.testBit 113 then fld w 17 0 else u.sq.pc + 1) ∧ t.sp.toOpen = u.sp.toOpen ++ [c]
        ∧ c.cid = u.sp.nextCid ∧ c.entry = fld w 121 115 ∧ c.sense = w.testBit 114 ∧ c.pred = w.testBit 113
        ∧ c.subj = v ∧ c.stay = false ∧ c.check.pc = (if w.testBit 113 then u.sq.pc + 1 else fld w 17 0)
        ∧ c.check.loops = u.sq.loops ∧ c.check.reqs = u.sq.reqs ∧ c.check.vindex = u.sq.vindex ∧ c.check.cursors = u.pm.cursors
        ∧ t.sp.nextCid = u.sp.nextCid + 1 ∧ t.sp.open_ = u.sp.open_ ∧ { t.sq with pc := u.sq.pc + 1 } = (pastWord u).sq ∧ Keeps [.sq, .sp] u t)
    ∧ (VecReady 0x06 w s u → w.testBit 113 = true →
      exec (.wait .ok) s = .next { pastWord u with sq := { (pastWord u).sq with cur := some {
        kind := .wait (fld w 121 115) (w.testBit 114) 0 (fld w 17 0) false, word := u.sq.pc, addr := fld w 71 31, left := 0 } } })
    ∧ (VecReady 0x06 w s u → w.testBit 113 = false →
      ∃ (t : State) (c : Cond), exec (.wait .ok) s = .next t ∧ t.sp.toOpen = u.sp.toOpen ++ [c] ∧ c.stay = true ∧ c.pred = true
        ∧ c.entry = fld w 121 115 ∧ c.sense = w.testBit 114 ∧ c.check.pc = fld w 17 0
        ∧ t.sq.cur = some { kind := .wait (fld w 121 115) (w.testBit 114) 0 (fld w 17 0) true, word := u.sq.pc, addr := fld w 71 31, left := 0 }
        ∧ t.sq.pc = u.sq.pc + 1 ∧ Keeps [.sq, .sp] u t)

/-- R205, R206: what is pending after each modifier word, and the three contradictions. -/
def Obligations.modifierWordsAttach : Prop :=
  ∀ (s u : State) (w : Nat),
    let r := u.sq.reqs
    let after := fun x : Reqs => ({ pastWord u with sq := { (pastWord u).sq with reqs := x } } : State)
    let m : W64 := BitVec.ofNat 64 (fld w 63 0)
    let chans := (maskBits 16 (fld w 15 0)).map fun c => (c, fld w 25 16, w.testBit 121)
    let lines := (maskBits 4 (fld w 3 0)).map fun c => (c, fld w 121 120, fld w 19 12)
    (VecReady 0x07 w s u → exec (.ltk .ok) s = .next (after { r with ltk := true }))
    ∧ (VecReady 0x08 w s u → exec (.mark .ok) s = .next (after { r with mark := some (fld w 15 0) }))
    ∧ (VecReady 0x0B w s u → exec (.site .ok) s = .next (after { r with sites := r.sites ||| m }))
    ∧ (VecReady 0x09 w s u →
      (fld w 121 120 = 1 → r.tclose &&& m = 0 → exec (.tgate .ok) s = .next (after { r with topen := r.topen ||| m }))
      ∧ (fld w 121 120 = 2 → r.topen &&& m = 0 → exec (.tgate .ok) s = .next (after { r with tclose := r.tclose ||| m }))
      ∧ (fld w 121 120 = 1 → r.tclose &&& m ≠ 0 → exec (.tgate .ok) s = .next (vecFault 0x5 u.sq.pc (pastWord u)))
      ∧ (fld w 121 120 = 2 → r.topen &&& m ≠ 0 → exec (.tgate .ok) s = .next (vecFault 0x5 u.sq.pc (pastWord u))))
    ∧ (VecReady 0x0A w s u →
      ((∀ x ∈ r.mxj, ∀ y ∈ chans, y.1 ≠ x.1) → exec (.mxj .ok) s = .next (after { r with mxj := r.mxj ++ chans }))
      ∧ ((∃ x ∈ r.mxj, ∃ y ∈ chans, y.1 = x.1) → exec (.mxj .ok) s = .next (vecFault 0x5 u.sq.pc (pastWord u))))
    ∧ (VecReady 0x0C w s u →
      ((∀ x ∈ r.evt, ∀ y ∈ lines, y.1 ≠ x.1) → exec (.evt .ok) s = .next (after { r with evt := r.evt ++ lines }))
      ∧ ((∃ x ∈ r.evt, ∃ y ∈ lines, y.1 = x.1) → exec (.evt .ok) s = .next (vecFault 0x5 u.sq.pc (pastWord u))))

/-- R219 and R216. R217, R218; then R198, R225 and R214 for every command of the vector context's words. -/
def Obligations.postHaltAndFaults : Prop :=
  (∀ (s u : State) (w : Nat),
    let v := pastWord u
    (VecReady 0x0D w s u → olderConds u = [] →
      (u.sq.svcQueue.length < 16 →
        exec (.svc .ok) s = .next { v with sq := { v.sq with svcQueue := v.sq.svcQueue ++ [fld w 17 0] } })
      ∧ (16 ≤ u.sq.svcQueue.length → w.testBit 121 = true → exec (.svc .ok) s = .next (vecFault 0xC u.sq.pc v))
      ∧ (16 ≤ u.sq.svcQueue.length → w.testBit 121 = false → ∃ t, exec (.svc .ok) s = .next t ∧ t.sq.svcLost = true
          ∧ t.sq.svcQueue = u.sq.svcQueue ∧ t.sq.pc = u.sq.pc + 1 ∧ Keeps [.sq, .hi, .mg] u t))
    ∧ (VecReady 0x0D w s u → olderConds u ≠ [] →
        exec (.svc .ok) s = .next { v with sq := { v.sq with held := v.sq.held ++ [
          { entry := fld w 17 0, word := u.sq.pc, full := w.testBit 121, conds := olderConds u }] } })
    ∧ (VecReady 0x0E w s u → u.sq.reqs = {} →
      (olderConds u = [] → ∃ t, exec (.haltWord .ok) s = .next t ∧ t.sq.state = .draining ∧ t.sq.stopped = true
          ∧ t.sq.stopCause = 1 ∧ t.sq.stopCode = fld w 15 0 ∧ t.sq.vindex = u.sq.vindex ∧ t.sq.store = u.sq.store)
      ∧ (olderConds u ≠ [] →
          exec (.haltWord .ok) s = .next { v with sq := { v.sq with haltWait := some (fld w 15 0) } }))
    ∧ (VecReady 0x0E w s u → u.sq.reqs ≠ {} → exec (.haltWord .ok) s = .next (vecFault 0x5 u.sq.pc v)))
    ∧ ((∀ s : State, decodes s = true → s.sq.decoded ≤ 64 → s.sq.decAt ≤ ext s / 8192 →
      (decodeAccount s).sq.decoded = min 64 (s.sq.decoded + 2 * (ext s / 8192 - s.sq.decAt))
        ∧ (decodeAccount s).sq.decAt = ext s / 8192 ∧ Keeps [.sq] s (decodeAccount s))
    ∧ (∀ s u : State, takeSlot s = some u → Keeps (.sq :: .pm :: .hostMem :: passParts) s u
        ∧ { u.sq with decoded := s.sq.decoded, decAt := s.sq.decAt, decUsed := s.sq.decUsed } = s.sq)
    ∧ (∀ (s u : State) (c : Nat), ∀ i ∈ vecCommands .ok, atWord s = true → stopDue s = false → takeSlot s = some u →
      s.sq.pc < 2 ^ 18 → decodeCause false u u.sq.pc = some c →
      ∃ t, exec i s = .next t ∧ t.mg.contained = true
        ∧ t.sq.fault.toNat = 2 ^ 63 + c * 2 ^ 58 + s.sq.pc ∧ t.sq.pc = s.sq.pc ∧ t.pm.dram = u.pm.dram)
    ∧ (∀ s u : State, ∀ i ∈ vecCommands .uncorrectable, atWord s = true → stopDue s = false → takeSlot s = some u →
      underLoad s s.sq.pc = false → (∀ x ∈ s.sq.early, x.1 ≠ s.sq.pc) →
      ∃ t, exec i s = .next t ∧ t.mg.contained = true ∧ s.sq.pc ∈ t.sq.poison ∧ t.sq.fault.toNat / 2 ^ 58 % 16 = 0x7)
    ∧ (∀ (s : State) (ecc : Ecc), ∀ i ∈ vecCommands ecc, atWord s = true → stopDue s = true → exec i s = .next (takeStop s))
    ∧ (∀ (s : State) (ecc : Ecc), ∀ i ∈ vecCommands ecc, atWord s = false ∨ (stopDue s = false ∧ takeSlot s = none) →
      exec i s = .next s)
    ∧ (∀ (s u : State) (op w n : Nat) (i : Instr), VecReady op w s u → (vecCommands .ok)[n]? = some i → op ≠ n + 1 → exec i s = .next s)
    ∧ ∀ s u : State, takeSlot s = some u → u.sq.early.find? (fun x => x.1 == u.sq.pc) = some (u.sq.pc, 0) →
      decodeCause false { u with sq := { u.sq with poison := [], underLoad := none, early := [] } } u.sq.pc = none →
      atWord s = true → stopDue s = false → opOf (wordAt u u.sq.pc) = 0x07 →
      exec (.ltk .ok) s = .next { pastWord u with sq := { (pastWord u).sq with reqs := { u.sq.reqs with ltk := true } } })

/-- R207's event outputs: one line driven in each of the four ways, and the end of a pulse. R53 and R331, where no TIU's source selects the line. -/
def Obligations.eventLines : Prop :=
  ((∀ (s : State) (a : Act) (line : Fin 4) (action width : Nat),
      s.sq.acts = [a] → a.reqs.evt = [(line, action, width)] → s.sq.pulse[line] = none →
      let u := toEpoch a.due s
      ∃ t, exec .evtOutputAct s = .next t ∧ Keeps [.sq] u t
        ∧ (action = 0 → t.sq.evtOut[line] = false) ∧ (action = 1 ∨ action = 2 → t.sq.evtOut[line] = true)
        ∧ (action = 3 → t.sq.evtOut[line] = !s.sq.evtOut[line])
        ∧ t.sq.pulse[line] = (if action = 2 then some (u.tb.now + 8192 * width, s.sq.evtOut[line]) else none)
        ∧ (∀ x ∈ t.sq.acts, x.reqs.evt = []) ∧ ∀ l : Fin 4, l ≠ line → t.sq.evtOut[l] = s.sq.evtOut[l])
    ∧ ∀ (s : State) (line : Fin 4) (at_ : Nat) (level : Bool), s.sq.pulse[line] = some (at_, level) →
      let u := toTime at_ s
      ∃ t, exec (.evtPulseEnd line) s = .next t ∧ t.sq.evtOut[line] = level ∧ t.sq.pulse[line] = none ∧ Keeps [.sq] u t)
    ∧ (∀ (s : State) (line : Fin 4),
    (s.ti.evtIn[line] = false → (∀ g : Glove, selEvt line s.ti.units[g].start = false ∧ tiuStopSel s.ti.units[g] (selEvt line) = false) →
      ∃ t, exec (.evtInEdge line true) s = .next t ∧ t.ti.evtIn[line] = true ∧ t.ti.units = s.ti.units
        ∧ t.ti.evtEpochs = (if running s then s.ti.evtEpochs ++ [(line, ((ext s : Int) - 24576).toNat, ext s)] else s.ti.evtEpochs)
        ∧ t.mx.reqs = s.mx.reqs ++ (evtChans s line).map (fun i => (i, true, (ext s : Int))) ∧ Keeps [.ti, .mx] s t)
    ∧ (s.ti.evtIn[line] = true →
      exec (.evtInEdge line false) s = .next { s with ti := { s.ti with evtIn := vset s.ti.evtIn line false } })
    ∧ exec (.evtInEdge line s.ti.evtIn[line]) s = .next s)

/-- R62, R203: one vector of a `VEC` word leaves; `u` is the state at the nominal start, `b` the vector's bytes. R218 and R187: the two idle vectors that a run meets first; both leave the index and the word as they are. That a run's
first vector, where it is idle and timing set 0 is coherent, starts at the start tick off the grid is log 32 (DESIGN CHOICE). -/
def Obligations.vectorsIssued : Prop :=
  (∀ (s : State) (c : Cur) (x : Shelf),
    let start := nextStart s
    let u := toEpoch (start - start % 8192) s
    vecRuns s = true → s.sp.open_ = [] → (stopDue u && atBoundary u) = false →
    u.sq.cur = some c → c.kind = .vec → c.desc = none → u.sp.open_ = [] → u.sp.toOpen = [] →
    rangeIn u [1, 6] c.addr 32 = true → shelfItem (.vector c.addr) u = some x → x.ue = false →
    vHdrBad x.bytes = false → vPadBad x.bytes = false → rangeIn u [1, 6] c.addr (vSize x.bytes) = true →
    burstPins u (vSyms u x.bytes) = [] → tsValid u (vTset x.bytes) = true →
    ∃ (t : State) (v : VRec), exec .vectorIssue s = .next t ∧ v ∈ t.sp.inflight
      ∧ v.idx = u.sq.vindex ∧ v.n = u.sq.nEmit ∧ v.idle = false ∧ v.start = start + brim u (vTset x.bytes)
      ∧ v.period = tsPeriod u (vTset x.bytes) ∧ v.syms = vSyms u x.bytes ∧ v.conds = []
      ∧ v.reqs = carrierReqs x.bytes u.sq.reqs
      ∧ t.sq.vindex = u.sq.vindex + 1 ∧ t.sq.nEmit = u.sq.nEmit + 1 ∧ t.sq.reqs = {} ∧ t.sq.prevSym = vSyms u x.bytes
      ∧ t.sq.lastV = some (vTset x.bytes, start + brim u (vTset x.bytes), tsPeriod u (vTset x.bytes))
      ∧ t.sq.cur = (if c.left ≤ 1 then none
          else some { c with addr := c.addr + vSize x.bytes, left := c.left - 1, done := c.done + 1 })
      ∧ t.pm.dram = u.pm.dram ∧ t.pt = s.pt)
    ∧ (∀ s : State,
    let start := nextStart s
    let u := toEpoch (start - start % 8192) s
    let tset := (u.sq.lastV.map fun v => v.1).getD 0
    let idles := fun t : State => t.sq.vindex = u.sq.vindex ∧ t.sq.nEmit = u.sq.nEmit + 1 ∧ t.sq.cur = u.sq.cur
      ∧ t.sq.lastV = some (tset, start, tsPeriod u tset)
      ∧ ∃ v ∈ t.sp.inflight, v.idle = true ∧ v.n = u.sq.nEmit ∧ v.start = start
          ∧ ∀ p : Pin, v.syms[p] = BitVec.ofNat 4 (idleSym u p)
    vecRuns s = true → s.sp.open_ = [] → (stopDue u && atBoundary u) = false → u.sp.open_ = [] → u.sp.toOpen = [] →
    (u.sq.cur = none → u.sq.haltWait = none → wordReady u = true → exec .vectorIssue s = .next s)
    ∧ (u.sq.cur = none → u.sq.haltWait = none → wordReady u = false →
      ∃ t, exec .vectorIssue s = .next t ∧ idles t ∧ t.sq.dstall = min 0xFFFFFFFF (u.sq.dstall + 1))
    ∧ ∀ c : Cur, u.sq.cur = some c → c.desc = none → rangeIn u [1, 6] c.addr 32 = true → shelfItem (.vector c.addr) u = none →
      u.sp.bubble = false → u.pm.starveAct = false →
      ∃ t, exec .vectorIssue s = .next t ∧ idles t ∧ t.pm.starveCnt = min 0xFFFFFFFF (u.pm.starveCnt + 1) ∧ t.pm.starved = true)

/-- R15, R60, R63 to R65, R347; `v.cut` is the start that the overhang rule R70 cuts the vector at, where it is known already. -/
def Obligations.formatterPlacesEdges : Prop :=
  ∀ (s : State) (v : VRec), s.sp.inflight.find? (fun x => !x.atFm) = some v →
    let u := toEpoch (v.start - v.start % 8192 + 786432) s
    (tsValid u v.tset = true →
      ∃ (t : State) (new : List PEdge), exec .vectorAtFormatter s = .next t ∧ new = (usedPins u).flatMap (pinEdges u v)
        ∧ (∀ e ∈ new, used u e.pin = true ∧ u.tb.guardOpen[quadOf e.pin] = true ∧ (e.pin, Fin.ofNat 6 e.e) ∉ u.tg.bad
            ∧ e.n = v.n ∧ e.idx = v.idx
            ∧ e.prog = v.start + (if e.ui = 0 then 0 else e.ui * (v.period / v.nui)) + edgeOffset u e.pin v.tset e.e
            ∧ e.land = ((e.prog : Int) + (if e.e ≤ 3 then deskewDrv u e.pin else deskewCmp u e.pin) + 1638400 + memberShift u).toNat)
        ∧ (∀ e ∈ t.tg.edges, ∃ x ∈ u.tg.edges ++ new, e = { x with dropped := e.dropped })
        ∧ (v.cut = none → t.tg.edges = u.tg.edges ++ new ∧ t.tg.dropCnt = u.tg.dropCnt ∧ Keeps [.tg, .cs, .sp] u t)
        ∧ Keeps [.tg, .cs, .sp, .pins, .sq, .hi, .mg] u t)
    ∧ (tsValid u v.tset = false → v.idle = true →
        exec .vectorAtFormatter s = .next { u with sp := { u.sp with inflight := u.sp.inflight.erase v } })
    ∧ (tsValid u v.tset = false → v.idle = false → ∃ t, exec .vectorAtFormatter s = .next t ∧ t.mg.contained = true)

/-- R87 with the two drops of Table 3.4 (R67, R68), and the transition of R68 and R94; `u` is the state at the land time.
An edge that breaks both R67 and R68 is dropped and counted once (DESIGN CHOICE, log 32). R72 under the nominal tap map: 1,024 ticks to an edge-clock cycle, 64 to a phase, one to a tap; all in 1/256 tick. -/
def Obligations.driveEdgeFires : Prop :=
  (∀ (s : State) (p : Pin) (e : PEdge),
    nextEdge p (fun x => decide (x.e ≤ 3)) s.tg.edges = some e → e.pin = p →
    let u := toEpoch e.land s
    let rest : State := { u with tg := { u.tg with edges := u.tg.edges.erase e } }
    (∃ t, exec (.edgeFire p) s = .next t ∧ (∀ r : Pin, r ≠ p → t.pins[r] = u.pins[r])
      ∧ t.pins[p].lastTrans = if moves (u.pins[p].en, u.pins[p].dat) (t.pins[p].en, t.pins[p].dat) then some e.land
          else u.pins[p].lastTrans)
    ∧ (landTogether u p e.land = [e] → placed rest e = false →
      ∃ t, exec (.edgeFire p) s = .next t ∧ t.pins = u.pins ∧ t.tg = rest.tg ∧ Keeps [.tg] u t)
    ∧ (landTogether u p e.land = [e] → placed rest e = true → pinParked u p = false →
    (tooClose rest e = false → conflicts rest (fun _ => false) e = false →
      ∃ t, exec (.edgeFire p) s = .next t ∧ t.tg.edges = u.tg.edges.erase e ∧ t.tg.dropCnt = u.tg.dropCnt
        ∧ (∀ v, e.act = .enable v → t.pins[p].en = v ∧ t.pins[p].dat = u.pins[p].dat)
        ∧ (∀ d, e.act = .data d → t.pins[p].dat = d ∧ t.pins[p].en = u.pins[p].en)
        ∧ (∀ d, e.act = .enableData d → t.pins[p].dat = d ∧ t.pins[p].en = true)
        ∧ t.pins[p].lastDrive = some e.land ∧ t.pins[p].fired = some (physical u p e.e e.land)
        ∧ (∀ r : Pin, r ≠ p → t.pins[r] = u.pins[r]) ∧ Keeps [.pins, .tg] u t)
    ∧ ((tooClose rest e = true ∨ conflicts rest (fun _ => false) e = true) →
      ∃ t, exec (.edgeFire p) s = .next t ∧ t.pins = u.pins ∧ t.tg.edges = u.tg.edges.erase e
        ∧ t.tg.dropCnt = min 0xFFFFFFFF (u.tg.dropCnt + 1) ∧ Keeps [.tg, .sq, .hi, .mg] u t)))
    ∧ (∀ (s : State) (p : Pin) (e land : Nat), s.bt.trims = .nominal →
    let f := physical s p e land
    let want : Int := 256 * (land : Int) + s.tb.phi[quadOf p]
    let got : Int := 256 * (f.cycle * 1024 + f.phase * 64 + f.tap)
    0 ≤ f.phase ∧ f.phase ≤ 15 ∧ f.tap ≤ 79 ∧ f.land = land ∧ -128 ≤ want - got ∧ want - got ≤ 128)

/-- R94: the result word of a strobe on a standard symbol, away from a drive transition and near one, where the state is
a free value (log 3) among those that the line may pass through (R94 states none; DESIGN CHOICE, log 45). R69, R95 and the burst form of Table 4.8; `v` is the state at the land time, the edge used. That an excursion which still runs at E5
counts as seen is R95's latitude, taken back later where the model's free value says so (log 3). -/
def Obligations.strobeTakesObservedState : Prop :=
  (∀ (s : State) (p : Pin) (e : PEdge),
    nextEdge p (landsNext s.tg.edges) s.tg.edges = some e → e.pin = p → e.act = .strobe → e.e = 4 → e.burst = false → e.dropped = false →
    1 ≤ e.exp → e.exp ≤ 4 →
    let u := toEpoch e.land s
    let rest : State := { u with tg := { u.tg with edges := u.tg.edges.erase e } }
    let v := updPin p (fireGen rest e) rest
    placed rest e = true → tooClose rest e = false → switching u.pins[p] e.land = false → inBrim v e = false →
    let gives := fun (t : State) (st : Nat) =>
      let fail := (e.exp = 1 ∧ st ≠ 1) ∨ (e.exp = 2 ∧ st ≠ 2) ∨ (e.exp = 3 ∧ st ≠ 0) ∨ (e.exp = 4 ∧ st ≠ 1 ∧ st ≠ 2)
      ∃ w : W16, (w.toNat = 16 + st + 8 ∧ fail ∨ w.toNat = 16 + st ∧ ¬ fail)
        ∧ t.sp.inflight = u.sp.inflight.map fun v => if v.n = e.n then { v with res := addResult p w v.res } else v
    let near := nearDrive v p e.land
    (near = false → ∃ t, exec (.compareEdge p) s = .next t
        ∧ gives t ((if u.pins[p].hi then 2 else 0) + (if u.pins[p].lo then 1 else 0)) ∧ t.freeCtr = u.freeCtr
        ∧ t.pins[p].en = u.pins[p].en ∧ t.pins[p].dat = u.pins[p].dat ∧ t.tg.edges = u.tg.edges.erase e)
    ∧ (near = true → ∃ t st, exec (.compareEdge p) s = .next t ∧ st ≤ 3 ∧ st ∈ passable v p e.land
        ∧ gives t st ∧ t.freeCtr = u.freeCtr + 1))
    ∧ (∀ (s : State) (p : Pin) (e : PEdge),
    nextEdge p (landsNext s.tg.edges) s.tg.edges = some e → e.pin = p → e.dropped = false →
    let u := toEpoch e.land s
    let rest : State := { u with tg := { u.tg with edges := u.tg.edges.erase e } }
    let v := updPin p (fireGen rest e) rest
    let gives := fun (t : State) (n : Nat) (w : W16) =>
      t.sp.inflight = u.sp.inflight.map fun x => if x.n = n then { x with res := addResult p w x.res } else x
    placed rest e = true → tooClose rest e = false →
    (e.e = 4 → e.act = .open_ → switching u.pins[p] e.land = false → inBrim v e = false → ∀ c, closing v e = some c →
      (let x := countDrop 3 c 0 { v with tg := { v.tg with edges := v.tg.edges.erase c } }
       c.land < e.land + 256 → nearDrive x p e.land = false → e.burst = false →
        ∃ t, exec (.compareEdge p) s = .next t ∧ t.tg.edges = rest.tg.edges.erase c ∧ t.tg.dropCnt = min 0xFFFFFFFF (u.tg.dropCnt + 1)
          ∧ t.pins[p].win = u.pins[p].win
          ∧ gives t e.n (BitVec.ofNat 16 (16 + (if passes e.exp (observed u p) then 0 else 8) + observed u p)))
      ∧ (e.land + 256 ≤ c.land → (u.pins[p].win ≠ none ∨ ∃ k, u.pins[p].lastE5 = some k ∧ e.land < k + 256) →
        ∃ t, exec (.compareEdge p) s = .next t ∧ t.sp.inflight = u.sp.inflight ∧ t.pins[p].win = u.pins[p].win
          ∧ t.tg.edges = rest.tg.edges ∧ t.tg.dropCnt = min 0xFFFFFFFF (u.tg.dropCnt + 1))
      ∧ (e.land + 256 ≤ c.land → u.pins[p].win = none → (∀ k, u.pins[p].lastE5 = some k → k + 256 ≤ e.land) →
        ∃ t w, exec (.compareEdge p) s = .next t ∧ t.pins[p].win = some w ∧ t.sp.inflight = u.sp.inflight ∧ t.tg.dropCnt = u.tg.dropCnt
          ∧ w.n = e.n ∧ w.ui = e.ui ∧ w.exp = e.exp ∧ w.burst = e.burst ∧ w.first = observed u p ∧ w.bad = none
          ∧ (w.tent = none ↔ passes e.exp (observed u p) = true)))
    ∧ (∀ w : Win, e.e = 5 → u.pins[p].win = some w → w.n = e.n → w.ui = e.ui →
      ∃ t, exec (.compareEdge p) s = .next t ∧ t.pins[p].win = none ∧ t.pins[p].lastE5 = some e.land
        ∧ (w.burst = false → gives t e.n (BitVec.ofNat 16 (48 + (if winBad w = none then 0 else 8) + (winBad w).getD w.first)))
        ∧ (w.burst = true → gives t e.n (if winBad w = none then 0 else 1#16 <<< w.ui)))
    ∧ (e.e = 4 → e.act = .strobe → e.burst = true → switching u.pins[p] e.land = false → inBrim v e = false → nearDrive v p e.land = false →
      ∃ t, exec (.compareEdge p) s = .next t ∧ gives t e.n (if passes e.exp (observed u p) then 0 else 1#16 <<< e.ui)))

/-- R239 to R242, R250 for a `BR`; `u` is the state in the resolution cycle. R212, R213 for the oldest condition and a local entry; `u` is the state in the resolution cycle. A time-out after a stop has ended the
repetitions is counted too (DEDUCED, log 28). -/
def Obligations.branchResolves : Prop :=
  (∀ (s : State) (c : Cond) (rest : List Cond) (due : Nat),
    s.sp.open_ = c :: rest → oldestDue s = some due →
    (vecRuns s = true → due < peekStart s - peekStart s % 8192) →
    c.stay = false → c.goWait = false → c.check.cur = none →
    (∀ (at_ : Nat) (g : Cond), lateGlobal s = some (at_, g) → max at_ (ext s) < due →
      ∃ t, exec .conditionResolve s = .next t ∧ t.mg.contained = true)
    ∧ (((lateGlobal s).all fun x => decide (due ≤ max x.1 (ext s))) = true →
    let u := toEpoch due s
    let e := condEnt u c.entry
    (cSrc e ≠ 6 → (localValue u e c.subj == c.sense) = c.pred →
      ∃ t, exec .conditionResolve s = .next t ∧ t.sp.resolved = min 0xFFFFFFFF (u.sp.resolved + 1) ∧ t.sp.mispred = u.sp.mispred
        ∧ (∀ x ∈ t.sp.open_, x.cid ≠ c.cid) ∧ ∀ v ∈ t.sp.inflight, c.cid ∉ v.conds)
    ∧ (cSrc e ≠ 6 → (localValue u e c.subj == c.sense) ≠ c.pred →
      ∃ t, exec .conditionResolve s = .next t ∧ t.sp.resolved = min 0xFFFFFFFF (u.sp.resolved + 1)
        ∧ t.sp.mispred = min 0xFFFFFFFF (u.sp.mispred + 1) ∧ t.sp.open_ = [] ∧ t.sp.toOpen = []
        ∧ t.sq.pc = c.check.pc ∧ t.sq.loops = c.check.loops ∧ t.sq.reqs = c.check.reqs ∧ t.sq.vindex = c.check.vindex
        ∧ t.pm.cursors = c.check.cursors ∧ t.sp.redirected = true ∧ t.pm.dram = u.pm.dram
        ∧ ∀ v ∈ t.sp.inflight, c.cid ∈ v.conds → v.dead = true)
    ∧ (cSrc e = 6 → globalResult u c c.subj = none → ∃ t, exec .conditionResolve s = .next t ∧ t.mg.contained = true)))
    ∧ (∀ (s : State) (c : Cond) (rest : List Cond) (due : Nat),
    s.sp.open_ = c :: rest → oldestDue s = some due →
    (vecRuns s = true → due < peekStart s - peekStart s % 8192) →
    ((lateGlobal s).all fun x => decide (due ≤ max x.1 (ext s))) = true →
    let u := toEpoch due s
    let e := condEnt u c.entry
    let gone := fun t : State => t.sp.resolved = min 0xFFFFFFFF (u.sp.resolved + 1) ∧ (∀ x ∈ t.sp.open_, x.cid ≠ c.cid)
      ∧ ∀ v ∈ t.sp.inflight, c.cid ∉ v.conds
    cSrc e ≠ 6 →
    (∀ (r : Subj) (more : List Subj), c.stay = true → c.reps = r :: more → r.start < c.deadline →
      (localValue u e r = c.sense → ∃ t, exec .conditionResolve s = .next t ∧ gone t ∧ t.sp.mispred = u.sp.mispred
        ∧ ∀ k tt, waitOf c u = some (k, tt) → t.sq.cur = none ∧ t.sq.pc = c.word + 1)
      ∧ (localValue u e r ≠ c.sense → ∃ t, exec .conditionResolve s = .next t ∧ t.sp.resolved = u.sp.resolved
        ∧ t.sp.open_ = (u.sp.open_.map fun x => if x.cid = c.cid then { x with reps := x.reps.tail } else x) ∧ Keeps [.sp, .freeCtr] u t))
    ∧ (∀ (r : Subj) (more : List Subj), c.stay = true → c.reps = r :: more → c.deadline ≤ r.start →
      (∀ k tt, waitOf c u = some (k, tt) → ∃ t, exec .conditionResolve s = .next t ∧ gone t ∧ t.sq.cur = none ∧ t.sq.pc = tt
        ∧ t.sq.timeouts = min 0xFFFFFFFF (u.sq.timeouts + 1))
      ∧ (waitOf c u = none → c.deadline ≠ 0 → ∃ t, exec .conditionResolve s = .next t ∧ gone t
        ∧ t.sq.timeouts = min 0xFFFFFFFF (u.sq.timeouts + 1)))
    ∧ (c.stay = false → c.goWait = true →
      (localValue u e c.subj = c.sense → ∃ t, exec .conditionResolve s = .next t ∧ gone t ∧ t.sp.mispred = u.sp.mispred)
      ∧ ∀ (k : Cur) (en d tt : Nat) (sn : Bool), localValue u e c.subj ≠ c.sense → u.sq.stopped = false →
        c.check.cur = some k → k.kind = .wait en sn d tt true →
        ∃ t, exec .conditionResolve s = .next t ∧ t.sp.mispred = min 0xFFFFFFFF (u.sp.mispred + 1) ∧ t.sp.open_ = []
          ∧ (nextStart t < d → t.sq.cur = some k ∧ ∃ x, t.sp.toOpen = [x] ∧ x.stay = true ∧ x.entry = en ∧ x.sense = sn ∧ x.word = k.word)
          ∧ (d ≤ nextStart t → t.sq.cur = none ∧ t.sq.pc = tt ∧ t.sq.timeouts = min 0xFFFFFFFF (u.sq.timeouts + 1))))

/-- R306 to R308: one TIU's gate under a `TGATE` close, and every TIU's under an edge of its line; R302 for the shot in progress. R304, R305 and the overflow of R302; when a failure and an overflow of a `GATE_IN` gate stand is log 45's reading of R307. -/
def Obligations.tiuGatesAndShots : Prop :=
  ((∀ (s : State) (a : Act) (g : Glove), s.sq.acts = [a] → a.reqs.topen = 0 → a.reqs.tclose = 1#64 <<< g.val →
      let u := toEpoch a.due s
      u.ti.units[g].gate = 0 → u.ti.units[g].gopen = true →
      ∃ t, exec .tgateAct s = .next t ∧ t.ti.units[g].gopen = false ∧ t.ti.units[g].shot = none ∧ t.ti.units[g].ready = none
        ∧ (∀ k : Glove, k ≠ g → t.ti.units[k] = u.ti.units[k]) ∧ t.pm = u.pm ∧ t.pins = u.pins)
    ∧ (∀ (s : State) (a : Act) (g : Glove), s.sq.acts = [a] → a.reqs.tclose = 0 → a.reqs.topen = 1#64 <<< g.val → a.conds = [] →
      let u := toEpoch a.due s
      u.ti.units[g].gate = 0 → u.ti.units[g].gopen = false → u.ti.units[g].held = none →
      ∃ t, exec .tgateAct s = .next t ∧ t.ti.units[g].gopen = true ∧ t.ti.units[g].calErr = u.ti.units[g].calErr ∧ t.ti.units[g].held = none
        ∧ t.ti.units[g].calAt = (if u.tb.guardOpen[quadOfGlove g] then some (u.tb.now + 8192000) else none)
        ∧ (∀ k : Glove, k ≠ g → t.ti.units[k] = u.ti.units[k]))
    ∧ ∀ (s : State) (line : Fin 4) (g : Glove),
      (s.ti.gateIn[line] = false → s.mg.contained = false →
        ∃ t, exec (.gateInEdge line true) s = .next t ∧ t.ti.gateIn[line] = true
          ∧ (s.ti.units[g].gate = line.val + 1 → t.ti.units[g].gopen = true ∧ t.ti.units[g].barred = false
            ∧ (s.ti.units[g].gopen = false → t.ti.units[g].calAt =
                if s.tb.guardOpen[quadOfGlove g] then some (s.tb.now + 8192000 - 24576) else none))
          ∧ (s.ti.units[g].gate ≠ line.val + 1 → t.ti.units[g] = s.ti.units[g]) ∧ Keeps [.ti] s t)
      ∧ (s.ti.gateIn[line] = true →
        ∃ t, exec (.gateInEdge line false) s = .next t ∧ t.ti.gateIn[line] = false
          ∧ (s.ti.units[g].gate = line.val + 1 → t.ti.units[g].gopen = false)
          ∧ (∀ (st : Int) (k : Nat), s.ti.units[g].gate = line.val + 1 → s.ti.units[g].gopen = true → s.ti.units[g].held = none →
            (∀ x ∈ s.ti.recent, x.tiu ≠ g) → s.ti.units[g].shot = some (st, k) → t.ti.units[g].shot = none
            ∧ t.ti.units[g].com = if st ≤ (ext s : Int) - 24576
                then { s.ti.units[g].com with noStop := min 0xFFFFFFFF (s.ti.units[g].com.noStop + 1) } else s.ti.units[g].com)
          ∧ (s.ti.units[g].gate ≠ line.val + 1 → t.ti.units[g] = s.ti.units[g]) ∧ Keeps [.ti, .hi, .mg, .freeCtr] s t)
      ∧ ∀ rise : Bool, s.ti.gateIn[line] = rise → exec (.gateInEdge line rise) s = .next s)
    ∧ ((∀ (s : State) (g : Glove) (r1 r2 at_ : Nat), s.ti.units[g].calAt = some at_ → r1 < r2 →
      let u := toTime at_ s
      (152 * (r2 - r1) ≤ 655360 → 655360 ≤ 168 * (r2 - r1) →
        ∃ t, exec (.tiuGateReady g r1 r2) s = .next t ∧ t.ti.units[g].ready = some (ext u : Int) ∧ t.ti.units[g].calErr = false
          ∧ t.ti.units[g].calAt = none ∧ t.ti.units[g].gain.toNat = (2 * 2 ^ 40 + (r2 - r1)) / (2 * (r2 - r1))
          ∧ (∀ k : Glove, k ≠ g → t.ti.units[k] = u.ti.units[k]) ∧ Keeps [.ti, .freeCtr] u t)
      ∧ (let late := toTime (at_ + if s.ti.units[g].gate = 0 then 0 else 24576) s
        (655360 < 152 * (r2 - r1) ∨ 168 * (r2 - r1) < 655360) →
        ∃ t, exec (.tiuGateReady g r1 r2) s = .next t ∧ t.ti.units[g].ready = none ∧ t.ti.units[g].calErr = true ∧ t.ti.calErr = true
          ∧ Keeps [.ti, .hi, .mg, .freeCtr] late t))
    ∧ ∀ (s : State) (g : Glove) (st : Int) (k : Nat), s.ti.units[g].shot = some (st, k) →
      let u := toEpoch (st + 2 ^ 50).toNat s
      (u.ti.units[g].gate = 0 → u.ti.units[g].held = none →
        ∃ t, exec (.tiuShotOverflow g) s = .next t ∧ t.ti.units[g].shot = none ∧ t.ti.ovr = true
          ∧ t.ti.units[g].com = { u.ti.units[g].com with ovr := min 0xFFFFFFFF (u.ti.units[g].com.ovr + 1) }
          ∧ (∀ j : Glove, j ≠ g → t.ti.units[j] = u.ti.units[j]) ∧ Keeps [.ti, .hi, .mg] u t)
      ∧ (u.ti.units[g].gate ≠ 0 → u.tb.fabSrc = .edge →
        ∃ t, exec (.tiuShotOverflow g) s = .next t ∧ t.ti.units[g].shot = none ∧ t.ti.units[g].com = u.ti.units[g].com
          ∧ t.ti.recent = u.ti.recent ++ [{ tiu := g, start := st, stop := st + (2 ^ 50 - 1), overflow := true }]
          ∧ (∀ j : Glove, j ≠ g → t.ti.units[j] = u.ti.units[j]) ∧ Keeps [.ti] u t))

/-- R314 to R317; a configured TIU gated by no line keeps its gate closed. -/
def Obligations.tiuCommandsAct : Prop :=
  (∀ (s : State) (tag : W16) (e : Exec) (mask : Nat), executing 0x0B02 tag s = some e → payF e 0 8 = mask → payZero e 8 40 = true →
      (mask = 0 → ∃ t, exec (.tiClear tag) s = .next t ∧ Answered e 2 [] s t ∧ Keeps [.hi] s t)
      ∧ (mask ≠ 0 → tiuInUse s mask = true → ∃ t, exec (.tiClear tag) s = .next t ∧ Answered e 5 [] s t ∧ Keeps [.hi] s t)
      ∧ (mask ≠ 0 → tiuInUse s mask = false → ∃ t, exec (.tiClear tag) s = .next t ∧ Answered e 0 [] s t
          ∧ (∀ g : Glove, t.ti.units[g] = if mask.testBit g.val then tiuClear s.ti.units[g] else s.ti.units[g])
          ∧ Keeps [.ti, .hi] s t))
    ∧ (∀ (s : State) (tag : W16) (e : Exec) (g : Glove), executing 0x0B01 tag s = some e → payF e 0 8 = 2 ^ g.val →
      e.ind.length = 40 →
      let r := slice e.ind 8 32
      tiRecOk r = true → tiRecMark r = false → tiuInUse s (2 ^ g.val) = false → fieldAt r 16 1 = 0 →
      ∃ t, exec (.tiConfig tag) s = .next t ∧ Answered e 0 [] s t ∧ t.ti.units[g].start.toNat = fieldAt r 0 4
        ∧ t.ti.units[g].stop.toNat = fieldAt r 4 4 ∧ t.ti.units[g].stopN = fieldAt r 8 4 ∧ t.ti.units[g].n = fieldAt r 12 4
        ∧ t.ti.units[g].gate = 0 ∧ t.ti.units[g].com = {} ∧ t.ti.units[g].gopen = s.ti.units[g].gopen
        ∧ (∀ k : Glove, k ≠ g → t.ti.units[k] = s.ti.units[k]) ∧ Keeps [.ti, .hi] s t)
    ∧ (∀ (s : State) (tag : W16) (e : Exec), executing 0x0B03 tag s = some e → fieldAt e.entry.pay 0 8 ≠ 0 →
      fieldAt e.entry.pay 8 8 % 8 = 0 → allZero (slice e.entry.pay 16 32) = true → Memory.wf 0 s.hostMem = true →
      ∃ t, exec (.tiRead tag) s = .next t ∧ Answered e 0 [] s t
        ∧ memRead 0 t.hostMem (fieldAt e.entry.pay 8 8) e.ind.length = e.ind
        ∧ HostSameOutside (fieldAt e.entry.pay 8 8) e.ind.length s t ∧ Keeps [.hi, .hostMem] s t)
    ∧ ∀ (s : State) (mask : W64), written 0x0598 8 0 (· == mask.toNat) s = true → Memory.wf 0 s.ti.window = true →
      ∃ t, exec (.tiSnap mask) s = .next t
        ∧ (∀ g : Glove, memRead 0 t.ti.window (64 * g.val) 64
            = if mask.getLsbD g.val then tiuBlock s.ti.units[g] else memRead 0 s.ti.window (64 * g.val) 64)
        ∧ t.ti.units = s.ti.units ∧ Keeps [.ti, .hi] s t

/-- R244, R251, R254, R255, R265 for one vector with complete compares; `u` is the state in the cycle of the release. -/
def Obligations.vectorReleaseCounts : Prop :=
  ∀ (s : State) (v : VRec),
    let u := nextRelease (toEpoch (availAt s v) s)
    let fails := vecFails u u.cl.retired v
    s.sp.inflight = [v] → holdsResults v = true →
    (v.conds = [] → v.isWait = false → 1 ≤ releaseRoom u → availAt u v ≤ ext u → anyPending u v = false →
      ∃ t, exec (.commitRelease []) s = .next t ∧ v ∉ t.sp.inflight
        ∧ (∀ p : Pin, (∀ x ∈ fails, x.1 ≠ p) → t.cl.pins[p] = u.cl.pins[p])
        ∧ (∀ (p : Pin) (n : Nat), (p, n) ∈ fails → t.cl.pins[p] = min 0xFFFFFFFF (u.cl.pins[p] + n))
        ∧ (∀ i : Fin 64, t.cl.sites[i] = if siteFails u fails i.val then min 0xFFFFFFFFFFFFFFFF (u.cl.sites[i] + 1) else u.cl.sites[i])
        ∧ t.cl.dev = (if fails = [] then u.cl.dev else min 0xFFFFFFFFFFFFFFFF (u.cl.dev + 1))
        ∧ t.cl.retired = u.cl.retired ||| (v.reqs.sites &&& validSites u) ∧ t.cl.relVec = some v.idx
        ∧ t.pm.dram = u.pm.dram ∧ t.pt = u.pt)
    ∧ (v.conds ≠ [] → exec (.commitRelease []) s = .next s)
    ∧ (v.conds ≠ [] → ∃ t, exec (.commitRelease [(v.n, .corrected)]) s = .next t ∧ t.sp.cloakCe = min 0xF (s.sp.cloakCe + 1)
        ∧ t.sp.inflight = s.sp.inflight ∧ Keeps [.sq, .sp, .hi, .mg] s t)
    ∧ (running s = true → s.mg.contained = false → ∃ t, exec (.commitRelease [(v.n, .uncorrectable)]) s = .next t
        ∧ t.mg.contained = true ∧ t.sp.cloakUe = true ∧ t.cl = u.cl ∧ t.pm.dram = if v.conds = [] then u.pm.dram else s.pm.dram)

/-- R260 to R263: where a granule goes, and the two full actions; `u` is the state in the cellar slot (R24, R168). R257 and R269; the settings are in force from the completion entry on (R391; log 36). -/
def Obligations.cellarKeepsRecords : Prop :=
  (∀ (s : State) (bytes : List Byte) (rseq idx base g : Nat) (more : List (List Byte × Nat × Nat)),
    s.cl.front = (bytes, rseq, idx) :: more → cellarRegion s = some (base, g) → 0 < g → Memory.wf 0 s.pm.dram = true →
    s.mg.pstate ≤ 2 →
    let u := inSlot .cellar 64 s
    let size := bytes.length / 64
    let place := base + (s.cl.prod + s.cl.headOut) % g * 64
    (s.cl.headOut < size → (s.cl.headOut ≠ 0 ∨ s.cl.fullAct = false ∧ s.cl.prod + size ≤ g
        ∨ s.cl.fullAct = true ∧ s.cl.prod + size - s.cl.oldest ≤ g) →
      ∃ t, exec .cellarGranuleWrite s = .next t ∧ dramRead t place 64 = slice bytes (64 * s.cl.headOut) 64
        ∧ DramSameOutside place 64 u t
        ∧ (s.cl.headOut + 1 < size → t.cl = { s.cl with headOut := s.cl.headOut + 1 })
        ∧ (s.cl.headOut + 1 = size → t.cl = { s.cl with headOut := 0, front := more, prod := s.cl.prod + size })
        ∧ Keeps [.pm, .cl] u t)
    ∧ (s.cl.headOut = 0 → s.cl.fullAct = false → g < s.cl.prod + size →
      ∃ t, exec .cellarGranuleWrite s = .next t ∧ t.cl.full = true ∧ t.cl.halted = true ∧ t.cl.front = [] ∧ t.cl.prod = s.cl.prod
        ∧ t.cl.lostFull = min 0xFFFFFFFF (s.cl.lostFull + (more.length + 1)) ∧ Keeps [.cl, .hi, .mg] s t)
    ∧ (s.cl.headOut = 0 → s.cl.fullAct = true → g < s.cl.prod + size - s.cl.oldest →
      exec .cellarGranuleWrite s = .next { s with cl := { s.cl with readNeed := true } })
    ∧ (s.cl.readNeed = true →
      (∃ t, exec (.cellarReadbackComplete .ok) s = .next t ∧ t.cl.readNeed = false ∧ t.pm = u.pm
        ∧ t.cl.oldest = s.cl.oldest + fld (leNat (dramRead u (base + s.cl.oldest % g * 64) 8)) 59 55
        ∧ (s.cl.oldest = 0 → t.cl.wrapped = true) ∧ Keeps [.cl, .hi, .mg] u t)
      ∧ ∃ t, exec (.cellarReadbackComplete .uncorrectable) s = .next t ∧ t.cl.rbErr = true ∧ t.cl.halted = true ∧ t.cl.front = []
        ∧ t.pm.dram = u.pm.dram ∧ t.pm.ueFlag = true))
    ∧ ((∀ s : State,
      let u := popWrite 0x0484 4 s
      written 0x0484 4 0 (fun _ => true) s = true → u.cl.relAt ≠ u.tb.now →
      ∃ t, exec .clCntSnap s = .next t ∧ t.cl.snapPins = s.cl.pins ∧ t.cl.snapSites = s.cl.sites ∧ t.cl.snapDev = s.cl.dev
        ∧ (∀ i, s.cl.relVec = some i → t.cl.snapVec.toNat = 2 ^ 63 + i % 2 ^ 48) ∧ (s.cl.relVec = none → t.cl.snapVec = 0)
        ∧ t.cl.pins = s.cl.pins ∧ t.cl.dev = s.cl.dev ∧ Keeps [.cl, .hi] s t)
    ∧ (∀ s : State,
      let u := popWrite 0x0484 4 s
      written 0x0484 4 0 (fun _ => true) s = true → u.cl.relAt = u.tb.now →
      ∃ t, exec .clCntSnap s = .next t ∧ t.cl.snapPins = s.cl.prePins ∧ t.cl.snapSites = s.cl.preSites ∧ t.cl.snapDev = s.cl.preDev
        ∧ t.cl.pins = s.cl.pins ∧ t.cl.dev = s.cl.dev ∧ Keeps [.cl, .hi] s t)
    ∧ ∀ (s : State) (tag : W16) (e : Exec), executing 0x0901 tag s = some e →
      payF e 0 1 ≤ 3 → payF e 1 1 ≤ 1 → payF e 2 1 ≤ 1 → payF e 3 1 ≤ 3 → payZero e 16 32 = true →
      let mode := payF e 0 1
      let n := payF e 4 4
      let th := payF e 8 8
      let nGood := (mode = 1 ∧ 1 ≤ n) ∨ (mode = 2 ∧ 1 ≤ n ∧ n ≤ 65535) ∨ (mode ≠ 1 ∧ mode ≠ 2 ∧ n = 0)
      let thGood := (payF e 3 1 = 2 ∧ 1 ≤ th) ∨ (payF e 3 1 ≠ 2 ∧ th = 0)
      (nGood → thGood → (∃ t, exec (.clConfig tag) s = .next t ∧ Answered e 0 [] s t ∧ Keeps [.hi] s t)
        ∧ ∀ (r : State) (more : List Cpl), r.hi.cpls = cplOf e 0 [] :: more → cplRoom r = true →
          r.hi.exec.find? (fun x => x.entry.tag == e.entry.tag) = some e →
          ∃ t, exec .completionWrite r = .next t
            ∧ t.cl = { r.cl with mode := BitVec.ofNat 2 mode, fullAct := payF e 1 1 == 1, frontAct := payF e 2 1 == 1
                                 sof := BitVec.ofNat 2 (payF e 3 1), nLimit := n, sofThresh := th })
      ∧ (¬ (nGood ∧ thGood) → ∃ t, exec (.clConfig tag) s = .next t ∧ Answered e 3 [] s t ∧ Keeps [.hi] s t))

/-- R220. -/
def Obligations.serviceProcedures : Prop :=
  ∀ (s u : State) (w : Nat) (p : Proc),
    (∀ (e : Nat) (r : List Nat), s.sq.proc = none → s.sq.svcQueue = e :: r →
      exec .serviceProcedureStart s = .next { s with sq := { s.sq with proc := some { entry := e, pc := e }, svcQueue := r } })
    ∧ (SvcReady 0x20 w p s u → p.stack.length < 8 →
      exec (.call .ok) s = .next (withProc (some { p with stack := (p.pc + 1) :: p.stack, pc := fld w 17 0 }) u))
    ∧ (SvcReady 0x20 w p s u → 8 ≤ p.stack.length → ∃ t, exec (.call .ok) s = .next t ∧ t.sq.proc = none ∧ t.sq.svcFault = true
        ∧ t.sq.fault.toNat = 2 ^ 63 + 2 ^ 62 + 0xA * 2 ^ 58 + p.pc % 2 ^ 18 ∧ t.sq.svcQueue.length ≤ s.sq.svcQueue.length)
    ∧ (SvcReady 0x21 w p s u →
      (p.stack = [] → exec (.ret .ok) s = .next (withProc none u))
      ∧ ∀ (a : Nat) (r : List Nat), p.stack = a :: r →
          exec (.ret .ok) s = .next (withProc (some { p with pc := a, stack := r }) u))
    ∧ (SvcReady 0x22 w p s u → exec (.sjmp .ok) s = .next (withProc (some { p with pc := fld w 17 0 }) u))

/-- Table 8.5 with R107 and R221; `u` is the state past the word. -/
def Obligations.serviceLevelsAndMeasurements : Prop :=
  ∀ (s u : State) (w : Nat) (p : Proc),
    let v := withProc (some { p with pc := p.pc + 1 }) u
    let pins := groupPins u (fld w 121 116)
    running s = true →
    (SvcReady 0x24 w p s u → ∃ t, exec (.lvl .ok) s = .next t ∧ Keeps [.pins] v t
        ∧ (∀ r : Pin, r ∉ pins → t.pins[r] = u.pins[r])
        ∧ ∀ r ∈ pins, ∀ d : DacIx,
            t.pins[r].dacs[d].staged = (if (fld w 115 110).testBit d.val then BitVec.ofNat 16 (fld w 15 0) else u.pins[r].dacs[d].staged)
            ∧ t.pins[r].dacs[d].req = u.pins[r].dacs[d].req ∧ t.pins[r].dacs[d].act = u.pins[r].dacs[d].act
            ∧ t.pins[r].dacs[d].out = u.pins[r].dacs[d].out ∧ t.pins[r].ctl = u.pins[r].ctl)
    ∧ (SvcReady 0x25 w p s u → ∃ t, exec (.pfn .ok) s = .next t ∧ Keeps [.pins] v t
        ∧ (∀ r : Pin, r ∉ pins → t.pins[r] = u.pins[r])
        ∧ ∀ r ∈ pins, t.pins[r].stg = { u.pins[r].stg with
              func := BitVec.ofNat 3 (fld w 2 0), mode := BitVec.ofNat 2 (fld w 12 11), range := BitVec.ofNat 3 (fld w 15 13) }
            ∧ t.pins[r].ctl = u.pins[r].ctl ∧ t.pins[r].enabled = u.pins[r].enabled)
    ∧ (SvcReady 0x26 w p s u → pins ≠ [] → bytesIn u [5] (fld w 40 0) (8 * pins.length) = true →
      ∃ t, exec (.pmeas .ok) s = .next t ∧ Keeps [.pf, .sq] u t
        ∧ (t.sq.proc.map fun q => q.block) = some (some (.pmeas (fld w 40 0) pins pins u.tb.now))
        ∧ ∀ g : Glove, t.pf.adcs[g].queue.length = u.pf.adcs[g].queue.length + (pins.filter fun r => gloveOf r = g).length)
    ∧ (SvcReady 0x26 w p s u → pins = [] → exec (.pmeas .ok) s = .next v)

/-- `TIURD` and `TIURD_COMPLETE`. R223, R224 and the scrub of R225. -/
def Obligations.serviceBlocksAndOverlays : Prop :=
  (∀ (s u : State) (w : Nat) (p : Proc),
    let bytes := tiuBlocks u (fld w 63 0)
    let dest := fld w 104 64
    (SvcReady 0x27 w p s u → bytes ≠ [] → bytesIn u [5] dest bytes.length = true →
      exec (.tiurd .ok) s = .next (withProc (some { p with pc := p.pc + 1, block := some (.tiurd dest bytes) }) u))
    ∧ (SvcReady 0x27 w p s u → bytes ≠ [] → bytesIn u [5] dest bytes.length = false → ∃ t, exec (.tiurd .ok) s = .next t
        ∧ t.sq.proc = none ∧ t.sq.svcFault = true ∧ t.sq.fault.toNat / 2 ^ 58 % 32 = 2 ^ 4 + 0xB ∧ t.pm.dram = u.pm.dram)
    ∧ ∀ (at_ : Nat) (l : List Byte), s.sq.proc = some p → p.block = some (.tiurd at_ l) → p.last = false →
      Memory.wf 0 s.pm.dram = true → s.mg.pstate ≤ 2 →
      let v := inSlot .maint l.length s
      ∃ t, exec .tiurdComplete s = .next t ∧ t.sq = { s.sq with proc := some { p with block := none } }
        ∧ dramRead t at_ l.length = l ∧ DramSameOutside at_ l.length v t
        ∧ { t.pm with dram := v.pm.dram, dramKnown := v.pm.dramKnown } = v.pm ∧ Keeps [.pm, .sq] v t)
    ∧ ((∀ (s u : State) (w : Nat) (p : Proc),
      let count := fld w 121 105
      let src := fld w 104 64
      let dest := fld w 17 0
      let v := withProc (some { p with pc := p.pc + 1 }) u
      let guarded := (protectedWords v p.pc).any (nearOverlap dest count) = true ∨ ∃ x ∈ decodedWords v, dest ≤ x ∧ x < dest + count
      (SvcReady 0x23 w p s u → ¬ guarded → bytesIn u [1, 5] src (16 * count) = true →
        exec (.loadw .ok) s = .next { v with sq := { v.sq with
          underLoad := some (dest, count), proc := some { p with pc := p.pc + 1, block := some (.loadw src dest count) } } })
      ∧ (SvcReady 0x23 w p s u → guarded → ∃ t, exec (.loadw .ok) s = .next t
          ∧ t.sq.proc = none ∧ t.sq.svcFault = true ∧ t.sq.fault.toNat / 2 ^ 58 % 32 = 2 ^ 4 + 0x8 ∧ t.sq.underLoad = none))
    ∧ (∀ (s : State) (p : Proc) (src dest count : Nat), s.sq.proc = some p → p.block = some (.loadw src dest count) → p.last = false →
      dest + count ≤ 262144 → s.sq.storeFree = none → (∀ x ∈ s.sq.store, x.2 ≠ 0) →
      ∃ t, exec (.loadwComplete {}) s = .next t ∧ t.sq.underLoad = none ∧ t.sq.overlaid = true
        ∧ t.sq.proc = some { p with block := none }
        ∧ (∀ i, i < count → wordAt t (dest + i) = leNat (dramRead (inSlot .maint (16 * count) s) (src + 16 * i) 16))
        ∧ (∀ a, (a < dest ∨ dest + count ≤ a) → wordAt t a = wordAt s a)
        ∧ (∀ a ∈ t.sq.poison, a ∈ s.sq.poison ∧ ¬ (dest ≤ a ∧ a < dest + count)) ∧ Keeps [.sq] (inSlot .maint (16 * count) s) t)
    ∧ ∀ (s : State) (a : Nat), a < 262144 →
      (∃ t, exec (.sequenceStoreScrub a .corrected) s = .next t ∧ t.sq.eccCe = min 0xF (s.sq.eccCe + 1) ∧ t.sq.poison = s.sq.poison
        ∧ Keeps [.sq, .hi, .mg] s t)
      ∧ (∃ t, exec (.sequenceStoreScrub a .uncorrectable) s = .next t ∧ a ∈ t.sq.poison ∧ t.sq.store = s.sq.store ∧ Keeps [.sq, .hi, .mg] s t)
      ∧ exec (.sequenceStoreScrub a .ok) s = .next s)

/-- R231: a good image, one whose body does not match its CRC, and what the completion entry brings into force (R227; that this is when the
entry is written is R391 as log 36 reads it). -/
def Obligations.sequenceImageLoads : Prop :=
  (∀ (s : State) (tag : W16) (src : HostRead) (e : Exec), executing 0x0701 tag s = some e →
      payF e 8 1 = 0 → payZero e 9 39 = true →
      let a := payF e 0 8
      let h := dramRead s a 64
      let n := seqSize h
      let u := inSlot .maint n s
      let img := dramRead u a n
      rangeIn s [1, 5] a 64 = true → seqHdrOk h = true → seqRangeOk h = true → rangeIn s [1, 5] a n = true → faultIn s a n = false →
      (crc32c (img.drop 64) = BitVec.ofNat 32 (fieldAt h 24 4) →
        ∃ t, exec (.sqLoad tag src {}) s = .next t ∧ t.hi.cpls = s.hi.cpls ++ [cplOf e 0 []] ∧ t.sq.loaded = false
          ∧ t.sq.entry = fieldAt img 20 4 ∧ t.sq.profile.toNat = fieldAt img 28 1
          ∧ t.sq.conds.length = fieldAt img 29 1 ∧ t.sq.groups.length = fieldAt img 30 1 ∧ t.sq.poison = []
          ∧ (∀ i, i < fieldAt img 16 4 → wordAt t i = leNat (dramRead u (a + 64 + 16 * i) 16)) ∧ Keeps [.sq, .hi] u t)
      ∧ (crc32c (img.drop 64) ≠ BitVec.ofNat 32 (fieldAt h 24 4) →
        ∃ t, exec (.sqLoad tag src {}) s = .next t ∧ Answered e 0xA [] u t ∧ t.sq.loaded = false ∧ t.sq.words = 0
          ∧ Keeps [.sq, .hi, .freeCtr] u t))
    ∧ (∀ (r : State) (e : Exec) (more : List Cpl), r.hi.cpls = cplOf e 0 [] :: more → cplRoom r = true →
      r.hi.exec.find? (fun x => x.entry.tag == e.entry.tag) = some e →
      (e.entry.opcode = 0x0701 → ∃ t, exec .completionWrite r = .next t ∧ t.sq.loaded = true ∧ t.sq.words = fieldAt e.ind 16 4
          ∧ t.sq.imageId.toNat = fieldAt e.ind 8 8 ∧ t.sq.imgCrc.toNat = fieldAt e.ind 24 4 ∧ t.sq.store = r.sq.store)
      ∧ (e.entry.opcode = 0x0702 →
          ∃ t, exec .completionWrite r = .next t ∧ t.sq = { r.sq with svcContain := payF e 0 1 == 1 }))
    ∧ ∀ (s : State) (tag : W16) (e : Exec), executing 0x0702 tag s = some e → payF e 0 1 ≤ 1 → payZero e 1 47 = true →
      ∃ t, exec (.sqConfig tag) s = .next t ∧ Answered e 0 [] s t ∧ Keeps [.hi] s t

/-- R106, R107, R109, R119; the pins are those without a staged write in the tick's own cycle (R108). A tick that falls due
after the run has ended acts as well (R110 does not say; DESIGN CHOICE, log 33). R111, R119, R124. The steps of a slew limiter go on though `GLITCH` has gone to the deglitcher since (R121 does not say; DESIGN CHOICE,
log 33). -/
def Obligations.levelTicksAndTransitions : Prop :=
  ((∀ s : State, s.pf.timer ≠ 0 → running s = true → s.pf.ticks = [] →
      let per := 8192 * s.pf.timer.toNat
      let at_ := ceilTo per (ext s)
      let u := toEpoch at_ s
      exec .levelTimerExpiry s = .next { u with pf := { u.pf with ticks := u.pf.ticks ++ [at_ + 1638400] } })
    ∧ ∀ (s : State) (k : Nat), firstTick s.pf.ticks = some k →
      let u := toEpoch k s
      ∃ t, exec .levelTick s = .next t ∧ k ∉ t.pf.ticks ∧ Keeps [.pins, .pf, .sq, .hi, .mg] u t
        ∧ ∀ p : Pin, u.pins[p].stgAt ≠ cycleStart u →
          t.pins[p].ctl = u.pins[p].stg ∧ t.pins[p].stg = u.pins[p].stg
          ∧ (u.pins[p].stg.func ≠ u.pins[p].ctl.func → t.pins[p].enabled = false ∧ t.pins[p].en = false
              ∧ t.pins[p].enableAt = if pinParked u p then none else some (u.tb.now + 327680))
          ∧ (u.pins[p].stg.func = u.pins[p].ctl.func → t.pins[p].enabled = u.pins[p].enabled)
          ∧ ∀ d : DacIx, t.pins[p].dacs[d].req = u.pins[p].dacs[d].staged
            ∧ (u.pins[p].dacs[d].staged ≠ u.pins[p].dacs[d].req →
                t.pins[p].dacs[d].act = clampCode u.pf.vio[bankOf p] u.pins[p].dacs[d].staged d
                ∧ ((d.val = 0 ∨ d.val = 1 ∨ d.val = 4) → 0x1746 ≤ u.pf.vio[bankOf p].toNat →
                    0x1746 ≤ t.pins[p].dacs[d].act.toNat ∧ t.pins[p].dacs[d].act.toNat ≤ u.pf.vio[bankOf p].toNat)
                ∧ ((d.val = 2 ∨ d.val = 3 ∨ d.val = 5) → t.pins[p].dacs[d].act = u.pins[p].dacs[d].staged))
            ∧ (u.pins[p].dacs[d].staged = u.pins[p].dacs[d].req → t.pins[p].dacs[d] = u.pins[p].dacs[d]))
    ∧ (∀ (s : State) (p : Pin) (d : DacIx),
    (∀ k, s.pins[p].dacs[d].hold = some k →
      let u := toTime k s
      ∃ t, exec (.deglitchHoldEnd p d) s = .next t ∧ t.pins[p].dacs[d] = { u.pins[p].dacs[d] with out := u.pins[p].dacs[d].act, hold := none }
        ∧ (∀ j : DacIx, j ≠ d → t.pins[p].dacs[j] = u.pins[p].dacs[j]) ∧ (∀ r : Pin, r ≠ p → t.pins[r] = u.pins[r]) ∧ Keeps [.pins] u t)
    ∧ (∀ k, s.pins[p].dacs[d].slew = some k →
      let u := toTime k s
      let o := u.pins[p].dacs[d].out.toNat
      let a := u.pins[p].dacs[d].act.toNat
      let n := s.pins[p].ctl.slewStep.toNat
      ∃ t, exec (.slewStep p d) s = .next t
        ∧ t.pins[p].dacs[d].out.toNat = (if o ≤ a then min a (o + n) else max a (o - n))
        ∧ (t.pins[p].dacs[d].slew = none ↔ t.pins[p].dacs[d].out = u.pins[p].dacs[d].act)
        ∧ t.pins[p].dacs[d].act = u.pins[p].dacs[d].act ∧ (∀ r : Pin, r ≠ p → t.pins[r] = u.pins[r]) ∧ Keeps [.pins] u t)
    ∧ (∀ k, s.pins[p].enableAt = some k →
      let u := toTime k s
      exec (.functionEnable p) s = .next { u with pins := vset u.pins p { u.pins[p] with enabled := true, enableAt := none, enabledAt := k } })
    ∧ (s.pins[p].rangeFrom ≠ none →
      let u := toTime s.pins[p].rangeEnd s
      exec (.ppmuRangeOverlapEnd p) s = .next { u with pins := vset u.pins p { u.pins[p] with rangeFrom := none } }))

/-- R126's steps on one glove ADC for a mailbox request. -/
def Obligations.ppmuMeasures : Prop :=
  ∀ (s : State) (g : Glove),
    let others := fun (u t : State) => ∀ k : Glove, k ≠ g → t.pf.adcs[k] = u.pf.adcs[k]
    (∀ (r : MeasReq) (q : List MeasReq), s.pf.adcs[g].cur = none → s.pf.adcs[g].queue = r :: q → r.src ≠ none → forCheck s r = false →
      ∃ t, exec (.ppmuMeasStart g) s = .next t ∧ t.pf.adcs[g] = { queue := q, cur := some { req := r, muxEnd := s.tb.now + 8192000 } }
        ∧ others s t ∧ Keeps [.pf] s t)
    ∧ (∀ m : Meas, s.pf.adcs[g].cur = some m → m.phase = .mux →
      let u := toTime m.muxEnd s
      ∃ t, exec (.ppmuMuxConnected g) s = .next t ∧ t.pf.adcs[g] = { u.pf.adcs[g] with cur := some { m with phase := .settle } }
        ∧ others u t ∧ Keeps [.pf] u t)
    ∧ (∀ m : Meas, s.pf.adcs[g].cur = some m → m.phase = .settle →
      let u := toTime (max m.muxEnd s.pins[m.req.pin].ppmuTick + 8192000 * m.req.settle) s
      ∃ t, exec (.ppmuSettleExpiry g) s = .next t ∧ t.pf.adcs[g] = { u.pf.adcs[g] with cur := some { m with phase := .conv, muxEnd := u.tb.now } }
        ∧ others u t ∧ Keeps [.pf] u t)
    ∧ ∀ (m : Meas) (code : BitVec 18) (clamped : Bool), s.pf.adcs[g].cur = some m → m.phase = .conv →
      let u := toTime (m.muxEnd + 4096000 * (m.n + 1)) s
      (m.n + 1 < 2 ^ m.req.log2n →
        ∃ t, exec (.ppmuConversion g code clamped) s = .next t
          ∧ (t.pf.adcs[g].cur.map fun x => (x.n, x.sum, x.clamp)) = some (m.n + 1, m.sum + code.toInt, m.clamp || (clamped && forces u m.req.pin))
          ∧ t.pf.ppmuClamp = (u.pf.ppmuClamp || (clamped && forces u m.req.pin && !m.clamp)) ∧ others u t ∧ Keeps [.pf, .hi, .mg] u t)
      ∧ (2 ^ m.req.log2n ≤ m.n + 1 → ∃ t, exec (.ppmuConversion g code clamped) s = .next t ∧ t.pf.adcs[g].cur = none ∧ others u t
          ∧ (m.req.src ≠ none → t.pins = u.pins))

/-- R127, R128, R130: the park path by the land, in the three lengths of pulse; R114: the driver's two levels outside the park state. -/
def Obligations.parkLandParksModule : Prop :=
  (∀ s : State, s.pf.parkN = true →
      (∃ t, exec (.parkNFall .held) s = .next t ∧ Parked t ∧ t.pf.parkN = false ∧ (running s = true → t.mg.contained = true)
        ∧ (∀ p : Pin, driverOut t p = none ∧ forceOut t p = .off
            ∧ terminator t p = if t.pins[p].parkTerm = 1 then some (codeVolt t.pins[p].dacs[(4 : DacIx)].park) else none)
        ∧ t.pm.dram = s.pm.dram ∧ t.pt = s.pt ∧ t.bt = s.bt)
      ∧ exec (.parkNFall .glitch) s = .next s
      ∧ ∃ t, exec (.parkNFall .between) s = .next t ∧ t.pf.parkN = true ∧ t.freeCtr = s.freeCtr + 1
          ∧ (Parked t ∨ t = { s with freeCtr := s.freeCtr + 1 }))
    ∧ (∀ s : State, exec .parkNRise s = .next { s with pf := { s.pf with parkN := true } })
    ∧ ∀ (s : State) (p : Pin), acts s p = true → s.pins[p].ctl.func = 3 → s.pins[p].en = true →
      driverOut s p = some (limitTo 0 (s.pf.bankMv[bankOf p] * 65536) (levelVolt s p (if s.pins[p].dat then 0 else 1)))

/-- R130, R131, R137, R138. That `PF_UNPARK` below P1 answers `E_STATE` is log 33 (DEDUCED from R416). -/
def Obligations.frontEndCommands : Prop :=
  (∀ (s : State) (tag : W16) (e : Exec), executing 0x0401 tag s = some e → payZero e 20 28 = true →
      let vioGood := ∀ b : Bank, (payVio e b).toNat = 0 ∨ (0x8000 ≤ (payVio e b).toNat ∧ (payVio e b).toNat ≤ 0xE8BA)
      let timerGood := payF e 0 4 = 0 ∨ 8 ≤ payF e 0 4
      (vioGood → timerGood → ∃ t, exec (.pfConfig tag) s = .next t ∧ Replied e 0 [] s t ∧ t.pf.timer.toNat = payF e 0 4
          ∧ (∀ b : Bank, t.pf.vio[b] = payVio e b) ∧ Keeps [.pins, .pf, .sq, .hi, .mg] s t)
      ∧ (¬ (vioGood ∧ timerGood) → ∃ t, exec (.pfConfig tag) s = .next t ∧ Answered e 2 [] s t ∧ Keeps [.hi] s t))
    ∧ (∀ (s : State) (tag : W16) (e : Exec), executing 0x0402 tag s = some e →
      let good := s.pf.parkN = true ∧ s.mg.contained = false ∧ s.mg.pstate ≤ 1 ∧ e.parkActs = s.pf.parkActs
      (good → s.pf.parked = true → ∃ t, exec (.pfUnpark tag) s = .next t ∧ Replied e 0 [] s t ∧ t.pf.parked = false
          ∧ (∀ p : Pin, bankInRange s.pf.bankMv[bankOf p] = true → t.pins[p].enableAt = some (s.tb.now + 327680) ∧ t.pins[p].en = false)
          ∧ (∀ p : Pin, bankInRange s.pf.bankMv[bankOf p] = false → t.pins[p] = s.pins[p])
          ∧ (∀ c : Chan, t.mx.ch[c].code = s.mx.ch[c].code ∧ t.mx.ch[c].state ≠ .parked) ∧ Keeps [.pins, .pf, .mx, .hi, .mg] s t)
      ∧ (¬ good → ∃ t, exec (.pfUnpark tag) s = .next t ∧ Answered e 6 [] s t ∧ Keeps [.hi] s t))
    ∧ ∀ (s : State) (tag : W16) (e : Exec), executing 0x0403 tag s = some e → e.left = [] → measPins e ≠ [] →
      payF e 66 1 ≤ 12 → payZero e 67 5 = true → payF e 72 8 % 8 = 0 → (∀ p ∈ measPins e, s.pins[p].ctl.func = 4) →
      ∃ t, exec (.pfPpmuMeas tag) s = .next t ∧ t.hi.cpls = s.hi.cpls ∧ Keeps [.pf, .hi] s t
        ∧ (executing 0x0403 tag t).map (fun x => x.left) = some (measPins e)
        ∧ ∀ g : Glove, t.pf.adcs[g].queue.length = s.pf.adcs[g].queue.length + ((measPins e).filter fun p => gloveOf p = g).length

/-- R145, R147, R154 to R156; `u` is the state once the BAR2 writes received before are applied (R378) and the slot has come (R168); a
byte that a write changed while the command executes is the old or the new one, as `ptImage` chooses (R154).
The shadow is written in slots too, at `v` (R147, log 48); with DRAM unpowered it is lost (log 34). Frames that a changed selection closes
may go to the staging region (R289). R151, R153 on a table in device DRAM, and R149; `roomHeld` is `PT_STAT.BOUND` (R147). -/
def Obligations.pinTableBoundAndRefreshed : Prop :=
  (∀ (s : State) (tag : W16) (src : HostRead) (e : Exec), executing 0x0501 tag s = some e →
    payF e 8 1 = 0 → payZero e 9 39 = true →
    let a := payF e 0 8
    let u := inSlot .maint tableSize (bar2Drain s)
    let new := ptImage tag u false src a (0, tableSize)
    let read : PT := { u.pt with mixed := u.pt.mixed.filter fun x => x.1 != tag }
    let v := inSlot .maint tableSize (ptReadEnd tag u)
    (ptTurn tag s = false → ∀ dr, exec (.ptBind tag src dr) s = .next s)
    ∧ (ptTurn tag s = true → a % 4096 ≠ 0 →
      ∀ dr, ∃ t, exec (.ptBind tag src dr) s = .next t ∧ Answered e 2 [] s t ∧ Keeps [.pt, .hi] s t
        ∧ t.pt = { s.pt with mixed := s.pt.mixed.filter fun x => x.1 != tag })
    ∧ (ptTurn tag s = true → a % 4096 = 0 → badPlace s a = false →
      (firstFault u a tableSize ≠ none →
        ∃ t, exec (.ptBind tag src {}) s = .next t ∧ Replied e 9 [] u t ∧ t.pt = read ∧ t.pins = u.pins)
      ∧ (∀ at_, ∃ t, exec (.ptBind tag src { ecc := .uncorrectable, at_ := at_ }) s = .next t ∧ t.pt = read ∧ t.pins = u.pins
        ∧ t.hi.cpls = u.hi.cpls ++ [cplOf e 9 []])
      ∧ (firstFault u a tableSize = none → imgAt new 0 2 = 1 → badLevels new (List.finRange 512) = false →
          Memory.wf 0 u.pm.dram = true →
          ∃ t, exec (.ptBind tag src {}) s = .next t ∧ Replied e 0 [] u t ∧ t.pt.bound = true ∧ t.pt.base.toNat = a
            ∧ t.pt.stale = false ∧ t.pt.hostMem = false
            ∧ ((∀ x ∈ u.pt.mixed, x.1 ≠ tag) → ∀ o, o < 2113536 → memGet 0 t.pt.room o = dramByte u.pm (a + o)) ∧ t.pt.room = new
            ∧ t.pt.shadow = new ∧ t.pt.shadowOk = dramOn s ∧ t.pt.crc = crc32c (memRead 0 new 0 2113536)
            ∧ (∀ (p : Pin) (d : DacIx), t.pins[p].dacs[d].park = imgPark new p d.val) 
            ∧ { t.pm with dram := v.pm.dram, dramKnown := v.pm.dramKnown, slotAt := v.pm.slotAt, slotUsed := v.pm.slotUsed } = v.pm)))
    ∧ ((∀ (s : State) (tag : W16) (src : HostRead) (e : Exec), executing 0x0502 tag s = some e → ptTurn tag s = true →
      payF e 0 1 = 4 → payF e 1 1 = 0 → payF e 2 2 = 0 → payZero e 4 44 = true →
      let u := inSlot .maint tableSize (bar2Drain s)
      let a := s.pt.base.toNat
      let new := ptImage tag u false src a (0, tableSize)
      (roomHeld s = false → ∀ dr, ∃ t, exec (.ptRefresh tag src dr) s = .next t ∧ Answered e 6 [] s t ∧ Keeps [.pt, .hi] s t
        ∧ t.pt = { s.pt with mixed := s.pt.mixed.filter fun x => x.1 != tag })
      ∧ (roomHeld s = true → s.pt.hostMem = false → firstFault u a tableSize = none → e.idle = false →
        (firstFixed u.pt.room new ≠ none →
          ∃ t, exec (.ptRefresh tag src {}) s = .next t ∧ Replied e 5 [] u t ∧ t.pt = { u.pt with mixed := u.pt.mixed.filter fun x => x.1 != tag } ∧ t.pins = u.pins)
        ∧ (firstFixed u.pt.room new = none →
          ∃ t, exec (.ptRefresh tag src {}) s = .next t ∧ Replied e 0 [] u t ∧ t.pt.room = new ∧ t.pt.shadow = new
            ∧ t.pt.bound = true ∧ t.pt.base = s.pt.base)))
    ∧ ∀ (s : State) (off : Nat),
      (∃ t, exec (.storeRoomScrub off .corrected) s = .next t ∧ t.pt = { s.pt with eccCe := min 0xFFFF (s.pt.eccCe + 1) }
        ∧ Keeps [.pt, .sq, .hi, .mg] s t)
      ∧ ∃ t, exec (.storeRoomScrub off .uncorrectable) s = .next t ∧ t.pt = { s.pt with stale := true, staleAt := s.pt.staleAt ++ [off % 2113536] }
        ∧ (running s = true → t.mg.contained = true) ∧ (running s = false → Keeps [.pt, .hi, .mg] s t))

/-- R165, R169, R191; R167 and R168 for the slots, `t` being the state once the last slot that a transfer takes has come (the order of
its slots is log 48). R194, R189, R395; `u` is the state once the reads' slot has come (R168). -/
def Obligations.memoryCommands : Prop :=
  ((∀ b : Bool, slotShare b .pattern = (if b then 32 else 40) ∧ slotShare b .cellar = 8
      ∧ slotShare b .stream = (if b then 16 else 8) ∧ slotShare b .host = 6 ∧ slotShare b .maint = 2
      ∧ ∀ c : SlotClass, frameSupply b c = 57600 * slotShare b c)
    ∧ (∀ (s : State) (c : SlotClass) (n : Nat), s.tb.fabSrc = .edge →
      let t := inSlot c n s
      slotClass s.pm.profileB t.pm.slotAt[classIx c] = c ∧ t.pm.slotUsed[classIx c] ≤ 64000
        ∧ (s.tb.wraps.toNat < 0xFFFF → t.pm.slotAt[classIx c] * 131072 ≤ ext t ∧ ext s ≤ ext t))
    ∧ ∀ (s : State) (tag : W16) (e : Exec),
    (executing 0x0601 tag s = some e → s.pm.newCfg = none → payF e 0 1 ≤ 1 → payF e 1 1 ≤ 1 → payZero e 2 46 = true →
      exec (.pmConfig tag) s = .next { s with pm := { s.pm with newCfg := some (e.entry.tag, payF e 0 1 == 1, payF e 1 1 == 1) } })
    ∧ (∀ b act, s.pm.newCfg = some (tag, b, act) → executing 0x0601 tag (toFrame s) = some e →
      let u := toFrame s
      ∃ t, exec .pmConfigFrameApply s = .next t ∧ t.pm = { u.pm with profileB := b, starveAct := act, newCfg := none }
        ∧ Answered e 0 [] u t ∧ Keeps [.pm, .hi] u t)
    ∧ (executing 0x0602 tag s = some e →
      (∀ i, i < 16 → regionInval e i = false) →
      (mapRange s ((List.range 16).map (payRegion e)) = false →
        ∃ t, exec (.pmRegion tag) s = .next t ∧ Answered e 0 [] s t ∧ (∀ i : Fin 16, t.pm.regions[i] = payRegion e i.val)
          ∧ { t.pm with regions := s.pm.regions } = s.pm ∧ Keeps [.pm, .hi] s t)
      ∧ (mapRange s ((List.range 16).map (payRegion e)) = true →
        ∃ t, exec (.pmRegion tag) s = .next t ∧ Answered e 3 [] s t ∧ Keeps [.hi] s t))
    ∧ (executing 0x0603 tag s = some e → payZero e 0 48 = true →
      ∃ t, exec (.pmWfclr tag) s = .next t ∧ Answered e 0 [] s t ∧ Keeps [.pm, .hi] s t
        ∧ t.pm = { s.pm with wfault := 0, wfaultAddr := 0, regfault := 0, wranges := [] }))
    ∧ ((∀ (s : State) (tag : W16) (src : HostRead) (e : Exec), executing 0x0604 tag s = some e → payZero e 8 40 = true →
      let a := payF e 0 8
      let types := [1, 2, 3, 4, 5, 6]
      let h := dramRead s a 64
      regionTyp s a ≠ 6 →
      (rangeIn s types a 64 = false → ∀ dr, ∃ t, exec (.pmVerify tag src dr) s = .next t ∧ Answered e 3 [] s t ∧ Keeps [.hi] s t)
      ∧ (rangeIn s types a 64 = true → ∀ at_, ∃ t, exec (.pmVerify tag src { ecc := .uncorrectable, at_ := at_ }) s = .next t
          ∧ t.hi.cpls = s.hi.cpls ++ [cplOf e 9 []] ∧ Keeps [.pm, .hi, .mg] s t)
      ∧ (rangeIn s types a 64 = true → imgHdrOk h = false →
          ∃ t, exec (.pmVerify tag src {}) s = .next t ∧ Answered e 2 [] s t ∧ Keeps [.hi] s t)
      ∧ (rangeIn s types a 64 = true → imgHdrOk h = true → rangeIn s types a (64 + fieldAt h 24 8) = true →
          let u := inSlot .maint (64 + fieldAt h 24 8) s
          let body := dramRead u (a + 64) (fieldAt h 24 8)
          ∃ t data, exec (.pmVerify tag src {}) s = .next t ∧ Answered e 0 data u t ∧ Keeps [.hi] u t
            ∧ fieldAt data 4 4 = (crc32c body).toNat ∧ slice data 8 8 = slice h 8 8
            ∧ (fieldAt data 0 1 = 0 ↔ (crc32c body).toNat = fieldAt h 32 4)))
    ∧ ∀ (s : State) (addr : Nat),
      let u := inSlot .maint 32 s
      exec (.dramScrub addr .ok) s = .next u
      ∧ (∃ t, exec (.dramScrub addr .corrected) s = .next t ∧ t.pm = { u.pm with eccCe := min 0xFFFF (u.pm.eccCe + 1) }
          ∧ Keeps [.pm, .sq, .hi, .mg] u t)
      ∧ ∃ t, exec (.dramScrub addr .uncorrectable) s = .next t
          ∧ t.pm = { u.pm with eccUe := min 0xFFFF (u.pm.eccUe + 1), ueFlag := true, fresh := freshen u 0x20 u.pm.fresh } ∧ Keeps [.pm, .hi, .mg] u t)

/-- R179, R185, R186, R189; `fetchDue` is that the fetcher has requested the item (R170, R179, R180). R161, R162, R190, R371, R378; `r` below is the queue behind the write, and `u` the state once the slot has come (R24, R168). -/
def Obligations.atticAndBar2 : Prop :=
  (∀ (s : State) (p : Pin) (a : Nat) (spare : Bool),
    let i : FetchItem := .lane p (a / 64 * 64)
    let b := a / 64 * 64
    let u := inSlot .pattern 64 s
    (fetchDue false spare i s = true → regionTyp s b = 2 →
      (exec (.atticFetchComplete (.lane p a) spare {}) s = .next { u with pm := { u.pm with
        shelf := u.pm.shelf ++ [{ item := i, bytes := dramRead s b 64, spare := spare, ue := false, host := false }] } })
      ∧ ∀ at_, ∃ t, exec (.atticFetchComplete (.lane p a) spare { ecc := .uncorrectable, at_ := at_ }) s = .next t
        ∧ t.pm.ueFlag = true ∧ t.pm.shelf = u.pm.shelf ++ [{
            item := i, bytes := dramRead s b 64, spare := spare, ue := true, host := false, bad := b + at_ }]
        ∧ Keeps [.pm] u t)
    ∧ (fetchDue false spare i s = false → ∀ dr, exec (.atticFetchComplete (.lane p a) spare dr) s = .next s)
    ∧ (∀ src : HostRead, fetchDue true spare i s = true →
      (src.fail = none → exec (.hostsrcReadComplete (.lane p a) spare src) s = .next { s with pm := { s.pm with
        shelf := s.pm.shelf ++ [{ item := i, bytes := hostBytes src (hostAddr s b) 64, spare := spare, ue := false, host := true }] } })
      ∧ (src.fail ≠ none → ∃ t, exec (.hostsrcReadComplete (.lane p a) spare src) s = .next t ∧ t.mg.contained = true ∧ t.pm.shelf = s.pm.shelf)))
    ∧ ((∀ (s : State) (addr : Nat) (l : List Byte) (poisoned : Bool),
      (addr < 2 ^ 37 → l ≠ [] → exec (.bar2Write addr l poisoned) s = .next { s with pm := { s.pm with
        bar2 := s.pm.bar2 ++ [{ addr := addr, bytes := l.take (2 ^ 37 - addr), poisoned := poisoned }] } })
      ∧ (2 ^ 37 ≤ addr ∨ l = [] → exec (.bar2Write addr l poisoned) s = .next s))
    ∧ (∀ (s : State) (w : Bar2Req) (r : List Bar2Req), s.pm.bar2 = w :: r → dramOn s = true →
      let u := inSlot .host w.bytes.length { s with pm := { s.pm with bar2 := r } }
      Memory.wf 0 u.pm.dram = true →
      (w.poisoned = false → bar2Outside s w.addr w.bytes.length = false →
        ∃ t, exec (.bar2WriteApply .ok) s = .next t ∧ t.pm.bar2 = r ∧ dramRead t w.addr w.bytes.length = w.bytes
          ∧ DramSameOutside w.addr w.bytes.length u t ∧ t.pm.wfault = u.pm.wfault ∧ Keeps [.pm, .pt] u t
          ∧ { t.pt with mixed := s.pt.mixed } = s.pt)
      ∧ ((w.poisoned = true ∨ bar2Outside s w.addr w.bytes.length = true) →
        ∃ t, exec (.bar2WriteApply .ok) s = .next t ∧ t.pm.bar2 = r ∧ t.pm.dram = u.pm.dram
          ∧ t.pm.wfault = min 0xFFFFFFFF (u.pm.wfault + 1) ∧ (w.addr, w.bytes.length) ∈ t.pm.wranges ∧ Keeps [.pm, .hi, .mg] u t))
    ∧ ∀ (s : State) (addr len : Nat),
      let n := min len (2 ^ 37 - addr)
      let u := inSlot .host n (bar2Drain s)
      ∃ t, exec (.bar2Read addr len {}) s = .next t ∧ t.hi.rpoison = false ∧ t.hi.rdata.length = n
        ∧ (∀ i, i < n → t.hi.rdata[i]? = some (if 0x1FFC000000 ≤ addr + i then 0 else dramByte u.pm (addr + i))) ∧ Keeps [.hi] u t)

/-- R272 to R274; `u` is the state at the crossing, and `flushAll` gives the waiting changes on, as `pass` does when their step is over.
The stamp's value is stated for a standalone device. R276, R278, R280, R36; the span and the sample on a standalone device. -/
def Obligations.crossingsTriggersSamples : Prop :=
  ((∀ (s : State) (p : Pin) (th : Threshold) (rise : Bool) (at_ : Nat),
    let k := xkOf th rise
    s.tb.fabSrc = .edge → s.cs.pendX.find? (sameStep p k at_) = none →
    let u := toEpoch at_ s
    (xkMoves k u.pins[p] = true → ∃ t, exec (.comparatorCrossing p th at_ rise none) s = .next t
        ∧ t.pins[p].lo = (match k with | .cloFall => true | .cloRise => false | _ => u.pins[p].lo)
        ∧ t.pins[p].hi = (match k with | .chiRise => true | .chiFall => false | _ => u.pins[p].hi)
        ∧ (∀ r : Pin, r ≠ p → t.pins[r] = u.pins[r])
        ∧ (u.tb.guardOpen[quadOf p] = false → t.cs = u.cs ∧ t.ti = u.ti)
        ∧ (stampsOn u p = true → u.cs.pendX.find? (sameStep p k at_) = none →
            t.cs = { u.cs with pendX := u.cs.pendX ++ [{ pin := p, kind := k, at_ := at_, seen := u.tb.now }] }))
    ∧ (xkMoves k u.pins[p] = false → exec (.comparatorCrossing p th at_ rise none) s = .next u))
    ∧ (∀ (s : State) (p : Pin) (th : Threshold) (rise : Bool) (at_ : Nat) (x : PendX),
      let k := xkOf th rise
      s.cs.pendX.find? (sameStep p k at_) = some x →
      xkMoves k s.pins[p] = true → stampsOn s p = true →
      ∃ t, exec (.comparatorCrossing p th at_ rise none) s = .next t ∧ t.cs = { s.cs with pendX := s.cs.pendX.erase x })
    ∧ ∀ (s : State) (x : PendX), s.cs.pendX = [x] → memberShift s = 0 → capMode s x.pin = 2 → s.pins[x.pin].qLevel < 64 →
      captures s (64 * ((x.at_ + 32) / 64)) = true →
      (flushAll s).cs.pendX = []
      ∧ (flushAll s).cs.data = s.cs.data ++ [{
          pin := x.pin, era := s.cs.era, key := 64 * ((x.at_ + 32) / 64), raw := false, val := xkCode x.kind }])
    ∧ ((∀ (s : State) (p : Pin) (k : Int), longDue s p true = some k → longDue s p false = none → toutDue s p = none →
      stampsOn s p = true → memberShift s = 0 → (s.cs.pendX.any fun x => x.pin == p) = false →
      let u := toEpoch k.toNat s
      u.pins = s.pins → u.pt = s.pt → u.en = s.en →
      ∃ (t : State) (h : Hit), exec (.triggerSpanTimeout p) s = .next t ∧ t.cs.hits = u.cs.hits ++ [h] ∧ h.pin = p ∧ h.cls = .width
        ∧ h.side = true ∧ h.key = k.toNat ∧ t.pins[p].cls.longHi = true ∧ ∀ r : Pin, r ≠ p → t.pins[r] = u.pins[r])
    ∧ (∀ (s : State) (h : Hit), firstHit s.cs.hits = some h →
      let u := toEpoch (hitFrom s h) s
      h ∈ u.cs.hits → exec .triggerHitDelivery s = .next { u with cs := { u.cs with
        hits := u.cs.hits.erase h, seen := if running u then u.cs.seen ++ [{ h with at_ := ext u }] else u.cs.seen } })
    ∧ (∀ (s : State) (n : Nat), s.tb.fabSrc = .edge → n ≠ 0 → ∀ h ∈ (pass n s).cs.hits, ext (pass n s) < hitBy (pass n s) h)
    ∧ ∀ (s : State) (p : Pin) (land : Nat), firstRaw p s.cs.raws = some (p, land) → memberShift s = 0 →
      let u := toEpoch land s
      ∃ t, exec (.rawSample p) s = .next t ∧ t.cs.raws = u.cs.raws.erase (p, land) ∧ Keeps [.cs] u t
        ∧ t.cs.data = (if captures u (land / 64 * 64) && u.tb.guardOpen[quadOf p] then u.cs.data ++ [{
            pin := p, era := u.cs.era, key := land / 64 * 64, raw := true
            val := (if u.pins[p].hi then 2 else 0) + (if u.pins[p].lo then 1 else 0) }] else u.cs.data))

/-- R282 and R284 on a standalone device. R285, R286, R289, R292; the message of R288 is not due and `PROD_WB` is off; `u` is the state once the slot has come (R24, R168). -/
def Obligations.framesReachTheHost : Prop :=
  ((∀ (s : State) (ps : Fin 16) (d : Datum), s.cs.lostMarks = [] → s.cs.data = [d] → s.cs.marks = [] → s.cs.begin_ = [] → d.era = s.cs.era → psetOf s d.pin = ps → d.raw = false → d.val < 4 →
      memberShift s = 0 →
      let u := toEpoch (d.key + 262144) s
      (sourceBehind ps d.key u = true → exec (.unitPlace ps) s = .next u)
      ∧ (sourceBehind ps d.key u = false →
        u.cs.data = [d] → u.cs.marks = [] → u.cs.lostMarks = [] → u.cs.frames[ps] = none → u.cs.begin_ = [] → u.cs.gaps = [] → psetOf u d.pin = ps →
      ∃ (t : State) (f : Frame), exec (.unitPlace ps) s = .next t ∧ t.cs.frames[ps] = some f ∧ t.cs.data = []
        ∧ f.first = d.key ∧ f.pset = ps ∧ f.units = [(BitVec.ofNat 64 (2 ^ 60 + d.pin.val * 2 ^ 51 + d.val * 2 ^ 48), 0)] ∧ f.marks = 0
        ∧ (∀ r : Fin 16, r ≠ ps → t.cs.frames[r] = u.cs.frames[r]) ∧ Keeps [.cs] u t))
    ∧ ∀ (s : State) (ps : Fin 16) (f : Frame), s.cs.frames[ps] = some f → memberShift s = 0 →
      let u := toEpoch (f.first + 8192000 * s.cs.flush) s
      u.cs.frames[ps] = some f →
      (u.cs.front.length < 1024 → u.cs.dropRun = none → exec (.frameFlushExpiry ps) s = .next { u with cs := { u.cs with
          frames := vset u.cs.frames ps none, fseq := u.cs.fseq + 1
          front := u.cs.front ++ [{ f with fseq := u.cs.fseq, flags := f.flags ||| 1 }] } })
      ∧ (mustDrop u = true → f.kept = [] → ∃ t, exec (.frameFlushExpiry ps) s = .next t ∧ t.cs.frames[ps] = none
          ∧ t.cs.fseq = u.cs.fseq + 1 ∧ t.cs.front = u.cs.front ∧ t.cs.dropped = true
          ∧ t.cs.dropFrames = min 0xFFFFFFFF (u.cs.dropFrames + 1) ∧ Keeps [.cs] u t))
    ∧ (∀ (s : State) (f : Frame) (r : List Frame), s.cs.prodWb = 0 → s.cs.irqFrames = 0 → Memory.wf 0 s.hostMem = true →
    f.units.length ≤ 252 →
    let bytes := frameBytes s.cs.openSeq f
    let place := s.cs.ringBase + s.cs.prod % 2 ^ 48
    let u := inSlot .stream 4096 s
    let sent := fun t : State => memRead 0 t.hostMem place 4096 = bytes ∧ HostSameOutside place 4096 s t
      ∧ t.cs.prod = ringNext s.cs.log2 s.cs.prod ∧ t.cs.sent = (s.cs.sent + 1) % 2 ^ 64 ∧ t.cs.lastSent = f.fseq
    bytes.length = 4096
    ∧ (s.cs.front = f :: r →
      (s.cs.staged = [] → 4096 ≤ ringFree s → ∃ t, exec .frameSend s = .next t ∧ sent t ∧ t.cs.front = r ∧ Keeps [.cs, .hostMem] s t)
      ∧ ((s.cs.staged ≠ [] ∨ ringFree s < 4096) → exec .frameSend s = .next s)
      ∧ ((s.cs.staged ≠ [] ∨ ringFree s < 4096) → s.cs.staged.length < stagingCap s → u.cs = s.cs →
          Memory.wf 0 u.pm.dram = true → dramOn s = true →
          ∃ t, exec .stagingWrite s = .next t ∧ t.cs.front = r ∧ t.cs.staged = s.cs.staged ++ [f] ∧ t.cs.stagedAt = s.cs.stagedAt + 1
            ∧ dramRead t (stageAddr s s.cs.stagedAt) 4096 = bytes ∧ DramSameOutside (stageAddr s s.cs.stagedAt) 4096 u t
            ∧ Keeps [.cs, .pm, .hi, .mg] u t))
    ∧ (s.cs.staged = f :: r → 4096 ≤ ringFree s → u.cs = s.cs →
      (∃ t, exec (.stagingReadComplete {}) s = .next t ∧ sent t ∧ t.cs.staged = r ∧ Keeps [.cs, .hostMem, .hi, .mg] u t)
      ∧ ∀ at_, ∃ t, exec (.stagingReadComplete { ecc := .uncorrectable, at_ := at_ }) s = .next t ∧ t.cs.staged = r ∧ t.hostMem = s.hostMem ∧ t.cs.stageUe = true
          ∧ t.cs.dropFrames = min 0xFFFFFFFF (s.cs.dropFrames + 1) ∧ t.cs.prod = s.cs.prod))

/-- R287, R288, R295, R296. The place of the last FSEQ in the completion of `CS_CLOSE` is log 37 (DESIGN CHOICE), and so is that the stream
is open from the completion entry of `CS_OPEN` on (DEDUCED from R295 and R391). -/
def Obligations.streamRegistersAndCommands : Prop :=
  (∀ (s : State) (tag : W16) (e : Exec), executing 0x0A01 tag s = some e →
      payF e 0 8 % 4096 = 0 → 20 ≤ payF e 8 1 → payF e 8 1 ≤ 48 → 1 ≤ payF e 9 3 → payF e 9 3 ≤ 1000000 → payF e 12 2 ≤ 256 →
      payF e 14 1 ≤ 63 → payF e 15 1 = 0 → payF e 16 8 % 8 = 0 → payZero e 24 24 = true →
      (s.cs.open_ = true → ∃ t, exec (.csOpen tag) s = .next t ∧ Answered e 6 [] s t ∧ Keeps [.hi] s t)
      ∧ (s.cs.open_ = false → ∃ t, exec (.csOpen tag) s = .next t ∧ Replied e 0 [] s t ∧ t.cs.open_ = true ∧ t.cs.prod = 0 ∧ t.cs.cons = 0
          ∧ t.cs.sent = 0 ∧ t.cs.fseq = 0 ∧ t.cs.openSeq = (s.cs.openSeq + 1) % 2 ^ 32 ∧ t.cs.ringBase = payF e 0 8
          ∧ t.cs.log2 = payF e 8 1 ∧ t.cs.flush = payF e 9 3 ∧ t.cs.irqFrames = payF e 12 2 ∧ t.cs.irqVec = payF e 14 1
          ∧ t.cs.prodWb = payF e 16 8 ∧ t.cs.front = [] ∧ t.cs.data = [] ∧ t.cs.openAt = none
          ∧ Keeps [.pins, .cs, .mx, .hi, .mg] s t))
    ∧ (∀ (r : State) (e : Exec) (more : List Cpl), r.hi.cpls = cplOf e 0 [] :: more → cplRoom r = true → e.entry.opcode = 0x0A01 →
      r.hi.exec.find? (fun x => x.entry.tag == e.entry.tag) = some e → r.cs.open_ = true →
      ∃ t, exec .completionWrite r = .next t ∧ t.cs = { r.cs with openAt := some (repTime r (ext r)).toNat })
    ∧ (∀ (s : State) (tag : W16) (e : Exec), executing 0x0A02 tag s = some e → payZero e 0 48 = true →
      (s.cs.open_ = true → ∃ t data, exec (.csClose { tag := tag }) s = .next t ∧ t.hi.cpls = s.hi.cpls ++ [cplOf e 0 data]
          ∧ fieldAt data 0 8 = t.cs.lastSent % 2 ^ 64 ∧ t.cs.open_ = false ∧ t.cs.front = [] ∧ t.cs.staged = [] ∧ t.cs.data = []
          ∧ Keeps (.pm :: .hostMem :: passParts) s t)
      ∧ (s.cs.open_ = false → ∃ t, exec (.csClose { tag := tag }) s = .next t ∧ Answered e 6 [] s t ∧ Keeps [.hi] s t))
    ∧ (∀ (s : State) (v : W64), written 0x0528 8 0 (· == v.toNat) s = true → s.cs.open_ = true →
      let u := popWrite 0x0528 8 s
      (consOk u v.toNat = true → exec (.csConsWrite v) s = .next { u with cs := { u.cs with cons := v.toNat % 2 ^ 49 } })
      ∧ (consOk u v.toNat = false → ∃ t, exec (.csConsWrite v) s = .next t ∧ t.cs = { u.cs with consErr := true, fresh := freshen u 0x800 u.cs.fresh } ∧ Keeps [.cs, .hi, .mg] u t))
    ∧ ∀ s : State, s.cs.irqFrames ≠ 0 → s.cs.unsig ≠ 0 →
      let u := toTime (s.cs.unsigAt + 8192000 * s.cs.flush) s
      ∃ t, exec .streamIrqTimer s = .next t ∧ t.cs = { u.cs with unsig := 0 } ∧ Keeps [.cs, .hi] u t
        ∧ (u.hi.msixMask.getLsbD u.cs.irqVec = false → t.hi.sent = u.hi.sent ++ [u.cs.irqVec])
        ∧ (u.hi.msixMask.getLsbD u.cs.irqVec = true → t.hi.sent = u.hi.sent ∧ t.hi.pba = u.hi.pba ||| (1#64 <<< u.cs.irqVec))

/-- R321, R322, R334, R336; `w` is the state at the update's instant, `c` the channel in it. That the first update after the start in sine
mode finds the accumulator at 0 is log 27 (DEDUCED). -/
def Obligations.marginUpdateStaysInClamp : Prop :=
  ∀ s : State, (mxSync s).tb.fabSrc = .edge →
    let u := mxSync s
    let w := toEpoch (32768 * u.mx.nextK) u
    ∃ t, exec (.mxUpdate none) s = .next t ∧ t.mx.nextK = u.mx.nextK + 1 ∧ t.mx.segs = s.mx.segs ∧ t.mx.larder = s.mx.larder
      ∧ t.pm = w.pm ∧ t.sq = s.sq
      ∧ ∀ i : Chan,
        let c := w.mx.ch[i]
        let acc := if c.fresh then 0 else c.acc + c.ftw
        let v := sineCode { c with acc := acc, fresh := false }
        let inClamp := c.clampLo.toNat ≤ t.mx.ch[i].code.toNat ∧ t.mx.ch[i].code.toNat ≤ c.clampHi.toNat
        (∀ toPark, c.inbox = [] → c.stopReq = some toPark → c.state ≠ .parked → t.mx.ch[i].state = .stopped ∧ t.mx.ch[i].stopReq = none
          ∧ t.mx.ch[i].en = c.en ∧ t.mx.ch[i].code = if toPark then c.park else c.code)
        ∧ (c.inbox = [] → c.stopReq = none → c.imm = none → c.clampLo.toNat ≤ c.clampHi.toNat →
        ((c.state = .stopped ∨ c.state = .parked ∨ c.state = .holding) → t.mx.ch[i] = c)
        ∧ (c.state = .sine → t.mx.ch[i].acc = acc ∧ t.mx.ch[i].state = .sine ∧ inClamp
            ∧ ((c.clampLo.toNat : Int) ≤ v → v ≤ (c.clampHi.toNat : Int) → (t.mx.ch[i].code.toNat : Int) = v))
        ∧ (c.state = .playing → inClamp))

/-- R331, R327, R335, R333. That a parked channel takes no jump is log 38 (DEDUCED), and so is the request's cycle within a hit's window. -/
def Obligations.marginRequestsAndReads : Prop :=
  (∀ (s : State) (i : Chan) (evt : Bool) (due : Int), s.mx.reqs = [(i, evt, due)] →
      let u := toEpoch due.toNat s
      let v : State := mxSync { u with mx := { u.mx with reqs := [] } }
      let c := v.mx.ch[i]
      let seg := fld c.trig.toNat 9 0
      u.mx.reqs = [(i, evt, due)] → c.inbox = [] →
      (segValid (segAt v seg) = true → c.en = false → c.state ≠ .parked →
        ∃ t, exec (.mxJumpRequest i (if evt then .evtIn else .trigger)) s = .next t ∧ t.mx.reqs = []
          ∧ t.mx.ch[i] = { c with inbox := [((if evt then due else min (ext u : Int) (due + 65536)) / 8192 * 8192, if evt then 2 else 1, seg, c.trig.toNat.testBit 14)] }
          ∧ (∀ j : Chan, j ≠ i → t.mx.ch[j] = u.mx.ch[j]) ∧ Keeps [.mx] u t)
      ∧ (segValid (segAt v seg) = true → c.en = false → c.state = .parked →
        exec (.mxJumpRequest i (if evt then .evtIn else .trigger)) s = .next v)
      ∧ ((segValid (segAt v seg) = false ∨ c.en = true) →
        ∃ t, exec (.mxJumpRequest i (if evt then .evtIn else .trigger)) s = .next t ∧ t.mx.jumpIgn = true ∧ t.mx.ch = u.mx.ch
          ∧ Keeps [.mx, .hi, .mg] u t))
    ∧ (∀ (s : State) (i : Chan) (a : Nat), a % 64 = 0 →
      let u := inSlot .maint 64 s
      (needsGranule s s.mx.ch[i] a = false → ∀ ecc, exec (.mxSegmentRead i a ecc) s = .next s)
      ∧ (needsGranule s s.mx.ch[i] a = true →
        (granuleFaulted u a = false → ∃ t, exec (.mxSegmentRead i a .ok) s = .next t
          ∧ t.mx.ch[i].buf.head? = some (a, dramRead u a 64) ∧ t.mx.ch[i].code = u.mx.ch[i].code
          ∧ (∀ j : Chan, j ≠ i → t.mx.ch[j] = u.mx.ch[j]) ∧ Keeps [.mx] u t)
        ∧ ∀ ecc, (ecc = .uncorrectable ∨ granuleFaulted u a = true) →
          ∃ t, exec (.mxSegmentRead i a ecc) s = .next t ∧ t.mx.fetchErr = true ∧ t.mx.ch[i].state = .stopped
          ∧ t.mx.ch[i].code = u.mx.ch[i].park ∧ (∀ j : Chan, j ≠ i → t.mx.ch[j] = u.mx.ch[j])))
    ∧ ∀ (s : State) (i : Chan) (ampl : Nat), ampl < 2 ^ 18 →
      let off := 0x1000 + 64 * i.val + 0x18
      let b := (leBytes 4 ampl).map some
      let u := popWrite off 4 s
      frontWrite s = some { bar4 := false, off := off, bytes := b } →
      ∃ t, exec (.sineBlockWrite off b) s = .next t ∧ t.mx.ch[i].ampl.toNat = ampl
        ∧ { t.mx.ch[i] with ampl := s.mx.ch[i].ampl } = s.mx.ch[i] ∧ (∀ j : Chan, j ≠ i → t.mx.ch[j] = s.mx.ch[j]) ∧ Keeps [.mx] u t

/-- R331, R334, R337 for a mask of one channel. That a parked channel follows a new PARK code is log 38 (DEDUCED). R326, R328; `u` is the state once the slots of the reads have come (R168). That `MX_LOAD` reads in maintenance slots is log 48
(PRESUMED), and that granules of a segment in use answer `E_BUSY` is log 38 (DEDUCED). -/
def Obligations.marginCommands : Prop :=
  (∀ (s : State) (tag : W16) (e : Exec) (i : Chan),
    let others := fun t : State => ∀ j : Chan, j ≠ i → t.mx.ch[j] = s.mx.ch[j]
    let c := s.mx.ch[i]
    payF e 0 2 = 2 ^ i.val →
    (executing 0x0C01 tag s = some e → payZero e 2 6 = true → e.ind.length = 40 → mxRecOk i (slice e.ind 8 32) = true → atRest c = true →
      ∃ t, exec (.mxConfig tag) s = .next t ∧ Answered e 0 [] s t ∧ others t ∧ Keeps [.mx, .hi] s t
        ∧ t.mx.ch[i].clampLo.toNat = fieldAt (slice e.ind 8 32) 0 4 ∧ t.mx.ch[i].clampHi.toNat = fieldAt (slice e.ind 8 32) 4 4
        ∧ t.mx.ch[i].park.toNat = fieldAt (slice e.ind 8 32) 8 4 ∧ t.mx.ch[i].rate0.toNat = fieldAt (slice e.ind 8 32) 24 8
        ∧ t.mx.ch[i].state = c.state ∧ t.mx.ch[i].code = if c.state = .parked then t.mx.ch[i].park else c.code)
    ∧ (executing 0x0C04 tag s = some e → payZero e 4 44 = true → segValid (segAt s (payF e 2 2)) = true →
      (c.state = .stopped → c.en = false → ∃ t, exec (.mxStart tag) s = .next t ∧ Replied e 0 [] s t ∧ others t
          ∧ t.mx.ch[i].state = .playing ∧ t.mx.ch[i].seg = payF e 2 2 ∧ t.mx.ch[i].pos = 0 ∧ t.mx.ch[i].pass = 0
          ∧ t.mx.ch[i].rate = (if (segAt s (payF e 2 2)).rate = 0 then c.rate0 else (segAt s (payF e 2 2)).rate) ∧ Keeps [.mx, .hi, .mg] s t)
      ∧ ((c.state ≠ .stopped ∨ c.en = true) → ∃ t, exec (.mxStart tag) s = .next t ∧ Answered e 6 [] s t ∧ Keeps [.hi] s t))
    ∧ (executing 0x0C05 tag s = some e → payF e 4 1 ≤ 1 → payZero e 5 43 = true → payF e 2 2 ≤ 1023 →
      segValid (segAt s (payF e 2 2)) = true → c.en = false → c.state ≠ .parked → c.inbox = [] →
      ∃ t, exec (.mxJump tag) s = .next t ∧ Answered e 0 [] s t ∧ others t ∧ Keeps [.mx, .hi] s t
        ∧ t.mx.ch[i] = { c with inbox := [((ext s : Int) / 8192 * 8192, 3, payF e 2 2, payF e 4 1 == 1)] })
    ∧ (executing 0x0C06 tag s = some e → payF e 2 1 ≤ 1 → payZero e 3 45 = true →
      ∃ t, exec (.mxStop tag) s = .next t ∧ Answered e 0 [] s t ∧ others t ∧ Keeps [.mx, .hi] s t
        ∧ t.mx.ch[i] = { c with stopReq := some (payF e 2 1 == 1) }))
    ∧ ((∀ (s : State) (tag : W16) (e : Exec), executing 0x0C02 tag s = some e → payF e 2 2 = 1 → payF e 0 2 < 1024 → payZero e 4 4 = true →
      e.ind.length = 40 → segInval (newSegs e (payF e 0 2) 1 s) e 0 = false → segRange s e 0 = false →
      (payF e 0 2 ∉ segsUsed s → ∃ t, exec (.mxSegtab tag) s = .next t ∧ Answered e 0 [] s t ∧ segAt t (payF e 0 2) = paySeg e 0
          ∧ (∀ i, i ≠ payF e 0 2 → segAt t i = segAt s i) ∧ t.mx.ch = s.mx.ch ∧ Keeps [.mx, .hi] s t)
      ∧ (payF e 0 2 ∈ segsUsed s → paySeg e 0 ≠ segAt s (payF e 0 2) →
          ∃ t, exec (.mxSegtab tag) s = .next t ∧ Answered e 5 [] s t ∧ Keeps [.hi] s t))
    ∧ ∀ (s : State) (tag : W16) (src : HostRead) (e : Exec), executing 0x0C03 tag s = some e → payF e 8 1 = 0 →
      payZero e 9 3 = true → payZero e 20 28 = true →
      let a := payF e 0 8
      let first := payF e 12 4
      let n := payF e 16 4
      1 ≤ n → n ≤ 16384 → first + n ≤ 60928 → a + 64 * n ≤ 0x1FFC000000 →
      let u := inSlot .maint (64 * n) s
      Memory.wf 0 u.mx.larder = true →
      (larderBusy s first n = false → faultIn u a (64 * n) = false →
        ∃ t, exec (.mxLoad tag src {}) s = .next t ∧ Answered e 0 [] u t
          ∧ memRead 0 t.mx.larder (64 * first) (64 * n) = dramRead u a (64 * n)
          ∧ (∀ x, (x < 64 * first ∨ 64 * (first + n) ≤ x) → memGet 0 t.mx.larder x = memGet 0 u.mx.larder x)
          ∧ { t.mx with larder := u.mx.larder } = u.mx ∧ Keeps [.mx, .hi] u t)
      ∧ (larderBusy s first n = false → ∀ dr : DramFind, (faultIn u a (64 * n) = true ∨ dr.ecc = .uncorrectable) →
        ∃ t, exec (.mxLoad tag src dr) s = .next t ∧ t.hi.cpls = u.hi.cpls ++ [cplOf e 9 []] ∧ t.mx = u.mx)
      ∧ (larderBusy s first n = true → ∀ dr, ∃ t, exec (.mxLoad tag src dr) s = .next t ∧ Answered e 5 [] s t ∧ Keeps [.hi] s t))

/-- R349, R350: the steps of forming on the leader and on a member; a message that has come is acknowledged (R354). That FORMED_MESSAGE
at the leader says that every member is aligned, and that a refusal is for the member to which its path leads, is log 39 (DEDUCED). -/
def Obligations.ensembleForms : Prop :=
  (∀ (s : State) (tag : W16) (e : Exec), executing 0x0D01 tag s = some e → s.en.formTag = none →
      let m := payF e 0 1
      payZero e 2 6 = true → payZero e 16 32 = true →
      (m = 0 ∧ 1 ≤ payF e 1 1 ∧ payF e 1 1 ≤ 64 ∨ 1 ≤ m ∧ m ≤ 63 ∧ payF e 1 1 = 0) →
      (s.mg.pstate = 1 → s.en.state = .standalone → payF e 1 1 ≠ 1 → ∃ t, exec (.ensForm tag) s = .next t
          ∧ t.en.state = .forming ∧ t.en.leader = decide (m = 0) ∧ t.en.member = m ∧ t.en.members = payF e 1 1
          ∧ t.en.ensId.toNat = payF e 8 8 ∧ t.en.tx = s.en.tx ∧ t.en.aligned = decide (m = 0) ∧ t.en.formTag = some tag
          ∧ (∀ p : Port, t.en.ports[p].training = decide (m ≠ 0 ∨ p ≠ 0) ∧ t.en.ports[p].up = false)
          ∧ Keeps [.en] s t)
      ∧ (s.mg.pstate = 1 → s.en.state = .standalone → payF e 1 1 = 1 → ∃ t, exec (.ensForm tag) s = .next t
          ∧ t.en.state = .formed ∧ t.en.leader = true ∧ t.en.members = 1 ∧ Replied e 0 [] s t ∧ Keeps [.en, .hi, .mg] s t)
      ∧ ((s.mg.pstate ≠ 1 ∨ s.en.state ≠ .standalone) → ∃ t, exec (.ensForm tag) s = .next t ∧ Answered e 6 [] s t ∧ Keeps [.hi] s t))
    ∧ (∀ (s : State) (p : Port) (d depth : Nat), s.en.state = .forming → s.en.ports[p].training = true →
      (d ≤ 36864 → ∃ t, exec (.portTrainingDone p (.measured d depth)) s = .next t ∧ Keeps [.en] s t
          ∧ t.en.ports[p].up = true ∧ t.en.ports[p].training = false ∧ t.en.ports[p].d = d
          ∧ (∀ r : Port, r ≠ p → t.en.ports[r] = s.en.ports[r])
          ∧ (p = 0 → s.en.leader = false → t.en.depth = depth + 1
              ∧ t.en.tx = s.en.tx
                ++ [((0 : Port), .data (s.en.ports[(0 : Port)].txData + 1) (.join s.en.member s.en.ensId (axrasMajor s) (depth + 1) []))])
          ∧ ((p ≠ 0 ∨ s.en.leader = true) → t.en.depth = s.en.depth ∧ t.en.tx = s.en.tx))
      ∧ (36864 < d → ∃ t, exec (.portTrainingDone p (.measured d depth)) s = .next t ∧ t.en.ports[p].training = false
          ∧ t.en.ports[p].up = s.en.ports[p].up ∧ t.en.tx = s.en.tx ∧ Keeps [.en, .hi, .mg] s t)
      ∧ ∃ t, exec (.portTrainingDone p .noLock) s = .next t ∧ t.en.ports[p].training = false
          ∧ t.en.ports[p].up = s.en.ports[p].up ∧ t.en.tx = s.en.tx ∧ Keeps [.en, .hi, .mg] s t)
    ∧ (∀ (s : State) (p : Port) (m : Nat) (id : W64) (major : W16) (depth : Nat) (path : List Port),
      let u := goodData p s
      (s.en.state = .forming → s.en.leader = true →
        (joinCase s m id major depth = none →
          exec (.joinMessage p m id major depth { path := path }) s
            = .next { u with en := { u.en with joined := s.en.joined ++ [(m, p.val)] } })
        ∧ ∀ c, joinCase s m id major depth = some c →
          ∃ t, exec (.joinMessage p m id major depth { path := path }) s = .next t ∧ t.en.state = .forming ∧ t.en.joined = s.en.joined
            ∧ t.en.tx = u.en.tx ++ (if s.en.ports[p].up then [(p, .data (s.en.ports[p].txData + 1) (.refuse m c path))] else [])
            ∧ Keeps [.en, .hi, .mg] s t)
      ∧ (s.en.state ≠ .standalone → s.en.leader = false → s.en.ports[(0 : Port)].up = true →
        ∃ t, exec (.joinMessage p m id major depth { path := path }) s = .next t ∧ Keeps [.en] s t ∧ t.en.joined = s.en.joined
          ∧ t.en.tx = u.en.tx ++ [((0 : Port), .data (s.en.ports[(0 : Port)].txData + 1) (.join m id major.toNat depth (p :: path)))]))
    ∧ ∀ (s : State) (tag : W16) (e : Exec), s.en.state = .forming → s.en.formTag = some tag → executing 0x0D01 tag s = some e →
      (s.en.aligned = false → ∀ n, exec (.formedMessage n) s = .next (if s.en.leader then s else goodData 0 s))
      ∧ (s.en.leader = true → s.en.aligned = true → ∀ n,
        (s.en.joined.length + 1 ≠ s.en.members → exec (.formedMessage n) s = .next s)
        ∧ (s.en.joined.length + 1 = s.en.members → ∃ t, exec (.formedMessage n) s = .next t ∧ t.en.state = .formed
          ∧ t.en.members = s.en.members ∧ t.en.discord = 0 ∧ t.en.mismatch = 0 ∧ t.en.formTag = none ∧ Replied e 0 [] s t
          ∧ Keeps [.en, .hi, .mg] s t))
      ∧ (s.en.leader = false →
        (s.en.aligned = true → ∀ n, ∃ t, exec (.formedMessage n) s = .next t ∧ t.en.state = .formed ∧ t.en.members = n
            ∧ Replied e 0 [] s t ∧ Keeps [.en, .hi, .mg] s t)
        ∧ ∀ (p : Port) (m : Nat) (id : W64) (major : W16) (depth : Nat) (c : Fin 5),
            ∃ t, exec (.joinMessage p m id major depth { refusal := some c }) s = .next t ∧ t.en.state = .standalone
              ∧ Replied e (if c.val = 0 then 0xC else if c.val = 1 ∨ c.val = 3 then 6 else 3) [] s t ∧ Keeps [.en, .hi, .mg] s t)
      ∧ (s.en.leader = true →
        let u := toTime (s.en.formAt + 2048000000000) s
        executing 0x0D01 tag u = some e →
        ∃ t, exec .ensFormTimeout s = .next t ∧ t.en = { tx := t.en.tx } ∧ Answered e 0xD [] u t ∧ Keeps [.en, .hi] u t
          ∧ t.en.tx = s.en.tx ++ (([1, 2, 3] : List Port).filter fun p => s.en.ports[p].up).map fun p =>
              (p, .data (s.en.ports[p].txData + 1) .breakMsg))

/-- R351, R354, R346 with R348, R362 to R364. That a member that is not aligned sends no probes, that one acknowledgement is for every
data slot up to its number, and that a break in forming or discord breaks the member itself only, is log 39 (DEDUCED). -/
def Obligations.ensembleBreaksAndDiscords : Prop :=
  (∀ (s : State) (tag : W16) (e : Exec), executing 0x0D02 tag s = some e → payZero e 0 48 = true →
      ((s.en.state = .standalone ∨ (formed s = true ∧ s.en.leader = false)) →
        ∃ t, exec (.ensBreak tag) s = .next t ∧ Answered e 6 [] s t ∧ Keeps [.hi] s t)
      ∧ (s.en.state ≠ .standalone → (formed s = true → s.en.leader = true ∧ e.idle = true) → s.en.formTag = none →
        ∃ t, exec (.ensBreak tag) s = .next t ∧ Replied e 0 [] s t ∧ t.en = { tx := t.en.tx } ∧ Keeps [.en, .hi, .mg] s t)
      ∧ (formed s = true → s.en.leader = true → e.idle = false →
        ∃ t, exec (.ensBreak tag) s = .next t ∧ Answered e 5 [] s t ∧ Keeps [.hi] s t))
    ∧ (∀ s : State, (s.en.state = .standalone → exec .breakMessage s = .next s)
      ∧ (s.en.state ≠ .standalone → ∃ t, exec .breakMessage s = .next t ∧ t.en = { tx := t.en.tx } ∧ Keeps [.en, .hi, .mg] s t))
    ∧ (∀ (s : State) (p : Port), s.en.ports[p].up = true → formed s = true → s.mg.contained = false → s.en.member < 64 →
      s.en.discord.getLsbD 63 = false →
      let lost := fun t : State => t.en.ports[p].up = false ∧ t.mg.contained = true ∧ Parked t ∧ t.en.state = .discord
        ∧ t.en.discord.toNat / 2 ^ 48 = 2 ^ 15 + 3 * 2 ^ 12 + s.en.member * 2 ^ 6 + p.val * 2 ^ 4 + 2
      (∃ t, exec (.linkBlockLockLost p) s = .next t ∧ lost t)
      ∧ (s.en.ports[p].unacked ≠ [] → 8 ≤ s.en.ports[p].retries → ∃ t, exec (.mgmtRetransmitTimeout p) s = .next t ∧ lost t))
    ∧ (∀ (s : State) (p : Port),
      (s.en.ports[p].up = false → exec (.linkBlockLockLost p) s = .next s ∧ exec (.mgmtRetransmitTimeout p) s = .next s)
      ∧ (s.en.ports[p].up = true → s.en.ports[p].unacked ≠ [] → s.en.ports[p].retries < 8 →
        let u := toTime (s.en.ports[p].sentAt + 16384000) s
        ∃ t, exec (.mgmtRetransmitTimeout p) s = .next t ∧ t.en.tx = s.en.tx ++ s.en.ports[p].unacked.map (fun m => (p, .data m.1 m.2))
          ∧ t.en.ports[p].retries = s.en.ports[p].retries + 1 ∧ t.en.ports[p].sentAt = u.tb.now ∧ Keeps [.en] u t)
      ∧ ∀ n : Nat, ∃ t, exec (.dataSlotAcknowledgement { port := p, upTo := n }) s = .next t
          ∧ t.en.ports[p].unacked = (s.en.ports[p].unacked.filter fun x => decide (n < x.1)) ∧ t.en.ports[p].badRun = 0
          ∧ ((∃ x ∈ s.en.ports[p].unacked, x.1 ≤ n) → t.en.ports[p].retries = 0 ∧ t.en.ports[p].sentAt = s.tb.now)
          ∧ ((∀ x ∈ s.en.ports[p].unacked, n < x.1) → t.en.ports[p] = { s.en.ports[p] with badRun := 0 })
          ∧ (∀ r : Port, r ≠ p → t.en.ports[r] = s.en.ports[r]) ∧ { t.en with ports := s.en.ports } = s.en ∧ Keeps [.en] s t)
    ∧ (∀ s : State, ((s.en.state = .standalone ∨ s.en.aligned = false) → exec .syncProbeSend s = .next s)
      ∧ (s.en.state ≠ .standalone → s.en.aligned = true →
        let u := (s.en.probeAt.map fun a => toTime (a + 136314880) s).getD s
        exec .syncProbeSend s = .next { u with en := { u.en with probeAt := some u.tb.now, tx := u.en.tx
          ++ (([1, 2, 3] : List Port).filter fun p => u.en.ports[p].up).map fun p => (p, .probe (ensTime u).toNat) } }))
    ∧ (∀ (s : State) (time : Nat), s.en.state ≠ .standalone → s.en.leader = false → s.en.ports[(0 : Port)].up = true →
      (s.en.aligned = false → time < 2 ^ 79 → ∃ t, exec (.syncProbe time) s = .next t ∧ t.en.aligned = true
          ∧ ensTime t = (time : Int) + 196608 ∧ -4096 ≤ t.en.align ∧ t.en.align ≤ 4095 ∧ t.tb.epoch.toNat % 8192 = 0 ∧ Keeps [.tb, .en] s t)
      ∧ (s.en.aligned = true → s.en.deltas = [] →
        let d := nearTime s (time % 2 ^ 64) + 196608 - ensTime s
        (d.natAbs ≤ 1 → -4096 ≤ s.en.align + d → s.en.align + d ≤ 4095 →
          ∃ t, exec (.syncProbe time) s = .next t ∧ t.en.align = s.en.align + d ∧ t.en.deltas = [d]
            ∧ t.en.adj = (if d = 0 then s.en.adj else min 0xFFFF (s.en.adj + 1)) ∧ t.en.state = s.en.state ∧ Keeps [.en] s t)
        ∧ (1 < d.natAbs → formed s = true → ∃ t, exec (.syncProbe time) s = .next t ∧ t.mg.contained = true ∧ t.en.state = .discord)))
    ∧ (∀ (s : State) (count : Nat), s.en.state ≠ .standalone → s.en.leader = false → 4096 ≤ s.en.probes →
      (6815731 ≤ count → count ≤ 6815757 →
        exec (.refclkCountCheck count) s = .next { s with en := { s.en with probes := s.en.probes - 4096 } })
      ∧ ((count < 6815731 ∨ 6815757 < count) → formed s = true →
        ∃ t, exec (.refclkCountCheck count) s = .next t ∧ t.mg.contained = true ∧ t.en.state = .discord))
    ∧ (∀ (s : State) (p : Port) (b : Burst), ∀ r, firstBurst 0x17 s = some (p, b, r) →
      let u := toTime r s
      (s.en.leader = true → formed s = true → ∃ t, exec .discordBurst s = .next t ∧ t.en.state = .discord
          ∧ t.en.parkAt = some ((ensTime u + 1179648).toNat, fieldAt b.payload 0 1, b.aux % 8) ∧ t.mg.contained = u.mg.contained
          ∧ Keeps [.en, .hi, .mg] u t)
      ∧ (s.en.leader = false → ∃ t, exec .discordBurst s = .next t ∧ t.en.rx = s.en.rx.erase (p, b, r) ∧ Keeps [.en] u t
          ∧ t.en.tx = s.en.tx ++ (if s.en.ports[(0 : Port)].up then [((0 : Port), .burst ((s.en.ports[(0 : Port)].txSeq + 1) % 65536) b)] else [])))
    ∧ ∀ (s : State) (at_ m c : Nat), s.en.parkAt = some (at_, m, c) →
      let u := toEns at_ s
      u.mg.contained = false → u.en.state = .formed →
      ∃ t, exec .haltBurstParkAtime s = .next t ∧ t.mg.contained = true ∧ Parked t ∧ t.en.state = .discord ∧ t.en.parkAt = none

/-- R353 to R358 on the receiving side; a burst acts at its release (R345), and one whose time has passed is discarded (R354). HI_REFUSE
CAUSE 6 is that of Table 15.4b. That a late burst is not forwarded, that an arm at ATIME that cannot be made is none, and that unequal
sync headers make a bad slot, is log 39 (DEDUCED); END_CAUSE 2 and 3 outside RUNNING is log 14 (DEDUCED). -/
def Obligations.runControlBursts : Prop :=
  (∀ (s : State) (p : Port) (c : CtlSlot), s.en.ports[p].up = false → exec (.hargoControlSlot p c) s = .next s)
    ∧ (∀ (s : State) (p : Port) (c : CtlSlot), s.en.ports[p].up = true →
      let l := c.bytes
      ((c.sync0 ≠ 2 ∨ c.sync1 ≠ 2) → slotGood c = false)
      ∧ (slotGood c = true → 0x10 ≤ slotType l → fieldAt l 2 2 = (s.en.ports[p].rxSeq + 1) % 65536 →
        ∃ t, exec (.hargoControlSlot p c) s = .next t ∧ t.en.rx = s.en.rx ++ [(p, slotBurst l, releaseAt p (fieldAt l 1 1 % 2) s)]
          ∧ t.en.ports[p].rxSeq = fieldAt l 2 2 ∧ t.en.ports[p].badRun = 0 ∧ t.en.ports[p].badCtl = 0 ∧ Keeps [.en] s t)
      ∧ (slotGood c = true → 0x10 ≤ slotType l → fieldAt l 2 2 = s.en.ports[p].rxSeq →
        exec (.hargoControlSlot p c) s = .next (updPort p (fun q => { q with badRun := 0, badCtl := 0 }) s))
      ∧ (slotGood c = false → s.en.ports[p].badCtl = 0 → s.en.ports[p].badRun < 3 → ∃ t, exec (.hargoControlSlot p c) s = .next t
          ∧ t.en.ports[p].badCtl = 1 ∧ t.en.ports[p].badRun = s.en.ports[p].badRun + 1 ∧ t.en.rx = s.en.rx
          ∧ t.en.ports[p].up = true ∧ Keeps [.en] s t)
      ∧ (slotGood c = false → 1 ≤ s.en.ports[p].badCtl → s.en.ports[p].badRun < 3 → formed s = true →
          ∃ t, exec (.hargoControlSlot p c) s = .next t ∧ t.mg.contained = true ∧ t.en.rx = s.en.rx)
      ∧ (slotGood c = false → 3 ≤ s.en.ports[p].badRun → formed s = true →
          ∃ t, exec (.hargoControlSlot p c) s = .next t ∧ t.en.ports[p].up = false ∧ t.mg.contained = true
            ∧ t.en.rx = s.en.rx.filter fun x => x.1 != p))
    ∧ (∀ (s : State) (p : Port) (b : Burst) (r : Nat),
      let u := toTime r s
      let at_ := nearTime u b.atime
      let gone := { u with en := { u.en with rx := u.en.rx.erase (p, b, r) } }
      (firstBurst 0x13 s = some (p, b, r) →
        (ensTime u ≤ at_ → ∃ t, exec .armBurst s = .next t ∧ t.en.armAt = some at_.toNat ∧ t.en.rx = gone.en.rx ∧ Keeps [.en] u t)
        ∧ (at_ < ensTime u → exec .armBurst s = .next gone))
      ∧ (firstBurst 0x12 s = some (p, b, r) →
        (ensTime u ≤ at_ → ∃ t, exec .goBurst s = .next t ∧ t.en.goAt = some at_.toNat ∧ t.en.rx = gone.en.rx ∧ Keeps [.en] u t)
        ∧ (at_ < ensTime u → exec .goBurst s = .next gone))
      ∧ (firstBurst 0x14 s = some (p, b, r) → ensTime u ≤ at_ →
        (b.aux % 4 = 0 → (s.sq.state = .running ∨ (s.sq.state = .arming ∨ s.sq.state = .armed) ∧ ext u < at_) →
          s.sq.pendAbort = false → s.sq.pendHalt = false → ∃ t, exec .haltBurst s = .next t
            ∧ t.sq = { s.sq with pendHalt := true, pendAt := at_.toNat } ∧ Keeps [.sq, .en] u t)
        ∧ (b.aux % 4 = 0 → (s.sq.pendAbort = true ∨ s.sq.pendHalt = true ∨ s.sq.state = .idle ∨ s.sq.state = .draining) →
            ∃ t, exec .haltBurst s = .next t ∧ t.en.rx = gone.en.rx ∧ Keeps [.en] u t)
        ∧ (b.aux % 4 = 1 → (s.sq.pendAbort = true ∨ s.sq.state = .idle) →
            ∃ t, exec .haltBurst s = .next t ∧ t.en.rx = gone.en.rx ∧ Keeps [.en] u t)
        ∧ (b.aux % 4 = 1 → s.sq.state ≠ .idle → (s.sq.state = .running ∨ ext u < at_) → s.sq.pendAbort = false → ∃ t, exec .haltBurst s = .next t
            ∧ t.sq = { s.sq with pendAbort := true, pendHalt := false, pendSof := false, pendAt := at_.toNat } ∧ Keeps [.sq, .en] u t)
        ∧ (b.aux % 4 = 2 → ∃ t, exec .haltBurst s = .next t
            ∧ t.en.parkAt = some (at_.toNat, fieldAt b.payload 0 1, fieldAt b.payload 1 1) ∧ Keeps [.en] u t))
      ∧ (firstBurst 0x16 s = some (p, b, r) → s.en.leader = true → formed s = true → s.sq.state = .running →
        s.sq.pendAbort = false → s.sq.pendHalt = false → b.aux % 4 ≠ 1 →
        ∃ t, exec .haltreqBurst s = .next t ∧ t.sq = { s.sq with pendHalt := true, pendAt := ext u + 1179648 } ∧ Keeps [.sq, .en] u t)
      ∧ (firstBurst 0x16 s = some (p, b, r) → s.en.leader = false →
        ∃ t, exec .haltreqBurst s = .next t ∧ t.en.rx = gone.en.rx ∧ Keeps [.en] u t
          ∧ t.en.tx = s.en.tx ++ (if s.en.ports[(0 : Port)].up then [((0 : Port), .burst ((s.en.ports[(0 : Port)].txSeq + 1) % 65536) b)] else [])))
    ∧ (∀ (s : State) (at_ : Nat), s.en.armAt = some at_ →
      let u := toEns at_ s
      (running u = false → u.mg.contained = false → armHeldOff u = false → timeBaseReady u = true →
        ∃ t, exec .armBurstAtime s = .next t ∧ t.tb.epoch = 0 ∧ t.tb.wraps = 0 ∧ t.tb.epochValid = true ∧ t.sq.state = .arming
          ∧ t.hi.armSeq = (u.hi.armSeq + 1) % 2 ^ 32 ∧ t.en.armAt = none)
      ∧ ((running u = true ∨ u.mg.contained = true ∨ armHeldOff u = true ∨ timeBaseReady u = false) →
        exec .armBurstAtime s = .next { u with en := { u.en with armAt := none, armAsked := none } }))
    ∧ (∀ (s : State) (at_ : Nat), s.en.goAt = some at_ →
      let u := toEns at_ s
      (u.sq.state = .armed → exec .goBurstAtime s = .next { u with
          en := { u.en with goAt := none }, sq := { u.sq with state := .running, startTick := at_, goHeld := false } })
      ∧ (u.sq.state ≠ .armed → exec .goBurstAtime s = .next { u with en := { u.en with goAt := none } }))
    ∧ (∀ s : State, formed s = true → s.en.leader = false → s.en.ports[(0 : Port)].up = true →
      ∃ t r, exec .armCheckRequest s = .next t ∧ t.en.tx.getLast? = some ((0 : Port), .data (s.en.ports[(0 : Port)].txData + 1) (.armReply r)) ∧ t.en.armAsked = some s.tb.now
        ∧ r.member = s.en.member ∧ r.imageId = s.sq.imageId ∧ r.crc = s.sq.imgCrc ∧ r.ptCrc = s.pt.crc
        ∧ (r.pass = true ↔ armFailures s = [] ∧ armUnready s = false) ∧ Keeps [.en, .hi, .mg] s t)
    ∧ (∀ (s : State) (src : Sender) (pass : Bool) (digest id : W64) (crc : ReplyCrc) (profile : Byte) (common : W32),
      let r : ArmReply := { member := src.member.val, pass := pass, digest := digest, imageId := id, crc := crc.image
                            ptCrc := crc.table, profile := profile, common := common }
      let u := goodData src.port s
      let v : State := { u with en := { u.en with replies := (s.en.replies.filter fun x => x.member != src.member.val) ++ [r] } }
      (s.en.leader = true → s.en.armWait = true →
        ((∃ m, m < s.en.members ∧ m ≠ 0 ∧ ∀ x ∈ v.en.replies, x.member ≠ m) →
          exec (.armCheckReply src pass digest id crc profile common) s = .next v)
        ∧ (s.en.member = 0 → (∀ m, m < s.en.members → memberCase v m = none) →
          ∃ t, exec (.armCheckReply src pass digest id crc profile common) s = .next t ∧ Keeps [.en] s t
            ∧ t.en.armAt = some (ensTime s + 1179648).toNat ∧ t.en.armWait = false ∧ t.en.mismatch = 0))
      ∧ (s.en.leader = false → s.en.state ≠ .standalone → s.en.ports[(0 : Port)].up = true →
          ∃ t, exec (.armCheckReply src pass digest id crc profile common) s = .next t ∧ Keeps [.en] s t
            ∧ t.en.tx = u.en.tx ++ [((0 : Port), .data (s.en.ports[(0 : Port)].txData + 1) (.armReply r))]))
    ∧ (∀ (s : State) (at_ : Nat), s.en.leader = true → s.en.armWait = true → s.en.armAsked = some at_ →
      let u := toTime (at_ + 409600000) s
      ((∃ m, m < u.en.members ∧ memberCase u m ≠ none) →
        ∃ t, exec .armCheckReplyTimeout s = .next t ∧ t.en.armWait = false ∧ t.hi.armRef = true ∧ t.hi.runRef = true
          ∧ t.hi.refuse.toNat = 2 ^ 63 + 6 * 2 ^ 56 + 2 ^ 48 + 0x0D03 * 2 ^ 32 ∧ t.en.armAt = u.en.armAt ∧ Keeps [.en, .hi, .mg] u t)
      ∧ ((∀ m, m < u.en.members → memberCase u m = none) →
        ∃ t, exec .armCheckReplyTimeout s = .next t ∧ t.en.armAt = some (ensTime u + 1179648).toNat ∧ t.en.armWait = false
          ∧ t.en.mismatch = 0 ∧ Keeps [.en] u t))
    ∧ ∀ (s : State) (src : Sender),
      let g := goodData src.port s
      let u : State := { g with en := { g.en with armReports := s.en.armReports ++ [src.member.val] } }
      (s.en.leader = true →
        exec (.armedReport src true) s = .next { g with en := { g.en with idleReports := s.en.idleReports ++ [src.member.val] } }
        ∧ ((s.sq.state ≠ .arming ∨ allArmed u = false) → exec (.armedReport src false) s = .next u)
        ∧ (s.sq.state = .arming → allArmed u = true → s.sq.goHeld = false →
          exec (.armedReport src false) s = .next { u with sq := { u.sq with state := .armed } }))
      ∧ (s.en.leader = false → s.en.state ≠ .standalone → s.en.ports[(0 : Port)].up = true → ∀ idle : Bool,
          ∃ t, exec (.armedReport src idle) s = .next t ∧ Keeps [.en] s t
            ∧ t.en.tx = g.en.tx ++ [((0 : Port), .data (s.en.ports[(0 : Port)].txData + 1) (.armedReport src.member.val idle))])

/-- R359 to R361, R367. That ENS_TMARK answers E_RANGE also on a device that does not lead, that ENS_EXPECT answers E_STATE before it looks
at its payload, and that a late RESULT is not forwarded, is log 39 (DEDUCED). -/
def Obligations.globalConditionsAndMarks : Prop :=
  (∀ (s : State) (c : Cond) (sub : Subj), formed s = true → nextLocal s = some (c, sub) →
      let u := toEns (ceilTo 8192 (localDue s (c, sub))) s
      let e := condEnt u c.entry
      ∃ t, exec .localEntryResolution s = .next t ∧ Keeps [.en, .sp, .freeCtr] u t
        ∧ (c.gserial, sub.start % 2 ^ 64, (sub.start + cLat e) % 2 ^ 64, localValue u (condEnt u (cLocal e)) sub, 1, 4) ∈ t.en.contribs)
    ∧ (∀ s : State, formed s = false → exec .localEntryResolution s = .next s)
    ∧ (∀ (s : State) (p : Port) (b : Burst) (r : Nat),
      let num := fieldAt b.payload 0 4
      let sn := fieldAt b.payload 4 8
      let u := toTime r s
      let gone := { u with en := { u.en with rx := u.en.rx.erase (p, b, r) } }
      (firstBurst 0x10 s = some (p, b, r) →
        (ensTime u ≤ nearTime u b.atime → globalOf u num sn ≠ none → ∃ t, exec .contribBurst s = .next t
            ∧ t.en.contribs = u.en.contribs ++ [(num, sn, b.atime, bitAt b.aux 8, fld b.aux 14 9 + 1, p.val)]
            ∧ t.en.rx = gone.en.rx ∧ Keeps [.en, .sp] u t)
        ∧ ((nearTime u b.atime < ensTime u ∨ globalOf u num sn = none) → exec .contribBurst s = .next gone))
      ∧ (firstBurst 0x11 s = some (p, b, r) →
        (nearTime u b.atime < ensTime u → exec .resultBurst s = .next gone)
        ∧ (ensTime u ≤ nearTime u b.atime → globalOf u num sn ≠ none → ∃ t, exec .resultBurst s = .next t ∧ Keeps [.en, .sp] u t
            ∧ t.sp = { u.sp with gresults := u.sp.gresults ++ [(num, sn, (nearTime u b.atime).toNat, bitAt b.aux 8)] })
        ∧ (ensTime u ≤ nearTime u b.atime → globalOf u num sn = none → ∃ t, exec .resultBurst s = .next t ∧ Keeps [.en] u t))
      ∧ (firstBurst 0x15 s = some (p, b, r) → ensTime u ≤ nearTime u b.atime →
        ∃ t, exec .tmarkBurst s = .next t ∧ t.en.events = u.en.events ++ [(b.aux % 256, (nearTime u b.atime).toNat)]
          ∧ Keeps [.en] u t))
    ∧ (∀ (s : State) (tag : W16) (e : Exec), executing 0x0D03 tag s = some e →
      ((formed s && s.en.leader) = false → ∃ t, exec (.ensExpect tag) s = .next t ∧ Answered e 6 [] s t ∧ Keeps [.hi] s t)
      ∧ ((formed s && s.en.leader) = true → (∀ m, s.en.members ≤ m → m < 64 → payF e (8 * m) 8 = 0) →
        ∃ t v, exec (.ensExpect tag) s = .next t ∧ Answered e 0 [] s t ∧ t.en.expect = some v
          ∧ (∀ m : Fin 64, v[m].toNat = payF e (8 * m.val) 8) ∧ Keeps [.en, .hi] s t))
    ∧ (∀ (s : State) (tag : W16) (e : Exec), executing 0x0D04 tag s = some e → payF e 1 1 = 0 → payZero e 4 4 = true →
      payZero e 24 24 = true → (payF e 2 2 = 1 ∧ payF e 16 8 = 0 ∨ 2 ≤ payF e 2 2 ∧ 8192000 ≤ payF e 16 8) →
      let t0 := nearTime s (payF e 8 8)
      (t0 < (ext s : Int) + 2097152 → ∃ t, exec (.ensTmark tag) s = .next t ∧ Answered e 3 [] s t ∧ Keeps [.hi] s t)
      ∧ ((ext s : Int) + 2097152 ≤ t0 → formed s = true → s.en.leader = true →
        ∃ t, exec (.ensTmark tag) s = .next t ∧ Answered e 0 [] s t ∧ Keeps [.en, .hi] s t
          ∧ t.en.tmarks = s.en.tmarks ++ [(payF e 0 1, t0.toNat, payF e 2 2, payF e 16 8, 0)]))
    ∧ (∀ (s : State) (tag at_ left per ix : Nat), s.en.tmarks = [(tag, at_, left, per, ix)] →
      let u := toEns ((at_ - 1179648 - 74752) / 8192 * 8192) s
      ∃ t, exec .tmarkSend s = .next t ∧ t.en.events = s.en.events ++ [(tag, at_)] ∧ Keeps [.en] u t
        ∧ t.en.tmarks = if left ≤ 1 then [] else [(tag, at_ + per, left - 1, per, ix + 1)])
    ∧ ∀ (s : State) (tag at_ : Nat), firstEvent s.en.events = some (tag, at_) →
      let u := toEns at_ s
      ∃ t, exec .timeMarkEvent s = .next t ∧ t.en = { u.en with events := u.en.events.erase (tag, at_) } ∧ Keeps [.en, .ti, .hi, .mg, .freeCtr] u t
        ∧ ∀ g : Glove,
          (selMark tag u.ti.units[g].start = false → tiuStopSel u.ti.units[g] (selMark tag) = false → t.ti.units[g] = u.ti.units[g])
          ∧ (selMark tag u.ti.units[g].start = true → u.ti.units[g].shot = none → u.ti.units[g].lastStop = none →
              tiuReady u g at_ = true → t.ti.units[g].shot = some ((at_ : Int), 0))

/-- R371, R374, R376; registers by access type (R9, R10); R384. A row of a register write acts on the front of the buffer alone, one that the
front does not hold changes nothing, and BAR4 writes leave it at once: log 41 (DEDUCED). -/
def Obligations.postedWritesAndRegisters : Prop :=
  (∀ (s : State) (bar4 : Bool) (off : Nat) (l : List (Option Byte)), s.hi.serving = true → s.hi.linkUp = true →
      off + l.length ≤ (if bar4 then 2 ^ 24 else 2 ^ 16) →
      let w := waiting s.hi.posted
      ((bar4 = true ∨ writeOk off l = true) → w.length < 16 →
        exec (.postedWriteReceive bar4 off l) s = .next { s with hi := { s.hi with
          posted := w ++ [{ bar4 := bar4, off := off, bytes := l }] } })
      ∧ ((bar4 = true ∨ writeOk off l = true) → 16 ≤ w.length → exec (.postedWriteReceive bar4 off l) s = .next s)
      ∧ ((∀ b ∈ l, b = none) → writeOk off l = false)
      ∧ (∀ (i j : Nat) (a b : Byte), l[i]? = some (some a) → l[j]? = some (some b) → (off + i) / 8 ≠ (off + j) / 8 → writeOk off l = false)
      ∧ (bar4 = false → writeOk off l = false → ∃ t, exec (.postedWriteReceive bar4 off l) s = .next t
          ∧ t.hi.barErr = true ∧ t.hi.barErrCnt = min 0xFFFFFFFF (s.hi.barErrCnt + 1) ∧ t.hi.posted = s.hi.posted ∧ Keeps [.hi, .mg] s t))
    ∧ (∀ (s : State) (bar4 : Bool) (off : Nat) (l : List (Option Byte)),
      (s.hi.serving = false ∨ s.hi.linkUp = false ∨ (if bar4 then 2 ^ 24 else 2 ^ 16) < off + l.length) →
      exec (.postedWriteReceive bar4 off l) s = .next s)
    ∧ (∀ (s : State) (off : Nat) (l : List (Option Byte)), frontWrite s ≠ some { bar4 := false, off := off, bytes := l } →
      exec (.registerWrite off l) s = .next s)
    ∧ (∀ (s : State) (off : Nat) (l : List (Option Byte)), frontWrite s = some { bar4 := false, off := off, bytes := l } →
      let u := popBytes plainAt s
      let misses := fun r : Nat => wHits off l r 4 = false
      ∃ t, exec (.registerWrite off l) s = .next t
        ∧ t.hi.mask = BitVec.ofNat 32 (wMerge off l 0x0024 4 u.hi.mask.toNat) &&& 0xFFFFFFFE#32
        ∧ t.hi.cplIrq = BitVec.ofNat 32 (wMerge off l 0x0058 4 u.hi.cplIrq.toNat) &&& 0x803FFFFF#32
        ∧ t.hi.cmdBase = (if u.hi.cmdSize = 0 then BitVec.ofNat 64 (wMerge off l 0x0030 8 u.hi.cmdBase.toNat) else u.hi.cmdBase)
        ∧ t.hi.cplBase = (if u.hi.cplSize = 0 then BitVec.ofNat 64 (wMerge off l 0x0048 8 u.hi.cplBase.toNat) else u.hi.cplBase)
        ∧ ((∀ r ∈ w1cRegs, misses r) → Keeps [.hi, .mg] u t)
        ∧ ((∀ r ∈ w1cRegs ++ [0x0030, 0x0034, 0x0048, 0x004C], misses r) → (off < 0x2000 ∨ 0x2400 < off + l.length) →
          Keeps [.hi] u t ∧ { t.hi with mask := u.hi.mask, cplIrq := u.hi.cplIrq } = u.hi))
    ∧ (∀ (s : State) (v : Nat), v < 2 ^ 32 →
      let l := (leBytes 4 v).map some
      let u := popBytes plainAt s
      frontWrite s = some { bar4 := false, off := 0x0024, bytes := l } →
      ∃ t, exec (.registerWrite 0x0024 l) s = .next t ∧ t.hi.mask.toNat = v / 2 * 2 ∧ Keeps [.hi] u t
        ∧ t.hi.cplIrq = u.hi.cplIrq &&& 0x803FFFFF#32 ∧ { t.hi with mask := u.hi.mask, cplIrq := u.hi.cplIrq } = u.hi)
    ∧ (∀ (s : State) (v : Nat), v < 2 ^ 32 →
      let l := (leBytes 4 v).map some
      let u := popBytes plainAt s
      let old := fun i : Nat => v.testBit i && (clearable u 0x0100).testBit i
      frontWrite s = some { bar4 := false, off := 0x0100, bytes := l } →
      ∃ t, exec (.registerWrite 0x0100 l) s = .next t ∧ Keeps [.tb, .hi] u t
        ∧ t.tb.epochWrapped = (u.tb.epochWrapped && !old 7) ∧ t.tb.refclkLost = (u.tb.refclkLost && !old 3)
        ∧ (∀ q : Quad, t.tb.lockLost[q] = (u.tb.lockLost[q] && !old (16 + q.val)))
        ∧ { t.tb with epochWrapped := u.tb.epochWrapped, refclkLost := u.tb.refclkLost, lockLost := u.tb.lockLost
                      sticky := u.tb.sticky } = u.tb)
    ∧ ∀ s : State,
      let u := (s.hi.mirrorAt.map fun a => toTime (a + 8192000) s).getD s
      ∃ t, exec .mirrorRefresh s = .next t ∧ t.hi.mseq = u.hi.mseq + 2 ∧ Keeps [.hi] u t
        ∧ { t.hi with mirror := u.hi.mirror, mseq := u.hi.mseq, mirrorAt := u.hi.mirrorAt } = u.hi
        ∧ leNat (memRead 0 t.hi.mirror 0x0108 8) = u.tb.epoch.toNat ∧ leNat (memRead 0 t.hi.mirror 0x0110 4) = u.tb.wraps.toNat

/-- R386, R387, R391. Each row acts where the front of the posted-write buffer writes its register with the value named, and changes
nothing else (log 41, DEDUCED). -/
def Obligations.ringsAndDoorbell : Prop :=
  (∀ (s : State) (v : W32),
      (written 0x0038 4 s.hi.cmdSize (· == v.toNat) s = false → exec (.hiCmdSize v) s = .next s)
      ∧ (written 0x003C 4 0 (· == v.toNat) s = false → exec (.hiCmdDb v) s = .next s)
      ∧ (written 0x0044 4 s.hi.cplSize (· == v.toNat) s = false → exec (.hiCplSize v) s = .next s)
      ∧ (written 0x0054 4 0 (· == v.toNat) s = false → exec (.hiCplHead v) s = .next s))
    ∧ (∀ (s : State) (v : W32), written 0x0038 4 s.hi.cmdSize (· == v.toNat) s = true →
      let u := popWrite 0x0038 4 s
      let good := v.toNat ∈ [64, 128, 256, 512, 1024, 2048, 4096]
      (u.hi.cmdSize = 0 → good → ∃ t, exec (.hiCmdSize v) s = .next t ∧ t.hi.cmdSize = v.toNat ∧ t.hi.cmdDb = 0 ∧ t.hi.cmdHead = 0
          ∧ t.hi.history = [] ∧ t.hi.ringErr = u.hi.ringErr ∧ Keeps [.hi, .mg] u t)
      ∧ (u.hi.cmdSize ≠ 0 → v = 0 → ∃ t, exec (.hiCmdSize v) s = .next t ∧ t.hi.cmdSize = 0 ∧ t.hi.fetched = u.hi.fetched
          ∧ t.hi.exec = u.hi.exec ∧ Keeps [.hi, .mg] u t)
      ∧ (v.toNat % 8192 ≠ 0 → (u.hi.cmdSize ≠ 0 ∨ v.toNat % 8192 ∉ [64, 128, 256, 512, 1024, 2048, 4096]) →
          ∃ t, exec (.hiCmdSize v) s = .next t ∧ t.hi.ringErr = true ∧ t.hi.cmdSize = u.hi.cmdSize ∧ t.hi.cmdHead = u.hi.cmdHead
            ∧ Keeps [.hi, .mg] u t))
    ∧ (∀ (s : State) (v : W32), written 0x0044 4 s.hi.cplSize (· == v.toNat) s = true →
      let u := popWrite 0x0044 4 s
      (u.hi.cplSize = 0 → v.toNat ∈ [64, 128, 256, 512, 1024, 2048, 4096] →
        exec (.hiCplSize v) s = .next { u with hi := { u.hi with cplSize := v.toNat, cplTail := 0, cplHead := 0 } })
      ∧ (v = 0 → u.hi.exec = [] → u.hi.cpls = [] → exec (.hiCplSize v) s = .next { u with hi := { u.hi with cplSize := 0 } })
      ∧ ((v = 0 ∧ (u.hi.exec ≠ [] ∨ u.hi.cpls ≠ []) ∨ v.toNat % 8192 ≠ 0 ∧ (u.hi.cplSize ≠ 0
            ∨ v.toNat % 8192 ∉ [64, 128, 256, 512, 1024, 2048, 4096])) →
          ∃ t, exec (.hiCplSize v) s = .next t ∧ t.hi.ringErr = true ∧ t.hi.cplSize = u.hi.cplSize ∧ Keeps [.hi, .mg] u t))
    ∧ (∀ (s : State) (v : W32), written 0x003C 4 0 (· == v.toNat) s = true →
      let u := bar2Drain (popWrite 0x003C 4 s)
      let good := u.hi.cmdSize ≠ 0 ∧ (v - u.hi.cmdHead).toNat ≤ u.hi.cmdSize ∧ (v - u.hi.cmdDb).toNat < 2 ^ 31
      (good → exec (.hiCmdDb v) s = .next { u with hi := { u.hi with cmdDb := v, dbLatch := true } })
      ∧ (¬ good → ∃ t, exec (.hiCmdDb v) s = .next t ∧ t.hi.ringErr = true ∧ t.hi.cmdDb = u.hi.cmdDb ∧ Keeps [.hi, .mg] u t))
    ∧ (∀ (s : State) (v : W32), written 0x0054 4 0 (· == v.toNat) s = true →
      let u := popWrite 0x0054 4 s
      let good := u.hi.cplSize ≠ 0 ∧ (u.hi.cplTail - v).toNat ≤ (u.hi.cplTail - u.hi.cplHead).toNat
      (good → exec (.hiCplHead v) s = .next { u with hi := { u.hi with cplHead := v } })
      ∧ (¬ good → ∃ t, exec (.hiCplHead v) s = .next t ∧ t.hi.ringErr = true ∧ t.hi.cplHead = u.hi.cplHead ∧ Keeps [.hi, .mg] u t))
    ∧ ∀ (s : State) (l : List Byte), l.length = 64 →
      let can := s.bt.fwReady = true ∧ s.hi.cmdSize ≠ 0 ∧ s.hi.cmdHead ≠ s.hi.cmdDb ∧ execCount s < 64 ∧ s.mg.pstate ≠ 4
      (can → ∃ (t : State) (c : CmdEntry), exec (.commandFetch l) s = .next t ∧ t.hi.fetched = s.hi.fetched ++ [c]
          ∧ c.opcode.toNat = fieldAt l 0 2 ∧ c.tag.toNat = fieldAt l 2 2 ∧ c.pay = slice l 16 48
          ∧ (c.indirect = true ↔ (fieldAt l 4 1).testBit 0 = true) ∧ t.hi.cmdHead = s.hi.cmdHead + 1 ∧ t.mg.awake = true
          ∧ t.hi.exec = s.hi.exec ∧ t.hi.cpls = s.hi.cpls ∧ Keeps [.hi, .mg] s t)
      ∧ (¬ can → exec (.commandFetch l) s = .next s)

/-- R390 to R393, R397; that the settings take effect as the entry is written is R391 as log 36 reads it (DEDUCED); the last clause
is the model's reading of a row that names no executing command (log 1). -/
def Obligations.commandsStartAndComplete : Prop :=
  (∀ (s : State) (c : CmdEntry) (r : List CmdEntry) (src : HostRead), s.hi.fetched = c :: r → mustWait s c = false →
      (tagBusy s c.tag = true → ∃ t x, exec (.commandStart src) s = .next t ∧ t.hi.cpls = s.hi.cpls ++ [x] ∧ x.tag = c.tag
          ∧ x.status = 7 ∧ t.hi.exec = s.hi.exec ∧ t.hi.fetched = r ∧ Keeps [.hi, .mg] s t)
      ∧ (tagBusy s c.tag = false → ∀ h, replayOf s c = some h → ∃ t x, exec (.commandStart src) s = .next t
          ∧ t.hi.cpls = s.hi.cpls ++ [x] ∧ x.replay = true ∧ x.tag = h.tag ∧ x.status = h.status ∧ x.data = h.data
          ∧ t.hi.exec = s.hi.exec ∧ t.hi.fetched = r ∧ Keeps [.hi] s t)
      ∧ (tagBusy s c.tag = false → replayOf s c = none →
        (payKind c.opcode.toNat = none → ∃ t x, exec (.commandStart src) s = .next t ∧ t.hi.cpls = s.hi.cpls ++ [x] ∧ x.tag = c.tag
            ∧ x.status = 1 ∧ t.hi.fetched = r ∧ Keeps [.hi] s t)
        ∧ (payKind c.opcode.toNat = some .inl → headerBad .inl c = false → modeRefusal s c = none →
          ∃ (t : State) (e : Exec), exec (.commandStart src) s = .next t ∧ t.hi.exec = s.hi.exec ++ [e] ∧ e.entry = c ∧ e.idle = !running s
            ∧ t.hi.cpls = s.hi.cpls ∧ t.hi.fetched = r ∧ Keeps [.hi] s t)))
    ∧ (∀ (s : State) (c : CmdEntry) (r : List CmdEntry) (src : HostRead), s.hi.fetched = c :: r → mustWait s c = true →
        exec (.commandStart src) s = .next s)
    ∧ (∀ (s : State) (tag : W16) (e : Exec),
      (executing 0x0E01 tag s = some e → ∃ t, exec (.hiNop tag) s = .next t ∧ Answered e 0 [] s t ∧ Keeps [.hi] s t)
      ∧ (executing 0x0E02 tag s = some e → ∃ t data, exec (.hiInfo tag) s = .next t ∧ Answered e 0 data s t ∧ Keeps [.hi] s t
          ∧ data.length = 16 ∧ fieldAt data 0 2 = s.bt.fwVer.toNat / 2 ^ 32 % 2 ^ 16 ∧ fieldAt data 2 2 = s.bt.fwVer.toNat / 2 ^ 16 % 2 ^ 16
          ∧ fieldAt data 4 2 = s.bt.fwVer.toNat % 2 ^ 16 ∧ fieldAt data 6 1 = s.bt.runSlot % 256 ∧ fieldAt data 8 8 = s.bt.serialReg.toNat))
    ∧ (∀ (s : State) (c : Cpl) (r : List Cpl), s.hi.cpls = c :: r → Memory.wf 0 s.hostMem = true →
      let n := s.hi.cplTail.toNat
      let place := s.hi.cplBase.toNat + 32 * (n % s.hi.cplSize)
      let bytes := cplBytes c (decide (n / s.hi.cplSize % 2 = 0)) s.hi.cmdHead
      bytes.length = 32 ∧ fieldAt bytes 0 2 = c.tag.toNat ∧ fieldAt bytes 2 2 = c.status.toNat ∧ fieldAt bytes 8 4 = s.hi.cmdHead.toNat
      ∧ (cplRoom s = true → s.mg.smbWait = none → ∃ t, exec .completionWrite s = .next t ∧ memRead 0 t.hostMem place 32 = bytes
          ∧ HostSameOutside place 32 s t ∧ t.hi.cpls = r ∧ t.hi.cplTail = s.hi.cplTail + 1
          ∧ (c.wasExec = true → ∀ e ∈ t.hi.exec, e.entry.tag ≠ c.tag) ∧ (∀ e ∈ t.hi.exec, e ∈ s.hi.exec)
          ∧ Keeps [.hi, .hostMem, .mg, .cl, .sq, .cs, .bt, .tg] s t
          ∧ (c.opcode ∉ [0x0901#16, 0x0702#16, 0x0701#16, 0x0A01#16, 0x1006#16] ∨ c.wasExec = false ∨ c.status ≠ 0 →
              Keeps [.hi, .hostMem, .mg] s t)
          ∧ ∀ e, c.wasExec = true → c.status = 0 → s.hi.exec.find? (fun x => x.entry.tag == c.tag) = some e →
            (c.opcode = 0x0901 → t.cl.mode.toNat = payF e 0 1 % 4 ∧ t.cl.nLimit = payF e 4 4 ∧ t.cl.sofThresh = payF e 8 8 ∧ t.sq = s.sq)
            ∧ (c.opcode = 0x0702 → t.sq = { s.sq with svcContain := payF e 0 1 == 1 } ∧ t.cl = s.cl)
            ∧ (c.opcode = 0x0701 → t.sq.loaded = true ∧ t.sq.imageId.toNat = fieldAt e.ind 8 8 ∧ t.sq.imgCrc.toNat = fieldAt e.ind 24 4
              ∧ t.sq.words = fieldAt e.ind 16 4 ∧ t.cl = s.cl)
            ∧ (c.opcode = 0x0A01 → s.cs.open_ = true → t.cs = { s.cs with openAt := some (repTime s (ext s)).toNat }
              ∧ Keeps [.hi, .hostMem, .mg, .cs] s t)
            ∧ (c.opcode = 0x1006 → t.bt.cal = (if fieldAt e.ind 6 2 = 5 then 1 else 2) ∧ Keeps [.hi, .hostMem, .mg, .bt, .tg] s t))
      ∧ (cplRoom s = false → s.mg.smbWait = none → exec .completionWrite s = .next s))
    ∧ (∀ s : State, s.hi.cplIrq.getLsbD 31 = true → s.hi.cplIrq.toNat % 256 ≠ 0 → s.hi.unsig ≠ 0 →
      let u := toTime (s.hi.unsigAt + 8192000 * (s.hi.cplIrq.toNat % 256)) s
      let v := s.hi.cplIrq.toNat / 2 ^ 16 % 64
      ∃ t, exec .completionIrqTimer s = .next t ∧ t.hi.unsig = 0 ∧ Keeps [.hi] u t
        ∧ (u.hi.msixMask.getLsbD v = false → t.hi.sent = u.hi.sent ++ [v])
        ∧ (u.hi.msixMask.getLsbD v = true → t.hi.sent = u.hi.sent ∧ t.hi.pba = u.hi.pba ||| (1#64 <<< v)))
    ∧ ∀ (s : State) (tag : W16) (src : HostRead) (dr : DramFind) (dev : List Int),
      let rows : List (Nat × Instr) := [
        (0x0401, .pfConfig tag), (0x0402, .pfUnpark tag), (0x0403, .pfPpmuMeas tag), (0x0501, .ptBind tag src dr)
        , (0x0502, .ptRefresh tag src dr), (0x0601, .pmConfig tag), (0x0602, .pmRegion tag), (0x0603, .pmWfclr tag)
        , (0x0604, .pmVerify tag src dr), (0x0701, .sqLoad tag src dr), (0x0702, .sqConfig tag), (0x0901, .clConfig tag)
        , (0x0A01, .csOpen tag), (0x0A02, .csClose { tag := tag }), (0x0B01, .tiConfig tag), (0x0B02, .tiClear tag), (0x0B03, .tiRead tag)
        , (0x0C01, .mxConfig tag), (0x0C02, .mxSegtab tag), (0x0C03, .mxLoad tag src dr), (0x0C04, .mxStart tag), (0x0C05, .mxJump tag)
        , (0x0C06, .mxStop tag), (0x0D01, .ensForm tag), (0x0D02, .ensBreak tag), (0x0D03, .ensExpect tag), (0x0D04, .ensTmark tag)
        , (0x0E01, .hiNop tag), (0x0E02, .hiInfo tag), (0x0F01, .pwrSet tag), (0x0F02, .mgLogRead tag), (0x0F03, .mgSensors tag)
        , (0x0F04, .mgRelease tag), (0x0F05, .mgDbgUnlockChallenge tag), (0x0F05, .mgDbgUnlockToken tag), (0x1001, .fwStage tag true)
        , (0x1002, .fwCommit tag true), (0x1003, .fwActivate tag true), (0x1004, .fwInfo tag), (0x1005, .calSave tag)
        , (0x1006, .calLoad tag src true), (0x1007, .calCheck tag dev)]
      ∀ x ∈ rows, executing x.1 tag s = none → exec x.2 s = .next s

/-- R401 to R403, R21, R414, R399, R421, R422, R424. That a core that a wake finds with nothing to do sleeps again at once is log 17
(DEDUCED); when a reading is a further cause, that a bank with VIO_CODE 0 lies outside its window, and which rails a release looks at, is
log 19 (DEDUCED); each land has a keeper of its own. -/
def Obligations.sensorsAndTrips : Prop :=
  (∀ (s : State) (r : W16),
      let k := s.mg.slot
      let u := toTime ((s.mg.frame.toNat * 64 + k + 1) * 4000000000) s
      (k < 63 → ∃ t, exec (.sensorSlotEnd r) s = .next t ∧ t.mg.slot = k + 1 ∧ t.mg.temps[(Fin.ofNat 64 k)] = r ∧ t.mg.frame = s.mg.frame)
      ∧ (k = 63 → ∃ t, exec (.sensorSlotEnd r) s = .next t ∧ t.mg.slot = 0 ∧ t.mg.frame = s.mg.frame + 1
          ∧ (∀ i, i < 32 → (readingAt s i).toInt ≤ t.mg.tj.toInt) ∧ ∃ i, i < 32 ∧ t.mg.tj = readingAt s i)
      ∧ (k < 32 → s.mg.thermWarn = false →
        (r.toInt < 1680 → exec (.sensorSlotEnd r) s = .next { u with mg := { u.mg with
            temps := vset u.mg.temps (Fin.ofNat 64 k) r, slot := k + 1 } })
        ∧ (1680 ≤ r.toInt → ∃ t, exec (.sensorSlotEnd r) s = .next t ∧ t.mg.thermWarn = true ∧ t.mg.contained = u.mg.contained
            ∧ Keeps [.hi, .mg] u t))
      ∧ (32 ≤ k → k < 36 → 1680 ≤ r.toInt → ∃ t, exec (.sensorSlotEnd r) s = .next t ∧ (u.mg.contained = false → t.mg.contained = true ∧ Parked t))
      ∧ ∀ j : Fin 24, k = 36 + j.val → j.val < 4 → (r.toNat < 713 ∨ 788 ≤ r.toNat) →
        (s.mg.outRun[j] = 0 → exec (.sensorSlotEnd r) s = .next { u with mg := { u.mg with
            temps := vset u.mg.temps (Fin.ofNat 64 k) r, slot := k + 1, outRun := vset u.mg.outRun j 1 } })
        ∧ (s.mg.outRun[j] = 1 → s.mg.railOut[j] = false → s.mg.pstate ≤ 2 →
          ∃ t, exec (.sensorSlotEnd r) s = .next t ∧ t.mg.railErr = true ∧ t.mg.railOut[j] = true ∧ t.mg.contained = true
            ∧ t.mg.railNamed[j] = true))
    ∧ (∀ (s : State) (r : W16) (b : Bank), s.mg.slot = 48 + b.val → bankInRange r.toNat = false → s.pf.bankPark[b] = false →
      ∃ t, exec (.sensorSlotEnd r) s = .next t ∧ t.pf.bankPark[b] = true
        ∧ ∀ p : Pin, bankOf p = b → t.pins[p].enabled = false ∧ t.pins[p].en = false)
    ∧ (∀ (s : State) (sensor : Fin 32),
      (s.mg.contained = false → ∃ t, exec (.thermalTrip115 sensor) s = .next t ∧ t.mg.contained = true ∧ Parked t
          ∧ t.mg.contain.toNat / 2 ^ 56 = 2 ^ 7 + 0x0C ∧ t.mg.fastStop = s.mg.fastStop)
      ∧ ∃ t, exec (.thermalTrip125 sensor) s = .next t ∧ t.mg.contained = true ∧ t.mg.fastStop = true ∧ t.mg.pstate = s.mg.pstate
          ∧ ∀ q : Quad, t.tb.pll[q] = .off ∧ t.tb.guardOpen[q] = false)
    ∧ (∀ s : State, exec (.coreWake .smbus) s = .next { s with mg := { s.mg with awake := true, smbWork := true } }
      ∧ ∀ w : Wake, w ≠ .smbus → exec (.coreWake w) s = .next { s with mg := { s.mg with awake := coreWork s } })
    ∧ (∀ (s : State) (v : W32),
      let u := popWrite 0x0828 4 s
      (written 0x0828 4 s.mg.ctrl.toNat (· == v.toNat) s = false → exec (.mgCtrlWrite v) s = .next s)
      ∧ (written 0x0828 4 s.mg.ctrl.toNat (· == v.toNat) s = true →
        ∃ t, exec (.mgCtrlWrite v) s = .next t ∧ t.mg.ctrl = v.setWidth 8 &&& 0xE7 ∧ Keeps [.mg] u t
          ∧ ∀ i : Fin 3,
            (t.mg.ctrl.getLsbD i.val = s.mg.ctrl.getLsbD i.val → t.mg.muxOld[i] = s.mg.muxOld[i] ∧ t.mg.muxAt[i] = s.mg.muxAt[i])
            ∧ (t.mg.ctrl.getLsbD i.val ≠ s.mg.ctrl.getLsbD i.val →
                (s.mg.muxOld[i] = none → t.mg.muxOld[i] = some s.mg.ctrl)
                ∧ s.tb.now + 500000000 < t.mg.muxAt[i] ∧ t.mg.muxAt[i] ≤ s.tb.now + 750000000
                ∧ (i.val = 2 → alertLand t = alertLand u)
                ∧ ∀ k : Fin 2, k.val = i.val → debugLand t k = debugLand u k)))
    ∧ (∀ (s : State) (i : Fin 3), s.mg.muxOld[i] ≠ none → (∀ j : Fin 3, s.mg.muxOld[j] ≠ none → s.mg.muxAt[i] ≤ s.mg.muxAt[j]) →
      let u := toTime s.mg.muxAt[i] s
      ∃ t, exec .muxKeeperRelease s = .next t ∧ Keeps [.mg] u t ∧ { t.mg with muxOld := u.mg.muxOld } = u.mg
        ∧ ∀ j : Fin 3, t.mg.muxOld[j] = if s.mg.muxAt[j] ≤ u.tb.now then none else s.mg.muxOld[j])
    ∧ ∀ (s : State) (tag : W16) (e : Exec), executing 0x0F03 tag s = some e → payZero e 8 40 = true → Memory.wf 0 s.hostMem = true →
      let a := payF e 0 8
      (a % 8 = 0 → ∃ t, exec (.mgSensors tag) s = .next t ∧ Answered e 0 [] s t ∧ HostSameOutside a 256 s t ∧ Keeps [.hi, .hostMem] s t
          ∧ (∀ i, i < 64 → leNat (memRead 0 t.hostMem (a + 2 * i) 2) = (readingAt s i).toNat)
          ∧ leNat (memRead 0 t.hostMem (a + 136) 4) = s.mg.frame.toNat)
      ∧ (a % 8 ≠ 0 → ∃ t, exec (.mgSensors tag) s = .next t ∧ Answered e 2 [] s t ∧ Keeps [.hi] s t)

/-- R421: what every event record does to the land, and the release. -/
def Obligations.alertLandFollowsRecords : Prop :=
  (∀ (s : State) (code : Nat) (items : List Item),
      (issue code items s).mg.alert = (s.mg.alert || (decide (2 ≤ severity code) && decide ((evQueue (severity code) s.mg).length < 64))))
    ∧ ∀ s : State, exec .smbAlertResponse s = .next { s with mg := { s.mg with alert := false } }

/-- R413, for every further cause; a thermal trip is one (the count saturates at 255, Table 16.13). -/
def Obligations.furtherCauseIsCounted : Prop :=
  (∀ (s : State) (cause : Nat), s.mg.contained = true →
      let t := contain cause s
      t.mg.contained = true ∧ t.mg.contain.toNat / 2 ^ 56 = s.mg.contain.toNat / 2 ^ 56
        ∧ t.mg.contain.toNat % 2 ^ 48 = s.mg.contain.toNat % 2 ^ 48
        ∧ t.mg.contain.toNat / 2 ^ 48 % 256 = min 255 (s.mg.contain.toNat / 2 ^ 48 % 256 + 1)
        ∧ ((evQueue 3 s.mg).length < 64 → ∃ r, evQueue 3 t.mg = evQueue 3 s.mg ++ [r] ∧ r.code = 0x0F01 ∧ r.sev = 3)
        ∧ (s.mg.fatal.isSome = true → s.mg.second = none → s.mg.double = false → t.mg.second = some 0x0F01)
        ∧ Keeps [.hi, .mg] s t)
    ∧ ∀ (s : State) (sensor : Fin 32), exec (.thermalTrip115 sensor) s = .next (contain 0x0C s)

/-- R411, R412 for every cause. -/
def Obligations.containmentMakesSafe : Prop :=
  ∀ (s : State) (cause : Nat), s.mg.contained = false → cause < 128 →
    let t := contain cause s
    t.mg.contained = true ∧ Parked t ∧ (∀ g : Glove, t.ti.units[g].gopen = false)
      ∧ t.mg.contain.toNat = 2 ^ 63 + cause * 2 ^ 56 + s.tb.epoch.toNat % 2 ^ 48
      ∧ (running s = true → t.sq.state = .draining ∧ t.sq.stopCause = 5 ∧ t.sq.stopped = true ∧ t.sq.proc = none
          ∧ t.sq.svcQueue = [] ∧ t.sq.held = [] ∧ t.sp.open_ = [] ∧ t.sp.toOpen = [] ∧ ∀ v ∈ t.sp.inflight, v.dead = true)
      ∧ (running s = false → t.sq = s.sq ∧ t.sp = s.sp)
      ∧ t.sq.store = s.sq.store ∧ t.pt = s.pt ∧ t.pm.dram = s.pm.dram ∧ t.bt = s.bt ∧ t.tb = s.tb ∧ t.pending = s.pending

/-- R404 to R410, R415, R424. -/
def Obligations.eventLogKept : Prop :=
  (∀ (s : State) (code : Nat) (items : List Item),
      let t := issue code items s
      let q := evQueue (severity code) s.mg
      Keeps [.hi, .mg] s t
        ∧ (q.length < 64 → t.mg.seq = s.mg.seq + 1 ∧ t.mg.lost = s.mg.lost ∧ ∃ r, evQueue (severity code) t.mg = q ++ [r] ∧ r.code = code
            ∧ r.seq = s.mg.seq ∧ r.sev = severity code ∧ r.run = running s ∧ r.epoch = s.tb.epoch ∧ r.wrap = s.tb.wraps ∧ r.data = items)
        ∧ (64 ≤ q.length → s.mg.lost[(Fin.ofNat 4 (severity code))] ≠ 0 → t.mg.seq = s.mg.seq + 1 ∧ t.mg.queues = s.mg.queues
            ∧ t.mg.lost[(Fin.ofNat 4 (severity code))] = min 0xFFFF (s.mg.lost[(Fin.ofNat 4 (severity code))] + 1)))
    ∧ (∀ (s : State) (i : Fin 4) (r : EventRec) (l : List EventRec), s.mg.queues[i] = r :: l → (∀ j : Fin 4, i < j → s.mg.queues[j] = []) →
      s.mg.log.length < 4096 → s.mg.persisted < 256 →
      (r.sev ≤ 1 → ∃ t, exec .eventLogDrain s = .next t ∧ t.mg.queues = vset s.mg.queues i l ∧ t.mg.log = s.mg.log ++ [r]
          ∧ t.mg.toPersist = s.mg.toPersist ∧ Keeps [.mg] s t)
      ∧ (r.sev = 2 → ∃ t, exec .eventLogDrain s = .next t ∧ t.mg.queues = vset s.mg.queues i l ∧ t.mg.log = s.mg.log ++ [r]
          ∧ t.mg.toPersist = s.mg.toPersist ++ [r] ∧ Keeps [.mg] s t)
      ∧ (r.sev = 3 → r.inDouble = true → ∃ t, exec .eventLogDrain s = .next t ∧ t.mg.queues = vset s.mg.queues i l ∧ t.mg.log = s.mg.log ++ [r]
          ∧ t.mg.toPersist = s.mg.toPersist ∧ t.mg.fatal = s.mg.fatal ∧ t.mg.fatalTodo = s.mg.fatalTodo ∧ Keeps [.mg] s t)
      ∧ (r.sev = 3 → r.inDouble = false → s.mg.double = true → ∃ t, exec .eventLogDrain s = .next t ∧ t.mg.log = s.mg.log ++ [r]
          ∧ t.mg.toPersist = s.mg.toPersist ++ [r] ∧ t.mg.fatal = s.mg.fatal ∧ t.mg.fatalTodo = s.mg.fatalTodo ++ [r] ∧ Keeps [.mg] s t)
      ∧ (r.sev = 3 → r.inDouble = false → s.mg.fatal = none → s.mg.fatalTodo = [] → s.mg.double = false → ∃ t, exec .eventLogDrain s = .next t
          ∧ t.mg.queues = vset s.mg.queues i l ∧ t.mg.log = s.mg.log ++ [r] ∧ t.mg.toPersist = s.mg.toPersist ++ [r]
          ∧ t.mg.fatal = some { event := r, copied := false, snapped := false } ∧ Keeps [.mg] s t))
    ∧ (∀ (s : State) (r : EventRec) (l : List EventRec), s.mg.toPersist = r :: l → s.mg.persisted < 256 → s.mg.fatal = none →
      Memory.wf 0xFF s.bt.flash = true →
      let a := 0x020000 + 64 * s.mg.persisted
      (∃ t, exec (.persistCopy true) s = .next t ∧ flashRead t a 64 = eventBytes { r with persist := true }
          ∧ (∀ x, (x < a ∨ a + 64 ≤ x) → memGet 0xFF t.bt.flash x = memGet 0xFF s.bt.flash x)
          ∧ t.mg.persisted = s.mg.persisted + 1 ∧ t.mg.toPersist = l ∧ Keeps [.bt, .mg] s t)
      ∧ ∃ t, exec (.persistCopy false) s = .next t ∧ t.bt = { s.bt with flashErr := true, fresh := t.bt.fresh } ∧ t.mg.toPersist = r :: l
          ∧ t.mg.persisted = s.mg.persisted ∧ Keeps [.bt, .hi, .mg] s t)
    ∧ (∀ (s : State) (f : Fatal), s.mg.fatal = some f → f.snapped = false →
      (f.copied = false → ∃ t, exec .diagSnapshot s = .next t ∧ t.mg.dseq = s.mg.dseq + 2 ∧ t.mg.fatal = some { f with snapped := true }
          ∧ t.mg.double = s.mg.double ∧ Keeps [.mg] s t)
      ∧ (f.copied = true → s.mg.second = none → s.mg.fatalTodo = [] → ∃ t, exec .diagSnapshot s = .next t ∧ t.mg.dseq = s.mg.dseq + 2
          ∧ t.mg.fatal = none ∧ t.mg.double = s.mg.double ∧ Keeps [.mg] s t)
      ∧ ∀ c, f.copied = true → s.mg.second = some c → ∃ t, exec .diagSnapshot s = .next t ∧ t.mg.double = true ∧ t.mg.fatal = none
          ∧ t.mg.fatalTodo = s.mg.fatalTodo ∧ t.mg.second = none)
    ∧ (∀ (s : State) (tag : W16) (e : Exec), executing 0x0F02 tag s = some e → payF e 0 8 % 64 = 0 → payF e 8 1 ≤ 1 → payF e 9 1 = 0 →
      1 ≤ payF e 10 2 → payF e 10 2 ≤ 4096 → payZero e 12 4 = true → payZero e 24 24 = true → Memory.wf 0 s.hostMem = true →
      ∃ t data, exec (.mgLogRead tag) s = .next t ∧ Answered e 0 data s t ∧ fieldAt data 0 4 ≤ payF e 10 2
        ∧ HostSameOutside (payF e 0 8) (64 * fieldAt data 0 4) s t ∧ Keeps [.hi, .hostMem] s t)
    ∧ ∀ (s : State) (tag : W16) (e : Exec), executing 0x0F04 tag s = some e →
      (e.idle = false → ∃ t, exec (.mgRelease tag) s = .next t ∧ Answered e 5 [] s t ∧ Keeps [.hi] s t)
      ∧ (e.idle = true → (stillHot s || railStillOut s || s.en.state == .discord) = true → ∃ t, exec (.mgRelease tag) s = .next t ∧ Answered e 6 [] s t ∧ Keeps [.hi] s t)
      ∧ (e.idle = true → (stillHot s || railStillOut s) = false → s.en.state ≠ .discord →
        ∃ t, exec (.mgRelease tag) s = .next t ∧ Replied e 0 [] s t ∧ t.mg.contained = false ∧ t.mg.double = false ∧ Keeps [.hi, .mg] s t)

/-- R423, R420, R418, R434. -/
def Obligations.debugAndSmbus : Prop :=
  (∀ (s : State) (tag : W16) (e : Exec), executing 0x0F05 tag s = some e →
      (e.entry.indirect = false → payZero e 0 48 = true → ∃ t data, exec (.mgDbgUnlockChallenge tag) s = .next t ∧ Answered e 0 data s t
          ∧ data.length = 16 ∧ t.mg.challenge = some (BitVec.ofNat 128 (leNat data)) ∧ t.freeCtr = s.freeCtr + 16 ∧ t.mg.dbg = s.mg.dbg
          ∧ Keeps [.hi, .mg, .freeCtr] s t)
      ∧ (e.entry.indirect = true → ∃ t, exec (.mgDbgUnlockToken tag) s = .next t
          ∧ Replied e (if tokenOk e.ind s then 0 else 0xE) [] s t ∧ t.mg.dbg = (s.mg.dbg || tokenOk e.ind s) ∧ t.mg.challenge = none
          ∧ Keeps [.hi, .mg] s t))
    ∧ (∀ s : State,
      (∃ t, exec .smbReadStatus s = .next t ∧ t.mg.smbReply.length = 9 ∧ t.mg.smbReply.head? = some 0
          ∧ fieldAt t.mg.smbReply 5 4 = mgTemp s ∧ fieldAt t.mg.smbReply 1 4 / 2 ^ 20 % 16 = pstate s % 16
          ∧ (fieldAt t.mg.smbReply 1 4).testBit 15 = s.mg.contained ∧ Keeps [.mg] s t)
      ∧ (∃ t, exec .smbReadSensors s = .next t ∧ t.mg.smbReply.length = 35 ∧ t.mg.smbReply.head? = some 0 ∧ Keeps [.mg] s t
          ∧ ∀ i, i < 16 → fieldAt t.mg.smbReply (1 + 2 * i) 2 = (readingAt s (32 + i)).toNat)
      ∧ (∀ r, lastError s = some r → ∃ t, exec .smbReadRecord s = .next t ∧ t.mg.smbReply = 0 :: eventBytes r ∧ Keeps [.mg] s t)
      ∧ (lastError s = none → ∃ t, exec .smbReadRecord s = .next t ∧ t.mg.smbReply.length = 65 ∧ t.freeCtr = s.freeCtr + 64
          ∧ Keeps [.mg, .freeCtr] s t))
    ∧ ∀ (s : State) (n : Byte), s.mg.pwr = none → (∀ e ∈ s.hi.exec, e.entry.opcode ≠ 0x0F01#16) →
      ((n.toNat = 0 ∨ 4 < n.toNat) → ∃ t, exec (.smbPwrSet n) s = .next t ∧ t.mg.smbReply = [2] ∧ t.mg.pwr = none ∧ Keeps [.mg] s t)
      ∧ (1 ≤ n.toNat → n.toNat ≤ 4 → running s = true → ∃ t, exec (.smbPwrSet n) s = .next t ∧ t.mg.smbReply = [5] ∧ t.mg.pwr = none
          ∧ Keeps [.mg] s t)
      ∧ (1 ≤ n.toNat → n.toNat ≤ 4 → running s = false → s.bt.recovery = true →
          ∃ t, exec (.smbPwrSet n) s = .next t ∧ t.mg.smbReply = [6] ∧ t.mg.pwr = none ∧ t.mg.pstate = s.mg.pstate ∧ Keeps [.mg] s t)
      ∧ (1 ≤ n.toNat → n.toNat ≤ 4 → running s = false → s.bt.recovery = false → (formed s = true → n.toNat = 1) → (n.toNat = 1 → p1Blocked s = false) →
        (execCount s ≠ 0 → ∃ t, exec (.smbPwrSet n) s = .next t ∧ t.mg.smbWait = some n.toNat ∧ t.mg.smbReply = s.mg.smbReply
          ∧ t.mg.pwr = none ∧ Keeps [.mg] s t)
        ∧ (execCount s = 0 → n.toNat = s.mg.pstate → ∃ t, exec (.smbPwrSet n) s = .next t ∧ t.mg.smbReply = [0] ∧ t.mg.pwr = none
          ∧ Keeps [.mg] s t)
        ∧ (execCount s = 0 → n.toNat ≠ s.mg.pstate →
          ∃ t, exec (.smbPwrSet n) s = .next t ∧ t.mg.smbReply = [0] ∧ t.mg.pwr = some { target := n.toNat, tag := none }
            ∧ (s.mg.pstate < n.toNat → t.pf.parked = true) ∧ t.mg.pstate = s.mg.pstate))

/-- R437 to R440. -/
def Obligations.firmwareUpdates : Prop :=
  (∀ (s : State) (tag : W16) (e : Exec), executing 0x1001 tag s = some e → fwTurn e.entry.tag s = true →
      let k := payF e 0 1
      let off := payF e 4 4
      let n := payF e 8 4
      let a := (if k = 0 then 0x030000 else 0x1F0000) + off
      k ≤ 1 → off % 4096 = 0 → 1 ≤ n → n ≤ 1048560 → indLen e.entry = 16 + n → e.ind.length = 16 + n → payZero e 1 3 = true →
      payZero e 12 4 = true → off + n ≤ 1835008 → Memory.wf 0xFF s.bt.flash = true →
      (slotRuns s k = true → ∀ ok, ∃ t, exec (.fwStage tag ok) s = .next t ∧ Answered e 0x10 [] s t ∧ Keeps [.hi] s t)
      ∧ (slotRuns s k = false →
        (∃ t, exec (.fwStage tag true) s = .next t ∧ Answered e 0 [] s t ∧ flashRead t a n = slice e.ind 16 n
            ∧ (∀ x, 0x2000 ≤ x → (x < a ∨ a + (n + 4095) / 4096 * 4096 ≤ x) → memGet 0xFF t.bt.flash x = memGet 0xFF s.bt.flash x)
            ∧ t.bt.fuses = s.bt.fuses ∧ t.bt.runSlot = s.bt.runSlot ∧ Keeps [.bt, .hi] s t)
        ∧ ∃ t, exec (.fwStage tag false) s = .next t ∧ Replied e 9 [] s t ∧ t.bt.flashErr = true ∧ t.bt.fuses = s.bt.fuses
            ∧ Keeps [.bt, .hi, .mg, .freeCtr] s t))
    ∧ (∀ (s : State) (tag : W16) (e : Exec), executing 0x1002 tag s = some e → fwTurn e.entry.tag s = true →
      let k := payF e 0 1
      k ≤ 1 → payZero e 1 47 = true → slotRuns s k = false →
      let st := if fwHeaderOk (fwHeader s k) = false then 2 else if fwSigned s k = false then 0xE
        else if fwRollback s k < s.bt.fuses then 0xF else if fieldAt (fwHeader s k) 8 2 < 3 then 0xC else 0
      ∃ t, exec (.fwCommit tag true) s = .next t ∧ Replied e st [] s t ∧ (st ≠ 0 → Keeps [.hi] s t) ∧ Keeps [.bt, .hi, .mg] s t
        ∧ t.bt.fuses = s.bt.fuses ∧ t.bt.runSlot = s.bt.runSlot
        ∧ (st = 0 → ∃ t, exec (.fwCommit tag false) s = .next t ∧ Replied e 9 [] s t ∧ t.bt.flashErr = true ∧ t.bt.fuses = s.bt.fuses
            ∧ t.bt.runSlot = s.bt.runSlot ∧ Keeps [.bt, .hi, .mg] s t))
    ∧ (∀ (s : State) (tag : W16) (e : Exec), executing 0x1003 tag s = some e → fwTurn e.entry.tag s = true →
      let k := payF e 0 1
      k ≤ 1 → payZero e 1 47 = true →
      (slotRuns s k = true → s.bt.trial = true → ∃ t, exec (.fwActivate tag true) s = .next t ∧ Replied e 0 [] s t
          ∧ t.bt.trial = false ∧ t.bt.fuses = max s.bt.fuses (fwRollback s k) ∧ t.bt.runSlot = s.bt.runSlot ∧ Keeps [.bt, .hi, .mg] s t)
      ∧ (slotRuns s k = false → bitAt (bootRec s).flags k = true → ∃ t, exec (.fwActivate tag true) s = .next t ∧ Replied e 0 [] s t
          ∧ t.bt.next = k ∧ t.bt.fuses = s.bt.fuses ∧ t.bt.runSlot = s.bt.runSlot ∧ Keeps [.bt, .hi, .mg] s t)
      ∧ ((slotRuns s k = true ∧ s.bt.trial = true ∨ slotRuns s k = false ∧ bitAt (bootRec s).flags k = true) →
          ∃ t, exec (.fwActivate tag false) s = .next t ∧ Replied e 9 [] s t ∧ t.bt.flashErr = true ∧ t.bt.fuses = s.bt.fuses
            ∧ t.bt.trial = s.bt.trial ∧ t.bt.runSlot = s.bt.runSlot ∧ Keeps [.bt, .hi, .mg] s t)
      ∧ (slotRuns s k = false → bitAt (bootRec s).flags k = false → ∀ ok, ∃ t, exec (.fwActivate tag ok) s = .next t ∧ Answered e 6 [] s t
          ∧ Keeps [.hi] s t))
    ∧ ∀ (s : State) (tag : W16) (e : Exec), executing 0x1004 tag s = some e →
      ∃ t data, exec (.fwInfo tag) s = .next t ∧ Answered e 0 data s t ∧ data.length = 16 ∧ fieldAt data 13 1 = s.bt.fuses % 256
        ∧ fieldAt data 0 2 = fwVersion s 0 / 2 ^ 32 % 2 ^ 16 ∧ fieldAt data 6 2 = fwVersion s 1 / 2 ^ 32 % 2 ^ 16 ∧ Keeps [.hi] s t

/-- R444 to R446, R19; the date and voltage in the saved header are free (log 26); CAL_CHECK measures when all its ADCs are free for it
(log 31); that an image comes into force with its completion entry is log 36 (DEDUCED). -/
def Obligations.calibrationCommands : Prop :=
  (∀ (s : State) (tag : W16) (e : Exec), executing 0x1005 tag s = some e → payZero e 8 40 = true → Memory.wf 0 s.hostMem = true →
      let a := payF e 0 8
      (a % 64 = 0 → ∃ t data, exec (.calSave tag) s = .next t ∧ Answered e 0 data s t ∧ fieldAt data 0 4 = 1230400
          ∧ HostSameOutside a 1230400 s t ∧ leNat (memRead 0 t.hostMem a 4) = 0x4B59434C ∧ leNat (memRead 0 t.hostMem (a + 6) 2) = 6
          ∧ memRead 0 t.hostMem (a + 512) 1229888 = trimBody s ∧ Keeps [.hi, .hostMem, .freeCtr] s t)
      ∧ (a % 64 ≠ 0 → ∃ t, exec (.calSave tag) s = .next t ∧ Answered e 2 [] s t ∧ Keeps [.hi] s t))
    ∧ (∀ (s : State) (tag : W16) (e : Exec) (src : HostRead) (ok : Bool), executing 0x1006 tag s = some e → payF e 8 1 = 0 →
      payZero e 9 3 = true → payZero e 16 32 = true → payF e 12 4 ≤ 3145728 → 512 ≤ payF e 12 4 → src.fail = none →
      let a := payF e 0 8
      let len := payF e 12 4
      let h := hostBytes src a 512
      let body := hostBytes src (a + 512) (len - 512)
      (∀ st, calRefusal h body len s.bt.serial = some st → ∃ t, exec (.calLoad tag src ok) s = .next t ∧ Answered e st [] s t ∧ Keeps [.hi] s t)
      ∧ (calRefusal h body len s.bt.serial = none → ∃ t, exec (.calLoad tag src ok) s = .next t
          ∧ t.hi.cpls = s.hi.cpls ++ [cplOf e 0 []] ∧ Keeps [.hi] s t
          ∧ ∀ x ∈ t.hi.exec, x.entry.tag = tag → x.ind = h ++ body))
    ∧ (∀ (s : State) (e : Exec) (more : List Cpl), s.hi.cpls = cplOf e 0 [] :: more → cplRoom s = true → s.mg.smbWait = none →
      e.entry.opcode = 0x1006 → s.hi.exec.find? (fun x => x.entry.tag == e.entry.tag) = some e →
      ∃ t, exec .completionWrite s = .next t ∧ t.bt.trims = .image (memWrite 0 [] 0 ((e.ind.drop 512).take 1229888))
        ∧ t.bt.cal = (if fieldAt e.ind 6 2 = 5 then 1 else 2) ∧ t.bt.flash = s.bt.flash ∧ t.bt.fuses = s.bt.fuses
        ∧ Keeps [.hi, .hostMem, .mg, .bt, .tg] s t)
    ∧ ∀ (s : State) (tag : W16) (e : Exec) (dev : List Int), executing 0x1007 tag s = some e → Memory.wf 0 s.hostMem = true →
      let done := fun t : State => t.hi.cpls = s.hi.cpls ++ [cplOf e 0 []]
        ∧ HostSameOutside (payF e 64 8) (128 * (measPins e).length) s t ∧ Keeps [.pf, .hi, .hostMem, .mg] s t
        ∧ ∀ (i : Nat) (p : Pin), (measPins e)[i]? = some p → leNat (memRead 0 t.hostMem (payF e 64 8 + 128 * i) 2) = p.val
      (e.left ≠ [] → (adcTurn e s = true → ∃ t, exec (.calCheck tag dev) s = .next t ∧ done t)
        ∧ (adcTurn e s = false → exec (.calCheck tag dev) s = .next s))
      ∧ (e.left = [] → measPins e ≠ [] → payF e 64 8 % 8 = 0 →
      let free := ∀ p ∈ measPins e, s.pins[p].ctl.func = 0 ∨ pinParked s p = true
      (s.bt.cal = 0 → ∃ t, exec (.calCheck tag dev) s = .next t ∧ Answered e 0x11 [] s t ∧ Keeps [.hi] s t)
      ∧ (s.bt.cal ≠ 0 → free → (∀ p ∈ measPins e, s.pf.adcs[gloveOf p].cur = none ∧ s.pf.adcs[gloveOf p].queue = []) →
          ∃ t, exec (.calCheck tag dev) s = .next t ∧ done t)
      ∧ (s.bt.cal ≠ 0 → free → (∃ p ∈ measPins e, s.pf.adcs[gloveOf p].cur ≠ none) →
          ∃ t, exec (.calCheck tag dev) s = .next t ∧ t.hi.cpls = s.hi.cpls ∧ Keeps [.pf, .hi] s t)
      ∧ (s.bt.cal ≠ 0 → ¬ free → ∃ t, exec (.calCheck tag dev) s = .next t ∧ Answered e 6 [] s t ∧ Keeps [.hi] s t))

/-- The memories of the model are lists with addresses strictly rising and no entry equal to what an unlisted address reads as
(log 5, log 6): equal memories are equal data. -/
def Obligations.memoriesStayCanonical : Prop :=
  ∀ s t : State, memoriesWf s = true → step s = .next t → memoriesWf t = true

/-- R426 and R439: the fuses are only ever blown, and nothing writes the serial. -/
def Obligations.rollbackCounterNeverFalls : Prop :=
  ∀ (n : Nat) (serial : W64) (s t : State), n ≤ s.bt.fuses ∧ s.bt.serial = serial → step s = .next t →
    n ≤ t.bt.fuses ∧ t.bt.serial = serial

/-- R41, R42: the epoch moves by whole fabric cycles and only on the edge clock, the clear and the alignment set it to a multiple, and leaving
the edge clock ends its validity. -/
def Obligations.timeBaseStaysSound : Prop :=
  ∀ s t : State, timeBaseSound s = true → step s = .next t → timeBaseSound t = true

/-- The start of the invariants memoriesStayCanonical, rollbackCounterNeverFalls and timeBaseStaysSound. -/
def Obligations.resetMeetsInvariants : Prop :=
  memoriesWf State.reset = true ∧ timeBaseSound State.reset = true ∧ 0 ≤ State.reset.bt.fuses ∧ State.reset.bt.fuses = 0
end

