-- ==== Sys2Proof/Laws/State.lean ====
section
/-! SUPPORT. Laws of the plain updates of the state: what each writes, and that it leaves every other part as it is. -/

namespace Sys2Proof.Machine

open Sys2Proof

/-! ### Vectors -/

/-- The element changed. -/
@[simp] theorem vupd_self {α : Type} {n : Nat} (v : Vector α n) (i : Fin n) (f : α → α) : (vupd v i f)[i] = f v[i] := by
  simp [vupd]

/-- An element not changed. -/
theorem vupd_other {α : Type} {n : Nat} (v : Vector α n) {i j : Fin n} (f : α → α) (h : i ≠ j) : (vupd v i f)[j] = v[j] := by
  simpa [vupd] using Vector.getElem_set_ne i.isLt j.isLt (fun e => h (Fin.ext e))

/-- The element replaced. -/
@[simp] theorem vset_self {α : Type} {n : Nat} (v : Vector α n) (i : Fin n) (x : α) : (vset v i x)[i] = x := by
  simp [vset]

/-- An element not replaced. -/
theorem vset_other {α : Type} {n : Nat} (v : Vector α n) {i j : Fin n} (x : α) (h : i ≠ j) : (vset v i x)[j] = v[j] := by
  simpa [vset] using Vector.getElem_set_ne i.isLt j.isLt (fun e => h (Fin.ext e))

/-- Every element mapped. -/
@[simp] theorem vmap_get {α β : Type} {n : Nat} (f : α → β) (v : Vector α n) (i : Fin n) : (vmap f v)[i] = f v[i] := by
  simp [vmap]

/-! ### What the updates write -/

/-- DRAM with power takes the bytes written (R48, R165). -/
@[simp] theorem dramWrite_dram {s : State} (h : dramOn s = true) (a : Nat) (l : List Byte) :
    (dramWrite a l s).pm.dram = memWrite 0 s.pm.dram a l := by
  simp [dramWrite, h]

/-- DRAM without power takes none (R48). -/
@[simp] theorem dramWrite_off {s : State} (h : dramOn s = false) (a : Nat) (l : List Byte) : dramWrite a l s = s := by
  simp [dramWrite, h]

@[simp] theorem hostWrite_hostMem (a : Nat) (l : List Byte) (s : State) : (hostWrite a l s).hostMem = memWrite 0 s.hostMem a l := rfl
@[simp] theorem takeFree_freeCtr (s : State) : (takeFree s).freeCtr = s.freeCtr + 1 := rfl
@[simp] theorem takeFrees_freeCtr (n : Nat) (s : State) : (takeFrees n s).freeCtr = s.freeCtr + n := rfl
@[simp] theorem enTx_tx (p : Port) (m : TxMsg) (s : State) : (enTx p m s).en.tx = s.en.tx ++ [(p, m)] := rfl
@[simp] theorem updTiu_units (g : Glove) (f : Tiu → Tiu) (s : State) : (updTiu g f s).ti.units = vupd s.ti.units g f := rfl
@[simp] theorem updPin_pins (p : Pin) (f : PinSt → PinSt) (s : State) : (updPin p f s).pins = vupd s.pins p f := rfl
@[simp] theorem updAdc_adcs (g : Glove) (f : Adc → Adc) (s : State) : (updAdc g f s).pf.adcs = vupd s.pf.adcs g f := rfl
@[simp] theorem updCh_ch (i : Chan) (f : MxCh → MxCh) (s : State) : (updCh i f s).mx.ch = vupd s.mx.ch i f := rfl
@[simp] theorem updPort_ports (p : Port) (f : HPort → HPort) (s : State) : (updPort p f s).en.ports = vupd s.en.ports p f := rfl
@[simp] theorem updProc_proc (f : Proc → Proc) (s : State) : (updProc f s).sq.proc = s.sq.proc.map f := rfl
@[simp] theorem enterExec_exec (e : Exec) (s : State) : (enterExec e s).hi.exec = s.hi.exec ++ [e] := rfl
@[simp] theorem setReqs_reqs (f : Reqs → Reqs) (s : State) : (setReqs f s).sq.reqs = f s.sq.reqs := rfl
@[simp] theorem withProc_proc (p : Option Proc) (s : State) : (withProc p s).sq.proc = p := rfl
@[simp] theorem pastWord_pc (s : State) : (pastWord s).sq.pc = s.sq.pc + 1 := rfl

/-- A completion joins the waiting ones; data only with success (R390). -/
theorem answer_cpls (e : Exec) (status : Nat) (data : List Byte) (s : State) :
    (answer e status data s).hi.cpls = s.hi.cpls ++ [Cpl.mk e.entry.tag (BitVec.ofNat 16 status) e.entry.opcode false
      (if status = 0 then data else []) (some e.entry.hash) true] := rfl

/-- A completion changes nothing else of the host interface. -/
theorem answer_hi (e : Exec) (status : Nat) (data : List Byte) (s : State) :
    { (answer e status data s).hi with cpls := s.hi.cpls } = s.hi := rfl

/-! ### Commands and their checks -/

/-- A mailbox row whose command executes does what the command does (R391). -/
@[simp] theorem runCmd_some {op : Nat} {tag : W16} {e : Exec} {s : State} (h : executing op tag s = some e)
    (f : Exec → State → State) : runCmd op tag f s = f e s := by
  simp [runCmd, h]

/-- A mailbox row without such a command leaves the state as it is. -/
@[simp] theorem runCmd_none {op : Nat} {tag : W16} {s : State} (h : executing op tag s = none) (f : Exec → State → State) :
    runCmd op tag f s = s := by
  simp [runCmd, h]

/-- A command that has passed all its checks has its effect. -/
@[simp] theorem checked_nil (e : Exec) (f : State → State) (s : State) : checked [] e f s = f s := rfl

/-- The first check that fails is the command's status. -/
@[simp] theorem checked_fail {b : Bool} (h : b = true) (st : Nat) (r : List (Bool × Nat)) (e : Exec) (f : State → State)
    (s : State) : checked ((b, st) :: r) e f s = answer e st [] s := by
  simp [checked, h]

/-- A check that passes leaves the others. -/
@[simp] theorem checked_pass {b : Bool} (h : b = false) (st : Nat) (r : List (Bool × Nat)) (e : Exec) (f : State → State)
    (s : State) : checked ((b, st) :: r) e f s = checked r e f s := by
  simp [checked, h]

/-! ### What the updates leave -/

/-- `hostWrite` changes no part but `hostMem`. -/
@[simp] theorem hostWrite_frame (a : Nat) (l : List Byte) (s : State) :
    (hostWrite a l s).tb = s.tb ∧ (hostWrite a l s).pins = s.pins ∧ (hostWrite a l s).pf = s.pf ∧ (hostWrite a l s).tg = s.tg
      ∧ (hostWrite a l s).pt = s.pt ∧ (hostWrite a l s).pm = s.pm ∧ (hostWrite a l s).sq = s.sq ∧ (hostWrite a l s).sp = s.sp
      ∧ (hostWrite a l s).cl = s.cl ∧ (hostWrite a l s).cs = s.cs ∧ (hostWrite a l s).ti = s.ti ∧ (hostWrite a l s).mx = s.mx
      ∧ (hostWrite a l s).en = s.en ∧ (hostWrite a l s).hi = s.hi ∧ (hostWrite a l s).mg = s.mg ∧ (hostWrite a l s).bt = s.bt
      ∧ (hostWrite a l s).pending = s.pending ∧ (hostWrite a l s).freeCtr = s.freeCtr := by
  simp [hostWrite]

/-- `takeFree` changes no part but `freeCtr`. -/
@[simp] theorem takeFree_frame (s : State) :
    (takeFree s).tb = s.tb ∧ (takeFree s).pins = s.pins ∧ (takeFree s).pf = s.pf ∧ (takeFree s).tg = s.tg
      ∧ (takeFree s).pt = s.pt ∧ (takeFree s).pm = s.pm ∧ (takeFree s).sq = s.sq ∧ (takeFree s).sp = s.sp
      ∧ (takeFree s).cl = s.cl ∧ (takeFree s).cs = s.cs ∧ (takeFree s).ti = s.ti ∧ (takeFree s).mx = s.mx
      ∧ (takeFree s).en = s.en ∧ (takeFree s).hi = s.hi ∧ (takeFree s).mg = s.mg ∧ (takeFree s).bt = s.bt
      ∧ (takeFree s).hostMem = s.hostMem ∧ (takeFree s).pending = s.pending := by
  simp [takeFree]

/-- `updPin` changes no part but `pins`. -/
@[simp] theorem updPin_frame (p : Pin) (f : PinSt → PinSt) (s : State) :
    (updPin p f s).tb = s.tb ∧ (updPin p f s).pf = s.pf ∧ (updPin p f s).tg = s.tg ∧ (updPin p f s).pt = s.pt
      ∧ (updPin p f s).pm = s.pm ∧ (updPin p f s).sq = s.sq ∧ (updPin p f s).sp = s.sp ∧ (updPin p f s).cl = s.cl
      ∧ (updPin p f s).cs = s.cs ∧ (updPin p f s).ti = s.ti ∧ (updPin p f s).mx = s.mx ∧ (updPin p f s).en = s.en
      ∧ (updPin p f s).hi = s.hi ∧ (updPin p f s).mg = s.mg ∧ (updPin p f s).bt = s.bt ∧ (updPin p f s).hostMem = s.hostMem
      ∧ (updPin p f s).pending = s.pending ∧ (updPin p f s).freeCtr = s.freeCtr := by
  simp [updPin]

/-- `enTx` changes no part but `en`. -/
@[simp] theorem enTx_frame (p : Port) (m : TxMsg) (s : State) :
    (enTx p m s).tb = s.tb ∧ (enTx p m s).pins = s.pins ∧ (enTx p m s).pf = s.pf ∧ (enTx p m s).tg = s.tg
      ∧ (enTx p m s).pt = s.pt ∧ (enTx p m s).pm = s.pm ∧ (enTx p m s).sq = s.sq ∧ (enTx p m s).sp = s.sp
      ∧ (enTx p m s).cl = s.cl ∧ (enTx p m s).cs = s.cs ∧ (enTx p m s).ti = s.ti ∧ (enTx p m s).mx = s.mx
      ∧ (enTx p m s).hi = s.hi ∧ (enTx p m s).mg = s.mg ∧ (enTx p m s).bt = s.bt ∧ (enTx p m s).hostMem = s.hostMem
      ∧ (enTx p m s).pending = s.pending ∧ (enTx p m s).freeCtr = s.freeCtr := by
  simp [enTx]

/-- `updTiu` changes no part but `ti`. -/
@[simp] theorem updTiu_frame (g : Glove) (f : Tiu → Tiu) (s : State) :
    (updTiu g f s).tb = s.tb ∧ (updTiu g f s).pins = s.pins ∧ (updTiu g f s).pf = s.pf ∧ (updTiu g f s).tg = s.tg
      ∧ (updTiu g f s).pt = s.pt ∧ (updTiu g f s).pm = s.pm ∧ (updTiu g f s).sq = s.sq ∧ (updTiu g f s).sp = s.sp
      ∧ (updTiu g f s).cl = s.cl ∧ (updTiu g f s).cs = s.cs ∧ (updTiu g f s).mx = s.mx ∧ (updTiu g f s).en = s.en
      ∧ (updTiu g f s).hi = s.hi ∧ (updTiu g f s).mg = s.mg ∧ (updTiu g f s).bt = s.bt ∧ (updTiu g f s).hostMem = s.hostMem
      ∧ (updTiu g f s).pending = s.pending ∧ (updTiu g f s).freeCtr = s.freeCtr := by
  simp [updTiu]

/-- `answer` changes no part but `hi`. -/
@[simp] theorem answer_frame (e : Exec) (status : Nat) (data : List Byte) (s : State) :
    (answer e status data s).tb = s.tb ∧ (answer e status data s).pins = s.pins ∧ (answer e status data s).pf = s.pf
      ∧ (answer e status data s).tg = s.tg ∧ (answer e status data s).pt = s.pt ∧ (answer e status data s).pm = s.pm
      ∧ (answer e status data s).sq = s.sq ∧ (answer e status data s).sp = s.sp ∧ (answer e status data s).cl = s.cl
      ∧ (answer e status data s).cs = s.cs ∧ (answer e status data s).ti = s.ti ∧ (answer e status data s).mx = s.mx
      ∧ (answer e status data s).en = s.en ∧ (answer e status data s).mg = s.mg ∧ (answer e status data s).bt = s.bt
      ∧ (answer e status data s).hostMem = s.hostMem ∧ (answer e status data s).pending = s.pending
      ∧ (answer e status data s).freeCtr = s.freeCtr := by
  simp [answer]

/-- `updExec` changes no part but `hi`. -/
@[simp] theorem updExec_frame (tag : W16) (f : Exec → Exec) (s : State) :
    (updExec tag f s).tb = s.tb ∧ (updExec tag f s).pins = s.pins ∧ (updExec tag f s).pf = s.pf ∧ (updExec tag f s).tg = s.tg
      ∧ (updExec tag f s).pt = s.pt ∧ (updExec tag f s).pm = s.pm ∧ (updExec tag f s).sq = s.sq ∧ (updExec tag f s).sp = s.sp
      ∧ (updExec tag f s).cl = s.cl ∧ (updExec tag f s).cs = s.cs ∧ (updExec tag f s).ti = s.ti ∧ (updExec tag f s).mx = s.mx
      ∧ (updExec tag f s).en = s.en ∧ (updExec tag f s).mg = s.mg ∧ (updExec tag f s).bt = s.bt
      ∧ (updExec tag f s).hostMem = s.hostMem ∧ (updExec tag f s).pending = s.pending ∧ (updExec tag f s).freeCtr = s.freeCtr := by
  simp [updExec]

/-- `goAt` changes no part but `sq`. -/
@[simp] theorem goAt_frame (start : Nat) (s : State) :
    (goAt start s).tb = s.tb ∧ (goAt start s).pins = s.pins ∧ (goAt start s).pf = s.pf ∧ (goAt start s).tg = s.tg
      ∧ (goAt start s).pt = s.pt ∧ (goAt start s).pm = s.pm ∧ (goAt start s).sp = s.sp ∧ (goAt start s).cl = s.cl
      ∧ (goAt start s).cs = s.cs ∧ (goAt start s).ti = s.ti ∧ (goAt start s).mx = s.mx ∧ (goAt start s).en = s.en
      ∧ (goAt start s).hi = s.hi ∧ (goAt start s).mg = s.mg ∧ (goAt start s).bt = s.bt ∧ (goAt start s).hostMem = s.hostMem
      ∧ (goAt start s).pending = s.pending ∧ (goAt start s).freeCtr = s.freeCtr := by
  simp [goAt]

/-- `addCond` changes no part but `sp`. -/
@[simp] theorem addCond_frame (c : Cond) (s : State) :
    (addCond c s).tb = s.tb ∧ (addCond c s).pins = s.pins ∧ (addCond c s).pf = s.pf ∧ (addCond c s).tg = s.tg
      ∧ (addCond c s).pt = s.pt ∧ (addCond c s).pm = s.pm ∧ (addCond c s).sq = s.sq ∧ (addCond c s).cl = s.cl
      ∧ (addCond c s).cs = s.cs ∧ (addCond c s).ti = s.ti ∧ (addCond c s).mx = s.mx ∧ (addCond c s).en = s.en
      ∧ (addCond c s).hi = s.hi ∧ (addCond c s).mg = s.mg ∧ (addCond c s).bt = s.bt ∧ (addCond c s).hostMem = s.hostMem
      ∧ (addCond c s).pending = s.pending ∧ (addCond c s).freeCtr = s.freeCtr := by
  simp [addCond]

/-- `setReqs` changes no part but `sq`. -/
@[simp] theorem setReqs_frame (f : Reqs → Reqs) (s : State) :
    (setReqs f s).tb = s.tb ∧ (setReqs f s).pins = s.pins ∧ (setReqs f s).pf = s.pf ∧ (setReqs f s).tg = s.tg
      ∧ (setReqs f s).pt = s.pt ∧ (setReqs f s).pm = s.pm ∧ (setReqs f s).sp = s.sp ∧ (setReqs f s).cl = s.cl
      ∧ (setReqs f s).cs = s.cs ∧ (setReqs f s).ti = s.ti ∧ (setReqs f s).mx = s.mx ∧ (setReqs f s).en = s.en
      ∧ (setReqs f s).hi = s.hi ∧ (setReqs f s).mg = s.mg ∧ (setReqs f s).bt = s.bt ∧ (setReqs f s).hostMem = s.hostMem
      ∧ (setReqs f s).pending = s.pending ∧ (setReqs f s).freeCtr = s.freeCtr := by
  simp [setReqs]

/-- `takeAct` changes no part but `sq`. -/
@[simp] theorem takeAct_frame (a : Act) (f : Reqs → Reqs) (s : State) :
    (takeAct a f s).tb = s.tb ∧ (takeAct a f s).pins = s.pins ∧ (takeAct a f s).pf = s.pf ∧ (takeAct a f s).tg = s.tg
      ∧ (takeAct a f s).pt = s.pt ∧ (takeAct a f s).pm = s.pm ∧ (takeAct a f s).sp = s.sp ∧ (takeAct a f s).cl = s.cl
      ∧ (takeAct a f s).cs = s.cs ∧ (takeAct a f s).ti = s.ti ∧ (takeAct a f s).mx = s.mx ∧ (takeAct a f s).en = s.en
      ∧ (takeAct a f s).hi = s.hi ∧ (takeAct a f s).mg = s.mg ∧ (takeAct a f s).bt = s.bt ∧ (takeAct a f s).hostMem = s.hostMem
      ∧ (takeAct a f s).pending = s.pending ∧ (takeAct a f s).freeCtr = s.freeCtr := by
  simp [takeAct]

/-- `countResolved` changes no part but `sp`. -/
@[simp] theorem countResolved_frame (s : State) :
    (countResolved s).tb = s.tb ∧ (countResolved s).pins = s.pins ∧ (countResolved s).pf = s.pf ∧ (countResolved s).tg = s.tg
      ∧ (countResolved s).pt = s.pt ∧ (countResolved s).pm = s.pm ∧ (countResolved s).sq = s.sq ∧ (countResolved s).cl = s.cl
      ∧ (countResolved s).cs = s.cs ∧ (countResolved s).ti = s.ti ∧ (countResolved s).mx = s.mx ∧ (countResolved s).en = s.en
      ∧ (countResolved s).hi = s.hi ∧ (countResolved s).mg = s.mg ∧ (countResolved s).bt = s.bt
      ∧ (countResolved s).hostMem = s.hostMem ∧ (countResolved s).pending = s.pending ∧ (countResolved s).freeCtr = s.freeCtr := by
  simp [countResolved]

/-- `retire` changes no part but `cl`. -/
@[simp] theorem retire_frame (m : W64) (s : State) :
    (retire m s).tb = s.tb ∧ (retire m s).pins = s.pins ∧ (retire m s).pf = s.pf ∧ (retire m s).tg = s.tg
      ∧ (retire m s).pt = s.pt ∧ (retire m s).pm = s.pm ∧ (retire m s).sq = s.sq ∧ (retire m s).sp = s.sp
      ∧ (retire m s).cs = s.cs ∧ (retire m s).ti = s.ti ∧ (retire m s).mx = s.mx ∧ (retire m s).en = s.en
      ∧ (retire m s).hi = s.hi ∧ (retire m s).mg = s.mg ∧ (retire m s).bt = s.bt ∧ (retire m s).hostMem = s.hostMem
      ∧ (retire m s).pending = s.pending ∧ (retire m s).freeCtr = s.freeCtr := by
  simp [retire]

/-- `updProc` changes no part but `sq`. -/
@[simp] theorem updProc_frame (f : Proc → Proc) (s : State) :
    (updProc f s).tb = s.tb ∧ (updProc f s).pins = s.pins ∧ (updProc f s).pf = s.pf ∧ (updProc f s).tg = s.tg
      ∧ (updProc f s).pt = s.pt ∧ (updProc f s).pm = s.pm ∧ (updProc f s).sp = s.sp ∧ (updProc f s).cl = s.cl
      ∧ (updProc f s).cs = s.cs ∧ (updProc f s).ti = s.ti ∧ (updProc f s).mx = s.mx ∧ (updProc f s).en = s.en
      ∧ (updProc f s).hi = s.hi ∧ (updProc f s).mg = s.mg ∧ (updProc f s).bt = s.bt ∧ (updProc f s).hostMem = s.hostMem
      ∧ (updProc f s).pending = s.pending ∧ (updProc f s).freeCtr = s.freeCtr := by
  simp [updProc]

/-- `unblock` changes no part but `sq`. -/
@[simp] theorem unblock_frame (s : State) :
    (unblock s).tb = s.tb ∧ (unblock s).pins = s.pins ∧ (unblock s).pf = s.pf ∧ (unblock s).tg = s.tg ∧ (unblock s).pt = s.pt
      ∧ (unblock s).pm = s.pm ∧ (unblock s).sp = s.sp ∧ (unblock s).cl = s.cl ∧ (unblock s).cs = s.cs ∧ (unblock s).ti = s.ti
      ∧ (unblock s).mx = s.mx ∧ (unblock s).en = s.en ∧ (unblock s).hi = s.hi ∧ (unblock s).mg = s.mg ∧ (unblock s).bt = s.bt
      ∧ (unblock s).hostMem = s.hostMem ∧ (unblock s).pending = s.pending ∧ (unblock s).freeCtr = s.freeCtr := by
  simp [unblock]

/-- `blockOn` changes no part but `sq`. -/
@[simp] theorem blockOn_frame (b : Block) (s : State) :
    (blockOn b s).tb = s.tb ∧ (blockOn b s).pins = s.pins ∧ (blockOn b s).pf = s.pf ∧ (blockOn b s).tg = s.tg
      ∧ (blockOn b s).pt = s.pt ∧ (blockOn b s).pm = s.pm ∧ (blockOn b s).sp = s.sp ∧ (blockOn b s).cl = s.cl
      ∧ (blockOn b s).cs = s.cs ∧ (blockOn b s).ti = s.ti ∧ (blockOn b s).mx = s.mx ∧ (blockOn b s).en = s.en
      ∧ (blockOn b s).hi = s.hi ∧ (blockOn b s).mg = s.mg ∧ (blockOn b s).bt = s.bt ∧ (blockOn b s).hostMem = s.hostMem
      ∧ (blockOn b s).pending = s.pending ∧ (blockOn b s).freeCtr = s.freeCtr := by
  simp [blockOn]

/-- `updDac` changes no part but `pins`. -/
@[simp] theorem updDac_frame (p : Pin) (i : DacIx) (f : Dac → Dac) (s : State) :
    (updDac p i f s).tb = s.tb ∧ (updDac p i f s).pf = s.pf ∧ (updDac p i f s).tg = s.tg ∧ (updDac p i f s).pt = s.pt
      ∧ (updDac p i f s).pm = s.pm ∧ (updDac p i f s).sq = s.sq ∧ (updDac p i f s).sp = s.sp ∧ (updDac p i f s).cl = s.cl
      ∧ (updDac p i f s).cs = s.cs ∧ (updDac p i f s).ti = s.ti ∧ (updDac p i f s).mx = s.mx ∧ (updDac p i f s).en = s.en
      ∧ (updDac p i f s).hi = s.hi ∧ (updDac p i f s).mg = s.mg ∧ (updDac p i f s).bt = s.bt
      ∧ (updDac p i f s).hostMem = s.hostMem ∧ (updDac p i f s).pending = s.pending ∧ (updDac p i f s).freeCtr = s.freeCtr := by
  simp [updDac]

/-- `updAdc` changes no part but `pf`. -/
@[simp] theorem updAdc_frame (g : Glove) (f : Adc → Adc) (s : State) :
    (updAdc g f s).tb = s.tb ∧ (updAdc g f s).pins = s.pins ∧ (updAdc g f s).tg = s.tg ∧ (updAdc g f s).pt = s.pt
      ∧ (updAdc g f s).pm = s.pm ∧ (updAdc g f s).sq = s.sq ∧ (updAdc g f s).sp = s.sp ∧ (updAdc g f s).cl = s.cl
      ∧ (updAdc g f s).cs = s.cs ∧ (updAdc g f s).ti = s.ti ∧ (updAdc g f s).mx = s.mx ∧ (updAdc g f s).en = s.en
      ∧ (updAdc g f s).hi = s.hi ∧ (updAdc g f s).mg = s.mg ∧ (updAdc g f s).bt = s.bt ∧ (updAdc g f s).hostMem = s.hostMem
      ∧ (updAdc g f s).pending = s.pending ∧ (updAdc g f s).freeCtr = s.freeCtr := by
  simp [updAdc]

/-- `enterExec` changes no part but `hi`. -/
@[simp] theorem enterExec_frame (e : Exec) (s : State) :
    (enterExec e s).tb = s.tb ∧ (enterExec e s).pins = s.pins ∧ (enterExec e s).pf = s.pf ∧ (enterExec e s).tg = s.tg
      ∧ (enterExec e s).pt = s.pt ∧ (enterExec e s).pm = s.pm ∧ (enterExec e s).sq = s.sq ∧ (enterExec e s).sp = s.sp
      ∧ (enterExec e s).cl = s.cl ∧ (enterExec e s).cs = s.cs ∧ (enterExec e s).ti = s.ti ∧ (enterExec e s).mx = s.mx
      ∧ (enterExec e s).en = s.en ∧ (enterExec e s).mg = s.mg ∧ (enterExec e s).bt = s.bt ∧ (enterExec e s).hostMem = s.hostMem
      ∧ (enterExec e s).pending = s.pending ∧ (enterExec e s).freeCtr = s.freeCtr := by
  simp [enterExec]

/-- `takeFrees` changes no part but `freeCtr`. -/
@[simp] theorem takeFrees_frame (n : Nat) (s : State) :
    (takeFrees n s).tb = s.tb ∧ (takeFrees n s).pins = s.pins ∧ (takeFrees n s).pf = s.pf ∧ (takeFrees n s).tg = s.tg
      ∧ (takeFrees n s).pt = s.pt ∧ (takeFrees n s).pm = s.pm ∧ (takeFrees n s).sq = s.sq ∧ (takeFrees n s).sp = s.sp
      ∧ (takeFrees n s).cl = s.cl ∧ (takeFrees n s).cs = s.cs ∧ (takeFrees n s).ti = s.ti ∧ (takeFrees n s).mx = s.mx
      ∧ (takeFrees n s).en = s.en ∧ (takeFrees n s).hi = s.hi ∧ (takeFrees n s).mg = s.mg ∧ (takeFrees n s).bt = s.bt
      ∧ (takeFrees n s).hostMem = s.hostMem ∧ (takeFrees n s).pending = s.pending := by
  simp [takeFrees]

/-- `updCh` changes no part but `mx`. -/
@[simp] theorem updCh_frame (i : Chan) (f : MxCh → MxCh) (s : State) :
    (updCh i f s).tb = s.tb ∧ (updCh i f s).pins = s.pins ∧ (updCh i f s).pf = s.pf ∧ (updCh i f s).tg = s.tg
      ∧ (updCh i f s).pt = s.pt ∧ (updCh i f s).pm = s.pm ∧ (updCh i f s).sq = s.sq ∧ (updCh i f s).sp = s.sp
      ∧ (updCh i f s).cl = s.cl ∧ (updCh i f s).cs = s.cs ∧ (updCh i f s).ti = s.ti ∧ (updCh i f s).en = s.en
      ∧ (updCh i f s).hi = s.hi ∧ (updCh i f s).mg = s.mg ∧ (updCh i f s).bt = s.bt ∧ (updCh i f s).hostMem = s.hostMem
      ∧ (updCh i f s).pending = s.pending ∧ (updCh i f s).freeCtr = s.freeCtr := by
  simp [updCh]

/-- `updPort` changes no part but `en`. -/
@[simp] theorem updPort_frame (p : Port) (f : HPort → HPort) (s : State) :
    (updPort p f s).tb = s.tb ∧ (updPort p f s).pins = s.pins ∧ (updPort p f s).pf = s.pf ∧ (updPort p f s).tg = s.tg
      ∧ (updPort p f s).pt = s.pt ∧ (updPort p f s).pm = s.pm ∧ (updPort p f s).sq = s.sq ∧ (updPort p f s).sp = s.sp
      ∧ (updPort p f s).cl = s.cl ∧ (updPort p f s).cs = s.cs ∧ (updPort p f s).ti = s.ti ∧ (updPort p f s).mx = s.mx
      ∧ (updPort p f s).hi = s.hi ∧ (updPort p f s).mg = s.mg ∧ (updPort p f s).bt = s.bt ∧ (updPort p f s).hostMem = s.hostMem
      ∧ (updPort p f s).pending = s.pending ∧ (updPort p f s).freeCtr = s.freeCtr := by
  simp [updPort]

/-- `breakLocal` changes no part but `en`. -/
@[simp] theorem breakLocal_frame (s : State) :
    (breakLocal s).tb = s.tb ∧ (breakLocal s).pins = s.pins ∧ (breakLocal s).pf = s.pf ∧ (breakLocal s).tg = s.tg
      ∧ (breakLocal s).pt = s.pt ∧ (breakLocal s).pm = s.pm ∧ (breakLocal s).sq = s.sq ∧ (breakLocal s).sp = s.sp
      ∧ (breakLocal s).cl = s.cl ∧ (breakLocal s).cs = s.cs ∧ (breakLocal s).ti = s.ti ∧ (breakLocal s).mx = s.mx
      ∧ (breakLocal s).hi = s.hi ∧ (breakLocal s).mg = s.mg ∧ (breakLocal s).bt = s.bt ∧ (breakLocal s).hostMem = s.hostMem
      ∧ (breakLocal s).pending = s.pending ∧ (breakLocal s).freeCtr = s.freeCtr := by
  simp [breakLocal]

/-- `flashWrite` changes no part but `bt`. -/
@[simp] theorem flashWrite_frame (a : Nat) (l : List Byte) (s : State) :
    (flashWrite a l s).tb = s.tb ∧ (flashWrite a l s).pins = s.pins ∧ (flashWrite a l s).pf = s.pf
      ∧ (flashWrite a l s).tg = s.tg ∧ (flashWrite a l s).pt = s.pt ∧ (flashWrite a l s).pm = s.pm
      ∧ (flashWrite a l s).sq = s.sq ∧ (flashWrite a l s).sp = s.sp ∧ (flashWrite a l s).cl = s.cl
      ∧ (flashWrite a l s).cs = s.cs ∧ (flashWrite a l s).ti = s.ti ∧ (flashWrite a l s).mx = s.mx
      ∧ (flashWrite a l s).en = s.en ∧ (flashWrite a l s).hi = s.hi ∧ (flashWrite a l s).mg = s.mg
      ∧ (flashWrite a l s).hostMem = s.hostMem ∧ (flashWrite a l s).pending = s.pending
      ∧ (flashWrite a l s).freeCtr = s.freeCtr := by
  simp [flashWrite]

/-- `writeRec` changes no part but `bt`. -/
@[simp] theorem writeRec_frame (r : BootRec) (s : State) :
    (writeRec r s).tb = s.tb ∧ (writeRec r s).pins = s.pins ∧ (writeRec r s).pf = s.pf ∧ (writeRec r s).tg = s.tg
      ∧ (writeRec r s).pt = s.pt ∧ (writeRec r s).pm = s.pm ∧ (writeRec r s).sq = s.sq ∧ (writeRec r s).sp = s.sp
      ∧ (writeRec r s).cl = s.cl ∧ (writeRec r s).cs = s.cs ∧ (writeRec r s).ti = s.ti ∧ (writeRec r s).mx = s.mx
      ∧ (writeRec r s).en = s.en ∧ (writeRec r s).hi = s.hi ∧ (writeRec r s).mg = s.mg ∧ (writeRec r s).hostMem = s.hostMem
      ∧ (writeRec r s).pending = s.pending ∧ (writeRec r s).freeCtr = s.freeCtr := by
  simp [writeRec]

/-- `pastWord` changes no part but `sq`. -/
@[simp] theorem pastWord_frame (s : State) :
    (pastWord s).tb = s.tb ∧ (pastWord s).pins = s.pins ∧ (pastWord s).pf = s.pf ∧ (pastWord s).tg = s.tg
      ∧ (pastWord s).pt = s.pt ∧ (pastWord s).pm = s.pm ∧ (pastWord s).sp = s.sp ∧ (pastWord s).cl = s.cl
      ∧ (pastWord s).cs = s.cs ∧ (pastWord s).ti = s.ti ∧ (pastWord s).mx = s.mx ∧ (pastWord s).en = s.en
      ∧ (pastWord s).hi = s.hi ∧ (pastWord s).mg = s.mg ∧ (pastWord s).bt = s.bt ∧ (pastWord s).hostMem = s.hostMem
      ∧ (pastWord s).pending = s.pending ∧ (pastWord s).freeCtr = s.freeCtr := by
  simp [pastWord, stepPast]

/-- `withProc` changes no part but `sq`. -/
@[simp] theorem withProc_frame (p : Option Proc) (s : State) :
    (withProc p s).tb = s.tb ∧ (withProc p s).pins = s.pins ∧ (withProc p s).pf = s.pf ∧ (withProc p s).tg = s.tg
      ∧ (withProc p s).pt = s.pt ∧ (withProc p s).pm = s.pm ∧ (withProc p s).sp = s.sp ∧ (withProc p s).cl = s.cl
      ∧ (withProc p s).cs = s.cs ∧ (withProc p s).ti = s.ti ∧ (withProc p s).mx = s.mx ∧ (withProc p s).en = s.en
      ∧ (withProc p s).hi = s.hi ∧ (withProc p s).mg = s.mg ∧ (withProc p s).bt = s.bt ∧ (withProc p s).hostMem = s.hostMem
      ∧ (withProc p s).pending = s.pending ∧ (withProc p s).freeCtr = s.freeCtr := by
  simp [withProc]

end Sys2Proof.Machine
end

