-- ==== Sys2Proof/Laws/Frames.lean ====
section
/-! SUPPORT. Laws of the shared operations: which parts of the state each leaves as they are, so that a proof about a command never
unfolds them; how frames compose; when no time passes. -/

namespace Sys2Proof.Machine

open Sys2Proof

/-! ### Choices and folds -/

/-- A part that every step of a fold keeps is kept by the fold. -/
theorem foldl_keeps {α β : Type} (g : State → β) {f : State → α → State} (h : ∀ s x, g (f s x) = g s) (l : List α) (s : State) :
    g (l.foldl f s) = g s := by
  induction l generalizing s with
  | nil => rfl
  | cons x l ih => rw [List.foldl_cons, ih, h]

@[simp] theorem foldl_tb {α : Type} (f : State → α → State) (h : ∀ s x, (f s x).tb = s.tb) (l : List α) (s : State) :
    (l.foldl f s).tb = s.tb := foldl_keeps State.tb h l s
@[simp] theorem foldl_pins {α : Type} (f : State → α → State) (h : ∀ s x, (f s x).pins = s.pins) (l : List α) (s : State) :
    (l.foldl f s).pins = s.pins := foldl_keeps State.pins h l s
@[simp] theorem foldl_pf {α : Type} (f : State → α → State) (h : ∀ s x, (f s x).pf = s.pf) (l : List α) (s : State) :
    (l.foldl f s).pf = s.pf := foldl_keeps State.pf h l s
@[simp] theorem foldl_tg {α : Type} (f : State → α → State) (h : ∀ s x, (f s x).tg = s.tg) (l : List α) (s : State) :
    (l.foldl f s).tg = s.tg := foldl_keeps State.tg h l s
@[simp] theorem foldl_pt {α : Type} (f : State → α → State) (h : ∀ s x, (f s x).pt = s.pt) (l : List α) (s : State) :
    (l.foldl f s).pt = s.pt := foldl_keeps State.pt h l s
@[simp] theorem foldl_pm {α : Type} (f : State → α → State) (h : ∀ s x, (f s x).pm = s.pm) (l : List α) (s : State) :
    (l.foldl f s).pm = s.pm := foldl_keeps State.pm h l s
@[simp] theorem foldl_sq {α : Type} (f : State → α → State) (h : ∀ s x, (f s x).sq = s.sq) (l : List α) (s : State) :
    (l.foldl f s).sq = s.sq := foldl_keeps State.sq h l s
@[simp] theorem foldl_sp {α : Type} (f : State → α → State) (h : ∀ s x, (f s x).sp = s.sp) (l : List α) (s : State) :
    (l.foldl f s).sp = s.sp := foldl_keeps State.sp h l s
@[simp] theorem foldl_cl {α : Type} (f : State → α → State) (h : ∀ s x, (f s x).cl = s.cl) (l : List α) (s : State) :
    (l.foldl f s).cl = s.cl := foldl_keeps State.cl h l s
@[simp] theorem foldl_cs {α : Type} (f : State → α → State) (h : ∀ s x, (f s x).cs = s.cs) (l : List α) (s : State) :
    (l.foldl f s).cs = s.cs := foldl_keeps State.cs h l s
@[simp] theorem foldl_ti {α : Type} (f : State → α → State) (h : ∀ s x, (f s x).ti = s.ti) (l : List α) (s : State) :
    (l.foldl f s).ti = s.ti := foldl_keeps State.ti h l s
@[simp] theorem foldl_mx {α : Type} (f : State → α → State) (h : ∀ s x, (f s x).mx = s.mx) (l : List α) (s : State) :
    (l.foldl f s).mx = s.mx := foldl_keeps State.mx h l s
@[simp] theorem foldl_en {α : Type} (f : State → α → State) (h : ∀ s x, (f s x).en = s.en) (l : List α) (s : State) :
    (l.foldl f s).en = s.en := foldl_keeps State.en h l s
@[simp] theorem foldl_hi {α : Type} (f : State → α → State) (h : ∀ s x, (f s x).hi = s.hi) (l : List α) (s : State) :
    (l.foldl f s).hi = s.hi := foldl_keeps State.hi h l s
@[simp] theorem foldl_mg {α : Type} (f : State → α → State) (h : ∀ s x, (f s x).mg = s.mg) (l : List α) (s : State) :
    (l.foldl f s).mg = s.mg := foldl_keeps State.mg h l s
@[simp] theorem foldl_bt {α : Type} (f : State → α → State) (h : ∀ s x, (f s x).bt = s.bt) (l : List α) (s : State) :
    (l.foldl f s).bt = s.bt := foldl_keeps State.bt h l s
@[simp] theorem foldl_hostMem {α : Type} (f : State → α → State) (h : ∀ s x, (f s x).hostMem = s.hostMem) (l : List α) (s : State) :
    (l.foldl f s).hostMem = s.hostMem := foldl_keeps State.hostMem h l s
@[simp] theorem foldl_pending {α : Type} (f : State → α → State) (h : ∀ s x, (f s x).pending = s.pending) (l : List α) (s : State) :
    (l.foldl f s).pending = s.pending := foldl_keeps State.pending h l s
@[simp] theorem foldl_freeCtr {α : Type} (f : State → α → State) (h : ∀ s x, (f s x).freeCtr = s.freeCtr) (l : List α) (s : State) :
    (l.foldl f s).freeCtr = s.freeCtr := foldl_keeps State.freeCtr h l s

/-- A part of a choice is the choice of the parts. -/
@[simp] theorem ite_parts (c : Prop) [Decidable c] (a b : State) :
    (if c then a else b).tb = (if c then a.tb else b.tb)
      ∧ (if c then a else b).pins = (if c then a.pins else b.pins)
      ∧ (if c then a else b).pf = (if c then a.pf else b.pf)
      ∧ (if c then a else b).tg = (if c then a.tg else b.tg)
      ∧ (if c then a else b).pt = (if c then a.pt else b.pt)
      ∧ (if c then a else b).pm = (if c then a.pm else b.pm)
      ∧ (if c then a else b).sq = (if c then a.sq else b.sq)
      ∧ (if c then a else b).sp = (if c then a.sp else b.sp)
      ∧ (if c then a else b).cl = (if c then a.cl else b.cl)
      ∧ (if c then a else b).cs = (if c then a.cs else b.cs)
      ∧ (if c then a else b).ti = (if c then a.ti else b.ti)
      ∧ (if c then a else b).mx = (if c then a.mx else b.mx)
      ∧ (if c then a else b).en = (if c then a.en else b.en)
      ∧ (if c then a else b).hi = (if c then a.hi else b.hi)
      ∧ (if c then a else b).mg = (if c then a.mg else b.mg)
      ∧ (if c then a else b).bt = (if c then a.bt else b.bt)
      ∧ (if c then a else b).hostMem = (if c then a.hostMem else b.hostMem)
      ∧ (if c then a else b).pending = (if c then a.pending else b.pending)
      ∧ (if c then a else b).freeCtr = (if c then a.freeCtr else b.freeCtr) := by
  by_cases h : c <;> simp [h]

/-! ### Frames compose -/

/-- A state keeps all its parts. -/
theorem Keeps.refl (l : List Part) (s : State) : Keeps l s s := fun p _ => by cases p <;> rfl

/-- Frames in a row. -/
theorem Keeps.trans {l : List Part} {s t u : State} (h : Keeps l s t) (k : Keeps l t u) : Keeps l s u := by
  intro p hp
  have a := h p hp
  have b := k p hp
  cases p <;> exact Eq.trans b a

/-- A frame that may change more parts. -/
theorem Keeps.mono {l m : List Part} {s t : State} (h : Keeps l s t) (k : ∀ p ∈ l, p ∈ m) : Keeps m s t :=
  fun p hp => h p fun hl => hp (k p hl)

/-! ### The shared operations -/

/-- `dramWrite` changes no part but `pm`. -/
@[simp] theorem dramWrite_frame (a : Nat) (l : List Byte) (s : State) :
    (dramWrite a l s).tb = s.tb ∧ (dramWrite a l s).pins = s.pins ∧ (dramWrite a l s).pf = s.pf ∧ (dramWrite a l s).tg = s.tg
      ∧ (dramWrite a l s).pt = s.pt ∧ (dramWrite a l s).sq = s.sq ∧ (dramWrite a l s).sp = s.sp ∧ (dramWrite a l s).cl = s.cl
      ∧ (dramWrite a l s).cs = s.cs ∧ (dramWrite a l s).ti = s.ti ∧ (dramWrite a l s).mx = s.mx ∧ (dramWrite a l s).en = s.en
      ∧ (dramWrite a l s).hi = s.hi ∧ (dramWrite a l s).mg = s.mg ∧ (dramWrite a l s).bt = s.bt
      ∧ (dramWrite a l s).hostMem = s.hostMem ∧ (dramWrite a l s).pending = s.pending ∧ (dramWrite a l s).freeCtr = s.freeCtr := by
  simp [dramWrite]

/-- `msix` changes no part but `hi`. -/
@[simp] theorem msix_frame (v : Nat) (s : State) :
    (msix v s).tb = s.tb ∧ (msix v s).pins = s.pins ∧ (msix v s).pf = s.pf ∧ (msix v s).tg = s.tg ∧ (msix v s).pt = s.pt
      ∧ (msix v s).pm = s.pm ∧ (msix v s).sq = s.sq ∧ (msix v s).sp = s.sp ∧ (msix v s).cl = s.cl ∧ (msix v s).cs = s.cs
      ∧ (msix v s).ti = s.ti ∧ (msix v s).mx = s.mx ∧ (msix v s).en = s.en ∧ (msix v s).mg = s.mg ∧ (msix v s).bt = s.bt
      ∧ (msix v s).hostMem = s.hostMem ∧ (msix v s).pending = s.pending ∧ (msix v s).freeCtr = s.freeCtr := by
  simp [msix]

/-- `errIrq` changes no part but `hi`. -/
@[simp] theorem errIrq_frame (before : W32) (s : State) :
    (errIrq before s).tb = s.tb ∧ (errIrq before s).pins = s.pins ∧ (errIrq before s).pf = s.pf ∧ (errIrq before s).tg = s.tg
      ∧ (errIrq before s).pt = s.pt ∧ (errIrq before s).pm = s.pm ∧ (errIrq before s).sq = s.sq ∧ (errIrq before s).sp = s.sp
      ∧ (errIrq before s).cl = s.cl ∧ (errIrq before s).cs = s.cs ∧ (errIrq before s).ti = s.ti ∧ (errIrq before s).mx = s.mx
      ∧ (errIrq before s).en = s.en ∧ (errIrq before s).mg = s.mg ∧ (errIrq before s).bt = s.bt
      ∧ (errIrq before s).hostMem = s.hostMem ∧ (errIrq before s).pending = s.pending ∧ (errIrq before s).freeCtr = s.freeCtr := by
  simp [errIrq]

/-- `issue` changes no part but `hi`, `mg`. -/
@[simp] theorem issue_frame (code : Nat) (items : List Item) (s : State) :
    (issue code items s).tb = s.tb ∧ (issue code items s).pins = s.pins ∧ (issue code items s).pf = s.pf
      ∧ (issue code items s).tg = s.tg ∧ (issue code items s).pt = s.pt ∧ (issue code items s).pm = s.pm
      ∧ (issue code items s).sq = s.sq ∧ (issue code items s).sp = s.sp ∧ (issue code items s).cl = s.cl
      ∧ (issue code items s).cs = s.cs ∧ (issue code items s).ti = s.ti ∧ (issue code items s).mx = s.mx
      ∧ (issue code items s).en = s.en ∧ (issue code items s).bt = s.bt ∧ (issue code items s).hostMem = s.hostMem
      ∧ (issue code items s).pending = s.pending ∧ (issue code items s).freeCtr = s.freeCtr := by
  simp [issue]

/-- `issueUpTo` changes no part but `sq`, `hi`, `mg`. -/
@[simp] theorem issueUpTo_frame (n code : Nat) (items : List Item) (s : State) :
    (issueUpTo n code items s).tb = s.tb ∧ (issueUpTo n code items s).pins = s.pins ∧ (issueUpTo n code items s).pf = s.pf
      ∧ (issueUpTo n code items s).tg = s.tg ∧ (issueUpTo n code items s).pt = s.pt ∧ (issueUpTo n code items s).pm = s.pm
      ∧ (issueUpTo n code items s).sp = s.sp ∧ (issueUpTo n code items s).cl = s.cl ∧ (issueUpTo n code items s).cs = s.cs
      ∧ (issueUpTo n code items s).ti = s.ti ∧ (issueUpTo n code items s).mx = s.mx ∧ (issueUpTo n code items s).en = s.en
      ∧ (issueUpTo n code items s).bt = s.bt ∧ (issueUpTo n code items s).hostMem = s.hostMem
      ∧ (issueUpTo n code items s).pending = s.pending ∧ (issueUpTo n code items s).freeCtr = s.freeCtr := by
  simp [issueUpTo]

/-- `issueFirst` changes no part but `sq`, `hi`, `mg`. -/
@[simp] theorem issueFirst_frame (code : Nat) (items : List Item) (s : State) :
    (issueFirst code items s).tb = s.tb ∧ (issueFirst code items s).pins = s.pins ∧ (issueFirst code items s).pf = s.pf
      ∧ (issueFirst code items s).tg = s.tg ∧ (issueFirst code items s).pt = s.pt ∧ (issueFirst code items s).pm = s.pm
      ∧ (issueFirst code items s).sp = s.sp ∧ (issueFirst code items s).cl = s.cl ∧ (issueFirst code items s).cs = s.cs
      ∧ (issueFirst code items s).ti = s.ti ∧ (issueFirst code items s).mx = s.mx ∧ (issueFirst code items s).en = s.en
      ∧ (issueFirst code items s).bt = s.bt ∧ (issueFirst code items s).hostMem = s.hostMem
      ∧ (issueFirst code items s).pending = s.pending ∧ (issueFirst code items s).freeCtr = s.freeCtr := by
  simp [issueFirst]

/-- `issueOnce` changes no part but `sq`, `hi`, `mg`. -/
@[simp] theorem issueOnce_frame (code : Nat) (items : List Item) (s : State) :
    (issueOnce code items s).tb = s.tb ∧ (issueOnce code items s).pins = s.pins ∧ (issueOnce code items s).pf = s.pf
      ∧ (issueOnce code items s).tg = s.tg ∧ (issueOnce code items s).pt = s.pt ∧ (issueOnce code items s).pm = s.pm
      ∧ (issueOnce code items s).sp = s.sp ∧ (issueOnce code items s).cl = s.cl ∧ (issueOnce code items s).cs = s.cs
      ∧ (issueOnce code items s).ti = s.ti ∧ (issueOnce code items s).mx = s.mx ∧ (issueOnce code items s).en = s.en
      ∧ (issueOnce code items s).bt = s.bt ∧ (issueOnce code items s).hostMem = s.hostMem
      ∧ (issueOnce code items s).pending = s.pending ∧ (issueOnce code items s).freeCtr = s.freeCtr := by
  simp [issueOnce]

/-- `refuseRunCtl` changes no part but `hi`, `mg`. -/
@[simp] theorem refuseRunCtl_frame (cmd cause event : Nat) (s : State) :
    (refuseRunCtl cmd cause event s).tb = s.tb ∧ (refuseRunCtl cmd cause event s).pins = s.pins
      ∧ (refuseRunCtl cmd cause event s).pf = s.pf ∧ (refuseRunCtl cmd cause event s).tg = s.tg
      ∧ (refuseRunCtl cmd cause event s).pt = s.pt ∧ (refuseRunCtl cmd cause event s).pm = s.pm
      ∧ (refuseRunCtl cmd cause event s).sq = s.sq ∧ (refuseRunCtl cmd cause event s).sp = s.sp
      ∧ (refuseRunCtl cmd cause event s).cl = s.cl ∧ (refuseRunCtl cmd cause event s).cs = s.cs
      ∧ (refuseRunCtl cmd cause event s).ti = s.ti ∧ (refuseRunCtl cmd cause event s).mx = s.mx
      ∧ (refuseRunCtl cmd cause event s).en = s.en ∧ (refuseRunCtl cmd cause event s).bt = s.bt
      ∧ (refuseRunCtl cmd cause event s).hostMem = s.hostMem ∧ (refuseRunCtl cmd cause event s).pending = s.pending
      ∧ (refuseRunCtl cmd cause event s).freeCtr = s.freeCtr := by
  simp [refuseRunCtl]

/-- `slotCarries` changes no part but `pm`. -/
@[simp] theorem slotCarries_frame (c : SlotClass) (k n : Nat) (s : State) :
    (slotCarries c k n s).tb = s.tb ∧ (slotCarries c k n s).pins = s.pins ∧ (slotCarries c k n s).pf = s.pf
      ∧ (slotCarries c k n s).tg = s.tg ∧ (slotCarries c k n s).pt = s.pt ∧ (slotCarries c k n s).sq = s.sq
      ∧ (slotCarries c k n s).sp = s.sp ∧ (slotCarries c k n s).cl = s.cl ∧ (slotCarries c k n s).cs = s.cs
      ∧ (slotCarries c k n s).ti = s.ti ∧ (slotCarries c k n s).mx = s.mx ∧ (slotCarries c k n s).en = s.en
      ∧ (slotCarries c k n s).hi = s.hi ∧ (slotCarries c k n s).mg = s.mg ∧ (slotCarries c k n s).bt = s.bt
      ∧ (slotCarries c k n s).hostMem = s.hostMem ∧ (slotCarries c k n s).pending = s.pending
      ∧ (slotCarries c k n s).freeCtr = s.freeCtr := by
  simp [slotCarries]

/-- `bookRound` changes no part but `pm`. -/
@[simp] theorem bookRound_frame (c : SlotClass) (n : Nat) (s : State) :
    (bookRound c n s).tb = s.tb ∧ (bookRound c n s).pins = s.pins ∧ (bookRound c n s).pf = s.pf ∧ (bookRound c n s).tg = s.tg
      ∧ (bookRound c n s).pt = s.pt ∧ (bookRound c n s).sq = s.sq ∧ (bookRound c n s).sp = s.sp ∧ (bookRound c n s).cl = s.cl
      ∧ (bookRound c n s).cs = s.cs ∧ (bookRound c n s).ti = s.ti ∧ (bookRound c n s).mx = s.mx ∧ (bookRound c n s).en = s.en
      ∧ (bookRound c n s).hi = s.hi ∧ (bookRound c n s).mg = s.mg ∧ (bookRound c n s).bt = s.bt
      ∧ (bookRound c n s).hostMem = s.hostMem ∧ (bookRound c n s).pending = s.pending ∧ (bookRound c n s).freeCtr = s.freeCtr := by
  simp [bookRound]

/-- `bookRounds` changes no part but `pm`. -/
@[simp] theorem bookRounds_frame (c : SlotClass) (n x2 : Nat) (s : State) :
    (bookRounds c n x2 s).tb = s.tb ∧ (bookRounds c n x2 s).pins = s.pins ∧ (bookRounds c n x2 s).pf = s.pf
      ∧ (bookRounds c n x2 s).tg = s.tg ∧ (bookRounds c n x2 s).pt = s.pt ∧ (bookRounds c n x2 s).sq = s.sq
      ∧ (bookRounds c n x2 s).sp = s.sp ∧ (bookRounds c n x2 s).cl = s.cl ∧ (bookRounds c n x2 s).cs = s.cs
      ∧ (bookRounds c n x2 s).ti = s.ti ∧ (bookRounds c n x2 s).mx = s.mx ∧ (bookRounds c n x2 s).en = s.en
      ∧ (bookRounds c n x2 s).hi = s.hi ∧ (bookRounds c n x2 s).mg = s.mg ∧ (bookRounds c n x2 s).bt = s.bt
      ∧ (bookRounds c n x2 s).hostMem = s.hostMem ∧ (bookRounds c n x2 s).pending = s.pending
      ∧ (bookRounds c n x2 s).freeCtr = s.freeCtr := by
  induction n generalizing x2 s with
  | zero => simp [bookRounds]
  | succ k ih => rw [bookRounds]; split <;> simp [ih]

/-- `bookSlots` changes no part but `pm`. -/
@[simp] theorem bookSlots_frame (c : SlotClass) (n : Nat) (s : State) :
    (bookSlots c n s).tb = s.tb ∧ (bookSlots c n s).pins = s.pins ∧ (bookSlots c n s).pf = s.pf ∧ (bookSlots c n s).tg = s.tg
      ∧ (bookSlots c n s).pt = s.pt ∧ (bookSlots c n s).sq = s.sq ∧ (bookSlots c n s).sp = s.sp ∧ (bookSlots c n s).cl = s.cl
      ∧ (bookSlots c n s).cs = s.cs ∧ (bookSlots c n s).ti = s.ti ∧ (bookSlots c n s).mx = s.mx ∧ (bookSlots c n s).en = s.en
      ∧ (bookSlots c n s).hi = s.hi ∧ (bookSlots c n s).mg = s.mg ∧ (bookSlots c n s).bt = s.bt
      ∧ (bookSlots c n s).hostMem = s.hostMem ∧ (bookSlots c n s).pending = s.pending ∧ (bookSlots c n s).freeCtr = s.freeCtr := by
  simp [bookSlots]

/-- `loseMark` changes no part but `cs`, `hi`, `mg`. -/
@[simp] theorem loseMark_frame (m : Mark) (s : State) :
    (loseMark m s).tb = s.tb ∧ (loseMark m s).pins = s.pins ∧ (loseMark m s).pf = s.pf ∧ (loseMark m s).tg = s.tg
      ∧ (loseMark m s).pt = s.pt ∧ (loseMark m s).pm = s.pm ∧ (loseMark m s).sq = s.sq ∧ (loseMark m s).sp = s.sp
      ∧ (loseMark m s).cl = s.cl ∧ (loseMark m s).ti = s.ti ∧ (loseMark m s).mx = s.mx ∧ (loseMark m s).en = s.en
      ∧ (loseMark m s).bt = s.bt ∧ (loseMark m s).hostMem = s.hostMem ∧ (loseMark m s).pending = s.pending
      ∧ (loseMark m s).freeCtr = s.freeCtr := by
  simp [loseMark]

/-- `queueMark` changes no part but `cs`, `hi`, `mg`. -/
@[simp] theorem queueMark_frame (m : Mark) (s : State) :
    (queueMark m s).tb = s.tb ∧ (queueMark m s).pins = s.pins ∧ (queueMark m s).pf = s.pf ∧ (queueMark m s).tg = s.tg
      ∧ (queueMark m s).pt = s.pt ∧ (queueMark m s).pm = s.pm ∧ (queueMark m s).sq = s.sq ∧ (queueMark m s).sp = s.sp
      ∧ (queueMark m s).cl = s.cl ∧ (queueMark m s).ti = s.ti ∧ (queueMark m s).mx = s.mx ∧ (queueMark m s).en = s.en
      ∧ (queueMark m s).bt = s.bt ∧ (queueMark m s).hostMem = s.hostMem ∧ (queueMark m s).pending = s.pending
      ∧ (queueMark m s).freeCtr = s.freeCtr := by
  simp [queueMark]

/-- `markAll` changes no part but `cs`, `hi`, `mg`. -/
@[simp] theorem markAll_frame (key : Nat) (w0 w1 : W64) (conds : List Nat) (s : State) :
    (markAll key w0 w1 conds s).tb = s.tb ∧ (markAll key w0 w1 conds s).pins = s.pins ∧ (markAll key w0 w1 conds s).pf = s.pf
      ∧ (markAll key w0 w1 conds s).tg = s.tg ∧ (markAll key w0 w1 conds s).pt = s.pt ∧ (markAll key w0 w1 conds s).pm = s.pm
      ∧ (markAll key w0 w1 conds s).sq = s.sq ∧ (markAll key w0 w1 conds s).sp = s.sp ∧ (markAll key w0 w1 conds s).cl = s.cl
      ∧ (markAll key w0 w1 conds s).ti = s.ti ∧ (markAll key w0 w1 conds s).mx = s.mx ∧ (markAll key w0 w1 conds s).en = s.en
      ∧ (markAll key w0 w1 conds s).bt = s.bt ∧ (markAll key w0 w1 conds s).hostMem = s.hostMem
      ∧ (markAll key w0 w1 conds s).pending = s.pending ∧ (markAll key w0 w1 conds s).freeCtr = s.freeCtr := by
  simp [markAll]

/-- `sendFrame` changes no part but `cs`, `hi`, `hostMem`. -/
@[simp] theorem sendFrame_frame (f : Frame) (s : State) :
    (sendFrame f s).tb = s.tb ∧ (sendFrame f s).pins = s.pins ∧ (sendFrame f s).pf = s.pf ∧ (sendFrame f s).tg = s.tg
      ∧ (sendFrame f s).pt = s.pt ∧ (sendFrame f s).pm = s.pm ∧ (sendFrame f s).sq = s.sq ∧ (sendFrame f s).sp = s.sp
      ∧ (sendFrame f s).cl = s.cl ∧ (sendFrame f s).ti = s.ti ∧ (sendFrame f s).mx = s.mx ∧ (sendFrame f s).en = s.en
      ∧ (sendFrame f s).mg = s.mg ∧ (sendFrame f s).bt = s.bt ∧ (sendFrame f s).pending = s.pending
      ∧ (sendFrame f s).freeCtr = s.freeCtr := by
  simp [sendFrame]

/-- `endDrop` changes no part but `cs`, `hi`, `mg`. -/
@[simp] theorem endDrop_frame (s : State) :
    (endDrop s).tb = s.tb ∧ (endDrop s).pins = s.pins ∧ (endDrop s).pf = s.pf ∧ (endDrop s).tg = s.tg ∧ (endDrop s).pt = s.pt
      ∧ (endDrop s).pm = s.pm ∧ (endDrop s).sq = s.sq ∧ (endDrop s).sp = s.sp ∧ (endDrop s).cl = s.cl ∧ (endDrop s).ti = s.ti
      ∧ (endDrop s).mx = s.mx ∧ (endDrop s).en = s.en ∧ (endDrop s).bt = s.bt ∧ (endDrop s).hostMem = s.hostMem
      ∧ (endDrop s).pending = s.pending ∧ (endDrop s).freeCtr = s.freeCtr := by
  unfold endDrop; split <;> simp

/-- `returnMarks` changes no part but `cs`, `hi`, `mg`. -/
@[simp] theorem returnMarks_frame (l : List Mark) (s : State) :
    (returnMarks l s).tb = s.tb ∧ (returnMarks l s).pins = s.pins ∧ (returnMarks l s).pf = s.pf ∧ (returnMarks l s).tg = s.tg
      ∧ (returnMarks l s).pt = s.pt ∧ (returnMarks l s).pm = s.pm ∧ (returnMarks l s).sq = s.sq ∧ (returnMarks l s).sp = s.sp
      ∧ (returnMarks l s).cl = s.cl ∧ (returnMarks l s).ti = s.ti ∧ (returnMarks l s).mx = s.mx ∧ (returnMarks l s).en = s.en
      ∧ (returnMarks l s).bt = s.bt ∧ (returnMarks l s).hostMem = s.hostMem ∧ (returnMarks l s).pending = s.pending
      ∧ (returnMarks l s).freeCtr = s.freeCtr := by
  simp [returnMarks]

/-- `dropFrame` changes no part but `cs`, `hi`, `mg`. -/
@[simp] theorem dropFrame_frame (f : Frame) (s : State) :
    (dropFrame f s).tb = s.tb ∧ (dropFrame f s).pins = s.pins ∧ (dropFrame f s).pf = s.pf ∧ (dropFrame f s).tg = s.tg
      ∧ (dropFrame f s).pt = s.pt ∧ (dropFrame f s).pm = s.pm ∧ (dropFrame f s).sq = s.sq ∧ (dropFrame f s).sp = s.sp
      ∧ (dropFrame f s).cl = s.cl ∧ (dropFrame f s).ti = s.ti ∧ (dropFrame f s).mx = s.mx ∧ (dropFrame f s).en = s.en
      ∧ (dropFrame f s).bt = s.bt ∧ (dropFrame f s).hostMem = s.hostMem ∧ (dropFrame f s).pending = s.pending
      ∧ (dropFrame f s).freeCtr = s.freeCtr := by
  simp [dropFrame]

/-- `stageOldest` changes no part but `pm`, `cs`, `hi`, `mg`. -/
@[simp] theorem stageOldest_frame (s : State) :
    (stageOldest s).tb = s.tb ∧ (stageOldest s).pins = s.pins ∧ (stageOldest s).pf = s.pf ∧ (stageOldest s).tg = s.tg
      ∧ (stageOldest s).pt = s.pt ∧ (stageOldest s).sq = s.sq ∧ (stageOldest s).sp = s.sp ∧ (stageOldest s).cl = s.cl
      ∧ (stageOldest s).ti = s.ti ∧ (stageOldest s).mx = s.mx ∧ (stageOldest s).en = s.en ∧ (stageOldest s).bt = s.bt
      ∧ (stageOldest s).hostMem = s.hostMem ∧ (stageOldest s).pending = s.pending ∧ (stageOldest s).freeCtr = s.freeCtr := by
  unfold stageOldest; split <;> simp

/-- `sendOldest` changes no part but `cs`, `hi`, `hostMem`. -/
@[simp] theorem sendOldest_frame (s : State) :
    (sendOldest s).tb = s.tb ∧ (sendOldest s).pins = s.pins ∧ (sendOldest s).pf = s.pf ∧ (sendOldest s).tg = s.tg
      ∧ (sendOldest s).pt = s.pt ∧ (sendOldest s).pm = s.pm ∧ (sendOldest s).sq = s.sq ∧ (sendOldest s).sp = s.sp
      ∧ (sendOldest s).cl = s.cl ∧ (sendOldest s).ti = s.ti ∧ (sendOldest s).mx = s.mx ∧ (sendOldest s).en = s.en
      ∧ (sendOldest s).mg = s.mg ∧ (sendOldest s).bt = s.bt ∧ (sendOldest s).pending = s.pending
      ∧ (sendOldest s).freeCtr = s.freeCtr := by
  unfold sendOldest; split <;> simp

/-- `frontRoom` changes no part but `pm`, `cs`, `hi`, `mg`, `hostMem`. -/
@[simp] theorem frontRoom_frame (s : State) :
    (frontRoom s).tb = s.tb ∧ (frontRoom s).pins = s.pins ∧ (frontRoom s).pf = s.pf ∧ (frontRoom s).tg = s.tg
      ∧ (frontRoom s).pt = s.pt ∧ (frontRoom s).sq = s.sq ∧ (frontRoom s).sp = s.sp ∧ (frontRoom s).cl = s.cl
      ∧ (frontRoom s).ti = s.ti ∧ (frontRoom s).mx = s.mx ∧ (frontRoom s).en = s.en ∧ (frontRoom s).bt = s.bt
      ∧ (frontRoom s).pending = s.pending ∧ (frontRoom s).freeCtr = s.freeCtr := by
  simp [frontRoom]

/-- `closeFrame` changes no part but `pm`, `cs`, `hi`, `mg`, `hostMem`. -/
@[simp] theorem closeFrame_frame (ps : Fin 16) (flag : Nat) (s : State) :
    (closeFrame ps flag s).tb = s.tb ∧ (closeFrame ps flag s).pins = s.pins ∧ (closeFrame ps flag s).pf = s.pf
      ∧ (closeFrame ps flag s).tg = s.tg ∧ (closeFrame ps flag s).pt = s.pt ∧ (closeFrame ps flag s).sq = s.sq
      ∧ (closeFrame ps flag s).sp = s.sp ∧ (closeFrame ps flag s).cl = s.cl ∧ (closeFrame ps flag s).ti = s.ti
      ∧ (closeFrame ps flag s).mx = s.mx ∧ (closeFrame ps flag s).en = s.en ∧ (closeFrame ps flag s).bt = s.bt
      ∧ (closeFrame ps flag s).pending = s.pending ∧ (closeFrame ps flag s).freeCtr = s.freeCtr := by
  unfold closeFrame; split <;> simp

/-- `putUnit` changes no part but `pm`, `cs`, `hi`, `mg`, `hostMem`. -/
@[simp] theorem putUnit_frame (ps : Fin 16) (era key : Nat) (w0 w1 : W64) (mk : Option Mark) (flag : Nat) (s : State) :
    (putUnit ps era key w0 w1 mk flag s).tb = s.tb ∧ (putUnit ps era key w0 w1 mk flag s).pins = s.pins
      ∧ (putUnit ps era key w0 w1 mk flag s).pf = s.pf ∧ (putUnit ps era key w0 w1 mk flag s).tg = s.tg
      ∧ (putUnit ps era key w0 w1 mk flag s).pt = s.pt ∧ (putUnit ps era key w0 w1 mk flag s).sq = s.sq
      ∧ (putUnit ps era key w0 w1 mk flag s).sp = s.sp ∧ (putUnit ps era key w0 w1 mk flag s).cl = s.cl
      ∧ (putUnit ps era key w0 w1 mk flag s).ti = s.ti ∧ (putUnit ps era key w0 w1 mk flag s).mx = s.mx
      ∧ (putUnit ps era key w0 w1 mk flag s).en = s.en ∧ (putUnit ps era key w0 w1 mk flag s).bt = s.bt
      ∧ (putUnit ps era key w0 w1 mk flag s).pending = s.pending ∧ (putUnit ps era key w0 w1 mk flag s).freeCtr = s.freeCtr := by
  simp [putUnit]

/-- `placeData` changes no part but `pm`, `cs`, `hi`, `mg`, `hostMem`. -/
@[simp] theorem placeData_frame (ps : Fin 16) (l : List Datum) (s : State) :
    (placeData ps l s).tb = s.tb ∧ (placeData ps l s).pins = s.pins ∧ (placeData ps l s).pf = s.pf
      ∧ (placeData ps l s).tg = s.tg ∧ (placeData ps l s).pt = s.pt ∧ (placeData ps l s).sq = s.sq
      ∧ (placeData ps l s).sp = s.sp ∧ (placeData ps l s).cl = s.cl ∧ (placeData ps l s).ti = s.ti
      ∧ (placeData ps l s).mx = s.mx ∧ (placeData ps l s).en = s.en ∧ (placeData ps l s).bt = s.bt
      ∧ (placeData ps l s).pending = s.pending ∧ (placeData ps l s).freeCtr = s.freeCtr := by
  unfold placeData; split <;> simp

/-- `placeMark` changes no part but `pm`, `cs`, `hi`, `mg`, `hostMem`. -/
@[simp] theorem placeMark_frame (m : Mark) (s : State) :
    (placeMark m s).tb = s.tb ∧ (placeMark m s).pins = s.pins ∧ (placeMark m s).pf = s.pf ∧ (placeMark m s).tg = s.tg
      ∧ (placeMark m s).pt = s.pt ∧ (placeMark m s).sq = s.sq ∧ (placeMark m s).sp = s.sp ∧ (placeMark m s).cl = s.cl
      ∧ (placeMark m s).ti = s.ti ∧ (placeMark m s).mx = s.mx ∧ (placeMark m s).en = s.en ∧ (placeMark m s).bt = s.bt
      ∧ (placeMark m s).pending = s.pending ∧ (placeMark m s).freeCtr = s.freeCtr := by
  simp [placeMark]

/-- `placeQueued` changes no part but `pm`, `cs`, `hi`, `mg`, `hostMem`. -/
@[simp] theorem placeQueued_frame (m : Mark) (s : State) :
    (placeQueued m s).tb = s.tb ∧ (placeQueued m s).pins = s.pins ∧ (placeQueued m s).pf = s.pf ∧ (placeQueued m s).tg = s.tg
      ∧ (placeQueued m s).pt = s.pt ∧ (placeQueued m s).sq = s.sq ∧ (placeQueued m s).sp = s.sp ∧ (placeQueued m s).cl = s.cl
      ∧ (placeQueued m s).ti = s.ti ∧ (placeQueued m s).mx = s.mx ∧ (placeQueued m s).en = s.en ∧ (placeQueued m s).bt = s.bt
      ∧ (placeQueued m s).pending = s.pending ∧ (placeQueued m s).freeCtr = s.freeCtr := by
  simp [placeQueued]

/-- `stalePlace` changes no part but `pm`, `cs`, `hi`, `mg`, `hostMem`. -/
@[simp] theorem stalePlace_frame (ps : Fin 16) (f : Frame) (s : State) :
    (stalePlace ps f s).tb = s.tb ∧ (stalePlace ps f s).pins = s.pins ∧ (stalePlace ps f s).pf = s.pf
      ∧ (stalePlace ps f s).tg = s.tg ∧ (stalePlace ps f s).pt = s.pt ∧ (stalePlace ps f s).sq = s.sq
      ∧ (stalePlace ps f s).sp = s.sp ∧ (stalePlace ps f s).cl = s.cl ∧ (stalePlace ps f s).ti = s.ti
      ∧ (stalePlace ps f s).mx = s.mx ∧ (stalePlace ps f s).en = s.en ∧ (stalePlace ps f s).bt = s.bt
      ∧ (stalePlace ps f s).pending = s.pending ∧ (stalePlace ps f s).freeCtr = s.freeCtr := by
  simp [stalePlace]

/-- `placeItem` changes no part but `pm`, `cs`, `hi`, `mg`, `hostMem`. -/
@[simp] theorem placeItem_frame (ps : Fin 16) (upTo : Option Nat) (s : State) :
    (placeItem ps upTo s).tb = s.tb ∧ (placeItem ps upTo s).pins = s.pins ∧ (placeItem ps upTo s).pf = s.pf
      ∧ (placeItem ps upTo s).tg = s.tg ∧ (placeItem ps upTo s).pt = s.pt ∧ (placeItem ps upTo s).sq = s.sq
      ∧ (placeItem ps upTo s).sp = s.sp ∧ (placeItem ps upTo s).cl = s.cl ∧ (placeItem ps upTo s).ti = s.ti
      ∧ (placeItem ps upTo s).mx = s.mx ∧ (placeItem ps upTo s).en = s.en ∧ (placeItem ps upTo s).bt = s.bt
      ∧ (placeItem ps upTo s).pending = s.pending ∧ (placeItem ps upTo s).freeCtr = s.freeCtr := by
  unfold placeItem; split <;> simp

/-- `placeNext` changes no part but `pm`, `cs`, `hi`, `mg`, `hostMem`. -/
@[simp] theorem placeNext_frame (ps : Fin 16) (upTo : Option Nat) (s : State) :
    (placeNext ps upTo s).tb = s.tb ∧ (placeNext ps upTo s).pins = s.pins ∧ (placeNext ps upTo s).pf = s.pf
      ∧ (placeNext ps upTo s).tg = s.tg ∧ (placeNext ps upTo s).pt = s.pt ∧ (placeNext ps upTo s).sq = s.sq
      ∧ (placeNext ps upTo s).sp = s.sp ∧ (placeNext ps upTo s).cl = s.cl ∧ (placeNext ps upTo s).ti = s.ti
      ∧ (placeNext ps upTo s).mx = s.mx ∧ (placeNext ps upTo s).en = s.en ∧ (placeNext ps upTo s).bt = s.bt
      ∧ (placeNext ps upTo s).pending = s.pending ∧ (placeNext ps upTo s).freeCtr = s.freeCtr := by
  unfold placeNext; and_intros <;> (repeat' (first | (simp; done) | split))

/-- `placeAll` changes no part but `pm`, `cs`, `hi`, `mg`, `hostMem`. -/
@[simp] theorem placeAll_frame (ps : Fin 16) (upTo : Option Nat) (n : Nat) (s : State) :
    (placeAll ps upTo n s).tb = s.tb ∧ (placeAll ps upTo n s).pins = s.pins ∧ (placeAll ps upTo n s).pf = s.pf
      ∧ (placeAll ps upTo n s).tg = s.tg ∧ (placeAll ps upTo n s).pt = s.pt ∧ (placeAll ps upTo n s).sq = s.sq
      ∧ (placeAll ps upTo n s).sp = s.sp ∧ (placeAll ps upTo n s).cl = s.cl ∧ (placeAll ps upTo n s).ti = s.ti
      ∧ (placeAll ps upTo n s).mx = s.mx ∧ (placeAll ps upTo n s).en = s.en ∧ (placeAll ps upTo n s).bt = s.bt
      ∧ (placeAll ps upTo n s).pending = s.pending ∧ (placeAll ps upTo n s).freeCtr = s.freeCtr := by
  induction n generalizing s with
  | zero => simp [placeAll]
  | succ n ih => rw [placeAll]; split <;> simp [ih]

/-- `closeSet` changes no part but `pm`, `cs`, `hi`, `mg`, `hostMem`. -/
@[simp] theorem closeSet_frame (upTo : Option Nat) (flag : Nat) (s : State) (ps : Fin 16) :
    (closeSet upTo flag s ps).tb = s.tb ∧ (closeSet upTo flag s ps).pins = s.pins ∧ (closeSet upTo flag s ps).pf = s.pf
      ∧ (closeSet upTo flag s ps).tg = s.tg ∧ (closeSet upTo flag s ps).pt = s.pt ∧ (closeSet upTo flag s ps).sq = s.sq
      ∧ (closeSet upTo flag s ps).sp = s.sp ∧ (closeSet upTo flag s ps).cl = s.cl ∧ (closeSet upTo flag s ps).ti = s.ti
      ∧ (closeSet upTo flag s ps).mx = s.mx ∧ (closeSet upTo flag s ps).en = s.en ∧ (closeSet upTo flag s ps).bt = s.bt
      ∧ (closeSet upTo flag s ps).pending = s.pending ∧ (closeSet upTo flag s ps).freeCtr = s.freeCtr := by
  simp [closeSet]

/-- `closeFrames` changes no part but `pm`, `cs`, `hi`, `mg`, `hostMem`. -/
@[simp] theorem closeFrames_frame (upTo : Option Nat) (flag : Nat) (s : State) :
    (closeFrames upTo flag s).tb = s.tb ∧ (closeFrames upTo flag s).pins = s.pins ∧ (closeFrames upTo flag s).pf = s.pf
      ∧ (closeFrames upTo flag s).tg = s.tg ∧ (closeFrames upTo flag s).pt = s.pt ∧ (closeFrames upTo flag s).sq = s.sq
      ∧ (closeFrames upTo flag s).sp = s.sp ∧ (closeFrames upTo flag s).cl = s.cl ∧ (closeFrames upTo flag s).ti = s.ti
      ∧ (closeFrames upTo flag s).mx = s.mx ∧ (closeFrames upTo flag s).en = s.en ∧ (closeFrames upTo flag s).bt = s.bt
      ∧ (closeFrames upTo flag s).pending = s.pending ∧ (closeFrames upTo flag s).freeCtr = s.freeCtr := by
  simp [closeFrames]

/-- `closeEpoch` changes no part but `pm`, `cs`, `hi`, `mg`, `hostMem`. -/
@[simp] theorem closeEpoch_frame (s : State) :
    (closeEpoch s).tb = s.tb ∧ (closeEpoch s).pins = s.pins ∧ (closeEpoch s).pf = s.pf ∧ (closeEpoch s).tg = s.tg
      ∧ (closeEpoch s).pt = s.pt ∧ (closeEpoch s).sq = s.sq ∧ (closeEpoch s).sp = s.sp ∧ (closeEpoch s).cl = s.cl
      ∧ (closeEpoch s).ti = s.ti ∧ (closeEpoch s).mx = s.mx ∧ (closeEpoch s).en = s.en ∧ (closeEpoch s).bt = s.bt
      ∧ (closeEpoch s).pending = s.pending ∧ (closeEpoch s).freeCtr = s.freeCtr := by
  simp [closeEpoch]

/-- `epochMark` changes no part but `cs`. -/
@[simp] theorem epochMark_frame (kind key : Nat) (w1 : W64) (s : State) :
    (epochMark kind key w1 s).tb = s.tb ∧ (epochMark kind key w1 s).pins = s.pins ∧ (epochMark kind key w1 s).pf = s.pf
      ∧ (epochMark kind key w1 s).tg = s.tg ∧ (epochMark kind key w1 s).pt = s.pt ∧ (epochMark kind key w1 s).pm = s.pm
      ∧ (epochMark kind key w1 s).sq = s.sq ∧ (epochMark kind key w1 s).sp = s.sp ∧ (epochMark kind key w1 s).cl = s.cl
      ∧ (epochMark kind key w1 s).ti = s.ti ∧ (epochMark kind key w1 s).mx = s.mx ∧ (epochMark kind key w1 s).en = s.en
      ∧ (epochMark kind key w1 s).hi = s.hi ∧ (epochMark kind key w1 s).mg = s.mg ∧ (epochMark kind key w1 s).bt = s.bt
      ∧ (epochMark kind key w1 s).hostMem = s.hostMem ∧ (epochMark kind key w1 s).pending = s.pending
      ∧ (epochMark kind key w1 s).freeCtr = s.freeCtr := by
  simp [epochMark]

/-- `enBurst` changes no part but `en`. -/
@[simp] theorem enBurst_frame (b : Burst) (s : State) (p : Port) :
    (enBurst b s p).tb = s.tb ∧ (enBurst b s p).pins = s.pins ∧ (enBurst b s p).pf = s.pf ∧ (enBurst b s p).tg = s.tg
      ∧ (enBurst b s p).pt = s.pt ∧ (enBurst b s p).pm = s.pm ∧ (enBurst b s p).sq = s.sq ∧ (enBurst b s p).sp = s.sp
      ∧ (enBurst b s p).cl = s.cl ∧ (enBurst b s p).cs = s.cs ∧ (enBurst b s p).ti = s.ti ∧ (enBurst b s p).mx = s.mx
      ∧ (enBurst b s p).hi = s.hi ∧ (enBurst b s p).mg = s.mg ∧ (enBurst b s p).bt = s.bt ∧ (enBurst b s p).hostMem = s.hostMem
      ∧ (enBurst b s p).pending = s.pending ∧ (enBurst b s p).freeCtr = s.freeCtr := by
  simp [enBurst]

/-- `burstUp` changes no part but `en`. -/
@[simp] theorem burstUp_frame (b : Burst) (s : State) :
    (burstUp b s).tb = s.tb ∧ (burstUp b s).pins = s.pins ∧ (burstUp b s).pf = s.pf ∧ (burstUp b s).tg = s.tg
      ∧ (burstUp b s).pt = s.pt ∧ (burstUp b s).pm = s.pm ∧ (burstUp b s).sq = s.sq ∧ (burstUp b s).sp = s.sp
      ∧ (burstUp b s).cl = s.cl ∧ (burstUp b s).cs = s.cs ∧ (burstUp b s).ti = s.ti ∧ (burstUp b s).mx = s.mx
      ∧ (burstUp b s).hi = s.hi ∧ (burstUp b s).mg = s.mg ∧ (burstUp b s).bt = s.bt ∧ (burstUp b s).hostMem = s.hostMem
      ∧ (burstUp b s).pending = s.pending ∧ (burstUp b s).freeCtr = s.freeCtr := by
  simp [burstUp]

/-- `burstDown` changes no part but `en`. -/
@[simp] theorem burstDown_frame (b : Burst) (s : State) :
    (burstDown b s).tb = s.tb ∧ (burstDown b s).pins = s.pins ∧ (burstDown b s).pf = s.pf ∧ (burstDown b s).tg = s.tg
      ∧ (burstDown b s).pt = s.pt ∧ (burstDown b s).pm = s.pm ∧ (burstDown b s).sq = s.sq ∧ (burstDown b s).sp = s.sp
      ∧ (burstDown b s).cl = s.cl ∧ (burstDown b s).cs = s.cs ∧ (burstDown b s).ti = s.ti ∧ (burstDown b s).mx = s.mx
      ∧ (burstDown b s).hi = s.hi ∧ (burstDown b s).mg = s.mg ∧ (burstDown b s).bt = s.bt ∧ (burstDown b s).hostMem = s.hostMem
      ∧ (burstDown b s).pending = s.pending ∧ (burstDown b s).freeCtr = s.freeCtr := by
  simp [burstDown]

/-- `enMsg` changes no part but `en`. -/
@[simp] theorem enMsg_frame (m : Mgmt) (s : State) (p : Port) :
    (enMsg m s p).tb = s.tb ∧ (enMsg m s p).pins = s.pins ∧ (enMsg m s p).pf = s.pf ∧ (enMsg m s p).tg = s.tg
      ∧ (enMsg m s p).pt = s.pt ∧ (enMsg m s p).pm = s.pm ∧ (enMsg m s p).sq = s.sq ∧ (enMsg m s p).sp = s.sp
      ∧ (enMsg m s p).cl = s.cl ∧ (enMsg m s p).cs = s.cs ∧ (enMsg m s p).ti = s.ti ∧ (enMsg m s p).mx = s.mx
      ∧ (enMsg m s p).hi = s.hi ∧ (enMsg m s p).mg = s.mg ∧ (enMsg m s p).bt = s.bt ∧ (enMsg m s p).hostMem = s.hostMem
      ∧ (enMsg m s p).pending = s.pending ∧ (enMsg m s p).freeCtr = s.freeCtr := by
  simp [enMsg]

/-- `msgDown` changes no part but `en`. -/
@[simp] theorem msgDown_frame (m : Mgmt) (s : State) :
    (msgDown m s).tb = s.tb ∧ (msgDown m s).pins = s.pins ∧ (msgDown m s).pf = s.pf ∧ (msgDown m s).tg = s.tg
      ∧ (msgDown m s).pt = s.pt ∧ (msgDown m s).pm = s.pm ∧ (msgDown m s).sq = s.sq ∧ (msgDown m s).sp = s.sp
      ∧ (msgDown m s).cl = s.cl ∧ (msgDown m s).cs = s.cs ∧ (msgDown m s).ti = s.ti ∧ (msgDown m s).mx = s.mx
      ∧ (msgDown m s).hi = s.hi ∧ (msgDown m s).mg = s.mg ∧ (msgDown m s).bt = s.bt ∧ (msgDown m s).hostMem = s.hostMem
      ∧ (msgDown m s).pending = s.pending ∧ (msgDown m s).freeCtr = s.freeCtr := by
  simp [msgDown]

/-- `recordDiscord` changes no part but `en`, `hi`, `mg`. -/
@[simp] theorem recordDiscord_frame (cause member port detail : Nat) (s : State) :
    (recordDiscord cause member port detail s).tb = s.tb ∧ (recordDiscord cause member port detail s).pins = s.pins
      ∧ (recordDiscord cause member port detail s).pf = s.pf ∧ (recordDiscord cause member port detail s).tg = s.tg
      ∧ (recordDiscord cause member port detail s).pt = s.pt ∧ (recordDiscord cause member port detail s).pm = s.pm
      ∧ (recordDiscord cause member port detail s).sq = s.sq ∧ (recordDiscord cause member port detail s).sp = s.sp
      ∧ (recordDiscord cause member port detail s).cl = s.cl ∧ (recordDiscord cause member port detail s).cs = s.cs
      ∧ (recordDiscord cause member port detail s).ti = s.ti ∧ (recordDiscord cause member port detail s).mx = s.mx
      ∧ (recordDiscord cause member port detail s).bt = s.bt ∧ (recordDiscord cause member port detail s).hostMem = s.hostMem
      ∧ (recordDiscord cause member port detail s).pending = s.pending
      ∧ (recordDiscord cause member port detail s).freeCtr = s.freeCtr := by
  simp [recordDiscord]

/-- `sendDiscord` changes no part but `en`. -/
@[simp] theorem sendDiscord_frame (cause port detail : Nat) (s : State) :
    (sendDiscord cause port detail s).tb = s.tb ∧ (sendDiscord cause port detail s).pins = s.pins
      ∧ (sendDiscord cause port detail s).pf = s.pf ∧ (sendDiscord cause port detail s).tg = s.tg
      ∧ (sendDiscord cause port detail s).pt = s.pt ∧ (sendDiscord cause port detail s).pm = s.pm
      ∧ (sendDiscord cause port detail s).sq = s.sq ∧ (sendDiscord cause port detail s).sp = s.sp
      ∧ (sendDiscord cause port detail s).cl = s.cl ∧ (sendDiscord cause port detail s).cs = s.cs
      ∧ (sendDiscord cause port detail s).ti = s.ti ∧ (sendDiscord cause port detail s).mx = s.mx
      ∧ (sendDiscord cause port detail s).hi = s.hi ∧ (sendDiscord cause port detail s).mg = s.mg
      ∧ (sendDiscord cause port detail s).bt = s.bt ∧ (sendDiscord cause port detail s).hostMem = s.hostMem
      ∧ (sendDiscord cause port detail s).pending = s.pending ∧ (sendDiscord cause port detail s).freeCtr = s.freeCtr := by
  simp [sendDiscord]

/-- `tiuSayOnce` changes no part but `ti`, `hi`, `mg`. -/
@[simp] theorem tiuSayOnce_frame (g : Glove) (code : Nat) (start : Int) (s : State) :
    (tiuSayOnce g code start s).tb = s.tb ∧ (tiuSayOnce g code start s).pins = s.pins ∧ (tiuSayOnce g code start s).pf = s.pf
      ∧ (tiuSayOnce g code start s).tg = s.tg ∧ (tiuSayOnce g code start s).pt = s.pt ∧ (tiuSayOnce g code start s).pm = s.pm
      ∧ (tiuSayOnce g code start s).sq = s.sq ∧ (tiuSayOnce g code start s).sp = s.sp ∧ (tiuSayOnce g code start s).cl = s.cl
      ∧ (tiuSayOnce g code start s).cs = s.cs ∧ (tiuSayOnce g code start s).mx = s.mx ∧ (tiuSayOnce g code start s).en = s.en
      ∧ (tiuSayOnce g code start s).bt = s.bt ∧ (tiuSayOnce g code start s).hostMem = s.hostMem
      ∧ (tiuSayOnce g code start s).pending = s.pending ∧ (tiuSayOnce g code start s).freeCtr = s.freeCtr := by
  simp [tiuSayOnce]

/-- `tiuNoStop` changes no part but `ti`, `hi`, `mg`. -/
@[simp] theorem tiuNoStop_frame (g : Glove) (s : State) :
    (tiuNoStop g s).tb = s.tb ∧ (tiuNoStop g s).pins = s.pins ∧ (tiuNoStop g s).pf = s.pf ∧ (tiuNoStop g s).tg = s.tg
      ∧ (tiuNoStop g s).pt = s.pt ∧ (tiuNoStop g s).pm = s.pm ∧ (tiuNoStop g s).sq = s.sq ∧ (tiuNoStop g s).sp = s.sp
      ∧ (tiuNoStop g s).cl = s.cl ∧ (tiuNoStop g s).cs = s.cs ∧ (tiuNoStop g s).mx = s.mx ∧ (tiuNoStop g s).en = s.en
      ∧ (tiuNoStop g s).bt = s.bt ∧ (tiuNoStop g s).hostMem = s.hostMem ∧ (tiuNoStop g s).pending = s.pending
      ∧ (tiuNoStop g s).freeCtr = s.freeCtr := by
  unfold tiuNoStop; split <;> simp

/-- `tiuCheckDone` changes no part but `ti`, `hi`, `mg`. -/
@[simp] theorem tiuCheckDone_frame (g : Glove) (s : State) :
    (tiuCheckDone g s).tb = s.tb ∧ (tiuCheckDone g s).pins = s.pins ∧ (tiuCheckDone g s).pf = s.pf
      ∧ (tiuCheckDone g s).tg = s.tg ∧ (tiuCheckDone g s).pt = s.pt ∧ (tiuCheckDone g s).pm = s.pm
      ∧ (tiuCheckDone g s).sq = s.sq ∧ (tiuCheckDone g s).sp = s.sp ∧ (tiuCheckDone g s).cl = s.cl
      ∧ (tiuCheckDone g s).cs = s.cs ∧ (tiuCheckDone g s).mx = s.mx ∧ (tiuCheckDone g s).en = s.en
      ∧ (tiuCheckDone g s).bt = s.bt ∧ (tiuCheckDone g s).hostMem = s.hostMem ∧ (tiuCheckDone g s).pending = s.pending
      ∧ (tiuCheckDone g s).freeCtr = s.freeCtr := by
  simp [tiuCheckDone]

/-- `countShot` changes no part but `ti`, `hi`, `mg`, `freeCtr`. -/
@[simp] theorem countShot_frame (g : Glove) (start stop : Int) (s : State) :
    (countShot g start stop s).tb = s.tb ∧ (countShot g start stop s).pins = s.pins ∧ (countShot g start stop s).pf = s.pf
      ∧ (countShot g start stop s).tg = s.tg ∧ (countShot g start stop s).pt = s.pt ∧ (countShot g start stop s).pm = s.pm
      ∧ (countShot g start stop s).sq = s.sq ∧ (countShot g start stop s).sp = s.sp ∧ (countShot g start stop s).cl = s.cl
      ∧ (countShot g start stop s).cs = s.cs ∧ (countShot g start stop s).mx = s.mx ∧ (countShot g start stop s).en = s.en
      ∧ (countShot g start stop s).bt = s.bt ∧ (countShot g start stop s).hostMem = s.hostMem
      ∧ (countShot g start stop s).pending = s.pending := by
  simp [countShot]

/-- `countOver` changes no part but `ti`, `hi`, `mg`. -/
@[simp] theorem countOver_frame (g : Glove) (start : Int) (s : State) :
    (countOver g start s).tb = s.tb ∧ (countOver g start s).pins = s.pins ∧ (countOver g start s).pf = s.pf
      ∧ (countOver g start s).tg = s.tg ∧ (countOver g start s).pt = s.pt ∧ (countOver g start s).pm = s.pm
      ∧ (countOver g start s).sq = s.sq ∧ (countOver g start s).sp = s.sp ∧ (countOver g start s).cl = s.cl
      ∧ (countOver g start s).cs = s.cs ∧ (countOver g start s).mx = s.mx ∧ (countOver g start s).en = s.en
      ∧ (countOver g start s).bt = s.bt ∧ (countOver g start s).hostMem = s.hostMem ∧ (countOver g start s).pending = s.pending
      ∧ (countOver g start s).freeCtr = s.freeCtr := by
  simp [countOver]

/-- `countEnded` changes no part but `ti`, `hi`, `mg`, `freeCtr`. -/
@[simp] theorem countEnded_frame (s : State) (x : EndedShot) :
    (countEnded s x).tb = s.tb ∧ (countEnded s x).pins = s.pins ∧ (countEnded s x).pf = s.pf ∧ (countEnded s x).tg = s.tg
      ∧ (countEnded s x).pt = s.pt ∧ (countEnded s x).pm = s.pm ∧ (countEnded s x).sq = s.sq ∧ (countEnded s x).sp = s.sp
      ∧ (countEnded s x).cl = s.cl ∧ (countEnded s x).cs = s.cs ∧ (countEnded s x).mx = s.mx ∧ (countEnded s x).en = s.en
      ∧ (countEnded s x).bt = s.bt ∧ (countEnded s x).hostMem = s.hostMem ∧ (countEnded s x).pending = s.pending := by
  simp [countEnded]

/-- `tiuSettle` changes no part but `ti`, `hi`, `mg`, `freeCtr`. -/
@[simp] theorem tiuSettle_frame (f : EndedShot → Bool) (s : State) :
    (tiuSettle f s).tb = s.tb ∧ (tiuSettle f s).pins = s.pins ∧ (tiuSettle f s).pf = s.pf ∧ (tiuSettle f s).tg = s.tg
      ∧ (tiuSettle f s).pt = s.pt ∧ (tiuSettle f s).pm = s.pm ∧ (tiuSettle f s).sq = s.sq ∧ (tiuSettle f s).sp = s.sp
      ∧ (tiuSettle f s).cl = s.cl ∧ (tiuSettle f s).cs = s.cs ∧ (tiuSettle f s).mx = s.mx ∧ (tiuSettle f s).en = s.en
      ∧ (tiuSettle f s).bt = s.bt ∧ (tiuSettle f s).hostMem = s.hostMem ∧ (tiuSettle f s).pending = s.pending := by
  simp [tiuSettle]

/-- `tiuPast` changes no part but `ti`, `hi`, `mg`, `freeCtr`. -/
@[simp] theorem tiuPast_frame (s : State) :
    (tiuPast s).tb = s.tb ∧ (tiuPast s).pins = s.pins ∧ (tiuPast s).pf = s.pf ∧ (tiuPast s).tg = s.tg ∧ (tiuPast s).pt = s.pt
      ∧ (tiuPast s).pm = s.pm ∧ (tiuPast s).sq = s.sq ∧ (tiuPast s).sp = s.sp ∧ (tiuPast s).cl = s.cl ∧ (tiuPast s).cs = s.cs
      ∧ (tiuPast s).mx = s.mx ∧ (tiuPast s).en = s.en ∧ (tiuPast s).bt = s.bt ∧ (tiuPast s).hostMem = s.hostMem
      ∧ (tiuPast s).pending = s.pending := by
  simp [tiuPast]

/-- `giveHit` changes no part but `cs`, `mx`, `hi`, `mg`. -/
@[simp] theorem giveHit_frame (p : Pin) (s : State) (h : RawHit) :
    (giveHit p s h).tb = s.tb ∧ (giveHit p s h).pins = s.pins ∧ (giveHit p s h).pf = s.pf ∧ (giveHit p s h).tg = s.tg
      ∧ (giveHit p s h).pt = s.pt ∧ (giveHit p s h).pm = s.pm ∧ (giveHit p s h).sq = s.sq ∧ (giveHit p s h).sp = s.sp
      ∧ (giveHit p s h).cl = s.cl ∧ (giveHit p s h).ti = s.ti ∧ (giveHit p s h).en = s.en ∧ (giveHit p s h).bt = s.bt
      ∧ (giveHit p s h).hostMem = s.hostMem ∧ (giveHit p s h).pending = s.pending ∧ (giveHit p s h).freeCtr = s.freeCtr := by
  simp [giveHit]

/-- `classify` changes no part but `pins`, `cs`, `mx`, `hi`, `mg`. -/
@[simp] theorem classify_frame (p : Pin) (k : XKind) (t : Int) (s : State) :
    (classify p k t s).tb = s.tb ∧ (classify p k t s).pf = s.pf ∧ (classify p k t s).tg = s.tg ∧ (classify p k t s).pt = s.pt
      ∧ (classify p k t s).pm = s.pm ∧ (classify p k t s).sq = s.sq ∧ (classify p k t s).sp = s.sp
      ∧ (classify p k t s).cl = s.cl ∧ (classify p k t s).ti = s.ti ∧ (classify p k t s).en = s.en
      ∧ (classify p k t s).bt = s.bt ∧ (classify p k t s).hostMem = s.hostMem ∧ (classify p k t s).pending = s.pending
      ∧ (classify p k t s).freeCtr = s.freeCtr := by
  simp [classify]

/-- `loseStamp` changes no part but `cs`, `hi`, `mg`. -/
@[simp] theorem loseStamp_frame (p : Pin) (t : Nat) (s : State) :
    (loseStamp p t s).tb = s.tb ∧ (loseStamp p t s).pins = s.pins ∧ (loseStamp p t s).pf = s.pf ∧ (loseStamp p t s).tg = s.tg
      ∧ (loseStamp p t s).pt = s.pt ∧ (loseStamp p t s).pm = s.pm ∧ (loseStamp p t s).sq = s.sq ∧ (loseStamp p t s).sp = s.sp
      ∧ (loseStamp p t s).cl = s.cl ∧ (loseStamp p t s).ti = s.ti ∧ (loseStamp p t s).mx = s.mx ∧ (loseStamp p t s).en = s.en
      ∧ (loseStamp p t s).bt = s.bt ∧ (loseStamp p t s).hostMem = s.hostMem ∧ (loseStamp p t s).pending = s.pending
      ∧ (loseStamp p t s).freeCtr = s.freeCtr := by
  unfold loseStamp addOverflow; and_intros <;> simp

/-- `streamStamp` changes no part but `pins`, `cs`, `hi`, `mg`. -/
@[simp] theorem streamStamp_frame (p : Pin) (k : XKind) (t : Int) (seen : Nat) (s : State) :
    (streamStamp p k t seen s).tb = s.tb ∧ (streamStamp p k t seen s).pf = s.pf ∧ (streamStamp p k t seen s).tg = s.tg
      ∧ (streamStamp p k t seen s).pt = s.pt ∧ (streamStamp p k t seen s).pm = s.pm ∧ (streamStamp p k t seen s).sq = s.sq
      ∧ (streamStamp p k t seen s).sp = s.sp ∧ (streamStamp p k t seen s).cl = s.cl ∧ (streamStamp p k t seen s).ti = s.ti
      ∧ (streamStamp p k t seen s).mx = s.mx ∧ (streamStamp p k t seen s).en = s.en ∧ (streamStamp p k t seen s).bt = s.bt
      ∧ (streamStamp p k t seen s).hostMem = s.hostMem ∧ (streamStamp p k t seen s).pending = s.pending
      ∧ (streamStamp p k t seen s).freeCtr = s.freeCtr := by
  unfold streamStamp; and_intros <;> simp

/-- `stampOut` changes no part but `pins`, `cs`, `mx`, `hi`, `mg`. -/
@[simp] theorem stampOut_frame (s : State) (x : PendX) :
    (stampOut s x).tb = s.tb ∧ (stampOut s x).pf = s.pf ∧ (stampOut s x).tg = s.tg ∧ (stampOut s x).pt = s.pt
      ∧ (stampOut s x).pm = s.pm ∧ (stampOut s x).sq = s.sq ∧ (stampOut s x).sp = s.sp ∧ (stampOut s x).cl = s.cl
      ∧ (stampOut s x).ti = s.ti ∧ (stampOut s x).en = s.en ∧ (stampOut s x).bt = s.bt ∧ (stampOut s x).hostMem = s.hostMem
      ∧ (stampOut s x).pending = s.pending ∧ (stampOut s x).freeCtr = s.freeCtr := by
  simp [stampOut]

/-- `flushX` changes no part but `pins`, `cs`, `mx`, `hi`, `mg`. -/
@[simp] theorem flushX_frame (f : PendX → Bool) (s : State) :
    (flushX f s).tb = s.tb ∧ (flushX f s).pf = s.pf ∧ (flushX f s).tg = s.tg ∧ (flushX f s).pt = s.pt ∧ (flushX f s).pm = s.pm
      ∧ (flushX f s).sq = s.sq ∧ (flushX f s).sp = s.sp ∧ (flushX f s).cl = s.cl ∧ (flushX f s).ti = s.ti
      ∧ (flushX f s).en = s.en ∧ (flushX f s).bt = s.bt ∧ (flushX f s).hostMem = s.hostMem ∧ (flushX f s).pending = s.pending
      ∧ (flushX f s).freeCtr = s.freeCtr := by
  simp [flushX]

/-- `flushAll` changes no part but `pins`, `cs`, `mx`, `hi`, `mg`. -/
@[simp] theorem flushAll_frame (s : State) :
    (flushAll s).tb = s.tb ∧ (flushAll s).pf = s.pf ∧ (flushAll s).tg = s.tg ∧ (flushAll s).pt = s.pt ∧ (flushAll s).pm = s.pm
      ∧ (flushAll s).sq = s.sq ∧ (flushAll s).sp = s.sp ∧ (flushAll s).cl = s.cl ∧ (flushAll s).ti = s.ti
      ∧ (flushAll s).en = s.en ∧ (flushAll s).bt = s.bt ∧ (flushAll s).hostMem = s.hostMem ∧ (flushAll s).pending = s.pending
      ∧ (flushAll s).freeCtr = s.freeCtr := by
  simp [flushAll]

/-- `deliverHit` changes no part but `cs`. -/
@[simp] theorem deliverHit_frame (e : Nat) (s : State) (h : Hit) :
    (deliverHit e s h).tb = s.tb ∧ (deliverHit e s h).pins = s.pins ∧ (deliverHit e s h).pf = s.pf
      ∧ (deliverHit e s h).tg = s.tg ∧ (deliverHit e s h).pt = s.pt ∧ (deliverHit e s h).pm = s.pm
      ∧ (deliverHit e s h).sq = s.sq ∧ (deliverHit e s h).sp = s.sp ∧ (deliverHit e s h).cl = s.cl
      ∧ (deliverHit e s h).ti = s.ti ∧ (deliverHit e s h).mx = s.mx ∧ (deliverHit e s h).en = s.en
      ∧ (deliverHit e s h).hi = s.hi ∧ (deliverHit e s h).mg = s.mg ∧ (deliverHit e s h).bt = s.bt
      ∧ (deliverHit e s h).hostMem = s.hostMem ∧ (deliverHit e s h).pending = s.pending
      ∧ (deliverHit e s h).freeCtr = s.freeCtr := by
  simp [deliverHit]

/-- `deliverDue` changes no part but `cs`. -/
@[simp] theorem deliverDue_frame (s : State) :
    (deliverDue s).tb = s.tb ∧ (deliverDue s).pins = s.pins ∧ (deliverDue s).pf = s.pf ∧ (deliverDue s).tg = s.tg
      ∧ (deliverDue s).pt = s.pt ∧ (deliverDue s).pm = s.pm ∧ (deliverDue s).sq = s.sq ∧ (deliverDue s).sp = s.sp
      ∧ (deliverDue s).cl = s.cl ∧ (deliverDue s).ti = s.ti ∧ (deliverDue s).mx = s.mx ∧ (deliverDue s).en = s.en
      ∧ (deliverDue s).hi = s.hi ∧ (deliverDue s).mg = s.mg ∧ (deliverDue s).bt = s.bt ∧ (deliverDue s).hostMem = s.hostMem
      ∧ (deliverDue s).pending = s.pending ∧ (deliverDue s).freeCtr = s.freeCtr := by
  simp [deliverDue]

/-- `wrapEffects` changes no part but `tb`, `pins`, `pm`, `cs`, `mx`, `hi`, `mg`, `hostMem`. -/
@[simp] theorem wrapEffects_frame (s : State) :
    (wrapEffects s).pf = s.pf ∧ (wrapEffects s).tg = s.tg ∧ (wrapEffects s).pt = s.pt ∧ (wrapEffects s).sq = s.sq
      ∧ (wrapEffects s).sp = s.sp ∧ (wrapEffects s).cl = s.cl ∧ (wrapEffects s).ti = s.ti ∧ (wrapEffects s).en = s.en
      ∧ (wrapEffects s).bt = s.bt ∧ (wrapEffects s).pending = s.pending ∧ (wrapEffects s).freeCtr = s.freeCtr := by
  unfold wrapEffects; and_intros <;> simp

/-- `passed` changes no part but `pins`, `cs`, `ti`, `mx`, `hi`, `mg`, `freeCtr`. -/
@[simp] theorem passed_frame (s : State) :
    (passed s).tb = s.tb ∧ (passed s).pf = s.pf ∧ (passed s).tg = s.tg ∧ (passed s).pt = s.pt ∧ (passed s).pm = s.pm
      ∧ (passed s).sq = s.sq ∧ (passed s).sp = s.sp ∧ (passed s).cl = s.cl ∧ (passed s).en = s.en ∧ (passed s).bt = s.bt
      ∧ (passed s).hostMem = s.hostMem ∧ (passed s).pending = s.pending := by
  simp [passed]

/-- `pass` changes no part but `tb`, `pins`, `pm`, `cs`, `ti`, `mx`, `hi`, `mg`, `hostMem`, `freeCtr`. -/
@[simp] theorem pass_frame (n : Nat) (s : State) :
    (pass n s).pf = s.pf ∧ (pass n s).tg = s.tg ∧ (pass n s).pt = s.pt ∧ (pass n s).sq = s.sq ∧ (pass n s).sp = s.sp
      ∧ (pass n s).cl = s.cl ∧ (pass n s).en = s.en ∧ (pass n s).bt = s.bt ∧ (pass n s).pending = s.pending := by
  unfold pass; and_intros <;> simp

/-- `toEpoch` changes no part but `tb`, `pins`, `pm`, `cs`, `ti`, `mx`, `hi`, `mg`, `hostMem`, `freeCtr`. -/
@[simp] theorem toEpoch_frame (e : Nat) (s : State) :
    (toEpoch e s).pf = s.pf ∧ (toEpoch e s).tg = s.tg ∧ (toEpoch e s).pt = s.pt ∧ (toEpoch e s).sq = s.sq
      ∧ (toEpoch e s).sp = s.sp ∧ (toEpoch e s).cl = s.cl ∧ (toEpoch e s).en = s.en ∧ (toEpoch e s).bt = s.bt
      ∧ (toEpoch e s).pending = s.pending := by
  simp [toEpoch]

/-- `toTime` changes no part but `tb`, `pins`, `pm`, `cs`, `ti`, `mx`, `hi`, `mg`, `hostMem`, `freeCtr`. -/
@[simp] theorem toTime_frame (t : Nat) (s : State) :
    (toTime t s).pf = s.pf ∧ (toTime t s).tg = s.tg ∧ (toTime t s).pt = s.pt ∧ (toTime t s).sq = s.sq ∧ (toTime t s).sp = s.sp
      ∧ (toTime t s).cl = s.cl ∧ (toTime t s).en = s.en ∧ (toTime t s).bt = s.bt ∧ (toTime t s).pending = s.pending := by
  simp [toTime]

/-- `inSlot` changes no part but `tb`, `pins`, `pm`, `cs`, `ti`, `mx`, `hi`, `mg`, `hostMem`, `freeCtr`. -/
@[simp] theorem inSlot_frame (c : SlotClass) (n : Nat) (s : State) :
    (inSlot c n s).pf = s.pf ∧ (inSlot c n s).tg = s.tg ∧ (inSlot c n s).pt = s.pt ∧ (inSlot c n s).sq = s.sq
      ∧ (inSlot c n s).sp = s.sp ∧ (inSlot c n s).cl = s.cl ∧ (inSlot c n s).en = s.en ∧ (inSlot c n s).bt = s.bt
      ∧ (inSlot c n s).pending = s.pending := by
  unfold inSlot; split <;> simp

/-- `mxStopEvent` changes no part but `hi`, `mg`. -/
@[simp] theorem mxStopEvent_frame (cause : Nat) (s : State) (i : Chan) :
    (mxStopEvent cause s i).tb = s.tb ∧ (mxStopEvent cause s i).pins = s.pins ∧ (mxStopEvent cause s i).pf = s.pf
      ∧ (mxStopEvent cause s i).tg = s.tg ∧ (mxStopEvent cause s i).pt = s.pt ∧ (mxStopEvent cause s i).pm = s.pm
      ∧ (mxStopEvent cause s i).sq = s.sq ∧ (mxStopEvent cause s i).sp = s.sp ∧ (mxStopEvent cause s i).cl = s.cl
      ∧ (mxStopEvent cause s i).cs = s.cs ∧ (mxStopEvent cause s i).ti = s.ti ∧ (mxStopEvent cause s i).mx = s.mx
      ∧ (mxStopEvent cause s i).en = s.en ∧ (mxStopEvent cause s i).bt = s.bt ∧ (mxStopEvent cause s i).hostMem = s.hostMem
      ∧ (mxStopEvent cause s i).pending = s.pending ∧ (mxStopEvent cause s i).freeCtr = s.freeCtr := by
  simp [mxStopEvent]

/-- `parkAll` changes no part but `pins`, `pf`, `mx`, `hi`, `mg`. -/
@[simp] theorem parkAll_frame (mxCause : Nat) (s : State) :
    (parkAll mxCause s).tb = s.tb ∧ (parkAll mxCause s).tg = s.tg ∧ (parkAll mxCause s).pt = s.pt
      ∧ (parkAll mxCause s).pm = s.pm ∧ (parkAll mxCause s).sq = s.sq ∧ (parkAll mxCause s).sp = s.sp
      ∧ (parkAll mxCause s).cl = s.cl ∧ (parkAll mxCause s).cs = s.cs ∧ (parkAll mxCause s).ti = s.ti
      ∧ (parkAll mxCause s).en = s.en ∧ (parkAll mxCause s).bt = s.bt ∧ (parkAll mxCause s).hostMem = s.hostMem
      ∧ (parkAll mxCause s).pending = s.pending ∧ (parkAll mxCause s).freeCtr = s.freeCtr := by
  simp [parkAll]

/-- `tiuClose` changes no part but `ti`, `hi`, `mg`, `freeCtr`. -/
@[simp] theorem tiuClose_frame (g : Glove) (s : State) :
    (tiuClose g s).tb = s.tb ∧ (tiuClose g s).pins = s.pins ∧ (tiuClose g s).pf = s.pf ∧ (tiuClose g s).tg = s.tg
      ∧ (tiuClose g s).pt = s.pt ∧ (tiuClose g s).pm = s.pm ∧ (tiuClose g s).sq = s.sq ∧ (tiuClose g s).sp = s.sp
      ∧ (tiuClose g s).cl = s.cl ∧ (tiuClose g s).cs = s.cs ∧ (tiuClose g s).mx = s.mx ∧ (tiuClose g s).en = s.en
      ∧ (tiuClose g s).bt = s.bt ∧ (tiuClose g s).hostMem = s.hostMem ∧ (tiuClose g s).pending = s.pending := by
  simp [tiuClose]

/-- `tiuCloseAll` changes no part but `ti`, `hi`, `mg`, `freeCtr`. -/
@[simp] theorem tiuCloseAll_frame (s : State) :
    (tiuCloseAll s).tb = s.tb ∧ (tiuCloseAll s).pins = s.pins ∧ (tiuCloseAll s).pf = s.pf ∧ (tiuCloseAll s).tg = s.tg
      ∧ (tiuCloseAll s).pt = s.pt ∧ (tiuCloseAll s).pm = s.pm ∧ (tiuCloseAll s).sq = s.sq ∧ (tiuCloseAll s).sp = s.sp
      ∧ (tiuCloseAll s).cl = s.cl ∧ (tiuCloseAll s).cs = s.cs ∧ (tiuCloseAll s).mx = s.mx ∧ (tiuCloseAll s).en = s.en
      ∧ (tiuCloseAll s).bt = s.bt ∧ (tiuCloseAll s).hostMem = s.hostMem ∧ (tiuCloseAll s).pending = s.pending := by
  simp [tiuCloseAll]

/-- `endStarve` changes no part but `pm`, `hi`, `mg`. -/
@[simp] theorem endStarve_frame (s : State) :
    (endStarve s).tb = s.tb ∧ (endStarve s).pins = s.pins ∧ (endStarve s).pf = s.pf ∧ (endStarve s).tg = s.tg
      ∧ (endStarve s).pt = s.pt ∧ (endStarve s).sq = s.sq ∧ (endStarve s).sp = s.sp ∧ (endStarve s).cl = s.cl
      ∧ (endStarve s).cs = s.cs ∧ (endStarve s).ti = s.ti ∧ (endStarve s).mx = s.mx ∧ (endStarve s).en = s.en
      ∧ (endStarve s).bt = s.bt ∧ (endStarve s).hostMem = s.hostMem ∧ (endStarve s).pending = s.pending
      ∧ (endStarve s).freeCtr = s.freeCtr := by
  unfold endStarve; split <;> simp

/-- `endDstall` changes no part but `sq`, `hi`, `mg`. -/
@[simp] theorem endDstall_frame (s : State) :
    (endDstall s).tb = s.tb ∧ (endDstall s).pins = s.pins ∧ (endDstall s).pf = s.pf ∧ (endDstall s).tg = s.tg
      ∧ (endDstall s).pt = s.pt ∧ (endDstall s).pm = s.pm ∧ (endDstall s).sp = s.sp ∧ (endDstall s).cl = s.cl
      ∧ (endDstall s).cs = s.cs ∧ (endDstall s).ti = s.ti ∧ (endDstall s).mx = s.mx ∧ (endDstall s).en = s.en
      ∧ (endDstall s).bt = s.bt ∧ (endDstall s).hostMem = s.hostMem ∧ (endDstall s).pending = s.pending
      ∧ (endDstall s).freeCtr = s.freeCtr := by
  simp [endDstall]

/-- `endBubble` changes no part but `sq`, `sp`, `hi`, `mg`. -/
@[simp] theorem endBubble_frame (s : State) :
    (endBubble s).tb = s.tb ∧ (endBubble s).pins = s.pins ∧ (endBubble s).pf = s.pf ∧ (endBubble s).tg = s.tg
      ∧ (endBubble s).pt = s.pt ∧ (endBubble s).pm = s.pm ∧ (endBubble s).cl = s.cl ∧ (endBubble s).cs = s.cs
      ∧ (endBubble s).ti = s.ti ∧ (endBubble s).mx = s.mx ∧ (endBubble s).en = s.en ∧ (endBubble s).bt = s.bt
      ∧ (endBubble s).hostMem = s.hostMem ∧ (endBubble s).pending = s.pending ∧ (endBubble s).freeCtr = s.freeCtr := by
  simp [endBubble]

/-- `endLimit` changes no part but `sq`, `sp`, `hi`, `mg`. -/
@[simp] theorem endLimit_frame (s : State) :
    (endLimit s).tb = s.tb ∧ (endLimit s).pins = s.pins ∧ (endLimit s).pf = s.pf ∧ (endLimit s).tg = s.tg
      ∧ (endLimit s).pt = s.pt ∧ (endLimit s).pm = s.pm ∧ (endLimit s).cl = s.cl ∧ (endLimit s).cs = s.cs
      ∧ (endLimit s).ti = s.ti ∧ (endLimit s).mx = s.mx ∧ (endLimit s).en = s.en ∧ (endLimit s).bt = s.bt
      ∧ (endLimit s).hostMem = s.hostMem ∧ (endLimit s).pending = s.pending ∧ (endLimit s).freeCtr = s.freeCtr := by
  simp [endLimit]

/-- `endEpisodes` changes no part but `pm`, `sq`, `sp`, `hi`, `mg`. -/
@[simp] theorem endEpisodes_frame (s : State) :
    (endEpisodes s).tb = s.tb ∧ (endEpisodes s).pins = s.pins ∧ (endEpisodes s).pf = s.pf ∧ (endEpisodes s).tg = s.tg
      ∧ (endEpisodes s).pt = s.pt ∧ (endEpisodes s).cl = s.cl ∧ (endEpisodes s).cs = s.cs ∧ (endEpisodes s).ti = s.ti
      ∧ (endEpisodes s).mx = s.mx ∧ (endEpisodes s).en = s.en ∧ (endEpisodes s).bt = s.bt ∧ (endEpisodes s).hostMem = s.hostMem
      ∧ (endEpisodes s).pending = s.pending ∧ (endEpisodes s).freeCtr = s.freeCtr := by
  simp [endEpisodes]

/-- `stopVector` changes no part but `pm`, `sq`, `sp`, `hi`, `mg`. -/
@[simp] theorem stopVector_frame (cause code : Nat) (s : State) :
    (stopVector cause code s).tb = s.tb ∧ (stopVector cause code s).pins = s.pins ∧ (stopVector cause code s).pf = s.pf
      ∧ (stopVector cause code s).tg = s.tg ∧ (stopVector cause code s).pt = s.pt ∧ (stopVector cause code s).cl = s.cl
      ∧ (stopVector cause code s).cs = s.cs ∧ (stopVector cause code s).ti = s.ti ∧ (stopVector cause code s).mx = s.mx
      ∧ (stopVector cause code s).en = s.en ∧ (stopVector cause code s).bt = s.bt
      ∧ (stopVector cause code s).hostMem = s.hostMem ∧ (stopVector cause code s).pending = s.pending
      ∧ (stopVector cause code s).freeCtr = s.freeCtr := by
  simp [stopVector]

/-- `retract` changes no part but `cs`, `hi`, `mg`. -/
@[simp] theorem retract_frame (c : Cond) (s : State) :
    (retract c s).tb = s.tb ∧ (retract c s).pins = s.pins ∧ (retract c s).pf = s.pf ∧ (retract c s).tg = s.tg
      ∧ (retract c s).pt = s.pt ∧ (retract c s).pm = s.pm ∧ (retract c s).sq = s.sq ∧ (retract c s).sp = s.sp
      ∧ (retract c s).cl = s.cl ∧ (retract c s).ti = s.ti ∧ (retract c s).mx = s.mx ∧ (retract c s).en = s.en
      ∧ (retract c s).bt = s.bt ∧ (retract c s).hostMem = s.hostMem ∧ (retract c s).pending = s.pending
      ∧ (retract c s).freeCtr = s.freeCtr := by
  simp [retract]

/-- `dropProvisional` changes no part but `sq`, `sp`, `cs`, `hi`, `mg`, `freeCtr`. -/
@[simp] theorem dropProvisional_frame (s : State) :
    (dropProvisional s).tb = s.tb ∧ (dropProvisional s).pins = s.pins ∧ (dropProvisional s).pf = s.pf
      ∧ (dropProvisional s).tg = s.tg ∧ (dropProvisional s).pt = s.pt ∧ (dropProvisional s).pm = s.pm
      ∧ (dropProvisional s).cl = s.cl ∧ (dropProvisional s).ti = s.ti ∧ (dropProvisional s).mx = s.mx
      ∧ (dropProvisional s).en = s.en ∧ (dropProvisional s).bt = s.bt ∧ (dropProvisional s).hostMem = s.hostMem
      ∧ (dropProvisional s).pending = s.pending := by
  unfold dropProvisional; split <;> simp

/-- `reportIdle` changes no part but `en`. -/
@[simp] theorem reportIdle_frame (s : State) :
    (reportIdle s).tb = s.tb ∧ (reportIdle s).pins = s.pins ∧ (reportIdle s).pf = s.pf ∧ (reportIdle s).tg = s.tg
      ∧ (reportIdle s).pt = s.pt ∧ (reportIdle s).pm = s.pm ∧ (reportIdle s).sq = s.sq ∧ (reportIdle s).sp = s.sp
      ∧ (reportIdle s).cl = s.cl ∧ (reportIdle s).cs = s.cs ∧ (reportIdle s).ti = s.ti ∧ (reportIdle s).mx = s.mx
      ∧ (reportIdle s).hi = s.hi ∧ (reportIdle s).mg = s.mg ∧ (reportIdle s).bt = s.bt ∧ (reportIdle s).hostMem = s.hostMem
      ∧ (reportIdle s).pending = s.pending ∧ (reportIdle s).freeCtr = s.freeCtr := by
  simp [reportIdle]

/-- `finishRun` changes no part but `sq`, `sp`, `ti`, `en`, `hi`, `mg`, `freeCtr`. -/
@[simp] theorem finishRun_frame (cause code : Nat) (s : State) :
    (finishRun cause code s).tb = s.tb ∧ (finishRun cause code s).pins = s.pins ∧ (finishRun cause code s).pf = s.pf
      ∧ (finishRun cause code s).tg = s.tg ∧ (finishRun cause code s).pt = s.pt ∧ (finishRun cause code s).pm = s.pm
      ∧ (finishRun cause code s).cl = s.cl ∧ (finishRun cause code s).cs = s.cs ∧ (finishRun cause code s).mx = s.mx
      ∧ (finishRun cause code s).bt = s.bt ∧ (finishRun cause code s).hostMem = s.hostMem
      ∧ (finishRun cause code s).pending = s.pending := by
  simp [finishRun]

/-- `containRun` changes no part but `pm`, `sq`, `sp`, `cs`, `hi`, `mg`, `freeCtr`. -/
@[simp] theorem containRun_frame (s : State) :
    (containRun s).tb = s.tb ∧ (containRun s).pins = s.pins ∧ (containRun s).pf = s.pf ∧ (containRun s).tg = s.tg
      ∧ (containRun s).pt = s.pt ∧ (containRun s).cl = s.cl ∧ (containRun s).ti = s.ti ∧ (containRun s).mx = s.mx
      ∧ (containRun s).en = s.en ∧ (containRun s).bt = s.bt ∧ (containRun s).hostMem = s.hostMem
      ∧ (containRun s).pending = s.pending := by
  simp [containRun]

/-- `enterContain` changes no part but `pins`, `pf`, `pm`, `sq`, `sp`, `cs`, `ti`, `mx`, `hi`, `mg`, `freeCtr`. -/
@[simp] theorem enterContain_frame (cause : Nat) (s : State) :
    (enterContain cause s).tb = s.tb ∧ (enterContain cause s).tg = s.tg ∧ (enterContain cause s).pt = s.pt
      ∧ (enterContain cause s).cl = s.cl ∧ (enterContain cause s).en = s.en ∧ (enterContain cause s).bt = s.bt
      ∧ (enterContain cause s).hostMem = s.hostMem ∧ (enterContain cause s).pending = s.pending := by
  simp [enterContain]

/-- `containAgain` changes no part but `hi`, `mg`. -/
@[simp] theorem containAgain_frame (cause : Nat) (s : State) :
    (containAgain cause s).tb = s.tb ∧ (containAgain cause s).pins = s.pins ∧ (containAgain cause s).pf = s.pf
      ∧ (containAgain cause s).tg = s.tg ∧ (containAgain cause s).pt = s.pt ∧ (containAgain cause s).pm = s.pm
      ∧ (containAgain cause s).sq = s.sq ∧ (containAgain cause s).sp = s.sp ∧ (containAgain cause s).cl = s.cl
      ∧ (containAgain cause s).cs = s.cs ∧ (containAgain cause s).ti = s.ti ∧ (containAgain cause s).mx = s.mx
      ∧ (containAgain cause s).en = s.en ∧ (containAgain cause s).bt = s.bt ∧ (containAgain cause s).hostMem = s.hostMem
      ∧ (containAgain cause s).pending = s.pending ∧ (containAgain cause s).freeCtr = s.freeCtr := by
  simp [containAgain]

/-- `contain` changes no part but `pins`, `pf`, `pm`, `sq`, `sp`, `cs`, `ti`, `mx`, `en`, `hi`, `mg`, `freeCtr`. -/
@[simp] theorem contain_frame (cause : Nat) (s : State) :
    (contain cause s).tb = s.tb ∧ (contain cause s).tg = s.tg ∧ (contain cause s).pt = s.pt ∧ (contain cause s).cl = s.cl
      ∧ (contain cause s).bt = s.bt ∧ (contain cause s).hostMem = s.hostMem ∧ (contain cause s).pending = s.pending := by
  simp [contain]

/-- `discord` changes no part but `pins`, `pf`, `pm`, `sq`, `sp`, `cs`, `ti`, `mx`, `en`, `hi`, `mg`, `freeCtr`. -/
@[simp] theorem discord_frame (cause port detail : Nat) (s : State) :
    (discord cause port detail s).tb = s.tb ∧ (discord cause port detail s).tg = s.tg ∧ (discord cause port detail s).pt = s.pt
      ∧ (discord cause port detail s).cl = s.cl ∧ (discord cause port detail s).bt = s.bt
      ∧ (discord cause port detail s).hostMem = s.hostMem ∧ (discord cause port detail s).pending = s.pending := by
  simp [discord]

/-- `guardTiu` changes no part but `ti`, `hi`, `mg`. -/
@[simp] theorem guardTiu_frame (q : Quad) (s : State) (g : Glove) :
    (guardTiu q s g).tb = s.tb ∧ (guardTiu q s g).pins = s.pins ∧ (guardTiu q s g).pf = s.pf ∧ (guardTiu q s g).tg = s.tg
      ∧ (guardTiu q s g).pt = s.pt ∧ (guardTiu q s g).pm = s.pm ∧ (guardTiu q s g).sq = s.sq ∧ (guardTiu q s g).sp = s.sp
      ∧ (guardTiu q s g).cl = s.cl ∧ (guardTiu q s g).cs = s.cs ∧ (guardTiu q s g).mx = s.mx ∧ (guardTiu q s g).en = s.en
      ∧ (guardTiu q s g).bt = s.bt ∧ (guardTiu q s g).hostMem = s.hostMem ∧ (guardTiu q s g).pending = s.pending
      ∧ (guardTiu q s g).freeCtr = s.freeCtr := by
  simp [guardTiu]

/-- `shutGuard` changes no part but `tb`, `pins`, `tg`, `cs`, `ti`, `hi`, `mg`. -/
@[simp] theorem shutGuard_frame (q : Quad) (s : State) :
    (shutGuard q s).pf = s.pf ∧ (shutGuard q s).pt = s.pt ∧ (shutGuard q s).pm = s.pm ∧ (shutGuard q s).sq = s.sq
      ∧ (shutGuard q s).sp = s.sp ∧ (shutGuard q s).cl = s.cl ∧ (shutGuard q s).mx = s.mx ∧ (shutGuard q s).en = s.en
      ∧ (shutGuard q s).bt = s.bt ∧ (shutGuard q s).hostMem = s.hostMem ∧ (shutGuard q s).pending = s.pending
      ∧ (shutGuard q s).freeCtr = s.freeCtr := by
  simp [shutGuard]

/-- `stopPll` changes no part but `tb`, `pins`, `tg`, `cs`, `ti`, `hi`, `mg`. -/
@[simp] theorem stopPll_frame (q : Quad) (s : State) :
    (stopPll q s).pf = s.pf ∧ (stopPll q s).pt = s.pt ∧ (stopPll q s).pm = s.pm ∧ (stopPll q s).sq = s.sq
      ∧ (stopPll q s).sp = s.sp ∧ (stopPll q s).cl = s.cl ∧ (stopPll q s).mx = s.mx ∧ (stopPll q s).en = s.en
      ∧ (stopPll q s).bt = s.bt ∧ (stopPll q s).hostMem = s.hostMem ∧ (stopPll q s).pending = s.pending
      ∧ (stopPll q s).freeCtr = s.freeCtr := by
  simp [stopPll]

/-- `stopPlls` changes no part but `tb`, `pins`, `tg`, `cs`, `ti`, `hi`, `mg`. -/
@[simp] theorem stopPlls_frame (s : State) :
    (stopPlls s).pf = s.pf ∧ (stopPlls s).pt = s.pt ∧ (stopPlls s).pm = s.pm ∧ (stopPlls s).sq = s.sq ∧ (stopPlls s).sp = s.sp
      ∧ (stopPlls s).cl = s.cl ∧ (stopPlls s).mx = s.mx ∧ (stopPlls s).en = s.en ∧ (stopPlls s).bt = s.bt
      ∧ (stopPlls s).hostMem = s.hostMem ∧ (stopPlls s).pending = s.pending ∧ (stopPlls s).freeCtr = s.freeCtr := by
  simp [stopPlls]

/-- `noteEcc` changes no part but `pm`, `sq`, `hi`, `mg`. -/
@[simp] theorem noteEcc_frame (ecc : Ecc) (addr : Nat) (s : State) :
    (noteEcc ecc addr s).tb = s.tb ∧ (noteEcc ecc addr s).pins = s.pins ∧ (noteEcc ecc addr s).pf = s.pf
      ∧ (noteEcc ecc addr s).tg = s.tg ∧ (noteEcc ecc addr s).pt = s.pt ∧ (noteEcc ecc addr s).sp = s.sp
      ∧ (noteEcc ecc addr s).cl = s.cl ∧ (noteEcc ecc addr s).cs = s.cs ∧ (noteEcc ecc addr s).ti = s.ti
      ∧ (noteEcc ecc addr s).mx = s.mx ∧ (noteEcc ecc addr s).en = s.en ∧ (noteEcc ecc addr s).bt = s.bt
      ∧ (noteEcc ecc addr s).hostMem = s.hostMem ∧ (noteEcc ecc addr s).pending = s.pending
      ∧ (noteEcc ecc addr s).freeCtr = s.freeCtr := by
  unfold noteEcc; split <;> simp

/-- `noteReadUe` changes no part but `pm`, `sq`, `hi`, `mg`. -/
@[simp] theorem noteReadUe_frame (ecc : Ecc) (addr requester : Nat) (s : State) :
    (noteReadUe ecc addr requester s).tb = s.tb ∧ (noteReadUe ecc addr requester s).pins = s.pins
      ∧ (noteReadUe ecc addr requester s).pf = s.pf ∧ (noteReadUe ecc addr requester s).tg = s.tg
      ∧ (noteReadUe ecc addr requester s).pt = s.pt ∧ (noteReadUe ecc addr requester s).sp = s.sp
      ∧ (noteReadUe ecc addr requester s).cl = s.cl ∧ (noteReadUe ecc addr requester s).cs = s.cs
      ∧ (noteReadUe ecc addr requester s).ti = s.ti ∧ (noteReadUe ecc addr requester s).mx = s.mx
      ∧ (noteReadUe ecc addr requester s).en = s.en ∧ (noteReadUe ecc addr requester s).bt = s.bt
      ∧ (noteReadUe ecc addr requester s).hostMem = s.hostMem ∧ (noteReadUe ecc addr requester s).pending = s.pending
      ∧ (noteReadUe ecc addr requester s).freeCtr = s.freeCtr := by
  simp [noteReadUe]

/-- `bar2Drop` changes no part but `pm`, `hi`, `mg`. -/
@[simp] theorem bar2Drop_frame (cause : Nat) (w : Bar2Req) (s : State) :
    (bar2Drop cause w s).tb = s.tb ∧ (bar2Drop cause w s).pins = s.pins ∧ (bar2Drop cause w s).pf = s.pf
      ∧ (bar2Drop cause w s).tg = s.tg ∧ (bar2Drop cause w s).pt = s.pt ∧ (bar2Drop cause w s).sq = s.sq
      ∧ (bar2Drop cause w s).sp = s.sp ∧ (bar2Drop cause w s).cl = s.cl ∧ (bar2Drop cause w s).cs = s.cs
      ∧ (bar2Drop cause w s).ti = s.ti ∧ (bar2Drop cause w s).mx = s.mx ∧ (bar2Drop cause w s).en = s.en
      ∧ (bar2Drop cause w s).bt = s.bt ∧ (bar2Drop cause w s).hostMem = s.hostMem ∧ (bar2Drop cause w s).pending = s.pending
      ∧ (bar2Drop cause w s).freeCtr = s.freeCtr := by
  simp [bar2Drop]

/-- `noteMixed` changes no part but `pt`. -/
@[simp] theorem noteMixed_frame (w : Bar2Req) (s : State) :
    (noteMixed w s).tb = s.tb ∧ (noteMixed w s).pins = s.pins ∧ (noteMixed w s).pf = s.pf ∧ (noteMixed w s).tg = s.tg
      ∧ (noteMixed w s).pm = s.pm ∧ (noteMixed w s).sq = s.sq ∧ (noteMixed w s).sp = s.sp ∧ (noteMixed w s).cl = s.cl
      ∧ (noteMixed w s).cs = s.cs ∧ (noteMixed w s).ti = s.ti ∧ (noteMixed w s).mx = s.mx ∧ (noteMixed w s).en = s.en
      ∧ (noteMixed w s).hi = s.hi ∧ (noteMixed w s).mg = s.mg ∧ (noteMixed w s).bt = s.bt ∧ (noteMixed w s).hostMem = s.hostMem
      ∧ (noteMixed w s).pending = s.pending ∧ (noteMixed w s).freeCtr = s.freeCtr := by
  simp [noteMixed]

/-- `bar2One` changes no part but `pt`, `pm`, `sq`, `hi`, `mg`. -/
@[simp] theorem bar2One_frame (ecc : Ecc) (w : Bar2Req) (s : State) :
    (bar2One ecc w s).tb = s.tb ∧ (bar2One ecc w s).pins = s.pins ∧ (bar2One ecc w s).pf = s.pf ∧ (bar2One ecc w s).tg = s.tg
      ∧ (bar2One ecc w s).sp = s.sp ∧ (bar2One ecc w s).cl = s.cl ∧ (bar2One ecc w s).cs = s.cs ∧ (bar2One ecc w s).ti = s.ti
      ∧ (bar2One ecc w s).mx = s.mx ∧ (bar2One ecc w s).en = s.en ∧ (bar2One ecc w s).bt = s.bt
      ∧ (bar2One ecc w s).hostMem = s.hostMem ∧ (bar2One ecc w s).pending = s.pending ∧ (bar2One ecc w s).freeCtr = s.freeCtr := by
  unfold bar2One; split <;> simp

/-- `bar2Apply` changes no part but `tb`, `pins`, `pt`, `pm`, `sq`, `cs`, `ti`, `mx`, `hi`, `mg`, `hostMem`, `freeCtr`. -/
@[simp] theorem bar2Apply_frame (ecc : Ecc) (s : State) :
    (bar2Apply ecc s).pf = s.pf ∧ (bar2Apply ecc s).tg = s.tg ∧ (bar2Apply ecc s).sp = s.sp ∧ (bar2Apply ecc s).cl = s.cl
      ∧ (bar2Apply ecc s).en = s.en ∧ (bar2Apply ecc s).bt = s.bt ∧ (bar2Apply ecc s).pending = s.pending := by
  unfold bar2Apply; split <;> simp

/-- `bar2Drain` changes no part but `tb`, `pins`, `pt`, `pm`, `sq`, `cs`, `ti`, `mx`, `hi`, `mg`, `hostMem`, `freeCtr`. -/
@[simp] theorem bar2Drain_frame (s : State) :
    (bar2Drain s).pf = s.pf ∧ (bar2Drain s).tg = s.tg ∧ (bar2Drain s).sp = s.sp ∧ (bar2Drain s).cl = s.cl
      ∧ (bar2Drain s).en = s.en ∧ (bar2Drain s).bt = s.bt ∧ (bar2Drain s).pending = s.pending := by
  simp [bar2Drain]

/-- `popBytes` changes no part but `hi`. -/
@[simp] theorem popBytes_frame (f : Nat → Bool) (s : State) :
    (popBytes f s).tb = s.tb ∧ (popBytes f s).pins = s.pins ∧ (popBytes f s).pf = s.pf ∧ (popBytes f s).tg = s.tg
      ∧ (popBytes f s).pt = s.pt ∧ (popBytes f s).pm = s.pm ∧ (popBytes f s).sq = s.sq ∧ (popBytes f s).sp = s.sp
      ∧ (popBytes f s).cl = s.cl ∧ (popBytes f s).cs = s.cs ∧ (popBytes f s).ti = s.ti ∧ (popBytes f s).mx = s.mx
      ∧ (popBytes f s).en = s.en ∧ (popBytes f s).mg = s.mg ∧ (popBytes f s).bt = s.bt ∧ (popBytes f s).hostMem = s.hostMem
      ∧ (popBytes f s).pending = s.pending ∧ (popBytes f s).freeCtr = s.freeCtr := by
  unfold popBytes; split <;> simp

/-- `popWrite` changes no part but `hi`. -/
@[simp] theorem popWrite_frame (base n : Nat) (s : State) :
    (popWrite base n s).tb = s.tb ∧ (popWrite base n s).pins = s.pins ∧ (popWrite base n s).pf = s.pf
      ∧ (popWrite base n s).tg = s.tg ∧ (popWrite base n s).pt = s.pt ∧ (popWrite base n s).pm = s.pm
      ∧ (popWrite base n s).sq = s.sq ∧ (popWrite base n s).sp = s.sp ∧ (popWrite base n s).cl = s.cl
      ∧ (popWrite base n s).cs = s.cs ∧ (popWrite base n s).ti = s.ti ∧ (popWrite base n s).mx = s.mx
      ∧ (popWrite base n s).en = s.en ∧ (popWrite base n s).mg = s.mg ∧ (popWrite base n s).bt = s.bt
      ∧ (popWrite base n s).hostMem = s.hostMem ∧ (popWrite base n s).pending = s.pending
      ∧ (popWrite base n s).freeCtr = s.freeCtr := by
  simp [popWrite]

/-- `objNote` changes no part but `pm`, `sq`, `hi`, `mg`. -/
@[simp] theorem objNote_frame (host : Bool) (dr : DramFind) (a : Nat) (s : State) :
    (objNote host dr a s).tb = s.tb ∧ (objNote host dr a s).pins = s.pins ∧ (objNote host dr a s).pf = s.pf
      ∧ (objNote host dr a s).tg = s.tg ∧ (objNote host dr a s).pt = s.pt ∧ (objNote host dr a s).sp = s.sp
      ∧ (objNote host dr a s).cl = s.cl ∧ (objNote host dr a s).cs = s.cs ∧ (objNote host dr a s).ti = s.ti
      ∧ (objNote host dr a s).mx = s.mx ∧ (objNote host dr a s).en = s.en ∧ (objNote host dr a s).bt = s.bt
      ∧ (objNote host dr a s).hostMem = s.hostMem ∧ (objNote host dr a s).pending = s.pending
      ∧ (objNote host dr a s).freeCtr = s.freeCtr := by
  simp [objNote]

/-- `abortRun` changes no part but `sq`, `sp`, `cs`, `ti`, `hi`, `mg`, `freeCtr`. -/
@[simp] theorem abortRun_frame (s : State) :
    (abortRun s).tb = s.tb ∧ (abortRun s).pins = s.pins ∧ (abortRun s).pf = s.pf ∧ (abortRun s).tg = s.tg
      ∧ (abortRun s).pt = s.pt ∧ (abortRun s).pm = s.pm ∧ (abortRun s).cl = s.cl ∧ (abortRun s).mx = s.mx
      ∧ (abortRun s).en = s.en ∧ (abortRun s).bt = s.bt ∧ (abortRun s).hostMem = s.hostMem ∧ (abortRun s).pending = s.pending := by
  simp [abortRun]

/-- `takeStop` changes no part but `pm`, `sq`, `sp`, `cs`, `ti`, `hi`, `mg`, `freeCtr`. -/
@[simp] theorem takeStop_frame (s : State) :
    (takeStop s).tb = s.tb ∧ (takeStop s).pins = s.pins ∧ (takeStop s).pf = s.pf ∧ (takeStop s).tg = s.tg
      ∧ (takeStop s).pt = s.pt ∧ (takeStop s).cl = s.cl ∧ (takeStop s).mx = s.mx ∧ (takeStop s).en = s.en
      ∧ (takeStop s).bt = s.bt ∧ (takeStop s).hostMem = s.hostMem ∧ (takeStop s).pending = s.pending := by
  simp [takeStop]

/-- `stopHere` changes no part but `pm`, `sq`, `sp`, `cs`, `ti`, `en`, `hi`, `mg`, `freeCtr`. -/
@[simp] theorem stopHere_frame (s : State) :
    (stopHere s).tb = s.tb ∧ (stopHere s).pins = s.pins ∧ (stopHere s).pf = s.pf ∧ (stopHere s).tg = s.tg
      ∧ (stopHere s).pt = s.pt ∧ (stopHere s).cl = s.cl ∧ (stopHere s).mx = s.mx ∧ (stopHere s).bt = s.bt
      ∧ (stopHere s).hostMem = s.hostMem ∧ (stopHere s).pending = s.pending := by
  unfold stopHere; split <;> (try split) <;> simp

/-- `stopNow` changes no part but `pm`, `sq`, `sp`, `cs`, `ti`, `en`, `hi`, `mg`, `freeCtr`. -/
@[simp] theorem stopNow_frame (s : State) :
    (stopNow s).tb = s.tb ∧ (stopNow s).pins = s.pins ∧ (stopNow s).pf = s.pf ∧ (stopNow s).tg = s.tg ∧ (stopNow s).pt = s.pt
      ∧ (stopNow s).cl = s.cl ∧ (stopNow s).mx = s.mx ∧ (stopNow s).bt = s.bt ∧ (stopNow s).hostMem = s.hostMem
      ∧ (stopNow s).pending = s.pending := by
  unfold stopNow; split <;> simp

/-- `haltReq` changes no part but `en`. -/
@[simp] theorem haltReq_frame (kind : Nat) (s : State) :
    (haltReq kind s).tb = s.tb ∧ (haltReq kind s).pins = s.pins ∧ (haltReq kind s).pf = s.pf ∧ (haltReq kind s).tg = s.tg
      ∧ (haltReq kind s).pt = s.pt ∧ (haltReq kind s).pm = s.pm ∧ (haltReq kind s).sq = s.sq ∧ (haltReq kind s).sp = s.sp
      ∧ (haltReq kind s).cl = s.cl ∧ (haltReq kind s).cs = s.cs ∧ (haltReq kind s).ti = s.ti ∧ (haltReq kind s).mx = s.mx
      ∧ (haltReq kind s).hi = s.hi ∧ (haltReq kind s).mg = s.mg ∧ (haltReq kind s).bt = s.bt
      ∧ (haltReq kind s).hostMem = s.hostMem ∧ (haltReq kind s).pending = s.pending ∧ (haltReq kind s).freeCtr = s.freeCtr := by
  simp [haltReq]

/-- `storeEcc` changes no part but `sq`, `hi`, `mg`. -/
@[simp] theorem storeEcc_frame (ecc : Ecc) (a found : Nat) (s : State) :
    (storeEcc ecc a found s).tb = s.tb ∧ (storeEcc ecc a found s).pins = s.pins ∧ (storeEcc ecc a found s).pf = s.pf
      ∧ (storeEcc ecc a found s).tg = s.tg ∧ (storeEcc ecc a found s).pt = s.pt ∧ (storeEcc ecc a found s).pm = s.pm
      ∧ (storeEcc ecc a found s).sp = s.sp ∧ (storeEcc ecc a found s).cl = s.cl ∧ (storeEcc ecc a found s).cs = s.cs
      ∧ (storeEcc ecc a found s).ti = s.ti ∧ (storeEcc ecc a found s).mx = s.mx ∧ (storeEcc ecc a found s).en = s.en
      ∧ (storeEcc ecc a found s).bt = s.bt ∧ (storeEcc ecc a found s).hostMem = s.hostMem
      ∧ (storeEcc ecc a found s).pending = s.pending ∧ (storeEcc ecc a found s).freeCtr = s.freeCtr := by
  unfold storeEcc; split <;> simp

/-- `fetchFault` changes no part but `pins`, `pf`, `pm`, `sq`, `sp`, `cs`, `ti`, `mx`, `en`, `hi`, `mg`, `freeCtr`. -/
@[simp] theorem fetchFault_frame (addr pin : Nat) (s : State) :
    (fetchFault addr pin s).tb = s.tb ∧ (fetchFault addr pin s).tg = s.tg ∧ (fetchFault addr pin s).pt = s.pt
      ∧ (fetchFault addr pin s).cl = s.cl ∧ (fetchFault addr pin s).bt = s.bt ∧ (fetchFault addr pin s).hostMem = s.hostMem
      ∧ (fetchFault addr pin s).pending = s.pending := by
  simp [fetchFault]

/-- `poisonFault` changes no part but `pins`, `pf`, `pm`, `sq`, `sp`, `cs`, `ti`, `mx`, `en`, `hi`, `mg`, `freeCtr`. -/
@[simp] theorem poisonFault_frame (addr : Nat) (s : State) :
    (poisonFault addr s).tb = s.tb ∧ (poisonFault addr s).tg = s.tg ∧ (poisonFault addr s).pt = s.pt
      ∧ (poisonFault addr s).cl = s.cl ∧ (poisonFault addr s).bt = s.bt ∧ (poisonFault addr s).hostMem = s.hostMem
      ∧ (poisonFault addr s).pending = s.pending := by
  simp [poisonFault]

/-- `countDrop` changes no part but `tg`, `sq`, `hi`, `mg`. -/
@[simp] theorem countDrop_frame (cause : Nat) (e : PEdge) (kind : Nat) (s : State) :
    (countDrop cause e kind s).tb = s.tb ∧ (countDrop cause e kind s).pins = s.pins ∧ (countDrop cause e kind s).pf = s.pf
      ∧ (countDrop cause e kind s).pt = s.pt ∧ (countDrop cause e kind s).pm = s.pm ∧ (countDrop cause e kind s).sp = s.sp
      ∧ (countDrop cause e kind s).cl = s.cl ∧ (countDrop cause e kind s).cs = s.cs ∧ (countDrop cause e kind s).ti = s.ti
      ∧ (countDrop cause e kind s).mx = s.mx ∧ (countDrop cause e kind s).en = s.en ∧ (countDrop cause e kind s).bt = s.bt
      ∧ (countDrop cause e kind s).hostMem = s.hostMem ∧ (countDrop cause e kind s).pending = s.pending
      ∧ (countDrop cause e kind s).freeCtr = s.freeCtr := by
  simp [countDrop]

/-- `coreSettle` changes no part but `mg`. -/
@[simp] theorem coreSettle_frame (s : State) :
    (coreSettle s).tb = s.tb ∧ (coreSettle s).pins = s.pins ∧ (coreSettle s).pf = s.pf ∧ (coreSettle s).tg = s.tg
      ∧ (coreSettle s).pt = s.pt ∧ (coreSettle s).pm = s.pm ∧ (coreSettle s).sq = s.sq ∧ (coreSettle s).sp = s.sp
      ∧ (coreSettle s).cl = s.cl ∧ (coreSettle s).cs = s.cs ∧ (coreSettle s).ti = s.ti ∧ (coreSettle s).mx = s.mx
      ∧ (coreSettle s).en = s.en ∧ (coreSettle s).hi = s.hi ∧ (coreSettle s).bt = s.bt ∧ (coreSettle s).hostMem = s.hostMem
      ∧ (coreSettle s).pending = s.pending ∧ (coreSettle s).freeCtr = s.freeCtr := by
  simp [coreSettle]

/-- `onResults` changes no part but `sp`. -/
@[simp] theorem onResults_frame (n : Nat) (f : List (Pin × W16) → List (Pin × W16)) (s : State) :
    (onResults n f s).tb = s.tb ∧ (onResults n f s).pins = s.pins ∧ (onResults n f s).pf = s.pf ∧ (onResults n f s).tg = s.tg
      ∧ (onResults n f s).pt = s.pt ∧ (onResults n f s).pm = s.pm ∧ (onResults n f s).sq = s.sq ∧ (onResults n f s).cl = s.cl
      ∧ (onResults n f s).cs = s.cs ∧ (onResults n f s).ti = s.ti ∧ (onResults n f s).mx = s.mx ∧ (onResults n f s).en = s.en
      ∧ (onResults n f s).hi = s.hi ∧ (onResults n f s).mg = s.mg ∧ (onResults n f s).bt = s.bt
      ∧ (onResults n f s).hostMem = s.hostMem ∧ (onResults n f s).pending = s.pending ∧ (onResults n f s).freeCtr = s.freeCtr := by
  simp [onResults]

/-- `putResult` changes no part but `sp`. -/
@[simp] theorem putResult_frame (n : Nat) (p : Pin) (w : W16) (s : State) :
    (putResult n p w s).tb = s.tb ∧ (putResult n p w s).pins = s.pins ∧ (putResult n p w s).pf = s.pf
      ∧ (putResult n p w s).tg = s.tg ∧ (putResult n p w s).pt = s.pt ∧ (putResult n p w s).pm = s.pm
      ∧ (putResult n p w s).sq = s.sq ∧ (putResult n p w s).cl = s.cl ∧ (putResult n p w s).cs = s.cs
      ∧ (putResult n p w s).ti = s.ti ∧ (putResult n p w s).mx = s.mx ∧ (putResult n p w s).en = s.en
      ∧ (putResult n p w s).hi = s.hi ∧ (putResult n p w s).mg = s.mg ∧ (putResult n p w s).bt = s.bt
      ∧ (putResult n p w s).hostMem = s.hostMem ∧ (putResult n p w s).pending = s.pending
      ∧ (putResult n p w s).freeCtr = s.freeCtr := by
  simp [putResult]

/-- `noteCrossed` changes no part but `sq`, `hi`, `mg`. -/
@[simp] theorem noteCrossed_frame (p : Pin) (idx st : Nat) (s : State) :
    (noteCrossed p idx st s).tb = s.tb ∧ (noteCrossed p idx st s).pins = s.pins ∧ (noteCrossed p idx st s).pf = s.pf
      ∧ (noteCrossed p idx st s).tg = s.tg ∧ (noteCrossed p idx st s).pt = s.pt ∧ (noteCrossed p idx st s).pm = s.pm
      ∧ (noteCrossed p idx st s).sp = s.sp ∧ (noteCrossed p idx st s).cl = s.cl ∧ (noteCrossed p idx st s).cs = s.cs
      ∧ (noteCrossed p idx st s).ti = s.ti ∧ (noteCrossed p idx st s).mx = s.mx ∧ (noteCrossed p idx st s).en = s.en
      ∧ (noteCrossed p idx st s).bt = s.bt ∧ (noteCrossed p idx st s).hostMem = s.hostMem
      ∧ (noteCrossed p idx st s).pending = s.pending ∧ (noteCrossed p idx st s).freeCtr = s.freeCtr := by
  simp [noteCrossed]

/-- `strobe` changes no part but `sq`, `sp`, `hi`, `mg`, `freeCtr`. -/
@[simp] theorem strobe_frame (e : PEdge) (s : State) :
    (strobe e s).tb = s.tb ∧ (strobe e s).pins = s.pins ∧ (strobe e s).pf = s.pf ∧ (strobe e s).tg = s.tg
      ∧ (strobe e s).pt = s.pt ∧ (strobe e s).pm = s.pm ∧ (strobe e s).cl = s.cl ∧ (strobe e s).cs = s.cs
      ∧ (strobe e s).ti = s.ti ∧ (strobe e s).mx = s.mx ∧ (strobe e s).en = s.en ∧ (strobe e s).bt = s.bt
      ∧ (strobe e s).hostMem = s.hostMem ∧ (strobe e s).pending = s.pending := by
  simp [strobe]

/-- `tiuOpen` changes no part but `ti`. -/
@[simp] theorem tiuOpen_frame (ago : Nat) (g : Glove) (s : State) :
    (tiuOpen ago g s).tb = s.tb ∧ (tiuOpen ago g s).pins = s.pins ∧ (tiuOpen ago g s).pf = s.pf ∧ (tiuOpen ago g s).tg = s.tg
      ∧ (tiuOpen ago g s).pt = s.pt ∧ (tiuOpen ago g s).pm = s.pm ∧ (tiuOpen ago g s).sq = s.sq ∧ (tiuOpen ago g s).sp = s.sp
      ∧ (tiuOpen ago g s).cl = s.cl ∧ (tiuOpen ago g s).cs = s.cs ∧ (tiuOpen ago g s).mx = s.mx ∧ (tiuOpen ago g s).en = s.en
      ∧ (tiuOpen ago g s).hi = s.hi ∧ (tiuOpen ago g s).mg = s.mg ∧ (tiuOpen ago g s).bt = s.bt
      ∧ (tiuOpen ago g s).hostMem = s.hostMem ∧ (tiuOpen ago g s).pending = s.pending ∧ (tiuOpen ago g s).freeCtr = s.freeCtr := by
  simp [tiuOpen]

/-- `forget` changes no part but `sq`, `sp`, `cs`, `ti`. -/
@[simp] theorem forget_frame (cid : Nat) (s : State) :
    (forget cid s).tb = s.tb ∧ (forget cid s).pins = s.pins ∧ (forget cid s).pf = s.pf ∧ (forget cid s).tg = s.tg
      ∧ (forget cid s).pt = s.pt ∧ (forget cid s).pm = s.pm ∧ (forget cid s).cl = s.cl ∧ (forget cid s).mx = s.mx
      ∧ (forget cid s).en = s.en ∧ (forget cid s).hi = s.hi ∧ (forget cid s).mg = s.mg ∧ (forget cid s).bt = s.bt
      ∧ (forget cid s).hostMem = s.hostMem ∧ (forget cid s).pending = s.pending ∧ (forget cid s).freeCtr = s.freeCtr := by
  simp [forget]

/-- `dropSpare` changes no part but `pm`, `hi`, `mg`. -/
@[simp] theorem dropSpare_frame (s : State) :
    (dropSpare s).tb = s.tb ∧ (dropSpare s).pins = s.pins ∧ (dropSpare s).pf = s.pf ∧ (dropSpare s).tg = s.tg
      ∧ (dropSpare s).pt = s.pt ∧ (dropSpare s).sq = s.sq ∧ (dropSpare s).sp = s.sp ∧ (dropSpare s).cl = s.cl
      ∧ (dropSpare s).cs = s.cs ∧ (dropSpare s).ti = s.ti ∧ (dropSpare s).mx = s.mx ∧ (dropSpare s).en = s.en
      ∧ (dropSpare s).bt = s.bt ∧ (dropSpare s).hostMem = s.hostMem ∧ (dropSpare s).pending = s.pending
      ∧ (dropSpare s).freeCtr = s.freeCtr := by
  simp [dropSpare, reportShelf]

/-- `swapShelf` changes no part but `pm`, `hi`, `mg`. -/
@[simp] theorem swapShelf_frame (s : State) :
    (swapShelf s).tb = s.tb ∧ (swapShelf s).pins = s.pins ∧ (swapShelf s).pf = s.pf ∧ (swapShelf s).tg = s.tg
      ∧ (swapShelf s).pt = s.pt ∧ (swapShelf s).sq = s.sq ∧ (swapShelf s).sp = s.sp ∧ (swapShelf s).cl = s.cl
      ∧ (swapShelf s).cs = s.cs ∧ (swapShelf s).ti = s.ti ∧ (swapShelf s).mx = s.mx ∧ (swapShelf s).en = s.en
      ∧ (swapShelf s).bt = s.bt ∧ (swapShelf s).hostMem = s.hostMem ∧ (swapShelf s).pending = s.pending
      ∧ (swapShelf s).freeCtr = s.freeCtr := by
  simp [swapShelf, reportShelf]

/-- `haltReady` changes no part but `pm`, `sq`, `sp`, `hi`, `mg`. -/
@[simp] theorem haltReady_frame (s : State) :
    (haltReady s).tb = s.tb ∧ (haltReady s).pins = s.pins ∧ (haltReady s).pf = s.pf ∧ (haltReady s).tg = s.tg
      ∧ (haltReady s).pt = s.pt ∧ (haltReady s).cl = s.cl ∧ (haltReady s).cs = s.cs ∧ (haltReady s).ti = s.ti
      ∧ (haltReady s).mx = s.mx ∧ (haltReady s).en = s.en ∧ (haltReady s).bt = s.bt ∧ (haltReady s).hostMem = s.hostMem
      ∧ (haltReady s).pending = s.pending ∧ (haltReady s).freeCtr = s.freeCtr := by
  unfold haltReady; split <;> simp

/-- `saySat` changes no part but `sq`, `cl`, `hi`, `mg`. -/
@[simp] theorem saySat_frame (wide : Bool) (alt v : Nat) (s : State) :
    (saySat wide alt v s).tb = s.tb ∧ (saySat wide alt v s).pins = s.pins ∧ (saySat wide alt v s).pf = s.pf
      ∧ (saySat wide alt v s).tg = s.tg ∧ (saySat wide alt v s).pt = s.pt ∧ (saySat wide alt v s).pm = s.pm
      ∧ (saySat wide alt v s).sp = s.sp ∧ (saySat wide alt v s).cs = s.cs ∧ (saySat wide alt v s).ti = s.ti
      ∧ (saySat wide alt v s).mx = s.mx ∧ (saySat wide alt v s).en = s.en ∧ (saySat wide alt v s).bt = s.bt
      ∧ (saySat wide alt v s).hostMem = s.hostMem ∧ (saySat wide alt v s).pending = s.pending
      ∧ (saySat wide alt v s).freeCtr = s.freeCtr := by
  simp [saySat]

/-- `retWord` changes no part but `sq`. -/
@[simp] theorem retWord_frame (p : Proc) (s : State) :
    (retWord p s).tb = s.tb ∧ (retWord p s).pins = s.pins ∧ (retWord p s).pf = s.pf ∧ (retWord p s).tg = s.tg
      ∧ (retWord p s).pt = s.pt ∧ (retWord p s).pm = s.pm ∧ (retWord p s).sp = s.sp ∧ (retWord p s).cl = s.cl
      ∧ (retWord p s).cs = s.cs ∧ (retWord p s).ti = s.ti ∧ (retWord p s).mx = s.mx ∧ (retWord p s).en = s.en
      ∧ (retWord p s).hi = s.hi ∧ (retWord p s).mg = s.mg ∧ (retWord p s).bt = s.bt ∧ (retWord p s).hostMem = s.hostMem
      ∧ (retWord p s).pending = s.pending ∧ (retWord p s).freeCtr = s.freeCtr := by
  unfold retWord; split <;> simp

/-- `askMeas` changes no part but `pf`. -/
@[simp] theorem askMeas_frame (src : Option W16) (pins : List Pin) (settle log2n : Nat) (s : State) :
    (askMeas src pins settle log2n s).tb = s.tb ∧ (askMeas src pins settle log2n s).pins = s.pins
      ∧ (askMeas src pins settle log2n s).tg = s.tg ∧ (askMeas src pins settle log2n s).pt = s.pt
      ∧ (askMeas src pins settle log2n s).pm = s.pm ∧ (askMeas src pins settle log2n s).sq = s.sq
      ∧ (askMeas src pins settle log2n s).sp = s.sp ∧ (askMeas src pins settle log2n s).cl = s.cl
      ∧ (askMeas src pins settle log2n s).cs = s.cs ∧ (askMeas src pins settle log2n s).ti = s.ti
      ∧ (askMeas src pins settle log2n s).mx = s.mx ∧ (askMeas src pins settle log2n s).en = s.en
      ∧ (askMeas src pins settle log2n s).hi = s.hi ∧ (askMeas src pins settle log2n s).mg = s.mg
      ∧ (askMeas src pins settle log2n s).bt = s.bt ∧ (askMeas src pins settle log2n s).hostMem = s.hostMem
      ∧ (askMeas src pins settle log2n s).pending = s.pending ∧ (askMeas src pins settle log2n s).freeCtr = s.freeCtr := by
  simp [askMeas]

/-- `noteClamp` changes no part but `pf`, `hi`, `mg`. -/
@[simp] theorem noteClamp_frame (m : Meas) (clamped : Bool) (s : State) :
    (noteClamp m clamped s).tb = s.tb ∧ (noteClamp m clamped s).pins = s.pins ∧ (noteClamp m clamped s).tg = s.tg
      ∧ (noteClamp m clamped s).pt = s.pt ∧ (noteClamp m clamped s).pm = s.pm ∧ (noteClamp m clamped s).sq = s.sq
      ∧ (noteClamp m clamped s).sp = s.sp ∧ (noteClamp m clamped s).cl = s.cl ∧ (noteClamp m clamped s).cs = s.cs
      ∧ (noteClamp m clamped s).ti = s.ti ∧ (noteClamp m clamped s).mx = s.mx ∧ (noteClamp m clamped s).en = s.en
      ∧ (noteClamp m clamped s).bt = s.bt ∧ (noteClamp m clamped s).hostMem = s.hostMem
      ∧ (noteClamp m clamped s).pending = s.pending ∧ (noteClamp m clamped s).freeCtr = s.freeCtr := by
  simp [noteClamp]

/-- `ringError` changes no part but `hi`, `mg`. -/
@[simp] theorem ringError_frame (reg v : Nat) (s : State) :
    (ringError reg v s).tb = s.tb ∧ (ringError reg v s).pins = s.pins ∧ (ringError reg v s).pf = s.pf
      ∧ (ringError reg v s).tg = s.tg ∧ (ringError reg v s).pt = s.pt ∧ (ringError reg v s).pm = s.pm
      ∧ (ringError reg v s).sq = s.sq ∧ (ringError reg v s).sp = s.sp ∧ (ringError reg v s).cl = s.cl
      ∧ (ringError reg v s).cs = s.cs ∧ (ringError reg v s).ti = s.ti ∧ (ringError reg v s).mx = s.mx
      ∧ (ringError reg v s).en = s.en ∧ (ringError reg v s).bt = s.bt ∧ (ringError reg v s).hostMem = s.hostMem
      ∧ (ringError reg v s).pending = s.pending ∧ (ringError reg v s).freeCtr = s.freeCtr := by
  simp [ringError]

/-- `closeCmd` changes no part but `hi`, `mg`. -/
@[simp] theorem closeCmd_frame (s : State) :
    (closeCmd s).tb = s.tb ∧ (closeCmd s).pins = s.pins ∧ (closeCmd s).pf = s.pf ∧ (closeCmd s).tg = s.tg
      ∧ (closeCmd s).pt = s.pt ∧ (closeCmd s).pm = s.pm ∧ (closeCmd s).sq = s.sq ∧ (closeCmd s).sp = s.sp
      ∧ (closeCmd s).cl = s.cl ∧ (closeCmd s).cs = s.cs ∧ (closeCmd s).ti = s.ti ∧ (closeCmd s).mx = s.mx
      ∧ (closeCmd s).en = s.en ∧ (closeCmd s).bt = s.bt ∧ (closeCmd s).hostMem = s.hostMem ∧ (closeCmd s).pending = s.pending
      ∧ (closeCmd s).freeCtr = s.freeCtr := by
  simp [closeCmd]

/-- `smbRespond` changes no part but `mg`. -/
@[simp] theorem smbRespond_frame (f : State → List Byte) (s : State) :
    (smbRespond f s).tb = s.tb ∧ (smbRespond f s).pins = s.pins ∧ (smbRespond f s).pf = s.pf ∧ (smbRespond f s).tg = s.tg
      ∧ (smbRespond f s).pt = s.pt ∧ (smbRespond f s).pm = s.pm ∧ (smbRespond f s).sq = s.sq ∧ (smbRespond f s).sp = s.sp
      ∧ (smbRespond f s).cl = s.cl ∧ (smbRespond f s).cs = s.cs ∧ (smbRespond f s).ti = s.ti ∧ (smbRespond f s).mx = s.mx
      ∧ (smbRespond f s).en = s.en ∧ (smbRespond f s).hi = s.hi ∧ (smbRespond f s).bt = s.bt
      ∧ (smbRespond f s).hostMem = s.hostMem ∧ (smbRespond f s).pending = s.pending ∧ (smbRespond f s).freeCtr = s.freeCtr := by
  simp [smbRespond]

/-- `parkOnce` changes no part but `pins`, `pf`, `mx`, `hi`, `mg`. -/
@[simp] theorem parkOnce_frame (s : State) :
    (parkOnce s).tb = s.tb ∧ (parkOnce s).tg = s.tg ∧ (parkOnce s).pt = s.pt ∧ (parkOnce s).pm = s.pm ∧ (parkOnce s).sq = s.sq
      ∧ (parkOnce s).sp = s.sp ∧ (parkOnce s).cl = s.cl ∧ (parkOnce s).cs = s.cs ∧ (parkOnce s).ti = s.ti
      ∧ (parkOnce s).en = s.en ∧ (parkOnce s).bt = s.bt ∧ (parkOnce s).hostMem = s.hostMem ∧ (parkOnce s).pending = s.pending
      ∧ (parkOnce s).freeCtr = s.freeCtr := by
  simp [parkOnce]

/-- `mxSync` changes no part but `mx`. -/
@[simp] theorem mxSync_frame (s : State) :
    (mxSync s).tb = s.tb ∧ (mxSync s).pins = s.pins ∧ (mxSync s).pf = s.pf ∧ (mxSync s).tg = s.tg ∧ (mxSync s).pt = s.pt
      ∧ (mxSync s).pm = s.pm ∧ (mxSync s).sq = s.sq ∧ (mxSync s).sp = s.sp ∧ (mxSync s).cl = s.cl ∧ (mxSync s).cs = s.cs
      ∧ (mxSync s).ti = s.ti ∧ (mxSync s).en = s.en ∧ (mxSync s).hi = s.hi ∧ (mxSync s).mg = s.mg ∧ (mxSync s).bt = s.bt
      ∧ (mxSync s).hostMem = s.hostMem ∧ (mxSync s).pending = s.pending ∧ (mxSync s).freeCtr = s.freeCtr := by
  simp [mxSync]

/-- `jumpIgnored` changes no part but `mx`, `hi`, `mg`. -/
@[simp] theorem jumpIgnored_frame (i : Chan) (seg src : Nat) (s : State) :
    (jumpIgnored i seg src s).tb = s.tb ∧ (jumpIgnored i seg src s).pins = s.pins ∧ (jumpIgnored i seg src s).pf = s.pf
      ∧ (jumpIgnored i seg src s).tg = s.tg ∧ (jumpIgnored i seg src s).pt = s.pt ∧ (jumpIgnored i seg src s).pm = s.pm
      ∧ (jumpIgnored i seg src s).sq = s.sq ∧ (jumpIgnored i seg src s).sp = s.sp ∧ (jumpIgnored i seg src s).cl = s.cl
      ∧ (jumpIgnored i seg src s).cs = s.cs ∧ (jumpIgnored i seg src s).ti = s.ti ∧ (jumpIgnored i seg src s).en = s.en
      ∧ (jumpIgnored i seg src s).bt = s.bt ∧ (jumpIgnored i seg src s).hostMem = s.hostMem
      ∧ (jumpIgnored i seg src s).pending = s.pending ∧ (jumpIgnored i seg src s).freeCtr = s.freeCtr := by
  simp [jumpIgnored]

/-- `mxRequest` changes no part but `mx`, `hi`, `mg`. -/
@[simp] theorem mxRequest_frame (i : Chan) (src seg : Nat) (imm : Bool) (cyc : Int) (s0 : State) :
    (mxRequest i src seg imm cyc s0).tb = s0.tb ∧ (mxRequest i src seg imm cyc s0).pins = s0.pins
      ∧ (mxRequest i src seg imm cyc s0).pf = s0.pf ∧ (mxRequest i src seg imm cyc s0).tg = s0.tg
      ∧ (mxRequest i src seg imm cyc s0).pt = s0.pt ∧ (mxRequest i src seg imm cyc s0).pm = s0.pm
      ∧ (mxRequest i src seg imm cyc s0).sq = s0.sq ∧ (mxRequest i src seg imm cyc s0).sp = s0.sp
      ∧ (mxRequest i src seg imm cyc s0).cl = s0.cl ∧ (mxRequest i src seg imm cyc s0).cs = s0.cs
      ∧ (mxRequest i src seg imm cyc s0).ti = s0.ti ∧ (mxRequest i src seg imm cyc s0).en = s0.en
      ∧ (mxRequest i src seg imm cyc s0).bt = s0.bt ∧ (mxRequest i src seg imm cyc s0).hostMem = s0.hostMem
      ∧ (mxRequest i src seg imm cyc s0).pending = s0.pending ∧ (mxRequest i src seg imm cyc s0).freeCtr = s0.freeCtr := by
  simp [mxRequest]

/-- `mxOut` changes no part but `mx`, `hi`, `mg`. -/
@[simp] theorem mxOut_frame (i : Chan) (v : Int) (s : State) :
    (mxOut i v s).tb = s.tb ∧ (mxOut i v s).pins = s.pins ∧ (mxOut i v s).pf = s.pf ∧ (mxOut i v s).tg = s.tg
      ∧ (mxOut i v s).pt = s.pt ∧ (mxOut i v s).pm = s.pm ∧ (mxOut i v s).sq = s.sq ∧ (mxOut i v s).sp = s.sp
      ∧ (mxOut i v s).cl = s.cl ∧ (mxOut i v s).cs = s.cs ∧ (mxOut i v s).ti = s.ti ∧ (mxOut i v s).en = s.en
      ∧ (mxOut i v s).bt = s.bt ∧ (mxOut i v s).hostMem = s.hostMem ∧ (mxOut i v s).pending = s.pending
      ∧ (mxOut i v s).freeCtr = s.freeCtr := by
  simp [mxOut]

/-- `toEns` changes no part but `tb`, `pins`, `pm`, `cs`, `ti`, `mx`, `hi`, `mg`, `hostMem`, `freeCtr`. -/
@[simp] theorem toEns_frame (t : Nat) (s : State) :
    (toEns t s).pf = s.pf ∧ (toEns t s).tg = s.tg ∧ (toEns t s).pt = s.pt ∧ (toEns t s).sq = s.sq ∧ (toEns t s).sp = s.sp
      ∧ (toEns t s).cl = s.cl ∧ (toEns t s).en = s.en ∧ (toEns t s).bt = s.bt ∧ (toEns t s).pending = s.pending := by
  simp [toEns]

/-- `portDown` changes no part but `pins`, `pf`, `pm`, `sq`, `sp`, `cs`, `ti`, `mx`, `en`, `hi`, `mg`, `freeCtr`. -/
@[simp] theorem portDown_frame (p : Port) (cause : Nat) (s : State) :
    (portDown p cause s).tb = s.tb ∧ (portDown p cause s).tg = s.tg ∧ (portDown p cause s).pt = s.pt
      ∧ (portDown p cause s).cl = s.cl ∧ (portDown p cause s).bt = s.bt ∧ (portDown p cause s).hostMem = s.hostMem
      ∧ (portDown p cause s).pending = s.pending := by
  simp [portDown]

/-- `goodData` changes no part but `en`. -/
@[simp] theorem goodData_frame (p : Port) (s : State) :
    (goodData p s).tb = s.tb ∧ (goodData p s).pins = s.pins ∧ (goodData p s).pf = s.pf ∧ (goodData p s).tg = s.tg
      ∧ (goodData p s).pt = s.pt ∧ (goodData p s).pm = s.pm ∧ (goodData p s).sq = s.sq ∧ (goodData p s).sp = s.sp
      ∧ (goodData p s).cl = s.cl ∧ (goodData p s).cs = s.cs ∧ (goodData p s).ti = s.ti ∧ (goodData p s).mx = s.mx
      ∧ (goodData p s).hi = s.hi ∧ (goodData p s).mg = s.mg ∧ (goodData p s).bt = s.bt ∧ (goodData p s).hostMem = s.hostMem
      ∧ (goodData p s).pending = s.pending ∧ (goodData p s).freeCtr = s.freeCtr := by
  simp [goodData]

/-- `flashFail` changes no part but `hi`, `mg`, `bt`. -/
@[simp] theorem flashFail_frame (a : Nat) (e : Exec) (s : State) :
    (flashFail a e s).tb = s.tb ∧ (flashFail a e s).pins = s.pins ∧ (flashFail a e s).pf = s.pf ∧ (flashFail a e s).tg = s.tg
      ∧ (flashFail a e s).pt = s.pt ∧ (flashFail a e s).pm = s.pm ∧ (flashFail a e s).sq = s.sq ∧ (flashFail a e s).sp = s.sp
      ∧ (flashFail a e s).cl = s.cl ∧ (flashFail a e s).cs = s.cs ∧ (flashFail a e s).ti = s.ti ∧ (flashFail a e s).mx = s.mx
      ∧ (flashFail a e s).en = s.en ∧ (flashFail a e s).hostMem = s.hostMem ∧ (flashFail a e s).pending = s.pending
      ∧ (flashFail a e s).freeCtr = s.freeCtr := by
  simp [flashFail]

/-- `uncommit` changes no part but `bt`. -/
@[simp] theorem uncommit_frame (k : Nat) (s : State) :
    (uncommit k s).tb = s.tb ∧ (uncommit k s).pins = s.pins ∧ (uncommit k s).pf = s.pf ∧ (uncommit k s).tg = s.tg
      ∧ (uncommit k s).pt = s.pt ∧ (uncommit k s).pm = s.pm ∧ (uncommit k s).sq = s.sq ∧ (uncommit k s).sp = s.sp
      ∧ (uncommit k s).cl = s.cl ∧ (uncommit k s).cs = s.cs ∧ (uncommit k s).ti = s.ti ∧ (uncommit k s).mx = s.mx
      ∧ (uncommit k s).en = s.en ∧ (uncommit k s).hi = s.hi ∧ (uncommit k s).mg = s.mg ∧ (uncommit k s).hostMem = s.hostMem
      ∧ (uncommit k s).pending = s.pending ∧ (uncommit k s).freeCtr = s.freeCtr := by
  simp [uncommit]

/-- `stageRun` changes no part but `hi`, `mg`, `bt`, `freeCtr`. -/
@[simp] theorem stageRun_frame (ok : Bool) (e : Exec) (s : State) :
    (stageRun ok e s).tb = s.tb ∧ (stageRun ok e s).pins = s.pins ∧ (stageRun ok e s).pf = s.pf ∧ (stageRun ok e s).tg = s.tg
      ∧ (stageRun ok e s).pt = s.pt ∧ (stageRun ok e s).pm = s.pm ∧ (stageRun ok e s).sq = s.sq ∧ (stageRun ok e s).sp = s.sp
      ∧ (stageRun ok e s).cl = s.cl ∧ (stageRun ok e s).cs = s.cs ∧ (stageRun ok e s).ti = s.ti ∧ (stageRun ok e s).mx = s.mx
      ∧ (stageRun ok e s).en = s.en ∧ (stageRun ok e s).hostMem = s.hostMem ∧ (stageRun ok e s).pending = s.pending := by
  simp [stageRun]

/-- `commitRun` changes no part but `hi`, `mg`, `bt`. -/
@[simp] theorem commitRun_frame (ok : Bool) (k : Nat) (e : Exec) (s : State) :
    (commitRun ok k e s).tb = s.tb ∧ (commitRun ok k e s).pins = s.pins ∧ (commitRun ok k e s).pf = s.pf
      ∧ (commitRun ok k e s).tg = s.tg ∧ (commitRun ok k e s).pt = s.pt ∧ (commitRun ok k e s).pm = s.pm
      ∧ (commitRun ok k e s).sq = s.sq ∧ (commitRun ok k e s).sp = s.sp ∧ (commitRun ok k e s).cl = s.cl
      ∧ (commitRun ok k e s).cs = s.cs ∧ (commitRun ok k e s).ti = s.ti ∧ (commitRun ok k e s).mx = s.mx
      ∧ (commitRun ok k e s).en = s.en ∧ (commitRun ok k e s).hostMem = s.hostMem ∧ (commitRun ok k e s).pending = s.pending
      ∧ (commitRun ok k e s).freeCtr = s.freeCtr := by
  unfold commitRun recordFail; dsimp only; split <;> simp

/-! ### An event and the log -/

/-- An error-summary interrupt changes the messages sent and the pending-bit array only (R382, R385). -/
theorem errIrq_hi (before : W32) (h : HI) (s : State) (k : withTrace h s.hi = h) : withTrace h (errIrq before s).hi = h := by
  unfold errIrq
  split
  · exact k
  · exact k

/-- An error-summary interrupt changes no management register (R382). -/
@[simp] theorem errIrq_mg (before : W32) (s : State) : (errIrq before s).mg = s.mg := by
  unfold errIrq
  split <;> rfl

/-- A record put in a queue changes the event log only (R405, R407, R421). -/
theorem enqueue_log (r : EventRec) (g : MG) : withLog g (enqueue r g) = g := rfl

/-- A second fatal code changes the event log only (R410). -/
theorem noteFatal_log (code : Nat) (a g : MG) (h : withLog a g = a) : withLog a (noteFatal code g) = a := by
  unfold noteFatal
  split
  · exact h
  · exact h

/-- The overflow event changes the event log only (R407). -/
theorem overflowEvent_log (sev : Nat) (a b : MG) (s : State) (h : withLog a s.mg = a) : withLog a (overflowEvent sev b s) = a := by
  unfold overflowEvent
  simp only
  split
  · split <;> exact h
  · exact h

/-- An event leaves the management registers as they are but for the log (R404 to R407, R410, R421). -/
theorem issue_sameMg (code : Nat) (items : List Item) (s : State) : SameMg s (issue code items s) := by
  unfold SameMg issue
  simp only [errIrq_mg]
  exact overflowEvent_log _ _ _ _ (noteFatal_log _ _ _ (enqueue_log _ _))

/-- An event leaves the host interface as it is but for its traces (R382, R385). -/
theorem issue_sameHi (code : Nat) (items : List Item) (s : State) : SameHi s (issue code items s) := by
  unfold SameHi issue
  exact errIrq_hi _ _ _ rfl

/-- All that an event can change. -/
theorem issue_keepsButLog (code : Nat) (items : List Item) (s : State) : KeepsButLog [] s (issue code items s) := by
  refine ⟨fun p hp => ?_, fun _ => issue_sameMg code items s, fun _ => issue_sameHi code items s⟩
  cases p <;> first | exact absurd (by decide) hp | simp [samePart]

/-! ### Time -/

/-- No time passes when none is asked for. -/
theorem pass_zero (s : State) : pass 0 s = s := by
  unfold pass
  simp

/-- An event whose due time has passed happens now (log 2). -/
theorem toEpoch_past {e : Nat} {s : State} (h : e ≤ ext s) : toEpoch e s = s := by
  have h' : (e - ext s + 8191) / 8192 = 0 := by omega
  rw [toEpoch, h', pass_zero]

/-- An event whose due time has passed happens now (log 2). -/
theorem toTime_past {t : Nat} {s : State} (h : t ≤ s.tb.now) : toTime t s = s := by
  have h' : (t - s.tb.now + 8191) / 8192 = 0 := by omega
  rw [toTime, h', pass_zero]

/-- What fabric cycles can change besides time: stamps, hits and shots fall due, and a wrap closes the frames, of which a
full front sends one to the host, and its event is issued (R41, R44, R271, R276, R283, R303). -/
theorem pass_keeps (n : Nat) (s : State) : Keeps [.tb, .pins, .pm, .cs, .ti, .mx, .hi, .mg, .hostMem, .freeCtr] s (pass n s) := by
  intro p hp
  cases p <;> first | exact absurd (by decide) hp | simp [samePart]

/-- What bringing time forward can change (log 2). -/
theorem toEpoch_keeps (e : Nat) (s : State) : Keeps [.tb, .pins, .pm, .cs, .ti, .mx, .hi, .mg, .hostMem, .freeCtr] s (toEpoch e s) :=
  pass_keeps _ s

/-- What bringing time forward can change (log 2). -/
theorem toTime_keeps (t : Nat) (s : State) : Keeps [.tb, .pins, .pm, .cs, .ti, .mx, .hi, .mg, .hostMem, .freeCtr] s (toTime t s) :=
  pass_keeps _ s

/-- A wrap leaves the time as it is (R44). -/
theorem wrapEffects_time (s : State) : (wrapEffects s).tb.now = s.tb.now ∧ (wrapEffects s).tb.epoch = s.tb.epoch := by
  simp [wrapEffects]

/-- `n` fabric cycles are `8192 n` ticks (R2). -/
theorem pass_now (n : Nat) (s : State) : (pass n s).tb.now = s.tb.now + 8192 * n := by
  unfold pass
  dsimp only
  by_cases h : s.tb.fabSrc = .edge
  · rw [if_pos h]
    by_cases z : n = 0
    · simp [z]
    · rw [if_neg z]
      rw [(passed_frame _).1]
      split <;> simp [wrapEffects_time]
  · simp [h]

/-- The epoch counter advances with FAB on the edge clock, and wraps (R41, R44); else it holds. -/
theorem pass_epoch (n : Nat) (s : State) :
    (pass n s).tb.epoch = if s.tb.fabSrc = .edge then BitVec.ofNat 64 (s.tb.epoch.toNat + 8192 * n) else s.tb.epoch := by
  unfold pass
  dsimp only
  by_cases h : s.tb.fabSrc = .edge
  · simp only [if_pos h]
    by_cases z : n = 0
    · simp [z]
    · rw [if_neg z]
      rw [(passed_frame _).1]
      split <;> simp [wrapEffects_time]
  · simp [h]

/-- Time is brought forward only, and far enough (log 2). -/
theorem toTime_now (t : Nat) (s : State) : t ≤ (toTime t s).tb.now ∧ s.tb.now ≤ (toTime t s).tb.now := by
  rw [toTime, pass_now]
  omega

/-! ### Slots -/

/-- The class of a slot is a matter of its place in the frame (R166, Table 7.3). -/
theorem slotClass_frame (b : Bool) (k : Nat) : slotClass b k = slotClass b (k % 64) := by
  have h : k % 64 % 8 = k % 8 := by omega
  have h' : k % 64 % 64 = k % 64 := by omega
  rw [slotClass, slotClass, h, h']

/-- Every frame has slots of every class (R23, Table 7.3). -/
theorem class_comes (b : Bool) (c : SlotClass) (k : Nat) : ∃ j, j < 64 ∧ slotClass b (k + j) = c := by
  have all : ∀ (b : Bool), ∀ c ∈ [SlotClass.pattern, .cellar, .stream, .host, .maint], ∀ r < 64, ∃ j, j < 64
      ∧ slotClass b ((r + j) % 64) = c := by decide +kernel
  obtain ⟨j, hj, h⟩ := all b c (by cases c <;> decide) (k % 64) (by omega)
  refine ⟨j, hj, ?_⟩
  rw [slotClass_frame, show (k + j) % 64 = (k % 64 + j) % 64 by omega, h]

/-- A search that has a slot to find ends at such a slot. -/
theorem findSlot_finds (s : State) (c : SlotClass) (n : Nat) (fuel : Nat) :
    ∀ k j, j < fuel → slotClass s.pm.profileB (k + j) = c → slotRoom s c (k + j) n = true →
      k ≤ findSlot s c n k fuel ∧ slotClass s.pm.profileB (findSlot s c n k fuel) = c
        ∧ slotRoom s c (findSlot s c n k fuel) n = true := by
  induction fuel with
  | zero => intro k j hj; omega
  | succ fuel ih =>
    intro k j hj hc hr
    rw [findSlot]
    split
    · rename_i h
      exact ⟨Nat.le_refl k, h⟩
    · rename_i h
      cases j with
      | zero => exact absurd ⟨hc, hr⟩ h
      | succ j =>
        have e : k + (j + 1) = k + 1 + j := by omega
        rw [e] at hc hr
        have := ih (k + 1) j (by omega) hc hr
        exact ⟨by omega, this.2⟩

/-- A slot that carries nothing of a class yet has room for every part of a transfer (R168). -/
theorem room_when_fresh {s : State} {c : SlotClass} {k n : Nat} (hn : n ≤ slotBytes) (h : s.pm.slotAt[classIx c] ≠ k) :
    slotRoom s c k n = true := by
  unfold slotRoom slotLoad
  rw [if_neg h]
  simp [hn]

/-- The slot found for a transfer is of its class and has room, and none before the present one is taken (R168). -/
theorem findSlot_right {s : State} {n : Nat} (hn : n ≤ slotBytes) (c : SlotClass) (k : Nat) :
    k ≤ findSlot s c n k 128 ∧ slotClass s.pm.profileB (findSlot s c n k 128) = c
      ∧ slotRoom s c (findSlot s c n k 128) n = true := by
  obtain ⟨j, hj, h⟩ := class_comes s.pm.profileB c k
  by_cases e : s.pm.slotAt[classIx c] = k + j
  · refine findSlot_finds s c n 128 k (64 + j) (by omega) ?_ (room_when_fresh hn (by omega))
    rw [slotClass_frame, show (k + (64 + j)) % 64 = (k + j) % 64 by omega, ← slotClass_frame, h]
  · exact findSlot_finds s c n 128 k j (by omega) h (room_when_fresh hn e)

/-- The last slot of a class after one more transfer is of that class, and lies before neither the present slot nor the last one. -/
structure SlotTaken (c : SlotClass) (s t : State) : Prop where
  now : slotNow s ≤ t.pm.slotAt[classIx c]
  later : s.pm.slotAt[classIx c] ≤ t.pm.slotAt[classIx c]
  ofClass : slotClass s.pm.profileB t.pm.slotAt[classIx c] = c

/-- A round takes a slot of its class (R24, R168). -/
theorem bookRound_taken {c : SlotClass} {n : Nat} (hn : n ≤ slotBytes) (s : State) : SlotTaken c s (bookRound c n s) := by
  have r := findSlot_right (s := s) hn c (max (slotNow s) s.pm.slotAt[classIx c])
  have e : (bookRound c n s).pm.slotAt[classIx c] = findSlot s c n (max (slotNow s) s.pm.slotAt[classIx c]) 128 :=
    vset_self _ _ _
  exact ⟨by rw [e]; omega, by rw [e]; omega, by rw [e]; exact r.2.1⟩

/-- A round of requests fits in a slot (R170). -/
theorem round_fits (c : SlotClass) : roundBytes c ≤ slotBytes := Nat.div_le_self _ _

/-- The rounds of a transfer take slots of its class (R24, R168). -/
theorem bookRounds_taken (c : SlotClass) (fuel n : Nat) (s : State) : SlotTaken c s (bookRounds c fuel n s) := by
  have h := round_fits c
  induction fuel generalizing n s with
  | zero => exact bookRound_taken (by omega) s
  | succ fuel ih =>
    rw [bookRounds]
    split
    · exact bookRound_taken (by omega) s
    · have a := bookRound_taken (c := c) h s
      have b := ih (n - roundBytes c) (bookRound c (roundBytes c) s)
      exact ⟨b.now, Nat.le_trans a.later b.later, b.ofClass⟩

/-- A transfer ends in a slot of its class, before neither the present slot nor the class's last one (R24, R168). -/
theorem bookSlots_taken (c : SlotClass) (n : Nat) (s : State) : SlotTaken c s (bookSlots c n s) := by
  unfold bookSlots
  dsimp only
  split
  · exact bookRounds_taken c 40 _ s
  · generalize hk : max (slotNow s) s.pm.slotAt[classIx c] + 64 * _ = k
    have b := bookRounds_taken c 40 (n - (n - 1) / frameSupply s.pm.profileB c * frameSupply s.pm.profileB c) (slotCarries c k 0 s)
    have e : (slotCarries c k 0 s).pm.slotAt[classIx c] = k := vset_self _ _ _
    have l := b.later
    rw [e] at l
    exact ⟨by omega, by omega, b.ofClass⟩

end Sys2Proof.Machine
end

