-- ==== Sys2Proof/Laws/Memory.lean ====
section
/-! SUPPORT. Laws of the sparse memories: every operation keeps the canonical form; a read after a write gives the bytes
written, and every other address reads as before. -/

namespace Sys2Proof.Machine

open Sys2Proof

/-! ### The canonical form -/

/-- A canonical list from a higher address is one from every lower address. -/
theorem wfFrom_mono (d : Byte) {m : Mem} {a b : Nat} (hab : a ≤ b) (h : Memory.wfFrom d b m = true) :
    Memory.wfFrom d a m = true := by
  cases m with
  | nil => rfl
  | cons c r =>
    simp only [Memory.wfFrom, Bool.and_eq_true, decide_eq_true_eq] at h ⊢
    exact ⟨⟨by omega, h.1.2⟩, h.2⟩

/-- Every address of a canonical list lies at or above its lower end. -/
theorem wfFrom_le {d : Byte} {m : Mem} {a : Nat} (h : Memory.wfFrom d a m = true) : ∀ c ∈ m, a ≤ c.1 := by
  induction m generalizing a with
  | nil => simp
  | cons c r ih =>
    simp only [Memory.wfFrom, Bool.and_eq_true, decide_eq_true_eq] at h
    intro x hx
    rcases List.mem_cons.mp hx with rfl | hx
    · exact h.1.1
    · have := ih h.2 x hx; omega

/-- A selection of cells of a canonical list is canonical. -/
theorem wfFrom_filter {d : Byte} {m : Mem} {a : Nat} (p : Host.Cell → Bool) (h : Memory.wfFrom d a m = true) :
    Memory.wfFrom d a (m.filter p) = true := by
  induction m generalizing a with
  | nil => rfl
  | cons c r ih =>
    simp only [Memory.wfFrom, Bool.and_eq_true, decide_eq_true_eq] at h
    rw [List.filter_cons]
    split
    · simp only [Memory.wfFrom, Bool.and_eq_true, decide_eq_true_eq]
      exact ⟨h.1, ih h.2⟩
    · exact wfFrom_mono d (by omega) (ih h.2)

/-- The cells from a seam on are canonical from the seam. -/
theorem wfFrom_filter_ge {d : Byte} {m : Mem} {z : Nat} (b : Nat) (h : Memory.wfFrom d z m = true) :
    Memory.wfFrom d b (m.filter fun c => decide (b ≤ c.1)) = true := by
  induction m generalizing z with
  | nil => rfl
  | cons c r ih =>
    simp only [Memory.wfFrom, Bool.and_eq_true, decide_eq_true_eq] at h
    rw [List.filter_cons]
    split
    · rename_i hc
      simp only [Memory.wfFrom, Bool.and_eq_true, decide_eq_true_eq]
      exact ⟨⟨by simpa using hc, h.1.2⟩, wfFrom_filter _ h.2⟩
    · exact ih h.2

/-- Two canonical lists one above the other join to a canonical list. -/
theorem wfFrom_append {d : Byte} {m n : Mem} {a b : Nat} (hm : Memory.wfFrom d a m = true) (hn : Memory.wfFrom d b n = true)
    (hab : a ≤ b) (hlt : ∀ c ∈ m, c.1 < b) : Memory.wfFrom d a (m ++ n) = true := by
  induction m generalizing a with
  | nil => exact wfFrom_mono d hab hn
  | cons c r ih =>
    simp only [List.cons_append, Memory.wfFrom, Bool.and_eq_true, decide_eq_true_eq] at hm ⊢
    have hc := hlt c (by simp)
    exact ⟨hm.1, ih hm.2 (by omega) fun x hx => hlt x (by simp [hx])⟩

/-- The cells of a byte string are canonical. -/
theorem wfFrom_memCells (d : Byte) (a : Nat) (l : List Byte) : Memory.wfFrom d a (memCells d a l) = true := by
  induction l generalizing a with
  | nil => rfl
  | cons b r ih =>
    have h := ih (a + 1)
    simp only [memCells, List.zipIdx_cons, List.filter_cons] at h ⊢
    split
    · rename_i hb
      simp only [List.map_cons, Memory.wfFrom, Bool.and_eq_true, decide_eq_true_eq]
      exact ⟨⟨le_rfl, hb⟩, h⟩
    · exact wfFrom_mono d (by omega) h

/-- The cells of a byte string lie in its range. -/
theorem memCells_range {d : Byte} {a : Nat} {l : List Byte} {c : Host.Cell} (h : c ∈ memCells d a l) :
    a ≤ c.1 ∧ c.1 < a + l.length := by
  simp only [memCells, List.mem_map, List.mem_filter] at h
  obtain ⟨x, ⟨hx, _⟩, rfl⟩ := h
  have h1 := List.le_snd_of_mem_zipIdx hx
  have h2 := List.snd_lt_of_mem_zipIdx hx
  exact ⟨h1, by omega⟩

/-- A write keeps the canonical form. -/
@[simp] theorem wf_memWrite (d : Byte) (m : Mem) (a : Nat) (l : List Byte) (h : Memory.wf d m = true) :
    Memory.wf d (memWrite d m a l) = true := by
  unfold memWrite Memory.wf at *
  have top := wfFrom_filter_ge (a + l.length) h
  rw [List.append_assoc]
  refine wfFrom_append (b := a) (wfFrom_filter _ h)
    (wfFrom_append (b := a + l.length) (wfFrom_memCells d a l) top (by omega) fun c hc => (memCells_range hc).2)
    (by omega) fun c hc => by simpa using (List.mem_filter.mp hc).2

/-- An erase keeps the canonical form. -/
@[simp] theorem wf_memErase (d : Byte) (m : Mem) (a n : Nat) (h : Memory.wf d m = true) : Memory.wf d (memErase m a n) = true :=
  wfFrom_filter _ h

/-- One byte written keeps the canonical form. -/
theorem wfFrom_memPut (d : Byte) {m : Mem} {z a : Nat} (b : Byte) (hz : z ≤ a) (h : Memory.wfFrom d z m = true) :
    Memory.wfFrom d z (memPut d m a b) = true := by
  induction m generalizing z with
  | nil => by_cases hb : b = d <;> simp [memPut, hb, Memory.wfFrom, hz]
  | cons c r ih =>
    obtain ⟨k, v⟩ := c
    simp only [Memory.wfFrom, Bool.and_eq_true, decide_eq_true_eq] at h
    unfold memPut
    by_cases h1 : a < k
    · by_cases hb : b = d
      · simp [h1, hb, Memory.wfFrom, h.1.1, h.2]; simpa using h.1.2
      · simp only [h1, hb, if_true, if_false, Memory.wfFrom, Bool.and_eq_true, decide_eq_true_eq, bne_iff_ne, ne_eq,
          not_false_eq_true]
        exact ⟨⟨hz, trivial⟩, ⟨by omega, by simpa using h.1.2⟩, h.2⟩
    · by_cases h2 : a = k
      · subst h2
        by_cases hb : b = d
        · simp only [hb, lt_irrefl, if_false, if_true]
          exact wfFrom_mono d (by omega) h.2
        · simp only [hb, lt_irrefl, if_false, if_true, Memory.wfFrom, Bool.and_eq_true, decide_eq_true_eq, bne_iff_ne, ne_eq,
            not_false_eq_true]
          exact ⟨⟨hz, trivial⟩, h.2⟩
      · simp only [h1, h2, if_false, Memory.wfFrom, Bool.and_eq_true, decide_eq_true_eq]
        exact ⟨h.1, ih (by omega) h.2⟩

/-- The host memory that a read brought is canonical. -/
@[simp] theorem wf_hostMemOf (h : HostRead) : Memory.wf 0 (hostMemOf h) = true := by
  unfold hostMemOf
  induction h.cells with
  | nil => rfl
  | cons c r ih => exact wfFrom_memPut 0 c.2 (by omega) ih

/-- Cells moved to another range are canonical, at or above their new place. -/
theorem wfFrom_memShift (d : Byte) {m : Mem} {z : Nat} (a n o : Nat) (h : Memory.wfFrom d z m = true) :
    Memory.wfFrom d (max z a - a + o) (memShift m a n o) = true := by
  unfold memShift
  induction m generalizing z with
  | nil => rfl
  | cons c r ih =>
    obtain ⟨k, v⟩ := c
    simp only [Memory.wfFrom, Bool.and_eq_true, decide_eq_true_eq] at h
    have hr := ih h.2
    rw [List.filter_cons]
    split
    · rename_i hc
      simp only [decide_eq_true_eq] at hc
      simp only [List.map_cons, Memory.wfFrom, Bool.and_eq_true, decide_eq_true_eq]
      exact ⟨⟨by omega, h.1.2⟩, wfFrom_mono d (by omega) hr⟩
    · exact wfFrom_mono d (by omega) hr

/-- A splice keeps the canonical form. -/
@[simp] theorem wf_memSplice (d : Byte) (dst : Mem) (o n : Nat) (src : Mem) (a : Nat) (hd : Memory.wf d dst = true)
    (hs : Memory.wf d src = true) : Memory.wf d (memSplice dst o n src a) = true := by
  unfold memSplice Memory.wf at *
  have top := wfFrom_filter_ge (o + n) hd
  have mid : Memory.wfFrom d o (memShift src a n o) = true := wfFrom_mono d (by omega) (wfFrom_memShift d a n o hs)
  rw [List.append_assoc]
  refine wfFrom_append (b := o) (wfFrom_filter _ hd) (wfFrom_append (b := o + n) mid top (by omega) ?_) (by omega) ?_
  · intro c hc
    simp only [memShift, List.mem_map, List.mem_filter, decide_eq_true_eq] at hc
    obtain ⟨x, ⟨_, h1, h2⟩, rfl⟩ := hc
    show x.1 - a + o < o + n
    omega
  · intro c hc
    simpa using (List.mem_filter.mp hc).2

/-! ### Reading after writing -/

/-- An address below a canonical list reads as the default. -/
theorem memGet_below {d : Byte} {m : Mem} {z x : Nat} (h : Memory.wfFrom d z m = true) (hx : x < z) : memGet d m x = d := by
  cases m with
  | nil => rfl
  | cons c r =>
    obtain ⟨k, v⟩ := c
    simp only [Memory.wfFrom, Bool.and_eq_true, decide_eq_true_eq] at h
    simp only [memGet]
    rw [if_neg (by omega), if_pos (by omega)]

/-- A canonical list reads as one function of its cells: below the seam the lower part, from the seam on the upper part. -/
theorem memGet_append {d : Byte} {m n : Mem} {z b x : Nat} (hm : Memory.wfFrom d z m = true) (hn : Memory.wfFrom d b n = true)
    (hlt : ∀ c ∈ m, c.1 < b) : memGet d (m ++ n) x = if x < b then memGet d m x else memGet d n x := by
  induction m generalizing z with
  | nil =>
    by_cases hx : x < b
    · simp only [List.nil_append, hx, if_true, memGet]; exact memGet_below hn hx
    · simp [hx]
  | cons c r ih =>
    obtain ⟨k, v⟩ := c
    simp only [Memory.wfFrom, Bool.and_eq_true, decide_eq_true_eq] at hm
    have hk := hlt (k, v) (by simp)
    have hr := ih hm.2 fun c hc => hlt c (by simp [hc])
    simp only [List.cons_append, memGet]
    by_cases h1 : k = x
    · rw [if_pos h1, if_pos (by simp at hk; omega), if_pos h1]
    · rw [if_neg h1, if_neg h1]
      by_cases h2 : x < k
      · rw [if_pos h2, if_pos h2, if_pos (by simp at hk; omega)]
      · rw [if_neg h2, if_neg h2, hr]

/-- The cells of a byte string read as its bytes. -/
theorem memGet_memCells (d : Byte) (a : Nat) (l : List Byte) (i : Nat) (h : i < l.length) :
    memGet d (memCells d a l) (a + i) = l[i] := by
  induction l generalizing a i with
  | nil => simp at h
  | cons b r ih =>
    have hw := wfFrom_memCells d (a + 1) r
    cases i with
    | zero =>
      simp only [memCells, List.zipIdx_cons, List.filter_cons] at hw ⊢
      split
      · simp [memGet]
      · rename_i hb
        rw [memGet_below hw (by omega)]
        have e : b = d := by simpa using hb
        simp [e]
    | succ i =>
      have := ih (a + 1) i (by simpa using h)
      simp only [memCells, List.zipIdx_cons, List.filter_cons] at this hw ⊢
      have e : a + (i + 1) = a + 1 + i := by omega
      split
      · simp only [List.map_cons, memGet]
        rw [if_neg (by omega), if_neg (by omega), e, this]; simp
      · rw [e, this]; simp

/-- A selection below a seam reads as the whole below the seam, and one from a seam on as the whole above it. -/
theorem memGet_filter_lt {d : Byte} {m : Mem} {z : Nat} (b x : Nat) (h : Memory.wfFrom d z m = true) (hx : x < b) :
    memGet d (m.filter fun c => decide (c.1 < b)) x = memGet d m x := by
  induction m generalizing z with
  | nil => rfl
  | cons c r ih =>
    obtain ⟨k, v⟩ := c
    simp only [Memory.wfFrom, Bool.and_eq_true, decide_eq_true_eq] at h
    rw [List.filter_cons]
    split
    · simp only [memGet, ih h.2]
    · rename_i hk
      simp only [decide_eq_true_eq] at hk
      simp only [memGet]
      rw [if_neg (by omega), if_pos (by omega)]
      exact memGet_below (wfFrom_filter _ h.2) (by omega)

/-- See `memGet_filter_lt`. -/
theorem memGet_filter_ge {d : Byte} {m : Mem} {z : Nat} (b x : Nat) (h : Memory.wfFrom d z m = true) (hx : b ≤ x) :
    memGet d (m.filter fun c => decide (b ≤ c.1)) x = memGet d m x := by
  induction m generalizing z with
  | nil => rfl
  | cons c r ih =>
    obtain ⟨k, v⟩ := c
    simp only [Memory.wfFrom, Bool.and_eq_true, decide_eq_true_eq] at h
    rw [List.filter_cons]
    split
    · simp only [memGet, ih h.2]
    · rename_i hk
      simp only [decide_eq_true_eq] at hk
      simp only [memGet]
      rw [if_neg (by omega), if_neg (by omega)]
      exact ih h.2

/-- What a canonical memory reads as after a write: the bytes written in their range, everything else as before. -/
theorem memGet_memWrite (d : Byte) (m : Mem) (a : Nat) (l : List Byte) (x : Nat) (h : Memory.wf d m = true) :
    memGet d (memWrite d m a l) x = if hx : a ≤ x ∧ x < a + l.length then l[x - a]'(by omega) else memGet d m x := by
  unfold Memory.wf at h
  have top := wfFrom_filter_ge (a + l.length) h
  have up := wfFrom_append (b := a + l.length) (wfFrom_memCells d a l) top (by omega) fun c hc => (memCells_range hc).2
  unfold memWrite
  rw [List.append_assoc, memGet_append (b := a) (wfFrom_filter _ h) up (fun c hc => by simpa using (List.mem_filter.mp hc).2),
    memGet_append (b := a + l.length) (wfFrom_memCells d a l) top fun c hc => (memCells_range hc).2]
  by_cases h1 : x < a
  · rw [if_pos h1, dif_neg (by omega), memGet_filter_lt a x h h1]
  · rw [if_neg h1]
    by_cases h2 : x < a + l.length
    · rw [if_pos h2, dif_pos (by omega)]
      obtain ⟨i, rfl⟩ : ∃ i, x = a + i := ⟨x - a, by omega⟩
      rw [memGet_memCells d a l i (by omega)]
      congr 1; omega
    · rw [if_neg h2, dif_neg (by omega), memGet_filter_ge _ x h (by omega)]

/-- A read of the range just written gives the bytes written. -/
theorem memRead_memWrite (d : Byte) (m : Mem) (a : Nat) (l : List Byte) (h : Memory.wf d m = true) :
    memRead d (memWrite d m a l) a l.length = l := by
  unfold memRead
  apply List.ext_getElem
  · simp
  · intro i h1 h2
    simp only [List.getElem_map, List.getElem_range]
    rw [memGet_memWrite d m a l (a + i) h, dif_pos ⟨by omega, by omega⟩]
    congr 1; omega

/-- Outside the range written every address reads as before. -/
theorem memGet_memWrite_other (d : Byte) (m : Mem) (a : Nat) (l : List Byte) (x : Nat) (h : Memory.wf d m = true)
    (hx : x < a ∨ a + l.length ≤ x) : memGet d (memWrite d m a l) x = memGet d m x := by
  rw [memGet_memWrite d m a l x h, dif_neg (by omega)]

/-! ### Device DRAM -/

/-- DRAM with power reads back the bytes written (R8, R165). -/
theorem dramRead_dramWrite {s : State} (hp : dramOn s = true) (h : Memory.wf 0 s.pm.dram = true) (a : Nat) (l : List Byte) :
    dramRead (dramWrite a l s) a l.length = l := by
  have get : ∀ i, i < l.length → dramByte (dramWrite a l s).pm (a + i) = memGet 0 (memWrite 0 s.pm.dram a l) (a + i) := by
    intro i hi
    unfold dramByte dramWrite
    rw [if_pos hp]
    cases hf : s.pm.dramFree with
    | none => simp
    | some k =>
      have : (s.pm.dramKnown ++ [(a, l.length)]).any (fun r => decide (r.1 ≤ a + i ∧ a + i < r.1 + r.2)) = true := by
        simp [hi]
      simp only [Option.isNone_some, Bool.false_eq_true, if_false, this, if_true]
  unfold dramRead
  apply List.ext_getElem
  · simp
  · intro i h1 h2
    simp only [List.getElem_map, List.getElem_range]
    rw [get i h2, memGet_memWrite 0 s.pm.dram a l (a + i) h, dif_pos ⟨by omega, by omega⟩]
    congr 1; omega

/-- Outside the range written DRAM reads as before (R8). -/
theorem dramByte_dramWrite_other {s : State} (h : Memory.wf 0 s.pm.dram = true) (a : Nat) (l : List Byte) (x : Nat)
    (hx : x < a ∨ a + l.length ≤ x) : dramByte (dramWrite a l s).pm x = dramByte s.pm x := by
  have other := memGet_memWrite_other 0 s.pm.dram a l x h hx
  have out : ¬ (a ≤ x ∧ x < a + l.length) := by omega
  unfold dramWrite
  split
  · cases hf : s.pm.dramFree with
    | none => simp only [dramByte, hf, other]
    | some k =>
      simp only [dramByte, hf, Option.isNone_some, Bool.false_eq_true, if_false, List.any_append, List.any_cons, List.any_nil, out,
        decide_false, Bool.or_false, other]
  · rfl

/-- Every memory of the state after reset is canonical. -/
theorem reset_memories : Memory.wf 0 State.reset.pm.dram = true ∧ Memory.wf 0 State.reset.hostMem = true
    ∧ Memory.wf 0xFF State.reset.bt.flash = true := by decide

end Sys2Proof.Machine
end

