-- ==== Sys2Proof/WellFormed.lean ====
section
/-! DEFINITION. Well-formed commands: the operands that the outside of the block can deliver (log 1). A check stands where an operand's
type holds more than the specification's range. The meanings are total: a term that is not well formed has one as well. -/

namespace Sys2Proof

open Sys2Proof.Machine

/-- Host memory as a read finds it: cells in canonical form, a failed read with a 64-bit address and one of the status values
that a failed read has (R186, R395). -/
def hostReadOk (src : HostRead) : Bool :=
  Memory.wf 0 src.cells && src.fail.all fun f => decide (f.1 < 2 ^ 64) && List.contains [0x01, 0x02, 0x04, 0x08, 0x09, 0x0A] f.2

/-- A write request of 1 to 8 bytes within one aligned 8-byte block (R374). -/
def blockWrite (off : Nat) (bytes : List (Option Byte)) : Bool :=
  decide (1 ≤ bytes.length ∧ bytes.length ≤ 8 ∧ off / 8 = (off + bytes.length - 1) / 8)

/-- An address of the attic's fetches lies in device DRAM, or for a read of host memory in the host window (R161, R163). -/
def fetchOk (host : Bool) (item : FetchItem) : Bool :=
  let ok := fun a => if host then decide (2 ^ 40 ≤ a ∧ a < 2 ^ 41) else decide (a < 2 ^ 37)
  match item with
  | .vector a => ok a
  | .lane _ a => ok a
  | .desc a => ok a

/-- A measured raw latency is a 32-bit count, and a parent stands at depth 0 to 7 (R344, Table 14.8). -/
def trainingOk (result : Training) : Bool :=
  match result with
  | .measured d depth => decide (d < 2 ^ 32 ∧ depth < 8)
  | .noLock => true

/-- A well-formed command. -/
def Instr.wf (i : Instr) : Bool :=
  match i with
  | .refclkMonitorWindowEnd count => decide (count < 2 ^ 32)
  | .guardWindowEnd _ count _ => decide (count < 2 ^ 32)
  | .phaseAlignDone _ phi => decide (phi.natAbs ≤ 256)
  | .tbEpochLoRead req => decide (1 ≤ req.len ∧ req.len ≤ 4096 ∧ req.off + req.len ≤ if req.bar4 then 2 ^ 24 else 2 ^ 16)
  | .postedWriteReceive bar4 off bytes => decide (off + bytes.length ≤ if bar4 then 2 ^ 24 else 2 ^ 16)
  | .registerWrite off bytes => blockWrite off bytes && decide (off + bytes.length ≤ 2 ^ 16)
  | .runCtlInvalidCmd cmd => decide (cmd.toNat = 0 ∨ 5 ≤ cmd.toNat)
  | .sequenceStoreScrub addr _ => decide (addr < 262144)
  | .sqLoad _ src _ => hostReadOk src
  | .ptBind _ src _ => hostReadOk src
  | .ptRefresh _ src _ => hostReadOk src
  | .storeRoomScrub off _ => decide (off < 2113536)
  | .pmVerify _ src _ => hostReadOk src
  | .atticFetchComplete item _ _ => fetchOk false item
  | .hostsrcReadComplete item _ src => fetchOk true item && hostReadOk src
  | .dramScrub addr _ => decide (addr < 2 ^ 37)
  | .bar2Write addr bytes _ => !bytes.isEmpty && decide (addr + bytes.length ≤ 2 ^ 37)
  | .bar2Read addr len _ => decide (1 ≤ len ∧ addr + len ≤ 2 ^ 37)
  | .comparatorCrossing _ _ at_ _ _ => decide (at_ < 2 ^ 80)
  | .tiuGateReady _ r1 r2 => decide (r1 < r2)
  | .mxUpdate ue => ue.all fun x => decide (x.2 < 60928)
  | .mxSegmentRead _ addr _ => decide (addr % 64 = 0 ∧ addr < 2 ^ 37)
  | .sineBlockWrite off bytes => blockWrite off bytes && decide (0x1000 ≤ off ∧ off + bytes.length ≤ 0x1400)
  | .mxLoad _ src _ => hostReadOk src
  | .portTrainingDone _ result => trainingOk result
  | .hargoControlSlot _ slot => decide (slot.bytes.length = 32 ∧ ¬ (slot.sync0 = 1 ∧ slot.sync1 = 1))
  | .syncProbe time => decide (time < 2 ^ 80)
  | .refclkCountCheck count => decide (count < 2 ^ 32)
  | .joinMessage _ member _ _ depth _ => decide (member < 64 ∧ depth < 64)
  | .formedMessage members => decide (1 ≤ members ∧ members ≤ 64)
  | .commandFetch entry => decide (entry.length = 64)
  | .commandStart src => hostReadOk src
  | .calLoad _ src _ => hostReadOk src
  | .calCheck _ dev => decide (dev.length % 18 = 0) && dev.all fun d => decide (d.natAbs < 2 ^ 31)
  | .powerOnReset | .conventionalReset | .perstNDeassert | .bootComplete | .flr | .refclkMissingEdge
  | .lockDetectorAssert .. | .lockDetectorDeassert .. | .acquisitionTimeout | .fabSwitchComplete | .epochWrap
  | .arm | .go | .halt | .abort | .pendingStopAtBoundary | .atticFillComplete | .vectorIssue
  | .vectorAtFormatter | .edgeFire .. | .compareEdge .. | .conditionResolve | .commitRelease .. | .runEnd | .vec ..
  | .rpt .. | .loop .. | .endl .. | .br .. | .wait .. | .ltk .. | .mark .. | .tgate .. | .mxj .. | .site .. | .evt ..
  | .svc .. | .haltWord .. | .evtOutputAct | .evtPulseEnd .. | .serviceProcedureStart | .call .. | .ret .. | .sjmp ..
  | .loadw .. | .loadwComplete .. | .lvl .. | .pfn .. | .pmeas .. | .tiurd .. | .tiurdComplete | .sqConfig ..
  | .levelTimerExpiry | .levelTick | .deglitchHoldEnd .. | .slewStep .. | .functionEnable .. | .ppmuRangeOverlapEnd ..
  | .ppmuMeasStart .. | .ppmuMuxConnected .. | .ppmuSettleExpiry .. | .ppmuConversion .. | .parkNFall .. | .parkNRise
  | .pfConfig .. | .pfUnpark .. | .pfPpmuMeas .. | .pmConfig .. | .pmConfigFrameApply | .pmRegion .. | .pmWfclr ..
  | .bar2WriteApply .. | .cellarGranuleWrite | .cellarReadbackComplete .. | .clCntSnap | .clConfig ..
  | .triggerSpanTimeout .. | .triggerHitDelivery | .rawSample .. | .unitPlace .. | .frameFlushExpiry .. | .frameSend
  | .stagingWrite | .stagingReadComplete .. | .streamIrqTimer | .csConsWrite .. | .csOpen .. | .csClose .. | .tgateAct
  | .gateInEdge .. | .evtInEdge .. | .tiuShotOverflow .. | .tiConfig .. | .tiClear .. | .tiRead .. | .tiSnap ..
  | .mxJumpRequest .. | .mxConfig .. | .mxSegtab .. | .mxStart .. | .mxJump .. | .mxStop ..
  | .ensForm .. | .ensFormTimeout | .ensBreak .. | .ensExpect .. | .ensTmark .. | .tmarkSend | .timeMarkEvent
  | .linkBlockLockLost .. | .syncProbeSend | .contribBurst | .resultBurst | .armBurst | .armBurstAtime | .goBurst
  | .goBurstAtime | .haltBurst | .haltBurstParkAtime | .haltreqBurst | .discordBurst | .tmarkBurst | .armCheckRequest
  | .armCheckReply .. | .armCheckReplyTimeout | .armedReport .. | .breakMessage | .mgmtRetransmitTimeout ..
  | .hiCmdDb .. | .completionWrite | .completionIrqTimer | .hiCplHead .. | .hiCmdSize .. | .hiCplSize .. | .hiNop ..
  | .hiInfo .. | .mirrorRefresh | .coreWake .. | .sensorSlotEnd .. | .thermalTrip115 .. | .thermalTrip125 ..
  | .eventLogDrain | .persistCopy .. | .diagSnapshot | .pwrSet .. | .powerStepComplete .. | .mgRelease ..
  | .mgLogRead .. | .mgSensors .. | .mgDbgUnlockChallenge .. | .mgDbgUnlockToken .. | .smbReadStatus | .smbReadSensors
  | .smbReadRecord | .smbPwrSet .. | .smbAlertResponse | .mgCtrlWrite .. | .muxKeeperRelease | .fwStage ..
  | .fwCommit .. | .fwActivate .. | .fwInfo .. | .calSave .. | .localEntryResolution | .axrasStart ..
  | .dataSlotAcknowledgement .. => true

end Sys2Proof
end

