-- ==== Sys2Proof/Tests/Slice0.lean ====
section
/-! SUPPORT. Tests: the worked examples of the specification; an ill-formed term for each check of WellFormed; and for every
statement with hypotheses, states and operands that meet the hypotheses of its clauses together. -/

section

set_option Elab.async false

namespace Sys2Proof.Tests

open Sys2Proof Sys2Proof.Machine

/-- Bytes of a record: `n` zero bytes with fields (offset, width, value) put in. -/
def fields (n : Nat) (l : List (Nat × Nat × Nat)) : List Byte :=
  l.foldl (fun b x => b.take x.1 ++ leBytes x.2.1 x.2.2 ++ b.drop (x.1 + x.2.1)) (zeros n)

/-- A sequence word: its opcode and fields (least significant bit, value). -/
def word (op : Nat) (l : List (Nat × Nat)) : Nat := l.foldl (fun w x => w + x.2 * 2 ^ x.1) (op * 2 ^ 122)

/-- A device in P1 whose four guards are open and whose FAB runs from the edge clock. -/
def onEdge : State := {
  tb := { fabSrc := .edge, refclkOk := true, epochValid := true, guardOpen := .replicate 4 true, pll := .replicate 4 .running
          lockDet := .replicate 4 true }
  mg := { pstate := 1 }, bt := { inReset := false, fwReady := true } }

/-- An executing command with an inline payload and tag 7. -/
def exe (op : Nat) (l : List (Nat × Nat × Nat)) : Exec := {
  entry := { opcode := BitVec.ofNat 16 op, tag := 7, fence := false, indirect := false, badHdr := false, pay := fields 48 l
             hash := 0 }
  idle := false, parkActs := 0 }

/-- An executing command with an indirect payload of `n` bytes and tag 7. -/
def exeInd (op n : Nat) (l : List (Nat × Nat × Nat)) : Exec :=
  let e := exe op [(8, 4, n)]
  { e with entry := { e.entry with indirect := true }, ind := fields n l }

/-- The state with one executing command. -/
def asks (e : Exec) (s : State) : State := { s with hi := { s.hi with exec := [e] } }

/-- A run in progress whose vector context stands before word `w` at address 5. -/
def runs (w : Nat) : State := { onEdge with sq := {
  state := .running, stopped := false, pc := 5, store := [(5, BitVec.ofNat 128 w)], startTick := 8192 } }

/-- The state with the decode slot of the vector context's word taken. -/
def slotOf (s : State) : State := (takeSlot s).getD s

/-- The state with the decode slot of the service context's word taken. -/
def svcSlot (s : State) : State := freeSlot s

/-- A memory with fields (address, width, value). -/
def mem (l : List (Nat × Nat × Nat)) : Mem := l.foldl (fun m x => memWrite 0 m x.1 (leBytes x.2.1 x.2.2)) []

/-- A table image: format 1, timing set 0 valid with a period of 10 ns, pin P000 used, without a site, on the shortest latency;
its symbol 1 has format code 1, drive action 1 and an expect. -/
def table : Mem := [
  (0, 1), (0x401, 0x40), (0x402, 0x01), (0x406, 0x02), (0x4C04, 0x20), (0x4C05, 0x0A), (0x4C60, 1), (0x4C64, 0x80), (0x4C72, 0x19)]

/-- A device that passes every arm check: the table bound, the front end out of the park state, a sequence loaded. -/
def ready : State := { onEdge with
  pt := { bound := true, base := 0x100000, room := table, shadow := table, shadowOk := true }
  pf := { parked := false, bankPark := .replicate 8 false, vio := .replicate 8 0x8000, bankMv := .replicate 8 900, parkN := true }
  sq := { loaded := true } }

/-- The state with the bytes of some fields in device DRAM. -/
def dram (l : List (Nat × Nat × Nat)) (s : State) : State := { s with pm := { s.pm with dram := mem l } }

/-- The subject of a condition. -/
def subj : Subj := { n := 3, idx := 2, start := 8192, period := 81920 }

/-- A condition that waits for its result, predicted true. -/
def openCond : Cond := {
  cid := 3, word := 2, entry := 0, sense := true, pred := true, subj := subj
  check := { pc := 9, cur := none, loops := .replicate 8 1, reqs := {}, vindex := 1, cursors := .replicate 512 none, retired := 0
             gserial := 0 } }

/-- A vector that places symbol 1 on every pin. -/
def vec : VRec := {
  n := 3, idx := 2, idle := false, isWait := false, tset := 0, start := 81920, period := 81920, nui := 1, syms := .replicate 512 1
  uis := [], reqs := {}, conds := [], retired := 0 }

/-- The state with a register write as the only waiting request. -/
def puts (off n v : Nat) (s : State) : State := { s with hi := { s.hi with
  posted := [{ bar4 := false, off := off, bytes := (leBytes n v).map some }] } }

/-- The state with a `RUN_CTL` write of a `CMD` waiting. -/
def ctl (cmd : Nat) (s : State) : State := puts 0x0010 4 cmd s

/-- The ready device passes every arm check. -/
theorem ready_passes : armFailures (runCtlWrite (ctl 1 ready)) = [] := by decide +kernel

/-- The same state with a power step in progress. -/
def powering : State := { ready with mg := { ready.mg with pwr := some ⟨1, none⟩ } }

/-- Its arm checks pass too. -/
theorem powering_passes : armFailures (runCtlWrite (ctl 1 powering)) = [] := by decide +kernel

/-- A run in progress on the ready device. -/
def inRun : State := { ready with sq := { loaded := true, state := .running, stopped := false, startTick := 81920 } }

/-- A read of host memory that is not used. -/
def noRead : HostRead := {}

/-- A slot that is there is the one taken. -/
theorem slotOf_taken {s : State} (h : (takeSlot s).isSome = true) : takeSlot s = some (slotOf s) := by
  obtain ⟨u, hu⟩ := Option.isSome_iff_exists.mp h
  rw [slotOf, hu, Option.getD_some]

/-- A vector context before a word, from what the word and its slot are. -/
theorem vecReady {op w : Nat} {s : State} (h : atWord s = true ∧ stopDue s = false ∧ (takeSlot s).isSome = true
    ∧ wordAt (slotOf s) (slotOf s).sq.pc = w ∧ opOf w = op ∧ decodeCause false (slotOf s) (slotOf s).sq.pc = none) :
    VecReady op w s (slotOf s) :=
  ⟨h.1, h.2.1, slotOf_taken h.2.2.1, h.2.2.2⟩

/-- A service context before a word, from what the word and its slot are. -/
theorem svcReady {op w : Nat} {p : Proc} {s : State} (h : s.sq.proc = some p ∧ p.block = none ∧ wordAt (svcSlot s) p.pc = w
    ∧ opOf w = op ∧ decodeCause true (svcSlot s) p.pc = none) : SvcReady op w p s (svcSlot s) :=
  ⟨h.1, h.2.1, rfl, h.2.2⟩

end Sys2Proof.Tests

/-! ### Worked examples of the specification -/

namespace Sys2Proof.Tests.Examples

open Sys2Proof Sys2Proof.Machine Sys2Proof.Tests

def waitEx : Nat := 0x181c0004e2000000200024200000000c
def vecEx : Nat := 0x040000080000800092c0000000000000
/-- Word 1 of the example in 08. -/
theorem test_wait_word : (opOf waitEx, fld waitEx 121 115, fld waitEx 114 114, fld waitEx 112 72, fld waitEx 71 31, fld waitEx 17 0)
    = (6, 3, 1, 81920000, 0x40004840, 12) := by decide
/-- Word 4 of the example in 08. -/
theorem test_vec_word : (opOf vecEx, fld vecEx 121 90, fld vecEx 89 49) = (1, 512, 0x40004960) := by decide
def vernier : State := { onEdge with bt := { onEdge.bt with
  trims := .image (mem [(39359, 2, 9679), (39361, 2, 9961), (39443, 3, 416)]) } }
/-- 03, worked example: one edge from offset to tap. -/
theorem test_edge_to_tap : physical vernier 40 1 4998117 = { e := 1, land := 4998117, cycle := 4880, phase := 15, tap := 39 } := by
  decide +kernel
/-- 05, worked example: the clamps of `P200`. -/
theorem test_bank_clamp : clampCode 0xA2E9 0xB45D 0 = 0xA2E9 ∧ clampCode 0xA2E9 0xAE8C 0 = 0xA2E9 ∧ clampCode 0xA2E9 0xA100 0 = 0xA100 := by decide +kernel
def runt : State := { onEdge with cs := { frames := vset (.replicate 16 none) 2 (some { pset := 2, first := 7339968000, wrap := 0, armseq := 1 }) } }
/-- 11, Table 11.13: the edge unit. -/
theorem test_edge_unit : ((placeData 2 [{ pin := 100, key := 7340032000, raw := false, val := 1 }, { pin := 100, key := 7340033600, raw := false, val := 0 }] runt).cs.frames[2].map fun f => f.units) = some [(0x13250000000003E8, 0x0000000000000401)] := by decide +kernel
def failing : VRec := { vec with
  atFm := true, idx := 5000123, tset := 2, start := 40961007616, syms := .replicate 512 0, uis := [(200, [])]
  res := [(40, 0x12), (41, 0x19), (200, 0x88)] }
def three : State := { onEdge with pt := { onEdge.pt with room := mem [(0x2CC60, 1, 1), (0x2DC60, 1, 1), (0xCCC60, 1, 1)] } }
/-- 10, Table 10.5. -/
theorem test_burst_record : recordBytes three failing (vecFails three 0 failing) 17
    = leBytes 8 0x21020000004C4BBB ++ leBytes 8 0x0000000989776000 ++ leBytes 8 0x0000000002000020 ++ leBytes 8 17
      ++ leBytes 8 0x0000000600000302 ++ leBytes 8 0x0000000000010101 ++ zeros 16 ++ zeros 16 ++ leBytes 2 0x0088 ++ zeros 46 := by
  decide +kernel
/-- 10, worked example: the counts gained. -/
theorem test_fails_counted : vecFails three 0 failing = [(41, 1), (200, 2)] := by decide +kernel
def ringAt : State := { onEdge with hi := { onEdge.hi with cplBase := 0x900000, cplSize := 256, cplTail := 1000, cmdHead := 1001 } }
/-- 15, Table 15.14: entry 232, `PHASE` 0. -/
theorem test_completion_entry : memRead 0 (writeCpl { tag := 0x31, status := 0, opcode := 0x0502, hash := none } ringAt).hostMem
    (0x900000 + 32 * 232) 12 = leBytes 8 0x0000050200000031 ++ leBytes 4 1001 := by decide +kernel
/-- 12, Table 12.5: `MEAN`. -/
theorem test_frequency_mean : statsMean { count := 16, sum := 16 * 65536000 } = 0x00000003E8000000 := by decide
def starving : State := { runs 0 with tb := { onEdge.tb with epoch := 573464576 } }
/-- 16, worked example: a starvation record. -/
theorem test_starvation_record :
    let b := eventBytes (eventRec 0x0601 [i1 3, iv 70000, i2 0, i4 3] starving)
    slice b 0 3 = [0x01, 0x06, 0x70] ∧ fieldAt b 16 8 = 70003 * 8192
      ∧ slice b 32 24 = [3] ++ zeros 7 ++ leBytes 8 0x11170 ++ leBytes 2 0 ++ zeros 2 ++ leBytes 4 3 := by
  decide +kernel
/-- 18, worked example: the lands of `P200` and `P201`. -/
theorem test_lands : pinLand 200 = (76, 41) ∧ pinLand 201 = (73, 41) := by decide +kernel
/-- Table 1.4: the slots of the five classes in profiles A and B. -/
theorem test_slot_shares : [SlotClass.pattern, .cellar, .stream, .host, .maint].map (fun c => (slotShare false c, slotShare true c))
    = [(40, 32), (8, 8), (8, 16), (6, 6), (2, 2)] := by decide +kernel

end Sys2Proof.Tests.Examples

/-! ### Ill-formed terms are refused -/

namespace Sys2Proof.Tests.Refused

open Sys2Proof Sys2Proof.Machine

/-- Cells out of order. -/
def unordered : HostRead := { cells := [(5, 1), (4, 1)] }

theorem test_refuses_refclk_count : Instr.wf (.refclkMonitorWindowEnd (2 ^ 32)) = false := by decide
theorem test_refuses_guard_count : Instr.wf (.guardWindowEnd 0 (2 ^ 32) true) = false := by decide
theorem test_refuses_phase : Instr.wf (.phaseAlignDone 3 (-257)) = false := by decide
theorem test_refuses_hostsrc_address : Instr.wf (.hostsrcReadComplete (.desc 0) false {}) = false := by decide
theorem test_refuses_read_status : Instr.wf (.commandStart { fail := some (0, 3) }) = false := by decide
theorem test_refuses_epoch_read : Instr.wf (.tbEpochLoRead { bar4 := true, off := 0xFFFFFF, len := 2 }) = false := by decide
theorem test_refuses_posted_write : Instr.wf (.postedWriteReceive false 0xFFFF [some 0, some 0]) = false := by decide
theorem test_refuses_register_write : Instr.wf (.registerWrite 0x0007 [some 0, some 0]) = false := by decide
theorem test_refuses_run_ctl : Instr.wf (.runCtlInvalidCmd 4) = false := by decide
theorem test_refuses_store_address : Instr.wf (.sequenceStoreScrub 262144 .ok) = false := by decide
theorem test_refuses_sq_load : Instr.wf (.sqLoad 0 unordered {}) = false := by decide
theorem test_refuses_pt_bind : Instr.wf (.ptBind 0 unordered {}) = false := by decide
theorem test_refuses_pt_refresh : Instr.wf (.ptRefresh 0 unordered {}) = false := by decide
theorem test_refuses_room_offset : Instr.wf (.storeRoomScrub 2113536 .ok) = false := by decide
theorem test_refuses_pm_verify : Instr.wf (.pmVerify 0 unordered {}) = false := by decide
theorem test_refuses_attic_fetch : Instr.wf (.atticFetchComplete (.vector (2 ^ 37)) false {}) = false := by decide
theorem test_refuses_hostsrc_read : Instr.wf (.hostsrcReadComplete (.desc (2 ^ 40)) false unordered) = false := by decide
theorem test_refuses_dram_scrub : Instr.wf (.dramScrub (2 ^ 37) .ok) = false := by decide
theorem test_refuses_bar2_write : Instr.wf (.bar2Write (2 ^ 37 - 1) [0, 0] false) = false := by decide
theorem test_refuses_bar2_read : Instr.wf (.bar2Read 0 0 {}) = false := by decide
theorem test_refuses_crossing : Instr.wf (.comparatorCrossing 0 .clo (2 ^ 80) true none) = false := by decide
theorem test_refuses_gate_ready : Instr.wf (.tiuGateReady 0 5 5) = false := by decide
theorem test_refuses_segment_read : Instr.wf (.mxSegmentRead 0 32 .ok) = false := by decide
theorem test_refuses_sine_write : Instr.wf (.sineBlockWrite 0x0FF8 [some 0]) = false := by decide
theorem test_refuses_mx_load : Instr.wf (.mxLoad 0 unordered {}) = false := by decide
theorem test_refuses_training : Instr.wf (.portTrainingDone 0 (.measured 0 8)) = false := by decide
theorem test_refuses_slot : Instr.wf (.hargoControlSlot 0 { bytes := zeros 31 }) = false := by decide
theorem test_refuses_data_slot : Instr.wf (.hargoControlSlot 0 { sync0 := 1, sync1 := 1, bytes := zeros 32 }) = false := by decide
theorem test_refuses_larder_granule : Instr.wf (.mxUpdate (some (0, 60928))) = false := by decide
theorem test_refuses_probe : Instr.wf (.syncProbe (2 ^ 80)) = false := by decide
theorem test_refuses_count_check : Instr.wf (.refclkCountCheck (2 ^ 32)) = false := by decide
theorem test_refuses_join : Instr.wf (.joinMessage 0 64 0 0 0 {}) = false := by decide
theorem test_refuses_formed : Instr.wf (.formedMessage 65) = false := by decide
theorem test_refuses_entry : Instr.wf (.commandFetch (zeros 63)) = false := by decide
theorem test_refuses_start : Instr.wf (.commandStart unordered) = false := by decide
theorem test_refuses_cal_load : Instr.wf (.calLoad 0 unordered true) = false := by decide
theorem test_refuses_cal_check : Instr.wf (.calCheck 0 [0]) = false := by decide

end Sys2Proof.Tests.Refused

/-! ### The hypotheses of the statements are met -/

namespace Sys2Proof.Tests.Time

open Sys2Proof Sys2Proof.Machine Sys2Proof.Tests

def s1 : State := { onEdge with tb := { onEdge.tb with epoch := BitVec.ofNat 64 (2 ^ 64 - 8193) } }
def s2 : State := { State.reset with tb := { goodWins := 1 } }
def acq (p : PllPhase) : State := { onEdge with tb := { onEdge.tb with pll := .replicate 4 p, guardOpen := .replicate 4 false } }
def served : State := { onEdge with tb := { onEdge.tb with epoch := 0xFFFFFFFF12345678, hiLatch := 7 }, hi := { serving := true, linkUp := true } }
def posted : State := { served with hi := { served.hi with posted := [{ bar4 := false, off := 0x24, bytes := [some 0xFF, some 1, some 0, some 0x80] }] } }
def s3 : State := { onEdge with bt := { booting := true, axras := true } }
def s4 : State := { State.reset with bt := { inReset := false, booting := true } }

/-- The hypotheses of `stepRunsFrontCommand` are met, clause by clause. -/
theorem witness_stepRunsFrontCommand :
    (State.reset.pending = [])
    ∧ (s1.pending = [] ∧ s1.tb.fabSrc = FabSrc.edge ∧ BitVec.toNat s1.tb.epoch + 8192 < 2 ^ 64)
    ∧ (State.reset.pending = [] ∧ State.reset.tb.fabSrc ≠ FabSrc.edge) := by
  refine ⟨?_, ?_, ?_⟩ <;> decide +kernel

/-- The hypotheses of `refclkMonitored` are met, clause by clause. -/
theorem witness_refclkMonitored :
    (onEdge.tb.refclkOk = true)
    ∧ ((runs 0).tb.refclkOk = true)
    ∧ (State.reset.tb.refclkOk = false)
    ∧ (let u := toTime ((onEdge.tb.wins + 1) * 128000000000) onEdge; u.tb.refclkOk = true
      ∧ (1561718 < 1561719 ∨ 1563281 < 1561718))
    ∧ (let u := toTime ((onEdge.tb.wins + 1) * 128000000000) onEdge; u.tb.refclkOk = true
      ∧ (1563282 < 1561719 ∨ 1563281 < 1563282))
    ∧ (let u := toTime ((onEdge.tb.wins + 1) * 128000000000) onEdge; 1561719 ≤ 1561719 ∧ 1561719 ≤ 1563281
      ∧ u.tb.refclkOk = true)
    ∧ (let u := toTime ((State.reset.tb.wins + 1) * 128000000000) State.reset; 1561719 ≤ 1563281 ∧ 1563281 ≤ 1563281
      ∧ u.tb.refclkOk = false ∧ u.tb.refMiss = false ∧ u.tb.goodWins = 0)
    ∧ (let u := toTime ((s2.tb.wins + 1) * 128000000000) s2; 1561719 ≤ 1561719 ∧ 1561719 ≤ 1563281 ∧ u.tb.refclkOk = false
      ∧ u.tb.refMiss = false ∧ u.tb.goodWins = 1) := by
  refine ⟨?_, ?_, ?_, ?_, ?_, ?_, ?_, ?_⟩ <;> decide +kernel

/-- The hypotheses of `lockGuardsOpenAndClose` are met, clause by clause. -/
theorem witness_lockGuardsOpenAndClose :
    ((acq PllPhase.acquiring).tb.pll[3] = PllPhase.acquiring)
    ∧ (let u := toTime ((acq PllPhase.window).tb.winFrom[3] + 524288000) (acq PllPhase.window);
        (acq PllPhase.window).tb.pll[3] = PllPhase.window
      ∧ 511898 ≤ 511898 ∧ 511898 ≤ 512102 ∧ u.tb.pll[3] = PllPhase.window ∧ u.tb.lockDet[3] = true)
    ∧ (let u := toTime ((acq PllPhase.window).tb.winFrom[3] + 524288000) (acq PllPhase.window);
        (acq PllPhase.window).tb.pll[3] = PllPhase.window
      ∧ 511898 ≤ 512102 ∧ 512102 ≤ 512102 ∧ u.tb.pll[3] = PllPhase.window ∧ u.tb.lockDet[3] = true)
    ∧ (let u := toTime ((acq PllPhase.window).tb.winFrom[3] + 524288000) (acq PllPhase.window);
        (acq PllPhase.window).tb.pll[3] = PllPhase.window
      ∧ u.tb.pll[3] = PllPhase.window ∧ (true = false ∨ u.tb.lockDet[3] = false ∨ 511897 < 511898 ∨ 512102 < 511897))
    ∧ (let u := toTime ((acq PllPhase.window).tb.winFrom[3] + 524288000) (acq PllPhase.window);
        (acq PllPhase.window).tb.pll[3] = PllPhase.window
      ∧ u.tb.pll[3] = PllPhase.window ∧ (false = false ∨ u.tb.lockDet[3] = false ∨ 512000 < 511898 ∨ 512102 < 512000))
    ∧ ((acq PllPhase.aligning).tb.pll[3] = PllPhase.aligning)
    ∧ (onEdge.tb.pll[3] = PllPhase.running ∧ onEdge.tb.guardOpen[3] = true)
    ∧ ((runs 0).tb.pll[3] = PllPhase.running ∧ (runs 0).tb.guardOpen[3] = true)
    ∧ (let u := toTime (onEdge.tb.winFrom[3] + 524288000) onEdge; onEdge.tb.pll[3] = PllPhase.running
      ∧ (true = false ∨ 511897 < 511898 ∨ 512102 < 511897) ∧ u.tb.pll[3] = PllPhase.running ∧ u.tb.guardOpen[3] = true)
    ∧ (let u := toTime ((runs 0).tb.winFrom[3] + 524288000) (runs 0); (runs 0).tb.pll[3] = PllPhase.running
      ∧ (false = false ∨ 512000 < 511898 ∨ 512102 < 512000) ∧ u.tb.pll[3] = PllPhase.running ∧ u.tb.guardOpen[3] = true)
    ∧ ((acq PllPhase.window).tb.pll[0] = PllPhase.window) := by
  refine ⟨?_, ?_, ?_, ?_, ?_, ?_, ?_, ?_, ?_, ?_, ?_⟩ <;> decide +kernel

/-- The hypotheses of `fabSourceAndEpoch` are met, clause by clause. -/
theorem witness_fabSourceAndEpoch :
    (onEdge.tb.fabSrc = FabSrc.edge ∧ onEdge.cs.open_ = false)
    ∧ (served.hi.serving = true ∧ served.hi.linkUp = true
      ∧ (∀ w ∈ served.hi.posted, overlaps false 264 (if true = true then 8 else 4) w = false))
    ∧ (served.hi.serving = true ∧ served.hi.linkUp = true
      ∧ (∀ w ∈ served.hi.posted, overlaps false 264 (if false = true then 8 else 4) w = false))
    ∧ (served.hi.serving = true ∧ served.hi.linkUp = true ∧ (∀ w ∈ served.hi.posted, overlaps false 268 4 w = false))
    ∧ (served.hi.serving = true ∧ served.hi.linkUp = true ∧ 1 ≤ 4 ∧ 62 + 4 ≤ 65536 ∧ 62 / 64 ≠ (62 + 4 - 1) / 64)
    ∧ (served.hi.serving = true ∧ served.hi.linkUp = true ∧ 1 ≤ 2 ∧ 65471 + 2 ≤ 65536 ∧ 65471 / 64 ≠ (65471 + 2 - 1) / 64)
    ∧ (posted.hi.serving = true ∧ posted.hi.linkUp = true ∧ [255, 1, 0, 128].length = 4
      ∧ posted.hi.posted = [{ bar4 := false, off := 36, bytes := List.map some [255, 1, 0, 128] }]) := by
  refine ⟨?_, ?_, ?_, ?_, ?_, ?_, ?_⟩ <;> decide +kernel

/-- The hypotheses of `resetsBootAndFlr` are met, clause by clause. -/
theorem witness_resetsBootAndFlr :
    (State.reset.bt.inReset = true)
    ∧ (s3.bt.booting = true ∧ s3.bt.axras = true)
    ∧ (s4.bt.booting = true ∧ s4.hi.serving = false ∧ s4.bt.axras = false ∧ s4.bt.recovery = false) := by
  refine ⟨?_, ?_, ?_⟩ <;> decide +kernel

end Sys2Proof.Tests.Time

namespace Sys2Proof.Tests.Control

open Sys2Proof Sys2Proof.Machine Sys2Proof.Tests

def pw (n : Nat) : Exec := exe 0x0F01 [(0, 1, n)]
def inP (n : Nat) (p : Option Pwr) : State := { onEdge with mg := { pstate := n, pwr := p } }
def recov : State := let s := inP 3 none; { s with bt := { s.bt with recovery := true } }
def s1 : State := inP 3 (some ⟨2, none⟩)
def x2 : Pwr := ⟨2, none⟩
def s3 : State := inP 4 (some ⟨1, none⟩)
def x4 : Pwr := ⟨1, none⟩
def s5 : State := inP 3 (some ⟨1, none⟩)
def s6 : State := asks (pw 2) (inP 3 (some ⟨2, some 7⟩))
def x7 : Pwr := ⟨2, some 7⟩
def s8 : State := { inP 2 (some ⟨1, none⟩) with tb := {} }
def s9 : State := inP 2 (some ⟨1, none⟩)
def s10 : State := asks (pw 1) (inP 2 (some ⟨1, some 7⟩))
def x11 : Pwr := ⟨1, some 7⟩
def s12 : State := inP 1 (some ⟨2, none⟩)
def s13 : State := inP 1 (some ⟨4, none⟩)
def x14 : Pwr := ⟨4, none⟩
def s15 : State := inP 3 (some ⟨4, none⟩)
def s16 : State := inP 2 (some ⟨3, none⟩)
def x17 : Pwr := ⟨3, none⟩
def s18 : State := inP 2 (some ⟨4, none⟩)
def s19 : State := { inP 2 (some ⟨1, none⟩) with tb := { refclkOk := true } }
def s20 : State := { inP 1 none with tb := { refclkOk := true, pll := .replicate 4 .acquiring } }
def ens (lead : Bool) (s : State) : State := { s with en := { state := .formed, leader := lead, members := 2, member := if lead then 0 else 1, ports := .replicate 4 { up := true } } }
def s21 : State := ctl 1 { onEdge with mg := { pstate := 1, contained := true } }
def inS (st : RunState) : State := { onEdge with sq := { state := st } }
def pend (a : Bool) : State := let s := runs 0; { s with sq := { s.sq with pendHalt := !a, pendAbort := a } }

/-- The hypotheses of `powerStepsAndAcquisition` are met, clause by clause. -/
theorem witness_powerStepsAndAcquisition :
    (executing 3841 7 (asks (pw 1) onEdge) = some (pw 1) ∧ payF (pw 1) 0 1 = 1 ∧ payZero (pw 1) 1 47 = true
      ∧ (asks (pw 1) onEdge).bt.recovery = false ∧ (asks (pw 1) onEdge).mg.pwr = none ∧ 1 ≤ 1 ∧ 1 ≤ 4
      ∧ running (asks (pw 1) onEdge) = false ∧ (formed (asks (pw 1) onEdge) = true → 1 = 1)
      ∧ (1 = 1 → p1Blocked (asks (pw 1) onEdge) = false) ∧ (asks (pw 1) onEdge).mg.pstate = 1)
    ∧ (executing 3841 7 (asks (pw 4) onEdge) = some (pw 4) ∧ payF (pw 4) 0 1 = 4 ∧ payZero (pw 4) 1 47 = true
      ∧ (asks (pw 4) onEdge).bt.recovery = false ∧ (asks (pw 4) onEdge).mg.pwr = none ∧ 1 ≤ 4 ∧ 4 ≤ 4
      ∧ running (asks (pw 4) onEdge) = false ∧ (formed (asks (pw 4) onEdge) = true → 4 = 1)
      ∧ (4 = 1 → p1Blocked (asks (pw 4) onEdge) = false) ∧ (asks (pw 4) onEdge).mg.pstate < 4)
    ∧ (executing 3841 7 (asks (pw 1) (inP 4 none)) = some (pw 1) ∧ payF (pw 1) 0 1 = 1 ∧ payZero (pw 1) 1 47 = true
      ∧ (asks (pw 1) (inP 4 none)).bt.recovery = false ∧ (asks (pw 1) (inP 4 none)).mg.pwr = none ∧ 1 ≤ 1 ∧ 1 ≤ 4
      ∧ running (asks (pw 1) (inP 4 none)) = false ∧ (formed (asks (pw 1) (inP 4 none)) = true → 1 = 1)
      ∧ (1 = 1 → p1Blocked (asks (pw 1) (inP 4 none)) = false) ∧ 1 < (asks (pw 1) (inP 4 none)).mg.pstate)
    ∧ (executing 3841 7 (asks (pw 1) (inP 2 none)) = some (pw 1) ∧ payF (pw 1) 0 1 = 1 ∧ payZero (pw 1) 1 47 = true
      ∧ (asks (pw 1) (inP 2 none)).bt.recovery = false ∧ (asks (pw 1) (inP 2 none)).mg.pwr = none ∧ 1 ≤ 1 ∧ 1 ≤ 4
      ∧ running (asks (pw 1) (inP 2 none)) = false ∧ (formed (asks (pw 1) (inP 2 none)) = true → 1 = 1)
      ∧ (1 = 1 → p1Blocked (asks (pw 1) (inP 2 none)) = false) ∧ 1 < (asks (pw 1) (inP 2 none)).mg.pstate)
    ∧ (executing 3841 7 (asks (pw 2) recov) = some (pw 2) ∧ payZero (pw 2) 1 47 = true ∧ 1 ≤ payF (pw 2) 0 1
      ∧ payF (pw 2) 0 1 ≤ 4 ∧ (asks (pw 2) recov).bt.recovery = true ∧ (asks (pw 2) recov).mg.pwr = none
      ∧ running (asks (pw 2) recov) = false)
    ∧ (s1.mg.pwr = some x2 ∧ x2.target < s1.mg.pstate ∧ s1.mg.pstate = 3)
    ∧ (s3.mg.pwr = some x4 ∧ x4.target < s3.mg.pstate ∧ s3.mg.pstate = 4)
    ∧ (s5.mg.pwr = some x4 ∧ x4.target < s5.mg.pstate ∧ s5.mg.pstate = 3 ∧ x4.tag = none)
    ∧ (s6.mg.pwr = some x7 ∧ x7.target < s6.mg.pstate ∧ s6.mg.pstate = 3 ∧ x7.tag = some 7 ∧ executing 3841 7 s6 = some (pw 2))
    ∧ (s8.mg.pwr = some x4 ∧ x4.target < s8.mg.pstate ∧ s8.mg.pstate = 2
      ∧ (guardsOpen s8 && s8.tb.fabSrc == FabSrc.edge) = false)
    ∧ (s9.mg.pwr = some x4 ∧ x4.target < s9.mg.pstate ∧ s9.mg.pstate = 2 ∧ guardsOpen s9 = true ∧ s9.tb.fabSrc = FabSrc.edge
      ∧ x4.target = 1 ∧ x4.tag = none)
    ∧ (s10.mg.pwr = some x11 ∧ x11.target < s10.mg.pstate ∧ s10.mg.pstate = 2 ∧ guardsOpen s10 = true
      ∧ s10.tb.fabSrc = FabSrc.edge ∧ x11.target = 1 ∧ x11.tag = some 7 ∧ executing 3841 7 s10 = some (pw 1))
    ∧ (s12.mg.pwr = some x2 ∧ s12.mg.pstate = 1 ∧ 1 < x2.target)
    ∧ (s13.mg.pwr = some x14 ∧ s13.mg.pstate = 1 ∧ 1 < x14.target)
    ∧ (s15.mg.pwr = some x14 ∧ s15.mg.pstate = 3 ∧ x14.target = 4 ∧ x14.tag = none)
    ∧ (s16.mg.pwr = some x17 ∧ s16.mg.pstate = 2 ∧ 2 < x17.target)
    ∧ (s18.mg.pwr = some x14 ∧ s18.mg.pstate = 2 ∧ 2 < x14.target)
    ∧ (raising s19 = true ∧ (∃ q, guardOpened s19 q = false))
    ∧ (raising s20 = false ∧ (∃ q, guardOpened s20 q = false ∧ s20.tb.pll[q] ≠ PllPhase.off)) := by
  refine ⟨?_, ?_, ?_, ?_, ?_, ?_, ?_, ?_, ?_, ?_, ?_, ?_, ?_, ?_, ?_, ?_, ?_, ?_, ?_⟩ <;> decide +kernel

/-- The hypotheses of `runControlByState` are met, clause by clause. -/
theorem witness_runControlByState :
    (let u := runCtlWrite (ctl 1 (ens false onEdge)); formed u = true ∧ u.en.leader = false
      ∧ cmdWritten 1 (ctl 1 (ens false onEdge)) = true)
    ∧ (let u := runCtlWrite (ctl 2 (ens false onEdge)); formed u = true ∧ u.en.leader = false
      ∧ cmdWritten 2 (ctl 2 (ens false onEdge)) = true)
    ∧ (let u := runCtlWrite (ctl 1 (runs 0)); cmdWritten 1 (ctl 1 (runs 0)) = true ∧ formed u = false ∧ running u = true)
    ∧ (let u := runCtlWrite s21; cmdWritten 1 s21 = true ∧ formed u = false ∧ running u = false ∧ u.en.armWait = false
      ∧ u.mg.contained = true)
    ∧ (let u := runCtlWrite (ctl 2 onEdge); cmdWritten 2 (ctl 2 onEdge) = true ∧ formed u = false ∧ u.sq.state ≠ RunState.arming
      ∧ u.sq.state ≠ RunState.armed)
    ∧ (let u := runCtlWrite (ctl 2 (runs 0)); cmdWritten 2 (ctl 2 (runs 0)) = true ∧ formed u = false
      ∧ u.sq.state ≠ RunState.arming ∧ u.sq.state ≠ RunState.armed)
    ∧ (((0#4).toNat = 0 ∨ 5 ≤ (0#4).toNat) ∧ cmdWritten (0#4).toNat (ctl 0 onEdge) = true)
    ∧ (((5#4).toNat = 0 ∨ 5 ≤ (5#4).toNat) ∧ cmdWritten (5#4).toNat (ctl 5 onEdge) = true)
    ∧ (let u := runCtlWrite (ctl 2 (inS RunState.armed)); formed u = false ∧ u.sq.state = RunState.armed ∧ u.en.goAt = none
      ∧ cmdWritten 2 (ctl 2 (inS RunState.armed)) = true)
    ∧ (let u := runCtlWrite (ctl 2 (inS RunState.arming)); formed u = false ∧ u.sq.state = RunState.arming
      ∧ cmdWritten 2 (ctl 2 (inS RunState.arming)) = true)
    ∧ (let u := runCtlWrite (ctl 3 (inS RunState.draining)); formed u = false ∧ u.sq.state = RunState.draining
      ∧ cmdWritten 3 (ctl 3 (inS RunState.draining)) = true)
    ∧ (let u := runCtlWrite (ctl 3 (inS RunState.idle)); formed u = false ∧ u.sq.state = RunState.idle
      ∧ cmdWritten 3 (ctl 3 (inS RunState.idle)) = true)
    ∧ (let u := runCtlWrite (ctl 4 (inS RunState.idle)); formed u = false ∧ u.sq.state = RunState.idle
      ∧ cmdWritten 4 (ctl 4 (inS RunState.idle)) = true)
    ∧ (let u := runCtlWrite (ctl 3 (inS RunState.arming)); formed u = false
      ∧ (u.sq.state = RunState.arming ∨ u.sq.state = RunState.armed) ∧ u.sq.pendHalt = false ∧ u.sq.pendAbort = false
      ∧ cmdWritten 3 (ctl 3 (inS RunState.arming)) = true)
    ∧ (let u := runCtlWrite (ctl 4 (inS RunState.armed)); formed u = false
      ∧ (u.sq.state = RunState.arming ∨ u.sq.state = RunState.armed) ∧ u.sq.pendHalt = false ∧ u.sq.pendAbort = false
      ∧ cmdWritten 4 (ctl 4 (inS RunState.armed)) = true)
    ∧ (let u := runCtlWrite (ctl 3 (runs 0)); formed u = false ∧ u.sq.state = RunState.running
      ∧ cmdWritten 3 (ctl 3 (runs 0)) = true ∧ u.sq.pendAbort = false ∧ u.sq.pendHalt = false)
    ∧ (let u := runCtlWrite (ctl 3 (pend false)); formed u = false ∧ u.sq.state = RunState.running
      ∧ cmdWritten 3 (ctl 3 (pend false)) = true ∧ (u.sq.pendAbort || u.sq.pendHalt) = true)
    ∧ (let u := runCtlWrite (ctl 4 (runs 0)); formed u = false ∧ u.sq.state = RunState.running
      ∧ cmdWritten 4 (ctl 4 (runs 0)) = true ∧ u.sq.pendAbort = false)
    ∧ (let u := runCtlWrite (ctl 4 (pend false)); formed u = false ∧ u.sq.state = RunState.running
      ∧ cmdWritten 4 (ctl 4 (pend false)) = true ∧ u.sq.pendAbort = false)
    ∧ (let u := runCtlWrite (ctl 4 (pend true)); formed u = false ∧ u.sq.state = RunState.running
      ∧ cmdWritten 4 (ctl 4 (pend true)) = true ∧ u.sq.pendAbort = true)
    ∧ (let u := runCtlWrite (ctl 4 (inS RunState.draining)); formed u = false ∧ u.sq.state = RunState.draining
      ∧ u.sq.pendAbort = false ∧ cmdWritten 4 (ctl 4 (inS RunState.draining)) = true) := by
  refine ⟨?_, ?_, ?_, ?_, ?_, ?_, ?_, ?_, ?_, ?_, ?_, ?_, ?_, ?_, ?_, ?_, ?_, ?_, ?_, ?_, ?_⟩ <;> decide +kernel

/-- The hypotheses of `armClearsTheRun` are met, clause by clause. -/
theorem witness_armClearsTheRun :
    (let u := runCtlWrite (ctl 1 onEdge); u.en.state = EnState.standalone ∧ u.sq.state = RunState.idle
      ∧ u.mg.contained = false ∧ u.en.armWait = false ∧ cmdWritten 1 (ctl 1 onEdge) = true ∧ armFailures u ≠ [])
    ∧ (let u := runCtlWrite (ctl 1 ready); u.en.state = EnState.standalone ∧ u.sq.state = RunState.idle ∧ u.mg.contained = false
      ∧ u.en.armWait = false ∧ cmdWritten 1 (ctl 1 ready) = true ∧ armFailures u = [] ∧ idleOnlyBusy u = false
      ∧ u.mg.pwr = none)
    ∧ (let u := runCtlWrite (ctl 1 powering); u.en.state = EnState.standalone ∧ u.sq.state = RunState.idle
      ∧ u.mg.contained = false ∧ u.en.armWait = false ∧ cmdWritten 1 (ctl 1 powering) = true ∧ armFailures u = []
      ∧ armHeldOff u = true) := by
  refine ⟨?_, ⟨?_, ?_, ?_, ?_, ?_, ready_passes, ?_, ?_⟩, ⟨?_, ?_, ?_, ?_, ?_, powering_passes, ?_⟩⟩
  all_goals decide +kernel

end Sys2Proof.Tests.Control

namespace Sys2Proof.Tests.Words

open Sys2Proof Sys2Proof.Machine Sys2Proof.Tests

def rn (w : Nat) (f : SQ → SQ) : State := let s := runs w; { s with sq := f s.sq }
def s1 : State := rn 0 fun q => { q with pendHalt := true }
def s2 : State := rn 0 fun q => { q with pendHalt := true, pendAt := 81920, cur := some { kind := .vec, word := 4, addr := 0, left := 2000, done := 1023 } }
def inS (st : RunState) : State := { onEdge with sq := { state := st } }
def s3 : State := { onEdge with sq := { state := .arming, goHeld := true } }
def s4 : State := { onEdge with sq := { state := .draining, stopCause := 1, stopCode := 0x55 } }
def s5 : State := { onEdge with sq := { state := .draining, stopCause := 3, stopCode := 0x55 } }
def wVec (op : Nat) : Nat := word op [(49, 64), (90, 2 ^ 32 - 1)]
def wDesc (op : Nat) : Nat := word op [(49, 64), (90, 1), (48, 1), (19, 3)]
def wLoop : Nat := word 3 [(87, 7), (90, 2 ^ 32 - 1)]
def wEndl : Nat := word 4 [(87, 7), (0, 3)]
def lpc (n : Nat) : State := rn wEndl fun q => { q with loops := vset q.loops 7 n }
def sub0 : Subj := { n := 3, idx := 2, start := 8192, period := 81920 }
def wBr (pred : Nat) : Nat := word 5 [(115, 0x40), (113, pred), (0, 9)]
def wBrc (pred : Nat) : Nat := word 5 [(115, 0), (114, 1), (113, pred), (0, 9)]
def brs (w : Nat) : State := rn w fun q => { q with conds := [{}], lastIdx := some sub0 }
def wWait (p t : Nat) : Nat := word 6 [(115, 0), (113, p), (72, t), (36, 2), (0, 9)]
def wLtk : Nat := word 7 []
def wMark : Nat := word 8 [(0, 0xFFFF)]
def wSite : Nat := word 0xB [(0, 2 ^ 63 + 1)]
def wTg (a : Nat) : Nat := word 9 [(120, a), (0, 2 ^ 63)]
def wMxj : Nat := word 0xA [(121, 1), (16, 1023), (0, 0x8001)]
def wEvt : Nat := word 0xC [(120, 2), (12, 255), (0, 9)]
def s6 : State := rn (wTg 1) fun q => { q with reqs := { tclose := BitVec.ofNat 64 (2 ^ 63) } }
def opening : State := rn (wTg 2) fun q => { q with reqs := { topen := BitVec.ofNat 64 (2 ^ 63) } }
def s7 : State := rn wMxj fun q => { q with reqs := { mxj := [(15, 0, false)] } }
def s8 : State := rn wEvt fun q => { q with reqs := { evt := [(3, 0, 0)] } }
def wSvc (b : Nat) : Nat := word 0xD [(121, b), (0, 7)]
def s9 : State := rn (wSvc 1) fun q => { q with svcQueue := .replicate 15 0 }
def s10 : State := rn (wSvc 1) fun q => { q with svcQueue := .replicate 16 0 }
def s11 : State := rn (wSvc 0) fun q => { q with svcQueue := .replicate 16 0 }
def chk0 : Check := { pc := 9, cur := none, loops := .replicate 8 1, reqs := {}, vindex := 1, cursors := .replicate 512 none, retired := 0, gserial := 0 }
def cond0 : Cond := { cid := 3, word := 2, entry := 0, sense := true, pred := true, subj := sub0, check := chk0 }
def spec (s : State) : State := { s with sp := { open_ := [cond0], nextCid := 4 } }
def wHalt : Nat := word 0xE [(0, 0xFFFF)]
def s12 : State := rn wHalt fun q => { q with reqs := { ltk := true } }
def noDec : State := rn (wVec 1) fun q => { q with decAt := 0, decoded := 0, startTick := 0 }
def seen0 : State := rn wLtk fun q => { q with poison := [5], early := [(5, 0)] }

/-- The hypotheses of `stopFillAndRunEnd` are met, clause by clause. -/
theorem witness_stopFillAndRunEnd :
    (let u := toEpoch s1.sq.pendAt s1; (s1.sq.pendHalt || s1.sq.pendAbort) = true ∧ u.sq.state = RunState.running
      ∧ stopDue u = true ∧ atBoundary u = true)
    ∧ (let u := toEpoch s2.sq.pendAt s2; (s2.sq.pendHalt || s2.sq.pendAbort) = true ∧ u.sq.state = RunState.running
      ∧ stopDue u = true ∧ atBoundary u = true)
    ∧ ((inS RunState.arming).sq.state = RunState.arming ∧ formed (inS RunState.arming) = false
      ∧ filled (inS RunState.arming) = true ∧ (inS RunState.arming).sq.goHeld = false)
    ∧ (s3.sq.state = RunState.arming ∧ formed s3 = false ∧ filled s3 = true ∧ s3.sq.goHeld = true)
    ∧ (runOver s4 = true ∧ formed s4 = false)
    ∧ (runOver s5 = true ∧ formed s5 = false) := by
  refine ⟨?_, ?_, ?_, ?_, ?_, ?_⟩ <;> decide +kernel

/-- The hypotheses of `vectorRunWords` are met, clause by clause. -/
theorem witness_vectorRunWords :
    (VecReady 1 (wVec 1) (runs (wVec 1)) (slotOf (runs (wVec 1))))
    ∧ (VecReady 2 (wVec 2) (runs (wVec 2)) (slotOf (runs (wVec 2))))
    ∧ (VecReady 2 (wDesc 2) (runs (wDesc 2)) (slotOf (runs (wDesc 2))))
    ∧ (fld wLoop 89 87 = ↑7 ∧ VecReady 3 wLoop (runs wLoop) (slotOf (runs wLoop)))
    ∧ (fld wEndl 89 87 = ↑7 ∧ VecReady 4 wEndl (lpc 2) (slotOf (lpc 2)) ∧ 1 < (slotOf (lpc 2)).sq.loops[7])
    ∧ (fld wEndl 89 87 = ↑7 ∧ VecReady 4 wEndl (lpc 1) (slotOf (lpc 1)) ∧ (slotOf (lpc 1)).sq.loops[7] = 1)
    ∧ (fld wEndl 89 87 = ↑7 ∧ VecReady 4 wEndl (lpc 0) (slotOf (lpc 0)) ∧ (slotOf (lpc 0)).sq.loops[7] = 0) := by
  refine ⟨vecReady (by decide +kernel), vecReady (by decide +kernel), vecReady (by decide +kernel), ⟨?_,
    vecReady (by decide +kernel)⟩, ⟨?_, vecReady (by decide +kernel), ?_⟩, ⟨?_, vecReady (by decide +kernel), ?_⟩, ⟨?_,
    vecReady (by decide +kernel), ?_⟩⟩
  all_goals decide +kernel

/-- The hypotheses of `branchAndWaitWords` are met, clause by clause. -/
theorem witness_branchAndWaitWords :
    (VecReady 5 (wBr 0) (runs (wBr 0)) (slotOf (runs (wBr 0))) ∧ fld (wBr 0) 121 115 = 64)
    ∧ (VecReady 5 (wBrc 1) (brs (wBrc 1)) (slotOf (brs (wBrc 1))) ∧ fld (wBrc 1) 121 115 ≠ 64
      ∧ (slotOf (brs (wBrc 1))).sq.lastIdx = some sub0)
    ∧ (VecReady 5 (wBrc 0) (brs (wBrc 0)) (slotOf (brs (wBrc 0))) ∧ fld (wBrc 0) 121 115 ≠ 64
      ∧ (slotOf (brs (wBrc 0))).sq.lastIdx = some sub0)
    ∧ (VecReady 6 (wWait 1 1) (brs (wWait 1 1)) (slotOf (brs (wWait 1 1))) ∧ (wWait 1 1).testBit 113 = true)
    ∧ (VecReady 6 (wWait 0 (2 ^ 40)) (brs (wWait 0 (2 ^ 40))) (slotOf (brs (wWait 0 (2 ^ 40))))
      ∧ (wWait 0 (2 ^ 40)).testBit 113 = false) := by
  refine ⟨⟨vecReady (by decide +kernel), ?_⟩, ⟨vecReady (by decide +kernel), ?_, ?_⟩, ⟨vecReady (by decide +kernel), ?_,
    ?_⟩, ⟨vecReady (by decide +kernel), ?_⟩, ⟨vecReady (by decide +kernel), ?_⟩⟩
  all_goals decide +kernel

/-- The hypotheses of `modifierWordsAttach` are met, clause by clause. -/
theorem witness_modifierWordsAttach :
    (VecReady 7 wLtk (runs wLtk) (slotOf (runs wLtk)))
    ∧ (VecReady 8 wMark (runs wMark) (slotOf (runs wMark)))
    ∧ (VecReady 11 wSite (runs wSite) (slotOf (runs wSite)))
    ∧ (let r := (slotOf (runs (wTg 1))).sq.reqs; let m := BitVec.ofNat 64 (fld (wTg 1) 63 0);
        VecReady 9 (wTg 1) (runs (wTg 1)) (slotOf (runs (wTg 1)))
      ∧ fld (wTg 1) 121 120 = 1 ∧ r.tclose &&& m = 0)
    ∧ (let r := (slotOf (runs (wTg 2))).sq.reqs; let m := BitVec.ofNat 64 (fld (wTg 2) 63 0);
        VecReady 9 (wTg 2) (runs (wTg 2)) (slotOf (runs (wTg 2)))
      ∧ fld (wTg 2) 121 120 = 2 ∧ r.topen &&& m = 0)
    ∧ (let r := (slotOf s6).sq.reqs; let m := BitVec.ofNat 64 (fld (wTg 1) 63 0); VecReady 9 (wTg 1) s6 (slotOf s6)
      ∧ fld (wTg 1) 121 120 = 1 ∧ r.tclose &&& m ≠ 0)
    ∧ (let r := (slotOf opening).sq.reqs; let m := BitVec.ofNat 64 (fld (wTg 2) 63 0); VecReady 9 (wTg 2) opening (slotOf opening)
      ∧ fld (wTg 2) 121 120 = 2 ∧ r.topen &&& m ≠ 0)
    ∧ (let r := (slotOf (runs wMxj)).sq.reqs;
        let chans := (List.map (fun c => (c, fld wMxj 25 16, wMxj.testBit 121)) (maskBits 16 (fld wMxj 15 0)));
        VecReady 10 wMxj (runs wMxj) (slotOf (runs wMxj))
      ∧ (∀ x ∈ r.mxj, ∀ y ∈ chans, y.1 ≠ x.1))
    ∧ (let r := (slotOf s7).sq.reqs;
        let chans := (List.map (fun c => (c, fld wMxj 25 16, wMxj.testBit 121)) (maskBits 16 (fld wMxj 15 0)));
        VecReady 10 wMxj s7 (slotOf s7)
      ∧ (∃ x ∈ r.mxj, ∃ y ∈ chans, y.1 = x.1))
    ∧ (let r := (slotOf (runs wEvt)).sq.reqs;
        let lines := (List.map (fun c => (c, fld wEvt 121 120, fld wEvt 19 12)) (maskBits 4 (fld wEvt 3 0)));
        VecReady 12 wEvt (runs wEvt) (slotOf (runs wEvt))
      ∧ (∀ x ∈ r.evt, ∀ y ∈ lines, y.1 ≠ x.1))
    ∧ (let r := (slotOf s8).sq.reqs;
        let lines := (List.map (fun c => (c, fld wEvt 121 120, fld wEvt 19 12)) (maskBits 4 (fld wEvt 3 0)));
        VecReady 12 wEvt s8 (slotOf s8)
      ∧ (∃ x ∈ r.evt, ∃ y ∈ lines, y.1 = x.1)) := by
  refine ⟨vecReady (by decide +kernel), vecReady (by decide +kernel), vecReady (by decide +kernel),
    ⟨vecReady (by decide +kernel), ?_, ?_⟩, ⟨vecReady (by decide +kernel), ?_, ?_⟩, ⟨vecReady (by decide +kernel), ?_,
    ?_⟩, ⟨vecReady (by decide +kernel), ?_, ?_⟩, ⟨vecReady (by decide +kernel), ?_⟩, ⟨vecReady (by decide +kernel),
    ?_⟩, ⟨vecReady (by decide +kernel), ?_⟩, ⟨vecReady (by decide +kernel), ?_⟩⟩
  all_goals decide +kernel

/-- The hypotheses of `postHaltAndFaults` are met, clause by clause. -/
theorem witness_postHaltAndFaults :
    (VecReady 13 (wSvc 1) s9 (slotOf s9) ∧ olderConds (slotOf s9) = [] ∧ (slotOf s9).sq.svcQueue.length < 16)
    ∧ (VecReady 13 (wSvc 1) s10 (slotOf s10) ∧ olderConds (slotOf s10) = [] ∧ 16 ≤ (slotOf s10).sq.svcQueue.length
      ∧ (wSvc 1).testBit 121 = true)
    ∧ (VecReady 13 (wSvc 0) s11 (slotOf s11) ∧ olderConds (slotOf s11) = [] ∧ 16 ≤ (slotOf s11).sq.svcQueue.length
      ∧ (wSvc 0).testBit 121 = false)
    ∧ (VecReady 13 (wSvc 1) (spec (runs (wSvc 1))) (slotOf (spec (runs (wSvc 1))))
      ∧ olderConds (slotOf (spec (runs (wSvc 1)))) ≠ [])
    ∧ (VecReady 14 wHalt (runs wHalt) (slotOf (runs wHalt)) ∧ (slotOf (runs wHalt)).sq.reqs = { }
      ∧ olderConds (slotOf (runs wHalt)) = [])
    ∧ (VecReady 14 wHalt (spec (runs wHalt)) (slotOf (spec (runs wHalt))) ∧ (slotOf (spec (runs wHalt))).sq.reqs = { }
      ∧ olderConds (slotOf (spec (runs wHalt))) ≠ [])
    ∧ (VecReady 14 wHalt s12 (slotOf s12) ∧ (slotOf s12).sq.reqs ≠ { })
    ∧ (decodes (runs 0) = true ∧ (runs 0).sq.decoded ≤ 64 ∧ (runs 0).sq.decAt ≤ ext (runs 0) / 8192)
    ∧ (takeSlot (runs 0) = some (slotOf (runs 0)))
    ∧ (Instr.wait Ecc.ok ∈ vecCommands Ecc.ok ∧ atWord (runs 0) = true ∧ stopDue (runs 0) = false
      ∧ takeSlot (runs 0) = some (slotOf (runs 0)) ∧ (runs 0).sq.pc < 2 ^ 18
      ∧ decodeCause false (slotOf (runs 0)) (slotOf (runs 0)).sq.pc = some 1)
    ∧ (Instr.evt Ecc.ok ∈ vecCommands Ecc.ok ∧ atWord (runs (word 32 [])) = true ∧ stopDue (runs (word 32 [])) = false
      ∧ takeSlot (runs (word 32 [])) = some (slotOf (runs (word 32 []))) ∧ (runs (word 32 [])).sq.pc < 2 ^ 18
      ∧ decodeCause false (slotOf (runs (word 32 []))) (slotOf (runs (word 32 []))).sq.pc = some 3)
    ∧ (Instr.haltWord Ecc.uncorrectable ∈ vecCommands Ecc.uncorrectable ∧ atWord (runs wHalt) = true
      ∧ stopDue (runs wHalt) = false ∧ takeSlot (runs wHalt) = some (slotOf (runs wHalt))
      ∧ underLoad (runs wHalt) (runs wHalt).sq.pc = false ∧ (∀ x ∈ (runs wHalt).sq.early, x.1 ≠ (runs wHalt).sq.pc))
    ∧ (Instr.vec Ecc.ok ∈ vecCommands Ecc.ok ∧ atWord s1 = true ∧ stopDue s1 = true)
    ∧ (Instr.vec Ecc.ok ∈ vecCommands Ecc.ok ∧ (atWord onEdge = false ∨ stopDue onEdge = false ∧ takeSlot onEdge = none))
    ∧ (Instr.vec Ecc.ok ∈ vecCommands Ecc.ok ∧ (atWord noDec = false ∨ stopDue noDec = false ∧ takeSlot noDec = none))
    ∧ (VecReady 1 (wVec 1) (runs (wVec 1)) (slotOf (runs (wVec 1))) ∧ (vecCommands Ecc.ok)[1]? = some (Instr.rpt Ecc.ok)
      ∧ 1 ≠ 1 + 1)
    ∧ (VecReady 14 wHalt (runs wHalt) (slotOf (runs wHalt)) ∧ (vecCommands Ecc.ok)[0]? = some (Instr.vec Ecc.ok) ∧ 14 ≠ 0 + 1)
    ∧ (takeSlot seen0 = some (slotOf seen0)
      ∧ (List.find? (fun x => x.1 == (slotOf seen0).sq.pc) (slotOf seen0).sq.early = some ((slotOf seen0).sq.pc, 0))
      ∧ decodeCause false ({ (slotOf seen0) with sq := { (slotOf seen0).sq with  } } : State) (slotOf seen0).sq.pc = none
      ∧ atWord seen0 = true ∧ stopDue seen0 = false ∧ opOf (wordAt (slotOf seen0) (slotOf seen0).sq.pc) = 7) := by
  refine ⟨⟨vecReady (by decide +kernel), ?_, ?_⟩, ⟨vecReady (by decide +kernel), ?_, ?_, ?_⟩,
    ⟨vecReady (by decide +kernel), ?_, ?_, ?_⟩, ⟨vecReady (by decide +kernel), ?_⟩, ⟨vecReady (by decide +kernel), ?_,
    ?_⟩, ⟨vecReady (by decide +kernel), ?_, ?_⟩, ⟨vecReady (by decide +kernel), ?_⟩, ?_,
    slotOf_taken (by decide +kernel), ⟨?_, ?_, ?_, slotOf_taken (by decide +kernel), ?_, ?_⟩, ⟨?_, ?_, ?_,
    slotOf_taken (by decide +kernel), ?_, ?_⟩, ⟨?_, ?_, ?_, slotOf_taken (by decide +kernel), ?_, ?_⟩, ?_, ?_, ?_,
    ⟨vecReady (by decide +kernel), ?_, ?_⟩, ⟨vecReady (by decide +kernel), ?_, ?_⟩, ⟨slotOf_taken (by decide +kernel),
    ?_, ?_, ?_, ?_, ?_⟩⟩
  all_goals decide +kernel

end Sys2Proof.Tests.Words

namespace Sys2Proof.Tests.Edges

open Sys2Proof Sys2Proof.Machine Sys2Proof.Tests

def act1 (w : Nat) : Act := { due := 81920, n := 1, idx := 1, conds := [], reqs := { evt := [(3, w, 255)] } }
def acting (a : Act) : State := { inRun with sq := { inRun.sq with acts := [a] } }
def s1 : State := { inRun with sq := { inRun.sq with pulse := vset inRun.sq.pulse 3 (some (81920, true)) } }
def evtHigh : State := { inRun with ti := { evtIn := .replicate 4 true } }
def region1 (s : State) : State := { s with pm := { s.pm with regions := vset s.pm.regions 0 { base := 0, size := 1, typ := 1 } } }
def vcur : Cur := { kind := .vec, word := 4, addr := 64, left := 2 }
def shelf1 : Shelf := { item := .vector 64, bytes := fields 32 [(0, 8, 64)], spare := false, ue := false, host := false }
def issuing (sh : List Shelf) : State := region1 { inRun with sq := { inRun.sq with cur := some vcur }, pm := { shelf := sh } }
def s2 : State := { inRun with sq := { inRun.sq with decoded := 5 } }
def s3 : State := { inRun with sq := { inRun.sq with startTick := 0 } }
def flying (v : VRec) : State := { inRun with sp := { inflight := [v] } }
def cutVec : VRec := { vec with cut := some 100000 }
def badVec : VRec := { vec with tset := 63 }
def badIdle : VRec := { badVec with idle := true }
def edge (a : EdgeAct) (e : Nat) : PEdge := { pin := 511, e := e, ui := 0, n := 3, idx := 2, idle := false, prog := 81920, land := 1720320, act := a, exp := 3 }
def drives (l : List PEdge) (f : PinSt → PinSt) : State := { inRun with
  pins := vupd inRun.pins 511 fun p => f { p with ctl := { p.ctl with func := 3 }, enabled := true }, tg := { edges := l }, sp := { inflight := [vec] } }
def e1 : PEdge := edge (.data true) 1
def e0 : PEdge := edge (.enable true) 0
def e2 : PEdge := edge (.enableData true) 0
def off : State := { inRun with tg := { edges := [e1] } }
def s4 : State := drives [e0, { edge (.enable false) 2 with e := 3 }] id
def s5 : State := drives [e1] fun p => { p with lastFire := vset p.lastFire 1 (some 1719809) }
def s6 : State := drives [e1] fun p => { p with lastDrive := some 1720065 }
def strobe : PEdge := edge .strobe 4
def s7 : State := drives [strobe] fun p => { p with lo := true, hi := true }
def s8 : State := drives [strobe] fun p => { p with lastTrans := some 1720064 }
def opens : PEdge := edge .open_ 4
def closes (d : Nat) : PEdge := { edge .close 5 with prog := 81920 + d, land := 1720320 + d }
def win1 : Win := { n := 3, ui := 0, exp := 3, burst := false, first := 1 }
def s9 : State := drives [opens, closes 256] fun p => { p with win := some win1 }
def s10 : State := drives [opens, closes 256] fun p => { p with lastE5 := some 1720065 }
def s11 : State := drives [opens, closes 256] fun p => { p with lastE5 := some 1720064 }
def s12 : State := drives [closes 256] fun p => { p with win := some win1 }
def bursts : PEdge := { edge .strobe 4 with burst := true, ui := 5 }
def resolving (e : CondEntry) (c : Cond) : State := { inRun with
  sq := { inRun.sq with conds := [e], lastV := some (0, 10000000, 81920) }, sp := { open_ := [c], nextCid := 4 }, cl := { pins := .replicate 512 0 } }
def eFail : CondEntry := { w0 := BitVec.ofNat 64 (1 * 2 ^ 56 + 0xFF * 2 ^ 48) }
def eGlob : CondEntry := { w0 := BitVec.ofNat 64 (6 * 2 ^ 56 + 0xFF * 2 ^ 48) }
def wrong : Cond := { openCond with pred := false }
def glob : Cond := { openCond with cid := 4, entry := 1 }
def late : State := let s := resolving eFail openCond; { s with sq := { s.sq with conds := [eFail, eGlob] }, sp := { s.sp with open_ := [openCond, glob] } }
def waitCur (d : Nat) : Cur := { kind := .wait 0 true d 9 true, word := 2, addr := 64, left := 0 }
def stays (sn : Bool) (d : Nat) : Cond := { openCond with sense := sn, stay := true, reps := [subj], deadline := d }
def staying (c : Cond) (d : Nat) : State := let s := resolving eFail c; { s with sq := { s.sq with cur := some (waitCur d) } }
def goes (sn : Bool) (d : Nat) : Cond := { openCond with sense := sn, goWait := true, check := { openCond.check with cur := some (waitCur d) } }

/-- The hypotheses of `eventLines` are met, clause by clause. -/
theorem witness_eventLines :
    ((acting (act1 0)).sq.acts = [act1 0] ∧ (act1 0).reqs.evt = [(3, 0, 255)] ∧ (acting (act1 0)).sq.pulse[3] = none)
    ∧ ((acting (act1 3)).sq.acts = [act1 3] ∧ (act1 3).reqs.evt = [(3, 3, 255)] ∧ (acting (act1 3)).sq.pulse[3] = none)
    ∧ (s1.sq.pulse[3] = some (81920, true))
    ∧ (inRun.ti.evtIn[3] = false ∧ (∀ (g : Glove), selEvt 3 inRun.ti.units[g].start = false
      ∧ tiuStopSel inRun.ti.units[g] (selEvt 3) = false))
    ∧ (evtHigh.ti.evtIn[3] = true) := by
  refine ⟨?_, ?_, ?_, ?_, ?_⟩ <;> decide +kernel

/-- The hypotheses of `vectorsIssued` are met, clause by clause. -/
theorem witness_vectorsIssued :
    (let start := nextStart (issuing [shelf1]); let u := toEpoch (start - start % 8192) (issuing [shelf1]);
        vecRuns (issuing [shelf1]) = true
      ∧ (issuing [shelf1]).sp.open_ = [] ∧ (stopDue u && atBoundary u) = false ∧ u.sq.cur = some vcur ∧ vcur.kind = CurKind.vec
      ∧ vcur.desc = none ∧ u.sp.open_ = [] ∧ u.sp.toOpen = [] ∧ rangeIn u [1, 6] vcur.addr 32 = true
      ∧ shelfItem (FetchItem.vector vcur.addr) u = some shelf1 ∧ shelf1.ue = false ∧ vHdrBad shelf1.bytes = false
      ∧ vPadBad shelf1.bytes = false ∧ rangeIn u [1, 6] vcur.addr (vSize shelf1.bytes) = true
      ∧ burstPins u (vSyms u shelf1.bytes) = [] ∧ tsValid u (vTset shelf1.bytes) = true)
    ∧ (let start := nextStart s2; let u := toEpoch (start - start % 8192) s2; vecRuns s2 = true ∧ s2.sp.open_ = []
      ∧ (stopDue u && atBoundary u) = false ∧ u.sp.open_ = [] ∧ u.sp.toOpen = [] ∧ u.sq.cur = none ∧ u.sq.haltWait = none
      ∧ wordReady u = true)
    ∧ (let start := nextStart s3; let u := toEpoch (start - start % 8192) s3; vecRuns s3 = true ∧ s3.sp.open_ = []
      ∧ (stopDue u && atBoundary u) = false ∧ u.sp.open_ = [] ∧ u.sp.toOpen = [] ∧ u.sq.cur = none ∧ u.sq.haltWait = none
      ∧ wordReady u = false)
    ∧ (let start := nextStart (issuing []); let u := toEpoch (start - start % 8192) (issuing []); vecRuns (issuing []) = true
      ∧ (issuing []).sp.open_ = [] ∧ (stopDue u && atBoundary u) = false ∧ u.sp.open_ = [] ∧ u.sp.toOpen = []
      ∧ u.sq.cur = some vcur ∧ vcur.desc = none ∧ rangeIn u [1, 6] vcur.addr 32 = true
      ∧ shelfItem (FetchItem.vector vcur.addr) u = none ∧ u.sp.bubble = false ∧ u.pm.starveAct = false) := by
  refine ⟨⟨?_, rfl, ?_, ?_, ?_, ?_, ?_, ?_, ?_, ?_, ?_, ?_, ?_, ?_, ?_, ?_⟩, ⟨?_, rfl, ?_, ?_, ?_, ?_, ?_, ?_⟩, ⟨?_, rfl,
    ?_, ?_, ?_, ?_, ?_, ?_⟩, ⟨?_, rfl, ?_, ?_, ?_, ?_, ?_, ?_, ?_, ?_, ?_⟩⟩
  all_goals decide +kernel

/-- The hypotheses of `formatterPlacesEdges` are met, clause by clause. -/
theorem witness_formatterPlacesEdges :
    (let u := toEpoch (vec.start - vec.start % 8192 + 786432) (flying vec);
        (List.find? (fun x => !x.atFm) (flying vec).sp.inflight = some vec)
      ∧ tsValid u vec.tset = true)
    ∧ (let u := toEpoch (cutVec.start - cutVec.start % 8192 + 786432) (flying cutVec);
        (List.find? (fun x => !x.atFm) (flying cutVec).sp.inflight = some cutVec)
      ∧ tsValid u cutVec.tset = true)
    ∧ (let u := toEpoch (badIdle.start - badIdle.start % 8192 + 786432) (flying badIdle);
        (List.find? (fun x => !x.atFm) (flying badIdle).sp.inflight = some badIdle)
      ∧ tsValid u badIdle.tset = false ∧ badIdle.idle = true)
    ∧ (let u := toEpoch (badVec.start - badVec.start % 8192 + 786432) (flying badVec);
        (List.find? (fun x => !x.atFm) (flying badVec).sp.inflight = some badVec)
      ∧ tsValid u badVec.tset = false ∧ badVec.idle = false) := by
  refine ⟨⟨rfl, ?_⟩, ⟨rfl, ?_⟩, ⟨rfl, ?_, ?_⟩, ⟨rfl, ?_, ?_⟩⟩
  all_goals decide +kernel

/-- The hypotheses of `driveEdgeFires` are met, clause by clause. -/
theorem witness_driveEdgeFires :
    ((nextEdge 511 (fun x => decide (x.e ≤ 3)) (drives [e1] id).tg.edges = some e1) ∧ e1.pin = 511)
    ∧ ((nextEdge 511 (fun x => decide (x.e ≤ 3)) s4.tg.edges = some e0) ∧ e0.pin = 511)
    ∧ (let u := toEpoch e1.land off; let rest := ({ u with tg := { u.tg with edges := u.tg.edges.erase e1 } } : State);
        (nextEdge 511 (fun x => decide (x.e ≤ 3)) off.tg.edges = some e1)
      ∧ e1.pin = 511 ∧ landTogether u 511 e1.land = [e1] ∧ placed rest e1 = false)
    ∧ (let u := toEpoch e0.land (drives [e0] id);
        let rest := ({ u with tg := { u.tg with edges := u.tg.edges.erase e0 } } : State);
        (nextEdge 511 (fun x => decide (x.e ≤ 3)) (drives [e0] id).tg.edges = some e0)
      ∧ e0.pin = 511 ∧ landTogether u 511 e0.land = [e0] ∧ placed rest e0 = true ∧ pinParked u 511 = false
      ∧ tooClose rest e0 = false ∧ (conflicts rest (fun _ => false) e0 = false))
    ∧ (let u := toEpoch e2.land (drives [e2] id);
        let rest := ({ u with tg := { u.tg with edges := u.tg.edges.erase e2 } } : State);
        (nextEdge 511 (fun x => decide (x.e ≤ 3)) (drives [e2] id).tg.edges = some e2)
      ∧ e2.pin = 511 ∧ landTogether u 511 e2.land = [e2] ∧ placed rest e2 = true ∧ pinParked u 511 = false
      ∧ tooClose rest e2 = false ∧ (conflicts rest (fun _ => false) e2 = false))
    ∧ (let u := toEpoch e1.land s5; let rest := ({ u with tg := { u.tg with edges := u.tg.edges.erase e1 } } : State);
        (nextEdge 511 (fun x => decide (x.e ≤ 3)) s5.tg.edges = some e1)
      ∧ e1.pin = 511 ∧ landTogether u 511 e1.land = [e1] ∧ placed rest e1 = true ∧ pinParked u 511 = false
      ∧ (tooClose rest e1 = true ∨ conflicts rest (fun _ => false) e1 = true))
    ∧ (let u := toEpoch e1.land s6; let rest := ({ u with tg := { u.tg with edges := u.tg.edges.erase e1 } } : State);
        (nextEdge 511 (fun x => decide (x.e ≤ 3)) s6.tg.edges = some e1)
      ∧ e1.pin = 511 ∧ landTogether u 511 e1.land = [e1] ∧ placed rest e1 = true ∧ pinParked u 511 = false
      ∧ (tooClose rest e1 = true ∨ conflicts rest (fun _ => false) e1 = true))
    ∧ (inRun.bt.trims = Trims.nominal) := by
  refine ⟨?_, ?_, ?_, ?_, ?_, ?_, ?_, ?_⟩ <;> decide +kernel

/-- The hypotheses of `strobeTakesObservedState` are met, clause by clause. -/
theorem witness_strobeTakesObservedState :
    (let u := toEpoch strobe.land (drives [strobe] id);
        let rest := ({ u with tg := { u.tg with edges := u.tg.edges.erase strobe } } : State);
        let v := updPin 511 (fireGen rest strobe) rest; let near := nearDrive v 511 strobe.land;
        nextEdge 511 (landsNext (drives [strobe] id).tg.edges) (drives [strobe] id).tg.edges = some strobe
      ∧ strobe.pin = 511 ∧ strobe.act = EdgeAct.strobe ∧ strobe.e = 4 ∧ strobe.burst = false ∧ strobe.dropped = false
      ∧ 1 ≤ strobe.exp ∧ strobe.exp ≤ 4 ∧ placed rest strobe = true ∧ tooClose rest strobe = false
      ∧ switching u.pins[511] strobe.land = false ∧ inBrim v strobe = false ∧ near = false)
    ∧ (let u := toEpoch strobe.land s7; let rest := ({ u with tg := { u.tg with edges := u.tg.edges.erase strobe } } : State);
        let v := updPin 511 (fireGen rest strobe) rest; let near := nearDrive v 511 strobe.land;
        nextEdge 511 (landsNext s7.tg.edges) s7.tg.edges = some strobe
      ∧ strobe.pin = 511 ∧ strobe.act = EdgeAct.strobe ∧ strobe.e = 4 ∧ strobe.burst = false ∧ strobe.dropped = false
      ∧ 1 ≤ strobe.exp ∧ strobe.exp ≤ 4 ∧ placed rest strobe = true ∧ tooClose rest strobe = false
      ∧ switching u.pins[511] strobe.land = false ∧ inBrim v strobe = false ∧ near = false)
    ∧ (let u := toEpoch strobe.land s8; let rest := ({ u with tg := { u.tg with edges := u.tg.edges.erase strobe } } : State);
        let v := updPin 511 (fireGen rest strobe) rest; let near := nearDrive v 511 strobe.land;
        nextEdge 511 (landsNext s8.tg.edges) s8.tg.edges = some strobe
      ∧ strobe.pin = 511 ∧ strobe.act = EdgeAct.strobe ∧ strobe.e = 4 ∧ strobe.burst = false ∧ strobe.dropped = false
      ∧ 1 ≤ strobe.exp ∧ strobe.exp ≤ 4 ∧ placed rest strobe = true ∧ tooClose rest strobe = false
      ∧ switching u.pins[511] strobe.land = false ∧ inBrim v strobe = false ∧ near = true)
    ∧ (let u := toEpoch opens.land (drives [opens, closes 255] id);
        let rest := ({ u with tg := { u.tg with edges := u.tg.edges.erase opens } } : State);
        let v := updPin 511 (fireGen rest opens) rest;
        let x := (countDrop 3 (closes 255) 0 ({ v with tg := { v.tg with edges := v.tg.edges.erase (closes 255) } } : State));
        nextEdge 511 (landsNext (drives [opens, closes 255] id).tg.edges) (drives [opens, closes 255] id).tg.edges = some opens
      ∧ opens.pin = 511 ∧ opens.dropped = false ∧ placed rest opens = true ∧ tooClose rest opens = false ∧ opens.e = 4
      ∧ opens.act = EdgeAct.open_ ∧ switching u.pins[511] opens.land = false ∧ inBrim v opens = false
      ∧ closing v opens = some (closes 255) ∧ (closes 255).land < opens.land + 256 ∧ nearDrive x 511 opens.land = false
      ∧ opens.burst = false)
    ∧ (let u := toEpoch opens.land s9; let rest := ({ u with tg := { u.tg with edges := u.tg.edges.erase opens } } : State);
        let v := updPin 511 (fireGen rest opens) rest; nextEdge 511 (landsNext s9.tg.edges) s9.tg.edges = some opens
      ∧ opens.pin = 511 ∧ opens.dropped = false ∧ placed rest opens = true ∧ tooClose rest opens = false ∧ opens.e = 4
      ∧ opens.act = EdgeAct.open_ ∧ switching u.pins[511] opens.land = false ∧ inBrim v opens = false
      ∧ closing v opens = some (closes 256) ∧ opens.land + 256 ≤ (closes 256).land
      ∧ (u.pins[511].win ≠ none ∨ ∃ k, u.pins[511].lastE5 = some k ∧ opens.land < k + 256))
    ∧ (let u := toEpoch opens.land s10; let rest := ({ u with tg := { u.tg with edges := u.tg.edges.erase opens } } : State);
        let v := updPin 511 (fireGen rest opens) rest; nextEdge 511 (landsNext s10.tg.edges) s10.tg.edges = some opens
      ∧ opens.pin = 511 ∧ opens.dropped = false ∧ placed rest opens = true ∧ tooClose rest opens = false ∧ opens.e = 4
      ∧ opens.act = EdgeAct.open_ ∧ switching u.pins[511] opens.land = false ∧ inBrim v opens = false
      ∧ closing v opens = some (closes 256) ∧ opens.land + 256 ≤ (closes 256).land
      ∧ (u.pins[511].win ≠ none ∨ ∃ k, u.pins[511].lastE5 = some k ∧ opens.land < k + 256))
    ∧ (let u := toEpoch opens.land s11; let rest := ({ u with tg := { u.tg with edges := u.tg.edges.erase opens } } : State);
        let v := updPin 511 (fireGen rest opens) rest; nextEdge 511 (landsNext s11.tg.edges) s11.tg.edges = some opens
      ∧ opens.pin = 511 ∧ opens.dropped = false ∧ placed rest opens = true ∧ tooClose rest opens = false ∧ opens.e = 4
      ∧ opens.act = EdgeAct.open_ ∧ switching u.pins[511] opens.land = false ∧ inBrim v opens = false
      ∧ closing v opens = some (closes 256) ∧ opens.land + 256 ≤ (closes 256).land ∧ u.pins[511].win = none
      ∧ (∀ (k : ℕ), u.pins[511].lastE5 = some k → k + 256 ≤ opens.land))
    ∧ (let u := toEpoch (closes 256).land s12;
        let rest := ({ u with tg := { u.tg with edges := u.tg.edges.erase (closes 256) } } : State);
        nextEdge 511 (landsNext s12.tg.edges) s12.tg.edges = some (closes 256)
      ∧ (closes 256).pin = 511 ∧ (closes 256).dropped = false ∧ placed rest (closes 256) = true
      ∧ tooClose rest (closes 256) = false ∧ (closes 256).e = 5 ∧ u.pins[511].win = some win1 ∧ win1.n = (closes 256).n
      ∧ win1.ui = (closes 256).ui)
    ∧ (let u := toEpoch bursts.land (drives [bursts] id);
        let rest := ({ u with tg := { u.tg with edges := u.tg.edges.erase bursts } } : State);
        let v := updPin 511 (fireGen rest bursts) rest;
        nextEdge 511 (landsNext (drives [bursts] id).tg.edges) (drives [bursts] id).tg.edges = some bursts
      ∧ bursts.pin = 511 ∧ bursts.dropped = false ∧ placed rest bursts = true ∧ tooClose rest bursts = false ∧ bursts.e = 4
      ∧ bursts.act = EdgeAct.strobe ∧ bursts.burst = true ∧ switching u.pins[511] bursts.land = false ∧ inBrim v bursts = false
      ∧ nearDrive v 511 bursts.land = false) := by
  refine ⟨?_, ?_, ?_, ?_, ?_, ?_, ?_, ?_, ?_⟩ <;> decide +kernel

/-- The hypotheses of `branchResolves` are met, clause by clause. -/
theorem witness_branchResolves :
    (late.sp.open_ = [openCond, glob] ∧ oldestDue late = some 1646592
      ∧ (vecRuns late = true → 1646592 < peekStart late - peekStart late % 8192) ∧ openCond.stay = false
      ∧ openCond.goWait = false ∧ openCond.check.cur = none ∧ lateGlobal late = some (8192, glob)
      ∧ max 8192 (ext late) < 1646592)
    ∧ (let u := toEpoch 1646592 (resolving eFail openCond); let e := condEnt u openCond.entry;
        (resolving eFail openCond).sp.open_ = [openCond]
      ∧ oldestDue (resolving eFail openCond) = some 1646592
      ∧ (vecRuns (resolving eFail openCond) = true → 1646592 < peekStart (resolving eFail openCond) - peekStart (resolving eFail openCond) % 8192)
      ∧ openCond.stay = false ∧ openCond.goWait = false ∧ openCond.check.cur = none
      ∧ (Option.all (fun x => decide (1646592 ≤ max x.1 (ext (resolving eFail openCond)))) (lateGlobal (resolving eFail openCond)) = true)
      ∧ cSrc e ≠ 6 ∧ (localValue u e openCond.subj == openCond.sense) = openCond.pred) := by
  refine ⟨⟨rfl, ?_, ?_, ?_, ?_, ?_, ?_, ?_⟩, ⟨rfl, ?_, ?_, ?_, ?_, ?_, ?_, ?_, ?_⟩⟩
  all_goals decide +kernel

/-- The hypotheses of `branchResolves` are met, clause by clause. -/
theorem witness_branchResolves_part2 :
    (let u := toEpoch 1646592 (resolving eFail wrong); let e := condEnt u wrong.entry; (resolving eFail wrong).sp.open_ = [wrong]
      ∧ oldestDue (resolving eFail wrong) = some 1646592
      ∧ (vecRuns (resolving eFail wrong) = true → 1646592 < peekStart (resolving eFail wrong) - peekStart (resolving eFail wrong) % 8192)
      ∧ wrong.stay = false ∧ wrong.goWait = false ∧ wrong.check.cur = none
      ∧ (Option.all (fun x => decide (1646592 ≤ max x.1 (ext (resolving eFail wrong)))) (lateGlobal (resolving eFail wrong)) = true)
      ∧ cSrc e ≠ 6 ∧ (localValue u e wrong.subj == wrong.sense) ≠ wrong.pred)
    ∧ (let u := toEpoch 8192 (resolving eGlob openCond); let e := condEnt u openCond.entry;
        (resolving eGlob openCond).sp.open_ = [openCond]
      ∧ oldestDue (resolving eGlob openCond) = some 8192
      ∧ (vecRuns (resolving eGlob openCond) = true → 8192 < peekStart (resolving eGlob openCond) - peekStart (resolving eGlob openCond) % 8192)
      ∧ openCond.stay = false ∧ openCond.goWait = false ∧ openCond.check.cur = none
      ∧ (Option.all (fun x => decide (8192 ≤ max x.1 (ext (resolving eGlob openCond)))) (lateGlobal (resolving eGlob openCond)) = true)
      ∧ cSrc e = 6 ∧ globalResult u openCond openCond.subj = none) := by
  refine ⟨⟨rfl, ?_, ?_, ?_, ?_, ?_, ?_, ?_, ?_⟩, ⟨rfl, ?_, ?_, ?_, ?_, ?_, ?_, ?_, ?_⟩⟩
  all_goals decide +kernel

/-- The hypotheses of `branchResolves` are met, clause by clause. -/
theorem witness_branchResolves_part3 :
    (let u := toEpoch 1646592 (staying (stays true 8193) 8193); let e := condEnt u (stays true 8193).entry;
        (staying (stays true 8193) 8193).sp.open_ = [stays true 8193]
      ∧ oldestDue (staying (stays true 8193) 8193) = some 1646592
      ∧ (vecRuns (staying (stays true 8193) 8193) = true → 1646592 < peekStart (staying (stays true 8193) 8193) - peekStart (staying (stays true 8193) 8193) % 8192)
      ∧ (Option.all (fun x => decide (1646592 ≤ max x.1 (ext (staying (stays true 8193) 8193)))) (lateGlobal (staying (stays true 8193) 8193)) = true)
      ∧ cSrc e ≠ 6 ∧ (stays true 8193).stay = true ∧ (stays true 8193).reps = [subj] ∧ subj.start < (stays true 8193).deadline
      ∧ localValue u e subj = (stays true 8193).sense)
    ∧ (let u := toEpoch 1646592 (staying (stays false 8193) 8193); let e := condEnt u (stays false 8193).entry;
        (staying (stays false 8193) 8193).sp.open_ = [stays false 8193]
      ∧ oldestDue (staying (stays false 8193) 8193) = some 1646592
      ∧ (vecRuns (staying (stays false 8193) 8193) = true → 1646592 < peekStart (staying (stays false 8193) 8193) - peekStart (staying (stays false 8193) 8193) % 8192)
      ∧ (Option.all (fun x => decide (1646592 ≤ max x.1 (ext (staying (stays false 8193) 8193)))) (lateGlobal (staying (stays false 8193) 8193)) = true)
      ∧ cSrc e ≠ 6 ∧ (stays false 8193).stay = true ∧ (stays false 8193).reps = [subj]
      ∧ subj.start < (stays false 8193).deadline ∧ localValue u e subj ≠ (stays false 8193).sense) := by
  refine ⟨⟨rfl, ?_, ?_, ?_, ?_, ?_, ?_, ?_, ?_⟩, ⟨rfl, ?_, ?_, ?_, ?_, ?_, ?_, ?_, ?_⟩⟩
  all_goals decide +kernel

/-- The hypotheses of `branchResolves` are met, clause by clause. -/
theorem witness_branchResolves_part4 :
    (let u := toEpoch 0 (staying (stays true 8192) 8192); let e := condEnt u (stays true 8192).entry;
        (staying (stays true 8192) 8192).sp.open_ = [stays true 8192]
      ∧ oldestDue (staying (stays true 8192) 8192) = some 0
      ∧ (vecRuns (staying (stays true 8192) 8192) = true → 0 < peekStart (staying (stays true 8192) 8192) - peekStart (staying (stays true 8192) 8192) % 8192)
      ∧ (Option.all (fun x => decide (0 ≤ max x.1 (ext (staying (stays true 8192) 8192)))) (lateGlobal (staying (stays true 8192) 8192)) = true)
      ∧ cSrc e ≠ 6 ∧ (stays true 8192).stay = true ∧ (stays true 8192).reps = [subj] ∧ (stays true 8192).deadline ≤ subj.start
      ∧ waitOf (stays true 8192) u = some (waitCur 8192, 9))
    ∧ (let u := toEpoch 0 (resolving eFail (stays true 8192)); let e := condEnt u (stays true 8192).entry;
        (resolving eFail (stays true 8192)).sp.open_ = [stays true 8192]
      ∧ oldestDue (resolving eFail (stays true 8192)) = some 0
      ∧ (vecRuns (resolving eFail (stays true 8192)) = true → 0 < peekStart (resolving eFail (stays true 8192)) - peekStart (resolving eFail (stays true 8192)) % 8192)
      ∧ (Option.all (fun x => decide (0 ≤ max x.1 (ext (resolving eFail (stays true 8192))))) (lateGlobal (resolving eFail (stays true 8192))) = true)
      ∧ cSrc e ≠ 6 ∧ (stays true 8192).stay = true ∧ (stays true 8192).reps = [subj] ∧ (stays true 8192).deadline ≤ subj.start
      ∧ waitOf (stays true 8192) u = none ∧ (stays true 8192).deadline ≠ 0) := by
  refine ⟨⟨rfl, ?_, ?_, ?_, ?_, ?_, ?_, ?_, ?_⟩, ⟨rfl, ?_, ?_, ?_, ?_, ?_, ?_, ?_, ?_, ?_⟩⟩
  all_goals decide +kernel

/-- The hypotheses of `branchResolves` are met, clause by clause. -/
theorem witness_branchResolves_part5 :
    (let u := toEpoch 1646592 (resolving eFail (goes true 8192)); let e := condEnt u (goes true 8192).entry;
        (resolving eFail (goes true 8192)).sp.open_ = [goes true 8192]
      ∧ oldestDue (resolving eFail (goes true 8192)) = some 1646592
      ∧ (vecRuns (resolving eFail (goes true 8192)) = true → 1646592 < peekStart (resolving eFail (goes true 8192)) - peekStart (resolving eFail (goes true 8192)) % 8192)
      ∧ (Option.all (fun x => decide (1646592 ≤ max x.1 (ext (resolving eFail (goes true 8192))))) (lateGlobal (resolving eFail (goes true 8192))) = true)
      ∧ cSrc e ≠ 6 ∧ (goes true 8192).stay = false ∧ (goes true 8192).goWait = true
      ∧ localValue u e (goes true 8192).subj = (goes true 8192).sense)
    ∧ (let u := toEpoch 1646592 (resolving eFail (goes false 8192)); let e := condEnt u (goes false 8192).entry;
        (resolving eFail (goes false 8192)).sp.open_ = [goes false 8192]
      ∧ oldestDue (resolving eFail (goes false 8192)) = some 1646592
      ∧ (vecRuns (resolving eFail (goes false 8192)) = true → 1646592 < peekStart (resolving eFail (goes false 8192)) - peekStart (resolving eFail (goes false 8192)) % 8192)
      ∧ (Option.all (fun x => decide (1646592 ≤ max x.1 (ext (resolving eFail (goes false 8192))))) (lateGlobal (resolving eFail (goes false 8192))) = true)
      ∧ cSrc e ≠ 6 ∧ (goes false 8192).stay = false ∧ (goes false 8192).goWait = true
      ∧ localValue u e (goes false 8192).subj ≠ (goes false 8192).sense ∧ u.sq.stopped = false
      ∧ (goes false 8192).check.cur = some (waitCur 8192) ∧ (waitCur 8192).kind = CurKind.wait 0 true 8192 9 true) := by
  refine ⟨⟨rfl, ?_, ?_, ?_, ?_, ?_, ?_, ?_⟩, ⟨rfl, ?_, ?_, ?_, ?_, ?_, ?_, ?_, ?_, ?_, ?_⟩⟩
  all_goals decide +kernel

/-- The hypotheses of `branchResolves` are met, clause by clause. -/
theorem witness_branchResolves_part6 :
    (let u := toEpoch 1646592 (resolving eFail (goes false (2 ^ 40))); let e := condEnt u (goes false (2 ^ 40)).entry;
        (resolving eFail (goes false (2 ^ 40))).sp.open_ = [goes false (2 ^ 40)]
      ∧ oldestDue (resolving eFail (goes false (2 ^ 40))) = some 1646592
      ∧ (vecRuns (resolving eFail (goes false (2 ^ 40))) = true → 1646592 < peekStart (resolving eFail (goes false (2 ^ 40))) - peekStart (resolving eFail (goes false (2 ^ 40))) % 8192)
      ∧ (Option.all (fun x => decide (1646592 ≤ max x.1 (ext (resolving eFail (goes false (2 ^ 40)))))) (lateGlobal (resolving eFail (goes false (2 ^ 40)))) = true)
      ∧ cSrc e ≠ 6 ∧ (goes false (2 ^ 40)).stay = false ∧ (goes false (2 ^ 40)).goWait = true
      ∧ localValue u e (goes false (2 ^ 40)).subj ≠ (goes false (2 ^ 40)).sense ∧ u.sq.stopped = false
      ∧ (goes false (2 ^ 40)).check.cur = some (waitCur (2 ^ 40))
      ∧ (waitCur (2 ^ 40)).kind = CurKind.wait 0 true (2 ^ 40) 9 true) := by
  refine ⟨rfl, ?_, ?_, ?_, ?_, ?_, ?_, ?_, ?_, ?_, ?_⟩
  all_goals decide +kernel

end Sys2Proof.Tests.Edges

namespace Sys2Proof.Tests.Units

open Sys2Proof Sys2Proof.Machine Sys2Proof.Tests

def bit63 : W64 := BitVec.ofNat 64 (2 ^ 63)
def tgAct (o c : W64) : Act := { due := 1720320, n := 3, idx := 2, conds := [], reqs := { topen := o, tclose := c } }
def tgs (a : Act) (f : Tiu → Tiu) : State := { inRun with sq := { inRun.sq with acts := [a] }, ti := { units := vupd inRun.ti.units 63 f } }
def s1 : State := tgs (tgAct 0 bit63) fun u => { u with gopen := true, shot := some (8192, 0) }
def gates (l : Bool) : State := { onEdge with ti := { gateIn := .replicate 4 l, units := vupd onEdge.ti.units 63 fun u => { u with gate := 4, gopen := l } } }
def caling : State := { onEdge with ti := { units := vupd onEdge.ti.units 63 fun u => { u with gopen := true, calAt := some 8192000 } } }
def shots : State := { onEdge with ti := { units := vupd onEdge.ti.units 63 fun u => { u with gopen := true, shot := some (-5, 1) } } }
def gated : State := { shots with ti := { units := vmap (fun u => { u with gate := 2 }) shots.ti.units } }
def cClr (m : Nat) : Exec := exe 0x0B02 [(0, 8, m)]
def s2 : State := asks (cClr (2^63)) (tgs (tgAct 0 0) fun u => { u with gopen := true })
def s3 : State := asks (cClr (2^63)) (tgs (tgAct 0 0) fun u => { u with com := { count := 5 } })
def cCfg : Exec := exeInd 0x0B01 40 [(0, 8, 2 ^ 63), (8, 4, 0x40000000), (12, 4, 0x40008000), (16, 4, 2 ^ 24), (20, 4, 1)]
def cRd : Exec := exe 0x0B03 [(0, 8, 2 ^ 63), (8, 8, 0x1000)]
def cRd' : Exec := { cRd with ind := fields 64 [(0, 8, 77)] }
def s4 : State := puts 0x0598 8 (2 ^ 63) { onEdge with ti := { units := vupd onEdge.ti.units 63 fun u => { u with com := { count := 5, sum := 2^70 } } } }
def held : VRec := { vec with atFm := true, res := [(0, 0x18)] }
def sited : Mem := [(0, 1), (0x401, 0x40), (0x402, 0x01), (0x406, 0x02), (0x800, 1), (0x806, 1), (0x4C04, 0x20), (0x4C05, 0x0A), (0x4C60, 1), (0x4C72, 0x19)]
def rel (v : VRec) : State := { inRun with sp := { inflight := [v] }, pt := { inRun.pt with room := sited } }
def cond1 : VRec := { held with conds := [3] }
def cel (l : List Byte) (f : CL → CL) : State := { onEdge with
  pm := { regions := vset onEdge.pm.regions 2 { base := 0x200000, size := 1, typ := 3 } }
  cl := f { mode := 0, front := [(l, 3, 2)] } }
def grs (n : Nat) : List Byte := fields (64 * n) [(0, 8, n * 2 ^ 55), (64 * n - 8, 8, 0x1122)]
def s5 : State := cel (grs 3) fun c => { c with prod := 16384, oldest := 3, fullAct := true }
def s6 : State := cel (grs 3) fun c => { c with prod := 16382 }
def s7 : State := cel (grs 3) fun c => { c with prod := 16382, fullAct := true }
def s8 : State := dram [(0x200000, 8, 3 * 2 ^ 55)] (cel (grs 3) fun c => { c with readNeed := true })
def s9 : State := let s := cel (grs 3) fun c => { c with readNeed := true }; { s with pm := { s.pm with dram := mem [(0x200000, 8, 3 * 2 ^ 55)] }}
def s10 : State := puts 0x0484 4 1 { onEdge with tb := { onEdge.tb with now := 8192 } , cl := { relVec := some (2^48 + 5), dev := 3 } }
def s11 : State := puts 0x0484 4 1 { onEdge with cl := { relVec := some 9, dev := 3, preDev := 2 } }
def cCl (m n sof th : Nat) : Exec := exe 0x0901 [(0, 1, m), (3, 1, sof), (4, 4, n), (8, 8, th)]
def cplOut (e : Exec) (s : State) : State := { s with hi := { s.hi with exec := [e], cpls := [cplOf e 0 []], cplSize := 256, cplBase := 0x90000 } }

/-- The hypotheses of `tiuGatesAndShots` are met, clause by clause. -/
theorem witness_tiuGatesAndShots :
    (let u := toEpoch (tgAct 0 bit63).due s1; s1.sq.acts = [tgAct 0 bit63] ∧ (tgAct 0 bit63).reqs.topen = 0
      ∧ (tgAct 0 bit63).reqs.tclose = 1#64 <<< ↑63 ∧ u.ti.units[63].gate = 0 ∧ u.ti.units[63].gopen = true)
    ∧ (let u := toEpoch (tgAct bit63 0).due (tgs (tgAct bit63 0) id); (tgs (tgAct bit63 0) id).sq.acts = [tgAct bit63 0]
      ∧ (tgAct bit63 0).reqs.tclose = 0 ∧ (tgAct bit63 0).reqs.topen = 1#64 <<< ↑63 ∧ (tgAct bit63 0).conds = []
      ∧ u.ti.units[63].gate = 0 ∧ u.ti.units[63].gopen = false ∧ u.ti.units[63].held = none)
    ∧ ((gates false).ti.gateIn[3] = false ∧ (gates false).mg.contained = false)
    ∧ ((gates true).ti.gateIn[3] = true)
    ∧ (caling.ti.units[63].calAt = some 8192000 ∧ 0 < 4311 ∧ 152 * (4311 - 0) ≤ 655360 ∧ 655360 ≤ 168 * (4311 - 0))
    ∧ (caling.ti.units[63].calAt = some 8192000 ∧ 1000 < 4901 ∧ 152 * (4901 - 1000) ≤ 655360 ∧ 655360 ≤ 168 * (4901 - 1000))
    ∧ (caling.ti.units[63].calAt = some 8192000 ∧ 1000 < 4900 ∧ (655360 < 152 * (4900 - 1000) ∨ 168 * (4900 - 1000) < 655360))
    ∧ (caling.ti.units[63].calAt = some 8192000 ∧ 0 < 4312 ∧ (655360 < 152 * (4312 - 0) ∨ 168 * (4312 - 0) < 655360))
    ∧ (let u := toEpoch (-5 + 2 ^ 50).toNat shots; shots.ti.units[63].shot = some (-5, 1) ∧ u.ti.units[63].gate = 0
      ∧ u.ti.units[63].held = none)
    ∧ (let u := toEpoch (-5 + 2 ^ 50).toNat gated; gated.ti.units[63].shot = some (-5, 1) ∧ u.ti.units[63].gate ≠ 0
      ∧ u.tb.fabSrc = FabSrc.edge) := by
  refine ⟨?_, ?_, ?_, ?_, ?_, ?_, ?_, ?_, ?_, ?_⟩ <;> decide +kernel

/-- The hypotheses of `tiuCommandsAct` are met, clause by clause. -/
theorem witness_tiuCommandsAct :
    (executing 2818 7 (asks (cClr 0) onEdge) = some (cClr 0) ∧ payF (cClr 0) 0 8 = 0 ∧ payZero (cClr 0) 8 40 = true ∧ 0 = 0)
    ∧ (executing 2818 7 s2 = some (cClr (2 ^ 63)) ∧ payF (cClr (2 ^ 63)) 0 8 = 2 ^ 63 ∧ payZero (cClr (2 ^ 63)) 8 40 = true
      ∧ 2 ^ 63 ≠ 0 ∧ tiuInUse s2 (2 ^ 63) = true)
    ∧ (executing 2818 7 s3 = some (cClr (2 ^ 63)) ∧ payF (cClr (2 ^ 63)) 0 8 = 2 ^ 63 ∧ payZero (cClr (2 ^ 63)) 8 40 = true
      ∧ 2 ^ 63 ≠ 0 ∧ tiuInUse s3 (2 ^ 63) = false)
    ∧ (let r := slice cCfg.ind 8 32; executing 2817 7 (asks cCfg onEdge) = some cCfg ∧ payF cCfg 0 8 = 2 ^ ↑63
      ∧ cCfg.ind.length = 40 ∧ tiRecOk r = true ∧ tiRecMark r = false ∧ tiuInUse (asks cCfg onEdge) (2 ^ ↑63) = false
      ∧ fieldAt r 16 1 = 0)
    ∧ (executing 2819 7 (asks cRd' onEdge) = some cRd' ∧ fieldAt cRd'.entry.pay 0 8 ≠ 0 ∧ fieldAt cRd'.entry.pay 8 8 % 8 = 0
      ∧ allZero (slice cRd'.entry.pay 16 32) = true ∧ Memory.wf 0 (asks cRd' onEdge).hostMem = true)
    ∧ ((written 1432 8 0 (fun x => x == BitVec.toNat bit63) s4 = true) ∧ Memory.wf 0 s4.ti.window = true) := by
  refine ⟨?_, ?_, ?_, ?_, ?_, ?_⟩ <;> decide +kernel

/-- The hypotheses of `vectorReleaseCounts` are met, clause by clause. -/
theorem witness_vectorReleaseCounts :
    (let u := nextRelease (toEpoch (availAt (rel held) held) (rel held)); (rel held).sp.inflight = [held]
      ∧ holdsResults held = true ∧ held.conds = [] ∧ held.isWait = false ∧ 1 ≤ releaseRoom u ∧ availAt u held ≤ ext u
      ∧ anyPending u held = false)
    ∧ ((rel cond1).sp.inflight = [cond1] ∧ holdsResults cond1 = true ∧ cond1.conds ≠ [])
    ∧ ((rel held).sp.inflight = [held] ∧ holdsResults held = true ∧ running (rel held) = true ∧ (rel held).mg.contained = false)
    ∧ ((rel cond1).sp.inflight = [cond1] ∧ holdsResults cond1 = true ∧ running (rel cond1) = true
      ∧ (rel cond1).mg.contained = false) := by
  refine ⟨⟨rfl, ?_, ?_, ?_, ?_, ?_, ?_⟩, ⟨rfl, ?_, ?_⟩, ⟨rfl, ?_, ?_, ?_⟩, ⟨rfl, ?_, ?_, ?_⟩⟩
  all_goals decide +kernel

/-- The hypotheses of `cellarKeepsRecords` are met, clause by clause. -/
theorem witness_cellarKeepsRecords :
    (let size := (grs 1).length / 64; (cel (grs 1) id).cl.front = [(grs 1, 3, 2)]
      ∧ cellarRegion (cel (grs 1) id) = some (2097152, 16384) ∧ 0 < 16384 ∧ Memory.wf 0 (cel (grs 1) id).pm.dram = true
      ∧ (cel (grs 1) id).mg.pstate ≤ 2 ∧ (cel (grs 1) id).cl.headOut < size
      ∧ ((cel (grs 1) id).cl.headOut ≠ 0 ∨ (cel (grs 1) id).cl.fullAct = false
      ∧ (cel (grs 1) id).cl.prod + size ≤ 16384 ∨ (cel (grs 1) id).cl.fullAct = true
      ∧ (cel (grs 1) id).cl.prod + size - (cel (grs 1) id).cl.oldest ≤ 16384))
    ∧ (let size := (grs 3).length / 64; s5.cl.front = [(grs 3, 3, 2)] ∧ cellarRegion s5 = some (2097152, 16384) ∧ 0 < 16384
      ∧ Memory.wf 0 s5.pm.dram = true ∧ s5.mg.pstate ≤ 2 ∧ s5.cl.headOut < size ∧ (s5.cl.headOut ≠ 0 ∨ s5.cl.fullAct = false
      ∧ s5.cl.prod + size ≤ 16384 ∨ s5.cl.fullAct = true ∧ s5.cl.prod + size - s5.cl.oldest ≤ 16384))
    ∧ (let size := (grs 3).length / 64; s6.cl.front = [(grs 3, 3, 2)] ∧ cellarRegion s6 = some (2097152, 16384) ∧ 0 < 16384
      ∧ Memory.wf 0 s6.pm.dram = true ∧ s6.mg.pstate ≤ 2 ∧ s6.cl.headOut = 0 ∧ s6.cl.fullAct = false
      ∧ 16384 < s6.cl.prod + size)
    ∧ (let size := (grs 3).length / 64; s7.cl.front = [(grs 3, 3, 2)] ∧ cellarRegion s7 = some (2097152, 16384) ∧ 0 < 16384
      ∧ Memory.wf 0 s7.pm.dram = true ∧ s7.mg.pstate ≤ 2 ∧ s7.cl.headOut = 0 ∧ s7.cl.fullAct = true
      ∧ 16384 < s7.cl.prod + size - s7.cl.oldest)
    ∧ (s8.cl.front = [(grs 3, 3, 2)] ∧ cellarRegion s8 = some (2097152, 16384) ∧ 0 < 16384 ∧ Memory.wf 0 s8.pm.dram = true
      ∧ s8.mg.pstate ≤ 2 ∧ s8.cl.readNeed = true)
    ∧ (s9.cl.front = [(grs 3, 3, 2)] ∧ cellarRegion s9 = some (2097152, 16384) ∧ 0 < 16384 ∧ Memory.wf 0 s9.pm.dram = true
      ∧ s9.mg.pstate ≤ 2 ∧ s9.cl.readNeed = true)
    ∧ (let u := popWrite 1156 4 s10; (written 1156 4 0 (fun _ => true) s10 = true) ∧ u.cl.relAt ≠ u.tb.now)
    ∧ (let u := popWrite 1156 4 s11; (written 1156 4 0 (fun _ => true) s11 = true) ∧ u.cl.relAt = u.tb.now)
    ∧ (let mode := payF (cCl 2 65535 2 1) 0 1; let n := payF (cCl 2 65535 2 1) 4 4; let th := payF (cCl 2 65535 2 1) 8 8;
        let nGood := (mode = 1
      ∧ 1 ≤ n ∨ mode = 2 ∧ 1 ≤ n ∧ n ≤ 65535 ∨ mode ≠ 1 ∧ mode ≠ 2 ∧ n = 0); let thGood := (payF (cCl 2 65535 2 1) 3 1 = 2
      ∧ 1 ≤ th ∨ payF (cCl 2 65535 2 1) 3 1 ≠ 2
      ∧ th = 0); executing 2305 7 (asks (cCl 2 65535 2 1) onEdge) = some (cCl 2 65535 2 1) ∧ payF (cCl 2 65535 2 1) 0 1 ≤ 3
      ∧ payF (cCl 2 65535 2 1) 1 1 ≤ 1 ∧ payF (cCl 2 65535 2 1) 2 1 ≤ 1 ∧ payF (cCl 2 65535 2 1) 3 1 ≤ 3
      ∧ payZero (cCl 2 65535 2 1) 16 32 = true ∧ nGood ∧ thGood)
    ∧ (let mode := payF (cCl 1 1 0 0) 0 1; let n := payF (cCl 1 1 0 0) 4 4; let th := payF (cCl 1 1 0 0) 8 8;
        let nGood := (mode = 1
      ∧ 1 ≤ n ∨ mode = 2 ∧ 1 ≤ n ∧ n ≤ 65535 ∨ mode ≠ 1 ∧ mode ≠ 2 ∧ n = 0); let thGood := (payF (cCl 1 1 0 0) 3 1 = 2
      ∧ 1 ≤ th ∨ payF (cCl 1 1 0 0) 3 1 ≠ 2 ∧ th = 0); executing 2305 7 (asks (cCl 1 1 0 0) onEdge) = some (cCl 1 1 0 0)
      ∧ payF (cCl 1 1 0 0) 0 1 ≤ 3 ∧ payF (cCl 1 1 0 0) 1 1 ≤ 1 ∧ payF (cCl 1 1 0 0) 2 1 ≤ 1 ∧ payF (cCl 1 1 0 0) 3 1 ≤ 3
      ∧ payZero (cCl 1 1 0 0) 16 32 = true ∧ nGood ∧ thGood ∧ (cplOut (cCl 1 1 0 0) onEdge).hi.cpls = [cplOf (cCl 1 1 0 0) 0 []]
      ∧ cplRoom (cplOut (cCl 1 1 0 0) onEdge) = true
      ∧ (List.find? (fun x => x.entry.tag == (cCl 1 1 0 0).entry.tag) (cplOut (cCl 1 1 0 0) onEdge).hi.exec = some (cCl 1 1 0 0)))
    ∧ (let mode := payF (cCl 2 65536 2 1) 0 1; let n := payF (cCl 2 65536 2 1) 4 4; let th := payF (cCl 2 65536 2 1) 8 8;
        let nGood := (mode = 1
      ∧ 1 ≤ n ∨ mode = 2 ∧ 1 ≤ n ∧ n ≤ 65535 ∨ mode ≠ 1 ∧ mode ≠ 2 ∧ n = 0); let thGood := (payF (cCl 2 65536 2 1) 3 1 = 2
      ∧ 1 ≤ th ∨ payF (cCl 2 65536 2 1) 3 1 ≠ 2
      ∧ th = 0); executing 2305 7 (asks (cCl 2 65536 2 1) onEdge) = some (cCl 2 65536 2 1) ∧ payF (cCl 2 65536 2 1) 0 1 ≤ 3
      ∧ payF (cCl 2 65536 2 1) 1 1 ≤ 1 ∧ payF (cCl 2 65536 2 1) 2 1 ≤ 1 ∧ payF (cCl 2 65536 2 1) 3 1 ≤ 3
      ∧ payZero (cCl 2 65536 2 1) 16 32 = true ∧ ¬(nGood ∧ thGood))
    ∧ (let mode := payF (cCl 3 0 2 0) 0 1; let n := payF (cCl 3 0 2 0) 4 4; let th := payF (cCl 3 0 2 0) 8 8;
        let nGood := (mode = 1
      ∧ 1 ≤ n ∨ mode = 2 ∧ 1 ≤ n ∧ n ≤ 65535 ∨ mode ≠ 1 ∧ mode ≠ 2 ∧ n = 0); let thGood := (payF (cCl 3 0 2 0) 3 1 = 2
      ∧ 1 ≤ th ∨ payF (cCl 3 0 2 0) 3 1 ≠ 2 ∧ th = 0); executing 2305 7 (asks (cCl 3 0 2 0) onEdge) = some (cCl 3 0 2 0)
      ∧ payF (cCl 3 0 2 0) 0 1 ≤ 3 ∧ payF (cCl 3 0 2 0) 1 1 ≤ 1 ∧ payF (cCl 3 0 2 0) 2 1 ≤ 1 ∧ payF (cCl 3 0 2 0) 3 1 ≤ 3
      ∧ payZero (cCl 3 0 2 0) 16 32 = true ∧ ¬(nGood ∧ thGood)) := by
  refine ⟨?_, ?_, ?_, ?_, ?_, ?_, ?_, ?_, ?_, ?_, ?_, ?_⟩ <;> decide +kernel

end Sys2Proof.Tests.Units

namespace Sys2Proof.Tests.Service

open Sys2Proof Sys2Proof.Machine Sys2Proof.Tests

/-- a procedure before word w at address 9 -/
def serves (w : Nat) (p : Proc) : State := { inRun with sq := { inRun.sq with proc := some p, store := [(9, BitVec.ofNat 128 w)], groups := [BitVec.ofNat 512 (2 ^ 511 + 1)] } }
def at9 : Proc := { entry := 9, pc := 9 }
def deep : Proc := { at9 with stack := .replicate 8 3 }
def s1 : State := { inRun with sq := { inRun.sq with svcQueue := [9, 4] } }
def wCall : Nat := word 0x20 [(0, 2 ^ 18 - 1)]
def s2 : State := serves wCall { at9 with stack := .replicate 7 3 }
def x3 : Proc := { at9 with stack := .replicate 7 3 }
def wRet : Nat := word 0x21 []
def wSjmp : Nat := word 0x22 [(0, 2 ^ 18 - 1)]
def wLvl : Nat := word 0x24 [(110, 33), (0, 0xFFFF)]
def wPfn : Nat := word 0x25 [(13, 4), (11, 2), (0, 4)]
def wPm (g : Nat) : Nat := word 0x26 [(116, g), (96, 12), (3, 0x1000)]
def noPins (w : Nat) : State := { inRun with sq := { inRun.sq with proc := some at9, store := [(9, BitVec.ofNat 128 w)], groups := [0] } }
def wTr (d : Nat) : Nat := word 0x27 [(64, d), (0, 2 ^ 63)]
def blk (b : Block) : Proc := { at9 with block := some b }
def blockd (b : Block) (f : SQ → SQ) : State := dram [(0x4000, 8, 5), (0x4010, 8, 6)] { inRun with sq := f { inRun.sq with proc := some (blk b) } }
def wLoadw (d n : Nat) : Nat := word 0x23 [(105, n), (64, 0x4000), (0, d)]
def s4 : State := blockd (.loadw 0x4000 100 2) fun q => { q with store := [(101, 9)], poison := [101, 102], underLoad := some (100, 2) }
def sLd : Exec := exe 0x0701 [(0, 8, 0x4000)]
def img (crc : Nat) : List (Nat × Nat × Nat) := [(0x4000, 4, 0x4B595351), (0x4004, 2, 1), (0x4006, 2, 3), (0x4008, 8, 77), (0x4010, 4, 2), (0x4014, 4, 1), (0x4018, 4, crc), (0x401C, 1, 0xFF), (0x4040, 8, 5), (0x405F, 1, 0x38)]
def sCf : Exec := exe 0x0702 [(0, 1, 1)]
def loaded : State := { inRun with hi := { exec := [{ sLd with ind := fields 64 [(8, 8, 77), (16, 4, 2), (24, 4, 99)] }], cpls := [cplOf sLd 0 []], cplSize := 256, cplBase := 0x90000 } }
def sLd' : Exec := { sLd with ind := fields 64 [(8, 8, 77), (16, 4, 2), (24, 4, 99)] }
def configured : State := { inRun with hi := { exec := [sCf], cpls := [cplOf sCf 0 []], cplSize := 256, cplBase := 0x90000 } }

/-- The hypotheses of `serviceProcedures` are met, clause by clause. -/
theorem witness_serviceProcedures :
    (s1.sq.proc = none ∧ s1.sq.svcQueue = [9, 4])
    ∧ (SvcReady 32 wCall x3 s2 (svcSlot s2) ∧ x3.stack.length < 8)
    ∧ (SvcReady 32 wCall deep (serves wCall deep) (svcSlot (serves wCall deep)) ∧ 8 ≤ deep.stack.length)
    ∧ (SvcReady 33 wRet at9 (serves wRet at9) (svcSlot (serves wRet at9)) ∧ at9.stack = [])
    ∧ (SvcReady 33 wRet deep (serves wRet deep) (svcSlot (serves wRet deep)) ∧ deep.stack = 3 :: List.replicate 7 3)
    ∧ (SvcReady 34 wSjmp at9 (serves wSjmp at9) (svcSlot (serves wSjmp at9))) := by
  refine ⟨?_, ⟨svcReady (by decide +kernel), ?_⟩, ⟨svcReady (by decide +kernel), ?_⟩, ⟨svcReady (by decide +kernel), ?_⟩,
    ⟨svcReady (by decide +kernel), ?_⟩, svcReady (by decide +kernel)⟩
  all_goals decide +kernel

/-- The hypotheses of `serviceLevelsAndMeasurements` are met, clause by clause. -/
theorem witness_serviceLevelsAndMeasurements :
    (running (serves wLvl at9) = true ∧ SvcReady 36 wLvl at9 (serves wLvl at9) (svcSlot (serves wLvl at9)))
    ∧ (running (serves wPfn at9) = true ∧ SvcReady 37 wPfn at9 (serves wPfn at9) (svcSlot (serves wPfn at9)))
    ∧ (let pins := groupPins (svcSlot (serves (wPm 0) at9)) (fld (wPm 0) 121 116); running (serves (wPm 0) at9) = true
      ∧ SvcReady 38 (wPm 0) at9 (serves (wPm 0) at9) (svcSlot (serves (wPm 0) at9)) ∧ pins ≠ []
      ∧ bytesIn (svcSlot (serves (wPm 0) at9)) [5] (fld (wPm 0) 40 0) (8 * pins.length) = true)
    ∧ (let pins := groupPins (svcSlot (noPins (wPm 0))) (fld (wPm 0) 121 116); running (noPins (wPm 0)) = true
      ∧ SvcReady 38 (wPm 0) at9 (noPins (wPm 0)) (svcSlot (noPins (wPm 0))) ∧ pins = []) := by
  refine ⟨⟨?_, svcReady (by decide +kernel)⟩, ⟨?_, svcReady (by decide +kernel)⟩, ⟨?_, svcReady (by decide +kernel), ?_,
    ?_⟩, ⟨?_, svcReady (by decide +kernel), ?_⟩⟩
  all_goals decide +kernel

/-- The hypotheses of `serviceBlocksAndOverlays` are met, clause by clause. -/
theorem witness_serviceBlocksAndOverlays :
    (let bytes := tiuBlocks (svcSlot (serves (wTr 137371844544) at9)) (fld (wTr 137371844544) 63 0);
        let dest := fld (wTr 137371844544) 104 64;
        SvcReady 39 (wTr 137371844544) at9 (serves (wTr 137371844544) at9) (svcSlot (serves (wTr 137371844544) at9))
      ∧ bytes ≠ [] ∧ bytesIn (svcSlot (serves (wTr 137371844544) at9)) [5] dest bytes.length = true)
    ∧ (let bytes := tiuBlocks (svcSlot (serves (wTr 137371844552) at9)) (fld (wTr 137371844552) 63 0);
        let dest := fld (wTr 137371844552) 104 64;
        SvcReady 39 (wTr 137371844552) at9 (serves (wTr 137371844552) at9) (svcSlot (serves (wTr 137371844552) at9))
      ∧ bytes ≠ [] ∧ bytesIn (svcSlot (serves (wTr 137371844552) at9)) [5] dest bytes.length = false)
    ∧ ((blockd (Block.tiurd 16384 (fields 64 [(0, 8, 77)])) id).sq.proc = some (blk (Block.tiurd 16384 (fields 64 [(0, 8, 77)])))
      ∧ (blk (Block.tiurd 16384 (fields 64 [(0, 8, 77)]))).block = some (Block.tiurd 16384 (fields 64 [(0, 8, 77)]))
      ∧ (blk (Block.tiurd 16384 (fields 64 [(0, 8, 77)]))).last = false
      ∧ Memory.wf 0 (blockd (Block.tiurd 16384 (fields 64 [(0, 8, 77)])) id).pm.dram = true
      ∧ (blockd (Block.tiurd 16384 (fields 64 [(0, 8, 77)])) id).mg.pstate ≤ 2)
    ∧ (let count := fld (wLoadw 262143 1) 121 105; let src := fld (wLoadw 262143 1) 104 64;
        let dest := fld (wLoadw 262143 1) 17 0;
        let v := (withProc (some { entry := at9.entry, pc := at9.pc + 1, stack := at9.stack, block := at9.block, last := at9.last }) (svcSlot (serves (wLoadw 262143 1) at9)));
        let guarded := ((protectedWords v at9.pc).any (nearOverlap dest count) = true ∨ ∃ x ∈ decodedWords v, dest ≤ x
      ∧ x < dest + count);
        SvcReady 35 (wLoadw 262143 1) at9 (serves (wLoadw 262143 1) at9) (svcSlot (serves (wLoadw 262143 1) at9))
      ∧ ¬guarded ∧ bytesIn (svcSlot (serves (wLoadw 262143 1) at9)) [1, 5] src (16 * count) = true)
    ∧ (let count := fld (wLoadw 1033 1) 121 105; let dest := fld (wLoadw 1033 1) 17 0;
        let v := (withProc (some { entry := at9.entry, pc := at9.pc + 1, stack := at9.stack, block := at9.block, last := at9.last }) (svcSlot (serves (wLoadw 1033 1) at9)));
        let guarded := ((protectedWords v at9.pc).any (nearOverlap dest count) = true ∨ ∃ x ∈ decodedWords v, dest ≤ x
      ∧ x < dest + count); SvcReady 35 (wLoadw 1033 1) at9 (serves (wLoadw 1033 1) at9) (svcSlot (serves (wLoadw 1033 1) at9))
      ∧ guarded)
    ∧ (let count := fld (wLoadw 1034 1) 121 105; let src := fld (wLoadw 1034 1) 104 64; let dest := fld (wLoadw 1034 1) 17 0;
        let v := (withProc (some { entry := at9.entry, pc := at9.pc + 1, stack := at9.stack, block := at9.block, last := at9.last }) (svcSlot (serves (wLoadw 1034 1) at9)));
        let guarded := ((protectedWords v at9.pc).any (nearOverlap dest count) = true ∨ ∃ x ∈ decodedWords v, dest ≤ x
      ∧ x < dest + count); SvcReady 35 (wLoadw 1034 1) at9 (serves (wLoadw 1034 1) at9) (svcSlot (serves (wLoadw 1034 1) at9))
      ∧ ¬guarded ∧ bytesIn (svcSlot (serves (wLoadw 1034 1) at9)) [1, 5] src (16 * count) = true)
    ∧ (s4.sq.proc = some (blk (Block.loadw 16384 100 2))
      ∧ (blk (Block.loadw 16384 100 2)).block = some (Block.loadw 16384 100 2) ∧ (blk (Block.loadw 16384 100 2)).last = false
      ∧ 100 + 2 ≤ 262144 ∧ s4.sq.storeFree = none ∧ (∀ x ∈ s4.sq.store, x.2 ≠ 0))
    ∧ (262143 < 262144) := by
  refine ⟨⟨svcReady (by decide +kernel), ?_, ?_⟩, ⟨svcReady (by decide +kernel), ?_, ?_⟩, ?_,
    ⟨svcReady (by decide +kernel), ?_, ?_⟩, ⟨svcReady (by decide +kernel), ?_⟩, ⟨svcReady (by decide +kernel), ?_, ?_⟩,
    ?_, ?_⟩
  all_goals decide +kernel

/-- The hypotheses of `sequenceImageLoads` are met, clause by clause. -/
theorem witness_sequenceImageLoads :
    (let a := payF sLd 0 8; let h := dramRead (asks sLd (dram (Service.img 4220957747) onEdge)) a 64; let n := seqSize h;
        let u := inSlot SlotClass.maint n (asks sLd (dram (Service.img 4220957747) onEdge)); let img := dramRead u a n;
        executing 1793 7 (asks sLd (dram (Service.img 4220957747) onEdge)) = some sLd
      ∧ payF sLd 8 1 = 0 ∧ payZero sLd 9 39 = true
      ∧ rangeIn (asks sLd (dram (Service.img 4220957747) onEdge)) [1, 5] a 64 = true ∧ seqHdrOk h = true ∧ seqRangeOk h = true
      ∧ rangeIn (asks sLd (dram (Service.img 4220957747) onEdge)) [1, 5] a n = true
      ∧ faultIn (asks sLd (dram (Service.img 4220957747) onEdge)) a n = false
      ∧ crc32c (List.drop 64 img) = BitVec.ofNat 32 (fieldAt h 24 4))
    ∧ (let a := payF sLd 0 8; let h := dramRead (asks sLd (dram (Service.img 0) onEdge)) a 64; let n := seqSize h;
        let u := inSlot SlotClass.maint n (asks sLd (dram (Service.img 0) onEdge)); let img := dramRead u a n;
        executing 1793 7 (asks sLd (dram (Service.img 0) onEdge)) = some sLd
      ∧ payF sLd 8 1 = 0 ∧ payZero sLd 9 39 = true ∧ rangeIn (asks sLd (dram (Service.img 0) onEdge)) [1, 5] a 64 = true
      ∧ seqHdrOk h = true ∧ seqRangeOk h = true ∧ rangeIn (asks sLd (dram (Service.img 0) onEdge)) [1, 5] a n = true
      ∧ faultIn (asks sLd (dram (Service.img 0) onEdge)) a n = false
      ∧ crc32c (List.drop 64 img) ≠ BitVec.ofNat 32 (fieldAt h 24 4))
    ∧ (loaded.hi.cpls = [cplOf sLd' 0 []] ∧ cplRoom loaded = true
      ∧ (List.find? (fun x => x.entry.tag == sLd'.entry.tag) loaded.hi.exec = some sLd') ∧ sLd'.entry.opcode = 1793)
    ∧ (configured.hi.cpls = [cplOf sCf 0 []] ∧ cplRoom configured = true
      ∧ (List.find? (fun x => x.entry.tag == sCf.entry.tag) configured.hi.exec = some sCf) ∧ sCf.entry.opcode = 1794)
    ∧ (executing 1794 7 (asks sCf onEdge) = some sCf ∧ payF sCf 0 1 ≤ 1 ∧ payZero sCf 1 47 = true) := by
  refine ⟨?_, ?_, ?_, ?_, ?_⟩ <;> decide +kernel

end Sys2Proof.Tests.Service

namespace Sys2Proof.Tests.Levels

open Sys2Proof Sys2Proof.Machine Sys2Proof.Tests

def pfS (f : PF → PF) (g : PinSt → PinSt) : State := { inRun with pf := f inRun.pf, pins := vupd inRun.pins 511 g }
def s1 : State := pfS (fun f => { f with timer := 8 }) id
def staged (v : W16) (n : DacIx) : State := pfS (fun f => { f with ticks := [8192] }) fun p => { p with dacs := vupd p.dacs n fun d => { d with staged := v }, stg := { func := 3 }, stgAt := 9 }
def dacS (f : Dac → Dac) : State := pfS id fun p => { p with dacs := vupd p.dacs 5 f, ctl := { p.ctl with slewStep := 7, slewRate := 1 }, enableAt := some 81920, rangeFrom := some 1 }
def s2 : State := dacS fun d => { d with hold := some 8192, act := 100 }
def s3 : State := dacS fun d => { d with slew := some 8192, act := 7, out := 0 }
def s4 : State := dacS fun d => { d with slew := some 8192, act := 0, out := 3 }
def req (n : Nat) : MeasReq := { src := some 7, pin := 511, settle := 2, log2n := n, arrived := 0 }
def adc (a : Adc) : State := { onEdge with pf := { adcs := vset onEdge.pf.adcs 63 a } }
def ms (ph : MeasPhase) (n : Nat) : Meas := { req := req 1, phase := ph, muxEnd := 8192000, n := n, sum := 5 }
def s5 : State := adc { queue := [req 0] }
def s6 : State := adc { cur := some (ms .mux 0) }
def s7 : State := adc { cur := some (ms .settle 0) }
def s8 : State := adc { cur := some (ms .conv 0) }
def s9 : State := adc { cur := some (ms .conv 1) }
def unpk (s : State) : State := { s with pf := { s.pf with parkN := true } }
def drv (d : Bool) : State := pfS id fun p => { p with ctl := { p.ctl with func := 3 }, enabled := true, en := true, dat := d }
def cPf (t v : Nat) : Exec := exe 0x0401 ([(0, 4, t)] ++ (List.range 8).map fun b => (4 + 2 * b, 2, v))
def cUn : Exec := exe 0x0402 []
def canUn (n : Nat) : State := { onEdge with pf := { parkN := true, bankMv := ⟨#[n, 900, 901, 0, 1, 900, 1799, 1800], rfl⟩, vio := .replicate 8 0x8000 } , mg := { pstate := 1 } }
def s10 : State := asks cUn { canUn 900 with mg := { pstate := 2 } }
def cMs : Exec := exeInd 0x0403 80 [(56, 8, 2 ^ 63 + 1), (66, 1, 12)]
def fourth (s : State) : State := { s with pins := vmap (fun p => { p with ctl := { p.ctl with func := 4 } }) s.pins }

/-- The hypotheses of `levelTicksAndTransitions` are met, clause by clause. -/
theorem witness_levelTicksAndTransitions :
    (s1.pf.timer ≠ 0 ∧ running s1 = true ∧ s1.pf.ticks = [])
    ∧ (firstTick (staged 65535 0).pf.ticks = some 8192)
    ∧ (firstTick (staged 1 4).pf.ticks = some 8192)
    ∧ (s2.pins[511].dacs[5].hold = some 8192)
    ∧ (s3.pins[511].dacs[5].slew = some 8192)
    ∧ (s4.pins[511].dacs[5].slew = some 8192)
    ∧ ((dacS id).pins[511].enableAt = some 81920)
    ∧ ((dacS id).pins[511].rangeFrom ≠ none) := by
  refine ⟨?_, ?_, ?_, ?_, ?_, ?_, ?_, ?_⟩ <;> decide +kernel

/-- The hypotheses of `ppmuMeasures` are met, clause by clause. -/
theorem witness_ppmuMeasures :
    (s5.pf.adcs[63].cur = none ∧ s5.pf.adcs[63].queue = [req 0] ∧ (req 0).src ≠ none ∧ forCheck s5 (req 0) = false)
    ∧ (s6.pf.adcs[63].cur = some (ms MeasPhase.mux 0) ∧ (ms MeasPhase.mux 0).phase = MeasPhase.mux)
    ∧ (s7.pf.adcs[63].cur = some (ms MeasPhase.settle 0) ∧ (ms MeasPhase.settle 0).phase = MeasPhase.settle)
    ∧ (s8.pf.adcs[63].cur = some (ms MeasPhase.conv 0) ∧ (ms MeasPhase.conv 0).phase = MeasPhase.conv
      ∧ (ms MeasPhase.conv 0).n + 1 < 2 ^ (ms MeasPhase.conv 0).req.log2n)
    ∧ (s9.pf.adcs[63].cur = some (ms MeasPhase.conv 1) ∧ (ms MeasPhase.conv 1).phase = MeasPhase.conv
      ∧ 2 ^ (ms MeasPhase.conv 1).req.log2n ≤ (ms MeasPhase.conv 1).n + 1) := by
  refine ⟨?_, ?_, ?_, ?_, ?_⟩ <;> decide +kernel

/-- The hypotheses of `parkLandParksModule` are met, clause by clause. -/
theorem witness_parkLandParksModule :
    ((unpk inRun).pf.parkN = true)
    ∧ ((unpk (drv true)).pf.parkN = true)
    ∧ (acts (drv true) 511 = true ∧ (drv true).pins[511].ctl.func = 3 ∧ (drv true).pins[511].en = true)
    ∧ (acts (drv false) 511 = true ∧ (drv false).pins[511].ctl.func = 3 ∧ (drv false).pins[511].en = true) := by
  refine ⟨?_, ?_, ?_, ?_⟩ <;> decide +kernel

/-- The hypotheses of `frontEndCommands` are met, clause by clause. -/
theorem witness_frontEndCommands :
    (let vioGood := (∀ (b : Bank), BitVec.toNat (payVio (cPf 8 59578) b) = 0 ∨ 32768 ≤ BitVec.toNat (payVio (cPf 8 59578) b)
      ∧ BitVec.toNat (payVio (cPf 8 59578) b) ≤ 59578);
        let timerGood := (payF (cPf 8 59578) 0 4 = 0 ∨ 8 ≤ payF (cPf 8 59578) 0 4);
        executing 1025 7 (asks (cPf 8 59578) onEdge) = some (cPf 8 59578)
      ∧ payZero (cPf 8 59578) 20 28 = true ∧ vioGood ∧ timerGood)
    ∧ (let vioGood := (∀ (b : Bank), BitVec.toNat (payVio (cPf 0 0) b) = 0 ∨ 32768 ≤ BitVec.toNat (payVio (cPf 0 0) b)
      ∧ BitVec.toNat (payVio (cPf 0 0) b) ≤ 59578); let timerGood := (payF (cPf 0 0) 0 4 = 0 ∨ 8 ≤ payF (cPf 0 0) 0 4);
        executing 1025 7 (asks (cPf 0 0) ready) = some (cPf 0 0)
      ∧ payZero (cPf 0 0) 20 28 = true ∧ vioGood ∧ timerGood)
    ∧ (let vioGood := (∀ (b : Bank), BitVec.toNat (payVio (cPf 7 59578) b) = 0 ∨ 32768 ≤ BitVec.toNat (payVio (cPf 7 59578) b)
      ∧ BitVec.toNat (payVio (cPf 7 59578) b) ≤ 59578);
        let timerGood := (payF (cPf 7 59578) 0 4 = 0 ∨ 8 ≤ payF (cPf 7 59578) 0 4);
        executing 1025 7 (asks (cPf 7 59578) onEdge) = some (cPf 7 59578)
      ∧ payZero (cPf 7 59578) 20 28 = true ∧ ¬(vioGood ∧ timerGood))
    ∧ (let vioGood := (∀ (b : Bank), BitVec.toNat (payVio (cPf 8 32767) b) = 0 ∨ 32768 ≤ BitVec.toNat (payVio (cPf 8 32767) b)
      ∧ BitVec.toNat (payVio (cPf 8 32767) b) ≤ 59578);
        let timerGood := (payF (cPf 8 32767) 0 4 = 0 ∨ 8 ≤ payF (cPf 8 32767) 0 4);
        executing 1025 7 (asks (cPf 8 32767) onEdge) = some (cPf 8 32767)
      ∧ payZero (cPf 8 32767) 20 28 = true ∧ ¬(vioGood ∧ timerGood))
    ∧ (let good := ((asks cUn (canUn 900)).pf.parkN = true ∧ (asks cUn (canUn 900)).mg.contained = false
      ∧ (asks cUn (canUn 900)).mg.pstate ≤ 1
      ∧ cUn.parkActs = (asks cUn (canUn 900)).pf.parkActs); executing 1026 7 (asks cUn (canUn 900)) = some cUn ∧ good
      ∧ (asks cUn (canUn 900)).pf.parked = true)
    ∧ (let good := (s10.pf.parkN = true ∧ s10.mg.contained = false ∧ s10.mg.pstate ≤ 1
      ∧ cUn.parkActs = s10.pf.parkActs); executing 1026 7 s10 = some cUn ∧ ¬good)
    ∧ (executing 1027 7 (asks cMs (fourth onEdge)) = some cMs ∧ cMs.left = [] ∧ measPins cMs ≠ [] ∧ payF cMs 66 1 ≤ 12
      ∧ payZero cMs 67 5 = true ∧ payF cMs 72 8 % 8 = 0 ∧ (∀ p ∈ measPins cMs, (asks cMs (fourth onEdge)).pins[p].ctl.func = 4)) := by
  refine ⟨?_, ?_, ?_, ?_, ?_, ?_, ?_⟩ <;> decide +kernel

end Sys2Proof.Tests.Levels

namespace Sys2Proof.Tests.Tables

open Sys2Proof Sys2Proof.Machine Sys2Proof.Tests

def cBind (a : Nat) : Exec := exe 0x0501 [(0, 8, a)]
def tabAt (a : Nat) (m : Mem) (s : State) : State := { s with pm := { s.pm with dram := m.map fun c => (a + c.1, c.2) } }
def fixedNew : Mem := [(0, 1), (0x401, 0x40), (0x402, 0x01), (0x406, 0x02), (0x48C0, 5), (0x4C04, 0x20), (0x4C05, 0x0A), (0x4C60, 1), (0x4C64, 0x80), (0x4C72, 0x19)]
def liveNew : Mem := [(0, 1), (0x401, 0x40), (0x402, 0x01), (0x406, 0x02), (0x4C04, 0x20), (0x4C05, 0x0A), (0x4C40, 5), (0x4C60, 1), (0x4C64, 0x80), (0x4C72, 0x19)]
def waits : State := { onEdge with hi := { exec := [cBind 0, { cBind 0 with entry := { (cBind 0).entry with tag := 8 } }] } }
def x1 : Exec := { cBind 0 with entry := { (cBind 0).entry with tag := 8 } }
def faulted (s : State) : State := { s with pm := { s.pm with wranges := [(0x303FFF, 1)] } }
def cRef : Exec := exe 0x0502 [(0, 1, 4)]

/-- The hypotheses of `pinTableBoundAndRefreshed` are met, clause by clause. -/
theorem witness_pinTableBoundAndRefreshed :
    (executing 1281 8 waits = some x1 ∧ payF x1 8 1 = 0 ∧ payZero x1 9 39 = true ∧ ptTurn 8 waits = false)
    ∧ (let a := payF (cBind 1050624) 0 8; executing 1281 7 (asks (cBind 1050624) onEdge) = some (cBind 1050624)
      ∧ payF (cBind 1050624) 8 1 = 0 ∧ payZero (cBind 1050624) 9 39 = true ∧ ptTurn 7 (asks (cBind 1050624) onEdge) = true
      ∧ a % 4096 ≠ 0)
    ∧ (let a := payF (cBind 1048576) 0 8;
        let u := inSlot SlotClass.maint tableSize (bar2Drain (asks (cBind 1048576) (faulted onEdge)));
        executing 1281 7 (asks (cBind 1048576) (faulted onEdge)) = some (cBind 1048576)
      ∧ payF (cBind 1048576) 8 1 = 0 ∧ payZero (cBind 1048576) 9 39 = true
      ∧ ptTurn 7 (asks (cBind 1048576) (faulted onEdge)) = true ∧ a % 4096 = 0
      ∧ badPlace (asks (cBind 1048576) (faulted onEdge)) a = false ∧ firstFault u a tableSize ≠ none)
    ∧ (let a := payF (cBind 1048576) 0 8; executing 1281 7 (asks (cBind 1048576) onEdge) = some (cBind 1048576)
      ∧ payF (cBind 1048576) 8 1 = 0 ∧ payZero (cBind 1048576) 9 39 = true ∧ ptTurn 7 (asks (cBind 1048576) onEdge) = true
      ∧ a % 4096 = 0 ∧ badPlace (asks (cBind 1048576) onEdge) a = false)
    ∧ (executing 1282 7 (asks cRef onEdge) = some cRef ∧ ptTurn 7 (asks cRef onEdge) = true ∧ payF cRef 0 1 = 4
      ∧ payF cRef 1 1 = 0 ∧ payF cRef 2 2 = 0 ∧ payZero cRef 4 44 = true ∧ roomHeld (asks cRef onEdge) = false)
    ∧ (let u := inSlot SlotClass.maint tableSize (bar2Drain (asks cRef (tabAt 1048576 fixedNew inRun)));
        let a := BitVec.toNat (asks cRef (tabAt 1048576 fixedNew inRun)).pt.base;
        let new := ptImage 7 u false noRead a (0, tableSize);
        executing 1282 7 (asks cRef (tabAt 1048576 fixedNew inRun)) = some cRef
      ∧ ptTurn 7 (asks cRef (tabAt 1048576 fixedNew inRun)) = true ∧ payF cRef 0 1 = 4 ∧ payF cRef 1 1 = 0 ∧ payF cRef 2 2 = 0
      ∧ payZero cRef 4 44 = true ∧ roomHeld (asks cRef (tabAt 1048576 fixedNew inRun)) = true
      ∧ (asks cRef (tabAt 1048576 fixedNew inRun)).pt.hostMem = false ∧ firstFault u a tableSize = none ∧ cRef.idle = false
      ∧ firstFixed u.pt.room new ≠ none)
    ∧ (let u := inSlot SlotClass.maint tableSize (bar2Drain (asks cRef (tabAt 1048576 liveNew inRun)));
        let a := BitVec.toNat (asks cRef (tabAt 1048576 liveNew inRun)).pt.base;
        let new := ptImage 7 u false noRead a (0, tableSize);
        executing 1282 7 (asks cRef (tabAt 1048576 liveNew inRun)) = some cRef
      ∧ ptTurn 7 (asks cRef (tabAt 1048576 liveNew inRun)) = true ∧ payF cRef 0 1 = 4 ∧ payF cRef 1 1 = 0 ∧ payF cRef 2 2 = 0
      ∧ payZero cRef 4 44 = true ∧ roomHeld (asks cRef (tabAt 1048576 liveNew inRun)) = true
      ∧ (asks cRef (tabAt 1048576 liveNew inRun)).pt.hostMem = false ∧ firstFault u a tableSize = none ∧ cRef.idle = false
      ∧ firstFixed u.pt.room new = none)
    ∧ (let a := payF (cBind 1048576) 0 8;
        let u := inSlot SlotClass.maint tableSize (bar2Drain (asks (cBind 1048576) (tabAt 1048576 table onEdge)));
        let new := ptImage 7 u false noRead a (0, tableSize);
        executing 1281 7 (asks (cBind 1048576) (tabAt 1048576 table onEdge)) = some (cBind 1048576)
      ∧ payF (cBind 1048576) 8 1 = 0 ∧ payZero (cBind 1048576) 9 39 = true
      ∧ ptTurn 7 (asks (cBind 1048576) (tabAt 1048576 table onEdge)) = true ∧ a % 4096 = 0
      ∧ badPlace (asks (cBind 1048576) (tabAt 1048576 table onEdge)) a = false ∧ firstFault u a tableSize = none
      ∧ imgAt new 0 2 = 1 ∧ badLevels new (List.finRange 512) = false ∧ Memory.wf 0 u.pm.dram = true) := by
  refine ⟨?_, ?_, ?_, ?_, ?_, ?_, ?_, ?_⟩ <;> decide +kernel

end Sys2Proof.Tests.Tables

namespace Sys2Proof.Tests.Memories

open Sys2Proof Sys2Proof.Machine Sys2Proof.Tests

def halfUsed : State := { onEdge with pm := { profileB := true, slotAt := .replicate 5 4, slotUsed := .replicate 5 60000 } }
def cCfg : Exec := exe 0x0601 [(0, 1, 1), (1, 1, 1)]
def cfgWait : State := asks cCfg { onEdge with pm := { newCfg := some (7, true, false) } }
def cReg (size : Nat) : Exec := exeInd 0x0602 512 [(480, 8, 0x1FFBF00000), (488, 4, size), (492, 1, 5)]
def cWf : Exec := exe 0x0603 []
def s1 : State := asks cWf { onEdge with pm := { wfault := 3, regfault := 5 } }
def cVer (a : Nat) : Exec := exe 0x0604 [(0, 8, a)]
def vimg (m c : Nat) : List (Nat × Nat × Nat) := [(0x4000, 4, m), (0x4004, 2, 1), (0x4006, 2, 1), (0x4008, 8, 77), (0x4018, 8, 32), (0x4020, 4, c), (0x4040, 8, 64)]
def vast (c : Nat) : State := asks (cVer 0x4000) (dram (vimg 0x4B595049 c) onEdge)
def vcur : Cur := { kind := .vec, word := 4, addr := 64, left := 2 }
def hdr : Shelf := { item := .vector 64, bytes := fields 32 [(0, 8, 64)], spare := false, ue := false, host := false }
def burstTable : Mem := table.map fun c => if c.1 = 0x4C05 then (c.1, 0x8A) else c
/-- The fetcher needs a lane block of pin P000 in a region of type `t`. -/
def fetches (t : Nat) : State := let b := if t = 6 then 0x10000000000 else 0; { inRun with
  pt := { inRun.pt with room := burstTable }
  sq := { inRun.sq with cur := some vcur, prevSym := .replicate 512 1 }
  pm := {
    regions := vset (vset inRun.pm.regions 0 { base := 0, size := 1, typ := 1 }) 15
      { base := if t = 6 then b else 0x100000, size := 1, typ := t, host := if t = 6 then 0x1000 else 0 }
    shelf := [hdr], cursors := vset inRun.pm.cursors 0 (some (4 * ((if t = 6 then b else 0x100000) + 64))), dram := mem [(0x100040, 8, 77)] } }
def spares (t : Nat) : State := let s := fetches t; { s with
  pm := { s.pm with shelf := [hdr, { hdr with spare := true }] }
  sp := { open_ := [{ openCond with check := { openCond.check with cur := some vcur, cursors := s.pm.cursors } }] } }
def hostR : HostRead := { cells := [(0x1040, 5)] }
def noHost : HostRead := { fail := some (0x1040, 4) }
def bw (a : Nat) (p : Bool) : Bar2Req := { addr := a, bytes := fields 8 [(0, 8, 2 ^ 63 + 1)], poisoned := p }
def b2 (w : Bar2Req) : State := { onEdge with pm := { bar2 := [w, bw 0 false], dram := mem [(0x1000, 8, 77)] } }
def pinS (f : PinSt → PinSt) (cs : CS) (room : Mem) : State := { inRun with pins := vupd inRun.pins 0 f, cs := cs, pt := { inRun.pt with room := table ++ room } }
def s2 : State := pinS id { open_ := true } [(0x4CC0, 2)]
def shut : State := { pinS (fun p => { p with lo := true }) { open_ := true } [(0x4CC0, 2)] with tb := { onEdge.tb with guardOpen := .replicate 4 false } }
def waitX (k : XKind) : PendX := { pin := 0, kind := k, at_ := 8200, seen := 0 }
def s3 : State := pinS (fun p => { p with lo := true }) { open_ := true, pendX := [waitX .cloFall] } [(0x4CC0, 2)]
def trg : Mem := [(0x4C80, 0x80), (0x4C81, 1), (0x4C91, 0x19)]
def overdue (s : State) : State := { s with tb := { s.tb with epoch := 8192 } }
def s4 : State := overdue (pinS (fun p => { p with cls := { chiUp := some 64 } }) {} trg)
def hit : Hit := { pin := 0, cls := .width, side := true, value := 100, key := 6464 }
def s5 : State := pinS id { hits := [hit] } []
def s6 : State := pinS (fun p => { p with hi := true }) { raws := [(0, 8255)], open_ := true } []
def s7 : State := pinS (fun p => { p with hi := true }) { raws := [(0, 8255)] } []

/-- The hypotheses of `memoryCommands` are met, clause by clause. -/
theorem witness_memoryCommands :
    (onEdge.tb.fabSrc = FabSrc.edge ∧ BitVec.toNat onEdge.tb.wraps < 65535)
    ∧ (onEdge.tb.fabSrc = FabSrc.edge)
    ∧ (halfUsed.tb.fabSrc = FabSrc.edge ∧ BitVec.toNat halfUsed.tb.wraps < 65535)
    ∧ (halfUsed.tb.fabSrc = FabSrc.edge)
    ∧ (executing 1537 7 (asks cCfg onEdge) = some cCfg ∧ (asks cCfg onEdge).pm.newCfg = none ∧ payF cCfg 0 1 ≤ 1
      ∧ payF cCfg 1 1 ≤ 1 ∧ payZero cCfg 2 46 = true)
    ∧ (cfgWait.pm.newCfg = some (7, true, false) ∧ executing 1537 7 (toFrame cfgWait) = some cCfg)
    ∧ (executing 1538 7 (asks (cReg 1) onEdge) = some (cReg 1) ∧ (∀ i < 16, regionInval (cReg 1) i = false)
      ∧ mapRange (asks (cReg 1) onEdge) (List.map (payRegion (cReg 1)) (List.range 16)) = false)
    ∧ (executing 1538 7 (asks (cReg 2) onEdge) = some (cReg 2) ∧ (∀ i < 16, regionInval (cReg 2) i = false)
      ∧ mapRange (asks (cReg 2) onEdge) (List.map (payRegion (cReg 2)) (List.range 16)) = true)
    ∧ (executing 1539 7 s1 = some cWf ∧ payZero cWf 0 48 = true)
    ∧ (let a := payF (cVer 137371844552) 0 8; let types := [1, 2, 3, 4, 5, 6];
        executing 1540 7 (asks (cVer 137371844552) onEdge) = some (cVer 137371844552)
      ∧ payZero (cVer 137371844552) 8 40 = true ∧ regionTyp (asks (cVer 137371844552) onEdge) a ≠ 6
      ∧ rangeIn (asks (cVer 137371844552) onEdge) types a 64 = false)
    ∧ (let a := payF (cVer 137371844544) 0 8; let types := [1, 2, 3, 4, 5, 6];
        executing 1540 7 (asks (cVer 137371844544) onEdge) = some (cVer 137371844544)
      ∧ payZero (cVer 137371844544) 8 40 = true ∧ regionTyp (asks (cVer 137371844544) onEdge) a ≠ 6
      ∧ rangeIn (asks (cVer 137371844544) onEdge) types a 64 = true)
    ∧ (let a := payF (cVer 137371844544) 0 8; let types := [1, 2, 3, 4, 5, 6];
        let h := dramRead (asks (cVer 137371844544) onEdge) a 64;
        executing 1540 7 (asks (cVer 137371844544) onEdge) = some (cVer 137371844544)
      ∧ payZero (cVer 137371844544) 8 40 = true ∧ regionTyp (asks (cVer 137371844544) onEdge) a ≠ 6
      ∧ rangeIn (asks (cVer 137371844544) onEdge) types a 64 = true ∧ imgHdrOk h = false)
    ∧ (let a := payF (cVer 16384) 0 8; let types := [1, 2, 3, 4, 5, 6]; let h := dramRead (vast 9) a 64;
        executing 1540 7 (vast 9) = some (cVer 16384)
      ∧ payZero (cVer 16384) 8 40 = true ∧ regionTyp (vast 9) a ≠ 6 ∧ rangeIn (vast 9) types a 64 = true ∧ imgHdrOk h = true
      ∧ rangeIn (vast 9) types a (64 + fieldAt h 24 8) = true) := by
  refine ⟨?_, ?_, ?_, ?_, ?_, ?_, ?_, ?_, ?_, ?_, ?_, ?_, ?_⟩ <;> decide +kernel

/-- The hypotheses of `atticAndBar2` are met, clause by clause. -/
theorem witness_atticAndBar2 :
    (let i := FetchItem.lane 0 (1048703 / 64 * 64); let b := 1048703 / 64 * 64; fetchDue false false i (fetches 2) = true
      ∧ regionTyp (fetches 2) b = 2)
    ∧ (let i := FetchItem.lane 0 (1048640 / 64 * 64); let b := 1048640 / 64 * 64; fetchDue false true i (spares 2) = true
      ∧ regionTyp (spares 2) b = 2)
    ∧ (let i := FetchItem.lane 511 (127 / 64 * 64); fetchDue false false i inRun = false)
    ∧ (let i := FetchItem.lane 0 (1048704 / 64 * 64); fetchDue false false i (fetches 2) = false)
    ∧ (let i := FetchItem.lane 0 (1099511627903 / 64 * 64); fetchDue true false i (fetches 6) = true ∧ hostR.fail = none)
    ∧ (let i := FetchItem.lane 0 (1099511627903 / 64 * 64); fetchDue true false i (fetches 6) = true ∧ noHost.fail ≠ none)
    ∧ (2 ^ 37 - 8 < 2 ^ 37 ∧ fields 16 [(0, 8, 77)] ≠ [])
    ∧ ((2 ^ 37 ≤ 2 ^ 37 ∨ fields 8 [(0, 8, 77)] = []))
    ∧ ((2 ^ 37 ≤ 0 ∨ ([] : List Byte) = []))
    ∧ (let u := (inSlot SlotClass.host (bw 137371844600 false).bytes.length ({ (b2 (bw 137371844600 false)) with pm := { (b2 (bw 137371844600 false)).pm with bar2 := [bw 0 false] } } : State));
        (b2 (bw 137371844600 false)).pm.bar2 = [bw 137371844600 false, bw 0 false]
      ∧ dramOn (b2 (bw 137371844600 false)) = true ∧ Memory.wf 0 u.pm.dram = true ∧ (bw 137371844600 false).poisoned = false
      ∧ bar2Outside (b2 (bw 137371844600 false)) (bw 137371844600 false).addr (bw 137371844600 false).bytes.length = false)
    ∧ (let u := (inSlot SlotClass.host (bw 4100 false).bytes.length ({ (b2 (bw 4100 false)) with pm := { (b2 (bw 4100 false)).pm with bar2 := [bw 0 false] } } : State));
        (b2 (bw 4100 false)).pm.bar2 = [bw 4100 false, bw 0 false]
      ∧ dramOn (b2 (bw 4100 false)) = true ∧ Memory.wf 0 u.pm.dram = true ∧ (bw 4100 false).poisoned = false
      ∧ bar2Outside (b2 (bw 4100 false)) (bw 4100 false).addr (bw 4100 false).bytes.length = false)
    ∧ (let u := (inSlot SlotClass.host (bw 137371844601 false).bytes.length ({ (b2 (bw 137371844601 false)) with pm := { (b2 (bw 137371844601 false)).pm with bar2 := [bw 0 false] } } : State));
        (b2 (bw 137371844601 false)).pm.bar2 = [bw 137371844601 false, bw 0 false]
      ∧ dramOn (b2 (bw 137371844601 false)) = true ∧ Memory.wf 0 u.pm.dram = true
      ∧ ((bw 137371844601 false).poisoned = true ∨ bar2Outside (b2 (bw 137371844601 false)) (bw 137371844601 false).addr (bw 137371844601 false).bytes.length = true))
    ∧ (let u := (inSlot SlotClass.host (bw 137371844600 true).bytes.length ({ (b2 (bw 137371844600 true)) with pm := { (b2 (bw 137371844600 true)).pm with bar2 := [bw 0 false] } } : State));
        (b2 (bw 137371844600 true)).pm.bar2 = [bw 137371844600 true, bw 0 false]
      ∧ dramOn (b2 (bw 137371844600 true)) = true ∧ Memory.wf 0 u.pm.dram = true
      ∧ ((bw 137371844600 true).poisoned = true ∨ bar2Outside (b2 (bw 137371844600 true)) (bw 137371844600 true).addr (bw 137371844600 true).bytes.length = true)) := by
  refine ⟨?_, ?_, ?_, ?_, ?_, ?_, ?_, ?_, ?_, ?_, ?_, ?_, ?_⟩ <;> decide +kernel

/-- The hypotheses of `crossingsTriggersSamples` are met, clause by clause. -/
theorem witness_crossingsTriggersSamples :
    (let k := xkOf Threshold.clo false; let u := toEpoch 8192 s2; s2.tb.fabSrc = FabSrc.edge
      ∧ List.find? (sameStep 0 k 8192) s2.cs.pendX = none ∧ xkMoves k u.pins[0] = true)
    ∧ (let k := xkOf Threshold.clo true; let u := toEpoch 8224 shut; shut.tb.fabSrc = FabSrc.edge
      ∧ List.find? (sameStep 0 k 8224) shut.cs.pendX = none ∧ xkMoves k u.pins[0] = true)
    ∧ (let k := xkOf Threshold.clo true; let u := toEpoch 8192 s2; s2.tb.fabSrc = FabSrc.edge
      ∧ List.find? (sameStep 0 k 8192) s2.cs.pendX = none ∧ xkMoves k u.pins[0] = false)
    ∧ (let k := xkOf Threshold.clo true; List.find? (sameStep 0 k 8220) s3.cs.pendX = some (waitX XKind.cloFall)
      ∧ xkMoves k s3.pins[0] = true ∧ stampsOn s3 0 = true)
    ∧ (s3.cs.pendX = [waitX XKind.cloFall] ∧ memberShift s3 = 0 ∧ capMode s3 (waitX XKind.cloFall).pin = 2
      ∧ s3.pins[(waitX XKind.cloFall).pin].qLevel < 64 ∧ captures s3 (64 * (((waitX XKind.cloFall).at_ + 32) / 64)) = true)
    ∧ (let u := toEpoch (Int.toNat 6528) s4; longDue s4 0 true = some 6528 ∧ longDue s4 0 false = none ∧ toutDue s4 0 = none
      ∧ stampsOn s4 0 = true ∧ memberShift s4 = 0 ∧ ((s4.cs.pendX.any fun x => x.pin == 0) = false) ∧ u.pins = s4.pins
      ∧ u.pt = s4.pt ∧ u.en = s4.en)
    ∧ (let u := toEpoch (hitFrom s5 hit) s5; firstHit s5.cs.hits = some hit ∧ hit ∈ u.cs.hits)
    ∧ (s5.tb.fabSrc = FabSrc.edge ∧ 5 ≠ 0)
    ∧ (firstRaw 0 s6.cs.raws = some (0, 8255) ∧ memberShift s6 = 0)
    ∧ (firstRaw 0 s7.cs.raws = some (0, 8255) ∧ memberShift s7 = 0) := by
  refine ⟨?_, ?_, ?_, ?_, ?_, ⟨?_, ?_, ?_, ?_, ?_, ?_, congrArg State.pins (toEpoch_past (by decide +kernel)),
    toEpoch_keeps _ _ .pt (by decide), toEpoch_keeps _ _ .en (by decide)⟩, ?_, ?_, ?_, ?_⟩
  all_goals decide +kernel

end Sys2Proof.Tests.Memories

namespace Sys2Proof.Tests.Streams

open Sys2Proof Sys2Proof.Machine Sys2Proof.Tests

def strm (c : CS) : State := { inRun with cs := c }
def dat : Datum := { pin := 511, key := 640, raw := false, val := 3 }
def behind : State := strm { open_ := true, data := [dat], raws := [(511, 700)] }
def frm (n : Nat) : Frame := { pset := 15, first := 640, wrap := 0, armseq := 1, units := .replicate n (5, 0) }
def s1 : State := strm { open_ := true, data := [dat] }
def s2 : State := strm { open_ := true, frames := vset onEdge.cs.frames 15 (some (frm 2)), fseq := 4 }
def jam : CS := { open_ := true, log2 := 20, prod := 2 ^ 48, frames := vset onEdge.cs.frames 15 (some (frm 2)), fseq := 4, front := .replicate 1024 (frm 1) }
def ring (f : CS → CS) : State := { onEdge with cs := f { open_ := true, ringBase := 0x100000, log2 := 20, openSeq := 3 }, pm := { regions := vset onEdge.pm.regions 0 { base := 0x4000000000 / 16, size := 1, typ := 4 } } }
def s3 : State := ring fun c => { c with front := [frm 252], prod := 2 ^ 20 - 4096, cons := 4096 }
def s4 : State := ring fun c => { c with front := [frm 252], prod := 2 ^ 48, cons := 0 }
def s5 : State := ring fun c => { c with front := [frm 252], prod := 2 ^ 48, cons := 0, stagedAt := 256 }
def s6 : State := ring fun c => { c with staged := [frm 252], prod := 2 ^ 48, cons := 4096 }
def cOp (n : Nat) : Exec := exe 0x0A01 [(0, 8, 0x100000), (8, 1, n), (9, 3, 1000000), (12, 2, 256), (14, 1, 63), (16, 8, 0x2008)]
def s7 : State := asks (cOp 48) (strm { open_ := true })
def opened : State := let s := ring id; { s with hi := { exec := [cOp 48], cpls := [cplOf (cOp 48) 0 []], cplSize := 256, serving := true } }
def cCl : Exec := exe 0x0A02 []
def clData : Sys2Proof.Machine.State → List Byte := fun t => ((t.hi.cpls.getLast?).map fun c => c.data).getD []
def s8 : State := asks cCl (ring fun c => { c with data := [dat], front := [frm 1], staged := [frm 2], frames := vset c.frames 3 (some { frm 2 with pset := 3 }) })
def s9 : State := asks cCl (ring fun c => { c with fseq := 9 })
def s10 : State := puts 0x0528 8 4096 (ring fun c => { c with prod := 4096 })
def s11 : State := puts 0x0528 8 (2 ^ 20 - 4096) (ring fun c => { c with prod := 2 ^ 48 })
def s12 : State := puts 0x0528 8 8192 (ring fun c => { c with prod := 4096 })
def s13 : State := ring fun c => { c with irqFrames := 1, unsig := 1, unsigAt := 8192, irqVec := 63 }
def irqS : State := ring fun c => { c with irqFrames := 1, unsig := 1, unsigAt := 8192, irqVec := 63 }
def irqOn : State := { irqS with hi := { msixMask := 0 } }

/-- The hypotheses of `framesReachTheHost` are met, clause by clause. -/
theorem witness_framesReachTheHost :
    (let u := toEpoch (dat.key + 262144) s1; s1.cs.lostMarks = [] ∧ s1.cs.data = [dat] ∧ s1.cs.marks = [] ∧ s1.cs.begin_ = []
      ∧ dat.era = s1.cs.era ∧ psetOf s1 dat.pin = 0 ∧ dat.raw = false ∧ dat.val < 4 ∧ memberShift s1 = 0
      ∧ sourceBehind 0 dat.key u = false ∧ u.cs.data = [dat] ∧ u.cs.marks = [] ∧ u.cs.lostMarks = [] ∧ u.cs.frames[0] = none
      ∧ u.cs.begin_ = [] ∧ u.cs.gaps = [] ∧ psetOf u dat.pin = 0)
    ∧ (let u := toEpoch (dat.key + 262144) behind; behind.cs.lostMarks = [] ∧ behind.cs.data = [dat] ∧ behind.cs.marks = []
      ∧ behind.cs.begin_ = [] ∧ dat.era = behind.cs.era ∧ psetOf behind dat.pin = 0 ∧ dat.raw = false ∧ dat.val < 4
      ∧ memberShift behind = 0 ∧ sourceBehind 0 dat.key u = true)
    ∧ (let u := toEpoch ((frm 2).first + 8192000 * s2.cs.flush) s2; s2.cs.frames[15] = some (frm 2) ∧ memberShift s2 = 0
      ∧ u.cs.frames[15] = some (frm 2) ∧ u.cs.front.length < 1024 ∧ u.cs.dropRun = none)
    ∧ (let u := toEpoch ((frm 2).first + 8192000 * (strm jam).cs.flush) (strm jam); (strm jam).cs.frames[15] = some (frm 2)
      ∧ memberShift (strm jam) = 0 ∧ u.cs.frames[15] = some (frm 2) ∧ mustDrop u = true ∧ (frm 2).kept = [])
    ∧ (s3.cs.prodWb = 0 ∧ s3.cs.irqFrames = 0 ∧ Memory.wf 0 s3.hostMem = true ∧ (frm 252).units.length ≤ 252
      ∧ s3.cs.front = [frm 252] ∧ s3.cs.staged = [] ∧ 4096 ≤ ringFree s3)
    ∧ (s4.cs.prodWb = 0 ∧ s4.cs.irqFrames = 0 ∧ Memory.wf 0 s4.hostMem = true ∧ (frm 252).units.length ≤ 252
      ∧ s4.cs.front = [frm 252] ∧ (s4.cs.staged ≠ [] ∨ ringFree s4 < 4096))
    ∧ (let u := inSlot SlotClass.stream 4096 s5; s5.cs.prodWb = 0 ∧ s5.cs.irqFrames = 0 ∧ Memory.wf 0 s5.hostMem = true
      ∧ (frm 252).units.length ≤ 252 ∧ s5.cs.front = [frm 252] ∧ (s5.cs.staged ≠ [] ∨ ringFree s5 < 4096)
      ∧ s5.cs.staged.length < stagingCap s5 ∧ u.cs = s5.cs ∧ Memory.wf 0 u.pm.dram = true ∧ dramOn s5 = true)
    ∧ (let u := inSlot SlotClass.stream 4096 s6; s6.cs.prodWb = 0 ∧ s6.cs.irqFrames = 0 ∧ Memory.wf 0 s6.hostMem = true
      ∧ (frm 252).units.length ≤ 252 ∧ s6.cs.staged = [frm 252] ∧ 4096 ≤ ringFree s6 ∧ u.cs = s6.cs)
    ∧ ((ring id).cs.prodWb = 0 ∧ (ring id).cs.irqFrames = 0 ∧ Memory.wf 0 (ring id).hostMem = true
      ∧ (frm 252).units.length ≤ 252) := by
  refine ⟨?_, ?_, ?_, ?_, ?_, ?_, ?_, ?_, ?_⟩ <;> decide +kernel

/-- The hypotheses of `streamRegistersAndCommands` are met, clause by clause. -/
theorem witness_streamRegistersAndCommands :
    (executing 2561 7 s7 = some (cOp 48) ∧ payF (cOp 48) 0 8 % 4096 = 0 ∧ 20 ≤ payF (cOp 48) 8 1 ∧ payF (cOp 48) 8 1 ≤ 48
      ∧ 1 ≤ payF (cOp 48) 9 3 ∧ payF (cOp 48) 9 3 ≤ 1000000 ∧ payF (cOp 48) 12 2 ≤ 256 ∧ payF (cOp 48) 14 1 ≤ 63
      ∧ payF (cOp 48) 15 1 = 0 ∧ payF (cOp 48) 16 8 % 8 = 0 ∧ payZero (cOp 48) 24 24 = true ∧ s7.cs.open_ = true)
    ∧ (executing 2561 7 (asks (cOp 48) onEdge) = some (cOp 48) ∧ payF (cOp 48) 0 8 % 4096 = 0 ∧ 20 ≤ payF (cOp 48) 8 1
      ∧ payF (cOp 48) 8 1 ≤ 48 ∧ 1 ≤ payF (cOp 48) 9 3 ∧ payF (cOp 48) 9 3 ≤ 1000000 ∧ payF (cOp 48) 12 2 ≤ 256
      ∧ payF (cOp 48) 14 1 ≤ 63 ∧ payF (cOp 48) 15 1 = 0 ∧ payF (cOp 48) 16 8 % 8 = 0 ∧ payZero (cOp 48) 24 24 = true
      ∧ (asks (cOp 48) onEdge).cs.open_ = false)
    ∧ (executing 2561 7 (asks (cOp 20) onEdge) = some (cOp 20) ∧ payF (cOp 20) 0 8 % 4096 = 0 ∧ 20 ≤ payF (cOp 20) 8 1
      ∧ payF (cOp 20) 8 1 ≤ 48 ∧ 1 ≤ payF (cOp 20) 9 3 ∧ payF (cOp 20) 9 3 ≤ 1000000 ∧ payF (cOp 20) 12 2 ≤ 256
      ∧ payF (cOp 20) 14 1 ≤ 63 ∧ payF (cOp 20) 15 1 = 0 ∧ payF (cOp 20) 16 8 % 8 = 0 ∧ payZero (cOp 20) 24 24 = true
      ∧ (asks (cOp 20) onEdge).cs.open_ = false)
    ∧ (opened.hi.cpls = [cplOf (cOp 48) 0 []] ∧ cplRoom opened = true ∧ (cOp 48).entry.opcode = 2561
      ∧ (List.find? (fun x => x.entry.tag == (cOp 48).entry.tag) opened.hi.exec = some (cOp 48)) ∧ opened.cs.open_ = true)
    ∧ (executing 2562 7 s8 = some cCl ∧ payZero cCl 0 48 = true ∧ s8.cs.open_ = true)
    ∧ (executing 2562 7 s9 = some cCl ∧ payZero cCl 0 48 = true ∧ s9.cs.open_ = true)
    ∧ (executing 2562 7 (asks cCl onEdge) = some cCl ∧ payZero cCl 0 48 = true ∧ (asks cCl onEdge).cs.open_ = false)
    ∧ (let u := popWrite 1320 8 s10; (written 1320 8 0 (fun x => x == (4096#64).toNat) s10 = true) ∧ s10.cs.open_ = true
      ∧ consOk u (4096#64).toNat = true)
    ∧ (let u := popWrite 1320 8 s11; (written 1320 8 0 (fun x => x == (BitVec.ofNat 64 (2 ^ 20 - 4096)).toNat) s11 = true)
      ∧ s11.cs.open_ = true ∧ consOk u (BitVec.ofNat 64 (2 ^ 20 - 4096)).toNat = true)
    ∧ (let u := popWrite 1320 8 s12; (written 1320 8 0 (fun x => x == (8192#64).toNat) s12 = true) ∧ s12.cs.open_ = true
      ∧ consOk u (8192#64).toNat = false)
    ∧ (s13.cs.irqFrames ≠ 0 ∧ s13.cs.unsig ≠ 0)
    ∧ (irqOn.cs.irqFrames ≠ 0 ∧ irqOn.cs.unsig ≠ 0) := by
  refine ⟨?_, ?_, ?_, ?_, ?_, ?_, ?_, ?_, ?_, ?_, ?_, ?_⟩ <;> decide +kernel

end Sys2Proof.Tests.Streams

namespace Sys2Proof.Tests.Margins

open Sys2Proof Sys2Proof.Machine Sys2Proof.Tests

/-- Channel 15 under test; segment 1023 plays four granules of the larder from granule 60924 and stops. -/
def segL : Seg := { w0 := BitVec.ofNat 64 (2 ^ 63 + 2 ^ 60 + 60924), w1 := 4, rate := 0 }
def segD : Seg := { w0 := BitVec.ofNat 64 (2 ^ 63 + 2 ^ 62 + 2 ^ 60 + 0x4000), w1 := 4, rate := 0 }
def chS (g : Seg) (f : MxCh → MxCh) : State := { onEdge with mx := { ch := vupd onEdge.mx.ch 15 f, segs := vset onEdge.mx.segs 1023 g } }
def s1 : State := chS segL fun c => { c with state := .sine, en := true, ampl := 0x3FFFF, dc := 0x20000, ftw := BitVec.ofNat 48 (2 ^ 46), acc := 5, clampLo := 5, clampHi := 0x3FFF0 }
def s2 : State := chS segL fun c => { c with state := .playing, seg := 1023, rate := BitVec.ofNat 64 (2 ^ 32), clampLo := 77, clampHi := 0x3FFF }
def trg : MxCh → MxCh := fun c => { c with trig := 1023, state := .stopped }
def reqd (g : Seg) (evt : Bool) : State := let s := chS g trg; { s with mx := { s.mx with reqs := [(15, evt, 81920)] } }
def parkd : State := let s := chS segL fun c => { c with trig := 1023 }; { s with mx := { s.mx with reqs := [(15, true, 81920)] } }
def s3 : State := reqd {} true
def playD : State := chS segD fun c => { c with state := .playing, seg := 1023, park := 9 }
def cCf : Exec := exeInd 0x0C01 40 [(0, 2, 2 ^ 15), (8, 4, 5), (12, 4, 2 ^ 18 - 1), (16, 4, 6), (20, 1, 1), (24, 4, 2 ^ 17), (32, 8, 2 ^ 32)]
def cSt : Exec := exe 0x0C04 [(0, 2, 2 ^ 15), (2, 2, 1023)]
def s4 : State := asks cSt (chS segL fun c => { c with state := .stopped })
def cJp : Exec := exe 0x0C05 [(0, 2, 2 ^ 15), (2, 2, 1023), (4, 1, 1)]
def s5 : State := asks cJp (chS segL fun c => { c with state := .stopped })
def cSp : Exec := exe 0x0C06 [(0, 2, 2 ^ 15), (2, 1, 1)]
def cSg (n : Nat) : Exec := exeInd 0x0C02 40 [(0, 2, 1023), (2, 2, 1), (8, 8, 2 ^ 63 + 2 ^ 60 + 60924), (16, 8, n), (24, 8, 2 ^ 32)]
def badRead : DramFind := { ecc := .uncorrectable }
def cLo (n : Nat) : Exec := exe 0x0C03 [(0, 8, 0x4000), (12, 4, 60928 - n), (16, 4, n)]
def s6 : State := asks (cLo 1) (chS segL fun c => { c with state := .playing, seg := 1023 })

/-- The hypotheses of `marginUpdateStaysInClamp` are met, clause by clause. -/
theorem witness_marginUpdateStaysInClamp :
    ((mxSync s1).tb.fabSrc = FabSrc.edge)
    ∧ ((mxSync s2).tb.fabSrc = FabSrc.edge) := by
  refine ⟨?_, ?_⟩ <;> decide +kernel

/-- The hypotheses of `marginRequestsAndReads` are met, clause by clause. -/
theorem witness_marginRequestsAndReads :
    (let u := toEpoch (Int.toNat 81920) (reqd segL true); let v := (mxSync ({ u with mx := { u.mx with  } } : State));
        let c := v.mx.ch[15]; let seg := fld c.trig.toNat 9 0; (reqd segL true).mx.reqs = [(15, true, 81920)]
      ∧ u.mx.reqs = [(15, true, 81920)] ∧ c.inbox = [] ∧ segValid (segAt v seg) = true ∧ c.en = false
      ∧ c.state ≠ ChState.parked)
    ∧ (let u := toEpoch (Int.toNat 81920) (reqd segL false); let v := (mxSync ({ u with mx := { u.mx with  } } : State));
        let c := v.mx.ch[15]; let seg := fld c.trig.toNat 9 0; (reqd segL false).mx.reqs = [(15, false, 81920)]
      ∧ u.mx.reqs = [(15, false, 81920)] ∧ c.inbox = [] ∧ segValid (segAt v seg) = true ∧ c.en = false
      ∧ c.state ≠ ChState.parked)
    ∧ (let u := toEpoch (Int.toNat 81920) parkd; let v := (mxSync ({ u with mx := { u.mx with  } } : State));
        let c := v.mx.ch[15]; let seg := fld c.trig.toNat 9 0; parkd.mx.reqs = [(15, true, 81920)]
      ∧ u.mx.reqs = [(15, true, 81920)] ∧ c.inbox = [] ∧ segValid (segAt v seg) = true ∧ c.en = false
      ∧ c.state = ChState.parked)
    ∧ (let u := toEpoch (Int.toNat 81920) s3; let v := (mxSync ({ u with mx := { u.mx with  } } : State)); let c := v.mx.ch[15];
        let seg := fld c.trig.toNat 9 0; s3.mx.reqs = [(15, true, 81920)]
      ∧ u.mx.reqs = [(15, true, 81920)] ∧ c.inbox = [] ∧ (segValid (segAt v seg) = false ∨ c.en = true))
    ∧ (16384 % 64 = 0 ∧ needsGranule onEdge onEdge.mx.ch[15] 16384 = false)
    ∧ (let u := inSlot SlotClass.maint 64 playD; 16384 % 64 = 0 ∧ needsGranule playD playD.mx.ch[15] 16384 = true
      ∧ granuleFaulted u 16384 = false)
    ∧ (let u := inSlot SlotClass.maint 64 playD; 16576 % 64 = 0 ∧ needsGranule playD playD.mx.ch[15] 16576 = true
      ∧ granuleFaulted u 16576 = false)
    ∧ (let u := inSlot SlotClass.maint 64 playD; 16384 % 64 = 0 ∧ needsGranule playD playD.mx.ch[15] 16384 = true
      ∧ (Ecc.uncorrectable = Ecc.uncorrectable ∨ granuleFaulted u 16384 = true))
    ∧ (let off := 4096 + 64 * ↑15 + 24; let b := List.map some (leBytes 4 (2 ^ 18 - 1)); 2 ^ 18 - 1 < 2 ^ 18
      ∧ frontWrite (puts (4096 + 64 * 15 + 24) 4 (2 ^ 18 - 1) onEdge) = some { bar4 := false, off := off, bytes := b }) := by
  refine ⟨?_, ?_, ?_, ?_, ?_, ?_, ?_, ?_, ?_⟩ <;> decide +kernel

/-- The hypotheses of `marginCommands` are met, clause by clause. -/
theorem witness_marginCommands :
    (let c := (asks cCf onEdge).mx.ch[15]; payF cCf 0 2 = 2 ^ ↑15 ∧ executing 3073 7 (asks cCf onEdge) = some cCf
      ∧ payZero cCf 2 6 = true ∧ cCf.ind.length = 40 ∧ mxRecOk 15 (slice cCf.ind 8 32) = true ∧ atRest c = true)
    ∧ (let c := s4.mx.ch[15]; payF cSt 0 2 = 2 ^ ↑15 ∧ executing 3076 7 s4 = some cSt ∧ payZero cSt 4 44 = true
      ∧ segValid (segAt s4 (payF cSt 2 2)) = true ∧ c.state = ChState.stopped ∧ c.en = false)
    ∧ (let c := (asks cSt (chS segL id)).mx.ch[15]; payF cSt 0 2 = 2 ^ ↑15
      ∧ executing 3076 7 (asks cSt (chS segL id)) = some cSt ∧ payZero cSt 4 44 = true
      ∧ segValid (segAt (asks cSt (chS segL id)) (payF cSt 2 2)) = true ∧ (c.state ≠ ChState.stopped ∨ c.en = true))
    ∧ (let c := s5.mx.ch[15]; payF cJp 0 2 = 2 ^ ↑15 ∧ executing 3077 7 s5 = some cJp ∧ payF cJp 4 1 ≤ 1
      ∧ payZero cJp 5 43 = true ∧ payF cJp 2 2 ≤ 1023 ∧ segValid (segAt s5 (payF cJp 2 2)) = true ∧ c.en = false
      ∧ c.state ≠ ChState.parked ∧ c.inbox = [])
    ∧ (payF cSp 0 2 = 2 ^ ↑15 ∧ executing 3078 7 (asks cSp (chS segL id)) = some cSp ∧ payF cSp 2 1 ≤ 1
      ∧ payZero cSp 3 45 = true)
    ∧ (executing 3074 7 (asks (cSg 4) onEdge) = some (cSg 4) ∧ payF (cSg 4) 2 2 = 1 ∧ payF (cSg 4) 0 2 < 1024
      ∧ payZero (cSg 4) 4 4 = true ∧ (cSg 4).ind.length = 40
      ∧ segInval (newSegs (cSg 4) (payF (cSg 4) 0 2) 1 (asks (cSg 4) onEdge)) (cSg 4) 0 = false
      ∧ segRange (asks (cSg 4) onEdge) (cSg 4) 0 = false ∧ payF (cSg 4) 0 2 ∉ segsUsed (asks (cSg 4) onEdge))
    ∧ (executing 3074 7 (asks (cSg 4) playD) = some (cSg 4) ∧ payF (cSg 4) 2 2 = 1 ∧ payF (cSg 4) 0 2 < 1024
      ∧ payZero (cSg 4) 4 4 = true ∧ (cSg 4).ind.length = 40
      ∧ segInval (newSegs (cSg 4) (payF (cSg 4) 0 2) 1 (asks (cSg 4) playD)) (cSg 4) 0 = false
      ∧ segRange (asks (cSg 4) playD) (cSg 4) 0 = false ∧ payF (cSg 4) 0 2 ∈ segsUsed (asks (cSg 4) playD)
      ∧ paySeg (cSg 4) 0 ≠ segAt (asks (cSg 4) playD) (payF (cSg 4) 0 2))
    ∧ (let a := payF (cLo 4) 0 8; let first := payF (cLo 4) 12 4; let n := payF (cLo 4) 16 4;
        let u := inSlot SlotClass.maint (64 * n) (asks (cLo 4) (dram [(16384, 8, 77)] onEdge));
        executing 3075 7 (asks (cLo 4) (dram [(16384, 8, 77)] onEdge)) = some (cLo 4)
      ∧ payF (cLo 4) 8 1 = 0 ∧ payZero (cLo 4) 9 3 = true ∧ payZero (cLo 4) 20 28 = true ∧ 1 ≤ n ∧ n ≤ 16384 ∧ first + n ≤ 60928
      ∧ a + 64 * n ≤ 137371844608 ∧ Memory.wf 0 u.mx.larder = true
      ∧ larderBusy (asks (cLo 4) (dram [(16384, 8, 77)] onEdge)) first n = false ∧ faultIn u a (64 * n) = false)
    ∧ (let a := payF (cLo 4) 0 8; let first := payF (cLo 4) 12 4; let n := payF (cLo 4) 16 4;
        let u := inSlot SlotClass.maint (64 * n) (asks (cLo 4) (dram [(16384, 8, 77)] onEdge));
        executing 3075 7 (asks (cLo 4) (dram [(16384, 8, 77)] onEdge)) = some (cLo 4)
      ∧ payF (cLo 4) 8 1 = 0 ∧ payZero (cLo 4) 9 3 = true ∧ payZero (cLo 4) 20 28 = true ∧ 1 ≤ n ∧ n ≤ 16384 ∧ first + n ≤ 60928
      ∧ a + 64 * n ≤ 137371844608 ∧ Memory.wf 0 u.mx.larder = true
      ∧ larderBusy (asks (cLo 4) (dram [(16384, 8, 77)] onEdge)) first n = false
      ∧ (faultIn u a (64 * n) = true ∨ badRead.ecc = Ecc.uncorrectable))
    ∧ (let a := payF (cLo 1) 0 8; let first := payF (cLo 1) 12 4; let n := payF (cLo 1) 16 4;
        let u := inSlot SlotClass.maint (64 * n) s6; executing 3075 7 s6 = some (cLo 1)
      ∧ payF (cLo 1) 8 1 = 0 ∧ payZero (cLo 1) 9 3 = true ∧ payZero (cLo 1) 20 28 = true ∧ 1 ≤ n ∧ n ≤ 16384 ∧ first + n ≤ 60928
      ∧ a + 64 * n ≤ 137371844608 ∧ Memory.wf 0 u.mx.larder = true ∧ larderBusy s6 first n = true) := by
  refine ⟨?_, ?_, ?_, ?_, ?_, ?_, ?_, ?_, ?_, ?_⟩ <;> decide +kernel

end Sys2Proof.Tests.Margins

namespace Sys2Proof.Tests.Ensembles

open Sys2Proof Sys2Proof.Machine Sys2Proof.Tests

def cFm (n : Nat) : Exec := exe 0x0D01 [(1, 1, n), (8, 8, 77)]
def cJn : Exec := exe 0x0D01 [(0, 1, 63), (8, 8, 77)]
def en (e : EN) (s : State) : State := { s with en := e }
def forming (lead : Bool) : EN := { state := .forming, leader := lead, members := 3, member := if lead then 0 else 2, ensId := 77, formTag := some 7, ports := .replicate 4 { up := true, training := true } }
def lead (n : Nat) : State := asks (cFm n) (en { forming true with members := n } onEdge)
def s1 : State := en { forming false with ports := .replicate 4 { up := true } } onEdge
def mem2 : State := asks (cFm 3) (en (forming false) onEdge)
def mem2al : State := asks (cFm 3) (en { forming false with aligned := true } onEdge)
def leadAl : State := { lead 3 with en := { (lead 3).en with aligned := true } }
def leadFull : State := { lead 3 with en := { (lead 3).en with aligned := true, joined := [(1, 1), (2, 1)] } }
def cBr : Exec := exe 0x0D02 []
def ens (l : Bool) (s : State) : State := { s with en := { state := .formed, leader := l, members := 2, member := if l then 0 else 1, ports := .replicate 4 { up := true } } }
def cBrI : Exec := { cBr with idle := true }
def s2 : State := asks cBr (en { state := .discord } onEdge)
def retr (n : Nat) (s : State) : State := { s with en := { s.en with ports := vset s.en.ports 3 { up := true, unacked := [(3, .armCheck)], retries := n } } }
def s3 : State := { ens true onEdge with en := { (ens true onEdge).en with aligned := true } }
def aligned (s : State) : State := { s with en := { s.en with aligned := true, align := 4094 }, tb := { s.tb with epoch := 819200 } }
def probes (s : State) : State := { s with en := { s.en with probes := 4096 } }
def bst (t aux atime : Nat) (l : List (Nat × Nat × Nat)) : Burst := { stype := t, origin := 1, aux := aux, atime := atime, payload := fields 16 l }
def rx (b : Burst) (s : State) : State := { s with en := { s.en with rx := [(2, b, 0)] } }
def s4 : State := { ens false inRun with en := { (ens false inRun).en with parkAt := some (819200, 1, 3) } }

/-- The hypotheses of `ensembleForms` are met, clause by clause. -/
theorem witness_ensembleForms :
    (let m := payF (cFm 64) 0 1; executing 3329 7 (asks (cFm 64) onEdge) = some (cFm 64)
      ∧ (asks (cFm 64) onEdge).en.formTag = none ∧ payZero (cFm 64) 2 6 = true ∧ payZero (cFm 64) 16 32 = true ∧ (m = 0
      ∧ 1 ≤ payF (cFm 64) 1 1 ∧ payF (cFm 64) 1 1 ≤ 64 ∨ 1 ≤ m ∧ m ≤ 63 ∧ payF (cFm 64) 1 1 = 0)
      ∧ (asks (cFm 64) onEdge).mg.pstate = 1 ∧ (asks (cFm 64) onEdge).en.state = EnState.standalone ∧ payF (cFm 64) 1 1 ≠ 1)
    ∧ (let m := payF cJn 0 1; executing 3329 7 (asks cJn onEdge) = some cJn ∧ (asks cJn onEdge).en.formTag = none
      ∧ payZero cJn 2 6 = true ∧ payZero cJn 16 32 = true ∧ (m = 0 ∧ 1 ≤ payF cJn 1 1 ∧ payF cJn 1 1 ≤ 64 ∨ 1 ≤ m ∧ m ≤ 63
      ∧ payF cJn 1 1 = 0) ∧ (asks cJn onEdge).mg.pstate = 1 ∧ (asks cJn onEdge).en.state = EnState.standalone
      ∧ payF cJn 1 1 ≠ 1)
    ∧ (let m := payF (cFm 1) 0 1; executing 3329 7 (asks (cFm 1) onEdge) = some (cFm 1)
      ∧ (asks (cFm 1) onEdge).en.formTag = none ∧ payZero (cFm 1) 2 6 = true ∧ payZero (cFm 1) 16 32 = true ∧ (m = 0
      ∧ 1 ≤ payF (cFm 1) 1 1 ∧ payF (cFm 1) 1 1 ≤ 64 ∨ 1 ≤ m ∧ m ≤ 63 ∧ payF (cFm 1) 1 1 = 0)
      ∧ (asks (cFm 1) onEdge).mg.pstate = 1 ∧ (asks (cFm 1) onEdge).en.state = EnState.standalone ∧ payF (cFm 1) 1 1 = 1)
    ∧ (let m := payF (cFm 1) 0 1; executing 3329 7 (asks (cFm 1) State.reset) = some (cFm 1)
      ∧ (asks (cFm 1) State.reset).en.formTag = none ∧ payZero (cFm 1) 2 6 = true ∧ payZero (cFm 1) 16 32 = true ∧ (m = 0
      ∧ 1 ≤ payF (cFm 1) 1 1 ∧ payF (cFm 1) 1 1 ≤ 64 ∨ 1 ≤ m ∧ m ≤ 63 ∧ payF (cFm 1) 1 1 = 0)
      ∧ ((asks (cFm 1) State.reset).mg.pstate ≠ 1 ∨ (asks (cFm 1) State.reset).en.state ≠ EnState.standalone))
    ∧ ((en (forming false) onEdge).en.state = EnState.forming ∧ (en (forming false) onEdge).en.ports[0].training = true
      ∧ 36864 ≤ 36864)
    ∧ ((en (forming true) onEdge).en.state = EnState.forming ∧ (en (forming true) onEdge).en.ports[0].training = true
      ∧ 0 ≤ 36864)
    ∧ ((en (forming false) onEdge).en.state = EnState.forming ∧ (en (forming false) onEdge).en.ports[0].training = true
      ∧ 36864 < 36865)
    ∧ ((en (forming false) onEdge).en.state = EnState.forming ∧ (en (forming false) onEdge).en.ports[0].training = true)
    ∧ ((lead 3).en.state = EnState.forming ∧ (lead 3).en.leader = true ∧ joinCase (lead 3) 2 (77#64) (0#16) 4 = none)
    ∧ ((lead 3).en.state = EnState.forming ∧ (lead 3).en.leader = true ∧ joinCase (lead 3) 2 (77#64) (0#16) 5 = some 2)
    ∧ (s1.en.state ≠ EnState.standalone ∧ s1.en.leader = false ∧ s1.en.ports[0].up = true)
    ∧ (mem2.en.state = EnState.forming ∧ mem2.en.formTag = some 7 ∧ executing 3329 7 mem2 = some (cFm 3)
      ∧ mem2.en.aligned = false)
    ∧ (leadAl.en.state = EnState.forming ∧ leadAl.en.formTag = some 7 ∧ executing 3329 7 leadAl = some (cFm 3)
      ∧ leadAl.en.leader = true ∧ leadAl.en.aligned = true ∧ leadAl.en.joined.length + 1 ≠ leadAl.en.members)
    ∧ (leadFull.en.state = EnState.forming ∧ leadFull.en.formTag = some 7 ∧ executing 3329 7 leadFull = some (cFm 3)
      ∧ leadFull.en.leader = true ∧ leadFull.en.aligned = true ∧ leadFull.en.joined.length + 1 = leadFull.en.members)
    ∧ (mem2al.en.state = EnState.forming ∧ mem2al.en.formTag = some 7 ∧ executing 3329 7 mem2al = some (cFm 3)
      ∧ mem2al.en.leader = false ∧ mem2al.en.aligned = true)
    ∧ (mem2.en.state = EnState.forming ∧ mem2.en.formTag = some 7 ∧ executing 3329 7 mem2 = some (cFm 3)
      ∧ mem2.en.leader = false)
    ∧ (let u := toTime ((lead 3).en.formAt + 2048000000000) (lead 3); (lead 3).en.state = EnState.forming
      ∧ (lead 3).en.formTag = some 7 ∧ executing 3329 7 (lead 3) = some (cFm 3) ∧ (lead 3).en.leader = true
      ∧ executing 3329 7 u = some (cFm 3)) := by
  refine ⟨?_, ?_, ?_, ?_, ?_, ?_, ?_, ?_, ?_, ?_, ?_, ?_, ?_, ?_, ?_, ?_, ?_⟩ <;> decide +kernel

/-- The hypotheses of `ensembleBreaksAndDiscords` are met, clause by clause. -/
theorem witness_ensembleBreaksAndDiscords :
    (executing 3330 7 (asks cBr onEdge) = some cBr ∧ payZero cBr 0 48 = true
      ∧ ((asks cBr onEdge).en.state = EnState.standalone ∨ formed (asks cBr onEdge) = true
      ∧ (asks cBr onEdge).en.leader = false))
    ∧ (executing 3330 7 (asks cBr (ens false onEdge)) = some cBr ∧ payZero cBr 0 48 = true
      ∧ ((asks cBr (ens false onEdge)).en.state = EnState.standalone ∨ formed (asks cBr (ens false onEdge)) = true
      ∧ (asks cBr (ens false onEdge)).en.leader = false))
    ∧ (executing 3330 7 (asks cBrI (ens true onEdge)) = some cBrI ∧ payZero cBrI 0 48 = true
      ∧ (asks cBrI (ens true onEdge)).en.state ≠ EnState.standalone
      ∧ (formed (asks cBrI (ens true onEdge)) = true → (asks cBrI (ens true onEdge)).en.leader = true ∧ cBrI.idle = true)
      ∧ (asks cBrI (ens true onEdge)).en.formTag = none)
    ∧ (executing 3330 7 s2 = some cBr ∧ payZero cBr 0 48 = true ∧ s2.en.state ≠ EnState.standalone
      ∧ (formed s2 = true → s2.en.leader = true ∧ cBr.idle = true) ∧ s2.en.formTag = none)
    ∧ (executing 3330 7 (asks cBr (ens true inRun)) = some cBr ∧ payZero cBr 0 48 = true
      ∧ formed (asks cBr (ens true inRun)) = true ∧ (asks cBr (ens true inRun)).en.leader = true ∧ cBr.idle = false)
    ∧ (onEdge.en.state = EnState.standalone)
    ∧ ((ens false onEdge).en.state ≠ EnState.standalone)
    ∧ ((ens false onEdge).en.ports[3].up = true ∧ formed (ens false onEdge) = true ∧ (ens false onEdge).mg.contained = false
      ∧ (ens false onEdge).en.member < 64 ∧ BitVec.getLsbD (ens false onEdge).en.discord 63 = false)
    ∧ ((ens true onEdge).en.ports[3].up = true ∧ formed (ens true onEdge) = true ∧ (ens true onEdge).mg.contained = false
      ∧ (ens true onEdge).en.member < 64 ∧ BitVec.getLsbD (ens true onEdge).en.discord 63 = false)
    ∧ ((retr 8 (ens false onEdge)).en.ports[3].up = true ∧ formed (retr 8 (ens false onEdge)) = true
      ∧ (retr 8 (ens false onEdge)).mg.contained = false ∧ (retr 8 (ens false onEdge)).en.member < 64
      ∧ BitVec.getLsbD (retr 8 (ens false onEdge)).en.discord 63 = false ∧ (retr 8 (ens false onEdge)).en.ports[3].unacked ≠ []
      ∧ 8 ≤ (retr 8 (ens false onEdge)).en.ports[3].retries)
    ∧ (onEdge.en.ports[3].up = false)
    ∧ ((retr 6 (ens false onEdge)).en.ports[3].up = true ∧ (retr 6 (ens false onEdge)).en.ports[3].unacked ≠ []
      ∧ (retr 6 (ens false onEdge)).en.ports[3].retries < 8)
    ∧ (((ens false onEdge).en.state = EnState.standalone ∨ (ens false onEdge).en.aligned = false))
    ∧ (s3.en.state ≠ EnState.standalone ∧ s3.en.aligned = true)
    ∧ ((ens false onEdge).en.state ≠ EnState.standalone ∧ (ens false onEdge).en.leader = false
      ∧ (ens false onEdge).en.ports[0].up = true ∧ (ens false onEdge).en.aligned = false ∧ 2 ^ 63 - 1 < 2 ^ 79)
    ∧ ((ens false onEdge).en.state ≠ EnState.standalone ∧ (ens false onEdge).en.leader = false
      ∧ (ens false onEdge).en.ports[0].up = true ∧ (ens false onEdge).en.aligned = false ∧ 0 < 2 ^ 79)
    ∧ (let d := nearTime (aligned (ens false onEdge)) ((819200 + 4095 - 196608) % 2 ^ 64) + 196608 - ensTime (aligned (ens false onEdge));
        (aligned (ens false onEdge)).en.state ≠ EnState.standalone
      ∧ (aligned (ens false onEdge)).en.leader = false ∧ (aligned (ens false onEdge)).en.ports[0].up = true
      ∧ (aligned (ens false onEdge)).en.aligned = true ∧ (aligned (ens false onEdge)).en.deltas = [] ∧ d.natAbs ≤ 1
      ∧ -4096 ≤ (aligned (ens false onEdge)).en.align + d ∧ (aligned (ens false onEdge)).en.align + d ≤ 4095)
    ∧ (let d := nearTime (aligned (ens false onEdge)) ((819200 + 4094 - 196608) % 2 ^ 64) + 196608 - ensTime (aligned (ens false onEdge));
        (aligned (ens false onEdge)).en.state ≠ EnState.standalone
      ∧ (aligned (ens false onEdge)).en.leader = false ∧ (aligned (ens false onEdge)).en.ports[0].up = true
      ∧ (aligned (ens false onEdge)).en.aligned = true ∧ (aligned (ens false onEdge)).en.deltas = [] ∧ d.natAbs ≤ 1
      ∧ -4096 ≤ (aligned (ens false onEdge)).en.align + d ∧ (aligned (ens false onEdge)).en.align + d ≤ 4095)
    ∧ (let d := nearTime (aligned (ens false onEdge)) ((819200 + 4096 - 196608) % 2 ^ 64) + 196608 - ensTime (aligned (ens false onEdge));
        (aligned (ens false onEdge)).en.state ≠ EnState.standalone
      ∧ (aligned (ens false onEdge)).en.leader = false ∧ (aligned (ens false onEdge)).en.ports[0].up = true
      ∧ (aligned (ens false onEdge)).en.aligned = true ∧ (aligned (ens false onEdge)).en.deltas = [] ∧ 1 < d.natAbs
      ∧ formed (aligned (ens false onEdge)) = true)
    ∧ ((probes (ens false onEdge)).en.state ≠ EnState.standalone ∧ (probes (ens false onEdge)).en.leader = false
      ∧ 4096 ≤ (probes (ens false onEdge)).en.probes ∧ 6815731 ≤ 6815731 ∧ 6815731 ≤ 6815757)
    ∧ ((probes (ens false onEdge)).en.state ≠ EnState.standalone ∧ (probes (ens false onEdge)).en.leader = false
      ∧ 4096 ≤ (probes (ens false onEdge)).en.probes ∧ 6815731 ≤ 6815757 ∧ 6815757 ≤ 6815757)
    ∧ ((probes (ens false onEdge)).en.state ≠ EnState.standalone ∧ (probes (ens false onEdge)).en.leader = false
      ∧ 4096 ≤ (probes (ens false onEdge)).en.probes ∧ (6815730 < 6815731 ∨ 6815757 < 6815730)
      ∧ formed (probes (ens false onEdge)) = true)
    ∧ ((probes (ens false onEdge)).en.state ≠ EnState.standalone ∧ (probes (ens false onEdge)).en.leader = false
      ∧ 4096 ≤ (probes (ens false onEdge)).en.probes ∧ (6815758 < 6815731 ∨ 6815757 < 6815758)
      ∧ formed (probes (ens false onEdge)) = true)
    ∧ (firstBurst 23 (rx (bst 23 3 0 [(0, 1, 1)]) (ens true onEdge)) = some (2, bst 23 3 0 [(0, 1, 1)], 0)
      ∧ (rx (bst 23 3 0 [(0, 1, 1)]) (ens true onEdge)).en.leader = true
      ∧ formed (rx (bst 23 3 0 [(0, 1, 1)]) (ens true onEdge)) = true)
    ∧ (firstBurst 23 (rx (bst 23 3 0 [(0, 1, 1)]) (ens false onEdge)) = some (2, bst 23 3 0 [(0, 1, 1)], 0)
      ∧ (rx (bst 23 3 0 [(0, 1, 1)]) (ens false onEdge)).en.leader = false)
    ∧ (let u := toEns 819200 s4; s4.en.parkAt = some (819200, 1, 3) ∧ u.mg.contained = false ∧ u.en.state = EnState.formed) := by
  refine ⟨?_, ?_, ?_, ?_, ?_, ?_, ?_, ?_, ?_, ?_, ?_, ?_, ?_, ?_, ?_, ?_, ?_, ?_, ?_, ?_, ?_, ?_, ?_, ?_, ?_, ?_⟩ <;> decide +kernel

end Sys2Proof.Tests.Ensembles

namespace Sys2Proof.Tests.Bursts

open Sys2Proof Sys2Proof.Machine Sys2Proof.Tests

def ens (l : Bool) (s : State) : State := { s with en := { state := .formed, leader := l, members := 2, member := if l then 0 else 1, ports := .replicate 4 { up := true } } }
def slot (seq crc : Nat) : List Byte := fields 32 [(0, 1, 0x12), (2, 2, seq), (8, 8, 819200), (28, 4, crc)]
def seqd (n bad : Nat) (s : State) : State := { s with en := { s.en with ports := vset s.en.ports 3 { up := true, rxSeq := n, badRun := bad, badCtl := bad } } }
def x1 : CtlSlot := { bytes := slot 0 0 }
def x2 : CtlSlot := { sync1 := 1, bytes := slot 0 1883499843 }
def x3 : CtlSlot := { bytes := slot 0 1883499843 }
def x4 : CtlSlot := { sync0 := 1, bytes := slot 0 1883499843 }
def bst (t aux atime : Nat) (l : List (Nat × Nat × Nat)) : Burst := { stype := t, origin := 1, aux := aux, atime := atime, payload := fields 12 l }
def rx (b : Burst) (s : State) : State := { s with en := { s.en with rx := [(2, b, 0)] } , tb := { s.tb with epoch := 819200 } }
def halted : State := let s := ens false inRun; { s with sq := { s.sq with pendHalt := true, pendAt := 5 } }
def armAt (s : State) : State := { ens false s with en := { (ens false s).en with armAt := some 819200, goAt := some 819200 } }
def s5 : State := armAt { onEdge with sq := { state := .armed } }
def waits (s : State) : State := { s with en := { s.en with armWait := true, members := 64, armAsked := some 0 } }
def x6 : Sender := ⟨3, 63⟩
def x7 : ReplyCrc := { image := 3, table := 4 }
def agree : State := let s := ens true onEdge; { s with
  en := { s.en with armWait := true, expect := some (vset (.replicate 64 5) 0 (ownReply true s).digest) } }
def agreeV : State := let u := goodData 3 agree; { u with en := { u.en with replies := (agree.en.replies.filter fun x => x.member != 1) ++ [{ member := 1, pass := true, digest := 5, imageId := 0, crc := 0, ptCrc := 0, profile := 0, common := commonCrc agree }] } }
theorem agree_own : ownReply true agreeV = ownReply true (ens true onEdge) := rfl
theorem agree_agrees : ∀ m < agree.en.members, memberCase agreeV m = none := by
  intro m hm
  have hm : m < 2 := hm
  have e : agreeV.en.replies = [{ member := 1, pass := true, digest := 5, imageId := 0, crc := 0, ptCrc := 0, profile := 0, common := commonCrc agree }] := rfl
  have x : agreeV.en.expect = some (vset (.replicate 64 5) 0 (ownReply true (ens true onEdge)).digest) := rfl
  have k : (ownReply true (ens true onEdge)).member = 0 := rfl
  have p : (ownReply true (ens true onEdge)).pass = true := rfl
  have i : (ownReply true (ens true onEdge)).imageId = 0 := rfl
  have c : (ownReply true (ens true onEdge)).crc = 0 := rfl
  have f : (ownReply true (ens true onEdge)).profile = 0 := rfl
  have g : (ownReply true (ens true onEdge)).common = commonCrc agree := rfl
  unfold memberCase
  rw [agree_own, e, x]
  generalize ownReply true (ens true onEdge) = o at k p i c f g
  match m, hm with
  | 0, _ => simp [k, p, vset]
  | 1, _ => simp [k, i, c, f, g, vset]
def x8 : Sender := ⟨3, 1⟩
def x9 : ReplyCrc := { image := 0, table := 0 }
def lead : State := { ens true onEdge with tb := { onEdge.tb with now := 409600000 } }
def two : State := { lead with en := { lead.en with armWait := true, armAsked := some 0, expect := some (vset (.replicate 64 5) 0 (ownReply true lead).digest), replies := [{ ownReply true lead with member := 1, digest := 5 }] } }
theorem two_own : ownReply true two = ownReply true lead := rfl
theorem two_agrees : ∀ m < (toTime (0 + 409600000) two).en.members, memberCase (toTime (0 + 409600000) two) m = none := by
  rw [toTime_past (by decide +kernel)]
  intro m hm
  have hm : m < 2 := hm
  have e : two.en.replies = [{ ownReply true lead with member := 1, digest := 5 }] := rfl
  have x : two.en.expect = some (vset (.replicate 64 5) 0 (ownReply true lead).digest) := rfl
  have k : (ownReply true lead).member = 0 := rfl
  have p : (ownReply true lead).pass = true := rfl
  unfold memberCase
  rw [two_own, e, x]
  generalize ownReply true lead = o at k p
  match m, hm with
  | 0, _ => simp [k, p, vset]
  | 1, _ => simp [k, p, vset]
def rep (st : RunState) (l : List Nat) : State := let s := ens true onEdge; { s with sq := { state := st }, en := { s.en with armReports := l, members := 64 } }
def x10 : Sender := ⟨1, 63⟩
def entryOf6 : List CondEntry := [{ w0 := BitVec.ofNat 64 (6 * 2 ^ 56 + 0xFF * 2 ^ 48 + 1 * 2 ^ 26) }, { w0 := BitVec.ofNat 64 (1 * 2 ^ 56 + 0xFF * 2 ^ 48) }]
def glob (s : State) : State := { s with sq := { s.sq with conds := entryOf6 }, sp := { open_ := [{ openCond with gserial := 9 }], nextCid := 4 } }
def x11 : Cond := { openCond with gserial := 9 }
def cb (at_ sn : Nat) : Burst := bst 0x10 0x100 at_ [(0, 4, 9), (4, 8, sn)]
def rb (at_ sn : Nat) : Burst := bst 0x11 0x100 at_ [(0, 4, 9), (4, 8, sn)]
def cEx (m : Nat) : Exec := exeInd 0x0D03 512 [(8 * m, 8, 77)]
def cTm (at_ n per : Nat) : Exec := exe 0x0D04 [(0, 1, 255), (2, 2, n), (8, 8, at_), (16, 8, per)]
def marks (n : Nat) (s : State) : State := { s with en := { s.en with tmarks := [(255, 1998848, n, 8192000, 0)], events := [(255, 819200)] } }
def s12 : State := { marks 1 (ens true onEdge) with en := { (marks 1 (ens true onEdge)).en with events := [] }}
def s13 : State := { marks 2 (ens true onEdge) with en := { (marks 2 (ens true onEdge)).en with events := [] }}
def tmTiu : State := { marks 1 (ens true onEdge) with ti := { units := vset onEdge.ti.units 63 { start := BitVec.ofNat 32 (2 ^ 31 + 255 * 128), gopen := true, ready := some 819200, n := 1 } } }

/-- The hypotheses of `runControlBursts` are met, clause by clause. -/
theorem witness_runControlBursts :
    (onEdge.en.ports[3].up = false)
    ∧ ((ens false onEdge).en.ports[3].up = true ∧ (x2.sync0 ≠ 2 ∨ x2.sync1 ≠ 2))
    ∧ (let l := x3.bytes; (seqd 65535 1 (ens false onEdge)).en.ports[3].up = true ∧ slotGood x3 = true ∧ 16 ≤ slotType l
      ∧ fieldAt l 2 2 = ((seqd 65535 1 (ens false onEdge)).en.ports[3].rxSeq + 1) % 65536)
    ∧ (let l := x3.bytes; (seqd 0 1 (ens false onEdge)).en.ports[3].up = true ∧ slotGood x3 = true ∧ 16 ≤ slotType l
      ∧ fieldAt l 2 2 = (seqd 0 1 (ens false onEdge)).en.ports[3].rxSeq)
    ∧ ((ens false onEdge).en.ports[3].up = true ∧ slotGood x1 = false ∧ (ens false onEdge).en.ports[3].badCtl = 0
      ∧ (ens false onEdge).en.ports[3].badRun < 3)
    ∧ ((ens false onEdge).en.ports[3].up = true ∧ slotGood x4 = false ∧ (ens false onEdge).en.ports[3].badCtl = 0
      ∧ (ens false onEdge).en.ports[3].badRun < 3)
    ∧ ((seqd 0 1 (ens false onEdge)).en.ports[3].up = true ∧ slotGood x1 = false
      ∧ 1 ≤ (seqd 0 1 (ens false onEdge)).en.ports[3].badCtl ∧ (seqd 0 1 (ens false onEdge)).en.ports[3].badRun < 3
      ∧ formed (seqd 0 1 (ens false onEdge)) = true)
    ∧ ((seqd 0 3 (ens false onEdge)).en.ports[3].up = true ∧ slotGood x1 = false
      ∧ 3 ≤ (seqd 0 3 (ens false onEdge)).en.ports[3].badRun ∧ formed (seqd 0 3 (ens false onEdge)) = true)
    ∧ (let u := toTime 0 (rx (bst 19 0 819200 []) (ens false onEdge)); let at_ := nearTime u (bst 19 0 819200 []).atime;
        firstBurst 19 (rx (bst 19 0 819200 []) (ens false onEdge)) = some (2, bst 19 0 819200 [], 0)
      ∧ ensTime u ≤ at_)
    ∧ (let u := toTime 0 (rx (bst 19 0 819199 []) (ens false onEdge)); let at_ := nearTime u (bst 19 0 819199 []).atime;
        firstBurst 19 (rx (bst 19 0 819199 []) (ens false onEdge)) = some (2, bst 19 0 819199 [], 0)
      ∧ at_ < ensTime u)
    ∧ (let u := toTime 0 (rx (bst 18 0 819200 []) (ens false onEdge)); let at_ := nearTime u (bst 18 0 819200 []).atime;
        firstBurst 18 (rx (bst 18 0 819200 []) (ens false onEdge)) = some (2, bst 18 0 819200 [], 0)
      ∧ ensTime u ≤ at_)
    ∧ (let u := toTime 0 (rx (bst 18 0 819199 []) (ens false onEdge)); let at_ := nearTime u (bst 18 0 819199 []).atime;
        firstBurst 18 (rx (bst 18 0 819199 []) (ens false onEdge)) = some (2, bst 18 0 819199 [], 0)
      ∧ at_ < ensTime u)
    ∧ (let u := toTime 0 (rx (bst 20 0 819200 []) (ens false inRun)); let at_ := nearTime u (bst 20 0 819200 []).atime;
        firstBurst 20 (rx (bst 20 0 819200 []) (ens false inRun)) = some (2, bst 20 0 819200 [], 0)
      ∧ ensTime u ≤ at_ ∧ (bst 20 0 819200 []).aux % 4 = 0
      ∧ ((rx (bst 20 0 819200 []) (ens false inRun)).sq.state = RunState.running ∨ ((rx (bst 20 0 819200 []) (ens false inRun)).sq.state = RunState.arming ∨ (rx (bst 20 0 819200 []) (ens false inRun)).sq.state = RunState.armed)
      ∧ ↑(ext u) < at_) ∧ (rx (bst 20 0 819200 []) (ens false inRun)).sq.pendAbort = false
      ∧ (rx (bst 20 0 819200 []) (ens false inRun)).sq.pendHalt = false)
    ∧ (let u := toTime 0 (rx (bst 20 0 819200 []) halted); let at_ := nearTime u (bst 20 0 819200 []).atime;
        firstBurst 20 (rx (bst 20 0 819200 []) halted) = some (2, bst 20 0 819200 [], 0)
      ∧ ensTime u ≤ at_ ∧ (bst 20 0 819200 []).aux % 4 = 0
      ∧ ((rx (bst 20 0 819200 []) halted).sq.pendAbort = true ∨ (rx (bst 20 0 819200 []) halted).sq.pendHalt = true ∨ (rx (bst 20 0 819200 []) halted).sq.state = RunState.idle ∨ (rx (bst 20 0 819200 []) halted).sq.state = RunState.draining))
    ∧ (let u := toTime 0 (rx (bst 20 1 819200 []) (ens false onEdge)); let at_ := nearTime u (bst 20 1 819200 []).atime;
        firstBurst 20 (rx (bst 20 1 819200 []) (ens false onEdge)) = some (2, bst 20 1 819200 [], 0)
      ∧ ensTime u ≤ at_ ∧ (bst 20 1 819200 []).aux % 4 = 1
      ∧ ((rx (bst 20 1 819200 []) (ens false onEdge)).sq.pendAbort = true ∨ (rx (bst 20 1 819200 []) (ens false onEdge)).sq.state = RunState.idle))
    ∧ (let u := toTime 0 (rx (bst 20 1 819200 []) halted); let at_ := nearTime u (bst 20 1 819200 []).atime;
        firstBurst 20 (rx (bst 20 1 819200 []) halted) = some (2, bst 20 1 819200 [], 0)
      ∧ ensTime u ≤ at_ ∧ (bst 20 1 819200 []).aux % 4 = 1 ∧ (rx (bst 20 1 819200 []) halted).sq.state ≠ RunState.idle
      ∧ ((rx (bst 20 1 819200 []) halted).sq.state = RunState.running ∨ ↑(ext u) < at_)
      ∧ (rx (bst 20 1 819200 []) halted).sq.pendAbort = false)
    ∧ (let u := toTime 0 (rx (bst 20 2 819200 [(0, 1, 1), (1, 1, 7)]) (ens false inRun));
        let at_ := nearTime u (bst 20 2 819200 [(0, 1, 1), (1, 1, 7)]).atime;
        firstBurst 20 (rx (bst 20 2 819200 [(0, 1, 1), (1, 1, 7)]) (ens false inRun)) = some (2, bst 20 2 819200 [(0, 1, 1), (1, 1, 7)], 0)
      ∧ ensTime u ≤ at_ ∧ (bst 20 2 819200 [(0, 1, 1), (1, 1, 7)]).aux % 4 = 2)
    ∧ (firstBurst 22 (rx (bst 22 0 819200 []) (ens true inRun)) = some (2, bst 22 0 819200 [], 0)
      ∧ (rx (bst 22 0 819200 []) (ens true inRun)).en.leader = true ∧ formed (rx (bst 22 0 819200 []) (ens true inRun)) = true
      ∧ (rx (bst 22 0 819200 []) (ens true inRun)).sq.state = RunState.running
      ∧ (rx (bst 22 0 819200 []) (ens true inRun)).sq.pendAbort = false
      ∧ (rx (bst 22 0 819200 []) (ens true inRun)).sq.pendHalt = false ∧ (bst 22 0 819200 []).aux % 4 ≠ 1)
    ∧ (firstBurst 22 (rx (bst 22 0 819200 []) (ens false inRun)) = some (2, bst 22 0 819200 [], 0)
      ∧ (rx (bst 22 0 819200 []) (ens false inRun)).en.leader = false)
    ∧ (let u := toEns 819200 (armAt onEdge); (armAt onEdge).en.armAt = some 819200 ∧ running u = false ∧ u.mg.contained = false
      ∧ armHeldOff u = false ∧ timeBaseReady u = true)
    ∧ (let u := toEns 819200 (armAt inRun); (armAt inRun).en.armAt = some 819200
      ∧ (running u = true ∨ u.mg.contained = true ∨ armHeldOff u = true ∨ timeBaseReady u = false))
    ∧ (let u := toEns 819200 s5; s5.en.goAt = some 819200 ∧ u.sq.state = RunState.armed)
    ∧ (let u := toEns 819200 (armAt onEdge); (armAt onEdge).en.goAt = some 819200 ∧ u.sq.state ≠ RunState.armed)
    ∧ (formed (ens false onEdge) = true ∧ (ens false onEdge).en.leader = false ∧ (ens false onEdge).en.ports[0].up = true)
    ∧ (formed (ens false ready) = true ∧ (ens false ready).en.leader = false ∧ (ens false ready).en.ports[0].up = true)
    ∧ (let r := ({ member := ↑x6.member, pass := true, digest := 1, imageId := 2, crc := x7.image, ptCrc := x7.table, profile := 4, common := 5 });
        let u := goodData x6.port (waits (ens true onEdge));
        let v := ({ u with en := { u.en with replies := List.filter (fun x => x.member != ↑x6.member) (waits (ens true onEdge)).en.replies ++ [r] } } : State);
        (waits (ens true onEdge)).en.leader = true
      ∧ (waits (ens true onEdge)).en.armWait = true ∧ (∃ m < (waits (ens true onEdge)).en.members, m ≠ 0
      ∧ ∀ x ∈ v.en.replies, x.member ≠ m))
    ∧ (let r := ({ member := ↑x8.member, pass := true, digest := 5, imageId := 0, crc := x9.image, ptCrc := x9.table, profile := 0, common := commonCrc agree });
        let u := goodData x8.port agree;
        let v := ({ u with en := { u.en with replies := List.filter (fun x => x.member != ↑x8.member) agree.en.replies ++ [r] } } : State);
        agree.en.leader = true
      ∧ agree.en.armWait = true ∧ agree.en.member = 0 ∧ (∀ m < agree.en.members, memberCase v m = none))
    ∧ ((ens false onEdge).en.leader = false ∧ (ens false onEdge).en.state ≠ EnState.standalone
      ∧ (ens false onEdge).en.ports[0].up = true)
    ∧ (let u := toTime (0 + 409600000) (waits (ens true onEdge)); (waits (ens true onEdge)).en.leader = true
      ∧ (waits (ens true onEdge)).en.armWait = true ∧ (waits (ens true onEdge)).en.armAsked = some 0
      ∧ (∃ m < u.en.members, memberCase u m ≠ none))
    ∧ (let u := toTime (0 + 409600000) two; two.en.leader = true ∧ two.en.armWait = true ∧ two.en.armAsked = some 0
      ∧ (∀ m < u.en.members, memberCase u m = none))
    ∧ ((rep RunState.arming []).en.leader = true)
    ∧ (let g := goodData x10.port (rep RunState.arming []);
        let u := ({ g with en := { g.en with armReports := (rep RunState.arming []).en.armReports ++ [↑x10.member] } } : State);
        (rep RunState.arming []).en.leader = true
      ∧ ((rep RunState.arming []).sq.state ≠ RunState.arming ∨ allArmed u = false))
    ∧ (let g := goodData x10.port (rep RunState.arming (List.range 63));
        let u := ({ g with en := { g.en with armReports := (rep RunState.arming (List.range 63)).en.armReports ++ [↑x10.member] } } : State);
        (rep RunState.arming (List.range 63)).en.leader = true
      ∧ (rep RunState.arming (List.range 63)).sq.state = RunState.arming ∧ allArmed u = true
      ∧ (rep RunState.arming (List.range 63)).sq.goHeld = false) := by
  refine ⟨?_, ?_, ?_, ?_, ?_, ?_, ?_, ?_, ?_, ?_, ?_, ?_, ?_, ?_, ?_, ?_, ?_, ?_, ?_, ?_, ?_, ?_, ?_, ?_, ?_, ?_, ⟨?_,
    ?_, ?_, agree_agrees⟩, ?_, ?_, ⟨?_, ?_, ?_, two_agrees⟩, ?_, ?_, ?_⟩
  all_goals decide +kernel

/-- The hypotheses of `globalConditionsAndMarks` are met, clause by clause. -/
theorem witness_globalConditionsAndMarks :
    (formed (glob (ens false inRun)) = true ∧ nextLocal (glob (ens false inRun)) = some (x11, subj))
    ∧ (formed inRun = false)
    ∧ (let num := fieldAt (cb 819200 8192).payload 0 4; let sn := fieldAt (cb 819200 8192).payload 4 8;
        let u := toTime 0 (rx (cb 819200 8192) (glob (ens false inRun)));
        firstBurst 16 (rx (cb 819200 8192) (glob (ens false inRun))) = some (2, cb 819200 8192, 0)
      ∧ ensTime u ≤ nearTime u (cb 819200 8192).atime ∧ globalOf u num sn ≠ none)
    ∧ (let num := fieldAt (cb 819199 8192).payload 0 4; let sn := fieldAt (cb 819199 8192).payload 4 8;
        let u := toTime 0 (rx (cb 819199 8192) (glob (ens false inRun)));
        firstBurst 16 (rx (cb 819199 8192) (glob (ens false inRun))) = some (2, cb 819199 8192, 0)
      ∧ (nearTime u (cb 819199 8192).atime < ensTime u ∨ globalOf u num sn = none))
    ∧ (let num := fieldAt (cb 819200 8193).payload 0 4; let sn := fieldAt (cb 819200 8193).payload 4 8;
        let u := toTime 0 (rx (cb 819200 8193) (glob (ens false inRun)));
        firstBurst 16 (rx (cb 819200 8193) (glob (ens false inRun))) = some (2, cb 819200 8193, 0)
      ∧ (nearTime u (cb 819200 8193).atime < ensTime u ∨ globalOf u num sn = none))
    ∧ (let u := toTime 0 (rx (rb 819199 8192) (glob (ens false inRun)));
        firstBurst 17 (rx (rb 819199 8192) (glob (ens false inRun))) = some (2, rb 819199 8192, 0)
      ∧ nearTime u (rb 819199 8192).atime < ensTime u)
    ∧ (let num := fieldAt (rb 819200 8192).payload 0 4; let sn := fieldAt (rb 819200 8192).payload 4 8;
        let u := toTime 0 (rx (rb 819200 8192) (glob (ens false inRun)));
        firstBurst 17 (rx (rb 819200 8192) (glob (ens false inRun))) = some (2, rb 819200 8192, 0)
      ∧ ensTime u ≤ nearTime u (rb 819200 8192).atime ∧ globalOf u num sn ≠ none)
    ∧ (let num := fieldAt (rb 819200 8193).payload 0 4; let sn := fieldAt (rb 819200 8193).payload 4 8;
        let u := toTime 0 (rx (rb 819200 8193) (glob (ens false inRun)));
        firstBurst 17 (rx (rb 819200 8193) (glob (ens false inRun))) = some (2, rb 819200 8193, 0)
      ∧ ensTime u ≤ nearTime u (rb 819200 8193).atime ∧ globalOf u num sn = none)
    ∧ (let u := toTime 0 (rx (bst 21 255 819200 []) (ens false inRun));
        firstBurst 21 (rx (bst 21 255 819200 []) (ens false inRun)) = some (2, bst 21 255 819200 [], 0)
      ∧ ensTime u ≤ nearTime u (bst 21 255 819200 []).atime)
    ∧ (executing 3331 7 (asks (cEx 1) (ens false onEdge)) = some (cEx 1)
      ∧ (formed (asks (cEx 1) (ens false onEdge)) && (asks (cEx 1) (ens false onEdge)).en.leader) = false)
    ∧ (executing 3331 7 (asks (cEx 1) (ens true onEdge)) = some (cEx 1)
      ∧ (formed (asks (cEx 1) (ens true onEdge)) && (asks (cEx 1) (ens true onEdge)).en.leader) = true
      ∧ (∀ (m : ℕ), (asks (cEx 1) (ens true onEdge)).en.members ≤ m → m < 64 → payF (cEx 1) (8 * m) 8 = 0))
    ∧ (let t0 := nearTime (asks (cTm 2097151 1 0) (ens true onEdge)) (payF (cTm 2097151 1 0) 8 8);
        executing 3332 7 (asks (cTm 2097151 1 0) (ens true onEdge)) = some (cTm 2097151 1 0)
      ∧ payF (cTm 2097151 1 0) 1 1 = 0 ∧ payZero (cTm 2097151 1 0) 4 4 = true ∧ payZero (cTm 2097151 1 0) 24 24 = true
      ∧ (payF (cTm 2097151 1 0) 2 2 = 1 ∧ payF (cTm 2097151 1 0) 16 8 = 0 ∨ 2 ≤ payF (cTm 2097151 1 0) 2 2
      ∧ 8192000 ≤ payF (cTm 2097151 1 0) 16 8) ∧ t0 < ↑(ext (asks (cTm 2097151 1 0) (ens true onEdge))) + 2097152)
    ∧ (let t0 := nearTime (asks (cTm 2097152 1 0) (ens true onEdge)) (payF (cTm 2097152 1 0) 8 8);
        executing 3332 7 (asks (cTm 2097152 1 0) (ens true onEdge)) = some (cTm 2097152 1 0)
      ∧ payF (cTm 2097152 1 0) 1 1 = 0 ∧ payZero (cTm 2097152 1 0) 4 4 = true ∧ payZero (cTm 2097152 1 0) 24 24 = true
      ∧ (payF (cTm 2097152 1 0) 2 2 = 1 ∧ payF (cTm 2097152 1 0) 16 8 = 0 ∨ 2 ≤ payF (cTm 2097152 1 0) 2 2
      ∧ 8192000 ≤ payF (cTm 2097152 1 0) 16 8) ∧ ↑(ext (asks (cTm 2097152 1 0) (ens true onEdge))) + 2097152 ≤ t0
      ∧ formed (asks (cTm 2097152 1 0) (ens true onEdge)) = true ∧ (asks (cTm 2097152 1 0) (ens true onEdge)).en.leader = true)
    ∧ (let t0 := nearTime (asks (cTm 2097152 2 8192000) (ens true onEdge)) (payF (cTm 2097152 2 8192000) 8 8);
        executing 3332 7 (asks (cTm 2097152 2 8192000) (ens true onEdge)) = some (cTm 2097152 2 8192000)
      ∧ payF (cTm 2097152 2 8192000) 1 1 = 0 ∧ payZero (cTm 2097152 2 8192000) 4 4 = true
      ∧ payZero (cTm 2097152 2 8192000) 24 24 = true ∧ (payF (cTm 2097152 2 8192000) 2 2 = 1
      ∧ payF (cTm 2097152 2 8192000) 16 8 = 0 ∨ 2 ≤ payF (cTm 2097152 2 8192000) 2 2
      ∧ 8192000 ≤ payF (cTm 2097152 2 8192000) 16 8) ∧ ↑(ext (asks (cTm 2097152 2 8192000) (ens true onEdge))) + 2097152 ≤ t0
      ∧ formed (asks (cTm 2097152 2 8192000) (ens true onEdge)) = true
      ∧ (asks (cTm 2097152 2 8192000) (ens true onEdge)).en.leader = true)
    ∧ (s12.en.tmarks = [(255, 1998848, 1, 8192000, 0)])
    ∧ (s13.en.tmarks = [(255, 1998848, 2, 8192000, 0)])
    ∧ (firstEvent tmTiu.en.events = some (255, 819200)) := by
  refine ⟨⟨?_, rfl⟩, ?_, ?_, ?_, ?_, ?_, ?_, ?_, ?_, ?_, ?_, ?_, ?_, ?_, ?_, ?_, ?_⟩
  all_goals decide +kernel

end Sys2Proof.Tests.Bursts

namespace Sys2Proof.Tests.Rings

open Sys2Proof Sys2Proof.Machine Sys2Proof.Tests

def hiS (h : HI) : State := { onEdge with hi := { h with linkUp := true, serving := true } }
def post : Posted := { bar4 := false, off := 0x24, bytes := zeros 4 }
def stk : State := let s : State := { onEdge with tb := { onEdge.tb with epochWrapped := true, refclkLost := true, lockLost := .replicate 4 true } }; { s with tb := { s.tb with sticky := stickyNow s } }
def ob (l : List Byte) : List (Option Byte) := l.map some
def s1 : State := hiS { posted := .replicate 15 post }
def gap2 : List (Option Byte) := [none, some 5]
def none2 : List (Option Byte) := [none, none]
def none0 : List (Option Byte) := []
def split3 : List (Option Byte) := [some 1, none, some 2]
def s2 : State := hiS { posted := .replicate 16 post }
def s3 : State := hiS {}
def reg (off : Nat) (l : List Byte) (h : HI) : State := let s := hiS h; { s with hi := { s.hi with posted := [{ bar4 := false, off := off, bytes := ob l }] } }
def s4 : State := hiS { posted := [post] }
def s5 : State := reg 0x0030 (fields 8 [(0, 8, 77)]) { cplIrq := 0xFFFFFFFF }
def s6 : State := reg 0x2400 (zeros 4) {}
def s7 : State := reg 0x24 (leBytes 4 (2 ^ 32 - 1)) { cplIrq := 0xFFFFFFFF }
def stkW (v : Nat) (s : State) : State := puts 0x0100 4 v { s with hi := { linkUp := true, serving := true } }
def s8 : State := stkW (2 ^ 32 - 1) { stk with tb := { stk.tb with sticky := .replicate 12 0 } }
def s9 : State := puts 0x38 4 4096 (hiS {})
def s10 : State := puts 0x38 4 64 (hiS {})
def s11 : State := puts 0x38 4 0 (hiS { cmdSize := 64 })
def s12 : State := puts 0x38 4 64 (hiS { cmdSize := 64 })
def s13 : State := puts 0x38 4 32 (hiS {})
def s14 : State := puts 0x44 4 4096 (hiS {})
def s15 : State := puts 0x44 4 0 (hiS { cplSize := 64 })
def nop : Exec := exe 0x0E01 []
def s16 : State := puts 0x44 4 0 (asks nop (hiS { cplSize := 64 }))
def s17 : State := puts 0x44 4 65 (hiS {})
def s18 : State := puts 0x3C 4 63 (hiS { cmdSize := 64, cmdHead := 0xFFFFFFFF, cmdDb := 0xFFFFFFFF })
def s19 : State := puts 0x3C 4 64 (hiS { cmdSize := 64, cmdHead := 0xFFFFFFFF, cmdDb := 0xFFFFFFFF })
def s20 : State := puts 0x3C 4 9 (hiS { cmdSize := 64, cmdHead := 2, cmdDb := 10 })
def s21 : State := puts 0x54 4 5 (hiS { cplSize := 64, cplTail := 5, cplHead := 1 })
def s22 : State := puts 0x54 4 6 (hiS { cplSize := 64, cplTail := 5, cplHead := 1 })
def s23 : State := puts 0x54 4 0 (hiS {})
def l64 : List Byte := fields 64 [(0, 2, 0x0E01), (2, 2, 9), (4, 1, 1)]
def s24 : State := hiS { cmdSize := 64, cmdDb := 1, exec := .replicate 63 nop }
def s25 : State := hiS { cmdSize := 64, cmdDb := 1, exec := .replicate 64 nop }
def s26 : State := hiS { cmdSize := 64, cmdDb := 1, cmdHead := 1 }
def ent (op tag : Nat) : CmdEntry := { (exe op []).entry with tag := BitVec.ofNat 16 tag, hash := 5 }
def fet (c : CmdEntry) (h : HI) : State := hiS { h with fetched := [c] }
def s27 : State := fet (ent 0x0E01 7) { exec := [nop] }
def old : Cpl := { tag := 7, status := 3, opcode := 0x0E01, hash := some 5 }
def s28 : State := fet (ent 0x0E01 7) { history := [old] }
def s29 : State := fet (ent 0x0E03 7) {}
def s30 : State := fet (ent 0x0E01 7) {}
def s31 : State := fet { ent 0x0E01 9 with fence := true } { exec := [nop] }
def x32 : CmdEntry := { ent 0x0E01 9 with fence := true }
def s33 : State := asks (exe 0x0E02 []) { onEdge with bt := { fwVer := 0x000300050007, runSlot := 1, serialReg := 77 } }
def lastWr : State := hiS { cplSize := 64, cpls := [old], cplTail := 127, cplHead := 64, cplBase := 0x1000, exec := [nop] }
def s34 : State := hiS { cplSize := 64, cpls := [old], cplTail := 127, cplHead := 64, cplBase := 0x1000, exec := [nop] }
def s35 : State := hiS { cplSize := 64, cpls := [old], cplTail := 128, cplHead := 64, cplBase := 0x1000, exec := [nop] }
def s36 : State := hiS { cplIrq := 0x803F0001, unsig := 1, unsigAt := 8192 }
def s37 : State := hiS { cplIrq := 0x803F00FF, unsig := 1, unsigAt := 8192, msixMask := 0 }
def clc : Exec := exe 0x0901 [(0, 1, 2), (4, 4, 100), (8, 8, 5)]
def sqc : Exec := exe 0x0702 [(0, 1, 1)]
def sql : Exec := { exe 0x0701 [] with ind := fields 64 [(8, 8, 77), (16, 4, 3), (24, 4, 99)] }
def fin (op : Nat) : Cpl := { tag := 7, status := 0, opcode := BitVec.ofNat 16 op, wasExec := true, hash := some 5 }
def tg7 (e : Exec) : Exec := { e with entry := { e.entry with tag := 7 } }
def s38 : State := hiS { cplSize := 64, cpls := [fin 0x0701], cplTail := 0, cplHead := 0, exec := [tg7 sql] }

/-- The hypotheses of `postedWritesAndRegisters` are met, clause by clause. -/
theorem witness_postedWritesAndRegisters :
    (let w := waiting s1.hi.posted; s1.hi.serving = true ∧ s1.hi.linkUp = true
      ∧ (65532 + (ob (zeros 4)).length ≤ if false = true then 2 ^ 24 else 2 ^ 16)
      ∧ (false = true ∨ writeOk 65532 (ob (zeros 4)) = true) ∧ w.length < 16)
    ∧ (let w := waiting s1.hi.posted; s1.hi.serving = true ∧ s1.hi.linkUp = true
      ∧ (16777212 + gap2.length ≤ if true = true then 2 ^ 24 else 2 ^ 16) ∧ (true = true ∨ writeOk 16777212 gap2 = true)
      ∧ w.length < 16)
    ∧ (let w := waiting s2.hi.posted; s2.hi.serving = true ∧ s2.hi.linkUp = true
      ∧ (36 + (ob (zeros 4)).length ≤ if false = true then 2 ^ 24 else 2 ^ 16)
      ∧ (false = true ∨ writeOk 36 (ob (zeros 4)) = true) ∧ 16 ≤ w.length)
    ∧ (s3.hi.serving = true ∧ s3.hi.linkUp = true ∧ (38 + none2.length ≤ if false = true then 2 ^ 24 else 2 ^ 16)
      ∧ (∀ b ∈ none2, b = none))
    ∧ (s3.hi.serving = true ∧ s3.hi.linkUp = true ∧ (38 + none0.length ≤ if false = true then 2 ^ 24 else 2 ^ 16)
      ∧ (∀ b ∈ none0, b = none))
    ∧ (s3.hi.serving = true ∧ s3.hi.linkUp = true ∧ (38 + split3.length ≤ if false = true then 2 ^ 24 else 2 ^ 16)
      ∧ split3[0]? = some (some 1) ∧ split3[2]? = some (some 2) ∧ (38 + 0) / 8 ≠ (38 + 2) / 8)
    ∧ (s3.hi.serving = true ∧ s3.hi.linkUp = true ∧ (38 + (ob (zeros 4)).length ≤ if false = true then 2 ^ 24 else 2 ^ 16)
      ∧ false = false ∧ writeOk 38 (ob (zeros 4)) = false)
    ∧ ((onEdge.hi.serving = false ∨ onEdge.hi.linkUp = false ∨ (if false = true then 2 ^ 24 else 2 ^ 16) < 36 + (ob (zeros 4)).length))
    ∧ ((s3.hi.serving = false ∨ s3.hi.linkUp = false ∨ (if false = true then 2 ^ 24 else 2 ^ 16) < 65533 + (ob (zeros 4)).length))
    ∧ (frontWrite s4 ≠ some { bar4 := false, off := 40, bytes := ob (zeros 4) })
    ∧ (frontWrite s3 ≠ some { bar4 := false, off := 40, bytes := ob (zeros 4) })
    ∧ (frontWrite s5 = some { bar4 := false, off := 48, bytes := ob (fields 8 [(0, 8, 77)]) })
    ∧ (frontWrite s6 = some { bar4 := false, off := 9216, bytes := ob (zeros 4) })
    ∧ (let l := List.map some (leBytes 4 (2 ^ 32 - 1)); 2 ^ 32 - 1 < 2 ^ 32
      ∧ frontWrite s7 = some { bar4 := false, off := 36, bytes := l })
    ∧ (let l := List.map some (leBytes 4 (2 ^ 32 - 1)); 2 ^ 32 - 1 < 2 ^ 32
      ∧ frontWrite (stkW (2 ^ 32 - 1) stk) = some { bar4 := false, off := 256, bytes := l })
    ∧ (let l := List.map some (leBytes 4 (2 ^ 32 - 1)); 2 ^ 32 - 1 < 2 ^ 32
      ∧ frontWrite s8 = some { bar4 := false, off := 256, bytes := l }) := by
  refine ⟨?_, ?_, ?_, ?_, ?_, ?_, ?_, ?_, ?_, ?_, ?_, ?_, ?_, ?_, ?_, ?_⟩ <;> decide +kernel

/-- The hypotheses of `ringsAndDoorbell` are met, clause by clause. -/
theorem witness_ringsAndDoorbell :
    ((written 56 4 onEdge.hi.cmdSize (fun x => x == (64#32).toNat) onEdge = false))
    ∧ ((written 60 4 0 (fun x => x == (2#32).toNat) (puts 60 4 1 onEdge) = false))
    ∧ ((written 68 4 (puts 68 4 64 onEdge).hi.cplSize (fun x => x == (128#32).toNat) (puts 68 4 64 onEdge) = false))
    ∧ ((written 84 4 0 (fun x => x == (1#32).toNat) onEdge = false))
    ∧ (let u := popWrite 56 4 s9; let good := (4096#32).toNat ∈ [64, 128, 256, 512, 1024, 2048, 4096];
        (written 56 4 s9.hi.cmdSize (fun x => x == (4096#32).toNat) s9 = true)
      ∧ u.hi.cmdSize = 0 ∧ good)
    ∧ (let u := popWrite 56 4 s10; let good := (64#32).toNat ∈ [64, 128, 256, 512, 1024, 2048, 4096];
        (written 56 4 s10.hi.cmdSize (fun x => x == (64#32).toNat) s10 = true)
      ∧ u.hi.cmdSize = 0 ∧ good)
    ∧ (let u := popWrite 56 4 s11; (written 56 4 s11.hi.cmdSize (fun x => x == (0#32).toNat) s11 = true) ∧ u.hi.cmdSize ≠ 0
      ∧ 0#32 = 0)
    ∧ (let u := popWrite 56 4 s12; (written 56 4 s12.hi.cmdSize (fun x => x == (64#32).toNat) s12 = true)
      ∧ (64#32).toNat % 8192 ≠ 0 ∧ (u.hi.cmdSize ≠ 0 ∨ (64#32).toNat % 8192 ∉ [64, 128, 256, 512, 1024, 2048, 4096]))
    ∧ (let u := popWrite 56 4 s13; (written 56 4 s13.hi.cmdSize (fun x => x == (32#32).toNat) s13 = true)
      ∧ (32#32).toNat % 8192 ≠ 0 ∧ (u.hi.cmdSize ≠ 0 ∨ (32#32).toNat % 8192 ∉ [64, 128, 256, 512, 1024, 2048, 4096]))
    ∧ (let u := popWrite 68 4 s14; (written 68 4 s14.hi.cplSize (fun x => x == (4096#32).toNat) s14 = true) ∧ u.hi.cplSize = 0
      ∧ (4096#32).toNat ∈ [64, 128, 256, 512, 1024, 2048, 4096])
    ∧ (let u := popWrite 68 4 s15; (written 68 4 s15.hi.cplSize (fun x => x == (0#32).toNat) s15 = true) ∧ 0#32 = 0
      ∧ u.hi.exec = [] ∧ u.hi.cpls = [])
    ∧ (let u := popWrite 68 4 s16; (written 68 4 s16.hi.cplSize (fun x => x == (0#32).toNat) s16 = true) ∧ (0#32 = 0
      ∧ (u.hi.exec ≠ [] ∨ u.hi.cpls ≠ []) ∨ (0#32).toNat % 8192 ≠ 0
      ∧ (u.hi.cplSize ≠ 0 ∨ (0#32).toNat % 8192 ∉ [64, 128, 256, 512, 1024, 2048, 4096])))
    ∧ (let u := popWrite 68 4 s17; (written 68 4 s17.hi.cplSize (fun x => x == (65#32).toNat) s17 = true) ∧ (65#32 = 0
      ∧ (u.hi.exec ≠ [] ∨ u.hi.cpls ≠ []) ∨ (65#32).toNat % 8192 ≠ 0
      ∧ (u.hi.cplSize ≠ 0 ∨ (65#32).toNat % 8192 ∉ [64, 128, 256, 512, 1024, 2048, 4096])))
    ∧ (let u := bar2Drain (popWrite 60 4 s18); let good := (u.hi.cmdSize ≠ 0
      ∧ BitVec.toNat (63#32 - u.hi.cmdHead) ≤ u.hi.cmdSize
      ∧ BitVec.toNat (63#32 - u.hi.cmdDb) < 2 ^ 31); (written 60 4 0 (fun x => x == (63#32).toNat) s18 = true) ∧ good)
    ∧ (let u := bar2Drain (popWrite 60 4 s19); let good := (u.hi.cmdSize ≠ 0
      ∧ BitVec.toNat (64#32 - u.hi.cmdHead) ≤ u.hi.cmdSize
      ∧ BitVec.toNat (64#32 - u.hi.cmdDb) < 2 ^ 31); (written 60 4 0 (fun x => x == (64#32).toNat) s19 = true) ∧ ¬good)
    ∧ (let u := bar2Drain (popWrite 60 4 s20); let good := (u.hi.cmdSize ≠ 0 ∧ BitVec.toNat (9#32 - u.hi.cmdHead) ≤ u.hi.cmdSize
      ∧ BitVec.toNat (9#32 - u.hi.cmdDb) < 2 ^ 31); (written 60 4 0 (fun x => x == (9#32).toNat) s20 = true) ∧ ¬good)
    ∧ (let u := popWrite 84 4 s21; let good := (u.hi.cplSize ≠ 0
      ∧ BitVec.toNat (u.hi.cplTail - 5#32) ≤ BitVec.toNat (u.hi.cplTail - u.hi.cplHead));
        (written 84 4 0 (fun x => x == (5#32).toNat) s21 = true)
      ∧ good)
    ∧ (let u := popWrite 84 4 s22; let good := (u.hi.cplSize ≠ 0
      ∧ BitVec.toNat (u.hi.cplTail - 6#32) ≤ BitVec.toNat (u.hi.cplTail - u.hi.cplHead));
        (written 84 4 0 (fun x => x == (6#32).toNat) s22 = true)
      ∧ ¬good)
    ∧ (let u := popWrite 84 4 s23; let good := (u.hi.cplSize ≠ 0
      ∧ BitVec.toNat (u.hi.cplTail - 0#32) ≤ BitVec.toNat (u.hi.cplTail - u.hi.cplHead));
        (written 84 4 0 (fun x => x == (0#32).toNat) s23 = true)
      ∧ ¬good)
    ∧ (let can := (s24.bt.fwReady = true ∧ s24.hi.cmdSize ≠ 0 ∧ s24.hi.cmdHead ≠ s24.hi.cmdDb ∧ execCount s24 < 64
      ∧ s24.mg.pstate ≠ 4); l64.length = 64 ∧ can)
    ∧ (let can := (s25.bt.fwReady = true ∧ s25.hi.cmdSize ≠ 0 ∧ s25.hi.cmdHead ≠ s25.hi.cmdDb ∧ execCount s25 < 64
      ∧ s25.mg.pstate ≠ 4); l64.length = 64 ∧ ¬can)
    ∧ (let can := (s26.bt.fwReady = true ∧ s26.hi.cmdSize ≠ 0 ∧ s26.hi.cmdHead ≠ s26.hi.cmdDb ∧ execCount s26 < 64
      ∧ s26.mg.pstate ≠ 4); l64.length = 64 ∧ ¬can) := by
  refine ⟨?_, ?_, ?_, ?_, ?_, ?_, ?_, ?_, ?_, ?_, ?_, ?_, ?_, ?_, ?_, ?_, ?_, ?_, ?_, ?_, ?_, ?_⟩ <;> decide +kernel

/-- The hypotheses of `commandsStartAndComplete` are met, clause by clause. -/
theorem witness_commandsStartAndComplete :
    (s27.hi.fetched = [ent 3585 7] ∧ mustWait s27 (ent 3585 7) = false ∧ tagBusy s27 (ent 3585 7).tag = true)
    ∧ (s28.hi.fetched = [ent 3585 7] ∧ mustWait s28 (ent 3585 7) = false ∧ tagBusy s28 (ent 3585 7).tag = false
      ∧ replayOf s28 (ent 3585 7) = some old)
    ∧ (s29.hi.fetched = [ent 3587 7] ∧ mustWait s29 (ent 3587 7) = false ∧ tagBusy s29 (ent 3587 7).tag = false
      ∧ replayOf s29 (ent 3587 7) = none ∧ payKind (BitVec.toNat (ent 3587 7).opcode) = none)
    ∧ (s30.hi.fetched = [ent 3585 7] ∧ mustWait s30 (ent 3585 7) = false ∧ tagBusy s30 (ent 3585 7).tag = false
      ∧ replayOf s30 (ent 3585 7) = none ∧ payKind (BitVec.toNat (ent 3585 7).opcode) = some PayKind.inl
      ∧ headerBad PayKind.inl (ent 3585 7) = false ∧ modeRefusal s30 (ent 3585 7) = none)
    ∧ (s31.hi.fetched = [x32] ∧ mustWait s31 x32 = true)
    ∧ (executing 3585 7 (asks nop onEdge) = some nop)
    ∧ (executing 3586 7 s33 = some (exe 3586 []))
    ∧ (lastWr.hi.cpls = [old] ∧ Memory.wf 0 lastWr.hostMem = true)
    ∧ (s34.hi.cpls = [old] ∧ Memory.wf 0 s34.hostMem = true ∧ cplRoom s34 = true ∧ s34.mg.smbWait = none)
    ∧ (s35.hi.cpls = [old] ∧ Memory.wf 0 s35.hostMem = true ∧ cplRoom s35 = false ∧ s35.mg.smbWait = none)
    ∧ (BitVec.getLsbD s36.hi.cplIrq 31 = true ∧ BitVec.toNat s36.hi.cplIrq % 256 ≠ 0 ∧ s36.hi.unsig ≠ 0)
    ∧ (BitVec.getLsbD s37.hi.cplIrq 31 = true ∧ BitVec.toNat s37.hi.cplIrq % 256 ≠ 0 ∧ s37.hi.unsig ≠ 0)
    ∧ (s38.hi.cpls = [fin 1793] ∧ Memory.wf 0 s38.hostMem = true ∧ cplRoom s38 = true ∧ s38.mg.smbWait = none) := by
  refine ⟨?_, ?_, ?_, ?_, ?_, ?_, ?_, ?_, ?_, ?_, ?_, ?_, ?_⟩ <;> decide +kernel

end Sys2Proof.Tests.Rings

namespace Sys2Proof.Tests.Sensors

open Sys2Proof Sys2Proof.Machine Sys2Proof.Tests

def sen (k : Nat) (f : MG → MG) (s : State) : State := { s with mg := f { s.mg with slot := k } }
def s1 : State := sen 63 (fun g => { g with temps := .replicate 64 0xFF00 }) onEdge
def s2 : State := sen 39 (fun g => { g with outRun := .replicate 24 1, pstate := 2 }) inRun
def s3 : State := puts 0x0828 4 0xFFFFFF07 { onEdge with mg := { ctrl := 7 } }
def s4 : State := { onEdge with mg := { muxOld := .replicate 3 (some 5), muxAt := .replicate 3 81920 } }
def cSn (a : Nat) : Exec := exe 0x0F03 [(0, 8, a)]
def s5 : State := asks (cSn 0x1008) (sen 3 (fun g => { g with frame := 77, temps := .replicate 64 0x123 }) onEdge)
def conted : State := { inRun with mg := { inRun.mg with contained := true, contain := BitVec.ofNat 64 (2 ^ 63 + 255 * 2 ^ 48 + 5) } }
def s6 : State := { conted with mg := { conted.mg with contain := BitVec.ofNat 64 (2 ^ 63 + 254 * 2 ^ 48 + 5), fatal := some ⟨{ code := 1, sev := 3, run := true, evalid := true, member := 0, seq := 0, epoch := 0, rtc := 0, wrap := 0, data := [] }, false, false⟩ } }

/-- The hypotheses of `sensorsAndTrips` are met, clause by clause. -/
theorem witness_sensorsAndTrips :
    (let k := (sen 62 id onEdge).mg.slot; k < 63)
    ∧ (let k := (sen 63 id onEdge).mg.slot; k = 63)
    ∧ (let k := s1.mg.slot; k = 63)
    ∧ (let k := (sen 31 id onEdge).mg.slot; k < 32 ∧ (sen 31 id onEdge).mg.thermWarn = false ∧ (1679#16).toInt < 1680)
    ∧ (let k := (sen 31 id onEdge).mg.slot; k < 32 ∧ (sen 31 id onEdge).mg.thermWarn = false ∧ (32768#16).toInt < 1680)
    ∧ (let k := (sen 31 id onEdge).mg.slot; k < 32 ∧ (sen 31 id onEdge).mg.thermWarn = false ∧ 1680 ≤ (1680#16).toInt)
    ∧ (let k := (sen 32 id inRun).mg.slot; 32 ≤ k ∧ k < 36 ∧ 1680 ≤ (1680#16).toInt)
    ∧ (let k := (sen 35 id inRun).mg.slot; 32 ≤ k ∧ k < 36 ∧ 1680 ≤ (32767#16).toInt)
    ∧ (let k := (sen 39 id onEdge).mg.slot; k = 36 + ↑3 ∧ ↑3 < 4 ∧ ((712#16).toNat < 713 ∨ 788 ≤ (712#16).toNat)
      ∧ (sen 39 id onEdge).mg.outRun[3] = 0)
    ∧ (let k := (sen 36 id onEdge).mg.slot; k = 36 + ↑0 ∧ ↑0 < 4 ∧ ((788#16).toNat < 713 ∨ 788 ≤ (788#16).toNat)
      ∧ (sen 36 id onEdge).mg.outRun[0] = 0)
    ∧ (let k := s2.mg.slot; k = 36 + ↑3 ∧ ↑3 < 4 ∧ ((788#16).toNat < 713 ∨ 788 ≤ (788#16).toNat) ∧ s2.mg.outRun[3] = 1
      ∧ s2.mg.railOut[3] = false ∧ s2.mg.pstate ≤ 2)
    ∧ ((sen 48 id ready).mg.slot = 48 + ↑0 ∧ bankInRange (256#16).toNat = false ∧ (sen 48 id ready).pf.bankPark[0] = false)
    ∧ ((sen 55 id inRun).mg.slot = 48 + ↑7 ∧ bankInRange (65535#16).toNat = false ∧ (sen 55 id inRun).pf.bankPark[7] = false)
    ∧ (inRun.mg.contained = false)
    ∧ (Wake.timer ≠ Wake.smbus)
    ∧ (Wake.doorbell ≠ Wake.smbus)
    ∧ ((written 2088 4 onEdge.mg.ctrl.toNat (fun x => x == (4294967295#32).toNat) onEdge = false))
    ∧ ((written 2088 4 (puts 2088 4 4294967295 onEdge).mg.ctrl.toNat (fun x => x == (4294967295#32).toNat) (puts 2088 4 4294967295 onEdge) = true))
    ∧ ((written 2088 4 s3.mg.ctrl.toNat (fun x => x == (4294967047#32).toNat) s3 = true))
    ∧ (s4.mg.muxOld[2] ≠ none ∧ (∀ (j : Fin 3), s4.mg.muxOld[j] ≠ none → s4.mg.muxAt[2] ≤ s4.mg.muxAt[j]))
    ∧ (let a := payF (cSn 4104) 0 8; executing 3843 7 s5 = some (cSn 4104) ∧ payZero (cSn 4104) 8 40 = true
      ∧ Memory.wf 0 s5.hostMem = true ∧ a % 8 = 0)
    ∧ (let a := payF (cSn 4100) 0 8; executing 3843 7 (asks (cSn 4100) onEdge) = some (cSn 4100)
      ∧ payZero (cSn 4100) 8 40 = true ∧ Memory.wf 0 (asks (cSn 4100) onEdge).hostMem = true ∧ a % 8 ≠ 0) := by
  refine ⟨?_, ?_, ?_, ?_, ?_, ?_, ?_, ?_, ?_, ?_, ?_, ?_, ?_, ?_, ?_, ?_, ?_, ?_, ?_, ?_, ?_, ?_⟩ <;> decide +kernel

/-- The hypotheses of `furtherCauseIsCounted` are met, clause by clause. -/
theorem witness_furtherCauseIsCounted :
    (conted.mg.contained = true ∧ (evQueue 3 conted.mg).length < 64)
    ∧ (s6.mg.contained = true ∧ s6.mg.fatal.isSome = true ∧ s6.mg.second = none ∧ s6.mg.double = false) := by
  refine ⟨?_, ?_⟩ <;> decide +kernel

/-- The hypotheses of `containmentMakesSafe` are met, clause by clause. -/
theorem witness_containmentMakesSafe :
    (inRun.mg.contained = false ∧ 127 < 128 ∧ running inRun = true)
    ∧ (onEdge.mg.contained = false ∧ 127 < 128 ∧ running onEdge = false) := by
  refine ⟨?_, ?_⟩ <;> decide +kernel

end Sys2Proof.Tests.Sensors

namespace Sys2Proof.Tests.Logs

open Sys2Proof Sys2Proof.Machine Sys2Proof.Tests

def rec (sev : Nat) : EventRec := { code := 0x0E01, sev := sev, run := false, evalid := true, member := 0, seq := 3, epoch := 5, rtc := 7, wrap := 0, data := [⟨1, 5⟩] }
def mgS (f : MG → MG) : State := { onEdge with mg := f onEdge.mg }
def z1 : State := mgS fun g => { g with queues := .replicate 4 (.replicate 64 (rec 2)), lost := .replicate 4 0xFFFF }
def q (sev : Nat) : State := mgS fun g => { g with queues := vset g.queues (Fin.ofNat 4 sev) [rec sev, rec sev], log := .replicate 4 (rec 1), persisted := 255 }
def zd : State := mgS fun g => { g with queues := vset g.queues 3 [{ rec 3 with inDouble := true }, rec 3], double := true }
def x1 : EventRec := { rec 3 with inDouble := true }
def zf : State := mgS fun g => { g with queues := vset g.queues 3 [rec 3], double := true }
def z2 : State := mgS fun g => { g with toPersist := [rec 2], persisted := 255 }
def ft (c : Bool) : Fatal := { event := rec 3, copied := c, snapped := false }
def z3 : State := mgS fun g => { g with fatal := some (ft false) }
def z4 : State := mgS fun g => { g with fatal := some (ft true) }
def z5 : State := mgS fun g => { g with fatal := some (ft true), second := some 0x0F01 }
def cLg (n : Nat) : Exec := exe 0x0F02 [(0, 8, 0x1000), (8, 1, 1), (10, 2, n), (16, 8, 0)]
def z6 : State := asks (cLg 4096) (mgS fun g => { g with log := .replicate 4 (rec 1) })
def z7 : State := asks (cLg 1) (mgS fun g => { g with log := .replicate 4 (rec 1) })
def cRr : Exec := exe 0x0F04 []
def cRl : Exec := { cRr with idle := true }
def z8 : State := asks cRl (mgS fun g => { g with contained := true, temps := .replicate 64 0x0720 })
def z9 : State := asks cRl (mgS fun g => { g with contained := true, temps := .replicate 64 0x0100 })
def cCh : Exec := exe 0x0F05 []
def cTk : Exec := exeInd 0x0F05 128 []
def z10 : State := asks cTk (mgS fun g => { g with challenge := some 5 })
def z11 : State := mgS fun g => { g with log := [rec 2] }
def s2 : State := { onEdge with mg := { onEdge.mg with pstate := 1 } }
def s3 : State := { onEdge with mg := { onEdge.mg with pstate := 2 } }
def s4 : State := { onEdge with mg := { onEdge.mg with pstate := 3 }, bt := { onEdge.bt with recovery := true } }

/-- The hypotheses of `eventLogKept` are met, clause by clause. -/
theorem witness_eventLogKept :
    (let q := evQueue (severity 3585) onEdge.mg; q.length < 64)
    ∧ (let q := evQueue (severity 3585) z1.mg; 64 ≤ q.length ∧ z1.mg.lost[Fin.ofNat 4 (severity 3585)] ≠ 0)
    ∧ ((q 0).mg.queues[0] = [rec 0, rec 0] ∧ (∀ (j : Fin 4), 0 < j → (q 0).mg.queues[j] = []) ∧ (q 0).mg.log.length < 4096
      ∧ (q 0).mg.persisted < 256 ∧ (rec 0).sev ≤ 1)
    ∧ ((q 1).mg.queues[1] = [rec 1, rec 1] ∧ (∀ (j : Fin 4), 1 < j → (q 1).mg.queues[j] = []) ∧ (q 1).mg.log.length < 4096
      ∧ (q 1).mg.persisted < 256 ∧ (rec 1).sev ≤ 1)
    ∧ ((q 2).mg.queues[2] = [rec 2, rec 2] ∧ (∀ (j : Fin 4), 2 < j → (q 2).mg.queues[j] = []) ∧ (q 2).mg.log.length < 4096
      ∧ (q 2).mg.persisted < 256 ∧ (rec 2).sev = 2)
    ∧ ((q 3).mg.queues[3] = [rec 3, rec 3] ∧ (∀ (j : Fin 4), 3 < j → (q 3).mg.queues[j] = []) ∧ (q 3).mg.log.length < 4096
      ∧ (q 3).mg.persisted < 256 ∧ (rec 3).sev = 3 ∧ (rec 3).inDouble = false ∧ (q 3).mg.fatal = none ∧ (q 3).mg.fatalTodo = []
      ∧ (q 3).mg.double = false)
    ∧ (zd.mg.queues[3] = [x1, rec 3] ∧ (∀ (j : Fin 4), 3 < j → zd.mg.queues[j] = []) ∧ zd.mg.log.length < 4096
      ∧ zd.mg.persisted < 256 ∧ x1.sev = 3 ∧ x1.inDouble = true)
    ∧ (zf.mg.queues[3] = [rec 3] ∧ (∀ (j : Fin 4), 3 < j → zf.mg.queues[j] = []) ∧ zf.mg.log.length < 4096
      ∧ zf.mg.persisted < 256 ∧ (rec 3).sev = 3 ∧ (rec 3).inDouble = false ∧ zf.mg.double = true)
    ∧ (z2.mg.toPersist = [rec 2] ∧ z2.mg.persisted < 256 ∧ z2.mg.fatal = none ∧ Memory.wf 255 z2.bt.flash = true)
    ∧ (z3.mg.fatal = some (ft false) ∧ (ft false).snapped = false ∧ (ft false).copied = false)
    ∧ (z4.mg.fatal = some (ft true) ∧ (ft true).snapped = false ∧ (ft true).copied = true ∧ z4.mg.second = none
      ∧ z4.mg.fatalTodo = [])
    ∧ (z5.mg.fatal = some (ft true) ∧ (ft true).snapped = false ∧ (ft true).copied = true ∧ z5.mg.second = some 3841)
    ∧ (executing 3842 7 z6 = some (cLg 4096) ∧ payF (cLg 4096) 0 8 % 64 = 0 ∧ payF (cLg 4096) 8 1 ≤ 1 ∧ payF (cLg 4096) 9 1 = 0
      ∧ 1 ≤ payF (cLg 4096) 10 2 ∧ payF (cLg 4096) 10 2 ≤ 4096 ∧ payZero (cLg 4096) 12 4 = true
      ∧ payZero (cLg 4096) 24 24 = true ∧ Memory.wf 0 z6.hostMem = true)
    ∧ (executing 3842 7 z7 = some (cLg 1) ∧ payF (cLg 1) 0 8 % 64 = 0 ∧ payF (cLg 1) 8 1 ≤ 1 ∧ payF (cLg 1) 9 1 = 0
      ∧ 1 ≤ payF (cLg 1) 10 2 ∧ payF (cLg 1) 10 2 ≤ 4096 ∧ payZero (cLg 1) 12 4 = true ∧ payZero (cLg 1) 24 24 = true
      ∧ Memory.wf 0 z7.hostMem = true)
    ∧ (executing 3844 7 (asks cRr inRun) = some cRr ∧ cRr.idle = false)
    ∧ (executing 3844 7 z8 = some cRl ∧ cRl.idle = true
      ∧ (stillHot z8 || railStillOut z8 || z8.en.state == EnState.discord) = true)
    ∧ (executing 3844 7 z9 = some cRl ∧ cRl.idle = true ∧ (stillHot z9 || railStillOut z9) = false
      ∧ z9.en.state ≠ EnState.discord)
    ∧ (executing 3844 7 (asks cRl onEdge) = some cRl ∧ cRl.idle = true
      ∧ (stillHot (asks cRl onEdge) || railStillOut (asks cRl onEdge)) = false ∧ (asks cRl onEdge).en.state ≠ EnState.discord) := by
  refine ⟨?_, ?_, ?_, ?_, ?_, ?_, ?_, ?_, ?_, ?_, ?_, ?_, ?_, ?_, ?_, ?_, ?_, ?_⟩ <;> decide +kernel

/-- The hypotheses of `debugAndSmbus` are met, clause by clause. -/
theorem witness_debugAndSmbus :
    (executing 3845 7 (asks cCh onEdge) = some cCh ∧ cCh.entry.indirect = false ∧ payZero cCh 0 48 = true)
    ∧ (executing 3845 7 z10 = some cTk ∧ cTk.entry.indirect = true)
    ∧ (lastError z11 = some (rec 2))
    ∧ (lastError onEdge = none)
    ∧ (onEdge.mg.pwr = none ∧ (∀ e ∈ onEdge.hi.exec, e.entry.opcode ≠ 3841#16) ∧ ((5#8).toNat = 0 ∨ 4 < (5#8).toNat))
    ∧ (onEdge.mg.pwr = none ∧ (∀ e ∈ onEdge.hi.exec, e.entry.opcode ≠ 3841#16) ∧ ((0#8).toNat = 0 ∨ 4 < (0#8).toNat))
    ∧ (inRun.mg.pwr = none ∧ (∀ e ∈ inRun.hi.exec, e.entry.opcode ≠ 3841#16) ∧ 1 ≤ (4#8).toNat ∧ (4#8).toNat ≤ 4
      ∧ running inRun = true)
    ∧ (s2.mg.pwr = none ∧ (∀ e ∈ s2.hi.exec, e.entry.opcode ≠ 3841#16) ∧ 1 ≤ (2#8).toNat ∧ (2#8).toNat ≤ 4 ∧ running s2 = false
      ∧ s2.bt.recovery = false ∧ (formed s2 = true → (2#8).toNat = 1) ∧ ((2#8).toNat = 1 → p1Blocked s2 = false)
      ∧ execCount s2 = 0 ∧ (2#8).toNat ≠ s2.mg.pstate)
    ∧ ((asks cRr onEdge).mg.pwr = none ∧ (∀ e ∈ (asks cRr onEdge).hi.exec, e.entry.opcode ≠ 3841#16) ∧ 1 ≤ (4#8).toNat
      ∧ (4#8).toNat ≤ 4 ∧ running (asks cRr onEdge) = false ∧ (asks cRr onEdge).bt.recovery = false
      ∧ (formed (asks cRr onEdge) = true → (4#8).toNat = 1) ∧ ((4#8).toNat = 1 → p1Blocked (asks cRr onEdge) = false)
      ∧ execCount (asks cRr onEdge) ≠ 0)
    ∧ (s3.mg.pwr = none ∧ (∀ e ∈ s3.hi.exec, e.entry.opcode ≠ 3841#16) ∧ 1 ≤ (2#8).toNat ∧ (2#8).toNat ≤ 4 ∧ running s3 = false
      ∧ s3.bt.recovery = false ∧ (formed s3 = true → (2#8).toNat = 1) ∧ ((2#8).toNat = 1 → p1Blocked s3 = false)
      ∧ execCount s3 = 0 ∧ (2#8).toNat = s3.mg.pstate)
    ∧ (s4.mg.pwr = none ∧ (∀ e ∈ s4.hi.exec, e.entry.opcode ≠ 3841#16) ∧ 1 ≤ (1#8).toNat ∧ (1#8).toNat ≤ 4 ∧ running s4 = false
      ∧ s4.bt.recovery = true) := by
  refine ⟨?_, ?_, ?_, ?_, ?_, ?_, ?_, ?_, ?_, ?_, ?_⟩ <;> decide +kernel

end Sys2Proof.Tests.Logs

namespace Sys2Proof.Tests.Updates

open Sys2Proof Sys2Proof.Machine Sys2Proof.Tests

def stg (k off n : Nat) : Exec := exeInd 0x1001 (16 + n) [(0, 1, k), (4, 4, off), (8, 4, n), (16, 1, 0x5A)]
def fw (op k : Nat) : Exec := exe op [(0, 1, k)]
def hdr : Mem := [(0x1F0000, 4, 0x4B594657), (0x1F0004, 2, 1), (0x1F0006, 2, 4), (0x1F0008, 2, 3), (0x1F000E, 1, 64), (0x1F0010, 4, 4096)].foldl (fun m x => memWrite 0xFF m x.1 (leBytes x.2.1 x.2.2)) (memWrite 0xFF [] 0x1F0000 (zeros 256))
def flashed (f : BT → BT) (m : Mem) : State := { onEdge with bt := f { onEdge.bt with flash := m } }
def s1 : State := asks (fw 0x1003 1) (flashed (fun b => { b with runSlot := 1, trial := true }) hdr)
def s2 : State := asks (fw 0x1003 1) (flashed id (memWrite 0xFF [] 0 (recBytes { flags := 2 })))
def s3 : State := asks (exe 0x1004 []) (flashed (fun b => { b with fuses := 64 }) hdr)
def sav (a : Nat) : Exec := exe 0x1005 [(0, 8, a)]
def ld (n : Nat) : Exec := exe 0x1006 [(0, 8, 0x1000), (12, 4, n)]
def lde : Exec := { ld 1230400 with ind := fields 520 [(6, 2, 5), (512, 4, 77)] }
def ldS : State := let s := asks lde onEdge; { s with hi := { s.hi with cpls := [cplOf lde 0 []], cplSize := 64, linkUp := true, serving := true } }
def chk : Exec := exeInd 0x1007 72 [(56, 8, 2 ^ 63 + 1), (64, 8, 0x1000)]
def cald (s : State) : State := { s with bt := { s.bt with cal := 1 } }
def fourth (s : State) : State := { s with pins := vmap (fun p => { p with ctl := { p.ctl with func := 4 } }) s.pins }
def askAdc (s : State) : State := { s with pf := { s.pf with adcs := vmap (fun a => { a with queue := [{ src := some 7, pin := 0, settle := 0, log2n := 0, arrived := 0 }] }) s.pf.adcs } }
def busyAdc (s : State) : State := { s with pf := { s.pf with adcs := vmap (fun a => { a with cur := some { req := { src := none, pin := 0, settle := 0, log2n := 0, arrived := 0 } } }) s.pf.adcs } }
def chl : Exec := { chk with left := [0, 63] }

/-- The hypotheses of `firmwareUpdates` are met, clause by clause. -/
theorem witness_firmwareUpdates :
    (let k := payF (stg 0 0 1) 0 1; let off := payF (stg 0 0 1) 4 4; let n := payF (stg 0 0 1) 8 4;
        executing 4097 7 (asks (stg 0 0 1) onEdge) = some (stg 0 0 1)
      ∧ fwTurn (stg 0 0 1).entry.tag (asks (stg 0 0 1) onEdge) = true ∧ k ≤ 1 ∧ off % 4096 = 0 ∧ 1 ≤ n ∧ n ≤ 1048560
      ∧ indLen (stg 0 0 1).entry = 16 + n ∧ (stg 0 0 1).ind.length = 16 + n ∧ payZero (stg 0 0 1) 1 3 = true
      ∧ payZero (stg 0 0 1) 12 4 = true ∧ off + n ≤ 1835008 ∧ Memory.wf 255 (asks (stg 0 0 1) onEdge).bt.flash = true
      ∧ slotRuns (asks (stg 0 0 1) onEdge) k = true)
    ∧ (let k := payF (stg 1 1830912 4096) 0 1; let off := payF (stg 1 1830912 4096) 4 4; let n := payF (stg 1 1830912 4096) 8 4;
        executing 4097 7 (asks (stg 1 1830912 4096) onEdge) = some (stg 1 1830912 4096)
      ∧ fwTurn (stg 1 1830912 4096).entry.tag (asks (stg 1 1830912 4096) onEdge) = true ∧ k ≤ 1 ∧ off % 4096 = 0 ∧ 1 ≤ n
      ∧ n ≤ 1048560 ∧ indLen (stg 1 1830912 4096).entry = 16 + n ∧ (stg 1 1830912 4096).ind.length = 16 + n
      ∧ payZero (stg 1 1830912 4096) 1 3 = true ∧ payZero (stg 1 1830912 4096) 12 4 = true ∧ off + n ≤ 1835008
      ∧ Memory.wf 255 (asks (stg 1 1830912 4096) onEdge).bt.flash = true
      ∧ slotRuns (asks (stg 1 1830912 4096) onEdge) k = false)
    ∧ (let k := payF (stg 1 1830912 1) 0 1; let off := payF (stg 1 1830912 1) 4 4; let n := payF (stg 1 1830912 1) 8 4;
        executing 4097 7 (asks (stg 1 1830912 1) onEdge) = some (stg 1 1830912 1)
      ∧ fwTurn (stg 1 1830912 1).entry.tag (asks (stg 1 1830912 1) onEdge) = true ∧ k ≤ 1 ∧ off % 4096 = 0 ∧ 1 ≤ n ∧ n ≤ 1048560
      ∧ indLen (stg 1 1830912 1).entry = 16 + n ∧ (stg 1 1830912 1).ind.length = 16 + n ∧ payZero (stg 1 1830912 1) 1 3 = true
      ∧ payZero (stg 1 1830912 1) 12 4 = true ∧ off + n ≤ 1835008
      ∧ Memory.wf 255 (asks (stg 1 1830912 1) onEdge).bt.flash = true ∧ slotRuns (asks (stg 1 1830912 1) onEdge) k = false)
    ∧ (let k := payF (fw 4098 1) 0 1; executing 4098 7 (asks (fw 4098 1) onEdge) = some (fw 4098 1)
      ∧ fwTurn (fw 4098 1).entry.tag (asks (fw 4098 1) onEdge) = true ∧ k ≤ 1 ∧ payZero (fw 4098 1) 1 47 = true
      ∧ slotRuns (asks (fw 4098 1) onEdge) k = false)
    ∧ (let k := payF (fw 4098 1) 0 1; executing 4098 7 (asks (fw 4098 1) (flashed id hdr)) = some (fw 4098 1)
      ∧ fwTurn (fw 4098 1).entry.tag (asks (fw 4098 1) (flashed id hdr)) = true ∧ k ≤ 1 ∧ payZero (fw 4098 1) 1 47 = true
      ∧ slotRuns (asks (fw 4098 1) (flashed id hdr)) k = false)
    ∧ (let k := payF (fw 4099 1) 0 1; executing 4099 7 s1 = some (fw 4099 1) ∧ fwTurn (fw 4099 1).entry.tag s1 = true ∧ k ≤ 1
      ∧ payZero (fw 4099 1) 1 47 = true ∧ slotRuns s1 k = true ∧ s1.bt.trial = true)
    ∧ (let k := payF (fw 4099 1) 0 1; executing 4099 7 s2 = some (fw 4099 1) ∧ fwTurn (fw 4099 1).entry.tag s2 = true ∧ k ≤ 1
      ∧ payZero (fw 4099 1) 1 47 = true ∧ slotRuns s2 k = false ∧ bitAt (bootRec s2).flags k = true)
    ∧ (let k := payF (fw 4099 1) 0 1; executing 4099 7 s1 = some (fw 4099 1) ∧ fwTurn (fw 4099 1).entry.tag s1 = true ∧ k ≤ 1
      ∧ payZero (fw 4099 1) 1 47 = true ∧ (slotRuns s1 k = true ∧ s1.bt.trial = true ∨ slotRuns s1 k = false
      ∧ bitAt (bootRec s1).flags k = true))
    ∧ (let k := payF (fw 4099 1) 0 1; executing 4099 7 s2 = some (fw 4099 1) ∧ fwTurn (fw 4099 1).entry.tag s2 = true ∧ k ≤ 1
      ∧ payZero (fw 4099 1) 1 47 = true ∧ (slotRuns s2 k = true ∧ s2.bt.trial = true ∨ slotRuns s2 k = false
      ∧ bitAt (bootRec s2).flags k = true))
    ∧ (let k := payF (fw 4099 1) 0 1; executing 4099 7 (asks (fw 4099 1) onEdge) = some (fw 4099 1)
      ∧ fwTurn (fw 4099 1).entry.tag (asks (fw 4099 1) onEdge) = true ∧ k ≤ 1 ∧ payZero (fw 4099 1) 1 47 = true
      ∧ slotRuns (asks (fw 4099 1) onEdge) k = false ∧ bitAt (bootRec (asks (fw 4099 1) onEdge)).flags k = false)
    ∧ (executing 4100 7 s3 = some (exe 4100 [])) := by
  refine ⟨?_, ?_, ?_, ?_, ?_, ?_, ?_, ?_, ?_, ?_, ?_⟩ <;> decide +kernel

/-- The hypotheses of `calibrationCommands` are met, clause by clause. -/
theorem witness_calibrationCommands :
    (let a := payF (sav 4128) 0 8; executing 4101 7 (asks (sav 4128) onEdge) = some (sav 4128)
      ∧ payZero (sav 4128) 8 40 = true ∧ Memory.wf 0 (asks (sav 4128) onEdge).hostMem = true ∧ a % 64 ≠ 0)
    ∧ (let a := payF (ld 512) 0 8; let len := payF (ld 512) 12 4; let h := hostBytes noRead a 512;
        let body := hostBytes noRead (a + 512) (len - 512); executing 4102 7 (asks (ld 512) onEdge) = some (ld 512)
      ∧ payF (ld 512) 8 1 = 0 ∧ payZero (ld 512) 9 3 = true ∧ payZero (ld 512) 16 32 = true ∧ payF (ld 512) 12 4 ≤ 3145728
      ∧ 512 ≤ payF (ld 512) 12 4 ∧ noRead.fail = none ∧ calRefusal h body len (asks (ld 512) onEdge).bt.serial = some 2)
    ∧ (ldS.hi.cpls = [cplOf lde 0 []] ∧ cplRoom ldS = true ∧ ldS.mg.smbWait = none ∧ lde.entry.opcode = 4102
      ∧ (List.find? (fun x => x.entry.tag == lde.entry.tag) ldS.hi.exec = some lde))
    ∧ (executing 4103 7 (asks chk onEdge) = some chk ∧ Memory.wf 0 (asks chk onEdge).hostMem = true ∧ chk.left = []
      ∧ measPins chk ≠ [] ∧ payF chk 64 8 % 8 = 0 ∧ (asks chk onEdge).bt.cal = 0)
    ∧ (let free := (∀ p ∈ measPins chk, (asks chk (cald onEdge)).pins[p].ctl.func = 0 ∨ pinParked (asks chk (cald onEdge)) p = true);
        executing 4103 7 (asks chk (cald onEdge)) = some chk
      ∧ Memory.wf 0 (asks chk (cald onEdge)).hostMem = true ∧ chk.left = [] ∧ measPins chk ≠ [] ∧ payF chk 64 8 % 8 = 0
      ∧ (asks chk (cald onEdge)).bt.cal ≠ 0 ∧ free ∧ (∀ p ∈ measPins chk, (asks chk (cald onEdge)).pf.adcs[gloveOf p].cur = none
      ∧ (asks chk (cald onEdge)).pf.adcs[gloveOf p].queue = []))
    ∧ (let free := (∀ p ∈ measPins chk, (asks chk (cald ready)).pins[p].ctl.func = 0 ∨ pinParked (asks chk (cald ready)) p = true);
        executing 4103 7 (asks chk (cald ready)) = some chk
      ∧ Memory.wf 0 (asks chk (cald ready)).hostMem = true ∧ chk.left = [] ∧ measPins chk ≠ [] ∧ payF chk 64 8 % 8 = 0
      ∧ (asks chk (cald ready)).bt.cal ≠ 0 ∧ free ∧ (∀ p ∈ measPins chk, (asks chk (cald ready)).pf.adcs[gloveOf p].cur = none
      ∧ (asks chk (cald ready)).pf.adcs[gloveOf p].queue = []))
    ∧ (executing 4103 7 (asks chl (cald (askAdc ready))) = some chl
      ∧ Memory.wf 0 (asks chl (cald (askAdc ready))).hostMem = true ∧ chl.left ≠ []
      ∧ adcTurn chl (asks chl (cald (askAdc ready))) = true)
    ∧ (executing 4103 7 (asks chl (cald ready)) = some chl ∧ Memory.wf 0 (asks chl (cald ready)).hostMem = true ∧ chl.left ≠ []
      ∧ adcTurn chl (asks chl (cald ready)) = false)
    ∧ (let free := (∀ p ∈ measPins chk, (asks chk (cald (busyAdc ready))).pins[p].ctl.func = 0 ∨ pinParked (asks chk (cald (busyAdc ready))) p = true);
        executing 4103 7 (asks chk (cald (busyAdc ready))) = some chk
      ∧ Memory.wf 0 (asks chk (cald (busyAdc ready))).hostMem = true ∧ chk.left = [] ∧ measPins chk ≠ [] ∧ payF chk 64 8 % 8 = 0
      ∧ (asks chk (cald (busyAdc ready))).bt.cal ≠ 0 ∧ free
      ∧ (∃ p ∈ measPins chk, (asks chk (cald (busyAdc ready))).pf.adcs[gloveOf p].cur ≠ none))
    ∧ (let free := (∀ p ∈ measPins chk, (asks chk (cald (fourth ready))).pins[p].ctl.func = 0 ∨ pinParked (asks chk (cald (fourth ready))) p = true);
        executing 4103 7 (asks chk (cald (fourth ready))) = some chk
      ∧ Memory.wf 0 (asks chk (cald (fourth ready))).hostMem = true ∧ chk.left = [] ∧ measPins chk ≠ [] ∧ payF chk 64 8 % 8 = 0
      ∧ (asks chk (cald (fourth ready))).bt.cal ≠ 0 ∧ ¬free) := by
  refine ⟨?_, ?_, ?_, ?_, ?_, ?_, ?_, ?_, ?_, ?_⟩ <;> decide +kernel

end Sys2Proof.Tests.Updates

namespace Sys2Proof.Tests.Calibration

open Sys2Proof Sys2Proof.Machine Sys2Proof.Tests

/-- The trims of one generator with the nominal taps. -/
def gen : List Byte := (List.range 80).flatMap (fun j => leBytes 2 (256 * j)) ++ zeros 3

/-- The body of a user trim set: every generator at the nominal taps, the other sections 0. -/
def calBody : List Byte := (List.replicate 3072 gen).flatten ++ zeros 729152

/-- Its header, with the CRC of a body. -/
def calHead (c : Nat) : List Byte :=
  [0x4C, 0x43, 0x59, 0x4B, 1, 0, 6, 0, 0, 0, 0, 0, 0, 0, 0, 0, 0x40, 0xC4, 0x12, 0] ++ leBytes 4 c ++ zeros 488

/-- The image in host memory at 0x1000. -/
def image : HostRead := { cells := memWrite 0 [] 0x1000 (calHead (crc32c calBody).toNat ++ calBody) }

def loading : Exec := exe 0x1006 [(0, 8, 0x1000), (12, 4, 1230400)]

theorem flatten_get {l : List Byte} {m : Nat} (hl : l.length = m) (r : List Byte) {n g k : Nat} (hg : g < n) (hk : k < m) :
    ((List.replicate n l).flatten ++ r)[m * g + k]? = l[k]? := by
  induction n generalizing g with
  | zero => omega
  | succ n ih =>
    rw [List.replicate_succ, List.flatten_cons, List.append_assoc]
    cases g with
    | zero => rw [Nat.mul_zero, Nat.zero_add, List.getElem?_append_left (by omega)]
    | succ g =>
      rw [List.getElem?_append_right (by rw [hl, Nat.mul_succ]; omega), hl, Nat.mul_succ, show m * g + m + k - m = m * g + k by omega]
      exact ih (by omega)

theorem read_write (a : Nat) (l : List Byte) (o n : Nat) (h : o + n ≤ l.length) :
    memRead 0 (memWrite 0 [] a l) (a + o) n = (l.drop o).take n := by
  apply List.ext_getElem
  · simp [memRead]; omega
  · intro i h1 h2
    have hi : i < n := by simpa [memRead] using h1
    simp only [memRead, List.getElem_map, List.getElem_range, List.getElem_take, List.getElem_drop]
    rw [memGet_memWrite 0 [] a l _ (by rfl), dif_pos (by omega)]
    congr 1
    omega

theorem gen_length : gen.length = 163 := by decide +kernel
theorem calBody_length : calBody.length = 1229888 := by
  simp only [calBody, List.length_append, List.length_flatten, List.map_replicate, gen_length, List.sum_replicate, zeros,
    List.length_replicate]
  rfl
theorem calHead_length (c : Nat) : (calHead c).length = 512 := by simp [calHead, leBytes, zeros, -List.reduceReplicate]

theorem head_read : hostBytes image 0x1000 512 = calHead (crc32c calBody).toNat := by
  have h := read_write 0x1000 (calHead (crc32c calBody).toNat ++ calBody) 0 512
    (by rw [List.length_append, calHead_length]; omega)
  rw [List.drop_zero, List.take_append_of_le_length (by rw [calHead_length])] at h
  rw [List.take_of_length_le (by rw [calHead_length])] at h
  exact h

theorem body_read : hostBytes image (0x1000 + 512) 1229888 = calBody := by
  have h := read_write 0x1000 (calHead (crc32c calBody).toNat ++ calBody) 512 1229888
    (by rw [List.length_append, calHead_length, calBody_length])
  rw [List.drop_append_of_le_length (by rw [calHead_length]), List.drop_of_length_le (by rw [calHead_length]),
    List.nil_append, List.take_of_length_le (by rw [calBody_length])] at h
  exact h

theorem gen_taps : ∀ j < 80, leNat [(gen[2 * j]?).getD 0, (gen[2 * j + 1]?).getD 0] = 256 * j := by decide

theorem body_byte {g k : Nat} (hg : g < 3072) (hk : k < 163) :
    memGet 0 (memWrite 0 [] 0 calBody) (163 * g + k) = (gen[k]?).getD 0 := by
  have hb : 163 * g + k < calBody.length := by rw [calBody_length]; omega
  rw [memGet_memWrite 0 [] 0 calBody _ (by rfl), dif_pos (by omega)]
  have e := flatten_get gen_length (zeros 729152) hg hk
  have e' : calBody[163 * g + k]? = gen[k]? := e
  rw [← e', List.getElem?_eq_getElem hb]
  rfl

theorem body_taps (p : Pin) (e : Fin 6) {j : Nat} (hj : j < 80) :
    tapIn (memWrite 0 [] 0 calBody) p e.val j = 256 * j := by
  have hp := p.isLt
  have he := e.isLt
  have h0 := body_byte (g := p.val * 6 + e.val) (k := 2 * j) (by omega) (by omega)
  have h1 := body_byte (g := p.val * 6 + e.val) (k := 2 * j + 1) (by omega) (by omega)
  have t := gen_taps j hj
  rw [← h0, ← h1] at t
  have i0 : (p.val * 6 + e.val) * 163 + 2 * j + 0 = 163 * (p.val * 6 + e.val) + 2 * j := by omega
  have i1 : (p.val * 6 + e.val) * 163 + 2 * j + 1 = 163 * (p.val * 6 + e.val) + (2 * j + 1) := by omega
  have r : ∀ a, memRead 0 (memWrite 0 [] 0 calBody) a 2
      = [memGet 0 (memWrite 0 [] 0 calBody) (a + 0), memGet 0 (memWrite 0 [] 0 calBody) (a + 1)] := fun _ => rfl
  rw [tapIn, r, i0, i1]
  exact t

theorem nominal_ok (tap : Nat → Nat) (h : ∀ j < 80, tap j = 256 * j) : tapFault tap = none := by
  unfold tapFault
  have a : ((List.range 79).any fun j => decide (tap (j + 1) < tap j ∨ tap j + 512 < tap (j + 1))) = false := by
    rw [List.any_eq_false]
    intro j hj
    have hj := List.mem_range.mp hj
    rw [h j (by omega), h (j + 1) (by omega)]
    simp
    omega
  rw [h 0 (by omega), h 79 (by omega), a]
  rfl

theorem maps_good : userMapsBad calBody = false := by
  have b : badMaps (memWrite 0 [] 0 calBody) = [] := by
    unfold badMaps
    rw [List.flatMap_eq_nil_iff]
    intro p _
    rw [List.filterMap_eq_nil_iff]
    intro e _
    rw [nominal_ok _ fun j hj => body_taps p e hj]
    rfl
  rw [userMapsBad, b]
  rfl

theorem crc_field (v : W32) : fieldAt (calHead v.toNat) 20 4 = v.toNat := by
  have h := v.isLt
  have e : fieldAt (calHead v.toNat) 20 4 = leNat (leBytes 4 v.toNat) := rfl
  rw [e]
  simp [leBytes, leNat]
  omega

theorem head_kind (c : Nat) : fieldAt (calHead c) 6 2 = 6 := rfl
theorem head_first_bytes (c : Nat) : slice (calHead c) 0 4 = [0x4C, 0x43, 0x59, 0x4B] := rfl
theorem head_magic (c : Nat) : fieldAt (calHead c) 0 4 = 0x4B59434C := by
  rw [fieldAt, head_first_bytes]
  decide +kernel
theorem head_len_bytes (c : Nat) : slice (calHead c) 16 4 = [0x40, 0xC4, 0x12, 0] := rfl
theorem head_bytes (c : Nat) : fieldAt (calHead c) 16 4 = 1229888 := by
  rw [fieldAt, head_len_bytes]
  decide +kernel
theorem head_free (c : Nat) : slice (calHead c) 8 8 = zeros 8 := rfl
theorem head_version (c : Nat) : fieldAt (calHead c) 4 2 = 1 := rfl
theorem head_gap (c : Nat) : allZero (slice (calHead c) 40 88) = true := by
  simp [calHead, slice, leBytes, zeros, allZero, -List.reduceReplicate]
theorem head_sig (c : Nat) : allZero (slice (calHead c) 128 96) = true := by
  simp [calHead, slice, leBytes, zeros, allZero, -List.reduceReplicate]
theorem head_end (c : Nat) : allZero (slice (calHead c) 224 288) = true := by
  simp [calHead, slice, leBytes, zeros, allZero, -List.reduceReplicate]
theorem head_ok (c : Nat) : calHeaderOk 6 (calHead c) = true := by
  have s : fieldAt (calHead c) 8 8 = 0 := by rw [fieldAt, head_free]; decide
  have n : (1229888 == trimBytes) = true := by decide +kernel
  simp only [calHeaderOk, head_version, head_kind, head_gap, head_end, head_sig, head_bytes, s, n]
  decide
theorem crc_ok : calCrcOk (calHead (crc32c calBody).toNat) calBody = true := by
  rw [calCrcOk, crc_field]
  exact beq_self_eq_true _
theorem accepted (h body : List Byte) (serial : W64) (k : fieldAt h 6 2 = 6) (m : fieldAt h 0 4 = 0x4B59434C)
    (o : calHeaderOk 6 h = true) (b : fieldAt h 16 4 = 1229888) (c : calCrcOk h body = true) (g : userMapsBad body = false) :
    calRefusal h body 1230400 serial = none := by
  simp [calRefusal, k, m, o, b, c, g]
theorem image_accepted (serial : W64) : calRefusal (calHead (crc32c calBody).toNat) calBody 1230400 serial = none :=
  accepted _ _ _ (head_kind _) (head_magic _) (head_ok _) (head_bytes _) crc_ok maps_good

/-- The hypotheses of the clause of `calibrationCommands` on a `CAL_LOAD` that succeeds are met by a user trim set with nominal
taps. -/
theorem witness_calLoad :
    executing 0x1006 7 (asks loading onEdge) = some loading ∧ payF loading 8 1 = 0 ∧ payZero loading 9 3 = true
      ∧ payZero loading 16 32 = true ∧ payF loading 0 8 = 0x1000 ∧ payF loading 12 4 = 512 + 1229888 ∧ image.fail = none
      ∧ calRefusal (hostBytes image 0x1000 512) (hostBytes image (0x1000 + 512) 1229888) 1230400 (asks loading onEdge).bt.serial
        = none := by
  refine ⟨by decide +kernel, by decide, by decide, by decide, by decide, by decide, rfl, ?_⟩
  rw [head_read, body_read]
  exact image_accepted _

end Sys2Proof.Tests.Calibration

namespace Sys2Proof.Tests.Invariants

open Sys2Proof Sys2Proof.Machine Sys2Proof.Tests

def saving : Exec := exe 0x1005 [(0, 8, 0x1000)]

/-- The hypotheses of the `CAL_SAVE` clauses of `calibrationCommands` are met at an aligned address. -/
theorem witness_calSave :
    executing 0x1005 7 (asks saving onEdge) = some saving ∧ payZero saving 8 40 = true
      ∧ Memory.wf 0 (asks saving onEdge).hostMem = true ∧ payF saving 0 8 % 64 = 0 := by
  decide +kernel

/-- The hypotheses of `memoriesStayCanonical` are met. -/
theorem witness_memoriesStayCanonical : memoriesWf State.reset = true ∧ step State.reset = .next (idleCycle State.reset) :=
  ⟨by decide +kernel, rfl⟩

/-- The hypotheses of `rollbackCounterNeverFalls` are met. -/
theorem witness_rollbackCounterNeverFalls :
    (0 ≤ State.reset.bt.fuses ∧ State.reset.bt.serial = State.reset.bt.serial)
      ∧ step State.reset = .next (idleCycle State.reset) :=
  ⟨⟨Nat.zero_le _, rfl⟩, rfl⟩

/-- The hypotheses of `timeBaseStaysSound` are met. -/
theorem witness_timeBaseStaysSound : timeBaseSound State.reset = true ∧ step State.reset = .next (idleCycle State.reset) :=
  ⟨by decide +kernel, rfl⟩

end Sys2Proof.Tests.Invariants

end
end

section
/-! SUPPORT. Laws of register access: the bytes of a value (R8), which registers a posted write reaches (R374), what a write does by the
kinds of the fields (R9, R10), and what a read of the status snapshot gives (R383). -/

namespace Sys2Proof.Machine

open Sys2Proof

/-! ### Little-endian bytes (R8) -/

@[simp] theorem leBytes_length (n v : Nat) : (leBytes n v).length = n := by
  induction n generalizing v with
  | zero => rfl
  | succ n ih => simp [leBytes, ih]

/-- The low `n` bytes of a value hold it modulo `256 ^ n`. -/
theorem leNat_leBytes (n v : Nat) : leNat (leBytes n v) = v % 256 ^ n := by
  induction n generalizing v with
  | zero => simp [leBytes, leNat, Nat.mod_one]
  | succ n ih => rw [leBytes, leNat, ih, BitVec.toNat_ofNat, pow_succ' 256 n, Nat.mod_mul]

theorem leBytes_zero (n : Nat) : leBytes n 0 = List.replicate n 0 := by
  induction n with
  | zero => rfl
  | succ n ih => simp [leBytes, ih, List.replicate_succ]

theorem leNat_leBytes_lt {n v : Nat} (h : v < 256 ^ n) : leNat (leBytes n v) = v := by
  rw [leNat_leBytes, Nat.mod_eq_of_lt h]

/-! ### Vectors -/

@[simp] theorem vmapIdx_get {α β : Type} {n : Nat} (f : Fin n → α → β) (v : Vector α n) (i : Fin n) :
    (vmapIdx f v)[i] = f i v[i] := by
  simp [vmapIdx]

/-- A function that changes no element changes no vector. -/
theorem vmapIdx_eq_self {α : Type} {n : Nat} {f : Fin n → α → α} (v : Vector α n) (h : ∀ i x, f i x = x) :
    vmapIdx f v = v := by
  ext i hi
  exact (vmapIdx_get f v ⟨i, hi⟩).trans (h _ _)

/-! ### Which bytes a write enables (R374) -/

/-- A write that misses a register enables none of its bytes. -/
theorem wByte_of_misses {off base n : Nat} {l : List (Option Byte)} (h : wHits off l base n = false) {i : Nat} (hi : i < n) :
    wByte off l (base + i) = none := by
  simpa using List.any_eq_false.mp h i (List.mem_range.mpr hi)

/-- A write enables no byte beyond its own. -/
theorem wByte_outside {off a : Nat} {l : List (Option Byte)} (h : a < off ∨ off + l.length ≤ a) : wByte off l a = none := by
  unfold wByte
  split
  · rfl
  · rw [List.getD_eq_getElem?_getD, List.getElem?_eq_none (by omega), Option.getD_none]

/-- The byte that a write carries for an address of its own. -/
theorem wByte_own (off i : Nat) (l : List (Option Byte)) : wByte off l (off + i) = l.getD i none := by
  simp [wByte]

/-- A write misses every register that lies before it or behind it. -/
theorem wHits_outside {off base n : Nat} {l : List (Option Byte)} (h : base + n ≤ off ∨ off + l.length ≤ base) :
    wHits off l base n = false := by
  refine List.any_eq_false.mpr fun i hi => ?_
  have := List.mem_range.mp hi
  rw [wByte_outside (by omega)]
  simp

/-- A write reaches a register exactly when it reaches one of its halves. -/
theorem wHits_add (off base m n : Nat) (l : List (Option Byte)) :
    wHits off l base (m + n) = (wHits off l base m || wHits off l (base + m) n) := by
  simp [wHits, List.range_add, List.any_map, Function.comp_def, Nat.add_assoc]

/-- A register that the write misses keeps its value (R9). -/
theorem wMerge_of_misses {off base n cur : Nat} {l : List (Option Byte)} (h : wHits off l base n = false) (hc : cur < 256 ^ n) :
    wMerge off l base n cur = cur := by
  have e : List.zipWith (fun i c => (wByte off l (base + i)).getD c) (List.range n) (leBytes n cur) = leBytes n cur := by
    apply List.ext_getElem
    · simp
    · intro i h1 h2
      rw [leBytes_length] at h2
      simp [wByte_of_misses h h2]
  rw [wMerge, e, leNat_leBytes_lt hc]

/-- The byte that a write of a whole value carries. -/
theorem wByte_whole (off : Nat) {n v i : Nat} (hi : i < n) :
    wByte off ((leBytes n v).map some) (off + i) = some ((leBytes n v)[i]'(by simpa using hi)) := by
  rw [wByte_own]
  simp [hi]

/-- A write of a whole RW register gives it the value written (R9). -/
theorem wMerge_whole {off n v : Nat} (cur : Nat) (h : v < 256 ^ n) : wMerge off ((leBytes n v).map some) off n cur = v := by
  have e : List.zipWith (fun i c => (wByte off ((leBytes n v).map some) (off + i)).getD c) (List.range n) (leBytes n cur)
      = leBytes n v := by
    apply List.ext_getElem
    · simp
    · intro i h1 h2
      rw [leBytes_length] at h2
      simp [wByte_whole off h2]
  rw [wMerge, e, leNat_leBytes_lt h]

/-- The value that a write carries for a register is the one it gives a register that holds 0. -/
theorem wValue_eq_wMerge (off base n : Nat) (l : List (Option Byte)) : wValue off l base n = wMerge off l base n 0 := by
  have e : (List.range n).map (fun i => (wByte off l (base + i)).getD 0)
      = List.zipWith (fun i c => (wByte off l (base + i)).getD c) (List.range n) (leBytes n 0) := by
    apply List.ext_getElem <;> simp [leBytes_zero]
  rw [wValue, wMerge, e]

/-- A write carries nothing for a register that it misses. -/
theorem wValue_of_misses {off base n : Nat} {l : List (Option Byte)} (h : wHits off l base n = false) : wValue off l base n = 0 := by
  rw [wValue_eq_wMerge, wMerge_of_misses h (by positivity)]

/-- A write of a whole register carries the value written. -/
theorem wValue_whole {off n v : Nat} (h : v < 256 ^ n) : wValue off ((leBytes n v).map some) off n = v := by
  rw [wValue_eq_wMerge, wMerge_whole 0 h]

/-! ### Well-formed requests (R374) -/

theorem mem_enabledAt {off i : Nat} {a : Byte} {l : List (Option Byte)} (h : l[i]? = some (some a)) : off + i ∈ enabledAt off l := by
  have hi : i < l.length := (List.getElem?_eq_some_iff.mp h).1
  refine List.mem_filter.mpr ⟨List.mem_map.mpr ⟨i, List.mem_range.mpr hi, rfl⟩, ?_⟩
  rw [wByte_own, List.getD_eq_getElem?_getD, h]
  rfl

/-- A request without an enabled byte is not well formed. -/
theorem writeOk_of_no_byte {off : Nat} {l : List (Option Byte)} (h : ∀ b ∈ l, b = none) : writeOk off l = false := by
  have e : enabledAt off l = [] := by
    refine List.filter_eq_nil_iff.mpr fun a ha => ?_
    obtain ⟨i, hi, rfl⟩ := List.mem_map.mp ha
    have hl := List.mem_range.mp hi
    rw [wByte_own, List.getD_eq_getElem l none hl, h _ (List.getElem_mem hl)]
    simp
  simp [writeOk, e]

/-- A request with enabled bytes in two aligned 8-byte blocks is not well formed. -/
theorem writeOk_of_two_blocks {off i j : Nat} {a b : Byte} {l : List (Option Byte)} (hi : l[i]? = some (some a))
    (hj : l[j]? = some (some b)) (hne : (off + i) / 8 ≠ (off + j) / 8) : writeOk off l = false := by
  refine Bool.eq_false_iff.mpr fun hok => hne ?_
  simp only [writeOk, Bool.and_eq_true] at hok
  obtain ⟨⟨-, hblock⟩, -⟩ := hok
  have same : ∀ x ∈ enabledAt off l, x / 8 = (enabledAt off l).headD 0 / 8 := by simpa using hblock
  exact (same _ (mem_enabledAt hi)).trans (same _ (mem_enabledAt hj)).symm

/-! ### RW1C bits (R10) -/

@[simp] theorem w1c_zero (b : Bool) (i : Nat) : w1c b 0 i = b := by simp [w1c, bitAt]

theorem clearTb_zero (t : TB) : clearTb 0 t = t := by
  simp [clearTb, vmapIdx_eq_self]

theorem clearCl_zero (c : CL) : clearCl 0 c = c := by simp [clearCl]

theorem clearCs_zero (c : CS) : clearCs 0 c = c := by simp [clearCs]

theorem clearHi_zero (h : HI) : clearHi 0 h = h := by
  have blk : h.blk &&& ~~~ BitVec.ofNat 16 (0 / 2 ^ 16) = h.blk := BitVec.and_allOnes
  simp only [clearHi, blk, w1c_zero]

theorem wClears_of_misses {off base : Nat} {l : List (Option Byte)} (s : State) (h : wHits off l base 4 = false) :
    wClears off l s base = 0 := by
  rw [wClears, wValue_of_misses h, Nat.zero_and]

/-- A write that reaches no RW1C bits but those of `TB_STAT` clears no others. -/
theorem writeClears_only_tb {off : Nat} {l : List (Option Byte)} (s : State)
    (h : ∀ r ∈ w1cRegs, r ≠ 0x0100 → wHits off l r 4 = false) :
    writeClears off l s = { s with tb := (writeClears off l s).tb } := by
  have z : ∀ r ∈ w1cRegs, r ≠ 0x0100 → wClears off l s r = 0 := fun r hr hne => wClears_of_misses s (h r hr hne)
  simp only [w1cRegs, List.forall_mem_cons] at z
  simp [writeClears, z, clearHi_zero, clearCl_zero, clearCs_zero]

/-- A write that reaches no RW1C bits clears none. -/
theorem writeClears_of_misses {off : Nat} {l : List (Option Byte)} (s : State) (h : ∀ r ∈ w1cRegs, wHits off l r 4 = false) :
    writeClears off l s = s := by
  have z : ∀ r ∈ w1cRegs, wClears off l s r = 0 := fun r hr => wClears_of_misses s (h r hr)
  have mem : ∀ i : Fin 12, w1cRegs.getD i.val 0 ∈ w1cRegs := by decide
  have sticky : vmapIdx (fun i w => w &&& ~~~ BitVec.ofNat 32 (wClears off l s (w1cRegs.getD i.val 0))) s.tb.sticky
      = s.tb.sticky := by
    refine vmapIdx_eq_self _ fun i x => ?_
    rw [z _ (mem i)]
    exact BitVec.and_allOnes
  have tb : (writeClears off l s).tb = s.tb := by
    simp only [writeClears, z 0x0100 (by decide), sticky, clearTb_zero]
  rw [writeClears_only_tb s fun r hr _ => h r hr, tb]

end Sys2Proof.Machine
end

section
/-! SUPPORT. What `POSTED_WRITE_RECEIVE`, `REGISTER_WRITE` and `MIRROR_REFRESH` do (R9, R10, R374, R376, R384, R386), and the statements
of 00_scope. -/

namespace Sys2Proof.Machine

open Sys2Proof

/-! ### Traces on the host interface (R382, R385) -/

/-- Traces left one after the other are traces. -/
theorem withTrace_trans {a b c : HI} (h : withTrace b c = b) (k : withTrace a b = a) : withTrace a c = a :=
  (congrArg (withTrace a) h).trans k

/-- Traces are no registers of `BAR_ERR` and no posted writes. -/
theorem withTrace_drops {a b : HI} (h : withTrace a b = a) :
    b.barErr = a.barErr ∧ b.barErrCnt = a.barErrCnt ∧ b.posted = a.posted := by
  rw [← h]
  exact ⟨rfl, rfl, rfl⟩

/-- An event leaves traces only, whatever traces have been left before it. -/
theorem issue_hi (code : Nat) (items : List Item) (h : HI) (s : State) (k : withTrace h s.hi = h) :
    withTrace h (issue code items s).hi = h :=
  withTrace_trans (issue_sameHi code items s) k

/-- An event is seen on the host interface and in the log only. -/
theorem issue_keeps (code : Nat) (items : List Item) (s : State) : Keeps [.hi, .mg] s (issue code items s) :=
  (issue_keepsButLog code items s).1.mono (by simp)

/-- An error-summary interrupt is seen on the host interface only. -/
theorem errIrq_keeps (before : W32) (s : State) : Keeps [.hi] s (errIrq before s) := by
  intro p hp
  cases p <;> first | exact absurd (by decide) hp | simp [samePart]

/-- A change of host-interface registers is one of the host interface only. -/
theorem setHi_keeps (h : HI) (s : State) : Keeps [.hi] s { s with hi := h } := by
  intro p hp
  cases p <;> first | exact absurd (by decide) hp | rfl

/-- A change of host-interface registers with its interrupt. -/
theorem setHi_errIrq_keeps (before : W32) (h : HI) (s : State) : Keeps [.hi] s (errIrq before { s with hi := h }) :=
  (setHi_keeps h s).trans (errIrq_keeps before _)

/-! ### The posted-write buffer (R374, R376) -/

theorem exec_postedWriteReceive (bar4 : Bool) (off : Nat) (l : List (Option Byte)) (s : State) :
    exec (.postedWriteReceive bar4 off l) s = .next (receive { bar4 := bar4, off := off, bytes := l } s) := rfl

/-- The host interface with a dropped write counted (R374). -/
def dropCounted (h : HI) : HI := { h with barErrCnt := satSucc 0xFFFFFFFF h.barErrCnt, barErr := true }

/-- A dropped write is counted and sets `BAR_ERR`; beside that it leaves the traces of its event (R374). -/
theorem dropWrite_hi (off : Nat) (l : List (Option Byte)) (s : State) :
    withTrace (dropCounted s.hi) (dropWrite off l s).hi = dropCounted s.hi := by
  simp only [dropWrite]
  split
  · exact errIrq_hi _ _ _ rfl
  · exact issue_hi _ _ _ _ (errIrq_hi _ _ _ rfl)

theorem dropWrite_counts (off : Nat) (l : List (Option Byte)) (s : State) :
    (dropWrite off l s).hi.barErr = true ∧ (dropWrite off l s).hi.barErrCnt = min 0xFFFFFFFF (s.hi.barErrCnt + 1)
      ∧ (dropWrite off l s).hi.posted = s.hi.posted :=
  withTrace_drops (dropWrite_hi off l s)

theorem dropWrite_keeps (off : Nat) (l : List (Option Byte)) (s : State) : Keeps [.hi, .mg] s (dropWrite off l s) := by
  simp only [dropWrite]
  split
  · exact (setHi_errIrq_keeps _ _ s).mono (by simp)
  · exact ((setHi_errIrq_keeps _ _ s).mono (by simp)).trans (issue_keeps _ _ _)

section
variable {s : State} {w : Posted}

/-- The size of the BAR that a write names (R371). -/
def barSize (bar4 : Bool) : Nat := if bar4 then 2 ^ 24 else 2 ^ 16

/-- A write reaches the device: its endpoint serves the BAR, and the BAR holds it (R371, R432). -/
def Reaches (s : State) (w : Posted) : Prop := s.hi.serving = true ∧ s.hi.linkUp = true ∧ w.off + w.bytes.length ≤ barSize w.bar4

/-- A write outside its BAR, or while the endpoint serves none, has no effect. -/
theorem receive_unreached (h : ¬ Reaches s w) : receive w s = s := by
  have away : ¬ s.hi.serving ∨ ¬ s.hi.linkUp ∨ (if w.bar4 then 0x1000000 else 0x10000) < w.off + w.bytes.length := by
    by_contra k
    push Not at k
    exact h k
  simp only [receive]
  rw [if_pos away]

theorem not_reaches {bar4 : Bool} {off : Nat} {l : List (Option Byte)}
    (away : s.hi.serving = false ∨ s.hi.linkUp = false ∨ barSize bar4 < off + l.length) :
    ¬ Reaches s { bar4 := bar4, off := off, bytes := l } := by
  rintro ⟨serving, up, inside⟩
  rcases away with h | h | h
  · simp [h] at serving
  · simp [h] at up
  · exact absurd inside (by simpa using h)

/-- What happens to a write that reaches the device. -/
theorem receive_reached (h : Reaches s w) :
    receive w s = if ¬ w.bar4 ∧ ¬ writeOk w.off w.bytes then dropWrite w.off w.bytes s
      else if 16 ≤ (waiting s.hi.posted).length then s
      else { s with hi := { s.hi with posted := waiting s.hi.posted ++ [w] } } := by
  obtain ⟨serving, up, inside⟩ := h
  have here : ¬ (¬ s.hi.serving ∨ ¬ s.hi.linkUp ∨ (if w.bar4 then 0x1000000 else 0x10000) < w.off + w.bytes.length) := by
    simpa [serving, up, barSize] using inside
  simp only [receive]
  rw [if_neg here]

/-- A well-formed write waits in the buffer, if the buffer has room. -/
theorem receive_wellFormed (h : Reaches s w) (ok : w.bar4 = true ∨ writeOk w.off w.bytes = true) :
    receive w s = if 16 ≤ (waiting s.hi.posted).length then s
      else { s with hi := { s.hi with posted := waiting s.hi.posted ++ [w] } } := by
  rw [receive_reached h, if_neg]
  rcases ok with ok | ok <;> simp [ok]

/-- A write that breaks R374 is dropped. -/
theorem receive_malformed (h : Reaches s w) (bar0 : w.bar4 = false) (bad : writeOk w.off w.bytes = false) :
    receive w s = dropWrite w.off w.bytes s := by
  rw [receive_reached h, if_pos (by simp [bar0, bad])]

end

/-! ### Ring registers (R386) -/

/-- The RW registers of the host interface that a plain write can reach: `HI_ERRMASK`, `HI_CPL_IRQ` and the rings' `ADDR`. -/
def rwRegs (h : HI) : W32 × W32 × W64 × W64 := (h.mask, h.cplIrq, h.cmdBase, h.cplBase)

/-- Traces are no RW registers. -/
theorem withTrace_rwRegs {a b : HI} (h : withTrace a b = a) : rwRegs b = rwRegs a := by
  rw [← h]
  rfl

/-- Traces are no ring sizes. -/
theorem withTrace_cplSize {a b : HI} (h : withTrace a b = a) : b.cplSize = a.cplSize := by
  rw [← h]
  rfl

/-- The host interface with an ignored ring write noted (R386, R387). -/
def ringErrored (h : HI) : HI := { h with ringErr := true }

/-- An ignored ring write sets `RING_ERR` and leaves the traces of its event. -/
theorem ringError_hi (reg v : Nat) (s : State) : withTrace (ringErrored s.hi) (ringError reg v s).hi = ringErrored s.hi :=
  issue_hi _ _ _ _ (errIrq_hi _ _ _ rfl)

theorem ringError_keeps (reg v : Nat) (s : State) : Keeps [.hi, .mg] s (ringError reg v s) :=
  ((setHi_errIrq_keeps _ _ s).mono (by simp)).trans (issue_keeps _ _ _)

@[simp] theorem ringError_rwRegs (reg v : Nat) (s : State) : rwRegs (ringError reg v s).hi = rwRegs s.hi :=
  (withTrace_rwRegs (ringError_hi reg v s)).trans rfl

@[simp] theorem ringError_cplSize (reg v : Nat) (s : State) : (ringError reg v s).hi.cplSize = s.hi.cplSize :=
  (withTrace_cplSize (ringError_hi reg v s)).trans rfl

/-- A write of the command ring's `ADDR`. -/
def cmdBaseWrite (off : Nat) (l : List (Option Byte)) (s : State) : State :=
  if ¬ wHits off l 0x0030 8 then s
  else if s.hi.cmdSize ≠ 0 then ringError 0 (wValue off l 0x0030 8) s
  else { s with hi := { s.hi with cmdBase := BitVec.ofNat 64 (wMerge off l 0x0030 8 s.hi.cmdBase.toNat) } }

/-- A write of the completion ring's `ADDR`. -/
def cplBaseWrite (off : Nat) (l : List (Option Byte)) (s : State) : State :=
  if ¬ wHits off l 0x0048 8 then s
  else if s.hi.cplSize ≠ 0 then ringError 4 (wValue off l 0x0048 8) s
  else { s with hi := { s.hi with cplBase := BitVec.ofNat 64 (wMerge off l 0x0048 8 s.hi.cplBase.toNat) } }

theorem baseWrite_eq (off : Nat) (l : List (Option Byte)) (s : State) :
    baseWrite off l s = cplBaseWrite off l (cmdBaseWrite off l s) := rfl

/-- A 64-bit register that the write misses takes its own value again. -/
theorem ofNat_wMerge_of_misses {off base : Nat} {l : List (Option Byte)} (x : W64) (h : wHits off l base 8 = false) :
    BitVec.ofNat 64 (wMerge off l base 8 x.toNat) = x := by
  rw [wMerge_of_misses h x.isLt, BitVec.ofNat_toNat, BitVec.setWidth_eq]

/-- The command ring's `ADDR` takes the enabled bytes while the ring is closed. -/
theorem cmdBaseWrite_rwRegs (off : Nat) (l : List (Option Byte)) (s : State) :
    rwRegs (cmdBaseWrite off l s).hi = (s.hi.mask, s.hi.cplIrq,
        (if s.hi.cmdSize = 0 then BitVec.ofNat 64 (wMerge off l 0x0030 8 s.hi.cmdBase.toNat) else s.hi.cmdBase), s.hi.cplBase)
      ∧ (cmdBaseWrite off l s).hi.cplSize = s.hi.cplSize := by
  unfold cmdBaseWrite
  by_cases hit : wHits off l 0x0030 8 = true
  · by_cases closed : s.hi.cmdSize = 0
    · simp [hit, closed, rwRegs]
    · simp only [hit, closed, not_true_eq_false, ne_eq, not_false_eq_true, if_true, if_false,
        ringError_rwRegs, ringError_cplSize, and_true]
      rfl
  · rw [if_pos hit, ofNat_wMerge_of_misses _ (Bool.eq_false_iff.mpr hit), ite_self]
    exact ⟨rfl, rfl⟩

/-- The completion ring's `ADDR` takes the enabled bytes while the ring is closed. -/
theorem cplBaseWrite_rwRegs (off : Nat) (l : List (Option Byte)) (s : State) :
    rwRegs (cplBaseWrite off l s).hi = (s.hi.mask, s.hi.cplIrq, s.hi.cmdBase,
      if s.hi.cplSize = 0 then BitVec.ofNat 64 (wMerge off l 0x0048 8 s.hi.cplBase.toNat) else s.hi.cplBase) := by
  unfold cplBaseWrite
  by_cases hit : wHits off l 0x0048 8 = true
  · by_cases closed : s.hi.cplSize = 0
    · simp [hit, closed, rwRegs]
    · simp only [hit, closed, not_true_eq_false, ne_eq, not_false_eq_true, if_true, if_false,
        ringError_rwRegs]
      rfl
  · rw [if_pos hit, ofNat_wMerge_of_misses _ (Bool.eq_false_iff.mpr hit), ite_self]
    rfl

theorem baseWrite_rwRegs (off : Nat) (l : List (Option Byte)) (s : State) :
    rwRegs (baseWrite off l s).hi = (s.hi.mask, s.hi.cplIrq,
      (if s.hi.cmdSize = 0 then BitVec.ofNat 64 (wMerge off l 0x0030 8 s.hi.cmdBase.toNat) else s.hi.cmdBase),
      if s.hi.cplSize = 0 then BitVec.ofNat 64 (wMerge off l 0x0048 8 s.hi.cplBase.toNat) else s.hi.cplBase) := by
  obtain ⟨regs, size⟩ := cmdBaseWrite_rwRegs off l s
  simp only [rwRegs, Prod.mk.injEq] at regs
  obtain ⟨mask, irq, cmd, cpl⟩ := regs
  rw [baseWrite_eq, cplBaseWrite_rwRegs, mask, irq, cmd, cpl, size]

theorem baseWrite_keeps (off : Nat) (l : List (Option Byte)) (s : State) : Keeps [.hi, .mg] s (baseWrite off l s) := by
  have set := fun h u => (setHi_keeps h u).mono (m := [.hi, .mg]) (by simp)
  have cmd : Keeps [.hi, .mg] s (cmdBaseWrite off l s) := by
    unfold cmdBaseWrite
    split
    · exact Keeps.refl _ _
    · split
      · exact ringError_keeps _ _ _
      · exact set _ _
  have cpl : ∀ u, Keeps [.hi, .mg] u (cplBaseWrite off l u) := by
    intro u
    unfold cplBaseWrite
    split
    · exact Keeps.refl _ _
    · split
      · exact ringError_keeps _ _ _
      · exact set _ _
  exact cmd.trans (cpl _)

/-- A write that reaches no ring `ADDR` leaves the rings alone. -/
theorem baseWrite_of_misses {off : Nat} {l : List (Option Byte)} (s : State) (hcmd : wHits off l 0x0030 8 = false)
    (hcpl : wHits off l 0x0048 8 = false) : baseWrite off l s = s := by
  simp [baseWrite, hcmd, hcpl]

/-! ### The MSI-X table -/

theorem unmaskOne_rwRegs (s : State) (v : Fin 64) : rwRegs (unmaskOne s v).hi = rwRegs s.hi := by
  unfold unmaskOne
  split <;> rfl

theorem unmaskOne_keeps (s : State) (v : Fin 64) : Keeps [.hi] s (unmaskOne s v) := by
  unfold unmaskOne
  split
  · exact setHi_keeps _ s
  · exact Keeps.refl _ s

theorem foldl_unmaskOne_keeps (vs : List (Fin 64)) (s : State) : Keeps [.hi] s (vs.foldl unmaskOne s) := by
  induction vs generalizing s with
  | nil => exact Keeps.refl _ s
  | cons v vs ih => exact (unmaskOne_keeps s v).trans (ih _)

theorem msixWrite_rwRegs (off : Nat) (l : List (Option Byte)) (s : State) : rwRegs (msixWrite off l s).hi = rwRegs s.hi := by
  unfold msixWrite
  split
  · exact foldl_keeps (rwRegs ·.hi) unmaskOne_rwRegs _ _
  · rfl

theorem msixWrite_keeps (off : Nat) (l : List (Option Byte)) (s : State) : Keeps [.hi] s (msixWrite off l s) := by
  unfold msixWrite
  split
  · exact (setHi_keeps _ s).trans (foldl_unmaskOne_keeps _ _)
  · exact Keeps.refl _ s

/-- A write outside the MSI-X table leaves it alone. -/
theorem msixWrite_outside {off : Nat} {l : List (Option Byte)} (s : State) (h : off < 0x2000 ∨ 0x2400 < off + l.length) :
    msixWrite off l s = s := by
  rw [msixWrite, if_neg (by omega)]

/-! ### Plain register writes (R9) -/

/-- `HI_ERRMASK` after a write: the enabled bytes, bit 0 reserved. -/
def maskAfter (off : Nat) (l : List (Option Byte)) (m : W32) : W32 :=
  BitVec.ofNat 32 (wMerge off l 0x0024 4 m.toNat) &&& 0xFFFFFFFE#32

/-- `HI_CPL_IRQ` after a write: the enabled bytes, bits 30 to 22 reserved. -/
def cplIrqAfter (off : Nat) (l : List (Option Byte)) (m : W32) : W32 :=
  BitVec.ofNat 32 (wMerge off l 0x0058 4 m.toNat) &&& 0x803FFFFF#32

/-- `HI_ERRMASK` and `HI_CPL_IRQ` written. -/
def irqWrite (off : Nat) (l : List (Option Byte)) (s : State) : State :=
  { s with hi := { s.hi with mask := maskAfter off l s.hi.mask, cplIrq := cplIrqAfter off l s.hi.cplIrq } }

theorem irqWrite_keeps (off : Nat) (l : List (Option Byte)) (s : State) : Keeps [.hi] s (irqWrite off l s) := setHi_keeps _ s

theorem plainWrite_eq (off : Nat) (l : List (Option Byte)) (s : State) :
    plainWrite off l s = msixWrite off l (baseWrite off l (irqWrite off l (writeClears off l s))) := rfl

/-- The RW registers after a plain write. -/
theorem plainWrite_rwRegs (off : Nat) (l : List (Option Byte)) (s : State) :
    rwRegs (plainWrite off l s).hi = (maskAfter off l s.hi.mask, cplIrqAfter off l s.hi.cplIrq,
      (if s.hi.cmdSize = 0 then BitVec.ofNat 64 (wMerge off l 0x0030 8 s.hi.cmdBase.toNat) else s.hi.cmdBase),
      if s.hi.cplSize = 0 then BitVec.ofNat 64 (wMerge off l 0x0048 8 s.hi.cplBase.toNat) else s.hi.cplBase) := by
  rw [plainWrite_eq, msixWrite_rwRegs, baseWrite_rwRegs]
  rfl

/-- A plain write changes, beside RW1C bits, the host interface and the log of a refused ring `ADDR`. -/
theorem plainWrite_keeps (off : Nat) (l : List (Option Byte)) (s : State) :
    Keeps [.hi, .mg] (writeClears off l s) (plainWrite off l s) := by
  have irq := fun u => (irqWrite_keeps off l u).mono (m := [.hi, .mg]) (by simp)
  have msix := fun u => (msixWrite_keeps off l u).mono (m := [.hi, .mg]) (by simp)
  rw [plainWrite_eq]
  exact ((irq _).trans (baseWrite_keeps off l _)).trans (msix _)

/-- A write that reaches no ring `ADDR` and no MSI-X entry. -/
structure PlainOnly (off : Nat) (l : List (Option Byte)) : Prop where
  cmd : wHits off l 0x0030 8 = false
  cpl : wHits off l 0x0048 8 = false
  msix : off < 0x2000 ∨ 0x2400 < off + l.length

/-- Such a write clears RW1C bits and writes `HI_ERRMASK` and `HI_CPL_IRQ`. -/
theorem plainWrite_of_plainOnly {off : Nat} {l : List (Option Byte)} (s : State) (h : PlainOnly off l) :
    plainWrite off l s = irqWrite off l (writeClears off l s) := by
  rw [plainWrite_eq, baseWrite_of_misses _ h.cmd h.cpl, msixWrite_outside _ h.msix]

/-- A write of a 4-byte register at another place than the rings' `ADDR` and the MSI-X table. -/
theorem plainOnly_word {off v : Nat} (h : off + 4 ≤ 0x0030 ∨ 0x0050 ≤ off ∧ off < 0x2000) :
    PlainOnly off ((leBytes 4 v).map some) where
  cmd := wHits_outside (by simp; omega)
  cpl := wHits_outside (by simp; omega)
  msix := by simp; omega

theorem exec_registerWrite (off : Nat) (l : List (Option Byte)) (s : State) :
    exec (.registerWrite off l) s = .next
      (if frontWrite s = some { bar4 := false, off := off, bytes := l } then plainWrite off l (popBytes plainAt s) else s) := rfl

/-- The row of the write at the front of the buffer. -/
theorem exec_registerWrite_front {off : Nat} {l : List (Option Byte)} {s : State}
    (h : frontWrite s = some { bar4 := false, off := off, bytes := l }) :
    exec (.registerWrite off l) s = .next (plainWrite off l (popBytes plainAt s)) := by
  rw [exec_registerWrite, if_pos h]

/-- The state after a plain write that reaches neither RW1C bits nor ring `ADDR`s nor MSI-X entries. -/
theorem plainWrite_of_misses {off : Nat} {l : List (Option Byte)} (s : State) (h : PlainOnly off l)
    (w1c : ∀ r ∈ w1cRegs, wHits off l r 4 = false) : plainWrite off l s = irqWrite off l s := by
  rw [plainWrite_of_plainOnly s h, writeClears_of_misses s w1c]

/-- A write of a whole 4-byte register misses the others. -/
theorem word_misses {off r : Nat} (v : Nat) (h : r + 4 ≤ off ∨ off + 4 ≤ r) :
    wHits off ((leBytes 4 v).map some) r 4 = false :=
  wHits_outside (by simpa using h)

theorem cplIrqAfter_of_misses {off : Nat} {l : List (Option Byte)} (m : W32) (h : wHits off l 0x0058 4 = false) :
    cplIrqAfter off l m = m &&& 0x803FFFFF#32 := by
  rw [cplIrqAfter, wMerge_of_misses h m.isLt, BitVec.ofNat_toNat, BitVec.setWidth_eq]

/-- The low bit of a masked word is 0, the others stand. -/
theorem and_not_one_toNat {v : Nat} (h : v < 2 ^ 32) : (BitVec.ofNat 32 v &&& 0xFFFFFFFE#32).toNat = v / 2 * 2 := by
  rw [BitVec.toNat_and, BitVec.toNat_ofNat, Nat.mod_eq_of_lt h]
  have low : (v &&& 0xFFFFFFFE) % 2 ^ 1 = 0 := by rw [Nat.and_mod_two_pow, Nat.and_zero]
  have high : (v &&& 0xFFFFFFFE) / 2 = v / 2 := by
    rw [Nat.and_div_two, show 0xFFFFFFFE / 2 = 2 ^ 31 - 1 by norm_num,
      Nat.and_two_pow_sub_one_eq_mod, Nat.mod_eq_of_lt (by omega)]
  show v &&& 0xFFFFFFFE = v / 2 * 2
  omega

/-- `HI_ERRMASK` after a write of the whole register. -/
theorem maskAfter_whole {v : Nat} (m : W32) (h : v < 2 ^ 32) :
    (maskAfter 0x0024 ((leBytes 4 v).map some) m).toNat = v / 2 * 2 := by
  rw [maskAfter, wMerge_whole _ h, and_not_one_toNat h]

/-- A change of the time base is one of the time base only. -/
theorem setTb_keeps (b : TB) (s : State) : Keeps [.tb] s { s with tb := b } := by
  intro p hp
  cases p <;> first | exact absurd (by decide) hp | rfl

/-- A write of `HI_ERRMASK` clears no RW1C bit. -/
theorem plainWrite_errMask (v : Nat) (s : State) :
    plainWrite 0x0024 ((leBytes 4 v).map some) s = irqWrite 0x0024 ((leBytes 4 v).map some) s := by
  have apart : ∀ r ∈ w1cRegs, r + 4 ≤ 0x0024 ∨ 0x0024 + 4 ≤ r := by decide
  exact plainWrite_of_misses s (plainOnly_word (by decide)) fun r hr => word_misses v (apart r hr)

/-- A write of `TB_STAT` clears RW1C bits of the time base only. -/
theorem writeClears_tbStat_keeps (v : Nat) (s : State) :
    Keeps [.tb, .hi] s (writeClears 0x0100 ((leBytes 4 v).map some) s) := by
  have apart : ∀ r ∈ w1cRegs, r ≠ 0x0100 → r + 4 ≤ 0x0100 ∨ 0x0100 + 4 ≤ r := by decide
  rw [writeClears_only_tb s fun r hr hne => word_misses v (apart r hr hne)]
  exact (setTb_keeps _ s).mono (by simp)

/-- An RW1C bit of `TB_STAT` after a write of the whole register (R9, R10). -/
theorem w1c_wClears_whole {off v : Nat} (s : State) (b : Bool) (i : Nat) (h : v < 2 ^ 32) :
    w1c b (wClears off ((leBytes 4 v).map some) s off) i = (b && !(v.testBit i && (clearable s off).testBit i)) := by
  rw [w1c, bitAt, wClears, wValue_whole h, Nat.testBit_and]

/-! ### The status mirror (R383, R384) -/

/-- Two ranges of offset and size share no byte. -/
abbrev Apart (a b : Nat × Nat) : Prop := a.1 + a.2 ≤ b.1 ∨ b.1 + b.2 ≤ a.1

/-- Offset and size of a register. -/
def place (r : Nat × Nat × Nat) : Nat × Nat := (r.1, r.2.1)

/-- A register's bytes put into an image. -/
def putReg (m : Mem) (r : Nat × Nat × Nat) : Mem := memWrite 0 m r.1 (leBytes r.2.1 r.2.2)

theorem regImage_eq (s : State) : regImage s = (regs s).foldl putReg [] := rfl

/-- A register keeps its bytes while others apart from it are put. -/
theorem memRead_foldl_putReg_apart {r : Nat × Nat × Nat} {l : List (Nat × Nat × Nat)} {m : Mem} (hm : Memory.wf 0 m = true)
    (h : ∀ x ∈ l, Apart (place r) (place x)) : memRead 0 (l.foldl putReg m) r.1 r.2.1 = memRead 0 m r.1 r.2.1 := by
  induction l generalizing m with
  | nil => rfl
  | cons x l ih =>
    rw [List.forall_mem_cons] at h
    obtain ⟨hx, hl⟩ := h
    have hm' : Memory.wf 0 (putReg m x) = true := wf_memWrite 0 m _ _ hm
    rw [List.foldl_cons, ih hm' hl]
    refine List.map_congr_left fun i hi => memGet_memWrite_other 0 m _ _ _ hm ?_
    have := List.mem_range.mp hi
    rw [leBytes_length]
    rcases hx with hx | hx <;> simp only [place] at hx <;> omega

/-- An image of registers that are apart holds each. -/
theorem memRead_foldl_putReg {r : Nat × Nat × Nat} {l : List (Nat × Nat × Nat)} {m : Mem} (hm : Memory.wf 0 m = true)
    (apart : l.Pairwise fun a b => Apart (place a) (place b)) (hr : r ∈ l) :
    memRead 0 (l.foldl putReg m) r.1 r.2.1 = leBytes r.2.1 r.2.2 := by
  induction l generalizing m with
  | nil => simp at hr
  | cons x l ih =>
    rw [List.pairwise_cons] at apart
    obtain ⟨hx, hl⟩ := apart
    have hm' : Memory.wf 0 (putReg m x) = true := wf_memWrite 0 m _ _ hm
    rw [List.foldl_cons]
    rcases List.mem_cons.mp hr with rfl | hr
    · rw [memRead_foldl_putReg_apart hm' hx]
      simpa [putReg] using memRead_memWrite 0 m r.1 (leBytes r.2.1 r.2.2) hm
    · exact ih hm' hl hr

/-- Where the registers stand does not depend on the state. -/
theorem regs_places (s : State) : (regs s).map place = (regs State.reset).map place := by
  simp only [regs, regsHi, regsRun, regsObs, regsMg, List.map_append, List.map_cons, List.map_nil, List.map_map, place,
    Function.comp_def]

/-- The registers of the snapshot share no byte (Table 15.2). -/
theorem regs_apart (s : State) : (regs s).Pairwise fun a b => Apart (place a) (place b) := by
  rw [← List.pairwise_map (f := place), regs_places]
  decide +kernel

/-- The snapshot holds each register of BAR0 (R383). -/
theorem leNat_memRead_regImage {s : State} {r : Nat × Nat × Nat} (hr : r ∈ regs s) (hv : r.2.2 < 256 ^ r.2.1) :
    leNat (memRead 0 (regImage s) r.1 r.2.1) = r.2.2 := by
  rw [regImage_eq, memRead_foldl_putReg rfl (regs_apart s) hr, leNat_leBytes_lt hv]

/-- The host interface with an image in the mirror at an instant (R384). -/
def mirrored (m : Mem) (now : Nat) (h : HI) : HI := { h with mirror := m, mseq := h.mseq + 2, mirrorAt := some now }

theorem mirrorFill_eq (s : State) : mirrorFill s = { s with hi := mirrored (regImage s) s.tb.now s.hi } := rfl

/-- A refresh changes the image, `MSEQ` and the time of the last refresh only. -/
theorem mirrored_rest (m : Mem) (now : Nat) (h : HI) :
    { mirrored m now h with mirror := h.mirror, mseq := h.mseq, mirrorAt := h.mirrorAt } = h := rfl

theorem exec_mirrorRefresh (s : State) : exec .mirrorRefresh s = .next (mirrorFill (mirrorDue s)) := rfl

theorem mirrorDue_eq (s : State) : mirrorDue s = (s.hi.mirrorAt.map fun a => toTime (a + 8192000) s).getD s := by
  unfold mirrorDue
  cases s.hi.mirrorAt <;> rfl

/-! ### Reset -/

theorem reset_pins (p : Pin) : State.reset.pins[p] = {} := by simp [State.reset]

end Sys2Proof.Machine

open Sys2Proof Sys2Proof.Machine

/-- Settles O2: the state after reset is written out, and every pin and channel of it is alike. -/
theorem resetHoldsSpecValues : Obligations.resetHoldsSpecValues := by
  unfold Obligations.resetHoldsSpecValues
  have pins : ∀ p : Pin, State.reset.pins[p].enabled = false ∧ State.reset.pins[p].dacs[(0 : DacIx)].out = 0x1746 := fun p => by
    rw [reset_pins]
    exact ⟨rfl, rfl⟩
  have guards : ∀ q : Quad, State.reset.tb.guardOpen[q] = false := by decide
  have channels : ∀ c : Chan, State.reset.mx.ch[c].state = .parked := by decide
  exact ⟨⟨rfl, pins⟩, by decide, by decide, by decide, ⟨rfl, rfl, rfl, guards⟩, by decide, by decide, ⟨rfl, rfl, channels⟩,
    by decide, rfl⟩

/-- Settles O46: what the buffer does with a request, and what the write at its front does by the kinds of the fields. -/
theorem postedWritesAndRegisters : Obligations.postedWritesAndRegisters := by
  unfold Obligations.postedWritesAndRegisters
  refine ⟨fun s bar4 off l serving up inside => ?reached, fun s bar4 off l away => ?unreached,
    fun s off l other => ?notFront, fun s off l front => ?front, fun s v hv => ?errMask, fun s v hv => ?tbStat, fun s => ?mirror⟩
  case reached =>
    have here : Reaches s { bar4 := bar4, off := off, bytes := l } := ⟨serving, up, inside⟩
    refine ⟨fun ok room => ?_, fun ok full => ?_, writeOk_of_no_byte, fun i j a b => writeOk_of_two_blocks, fun bar0 bad => ?_⟩
    · rw [exec_postedWriteReceive, receive_wellFormed here ok, if_neg (by omega)]
    · rw [exec_postedWriteReceive, receive_wellFormed here ok, if_pos full]
    · obtain ⟨err, count, posted⟩ := dropWrite_counts off l s
      exact ⟨_, by rw [exec_postedWriteReceive, receive_malformed here bar0 bad], err, count, posted, dropWrite_keeps off l s⟩
  case unreached => rw [exec_postedWriteReceive, receive_unreached (not_reaches away)]
  case notFront => rw [exec_registerWrite, if_neg other]
  case front =>
    intro u misses
    have regs := plainWrite_rwRegs off l u
    simp only [rwRegs, Prod.mk.injEq] at regs
    obtain ⟨mask, irq, cmd, cpl⟩ := regs
    refine ⟨_, exec_registerWrite_front front, mask, irq, cmd, cpl, fun w1c => ?_, fun all msix => ?_⟩
    · have keeps := plainWrite_keeps off l u
      rwa [writeClears_of_misses u w1c] at keeps
    · have w1c : ∀ r ∈ w1cRegs, misses r := fun r hr => all r (List.mem_append_left _ hr)
      have plain : PlainOnly off l :=
        { cmd := by rw [wHits_add off 0x0030 4 4, all 0x0030 (by simp), all 0x0034 (by simp), Bool.or_false]
          cpl := by rw [wHits_add off 0x0048 4 4, all 0x0048 (by simp), all 0x004C (by simp), Bool.or_false]
          msix := msix }
      rw [plainWrite_of_misses u plain w1c]
      exact ⟨irqWrite_keeps off l u, rfl⟩
  case errMask =>
    intro l u front
    refine ⟨irqWrite 0x0024 l u, ?_, maskAfter_whole u.hi.mask hv, irqWrite_keeps 0x0024 l u,
      cplIrqAfter_of_misses u.hi.cplIrq (word_misses v (by decide)), rfl⟩
    rw [exec_registerWrite_front front, plainWrite_errMask]
  case tbStat =>
    intro l u old front
    refine ⟨irqWrite 0x0100 l (writeClears 0x0100 l u), ?_,
      (writeClears_tbStat_keeps v u).trans ((irqWrite_keeps _ _ _).mono (by simp)), ?_, ?_, ?_, rfl⟩
    · rw [exec_registerWrite_front front, plainWrite_of_plainOnly u (plainOnly_word (by decide))]
    · exact w1c_wClears_whole u _ 7 hv
    · exact w1c_wClears_whole u _ 3 hv
    · exact fun q => (vmapIdx_get _ _ q).trans (w1c_wClears_whole u _ _ hv)
  case mirror =>
    intro u
    have holds := fun r (hr : r ∈ regs u) => leNat_memRead_regImage hr
    refine ⟨{ u with hi := mirrored (regImage u) u.tb.now u.hi }, ?_, rfl, setHi_keeps _ u, mirrored_rest _ _ _, ?_, ?_⟩
    · rw [exec_mirrorRefresh, mirrorDue_eq, mirrorFill_eq]
    · exact holds (0x0108, 8, u.tb.epoch.toNat) (by simp [regs, regsHi]) u.tb.epoch.isLt
    · exact holds (0x0110, 4, u.tb.wraps.toNat) (by simp [regs, regsHi]) (u.tb.wraps.isLt.trans (by norm_num))
end

section
/-! SUPPORT. The edges that the formatter places for a vector (R15, R63 to R65, R74, R81, R87 to R90, R347, R436), what the overhang
rule R70 leaves of them, and the statement on the vector that reaches the formatters. -/

namespace Sys2Proof.Machine

open Sys2Proof

/-! ### The edges of a symbol (R89, R90, R97 to R99) -/

/-- An edge whose time is not counted per UI belongs to the first UI. -/
def Plan.timed (k : Plan) : Prop := k.perUi = false → k.ui = 0

theorem planStd_timed (w : Nat) (idle : Bool) : ∀ k ∈ planStd w idle, k.timed := by
  intro k hk _
  simp only [planStd, List.mem_append, List.mem_map] at hk
  rcases hk with ⟨x, -, rfl⟩ | hk
  · rfl
  · split at hk
    · simp at hk
    · obtain ⟨x, -, rfl⟩ := List.mem_map.mp hk
      rfl

/-- The compare edges of a UI. -/
def uiCompare (w i exp : Nat) : List Plan :=
  (compareActs w).map fun x => { e := x.1, ui := i, act := x.2, exp := exp, perUi := true }

theorem uiCompare_perUi {w i exp : Nat} : ∀ k ∈ uiCompare w i exp, k.perUi = true := by
  intro k hk
  obtain ⟨x, -, rfl⟩ := List.mem_map.mp hk
  rfl

/-- A choice of two lists of edges. -/
theorem ite_perUi {c : Prop} [Decidable c] {a b : List Plan} (ha : ∀ k ∈ a, k.perUi = true) (hb : ∀ k ∈ b, k.perUi = true) :
    ∀ k ∈ (if c then a else b), k.perUi = true := by
  split
  · exact ha
  · exact hb

/-- Every edge of a UI has its time counted per UI. -/
theorem planUi_perUi (w i : Nat) (v : BitVec 2) : ∀ k ∈ planUi w i v, k.perUi = true := by
  have none : ∀ k ∈ ([] : List Plan), k.perUi = true := by simp
  refine ite_perUi (ite_perUi none uiCompare_perUi) fun k hk => ?_
  rcases List.mem_append.mp hk with hk | compares
  · rcases List.mem_append.mp hk with data | second
    · rw [List.mem_singleton.mp data]
    · exact ite_perUi (by simp) (ite_perUi (by simp) none) k second
  · exact ite_perUi uiCompare_perUi none k compares

theorem planBurst_timed (w : Nat) (uis : List (BitVec 2)) : ∀ k ∈ planBurst w uis, k.timed := by
  intro k hk late
  rcases List.mem_append.mp hk with hk | off
  · rcases List.mem_append.mp hk with on | hk
    · split at on
      · simp at on
      · rw [List.mem_singleton.mp on]
    · obtain ⟨i, -, hk⟩ := List.mem_flatMap.mp hk
      exact absurd late (by simp [planUi_perUi w i _ k hk])
  · obtain ⟨-, last⟩ : _ ∧ k = { e := 3, ui := 0, act := .enable false } := by simpa using off
    rw [last]

/-! ### The edges of a vector (R15, R63 to R65) -/

/-- What the statement says of an edge that a vector places. -/
structure Lands (s : State) (v : VRec) (e : PEdge) : Prop where
  used : used s e.pin = true
  guard : s.tb.guardOpen[quadOf e.pin] = true
  valid : (e.pin, Fin.ofNat 6 e.e) ∉ s.tg.bad
  number : e.n = v.n
  index : e.idx = v.idx
  prog : e.prog = v.start + (if e.ui = 0 then 0 else e.ui * (v.period / v.nui)) + edgeOffset s e.pin v.tset e.e
  land : e.land = ((e.prog : Int) + (if e.e ≤ 3 then deskewDrv s e.pin else deskewCmp s e.pin) + 1638400 + memberShift s).toNat

/-- A planned edge stands at its programmed time (R63, R64). -/
theorem placePlan_prog (s : State) (v : VRec) (p : Pin) (burst : Bool) {k : Plan} (timed : k.timed) :
    (placePlan s v p burst k).prog
      = v.start + (if k.ui = 0 then 0 else k.ui * (v.period / v.nui)) + edgeOffset s p v.tset k.e := by
  have ui : (if k.perUi then k.ui * (v.period / v.nui) else 0) = if k.ui = 0 then 0 else k.ui * (v.period / v.nui) := by
    cases late : k.perUi with
    | false => simp [timed late]
    | true => by_cases first : k.ui = 0 <;> simp [first]
  rw [← ui]
  rfl

/-- An edge on a pin is a planned one of a generator that is not marked invalid, in a quadrant whose guard is open (R81, R436). -/
theorem of_mem_pinEdges {s : State} {v : VRec} {p : Pin} {e : PEdge} (h : e ∈ pinEdges s v p) :
    s.tb.guardOpen[quadOf p] = true
      ∧ ∃ (k : Plan) (burst : Bool), k.timed ∧ (p, Fin.ofNat 6 k.e) ∉ s.tg.bad ∧ e = placePlan s v p burst k := by
  simp only [pinEdges] at h
  split at h
  · rename_i guard
    obtain ⟨k, hk, rfl⟩ := List.mem_map.mp h
    obtain ⟨planned, valid⟩ := List.mem_filter.mp hk
    refine ⟨guard, k, _, ?_, by simpa using valid, rfl⟩
    split at planned
    · exact planBurst_timed _ _ k planned
    · exact planStd_timed _ _ k planned
  · simp at h

/-- Every edge that a vector places lands where the rules have it. -/
theorem lands_of_mem {s : State} {v : VRec} {e : PEdge} (h : e ∈ (usedPins s).flatMap (pinEdges s v)) : Lands s v e := by
  obtain ⟨p, hp, he⟩ := List.mem_flatMap.mp h
  obtain ⟨guard, k, burst, timed, valid, rfl⟩ := of_mem_pinEdges he
  exact { used := (List.mem_filter.mp hp).2, guard := guard, valid := valid, number := rfl, index := rfl
          prog := placePlan_prog s v p burst timed, land := rfl }

/-! ### What an overhang drops (R70, R79) -/

/-- A count of drops leaves the edges that wait. -/
theorem countDrop_edges (cause : Nat) (e : PEdge) (kind : Nat) (s : State) : (countDrop cause e kind s).tg.edges = s.tg.edges := by
  unfold countDrop
  dsimp only
  split
  · simp
  · split
    · simp
    · split <;> simp

/-- A drop leaves an edge as it is, or without its result. -/
theorem afterDrop_some {e x y : PEdge} (h : afterDrop e x = some y) : y = { x with dropped := y.dropped } := by
  unfold afterDrop at h
  split at h
  · split at h
    · simp at h
    · split at h
      · rw [← Option.some.inj h]
      · rw [Option.some.inj h]
  · rw [Option.some.inj h]

/-- Every edge of `t` waits in `l`, but for whether it gives a result. -/
def EdgesFrom (l : List PEdge) (t : State) : Prop := ∀ e ∈ t.tg.edges, ∃ x ∈ l, e = { x with dropped := e.dropped }

/-- A dropped overhang edge adds no edge. -/
theorem cutEdge_edgesFrom {l all : List PEdge} {s : State} {c : PEdge} (h : EdgesFrom l s) : EdgesFrom l (cutEdge all s c) := by
  have kept : ∀ t : State, t.tg.edges = s.tg.edges.filterMap (afterDrop c) → EdgesFrom l t := fun t ht e he => by
    rw [ht] at he
    obtain ⟨y, hy, dropped⟩ := List.mem_filterMap.mp he
    obtain ⟨x, hx, rest⟩ := h y hy
    refine ⟨x, hx, ?_⟩
    rw [afterDrop_some dropped, rest]
  unfold cutEdge
  split
  · exact h
  · split
    · exact kept _ (countDrop_edges 4 c 0 _)
    · exact kept _ rfl

/-- The parts that a dropped overhang edge changes. -/
theorem cutEdge_keeps (all : List PEdge) (s : State) (c : PEdge) :
    Keeps [.tg, .cs, .sp, .pins, .sq, .hi, .mg] s (cutEdge all s c) := by
  intro p hp
  unfold cutEdge dropEdge
  cases p <;> first | exact absurd (by decide) hp | (dsimp only [samePart]; split <;> [rfl; split <;> simp])

/-- What holds of the state and is kept by every drop holds after all of them. -/
theorem cutEdges_induction {P : State → Prop} (all : List PEdge) (step : ∀ s c, P s → P (cutEdge all s c)) (l : List PEdge) {s : State}
    (h : P s) : P (l.foldl (cutEdge all) s) := by
  induction l generalizing s with
  | nil => exact h
  | cons c l ih => exact ih (step s c h)

/-! ### The vector at the formatters -/

/-- The edges that a vector places (R15). -/
def vectorEdges (v : VRec) (s : State) : List PEdge := (usedPins s).flatMap (pinEdges s v)

/-- The edges of a vector that an overhang drops: those at or past the start that cuts it (R70). -/
def overhung (v : VRec) (s : State) : List PEdge := (vectorEdges v s).filter fun e => v.cut.any fun c => decide (c ≤ e.prog)

/-- The state with the vector's edges waiting, its samples due, and its record let go where no result is to come. -/
def vectorPlaced (v : VRec) (s : State) : State :=
  { s with
    tg := { s.tg with edges := s.tg.edges ++ vectorEdges v s }
    cs := { s.cs with raws := s.cs.raws ++ if s.cs.open_ then (rawPins s).flatMap (rawLands s v) else [] }
    sp := { s.sp with inflight := s.sp.inflight.filterMap fun x =>
      if x.n = v.n then (if v.idle ∨ v.dead then none else some { x with atFm := true }) else some x } }

theorem placeVector_eq (v : VRec) (s : State) :
    placeVector v s = (overhung v s).foldl (cutEdge (vectorEdges v s)) (vectorPlaced v s) := rfl

theorem vectorPlaced_keeps (v : VRec) (s : State) : Keeps [.tg, .cs, .sp] s (vectorPlaced v s) := by
  intro p hp
  cases p <;> first | exact absurd (by decide) hp | rfl

/-- A vector that no later one has started before places all its edges. -/
theorem placeVector_whole {v : VRec} (s : State) (h : v.cut = none) : placeVector v s = vectorPlaced v s := by
  have whole : overhung v s = [] := by simp [overhung, h]
  rw [placeVector_eq, whole, List.foldl_nil]

/-- The edges that wait after a vector was placed are those before it and its own. -/
theorem placeVector_edges (v : VRec) (s : State) : EdgesFrom (s.tg.edges ++ vectorEdges v s) (placeVector v s) := by
  have first : EdgesFrom (s.tg.edges ++ vectorEdges v s) (vectorPlaced v s) := fun e he => ⟨e, he, rfl⟩
  exact cutEdges_induction _ (fun _ _ => cutEdge_edgesFrom) _ first

theorem placeVector_keeps (v : VRec) (s : State) : Keeps [.tg, .cs, .sp, .pins, .sq, .hi, .mg] s (placeVector v s) :=
  cutEdges_induction (P := Keeps _ s) _ (fun t c h => h.trans (cutEdge_keeps _ t c)) _ ((vectorPlaced_keeps v s).mono (by simp))

/-! ### Containment (R60, R411, R413) -/

/-- Containment is no part of the event log. -/
theorem withLog_contained (a b : MG) : (withLog a b).contained = b.contained := rfl

/-- An event leaves containment as it is. -/
theorem issue_contained (code : Nat) (items : List Item) (s : State) : (issue code items s).mg.contained = s.mg.contained := by
  have same : withLog s.mg (issue code items s).mg = s.mg := issue_sameMg code items s
  exact (withLog_contained _ _).symm.trans (congrArg MG.contained same)

theorem containAgain_contained (cause : Nat) (s : State) : (containAgain cause s).mg.contained = s.mg.contained := by
  have kept : ∀ w : W64, ({ s with mg := { s.mg with contain := w } } : State).mg.contained = s.mg.contained := fun _ => rfl
  exact (issue_contained _ _ _).trans (kept _)

theorem enterContain_contained (cause : Nat) (s : State) : (enterContain cause s).mg.contained = true := by
  simp only [enterContain, issue_contained, errIrq_mg]

theorem recordDiscord_contained (cause member port detail : Nat) (s : State) :
    (recordDiscord cause member port detail s).mg.contained = s.mg.contained := by
  have kept : ∀ en : EN, ({ s with en := en } : State).mg.contained = s.mg.contained := fun _ => rfl
  exact (issue_contained _ _ _).trans (kept _)

/-- Containment holds after every cause of it. -/
theorem contain_contained (cause : Nat) (s : State) : (contain cause s).mg.contained = true := by
  unfold contain
  split
  · rename_i already
    rw [containAgain_contained, already]
  · dsimp only
    split
    · have mg : ∀ a b c t, (sendDiscord a b c t).mg = t.mg := fun a b c t => by simp
      rw [mg, recordDiscord_contained, enterContain_contained]
    · exact enterContain_contained cause s

/-- The state without a vector that is let go without edges. -/
def withoutVector (v : VRec) (s : State) : State := { s with sp := { s.sp with inflight := s.sp.inflight.erase v } }

/-- The oldest vector in the pipeline reaches the formatters, 96 fabric cycles after its issue (R15, R60). -/
theorem exec_vectorAtFormatter {s : State} {v : VRec} (oldest : s.sp.inflight.find? (fun x => !x.atFm) = some v) :
    let u := toEpoch (v.start - v.start % 8192 + 786432) s
    exec .vectorAtFormatter s = .next (if tsValid u v.tset then placeVector v u
      else if v.idle then withoutVector v u else contain 0x03 (issue 0x0206 [iv v.idx, i1 v.tset] (withoutVector v u))) := by
  intro u
  show Host.Outcome.next _ = _
  rw [oldest]
  rfl

end Sys2Proof.Machine

open Sys2Proof Sys2Proof.Machine

/-- Settles O17: where every edge of the vector lands, what a cut leaves of them, and the vector with an invalid timing set. -/
theorem formatterPlacesEdges : Obligations.formatterPlacesEdges := by
  unfold Obligations.formatterPlacesEdges
  intro s v oldest u
  have row := exec_vectorAtFormatter oldest
  refine ⟨fun valid => ?valid, fun invalid idle => ?idle, fun invalid busy => ?contains⟩
  case valid =>
    refine ⟨placeVector v u, vectorEdges v u, ?_, rfl, fun e he => ?_, placeVector_edges v u, fun uncut => ?_, placeVector_keeps v u⟩
    · rw [row, if_pos valid]
    · obtain ⟨used, guard, good, number, index, prog, land⟩ := lands_of_mem he
      exact ⟨used, guard, good, number, index, prog, land⟩
    · rw [placeVector_whole u uncut]
      exact ⟨rfl, rfl, vectorPlaced_keeps v u⟩
  case idle =>
    rw [row, if_neg (by rw [invalid]; decide), if_pos idle]
    rfl
  case contains =>
    refine ⟨contain 0x03 (issue 0x0206 [iv v.idx, i1 v.tset] (withoutVector v u)), ?_, contain_contained 0x03 _⟩
    rw [row, if_neg (by rw [invalid]; decide), if_neg (by rw [busy]; decide)]
end

section
/-! SUPPORT. What a service word does once it is decoded (R198, R217, R220), what a staged write during a run leaves (R107, R108), and
the statement on `LVL`, `PFN` and `PMEAS` (Table 8.5, R221). -/

namespace Sys2Proof.Machine

open Sys2Proof

/-! ### The word of a procedure -/

/-- The account of decode slots changes the slots of the sequencer only (R217). -/
theorem decodeAccount_sq (s : State) : ∃ d u a, (decodeAccount s).sq = { s.sq with decoded := d, decUsed := u, decAt := a } := by
  simp only [decodeAccount]
  split
  · exact ⟨s.sq.decoded, s.sq.decUsed, s.sq.decAt, rfl⟩
  · exact ⟨_, _, _, rfl⟩

/-- A slot for a service word changes the slots of the sequencer only (R217). -/
theorem freeSlot_sq (s : State) : ∃ d u a, (freeSlot s).sq = { s.sq with decoded := d, decUsed := u, decAt := a } := by
  unfold freeSlot
  dsimp only
  generalize _ * 8192 = e
  obtain ⟨d, u, a, before⟩ := decodeAccount_sq s
  obtain ⟨d', u', a', after⟩ := decodeAccount_sq (toEpoch e (decodeAccount s))
  rw [after, (toEpoch_frame e (decodeAccount s)).2.2.2.1, before]
  exact ⟨_, _, _, rfl⟩

theorem freeSlot_proc (s : State) : (freeSlot s).sq.proc = s.sq.proc := by
  obtain ⟨d, u, a, h⟩ := freeSlot_sq s
  rw [h]

theorem freeSlot_running (s : State) : running (freeSlot s) = running s := by
  obtain ⟨d, u, a, h⟩ := freeSlot_sq s
  rw [running, h, running]

/-- A service word that is ready has its effect, on the state past it (R198, R220). -/
theorem svcRun_ready {op w : Nat} {p : Proc} {s u : State} (h : SvcReady op w p s u) (f : Nat → Nat → Proc → State → State) :
    svcRun op .ok f s = f p.pc w { p with pc := p.pc + 1 } (withProc (some { p with pc := p.pc + 1 }) u) := by
  obtain ⟨proc, unblocked, rfl, rfl, opcode, decodes⟩ := h
  have past : updProc (fun q => { q with pc := q.pc + 1 }) (freeSlot s) = withProc (some { p with pc := p.pc + 1 }) (freeSlot s) := by
    rw [updProc, freeSlot_proc, proc]
    rfl
  simp [svcRun, storeEcc, proc, unblocked, decodes, opcode, past]

theorem SvcReady.running_eq {op w : Nat} {p : Proc} {s u : State} (h : SvcReady op w p s u) : running u = running s := by
  obtain ⟨-, -, rfl, -⟩ := h
  exact freeSlot_running s

/-! ### Staged writes during a run (R107, R108) -/

/-- A change of pins is one of the pins only. -/
theorem setPins_keeps (v : Vector PinSt 512) (s : State) : Keeps [.pins] s { s with pins := v } := by
  intro p hp
  cases p <;> first | exact absurd (by decide) hp | rfl

/-- A pin with the values before the present cycle's writes kept beside (R108). -/
def keptBeside (now : Nat) (p : PinSt) : PinSt :=
  if p.stgAt = now then p else { p with stgAt := now, old := p.stg, dacs := vmap keepOld p.dacs }

theorem stagePin_eq (now : Nat) (f : PinSt → PinSt) (p : PinSt) : stagePin now f p = f (keptBeside now p) := rfl

/-- What is kept beside changes neither what is staged nor what acts. -/
theorem keptBeside_front (now : Nat) (p : PinSt) :
    (keptBeside now p).stg = p.stg ∧ (keptBeside now p).ctl = p.ctl ∧ (keptBeside now p).enabled = p.enabled := by
  unfold keptBeside
  split <;> exact ⟨rfl, rfl, rfl⟩

/-- What is kept beside a DAC's codes changes none of them. -/
theorem keptBeside_dac (now : Nat) (p : PinSt) (d : DacIx) : ∃ o, (keptBeside now p).dacs[d] = { p.dacs[d] with old := o } := by
  unfold keptBeside
  split
  · exact ⟨_, rfl⟩
  · exact ⟨_, vmap_get keepOld p.dacs d⟩

/-- The pins after a write to some of them is staged. -/
def stagedPins (sel : List Pin) (f : PinSt → PinSt) (s : State) : Vector PinSt 512 :=
  vmapIdx (fun p x => if sel.contains p then stagePin (cycleStart s) f x else x) s.pins

theorem stagedPins_other {sel : List Pin} (f : PinSt → PinSt) (s : State) {r : Pin} (h : r ∉ sel) :
    (stagedPins sel f s)[r] = s.pins[r] := by
  rw [stagedPins, vmapIdx_get, if_neg (by simpa using h)]

theorem stagedPins_own {sel : List Pin} (f : PinSt → PinSt) (s : State) {r : Pin} (h : r ∈ sel) :
    (stagedPins sel f s)[r] = f (keptBeside (cycleStart s) s.pins[r]) := by
  rw [stagedPins, vmapIdx_get, if_pos (by simpa using h), stagePin_eq]

/-- During a run no active value moves before a level tick: the write to a group is staged, and nothing else (R107, R110). -/
theorem stageGroup_running {s : State} (run : running s = true) (sel : List Pin) (f : PinSt → PinSt) :
    (if sel.isEmpty then s else stageWrite (fun p => sel.contains p) (fun _ => f) s) = { s with pins := stagedPins sel f s } := by
  split
  · rename_i empty
    have none : stagedPins sel f s = s.pins := vmapIdx_eq_self _ fun p x => by simp [List.isEmpty_iff.mp empty]
    rw [none]
  · have run' : ∀ v, running { s with pins := v } = true := fun v => run
    simp only [stageWrite, run', if_true]
    rfl

/-! ### `LVL` and `PFN` -/

/-- A DAC of a group as `LVL` stages it (Table 8.5). -/
def lvlDac (w now : Nat) (i : DacIx) (d : Dac) : Dac :=
  if dacSel (fld w 115 110) i then { d with staged := BitVec.ofNat 16 (fld w 15 0), svcAt := some now } else d

/-- A pin of a group as `LVL` stages it. -/
def lvlPin (w now : Nat) (p : PinSt) : PinSt := { p with dacs := vmapIdx (lvlDac w now) p.dacs }

theorem lvlWord_running {s : State} (run : running s = true) (w : Nat) :
    lvlWord w s = { s with pins := stagedPins (groupPins s (fld w 121 116)) (lvlPin w (cycleStart s)) s } :=
  stageGroup_running run _ _

/-- `LVL` stages the code on the selected DACs and moves no active value. -/
theorem lvlPin_dac (w now now' : Nat) (p : PinSt) (d : DacIx) :
    let q := lvlPin w now (keptBeside now' p)
    q.dacs[d].staged = (if (fld w 115 110).testBit d.val then BitVec.ofNat 16 (fld w 15 0) else p.dacs[d].staged)
      ∧ q.dacs[d].req = p.dacs[d].req ∧ q.dacs[d].act = p.dacs[d].act ∧ q.dacs[d].out = p.dacs[d].out := by
  intro q
  obtain ⟨o, kept⟩ := keptBeside_dac now' p d
  have dac : q.dacs[d] = lvlDac w now d { p.dacs[d] with old := o } := by rw [← kept]; exact vmapIdx_get _ _ d
  rw [dac, lvlDac, dacSel]
  split <;> exact ⟨rfl, rfl, rfl, rfl⟩

/-- The three control fields that `PFN` stages (Table 8.5). -/
def pfnCtl (w : Nat) (c : FeCtl) : FeCtl :=
  { c with func := BitVec.ofNat 3 (fld w 2 0), mode := BitVec.ofNat 2 (fld w 12 11), range := BitVec.ofNat 3 (fld w 15 13) }

/-- A pin of a group as `PFN` stages it. -/
def pfnPin (w : Nat) (p : PinSt) : PinSt := { p with stg := pfnCtl w p.stg }

theorem pfnWord_running {s : State} (run : running s = true) (w : Nat) :
    pfnWord w s = { s with pins := stagedPins (groupPins s (fld w 121 116)) (pfnPin w) s } :=
  stageGroup_running run _ _

/-! ### `PMEAS` (R221) -/

/-- A request joins its queue, whatever its place there (R19). -/
theorem joinQueue_length (r : MeasReq) (q : List MeasReq) : (joinQueue r q).length = q.length + 1 := by
  unfold joinQueue
  split
  · simp
  · have parts := congrArg List.length (List.takeWhile_append_dropWhile (p := fun x => x.src.isNone || x.arrived != r.arrived) (l := q))
    simp only [List.length_append] at parts ⊢
    simp only [List.length_cons, List.length_nil]
    omega

/-- A measurement of one pin is asked for at its glove. -/
def askOne (src : Option W16) (settle log2n now : Nat) (t : State) (p : Pin) : State :=
  updAdc (gloveOf p) (fun x => { x with
    queue := joinQueue { src := src, pin := p, settle := settle, log2n := log2n, arrived := now } x.queue }) t

theorem askMeas_eq (src : Option W16) (pins : List Pin) (settle log2n : Nat) (s : State) :
    askMeas src pins settle log2n s = pins.foldl (askOne src settle log2n s.tb.now) s := rfl

/-- One pin asked for lengthens the queue of its glove by one. -/
theorem askOne_queue (src : Option W16) (settle log2n now : Nat) (t : State) (p : Pin) (g : Glove) :
    (askOne src settle log2n now t p).pf.adcs[g].queue.length
      = t.pf.adcs[g].queue.length + (if gloveOf p = g then 1 else 0) := by
  by_cases own : gloveOf p = g
  · subst own
    rw [askOne, updAdc_adcs, vupd_self, if_pos rfl]
    exact joinQueue_length _ _
  · rw [askOne, updAdc_adcs, vupd_other _ _ own, if_neg own, Nat.add_zero]

/-- Every glove's queue grows by its pins among those asked for. -/
theorem askOnes_queue (src : Option W16) (settle log2n now : Nat) (pins : List Pin) (t : State) (g : Glove) :
    (pins.foldl (askOne src settle log2n now) t).pf.adcs[g].queue.length
      = t.pf.adcs[g].queue.length + (pins.filter fun r => gloveOf r = g).length := by
  induction pins generalizing t with
  | nil => rfl
  | cons p pins ih =>
    rw [List.foldl_cons, ih, askOne_queue, List.filter_cons]
    by_cases own : gloveOf p = g
    · simp only [own, if_true, decide_true, List.length_cons]
      omega
    · simp only [own, if_false, decide_false, Bool.false_eq_true, Nat.add_zero]

/-- The service context after `PMEAS` of a group in `GENERAL` regions: every pin asked for, the context held. -/
theorem pmeasWord_asks {s : State} (a w : Nat) (some_ : groupPins s (fld w 121 116) ≠ [])
    (general : bytesIn s [5] (fld w 40 0) (8 * (groupPins s (fld w 121 116)).length) = true) :
    let pins := groupPins s (fld w 121 116)
    pmeasWord a w s = blockOn (.pmeas (fld w 40 0) pins pins s.tb.now) (askMeas none pins (fld w 115 100) (fld w 99 96) s) := by
  have asked : (groupPins s (fld w 121 116)).isEmpty = false := by simpa using some_
  simp [pmeasWord, asked, general]

/-- The context is held by the word. -/
theorem asks_block (p : Proc) (b : Block) (pins : List Pin) (settle log2n : Nat) (s : State) :
    ((blockOn b (askMeas none pins settle log2n (withProc (some p) s))).sq.proc.map fun q => q.block) = some (some b) := by
  simp [blockOn]

/-- `PMEAS` changes the queues at the gloves and the procedure. -/
theorem asks_keeps (p : Option Proc) (b : Block) (pins : List Pin) (settle log2n : Nat) (s : State) :
    Keeps [.pf, .sq] s (blockOn b (askMeas none pins settle log2n (withProc p s))) := by
  intro part hp
  cases part <;> first | exact absurd (by decide) hp | simp [samePart]

end Sys2Proof.Machine

open Sys2Proof Sys2Proof.Machine

/-- Settles O26: `LVL` and `PFN` stage during a run, `PMEAS` asks at the gloves and holds the context, an empty group moves on. -/
theorem serviceLevelsAndMeasurements : Obligations.serviceLevelsAndMeasurements := by
  unfold Obligations.serviceLevelsAndMeasurements
  intro s u w p v pins run
  refine ⟨fun ready => ?lvl, fun ready => ?pfn, fun ready some_ general => ?pmeas, fun ready empty => ?empty⟩
  case lvl =>
    have running_v : running v = true := ready.running_eq.trans run
    refine ⟨lvlWord w v, congrArg Host.Outcome.next (svcRun_ready ready _), ?_⟩
    rw [lvlWord_running running_v]
    refine ⟨setPins_keeps _ v, fun r hr => stagedPins_other _ v hr, fun r hr d => ?_⟩
    have own := stagedPins_own (lvlPin w (cycleStart v)) v hr
    obtain ⟨staged, req, act, out⟩ := lvlPin_dac w (cycleStart v) (cycleStart v) v.pins[r] d
    obtain ⟨-, ctl, -⟩ := keptBeside_front (cycleStart v) v.pins[r]
    exact ⟨(congrArg (fun q => q.dacs[d].staged) own).trans staged, (congrArg (fun q => q.dacs[d].req) own).trans req,
      (congrArg (fun q => q.dacs[d].act) own).trans act, (congrArg (fun q => q.dacs[d].out) own).trans out,
      (congrArg PinSt.ctl own).trans ctl⟩
  case pfn =>
    have running_v : running v = true := ready.running_eq.trans run
    refine ⟨pfnWord w v, congrArg Host.Outcome.next (svcRun_ready ready _), ?_⟩
    rw [pfnWord_running running_v]
    refine ⟨setPins_keeps _ v, fun r hr => stagedPins_other _ v hr, fun r hr => ?_⟩
    have own := stagedPins_own (pfnPin w) v hr
    obtain ⟨stg, ctl, enabled⟩ := keptBeside_front (cycleStart v) v.pins[r]
    exact ⟨(congrArg PinSt.stg own).trans (congrArg (pfnCtl w) stg), (congrArg PinSt.ctl own).trans ctl,
      (congrArg PinSt.enabled own).trans enabled⟩
  case pmeas =>
    refine ⟨pmeasWord p.pc w v, congrArg Host.Outcome.next (svcRun_ready ready _), ?_⟩
    rw [pmeasWord_asks (s := v) p.pc w some_ general]
    refine ⟨asks_keeps _ _ _ _ _ u, ?_, fun g => ?_⟩
    · exact asks_block _ _ _ _ _ u
    · have pf : ∀ b t, (blockOn b t).pf = t.pf := fun b t => by simp
      rw [pf, askMeas_eq]
      exact askOnes_queue _ _ _ _ _ v g
  case empty =>
    have none : (groupPins v (fld w 121 116)).isEmpty = true := List.isEmpty_iff.mpr empty
    refine congrArg Host.Outcome.next ((svcRun_ready ready _).trans ?_)
    exact if_pos none
end

section
/-! SUPPORT. What `PPMU_MEAS_START`, `PPMU_MUX_CONNECTED`, `PPMU_SETTLE_EXPIRY` and `PPMU_CONVERSION` do (R19, R126, R138), and the
statement on PPMU measurements. -/

namespace Sys2Proof.Machine

open Sys2Proof

/-! ### One glove ADC -/

/-- A change of one ADC is one of the front end only. -/
theorem updAdc_keeps (g : Glove) (f : Adc → Adc) (s : State) : Keeps [.pf] s (updAdc g f s) := by
  intro p hp
  cases p <;> first | exact absurd (by decide) hp | simp [samePart]

/-- The ADC changed. -/
theorem updAdc_own (g : Glove) (f : Adc → Adc) (s : State) : (updAdc g f s).pf.adcs[g] = f s.pf.adcs[g] := by
  rw [updAdc_adcs, vupd_self]

/-- The ADCs not changed. -/
theorem updAdc_others (g : Glove) (f : Adc → Adc) (s : State) : ∀ k : Glove, k ≠ g → (updAdc g f s).pf.adcs[k] = s.pf.adcs[k] :=
  fun k hk => by rw [updAdc_adcs, vupd_other _ _ hk.symm]

/-! ### The rows of a measurement -/

theorem exec_ppmuMeasStart (g : Glove) (s : State) : exec (.ppmuMeasStart g) s = .next (measStart g s) := rfl

/-- A free ADC takes a mailbox request at once (R19, R126). -/
theorem measStart_mailbox {g : Glove} {r : MeasReq} {q : List MeasReq} {s : State} (free : s.pf.adcs[g].cur = none)
    (oldest : s.pf.adcs[g].queue = r :: q) (mailbox : r.src ≠ none) (own : forCheck s r = false) :
    measStart g s = beginMeas g r s := by
  have src : r.src.isSome = true := Option.isSome_iff_ne_none.mpr mailbox
  unfold measStart
  rw [free, oldest]
  simp [own, src]

theorem exec_ppmuMuxConnected {g : Glove} {m : Meas} {s : State} (cur : s.pf.adcs[g].cur = some m) (phase : m.phase = .mux) :
    exec (.ppmuMuxConnected g) s
      = .next (updAdc g (fun a => { a with cur := some { m with phase := .settle } }) (toTime m.muxEnd s)) := by
  show Host.Outcome.next _ = _
  rw [cur]
  simp [phase]

theorem exec_ppmuSettleExpiry {g : Glove} {m : Meas} {s : State} (cur : s.pf.adcs[g].cur = some m) (phase : m.phase = .settle) :
    let u := toTime (max m.muxEnd s.pins[m.req.pin].ppmuTick + 8192000 * m.req.settle) s
    exec (.ppmuSettleExpiry g) s
      = .next (updAdc g (fun a => { a with cur := some { m with phase := .conv, muxEnd := u.tb.now } }) u) := by
  intro u
  show Host.Outcome.next _ = _
  rw [cur]
  simp [phase, u]

theorem exec_ppmuConversion {g : Glove} {m : Meas} {s : State} (code : BitVec 18) (limited : Bool)
    (cur : s.pf.adcs[g].cur = some m) (phase : m.phase = .conv) :
    exec (.ppmuConversion g code limited) s = .next (convert g code limited m s) := by
  show Host.Outcome.next _ = _
  rw [cur]
  simp [phase]

/-! ### Clamps of the force stage (R123) -/

/-- A clamp leaves the ADCs as they are. -/
@[simp] theorem noteClamp_adcs (m : Meas) (clamped : Bool) (s : State) : (noteClamp m clamped s).pf.adcs = s.pf.adcs := by
  unfold noteClamp
  dsimp only
  split <;> simp

/-- The first clamp of a measurement sets the flag. -/
theorem noteClamp_flag (m : Meas) (clamped : Bool) (s : State) :
    (noteClamp m clamped s).pf.ppmuClamp = (s.pf.ppmuClamp || (clamped && !m.clamp)) := by
  unfold noteClamp
  dsimp only
  split
  · rename_i h
    simp [h]
  · rename_i h
    have none : (clamped && !m.clamp) = false := by simpa using h
    simp [none]

theorem noteClamp_keeps (m : Meas) (clamped : Bool) (s : State) : Keeps [.pf, .hi, .mg] s (noteClamp m clamped s) := by
  intro p hp
  cases p <;> first | exact absurd (by decide) hp | simp [samePart]

/-! ### The end of a measurement (R126 step 4) -/

/-- The result of a service request leaves the front end as it is. -/
@[simp] theorem giveService_pf (p : Pin) (w : W64) (s : State) : (giveService p w s).pf = s.pf := by
  unfold giveService
  split
  · dsimp only
    split <;> simp
  · rfl

/-- The result of a mailbox request goes to the host. -/
theorem giveMailbox_frame (tag : W16) (p : Pin) (w : W64) (s : State) :
    (giveMailbox tag p w s).pf = s.pf ∧ (giveMailbox tag p w s).pins = s.pins := by
  unfold giveMailbox
  dsimp only
  split
  · split <;> simp
  · simp

/-- The end of a measurement frees its ADC. -/
theorem measDone_adcs (g : Glove) (m : Meas) (s : State) :
    (measDone g m s).pf.adcs = (updAdc g (fun a => { a with cur := none }) s).pf.adcs := by
  unfold measDone
  dsimp only
  split
  · rw [(giveMailbox_frame _ _ _ _).1]
  · split
    · rw [giveService_pf]
    · rfl

/-- The end of a mailbox measurement takes no time, so that no pin changes. -/
theorem measDone_pins {m : Meas} (g : Glove) (s : State) (mailbox : m.req.src ≠ none) : (measDone g m s).pins = s.pins := by
  obtain ⟨tag, src⟩ := Option.ne_none_iff_exists'.mp mailbox
  simp only [measDone, src, (giveMailbox_frame _ _ _ _).2]
  simp

/-! ### One conversion (R126 step 3) -/

/-- A measurement with one conversion more. -/
def counted (code : BitVec 18) (clamped : Bool) (m : Meas) : Meas :=
  { m with n := m.n + 1, sum := m.sum + code.toInt, overR := m.overR || (code == 0x1FFFF#18 || code == 0x20000#18)
           clamp := m.clamp || clamped }

/-- A conversion ends at its due time `u`; the last one ends the measurement. -/
theorem convert_eq (g : Glove) (code : BitVec 18) (limited : Bool) (m : Meas) (s : State) :
    let u := toTime (m.muxEnd + 4096000 * (m.n + 1)) s
    let clamped := limited && forces u m.req.pin
    convert g code limited m s
      = if 2 ^ m.req.log2n ≤ m.n + 1 then measDone g (counted code clamped m) (noteClamp m clamped u)
        else updAdc g (fun a => { a with cur := some (counted code clamped m) }) (noteClamp m clamped u) := rfl

end Sys2Proof.Machine

open Sys2Proof Sys2Proof.Machine

/-- Settles O30: the four rows of a measurement on one ADC, each by what it does to that ADC and what it leaves. -/
theorem ppmuMeasures : Obligations.ppmuMeasures := by
  unfold Obligations.ppmuMeasures
  intro s g others
  refine ⟨fun r q free oldest mailbox own => ?start, fun m cur phase => ?mux, fun m cur phase => ?settle,
    fun m code limited cur phase => ?conversion⟩
  case start =>
    refine ⟨beginMeas g r s, ?_, ?_, updAdc_others g _ s, updAdc_keeps g _ s⟩
    · rw [exec_ppmuMeasStart, measStart_mailbox free oldest mailbox own]
    · rw [beginMeas, updAdc_own, oldest, List.tail_cons]
  case mux => exact ⟨_, exec_ppmuMuxConnected cur phase, updAdc_own g _ _, updAdc_others g _ _, updAdc_keeps g _ _⟩
  case settle => exact ⟨_, exec_ppmuSettleExpiry cur phase, updAdc_own g _ _, updAdc_others g _ _, updAdc_keeps g _ _⟩
  case conversion =>
    intro u
    have adcs := noteClamp_adcs m (limited && forces u m.req.pin) u
    refine ⟨fun more => ?further, fun last => ?last⟩
    case further =>
      refine ⟨_, exec_ppmuConversion code limited cur phase, ?_⟩
      rw [convert_eq, if_neg (by omega)]
      refine ⟨?_, noteClamp_flag m _ u, fun k hk => ?_, (noteClamp_keeps m _ u).trans ((updAdc_keeps g _ _).mono (by simp))⟩
      · rw [updAdc_own]
        rfl
      · rw [updAdc_others g _ _ k hk, adcs]
    case last =>
      refine ⟨_, exec_ppmuConversion code limited cur phase, ?_⟩
      rw [convert_eq, if_pos last]
      refine ⟨?_, fun k hk => ?_, fun mailbox => ?_⟩
      · rw [measDone_adcs, updAdc_own]
      · rw [measDone_adcs, updAdc_others g _ _ k hk, adcs]
      · rw [measDone_pins (m := counted _ _ m) g _ mailbox, (noteClamp_frame _ _ _).2.1]
end

section
/-! SUPPORT. The stream slots that frames take when they close on a full front (R24, R168, R284, R289, R290), and the refutation of the
statement on the memory commands: an epoch that wraps while a transfer waits for its slot closes the stream's frames (R44), and these
take further stream slots ahead, so that the class's last slot has not come when the transfer is complete. -/

namespace Sys2Proof.Machine

open Sys2Proof

/-! ### The stream's slots -/

/-- The last slot that the stream class has taken. -/
def streamAt (s : State) : Nat := s.pm.slotAt[classIx .stream]

/-- What that slot carries. -/
def streamUsed (s : State) : Nat := s.pm.slotUsed[classIx .stream]

theorem stream_of_pm {s t : State} (h : t.pm = s.pm) : streamAt t = streamAt s ∧ streamUsed t = streamUsed s := by
  rw [streamAt, streamUsed, h]
  exact ⟨rfl, rfl⟩

/-- `n` bytes more are booked for the stream: in a later slot, or beside what the last one carries. -/
def BooksMore (n : Nat) (s t : State) : Prop :=
  streamAt s < streamAt t ∨ streamAt t = streamAt s ∧ streamUsed t = streamUsed s + n

theorem BooksMore.trans {m n : Nat} {s t u : State} (h : BooksMore m s t) (k : BooksMore n t u) : BooksMore (m + n) s u := by
  unfold BooksMore at *
  omega

/-- What a slot with room for a round carries after it: 64,000 bytes at most (R168). -/
theorem slotLoad_le {s : State} {c : SlotClass} {k n : Nat} (room : slotRoom s c k n = true) : n + slotLoad s c k ≤ 64000 := by
  unfold slotRoom slotCap at room
  rw [Bool.or_eq_true, decide_eq_true_eq, decide_eq_true_eq] at room
  have : slotBytes = 57600 := rfl
  omega

/-- A frame takes one round of requests (R170). -/
theorem bookSlots_streamFrame (s : State) : bookSlots .stream 4096 s = bookRound .stream 4096 s := by
  have whole : ∀ b, (4096 - 1) / frameSupply b .stream = 0 := by decide +kernel
  have round : 4096 ≤ roundBytes .stream := by decide
  simp only [bookSlots, whole, if_true, Nat.zero_mul, Nat.sub_zero, bookRounds, round]

/-- A frame is booked in a stream slot that has room for it. -/
theorem bookSlots_books (s : State) :
    BooksMore 4096 s (bookSlots .stream 4096 s) ∧ streamUsed (bookSlots .stream 4096 s) ≤ 64000 := by
  obtain ⟨notBefore, -, room⟩ := findSlot_right (s := s) (n := 4096) (by decide) .stream (max (slotNow s) (streamAt s))
  have at_ : streamAt (bookSlots .stream 4096 s) = findSlot s .stream 4096 (max (slotNow s) (streamAt s)) 128 := by
    rw [bookSlots_streamFrame]
    exact vset_self _ _ _
  have used : streamUsed (bookSlots .stream 4096 s) = 4096 + slotLoad s .stream (streamAt (bookSlots .stream 4096 s)) := by
    rw [at_, bookSlots_streamFrame]
    exact vset_self _ _ _
  rw [← at_] at notBefore room
  refine ⟨?_, by rw [used]; exact slotLoad_le room⟩
  by_cases same : streamAt (bookSlots .stream 4096 s) = streamAt s
  · have load : slotLoad s .stream (streamAt s) = streamUsed s := if_pos rfl
    rw [same, load] at used
    exact .inr ⟨same, by omega⟩
  · exact .inl (by omega)

/-! ### A frame that closes on a full front (R289, R290) -/

/-- The front is full and frames spill to the staging region, which has room for `n` more; nothing waits to be placed. -/
structure Crowded (n : Nat) (s : State) : Prop where
  full : s.cs.front.length = 1024
  spills : s.cs.staged ≠ []
  room : s.cs.staged.length + n ≤ stagingCap s
  data : s.cs.data = []
  marks : s.cs.begin_ ++ s.cs.marks ++ s.cs.lostMarks.map lostMark = []
  episode : s.cs.dropRun = none

/-- Nothing waits for a set. -/
theorem Crowded.nextItem_none {n : Nat} {s : State} (h : Crowded n s) (ps : Fin 16) : nextItem ps s = none := by
  have datum : firstDatum s ps = none := by rw [firstDatum, h.data, List.foldl_nil]
  have mark : nextMark s ps = none := by rw [nextMark, h.marks, firstMark, List.foldl_nil]
  rw [nextItem, datum, mark]

theorem Crowded.placeAll_eq {n : Nat} {s : State} (h : Crowded n s) (ps : Fin 16) (upTo : Option Nat) (k : Nat) :
    placeAll ps upTo k s = s := by
  cases k with
  | zero => rfl
  | succ k => rw [placeAll, h.nextItem_none]; rfl

/-- While frames spill the stream does not stand at level Direct. -/
theorem Crowded.not_direct {n : Nat} {s : State} (h : Crowded n s) : direct s = false := by
  have some_ : s.cs.staged.isEmpty = false := by simpa using h.spills
  rw [direct, some_, Bool.false_and]

/-- With room in the staging region no frame is dropped. -/
theorem Crowded.not_mustDrop {n : Nat} {s : State} (h : Crowded (n + 1) s) : mustDrop s = false := by
  have room := h.room
  have space : ¬ (1024 ≤ s.cs.front.length ∧ stagingCap s ≤ s.cs.staged.length) := by omega
  rw [mustDrop, decide_eq_false space, Bool.false_and]

/-- The state with other open frames and the next `FSEQ`. -/
def withFrames (v : Vector (Option Frame) 16) (k : Nat) (s : State) : State := { s with cs := { s.cs with frames := v, fseq := k } }

/-- The state with one frame more in the front. -/
def frontPut (f : Frame) (s : State) : State := { s with cs := { s.cs with front := s.cs.front ++ [f] } }

theorem frontPut_cs (f : Frame) (s : State) : (frontPut f s).cs = { s.cs with front := s.cs.front ++ [f] } := rfl

theorem Crowded.withFrames {n : Nat} {s : State} (h : Crowded n s) (v : Vector (Option Frame) 16) (k : Nat) :
    Crowded n (withFrames v k s) :=
  { full := h.full, spills := h.spills, room := h.room, data := h.data, marks := h.marks, episode := h.episode }

/-- The frame that makes room is written to the staging region, in stream slots ahead. -/
theorem Crowded.frontRoom_eq {n : Nat} {s : State} (h : Crowded n s) :
    frontRoom s = stageOldest (bookSlots .stream 4096 s) := by
  have full := h.full
  rw [frontRoom, if_neg (by omega), if_neg (by rw [h.not_direct]; decide)]

/-- The records of slots and the region map: what booking and staging frames are decided by. -/
def slotsOf (s : State) : Vector Nat 5 × Vector Nat 5 × Vector Region 16 := (s.pm.slotAt, s.pm.slotUsed, s.pm.regions)

theorem frontPut_slotsOf (f : Frame) (s : State) : slotsOf (frontPut f s) = slotsOf s := rfl

theorem dramWrite_slotsOf (a : Nat) (l : List Byte) (s : State) : slotsOf (dramWrite a l s) = slotsOf s := by
  unfold dramWrite
  split <;> rfl

/-- What staging a frame changes of the pattern memory lies in device DRAM. -/
theorem stageOldest_slotsOf (s : State) : slotsOf (stageOldest s) = slotsOf s := by
  unfold stageOldest
  split
  · rfl
  · rename_i f r _
    have staged := dramWrite_slotsOf (stageAddr s s.cs.stagedAt) (frameBytes s.cs.openSeq f) s
    dsimp only
    split
    · have pm : ∀ code items (t : State), (issue code items t).pm = t.pm := fun code items t => by simp
      rw [slotsOf, pm]
      exact staged
    · exact staged

/-- While frames spill a further one is staged without an event (Table 11.7). -/
theorem stageOldest_cs {f : Frame} {r : List Frame} {s : State} (front : s.cs.front = f :: r) (spills : s.cs.staged ≠ []) :
    ∃ a p e, (stageOldest s).cs
      = { s.cs with front := r, staged := s.cs.staged ++ [f], stagedAt := a, stagedPeak := p, episodeN := e } := by
  have further : s.cs.staged.isEmpty = false := by simpa using spills
  have cs : ∀ a l, (dramWrite a l s).cs = s.cs := fun a l => by simp
  unfold stageOldest
  rw [front]
  simp only [further, Bool.false_eq_true, if_false, cs]
  exact ⟨_, _, _, rfl⟩

theorem bookSlots_regions (s : State) : (bookSlots .stream 4096 s).pm.regions = s.pm.regions := by
  rw [bookSlots_streamFrame]
  rfl

theorem stagingCap_of_regions {s t : State} (h : t.pm.regions = s.pm.regions) : stagingCap t = stagingCap s := by
  rw [stagingCap, regionByType, h]
  rfl

/-- A frame staged for another that enters the full front takes a round of stream slots (R24, R289). -/
theorem Crowded.spill {n : Nat} {s : State} (h : Crowded (n + 1) s) (f : Frame) :
    let t := frontPut f (stageOldest (bookSlots .stream 4096 s))
    Crowded n t ∧ BooksMore 4096 s t ∧ streamUsed t ≤ 64000 ∧ t.cs.frames = s.cs.frames := by
  intro t
  have booked : (bookSlots .stream 4096 s).cs = s.cs := by simp
  have full := h.full
  obtain ⟨g, r, front⟩ : ∃ g r, s.cs.front = g :: r := List.exists_cons_of_length_pos (by omega)
  obtain ⟨a, p, e, cs⟩ := stageOldest_cs (s := bookSlots .stream 4096 s) (by rw [booked, front]) (by rw [booked]; exact h.spills)
  rw [booked] at cs
  have slots : slotsOf t = slotsOf (bookSlots .stream 4096 s) := (frontPut_slotsOf f _).trans (stageOldest_slotsOf _)
  simp only [slotsOf, Prod.mk.injEq] at slots
  obtain ⟨at_, used, regions⟩ := slots
  have cs' : t.cs = { s.cs with front := r ++ [f], staged := s.cs.staged ++ [g], stagedAt := a, stagedPeak := p, episodeN := e } := by
    rw [frontPut_cs, cs]
  have cap : stagingCap t = stagingCap s := stagingCap_of_regions (regions.trans (bookSlots_regions s))
  obtain ⟨books, fits⟩ := bookSlots_books s
  have sameAt : streamAt t = streamAt (bookSlots .stream 4096 s) := by rw [streamAt, at_, streamAt]
  have sameUsed : streamUsed t = streamUsed (bookSlots .stream 4096 s) := by rw [streamUsed, used, streamUsed]
  refine ⟨?crowded, ?books, sameUsed.le.trans fits, by rw [cs']⟩
  case crowded =>
    have room := h.room
    exact {
      full := by rw [cs', List.length_append, List.length_singleton]; rw [front, List.length_cons] at full; exact full
      spills := by rw [cs']; simp
      room := by rw [cap, cs', List.length_append, List.length_singleton]; omega
      data := by rw [cs']; exact h.data
      marks := by rw [cs']; exact h.marks
      episode := by rw [cs']; exact h.episode }
  case books =>
    unfold BooksMore at *
    omega

/-- With no drop episode there is none to end. -/
theorem Crowded.endDrop_eq {n : Nat} {s : State} (h : Crowded n s) : endDrop s = s := by
  rw [endDrop, h.episode]

/-- The open frame of a set closes on a full front. -/
theorem Crowded.closeSet_spills {n : Nat} {s : State} (h : Crowded (n + 1) s) {ps : Fin 16} {f : Frame} (flag : Nat)
    (opened : s.cs.frames[ps] = some f) :
    let t := closeSet none flag s ps
    Crowded n t ∧ BooksMore 4096 s t ∧ streamUsed t ≤ 64000 ∧ t.cs.frames = vset s.cs.frames ps none := by
  have h1 := h.withFrames (vset s.cs.frames ps none) (s.cs.fseq + 1)
  have spilled := h1.spill { f with fseq := s.cs.fseq, flags := f.flags ||| flag }
  have closed : closeSet none flag s ps = frontPut { f with fseq := s.cs.fseq, flags := f.flags ||| flag }
      (stageOldest (bookSlots .stream 4096 (Machine.withFrames (vset s.cs.frames ps none) (s.cs.fseq + 1) s))) := by
    rw [← spilled.1.endDrop_eq, ← h1.frontRoom_eq, closeSet, h.placeAll_eq, closeFrame, opened]
    simp only [h.not_mustDrop, Bool.false_eq_true, if_false]
    rfl
  rw [closed]
  exact spilled

/-- The frames of some sets close on a full front, one after the other. -/
theorem closeSets_spill (flag : Nat) (l : List (Fin 16)) : ∀ {s : State} {n : Nat}, Crowded (n + l.length) s → l.Nodup →
    (∀ ps ∈ l, s.cs.frames[ps] ≠ none) → streamUsed s ≤ 64000 →
    BooksMore (4096 * l.length) s (l.foldl (closeSet none flag) s) ∧ streamUsed (l.foldl (closeSet none flag) s) ≤ 64000 := by
  induction l with
  | nil => exact fun _ _ _ used => ⟨.inr ⟨rfl, rfl⟩, used⟩
  | cons ps l ih =>
    intro s n crowded distinct opened used
    obtain ⟨f, hf⟩ := Option.ne_none_iff_exists'.mp (opened ps (by simp))
    obtain ⟨other, distinct'⟩ := List.nodup_cons.mp distinct
    obtain ⟨crowded', books, used', frames⟩ := Crowded.closeSet_spills (n := n + l.length) crowded flag hf
    have opened' : ∀ q ∈ l, (closeSet none flag s ps).cs.frames[q] ≠ none := fun q hq => by
      have apart : ps ≠ q := fun e => other (e ▸ hq)
      rw [frames, vset_other _ _ apart]
      exact opened q (by simp [hq])
    obtain ⟨more, fits⟩ := ih crowded' distinct' opened' used'
    rw [List.foldl_cons, List.length_cons, show 4096 * (l.length + 1) = 4096 + 4096 * l.length by omega]
    exact ⟨books.trans more, fits⟩

/-- The sixteen frames of the stream, closing on a full front, do not all find room in the slot of the last transfer. -/
theorem closeEpoch_later {s : State} (crowded : Crowded 16 s) (opened : ∀ ps : Fin 16, s.cs.frames[ps] ≠ none)
    (used : streamUsed s ≤ 64000) : streamAt s < streamAt (closeEpoch s) := by
  have sixteen : (List.finRange 16).length = 16 := List.length_finRange
  obtain ⟨books, fits⟩ := closeSets_spill 0 (List.finRange 16) (n := 0) (by rw [sixteen]; exact crowded) (List.nodup_finRange 16)
    (fun ps _ => opened ps) used
  rw [sixteen] at books
  change BooksMore _ s (closeEpoch s) at books
  change streamUsed (closeEpoch s) ≤ _ at fits
  unfold BooksMore at books
  omega

/-! ### The wrap of the epoch (R44, R284) -/

/-- The open stream spills and each of its sixteen sets has an open frame, no change waiting to be given on. -/
structure Spilling (s : State) : Prop where
  open_ : s.cs.open_ = true
  noChange : s.cs.pendX = []
  crowded : Crowded 16 s
  frames : ∀ ps : Fin 16, s.cs.frames[ps] ≠ none

/-- What an event and a flush without changes leave of a spilling stream. -/
theorem Spilling.congr {s t : State} (h : Spilling s) (cs : t.cs = s.cs) (regions : t.pm.regions = s.pm.regions) : Spilling t :=
  { open_ := by rw [cs]; exact h.open_
    noChange := by rw [cs]; exact h.noChange
    crowded :=
      { full := by rw [cs]; exact h.crowded.full
        spills := by rw [cs]; exact h.crowded.spills
        room := by rw [cs, stagingCap_of_regions regions]; exact h.crowded.room
        data := by rw [cs]; exact h.crowded.data
        marks := by rw [cs]; exact h.crowded.marks
        episode := by rw [cs]; exact h.crowded.episode }
    frames := by rw [cs]; exact h.frames }

/-- Without changes that wait there is none to give on. -/
theorem flushAll_idle {s : State} (h : s.cs.pendX = []) : flushAll s = s := by
  have same : { s.cs with pendX := [] } = s.cs := by rw [← h]
  simp only [flushAll, flushX, h, List.filter_nil, List.foldl_nil, same]

/-- The wrap count after one wrap more (R44, R45). -/
def wrapsNext (s : State) : W16 := BitVec.ofNat 16 (satSucc 0xFFFF s.tb.wraps.toNat)

/-- The wrap counted, its flag set and its event issued (R44). -/
def wrapNoted (s : State) : State :=
  issue 0x0106 [i2 (wrapsNext s).toNat] { s with tb := { s.tb with
    wraps := wrapsNext s, epochWrapped := true, fresh := freshen s 0x80 s.tb.fresh } }

theorem wrapEffects_eq (s : State) : wrapEffects s =
    epochMark 7 ((wrapsNext s).toNat * 2 ^ 64) (BitVec.ofNat 64 (wrapsNext s).toNat)
      (if (wrapNoted s).cs.open_ then closeEpoch (flushAll (wrapNoted s)) else wrapNoted s) := rfl

theorem wrapNoted_frame (s : State) : (wrapNoted s).cs = s.cs ∧ (wrapNoted s).pm = s.pm ∧ (wrapNoted s).tb.wraps = wrapsNext s := by
  simp [wrapNoted]

theorem wrapEffects_wraps (s : State) : (wrapEffects s).tb.wraps = wrapsNext s := by
  rw [wrapEffects_eq]
  split <;> simp [wrapNoted_frame]

/-- A wrap of the epoch takes stream slots ahead for the frames that it closes. -/
theorem wrapEffects_later {s : State} (h : Spilling s) (used : streamUsed s ≤ 64000) : streamAt s < streamAt (wrapEffects s) := by
  obtain ⟨cs, pm, -⟩ := wrapNoted_frame s
  have noted : Spilling (wrapNoted s) := h.congr cs (by rw [pm])
  have mark : ∀ k a w t, (epochMark k a w t).pm = t.pm := fun k a w t => by simp
  obtain ⟨at_, fits⟩ := stream_of_pm pm
  have later := closeEpoch_later noted.crowded noted.frames (by rw [fits]; exact used)
  rw [wrapEffects_eq, if_pos noted.open_, flushAll_idle noted.noChange, (stream_of_pm (mark _ _ _ _)).1, ← at_]
  exact later

/-- The state when `n` ns have passed, before what follows from it. -/
def timeMoved (n : Nat) (s : State) : State :=
  let s0 : State := { s with tb := { s.tb with now := s.tb.now + 8192 * n } }
  { s0 with tb := { s0.tb with
    sticky := if cycleStart s0 = cycleStart s then s.tb.sticky else stickyNow s
    epoch := BitVec.ofNat 64 (s.tb.epoch.toNat + 8192 * n) } }

theorem pass_wraps {n : Nat} {s : State} (edge : s.tb.fabSrc = .edge) (some_ : n ≠ 0)
    (wraps : 2 ^ 64 ≤ s.tb.epoch.toNat + 8192 * n) : pass n s = passed (wrapEffects (timeMoved n s)) := by
  unfold pass
  dsimp only
  rw [if_pos edge, if_neg some_, if_pos wraps]
  rfl

/-- The extended epoch after a time that brings the epoch counter to its first wrap. -/
theorem pass_ext {n : Nat} {s : State} (edge : s.tb.fabSrc = .edge) (first : s.tb.wraps = 0) (some_ : n ≠ 0)
    (wraps : 2 ^ 64 ≤ s.tb.epoch.toNat + 8192 * n) : ext (pass n s) ≤ s.tb.epoch.toNat + 8192 * n := by
  have tb : ∀ t, (passed t).tb = t.tb := fun t => by simp
  have one : wrapsNext (timeMoved n s) = 1 := by
    have same : (timeMoved n s).tb.wraps = 0 := first
    rw [wrapsNext, same]
    rfl
  have epoch := pass_epoch n s
  rw [if_pos edge] at epoch
  rw [ext, epoch, pass_wraps edge some_ wraps, tb, wrapEffects_wraps, one, BitVec.toNat_ofNat]
  show 1 * 2 ^ 64 + _ ≤ _
  omega

/-- Time that brings the first wrap takes stream slots ahead for a spilling stream. -/
theorem pass_later {n : Nat} {s : State} (h : Spilling s) (used : streamUsed s ≤ 64000) (edge : s.tb.fabSrc = .edge) (some_ : n ≠ 0)
    (wraps : 2 ^ 64 ≤ s.tb.epoch.toNat + 8192 * n) : streamAt s < streamAt (pass n s) := by
  have moved : Spilling (timeMoved n s) := h.congr rfl rfl
  have pm : ∀ t, (passed t).pm = t.pm := fun t => by simp
  have later := wrapEffects_later moved used
  rw [pass_wraps edge some_ wraps, (stream_of_pm (pm _)).1]
  exact later

/-- A transfer waits until its last slot comes (R24, R168). -/
theorem inSlot_edge (c : SlotClass) (n : Nat) {s : State} (edge : s.tb.fabSrc = .edge) :
    let u := bookSlots c n s
    inSlot c n s = pass ((u.pm.slotAt[classIx c] * 131072 - ext u + 8191) / 8192) u := by
  rw [inSlot, if_pos edge]
  rfl

/-! ### The refuting state -/

/-- An open frame of a set, of the first epoch of a run. -/
def frameOf (ps : Fin 16) : Frame := { pset := ps, first := 0, wrap := 0, armseq := 1 }

/-- The last fabric cycle before the epoch wraps, with a stream that spills: 1,024 frames in the front, one staged in a region of
1 MB, and an open frame for each of the sixteen sets. -/
def beforeWrap : State := {
  tb := { fabSrc := .edge, epoch := 0xFFFFFFFFFFFFE000 }
  pm := { regions := vset (.replicate 16 {}) 0 { base := 0, size := 1, typ := 4 } }
  cs := {
    open_ := true, front := List.replicate 1024 (frameOf 0), staged := [frameOf 0]
    frames := Vector.ofFn fun ps => some (frameOf ps) } }

theorem beforeWrap_frames : beforeWrap.cs.frames = Vector.ofFn fun ps => some (frameOf ps) := rfl

theorem beforeWrap_edge : beforeWrap.tb.fabSrc = .edge := rfl

theorem beforeWrap_unwrapped : beforeWrap.tb.wraps.toNat < 0xFFFF := by decide

theorem beforeWrap_time : beforeWrap.tb.wraps = 0 ∧ beforeWrap.tb.epoch = 0xFFFFFFFFFFFFE000 := ⟨rfl, rfl⟩

theorem beforeWrap_spilling : Spilling beforeWrap where
  open_ := rfl
  noChange := rfl
  crowded :=
    { full := List.length_replicate, spills := List.cons_ne_nil _ _, room := by decide, data := rfl, marks := rfl, episode := rfl }
  frames := fun ps => by simp [beforeWrap_frames]

/-- The next stream slot lies behind the wrap: the slot at the wrap's eve is one of maintenance or host. -/
theorem beforeWrap_slot : 2 ^ 47 ≤ streamAt (bookSlots .stream 4096 beforeWrap) := by
  have taken := bookSlots_taken .stream 4096 beforeWrap
  have now : 2 ^ 47 - 1 ≤ streamAt (bookSlots .stream 4096 beforeWrap) := taken.now
  have eve : slotClass beforeWrap.pm.profileB (2 ^ 47 - 1) ≠ .stream := by decide
  have other : streamAt (bookSlots .stream 4096 beforeWrap) ≠ 2 ^ 47 - 1 := fun e => eve (e ▸ taken.ofClass)
  omega

/-- A frame staged across the wrap is complete before the last slot that the stream has taken by then has come. -/
theorem beforeWrap_slot_to_come :
    ext (inSlot .stream 4096 beforeWrap) < streamAt (inSlot .stream 4096 beforeWrap) * 131072 := by
  let u := bookSlots .stream 4096 beforeWrap
  have tb : u.tb = beforeWrap.tb := by simp [u]
  have cs : u.cs = beforeWrap.cs := by simp [u]
  have spilling : Spilling u := beforeWrap_spilling.congr cs (bookSlots_regions beforeWrap)
  have edge : u.tb.fabSrc = .edge := by rw [tb, beforeWrap_edge]
  have first : u.tb.wraps = 0 := by rw [tb, beforeWrap_time.1]
  have epoch : u.tb.epoch.toNat = 2 ^ 64 - 8192 := by rw [tb, beforeWrap_time.2]; rfl
  have slot : 2 ^ 47 ≤ streamAt u := beforeWrap_slot
  have due : ∃ n, n ≠ 0 ∧ (2 ^ 64 - 8192) + 8192 * n = streamAt u * 131072 ∧ inSlot .stream 4096 beforeWrap = pass n u := by
    refine ⟨(streamAt u * 131072 - ext u + 8191) / 8192, ?_, ?_, inSlot_edge .stream 4096 beforeWrap_edge⟩
    all_goals rw [ext, first, epoch, show (0 : W16).toNat = 0 from rfl]; omega
  obtain ⟨n, some_, reached, transfer⟩ := due
  have wraps : 2 ^ 64 ≤ u.tb.epoch.toNat + 8192 * n := by omega
  have later := pass_later spilling (bookSlots_books beforeWrap).2 edge some_ wraps
  have time := pass_ext edge first some_ wraps
  rw [transfer]
  omega

end Sys2Proof.Machine

open Sys2Proof Sys2Proof.Machine

/-- Refutes O34: a frame staged across a wrap of the epoch, from `beforeWrap`, is complete (log 48) while the last stream slot taken, for the
frames that the wrap closes, is still to come. -/
theorem not_memoryCommands : ¬ Obligations.memoryCommands := by
  unfold Obligations.memoryCommands
  rintro ⟨⟨-, slots, -⟩, -⟩
  have come : ∀ s : State, s.tb.fabSrc = .edge → s.tb.wraps.toNat < 0xFFFF →
      streamAt (inSlot .stream 4096 s) * 131072 ≤ ext (inSlot .stream 4096 s) := fun s edge count => by
    obtain ⟨-, -, reached⟩ := slots s .stream 4096 edge
    exact (reached count).1
  exact Nat.not_le_of_lt beforeWrap_slot_to_come (come beforeWrap beforeWrap_edge beforeWrap_unwrapped)
end

section
/-! SUPPORT. The time base stays sound (R41, R42, R44): what every operation of the block leaves of it, block by block, up to the rows. An
operation that takes no time keeps the whole time base (`_tb`); one in which time passes, or a lock guard opens or closes, keeps its
soundness (`_sound`): cycles add multiples of 8,192 ticks, and only a switch of FAB's source, the clear at arm, an alignment and the
resets write the epoch, its validity or the source otherwise. -/

namespace Sys2Proof.Machine

open Sys2Proof

/-! ### Soundness -/

/-- The part of a state that `timeBaseSound` speaks of: the epoch a multiple of a fabric cycle, and valid on the edge clock only. -/
def soundTb (b : TB) : Bool := decide (b.epoch.toNat % 8192 = 0) && (!b.epochValid || b.fabSrc == .edge)

theorem timeBaseSound_eq (s : State) : timeBaseSound s = soundTb s.tb := rfl

/-- The state that a row leaves has a sound time base. -/
def soundOut : Host.Outcome State Fault Refusal → Bool
  | .next t => soundTb t.tb
  | _ => true

@[simp] theorem soundOut_next (t : State) : soundOut (.next t) = soundTb t.tb := rfl

@[simp] theorem soundTb_ite (c : Prop) [Decidable c] (a b : TB) : soundTb (if c then a else b) = if c then soundTb a else soundTb b :=
  apply_ite soundTb c a b

/-- Soundness is a matter of the epoch, its validity and FAB's source alone. -/
@[simp] theorem soundTb_upd (b : TB) (refclkOk refclkLost refMiss : Bool) (goodWins refCount wins acqFrom : Nat) (winFrom : Vector Nat 4)
    (pll : Vector PllPhase 4) (lockDet lockLost guardOpen barred : Vector Bool 4) (sticky : Vector W32 12) (qCount : Vector Nat 4)
    (phi : Vector Int 4) (epochWrapped : Bool) (wraps wrapLatch : W16) (hiLatch : W32) (now : Nat) (fresh : Fresh) :
    soundTb { b with
      refclkOk := refclkOk, refclkLost := refclkLost, refMiss := refMiss, goodWins := goodWins, refCount := refCount, wins := wins
      acqFrom := acqFrom, winFrom := winFrom, pll := pll, lockDet := lockDet, lockLost := lockLost, guardOpen := guardOpen
      barred := barred, sticky := sticky, qCount := qCount, phi := phi, epochWrapped := epochWrapped, wraps := wraps
      wrapLatch := wrapLatch, hiLatch := hiLatch, now := now, fresh := fresh } = soundTb b := rfl

@[simp] theorem foldl_sound {α : Type} (f : State → α → State) (h : ∀ s x, soundTb (f s x).tb = soundTb s.tb) (l : List α) (s : State) :
    soundTb (l.foldl f s).tb = soundTb s.tb := foldl_keeps (fun s => soundTb s.tb) h l s

/-- The sequencer's part replaced. -/
theorem withSq_tb (q : SQ) (s : State) : ({ s with sq := q } : State).tb = s.tb := rfl

/-! ### The stream assembler (11) -/

@[simp] theorem stageEmpty_tb (s : State) : (stageEmpty s).tb = s.tb := by simp [stageEmpty]

@[simp] theorem streamShut_tb (cause discarded : Nat) (s : State) : (streamShut cause discarded s).tb = s.tb := by
  simp [streamShut, endFill]

/-! ### Lock guards (02) -/

@[simp] theorem shutGuard_sound (q : Quad) (s : State) : soundTb (shutGuard q s).tb = soundTb s.tb := by
  simp [shutGuard]

@[simp] theorem loseLock_sound (q : Quad) (cause : Nat) (s : State) : soundTb (loseLock q cause s).tb = soundTb s.tb := by simp [loseLock]
@[simp] theorem stopPll_sound (q : Quad) (s : State) : soundTb (stopPll q s).tb = soundTb s.tb := by simp [stopPll]
@[simp] theorem stopPlls_sound (s : State) : soundTb (stopPlls s).tb = soundTb s.tb := by simp [stopPlls]

/-! ### The passing of time (02, 11) -/

@[simp] theorem addOverflow_tb (p : Pin) (t : Nat) (s : State) : (addOverflow p t s).tb = s.tb := by simp [addOverflow]

@[simp] theorem pass_clock (n : Nat) (s : State) :
    (pass n s).tb.epochValid = s.tb.epochValid ∧ (pass n s).tb.fabSrc = s.tb.fabSrc := by
  unfold pass; dsimp only
  by_cases edge : s.tb.fabSrc = .edge
  · by_cases z : n = 0
    · simp [edge, z]
    · rw [if_pos edge, if_neg z, (passed_frame _).1]
      split <;> simp [wrapEffects]
  · simp [edge]

/-- `n` fabric cycles add `8192 n` ticks to the epoch on the edge clock, and none else (R41). -/
@[simp] theorem pass_sound (n : Nat) (s : State) : soundTb (pass n s).tb = soundTb s.tb := by
  have epoch := pass_epoch n s
  obtain ⟨valid, src⟩ := pass_clock n s
  unfold soundTb
  rw [epoch, valid, src]
  by_cases edge : s.tb.fabSrc = .edge
  · simp [edge]
  · simp [edge]

@[simp] theorem toEpoch_sound (e : Nat) (s : State) : soundTb (toEpoch e s).tb = soundTb s.tb := by simp [toEpoch]
@[simp] theorem toTime_sound (t : Nat) (s : State) : soundTb (toTime t s).tb = soundTb s.tb := by simp [toTime]
@[simp] theorem idleCycle_sound (s : State) : soundTb (idleCycle s).tb = soundTb s.tb := by simp [idleCycle]
@[simp] theorem inSlot_sound (c : SlotClass) (n : Nat) (s : State) : soundTb (inSlot c n s).tb = soundTb s.tb := by simp [inSlot]

/-! ### Levels (05) -/

@[simp] theorem reportClamp_tb (p : Pin) (l : List (DacIx × W16 × W16)) (s : State) : (reportClamp p l s).tb = s.tb := by
  unfold reportClamp; split <;> simp

@[simp] theorem tickPins_tb (idle : Bool) (sel : Pin → Bool) (s : State) : (tickPins idle sel s).tb = s.tb := by
  unfold tickPins; dsimp only; split
  · rw [reportClamp_tb]
  · rfl

@[simp] theorem stageWrite_tb (sel : Pin → Bool) (f : Pin → PinSt → PinSt) (s : State) : (stageWrite sel f s).tb = s.tb := by
  simp [stageWrite]

/-! ### Commands and their checks (15) -/

@[simp] theorem runCmd_tb (op : Nat) (tag : W16) (f : Exec → State → State) (h : ∀ e u, (f e u).tb = u.tb) (s : State) :
    (runCmd op tag f s).tb = s.tb := by
  unfold runCmd; split <;> simp [h]

@[simp] theorem runCmd_sound (op : Nat) (tag : W16) (f : Exec → State → State)
    (h : ∀ e u, soundTb (f e u).tb = soundTb u.tb) (s : State) : soundTb (runCmd op tag f s).tb = soundTb s.tb := by
  unfold runCmd; split <;> simp [h]

@[simp] theorem checked_tb (checks : List (Bool × Nat)) (e : Exec) (f : State → State) (h : ∀ u, (f u).tb = u.tb) (s : State) :
    (checked checks e f s).tb = s.tb := by
  unfold checked; split <;> simp [h]

@[simp] theorem checked_sound (checks : List (Bool × Nat)) (e : Exec) (f : State → State)
    (h : ∀ u, soundTb (f u).tb = soundTb u.tb) (s : State) : soundTb (checked checks e f s).tb = soundTb s.tb := by
  unfold checked; split <;> simp [h]

/-! ### Arm checks (08) -/

@[simp] theorem issueFailures_tb (l : List (Nat × List Item)) (s : State) : (issueFailures l s).tb = s.tb := by simp [issueFailures]

/-! ### Device DRAM (07) -/

@[simp] theorem bar2Apply_sound (ecc : Ecc) (s : State) : soundTb (bar2Apply ecc s).tb = soundTb s.tb := by
  unfold bar2Apply; split
  · rfl
  · simp

@[simp] theorem bar2Drain_sound (s : State) : soundTb (bar2Drain s).tb = soundTb s.tb :=
  foldl_sound _ (fun u _ => bar2Apply_sound .ok u) _ s

@[simp] theorem applyReg_tb (base n cur : Nat) (ok : Nat → Bool) (f : State → State) (h : ∀ u, (f u).tb = u.tb) (s : State) :
    (applyReg base n cur ok f s).tb = s.tb := by
  simp [applyReg, h]

@[simp] theorem applyReg_sound (base n cur : Nat) (ok : Nat → Bool) (f : State → State)
    (h : ∀ u, soundTb (f u).tb = soundTb u.tb) (s : State) : soundTb (applyReg base n cur ok f s).tb = soundTb s.tb := by
  simp [applyReg, h]

@[simp] theorem runCtlWrite_sound (s : State) : soundTb (runCtlWrite s).tb = soundTb s.tb := by simp [runCtlWrite]

@[simp] theorem applyRunCtl_sound (cmd : Nat) (f : State → State) (h : ∀ u, soundTb (f u).tb = soundTb u.tb) (s : State) :
    soundTb (applyRunCtl cmd f s).tb = soundTb s.tb := by
  simp [applyRunCtl, h]

/-! ### Run control (08) -/

@[simp] theorem shiftTimes_tb (s : State) : (shiftTimes s).tb = s.tb := by simp [shiftTimes]
@[simp] theorem clearMark_tb (n : Nat) (s : State) : (clearMark n s).tb = s.tb := by simp [clearMark]

@[simp] theorem clearEpoch_tb (ensemble : Bool) (s : State) :
    (clearEpoch ensemble s).tb = { s.tb with epoch := 0, wraps := 0, epochValid := true } := by
  simp [clearEpoch, flushAll]

theorem armEffect_sound (ensemble : Bool) {s : State} (edge : s.tb.fabSrc = .edge) :
    soundTb (armEffect ensemble s).tb = true := by
  simp [armEffect, soundTb, edge]

@[simp] theorem armDecide_tb (s : State) : (armDecide s).tb = s.tb := by unfold armDecide; dsimp only; (repeat' split) <;> simp [sendArm]
@[simp] theorem ownRefusal_tb (s : State) : (ownRefusal s).tb = s.tb := by simp [ownRefusal]

theorem firstBad_none {n : Nat} {l : List Bool} (h : firstBad n l = none) : ∀ b ∈ l, b = true := by
  induction l generalizing n with
  | nil => simp
  | cons b l ih =>
    cases b with
    | true => simpa using ih h
    | false => simp [firstBad] at h

theorem timeBaseReady_of_armFailures {s : State} (h : armFailures s = []) : timeBaseReady s = true := by
  have sq : armSq s = none := by
    simpa using List.filterMap_eq_nil_iff.mp h (armSq s) (by simp)
  simp only [armSq, Option.map_eq_none_iff] at sq
  exact firstBad_none sq _ (by simp)

theorem edge_of_timeBaseReady {s : State} (h : timeBaseReady s = true) : s.tb.fabSrc = .edge := by
  simp [timeBaseReady] at h
  exact h.1.2

/-- An `ARM` takes effect only where its checks pass, and so only on the edge clock (R42, R228). -/
theorem armWrite_sound {s : State} (sound : soundTb s.tb = true) : soundTb (armWrite s).tb = true := by
  unfold armWrite; split
  · simpa
  · split
    case h_1 passed =>
      have edge := edge_of_timeBaseReady (timeBaseReady_of_armFailures passed)
      have arms : soundTb (armPassed s).tb = true := by
        unfold armPassed; dsimp only
        split
        · split <;> simpa
        · exact armEffect_sound false edge
      split
      · simpa
      · exact arms
    · simpa

theorem execArm_sound {s : State} (sound : soundTb s.tb = true) : soundOut (execArm s) = true := by
  unfold execArm applyRunCtl
  rw [soundOut_next]
  split
  · exact armWrite_sound (by simpa)
  · exact sound

@[simp] theorem goNow_tb (s : State) : (goNow s).tb = s.tb := by simp [goNow]
@[simp] theorem goWrite_tb (s : State) : (goWrite s).tb = s.tb := by unfold goWrite; (repeat' split) <;> simp
@[simp] theorem execGo_sound (s : State) : soundOut (execGo s) = soundTb s.tb := by simp [execGo]

@[simp] theorem execPendingStopAtBoundary_sound (s : State) : soundOut (execPendingStopAtBoundary s) = soundTb s.tb := by
  simp [execPendingStopAtBoundary]

@[simp] theorem haltNow_tb (at_ : Nat) (s : State) : (haltNow at_ s).tb = s.tb := by unfold haltNow; split <;> simp
@[simp] theorem abortNow_tb (at_ : Nat) (s : State) : (abortNow at_ s).tb = s.tb := by simp [abortNow]
@[simp] theorem haltEnsemble_tb (kind member : Nat) (s : State) : (haltEnsemble kind member s).tb = s.tb := by simp [haltEnsemble]
@[simp] theorem haltWrite_tb (s : State) : (haltWrite s).tb = s.tb := by simp [haltWrite]
@[simp] theorem execHalt_sound (s : State) : soundOut (execHalt s) = soundTb s.tb := by simp [execHalt]
@[simp] theorem abortWrite_tb (s : State) : (abortWrite s).tb = s.tb := by simp [abortWrite]
@[simp] theorem execAbort_sound (s : State) : soundOut (execAbort s) = soundTb s.tb := by simp [execAbort]

@[simp] theorem execRunCtlInvalidCmd_sound (cmd : BitVec 4) (s : State) : soundOut (execRunCtlInvalidCmd cmd s) = soundTb s.tb := by
  simp [execRunCtlInvalidCmd]

@[simp] theorem enterArmed_tb (s : State) : (enterArmed s).tb = s.tb := by simp [enterArmed]
@[simp] theorem execRunEnd_sound (s : State) : soundOut (execRunEnd s) = soundTb s.tb := by simp [execRunEnd]

/-! ### Sequence words (08) -/

@[simp] theorem decodeAccount_tb (s : State) : (decodeAccount s).tb = s.tb := by simp [decodeAccount]
@[simp] theorem useSlot_tb (s : State) : (useSlot s).tb = s.tb := by simp [useSlot]

theorem takeSlot_sound {s t : State} (h : takeSlot s = some t) : soundTb t.tb = soundTb s.tb := by
  unfold takeSlot at h
  dsimp only at h
  split at h
  · cases h; simp
  · split at h
    · cases h; simp
    · cases h

/-- A decode slot for the service context costs time alone. -/
theorem freeSlot_tb (s : State) : ∃ due, (freeSlot s).tb = (toEpoch due (decodeAccount s)).tb :=
  ⟨_, (withSq_tb _ _).trans (decodeAccount_tb _)⟩

@[simp] theorem freeSlot_sound (s : State) : soundTb (freeSlot s).tb = soundTb s.tb := by
  obtain ⟨due, passed⟩ := freeSlot_tb s
  rw [passed, toEpoch_sound, decodeAccount_tb]

@[simp] theorem recordFault_tb (ctx cause a : Nat) (s : State) : (recordFault ctx cause a s).tb = s.tb := withSq_tb _ s
@[simp] theorem vecFault_tb (cause a : Nat) (s : State) : (vecFault cause a s).tb = s.tb := by simp [vecFault]
@[simp] theorem postNow_tb (h : Held) (s : State) : (postNow h s).tb = s.tb := by simp [postNow]
@[simp] theorem stepPast_tb (a : Nat) (s : State) : (stepPast a s).tb = s.tb := by simp [stepPast]

@[simp] theorem runWord_sound (op : Nat) (ecc : Ecc) (f : Nat → Nat → State → State)
    (h : ∀ a w u, soundTb (f a w u).tb = soundTb u.tb) (s0 s : State) (k : soundTb s0.tb = soundTb s.tb) :
    soundTb (runWord op ecc f s0 s).tb = soundTb s.tb := by
  unfold runWord; dsimp only; split
  · simp
  · split <;> simp [h, k]

@[simp] theorem vecWord_sound (op : Nat) (ecc : Ecc) (f : Nat → Nat → State → State)
    (h : ∀ a w u, soundTb (f a w u).tb = soundTb u.tb) (s : State) : soundTb (vecWord op ecc f s).tb = soundTb s.tb := by
  unfold vecWord
  split
  · rfl
  · split
    · simp
    · split
      · rename_i t slot
        have kept := takeSlot_sound slot
        rw [runWord_sound op ecc f h s t kept.symm, kept]
      · rfl

/-! ### The words of the vector context (08) -/

@[simp] theorem startRun_tb (k : CurKind) (a w : Nat) (s : State) : (startRun k a w s).tb = s.tb := by simp [startRun]
@[simp] theorem execVec_sound (ecc : Ecc) (s : State) : soundOut (execVec ecc s) = soundTb s.tb := by simp [execVec]
@[simp] theorem execRpt_sound (ecc : Ecc) (s : State) : soundOut (execRpt ecc s) = soundTb s.tb := by simp [execRpt]
@[simp] theorem loopWord_tb (a w : Nat) (s : State) : (loopWord a w s).tb = s.tb := by simp [loopWord]
@[simp] theorem execLoop_sound (ecc : Ecc) (s : State) : soundOut (execLoop ecc s) = soundTb s.tb := by simp [execLoop]
@[simp] theorem execEndl_sound (ecc : Ecc) (s : State) : soundOut (execEndl ecc s) = soundTb s.tb := by simp [execEndl, endlWord]
@[simp] theorem execBr_sound (ecc : Ecc) (s : State) : soundOut (execBr ecc s) = soundTb s.tb := by simp [execBr, brWord]
@[simp] theorem execWait_sound (ecc : Ecc) (s : State) : soundOut (execWait ecc s) = soundTb s.tb := by simp [execWait, waitWord]
@[simp] theorem execLtk_sound (ecc : Ecc) (s : State) : soundOut (execLtk ecc s) = soundTb s.tb := by simp [execLtk]
@[simp] theorem execMark_sound (ecc : Ecc) (s : State) : soundOut (execMark ecc s) = soundTb s.tb := by simp [execMark]
@[simp] theorem execTgate_sound (ecc : Ecc) (s : State) : soundOut (execTgate ecc s) = soundTb s.tb := by simp [execTgate, tgateWord]
@[simp] theorem execMxj_sound (ecc : Ecc) (s : State) : soundOut (execMxj ecc s) = soundTb s.tb := by simp [execMxj, mxjWord]
@[simp] theorem execSite_sound (ecc : Ecc) (s : State) : soundOut (execSite ecc s) = soundTb s.tb := by simp [execSite]
@[simp] theorem execEvt_sound (ecc : Ecc) (s : State) : soundOut (execEvt ecc s) = soundTb s.tb := by simp [execEvt, evtWord]
@[simp] theorem execSvc_sound (ecc : Ecc) (s : State) : soundOut (execSvc ecc s) = soundTb s.tb := by simp [execSvc, svcWord]

@[simp] theorem execHaltWord_sound (ecc : Ecc) (s : State) : soundOut (execHaltWord ecc s) = soundTb s.tb := by
  simp [execHaltWord, haltWord']

@[simp] theorem execEvtOutputAct_sound (s : State) : soundOut (execEvtOutputAct s) = soundTb s.tb := by
  unfold execEvtOutputAct; split <;> simp [driveEvt]

@[simp] theorem execEvtPulseEnd_sound (line : Fin 4) (s : State) : soundOut (execEvtPulseEnd line s) = soundTb s.tb := by
  unfold execEvtPulseEnd; split <;> simp

/-! ### The issue of vectors (08) -/

@[simp] theorem noteBrim_tb (n lo hi : Nat) (s : State) : (noteBrim n lo hi s).tb = s.tb := by simp [noteBrim]
@[simp] theorem cutEdge_tb (l : List PEdge) (s : State) (e : PEdge) : (cutEdge l s e).tb = s.tb := by simp [cutEdge, dropEdge]
@[simp] theorem cutOverhang_tb (n start : Nat) (s : State) : (cutOverhang n start s).tb = s.tb := by simp [cutOverhang]

@[simp] theorem openSome_tb (n : Nat) (s : State) : (openSome n s).tb = s.tb := by
  induction n generalizing s with
  | zero => rfl
  | succ n ih => unfold openSome; split <;> simp [ih]

@[simp] theorem openAll_tb (s : State) : (openAll s).tb = s.tb := by simp [openAll]
@[simp] theorem endOthers_tb (k : Option IdleKind) (s : State) : (endOthers k s).tb = s.tb := by unfold endOthers; (repeat' split) <;> simp
@[simp] theorem noteIdle_tb (k : IdleKind) (s : State) : (noteIdle k s).tb = s.tb := by unfold noteIdle; split <;> simp [noteStarve]
@[simp] theorem idleVector_tb (k : IdleKind) (start : Nat) (s : State) : (idleVector k start s).tb = s.tb := by simp [idleVector, emitIdle]
@[simp] theorem missingData_tb (cause pin start : Nat) (s : State) : (missingData cause pin start s).tb = s.tb := by simp [missingData]

@[simp] theorem carry_tb (n idx start : Nat) (conds : List Nat) (r : Reqs) (s : State) : (carry n idx start conds r s).tb = s.tb := by
  unfold carry; split <;> simp

@[simp] theorem goAfter_tb (c : Cur) (sub : Subj) (s : State) : (goAfter c sub s).tb = s.tb := by unfold goAfter; split <;> simp

@[simp] theorem emitVector_tb (c : Cur) (b : List Byte) (start : Nat) (s0 : State) : (emitVector c b start s0).tb = s0.tb := by
  unfold emitVector; dsimp only; (repeat' split) <;> simp [boundarySlot]

@[simp] theorem issueLanes_sound (c : Cur) (b : List Byte) (start : Nat) (s : State) :
    soundTb (issueLanes c b start s).tb = soundTb s.tb := by
  unfold issueLanes; dsimp only; (repeat' split) <;> simp [emitBad]

@[simp] theorem descFault_tb (d : Nat) (s : State) : (descFault d s).tb = s.tb := by simp [descFault]

@[simp] theorem issueDue_sound (c : Cur) (start : Nat) (s : State) : soundTb (issueDue c start s).tb = soundTb s.tb := by
  unfold issueDue; (repeat' split) <;> simp

theorem loadDesc_tb {c d : Cur} {s t : State} (h : loadDesc c s = some (d, t)) : t.tb = s.tb := by
  unfold loadDesc at h
  split at h
  · cases h; rfl
  · split at h
    · cases h
    · split at h
      · cases h; rfl
      · dsimp only at h
        split at h
        · cases h
        · cases h; rfl

@[simp] theorem issueWord_sound (c : Cur) (start : Nat) (s : State) : soundTb (issueWord c start s).tb = soundTb s.tb := by
  unfold issueWord; dsimp only; split
  · simp
  · split
    · simp
    · rename_i h
      rw [issueDue_sound, loadDesc_tb h]

@[simp] theorem vectorStart_sound (s0 : State) : soundTb (vectorStart s0).tb = soundTb s0.tb := by
  unfold vectorStart; dsimp only; (repeat' split) <;> simp

@[simp] theorem execVectorIssue_sound (s : State) : soundOut (execVectorIssue s) = soundTb s.tb := by simp [execVectorIssue]

/-! ### Edges and compares (03, 04) -/

@[simp] theorem execVectorAtFormatter_sound (s : State) : soundOut (execVectorAtFormatter s) = soundTb s.tb := by
  unfold execVectorAtFormatter; split <;> simp [placeVector]

@[simp] theorem execEdgeFire_sound (p : Pin) (s : State) : soundOut (execEdgeFire p s) = soundTb s.tb := by
  unfold execEdgeFire; split <;> simp [fireDrive]

@[simp] theorem windowE4_tb (e : PEdge) (s : State) : (windowE4 e s).tb = s.tb := by unfold windowE4; split <;> simp [openWin]
@[simp] theorem closeWin_tb (e : PEdge) (s : State) : (closeWin e s).tb = s.tb := by unfold closeWin; split <;> simp

@[simp] theorem seeLate_tb (p : Pin) (st t : Nat) (free : Bool) (s : State) : (seeLate p st t free s).tb = s.tb := by
  unfold seeLate; split <;> simp [passLate]

@[simp] theorem observe_tb (p : Pin) (f : PinSt → PinSt) (t : Nat) (s : State) : (observe p f t s).tb = s.tb := by
  unfold observe; dsimp only; (repeat' split) <;> simp

@[simp] theorem execCompareEdge_sound (p : Pin) (s : State) : soundOut (execCompareEdge p s) = soundTb s.tb := by
  unfold execCompareEdge; split <;> simp [fireCompare]

/-! ### Time-interval units (12) -/

@[simp] theorem tiuOverflow_tb (g : Glove) (start : Int) (s : State) : (tiuOverflow g start s).tb = s.tb := by simp [tiuOverflow]
@[simp] theorem tiuExpire_tb (g : Glove) (t : Int) (s : State) : (tiuExpire g t s).tb = s.tb := by unfold tiuExpire; split <;> simp

@[simp] theorem tiuEvent_tb (sel : W32 → Bool) (t : Int) (s0 : State) (g : Glove) : (tiuEvent sel t s0 g).tb = s0.tb := by
  unfold tiuEvent; dsimp only; (repeat' split) <;> simp [tiuStart, tiuStop, tiuShot]

@[simp] theorem tiuFeed_tb (sel : W32 → Bool) (t : Int) (s : State) : (tiuFeed sel t s).tb = s.tb := by simp [tiuFeed]

@[simp] theorem execTiuShotOverflow_sound (g : Glove) (s : State) : soundOut (execTiuShotOverflow g s) = soundTb s.tb := by
  unfold execTiuShotOverflow; split <;> simp

@[simp] theorem execTgateAct_sound (s : State) : soundOut (execTgateAct s) = soundTb s.tb := by
  unfold execTgateAct; split <;> simp [tgateOpen, tgateClose]

@[simp] theorem tiuMerge_tb (s : State) (g : Glove) : (tiuMerge s g).tb = s.tb := by unfold tiuMerge; split <;> simp
@[simp] theorem tiuMergeAll_tb (s : State) : (tiuMergeAll s).tb = s.tb := by simp [tiuMergeAll]

@[simp] theorem execGateInEdge_sound (line : Fin 4) (rise : Bool) (s : State) : soundOut (execGateInEdge line rise s) = soundTb s.tb := by
  simp [execGateInEdge, gateInTiu, tiuCloseAt, tiuJudge]

@[simp] theorem execTiuGateReady_sound (g : Glove) (r1 r2 : Nat) (s : State) : soundOut (execTiuGateReady g r1 r2 s) = soundTb s.tb := by
  unfold execTiuGateReady; split <;> simp [tiuCalibrated]

@[simp] theorem tiuSnap_tb (mask : W64) (s : State) : (tiuSnap mask s).tb = s.tb := by simp [tiuSnap]
@[simp] theorem execTiSnap_sound (mask : W64) (s : State) : soundOut (execTiSnap mask s) = soundTb s.tb := by simp [execTiSnap]
@[simp] theorem tiConfigOne_tb (s : State) (x : Glove × List Byte) : (tiConfigOne s x).tb = s.tb := by simp [tiConfigOne]
@[simp] theorem tiConfigCmd_tb (e : Exec) (s : State) : (tiConfigCmd e s).tb = s.tb := by simp [tiConfigCmd]
@[simp] theorem execTiConfig_sound (tag : W16) (s : State) : soundOut (execTiConfig tag s) = soundTb s.tb := by simp [execTiConfig]
@[simp] theorem tiClearCmd_tb (e : Exec) (s : State) : (tiClearCmd e s).tb = s.tb := by simp [tiClearCmd]
@[simp] theorem execTiClear_sound (tag : W16) (s : State) : soundOut (execTiClear tag s) = soundTb s.tb := by simp [execTiClear]
@[simp] theorem execTiRead_sound (tag : W16) (s : State) : soundOut (execTiRead tag s) = soundTb s.tb := by simp [execTiRead, tiReadCmd]

/-! ### Conditions (09) -/

@[simp] theorem drawFree_tb (s : State) (c : Cond) (sub : Subj) : (drawFree s c sub).tb = s.tb := by simp [drawFree]
@[simp] theorem reportShelf_tb (s : State) (x : Shelf) : (reportShelf s x).tb = s.tb := by simp [reportShelf]
@[simp] theorem confirm_tb (c : Cond) (s : State) : (confirm c s).tb = s.tb := by simp [confirm, releasePosts]
@[simp] theorem countTimeout_tb (word idx0 : Nat) (s : State) : (countTimeout word idx0 s).tb = s.tb := by simp [countTimeout]
@[simp] theorem timeOut_tb (word target idx0 : Nat) (s : State) : (timeOut word target idx0 s).tb = s.tb := by simp [timeOut]
@[simp] theorem backToWait_tb (s : State) : (backToWait s).tb = s.tb := by unfold backToWait; (repeat' split) <;> simp
@[simp] theorem endStay_tb (c : Cond) (s : State) : (endStay c s).tb = s.tb := by unfold endStay; split <;> simp
@[simp] theorem satisfied_tb (c : Cond) (s : State) : (satisfied c s).tb = s.tb := by unfold satisfied; split <;> simp
@[simp] theorem noResult_tb (c : Cond) (s : State) : (noResult c s).tb = s.tb := by simp [noResult]

@[simp] theorem resolveNow_tb (c : Cond) (s0 : State) : (resolveNow c s0).tb = s0.tb := by
  unfold resolveNow; dsimp only; (repeat' split) <;> simp [resolveStay, resolveBranch, mispredict, discardTail, restore, serveBrim]

@[simp] theorem resolveOldest_sound (r : Nat) (s : State) : soundTb (resolveOldest r s).tb = soundTb s.tb := by
  unfold resolveOldest; split <;> simp

@[simp] theorem resolveAt_sound (r : Nat) (s : State) : soundTb (resolveAt r s).tb = soundTb s.tb := by unfold resolveAt; split <;> simp

@[simp] theorem execConditionResolve_sound (s : State) : soundOut (execConditionResolve s) = soundTb s.tb := by
  unfold execConditionResolve; split <;> simp

/-! ### The fetcher (07) -/

@[simp] theorem mainPath_tb (s : State) : (mainPath s).tb = s.tb := by simp [mainPath]

@[simp] theorem sparePath_tb (pc : Nat) (cur : Option Cur) (loops : Vector Nat 8) (cursors : Vector (Option Nat) 512) (s : State) :
    (sparePath pc cur loops cursors s).tb = s.tb := by
  simp [sparePath]

@[simp] theorem waitOther_tb (a : Nat) (s : State) : (waitOther a s).tb = s.tb := by simp [waitOther]

theorem otherPath_tb {s t : State} (h : otherPath s = some t) : t.tb = s.tb := by
  unfold otherPath at h
  split at h
  · cases h; simp
  · split at h
    · obtain ⟨a, -, rfl⟩ := Option.map_eq_some_iff.mp h; simp
    · cases h

/-! ### The cellar (09, 10) -/

@[simp] theorem keepCounts_tb (s : State) : (keepCounts s).tb = s.tb := by simp [keepCounts]
@[simp] theorem cntSnap_tb (s : State) : (cntSnap s).tb = s.tb := by simp [cntSnap]
@[simp] theorem execClCntSnap_sound (s : State) : soundOut (execClCntSnap s) = soundTb s.tb := by simp [execClCntSnap]

@[simp] theorem releaseVector_tb (v : VRec) (s0 : State) : (releaseVector v s0).tb = s0.tb := by
  simp [releaseVector, countVector, countPin, countSite, countDev, logVector, storeRecord, checkSof, sofStop]

@[simp] theorem commitWait_tb (v : VRec) (s : State) : (commitWait v s).tb = s.tb := by simp [commitWait]
@[simp] theorem letGo_tb (v : VRec) (s : State) : (letGo v s).tb = s.tb := by simp [letGo]

@[simp] theorem countRelease_tb (s : State) : (countRelease s).tb = s.tb := by
  rw [countRelease]

@[simp] theorem releaseSome_tb (fuel n : Nat) (s : State) : (releaseSome fuel n s).tb = s.tb := by
  induction fuel generalizing n s with
  | zero => rfl
  | succ fuel ih => unfold releaseSome; split <;> simp [ih]

@[simp] theorem cloakEcc_tb (ecc : Ecc) (v : VRec) (s : State) : (cloakEcc ecc v s).tb = s.tb := by unfold cloakEcc; split <;> simp

@[simp] theorem cloakFinds_tb (finds : List (Nat × Ecc)) (s : State) : (cloakFinds finds s).tb = s.tb := by
  refine foldl_tb _ (fun u x => ?_) finds s
  split <;> simp

@[simp] theorem execCommitRelease_sound (finds : List (Nat × Ecc)) (s : State) : soundOut (execCommitRelease finds s) = soundTb s.tb := by
  unfold execCommitRelease; split <;> simp [nextRelease]

@[simp] theorem haltLog_tb (s : State) : (haltLog s).tb = s.tb := by simp [haltLog]
@[simp] theorem granule_sound (s : State) : soundTb (granule s).tb = soundTb s.tb := by unfold granule; split <;> simp [writeGranule]

@[simp] theorem execCellarGranuleWrite_sound (s : State) : soundOut (execCellarGranuleWrite s) = soundTb s.tb := by
  simp [execCellarGranuleWrite]

@[simp] theorem readback_sound (ecc : Ecc) (base g : Nat) (s0 : State) : soundTb (readback ecc base g s0).tb = soundTb s0.tb := by
  simp [readback]

@[simp] theorem execCellarReadbackComplete_sound (ecc : Ecc) (s : State) : soundOut (execCellarReadbackComplete ecc s) = soundTb s.tb := by
  unfold execCellarReadbackComplete; split <;> simp

@[simp] theorem execClConfig_sound (tag : W16) (s : State) : soundOut (execClConfig tag s) = soundTb s.tb := by
  simp [execClConfig, clConfigCmd]

/-! ### The service context (08) -/

@[simp] theorem svcFaultAt_tb (cause a : Nat) (s : State) : (svcFaultAt cause a s).tb = s.tb := by simp [svcFaultAt]

@[simp] theorem execServiceProcedureStart_sound (s : State) : soundOut (execServiceProcedureStart s) = soundTb s.tb := by
  unfold execServiceProcedureStart; split <;> simp

@[simp] theorem svcRun_sound (op : Nat) (ecc : Ecc) (f : Nat → Nat → Proc → State → State)
    (h : ∀ a w p u, soundTb (f a w p u).tb = soundTb u.tb) (s : State) : soundTb (svcRun op ecc f s).tb = soundTb s.tb := by
  unfold svcRun; split
  · rfl
  · split
    · rfl
    · dsimp only; split
      · simp
      · split <;> simp [h]

@[simp] theorem execCall_sound (ecc : Ecc) (s : State) : soundOut (execCall ecc s) = soundTb s.tb := by simp [execCall, callWord]
@[simp] theorem execRet_sound (ecc : Ecc) (s : State) : soundOut (execRet ecc s) = soundTb s.tb := by simp [execRet]
@[simp] theorem execSjmp_sound (ecc : Ecc) (s : State) : soundOut (execSjmp ecc s) = soundTb s.tb := by simp [execSjmp]
@[simp] theorem execLvl_sound (ecc : Ecc) (s : State) : soundOut (execLvl ecc s) = soundTb s.tb := by simp [execLvl, lvlWord]
@[simp] theorem execPfn_sound (ecc : Ecc) (s : State) : soundOut (execPfn ecc s) = soundTb s.tb := by simp [execPfn, pfnWord]
@[simp] theorem execPmeas_sound (ecc : Ecc) (s : State) : soundOut (execPmeas ecc s) = soundTb s.tb := by simp [execPmeas, pmeasWord]
@[simp] theorem execTiurd_sound (ecc : Ecc) (s : State) : soundOut (execTiurd ecc s) = soundTb s.tb := by simp [execTiurd, tiurdWord]

@[simp] theorem execTiurdComplete_sound (s : State) : soundOut (execTiurdComplete s) = soundTb s.tb := by
  unfold execTiurdComplete; split <;> simp

@[simp] theorem keepEarly_tb (cause : Nat) (f : Nat → Bool) (s : State) : (keepEarly cause f s).tb = s.tb := by simp [keepEarly]
@[simp] theorem execLoadw_sound (ecc : Ecc) (s : State) : soundOut (execLoadw ecc s) = soundTb s.tb := by simp [execLoadw, loadwWord]

@[simp] theorem execLoadwComplete_sound (dr : DramFind) (s : State) : soundOut (execLoadwComplete dr s) = soundTb s.tb := by
  unfold execLoadwComplete; split <;> simp [loadwDone, copyWords]

@[simp] theorem execSequenceStoreScrub_sound (addr : Nat) (ecc : Ecc) (s : State) :
    soundOut (execSequenceStoreScrub addr ecc s) = soundTb s.tb := by
  simp [execSequenceStoreScrub]

@[simp] theorem execSqLoad_sound (tag : W16) (src : HostRead) (dr : DramFind) (s : State) :
    soundOut (execSqLoad tag src dr s) = soundTb s.tb := by
  simp [execSqLoad, sqLoadCmd, seqFail, seqInstall]

@[simp] theorem execSqConfig_sound (tag : W16) (s : State) : soundOut (execSqConfig tag s) = soundTb s.tb := by
  simp [execSqConfig, sqConfigCmd]

/-! ### The front end (05) -/

@[simp] theorem execLevelTimerExpiry_sound (s : State) : soundOut (execLevelTimerExpiry s) = soundTb s.tb := by simp [execLevelTimerExpiry]
@[simp] theorem execLevelTick_sound (s : State) : soundOut (execLevelTick s) = soundTb s.tb := by unfold execLevelTick; split <;> simp

@[simp] theorem execDeglitchHoldEnd_sound (p : Pin) (d : DacIx) (s : State) : soundOut (execDeglitchHoldEnd p d s) = soundTb s.tb := by
  unfold execDeglitchHoldEnd; split <;> simp

@[simp] theorem execSlewStep_sound (p : Pin) (d : DacIx) (s : State) : soundOut (execSlewStep p d s) = soundTb s.tb := by
  unfold execSlewStep; split <;> simp

@[simp] theorem execFunctionEnable_sound (p : Pin) (s : State) : soundOut (execFunctionEnable p s) = soundTb s.tb := by
  unfold execFunctionEnable; split <;> simp

@[simp] theorem execPpmuRangeOverlapEnd_sound (p : Pin) (s : State) : soundOut (execPpmuRangeOverlapEnd p s) = soundTb s.tb := by
  simp [execPpmuRangeOverlapEnd]

@[simp] theorem beginMeas_tb (g : Glove) (r : MeasReq) (s : State) : (beginMeas g r s).tb = s.tb := by simp [beginMeas]

@[simp] theorem measStart_sound (g : Glove) (s : State) : soundTb (measStart g s).tb = soundTb s.tb := by
  unfold measStart; (repeat' split) <;> simp [startService]

@[simp] theorem execPpmuMeasStart_sound (g : Glove) (s : State) : soundOut (execPpmuMeasStart g s) = soundTb s.tb := by
  simp [execPpmuMeasStart]

@[simp] theorem execPpmuMuxConnected_sound (g : Glove) (s : State) : soundOut (execPpmuMuxConnected g s) = soundTb s.tb := by
  unfold execPpmuMuxConnected; split <;> simp

@[simp] theorem execPpmuSettleExpiry_sound (g : Glove) (s : State) : soundOut (execPpmuSettleExpiry g s) = soundTb s.tb := by
  unfold execPpmuSettleExpiry; split <;> simp

@[simp] theorem giveService_sound (p : Pin) (w : W64) (s : State) : soundTb (giveService p w s).tb = soundTb s.tb := by
  unfold giveService; split <;> simp

@[simp] theorem giveMailbox_tb (tag : W16) (p : Pin) (w : W64) (s : State) : (giveMailbox tag p w s).tb = s.tb := by
  unfold giveMailbox; dsimp only; (repeat' split) <;> simp

@[simp] theorem measDone_sound (g : Glove) (m : Meas) (s : State) : soundTb (measDone g m s).tb = soundTb s.tb := by
  unfold measDone; split <;> simp

@[simp] theorem execPpmuConversion_sound (g : Glove) (code : BitVec 18) (clamped : Bool) (s : State) :
    soundOut (execPpmuConversion g code clamped s) = soundTb s.tb := by
  unfold execPpmuConversion; split <;> simp [convert]

@[simp] theorem execParkNFall_sound (pulse : ParkPulse) (s : State) : soundOut (execParkNFall pulse s) = soundTb s.tb := by
  unfold execParkNFall; (repeat' split) <;> simp [parkLand]

@[simp] theorem execParkNRise_sound (s : State) : soundOut (execParkNRise s) = soundTb s.tb := by simp [execParkNRise]

@[simp] theorem pfApply_tb (e : Exec) (s : State) : (pfApply e s).tb = s.tb := by
  unfold pfApply; dsimp only; split
  · rw [reportClamp_tb]
  · rfl

@[simp] theorem execPfConfig_sound (tag : W16) (s : State) : soundOut (execPfConfig tag s) = soundTb s.tb := by
  simp [execPfConfig, pfConfigCmd]

@[simp] theorem execPfUnpark_sound (tag : W16) (s : State) : soundOut (execPfUnpark tag s) = soundTb s.tb := by
  simp [execPfUnpark, pfUnparkCmd, releaseAll]

@[simp] theorem execPfPpmuMeas_sound (tag : W16) (s : State) : soundOut (execPfPpmuMeas tag s) = soundTb s.tb := by
  simp [execPfPpmuMeas, pfPpmuMeasCmd]

/-! ### The pin table (06) -/

@[simp] theorem dropMixed_tb (tag : W16) (s : State) : (dropMixed tag s).tb = s.tb := by simp [dropMixed]
@[simp] theorem ptReadEnd_tb (tag : W16) (s : State) : (ptReadEnd tag s).tb = s.tb := by simp [ptReadEnd]

@[simp] theorem ptChecked_tb (checks : List (Bool × Nat)) (e : Exec) (f : State → State) (h : ∀ u, (f u).tb = u.tb)
    (s : State) : (ptChecked checks e f s).tb = s.tb := by
  unfold ptChecked; split <;> simp [h]

@[simp] theorem ptChecked_sound (checks : List (Bool × Nat)) (e : Exec) (f : State → State)
    (h : ∀ u, soundTb (f u).tb = soundTb u.tb) (s : State) : soundTb (ptChecked checks e f s).tb = soundTb s.tb := by
  unfold ptChecked; split <;> simp [h]

@[simp] theorem beforeCommit_tb (old new : Mem) (pins : List Pin) (s : State) : (beforeCommit old new pins s).tb = s.tb := by
  simp [beforeCommit]

@[simp] theorem ptCommit_tb (idle : Bool) (r : Nat × Nat) (new : Mem) (s0 : State) : (ptCommit idle r new s0).tb = s0.tb := by
  simp [ptCommit]

@[simp] theorem ptMemerr_tb (e : Exec) (f : Nat × Nat) (s : State) : (ptMemerr e f s).tb = s.tb := by simp [ptMemerr]

@[simp] theorem bindRead_sound (e : Exec) (src : HostRead) (dr : DramFind) (a : Nat) (host : Bool) (s0 : State) :
    soundTb (bindRead e src dr a host s0).tb = soundTb s0.tb := by
  unfold bindRead; dsimp only; (repeat' split) <;> simp

@[simp] theorem execPtBind_sound (tag : W16) (src : HostRead) (dr : DramFind) (s : State) :
    soundOut (execPtBind tag src dr s) = soundTb s.tb := by
  simp [execPtBind, ptBindCmd]

@[simp] theorem refreshEnd_sound (e : Exec) (r : Nat × Nat) (new : Mem) (s : State) :
    soundTb (refreshEnd e r new s).tb = soundTb s.tb := by
  unfold refreshEnd; (repeat' split) <;> simp

@[simp] theorem refreshRead_sound (e : Exec) (src : HostRead) (dr : DramFind) (s0 : State) :
    soundTb (refreshRead e src dr s0).tb = soundTb s0.tb := by
  unfold refreshRead; dsimp only; (repeat' split) <;> simp

@[simp] theorem execPtRefresh_sound (tag : W16) (src : HostRead) (dr : DramFind) (s : State) :
    soundOut (execPtRefresh tag src dr s) = soundTb s.tb := by
  simp [execPtRefresh, ptRefreshCmd]

@[simp] theorem roomError_tb (off : Nat) (ecc : Ecc) (s : State) : (roomError off ecc s).tb = s.tb := by unfold roomError; split <;> simp

@[simp] theorem execStoreRoomScrub_sound (off : Nat) (ecc : Ecc) (s : State) : soundOut (execStoreRoomScrub off ecc s) = soundTb s.tb := by
  simp [execStoreRoomScrub]

/-! ### The pattern memory (07) -/

@[simp] theorem execPmConfig_sound (tag : W16) (s : State) : soundOut (execPmConfig tag s) = soundTb s.tb := by
  simp [execPmConfig, pmConfigCmd]

@[simp] theorem execPmConfigFrameApply_sound (s : State) : soundOut (execPmConfigFrameApply s) = soundTb s.tb := by
  unfold execPmConfigFrameApply; split <;> simp [toFrame]

@[simp] theorem execPmRegion_sound (tag : W16) (s : State) : soundOut (execPmRegion tag s) = soundTb s.tb := by
  simp [execPmRegion, pmRegionCmd]

@[simp] theorem execPmWfclr_sound (tag : W16) (s : State) : soundOut (execPmWfclr tag s) = soundTb s.tb := by
  simp [execPmWfclr, pmWfclrCmd]

@[simp] theorem execPmVerify_sound (tag : W16) (src : HostRead) (dr : DramFind) (s : State) :
    soundOut (execPmVerify tag src dr s) = soundTb s.tb := by
  simp [execPmVerify, pmVerifyCmd]

@[simp] theorem shelve_tb (x : Shelf) (s : State) : (shelve x s).tb = s.tb := by simp [shelve]

@[simp] theorem execAtticFetchComplete_sound (item : FetchItem) (spare : Bool) (dr : DramFind) (s : State) :
    soundOut (execAtticFetchComplete item spare dr s) = soundTb s.tb := by
  simp [execAtticFetchComplete, atticFetch]

@[simp] theorem hostFetch_tb (item : FetchItem) (spare : Bool) (src : HostRead) (s : State) : (hostFetch item spare src s).tb = s.tb := by
  unfold hostFetch; split <;> simp

@[simp] theorem execHostsrcReadComplete_sound (item : FetchItem) (spare : Bool) (src : HostRead) (s : State) :
    soundOut (execHostsrcReadComplete item spare src s) = soundTb s.tb := by
  simp [execHostsrcReadComplete]

@[simp] theorem execAtticFillComplete_sound (s : State) : soundOut (execAtticFillComplete s) = soundTb s.tb := by
  simp [execAtticFillComplete, fillDone]

@[simp] theorem execDramScrub_sound (addr : Nat) (ecc : Ecc) (s : State) : soundOut (execDramScrub addr ecc s) = soundTb s.tb := by
  simp [execDramScrub]

@[simp] theorem execBar2Write_sound (addr : Nat) (bytes : List Byte) (poisoned : Bool) (s : State) :
    soundOut (execBar2Write addr bytes poisoned s) = soundTb s.tb := by
  simp [execBar2Write]

@[simp] theorem execBar2WriteApply_sound (ecc : Ecc) (s : State) : soundOut (execBar2WriteApply ecc s) = soundTb s.tb := by
  simp [execBar2WriteApply]

@[simp] theorem execBar2Read_sound (addr : Nat) (len : Nat) (dr : DramFind) (s : State) :
    soundOut (execBar2Read addr len dr s) = soundTb s.tb := by
  simp [execBar2Read]

/-! ### The capture stream (11) -/

@[simp] theorem noteChange_tb (p : Pin) (k : XKind) (at_ : Nat) (s : State) : (noteChange p k at_ s).tb = s.tb := by
  unfold noteChange; split <;> simp

@[simp] theorem execComparatorCrossing_sound (p : Pin) (th : Threshold) (at_ : Nat) (rise : Bool) (tiuUE : Option Glove) (s : State) :
    soundOut (execComparatorCrossing p th at_ rise tiuUE s) = soundTb s.tb := by
  unfold execComparatorCrossing; split <;> simp [tiuStateUe, crossing, tiuCross]

@[simp] theorem spanTimeout_sound (p : Pin) (s0 : State) : soundTb (spanTimeout p s0).tb = soundTb s0.tb := by
  unfold spanTimeout; dsimp only; (repeat' split) <;> simp

@[simp] theorem execTriggerSpanTimeout_sound (p : Pin) (s : State) : soundOut (execTriggerSpanTimeout p s) = soundTb s.tb := by
  simp [execTriggerSpanTimeout]

@[simp] theorem execTriggerHitDelivery_sound (s : State) : soundOut (execTriggerHitDelivery s) = soundTb s.tb := by
  unfold execTriggerHitDelivery; split <;> simp

@[simp] theorem rawSample_tb (p : Pin) (land : Nat) (s : State) : (rawSample p land s).tb = s.tb := by simp [rawSample]

@[simp] theorem execRawSample_sound (p : Pin) (s : State) : soundOut (execRawSample p s) = soundTb s.tb := by
  unfold execRawSample; split <;> simp

@[simp] theorem unitPlace_sound (ps : Fin 16) (s : State) : soundTb (unitPlace ps s).tb = soundTb s.tb := by
  unfold unitPlace; split <;> simp

@[simp] theorem execUnitPlace_sound (pset : Fin 16) (s : State) : soundOut (execUnitPlace pset s) = soundTb s.tb := by simp [execUnitPlace]

@[simp] theorem execFrameFlushExpiry_sound (pset : Fin 16) (s : State) : soundOut (execFrameFlushExpiry pset s) = soundTb s.tb := by
  unfold execFrameFlushExpiry; split <;> simp

@[simp] theorem execFrameSend_sound (s : State) : soundOut (execFrameSend s) = soundTb s.tb := by unfold execFrameSend; split <;> simp
@[simp] theorem execStagingWrite_sound (s : State) : soundOut (execStagingWrite s) = soundTb s.tb := by simp [execStagingWrite, stageFrame]

@[simp] theorem stageRead_sound (dr : DramFind) (s0 : State) : soundTb (stageRead dr s0).tb = soundTb s0.tb := by
  unfold stageRead; dsimp only; (repeat' split) <;> simp [unreadable]

@[simp] theorem execStagingReadComplete_sound (dr : DramFind) (s : State) : soundOut (execStagingReadComplete dr s) = soundTb s.tb := by
  simp [execStagingReadComplete]

@[simp] theorem sendWaiting_sound (n : Nat) (reads : List DramFind) (s : State) :
    soundTb (sendWaiting n reads s).tb = soundTb s.tb := by
  induction n generalizing reads s with
  | zero => rfl
  | succ n ih =>
    unfold sendWaiting
    split
    · rfl
    · split <;> simp [ih]

@[simp] theorem closeDue_tb (flag : Nat) (s : State) : (closeDue flag s).tb = s.tb := by simp [closeDue]

@[simp] theorem closeFill_sound (send : Bool) (reads : List DramFind) (s : State) :
    soundTb (closeFill send reads s).2.tb = soundTb s.tb := by
  simp [closeFill]

@[simp] theorem closeStream_sound (cause : Nat) (send : Bool) (s : State) : soundTb (closeStream cause send s).tb = soundTb s.tb := by
  simp [closeStream]

@[simp] theorem execStreamIrqTimer_sound (s : State) : soundOut (execStreamIrqTimer s) = soundTb s.tb := by simp [execStreamIrqTimer]
@[simp] theorem consWrite_tb (v : W64) (s : State) : (consWrite v s).tb = s.tb := by simp [consWrite]
@[simp] theorem execCsConsWrite_sound (v : W64) (s : State) : soundOut (execCsConsWrite v s) = soundTb s.tb := by simp [execCsConsWrite]

@[simp] theorem execCsOpen_sound (tag : W16) (s : State) : soundOut (execCsOpen tag s) = soundTb s.tb := by
  simp [execCsOpen, csOpenCmd, streamOpen]

@[simp] theorem execCsClose_sound (req : CloseReq) (s : State) : soundOut (execCsClose req s) = soundTb s.tb := by
  simp [execCsClose, csCloseCmd]

/-! ### The margin outputs (13) -/

@[simp] theorem mxjRequest_sound (i : Chan) (s : State) : soundTb (mxjRequest i s).tb = soundTb s.tb := by
  unfold mxjRequest; (repeat' split) <;> simp

@[simp] theorem trigRequest_sound (i : Chan) (evt : Bool) (s : State) : soundTb (trigRequest i evt s).tb = soundTb s.tb := by
  unfold trigRequest; split <;> simp

@[simp] theorem execMxJumpRequest_sound (ch : Chan) (src : JumpSrc) (s : State) :
    soundOut (execMxJumpRequest ch src s) = soundTb s.tb := by
  unfold execMxJumpRequest; split <;> simp

@[simp] theorem mxDead_tb (i : Chan) (k : Nat) (s : State) : (mxDead i k s).tb = s.tb := by
  unfold mxDead; split <;> simp [mxSample0, mxJumpStart]

@[simp] theorem mxStopAct_tb (i : Chan) (s : State) : (mxStopAct i s).tb = s.tb := by
  unfold mxStopAct; dsimp only; (repeat' split) <;> simp

@[simp] theorem mxFault_tb (i : Chan) (s : State) : (mxFault i s).tb = s.tb := by simp [mxFault]

@[simp] theorem mxUpdateCh_sound (k : Nat) (ue : Option (Chan × Nat)) (s0 : State) (i : Chan) :
    soundTb (mxUpdateCh k ue s0 i).tb = soundTb s0.tb := by
  unfold mxUpdateCh; dsimp only; (repeat' split) <;> simp [mxPlay, mxSine, larderFault]

@[simp] theorem mxUpdate_sound (ue : Option (Chan × Nat)) (s0 : State) : soundTb (mxUpdate ue s0).tb = soundTb s0.tb := by simp [mxUpdate]

@[simp] theorem execMxUpdate_sound (larderUE : Option (Chan × Nat)) (s : State) : soundOut (execMxUpdate larderUE s) = soundTb s.tb := by
  simp [execMxUpdate]

@[simp] theorem execMxSegmentRead_sound (ch : Chan) (addr : Nat) (ecc : Ecc) (s : State) :
    soundOut (execMxSegmentRead ch addr ecc s) = soundTb s.tb := by
  simp [execMxSegmentRead, segRead]

@[simp] theorem sineAt_tb (off : Nat) (bytes : List (Option Byte)) (s : State) : (sineAt off bytes s).tb = s.tb := by
  simp [sineAt, sineWrite]

@[simp] theorem execSineBlockWrite_sound (off : Nat) (bytes : List (Option Byte)) (s : State) :
    soundOut (execSineBlockWrite off bytes s) = soundTb s.tb := by
  simp [execSineBlockWrite]

@[simp] theorem mxConfigCmd_tb (e : Exec) (s : State) : (mxConfigCmd e s).tb = s.tb := by simp [mxConfigCmd]
@[simp] theorem execMxConfig_sound (tag : W16) (s : State) : soundOut (execMxConfig tag s) = soundTb s.tb := by simp [execMxConfig]

@[simp] theorem execMxSegtab_sound (tag : W16) (s : State) : soundOut (execMxSegtab tag s) = soundTb s.tb := by
  simp [execMxSegtab, mxSegtabCmd]

@[simp] theorem execMxLoad_sound (tag : W16) (src : HostRead) (dr : DramFind) (s : State) :
    soundOut (execMxLoad tag src dr s) = soundTb s.tb := by
  simp [execMxLoad, mxLoadCmd]

@[simp] theorem mxStartCh_tb (seg : Nat) (s : State) (i : Chan) : (mxStartCh seg s i).tb = s.tb := by simp [mxStartCh]
@[simp] theorem mxStartCmd_tb (e : Exec) (s : State) : (mxStartCmd e s).tb = s.tb := by simp [mxStartCmd]
@[simp] theorem execMxStart_sound (tag : W16) (s : State) : soundOut (execMxStart tag s) = soundTb s.tb := by simp [execMxStart]
@[simp] theorem mxJumpCmd_tb (e : Exec) (s : State) : (mxJumpCmd e s).tb = s.tb := by simp [mxJumpCmd]
@[simp] theorem execMxJump_sound (tag : W16) (s : State) : soundOut (execMxJump tag s) = soundTb s.tb := by simp [execMxJump]
@[simp] theorem mxStopCmd_tb (e : Exec) (s : State) : (mxStopCmd e s).tb = s.tb := by simp [mxStopCmd]
@[simp] theorem execMxStop_sound (tag : W16) (s : State) : soundOut (execMxStop tag s) = soundTb s.tb := by simp [execMxStop]

@[simp] theorem execEvtInEdge_sound (line : Fin 4) (rise : Bool) (s : State) : soundOut (execEvtInEdge line rise s) = soundTb s.tb := by
  simp [execEvtInEdge, evtRise]

/-! ### The ensemble (14) -/

@[simp] theorem toEns_sound (t : Nat) (s : State) : soundTb (toEns t s).tb = soundTb s.tb := by simp [toEns]

@[simp] theorem execHargoControlSlot_sound (port : Port) (slot : CtlSlot) (s : State) :
    soundOut (execHargoControlSlot port slot s) = soundTb s.tb := by
  simp [execHargoControlSlot, badSlot, goodSlot]

@[simp] theorem execLinkBlockLockLost_sound (port : Port) (s : State) : soundOut (execLinkBlockLockLost port s) = soundTb s.tb := by
  simp [execLinkBlockLockLost]

@[simp] theorem execMgmtRetransmitTimeout_sound (port : Port) (s : State) :
    soundOut (execMgmtRetransmitTimeout port s) = soundTb s.tb := by
  simp [execMgmtRetransmitTimeout, retransmit]

@[simp] theorem execDataSlotAcknowledgement_sound (ack : SlotAck) (s : State) :
    soundOut (execDataSlotAcknowledgement ack s) = soundTb s.tb := by
  simp [execDataSlotAcknowledgement]

@[simp] theorem onBurst_sound (t : Nat) (f : Port → Burst → State → State)
    (h : ∀ p b u, soundTb (f p b u).tb = soundTb u.tb) (s : State) : soundTb (onBurst t f s).tb = soundTb s.tb := by
  unfold onBurst; split <;> simp [h]

@[simp] theorem onDown_sound (t : Nat) (f : Burst → Nat → State → State)
    (h : ∀ b n u, soundTb (f b n u).tb = soundTb u.tb) (s : State) : soundTb (onDown t f s).tb = soundTb s.tb := by
  refine onBurst_sound t _ (fun p b u => ?_) s
  split <;> simp [h]

@[simp] theorem execArmBurst_sound (s : State) : soundOut (execArmBurst s) = soundTb s.tb := by simp [execArmBurst]

theorem armAtTime_sound {s : State} (sound : soundTb s.tb = true) : soundTb (armAtTime s).tb = true := by
  unfold armAtTime; split
  · exact sound
  · dsimp only; split
    · simpa
    · rename_i ready
      exact armEffect_sound true (edge_of_timeBaseReady (by simpa [not_or] using (not_or.mp (not_or.mp (not_or.mp ready).2).2).2))

theorem execArmBurstAtime_sound {s : State} (sound : soundTb s.tb = true) : soundOut (execArmBurstAtime s) = true :=
  armAtTime_sound sound

@[simp] theorem execGoBurst_sound (s : State) : soundOut (execGoBurst s) = soundTb s.tb := by simp [execGoBurst]
@[simp] theorem goAtTime_sound (s : State) : soundTb (goAtTime s).tb = soundTb s.tb := by unfold goAtTime; split <;> simp
@[simp] theorem execGoBurstAtime_sound (s : State) : soundOut (execGoBurstAtime s) = soundTb s.tb := by simp [execGoBurstAtime]
@[simp] theorem haltAct_tb (b : Burst) (t : Nat) (s : State) : (haltAct b t s).tb = s.tb := by unfold haltAct; split <;> simp
@[simp] theorem execHaltBurst_sound (s : State) : soundOut (execHaltBurst s) = soundTb s.tb := by simp [execHaltBurst]
@[simp] theorem parkAtTime_sound (s : State) : soundTb (parkAtTime s).tb = soundTb s.tb := by unfold parkAtTime; split <;> simp

@[simp] theorem execHaltBurstParkAtime_sound (s : State) : soundOut (execHaltBurstParkAtime s) = soundTb s.tb := by
  simp [execHaltBurstParkAtime]

@[simp] theorem execHaltreqBurst_sound (s : State) : soundOut (execHaltreqBurst s) = soundTb s.tb := by simp [execHaltreqBurst, haltreqAct]
@[simp] theorem execDiscordBurst_sound (s : State) : soundOut (execDiscordBurst s) = soundTb s.tb := by simp [execDiscordBurst, discordAct]

@[simp] theorem tryGlobal_tb (num sn : Nat) (s : State) : (tryGlobal num sn s).tb = s.tb := by
  unfold tryGlobal; split <;> simp [sendGlobal]

@[simp] theorem gather_tb (x : Contrib) (s : State) : (gather x s).tb = s.tb := by simp [gather]
@[simp] theorem localResolve_sound (s0 : State) : soundTb (localResolve s0).tb = soundTb s0.tb := by unfold localResolve; split <;> simp

@[simp] theorem execLocalEntryResolution_sound (s : State) : soundOut (execLocalEntryResolution s) = soundTb s.tb := by
  simp [execLocalEntryResolution]

@[simp] theorem execContribBurst_sound (s : State) : soundOut (execContribBurst s) = soundTb s.tb := by simp [execContribBurst, contribAct]
@[simp] theorem execResultBurst_sound (s : State) : soundOut (execResultBurst s) = soundTb s.tb := by simp [execResultBurst, resultAct]
@[simp] theorem execTmarkBurst_sound (s : State) : soundOut (execTmarkBurst s) = soundTb s.tb := by simp [execTmarkBurst]
@[simp] theorem tmarkSend_sound (s : State) : soundTb (tmarkSend s).tb = soundTb s.tb := by unfold tmarkSend; split <;> simp
@[simp] theorem execTmarkSend_sound (s : State) : soundOut (execTmarkSend s) = soundTb s.tb := by simp [execTmarkSend]

@[simp] theorem execTimeMarkEvent_sound (s : State) : soundOut (execTimeMarkEvent s) = soundTb s.tb := by
  unfold execTimeMarkEvent; split <;> simp

@[simp] theorem probeDue_sound (s : State) : soundTb (probeDue s).tb = soundTb s.tb := by unfold probeDue; split <;> simp
@[simp] theorem execSyncProbeSend_sound (s : State) : soundOut (execSyncProbeSend s) = soundTb s.tb := by simp [execSyncProbeSend, probeOn]

theorem alignTo_sound {s : State} (t : Nat) (sound : soundTb s.tb = true) : soundTb (alignTo t s).tb = true := by
  simp only [soundTb, Bool.and_eq_true] at sound ⊢
  exact ⟨by simp [alignTo], sound.2⟩

@[simp] theorem track_tb (time : Nat) (s : State) : (track time s).tb = s.tb := by unfold track; dsimp only; (repeat' split) <;> simp

theorem execSyncProbe_sound (time : Nat) {s : State} (sound : soundTb s.tb = true) : soundOut (execSyncProbe time s) = true := by
  unfold execSyncProbe
  rw [soundOut_next]
  split
  · exact sound
  · split
    · simpa
    · exact alignTo_sound _ sound

@[simp] theorem execRefclkCountCheck_sound (count : Nat) (s : State) : soundOut (execRefclkCountCheck count s) = soundTb s.tb := by
  simp [execRefclkCountCheck]

@[simp] theorem formAnswer_tb (status : Nat) (s : State) : (formAnswer status s).tb = s.tb := by unfold formAnswer; split <;> simp
@[simp] theorem becomeFormed_tb (m : Nat) (s : State) : (becomeFormed m s).tb = s.tb := by simp [becomeFormed]

@[simp] theorem execEnsForm_sound (tag : W16) (s : State) : soundOut (execEnsForm tag s) = soundTb s.tb := by
  simp [execEnsForm, ensFormCmd, startForm]

@[simp] theorem trained_tb (p : Port) (r : Training) (s : State) : (trained p r s).tb = s.tb := by unfold trained; (repeat' split) <;> simp

@[simp] theorem execPortTrainingDone_sound (port : Port) (result : Training) (s : State) :
    soundOut (execPortTrainingDone port result s) = soundTb s.tb := by
  simp [execPortTrainingDone]

@[simp] theorem joinLeader_tb (p : Port) (path : List Port) (member : Nat) (ensId : W64) (major : W16) (depth : Nat) (s : State) :
    (joinLeader p path member ensId major depth s).tb = s.tb := by
  unfold joinLeader; split <;> simp

@[simp] theorem joinRefused_tb (member c : Nat) (path : List Port) (s : State) : (joinRefused member c path s).tb = s.tb := by
  unfold joinRefused; split <;> simp

@[simp] theorem execJoinMessage_sound (port : Port) (member : Nat) (ensId : W64) (major : W16) (depth : Nat) (way : JoinWay) (s : State) :
    soundOut (execJoinMessage port member ensId major depth way s) = soundTb s.tb := by
  unfold execJoinMessage; (repeat' split) <;> simp

@[simp] theorem execFormedMessage_sound (members : Nat) (s : State) : soundOut (execFormedMessage members s) = soundTb s.tb := by
  simp [execFormedMessage, formedAct]

@[simp] theorem execEnsFormTimeout_sound (s : State) : soundOut (execEnsFormTimeout s) = soundTb s.tb := by
  simp [execEnsFormTimeout, formTimeout]

@[simp] theorem broken_tb (s : State) : (broken s).tb = s.tb := by simp [broken]

@[simp] theorem execEnsBreak_sound (tag : W16) (s : State) : soundOut (execEnsBreak tag s) = soundTb s.tb := by
  simp [execEnsBreak, ensBreakCmd]

@[simp] theorem execBreakMessage_sound (s : State) : soundOut (execBreakMessage s) = soundTb s.tb := by simp [execBreakMessage]
@[simp] theorem execArmCheckRequest_sound (s : State) : soundOut (execArmCheckRequest s) = soundTb s.tb := by simp [execArmCheckRequest]

@[simp] theorem execArmCheckReply_sound (src : Sender) (pass : Bool) (digest : W64) (imageId : W64) (crc : ReplyCrc) (profile : Byte) (common : W32) (s : State) :
    soundOut (execArmCheckReply src pass digest imageId crc profile common s) = soundTb s.tb := by
  simp [execArmCheckReply, armReplyAct]

@[simp] theorem execArmCheckReplyTimeout_sound (s : State) : soundOut (execArmCheckReplyTimeout s) = soundTb s.tb := by
  unfold execArmCheckReplyTimeout; (repeat' split) <;> simp

@[simp] theorem execArmedReport_sound (src : Sender) (idle : Bool) (s : State) : soundOut (execArmedReport src idle s) = soundTb s.tb := by
  simp [execArmedReport, armedAct]

@[simp] theorem execEnsExpect_sound (tag : W16) (s : State) : soundOut (execEnsExpect tag s) = soundTb s.tb := by
  simp [execEnsExpect, ensExpectCmd]

@[simp] theorem execEnsTmark_sound (tag : W16) (s : State) : soundOut (execEnsTmark tag s) = soundTb s.tb := by
  simp [execEnsTmark, ensTmarkCmd]

/-! ### RW1C bits (00) -/

@[simp] theorem writeClears_sound (off : Nat) (bytes : List (Option Byte)) (s : State) :
    soundTb (writeClears off bytes s).tb = soundTb s.tb := rfl

/-! ### Trims (17) -/

@[simp] theorem loadTrims_tb (body : Mem) (s : State) : (loadTrims body s).tb = s.tb := by simp [loadTrims]

/-! ### The host interface (15) -/

@[simp] theorem execPostedWriteReceive_sound (bar4 : Bool) (off : Nat) (bytes : List (Option Byte)) (s : State) :
    soundOut (execPostedWriteReceive bar4 off bytes s) = soundTb s.tb := by
  simp [execPostedWriteReceive, receive, dropWrite]

@[simp] theorem plainWrite_sound (off : Nat) (bytes : List (Option Byte)) (s : State) :
    soundTb (plainWrite off bytes s).tb = soundTb s.tb := by
  simp [plainWrite, baseWrite, msixWrite, unmaskOne]

@[simp] theorem execRegisterWrite_sound (off : Nat) (bytes : List (Option Byte)) (s : State) :
    soundOut (execRegisterWrite off bytes s) = soundTb s.tb := by
  simp [execRegisterWrite]

@[simp] theorem doorbell_sound (v : W32) (s0 : State) : soundTb (doorbell v s0).tb = soundTb s0.tb := by simp [doorbell]
@[simp] theorem execHiCmdDb_sound (v : W32) (s : State) : soundOut (execHiCmdDb v s) = soundTb s.tb := by simp [execHiCmdDb]
@[simp] theorem cplHeadWrite_tb (v : W32) (s : State) : (cplHeadWrite v s).tb = s.tb := by simp [cplHeadWrite]
@[simp] theorem execHiCplHead_sound (v : W32) (s : State) : soundOut (execHiCplHead v s) = soundTb s.tb := by simp [execHiCplHead]
@[simp] theorem cmdSizeWrite_tb (v : W32) (s : State) : (cmdSizeWrite v s).tb = s.tb := by simp [cmdSizeWrite]
@[simp] theorem execHiCmdSize_sound (v : W32) (s : State) : soundOut (execHiCmdSize v s) = soundTb s.tb := by simp [execHiCmdSize]
@[simp] theorem cplSizeWrite_sound (v : W32) (s : State) : soundTb (cplSizeWrite v s).tb = soundTb s.tb := by simp [cplSizeWrite]
@[simp] theorem execHiCplSize_sound (v : W32) (s : State) : soundOut (execHiCplSize v s) = soundTb s.tb := by simp [execHiCplSize]

@[simp] theorem execCommandFetch_sound (entry : List Byte) (s : State) : soundOut (execCommandFetch entry s) = soundTb s.tb := by
  simp [execCommandFetch, fetchEntry]

@[simp] theorem startNew_tb (c : CmdEntry) (src : HostRead) (s : State) : (startNew c src s).tb = s.tb := by
  unfold startNew; split <;> simp [refuseStart]

@[simp] theorem startEntry_tb (c : CmdEntry) (src : HostRead) (s : State) : (startEntry c src s).tb = s.tb := by
  unfold startEntry; (repeat' split) <;> simp

@[simp] theorem execCommandStart_sound (src : HostRead) (s : State) : soundOut (execCommandStart src s) = soundTb s.tb := by
  unfold execCommandStart; split <;> simp

@[simp] theorem takesEffect_sound (c : Cpl) (s : State) : soundTb (takesEffect c s).tb = soundTb s.tb := by
  unfold takesEffect; split <;> simp [clSettings, seqLoaded, sqSettings, streamOpened, trimsInForce]

@[simp] theorem cplWrite_sound (s : State) : soundTb (cplWrite s).tb = soundTb s.tb := by
  unfold cplWrite; split <;> simp [writeCpl, cplSignal]

@[simp] theorem execCompletionIrqTimer_sound (s : State) : soundOut (execCompletionIrqTimer s) = soundTb s.tb := by
  simp [execCompletionIrqTimer]

@[simp] theorem execHiNop_sound (tag : W16) (s : State) : soundOut (execHiNop tag s) = soundTb s.tb := by simp [execHiNop, hiNopCmd]
@[simp] theorem execHiInfo_sound (tag : W16) (s : State) : soundOut (execHiInfo tag s) = soundTb s.tb := by simp [execHiInfo, hiInfoCmd]
@[simp] theorem mirrorDue_sound (s : State) : soundTb (mirrorDue s).tb = soundTb s.tb := by unfold mirrorDue; split <;> simp

@[simp] theorem execMirrorRefresh_sound (s : State) : soundOut (execMirrorRefresh s) = soundTb s.tb := by
  simp [execMirrorRefresh, mirrorFill]

/-! ### Management (16) -/

@[simp] theorem wakeCore_tb (cause : Wake) (s : State) : (wakeCore cause s).tb = s.tb := by unfold wakeCore; split <;> simp
@[simp] theorem execCoreWake_sound (cause : Wake) (s : State) : soundOut (execCoreWake cause s) = soundTb s.tb := by simp [execCoreWake]

@[simp] theorem execSensorSlotEnd_sound (reading : W16) (s : State) : soundOut (execSensorSlotEnd reading s) = soundTb s.tb := by
  simp [execSensorSlotEnd, slotReading, dieReading, stackReading, railReading, railEvent, railContain, railCause, bankReading, frameEnd]

@[simp] theorem execThermalTrip115_sound (sensor : Fin 32) (s : State) : soundOut (execThermalTrip115 sensor s) = soundTb s.tb := by
  simp [execThermalTrip115]

@[simp] theorem execThermalTrip125_sound (sensor : Fin 32) (s : State) : soundOut (execThermalTrip125 sensor s) = soundTb s.tb := by
  simp [execThermalTrip125, tripFast]

@[simp] theorem notPersisted_tb (r : EventRec) (s : State) : (notPersisted r s).tb = s.tb := by simp [notPersisted]
@[simp] theorem askCopy_tb (r : EventRec) (s : State) : (askCopy r s).tb = s.tb := by simp [askCopy]
@[simp] theorem nextFatal_tb (s : State) : (nextFatal s).tb = s.tb := by unfold nextFatal; split <;> simp [beginFatal]

@[simp] theorem fatalCheck_sound (s : State) : soundTb (fatalCheck s).tb = soundTb s.tb := by
  unfold fatalCheck; (repeat' split) <;> simp [enterDouble, abortCmd]

@[simp] theorem execEventLogDrain_sound (s : State) : soundOut (execEventLogDrain s) = soundTb s.tb := by
  unfold execEventLogDrain; split <;> simp [drainRec]

@[simp] theorem persistOne_sound (ok : Bool) (s : State) : soundTb (persistOne ok s).tb = soundTb s.tb := by
  unfold persistOne; split <;> simp

@[simp] theorem execPersistCopy_sound (ok : Bool) (s : State) : soundOut (execPersistCopy ok s) = soundTb s.tb := by simp [execPersistCopy]

@[simp] theorem execDiagSnapshot_sound (s : State) : soundOut (execDiagSnapshot s) = soundTb s.tb := by
  unfold execDiagSnapshot; split <;> simp

@[simp] theorem execMgRelease_sound (tag : W16) (s : State) : soundOut (execMgRelease tag s) = soundTb s.tb := by
  simp [execMgRelease, mgReleaseCmd]

@[simp] theorem execMgLogRead_sound (tag : W16) (s : State) : soundOut (execMgLogRead tag s) = soundTb s.tb := by
  simp [execMgLogRead, mgLogReadCmd, logRead, clearPersisted]

@[simp] theorem execMgSensors_sound (tag : W16) (s : State) : soundOut (execMgSensors tag s) = soundTb s.tb := by
  simp [execMgSensors, mgSensorsCmd]

@[simp] theorem execMgDbgUnlockChallenge_sound (tag : W16) (s : State) : soundOut (execMgDbgUnlockChallenge tag s) = soundTb s.tb := by
  simp [execMgDbgUnlockChallenge, challengeCmd]

@[simp] theorem execMgDbgUnlockToken_sound (tag : W16) (s : State) : soundOut (execMgDbgUnlockToken tag s) = soundTb s.tb := by
  simp [execMgDbgUnlockToken, tokenCmd]

@[simp] theorem execSmbReadStatus_sound (s : State) : soundOut (execSmbReadStatus s) = soundTb s.tb := by simp [execSmbReadStatus]
@[simp] theorem execSmbReadSensors_sound (s : State) : soundOut (execSmbReadSensors s) = soundTb s.tb := by simp [execSmbReadSensors]

@[simp] theorem execSmbReadRecord_sound (s : State) : soundOut (execSmbReadRecord s) = soundTb s.tb := by
  unfold execSmbReadRecord; split <;> simp

@[simp] theorem execSmbAlertResponse_sound (s : State) : soundOut (execSmbAlertResponse s) = soundTb s.tb := by simp [execSmbAlertResponse]
@[simp] theorem mgCtrl_tb (v : W32) (s : State) : (mgCtrl v s).tb = s.tb := by simp [mgCtrl]
@[simp] theorem execMgCtrlWrite_sound (v : W32) (s : State) : soundOut (execMgCtrlWrite v s) = soundTb s.tb := by simp [execMgCtrlWrite]

@[simp] theorem execMuxKeeperRelease_sound (s : State) : soundOut (execMuxKeeperRelease s) = soundTb s.tb := by
  unfold execMuxKeeperRelease; split <;> simp

/-! ### The time base (02) -/

@[simp] theorem loseRefclk_sound (cause : Nat) (s : State) : soundTb (loseRefclk cause s).tb = soundTb s.tb := by simp [loseRefclk]
@[simp] theorem startPlls_sound (s : State) : soundTb (startPlls s).tb = soundTb s.tb := by simp [startPlls, startPll]

@[simp] theorem execRefclkMissingEdge_sound (s : State) : soundOut (execRefclkMissingEdge s) = soundTb s.tb := by
  simp [execRefclkMissingEdge]

@[simp] theorem execRefclkMonitorWindowEnd_sound (count : Nat) (s : State) :
    soundOut (execRefclkMonitorWindowEnd count s) = soundTb s.tb := by
  simp [execRefclkMonitorWindowEnd, judgeWindow, recoverRefclk]

@[simp] theorem execLockDetectorAssert_sound (q : Quad) (s : State) : soundOut (execLockDetectorAssert q s) = soundTb s.tb := by
  simp [execLockDetectorAssert]

@[simp] theorem execLockDetectorDeassert_sound (q : Quad) (s : State) : soundOut (execLockDetectorDeassert q s) = soundTb s.tb := by
  simp [execLockDetectorDeassert]

@[simp] theorem execGuardWindowEnd_sound (q : Quad) (count : Nat) (stayed : Bool) (s : State) :
    soundOut (execGuardWindowEnd q count stayed s) = soundTb s.tb := by
  simp [execGuardWindowEnd, judgeGuard]

@[simp] theorem execPhaseAlignDone_sound (q : Quad) (phi : Int) (s : State) : soundOut (execPhaseAlignDone q phi s) = soundTb s.tb := by
  simp [execPhaseAlignDone]

theorem execFabSwitchComplete_sound {s : State} (sound : soundTb s.tb = true) :
    soundOut (execFabSwitchComplete s) = true := by
  simp only [soundTb, Bool.and_eq_true] at sound
  simp only [execFabSwitchComplete, soundOut_next, soundTb, Bool.and_eq_true]
  exact ⟨sound.1, by cases fabTarget s <;> simp⟩

@[simp] theorem execEpochWrap_sound (s : State) : soundOut (execEpochWrap s) = soundTb s.tb := by simp [execEpochWrap]

/-! ### Power states (16) -/

@[simp] theorem drainOne_sound (s : State) : soundTb (drainOne s).tb = soundTb s.tb := by
  unfold drainOne; dsimp only; (repeat' split) <;> simp

@[simp] theorem drainCellar_sound (n : Nat) (s : State) : soundTb (drainCellar n s).tb = soundTb s.tb := by
  induction n generalizing s with
  | zero => rfl
  | succ n ih => unfold drainCellar; split <;> simp [ih]

@[simp] theorem loseDram_tb (s : State) : (loseDram s).tb = s.tb := by simp [loseDram]
@[simp] theorem enterP3_sound (s : State) : soundTb (enterP3 s).tb = soundTb s.tb := by simp [enterP3]
@[simp] theorem pwrAnswer_tb (status : Nat) (s : State) : (pwrAnswer status s).tb = s.tb := by unfold pwrAnswer; (repeat' split) <;> simp
@[simp] theorem beginStep_sound (target : Nat) (s : State) : soundTb (beginStep target s).tb = soundTb s.tb := by simp [beginStep]

@[simp] theorem pwrStart_sound (target : Nat) (tag : Option W16) (s : State) : soundTb (pwrStart target tag s).tb = soundTb s.tb := by
  simp [pwrStart]

@[simp] theorem stepTo_tb (n : Nat) (s : State) : (stepTo n s).tb = s.tb := by simp [stepTo]
@[simp] theorem pwrNext_sound (target : Nat) (s : State) : soundTb (pwrNext target s).tb = soundTb s.tb := by simp [pwrNext]

@[simp] theorem execPowerStepComplete_sound (ok : Bool) (s : State) : soundOut (execPowerStepComplete ok s) = soundTb s.tb := by
  unfold execPowerStepComplete; split <;> simp [stepDown, enterP2, enterP4, stepUp, enterP1]

@[simp] theorem execPwrSet_sound (tag : W16) (s : State) : soundOut (execPwrSet tag s) = soundTb s.tb := by simp [execPwrSet, pwrSetCmd]

@[simp] theorem smbPwr_sound (t : Nat) (s : State) : soundTb (smbPwr t s).tb = soundTb s.tb := by
  unfold smbPwr; (repeat' split) <;> simp [smbStatus]

@[simp] theorem execSmbPwrSet_sound (target : Byte) (s : State) : soundOut (execSmbPwrSet target s) = soundTb s.tb := by
  simp [execSmbPwrSet]

@[simp] theorem smbResume_sound (s : State) : soundTb (smbResume s).tb = soundTb s.tb := by unfold smbResume; split <;> simp
@[simp] theorem execCompletionWrite_sound (s : State) : soundOut (execCompletionWrite s) = soundTb s.tb := by simp [execCompletionWrite]

@[simp] theorem execAcquisitionTimeout_sound (s : State) : soundOut (execAcquisitionTimeout s) = soundTb s.tb := by
  simp [execAcquisitionTimeout, acqTimeout, acqFail]

/-! ### Start-up and resets (17) -/

@[simp] theorem bootSlot_tb (k : Nat) (s : State) : (bootSlot k s).tb = s.tb := by simp [bootSlot]
@[simp] theorem enterRecovery_tb (a b : Nat) (s : State) : (enterRecovery a b s).tb = s.tb := by simp [enterRecovery]

@[simp] theorem bootFirmware_tb (s : State) : (bootFirmware s).tb = s.tb := by
  have trial : (trialStep s).1.tb = s.tb := by
    unfold trialStep; dsimp only
    split
    · simp
    · split <;> simp
  unfold bootFirmware; dsimp only; split
  · simp [trial]
  · simp [trial]
  · split <;> simp [trial]

@[simp] theorem execAxrasStart_sound (busMaster : Bool) (s : State) : soundOut (execAxrasStart busMaster s) = soundTb s.tb := by
  simp [execAxrasStart]

@[simp] theorem bootCal_tb (s : State) : (bootCal s).tb = s.tb := by
  unfold bootCal; dsimp only; split
  · rw [loadTrims_tb]
  · simp

@[simp] theorem execBootComplete_sound (s : State) : soundOut (execBootComplete s) = soundTb s.tb := by simp [execBootComplete]
@[simp] theorem execPerstNDeassert_sound (s : State) : soundOut (execPerstNDeassert s) = soundTb s.tb := by simp [execPerstNDeassert]
theorem coldReset_tb (s : State) : (coldReset s).tb = State.reset.tb := rfl

@[simp] theorem startLines_tb (s : State) : (startLines s).tb = s.tb := by
  unfold startLines; simp only [takeFrees_frame]

@[simp] theorem execPowerOnReset_sound (s : State) : soundOut (execPowerOnReset s) = true := by
  simp [execPowerOnReset, coldReset_tb]; rfl

@[simp] theorem execConventionalReset_sound (s : State) : soundOut (execConventionalReset s) = true := by
  simp [execConventionalReset, warmReset, coldReset_tb]; rfl

@[simp] theorem flr_sound (s : State) : soundTb (flr s).tb = soundTb s.tb := by simp [flr, flrBlocks, flrPower]
@[simp] theorem execFlr_sound (s : State) : soundOut (execFlr s) = soundTb s.tb := by simp [execFlr]

/-! ### Update and calibration (17) -/

@[simp] theorem recordFail_tb (k : Nat) (e : Exec) (s : State) : (recordFail k e s).tb = s.tb := by simp [recordFail]

@[simp] theorem execFwStage_sound (tag : W16) (flashOk : Bool) (s : State) : soundOut (execFwStage tag flashOk s) = soundTb s.tb := by
  simp [execFwStage, fwStageCmd]

@[simp] theorem execFwCommit_sound (tag : W16) (flashOk : Bool) (s : State) : soundOut (execFwCommit tag flashOk s) = soundTb s.tb := by
  simp [execFwCommit, fwCommitCmd]

@[simp] theorem execFwActivate_sound (tag : W16) (flashOk : Bool) (s : State) :
    soundOut (execFwActivate tag flashOk s) = soundTb s.tb := by
  simp [execFwActivate, fwActivateCmd, activate, confirmTrial]

@[simp] theorem execFwInfo_sound (tag : W16) (s : State) : soundOut (execFwInfo tag s) = soundTb s.tb := by simp [execFwInfo, fwInfoCmd]

@[simp] theorem execCalSave_sound (tag : W16) (s : State) : soundOut (execCalSave tag s) = soundTb s.tb := by
  simp [execCalSave, calSaveCmd]

@[simp] theorem calApply_tb (ok store : Bool) (e : Exec) (h body : List Byte) (s : State) : (calApply ok store e h body s).tb = s.tb := by
  simp [calApply]

@[simp] theorem calLoadCmd_tb (src : HostRead) (ok : Bool) (e : Exec) (s : State) : (calLoadCmd src ok e s).tb = s.tb := by
  unfold calLoadCmd
  refine checked_tb _ e _ (fun u => ?_) s
  dsimp only; split
  · rw [(answer_frame _ _ _ _).1]
  · rw [calApply_tb]

@[simp] theorem execCalLoad_sound (tag : W16) (src : HostRead) (flashOk : Bool) (s : State) :
    soundOut (execCalLoad tag src flashOk s) = soundTb s.tb := by
  simp [execCalLoad]

@[simp] theorem execCalCheck_sound (tag : W16) (dev : List Int) (s : State) : soundOut (execCalCheck tag dev s) = soundTb s.tb := by
  simp [execCalCheck, calCheckCmd, checkTurn, checkRun, adcLeave]

/-! ### Reads of BAR0 and BAR4 (15) -/

theorem runCtlAct_sound (cmd : Nat) {s : State} (sound : soundTb s.tb = true) : soundTb (runCtlAct cmd s).tb = true := by
  unfold runCtlAct; dsimp only
  split
  · exact armWrite_sound (by simpa)
  · split
    · simpa
    · split
      · simpa
      · split <;> simpa

@[simp] theorem ringAct_sound (w : Posted) (s : State) : soundTb (ringAct w s).tb = soundTb s.tb := by simp [ringAct]
@[simp] theorem blockAct_tb (w : Posted) (s : State) : (blockAct w s).tb = s.tb := by simp [blockAct]

theorem applyPosted_sound (w : Posted) {s : State} (sound : soundTb s.tb = true) : soundTb (applyPosted w s).tb = true := by
  unfold applyPosted; split
  · exact sound
  · dsimp only
    rw [blockAct_tb, ringAct_sound]
    split
    · exact runCtlAct_sound _ (by simpa)
    · simpa

theorem mergeWrites_sound (bar4 : Bool) (off n : Nat) {s : State} (sound : soundTb s.tb = true) :
    soundTb (mergeWrites bar4 off n s).tb = true :=
  List.foldlRecOn (motive := fun t : State => soundTb t.tb = true) _ _ sound fun _ h w _ => applyPosted_sound w h

@[simp] theorem latchEpoch_sound (s : State) : soundTb (latchEpoch s).tb = soundTb s.tb := by simp [latchEpoch]

theorem barRead_sound (bar4 : Bool) (off n : Nat) {s : State} (sound : soundTb s.tb = true) :
    soundTb (barRead bar4 off n s).tb = true := by
  have merged := mergeWrites_sound bar4 off n sound
  unfold barRead; split
  · exact sound
  · dsimp only; split <;> exact merged

theorem execTbEpochLoRead_sound (req : BarReq) {s : State} (sound : soundTb s.tb = true) :
    soundOut (execTbEpochLoRead req s) = true := by
  unfold execTbEpochLoRead
  generalize (if req.bar4 = true then 0x1000000 else 0x10000) = size
  rw [soundOut_next]
  split
  · exact barRead_sound _ _ _ sound
  · exact sound

/-! ### Every row -/

/-- Every row keeps the time base sound (R41, R42, R44). The rows that write the epoch, its validity or FAB's source are named; the others
leave its soundness as it is. -/
theorem exec_sound (c : Instr) {s : State} (sound : soundTb s.tb = true) : soundOut (exec c s) = true := by
  cases c
  case powerOnReset => exact execPowerOnReset_sound s
  case conventionalReset => exact execConventionalReset_sound s
  case fabSwitchComplete => exact execFabSwitchComplete_sound sound
  case arm => exact execArm_sound sound
  case armBurstAtime => exact execArmBurstAtime_sound sound
  case syncProbe time => exact execSyncProbe_sound time sound
  case tbEpochLoRead req => exact execTbEpochLoRead_sound req sound
  all_goals simp [exec, sound]

end Sys2Proof.Machine

open Sys2Proof Sys2Proof.Machine

/-- Settles O59: an idle cycle adds whole fabric cycles to the epoch, and every row keeps the time base sound. -/
theorem timeBaseStaysSound : Obligations.timeBaseStaysSound := by
  intro s t sound next
  rw [timeBaseSound_eq] at sound ⊢
  unfold step at next
  split at next
  · cases next
    rw [idleCycle_sound, sound]
  · rename_i c rest _
    have kept := exec_sound c (s := { s with pending := rest }) sound
    rwa [next, soundOut_next] at kept

/-- Settles O60: the state after reset is written out. -/
theorem resetMeetsInvariants : Obligations.resetMeetsInvariants := by
  unfold Obligations.resetMeetsInvariants
  decide
end

section
/-! SUPPORT. What fabric cycles do to the time base (R38, R41, R44), the switch of FAB's source, reads of BAR0 with the epoch latch (R46, R47,
R374, R377), and the statements on a step and on FAB's source and the epoch. -/

namespace Sys2Proof.Machine

open Sys2Proof

/-! ### What follows the passing of time -/

theorem passed_keeps (s : State) : Keeps [.pins, .cs, .ti, .mx, .hi, .mg, .freeCtr] s (passed s) := by
  intro p hp
  cases p <;> simp [samePart] at hp ⊢

theorem flushX_none {s : State} (f : PendX → Bool) (h : s.cs.pendX = []) : flushX f s = s := by
  simp only [flushX, h, List.filter_nil, List.foldl_nil]
  rw [← h]

theorem deliverDue_none {s : State} (h : s.cs.hits = []) : deliverDue s = s := by
  simp [deliverDue, h]

theorem tiuSettle_none {s : State} (f : EndedShot → Bool) (h : s.ti.recent = []) : tiuSettle f s = s := by
  simp only [tiuSettle, h, List.filter_nil, List.foldl_nil]
  rw [← h]

/-- Nothing is due where no stamp, no hit and no shot is pending. -/
theorem passed_none {s : State} (stamps : s.cs.pendX = []) (hits : s.cs.hits = []) (shots : s.ti.recent = []) : passed s = s := by
  rw [passed, flushX_none _ stamps, deliverDue_none hits, tiuPast, tiuSettle_none _ shots]

/-! ### Fabric cycles (R38, R41, R44) -/

/-- `n` nanoseconds on the clock, and the RW1C bits that stood when the cycle began (R10). -/
def timed (n : Nat) (s : State) : State :=
  { s with tb := { s.tb with
    now := s.tb.now + 8192 * n
    sticky := if cycleStart { s with tb := { s.tb with now := s.tb.now + 8192 * n } } = cycleStart s then s.tb.sticky else stickyNow s } }

theorem timeMoved_timed (n : Nat) (s : State) :
    timeMoved n s = { s with tb := { (timed n s).tb with epoch := BitVec.ofNat 64 (s.tb.epoch.toNat + 8192 * n) } } := rfl

theorem pass_off (n : Nat) {s : State} (off : s.tb.fabSrc ≠ .edge) : pass n s = timed n s := if_neg off

theorem pass_below {n : Nat} {s : State} (edge : s.tb.fabSrc = .edge) (some_ : n ≠ 0) (below : s.tb.epoch.toNat + 8192 * n < 2 ^ 64) :
    pass n s = passed (timeMoved n s) := by
  refine (if_pos edge).trans ((if_neg some_).trans ?_)
  rw [if_neg (by omega)]
  rfl

/-- A cycle on is another cycle (R10). -/
theorem timed_cycle {n : Nat} {s : State} (h : 8192 * n = cycleTicks s) :
    timed n s = { s with tb := { s.tb with now := s.tb.now + cycleTicks s, sticky := stickyNow s } } := by
  have some_ : 0 < cycleTicks s := by unfold cycleTicks; split <;> decide
  have other : cycleStart { s with tb := { s.tb with now := s.tb.now + cycleTicks s } } ≠ cycleStart s := by
    show (s.tb.now + cycleTicks s) / cycleTicks s * cycleTicks s ≠ s.tb.now / cycleTicks s * cycleTicks s
    rw [Nat.add_div_right _ some_, Nat.succ_mul]
    omega
  rw [timed, h, if_neg other]

/-- A cycle of the edge clock below the wrap. -/
theorem timeMoved_one {s : State} (edge : s.tb.fabSrc = .edge) :
    timeMoved 1 s = { s with tb := { s.tb with now := s.tb.now + 8192, epoch := s.tb.epoch + 8192, sticky := stickyNow s } } := by
  have ticks : cycleTicks s = 8192 := if_pos edge
  have epoch : BitVec.ofNat 64 (s.tb.epoch.toNat + 8192 * 1) = s.tb.epoch + 8192 := by
    rw [BitVec.ofNat_add, BitVec.ofNat_toNat, BitVec.setWidth_eq]; rfl
  have moved : timed 1 s = _ := timed_cycle (by rw [ticks])
  rw [ticks] at moved
  rw [timeMoved_timed, epoch, moved]

theorem idleCycle_edge {s : State} (edge : s.tb.fabSrc = .edge) (below : s.tb.epoch.toNat + 8192 < 2 ^ 64) :
    idleCycle s = passed (timeMoved 1 s) := by
  rw [idleCycle, if_pos edge, pass_below edge Nat.one_ne_zero below]

theorem idleCycle_off {s : State} (off : s.tb.fabSrc ≠ .edge) :
    idleCycle s = { s with tb := { s.tb with now := s.tb.now + 32768, sticky := stickyNow s } } := by
  have ticks : cycleTicks s = 32768 := if_neg off
  rw [idleCycle, if_neg off, pass_off 4 off, timed_cycle (by rw [ticks]), ticks]

theorem step_none {s : State} (h : s.pending = []) : step s = .next (idleCycle s) := by
  rw [step, h]

/-! ### The wrap (R44) -/

/-- While the stream is closed a wrap counts itself, sets its flag and issues its event. -/
theorem wrapEffects_closed {s : State} (closed : s.cs.open_ = false) : wrapEffects s = wrapNoted s := by
  have same : (wrapNoted s).cs.open_ = false := by rw [(wrapNoted_frame s).1, closed]
  rw [wrapEffects_eq, same, if_neg Bool.false_ne_true, epochMark, same, if_neg Bool.false_ne_true]

theorem wrapNoted_tb (s : State) : (wrapNoted s).tb =
    { s.tb with wraps := wrapsNext s, epochWrapped := true, fresh := freshen s 0x80 s.tb.fresh } := (issue_frame _ _ _).1

theorem wrapNoted_keepsButLog (s : State) : KeepsButLog [.tb] s (wrapNoted s) := by
  obtain ⟨keeps, mg, hi⟩ := issue_keepsButLog 0x0106 [i2 (wrapsNext s).toNat] { s with tb := { s.tb with
    wraps := wrapsNext s, epochWrapped := true, fresh := freshen s 0x80 s.tb.fresh } }
  exact ⟨((setTb_keeps _ s).mono (by simp)).trans (keeps.mono (by simp)), fun _ => mg (by simp), fun _ => hi (by simp)⟩

theorem exec_epochWrap {s : State} (edge : s.tb.fabSrc = .edge) (closed : s.cs.open_ = false) :
    exec .epochWrap s = .next (passed (wrapNoted (timeMoved ((2 ^ 64 - s.tb.epoch.toNat + 8191) / 8192) s))) := by
  have below := s.tb.epoch.isLt
  refine (congrArg Host.Outcome.next (if_pos edge)).trans (congrArg _ ?_)
  rw [pass_wraps edge (by omega) (by omega), wrapEffects_closed (s := timeMoved _ s) closed]

/-! ### FAB's source (R38, R41) -/

theorem exec_fabSwitchComplete (s : State) : exec .fabSwitchComplete s =
    .next { s with tb := { s.tb with fabSrc := fabTarget s, epochValid := s.tb.epochValid && (fabTarget s == .edge) } } := rfl

theorem guardsOpen_iff (s : State) : guardsOpen s = true ↔ ∀ q : Quad, s.tb.guardOpen[q] = true := by
  simp [guardsOpen, Fin.forall_iff]

theorem fabTarget_edge_iff (s : State) : fabTarget s = .edge ↔ ∀ q : Quad, s.tb.guardOpen[q] = true := by
  rw [← guardsOpen_iff]
  by_cases open_ : guardsOpen s = true
  · simp [fabTarget, open_]
  · by_cases ok : s.tb.refclkOk = true <;> simp [fabTarget, open_, ok]

theorem fabTarget_safe_iff {s : State} (h : fabTarget s ≠ .edge) : fabTarget s = .safe ↔ s.tb.refclkOk = true := by
  have shut : ¬ guardsOpen s = true := fun open_ => h (if_pos open_)
  rw [fabTarget, if_neg shut]
  by_cases ok : s.tb.refclkOk = true <;> simp [ok]

/-! ### Bytes of a read (R8) -/

theorem leBytes_add (m n v : Nat) : leBytes (m + n) v = leBytes m v ++ leBytes n (v / 256 ^ m) := by
  induction m generalizing v with
  | zero => simp [leBytes]
  | succ m ih => rw [Nat.succ_add, leBytes, ih, leBytes, List.cons_append, Nat.div_div_eq_div_mul, pow_succ']

theorem leBytes_leNat (l : List Byte) : leBytes l.length (leNat l) = l := by
  induction l with
  | nil => rfl
  | cons b l ih =>
    have byte : b.toNat < 256 := b.isLt
    have low : BitVec.ofNat 8 (b.toNat + 256 * leNat l) = b := BitVec.eq_of_toNat_eq (by rw [BitVec.toNat_ofNat]; omega)
    have high : (b.toNat + 256 * leNat l) / 256 = leNat l := by omega
    rw [List.length_cons, leNat, leBytes, low, high, ih]

theorem memRead_add (d : Byte) (m : Mem) (a k n : Nat) : memRead d m a (k + n) = memRead d m a k ++ memRead d m (a + k) n := by
  simp [memRead, List.range_add, Nat.add_assoc]

theorem memRead_length (d : Byte) (m : Mem) (a n : Nat) : (memRead d m a n).length = n := by simp [memRead]

theorem memRead_memWrite_apart {d : Byte} {m : Mem} {a b n : Nat} {l : List Byte} (hm : Memory.wf d m = true)
    (h : b + n ≤ a ∨ a + l.length ≤ b) : memRead d (memWrite d m a l) b n = memRead d m b n := by
  refine List.map_congr_left fun i hi => memGet_memWrite_other d m _ _ _ hm ?_
  have := List.mem_range.mp hi
  omega

/-! ### The registers as a read finds them (R46, R47) -/

theorem wf_foldl_putReg {m : Mem} (hm : Memory.wf 0 m = true) (l : List (Nat × Nat × Nat)) : Memory.wf 0 (l.foldl putReg m) = true := by
  induction l generalizing m with
  | nil => exact hm
  | cons r l ih => exact ih (wf_memWrite 0 m _ _ hm)

theorem wf_regImage (s : State) : Memory.wf 0 (regImage s) = true := wf_foldl_putReg rfl _

theorem memRead_regImage {s : State} {r : Nat × Nat × Nat} (hr : r ∈ regs s) :
    memRead 0 (regImage s) r.1 r.2.1 = leBytes r.2.1 r.2.2 :=
  memRead_foldl_putReg rfl (regs_apart s) hr

/-- Outside the latches a read finds the live registers. -/
theorem memRead_readImage {s : State} {a n : Nat} (h : a + n ≤ 0x010C ∨ 0x0114 ≤ a) :
    memRead 0 (readImage s) a n = memRead 0 (regImage s) a n :=
  memRead_memWrite_apart (wf_regImage s) (by simp; omega)

/-- The low word of the epoch is live. -/
theorem memRead_readImage_lo (s : State) : memRead 0 (readImage s) 0x0108 4 = leBytes 4 s.tb.epoch.toNat := by
  have whole : memRead 0 (regImage s) 0x0108 (4 + 4) = leBytes (4 + 4) s.tb.epoch.toNat :=
    memRead_regImage (r := (0x0108, 8, s.tb.epoch.toNat)) (by simp [regs, regsHi])
  rw [memRead_add, leBytes_add] at whole
  rw [memRead_readImage (by omega)]
  exact (List.append_inj whole (by rw [memRead_length, leBytes_length])).1

/-- The high word is the latched one. -/
theorem memRead_readImage_hi (s : State) : memRead 0 (readImage s) 0x010C 4 = leBytes 4 s.tb.hiLatch.toNat := by
  have both : memRead 0 (readImage s) 0x010C (4 + 4) = leBytes 4 s.tb.hiLatch.toNat ++ leBytes 4 s.tb.wrapLatch.toNat := by
    have written := memRead_memWrite 0 (regImage s) 0x010C (leBytes 4 s.tb.hiLatch.toNat ++ leBytes 4 s.tb.wrapLatch.toNat) (wf_regImage s)
    rwa [List.length_append, leBytes_length, leBytes_length] at written
  rw [memRead_add] at both
  exact (List.append_inj both (by rw [memRead_length, leBytes_length])).1

theorem bar0Bytes_low {s : State} {off n : Nat} (h : off + n ≤ 0x1000) : bar0Bytes s off n = memRead 0 (readImage s) off n := by
  refine List.map_congr_left fun i hi => if_pos ?_
  have := List.mem_range.mp hi
  omega

/-! ### Reads of BAR0 (R374, R377) -/

/-- The completion of a read. -/
def readData (l : List Byte) (s : State) : State := { s with hi := { s.hi with rdata := l, rpoison := false, rabort := false } }

theorem exec_read {s : State} {off len : Nat} (serving : s.hi.serving = true) (up : s.hi.linkUp = true) (inside : off + len ≤ 0x10000)
    (some_ : len ≠ 0) : exec (.tbEpochLoRead { off := off, len := len }) s = .next (barRead false off len s) :=
  congrArg Host.Outcome.next (if_pos ⟨serving, up, inside, some_⟩)

theorem waitsFor_none {off n : Nat} {l : List Posted} (h : ∀ w ∈ l, overlaps false off n w = false) : waitsFor false off n l = [] := by
  have none : l.reverse.dropWhile (fun w => !overlaps false off n w) = [] :=
    List.dropWhile_eq_nil_iff.mpr fun w hw => by simp [h w (List.mem_reverse.mp hw)]
  rw [waitsFor, none, List.reverse_nil]

theorem mergeWrites_none {s : State} {off n : Nat} (h : ∀ w ∈ s.hi.posted, overlaps false off n w = false) :
    mergeWrites false off n s = s := by
  rw [mergeWrites, waitsFor_none h]
  rfl

/-- A read within a block that covers the low word of the epoch latches the rest. -/
theorem barRead_latched {s : State} {off n : Nat} (ok : readOk off n = true) (covered : covers off n 0x0108 0x010C = true) :
    barRead false off n s = readData (bar0Bytes (latchEpoch (mergeWrites false off n s)) off n) (latchEpoch (mergeWrites false off n s)) := by
  simp [barRead, ok, covered, readData]

theorem barRead_plain {s : State} {off n : Nat} (ok : readOk off n = true) (other : covers off n 0x0108 0x010C = false) :
    barRead false off n s = readData (bar0Bytes (mergeWrites false off n s) off n) (mergeWrites false off n s) := by
  simp [barRead, ok, other, readData]

theorem barRead_abort {s : State} {off n : Nat} (bad : readOk off n = false) :
    barRead false off n s = { s with hi := { s.hi with rdata := [], rpoison := false, rabort := true } } := by
  simp [barRead, bad]

/-- The latches of a read of the epoch (R46). -/
theorem latchEpoch_latches (s : State) :
    (latchEpoch s).tb.hiLatch.toNat = s.tb.epoch.toNat / 2 ^ 32 ∧ (latchEpoch s).tb.wrapLatch = s.tb.wraps := by
  have := s.tb.epoch.isLt
  refine ⟨?_, rfl⟩
  show (BitVec.ofNat 32 _).toNat = _
  rw [BitVec.toNat_ofNat]
  omega

/-- What a read of the epoch returns: the low word, or all 64 bits (R46, R47). -/
theorem bar0Bytes_epoch (s : State) (wide : Bool) : bar0Bytes (latchEpoch s) 0x0108 (if wide then 8 else 4) =
    leBytes (if wide then 8 else 4) s.tb.epoch.toNat := by
  cases wide
  case false => exact (bar0Bytes_low (by decide)).trans (memRead_readImage_lo _)
  case true =>
    have split := leBytes_add 4 4 s.tb.epoch.toNat
    have hi := memRead_readImage_hi (latchEpoch s)
    rw [(latchEpoch_latches s).1] at hi
    refine (bar0Bytes_low (by decide)).trans ((memRead_add 0 _ 0x0108 4 4).trans (Eq.trans ?_ split.symm))
    rw [memRead_readImage_lo, hi]
    rfl

/-- The write of `HI_ERRMASK` that a read waits for acts as its row does. -/
theorem applyPosted_errMask (v : Nat) (s : State) :
    applyPosted { bar4 := false, off := 0x24, bytes := (leBytes 4 v).map some } s = irqWrite 0x24 ((leBytes 4 v).map some) s := by
  have misses : ∀ base n, base + n ≤ 0x24 ∨ 0x28 ≤ base →
      hitsReg { bar4 := false, off := 0x24, bytes := (leBytes 4 v).map some } base n = false := fun base n apart =>
    wHits_outside (off := 0x24) (by simpa using apart)
  simp [applyPosted, plainWrite_errMask, misses, ringAct, blockAct, sineAt]

theorem leNat_lt (l : List Byte) : leNat l < 256 ^ l.length := by
  induction l with
  | nil => exact Nat.one_pos
  | cons b l ih =>
    have byte : b.toNat < 256 := b.isLt
    rw [leNat, List.length_cons, pow_succ']
    omega

/-- A read of `HI_ERRMASK` finds the buffered write of it applied (R377). -/
theorem mergeWrites_errMask {v : Nat} {s : State}
    (h : s.hi.posted = [{ bar4 := false, off := 0x24, bytes := (leBytes 4 v).map some }]) :
    mergeWrites false 0x24 4 s = irqWrite 0x24 ((leBytes 4 v).map some) { s with hi := { s.hi with posted := [] } } := by
  have waits : waitsFor false 0x24 4 s.hi.posted = s.hi.posted := by
    rw [h]
    rfl
  rw [mergeWrites, waits, h]
  simp only [List.foldl, applyPosted_errMask]
  rfl

end Sys2Proof.Machine

open Sys2Proof Sys2Proof.Machine

/-- Settles O1: a step by the queue, and the idle cycle by FAB's source. -/
theorem stepRunsFrontCommand : Obligations.stepRunsFrontCommand := by
  unfold Obligations.stepRunsFrontCommand
  refine ⟨⟨fun _ _ _ => rfl, fun s => step_none⟩, fun s idle => ⟨fun edge below => ?edge, fun off => ?off⟩⟩
  case edge =>
    rw [step_none idle, idleCycle_edge edge below]
    refine ⟨_, rfl, by rw [(passed_frame _).1, timeMoved_one edge], ?_, fun stamps hits shots => ?_⟩
    · exact ((setTb_keeps _ s).mono (by simp)).trans ((passed_keeps _).mono (by simp))
    · rw [passed_none (s := timeMoved 1 s) stamps hits shots]
      exact setTb_keeps _ s
  case off => rw [step_none idle, idleCycle_off off]

/-- Settles O5: the switch by the guards and `REFCLK`, the wrap, and what each read of BAR0 returns and latches. -/
theorem fabSourceAndEpoch : Obligations.fabSourceAndEpoch := by
  unfold Obligations.fabSourceAndEpoch
  refine ⟨⟨fun s => ?switch, fun s edge closed => ?wrap⟩, fun s wide serving up free => ?epoch, fun s serving up free => ?high,
    fun s off len serving up some_ inside across => ?across, fun s b serving up word posted => ?merged⟩
  case switch =>
    refine ⟨_, exec_fabSwitchComplete s, fabTarget_edge_iff s, fun off => ⟨?_, fabTarget_safe_iff off⟩, fun edge => ?_, rfl, rfl,
      setTb_keeps _ s⟩
    · show (s.tb.epochValid && (fabTarget s == .edge)) = false
      simpa using fun _ => off
    · show (s.tb.epochValid && (fabTarget s == .edge)) = _
      rw [show fabTarget s = .edge from edge]
      simp
  case wrap =>
    have below := s.tb.epoch.isLt
    generalize hn : (2 ^ 64 - s.tb.epoch.toNat + 8191) / 8192 = n
    have row := exec_epochWrap edge closed
    rw [hn] at row
    have tb : (passed (wrapNoted (timeMoved n s))).tb = (wrapNoted (timeMoved n s)).tb := (passed_frame _).1
    have moved : KeepsButLog [.tb] s (wrapNoted (timeMoved n s)) := by
      obtain ⟨keeps, mg, hi⟩ := wrapNoted_keepsButLog (timeMoved n s)
      exact ⟨((setTb_keeps _ s).mono (by simp)).trans keeps, mg, hi⟩
    obtain ⟨keeps, mg, hi⟩ := moved
    rw [row]
    refine ⟨_, rfl, ?_, ?_, ?_, ?_, ?_, fun stamps hits shots => ?_⟩
    · rw [tb, wrapNoted_tb]
    · rw [tb, wrapNoted_tb]
      show (BitVec.ofNat 64 _).toNat < 8192
      rw [BitVec.toNat_ofNat]
      omega
    · rw [tb, wrapNoted_tb]
      show (BitVec.ofNat 16 (satSucc 0xFFFF s.tb.wraps.toNat)).toNat = _
      rw [BitVec.toNat_ofNat, satSucc]
      omega
    · rw [tb, wrapNoted_tb]
      rfl
    · exact (keeps.mono (by simp)).trans ((passed_keeps _).mono (by simp))
    · have cs := (wrapNoted_frame (timeMoved n s)).1
      have ti : (wrapNoted (timeMoved n s)).ti = s.ti := by simp [wrapNoted, timeMoved]
      rw [passed_none (by rw [cs]; exact stamps) (by rw [cs]; exact hits) (by rw [ti]; exact shots)]
      exact ⟨keeps.mono (by simp), fun _ => mg (by simp), fun _ => hi (by simp)⟩
  case epoch =>
    have ok : readOk 0x108 (if wide then 8 else 4) = true := by cases wide <;> decide
    have covered : covers 0x108 (if wide then 8 else 4) 0x0108 0x010C = true := by cases wide <;> decide
    have below := s.tb.epoch.isLt
    refine ⟨_, exec_read serving up (by split <;> omega) (by split <;> omega), ?_⟩
    rw [barRead_latched ok covered, mergeWrites_none free, bar0Bytes_epoch]
    obtain ⟨hi, wraps⟩ := latchEpoch_latches s
    refine ⟨?_, ?_, hi, wraps, rfl, rfl, ?_⟩
    · show leNat (leBytes _ _) = _
      rw [leNat_leBytes]
      cases wide
      case false => rfl
      case true => exact Nat.mod_eq_of_lt below
    · exact leBytes_length _ _
    · exact ((setTb_keeps _ s).mono (by simp)).trans ((setHi_keeps _ _).mono (by simp))
  case high =>
    refine ⟨_, exec_read serving up (by decide) (by decide), ?_⟩
    rw [barRead_plain (by decide) (by decide), mergeWrites_none free, bar0Bytes_low (by decide), memRead_readImage_hi]
    exact ⟨leNat_leBytes_lt s.tb.hiLatch.isLt, setHi_keeps _ s⟩
  case across =>
    rw [exec_read serving up inside (by omega), barRead_abort (by simp [readOk, across])]
  case merged =>
    have small : leNat b < 2 ^ 32 := by simpa [word] using leNat_lt b
    have bytes : leBytes 4 (leNat b) = b := by rw [← word, leBytes_leNat]
    rw [← bytes] at posted
    generalize hu : irqWrite 0x24 ((leBytes 4 (leNat b)).map some) { s with hi := { s.hi with posted := [] } } = u
    have empty : u.hi.posted = [] := by rw [← hu]; rfl
    have mask : u.hi.mask.toNat = leNat b / 2 * 2 := by rw [← hu]; exact maskAfter_whole s.hi.mask small
    have read : leNat (bar0Bytes u 0x24 4) = u.hi.mask.toNat := by
      rw [bar0Bytes_low (by decide), memRead_readImage (by decide)]
      exact leNat_memRead_regImage (r := (0x24, 4, u.hi.mask.toNat)) (by simp [regs, regsHi]) u.hi.mask.isLt
    refine ⟨_, exec_read serving up (by decide) (by decide), ?_⟩
    rw [barRead_plain (by decide) (by decide), mergeWrites_errMask posted, hu]
    exact ⟨empty, mask, read⟩
end

section
/-! SUPPORT. The outputs and inputs of event lines (R53, R207, R331), and the statement on them. -/

namespace Sys2Proof.Machine

open Sys2Proof

/-- A change of the sequencer is one of the sequencer only. -/
theorem setSq_keeps (q : SQ) (s : State) : Keeps [.sq] s { s with sq := q } := by
  intro p hp
  cases p <;> simp [samePart] at hp ⊢

/-! ### Event outputs (R207) -/

theorem firstAct_singleton {p : Act → Bool} {a : Act} (h : p a = true) : firstAct p [a] = some a := by simp [firstAct, h]

/-- The only waiting carrier stays, if it does, without the part taken out. -/
theorem of_mem_takeAct_singleton {a x : Act} {s : State} {f : Reqs → Reqs} (only : s.sq.acts = [a]) (hx : x ∈ (takeAct a f s).sq.acts) :
    x = { a with reqs := f a.reqs } := by
  simp only [takeAct, only, List.map, if_true, List.mem_filter, List.mem_singleton] at hx
  exact hx.1

theorem takeAct_lines (a : Act) (f : Reqs → Reqs) (s : State) :
    (takeAct a f s).sq.evtOut = s.sq.evtOut ∧ (takeAct a f s).sq.pulse = s.sq.pulse := ⟨rfl, rfl⟩

theorem takeAct_keeps (a : Act) (f : Reqs → Reqs) (s : State) : Keeps [.sq] s (takeAct a f s) := setSq_keeps _ s

theorem driveEvt_keeps (s : State) (x : Fin 4 × Nat × Nat) : Keeps [.sq] s (driveEvt s x) := setSq_keeps _ s

/-- The level to which an action takes a line: low, high, pulse, toggle. -/
def evtLevel (action : Nat) (level : Bool) : Bool := if action = 0 then false else if action = 3 then !level else true

/-- An action on a line with no pulse running. -/
theorem driveEvt_idle {s : State} {line : Fin 4} (action width : Nat) (idle : s.sq.pulse[line] = none) :
    (driveEvt s (line, action, width)).sq.acts = s.sq.acts
      ∧ (driveEvt s (line, action, width)).sq.evtOut = vset s.sq.evtOut line (evtLevel action s.sq.evtOut[line])
      ∧ (driveEvt s (line, action, width)).sq.pulse =
        vset s.sq.pulse line (if action = 2 then some (s.tb.now + 8192 * width, s.sq.evtOut[line]) else none) := by
  refine ⟨rfl, rfl, ?_⟩
  simp only [driveEvt, idle, Option.map_none, Option.getD_none]

/-- The only waiting carrier acts. -/
theorem exec_evtOutputAct {s : State} {a : Act} (only : s.sq.acts = [a]) (asks : a.reqs.evt ≠ []) :
    exec .evtOutputAct s = .next (a.reqs.evt.foldl driveEvt (takeAct a (fun r => { r with evt := [] }) (toEpoch a.due s))) := by
  have first : firstAct (fun a => !a.reqs.evt.isEmpty) s.sq.acts = some a := by
    rw [only]
    exact firstAct_singleton (by simpa using asks)
  show execEvtOutputAct s = _
  rw [execEvtOutputAct, first]

theorem exec_evtPulseEnd {s : State} {line : Fin 4} {at_ : Nat} {level : Bool} (runs : s.sq.pulse[line] = some (at_, level)) :
    exec (.evtPulseEnd line) s = .next { toTime at_ s with sq := { (toTime at_ s).sq with
      pulse := vset (toTime at_ s).sq.pulse line none
      evtOut := vset (toTime at_ s).sq.evtOut line level } } := by
  show execEvtPulseEnd line s = _
  rw [execEvtPulseEnd, runs]

/-! ### Event inputs (R53, R300, R331) -/

/-- An event that no source word of a TIU selects does not reach it. -/
theorem tiuEvent_unselected {sel : W32 → Bool} {s : State} {g : Glove} (t : Int) (start : sel s.ti.units[g].start = false)
    (stop : tiuStopSel s.ti.units[g] sel = false) : tiuEvent sel t s g = s :=
  if_neg (by simp only [start, stop, Bool.or_self, Bool.false_eq_true, not_false_eq_true])

theorem tiuFeed_unselected {sel : W32 → Bool} {s : State} (t : Int)
    (h : ∀ g : Glove, sel s.ti.units[g].start = false ∧ tiuStopSel s.ti.units[g] sel = false) : tiuFeed sel t s = s := by
  rw [tiuFeed]
  induction List.finRange 64 with
  | nil => rfl
  | cons g l ih =>
    obtain ⟨start, stop⟩ := h g
    rw [List.foldl_cons, tiuEvent_unselected t start stop, ih]

theorem exec_evtInEdge (line : Fin 4) (rise : Bool) (s : State) : exec (.evtInEdge line rise) s = .next
    (if s.ti.evtIn[line] = rise then s
      else if rise then evtRise line { s with ti := { s.ti with evtIn := vset s.ti.evtIn line rise } }
      else { s with ti := { s.ti with evtIn := vset s.ti.evtIn line rise } }) := rfl

/-- A rising edge of a line that no TIU selects: the record for the run, and the jump requests. -/
def evtNoted (line : Fin 4) (s : State) : State :=
  { s with
    ti := { s.ti with evtEpochs := if running s then s.ti.evtEpochs ++ [(line, (recorded s).toNat, ext s)] else s.ti.evtEpochs }
    mx := { s.mx with reqs := s.mx.reqs ++ (evtChans s line).map fun i => (i, true, (ext s : Int)) } }

theorem evtNoted_keeps (line : Fin 4) (s : State) : Keeps [.ti, .mx] s (evtNoted line s) := by
  intro p hp
  cases p <;> simp [samePart, evtNoted] at hp ⊢

theorem setTi_keeps (x : TI) (s : State) : Keeps [.ti] s { s with ti := x } := by
  intro p hp
  cases p <;> simp [samePart] at hp ⊢

theorem evtRise_unselected {line : Fin 4} {s : State}
    (h : ∀ g : Glove, selEvt line s.ti.units[g].start = false ∧ tiuStopSel s.ti.units[g] (selEvt line) = false) :
    evtRise line s = evtNoted line s := tiuFeed_unselected (s := evtNoted line s) _ h

end Sys2Proof.Machine

open Sys2Proof Sys2Proof.Machine

/-- Settles O15: the action of the one waiting request, the end of a pulse, and the two edges of an input. -/
theorem eventLines : Obligations.eventLines := by
  unfold Obligations.eventLines
  refine ⟨⟨fun s a line action width only asks idle => ?act, fun s line at_ level runs => ?pulse⟩, fun s line => ⟨fun low free => ?rise,
    fun high => ?fall, ?same⟩⟩
  case act =>
    generalize hu : toEpoch a.due s = u
    have sq : u.sq = s.sq := by simp [← hu]
    generalize hv : takeAct a (fun r => { r with evt := [] }) u = v
    obtain ⟨out, pulse⟩ : v.sq.evtOut = s.sq.evtOut ∧ v.sq.pulse = s.sq.pulse := by rw [← hv, ← sq]; exact takeAct_lines ..
    have now : v.tb = u.tb := by simp [← hv]
    have taken : ∀ x ∈ v.sq.acts, x.reqs.evt = [] := fun x hx => by
      subst hv
      rw [of_mem_takeAct_singleton (by rw [sq, only]) hx]
    have row := exec_evtOutputAct only (by simp [asks])
    rw [hu, hv, asks] at row
    obtain ⟨acts', out', pulse'⟩ := driveEvt_idle action width (s := v) (by rw [pulse, idle])
    rw [out] at out' pulse'
    refine ⟨_, row, ?_, ?_⟩
    · exact hv ▸ (takeAct_keeps _ _ u).trans (driveEvt_keeps _ _)
    · rw [List.foldl_cons, List.foldl_nil, acts', out', pulse', now]
      refine ⟨fun h => (vset_self ..).trans ?_, fun h => (vset_self ..).trans ?_, fun h => (vset_self ..).trans ?_, vset_self ..,
        taken, fun l hl => vset_other _ _ hl.symm⟩
      · simp [h, evtLevel]
      · obtain rfl | rfl := h <;> simp [evtLevel]
      · simp [h, evtLevel]
  case pulse =>
    exact ⟨_, exec_evtPulseEnd runs, vset_self .., vset_self .., setSq_keeps _ _⟩
  case rise =>
    refine ⟨_, (exec_evtInEdge line true s).trans (congrArg _ ((if_neg (by simp [low])).trans ((if_pos rfl).trans
      (evtRise_unselected free)))), vset_self .., rfl, rfl, rfl, ?_⟩
    exact ((setTi_keeps _ s).mono (by simp)).trans (evtNoted_keeps _ _)
  case fall =>
    rw [exec_evtInEdge, if_neg (by simp [high]), if_neg Bool.false_ne_true]
  case same => rw [exec_evtInEdge, if_pos rfl]
end

section
/-! SUPPORT. What `ARM` does to device DRAM, and the state that refutes the statement on `ARM`: with the stream open and its front full, the
frames that the epoch clear closes push the oldest frame of the front to the staging region, which lies in device DRAM (R284, R289). -/

namespace Sys2Proof.Machine

open Sys2Proof

/-- An `ARM` that nothing blocks on a standalone device takes effect (R42). -/
theorem armWrite_effect {s : State} (alone : s.en.state = .standalone) (idle : s.sq.state = .idle) (waits : s.en.armWait = false)
    (free : s.mg.contained = false) (pass : armFailures s = []) (held : armHeldOff s = false) :
    armWrite s = armEffect false s := by
  have unblocked : armBlocked s = none := by simp [armBlocked, alone, running, idle, waits, free]
  simp [armWrite, unblocked, pass, held, armPassed, formed, alone]

/-- Of device DRAM, the epoch clear changes what the frames that close with the epoch take to the staging region (R284, R289). -/
theorem clearEpoch_dram (ensemble : Bool) (s : State) : (clearEpoch ensemble s).pm.dram = (closeEpoch (flushAll s)).pm.dram := by
  have event (code : Nat) (items : List Item) (u : State) : (issue code items u).pm.dram = u.pm.dram := by simp
  have mark (n : Nat) (u : State) : (clearMark n u).pm = u.pm := by rw [clearMark, epochMark]; split <;> rfl
  rw [clearEpoch, event]
  generalize (s.hi.armSeq + 1) % 2 ^ 32 = n
  dsimp only [shiftTimes]
  rw [mark]

theorem armEffect_dram (ensemble : Bool) (s : State) : (armEffect ensemble s).pm.dram = (closeEpoch (flushAll s)).pm.dram := by
  rw [← clearEpoch_dram ensemble s, armEffect]

theorem exec_arm {s : State} (written : cmdWritten 1 s = true) : exec .arm s = .next (armWrite (runCtlWrite s)) :=
  congrArg Host.Outcome.next (if_pos written)

/-- A pin table with timing set 0 valid and coherent, and pin P000 used without a site at the shortest latency (R140). -/
def armTable : Mem := [(0, 1), (0x401, 0x40), (0x402, 0x01), (0x406, 0x02), (0x4C04, 0x20), (0x4C05, 0x0A),
  (0x4C60, 1), (0x4C64, 0x80), (0x4C72, 0x19)]

/-- A frame of the stream with a sequence number (R281). -/
def plainFrame (fseq : Nat) : Frame := { pset := 0, fseq := fseq, first := 0, wrap := 0, armseq := 0 }

/-- A device that passes every arm check, with an open frame of the open stream, a full front, a full ring and free staging. -/
def armStaging : State := {
  tb := { fabSrc := .edge, refclkOk := true, guardOpen := .replicate 4 true, pll := .replicate 4 .running, lockDet := .replicate 4 true }
  mg := { pstate := 1 }, bt := { inReset := false, fwReady := true }
  pt := { bound := true, base := 0x100000, room := armTable, shadow := armTable, shadowOk := true }
  pf := { parked := false, bankPark := .replicate 8 false, vio := .replicate 8 0x8000, bankMv := .replicate 8 900, parkN := true }
  sq := { loaded := true }
  pm := { regions := (Vector.replicate 16 ({} : Region)).set 0 { base := 0x10000000, size := 1, typ := 4 } }
  cs := { open_ := true, prod := 2 ^ 48, frames := (Vector.replicate 16 none).set 0 (some (plainFrame 0)), fseq := 1025
          front := List.replicate 1024 (plainFrame 1) }
  hi := { posted := [{ bar4 := false, off := 0x0010, bytes := (leBytes 4 1).map some }] } }

theorem armStaging_passes : armFailures (runCtlWrite armStaging) = [] := by decide +kernel

/-- Its `ARM` closes the open frame, so the oldest of the full front goes to the staging region. -/
theorem armStaging_stages : memGet 0 (closeEpoch (flushAll (runCtlWrite armStaging))).pm.dram 0x10000000 = 1 := by decide +kernel

end Sys2Proof.Machine

open Sys2Proof Sys2Proof.Machine

/-- Refutes O9: `ARM` on `armStaging` is taken, and writes the oldest frame of the front to the staging region at 0x10000000. -/
theorem not_armClearsTheRun : ¬ Obligations.armClearsTheRun := by
  unfold Obligations.armClearsTheRun
  intro h
  have written : cmdWritten 1 armStaging = true := by decide
  obtain ⟨arms, -, -⟩ := h armStaging rfl rfl rfl rfl written
  obtain ⟨t, row, -, -, -, -, -, -, -, -, -, -, -, -, -, -, -, -, -, -, -, kept, -, -⟩ := arms armStaging_passes rfl rfl
  rw [exec_arm written, armWrite_effect rfl rfl rfl rfl armStaging_passes rfl, Host.Outcome.next.injEq] at row
  have staged : memGet 0 t.pm.dram 0x10000000 = 1 := by rw [← row, armEffect_dram, armStaging_stages]
  rw [kept] at staged
  exact absurd staged (by decide)
end

section
/-! SUPPORT. The lock guards: what closing one changes (R36, R37, R309, R436), the loss of lock outside and during a run (R37, R411), the loss and the
recovery of `REFCLK` (R33, R34), and the statements on them. -/

namespace Sys2Proof.Machine

open Sys2Proof

/-! ### A guard closes (R37, R436) -/

/-- What the closing of a guard changes outside a run. -/
abbrev guardParts : List Part := [.tb, .tg, .pins, .cs, .ti, .hi, .mg]

theorem shutGuard_tb (q : Quad) (s : State) : (shutGuard q s).tb = { s.tb with guardOpen := vset s.tb.guardOpen q false } := by
  simp [shutGuard]

theorem shutGuard_cs (q : Quad) (s : State) : (shutGuard q s).cs = { s.cs with
    raws := s.cs.raws.filter fun r => quadOf r.1 != q, pendX := s.cs.pendX.filter fun x => quadOf x.pin != q } := by
  simp [shutGuard]

theorem shutGuard_pins (q : Quad) (s : State) :
    (shutGuard q s).pins = vmapIdx (fun p x => if quadOf p = q then noWin x else x) s.pins := by
  simp [shutGuard]

theorem shutGuard_keeps (q : Quad) (s : State) : Keeps guardParts s (shutGuard q s) := by
  intro p hp
  cases p <;> simp [samePart] at hp ⊢

/-- During a run a guard's closing is not the end of its TIUs' shots: the containment is. -/
theorem shutGuard_mg {q : Quad} {s : State} (run : running s = true) : (shutGuard q s).mg = s.mg := by
  simp [shutGuard, run]

/-! ### A loss of lock (R37, R20) -/

/-- The guard is open, or its quadrant aligns: there is a lock to lose. -/
def hasLock (q : Quad) (s : State) : Bool := s.tb.guardOpen[q] || s.tb.pll[q] == .aligning

/-- The state that a loss of lock reaches before its event. -/
def lockGone (q : Quad) (cause : Nat) (s : State) : State :=
  { shutGuard q s with tb := { (shutGuard q s).tb with
      lockLost := vset (shutGuard q s).tb.lockLost q true
      fresh := freshen (shutGuard q s) (1#32 <<< (16 + q.val)) (shutGuard q s).tb.fresh
      barred := if raising s ∨ cause = 2 then (shutGuard q s).tb.barred else vset (shutGuard q s).tb.barred q true
      pll := vset (shutGuard q s).tb.pll q (if raising s then .acquiring else .off) } }

theorem loseLock_none {q : Quad} {s : State} (cause : Nat) (h : hasLock q s = false) : loseLock q cause s = s :=
  if_neg (by simpa [hasLock] using h)

theorem loseLock_idle {q : Quad} {s : State} (cause : Nat) (h : hasLock q s = true) (idle : running s = false) :
    loseLock q cause s = issue 0x0104 [i1 q.val, i1 cause, i1 (b2n (running s))] (lockGone q cause s) :=
  (if_pos h).trans (if_neg (by simp [idle]))

theorem loseLock_run {q : Quad} {s : State} (cause : Nat) (h : hasLock q s = true) (run : running s = true) :
    loseLock q cause s = contain 0x01 (issue 0x0104 [i1 q.val, i1 cause, i1 (b2n (running s))] (lockGone q cause s)) :=
  (if_pos h).trans (if_pos run)

/-- The time base after a loss of lock, whether or not it contains the device. -/
theorem loseLock_tb {q : Quad} {s : State} (cause : Nat) (h : hasLock q s = true) :
    (loseLock q cause s).tb = (lockGone q cause s).tb := by
  cases run : running s
  · rw [loseLock_idle cause h run, (issue_frame _ _ _).1]
  · rw [loseLock_run cause h run, (contain_frame _ _).1, (issue_frame _ _ _).1]

theorem lockGone_guardOpen (q : Quad) (cause : Nat) (s : State) :
    (lockGone q cause s).tb.guardOpen = vset s.tb.guardOpen q false :=
  congrArg TB.guardOpen (shutGuard_tb q s)

theorem lockGone_lockLost (q : Quad) (cause : Nat) (s : State) : (lockGone q cause s).tb.lockLost = vset s.tb.lockLost q true := by
  show vset (shutGuard q s).tb.lockLost q true = _
  rw [shutGuard_tb]

/-- What `REFCLK`'s monitors and the lock windows have measured is no matter of a lock. -/
def measured (b : TB) : Bool × Bool × Bool × Nat × Vector Nat 4 × Vector Bool 4 :=
  (b.refclkOk, b.refclkLost, b.refMiss, b.refCount, b.qCount, b.lockDet)

theorem lockGone_measured (q : Quad) (cause : Nat) (s : State) : measured (lockGone q cause s).tb = measured s.tb := by
  show measured (shutGuard q s).tb = _
  rw [shutGuard_tb, measured, measured]

/-- The guard of a quadrant that loses its lock is closed, the others are as before. -/
theorem loseLock_guardOpen (q r : Quad) (cause : Nat) (s : State) :
    (loseLock q cause s).tb.guardOpen[r] = if r = q then false else s.tb.guardOpen[r] := by
  cases h : hasLock q s
  case false =>
    obtain ⟨shut, -⟩ : s.tb.guardOpen[q] = false ∧ (s.tb.pll[q] == .aligning) = false := by simpa only [hasLock, Bool.or_eq_false_iff] using h
    rw [loseLock_none cause h]
    split
    · rename_i same
      rw [same, shut]
    · rfl
  case true =>
    rw [loseLock_tb cause h, lockGone_guardOpen]
    split
    · rename_i same
      rw [same, vset_self]
    · rename_i other
      exact vset_other _ _ (Ne.symm other)

theorem loseLock_measured (q : Quad) (cause : Nat) (s : State) : measured (loseLock q cause s).tb = measured s.tb := by
  cases h : hasLock q s
  · rw [loseLock_none cause h]
  · rw [loseLock_tb cause h, lockGone_measured]

theorem lockGone_keeps (q : Quad) (cause : Nat) (s : State) : Keeps guardParts s (lockGone q cause s) :=
  (shutGuard_keeps q s).trans ((setTb_keeps _ _).mono (by simp))

/-- Outside a run a loss of lock reaches the time base, what the quadrant has pending, and the log. -/
theorem loseLock_keeps {q : Quad} {s : State} (cause : Nat) (idle : running s = false) : Keeps guardParts s (loseLock q cause s) := by
  cases h : hasLock q s
  · rw [loseLock_none cause h]
    exact Keeps.refl _ s
  · rw [loseLock_idle cause h idle]
    exact (lockGone_keeps q cause s).trans ((issue_keeps _ _ _).mono (by simp))

/-- The run state is a matter of the sequencer. -/
theorem running_of_keeps {s t : State} (h : Keeps guardParts s t) : running t = running s := by
  have sq : t.sq = s.sq := h .sq (by decide)
  rw [running, sq, running]

/-! ### A loss of lock in a run contains the device (R37, R411) -/

/-- What is no part of the event log is the same where only the log has changed. -/
theorem eq_of_sameMg {α : Type} {f : MG → α} (outside : ∀ a b, f (withLog a b) = f b) {s t : State} (h : SameMg s t) : f t.mg = f s.mg :=
  (outside s.mg t.mg).symm.trans (congrArg f h)

theorem issue_containWord (code : Nat) (items : List Item) (s : State) : (issue code items s).mg.contain = s.mg.contain :=
  eq_of_sameMg (f := MG.contain) (fun _ _ => rfl) (issue_sameMg code items s)

theorem recordDiscord_containWord (cause member port detail : Nat) (s : State) :
    (recordDiscord cause member port detail s).mg.contain = s.mg.contain := by
  have kept : ∀ en : EN, ({ s with en := en } : State).mg.contain = s.mg.contain := fun _ => rfl
  exact (issue_containWord _ _ _).trans (kept _)

theorem enterContain_containWord (cause : Nat) (s : State) :
    (enterContain cause s).mg.contain = BitVec.ofNat 64 (2 ^ 63 + cause * 2 ^ 56 + s.tb.epoch.toNat % 2 ^ 48) := by
  simp only [enterContain, issue_containWord, errIrq_mg]

/-- The word of an entry to containment: bit 63, and the cause. -/
theorem containWord_cause {cause : Nat} (small : cause < 128) (e : Nat) :
    (BitVec.ofNat 64 (2 ^ 63 + cause * 2 ^ 56 + e % 2 ^ 48)).toNat / 2 ^ 56 = 0x80 + cause := by
  rw [BitVec.toNat_ofNat]
  omega

/-- The first cause of containment stands in `MG_CONTAIN` (R412). -/
theorem contain_cause {cause : Nat} {s : State} (small : cause < 128) (free : s.mg.contained = false) :
    (contain cause s).mg.contain.toNat / 2 ^ 56 = 0x80 + cause := by
  have entered : (enterContain cause s).mg.contain.toNat / 2 ^ 56 = 0x80 + cause := by
    rw [enterContain_containWord, containWord_cause small]
  have mg : ∀ a b c t, (sendDiscord a b c t).mg = t.mg := fun a b c t => by simp
  rw [contain, if_neg (by simp [free])]
  dsimp only
  split
  · rw [mg, recordDiscord_containWord, entered]
  · exact entered

/-- A loss of lock in a run contains the device, with cause 1 where it is the first. -/
theorem loseLock_contains {q : Quad} {s : State} (cause : Nat) (h : hasLock q s = true) (run : running s = true) :
    (loseLock q cause s).mg.contained = true
      ∧ (s.mg.contained = false → (loseLock q cause s).mg.contain.toNat / 2 ^ 56 = 0x80 + 0x01) := by
  rw [loseLock_run cause h run]
  refine ⟨contain_contained _ _, fun free => contain_cause (by decide) ?_⟩
  rw [issue_contained, show (lockGone q cause s).mg = (shutGuard q s).mg from rfl, shutGuard_mg run, free]

/-! ### The loss of `REFCLK` (R33, R37) -/

theorem loseLocks_guardOpen (l : List Quad) (r : Quad) (cause : Nat) (s : State) :
    (l.foldl (fun t q => loseLock q cause t) s).tb.guardOpen[r] = if r ∈ l then false else s.tb.guardOpen[r] := by
  induction l generalizing s with
  | nil => rfl
  | cons q l ih =>
    rw [List.foldl_cons, ih, loseLock_guardOpen]
    by_cases first : r = q <;> by_cases later : r ∈ l <;> simp [first, later]

theorem loseLocks_measured (l : List Quad) (cause : Nat) (s : State) :
    measured (l.foldl (fun t q => loseLock q cause t) s).tb = measured s.tb :=
  foldl_keeps (fun s => measured s.tb) (fun t q => loseLock_measured q cause t) l s

theorem loseLocks_keeps (l : List Quad) (cause : Nat) {s : State} (idle : running s = false) :
    Keeps guardParts s (l.foldl (fun t q => loseLock q cause t) s) := by
  induction l generalizing s with
  | nil => exact Keeps.refl _ s
  | cons q l ih =>
    have first := loseLock_keeps (q := q) cause idle
    exact first.trans (ih ((running_of_keeps first).trans idle))

/-- The state in which `REFCLK` is declared lost, before the guards close. -/
def refclkGone (cause : Nat) (s : State) : State :=
  issue 0x0101 [i1 cause, i4 s.tb.refCount]
    { s with tb := { s.tb with refclkOk := false, refclkLost := true, goodWins := 0, fresh := freshen s 8 s.tb.fresh } }

theorem refclkGone_keeps (cause : Nat) (s : State) : Keeps guardParts s (refclkGone cause s) :=
  ((setTb_keeps _ s).mono (by simp)).trans ((issue_keeps _ _ _).mono (by simp))

theorem loseRefclk_good {s : State} (cause : Nat) (ok : s.tb.refclkOk = true) :
    loseRefclk cause s = (List.finRange 4).foldl (fun t q => loseLock q 2 t) (refclkGone cause s) := if_pos ok

theorem loseRefclk_lost {s : State} (cause : Nat) (lost : s.tb.refclkOk = false) : loseRefclk cause s = s := if_neg (by simp [lost])

/-- `REFCLK` declared lost: the flags, the measurements as they were, and every guard closed (R33, R37). -/
theorem loseRefclk_declares {s : State} (cause : Nat) (ok : s.tb.refclkOk = true) :
    measured (loseRefclk cause s).tb = (false, true, s.tb.refMiss, s.tb.refCount, s.tb.qCount, s.tb.lockDet)
      ∧ (∀ q : Quad, (loseRefclk cause s).tb.guardOpen[q] = false)
      ∧ (running s = false → Keeps guardParts s (loseRefclk cause s)) := by
  rw [loseRefclk_good cause ok]
  refine ⟨?_, fun q => ?_, fun idle => ?_⟩
  · rw [loseLocks_measured, refclkGone, (issue_frame _ _ _).1]
    rfl
  · rw [loseLocks_guardOpen, if_pos (List.mem_finRange q)]
  · have gone := refclkGone_keeps cause s
    exact gone.trans (loseLocks_keeps _ 2 ((running_of_keeps gone).trans idle))

/-! ### The recovery of `REFCLK` (R34, R39) -/

theorem startPll_barred (s : State) (q : Quad) : (startPll s q).tb.barred = s.tb.barred := by
  unfold startPll
  split <;> rfl

/-- A stopped PLL whose guard closed for no reason of its own starts to acquire (R39). -/
def started (phase : PllPhase) (barred : Bool) : PllPhase := if phase = .off ∧ barred = false then .acquiring else phase

theorem started_started (phase : PllPhase) (barred : Bool) : started (started phase barred) barred = started phase barred := by
  cases phase <;> cases barred <;> rfl

theorem startPll_pll (s : State) (q r : Quad) :
    (startPll s q).tb.pll[r] = if r = q then started s.tb.pll[r] s.tb.barred[r] else s.tb.pll[r] := by
  by_cases same : r = q
  · subst same
    rw [if_pos rfl, started, startPll]
    simp only [Bool.not_eq_true]
    split
    · exact vset_self ..
    · rfl
  · rw [if_neg same, startPll]
    split
    · exact vset_other _ _ (Ne.symm same)
    · rfl

theorem startPll_list (l : List Quad) (r : Quad) (s : State) :
    (l.foldl startPll s).tb.pll[r] = if r ∈ l then started s.tb.pll[r] s.tb.barred[r] else s.tb.pll[r] := by
  induction l generalizing s with
  | nil => rfl
  | cons q l ih =>
    rw [List.foldl_cons, ih, startPll_barred, startPll_pll]
    by_cases first : r = q
    · simp only [first, List.mem_cons_self, if_true, started_started, ite_self]
    · simp only [first, List.mem_cons, false_or, if_false]

/-- Every stopped PLL starts, but those whose guard closed for a reason of its own (R39). -/
theorem startPlls_pll (s : State) (q : Quad) : (startPlls s).tb.pll[q] = started s.tb.pll[q] s.tb.barred[q] := by
  rw [startPlls, startPll_list, if_pos (List.mem_finRange q)]

theorem startPll_measured (s : State) (q : Quad) : measured (startPll s q).tb = measured s.tb ∧ (startPll s q).tb.goodWins = s.tb.goodWins := by
  unfold startPll
  split <;> exact ⟨rfl, rfl⟩

theorem startPll_keeps (s : State) (q : Quad) : Keeps [.tb] s (startPll s q) := by
  unfold startPll
  split
  · exact setTb_keeps _ s
  · exact Keeps.refl _ s

theorem startPlls_measured (s : State) : measured (startPlls s).tb = measured s.tb ∧ (startPlls s).tb.goodWins = s.tb.goodWins := by
  rw [startPlls, foldl_keeps (fun s => measured s.tb) (fun t q => (startPll_measured t q).1),
    foldl_keeps (fun s => s.tb.goodWins) (fun t q => (startPll_measured t q).2)]
  exact ⟨rfl, rfl⟩

theorem startPlls_keeps (s : State) : Keeps [.tb] s (startPlls s) := by
  have list : ∀ (l : List Quad) (t : State), Keeps [.tb] t (l.foldl startPll t) := fun l => by
    induction l with
    | nil => exact Keeps.refl _
    | cons q l ih => exact fun t => (startPll_keeps t q).trans (ih _)
  exact (setTb_keeps _ s).trans (list _ _)

/-- The state in which `REFCLK` is declared recovered, before the PLLs start. -/
def refclkBack (s : State) : State :=
  issue 0x0102 [i4 s.tb.refCount] { s with tb := { s.tb with refclkOk := true, goodWins := 0 } }

theorem refclkBack_tb (s : State) : (refclkBack s).tb = { s.tb with refclkOk := true, goodWins := 0 } := (issue_frame _ _ _).1

theorem refclkBack_keeps (s : State) : Keeps [.tb, .hi, .mg] s (refclkBack s) :=
  ((setTb_keeps _ s).mono (by simp)).trans ((issue_keeps _ _ _).mono (by simp))

theorem refclkBack_power (s : State) : (refclkBack s).mg.pstate = s.mg.pstate ∧ (refclkBack s).mg.fastStop = s.mg.fastStop :=
  ⟨eq_of_sameMg (f := MG.pstate) (fun _ _ => rfl) (issue_sameMg _ _ _),
    eq_of_sameMg (f := MG.fastStop) (fun _ _ => rfl) (issue_sameMg _ _ _)⟩

theorem recoverRefclk_eq (s : State) : recoverRefclk s =
    if s.mg.pstate ≤ 1 ∧ ¬ s.mg.fastStop then startPlls (refclkBack s) else refclkBack s := by
  obtain ⟨power, stop⟩ := refclkBack_power s
  rw [← power, ← stop]
  rfl

/-- `REFCLK` declared recovered: the flag, and in P1 or P0 the stopped PLLs start, but not after a fast-clock stop (R34, R39, R414). -/
theorem recoverRefclk_declares (s : State) :
    measured (recoverRefclk s).tb = (true, s.tb.refclkLost, s.tb.refMiss, s.tb.refCount, s.tb.qCount, s.tb.lockDet)
      ∧ (recoverRefclk s).tb.goodWins = 0 ∧ Keeps [.tb, .hi, .mg] s (recoverRefclk s)
      ∧ (s.mg.pstate ≤ 1 → s.mg.fastStop = false → ∀ q : Quad, (recoverRefclk s).tb.pll[q] = started s.tb.pll[q] s.tb.barred[q]) := by
  have back : measured (refclkBack s).tb = (true, s.tb.refclkLost, s.tb.refMiss, s.tb.refCount, s.tb.qCount, s.tb.lockDet)
      ∧ (refclkBack s).tb.goodWins = 0 := by rw [refclkBack_tb]; exact ⟨rfl, rfl⟩
  obtain ⟨flags, wins⟩ := back
  rw [recoverRefclk_eq]
  split
  · obtain ⟨flags', wins'⟩ := startPlls_measured (refclkBack s)
    refine ⟨flags'.trans flags, wins'.trans wins, (refclkBack_keeps s).trans ((startPlls_keeps _).mono (by simp)), fun _ _ q => ?_⟩
    rw [startPlls_pll, refclkBack_tb]
  · rename_i not
    exact ⟨flags, wins, refclkBack_keeps s, fun low free => absurd ⟨low, by simp [free]⟩ not⟩

/-! ### The monitor's windows (R33, R34, R468) -/

/-- A window recorded. -/
def windowNoted (count good : Nat) (s : State) : State :=
  { s with tb := { s.tb with refCount := count, wins := s.tb.wins + 1, refMiss := false, goodWins := good } }

theorem refInRange_iff (count : Nat) : refInRange count = true ↔ 1561719 ≤ count ∧ count ≤ 1563281 := by simp [refInRange]

theorem judgeWindow_bad {count : Nat} {s : State} (ok : s.tb.refclkOk = true) (bad : refInRange count = false) :
    judgeWindow count s = loseRefclk 1 (windowNoted count 0 s) := by
  simp [judgeWindow, ok, bad, windowNoted]

theorem judgeWindow_good {count : Nat} {s : State} (ok : s.tb.refclkOk = true) (good : refInRange count = true) :
    judgeWindow count s = windowNoted count 0 s := by
  simp [judgeWindow, ok, good, windowNoted]

/-- A good window while `REFCLK` is lost: the second in a row declares recovery. -/
theorem judgeWindow_lost {count : Nat} {s : State} (lost : s.tb.refclkOk = false) (good : refInRange count = true)
    (whole : s.tb.refMiss = false) : judgeWindow count s =
      if s.tb.goodWins + 1 = 2 then recoverRefclk (windowNoted count (s.tb.goodWins + 1) s) else windowNoted count (s.tb.goodWins + 1) s := by
  simp [judgeWindow, lost, good, whole, windowNoted]

theorem exec_refclkMissingEdge (s : State) : exec .refclkMissingEdge s =
    .next (loseRefclk 0 { s with tb := { s.tb with refMiss := true, goodWins := 0 } }) := rfl

theorem exec_refclkMonitorWindowEnd (count : Nat) (s : State) : exec (.refclkMonitorWindowEnd count) s =
    .next (judgeWindow count (toTime ((s.tb.wins + 1) * 128000000000) s)) := rfl

end Sys2Proof.Machine

open Sys2Proof Sys2Proof.Machine

/-- Settles O3: the two losses, a missing edge while lost, and the windows in range by the windows counted before. -/
theorem refclkMonitored : Obligations.refclkMonitored := by
  unfold Obligations.refclkMonitored
  refine ⟨⟨fun s ok => ?edge, fun s lost => ?lost, fun s count => ?count⟩, fun s count low high => ?range⟩
  case edge =>
    obtain ⟨flags, shut, kept⟩ := loseRefclk_declares (s := { s with tb := { s.tb with refMiss := true, goodWins := 0 } }) 0 ok
    simp only [measured, Prod.mk.injEq] at flags
    obtain ⟨isLost, said, miss, -⟩ := flags
    exact ⟨_, exec_refclkMissingEdge s, isLost, said, miss, shut, fun idle => ((setTb_keeps _ s).mono (by simp)).trans (kept idle)⟩
  case lost => exact (exec_refclkMissingEdge s).trans (congrArg _ (loseRefclk_lost 0 lost))
  case count =>
    intro u ok out
    have bad : refInRange count = false := by simpa [refInRange] using by omega
    obtain ⟨flags, shut, kept⟩ := loseRefclk_declares (s := windowNoted count 0 u) 1 ok
    simp only [measured, Prod.mk.injEq] at flags
    obtain ⟨isLost, said, -, counted, -⟩ := flags
    exact ⟨_, (exec_refclkMonitorWindowEnd count s).trans (congrArg _ (judgeWindow_bad ok bad)), isLost, said, counted, shut,
      fun idle => ((setTb_keeps _ u).mono (by simp)).trans (kept idle)⟩
  case range =>
    intro u
    have good := (refInRange_iff count).mpr ⟨low, high⟩
    refine ⟨fun ok => ?_, fun lost whole first => ?_, fun lost whole second => ?_⟩
    · exact (exec_refclkMonitorWindowEnd count s).trans (congrArg _ (judgeWindow_good ok good))
    · refine (exec_refclkMonitorWindowEnd count s).trans (congrArg _ ((judgeWindow_lost lost good whole).trans ?_))
      rw [first]
      rfl
    · obtain ⟨flags, wins, kept, starts⟩ := recoverRefclk_declares (windowNoted count 2 u)
      simp only [measured, Prod.mk.injEq] at flags
      obtain ⟨isBack, said, -, counted, -⟩ := flags
      have row := (exec_refclkMonitorWindowEnd count s).trans (congrArg _ (judgeWindow_lost lost good whole))
      rw [second] at row
      exact ⟨_, row, isBack, said, wins, counted, ((setTb_keeps _ u).mono (by simp)).trans kept, starts⟩
end

section
/-! SUPPORT. The lock detectors, the lock-guard windows and the phase alignment (R35 to R37, R39), and the statement on lock guards. -/

namespace Sys2Proof.Machine

open Sys2Proof

/-! ### The lock detectors (R36) -/

theorem exec_lockDetectorAssert {s : State} {q : Quad} (acquires : s.tb.pll[q] = .acquiring) : exec (.lockDetectorAssert q) s =
    .next { s with tb := { s.tb with
      lockDet := vset s.tb.lockDet q true, pll := vset s.tb.pll q .window, winFrom := vset s.tb.winFrom q s.tb.now } } :=
  congrArg Host.Outcome.next (if_pos acquires)

/-- The lock detector of a quadrant gone. -/
def undetected (q : Quad) (s : State) : State := { s with tb := { s.tb with lockDet := vset s.tb.lockDet q false } }

theorem exec_lockDetectorDeassert_window {s : State} {q : Quad} (counts : s.tb.pll[q] = .window) : exec (.lockDetectorDeassert q) s =
    .next { s with tb := { s.tb with lockDet := vset s.tb.lockDet q false, pll := vset s.tb.pll q .acquiring } } :=
  congrArg Host.Outcome.next (if_pos counts)

theorem exec_lockDetectorDeassert_other {s : State} {q : Quad} (other : s.tb.pll[q] ≠ .window) : exec (.lockDetectorDeassert q) s =
    .next (loseLock q 0 (undetected q s)) :=
  congrArg Host.Outcome.next (if_neg other)

/-! ### The lock-guard windows (R36, R37) -/

/-- A window's count recorded, and the next window begun. -/
def guardCounted (q : Quad) (count : Nat) (s : State) : State :=
  { s with tb := { s.tb with qCount := vset s.tb.qCount q count, winFrom := vset s.tb.winFrom q s.tb.now } }

theorem edgeInRange_iff (count : Nat) : edgeInRange count = true ↔ 511898 ≤ count ∧ count ≤ 512102 := by simp [edgeInRange]

/-- A whole window in range with the lock detected ends in phase alignment. -/
theorem judgeGuard_locks {q : Quad} {count : Nat} {s : State} (counts : s.tb.pll[q] = .window) (range : edgeInRange count = true)
    (det : s.tb.lockDet[q] = true) : judgeGuard q count true s =
      issue 0x0103 [i1 q.val, i2 (acqTime s)] { guardCounted q count s with tb := { (guardCounted q count s).tb with
        pll := vset s.tb.pll q .aligning } } :=
  (if_pos counts).trans (if_pos ⟨range, rfl, det⟩)

theorem judgeGuard_again {q : Quad} {count : Nat} {stayed : Bool} {s : State} (counts : s.tb.pll[q] = .window)
    (bad : ¬ (edgeInRange count = true ∧ stayed = true ∧ s.tb.lockDet[q] = true)) : judgeGuard q count stayed s = guardCounted q count s :=
  (if_pos counts).trans (if_neg bad)

/-- An open guard closes on a window out of range or without the lock all through it. -/
theorem judgeGuard_closes {q : Quad} {count : Nat} {stayed : Bool} {s : State} (runs : s.tb.pll[q] = .running)
    (bad : stayed = false ∨ edgeInRange count = false) :
    ∃ cause, judgeGuard q count stayed s = loseLock q cause (guardCounted q count s) := by
  have open_ : s.tb.pll[q] ≠ .window := by simp [runs]
  cases stayed
  · exact ⟨0, (if_neg open_).trans (if_pos (by decide))⟩
  · obtain h | range := bad
    · exact absurd h (by decide)
    · exact ⟨1, (if_neg open_).trans ((if_neg (by decide)).trans (if_neg (by simp [range])))⟩

theorem exec_guardWindowEnd {s : State} {q : Quad} (count : Nat) (stayed : Bool)
    (counts : s.tb.pll[q] = .window ∨ s.tb.pll[q] = .aligning ∨ s.tb.pll[q] = .running) : exec (.guardWindowEnd q count stayed) s =
      .next (judgeGuard q count stayed (toTime (s.tb.winFrom[q] + 524288000) s)) :=
  congrArg Host.Outcome.next (if_pos counts)

/-! ### Phase alignment (R35) -/

/-- A quadrant aligned: its offset held, its guard open. -/
def aligned (q : Quad) (phi : Int) (s : State) : State :=
  { s with
    tb := { s.tb with pll := vset s.tb.pll q .running, guardOpen := vset s.tb.guardOpen q true, phi := vset s.tb.phi q phi }
    ti := { s.ti with units := vmapIdx (recalTiu q s.tb.now) s.ti.units } }

theorem exec_phaseAlignDone {s : State} {q : Quad} (phi : Int) (aligns : s.tb.pll[q] = .aligning) :
    exec (.phaseAlignDone q phi) s = .next (aligned q phi s) := congrArg Host.Outcome.next (if_pos aligns)

theorem aligned_keeps (q : Quad) (phi : Int) (s : State) : Keeps [.tb, .ti] s (aligned q phi s) := by
  intro p hp
  cases p <;> simp [samePart, aligned] at hp ⊢

/-! ### An open guard closes (R37) -/

/-- A guard that loses its lock: the quadrant's flags, the others' guards, the measurements, and in a run the containment. -/
theorem loseLock_closes {q : Quad} {s : State} (cause : Nat) (open_ : s.tb.guardOpen[q] = true) :
    (loseLock q cause s).tb.guardOpen[q] = false ∧ (loseLock q cause s).tb.lockLost[q] = true
      ∧ (∀ r : Quad, r ≠ q → (loseLock q cause s).tb.guardOpen[r] = s.tb.guardOpen[r])
      ∧ (loseLock q cause s).tb.lockDet = s.tb.lockDet ∧ (loseLock q cause s).tb.qCount = s.tb.qCount
      ∧ (running s = true → (loseLock q cause s).mg.contained = true
        ∧ (s.mg.contained = false → (loseLock q cause s).mg.contain.toNat / 2 ^ 56 = 0x80 + 0x01)) := by
  have lock : hasLock q s = true := by simp [hasLock, open_]
  have kept := loseLock_measured q cause s
  simp only [measured, Prod.mk.injEq] at kept
  obtain ⟨-, -, -, -, count, det⟩ := kept
  refine ⟨?_, ?_, fun r other => ?_, det, count, loseLock_contains cause lock⟩
  · rw [loseLock_guardOpen, if_pos rfl]
  · rw [loseLock_tb cause lock, lockGone_lockLost, vset_self]
  · rw [loseLock_guardOpen, if_neg other]

/-- Outside a run the quadrant's raw samples, stamps not yet crossed and open compares go (R37, R91, R436). -/
theorem loseLock_drops {q : Quad} {s : State} (cause : Nat) (open_ : s.tb.guardOpen[q] = true) (idle : running s = false) :
    (∀ r ∈ (loseLock q cause s).cs.raws, quadOf r.1 ≠ q) ∧ (∀ x ∈ (loseLock q cause s).cs.pendX, quadOf x.pin ≠ q)
      ∧ ∀ p : Pin, (loseLock q cause s).pins[p] = if quadOf p = q then { s.pins[p] with win := none } else s.pins[p] := by
  have lock : hasLock q s = true := by simp [hasLock, open_]
  obtain ⟨-, pins, -, -, -, -, -, -, -, cs, -⟩ :=
    issue_frame 0x0104 [i1 q.val, i1 cause, i1 (b2n (running s))] (lockGone q cause s)
  have cs' : (lockGone q cause s).cs = (shutGuard q s).cs := rfl
  have pins' : (lockGone q cause s).pins = (shutGuard q s).pins := rfl
  rw [loseLock_idle cause lock idle, cs, pins, cs', pins', shutGuard_cs, shutGuard_pins]
  refine ⟨fun r hr => ?_, fun x hx => ?_, fun p => vmapIdx_get _ _ p⟩
  · simpa using List.of_mem_filter hr
  · simpa using List.of_mem_filter hx

end Sys2Proof.Machine

open Sys2Proof Sys2Proof.Machine

/-- Settles O4: the steps of a lock guard from the lock detector to its opening, and its closings. -/
theorem lockGuardsOpenAndClose : Obligations.lockGuardsOpenAndClose := by
  unfold Obligations.lockGuardsOpenAndClose
  refine ⟨fun s q => ⟨exec_lockDetectorAssert, fun count counts low high => ?locks, fun count stayed counts => ?again, fun phi aligns => ?aligns⟩,
    fun s q runs open_ => ?undetected, fun s q count stayed runs bad => ?closes, fun s q => exec_lockDetectorDeassert_window⟩
  case locks =>
    intro u counts' det
    exact (exec_guardWindowEnd count true (.inl counts)).trans
      (congrArg _ (judgeGuard_locks counts' ((edgeInRange_iff count).mpr ⟨low, high⟩) det))
  case again =>
    intro u counts' bad
    refine (exec_guardWindowEnd count stayed (.inl counts)).trans (congrArg _ (judgeGuard_again counts' fun h => ?_))
    obtain ⟨range, whole, det⟩ := h
    have := (edgeInRange_iff count).mp range
    obtain h | h | h := bad
    · simp [whole] at h
    · simp [show u.tb.lockDet[q] = true from det] at h
    · omega
  case aligns =>
    exact ⟨_, exec_phaseAlignDone phi aligns, vset_self .., vset_self .., vset_self ..,
      fun r other => ⟨vset_other _ _ other.symm, vset_other _ _ other.symm⟩, rfl, aligned_keeps q phi s⟩
  case undetected =>
    obtain ⟨shut, lost, others, det, -, contained⟩ := loseLock_closes (s := undetected q s) 0 open_
    refine ⟨_, exec_lockDetectorDeassert_other (by simp [runs]), shut, lost, ?_, others, contained, fun idle => ?_⟩
    · rw [det]
      exact vset_self ..
    · exact ⟨((setTb_keeps _ s).mono (by simp)).trans (loseLock_keeps 0 idle), loseLock_drops (s := undetected q s) 0 open_ idle⟩
  case closes =>
    intro u runs' open_
    have out : stayed = false ∨ edgeInRange count = false := by
      obtain h | h := bad
      · exact .inl h
      · exact .inr (by simpa [edgeInRange] using by omega)
    obtain ⟨cause, judged⟩ := judgeGuard_closes runs' out
    obtain ⟨shut, lost, -, -, counted, contained⟩ := loseLock_closes (s := guardCounted q count u) cause open_
    refine ⟨_, (exec_guardWindowEnd count stayed (.inr (.inr runs))).trans (congrArg _ judged), shut, lost, ?_, contained⟩
    rw [counted]
    exact vset_self ..
end

section
/-! SUPPORT. What events and messages alone change of the host interface and of the management state: the operations of the stream, the stamps, the
time-interval units and the passing of time leave no more than the traces of R382, R385 and R404 to R407. -/

namespace Sys2Proof.Machine

open Sys2Proof

/-! ### The registers without the log -/

/-- The management and the host-interface registers, without what events and messages leave in them. -/
def logless (s : State) : MG × HI := (withLog {} s.mg, withTrace {} s.hi)

/-- Two states that agree without the log agree on every register outside it. -/
theorem mg_of_logless {α : Type} {f : MG → α} (outside : ∀ b, f (withLog {} b) = f b) {s t : State} (h : logless t = logless s) :
    f t.mg = f s.mg :=
  (outside t.mg).symm.trans ((congrArg (fun x : MG × HI => f x.1) h).trans (outside s.mg))

theorem hi_of_logless {α : Type} {f : HI → α} (outside : ∀ b, f (withTrace {} b) = f b) {s t : State} (h : logless t = logless s) :
    f t.hi = f s.hi :=
  (outside t.hi).symm.trans ((congrArg (fun x : MG × HI => f x.2) h).trans (outside s.hi))

theorem logless_of_eq {s t : State} (mg : t.mg = s.mg) (hi : t.hi = s.hi) : logless t = logless s := by rw [logless, logless, mg, hi]

/-- The other parts of the state are no matter of these registers. -/
@[simp] theorem logless_with (s : State) (tb : TB) (pins : Vector PinSt 512) (pf : PF) (tg : TG) (pt : PT) (pm : PM) (sq : SQ) (sp : SP) (cl : CL)
    (cs : CS) (ti : TI) (mx : MX) (en : EN) (bt : BT) (hostMem : Mem) (pending : List Instr) (freeCtr : Nat) :
    logless { s with
      tb := tb, pins := pins, pf := pf, tg := tg, pt := pt, pm := pm, sq := sq, sp := sp, cl := cl, cs := cs, ti := ti, mx := mx
      en := en, bt := bt, hostMem := hostMem, pending := pending, freeCtr := freeCtr } = logless s := rfl

@[simp] theorem logless_ite (c : Prop) [Decidable c] (s t : State) :
    logless (if c then s else t) = if c then logless s else logless t := apply_ite logless c s t

@[simp] theorem foldl_logless {α : Type} (f : State → α → State) (h : ∀ s x, logless (f s x) = logless s) (l : List α) (s : State) :
    logless (l.foldl f s) = logless s := foldl_keeps logless h l s

@[simp] theorem msix_logless (v : Nat) (s : State) : logless (msix v s) = logless s := rfl

@[simp] theorem issue_logless (code : Nat) (items : List Item) (s : State) : logless (issue code items s) = logless s := by
  have mg : withLog {} (withLog s.mg (issue code items s).mg) = withLog {} s.mg := congrArg (withLog {}) (issue_sameMg code items s)
  have hi : withTrace {} (withTrace s.hi (issue code items s).hi) = withTrace {} s.hi := congrArg (withTrace {}) (issue_sameHi code items s)
  exact Prod.ext mg hi

@[simp] theorem issueUpTo_logless (n code : Nat) (items : List Item) (s : State) : logless (issueUpTo n code items s) = logless s := by
  simp [issueUpTo]

@[simp] theorem updPin_logless (p : Pin) (f : PinSt → PinSt) (s : State) : logless (updPin p f s) = logless s := rfl

@[simp] theorem updTiu_logless (g : Glove) (f : Tiu → Tiu) (s : State) : logless (updTiu g f s) = logless s := rfl

@[simp] theorem takeFree_logless (s : State) : logless (takeFree s) = logless s := rfl

@[simp] theorem bookSlots_logless (c : SlotClass) (n : Nat) (s : State) : logless (bookSlots c n s) = logless s :=
  logless_of_eq (by simp) (by simp)

@[simp] theorem dramWrite_logless (a : Nat) (l : List Byte) (s : State) : logless (dramWrite a l s) = logless s :=
  logless_of_eq (by simp) (by simp)

/-! ### The stream assembler (11) -/

@[simp] theorem loseMark_logless (m : Mark) (s : State) : logless (loseMark m s) = logless s := by simp [loseMark]

@[simp] theorem queueMark_logless (m : Mark) (s : State) : logless (queueMark m s) = logless s := by simp [queueMark]

@[simp] theorem sendFrame_logless (f : Frame) (s : State) : logless (sendFrame f s) = logless s := by
  unfold sendFrame
  simp only [logless_ite, msix_logless]
  split <;> split <;> rfl

@[simp] theorem endDrop_logless (s : State) : logless (endDrop s) = logless s := by unfold endDrop; split <;> simp

@[simp] theorem dropFrame_logless (f : Frame) (s : State) : logless (dropFrame f s) = logless s := by simp [dropFrame, returnMarks]

@[simp] theorem stageOldest_logless (s : State) : logless (stageOldest s) = logless s := by unfold stageOldest; split <;> simp

@[simp] theorem sendOldest_logless (s : State) : logless (sendOldest s) = logless s := by unfold sendOldest; split <;> simp

@[simp] theorem frontRoom_logless (s : State) : logless (frontRoom s) = logless s := by simp [frontRoom]

@[simp] theorem closeFrame_logless (ps : Fin 16) (flag : Nat) (s : State) : logless (closeFrame ps flag s) = logless s := by
  unfold closeFrame; split <;> simp

@[simp] theorem putUnit_logless (ps : Fin 16) (era key : Nat) (w0 w1 : W64) (mk : Option Mark) (flag : Nat) (s : State) :
    logless (putUnit ps era key w0 w1 mk flag s) = logless s := by
  simp [putUnit]

@[simp] theorem placeData_logless (ps : Fin 16) (l : List Datum) (s : State) : logless (placeData ps l s) = logless s := by
  unfold placeData; split <;> simp

@[simp] theorem placeMark_logless (m : Mark) (s : State) : logless (placeMark m s) = logless s := by simp [placeMark]

@[simp] theorem placeQueued_logless (m : Mark) (s : State) : logless (placeQueued m s) = logless s := by simp [placeQueued]

@[simp] theorem stalePlace_logless (ps : Fin 16) (f : Frame) (s : State) : logless (stalePlace ps f s) = logless s := by simp [stalePlace]

@[simp] theorem placeItem_logless (ps : Fin 16) (upTo : Option Nat) (s : State) : logless (placeItem ps upTo s) = logless s := by
  unfold placeItem; split <;> simp

@[simp] theorem placeNext_logless (ps : Fin 16) (upTo : Option Nat) (s : State) : logless (placeNext ps upTo s) = logless s := by
  unfold placeNext
  split
  · rfl
  · split
    · simp
    · split <;> simp

@[simp] theorem placeAll_logless (ps : Fin 16) (upTo : Option Nat) (n : Nat) (s : State) : logless (placeAll ps upTo n s) = logless s := by
  induction n generalizing s with
  | zero => rfl
  | succ n ih => rw [placeAll]; split <;> simp [ih]

@[simp] theorem closeFrames_logless (upTo : Option Nat) (flag : Nat) (s : State) : logless (closeFrames upTo flag s) = logless s := by
  simp [closeFrames, closeSet]

@[simp] theorem epochMark_logless (kind key : Nat) (w1 : W64) (s : State) : logless (epochMark kind key w1 s) = logless s := by
  simp [epochMark]

/-! ### Stamps, shots, and the passing of time (11, 12, 02) -/

@[simp] theorem tiuSayOnce_logless (g : Glove) (code : Nat) (start : Int) (s : State) : logless (tiuSayOnce g code start s) = logless s := by
  simp [tiuSayOnce]

@[simp] theorem tiuNoStop_logless (g : Glove) (s : State) : logless (tiuNoStop g s) = logless s := by unfold tiuNoStop; split <;> simp

@[simp] theorem countShot_logless (g : Glove) (start stop : Int) (s : State) : logless (countShot g start stop s) = logless s := by
  simp [countShot, tiuCheckDone]

@[simp] theorem countOver_logless (g : Glove) (start : Int) (s : State) : logless (countOver g start s) = logless s := by
  simp [countOver]

@[simp] theorem tiuSettle_logless (f : EndedShot → Bool) (s : State) : logless (tiuSettle f s) = logless s := by
  simp [tiuSettle, countEnded]

@[simp] theorem classify_logless (p : Pin) (k : XKind) (t : Int) (s : State) : logless (classify p k t s) = logless s := by
  simp [classify, giveHit]

@[simp] theorem loseStamp_logless (p : Pin) (t : Nat) (s : State) : logless (loseStamp p t s) = logless s := by
  simp [loseStamp, addOverflow]

@[simp] theorem streamStamp_logless (p : Pin) (k : XKind) (t : Int) (seen : Nat) (s : State) :
    logless (streamStamp p k t seen s) = logless s := by
  simp [streamStamp]

@[simp] theorem flushX_logless (f : PendX → Bool) (s : State) : logless (flushX f s) = logless s := by simp [flushX, stampOut]

@[simp] theorem deliverHit_logless (e : Nat) (s : State) (h : Hit) : logless (deliverHit e s h) = logless s := rfl

@[simp] theorem deliverDue_logless (s : State) : logless (deliverDue s) = logless s :=
  foldl_keeps logless (fun t h => deliverHit_logless (hitBy s h) t h) _ s

@[simp] theorem passed_logless (s : State) : logless (passed s) = logless s := by simp [passed, tiuPast]

@[simp] theorem wrapEffects_logless (s : State) : logless (wrapEffects s) = logless s := by
  simp [wrapEffects, closeEpoch, flushAll]

/-- Time that passes leaves the registers as they are but for the log. -/
@[simp] theorem pass_logless (n : Nat) (s : State) : logless (pass n s) = logless s := by
  unfold pass
  simp only [logless_ite, passed_logless, wrapEffects_logless, logless_with, ite_self]

@[simp] theorem toEpoch_logless (e : Nat) (s : State) : logless (toEpoch e s) = logless s := pass_logless _ s

@[simp] theorem toTime_logless (t : Nat) (s : State) : logless (toTime t s) = logless s := pass_logless _ s

@[simp] theorem inSlot_logless (c : SlotClass) (n : Nat) (s : State) : logless (inSlot c n s) = logless s := by simp [inSlot]

/-! ### The stream closes (R295, R296) -/

@[simp] theorem stageEmpty_logless (s : State) : logless (stageEmpty s) = logless s := by simp [stageEmpty]

@[simp] theorem noteEcc_logless (ecc : Ecc) (addr : Nat) (s : State) : logless (noteEcc ecc addr s) = logless s := by
  cases ecc <;> simp [noteEcc, issueOnce]

@[simp] theorem stageRead_logless (dr : DramFind) (s : State) : logless (stageRead dr s) = logless s := by
  unfold stageRead
  split
  · rfl
  · dsimp only
    split <;> simp [unreadable]

@[simp] theorem sendWaiting_logless (n : Nat) (reads : List DramFind) (s : State) : logless (sendWaiting n reads s) = logless s := by
  induction n generalizing reads s with
  | zero => rfl
  | succ n ih => simp [sendWaiting, ih]

@[simp] theorem streamShut_logless (cause discarded : Nat) (s : State) : logless (streamShut cause discarded s) = logless s := by
  have shut (x : CS) (t : State) : logless { t with cs := x } = logless t := rfl
  rw [streamShut, issue_logless, shut, endFill, endDrop_logless]
  simp

@[simp] theorem closeFill_logless (send : Bool) (reads : List DramFind) (s : State) :
    logless (closeFill send reads s).2 = logless s := by
  simp [closeFill]

@[simp] theorem closeStream_logless (cause : Nat) (send : Bool) (s : State) : logless (closeStream cause send s) = logless s := by
  simp [closeStream, closeDue]

/-! ### Lock guards and the park path (02, 05) -/

@[simp] theorem shutGuard_logless (q : Quad) (s : State) : logless (shutGuard q s) = logless s := by simp [shutGuard, guardTiu]

@[simp] theorem stopPll_logless (q : Quad) (s : State) : logless (stopPll q s) = logless s := by
  have off (b : TB) (t : State) : logless { t with tb := b } = logless t := rfl
  rw [stopPll, off]
  simp

@[simp] theorem stopPlls_logless (s : State) : logless (stopPlls s) = logless s := by simp [stopPlls]

@[simp] theorem parkAll_logless (mxCause : Nat) (s : State) : logless (parkAll mxCause s) = logless s := by simp [parkAll, mxStopEvent]

@[simp] theorem parkOnce_logless (s : State) : logless (parkOnce s) = logless s := by simp [parkOnce]

@[simp] theorem startPll_logless (s : State) (q : Quad) : logless (startPll s q) = logless s := by simp [startPll]

@[simp] theorem startPlls_logless (s : State) : logless (startPlls s) = logless s := by simp [startPlls]

end Sys2Proof.Machine
end

section
/-! SUPPORT. The power states: what the answer and the steps of a transition change (R417, R418, Table 16.7), PLLs stopped at the limit of the
acquisition (R40), and the statement on power transitions. -/

namespace Sys2Proof.Machine

open Sys2Proof

theorem setMg_keeps (x : MG) (s : State) : Keeps [.mg] s { s with mg := x } := by
  intro p hp
  cases p <;> simp [samePart] at hp ⊢

/-! ### The core settles (R399) -/

/-- What a settled core leaves of the management state. -/
theorem coreSettle_power (s : State) : (coreSettle s).mg.pstate = s.mg.pstate ∧ (coreSettle s).mg.pwr = s.mg.pwr
    ∧ (coreSettle s).mg.fastStop = s.mg.fastStop := by
  unfold coreSettle
  split <;> exact ⟨rfl, rfl, rfl⟩

theorem coreSettle_keeps (s : State) : Keeps [.mg] s (coreSettle s) := by
  unfold coreSettle
  split
  · exact Keeps.refl _ s
  · exact setMg_keeps _ s

/-! ### The command that asked (R391, R417) -/

theorem executing_of_logless {s t : State} (op : Nat) (tag : W16) (h : logless t = logless s) : executing op tag t = executing op tag s :=
  hi_of_logless (f := fun x : HI => x.exec.find? fun e : Exec => e.entry.opcode == BitVec.ofNat 16 op && e.entry.tag == tag
    && !x.cpls.any fun c => c.wasExec && c.tag == tag) (fun _ => rfl) h

/-- The transition is over: no request stands. -/
def pwrEnded (s : State) : State := { s with mg := { s.mg with pwr := none } }

/-- A request over SMBus has no completion. -/
theorem pwrAnswer_silent {s : State} {p : Pwr} (status : Nat) (asked : s.mg.pwr = some p) (silent : p.tag = none) :
    pwrAnswer status s = pwrEnded s := by
  simp [pwrAnswer, asked, silent, pwrEnded]

theorem pwrAnswer_command {s : State} {p : Pwr} {tag : W16} {e : Exec} (status : Nat) (asked : s.mg.pwr = some p) (command : p.tag = some tag)
    (runs : executing 0x0F01 tag s = some e) : pwrAnswer status s = answer e status [] (pwrEnded s) := by
  have runs' : executing 0x0F01 tag (pwrEnded s) = some e := runs
  simp only [pwrAnswer, asked, command]
  exact runCmd_some runs' _

/-- The end of a transition, and the completion of the command that asked for it. -/
theorem pwrAnswer_cases (status : Nat) (s : State) :
    pwrAnswer status s = pwrEnded s ∨ ∃ e, pwrAnswer status s = answer e status [] (pwrEnded s) := by
  cases asked : s.mg.pwr with
  | none =>
    left
    simp [pwrAnswer, asked, pwrEnded]
  | some p =>
    cases silent : p.tag with
    | none => exact .inl (pwrAnswer_silent status asked silent)
    | some tag =>
      cases runs : executing 0x0F01 tag s with
      | none =>
        left
        have runs' : executing 0x0F01 tag (pwrEnded s) = none := runs
        simp only [pwrAnswer, asked, silent]
        exact runCmd_none runs' _
      | some e => exact .inr ⟨e, pwrAnswer_command status asked silent runs⟩

theorem pwrAnswer_mg (status : Nat) (s : State) : (pwrAnswer status s).mg = { s.mg with pwr := none } := by
  obtain h | ⟨e, h⟩ := pwrAnswer_cases status s <;> rw [h]
  · rfl
  · rfl

theorem pwrAnswer_linkUp (status : Nat) (s : State) : (pwrAnswer status s).hi.linkUp = s.hi.linkUp := by
  obtain h | ⟨e, h⟩ := pwrAnswer_cases status s <;> rw [h]
  · rfl
  · rfl

theorem setHiMg_keeps (x : HI) (y : MG) (s : State) : Keeps [.hi, .mg] s { s with hi := x, mg := y } := by
  intro p hp
  cases p <;> simp [samePart] at hp ⊢

theorem pwrAnswer_keeps (status : Nat) (s : State) : Keeps [.hi, .mg] s (pwrAnswer status s) := by
  obtain h | ⟨e, h⟩ := pwrAnswer_cases status s <;> rw [h]
  · exact setHiMg_keeps _ _ s
  · exact setHiMg_keeps _ _ s

/-! ### Steps (R417, Table 16.8) -/

theorem parkAll_keeps (mxCause : Nat) (s : State) : Keeps [.pins, .pf, .mx, .hi, .mg] s (parkAll mxCause s) := by
  intro p hp
  cases p <;> simp [samePart] at hp ⊢

/-- The park path has acted where it had not. -/
theorem parkOnce_parked (s : State) : (parkOnce s).pf.parked = true := by
  unfold parkOnce
  split
  · assumption
  · rfl

theorem parkOnce_keeps (s : State) : Keeps [.pins, .pf, .mx, .hi, .mg] s (parkOnce s) := by
  unfold parkOnce
  split
  · exact Keeps.refl _ s
  · exact parkAll_keeps 1 s

theorem beginStep_down {s : State} {target : Nat} (down : s.mg.pstate < target) : beginStep target s = parkOnce s := if_pos down

theorem beginStep_up_keeps {s : State} {target : Nat} (up : ¬ s.mg.pstate < target) : Keeps [.tb] s (beginStep target s) := by
  rw [beginStep, if_neg up]
  split
  · exact (setTb_keeps _ s).trans (startPlls_keeps _)
  · exact Keeps.refl _ s

@[simp] theorem beginStep_logless (target : Nat) (s : State) : logless (beginStep target s) = logless s := by
  simp [beginStep]

/-- What the begin of a step, and of the next one, can change. -/
abbrev stepParts : List Part := [.tb, .pins, .pf, .mx, .hi, .mg]

theorem beginStep_keeps (target : Nat) (s : State) : Keeps stepParts s (beginStep target s) := by
  by_cases down : s.mg.pstate < target
  · rw [beginStep_down down]
    exact (parkOnce_keeps s).mono (by simp)
  · exact (beginStep_up_keeps down).mono (by simp)

theorem pwrNext_keeps (target : Nat) (s : State) : Keeps stepParts s (pwrNext target s) := by
  unfold pwrNext
  split
  · exact (pwrAnswer_keeps eOk s).mono (by simp)
  · exact beginStep_keeps target s

theorem pwrNext_last {s : State} {target : Nat} (last : s.mg.pstate = target) : pwrNext target s = pwrAnswer eOk s := if_pos last

/-- The next step, or the completion, leaves the state that was reached and the link as they are. -/
theorem pwrNext_reached (target : Nat) (s : State) :
    (pwrNext target s).mg.pstate = s.mg.pstate ∧ (pwrNext target s).hi.linkUp = s.hi.linkUp := by
  unfold pwrNext
  split
  · exact ⟨by rw [pwrAnswer_mg], pwrAnswer_linkUp eOk s⟩
  · exact ⟨mg_of_logless (f := MG.pstate) (fun _ => rfl) (beginStep_logless target s),
      hi_of_logless (f := HI.linkUp) (fun _ => rfl) (beginStep_logless target s)⟩

/-- The power state of a step reached, before its event. -/
def atStep (n : Nat) (s : State) : State := { s with mg := { s.mg with pstate := n } }

@[simp] theorem stepTo_logless (n : Nat) (s : State) : logless (stepTo n s) = logless (atStep n s) := issue_logless _ _ _

theorem stepTo_pstate (n : Nat) (s : State) : (stepTo n s).mg.pstate = n :=
  mg_of_logless (f := MG.pstate) (fun _ => rfl) (stepTo_logless n s)

theorem stepTo_pwr (n : Nat) (s : State) : (stepTo n s).mg.pwr = s.mg.pwr :=
  mg_of_logless (f := MG.pwr) (s := atStep n s) (fun _ => rfl) (stepTo_logless n s)

theorem stepTo_fastStop (n : Nat) (s : State) : (stepTo n s).mg.fastStop = s.mg.fastStop :=
  mg_of_logless (f := MG.fastStop) (s := atStep n s) (fun _ => rfl) (stepTo_logless n s)

theorem stepTo_hi {α : Type} {f : HI → α} (outside : ∀ b, f (withTrace {} b) = f b) (n : Nat) (s : State) : f (stepTo n s).hi = f s.hi :=
  hi_of_logless (s := atStep n s) outside (stepTo_logless n s)

theorem stepTo_keeps (n : Nat) (s : State) : Keeps [.hi, .mg] s (stepTo n s) :=
  ((setMg_keeps _ s).mono (by simp)).trans ((issue_keeps _ _ _).mono (by simp))

/-- A completed step and what follows it: the state it reaches, the link as it was, and the parts it leaves. -/
theorem stepDone (target n : Nat) (s : State) :
    (coreSettle (pwrNext target (stepTo n s))).mg.pstate = n ∧ (coreSettle (pwrNext target (stepTo n s))).hi.linkUp = s.hi.linkUp
      ∧ Keeps stepParts s (coreSettle (pwrNext target (stepTo n s))) := by
  obtain ⟨state, -, -⟩ := coreSettle_power (pwrNext target (stepTo n s))
  have settled := coreSettle_keeps (pwrNext target (stepTo n s))
  have link := (coreSettle_frame (pwrNext target (stepTo n s))).2.2.2.2.2.2.2.2.2.2.2.2.2.1
  obtain ⟨reached, up⟩ := pwrNext_reached target (stepTo n s)
  refine ⟨state.trans (reached.trans (stepTo_pstate n s)), ?_, ?_⟩
  · rw [link, up, stepTo_hi (f := HI.linkUp) fun _ => rfl]
  · exact ((stepTo_keeps n s).mono (by simp)).trans ((pwrNext_keeps target _).trans (settled.mono (by simp)))

theorem exec_powerStepComplete {s : State} {p : Pwr} (ok : Bool) (asked : s.mg.pwr = some p) : exec (.powerStepComplete ok) s =
    .next (coreSettle (if s.mg.pstate < p.target then stepDown p.target s else stepUp p.target ok s)) := by
  show execPowerStepComplete ok s = _
  rw [execPowerStepComplete, asked]

theorem exec_powerStepComplete_up {s : State} {p : Pwr} (ok : Bool) (asked : s.mg.pwr = some p) (up : p.target < s.mg.pstate) :
    exec (.powerStepComplete ok) s = .next (coreSettle (stepUp p.target ok s)) := by
  rw [exec_powerStepComplete ok asked, if_neg (by omega)]

theorem exec_powerStepComplete_down {s : State} {p : Pwr} (ok : Bool) (asked : s.mg.pwr = some p) (down : s.mg.pstate < p.target) :
    exec (.powerStepComplete ok) s = .next (coreSettle (stepDown p.target s)) := by
  rw [exec_powerStepComplete ok asked, if_pos down]

/-! ### What the states lose (Table 16.7) -/

@[simp] theorem stageRead_bt (dr : DramFind) (s : State) : (stageRead dr s).bt = s.bt := by
  unfold stageRead
  dsimp only
  split
  · rfl
  · split <;> simp [unreadable, stageEmpty]

@[simp] theorem sendWaiting_bt (n : Nat) (reads : List DramFind) (s : State) : (sendWaiting n reads s).bt = s.bt := by
  induction n generalizing reads s with
  | zero => rfl
  | succ n ih => simp [sendWaiting, ih]

theorem closeStream_bt (cause : Nat) (send : Bool) (s : State) : (closeStream cause send s).bt = s.bt := by
  simp [closeStream, closeFill, closeDue, streamShut, endFill, stageEmpty]

theorem closeStream_closed (cause : Nat) (send : Bool) (s : State) : (closeStream cause send s).cs.open_ = false := by
  simp [closeStream, streamShut]

/-- The state from which P3 takes what it loses: the stream closed. -/
def streamOff (s : State) : State := if s.cs.open_ then closeStream 1 true s else s

theorem streamOff_logless (s : State) : logless (streamOff s) = logless s := by simp [streamOff]

theorem streamOff_bt (s : State) : (streamOff s).bt = s.bt := by simp [streamOff, closeStream_bt]

theorem streamOff_closed (s : State) : (streamOff s).cs.open_ = false := by
  unfold streamOff
  split
  · exact closeStream_closed _ _ _
  · rename_i shut
    simpa using shut

/-- Entry to P3 (R148, R165, R295). -/
theorem enterP3_loses (s : State) : logless (enterP3 s) = logless s ∧ (enterP3 s).bt = s.bt ∧ (enterP3 s).pm.dram = []
    ∧ (enterP3 s).pt.bound = false ∧ (enterP3 s).sq.loaded = false ∧ (enterP3 s).cs.open_ = false :=
  ⟨(show _ = logless (streamOff s) from rfl).trans (streamOff_logless s), (show _ = (streamOff s).bt from rfl).trans (streamOff_bt s),
    rfl, rfl, rfl, (show _ = (streamOff s).cs.open_ from rfl).trans (streamOff_closed s)⟩

/-! ### Commands for a transition (R418, R434) -/

theorem exec_pwrSet {s : State} {tag : W16} {e : Exec} (runs : executing 0x0F01 tag s = some e) :
    exec (.pwrSet tag) s = .next (pwrSetCmd e s) := congrArg Host.Outcome.next (runCmd_some runs _)

/-- A legal target outside recovery: the answer at once, or the transition. -/
theorem pwrSetCmd_taken {s : State} {e : Exec} (free : s.mg.pwr = none) (rest : payZero e 1 47 = true) (low : 1 ≤ payF e 0 1)
    (high : payF e 0 1 ≤ 4) (idle : running s = false)
    (may : (s.bt.recovery || (formed s && decide (2 ≤ payF e 0 1)) || (decide (payF e 0 1 = 1) && p1Blocked s)) = false) :
    pwrSetCmd e s = if payF e 0 1 = s.mg.pstate then answer e eOk [] s else pwrStart (payF e 0 1) (some e.entry.tag) s := by
  have legal : decide (payF e 0 1 = 0 ∨ 4 < payF e 0 1) = false := by simp; omega
  rw [pwrSetCmd, if_neg (by simp [free]), checked_pass (by simp [rest]), pwrChecks, checked_pass legal, checked_pass idle, checked_pass may,
    checked_nil]

/-- In recovery the power state stays (R434). -/
theorem pwrSetCmd_recovery {s : State} {e : Exec} (free : s.mg.pwr = none) (rest : payZero e 1 47 = true) (low : 1 ≤ payF e 0 1)
    (high : payF e 0 1 ≤ 4) (idle : running s = false) (recovers : s.bt.recovery = true) : pwrSetCmd e s = answer e eState [] s := by
  have legal : decide (payF e 0 1 = 0 ∨ 4 < payF e 0 1) = false := by simp; omega
  rw [pwrSetCmd, if_neg (by simp [free]), checked_pass (by simp [rest]), pwrChecks, checked_pass legal, checked_pass idle,
    checked_fail (by simp [recovers])]

/-- The state with a transition that begins. -/
def pwrAsked (target : Nat) (tag : Option W16) (s : State) : State := { s with mg := { s.mg with pwr := some { target := target, tag := tag } } }

/-- A transition that starts: its request stands, and the state is as it was. -/
theorem pwrStart_asked (target : Nat) (tag : Option W16) (s : State) :
    (pwrStart target tag s).mg.pwr = some { target := target, tag := tag } ∧ (pwrStart target tag s).mg.pstate = s.mg.pstate :=
  ⟨mg_of_logless (f := MG.pwr) (s := pwrAsked target tag s) (fun _ => rfl) (beginStep_logless _ _),
    mg_of_logless (f := MG.pstate) (s := pwrAsked target tag s) (fun _ => rfl) (beginStep_logless _ _)⟩

theorem pwrStart_down {s : State} {target : Nat} (tag : Option W16) (down : s.mg.pstate < target) :
    pwrStart target tag s = parkOnce (pwrAsked target tag s) := beginStep_down (s := pwrAsked target tag s) down

theorem pwrStart_up_keeps {s : State} {target : Nat} (tag : Option W16) (up : ¬ s.mg.pstate < target) :
    Keeps [.tb, .mg] s (pwrStart target tag s) :=
  ((setMg_keeps _ s).mono (by simp)).trans ((beginStep_up_keeps (s := pwrAsked target tag s) up).mono (by simp))

/-! ### Steps up (Table 16.8) -/

theorem stepUp_p4 {s : State} (target : Nat) (ok : Bool) (h : s.mg.pstate = 4) :
    stepUp target ok s = pwrNext target (stepTo 3 (enterP3 { s with hi := { s.hi with linkUp := true } })) := by
  simp [stepUp, h]

theorem stepUp_p3 {s : State} (target : Nat) (ok : Bool) (h : s.mg.pstate = 3) :
    stepUp target ok s = if ok then pwrNext target (stepTo 2 (loseDram s)) else pwrAnswer eMemerr s := by
  simp [stepUp, h]

/-- P1 reached, before the command answers. -/
def inP1 (s : State) : State := stepTo 1 (enterP1 s)

theorem stepUp_p2 {s : State} (target : Nat) (ok : Bool) (h : s.mg.pstate = 2) :
    stepUp target ok s = if guardsOpen s ∧ s.tb.fabSrc = .edge then pwrNext target (inP1 s) else s := by
  simp [stepUp, h, inP1]

/-- The state in which the store room is reloaded: its slots have passed (R147). -/
def reloaded (s : State) : State := if s.pt.bound && s.pt.shadowOk then inSlot .maint tableSize s else s

theorem reloaded_logless (s : State) : logless (reloaded s) = logless s := by simp [reloaded]

theorem inSlot_keeps (c : SlotClass) (n : Nat) (s : State) : Keeps (.pm :: .hostMem :: passParts) s (inSlot c n s) := by
  intro p hp
  cases p <;> simp [samePart] at hp ⊢

theorem reloaded_keeps (s : State) : Keeps (.pm :: .hostMem :: passParts) s (reloaded s) := by
  unfold reloaded
  split
  · exact inSlot_keeps _ _ s
  · exact Keeps.refl _ s

theorem reloaded_pt (s : State) : (reloaded s).pt = s.pt := reloaded_keeps s .pt (by decide)

theorem setPtMg_keeps (x : PT) (y : MG) (s : State) : Keeps [.pt, .mg] s { s with pt := x, mg := y } := by
  intro p hp
  cases p <;> simp [samePart] at hp ⊢

/-- What P1 brings: the store room from its shadow, and the end of a fast-clock stop (R147, R415). -/
theorem enterP1_brings (s : State) :
    (enterP1 s).pt.room = (if s.pt.bound && s.pt.shadowOk then s.pt.shadow else []) ∧ (enterP1 s).mg.fastStop = false
      ∧ (enterP1 s).mg.pwr = s.mg.pwr ∧ (enterP1 s).hi = (reloaded s).hi ∧ Keeps (.pt :: .pm :: .hostMem :: passParts) s (enterP1 s) := by
  have room : (enterP1 s).pt.room = if (reloaded s).pt.bound && (reloaded s).pt.shadowOk then (reloaded s).pt.shadow else [] := rfl
  refine ⟨by rw [room, reloaded_pt], rfl, ?_, rfl, ?_⟩
  · exact (show _ = (reloaded s).mg.pwr from rfl).trans (mg_of_logless (f := MG.pwr) (fun _ => rfl) (reloaded_logless s))
  · exact ((reloaded_keeps s).mono (by simp)).trans ((setPtMg_keeps _ _ (reloaded s)).mono (by simp))

theorem inP1_reached (s : State) : (inP1 s).mg.pstate = 1 ∧ (inP1 s).mg.pwr = s.mg.pwr ∧ (inP1 s).mg.fastStop = false
    ∧ (inP1 s).pt.room = (if s.pt.bound && s.pt.shadowOk then s.pt.shadow else []) ∧ (inP1 s).hi.cpls = s.hi.cpls
    ∧ Keeps (.pt :: .pm :: .hostMem :: passParts) s (inP1 s) := by
  obtain ⟨room, stop, pwr, hi, kept⟩ := enterP1_brings s
  have event := stepTo_keeps 1 (enterP1 s)
  have pt : (inP1 s).pt = (enterP1 s).pt := event .pt (by decide)
  refine ⟨stepTo_pstate 1 _, (stepTo_pwr 1 _).trans pwr, (stepTo_fastStop 1 _).trans stop, by rw [pt, room], ?_,
    kept.trans (event.mono (by simp))⟩
  refine (stepTo_hi (f := HI.cpls) (fun _ => rfl) 1 _).trans ?_
  rw [hi]
  exact hi_of_logless (f := HI.cpls) (fun _ => rfl) (reloaded_logless s)

theorem executing_inP1 (op : Nat) (tag : W16) (s : State) : executing op tag (inP1 s) = executing op tag s :=
  (executing_of_logless op tag (stepTo_logless 1 (enterP1 s))).trans
    ((show _ = executing op tag (reloaded s) from rfl).trans (executing_of_logless op tag (reloaded_logless s)))

/-! ### Steps down (Table 16.8) -/

theorem stepDown_p1 {s : State} (target : Nat) (h : s.mg.pstate = 1) : stepDown target s = pwrNext target (stepTo 2 (enterP2 s)) := by
  simp [stepDown, h]

theorem stepDown_p2 {s : State} (target : Nat) (h : s.mg.pstate = 2) : stepDown target s = pwrNext target (stepTo 3 (enterP3 s)) := by
  simp [stepDown, h]

/-- A request over SMBus has no completion to wait for. -/
theorem stepDown_p3 {s : State} {p : Pwr} (target : Nat) (h : s.mg.pstate = 3) (asked : s.mg.pwr = some p) (silent : p.tag = none) :
    stepDown target s = enterP4 (cplWrite (pwrNext target (stepTo 4 s))) := by
  simp [stepDown, h, asked, silent]

theorem stopPll_tb (q : Quad) (s : State) : (stopPll q s).tb.pll = vset s.tb.pll q .off
    ∧ (stopPll q s).tb.guardOpen = if s.tb.guardOpen[q] then vset s.tb.guardOpen q false else s.tb.guardOpen := by
  unfold stopPll
  dsimp only
  split
  · rw [shutGuard_tb]
    exact ⟨rfl, rfl⟩
  · exact ⟨rfl, rfl⟩

theorem stopPll_pll (q r : Quad) (s : State) : (stopPll q s).tb.pll[r] = if r = q then .off else s.tb.pll[r] := by
  rw [(stopPll_tb q s).1]
  by_cases same : r = q
  · rw [if_pos same, same, vset_self]
  · rw [if_neg same, vset_other _ _ (Ne.symm same)]

theorem stopPll_guardOpen (q r : Quad) (s : State) : (stopPll q s).tb.guardOpen[r] = if r = q then false else s.tb.guardOpen[r] := by
  rw [(stopPll_tb q s).2]
  by_cases same : r = q
  · subst same
    rw [if_pos rfl]
    split
    · exact vset_self ..
    · rename_i shut
      exact Bool.eq_false_iff.mpr shut
  · rw [if_neg same]
    split
    · exact vset_other _ _ (Ne.symm same)
    · rfl

theorem stopPll_list (l : List Quad) (r : Quad) (s : State) :
    (l.foldl (fun t q => stopPll q t) s).tb.pll[r] = (if r ∈ l then .off else s.tb.pll[r])
      ∧ (l.foldl (fun t q => stopPll q t) s).tb.guardOpen[r] = if r ∈ l then false else s.tb.guardOpen[r] := by
  induction l generalizing s with
  | nil => exact ⟨rfl, rfl⟩
  | cons q l ih =>
    obtain ⟨pll, guard⟩ := ih (stopPll q s)
    rw [List.foldl_cons, pll, guard, stopPll_pll, stopPll_guardOpen]
    by_cases first : r = q <;> by_cases later : r ∈ l <;> simp [first, later]

/-- All PLLs stopped: off, and their guards closed (R37, R40). -/
theorem stopPlls_off (s : State) (q : Quad) : (stopPlls s).tb.pll[q] = .off ∧ (stopPlls s).tb.guardOpen[q] = false := by
  obtain ⟨pll, guard⟩ := stopPll_list (List.finRange 4) q s
  rw [if_pos (List.mem_finRange q)] at pll guard
  exact ⟨pll, guard⟩

theorem enterP2_loses (s : State) : (enterP2 s).pt.room = [] ∧ (enterP2 s).pm.shelf = []
    ∧ ∀ q : Quad, (enterP2 s).tb.pll[q] = .off ∧ (enterP2 s).tb.guardOpen[q] = false := by
  unfold enterP2
  generalize drainCellar (s.cl.front.length * 1024) s = u
  exact ⟨rfl, rfl, stopPlls_off u⟩

/-- On the way down the next step, or the completion, is no matter of the time base. -/
theorem pwrNext_down_tb {s : State} {target : Nat} (down : s.mg.pstate ≤ target) : (pwrNext target s).tb = s.tb := by
  unfold pwrNext
  split
  · exact pwrAnswer_keeps eOk s .tb (by decide)
  · rename_i more
    rw [beginStep_down (by omega)]
    exact parkOnce_keeps s .tb (by decide)

/-! ### P4 (R386, Table 17.5) -/

@[simp] theorem takesEffect_logless (c : Cpl) (s : State) : logless (takesEffect c s) = logless s := by
  unfold takesEffect
  split
  · rfl
  · simp [clSettings, sqSettings, seqLoaded, streamOpened, trimsInForce, loadTrims]

theorem writeCpl_pstate (c : Cpl) (s : State) : (writeCpl c s).mg.pstate = s.mg.pstate := by
  have signal (t : State) : (cplSignal t).mg = t.mg := by simp [cplSignal]
  rw [writeCpl, signal]
  show (takesEffect c s).mg.pstate = _
  exact mg_of_logless (f := MG.pstate) (fun _ => rfl) (takesEffect_logless c s)

theorem cplWrite_pstate (s : State) : (cplWrite s).mg.pstate = s.mg.pstate := by
  unfold cplWrite
  split
  · rfl
  · split
    · rw [(coreSettle_power _).1, writeCpl_pstate]
    · rfl

/-- The command ring closed. -/
def cmdOff (s : State) : State := if s.hi.cmdSize = 0 then s else closeCmd s

theorem cmdOff_closed (s : State) : (cmdOff s).hi.cmdSize = 0 ∧ (cmdOff s).mg.pstate = s.mg.pstate ∧ (cmdOff s).pt = s.pt := by
  have closed (t : State) : (closeCmd t).hi.cmdSize = 0 ∧ (closeCmd t).mg.pstate = t.mg.pstate ∧ (closeCmd t).pt = t.pt := by
    have event := issue_logless 0x0E05 [i2 (cntDiff t.hi.cmdDb t.hi.cmdHead)] { t with hi := { t.hi with cmdSize := 0, dbLatch := false } }
    have size := hi_of_logless (f := HI.cmdSize) (fun _ => rfl) event
    have state := mg_of_logless (f := MG.pstate) (fun _ => rfl) event
    exact ⟨size, state, by simp [closeCmd]⟩
  unfold cmdOff
  split
  · rename_i shut
    exact ⟨shut, rfl, rfl⟩
  · exact closed s

theorem enterP4_loses (s : State) : (enterP4 s).mg.pstate = s.mg.pstate ∧ (enterP4 s).hi.linkUp = false ∧ (enterP4 s).hi.cmdSize = 0
    ∧ (enterP4 s).hi.cplSize = 0 ∧ (enterP4 s).hi.posted = [] ∧ (enterP4 s).pm.bar2 = [] ∧ (enterP4 s).pt.bound = false := by
  obtain ⟨size, state, pt⟩ := cmdOff_closed (enterP3 s)
  obtain ⟨same, -, -, unbound, -, -⟩ := enterP3_loses s
  exact ⟨state.trans (mg_of_logless (f := MG.pstate) (fun _ => rfl) same), rfl, size, rfl, rfl, rfl, (congrArg PT.bound pt).trans unbound⟩

/-! ### The limit of the acquisition (R40) -/

/-- A guard is open or its quadrant aligns. -/
def gotLock (phase : PllPhase) : Bool := phase == .aligning || phase == .running

/-- The phase of a PLL after the limit. -/
def limited (phase : PllPhase) : PllPhase := if gotLock phase then phase else .off

theorem limited_limited (phase : PllPhase) : limited (limited phase) = limited phase := by cases phase <;> rfl

theorem limited_off : limited .off = .off := rfl

theorem guardOpened_eq (s : State) (q : Quad) : guardOpened s q = gotLock s.tb.pll[q] := rfl

theorem acqFail_pll (s : State) (q r : Quad) : (acqFail s q).tb.pll[r] = if r = q then limited s.tb.pll[r] else s.tb.pll[r] := by
  by_cases stands : guardOpened s q = true ∨ s.tb.pll[q] = .off
  · rw [acqFail, if_pos stands]
    split
    · rename_i same
      subst same
      obtain open_ | off := stands
      · rw [guardOpened_eq] at open_
        rw [limited, if_pos open_]
      · rw [off, limited_off]
    · rfl
  · obtain ⟨open_, -⟩ := not_or.mp stands
    rw [acqFail, if_neg stands]
    refine (stopPll_pll q r _).trans ?_
    rw [(issue_frame _ _ _).1]
    split
    · rename_i same
      subst same
      rw [guardOpened_eq] at open_
      rw [limited, if_neg open_]
    · rfl

theorem acqFail_list (l : List Quad) (r : Quad) (s : State) :
    (l.foldl acqFail s).tb.pll[r] = if r ∈ l then limited s.tb.pll[r] else s.tb.pll[r] := by
  induction l generalizing s with
  | nil => rfl
  | cons q l ih =>
    rw [List.foldl_cons, ih, acqFail_pll]
    by_cases first : r = q
    · simp only [first, List.mem_cons_self, if_true, limited_limited, ite_self]
    · simp only [first, List.mem_cons, false_or, if_false]

@[simp] theorem acqFail_logless (s : State) (q : Quad) : logless (acqFail s q) = logless s := by
  have barred (x : TB) (t : State) : logless { t with tb := x } = logless t := rfl
  unfold acqFail
  split
  · rfl
  · rw [barred, stopPll_logless, issue_logless]

/-- Every PLL whose guard has not opened stopped. -/
def acqFailed (s : State) : State := (List.finRange 4).foldl acqFail s

theorem acqFailed_pll (s : State) (q : Quad) : (acqFailed s).tb.pll[q] = limited s.tb.pll[q] := by
  rw [acqFailed, acqFail_list, if_pos (List.mem_finRange q)]

theorem acqFailed_logless (s : State) : logless (acqFailed s) = logless s := by simp [acqFailed]

theorem pass_pll (n : Nat) (s : State) : (pass n s).tb.pll = s.tb.pll := by
  have wrapped (t : State) : (wrapEffects t).tb.pll = t.tb.pll := by simp [wrapEffects]
  unfold pass
  dsimp only
  split
  · split
    · rfl
    · rw [(passed_frame _).1]
      split
      · exact wrapped _
      · rfl
  · rfl

/-- The instant of the limit. -/
def atLimit (s : State) : State := toTime (s.tb.acqFrom + acqLimit) s

theorem atLimit_pll (s : State) : (atLimit s).tb.pll = s.tb.pll := pass_pll _ s

theorem atLimit_logless (s : State) : logless (atLimit s) = logless s := toTime_logless _ s

theorem raising_of_logless {s t : State} (h : logless t = logless s) : raising t = raising s :=
  mg_of_logless (f := fun x : MG => x.pstate == 2 && (x.pwr.any fun p : Pwr => p.target == 1)) (fun _ => rfl) h

theorem raising_pstate {s : State} (h : raising s = true) : s.mg.pstate = 2 := by
  simp only [raising, Bool.and_eq_true, beq_iff_eq] at h
  exact h.1

theorem exec_acquisitionTimeout {s : State} {q : Quad} (waits : guardOpened s q = false) (runs : raising s = true ∨ s.tb.pll[q] ≠ .off) :
    exec .acquisitionTimeout s = .next (coreSettle (acqTimeout (atLimit s))) := by
  refine congrArg Host.Outcome.next (if_pos (List.any_eq_true.mpr ⟨q, List.mem_finRange q, ?_⟩))
  rw [waits, Bool.not_false, Bool.true_and, Bool.or_eq_true, bne_iff_ne]
  exact runs

theorem acqTimeout_fails {s : State} {q : Quad} (raises : raising s = true) (waits : guardOpened s q = false) :
    acqTimeout s = stopPlls (pwrAnswer eLock (acqFailed s)) := by
  have some_ : ¬ (List.finRange 4).all (guardOpened s) = true := fun all => by
    have := List.all_eq_true.mp all q (List.mem_finRange q)
    rw [waits] at this
    exact Bool.false_ne_true this
  exact if_pos ⟨raises, some_⟩

theorem acqTimeout_stops {s : State} (not : raising s = false) : acqTimeout s = acqFailed s := if_neg (by simp [not])

end Sys2Proof.Machine

open Sys2Proof Sys2Proof.Machine

/-- Settles O7: the command by its target, the steps by the state they leave, and the limit of the acquisition. -/
theorem powerStepsAndAcquisition : Obligations.powerStepsAndAcquisition := by
  unfold Obligations.powerStepsAndAcquisition
  intro completes
  refine ⟨fun s tag e n runs target rest awake free low high idle formed_ cool => ?set, fun s tag e runs rest low high awake free idle => ?recovery,
    fun s p asked up => ⟨fun at3 => ?dram, fun at4 ok => ?link, fun at3 silent => ?untrained, fun tag e at3 command runs => ?memerr,
      fun at2 waits ok => ?waits, fun at2 open_ edge last silent ok => ?p1, fun tag e at2 open_ edge last command runs ok => ?done⟩,
    fun s p ok asked at1 down => ?p2, fun s p ok asked at3 last silent => ?p4, fun s p ok asked at2 down => ?p3,
    fun s raises waits => ?limit, fun s not waits => ?stop⟩
  case set =>
    subst target
    have may : (s.bt.recovery || (formed s && decide (2 ≤ payF e 0 1)) || (decide (payF e 0 1 = 1) && p1Blocked s)) = false := by
      rw [awake]
      simp only [Bool.false_or, Bool.or_eq_false_iff, Bool.and_eq_false_imp, decide_eq_false_iff_not, decide_eq_true_eq]
      exact ⟨fun is => by have := formed_ is; omega, cool⟩
    rw [exec_pwrSet runs, pwrSetCmd_taken free rest low high idle may]
    obtain ⟨pwr, state⟩ := pwrStart_asked (payF e 0 1) (some e.entry.tag) s
    refine ⟨fun same => ?_, fun down => ?_, fun up => ?_⟩
    · rw [if_pos same.symm]
      rfl
    · rw [if_neg (by omega)]
      refine ⟨_, rfl, pwr, ?_, state, ?_⟩
      · rw [pwrStart_down _ down, parkOnce_parked]
      · rw [pwrStart_down _ down]
        exact ((setMg_keeps _ s).mono (by simp)).trans (parkOnce_keeps _)
    · rw [if_neg (by omega)]
      exact ⟨_, rfl, pwr, state, pwrStart_up_keeps _ (by omega)⟩
  case recovery => rw [exec_pwrSet runs, pwrSetCmd_recovery free rest low high idle awake]; rfl
  case dram =>
    obtain ⟨state, -, kept⟩ := stepDone p.target 2 (loseDram s)
    have row := exec_powerStepComplete_up true asked up
    rw [stepUp_p3 _ _ at3, if_pos rfl] at row
    have pm := kept .pm (by decide)
    exact ⟨_, row, state, congrArg PM.dram pm, congrArg PM.dramKnown pm, congrArg PM.dramFree pm, kept .freeCtr (by decide), kept .bt (by decide)⟩
  case link =>
    obtain ⟨state, link, kept⟩ := stepDone p.target 3 (enterP3 { s with hi := { s.hi with linkUp := true } })
    obtain ⟨same, bt, -, unbound, -, -⟩ := enterP3_loses { s with hi := { s.hi with linkUp := true } }
    have row := exec_powerStepComplete_up ok asked up
    rw [stepUp_p4 _ _ at4] at row
    exact ⟨_, row, state, link.trans (hi_of_logless (f := HI.linkUp) (fun _ => rfl) same),
      (congrArg PT.bound (kept .pt (by decide))).trans unbound, (kept .bt (by decide)).trans bt⟩
  case untrained =>
    rw [exec_powerStepComplete_up false asked up, stepUp_p3 _ _ at3, if_neg (by decide), pwrAnswer_silent _ asked silent]
    rfl
  case memerr =>
    rw [exec_powerStepComplete_up false asked up, stepUp_p3 _ _ at3, if_neg (by decide), pwrAnswer_command _ asked command runs]
    rfl
  case waits =>
    rw [exec_powerStepComplete_up ok asked up, stepUp_p2 _ _ at2, if_neg (by simpa using waits)]
  case p1 =>
    obtain ⟨state, pwr, stop, room, -, kept⟩ := inP1_reached s
    have row := exec_powerStepComplete_up ok asked up
    rw [stepUp_p2 _ _ at2, if_pos ⟨open_, edge⟩, last, pwrNext_last state,
      pwrAnswer_silent eOk (pwr.trans asked) silent] at row
    obtain ⟨state', pwr', stop'⟩ := coreSettle_power (pwrEnded (inP1 s))
    refine ⟨_, row, state'.trans state, pwr', stop'.trans stop, ?_, ?_⟩
    · exact (congrArg PT.room (coreSettle_keeps (pwrEnded (inP1 s)) .pt (by decide))).trans room
    · exact (kept.trans ((setMg_keeps _ _).mono (by simp))).trans ((coreSettle_keeps _).mono (by simp))
  case done =>
    obtain ⟨state, pwr, -, -, cpls, -⟩ := inP1_reached s
    have row := exec_powerStepComplete_up ok asked up
    rw [stepUp_p2 _ _ at2, if_pos ⟨open_, edge⟩, last, pwrNext_last state,
      pwrAnswer_command eOk (pwr.trans asked) command ((executing_inP1 _ _ s).trans runs)] at row
    obtain ⟨state', pwr', -⟩ := coreSettle_power (answer e eOk [] (pwrEnded (inP1 s)))
    have hi := coreSettle_keeps (answer e eOk [] (pwrEnded (inP1 s))) .hi (by decide)
    refine ⟨_, row, state'.trans state, pwr', (congrArg HI.cpls hi).trans ?_⟩
    rw [answer_cpls]
    exact congrArg (· ++ [completes e 0]) cpls
  case p2 =>
    have row := exec_powerStepComplete_down ok asked (by omega)
    rw [stepDown_p1 _ at1] at row
    obtain ⟨state, -, kept⟩ := stepDone p.target 2 (enterP2 s)
    obtain ⟨room, shelf, off⟩ := enterP2_loses s
    have tb : (coreSettle (pwrNext p.target (stepTo 2 (enterP2 s)))).tb = (enterP2 s).tb :=
      (coreSettle_keeps _ .tb (by decide)).trans ((pwrNext_down_tb (by rw [stepTo_pstate]; omega)).trans (stepTo_keeps 2 _ .tb (by decide)))
    refine ⟨_, row, state, (congrArg PT.room (kept .pt (by decide))).trans room, (congrArg PM.shelf (kept .pm (by decide))).trans shelf, fun q => ?_⟩
    rw [tb]
    exact off q
  case p4 =>
    have row := exec_powerStepComplete_down ok asked (by omega)
    rw [stepDown_p3 _ at3 asked silent] at row
    generalize hv : cplWrite (pwrNext p.target (stepTo 4 s)) = v at row
    have at4 : v.mg.pstate = 4 := by rw [← hv, cplWrite_pstate, (pwrNext_reached _ _).1, stepTo_pstate]
    obtain ⟨state, link, cmd, cpl, posted, bar2, unbound⟩ := enterP4_loses v
    obtain ⟨state', -, -⟩ := coreSettle_power (enterP4 v)
    have settled := coreSettle_keeps (enterP4 v)
    have hi := settled .hi (by decide)
    exact ⟨_, row, state'.trans (state.trans at4), (congrArg HI.linkUp hi).trans link, (congrArg HI.cmdSize hi).trans cmd,
      (congrArg HI.cplSize hi).trans cpl, (congrArg HI.posted hi).trans posted, (congrArg PM.bar2 (settled .pm (by decide))).trans bar2,
      (congrArg PT.bound (settled .pt (by decide))).trans unbound⟩
  case p3 =>
    have row := exec_powerStepComplete_down ok asked (by omega)
    rw [stepDown_p2 _ at2] at row
    obtain ⟨state, -, kept⟩ := stepDone p.target 3 (enterP3 s)
    obtain ⟨-, bt, dram, unbound, unloaded, shut⟩ := enterP3_loses s
    exact ⟨_, row, state, (congrArg PM.dram (kept .pm (by decide))).trans dram, (congrArg PT.bound (kept .pt (by decide))).trans unbound,
      (congrArg SQ.loaded (kept .sq (by decide))).trans unloaded, (congrArg CS.open_ (kept .cs (by decide))).trans shut,
      (kept .bt (by decide)).trans bt⟩
  case limit =>
    obtain ⟨q, waits⟩ := waits
    have raises' : raising (atLimit s) = true := (raising_of_logless (atLimit_logless s)).trans raises
    have waits' : guardOpened (atLimit s) q = false := by rw [guardOpened_eq, atLimit_pll]; exact waits
    have same : logless (acqFailed (atLimit s)) = logless s := (acqFailed_logless _).trans (atLimit_logless s)
    have row := exec_acquisitionTimeout waits (.inl raises)
    rw [acqTimeout_fails raises' waits'] at row
    generalize hv : acqFailed (atLimit s) = v at row same
    have stopped := stopPlls_logless (pwrAnswer eLock v)
    obtain ⟨state, pwr, -⟩ := coreSettle_power (stopPlls (pwrAnswer eLock v))
    have settled := coreSettle_keeps (stopPlls (pwrAnswer eLock v))
    have ended : (stopPlls (pwrAnswer eLock v)).mg.pwr = none :=
      (mg_of_logless (f := MG.pwr) (fun _ => rfl) stopped).trans (by rw [pwrAnswer_mg])
    have at2 : (stopPlls (pwrAnswer eLock v)).mg.pstate = 2 := by
      rw [mg_of_logless (f := MG.pstate) (fun _ => rfl) stopped, pwrAnswer_mg]
      exact (mg_of_logless (f := MG.pstate) (fun _ => rfl) same).trans (raising_pstate raises)
    have tb := settled .tb (by decide)
    refine ⟨_, row, pwr.trans ended, state.trans at2, fun q => ?_, fun q => ?_, fun tag e asked runs => ?_⟩
    · rw [tb]
      exact (stopPlls_off _ q).1
    · rw [tb]
      exact (stopPlls_off _ q).2
    · obtain ⟨p, standing, command⟩ := Option.map_eq_some_iff.mp asked
      have asked' : v.mg.pwr = some p := (mg_of_logless (f := MG.pwr) (fun _ => rfl) same).trans standing
      refine (congrArg HI.cpls (settled .hi (by decide))).trans ((hi_of_logless (f := HI.cpls) (fun _ => rfl) stopped).trans ?_)
      rw [pwrAnswer_command eLock asked' command ((executing_of_logless _ _ same).trans runs), answer_cpls]
      have cpls := hi_of_logless (f := HI.cpls) (fun _ => rfl) same
      exact congrArg (· ++ [completes e 11]) cpls
  case stop =>
    obtain ⟨q, waits, runs⟩ := waits
    have not' : raising (atLimit s) = false := (raising_of_logless (atLimit_logless s)).trans not
    refine ⟨_, (exec_acquisitionTimeout waits (.inr runs)).trans (congrArg _ (congrArg _ (acqTimeout_stops not'))), fun r => ?_⟩
    rw [coreSettle_keeps (acqFailed (atLimit s)) .tb (by decide), acqFailed_pll, atLimit_pll]
    rfl
end

section
/-! SUPPORT. The time-interval units: what an operation on one unit leaves of the others, gates by `TGATE` requests and by `GATE_IN` edges, the end of
a calibration and the overflow of a shot (R302 to R311), and the statement on them. -/

namespace Sys2Proof.Machine

open Sys2Proof

/-! ### One unit changed -/

theorem updTiu_self (g : Glove) (f : Tiu → Tiu) (s : State) : (updTiu g f s).ti.units[g] = f s.ti.units[g] := vupd_self ..

theorem updTiu_other {g k : Glove} (f : Tiu → Tiu) (s : State) (other : k ≠ g) : (updTiu g f s).ti.units[k] = s.ti.units[k] :=
  vupd_other _ f (Ne.symm other)

theorem updTiu_recent (g : Glove) (f : Tiu → Tiu) (s : State) : (updTiu g f s).ti.recent = s.ti.recent := rfl

theorem updTiu_keeps (g : Glove) (f : Tiu → Tiu) (s : State) : Keeps [.ti] s (updTiu g f s) := setTi_keeps _ s

/-- An event is no matter of the units. -/
theorem issue_ti (code : Nat) (items : List Item) (s : State) : (issue code items s).ti = s.ti := by simp

/-- An operation that changes no unit but one, adds no ended shot and moves no gate line. -/
structure OnlyUnit (g : Glove) (s t : State) : Prop where
  units : ∀ k : Glove, k ≠ g → t.ti.units[k] = s.ti.units[k]
  recent : ∀ x ∈ t.ti.recent, x ∈ s.ti.recent
  gateIn : t.ti.gateIn = s.ti.gateIn

theorem OnlyUnit.refl (g : Glove) (s : State) : OnlyUnit g s s := ⟨fun _ _ => rfl, fun _ h => h, rfl⟩

theorem OnlyUnit.trans {g : Glove} {s t u : State} (h : OnlyUnit g s t) (k : OnlyUnit g t u) : OnlyUnit g s u where
  units := fun i hi => (k.units i hi).trans (h.units i hi)
  recent := fun x hx => h.recent x (k.recent x hx)
  gateIn := k.gateIn.trans h.gateIn

theorem OnlyUnit.of_ti {g : Glove} {s t : State} (h : t.ti = s.ti) : OnlyUnit g s t where
  units := fun k _ => by rw [h]
  recent := fun x hx => by rwa [h] at hx
  gateIn := by rw [h]

theorem onlyUnit_updTiu (g : Glove) (f : Tiu → Tiu) (s : State) : OnlyUnit g s (updTiu g f s) :=
  ⟨fun _ other => updTiu_other f s other, fun _ h => h, rfl⟩

theorem onlyUnit_issue (g : Glove) (code : Nat) (items : List Item) (s : State) : OnlyUnit g s (issue code items s) :=
  .of_ti (issue_ti code items s)

theorem onlyUnit_foldl {α : Type} {g : Glove} {f : State → α → State} {l : List α} (h : ∀ t, ∀ x ∈ l, OnlyUnit g t (f t x)) (s : State) :
    OnlyUnit g s (l.foldl f s) := by
  induction l generalizing s with
  | nil => exact .refl g s
  | cons x l ih =>
    exact (h s x List.mem_cons_self).trans (ih (fun t y hy => h t y (List.mem_cons_of_mem x hy)) (f s x))

/-! ### Shots that end -/

/-- A unit has said an event: in this run under a `TGATE` gate, since its last clear under a `GATE_IN` gate (R319). -/
def hasSaid (u : Tiu) (code : Nat) : Bool := (if u.gate = 0 then u.saidRun else u.said).contains code

/-- A unit with an event said. -/
def withSaid (code : Nat) (u : Tiu) : Tiu := { u with said := u.said ++ [code], saidRun := u.saidRun ++ [code] }

theorem tiuSayOnce_eq (g : Glove) (code : Nat) (start : Int) (s : State) : tiuSayOnce g code start s =
    if hasSaid s.ti.units[g] code then s else issue code [i1 g.val, i8 (unsgn 64 start)] (updTiu g (withSaid code) s) := rfl

theorem onlyUnit_tiuSayOnce (g : Glove) (code : Nat) (start : Int) (s : State) : OnlyUnit g s (tiuSayOnce g code start s) := by
  rw [tiuSayOnce_eq]
  split
  · exact .refl g s
  · exact (onlyUnit_updTiu g _ s).trans (onlyUnit_issue g _ _ _)

/-- A unit without what it has said. -/
def unsaid (u : Tiu) : Tiu := { u with said := [], saidRun := [] }

/-- An event of a unit changes nothing of it but what it has said (R319). -/
theorem tiuSayOnce_unsaid (g : Glove) (code : Nat) (start : Int) (s : State) :
    unsaid (tiuSayOnce g code start s).ti.units[g] = unsaid s.ti.units[g] := by
  rw [tiuSayOnce_eq]
  by_cases already : hasSaid s.ti.units[g] code = true
  · rw [if_pos already]
  · rw [if_neg already, issue_ti, updTiu_self]
    rfl

/-- What a unit has said is no matter of the rest of it. -/
theorem eq_of_unsaid {α : Type} {f : Tiu → α} (outside : ∀ u, f (unsaid u) = f u) {u v : Tiu} (h : unsaid u = unsaid v) : f u = f v :=
  (outside u).symm.trans ((congrArg f h).trans (outside v))

theorem onlyUnit_tiuCheckDone (g : Glove) (s : State) : OnlyUnit g s (tiuCheckDone g s) := by
  unfold tiuCheckDone
  dsimp only
  split
  · exact (onlyUnit_updTiu g _ s).trans (onlyUnit_issue g _ _ _)
  · exact .refl g s

theorem onlyUnit_countShot (g : Glove) (start stop : Int) (s : State) : OnlyUnit g s (countShot g start stop s) := by
  unfold countShot
  dsimp only
  refine .trans ?_ (onlyUnit_tiuCheckDone g _)
  split
  · exact onlyUnit_updTiu g _ s
  · exact (onlyUnit_updTiu g _ s).trans (.of_ti rfl)

/-- A unit with one overflow more. -/
def overCounted (g : Glove) (s : State) : State := updTiu g (tiuSet fun x => { x with ovr := satSucc 0xFFFFFFFF x.ovr }) s

/-- The overflow counted and flagged, before it is said. -/
def overNoted (g : Glove) (s : State) : State :=
  { overCounted g s with ti := { (overCounted g s).ti with
      ovr := true, fresh := freshen (overCounted g s) 1 (overCounted g s).ti.fresh } }

theorem countOver_eq (g : Glove) (start : Int) (s : State) : countOver g start s = tiuSayOnce g 0x0B03 start (overNoted g s) := rfl

theorem onlyUnit_countOver (g : Glove) (start : Int) (s : State) : OnlyUnit g s (countOver g start s) := by
  have noted : OnlyUnit g (overCounted g s) (overNoted g s) := ⟨fun _ _ => rfl, fun _ h => h, rfl⟩
  exact ((onlyUnit_updTiu g _ s).trans noted).trans (onlyUnit_tiuSayOnce g _ _ _)

theorem onlyUnit_countEnded (s : State) (x : EndedShot) : OnlyUnit x.tiu s (countEnded s x) := by
  unfold countEnded
  split
  · exact onlyUnit_countOver ..
  · exact onlyUnit_countShot ..

/-- Ended shots taken from those that wait. -/
theorem onlyUnit_recent (g : Glove) (f : EndedShot → Bool) (s : State) :
    OnlyUnit g s { s with ti := { s.ti with recent := s.ti.recent.filter f } } :=
  ⟨fun _ _ => rfl, fun _ h => List.mem_of_mem_filter h, rfl⟩

theorem onlyUnit_tiuSettle (g : Glove) (s : State) : OnlyUnit g s (tiuSettle (fun x => x.tiu == g) s) := by
  refine (onlyUnit_recent g _ s).trans (onlyUnit_foldl (fun t x hx => ?_) _)
  have mine : x.tiu = g := by simpa using List.of_mem_filter hx
  exact mine ▸ onlyUnit_countEnded t x

theorem onlyUnit_tiuNoStop (g : Glove) (s : State) : OnlyUnit g s (tiuNoStop g s) := by
  unfold tiuNoStop
  split
  · exact .refl g s
  · exact (onlyUnit_updTiu g _ s).trans (onlyUnit_tiuSayOnce g _ _ _)

/-- A unit has no shot in progress once it has ended as no stop. -/
theorem tiuNoStop_shot (g : Glove) (s : State) : (tiuNoStop g s).ti.units[g].shot = none := by
  unfold tiuNoStop
  split
  · assumption
  · refine (eq_of_unsaid (f := Tiu.shot) (fun _ => rfl) (tiuSayOnce_unsaid g _ _ _)).trans ?_
    rw [updTiu_self, tiuSet]
    split <;> rfl

/-- A shot in progress that ends as no stop counts in the committed set where none is held (R302, R310). -/
theorem tiuNoStop_com {g : Glove} {s : State} {st : Int} {k : Nat} (runs : s.ti.units[g].shot = some (st, k)) (held : s.ti.units[g].held = none) :
    (tiuNoStop g s).ti.units[g].com = { s.ti.units[g].com with noStop := min 0xFFFFFFFF (s.ti.units[g].com.noStop + 1) } := by
  rw [tiuNoStop, runs]
  refine (eq_of_unsaid (f := Tiu.com) (fun _ => rfl) (tiuSayOnce_unsaid g _ _ _)).trans ?_
  rw [updTiu_self, tiuSet]
  simp only [held]
  rfl

/-! ### Gates that close (R302, R306, R307) -/

theorem onlyUnit_tiuClose (g : Glove) (s : State) : OnlyUnit g s (tiuClose g s) := by
  unfold tiuClose
  split
  · exact ((onlyUnit_tiuSettle g s).trans (onlyUnit_tiuNoStop g _)).trans (onlyUnit_updTiu g _ _)
  · exact .refl g s

theorem tiuClose_closed {g : Glove} {s : State} (open_ : s.ti.units[g].gopen = true) :
    (tiuClose g s).ti.units[g].gopen = false ∧ (tiuClose g s).ti.units[g].shot = none ∧ (tiuClose g s).ti.units[g].ready = none := by
  rw [tiuClose, if_pos open_, updTiu_self]
  exact ⟨rfl, tiuNoStop_shot g _, rfl⟩

theorem onlyUnit_tiuJudge (e : Int) (s : State) (x : EndedShot) : OnlyUnit x.tiu s (tiuJudge e s x) := by
  unfold tiuJudge
  split
  · exact onlyUnit_countEnded s x
  · split
    · exact (onlyUnit_updTiu x.tiu _ s).trans (onlyUnit_tiuSayOnce x.tiu _ _ _)
    · exact .refl _ s

/-- The state in which a closing gate's ended shots are judged. -/
def shotsJudged (g : Glove) (e : Int) (s : State) : State :=
  (s.ti.recent.filter fun x => x.tiu == g).foldl (tiuJudge e) { s with ti := { s.ti with recent := s.ti.recent.filter fun x => x.tiu != g } }

/-- The state in which a closing gate's shot in progress has ended, or has never been. -/
def shotEnded (g : Glove) (e : Int) (s : State) : State :=
  if (s.ti.units[g].shot.map fun x => decide (e < x.1)).getD false then updTiu g (fun u => { u with shot := none }) s else tiuNoStop g s

theorem tiuCloseAt_open {g : Glove} {s : State} (e : Int) (open_ : s.ti.units[g].gopen = true) : tiuCloseAt g e s =
    updTiu g (fun u => { tiuUncal e u with gopen := false, ready := none, calAt := none }) (shotEnded g e (shotsJudged g e s)) := if_pos open_

theorem onlyUnit_tiuCloseAt (g : Glove) (e : Int) (s : State) : OnlyUnit g s (tiuCloseAt g e s) := by
  by_cases open_ : s.ti.units[g].gopen = true
  · rw [tiuCloseAt_open e open_]
    have judged : OnlyUnit g s (shotsJudged g e s) := by
      refine (onlyUnit_recent g _ s).trans (onlyUnit_foldl (fun t x hx => ?_) _)
      have mine : x.tiu = g := by simpa using List.of_mem_filter hx
      exact mine ▸ onlyUnit_tiuJudge e t x
    have ended (t : State) : OnlyUnit g t (shotEnded g e t) := by
      unfold shotEnded
      split
      · exact onlyUnit_updTiu g _ t
      · exact onlyUnit_tiuNoStop g t
    exact (judged.trans (ended _)).trans (onlyUnit_updTiu g _ _)
  · rw [tiuCloseAt, if_neg open_]
    exact .refl g s

theorem tiuCloseAt_closed (g : Glove) (e : Int) (s : State) : (tiuCloseAt g e s).ti.units[g].gopen = false := by
  by_cases open_ : s.ti.units[g].gopen = true
  · rw [tiuCloseAt_open e open_, updTiu_self]
  · rw [tiuCloseAt, if_neg open_]
    exact Bool.eq_false_iff.mpr open_

/-- The undone calibration of a gate is no matter of its shots and counts. -/
theorem tiuUncal_shots (e : Int) (u : Tiu) : (tiuUncal e u).shot = u.shot ∧ (tiuUncal e u).com = u.com := by
  unfold tiuUncal
  split
  · split <;> exact ⟨rfl, rfl⟩
  · exact ⟨rfl, rfl⟩

/-- A closing edge takes a shot in progress: it ends as no stop where it had begun by the edge, else it never was (R302, R307). -/
theorem tiuCloseAt_shot {g : Glove} {s : State} {st : Int} {k : Nat} (e : Int) (open_ : s.ti.units[g].gopen = true)
    (held : s.ti.units[g].held = none) (none_ : ∀ x ∈ s.ti.recent, x.tiu ≠ g) (runs : s.ti.units[g].shot = some (st, k)) :
    (tiuCloseAt g e s).ti.units[g].shot = none ∧ (tiuCloseAt g e s).ti.units[g].com =
      if st ≤ e then { s.ti.units[g].com with noStop := min 0xFFFFFFFF (s.ti.units[g].com.noStop + 1) } else s.ti.units[g].com := by
  have mine : s.ti.recent.filter (fun x => x.tiu == g) = [] := List.filter_eq_nil_iff.mpr fun x hx => by simpa using none_ x hx
  generalize hv : shotsJudged g e s = v
  have same : v.ti.units = s.ti.units := by rw [← hv, shotsJudged, mine]; rfl
  have late : (v.ti.units[g].shot.map fun x => decide (e < x.1)).getD false = decide (e < st) := by rw [same, runs]; rfl
  rw [tiuCloseAt_open e open_, updTiu_self, hv]
  obtain ⟨shot, com⟩ := tiuUncal_shots e (shotEnded g e v).ti.units[g]
  refine ⟨shot.trans ?_, com.trans ?_⟩
  all_goals rw [shotEnded, late]
  · split
    · rw [updTiu_self]
    · exact tiuNoStop_shot g v
  · by_cases before : st ≤ e
    · rw [if_neg (by simpa using before), if_pos before, tiuNoStop_com (by rw [same, runs]) (by rw [same, held]), same]
    · rw [if_pos (by simpa using before), if_neg before, updTiu_self, same]

/-! ### Requests of a carrier (R306) -/

/-- The mask of one bit. -/
theorem maskBits_single (g : Glove) : maskBits 64 (1#64 <<< g.val).toNat = [g] := by
  revert g
  decide

theorem maskBits_zero : maskBits 64 (0 : BitVec 64).toNat = [] := by decide

theorem single_ne_zero (g : Glove) : (1#64 <<< g.val) ≠ 0 := by
  revert g
  decide

/-- The state in which the only waiting carrier's `TGATE` requests act. -/
def tgateTaken (a : Act) (s : State) : State := takeAct a (fun r => { r with topen := 0, tclose := 0 }) (toEpoch a.due s)

theorem exec_tgateAct {s : State} {a : Act} (only : s.sq.acts = [a]) (asks : a.reqs.topen ≠ 0 ∨ a.reqs.tclose ≠ 0) :
    exec .tgateAct s = .next ((maskBits 64 a.reqs.topen.toNat).foldl (tgateOpen a)
      ((maskBits 64 a.reqs.tclose.toNat).foldl tgateClose (tgateTaken a s))) := by
  have first : firstAct (fun a => a.reqs.topen != 0 || a.reqs.tclose != 0) s.sq.acts = some a := by
    rw [only]
    exact firstAct_singleton (by simpa using asks)
  show execTgateAct s = _
  rw [execTgateAct, first]
  rfl

theorem tiuOpen_unit (ago : Nat) (g : Glove) (s : State) : (tiuOpen ago g s).ti.units[g] = { s.ti.units[g] with
    gopen := true, ready := none, calWas := none, shot := none, lastStop := none
    calAt := if s.tb.guardOpen[quadOfGlove g] then some (s.tb.now + 8192000 - ago) else none } := updTiu_self g _ s

theorem onlyUnit_tiuOpen (ago : Nat) (g : Glove) (s : State) : OnlyUnit g s (tiuOpen ago g s) := onlyUnit_updTiu g _ s

theorem tiuOpen_keeps (ago : Nat) (g : Glove) (s : State) : Keeps [.ti] s (tiuOpen ago g s) := updTiu_keeps g _ s

theorem tgateClose_tgate {g : Glove} {s : State} (gate : s.ti.units[g].gate = 0) : tgateClose s g = tiuClose g s := if_neg (not_not.mpr gate)

theorem tgateOpen_tgate {a : Act} {g : Glove} {s : State} (gate : s.ti.units[g].gate = 0) (shut : s.ti.units[g].gopen = false)
    (held : s.ti.units[g].held = none) (sure : a.conds = []) : tgateOpen a s g = tiuOpen 0 g s := by
  rw [tgateOpen]
  dsimp only
  rw [if_neg (by rw [gate]; decide), if_neg (by rw [held]; decide), if_neg (by rw [shut]; decide), sure]
  rfl

/-! ### `GATE_IN` edges (R53, R307, R308) -/

/-- A fold over distinct units: what it makes of one of them is what its step for it makes, from a state with the unit as it was. -/
theorem foldl_units {f : State → Glove → State} (apart : ∀ t g, OnlyUnit g t (f t g)) {P : State → Prop} (keeps : ∀ t g, P t → P (f t g))
    {g : Glove} {l : List Glove} (distinct : l.Nodup) (mem : g ∈ l) {s : State} (holds : P s) :
    ∃ t, P t ∧ t.ti.units[g] = s.ti.units[g] ∧ (∀ x ∈ t.ti.recent, x ∈ s.ti.recent) ∧ (l.foldl f s).ti.units[g] = (f t g).ti.units[g] := by
  have others : ∀ (l : List Glove) (s : State), g ∉ l → (l.foldl f s).ti.units[g] = s.ti.units[g] := fun l => by
    induction l with
    | nil => exact fun _ _ => rfl
    | cons j l ih =>
      intro s hg
      exact (ih (f s j) (List.not_mem_of_not_mem_cons hg)).trans ((apart s j).units g (List.ne_of_not_mem_cons hg))
  induction l generalizing s with
  | nil => exact absurd mem List.not_mem_nil
  | cons j l ih =>
    obtain ⟨fresh, distinct⟩ := List.nodup_cons.mp distinct
    obtain rfl | later := List.mem_cons.mp mem
    · exact ⟨s, holds, rfl, fun _ h => h, others l _ fresh⟩
    · obtain ⟨t, ht, unit, recent, fold⟩ := ih distinct later (keeps s j holds)
      have other : g ≠ j := fun same => fresh (same ▸ later)
      exact ⟨t, ht, unit.trans ((apart s j).units g other), fun x hx => (apart s j).recent x (recent x hx), fold⟩

theorem foldl_partKeeps {α : Type} {f : State → α → State} {m : List Part} (h : ∀ t x, Keeps m t (f t x)) (l : List α) (s : State) :
    Keeps m s (l.foldl f s) := by
  induction l generalizing s with
  | nil => exact Keeps.refl m s
  | cons x l ih => exact (h s x).trans (ih _)

theorem gateInTiu_ungated {line : Fin 4} {g : Glove} {s : State} (rise : Bool) (other : s.ti.units[g].gate ≠ line.val + 1) :
    gateInTiu line rise s g = s := if_pos other

/-- A unit that its gate line no longer bars. -/
def unbarred (g : Glove) (s : State) : State := updTiu g (fun x => { x with barred := false }) s

theorem gateInTiu_rise {line : Fin 4} {g : Glove} {s : State} (mine : s.ti.units[g].gate = line.val + 1) (free : s.mg.contained = false) :
    gateInTiu line true s g = if s.ti.units[g].gopen then unbarred g s else tiuOpen 24576 g (unbarred g s) := by
  rw [gateInTiu]
  dsimp only
  rw [if_neg (not_not.mpr mine), if_pos rfl, if_neg (by simp [free])]
  rfl

theorem gateInTiu_fall {line : Fin 4} {g : Glove} {s : State} (mine : s.ti.units[g].gate = line.val + 1) :
    gateInTiu line false s g = tiuCloseAt g (recorded s) s := by
  rw [gateInTiu]
  dsimp only
  rw [if_neg (not_not.mpr mine), if_neg Bool.false_ne_true]

theorem onlyUnit_gateInTiu (line : Fin 4) (rise : Bool) (s : State) (g : Glove) : OnlyUnit g s (gateInTiu line rise s g) := by
  unfold gateInTiu
  dsimp only
  split
  · exact .refl g s
  · split
    · split
      · exact .refl g s
      · split
        · exact onlyUnit_updTiu g _ s
        · exact (onlyUnit_updTiu g _ s).trans (onlyUnit_tiuOpen _ g _)
    · exact onlyUnit_tiuCloseAt g _ s

theorem gateInTiu_rise_keeps (line : Fin 4) (s : State) (g : Glove) : Keeps [.ti] s (gateInTiu line true s g) := by
  unfold gateInTiu
  dsimp only
  split
  · exact Keeps.refl _ s
  · rw [if_pos rfl]
    split
    · exact Keeps.refl _ s
    · split
      · exact updTiu_keeps g _ s
      · exact (updTiu_keeps g _ s).trans (tiuOpen_keeps _ g _)

/-- What the judgement of shots can change. -/
abbrev shotParts : List Part := [.ti, .hi, .mg, .freeCtr]

theorem tiuCloseAt_keeps (g : Glove) (e : Int) (s : State) : Keeps shotParts s (tiuCloseAt g e s) := by
  have judge (t : State) (x : EndedShot) : Keeps shotParts t (tiuJudge e t x) := by
    intro p hp
    unfold tiuJudge
    cases p <;> simp [samePart] at hp ⊢
  by_cases open_ : s.ti.units[g].gopen = true
  · rw [tiuCloseAt_open e open_]
    have judged : Keeps shotParts s (shotsJudged g e s) := ((setTi_keeps _ s).mono (by simp)).trans (foldl_partKeeps judge _ _)
    have ended (t : State) : Keeps shotParts t (shotEnded g e t) := by
      intro p hp
      unfold shotEnded
      cases p <;> simp [samePart] at hp ⊢
    exact (judged.trans (ended _)).trans ((updTiu_keeps g _ _).mono (by simp))
  · rw [tiuCloseAt, if_neg open_]
    exact Keeps.refl _ s

theorem gateInTiu_fall_keeps (line : Fin 4) (s : State) (g : Glove) : Keeps shotParts s (gateInTiu line false s g) := by
  by_cases mine : s.ti.units[g].gate = line.val + 1
  · rw [gateInTiu_fall mine]
    exact tiuCloseAt_keeps g _ s
  · rw [gateInTiu_ungated false mine]
    exact Keeps.refl _ s

/-- The level of a `GATE_IN` line moved. -/
def lineMoved (line : Fin 4) (rise : Bool) (s : State) : State := { s with ti := { s.ti with gateIn := vset s.ti.gateIn line rise } }

/-- What an edge of a line does to the gates. -/
def gatesMoved (line : Fin 4) (rise : Bool) (s : State) : State := (List.finRange 64).foldl (gateInTiu line rise) (lineMoved line rise s)

theorem exec_gateInEdge (line : Fin 4) (rise : Bool) (s : State) :
    exec (.gateInEdge line rise) s = .next (if s.ti.gateIn[line] = rise then s else gatesMoved line rise s) := rfl

/-- An edge moves the level of its line. -/
theorem gatesMoved_line (line : Fin 4) (rise : Bool) (s : State) : (gatesMoved line rise s).ti.gateIn[line] = rise := by
  have kept (l : List Glove) (t : State) : (l.foldl (gateInTiu line rise) t).ti.gateIn = t.ti.gateIn :=
    foldl_keeps (fun s => s.ti.gateIn) (fun t g => (onlyUnit_gateInTiu line rise t g).gateIn) l t
  rw [gatesMoved, kept]
  exact vset_self ..

/-- What an edge makes of a unit, from a state whose time base, containment and ended shots are those before it. -/
theorem gatesMoved_unit (line : Fin 4) (rise : Bool) (g : Glove) (s : State) : ∃ t : State, t.tb = s.tb ∧ (rise = true → t.mg = s.mg)
    ∧ t.ti.units[g] = s.ti.units[g] ∧ (∀ x ∈ t.ti.recent, x ∈ s.ti.recent)
    ∧ (gatesMoved line rise s).ti.units[g] = (gateInTiu line rise t g).ti.units[g] := by
  have keeps (t : State) (k : Glove) (h : t.tb = s.tb ∧ (rise = true → t.mg = s.mg)) :
      (gateInTiu line rise t k).tb = s.tb ∧ (rise = true → (gateInTiu line rise t k).mg = s.mg) := by
    obtain ⟨tb, mg⟩ := h
    cases rise
    case false => exact ⟨(gateInTiu_fall_keeps line t k .tb (by decide)).trans tb, fun h => absurd h Bool.false_ne_true⟩
    case true =>
      have kept := gateInTiu_rise_keeps line t k
      exact ⟨(kept .tb (by decide)).trans tb, fun h => (kept .mg (by decide)).trans (mg h)⟩
  obtain ⟨t, ⟨tb, mg⟩, unit, recent, fold⟩ := foldl_units (f := gateInTiu line rise)
    (P := fun t => t.tb = s.tb ∧ (rise = true → t.mg = s.mg)) (fun t k => onlyUnit_gateInTiu line rise t k) keeps (List.nodup_finRange 64)
    (List.mem_finRange g) (s := lineMoved line rise s) ⟨rfl, fun _ => rfl⟩
  rw [gatesMoved]
  exact ⟨t, tb, mg, unit, recent, fold⟩

theorem gatesMoved_ungated {line : Fin 4} {g : Glove} {s : State} (rise : Bool) (other : s.ti.units[g].gate ≠ line.val + 1) :
    (gatesMoved line rise s).ti.units[g] = s.ti.units[g] := by
  obtain ⟨t, -, -, unit, -, fold⟩ := gatesMoved_unit line rise g s
  rw [fold, gateInTiu_ungated rise (by rw [unit]; exact other), unit]

/-- A rising edge opens the gates of its line. -/
theorem gatesMoved_rise {line : Fin 4} {g : Glove} {s : State} (mine : s.ti.units[g].gate = line.val + 1) (free : s.mg.contained = false) :
    (gatesMoved line true s).ti.units[g].gopen = true ∧ (gatesMoved line true s).ti.units[g].barred = false
      ∧ (s.ti.units[g].gopen = false → (gatesMoved line true s).ti.units[g].calAt =
        if s.tb.guardOpen[quadOfGlove g] then some (s.tb.now + 8192000 - 24576) else none) := by
  obtain ⟨t, tb, mg, unit, -, fold⟩ := gatesMoved_unit line true g s
  have bar : (unbarred g t).ti.units[g] = { t.ti.units[g] with barred := false } := updTiu_self g _ t
  have tb' : (unbarred g t).tb = s.tb := tb
  rw [fold, gateInTiu_rise (by rw [unit, mine]) (by rw [mg rfl, free]), unit]
  cases open_ : s.ti.units[g].gopen
  case true =>
    rw [if_pos rfl, bar, unit]
    exact ⟨open_, rfl, fun h => absurd h.symm Bool.false_ne_true⟩
  case false =>
    rw [if_neg Bool.false_ne_true, tiuOpen_unit, bar, tb']
    exact ⟨rfl, rfl, fun _ => rfl⟩

/-- A falling edge closes them at its recorded epoch. -/
theorem gatesMoved_fall {line : Fin 4} {g : Glove} {s : State} (mine : s.ti.units[g].gate = line.val + 1) :
    ∃ t : State, t.ti.units[g] = s.ti.units[g] ∧ (∀ x ∈ t.ti.recent, x ∈ s.ti.recent)
      ∧ (gatesMoved line false s).ti.units[g] = (tiuCloseAt g ((ext s : Int) - 24576) t).ti.units[g] := by
  obtain ⟨t, tb, -, unit, recent, fold⟩ := gatesMoved_unit line false g s
  have same : ext t = ext s := by simp only [ext, tb]
  have edge : recorded t = (ext s : Int) - 24576 := by simp [recorded, edgeLag, same]
  exact ⟨t, unit, recent, by rw [fold, gateInTiu_fall (by rw [unit, mine]), edge]⟩

theorem gatesMoved_rise_keeps (line : Fin 4) (s : State) : Keeps [.ti] s (gatesMoved line true s) :=
  (setTi_keeps _ s).trans (foldl_partKeeps (gateInTiu_rise_keeps line) _ _)

theorem gatesMoved_fall_keeps (line : Fin 4) (s : State) : Keeps shotParts s (gatesMoved line false s) :=
  ((setTi_keeps _ s).mono (by simp)).trans (foldl_partKeeps (gateInTiu_fall_keeps line) _ _)

/-! ### The end of a calibration (R304, R305, R313) -/

/-- What a calibration makes of a unit. -/
def withCal (r1 r2 : Nat) (s : State) (u : Tiu) : Tiu :=
  { u with
    calAt := none, calWas := if u.gate ≠ 0 then some (calNow u) else none, calErr := !gainOk r1 r2, r1 := r1, r2 := r2
    gain := BitVec.ofNat 32 ((gainReg r1 r2).getD (Config.freeWord s.freeCtr).toNat)
    offset := ((offsetReg r1 r2).map fun v => BitVec.ofInt 32 v).getD ((Config.freeWord (s.freeCtr + 1)).setWidth 32)
    ready := if gainOk r1 r2 then some (ext s : Int) else none }

/-- The unit calibrated, before what a failure says. -/
def calibrated (g : Glove) (r1 r2 : Nat) (s : State) : State := updTiu g (withCal r1 r2 s) (takeFree (takeFree s))

theorem calibrated_unit (g : Glove) (r1 r2 : Nat) (s : State) : (calibrated g r1 r2 s).ti.units[g] = withCal r1 r2 s s.ti.units[g] :=
  updTiu_self g _ _

theorem calibrated_other {g k : Glove} (r1 r2 : Nat) (s : State) (other : k ≠ g) : (calibrated g r1 r2 s).ti.units[k] = s.ti.units[k] :=
  updTiu_other _ _ other

theorem calibrated_keeps (g : Glove) (r1 r2 : Nat) (s : State) : Keeps [.ti, .freeCtr] s (calibrated g r1 r2 s) := by
  intro p hp
  cases p <;> simp [samePart, calibrated] at hp ⊢

theorem tiuCalibrated_ok {g : Glove} {r1 r2 : Nat} {s : State} (ok : gainOk r1 r2 = true) : tiuCalibrated g r1 r2 s = calibrated g r1 r2 s :=
  if_pos ok

/-- The failure of a calibration flagged, before it is said. -/
def calFailed (g : Glove) (r1 r2 : Nat) (s : State) : State :=
  { calibrated g r1 r2 s with ti := { (calibrated g r1 r2 s).ti with
      calErr := true, fresh := freshen (calibrated g r1 r2 s) 2 (calibrated g r1 r2 s).ti.fresh } }

theorem tiuCalibrated_bad {g : Glove} {r1 r2 : Nat} {s : State} (bad : gainOk r1 r2 = false) :
    ∃ items, tiuCalibrated g r1 r2 s = issue 0x0B01 items (calFailed g r1 r2 s) :=
  ⟨_, if_neg (by rw [bad]; exact Bool.false_ne_true)⟩

/-- A calibration that fails: the unit as it makes it, the flag, and the event. -/
theorem tiuCalibrated_fails {g : Glove} {r1 r2 : Nat} {s : State} (bad : gainOk r1 r2 = false) :
    (tiuCalibrated g r1 r2 s).ti.units[g] = withCal r1 r2 s s.ti.units[g] ∧ (tiuCalibrated g r1 r2 s).ti.calErr = true
      ∧ Keeps shotParts s (tiuCalibrated g r1 r2 s) := by
  obtain ⟨items, eq⟩ := tiuCalibrated_bad (g := g) (s := s) bad
  rw [eq, issue_ti]
  have flagged : Keeps [.ti] (calibrated g r1 r2 s) (calFailed g r1 r2 s) := setTi_keeps _ _
  exact ⟨calibrated_unit g r1 r2 s, rfl,
    (((calibrated_keeps g r1 r2 s).mono (by simp)).trans (flagged.mono (by simp))).trans ((issue_keeps _ _ _).mono (by simp))⟩

theorem gainOk_iff {r1 r2 : Nat} (some_ : r1 < r2) : gainOk r1 r2 = true ↔ 152 * (r2 - r1) ≤ 655360 ∧ 655360 ≤ 168 * (r2 - r1) := by
  simp [gainOk, some_]

/-- The gain of a good calibration fits its register, halves rounded up (R304). -/
theorem gainReg_ok {r1 r2 : Nat} (some_ : r1 < r2) (fast : 655360 ≤ 168 * (r2 - r1)) :
    gainReg r1 r2 = some ((2 * 2 ^ 40 + (r2 - r1)) / (2 * (r2 - r1))) ∧ (2 * 2 ^ 40 + (r2 - r1)) / (2 * (r2 - r1)) < 2 ^ 32 := by
  obtain ⟨d, rfl⟩ := Nat.exists_eq_add_of_lt some_
  have span : r1 + d + 1 - r1 = d + 1 := by omega
  rw [span] at fast ⊢
  have small : (2 * 2 ^ 40 + (d + 1)) / (2 * (d + 1)) < 2 ^ 32 := by
    rw [Nat.div_lt_iff_lt_mul (by omega)]
    omega
  have rounded : roundDiv (2 ^ 40) (((r1 + d + 1 : Nat) : Int) - r1) = ((2 * 2 ^ 40 + (d + 1)) / (2 * (d + 1)) : Nat) := by
    rw [roundDiv, show ((r1 + d + 1 : Nat) : Int) - r1 = ((d + 1 : Nat) : Int) by omega]
    push_cast
    rfl
  refine ⟨?_, small⟩
  rw [gainReg, rounded, if_pos ⟨by omega, by exact_mod_cast small⟩, Int.toNat_natCast]

theorem exec_tiuGateReady {g : Glove} {s : State} {at_ : Nat} (r1 r2 : Nat) (calibrates : s.ti.units[g].calAt = some at_) :
    exec (.tiuGateReady g r1 r2) s = .next (tiuCalibrated g r1 r2
      (toTime (if s.ti.units[g].gate ≠ 0 ∧ ¬ gainOk r1 r2 then at_ + 24576 else at_) s)) := by
  show execTiuGateReady g r1 r2 s = _
  rw [execTiuGateReady, calibrates]
  rfl

/-! ### The overflow of a shot (R302) -/

/-- The shot of a unit over, at its full length. -/
def overUnit (g : Glove) (start : Int) (s : State) : State :=
  updTiu g (fun u => { u with shot := none, lastStop := some (start + (2 ^ 50 - 1)) }) s

theorem tiuOverflow_waits {g : Glove} {s : State} (start : Int) (gate : s.ti.units[g].gate ≠ 0) (edge : s.tb.fabSrc = .edge) :
    tiuOverflow g start s = { overUnit g start s with ti := { (overUnit g start s).ti with
      recent := (overUnit g start s).ti.recent ++ [⟨g, start, start + (2 ^ 50 - 1), true⟩] } } := if_pos ⟨gate, edge⟩

theorem tiuOverflow_counts {g : Glove} {s : State} (start : Int) (gate : s.ti.units[g].gate = 0) :
    tiuOverflow g start s = countOver g start (overUnit g start s) := if_neg fun h => h.1 gate

theorem exec_tiuShotOverflow {g : Glove} {s : State} {st : Int} {k : Nat} (runs : s.ti.units[g].shot = some (st, k)) :
    exec (.tiuShotOverflow g) s = .next (tiuOverflow g st (toEpoch (st + 2 ^ 50).toNat s)) := by
  show execTiuShotOverflow g s = _
  rw [execTiuShotOverflow, runs]

/-- An overflow counted in the committed set, where none is held. -/
theorem countOver_unit {g : Glove} {s : State} (start : Int) (held : s.ti.units[g].held = none) :
    (countOver g start s).ti.units[g].shot = s.ti.units[g].shot ∧ (countOver g start s).ti.units[g].com =
      { s.ti.units[g].com with ovr := min 0xFFFFFFFF (s.ti.units[g].com.ovr + 1) } := by
  have unit : (overNoted g s).ti.units[g] = { s.ti.units[g] with
      com := { s.ti.units[g].com with ovr := min 0xFFFFFFFF (s.ti.units[g].com.ovr + 1) } } := by
    show (overCounted g s).ti.units[g] = _
    rw [overCounted, updTiu_self, tiuSet]
    simp only [held]
    rfl
  have said := tiuSayOnce_unsaid g 0x0B03 start (overNoted g s)
  have shot := eq_of_unsaid (f := Tiu.shot) (fun _ => rfl) said
  have com := eq_of_unsaid (f := Tiu.com) (fun _ => rfl) said
  rw [countOver_eq, shot, com, unit]
  exact ⟨rfl, rfl⟩

theorem tiuSayOnce_ovr (g : Glove) (code : Nat) (start : Int) (s : State) : (tiuSayOnce g code start s).ti.ovr = s.ti.ovr := by
  rw [tiuSayOnce_eq]
  split
  · rfl
  · rw [issue_ti]
    rfl

theorem countOver_ovr (g : Glove) (start : Int) (s : State) : (countOver g start s).ti.ovr = true := tiuSayOnce_ovr g _ _ _

theorem countOver_keeps (g : Glove) (start : Int) (s : State) : Keeps [.ti, .hi, .mg] s (countOver g start s) := by
  intro p hp
  cases p <;> simp [samePart] at hp ⊢

end Sys2Proof.Machine

open Sys2Proof Sys2Proof.Machine

/-- Settles O21: the requests of a carrier, the edges of a line, the two ends of a calibration, and the overflow by the gate. -/
theorem tiuGatesAndShots : Obligations.tiuGatesAndShots := by
  unfold Obligations.tiuGatesAndShots
  refine ⟨⟨fun s a g only quiet asks gate open_ => ?close, fun s a g only quiet asks sure gate shut held => ?open_, fun s line g =>
    ⟨fun low free => ?rise, fun high => ?fall, fun rise same => ?still⟩⟩, fun s g r1 r2 at_ calibrates some_ => ⟨fun slow fast => ?good, ?bad⟩,
    fun s g st k runs => ⟨fun gate held => ?overflow, fun gate edge => ?waits⟩⟩
  case close =>
    have row := exec_tgateAct only (.inr (by rw [asks]; exact single_ne_zero g))
    rw [quiet, asks, maskBits_single, maskBits_zero] at row
    generalize hu : toEpoch a.due s = u at gate open_ ⊢
    have taken : tgateTaken a s = takeAct a (fun r => { r with topen := 0, tclose := 0 }) u := by rw [← hu]; rfl
    have ti : (tgateTaken a s).ti = u.ti := by rw [taken]; simp
    have pm : (tgateTaken a s).pm = u.pm := by rw [taken]; simp
    have pins : (tgateTaken a s).pins = u.pins := by rw [taken]; simp
    rw [List.foldl_nil, List.foldl_cons, List.foldl_nil, tgateClose_tgate (by rw [ti, gate])] at row
    obtain ⟨shut, shot, ready⟩ := tiuClose_closed (g := g) (s := tgateTaken a s) (by rw [ti, open_])
    refine ⟨_, row, shut, shot, ready, fun k other => ?_, ?_, ?_⟩
    · rw [(onlyUnit_tiuClose g _).units k other, ti]
    · rw [← pm]; simp
    · rw [← pins]; simp
  case open_ =>
    have row := exec_tgateAct only (.inl (by rw [asks]; exact single_ne_zero g))
    rw [quiet, asks, maskBits_single, maskBits_zero] at row
    generalize hu : toEpoch a.due s = u at gate shut held ⊢
    have taken : tgateTaken a s = takeAct a (fun r => { r with topen := 0, tclose := 0 }) u := by rw [← hu]; rfl
    have ti : (tgateTaken a s).ti = u.ti := by rw [taken]; simp
    have tb : (tgateTaken a s).tb = u.tb := by rw [taken]; simp
    rw [List.foldl_nil, List.foldl_cons, List.foldl_nil, tgateOpen_tgate (by rw [ti, gate]) (by rw [ti, shut]) (by rw [ti, held]) sure] at row
    have unit := tiuOpen_unit 0 g (tgateTaken a s)
    rw [ti, tb] at unit
    refine ⟨_, row, ?_, ?_, ?_, ?_, fun k other => ?_⟩
    · rw [unit]
    · rw [unit]
    · rw [unit, held]
    · rw [unit]
      rfl
    · rw [(onlyUnit_tiuOpen 0 g _).units k other, ti]
  case rise =>
    refine ⟨_, (exec_gateInEdge line true s).trans (congrArg _ (if_neg (by rw [low]; decide))), gatesMoved_line line true s, fun mine => ?_,
      gatesMoved_ungated true, gatesMoved_rise_keeps line s⟩
    exact gatesMoved_rise mine free
  case fall =>
    refine ⟨_, (exec_gateInEdge line false s).trans (congrArg _ (if_neg (by rw [high]; decide))), gatesMoved_line line false s, fun mine => ?_,
      fun st k mine open_ held none_ runs => ?_, gatesMoved_ungated false, gatesMoved_fall_keeps line s⟩
    · obtain ⟨t, -, -, closed⟩ := gatesMoved_fall mine
      rw [closed, tiuCloseAt_closed]
    · obtain ⟨t, unit, recent, closed⟩ := gatesMoved_fall mine
      have ended := tiuCloseAt_shot (g := g) (s := t) (st := st) (k := k) ((ext s : Int) - 24576) (by rw [unit, open_]) (by rw [unit, held])
        (fun x hx => none_ x (recent x hx)) (by rw [unit, runs])
      rw [closed, ← unit]
      exact ended
  case still => rw [exec_gateInEdge, if_pos same]
  case good =>
    have ok : gainOk r1 r2 = true := (gainOk_iff some_).mpr ⟨slow, fast⟩
    have row := exec_tiuGateReady (g := g) r1 r2 calibrates
    rw [if_neg (fun h => h.2 ok), tiuCalibrated_ok ok] at row
    obtain ⟨gain, small⟩ := gainReg_ok some_ fast
    have unit := calibrated_unit g r1 r2 (toTime at_ s)
    refine ⟨_, row, ?_, ?_, ?_, ?_, fun k other => calibrated_other r1 r2 _ other, calibrated_keeps g r1 r2 _⟩
    · rw [unit, withCal, ok]
      rfl
    · rw [unit, withCal, ok]
      rfl
    · rw [unit, withCal]
    · rw [unit, withCal, gain, Option.getD_some, BitVec.toNat_ofNat, Nat.mod_eq_of_lt small]
  case bad =>
    intro late out
    have bad : gainOk r1 r2 = false := Bool.eq_false_iff.mpr fun ok => by
      have := (gainOk_iff some_).mp ok
      omega
    have instant : (if s.ti.units[g].gate ≠ 0 ∧ ¬ gainOk r1 r2 = true then at_ + 24576 else at_)
        = at_ + if s.ti.units[g].gate = 0 then 0 else 24576 := by
      by_cases gate : s.ti.units[g].gate = 0
      · rw [if_neg (fun h => h.1 gate), if_pos gate]
        rfl
      · rw [if_pos ⟨gate, by rw [bad]; decide⟩, if_neg gate]
    have row := exec_tiuGateReady (g := g) r1 r2 calibrates
    rw [instant] at row
    obtain ⟨unit, err, kept⟩ := tiuCalibrated_fails (g := g) (s := late) bad
    refine ⟨_, row, ?_, ?_, err, kept⟩
    · rw [unit, withCal, bad]
      rfl
    · rw [unit, withCal, bad]
      rfl
  case overflow =>
    generalize hu : toEpoch (st + 2 ^ 50).toNat s = u at gate held ⊢
    have row := exec_tiuShotOverflow runs
    rw [hu, tiuOverflow_counts st gate] at row
    have unit : (overUnit g st u).ti.units[g] = _ := updTiu_self g _ u
    obtain ⟨shot, com⟩ := countOver_unit (s := overUnit g st u) st (by rw [unit]; exact held)
    refine ⟨_, row, ?_, countOver_ovr g st _, ?_, fun j other => ?_, ?_⟩
    · rw [shot, unit]
    · rw [com, unit]
    · exact ((onlyUnit_countOver g st _).units j other).trans (updTiu_other _ u other)
    · exact ((updTiu_keeps g _ u).mono (by simp)).trans (countOver_keeps g st _)
  case waits =>
    generalize hu : toEpoch (st + 2 ^ 50).toNat s = u at gate edge ⊢
    have row := exec_tiuShotOverflow runs
    rw [hu, tiuOverflow_waits st gate edge] at row
    have unit : (overUnit g st u).ti.units[g] = _ := updTiu_self g _ u
    have shot := congrArg Tiu.shot unit
    have com := congrArg Tiu.com unit
    exact ⟨_, row, shot, com, rfl, fun j other => updTiu_other _ u other,
      (updTiu_keeps g _ u).trans (setTi_keeps _ _)⟩
end

section
/-! SUPPORT. Drive edges (R67, R68, R87, R91): what the edges that land together change of their pin, what a dropped edge leaves
(R79), where the nominal vernier places a land time (R72), and the statement on a drive edge. -/

namespace Sys2Proof.Machine

open Sys2Proof

/-! ### Pins -/

/-- An element that the function leaves leaves the vector. -/
theorem vupd_fixed {α : Type} {n : Nat} (v : Vector α n) {i : Fin n} {f : α → α} (h : f v[i] = v[i]) : vupd v i f = v := by
  rw [vupd, h]
  exact Vector.set_getElem_self ..

theorem updPin_fixed {p : Pin} {f : PinSt → PinSt} {s : State} (h : f s.pins[p] = s.pins[p]) : updPin p f s = s := by
  rw [updPin, vupd_fixed _ h]

theorem updPin_own (p : Pin) (f : PinSt → PinSt) (s : State) : (updPin p f s).pins[p] = f s.pins[p] := vupd_self ..

theorem updPin_other {p r : Pin} (f : PinSt → PinSt) (s : State) (other : r ≠ p) : (updPin p f s).pins[r] = s.pins[r] :=
  vupd_other _ _ other.symm

theorem updPin_keeps (p : Pin) (f : PinSt → PinSt) (s : State) : Keeps [.pins] s (updPin p f s) := setPins_keeps _ s

/-! ### An edge that goes, and one that is counted (R79) -/

/-- The state without an edge that has landed. -/
def withoutEdge (e : PEdge) (s : State) : State := { s with tg := { s.tg with edges := s.tg.edges.erase e } }

theorem withoutEdge_keeps (e : PEdge) (s : State) : Keeps [.tg] s (withoutEdge e s) := by
  intro q hq
  cases q <;> first | exact absurd (by decide) hq | rfl

/-- A drop counts once, up to the counter's end. -/
theorem countDrop_dropCnt (cause : Nat) (e : PEdge) (kind : Nat) (s : State) :
    (countDrop cause e kind s).tg.dropCnt = min 0xFFFFFFFF (s.tg.dropCnt + 1) := by
  simp [countDrop, satSucc]

theorem countDrop_pins (cause : Nat) (e : PEdge) (kind : Nat) (s : State) : (countDrop cause e kind s).pins = s.pins := by simp

theorem countDrop_sp (cause : Nat) (e : PEdge) (kind : Nat) (s : State) : (countDrop cause e kind s).sp = s.sp := by simp

theorem countDrop_keeps (cause : Nat) (e : PEdge) (kind : Nat) (s : State) : Keeps [.tg, .sq, .hi, .mg] s (countDrop cause e kind s) := by
  intro q hq
  cases q <;> first | exact absurd (by decide) hq | simp [samePart]

/-! ### One drive edge -/

/-- The state after an edge has landed on its pin. -/
def driveLanded (e : PEdge) (s : State) : State := updPin e.pin (fun x => driveEdge (pinParked s e.pin) e (fireGen s e x)) s

theorem driveLanded_keeps (e : PEdge) (s : State) : Keeps [.pins] s (driveLanded e s) := updPin_keeps _ _ s

theorem fireDrive_eq (e : PEdge) (s : State) : fireDrive s e =
    if ¬ placed (withoutEdge e s) e then withoutEdge e s
    else if tooClose (withoutEdge e s) e then countDrop 1 e 0 (withoutEdge e s)
    else if conflicts (withoutEdge e s) (fun _ => false) e then countDrop 2 e 0 (withoutEdge e s)
    else driveLanded e (withoutEdge e s) := rfl

theorem fireDrive_unplaced {e : PEdge} {s : State} (off : placed (withoutEdge e s) e = false) : fireDrive s e = withoutEdge e s := by
  simp [fireDrive_eq, off]

theorem fireDrive_lands {e : PEdge} {s : State} (on : placed (withoutEdge e s) e = true) (apart : tooClose (withoutEdge e s) e = false)
    (alone : conflicts (withoutEdge e s) (fun _ => false) e = false) : fireDrive s e = driveLanded e (withoutEdge e s) := by
  simp [fireDrive_eq, on, apart, alone]

/-- An edge that breaks R67 or R68 is dropped and counted once, under one cause (log 32). -/
theorem fireDrive_dropped {e : PEdge} {s : State} (on : placed (withoutEdge e s) e = true)
    (breaks : tooClose (withoutEdge e s) e = true ∨ conflicts (withoutEdge e s) (fun _ => false) e = true) :
    ∃ cause, fireDrive s e = countDrop cause e 0 (withoutEdge e s) := by
  cases close : tooClose (withoutEdge e s) e with
  | true => exact ⟨1, by simp [fireDrive_eq, on, close]⟩
  | false =>
    have meets := breaks.resolve_left (by simp [close])
    exact ⟨2, by simp [fireDrive_eq, on, close, meets]⟩

/-- A drive edge lands, or leaves the pins as they are. -/
theorem fireDrive_pins (e : PEdge) (s : State) :
    (fireDrive s e).pins = s.pins ∨ (fireDrive s e).pins = (driveLanded e (withoutEdge e s)).pins := by
  cases on : placed (withoutEdge e s) e with
  | false => exact .inl (by rw [fireDrive_unplaced on]; rfl)
  | true =>
    by_cases breaks : tooClose (withoutEdge e s) e = true ∨ conflicts (withoutEdge e s) (fun _ => false) e = true
    · obtain ⟨cause, drop⟩ := fireDrive_dropped on breaks
      exact .inl (by rw [drop, countDrop_pins]; rfl)
    · simp only [not_or, Bool.not_eq_true] at breaks
      exact .inr (by rw [fireDrive_lands on breaks.1 breaks.2])

/-- A landing drive edge moves its own pin only, and notes no transition itself. -/
theorem fireDrive_others {e : PEdge} {p : Pin} (own : e.pin = p) (s : State) :
    (∀ r : Pin, r ≠ p → (fireDrive s e).pins[r] = s.pins[r]) ∧ (fireDrive s e).pins[p].lastTrans = s.pins[p].lastTrans := by
  subst own
  rcases fireDrive_pins e s with same | moved
  · rw [same]
    exact ⟨fun _ _ => rfl, rfl⟩
  · rw [moved]
    refine ⟨fun r other => updPin_other _ _ other, ?_⟩
    rw [driveLanded, updPin_own]
    rfl

/-- Drive edges of one pin move that pin only, and note no transition themselves. -/
theorem fireDrives_others {p : Pin} (l : List PEdge) (own : ∀ e ∈ l, e.pin = p) (s : State) :
    (∀ r : Pin, r ≠ p → (l.foldl fireDrive s).pins[r] = s.pins[r]) ∧ (l.foldl fireDrive s).pins[p].lastTrans = s.pins[p].lastTrans := by
  induction l generalizing s with
  | nil => exact ⟨fun _ _ => rfl, rfl⟩
  | cons e l ih =>
    obtain ⟨others, trans⟩ := ih (fun x hx => own x (by simp [hx])) (fireDrive s e)
    obtain ⟨others', trans'⟩ := fireDrive_others (own e (by simp)) s
    exact ⟨fun r other => (others r other).trans (others' r other), trans.trans trans'⟩

theorem of_mem_landTogether {s : State} {p : Pin} {land : Nat} {e : PEdge} (h : e ∈ landTogether s p land) : e.pin = p := by
  obtain ⟨k, -, he⟩ := List.mem_flatMap.mp h
  exact (of_decide_eq_true (List.mem_filter.mp he).2).1

/-! ### The transition (R68, R94) -/

theorem noteTrans_rest (land : Nat) (was x : PinSt) : ∃ l w, noteTrans land was x = { x with lastTrans := l, swing := w } := by
  unfold noteTrans
  split
  · exact ⟨_, _, rfl⟩
  · exact ⟨_, _, rfl⟩

theorem noteTrans_lastTrans (land : Nat) (was x : PinSt) :
    (noteTrans land was x).lastTrans = if moves (was.en, was.dat) (x.en, x.dat) then some land else x.lastTrans := by
  unfold noteTrans
  split <;> rfl

/-- A line that stays makes no transition. -/
theorem noteTrans_still (land : Nat) (x : PinSt) : noteTrans land x x = x := if_neg (by simp [moves])

/-- The state after the drive edges of a pin that land together, from the state at their land time (R68). -/
def drivesLanded (p : Pin) (land : Nat) (s : State) : State :=
  updPin p (noteTrans land s.pins[p]) ((landTogether s p land).foldl fireDrive s)

theorem exec_edgeFire {s : State} {p : Pin} {e : PEdge} (next : nextEdge p (fun x => decide (x.e ≤ 3)) s.tg.edges = some e) :
    exec (.edgeFire p) s = .next (drivesLanded p e.land (toEpoch e.land s)) := by
  show Host.Outcome.next _ = _
  rw [next]
  rfl

theorem drivesLanded_pins (p : Pin) (land : Nat) (s : State) :
    (∀ r : Pin, r ≠ p → (drivesLanded p land s).pins[r] = s.pins[r])
      ∧ (drivesLanded p land s).pins[p].lastTrans
          = if moves (s.pins[p].en, s.pins[p].dat) ((drivesLanded p land s).pins[p].en, (drivesLanded p land s).pins[p].dat) then some land
            else s.pins[p].lastTrans := by
  obtain ⟨others, trans⟩ := fireDrives_others (landTogether s p land) (fun _ => of_mem_landTogether) s
  refine ⟨fun r other => (updPin_other _ _ other).trans (others r other), ?_⟩
  rw [drivesLanded, updPin_own, ← trans, noteTrans_lastTrans]
  obtain ⟨l, w, rest⟩ := noteTrans_rest land s.pins[p] ((landTogether s p land).foldl fireDrive s).pins[p]
  rw [rest]

/-- An edge alone at its land time acts by itself. -/
theorem drivesLanded_single {p : Pin} {land : Nat} {s : State} {e : PEdge} (single : landTogether s p land = [e]) :
    drivesLanded p land s = updPin p (noteTrans land s.pins[p]) (fireDrive s e) := by
  rw [drivesLanded, single, List.foldl_cons, List.foldl_nil]

/-- An edge alone at its land time that leaves the pins makes no transition. -/
theorem drivesLanded_still {p : Pin} {land : Nat} {s : State} {e : PEdge} (single : landTogether s p land = [e])
    (same : (fireDrive s e).pins = s.pins) : drivesLanded p land s = fireDrive s e := by
  rw [drivesLanded_single single]
  refine updPin_fixed ?_
  rw [same, noteTrans_still]

theorem drivesLanded_lands {p : Pin} {land : Nat} {s : State} {e : PEdge} (single : landTogether s p land = [e]) (own : e.pin = p)
    (landed : fireDrive s e = driveLanded e (withoutEdge e s)) (free : pinParked s p = false) :
    let t := drivesLanded p land s
    t.tg = (withoutEdge e s).tg ∧ (t.pins[p].en, t.pins[p].dat) = actOn e.act (s.pins[p].en, s.pins[p].dat)
      ∧ t.pins[p].lastDrive = some e.land ∧ t.pins[p].fired = some (physical s p e.e e.land) ∧ Keeps [.pins, .tg] s t := by
  subst own
  intro t
  have eq : t = updPin e.pin (noteTrans land s.pins[e.pin]) (driveLanded e (withoutEdge e s)) := by rw [← landed, ← drivesLanded_single single]
  obtain ⟨l, w, rest⟩ := noteTrans_rest land s.pins[e.pin] (driveEdge false e (fireGen (withoutEdge e s) e s.pins[e.pin]))
  have pin : t.pins[e.pin] = { driveEdge false e (fireGen (withoutEdge e s) e s.pins[e.pin]) with lastTrans := l, swing := w } := by
    rw [← rest, eq, updPin_own, driveLanded, updPin_own, show pinParked (withoutEdge e s) e.pin = false from free]
    rfl
  refine ⟨by rw [eq]; rfl, ?_, by rw [pin]; rfl, by rw [pin]; rfl, ?_⟩
  · rw [pin]
    rfl
  · have kept := ((withoutEdge_keeps e s).mono (m := [.pins, .tg]) (by simp)).trans ((driveLanded_keeps e _).mono (by simp))
    rw [eq]
    exact kept.trans ((updPin_keeps e.pin _ _).mono (by simp))

/-! ### The vernier (R72) -/

/-- The choice of the nearest among candidates, by a distance. -/
theorem foldl_nearest (d : Nat → Nat) (l : List Nat) (b : Nat) :
    let r := l.foldl (fun b j => if d j < d b then j else b) b
    d r ≤ d b ∧ (∀ j ∈ l, d r ≤ d j) ∧ (r = b ∨ r ∈ l) := by
  induction l generalizing b with
  | nil => simp
  | cons x l ih =>
    have step : ∃ c, (if d x < d b then x else b) = c ∧ d c ≤ d b ∧ d c ≤ d x ∧ (c = b ∨ c = x) := by
      by_cases closer : d x < d b
      · exact ⟨x, if_pos closer, by omega, le_rfl, .inr rfl⟩
      · exact ⟨b, if_neg closer, le_rfl, by omega, .inl rfl⟩
    obtain ⟨c, chosen, old, new, which⟩ := step
    obtain ⟨first, rest, among⟩ := ih c
    rw [List.foldl_cons, chosen]
    refine ⟨first.trans old, List.forall_mem_cons.mpr ⟨first.trans new, rest⟩, ?_⟩
    rcases among with among | among
    · exact which.imp among.trans fun own => List.mem_cons.mpr (.inl (among.trans own))
    · exact .inr (List.mem_cons_of_mem _ among)

/-- The nominal tap nearest to a target below 64 steps of 256 is at most half a tap away (R72). -/
theorem nearestTap_nominal {s : State} (nominal : s.bt.trims = .nominal) (p : Pin) (e : Nat) {target : Int} (low : 0 ≤ target)
    (high : target < 16384) :
    nearestTap s p e target ≤ 79 ∧ -128 ≤ target - 256 * nearestTap s p e target ∧ target - 256 * nearestTap s p e target ≤ 128 := by
  have tap : ∀ j, tapAt s p e j = 256 * j := fun j => by rw [tapAt, nominal]
  obtain ⟨-, nearest, among⟩ := foldl_nearest (fun j => ((tapAt s p e j : Int) - target).natAbs) (List.range 80) 0
  change _ ∨ nearestTap s p e target ∈ _ at among
  have near := nearest ((target + 128) / 256).toNat (List.mem_range.mpr (by omega))
  change ((tapAt s p e (nearestTap s p e target) : Int) - target).natAbs ≤ _ at near
  simp only [tap] at near
  rw [List.mem_range] at among
  omega

/-- Where the nominal vernier places a land time (R72). -/
theorem physical_nominal {s : State} (nominal : s.bt.trims = .nominal) (p : Pin) (e land : Nat) :
    let f := physical s p e land
    let off : Int := 256 * (land : Int) + s.tb.phi[quadOf p] - 256 * (f.cycle * 1024 + f.phase * 64 + f.tap)
    0 ≤ f.phase ∧ f.phase ≤ 15 ∧ f.tap ≤ 79 ∧ f.land = land ∧ -128 ≤ off ∧ off ≤ 128 := by
  have zero : zeroAt s p e = 0 := by rw [zeroAt, nominal]
  simp only [physical, zero]
  generalize hu : 256 * (land : Int) + 0 + s.tb.phi[quadOf p] = u
  obtain ⟨few, below, above⟩ := nearestTap_nominal nominal p e (target := 256 * (u / 256 % 64) + u % 256) (by omega) (by omega)
  refine ⟨by omega, by omega, few, trivial, ?_, ?_⟩ <;> omega

end Sys2Proof.Machine

open Sys2Proof Sys2Proof.Machine

/-- Settles O18: the edges of one land time by what they do to their pin, one edge alone by its fate, and the nominal vernier. -/
theorem driveEdgeFires : Obligations.driveEdgeFires := by
  unfold Obligations.driveEdgeFires
  refine ⟨?edge, fun s p e land nominal => physical_nominal nominal p e land⟩
  intro s p e next own u rest
  have row : exec (.edgeFire p) s = .next (drivesLanded p e.land u) := exec_edgeFire next
  refine ⟨?any, fun single off => ?off, fun single on free => ⟨fun apart alone => ?lands, fun breaks => ?drops⟩⟩
  case any =>
    exact ⟨_, row, drivesLanded_pins p e.land u⟩
  case off =>
    have gone : fireDrive u e = rest := fireDrive_unplaced off
    rw [drivesLanded_still single (by rw [gone]), gone] at row
    exact ⟨rest, row, rfl, rfl, withoutEdge_keeps e u⟩
  case lands =>
    obtain ⟨tg, drive, last, fired, kept⟩ := drivesLanded_lands single own (fireDrive_lands on apart alone) free
    have acted : ∀ a, e.act = a → _ = actOn a (u.pins[p].en, u.pins[p].dat) := fun a act => act ▸ drive
    exact ⟨_, row, by rw [tg]; rfl, by rw [tg]; rfl, fun v act => Prod.mk.inj (acted _ act), fun d act => (Prod.mk.inj (acted _ act)).symm,
      fun d act => (Prod.mk.inj (acted _ act)).symm, last, fired, (drivesLanded_pins p e.land u).1, kept⟩
  case drops =>
    obtain ⟨cause, drop⟩ := fireDrive_dropped on breaks
    have pins : (fireDrive u e).pins = u.pins := by rw [drop, countDrop_pins]; rfl
    rw [drivesLanded_still single pins] at row
    refine ⟨_, row, pins, ?_, ?_, ?_⟩
    · rw [drop, countDrop_edges]
      rfl
    · rw [drop, countDrop_dropCnt]
      rfl
    · rw [drop]
      exact ((withoutEdge_keeps e u).mono (by simp)).trans (countDrop_keeps cause e 0 _)
end

section
/-! SUPPORT. Compare edges (R69, R92, R94 to R96, R100): the branches of an E4 and an E5 that land, the result word of a strobe and of a
window (Tables 4.6, 4.8), and the statement on compare edges. -/

namespace Sys2Proof.Machine

open Sys2Proof

/-! ### Observed states and result words (Tables 4.5, 4.6, 4.8) -/

theorem observed_eq (s : State) (p : Pin) :
    observed s p = (if s.pins[p].hi then 2 else 0) + (if s.pins[p].lo then 1 else 0) := by
  rw [observed, obsOf]
  cases s.pins[p].hi <;> cases s.pins[p].lo <;> rfl

theorem observed_le (s : State) (p : Pin) : observed s p ≤ 3 := by
  rw [observed_eq]
  split <;> split <;> decide

/-- What fails an expect code (Table 4.6). -/
theorem passes_eq_false_iff {exp : Nat} (st : Nat) (low : 1 ≤ exp) (high : exp ≤ 4) : passes exp st = false ↔
    (exp = 1 ∧ st ≠ 1) ∨ (exp = 2 ∧ st ≠ 2) ∨ (exp = 3 ∧ st ≠ 0) ∨ (exp = 4 ∧ st ≠ 1 ∧ st ≠ 2) := by
  interval_cases exp <;> simp [passes]

/-- The word of an edge strobe on a standard symbol. -/
theorem resultWord_strobe (exp ui st : Nat) : resultWord false false (!passes exp st) ui st
    = BitVec.ofNat 16 (16 + (if passes exp st then 0 else 8) + st) := by
  rw [resultWord, if_neg Bool.false_ne_true]
  cases passes exp st <;> simp [b2n]

/-- The word of an edge strobe in a burst. -/
theorem resultWord_burst (exp ui st : Nat) : resultWord true false (!passes exp st) ui st = if passes exp st then 0 else 1#16 <<< ui := by
  rw [resultWord, if_pos rfl]
  cases passes exp st <;> rfl

theorem resultWord_strobe_toNat {exp st : Nat} (ui : Nat) (low : 1 ≤ exp) (high : exp ≤ 4) (few : st ≤ 3) :
    let fail := (exp = 1 ∧ st ≠ 1) ∨ (exp = 2 ∧ st ≠ 2) ∨ (exp = 3 ∧ st ≠ 0) ∨ (exp = 4 ∧ st ≠ 1 ∧ st ≠ 2)
    let w := resultWord false false (!passes exp st) ui st
    w.toNat = 16 + st + 8 ∧ fail ∨ w.toNat = 16 + st ∧ ¬ fail := by
  intro fail w
  have iff : passes exp st = false ↔ fail := passes_eq_false_iff st low high
  have word : w.toNat = (16 + (if passes exp st then 0 else 8) + st) % 65536 := by rw [show w = _ from resultWord_strobe exp ui st]; rfl
  cases pass : passes exp st with
  | false =>
    rw [pass, if_neg Bool.false_ne_true] at word
    exact .inl ⟨by omega, iff.mp pass⟩
  | true =>
    rw [pass, if_pos rfl] at word
    exact .inr ⟨by omega, fun bad => by simp [iff.mpr bad] at pass⟩

/-- The word of a window on a standard symbol. -/
theorem resultWord_window (bad : Option Nat) (first ui : Nat) : resultWord false true bad.isSome ui (bad.getD first)
    = BitVec.ofNat 16 (48 + (if bad = none then 0 else 8) + bad.getD first) := by
  cases bad <;> rfl

/-- The word of a window in a burst. -/
theorem resultWord_windowBurst (bad : Option Nat) (st ui : Nat) : resultWord true true bad.isSome ui st
    = if bad = none then 0 else 1#16 <<< ui := by
  cases bad <;> rfl

/-! ### A result given (R100) -/

/-- The vectors with a result word for a pin given to one of them. -/
def withResult (n : Nat) (p : Pin) (w : W16) (l : List VRec) : List VRec :=
  l.map fun v => if v.n = n then { v with res := addResult p w v.res } else v

theorem putResult_inflight (n : Nat) (p : Pin) (w : W16) (s : State) : (putResult n p w s).sp.inflight = withResult n p w s.sp.inflight :=
  rfl

/-! ### Strobes (R94) -/

theorem noteCrossed_sp (p : Pin) (idx st : Nat) (s : State) : (noteCrossed p idx st s).sp = s.sp := by simp

/-- Away from drive transitions a strobe takes the observed state. -/
theorem strobe_far {e : PEdge} {s : State} (far : nearDrive s e.pin e.land = false) :
    (strobe e s).sp.inflight = withResult e.n e.pin
        (resultWord e.burst false (!passes e.exp (observed s e.pin)) e.ui (observed s e.pin)) s.sp.inflight
      ∧ (strobe e s).freeCtr = s.freeCtr := by
  simp only [strobe, far, Bool.false_eq_true, if_false]
  refine ⟨?_, by simp⟩
  rw [putResult_inflight, noteCrossed_sp]

/-- Near a drive transition a strobe takes a free one of the states that the line may pass through (log 45). -/
theorem strobe_near {e : PEdge} {s : State} (near : nearDrive s e.pin e.land = true) :
    (strobe e s).sp.inflight = withResult e.n e.pin
        (resultWord e.burst false (!passes e.exp (freeCode s e.pin e.land)) e.ui (freeCode s e.pin e.land)) s.sp.inflight
      ∧ (strobe e s).freeCtr = s.freeCtr + 1 := by
  simp only [strobe, near, if_true]
  refine ⟨?_, by simp⟩
  rw [putResult_inflight, noteCrossed_sp]
  rfl

/-- A free observed state is some state where the line may pass through it, else the observed one. -/
theorem freeCode_choice (s : State) (p : Pin) (t : Nat) :
    ∃ st, st ≤ 3 ∧ freeCode s p t = if (passable s p t).contains st then st else observed s p := by
  refine ⟨_, ?_, rfl⟩
  split
  · decide
  · split
    · split <;> decide
    · decide

theorem freeCode_le (s : State) (p : Pin) (t : Nat) : freeCode s p t ≤ 3 := by
  obtain ⟨st, few, choice⟩ := freeCode_choice s p t
  rw [choice]
  split
  · exact few
  · exact observed_le s p

theorem freeCode_mem (s : State) (p : Pin) (t : Nat) : freeCode s p t ∈ passable s p t := by
  obtain ⟨st, -, choice⟩ := freeCode_choice s p t
  rw [choice]
  split
  · rename_i within
    exact List.contains_iff_mem.mp within
  · exact List.mem_cons_self

/-! ### Windows (R69, R95) -/

/-- A short window is a strobe at its E4, its E5 counted and not placed (R69). -/
theorem windowE4_short {e c : PEdge} {s : State} (closes : closing s e = some c) (short : c.land < e.land + 256) :
    windowE4 e s = strobe e (countDrop 3 c 0 (withoutEdge c s)) := by
  rw [windowE4, closes]
  exact if_pos short

/-- The word that a short window gives, and its count (R69, Table 4.8). -/
theorem windowE4_short_gives {e c : PEdge} {s : State} (closes : closing s e = some c) (short : c.land < e.land + 256)
    (far : nearDrive (countDrop 3 c 0 (withoutEdge c s)) e.pin e.land = false) (single : e.burst = false) :
    let t := windowE4 e s
    t.tg.edges = s.tg.edges.erase c ∧ t.tg.dropCnt = min 0xFFFFFFFF (s.tg.dropCnt + 1) ∧ t.pins = s.pins
      ∧ t.sp.inflight = withResult e.n e.pin
          (BitVec.ofNat 16 (16 + (if passes e.exp (observed s e.pin) then 0 else 8) + observed s e.pin)) s.sp.inflight := by
  let x := countDrop 3 c 0 (withoutEdge c s)
  have counted : x.sp = s.sp ∧ x.pins = s.pins := ⟨countDrop_sp .., countDrop_pins ..⟩
  have parts : (strobe e x).tg = x.tg ∧ (strobe e x).pins = x.pins := by simp
  have seen : observed x e.pin = observed s e.pin := by rw [observed, counted.2]; rfl
  obtain ⟨result, -⟩ := strobe_far (s := x) far
  rw [single, resultWord_strobe, seen, counted.1] at result
  intro t
  have eq : t = strobe e x := windowE4_short closes short
  rw [eq, parts.1, parts.2]
  exact ⟨countDrop_edges .., countDrop_dropCnt .., counted.2, result⟩

/-- A window that opens too early, or before the last one has closed, is masked and counted (R69). -/
theorem windowE4_masked {e c : PEdge} {s : State} (closes : closing s e = some c) (long : e.land + 256 ≤ c.land)
    (early : s.pins[e.pin].win ≠ none ∨ ∃ k, s.pins[e.pin].lastE5 = some k ∧ e.land < k + 256) : windowE4 e s = countDrop 3 e 1 s := by
  rw [windowE4, closes]
  refine (if_neg (by omega)).trans (if_pos (early.imp Option.isSome_iff_ne_none.mpr ?_))
  rintro ⟨k, last, within⟩
  rw [last]
  exact decide_eq_true within

/-- A window of its proper length that comes late enough opens (R95). -/
theorem windowE4_opens {e c : PEdge} {s : State} (closes : closing s e = some c) (long : e.land + 256 ≤ c.land)
    (free : s.pins[e.pin].win = none) (late : ∀ k, s.pins[e.pin].lastE5 = some k → k + 256 ≤ e.land) : windowE4 e s = openWin e s := by
  rw [windowE4, closes]
  refine (if_neg (by omega)).trans (if_neg ?_)
  rw [free]
  cases last : s.pins[e.pin].lastE5 with
  | none => simp
  | some k => simpa using late k last

/-- The window that an E4 opens (R95). -/
def winOpened (e : PEdge) (s : State) : Win :=
  { n := e.n, ui := e.ui, idx := e.idx, exp := e.exp, burst := e.burst, first := observed s e.pin
    tent := if passes e.exp (observed s e.pin) then none else some (observed s e.pin, failSince s.pins[e.pin] e.exp) }

theorem winOpened_tent (e : PEdge) (s : State) : (winOpened e s).tent = none ↔ passes e.exp (observed s e.pin) = true := by
  unfold winOpened
  split <;> simp [*]

theorem openWin_opens (e : PEdge) (s : State) :
    (openWin e s).pins[e.pin].win = some (winOpened e s) ∧ (openWin e s).sp = s.sp ∧ (openWin e s).tg = s.tg := by
  have pins : (openWin e s).pins = vupd s.pins e.pin fun p => { p with win := some (winOpened e s) } := by
    simp [openWin, winOpened]
  refine ⟨?_, by simp [openWin], by simp [openWin]⟩
  rw [pins, vupd_self]

/-- An E5 closes the window in progress of its own vector and UI (R95). -/
theorem closeWin_closes {e : PEdge} {s : State} {w : Win} (runs : s.pins[e.pin].win = some w) (vector : w.n = e.n) (ui : w.ui = e.ui) :
    (closeWin e s).pins[e.pin].win = none ∧ (closeWin e s).pins[e.pin].lastE5 = some e.land
      ∧ (closeWin e s).sp.inflight = withResult e.n e.pin
          (resultWord w.burst true (winBad w).isSome w.ui ((winBad w).getD w.first)) s.sp.inflight := by
  have closed : closeWin e s = putResult e.n e.pin (resultWord w.burst true (winBad w).isSome w.ui ((winBad w).getD w.first))
      (updPin e.pin (fun p => { p with win := none, lastE5 := some e.land, late := winLate w e.land }) s) := by
    rw [closeWin, runs]
    exact if_pos ⟨vector, ui⟩
  have pins : ∀ w t, (putResult e.n e.pin w t).pins = t.pins := fun w t => by simp
  rw [closed, pins, updPin_own]
  exact ⟨rfl, rfl, rfl⟩

/-! ### A compare edge that lands -/

/-- The state in which a compare edge acts: it waits no more, and its generator has fired. -/
def compareFired (e : PEdge) (s : State) : State := updPin e.pin (fireGen (withoutEdge e s) e) (withoutEdge e s)

theorem compareFired_pin (e : PEdge) (s : State) :
    ∃ l f, (compareFired e s).pins[e.pin] = { s.pins[e.pin] with lastFire := l, fired := f } := by
  rw [compareFired, updPin_own]
  exact ⟨_, _, rfl⟩

/-- What a firing generator leaves of a pin's formatter, comparators and window. -/
theorem compareFired_leaves (e : PEdge) (s : State) : let x := (compareFired e s).pins[e.pin]
    x.en = s.pins[e.pin].en ∧ x.dat = s.pins[e.pin].dat ∧ x.win = s.pins[e.pin].win ∧ x.lastE5 = s.pins[e.pin].lastE5
      ∧ observed (compareFired e s) e.pin = observed s e.pin := by
  obtain ⟨l, f, pin⟩ := compareFired_pin e s
  exact ⟨by rw [pin], by rw [pin], by rw [pin], by rw [pin], by rw [observed, pin]; rfl⟩

theorem exec_compareEdge {s t : State} {p : Pin} {e : PEdge} (next : nextEdge p (landsNext s.tg.edges) s.tg.edges = some e)
    (lands : fireCompare e (toEpoch e.land s) = t) : exec (.compareEdge p) s = .next t := by
  rw [← lands]
  show Host.Outcome.next _ = _
  rw [next]

/-- The branches of a compare edge that is placed and keeps its distance (R67). -/
theorem fireCompare_eq {e : PEdge} {s : State} (on : placed (withoutEdge e s) e = true) (apart : tooClose (withoutEdge e s) e = false) :
    fireCompare e s = if e.e = 5 then closeWin e (compareFired e s)
      else if e.dropped ∨ switching s.pins[e.pin] e.land ∨ inBrim (compareFired e s) e then { compareFired e s with
        tg := { (compareFired e s).tg with edges := (compareFired e s).tg.edges.filterMap (afterDrop e) } }
      else if e.act = .open_ then windowE4 e (compareFired e s) else strobe e (compareFired e s) :=
  (if_neg (not_not.mpr on)).trans (if_neg (ne_true_of_eq_false apart))

theorem fireCompare_e5 {e : PEdge} {s : State} (on : placed (withoutEdge e s) e = true) (apart : tooClose (withoutEdge e s) e = false)
    (five : e.e = 5) : fireCompare e s = closeWin e (compareFired e s) := by
  rw [fireCompare_eq on apart, if_pos five]

/-- An E4 that is performed: not dropped, outside a function change and a brim (R91, R96). -/
structure Performed (e : PEdge) (s : State) : Prop where
  on : placed (withoutEdge e s) e = true
  apart : tooClose (withoutEdge e s) e = false
  four : e.e = 4
  kept : e.dropped = false
  steady : switching s.pins[e.pin] e.land = false
  clear : inBrim (compareFired e s) e = false

theorem Performed.fireCompare_eq {e : PEdge} {s : State} (h : Performed e s) :
    fireCompare e s = if e.act = .open_ then windowE4 e (compareFired e s) else strobe e (compareFired e s) := by
  have four := h.four
  rw [Machine.fireCompare_eq h.on h.apart, if_neg (by omega), h.kept, h.steady, h.clear]
  exact if_neg (by decide)

theorem Performed.open_ {e : PEdge} {s : State} (h : Performed e s) (act : e.act = .open_) :
    fireCompare e s = windowE4 e (compareFired e s) := by
  rw [h.fireCompare_eq, if_pos act]

theorem Performed.strobe {e : PEdge} {s : State} (h : Performed e s) (act : e.act = .strobe) :
    fireCompare e s = strobe e (compareFired e s) := by
  rw [h.fireCompare_eq, if_neg (by rw [act]; decide)]

end Sys2Proof.Machine

open Sys2Proof Sys2Proof.Machine

/-- Settles O19: a strobe by whether a drive transition is near, a window's E4 by its length and what came before, its E5, and the burst. -/
theorem strobeTakesObservedState : Obligations.strobeTakesObservedState := by
  unfold Obligations.strobeTakesObservedState
  refine ⟨?strobes, ?others⟩
  case strobes =>
    intro s p e next own act four single kept low high u rest v on apart steady clear gives near
    subst own
    have performed : Performed e u := ⟨on, apart, four, kept, steady, clear⟩
    have row : exec (.compareEdge e.pin) s = .next (strobe e v) := exec_compareEdge next (performed.strobe act)
    obtain ⟨en, dat, -, -, same⟩ := compareFired_leaves e u
    refine ⟨fun far => ?_, fun close => ?_⟩
    · obtain ⟨result, free⟩ := strobe_far far
      have parts : (strobe e v).pins = v.pins ∧ (strobe e v).tg = v.tg := by simp
      rw [single] at result
      refine ⟨_, row, ⟨_, ?_, result⟩, free, ?_, ?_, congrArg TG.edges parts.2⟩
      · rw [← observed_eq, ← show observed v e.pin = _ from same]
        exact resultWord_strobe_toNat e.ui low high (observed_le _ _)
      · rw [parts.1]
        exact en
      · rw [parts.1]
        exact dat
    · obtain ⟨result, free⟩ := strobe_near close
      rw [single] at result
      exact ⟨_, _, row, freeCode_le _ _ _, freeCode_mem _ _ _, ⟨_, resultWord_strobe_toNat e.ui low high (freeCode_le _ _ _), result⟩, free⟩
  case others =>
    intro s p e next own kept u rest v gives on apart
    subst own
    obtain ⟨-, -, win, lastE5, same⟩ := compareFired_leaves e u
    refine ⟨fun four opens steady clear c closes => ?opens, fun w five runs vector ui => ?closes,
      fun four act burst steady clear far => ?bursts⟩
    case opens =>
      have performed : Performed e u := ⟨on, apart, four, kept, steady, clear⟩
      have row : exec (.compareEdge e.pin) s = .next (windowE4 e v) := exec_compareEdge next (performed.open_ opens)
      refine ⟨fun short far single => ?_, fun long early => ?_, fun long idle late => ?_⟩
      · obtain ⟨edges, count, pins, result⟩ := windowE4_short_gives closes short far single
        rw [show observed v e.pin = observed u e.pin from same] at result
        exact ⟨_, row, edges, count, by rw [pins]; exact win, result⟩
      · rw [windowE4_masked closes long (early.imp win.trans_ne fun ⟨k, last⟩ => ⟨k, lastE5.trans last.1, last.2⟩)] at row
        exact ⟨_, row, by rw [countDrop_sp]; rfl, by rw [countDrop_pins]; exact win, countDrop_edges .., countDrop_dropCnt ..⟩
      · rw [windowE4_opens closes long (win.trans idle) fun k last => late k (lastE5.symm.trans last)] at row
        obtain ⟨opened, sp, tg⟩ := openWin_opens e v
        refine ⟨_, _, row, opened, by rw [sp]; rfl, by rw [tg]; rfl, rfl, rfl, rfl, rfl, same, rfl, ?_⟩
        rw [← same]
        exact winOpened_tent e v
    case closes =>
      have row : exec (.compareEdge e.pin) s = .next (closeWin e v) := exec_compareEdge next (fireCompare_e5 on apart five)
      obtain ⟨shut, last, result⟩ := closeWin_closes (win.trans runs) vector ui
      refine ⟨_, row, shut, last, fun plain => ?_, fun burst => ?_⟩
      · rw [plain, resultWord_window] at result
        exact result
      · rw [burst, resultWord_windowBurst] at result
        exact result
    case bursts =>
      have performed : Performed e u := ⟨on, apart, four, kept, steady, clear⟩
      have row : exec (.compareEdge e.pin) s = .next (strobe e v) := exec_compareEdge next (performed.strobe act)
      obtain ⟨result, -⟩ := strobe_far far
      rw [burst, resultWord_burst, show observed v e.pin = observed u e.pin from same] at result
      exact ⟨_, row, result⟩
end

section
/-! SUPPORT. The issue of a vector behind a brim (R62, R75), and the state that refutes the statement on the issue of vectors: the epoch wraps in
the brim (R44), and the stream frame that closes with it pushes the oldest frame of the full front to the staging region, which lies in
device DRAM (R284, R289). -/

namespace Sys2Proof.Machine

open Sys2Proof

/-- With no condition open nothing resolves before a vector start. -/
theorem nextResolve_none {s : State} (closed : s.sp.open_ = []) : nextResolve s = none := by
  simp [nextResolve, oldestDue, lateGlobal, closed]

theorem exec_vectorIssue {s : State} (closed : s.sp.open_ = []) : exec .vectorIssue s = .next (vectorStart s) := by
  show Host.Outcome.next _ = _
  rw [nextResolve_none closed]
  rfl

/-- The word that supplies the vector. -/
def brimWord : Cur := { kind := .vec, word := 0, addr := 64, left := 1 }

/-- A glove-sparse vector without gloves, of timing set 0 (R172, R173). -/
def brimVector : Shelf := { item := .vector 64, bytes := 0x40 :: zeros 31, spare := false, ue := false, host := false }

/-- A run at the last fabric cycle before the epoch wraps, which is its nominal start: timing set 0 is coherent with a period of 2 and
phase 0 cycles, so that the first vector stands behind a brim of one cycle. The stream is open with one open frame, a full front, a
full ring and free staging. -/
def brimAtWrap : State := {
  tb := { fabSrc := .edge, epoch := 0xFFFFFFFFFFFFE000 }
  mg := { pstate := 1 }
  pt := { room := [(0x401, 0x40), (0x406, 0x03)] }
  sq := { state := .running, stopped := false, startTick := 2 ^ 64 - 8192, cur := some brimWord }
  pm := {
    shelf := [brimVector]
    regions := vset (vset (.replicate 16 {}) 0 { base := 0x10000000, size := 1, typ := 4 }) 1 { base := 0, size := 1, typ := 1 } }
  cs := { open_ := true, prod := 2 ^ 48, frames := vset (.replicate 16 none) 0 (some (plainFrame 0)), fseq := 1025
          front := List.replicate 1024 (plainFrame 1) } }

/-- The nominal start has come. -/
theorem brimAtWrap_now : toEpoch (nextStart brimAtWrap - nextStart brimAtWrap % 8192) brimAtWrap = brimAtWrap := toEpoch_past (by decide)

/-- The vector is issued when its brim is over, behind the wrap, which stages a frame. -/
theorem brimAtWrap_stages : memGet 0 (vectorStart brimAtWrap).pm.dram 0x10000000 = 1 := by decide +kernel

end Sys2Proof.Machine

open Sys2Proof Sys2Proof.Machine

/-- Refutes O16: the vector of `brimAtWrap` is issued, and the wrap in its brim writes a frame to the staging region at 0x10000000. -/
theorem not_vectorsIssued : ¬ Obligations.vectorsIssued := by
  unfold Obligations.vectorsIssued
  rintro ⟨issues, -⟩
  have issued := issues brimAtWrap brimWord brimVector
  simp only [brimAtWrap_now] at issued
  obtain ⟨t, -, row, -, -, -, -, -, -, -, -, -, -, -, -, -, -, -, kept, -⟩ := issued (by decide +kernel) rfl (by decide +kernel) rfl rfl
    rfl rfl rfl (by decide +kernel) (by decide +kernel) rfl (by decide +kernel) (by decide +kernel) (by decide +kernel) (by decide +kernel)
    (by decide +kernel)
  rw [exec_vectorIssue rfl, Host.Outcome.next.injEq] at row
  have staged := brimAtWrap_stages
  rw [row, kept] at staged
  exact absurd staged (by decide)
end

section
/-! SUPPORT. Entry to containment (R411, R412): the park path (R127, R333), the TIU gates (R308), the end of the run (R215, R412), and what is
kept; the statement on it. -/

namespace Sys2Proof.Machine

open Sys2Proof

/-! ### The park path (R127, R333) -/

/-- The park state is a matter of the pins, the front end and the margin channels. -/
theorem Parked.congr {s t : State} (h : Parked s) (pf : t.pf = s.pf) (pins : t.pins = s.pins) (mx : t.mx = s.mx) : Parked t := by
  rw [Parked, pf, pins, mx]
  exact h

theorem parkPin_dac (x : PinSt) (d : DacIx) : (parkPin x).dacs[d] = parkDac x.dacs[d] := vmap_get parkDac x.dacs d

/-- The park path puts every pin and every margin channel in the park state. -/
theorem parkAll_parked (mxCause : Nat) (s : State) : Parked (parkAll mxCause s) := by
  refine ⟨rfl, fun p => ?_, fun c => ?_⟩
  · have pin : (parkAll mxCause s).pins[p] = parkPin ((List.finRange 16).foldl (mxStopEvent mxCause) s).pins[p] := vmap_get _ _ p
    rw [pin]
    exact ⟨rfl, rfl, fun d => by rw [parkPin_dac]; rfl⟩
  · have chan : (parkAll mxCause s).mx.ch[c] = mxParkCh ((List.finRange 16).foldl (mxStopEvent mxCause) s).mx.ch[c] := vmap_get _ _ c
    rw [chan]
    exact ⟨rfl, rfl⟩

/-! ### TIU gates (R308) -/

/-- A gate that is closed stays closed while other gates close. -/
theorem tiuClose_gopen (g k : Glove) (s : State) :
    (tiuClose g s).ti.units[k].gopen = if k = g then false else s.ti.units[k].gopen := by
  split
  · rename_i same
    subst same
    by_cases open_ : s.ti.units[k].gopen = true
    · exact (tiuClose_closed open_).1
    · rw [tiuClose, if_neg open_]
      simpa using open_
  · rename_i other
    rw [(onlyUnit_tiuClose g s).units k other]

theorem tiuCloses_gopen (l : List Glove) (k : Glove) (s : State) :
    (l.foldl (fun t g => tiuClose g t) s).ti.units[k].gopen = if k ∈ l then false else s.ti.units[k].gopen := by
  induction l generalizing s with
  | nil => rfl
  | cons g l ih =>
    rw [List.foldl_cons, ih, tiuClose_gopen]
    by_cases first : k = g <;> by_cases later : k ∈ l <;> simp [first, later]

/-- Every gate closed, with the held sets discarded before (R308, R310). -/
def gatesShut (s : State) : State :=
  (List.finRange 64).foldl (fun t g => tiuClose g t) { s with ti := { s.ti with units := vmap tiuUndo s.ti.units } }

/-- A `GATE_IN` gate waits for a new rising edge (R308). -/
def barGateIn (u : Tiu) : Tiu := if u.gate = 0 then u else { u with barred := true }

theorem barGateIn_gopen (u : Tiu) : (barGateIn u).gopen = u.gopen := by
  unfold barGateIn
  split <;> rfl

theorem tiuCloseAll_units (s : State) : (tiuCloseAll s).ti.units = vmap barGateIn (gatesShut s).ti.units := by
  unfold tiuCloseAll gatesShut barGateIn
  rfl

/-- Containment and `ABORT` leave no gate open. -/
theorem tiuCloseAll_gopen (k : Glove) (s : State) : (tiuCloseAll s).ti.units[k].gopen = false := by
  rw [tiuCloseAll_units, vmap_get, barGateIn_gopen, gatesShut, tiuCloses_gopen, if_pos (List.mem_finRange k)]

/-! ### The end of the run (R215, R412) -/

/-- The sequence store is no matter of an event that counts its occurrences. -/
theorem issueUpTo_store (n code : Nat) (items : List Item) (s : State) : (issueUpTo n code items s).sq.store = s.sq.store := by
  unfold issueUpTo
  split
  · split <;> simp
  · simp

/-- The end of the episodes leaves the sequence store (R248). -/
theorem endEpisodes_store (s : State) : (endEpisodes s).sq.store = s.sq.store := by
  have starve := (endStarve_frame s).2.2.2.2.2.1
  have dstall : ∀ t, (endDstall t).sq.store = t.sq.store := fun t => by unfold endDstall; split <;> simp
  have bubble : ∀ t, (endBubble t).sq.store = t.sq.store := fun t => by
    simp only [endBubble]; split <;> simp [issueUpTo_store]
  have limit : ∀ t, (endLimit t).sq.store = t.sq.store := fun t => by
    simp only [endLimit]; split <;> simp [issueUpTo_store]
  rw [endEpisodes, limit, bubble, dstall, starve]

/-- The end of a starvation episode leaves device DRAM (R188). -/
theorem endStarve_dram (s : State) : (endStarve s).pm.dram = s.pm.dram := by
  unfold endStarve
  split
  · rfl
  · dsimp only
    split
    · simp
    · split <;> simp

theorem endEpisodes_dram (s : State) : (endEpisodes s).pm.dram = s.pm.dram := by
  rw [endEpisodes, (endLimit_frame _).2.2.2.2.2.1, (endBubble_frame _).2.2.2.2.2.1, (endDstall_frame _).2.2.2.2.2.1, endStarve_dram]

/-- The state in which provisional state is discarded: a retraction mark stands for the tail of the oldest open condition (R243). -/
def retracted (s : State) : State :=
  match s.sp.open_ with
  | [] => s
  | c :: _ => if 4096 ≤ c.tails then takeFree (retract c s) else retract c s

theorem retracted_keeps (s : State) : Keeps [.cs, .hi, .mg, .freeCtr] s (retracted s) := by
  intro p hp
  unfold retracted
  cases p <;> first | exact absurd (by decide) hp | (dsimp only [samePart]; split <;> [rfl; split <;> simp])

theorem dropProvisional_eq (s : State) : dropProvisional s = { retracted s with
    sp := { (retracted s).sp with toOpen := [], open_ := [], inflight := dropResults (retracted s).sp.inflight }
    sq := { (retracted s).sq with acts := closeOpens (retracted s).sq.acts, held := [], svcQueue := [], reqs := {} } } := rfl

/-- What the statement says of a run that ends by containment. -/
structure RunContained (q : SQ) (p : SP) : Prop where
  draining : q.state = .draining
  cause : q.stopCause = 5
  stopped : q.stopped = true
  proc : q.proc = none
  queue : q.svcQueue = []
  held : q.held = []
  open_ : p.open_ = []
  toOpen : p.toOpen = []
  dead : ∀ v ∈ p.inflight, v.dead = true

theorem dropResults_dead {l : List VRec} {v : VRec} (h : v ∈ dropResults l) : v.dead = true := by
  obtain ⟨w, -, rfl⟩ := List.mem_map.mp h
  rfl

theorem containRun_running {s : State} (run : running s = true) : containRun s =
    let t := dropProvisional (stopVector 5 0 s)
    { t with sq := { t.sq with proc := none, underLoad := none } } := if_pos run

/-- A run in progress stops with cause containment, and nothing provisional is left. -/
theorem containRun_ends {s : State} (run : running s = true) : RunContained (containRun s).sq (containRun s).sp := by
  have sq : (retracted (stopVector 5 0 s)).sq = (stopVector 5 0 s).sq := retracted_keeps _ .sq (by decide)
  rw [containRun_running run]
  dsimp only
  rw [dropProvisional_eq, sq]
  exact ⟨rfl, rfl, rfl, rfl, rfl, rfl, rfl, rfl, fun v hv => dropResults_dead hv⟩

theorem containRun_idle {s : State} (idle : running s = false) : containRun s = s := if_neg (by simp [idle])

theorem containRun_store (s : State) : (containRun s).sq.store = s.sq.store := by
  cases run : running s
  · rw [containRun_idle run]
  · have sq : (retracted (stopVector 5 0 s)).sq = (stopVector 5 0 s).sq := retracted_keeps _ .sq (by decide)
    rw [containRun_running run]
    dsimp only
    rw [dropProvisional_eq, sq]
    exact endEpisodes_store s

theorem containRun_dram (s : State) : (containRun s).pm.dram = s.pm.dram := by
  cases run : running s
  · rw [containRun_idle run]
  · rw [containRun_running run]
    dsimp only
    rw [(dropProvisional_frame _).2.2.2.2.2.1]
    exact endEpisodes_dram s

/-! ### Entry to containment (R411, R412) -/

/-- The safe state before containment is recorded: the run over, the gates closed, the park path taken. -/
def madeSafe (s : State) : State := parkAll 2 (tiuCloseAll (containRun s))

theorem enterContain_keeps (cause : Nat) (s : State) : Keeps [.hi, .mg] (madeSafe s) (enterContain cause s) := by
  have recorded : ∀ g : MG, Keeps [.mg] (madeSafe s) { madeSafe s with mg := g } := fun g => setMg_keeps g _
  exact (((recorded _).mono (by simp)).trans ((errIrq_keeps _ _).mono (by simp))).trans (issue_keeps _ _ _)

/-- What a formed member adds to its containment goes to the link and to the log (R412). -/
theorem contain_keeps {s : State} (cause : Nat) (free : s.mg.contained = false) :
    Keeps [.en, .hi, .mg] (madeSafe s) (contain cause s) := by
  have first := (enterContain_keeps cause s).mono (m := [.en, .hi, .mg]) (by simp)
  rw [contain, if_neg (by simp [free])]
  dsimp only
  split
  · refine first.trans fun p hp => ?_
    cases p <;> first | exact absurd (by decide) hp | simp [samePart]
  · exact first

theorem madeSafe_frame (s : State) : (madeSafe s).sq = (containRun s).sq ∧ (madeSafe s).sp = (containRun s).sp
    ∧ (madeSafe s).ti = (tiuCloseAll (containRun s)).ti ∧ (madeSafe s).pm = (containRun s).pm ∧ (madeSafe s).pt = s.pt
    ∧ (madeSafe s).bt = s.bt ∧ (madeSafe s).tb = s.tb ∧ (madeSafe s).pending = s.pending := by
  simp [madeSafe]

/-- The word of the first cause: bit 63, the cause, count 0, and the epoch (Table 16.13). -/
theorem contain_word {cause : Nat} {s : State} (small : cause < 128) (free : s.mg.contained = false) :
    (contain cause s).mg.contain.toNat = 2 ^ 63 + cause * 2 ^ 56 + s.tb.epoch.toNat % 2 ^ 48 := by
  have word : (contain cause s).mg.contain = BitVec.ofNat 64 (2 ^ 63 + cause * 2 ^ 56 + s.tb.epoch.toNat % 2 ^ 48) := by
    have mg : ∀ a b c t, (sendDiscord a b c t).mg = t.mg := fun a b c t => by simp
    rw [contain, if_neg (by simp [free])]
    dsimp only
    split
    · rw [mg, recordDiscord_containWord, enterContain_containWord]
    · exact enterContain_containWord cause s
  rw [word, BitVec.toNat_ofNat]
  omega

end Sys2Proof.Machine

open Sys2Proof Sys2Proof.Machine

/-- Settles O52: the safe state is that of the run's end, the closed gates and the park path, which the records of containment leave. -/
theorem containmentMakesSafe : Obligations.containmentMakesSafe := by
  unfold Obligations.containmentMakesSafe
  intro s cause free small t
  have kept : Keeps [.en, .hi, .mg] (madeSafe s) t := contain_keeps cause free
  obtain ⟨sq, sp, ti, pm, pt, bt, tb, pending⟩ := madeSafe_frame s
  have sq' : t.sq = (containRun s).sq := (kept .sq (by decide)).trans sq
  have sp' : t.sp = (containRun s).sp := (kept .sp (by decide)).trans sp
  have pm' : t.pm = (containRun s).pm := (kept .pm (by decide)).trans pm
  have ti' : t.ti = (tiuCloseAll (containRun s)).ti := (kept .ti (by decide)).trans ti
  have parked : Parked t :=
    (parkAll_parked 2 (tiuCloseAll (containRun s))).congr (kept .pf (by decide)) (kept .pins (by decide)) (kept .mx (by decide))
  refine ⟨contain_contained cause s, parked, fun g => ?gates, contain_word small free, fun run => ?run, fun idle => ?idle, ?store,
    (kept .pt (by decide)).trans pt, ?dram, (kept .bt (by decide)).trans bt, (kept .tb (by decide)).trans tb,
    (kept .pending (by decide)).trans pending⟩
  case gates => rw [ti', tiuCloseAll_gopen]
  case run =>
    rw [sq', sp']
    obtain ⟨draining, cause5, stopped, proc, queue, held, open_, toOpen, dead⟩ := containRun_ends run
    exact ⟨draining, cause5, stopped, proc, queue, held, open_, toOpen, dead⟩
  case idle =>
    rw [sq', sp', containRun_idle idle]
    exact ⟨rfl, rfl⟩
  case store => rw [sq', containRun_store]
  case dram => rw [pm', containRun_dram]
end

section
/-! SUPPORT. Level ticks, the deglitcher, the slew limiter, the enabling of a function and the range overlap (R106 to R112, R119, R124), and the
statement on them. -/

namespace Sys2Proof.Machine

open Sys2Proof

/-! ### A DAC that follows its code (R106, R111) -/

/-- The codes of a DAC that no glitch option moves: requested, active, park and staged code. -/
def heldCodes (d : Dac) : W16 × W16 × W16 × W16 := (d.req, d.act, d.park, d.staged)

/-- Following a new active code moves the output only. -/
theorem moveDac_codes (c : FeCtl) (now cyc : Nat) (i : DacIx) (prev : W16) (d : Dac) :
    heldCodes (moveDac c now cyc i prev d) = heldCodes d := by
  unfold moveDac
  split
  · split <;> rfl
  · split <;> rfl

/-- A new active code is the active one, whether or not the output follows. -/
theorem setActive_codes (parked : Bool) (c : FeCtl) (now cyc : Nat) (i : DacIx) (act : W16) (d : Dac) :
    heldCodes (setActive' parked c now cyc i act d) = heldCodes { d with act := act } := by
  unfold setActive'
  split
  · rename_i same
    rw [same]
  · split
    · rfl
    · exact moveDac_codes ..

/-- A staged code that is unchanged changes nothing at a tick (R107). -/
theorem tickDac_same {d : Dac} (parked : Bool) (c : FeCtl) (vio : W16) (now cyc : Nat) (i : DacIx) (same : d.staged = d.req) :
    tickDac parked c vio now cyc true i d = d := if_pos same

/-- A staged code that is new becomes the requested code, and its clamp the active one (R106, R107). -/
theorem tickDac_new {d : Dac} (parked : Bool) (c : FeCtl) (vio : W16) (now cyc : Nat) (i : DacIx) (new : d.staged ≠ d.req) :
    heldCodes (tickDac parked c vio now cyc true i d) = (d.staged, clampCode vio d.staged i, d.park, d.staged) := by
  have row : tickDac parked c vio now cyc true i d
      = setActive' parked c now cyc i (clampCode vio d.staged i) { d with req := d.staged } := if_neg new
  rw [row, setActive_codes]
  rfl

/-- The clamp keeps `DHI`, `DLO` and `VTT` between 0 V and the bank's `VIO_CODE` (R106). -/
theorem clampCode_bounds {vio : W16} (req : W16) {d : DacIx} (bank : d.val = 0 ∨ d.val = 1 ∨ d.val = 4) (set : 0x1746 ≤ vio.toNat) :
    0x1746 ≤ (clampCode vio req d).toNat ∧ (clampCode vio req d).toNat ≤ vio.toNat := by
  have clamps : clamped d = true := by simpa [clamped, or_assoc] using bank
  have nonzero : vio ≠ 0 := by
    rintro rfl
    exact absurd set (by decide)
  rw [clampCode, if_neg (by simp [clamps]), if_neg nonzero]
  split
  · exact ⟨set, le_rfl⟩
  · rename_i below
    split
    · exact ⟨le_rfl, set⟩
    · exact ⟨by omega, by omega⟩

/-- The other codes are not clamped (R106). -/
theorem clampCode_free (vio req : W16) {d : DacIx} (other : d.val = 2 ∨ d.val = 3 ∨ d.val = 5) : clampCode vio req d = req := by
  have free : clamped d = false := by
    obtain h | h | h := other <;> simp [clamped, h]
  exact if_pos (by simp [free])

/-! ### A tick on one pin (R107, R119, R124) -/

/-- A range overlap that starts, ends or goes on is no matter of what is staged nor of the DACs (R124). -/
theorem overlap_front (now : Nat) (p : PinSt) (starts ends : Prop) [Decidable starts] [Decidable ends] :
    let q := if starts then startOverlap now p else if ends then { p with rangeFrom := none } else p
    q.stg = p.stg ∧ q.dacs = p.dacs := by
  intro q
  simp only [q]
  split
  · unfold startOverlap
    split <;> exact ⟨rfl, rfl⟩
  · split <;> exact ⟨rfl, rfl⟩

/-- What a tick that sees the staged values makes of a pin. -/
structure Ticked (parked : Bool) (vio : W16) (now cyc : Nat) (p q : PinSt) : Prop where
  ctl : q.ctl = p.stg
  stg : q.stg = p.stg
  enabled : q.enabled = if p.stg.func != p.ctl.func then false else p.enabled
  en : q.en = if p.stg.func != p.ctl.func then false else p.en
  enableAt : q.enableAt = if p.stg.func != p.ctl.func then (if parked then none else some (now + 327680)) else p.enableAt
  dacs : ∀ d : DacIx, q.dacs[d] = tickDac parked p.stg vio now cyc true d p.dacs[d]

theorem tickCtl_front (parked : Bool) (now e : Nat) (p : PinSt) :
    (tickCtl parked true now e p).ctl = p.stg ∧ (tickCtl parked true now e p).stg = p.stg
      ∧ (tickCtl parked true now e p).dacs = p.dacs :=
  ⟨rfl, overlap_front now p _ _⟩

theorem tickPin_ticked {idle : Bool} {now cyc : Nat} {p : PinSt} (parked : Bool) (vio : W16) (e : Nat)
    (fresh : freshFor idle (now / cyc * cyc) p = true) : Ticked parked vio now cyc p (tickPin parked idle vio now e cyc p) := by
  obtain ⟨ctl, stg, dacs⟩ := tickCtl_front parked now e p
  have pin : tickPin parked idle vio now e cyc p = { tickCtl parked true now e p with
      dacs := vmapIdx (fun i d => tickDac parked (tickCtl parked true now e p).ctl vio now cyc true i d) (tickCtl parked true now e p).dacs
      ppmuTick := (tickPin parked idle vio now e cyc p).ppmuTick } := by
    simp only [tickPin, fresh]
  rw [pin]
  exact ⟨ctl, stg, rfl, rfl, rfl, fun d => by rw [ctl, dacs, vmapIdx_get]⟩

/-! ### A tick on the pins of a set (R107, R110) -/

/-- The pins after a level tick on some of them. -/
def tickedPins (idle : Bool) (sel : Pin → Bool) (s : State) : Vector PinSt 512 :=
  vmapIdx (fun p x => if sel p then tickPin (pinParked s p) idle s.pf.vio[bankOf p] s.tb.now (ext s) (cycleTicks s) x else x) s.pins

/-- A tick moves the pins, and reports the first clamp it makes. -/
theorem tickPins_cases (idle : Bool) (sel : Pin → Bool) (s : State) :
    tickPins idle sel s = { s with pins := tickedPins idle sel s }
      ∨ ∃ p l, tickPins idle sel s = reportClamp p l { s with pins := tickedPins idle sel s } := by
  unfold tickPins
  dsimp only
  split
  · exact .inr ⟨_, _, rfl⟩
  · exact .inl rfl

/-- A clamp is reported in the front end's status and in the log (R106). -/
theorem reportClamp_keeps (p : Pin) (l : List (DacIx × W16 × W16)) (s : State) :
    Keeps [.pf, .sq, .hi, .mg] s (reportClamp p l s) := by
  intro part hp
  unfold reportClamp
  cases part <;> first | exact absurd (by decide) hp | (dsimp only [samePart]; split <;> simp)

/-- Of the front end a reported clamp changes the flag only. -/
theorem reportClamp_pf (p : Pin) (l : List (DacIx × W16 × W16)) (s : State) :
    ∃ c f, (reportClamp p l s).pf = { s.pf with clamp := c, fresh := f } := by
  unfold reportClamp
  split
  · exact ⟨_, _, rfl⟩
  · exact ⟨true, freshen s 0x10 s.pf.fresh, by simp⟩

theorem tickPins_keeps (idle : Bool) (sel : Pin → Bool) (s : State) :
    Keeps [.pins, .pf, .sq, .hi, .mg] s (tickPins idle sel s) := by
  have moved := (setPins_keeps (tickedPins idle sel s) s).mono (m := [.pins, .pf, .sq, .hi, .mg]) (by simp)
  obtain h | ⟨p, l, h⟩ := tickPins_cases idle sel s
  · rw [h]
    exact moved
  · rw [h]
    exact moved.trans ((reportClamp_keeps p l _).mono (by simp))

theorem tickPins_pins (idle : Bool) (sel : Pin → Bool) (s : State) : (tickPins idle sel s).pins = tickedPins idle sel s := by
  obtain h | ⟨p, l, h⟩ := tickPins_cases idle sel s
  · rw [h]
  · rw [h]
    exact reportClamp_keeps p l _ .pins (by decide)

theorem tickPins_ticks (idle : Bool) (sel : Pin → Bool) (s : State) : (tickPins idle sel s).pf.ticks = s.pf.ticks := by
  obtain h | ⟨p, l, h⟩ := tickPins_cases idle sel s
  · rw [h]
  · obtain ⟨c, f, pf⟩ := reportClamp_pf p l { s with pins := tickedPins idle sel s }
    rw [h, pf]

/-! ### The rows of level ticks (R107, R109, R110) -/

/-- The first period during a run, with no tick scheduled. -/
theorem exec_levelTimerExpiry {s : State} (timer : s.pf.timer ≠ 0) (run : running s = true) (none : s.pf.ticks = []) :
    let at_ := ceilTo (8192 * s.pf.timer.toNat) (ext s)
    let u := toEpoch at_ s
    exec .levelTimerExpiry s = .next { u with pf := { u.pf with ticks := u.pf.ticks ++ [at_ + landLat] } } := by
  intro at_ u
  have nonzero : s.pf.timer.toNat ≠ 0 := fun h => timer (BitVec.eq_of_toNat_eq h)
  have due : ¬ (8192 * s.pf.timer.toNat = 0 ∨ ¬ running s = true) := by
    rintro (h | h)
    · omega
    · exact h run
  refine congrArg Host.Outcome.next ((if_neg due).trans ?_)
  rw [none]
  rfl

/-- The state in which a scheduled tick acts: it is scheduled no more. -/
def tickTaken (k : Nat) (u : State) : State := { u with pf := { u.pf with ticks := u.pf.ticks.filter fun x => x != k } }

theorem exec_levelTick {s : State} {k : Nat} (first : firstTick s.pf.ticks = some k) :
    exec .levelTick s = .next (tickPins false (fun _ => true) (tickTaken k (toEpoch k s))) := by
  show Host.Outcome.next _ = _
  rw [first]
  rfl

theorem tickTaken_keeps (k : Nat) (u : State) : Keeps [.pf] u (tickTaken k u) := by
  intro p hp
  cases p <;> first | exact absurd (by decide) hp | rfl

/-- A scheduled tick makes the staged values of a pin active where none was staged in the tick's own cycle (R107, R108). -/
theorem levelTick_pin {u : State} (k : Nat) {p : Pin} (before : u.pins[p].stgAt ≠ cycleStart u) :
    Ticked (pinParked u p) u.pf.vio[bankOf p] u.tb.now (cycleTicks u) u.pins[p]
      (tickPins false (fun _ => true) (tickTaken k u)).pins[p] := by
  have fresh : freshFor false (u.tb.now / cycleTicks u * cycleTicks u) u.pins[p] = true := by
    simpa [freshFor, cycleStart] using before
  have pin : (tickPins false (fun _ => true) (tickTaken k u)).pins[p]
      = tickPin (pinParked u p) false u.pf.vio[bankOf p] u.tb.now (ext u) (cycleTicks u) u.pins[p] := by
    rw [tickPins_pins, tickedPins, vmapIdx_get]
    rfl
  rw [pin]
  exact tickPin_ticked _ _ _ fresh

/-! ### Outputs that follow (R111, R112) -/

theorem exec_deglitchHoldEnd {s : State} {p : Pin} {d : DacIx} {k : Nat} (hold : s.pins[p].dacs[d].hold = some k) :
    exec (.deglitchHoldEnd p d) s = .next (updDac p d (fun x => { x with out := x.act, hold := none }) (toTime k s)) := by
  show Host.Outcome.next _ = _
  rw [hold]

theorem exec_slewStep {s : State} {p : Pin} {d : DacIx} {k : Nat} (slew : s.pins[p].dacs[d].slew = some k) :
    exec (.slewStep p d) s = .next (updDac p d (slewOnce s.pins[p].ctl k (cycleTicks s)) (toTime k s)) := by
  show Host.Outcome.next _ = _
  rw [slew]

theorem updDac_own (p : Pin) (d : DacIx) (f : Dac → Dac) (s : State) : (updDac p d f s).pins[p].dacs[d] = f s.pins[p].dacs[d] := by
  rw [updDac, updPin_pins, vupd_self]
  exact vupd_self _ d f

theorem updDac_sibling (p : Pin) {d j : DacIx} (f : Dac → Dac) (s : State) (other : j ≠ d) :
    (updDac p d f s).pins[p].dacs[j] = s.pins[p].dacs[j] := by
  rw [updDac, updPin_pins, vupd_self]
  exact vupd_other _ f (Ne.symm other)

theorem updDac_other {p r : Pin} (d : DacIx) (f : Dac → Dac) (s : State) (other : r ≠ p) : (updDac p d f s).pins[r] = s.pins[r] := by
  rw [updDac, updPin_pins, vupd_other _ _ (Ne.symm other)]

theorem updDac_keeps (p : Pin) (d : DacIx) (f : Dac → Dac) (s : State) : Keeps [.pins] s (updDac p d f s) := setPins_keeps _ s

/-- A slew step moves toward the target by the step, and never past it (R111). -/
theorem stepToward_toNat (o t : W16) (n : Nat) :
    (stepToward o t n).toNat = if o.toNat ≤ t.toNat then min t.toNat (o.toNat + n) else max t.toNat (o.toNat - n) := by
  have := o.isLt
  have := t.isLt
  unfold stepToward
  split
  · exact BitVec.toNat_ofNat _ _ |>.trans (Nat.mod_eq_of_lt (by omega))
  · exact BitVec.toNat_ofNat _ _ |>.trans (Nat.mod_eq_of_lt (by omega))

/-- The limiter stops when the active code is reached. -/
theorem slewOnce_stops (c : FeCtl) (t cyc : Nat) (d : Dac) : (slewOnce c t cyc d).slew = none ↔ (slewOnce c t cyc d).out = d.act := by
  show (if stepToward d.out d.act c.slewStep.toNat = d.act then none else some _) = none ↔ stepToward d.out d.act c.slewStep.toNat = d.act
  split <;> simp [*]

/-! ### Functions and ranges (R119, R124) -/

theorem exec_functionEnable {s : State} {p : Pin} {k : Nat} (due : s.pins[p].enableAt = some k) :
    exec (.functionEnable p) s
      = .next (updPin p (fun x => { x with enabled := true, enableAt := none, enabledAt := k }) (toTime k s)) := by
  show Host.Outcome.next _ = _
  rw [due]

theorem exec_ppmuRangeOverlapEnd {s : State} {p : Pin} (overlap : s.pins[p].rangeFrom ≠ none) :
    exec (.ppmuRangeOverlapEnd p) s = .next (updPin p (fun x => { x with rangeFrom := none }) (toTime s.pins[p].rangeEnd s)) :=
  congrArg Host.Outcome.next (if_pos (Option.isSome_iff_ne_none.mpr overlap))

end Sys2Proof.Machine

open Sys2Proof Sys2Proof.Machine

/-- Settles O29: a period schedules its tick, the tick makes the staged values of a pin active, and the due rows of one pin act on it. -/
theorem levelTicksAndTransitions : Obligations.levelTicksAndTransitions := by
  unfold Obligations.levelTicksAndTransitions
  refine ⟨⟨fun s timer run none => exec_levelTimerExpiry timer run none, fun s k first => ?tick⟩, fun s p d =>
    ⟨fun k hold => ?hold, fun k slew => ?slew, fun k due => exec_functionEnable due, fun overlap => exec_ppmuRangeOverlapEnd overlap⟩⟩
  case tick =>
    intro u
    refine ⟨_, exec_levelTick first, ?_, ((tickTaken_keeps k u).mono (by simp)).trans (tickPins_keeps _ _ _), fun p before => ?_⟩
    · rw [tickPins_ticks]
      simp [tickTaken]
    · have ticked := levelTick_pin k before
      refine ⟨ticked.ctl, ticked.stg, fun changed => ?changed, fun same => ?same, fun d => ?dac⟩
      case changed =>
        have moved : (u.pins[p].stg.func != u.pins[p].ctl.func) = true := by simpa using changed
        rw [ticked.enabled, ticked.en, ticked.enableAt, moved]
        exact ⟨rfl, rfl, rfl⟩
      case same => rw [ticked.enabled, same, bne_self_eq_false, if_neg (by decide)]
      case dac =>
        rw [ticked.dacs d]
        by_cases same : u.pins[p].dacs[d].staged = u.pins[p].dacs[d].req
        · rw [tickDac_same _ _ _ _ _ d same]
          exact ⟨same.symm, fun new => absurd same new, fun _ => rfl⟩
        · have codes := tickDac_new (pinParked u p) u.pins[p].stg u.pf.vio[bankOf p] u.tb.now (cycleTicks u) d same
          have act := congrArg (fun c => c.2.1) codes
          refine ⟨congrArg Prod.fst codes, fun _ => ⟨act, fun bank set => ?_, fun other => act.trans (clampCode_free _ _ other)⟩,
            fun h => absurd h same⟩
          rw [show (tickDac _ _ _ _ _ _ d _).act = _ from act]
          exact clampCode_bounds _ bank set
  case hold =>
    intro u
    exact ⟨_, exec_deglitchHoldEnd hold, updDac_own p d _ u, fun j other => updDac_sibling p _ u other,
      fun r other => updDac_other d _ u other, updDac_keeps p d _ u⟩
  case slew =>
    intro u o a n
    refine ⟨_, exec_slewStep slew, ?_, ?_, ?_, fun r other => updDac_other d _ u other, updDac_keeps p d _ u⟩
    · rw [updDac_own]
      exact stepToward_toNat _ _ _
    · rw [updDac_own]
      exact slewOnce_stops _ _ _ _
    · rw [updDac_own]
      rfl
end

section
/-! SUPPORT. Completions of the commands of the front end, and what `PF_CONFIG`, `PF_UNPARK` and `PF_PPMU_MEAS` do (R106, R130, R131, R137, R138), with
the statement on them. -/

namespace Sys2Proof.Machine

open Sys2Proof

/-! ### Commands and their completions (R390, R391) -/

/-- A command that executes is one of its row's opcode and tag. -/
theorem executing_entry {op : Nat} {tag : W16} {s : State} {e : Exec} (runs : executing op tag s = some e) :
    e.entry.opcode = BitVec.ofNat 16 op ∧ e.entry.tag = tag := by
  have h := List.find?_some runs
  simp only [Bool.and_eq_true, beq_iff_eq] at h
  exact h.1

/-- A command changed while it executes is still the one that executes. -/
theorem executing_updExec {op : Nat} {tag : W16} {s : State} {e : Exec} {f : Exec → Exec} (runs : executing op tag s = some e)
    (entry : ∀ x, (f x).entry = x.entry) : executing op tag (updExec tag f s) = some (f e) := by
  have same : ∀ x : Exec, (if x.entry.tag = tag then f x else x).entry = x.entry := fun x => by
    split
    · exact entry x
    · rfl
  have found : executing op tag (updExec tag f s) = (executing op tag s).map fun x => if x.entry.tag = tag then f x else x := by
    simp only [executing, updExec, finished, List.find?_map, Function.comp_def, same]
  rw [found, runs, Option.map_some, if_pos (executing_entry runs).2]

theorem answer_keeps (e : Exec) (status : Nat) (data : List Byte) (s : State) : Keeps [.hi] s (answer e status data s) := setHi_keeps _ s

/-- A completion is the only news of the host interface. -/
theorem answer_answered (e : Exec) (status : Nat) (data : List Byte) (s : State) : Answered e status data s (answer e status data s) := rfl

/-- Two host interfaces that differ in traces only agree once these are put back. -/
theorem withTrace_of_logless {s t : State} (h : logless t = logless s) : withTrace s.hi t.hi = s.hi := by
  have agree : withTrace {} t.hi = withTrace {} s.hi := congrArg Prod.snd h
  exact (congrArg (withTrace s.hi) agree : withTrace s.hi (withTrace {} t.hi) = withTrace s.hi (withTrace {} s.hi))

theorem cpls_of_logless {s t : State} (h : logless t = logless s) : t.hi.cpls = s.hi.cpls :=
  hi_of_logless (f := HI.cpls) (fun _ => rfl) h

/-- A command's effect that leaves the registers but for the log, and then its completion (R382). -/
theorem answer_replied (e : Exec) (status : Nat) (data : List Byte) {s t : State} (h : logless t = logless s) :
    Replied e status data s (answer e status data t) := by
  constructor
  · rw [answer_cpls, cpls_of_logless h]
    rfl
  · exact congrArg (fun x : HI => { x with cpls := s.hi.cpls }) (withTrace_of_logless h)

/-- A field of `n` bytes is below `256 ^ n`. -/
theorem payF_lt (e : Exec) (o n : Nat) : payF e o n < 256 ^ n := by
  have bound : ∀ l : List Byte, fieldAt l o n < 256 ^ n := fun l =>
    (leNat_lt _).trans_le (Nat.pow_le_pow_right (by decide) (by simp [slice]))
  unfold payF
  split <;> exact bound _

/-! ### `PF_CONFIG` (R106, R109, R137) -/

@[simp] theorem reportClamp_logless (p : Pin) (l : List (DacIx × W16 × W16)) (s : State) : logless (reportClamp p l s) = logless s := by
  unfold reportClamp
  split
  · rfl
  · exact issueUpTo_logless ..

/-- A bank's `VIO_CODE` is 0 or in the range of Table 5.7. -/
def vioInRange (v : W16) : Prop := v.toNat = 0 ∨ (0x8000 ≤ v.toNat ∧ v.toNat ≤ 0xE8BA)

/-- The check of the `VIO_CODE`s of a `PF_CONFIG`. -/
theorem vioBad_iff (e : Exec) :
    ((List.finRange 8).any fun b => (payVio e b).toNat != 0 && !(decide (0x8000 ≤ (payVio e b).toNat ∧ (payVio e b).toNat ≤ 0xE8BA))) = false
      ↔ ∀ b : Bank, vioInRange (payVio e b) := by
  rw [List.any_eq_false]
  refine ⟨fun h b => ?_, fun h b _ => ?_⟩
  · have := h b (List.mem_finRange b)
    simp only [vioInRange]
    simp at this
    omega
  · have := h b
    simp only [vioInRange] at this
    simp
    omega

theorem exec_pfConfig {s : State} {tag : W16} {e : Exec} (runs : executing 0x0401 tag s = some e) :
    exec (.pfConfig tag) s = .next (pfConfigCmd e s) := congrArg Host.Outcome.next (runCmd_some runs _)

theorem pfConfigCmd_taken {e : Exec} (s : State) (rest : payZero e 20 28 = true) (vio : ∀ b : Bank, vioInRange (payVio e b))
    (timer : payF e 0 4 = 0 ∨ 8 ≤ payF e 0 4) : pfConfigCmd e s = answer e eOk [] (pfApply e s) := by
  have range : ¬ (1 ≤ payF e 0 4 ∧ payF e 0 4 ≤ 7) := by omega
  unfold pfConfigCmd
  dsimp only
  rw [checked_pass, checked_nil]
  rw [(vioBad_iff e).mpr vio, rest, decide_eq_false range]
  rfl

theorem pfConfigCmd_refused {e : Exec} (s : State)
    (bad : ¬ ((∀ b : Bank, vioInRange (payVio e b)) ∧ (payF e 0 4 = 0 ∨ 8 ≤ payF e 0 4))) :
    pfConfigCmd e s = answer e eInval [] s := by
  unfold pfConfigCmd
  dsimp only
  rw [checked_fail]
  by_contra pass
  simp only [Bool.not_eq_true, Bool.or_eq_false_iff, decide_eq_false_iff_not] at pass
  obtain ⟨⟨range, vio⟩, -⟩ := pass
  exact bad ⟨(vioBad_iff e).mp vio, by omega⟩

/-- A change of the pins and the front end is one of these only. -/
theorem setPinsPf_keeps (pf : PF) (v : Vector PinSt 512) (s : State) : Keeps [.pins, .pf] s { s with pf := pf, pins := v } := by
  intro p hp
  cases p <;> first | exact absurd (by decide) hp | rfl

/-- A change of the pins, the front end and the margin outputs is one of these only. -/
theorem setPinsPfMx_keeps (pf : PF) (v : Vector PinSt 512) (mx : MX) (s : State) :
    Keeps [.pins, .pf, .mx] s { s with pf := pf, pins := v, mx := mx } := by
  intro p hp
  cases p <;> first | exact absurd (by decide) hp | rfl

/-- The pins after new `VIO_CODE`s: those of a bank whose code changes form their active codes again. -/
def configPins (e : Exec) (s : State) : Vector PinSt 512 :=
  vmapIdx (fun p x => if (Vector.ofFn fun b => payVio e b)[bankOf p] != s.pf.vio[bankOf p] then
    reclampPin (pinParked s p) (Vector.ofFn fun b => payVio e b)[bankOf p] s.tb.now (cycleTicks s) x else x) s.pins

/-- The state with the level timer and the `VIO_CODE`s of a `PF_CONFIG`. -/
def configured (e : Exec) (s : State) : State :=
  { s with pf := { s.pf with timer := BitVec.ofNat 32 (payF e 0 4), vio := Vector.ofFn fun b => payVio e b }, pins := configPins e s }

theorem configured_pf (e : Exec) (s : State) : (configured e s).pf
    = { s.pf with timer := BitVec.ofNat 32 (payF e 0 4), vio := Vector.ofFn fun b => payVio e b } := by
  unfold configured
  rfl

theorem configured_keeps (e : Exec) (s : State) : Keeps [.pins, .pf] s (configured e s) := setPinsPf_keeps _ _ s

theorem pfApply_cases (e : Exec) (s : State) :
    pfApply e s = configured e s ∨ ∃ p l, pfApply e s = reportClamp p l (configured e s) := by
  unfold pfApply
  dsimp only
  split
  · exact .inr ⟨_, _, rfl⟩
  · exact .inl rfl

/-- What is shared by the two cases of `pfApply`: the registers, the parts, and the log. -/
theorem pfApply_configures (e : Exec) (s : State) :
    (pfApply e s).pf.timer = BitVec.ofNat 32 (payF e 0 4) ∧ (pfApply e s).pf.vio = Vector.ofFn (fun b => payVio e b)
      ∧ Keeps [.pins, .pf, .sq, .hi, .mg] s (pfApply e s) ∧ logless (pfApply e s) = logless s := by
  have first : Keeps [.pins, .pf, .sq, .hi, .mg] s (configured e s) := (configured_keeps e s).mono (by simp)
  have log : logless (configured e s) = logless s := logless_of_eq (configured_keeps e s .mg (by decide)) (configured_keeps e s .hi (by decide))
  obtain h | ⟨p, l, h⟩ := pfApply_cases e s
  · rw [h, configured_pf]
    exact ⟨rfl, rfl, first, log⟩
  · obtain ⟨c, f, pf⟩ := reportClamp_pf p l (configured e s)
    rw [h, pf, configured_pf, reportClamp_logless]
    exact ⟨rfl, rfl, first.trans ((reportClamp_keeps p l _).mono (by simp)), log⟩

/-! ### `PF_UNPARK` (R130, R131, R416) -/

theorem exec_pfUnpark {s : State} {tag : W16} {e : Exec} (runs : executing 0x0402 tag s = some e) :
    exec (.pfUnpark tag) s = .next (pfUnparkCmd e s) := congrArg Host.Outcome.next (runCmd_some runs _)

/-- `PF_UNPARK` may release: `PARK_N` is high, the device not contained, in P0 or P1, and no park has acted since its start. -/
structure MayUnpark (e : Exec) (s : State) : Prop where
  high : s.pf.parkN = true
  free : s.mg.contained = false
  powered : s.mg.pstate ≤ 1
  unparked : e.parkActs = s.pf.parkActs

theorem pfUnparkCmd_refused {e : Exec} {s : State} (bad : ¬ MayUnpark e s) : pfUnparkCmd e s = answer e eState [] s := by
  refine checked_fail ?_ _ _ _ _ _
  by_contra pass
  simp only [Bool.not_eq_true, Bool.or_eq_false_iff, Bool.not_eq_false', decide_eq_false_iff_not, bne_eq_false_iff_eq] at pass
  obtain ⟨⟨⟨high, free⟩, powered⟩, unparked⟩ := pass
  exact bad ⟨high, free, by omega, unparked⟩

theorem pfUnparkCmd_releases {e : Exec} {s : State} (may : MayUnpark e s) (parked : s.pf.parked = true) :
    pfUnparkCmd e s = answer e eOk [] (releaseAll s) := by
  obtain ⟨high, free, powered, unparked⟩ := may
  have pass : (!s.pf.parkN || s.mg.contained || decide (1 < s.mg.pstate) || e.parkActs != s.pf.parkActs) = false := by
    simp [high, free, powered, unparked]
  have any : anyParked s = true := by simp [anyParked, parked]
  rw [pfUnparkCmd, checked_pass pass, checked_nil, if_pos any]

/-- The state with the park state released, before its event. -/
def released (s : State) : State :=
  { s with
    pf := { s.pf with parked := false, bankPark := vmapIdx (fun b x => x && !bankInRange s.pf.bankMv[b]) s.pf.bankPark }
    pins := vmapIdx (fun p x => if pinParked s p && bankInRange s.pf.bankMv[bankOf p] then releasePin s.tb.now (cycleTicks s) x else x) s.pins
    mx := { s.mx with ch := vmap (fun c => if c.state = .parked then { c with state := .stopped } else c) s.mx.ch } }

theorem released_keeps (s : State) : Keeps [.pins, .pf, .mx] s (released s) := setPinsPfMx_keeps _ _ _ s

theorem releaseAll_eq (s : State) : releaseAll s = issue 0x0403 [] (released s) := by
  unfold releaseAll released
  rfl

theorem releaseAll_parts (s : State) : (releaseAll s).pf = (released s).pf ∧ (releaseAll s).pins = (released s).pins
    ∧ (releaseAll s).mx = (released s).mx := by
  rw [releaseAll_eq]
  simp

theorem releaseAll_keeps (s : State) : Keeps [.pins, .pf, .mx, .hi, .mg] s (releaseAll s) := by
  rw [releaseAll_eq]
  exact ((released_keeps s).mono (by simp)).trans ((issue_keeps _ _ _).mono (by simp))

theorem releaseAll_logless (s : State) : logless (releaseAll s) = logless s := by
  rw [releaseAll_eq, issue_logless]
  exact logless_of_eq (released_keeps s .mg (by decide)) (released_keeps s .hi (by decide))

/-- A bank in range releases its pins, which are enabled 40 ns later; the others stay as they are (R21, R131). -/
theorem releaseAll_pin {s : State} (parked : s.pf.parked = true) (p : Pin) :
    (releaseAll s).pins[p] = if bankInRange s.pf.bankMv[bankOf p] then releasePin s.tb.now (cycleTicks s) s.pins[p] else s.pins[p] := by
  have mine : pinParked s p = true := by simp [pinParked, parked]
  rw [(releaseAll_parts s).2.1, released, vmapIdx_get, mine, Bool.true_and]

/-- A channel stays stopped at its park code (R333). -/
theorem releaseAll_channel (s : State) (c : Chan) :
    (releaseAll s).mx.ch[c].code = s.mx.ch[c].code ∧ (releaseAll s).mx.ch[c].state ≠ .parked := by
  rw [(releaseAll_parts s).2.2, released, vmap_get]
  split
  · exact ⟨rfl, ChState.noConfusion⟩
  · rename_i free
    exact ⟨rfl, free⟩

/-! ### `PF_PPMU_MEAS` (R137, R138) -/

theorem exec_pfPpmuMeas {s : State} {tag : W16} {e : Exec} (runs : executing 0x0403 tag s = some e) :
    exec (.pfPpmuMeas tag) s = .next (pfPpmuMeasCmd e s) := congrArg Host.Outcome.next (runCmd_some runs _)

/-- The state in which a `PF_PPMU_MEAS` has asked for its pins. -/
def measAsked (e : Exec) (s : State) : State :=
  askMeas (some e.entry.tag) (measPins e) (payF e 64 2) (payF e 66 1)
    (updExec e.entry.tag (fun x => { x with left := measPins e }) s)

theorem pfPpmuMeasCmd_asks {e : Exec} {s : State} (fresh : e.left = []) (some_ : measPins e ≠ []) (log2n : payF e 66 1 ≤ 12)
    (rest : payZero e 67 5 = true) (aligned : payF e 72 8 % 8 = 0) (ppmu : ∀ p ∈ measPins e, s.pins[p].ctl.func = 4) :
    pfPpmuMeasCmd e s = measAsked e s := by
  have good : ((measPins e).isEmpty || decide (12 < payF e 66 1) || !payZero e 67 5 || payF e 72 8 % 8 != 0) = false := by
    simp [some_, log2n, rest, aligned]
  have functions : ((measPins e).any fun p => s.pins[p].ctl.func != 4) = false := by
    simpa using ppmu
  simp only [pfPpmuMeasCmd, fresh]
  rw [if_neg (by simp), checked_pass good, checked_pass functions, checked_nil]
  rfl

theorem measAsked_keeps (e : Exec) (s : State) : Keeps [.pf, .hi] s (measAsked e s) := by
  intro p hp
  cases p <;> first | exact absurd (by decide) hp | simp [samePart, measAsked]

/-- The queue of a glove grows by its pins of the mask. -/
theorem measAsked_queue (e : Exec) (s : State) (g : Glove) : (measAsked e s).pf.adcs[g].queue.length
    = s.pf.adcs[g].queue.length + ((measPins e).filter fun p => gloveOf p = g).length := by
  have pf : (updExec e.entry.tag (fun x => { x with left := measPins e }) s).pf = s.pf := by simp
  rw [measAsked, askMeas_eq, askOnes_queue, pf]

theorem measAsked_hi (e : Exec) (s : State) :
    (measAsked e s).hi = (updExec e.entry.tag (fun x => { x with left := measPins e }) s).hi := by
  simp [measAsked]

theorem measAsked_cpls (e : Exec) (s : State) : (measAsked e s).hi.cpls = s.hi.cpls := by
  rw [measAsked_hi]
  rfl

theorem measAsked_executing {s : State} {tag : W16} {e : Exec} (runs : executing 0x0403 tag s = some e) :
    executing 0x0403 tag (measAsked e s) = some { e with left := measPins e } := by
  obtain ⟨-, tag_⟩ := executing_entry runs
  have hi := measAsked_hi e s
  rw [tag_] at hi
  simp only [executing, finished, hi]
  exact executing_updExec runs fun _ => rfl

end Sys2Proof.Machine

open Sys2Proof Sys2Proof.Machine

/-- Settles O32: each command by whether its checks pass, what it then does, and its completion. -/
theorem frontEndCommands : Obligations.frontEndCommands := by
  unfold Obligations.frontEndCommands
  refine ⟨fun s tag e runs rest => ?config, fun s tag e runs => ?unpark, fun s tag e runs fresh some_ log2n rest aligned ppmu => ?meas⟩
  case config =>
    intro vioGood timerGood
    refine ⟨fun vio timer => ?_, fun bad => ?_⟩
    · obtain ⟨timer_, vio_, keeps, log⟩ := pfApply_configures e s
      have row : exec (.pfConfig tag) s = .next (answer e eOk [] (pfApply e s)) :=
        (exec_pfConfig runs).trans (congrArg _ (pfConfigCmd_taken s rest vio timer))
      have small : payF e 0 4 < 2 ^ 32 := payF_lt e 0 4
      have pf : (answer e eOk [] (pfApply e s)).pf = (pfApply e s).pf := answer_keeps e eOk [] _ .pf (by decide)
      refine ⟨_, row, answer_replied e 0 [] log, ?_, fun b => ?_, keeps.trans ((answer_keeps _ _ _ _).mono (by simp))⟩
      · rw [pf, timer_, BitVec.toNat_ofNat, Nat.mod_eq_of_lt small]
      · rw [pf, vio_]
        simp
    · have row : exec (.pfConfig tag) s = .next (answer e eInval [] s) :=
        (exec_pfConfig runs).trans (congrArg _ (pfConfigCmd_refused s bad))
      exact ⟨_, row, answer_answered e 2 [] s, answer_keeps e _ _ s⟩
  case unpark =>
    intro good
    refine ⟨fun may parked => ?_, fun bad => ?_⟩
    · obtain ⟨high, free, powered, unparked⟩ := may
      have row : exec (.pfUnpark tag) s = .next (answer e eOk [] (releaseAll s)) :=
        (exec_pfUnpark runs).trans (congrArg _ (pfUnparkCmd_releases ⟨high, free, powered, unparked⟩ parked))
      refine ⟨_, row, answer_replied e 0 [] (releaseAll_logless s), congrArg PF.parked (releaseAll_parts s).1, fun p inRange => ?_,
        fun p out => ?_, releaseAll_channel s, (releaseAll_keeps s).trans ((answer_keeps _ _ _ _).mono (by simp))⟩
      · have pin := releaseAll_pin parked p
        rw [inRange, if_pos rfl] at pin
        exact ⟨congrArg PinSt.enableAt pin, congrArg PinSt.en pin⟩
      · have pin := releaseAll_pin parked p
        rwa [out, if_neg (by decide)] at pin
    · have row : exec (.pfUnpark tag) s = .next (answer e eState [] s) := (exec_pfUnpark runs).trans
        (congrArg _ (pfUnparkCmd_refused fun ⟨high, free, powered, unparked⟩ => bad ⟨high, free, powered, unparked⟩))
      exact ⟨_, row, answer_answered e 6 [] s, answer_keeps e _ _ s⟩
  case meas =>
    have row : exec (.pfPpmuMeas tag) s = .next (measAsked e s) :=
      (exec_pfPpmuMeas runs).trans (congrArg _ (pfPpmuMeasCmd_asks fresh some_ log2n rest aligned ppmu))
    refine ⟨_, row, measAsked_cpls e s, measAsked_keeps e s, ?_, measAsked_queue e s⟩
    rw [measAsked_executing runs, Option.map_some]
end

section
/-! SUPPORT. The bytes of a table image, the frames that a commit closes, and what the commit of a table changes (R145, R147, R150, R154, R279). -/

namespace Sys2Proof.Machine

open Sys2Proof

/-! ### Bytes moved (R8) -/

/-- Cells moved to another range read as they did before. -/
theorem memGet_memShift {d : Byte} {m : Mem} {z : Nat} (a n o : Nat) {x : Nat} (wf : Memory.wfFrom d z m = true) (inside : x < n) :
    memGet d (memShift m a n o) (o + x) = memGet d m (a + x) := by
  induction m generalizing z with
  | nil => rfl
  | cons c m ih =>
    obtain ⟨k, v⟩ := c
    simp only [Memory.wfFrom, Bool.and_eq_true, decide_eq_true_eq] at wf
    have rest := ih wf.2
    have below := wfFrom_memShift d a n o wf.2
    by_cases moved : a ≤ k ∧ k < a + n
    · have cell : memShift ((k, v) :: m) a n o = (k - a + o, v) :: memShift m a n o := by simp [memShift, moved]
      rw [cell, memGet, memGet, rest]
      by_cases here : k = a + x
      · rw [if_pos here, if_pos (by omega)]
      · rw [if_neg here, if_neg (by omega)]
        by_cases later : a + x < k
        · rw [if_pos later, if_pos (by omega)]
        · rw [if_neg later, if_neg (by omega)]
    · have none : memShift ((k, v) :: m) a n o = memShift m a n o := by simp [memShift, moved]
      rw [none, memGet, if_neg (by omega)]
      by_cases later : a + x < k
      · rw [if_pos later, memGet_below below (by omega)]
      · rw [if_neg later, rest]

/-- Cells above an address do not change what it reads as. -/
theorem memGet_append_above (d : Byte) (m : Mem) {t : Mem} {x : Nat} (above : ∀ c ∈ t, x < c.1) :
    memGet d (m ++ t) x = memGet d m x := by
  induction m with
  | nil =>
    cases t with
    | nil => rfl
    | cons c t =>
      obtain ⟨k, v⟩ := c
      have later : x < k := above (k, v) (by simp)
      simp only [List.nil_append, memGet]
      rw [if_neg (by omega), if_pos later]
  | cons c m ih => rw [List.cons_append, memGet, memGet, ih]

/-- A memory spliced from its start reads as the source there. -/
theorem memGet_memSplice {src : Mem} (room : Mem) (a : Nat) {n o : Nat} (wf : Memory.wf 0 src = true) (inside : o < n) :
    memGet 0 (memSplice room 0 n src a) o = memGet 0 src (a + o) := by
  have none : (room.filter fun c => decide (c.1 < 0)) = [] := by simp
  have moved := memGet_memShift a n 0 wf inside
  rw [Nat.zero_add] at moved
  rw [memSplice, none, List.nil_append, memGet_append_above, moved]
  intro c hc
  have := List.of_mem_filter hc
  simp only [decide_eq_true_eq] at this
  omega

/-- Part of device DRAM as a memory is canonical where DRAM is. -/
theorem dramPart_wf {s : State} (a n : Nat) (wf : Memory.wf 0 s.pm.dram = true) : Memory.wf 0 (dramPart s a n) = true := by
  unfold dramPart
  split
  · exact wf
  · exact wfFrom_mono 0 (Nat.zero_le a) (wfFrom_memCells 0 a _)

/-- Part of device DRAM reads as device DRAM does. -/
theorem dramPart_get (s : State) (a : Nat) {n o : Nat} (inside : o < n) : memGet 0 (dramPart s a n) (a + o) = dramByte s.pm (a + o) := by
  unfold dramPart
  split
  · rename_i before
    simp only [dramByte, before]
  · rw [memGet_memCells 0 a _ o (by simpa [dramRead] using inside)]
    simp [dramRead]

/-- A table that no write has changed while its command executed holds the bytes of device DRAM (R154). -/
theorem ptImage_get {s : State} {tag : W16} (src : HostRead) (a : Nat) {o : Nat} (wf : Memory.wf 0 s.pm.dram = true)
    (unmixed : ∀ x ∈ s.pt.mixed, x.1 ≠ tag) (inside : o < tableSize) :
    memGet 0 (ptImage tag s false src a (0, tableSize)) o = dramByte s.pm (a + o) := by
  have none : mixedOf tag s = [] := by
    have none' : (s.pt.mixed.filter fun x => x.1 == tag) = [] := List.filter_eq_nil_iff.mpr fun x hx => by simpa using unmixed x hx
    rw [mixedOf, none', List.map_nil]
  have source : ptSource tag s false src a tableSize = dramPart s a tableSize := by
    unfold ptSource mixOld
    rw [none]
    rfl
  show memGet 0 (memSplice s.pt.room 0 tableSize (ptSource tag s false src (a + 0) tableSize) (a + 0)) o = _
  rw [Nat.add_zero, source, memGet_memSplice _ _ (dramPart_wf a tableSize wf) inside, dramPart_get s a inside]

/-! ### Frames that close (R279, R284, R289) -/

/-- The pattern memory without what staged frames write: device DRAM, and the slots that the transfers take. -/
def unstaged (p : PM) : PM := { p with dram := [], dramKnown := [], slotAt := .replicate 5 0, slotUsed := .replicate 5 0 }

/-- Two pattern memories that agree but for staged frames are the same with these put back. -/
theorem pm_of_unstaged {p q : PM} (h : unstaged p = unstaged q) :
    { p with dram := q.dram, dramKnown := q.dramKnown, slotAt := q.slotAt, slotUsed := q.slotUsed } = q :=
  congrArg (fun x : PM => { x with dram := q.dram, dramKnown := q.dramKnown, slotAt := q.slotAt, slotUsed := q.slotUsed }) h

theorem unstaged_of_pm {s t : State} (h : t.pm = s.pm) : unstaged t.pm = unstaged s.pm := congrArg unstaged h

@[simp] theorem dramWrite_unstaged (a : Nat) (l : List Byte) (s : State) : unstaged (dramWrite a l s).pm = unstaged s.pm := by
  unfold dramWrite
  split <;> rfl

@[simp] theorem bookRound_unstaged (c : SlotClass) (n : Nat) (s : State) : unstaged (bookRound c n s).pm = unstaged s.pm := rfl

@[simp] theorem bookRounds_unstaged (c : SlotClass) (fuel n : Nat) (s : State) :
    unstaged (bookRounds c fuel n s).pm = unstaged s.pm := by
  induction fuel generalizing n s with
  | zero => exact bookRound_unstaged ..
  | succ fuel ih =>
    rw [bookRounds]
    split
    · exact bookRound_unstaged ..
    · rw [ih, bookRound_unstaged]

@[simp] theorem bookSlots_unstaged (c : SlotClass) (n : Nat) (s : State) : unstaged (bookSlots c n s).pm = unstaged s.pm := by
  unfold bookSlots
  dsimp only
  rw [bookRounds_unstaged]
  split <;> rfl

theorem stageOldest_unstaged (s : State) : unstaged (stageOldest s).pm = unstaged s.pm := by
  unfold stageOldest
  split
  · rfl
  · dsimp only
    split <;> simp

theorem frontRoom_unstaged (s : State) : unstaged (frontRoom s).pm = unstaged s.pm := by
  unfold frontRoom
  split
  · rfl
  · split
    · exact unstaged_of_pm (by simp)
    · rw [stageOldest_unstaged, bookSlots_unstaged]

theorem closeFrame_unstaged (ps : Fin 16) (flag : Nat) (s : State) : unstaged (closeFrame ps flag s).pm = unstaged s.pm := by
  unfold closeFrame
  split
  · rfl
  · dsimp only
    split
    · exact unstaged_of_pm (by simp)
    · rw [(endDrop_frame _).2.2.2.2.2.1, frontRoom_unstaged]

theorem putUnit_unstaged (ps : Fin 16) (era key : Nat) (w0 w1 : W64) (mk : Option Mark) (flag : Nat) (s : State) :
    unstaged (putUnit ps era key w0 w1 mk flag s).pm = unstaged s.pm := by
  unfold putUnit
  dsimp only
  split
  · rw [closeFrame_unstaged]
  · rfl

theorem placeData_unstaged (ps : Fin 16) (l : List Datum) (s : State) : unstaged (placeData ps l s).pm = unstaged s.pm := by
  unfold placeData
  split
  · rfl
  · dsimp only
    split <;> rw [putUnit_unstaged]

theorem placeMark_unstaged (m : Mark) (s : State) : unstaged (placeMark m s).pm = unstaged s.pm := putUnit_unstaged ..

theorem placeQueued_unstaged (m : Mark) (s : State) : unstaged (placeQueued m s).pm = unstaged s.pm := by
  unfold placeQueued
  split
  · exact placeMark_unstaged ..
  · split <;> exact placeMark_unstaged ..

theorem placeItem_unstaged (ps : Fin 16) (upTo : Option Nat) (s : State) : unstaged (placeItem ps upTo s).pm = unstaged s.pm := by
  unfold placeItem
  split
  · rfl
  · exact placeData_unstaged ..
  · exact placeQueued_unstaged ..
  · split
    · exact placeQueued_unstaged ..
    · exact placeData_unstaged ..

theorem placeNext_unstaged (ps : Fin 16) (upTo : Option Nat) (s : State) : unstaged (placeNext ps upTo s).pm = unstaged s.pm := by
  unfold placeNext stalePlace
  split
  · rfl
  · split
    · split
      · split
        · rfl
        · exact closeFrame_unstaged ..
      · exact placeItem_unstaged ..
    · split
      · exact foldl_keeps (fun t => unstaged t.pm) (fun t m => placeMark_unstaged m t) _ _
      · exact placeItem_unstaged ..

theorem placeAll_unstaged (ps : Fin 16) (upTo : Option Nat) (n : Nat) (s : State) :
    unstaged (placeAll ps upTo n s).pm = unstaged s.pm := by
  induction n generalizing s with
  | zero => rfl
  | succ n ih =>
    rw [placeAll]
    split
    · rw [ih, placeNext_unstaged]
    · rfl

/-- A set's frame that closes reaches the pattern memory as a staged frame only (R284, R289). -/
theorem closeSet_unstaged (upTo : Option Nat) (flag : Nat) (s : State) (ps : Fin 16) :
    unstaged (closeSet upTo flag s ps).pm = unstaged s.pm := by
  rw [closeSet, closeFrame_unstaged, placeAll_unstaged]

theorem closeSet_logless (upTo : Option Nat) (flag : Nat) (s : State) (ps : Fin 16) :
    logless (closeSet upTo flag s ps) = logless s := by
  simp [closeSet]

/-! ### Before a commit (R277, R279) -/

theorem beforeCommit_keeps (old new : Mem) (pins : List Pin) (s : State) :
    Keeps [.pins, .pm, .cs, .mx, .hi, .mg, .hostMem] s (beforeCommit old new pins s) := by
  intro p hp
  unfold beforeCommit
  cases p <;> first | exact absurd (by decide) hp | (dsimp only [samePart]; split <;> simp)

theorem beforeCommit_logless (old new : Mem) (pins : List Pin) (s : State) : logless (beforeCommit old new pins s) = logless s := by
  unfold beforeCommit
  dsimp only
  rw [foldl_logless _ (fun t ps => closeSet_logless _ _ t ps)]
  split
  · simp [flushAll]
  · rfl

theorem beforeCommit_unstaged (old new : Mem) (pins : List Pin) (s : State) :
    unstaged (beforeCommit old new pins s).pm = unstaged s.pm := by
  unfold beforeCommit
  dsimp only
  refine (foldl_keeps (fun t => unstaged t.pm) (fun t ps => closeSet_unstaged _ _ t ps) _ _).trans ?_
  split
  · exact unstaged_of_pm (flushAll_frame s).2.2.2.2.1
  · rfl

end Sys2Proof.Machine
end

section
/-! SUPPORT. What `PT_BIND`, `PT_REFRESH` and the scrub of the store room do (R149, R151, R153 to R156, R378), and the statement on them. -/

namespace Sys2Proof.Machine

open Sys2Proof

/-! ### BAR2 writes received before (R378) -/

@[simp] theorem errIrq_logless (before : W32) (s : State) : logless (errIrq before s) = logless s := by
  unfold errIrq
  split
  · rfl
  · exact msix_logless 0 s

@[simp] theorem bar2Drop_logless (cause : Nat) (w : Bar2Req) (s : State) : logless (bar2Drop cause w s) = logless s := by
  have marked (x : PM) : logless { s with pm := x } = logless s := rfl
  simp only [bar2Drop, issue_logless, errIrq_logless, marked]

@[simp] theorem bar2One_logless (ecc : Ecc) (w : Bar2Req) (s : State) : logless (bar2One ecc w s) = logless s := by
  unfold bar2One
  split
  · rw [bar2Drop_logless]
    split <;> simp
  · rw [dramWrite_logless]
    have noted (t : State) : logless (noteMixed w t) = logless t := rfl
    rw [noted]
    split <;> simp

@[simp] theorem bar2Apply_logless (ecc : Ecc) (s : State) : logless (bar2Apply ecc s) = logless s := by
  unfold bar2Apply
  split
  · rfl
  · rw [bar2One_logless, inSlot_logless]
    rfl

/-- BAR2 writes leave the registers but for the log. -/
@[simp] theorem bar2Drain_logless (s : State) : logless (bar2Drain s) = logless s :=
  foldl_keeps logless (fun t _ => bar2Apply_logless .ok t) _ s

/-- The pin table without the bytes that a command may find mixed. -/
def unmixed (p : PT) : PT := { p with mixed := [] }

theorem bar2One_unmixed (ecc : Ecc) (w : Bar2Req) (s : State) : unmixed (bar2One ecc w s).pt = unmixed s.pt := by
  unfold bar2One
  split
  · simp
  · have noted (t : State) : unmixed (noteMixed w t).pt = unmixed t.pt := rfl
    rw [(dramWrite_frame _ _ _).2.2.2.2.1, noted]
    simp

theorem bar2Apply_unmixed (ecc : Ecc) (s : State) : unmixed (bar2Apply ecc s).pt = unmixed s.pt := by
  unfold bar2Apply
  split
  · rfl
  · rw [bar2One_unmixed, (inSlot_frame _ _ _).2.2.1]

/-- BAR2 writes change the pin table in the bytes kept for commands that execute only (R154). -/
theorem bar2Drain_unmixed (s : State) : unmixed (bar2Drain s).pt = unmixed s.pt :=
  foldl_keeps (fun t => unmixed t.pt) (fun t _ => bar2Apply_unmixed .ok t) _ s

/-! ### A commit (R147, R150, R152) -/

/-- The state after the commit cycle of an image has written the store room and loaded the park registers. -/
def committed (r : Nat × Nat) (new : Mem) (s0 : State) : State :=
  let s := beforeCommit s0.pt.room new (ptPins r) s0
  let left := s.pt.staleAt.filter fun o => decide (o < r.1 ∨ r.1 + r.2 ≤ o)
  { s with
    pt := { s.pt with
      room := new, shadow := new, shadowOk := dramOn s, crc := crc32c (memRead 0 new 0 tableSize)
      stale := s.pt.stale && !left.isEmpty, staleAt := left }
    pins := vmapIdx (fun p x => if (ptPins r).contains p then
      commitTout s0.pt.room new (ext s) p (loadPark (pinParked s p) new p x) else x) s.pins }

/-- A change of the pins and the pin table is one of these only. -/
theorem setPtPins_keeps (x : PT) (v : Vector PinSt 512) (s : State) : Keeps [.pt, .pins] s { s with pt := x, pins := v } := by
  intro p hp
  cases p <;> first | exact absurd (by decide) hp | rfl

theorem committed_keeps (r : Nat × Nat) (new : Mem) (s : State) :
    Keeps [.pt, .pins] (beforeCommit s.pt.room new (ptPins r) s) (committed r new s) := setPtPins_keeps _ _ _

theorem ptCommit_eq (idle : Bool) (r : Nat × Nat) (new : Mem) (s : State) : ptCommit idle r new s
    = stageWrite (fun p => (ptPins r).contains p) (stageFrom (cycleStart (committed r new s)) idle s.pt.room new) (committed r new s) := by
  unfold ptCommit committed
  rfl

/-- The pins after a write to some of them is staged, before a tick. -/
def stagedAll (sel : Pin → Bool) (f : Pin → PinSt → PinSt) (s : State) : State :=
  { s with pins := vmapIdx (fun p x => if sel p then stagePin (cycleStart s) (f p) x else x) s.pins }

/-- A staged write is staged, and outside a run ticked where it changes what is staged (R107, R110). -/
theorem stageWrite_cases (sel : Pin → Bool) (f : Pin → PinSt → PinSt) (s : State) :
    stageWrite sel f s = stagedAll sel f s ∨ ∃ sel', stageWrite sel f s = tickPins true sel' (stagedAll sel f s) := by
  unfold stageWrite
  dsimp only
  split
  · exact .inl rfl
  · exact .inr ⟨_, rfl⟩

theorem stagedAll_keeps (sel : Pin → Bool) (f : Pin → PinSt → PinSt) (s : State) : Keeps [.pins] s (stagedAll sel f s) :=
  setPins_keeps _ s

theorem tickPins_logless (idle : Bool) (sel : Pin → Bool) (s : State) : logless (tickPins idle sel s) = logless s := by
  obtain h | ⟨p, l, h⟩ := tickPins_cases idle sel s
  · rw [h]
    exact logless_of_eq (setPins_keeps _ s .mg (by decide)) (setPins_keeps _ s .hi (by decide))
  · rw [h, reportClamp_logless]
    exact logless_of_eq (setPins_keeps _ s .mg (by decide)) (setPins_keeps _ s .hi (by decide))

theorem stageWrite_keeps (sel : Pin → Bool) (f : Pin → PinSt → PinSt) (s : State) :
    Keeps [.pins, .pf, .sq, .hi, .mg] s (stageWrite sel f s) := by
  have staged := (stagedAll_keeps sel f s).mono (m := [.pins, .pf, .sq, .hi, .mg]) (by simp)
  obtain h | ⟨sel', h⟩ := stageWrite_cases sel f s
  · rwa [h]
  · rw [h]
    exact staged.trans (tickPins_keeps _ _ _)

theorem stageWrite_logless (sel : Pin → Bool) (f : Pin → PinSt → PinSt) (s : State) : logless (stageWrite sel f s) = logless s := by
  have staged : logless (stagedAll sel f s) = logless s :=
    logless_of_eq (stagedAll_keeps sel f s .mg (by decide)) (stagedAll_keeps sel f s .hi (by decide))
  obtain h | ⟨sel', h⟩ := stageWrite_cases sel f s
  · rw [h, staged]
  · rw [h, tickPins_logless, staged]

/-- Device DRAM is powered as long as the power state stays. -/
theorem dramOn_of_logless {s t : State} (h : logless t = logless s) : dramOn t = dramOn s := by
  rw [dramOn, dramOn, mg_of_logless (f := MG.pstate) (fun _ => rfl) h]

/-- The pin table after a commit. -/
theorem ptCommit_pt (idle : Bool) (r : Nat × Nat) (new : Mem) (s : State) :
    let left := s.pt.staleAt.filter fun o => decide (o < r.1 ∨ r.1 + r.2 ≤ o)
    (ptCommit idle r new s).pt = { s.pt with
      room := new, shadow := new, shadowOk := dramOn s, crc := crc32c (memRead 0 new 0 tableSize)
      stale := s.pt.stale && !left.isEmpty, staleAt := left } := by
  intro left
  have before : (beforeCommit s.pt.room new (ptPins r) s).pt = s.pt := beforeCommit_keeps _ _ _ s .pt (by decide)
  have power := dramOn_of_logless (beforeCommit_logless s.pt.room new (ptPins r) s)
  have staged := stageWrite_keeps (fun p => (ptPins r).contains p) (stageFrom (cycleStart (committed r new s)) idle s.pt.room new)
    (committed r new s) .pt (by decide)
  rw [ptCommit_eq]
  refine staged.trans ?_
  unfold committed
  dsimp only
  rw [before, power]

theorem ptCommit_logless (idle : Bool) (r : Nat × Nat) (new : Mem) (s : State) : logless (ptCommit idle r new s) = logless s := by
  have made := committed_keeps r new s
  rw [ptCommit_eq, stageWrite_logless, logless_of_eq (made .mg (by decide)) (made .hi (by decide)), beforeCommit_logless]

/-- A commit reaches the pattern memory as staged frames only (R279, R289). -/
theorem ptCommit_unstaged (idle : Bool) (r : Nat × Nat) (new : Mem) (s : State) :
    unstaged (ptCommit idle r new s).pm = unstaged s.pm := by
  rw [ptCommit_eq, unstaged_of_pm (stageWrite_keeps _ _ _ .pm (by decide)),
    unstaged_of_pm (committed_keeps r new s .pm (by decide)), beforeCommit_unstaged]

/-! ### Park codes (R129) -/

/-- The park code of a DAC of a pin. -/
def parkCode (s : State) (p : Pin) (d : DacIx) : W16 := s.pins[p].dacs[d].park

/-- A tick that sees the staged values leaves the park codes. -/
theorem tickPins_park (sel : Pin → Bool) (s : State) (p : Pin) (d : DacIx) : parkCode (tickPins true sel s) p d = parkCode s p d := by
  have kept (parked : Bool) (vio : W16) (e cyc : Nat) (x : PinSt) :
      (tickPin parked true vio s.tb.now e cyc x).dacs[d].park = x.dacs[d].park := by
    rw [(tickPin_ticked parked vio e (p := x) (idle := true) rfl).dacs d]
    by_cases same : x.dacs[d].staged = x.dacs[d].req
    · rw [tickDac_same _ _ _ _ _ d same]
    · exact congrArg (fun c => c.2.2.1) (tickDac_new parked x.stg vio s.tb.now cyc d same)
  rw [parkCode, tickPins_pins, tickedPins, vmapIdx_get]
  split
  · exact kept ..
  · rfl

/-- What is staged from an image are no park codes. -/
theorem stageFrom_park (now : Nat) (idle : Bool) (old new : Mem) (p : Pin) (x : PinSt) (d : DacIx) :
    (stageFrom now idle old new p x).dacs[d].park = x.dacs[d].park := by
  unfold stageFrom
  dsimp only
  rw [vmapIdx_get]
  split <;> rfl

theorem stagedAll_park (sel : Pin → Bool) (now : Nat) (idle : Bool) (old new : Mem) (s : State) (p : Pin) (d : DacIx) :
    parkCode (stagedAll sel (stageFrom now idle old new) s) p d = parkCode s p d := by
  rw [parkCode, stagedAll, vmapIdx_get]
  split
  · obtain ⟨o, kept⟩ := keptBeside_dac (cycleStart s) s.pins[p] d
    rw [stagePin_eq, stageFrom_park, kept]
    rfl
  · rfl

/-- A commit loads the park codes of the image for the pins of its part. -/
theorem committed_park {r : Nat × Nat} (new : Mem) (s : State) {p : Pin} (d : DacIx) (selected : p ∈ ptPins r) :
    parkCode (committed r new s) p d = imgPark new p d.val := by
  have tout (old : Mem) (e : Nat) (x : PinSt) : (commitTout old new e p x).dacs = x.dacs := by
    unfold commitTout
    dsimp only
    split <;> split <;> rfl
  rw [parkCode, committed, vmapIdx_get, if_pos (by simpa using selected), tout, loadPark]
  dsimp only
  rw [vmapIdx_get]

theorem ptCommit_park (idle : Bool) {r : Nat × Nat} (new : Mem) (s : State) {p : Pin} (d : DacIx) (selected : p ∈ ptPins r) :
    parkCode (ptCommit idle r new s) p d = imgPark new p d.val := by
  rw [ptCommit_eq, ← committed_park new s d selected]
  obtain h | ⟨sel', h⟩ := stageWrite_cases (fun p => (ptPins r).contains p)
    (stageFrom (cycleStart (committed r new s)) idle s.pt.room new) (committed r new s)
  · rw [h, stagedAll_park]
  · rw [h, tickPins_park, stagedAll_park]

/-- Every pin is part of the whole table. -/
theorem mem_ptPins_whole (p : Pin) : p ∈ ptPins (0, tableSize) := by
  have : p.val < 512 := p.isLt
  refine List.mem_filter.mpr ⟨List.mem_finRange p, decide_eq_true ⟨Nat.zero_le _, ?_⟩⟩
  show 0x4000 + p.val * 0x1000 < 0 + 2113536
  omega

/-! ### Commands of the pin table (R151, R154 to R158) -/

@[simp] theorem ptChecked_nil (e : Exec) (f : State → State) (s : State) : ptChecked [] e f s = f s := rfl

/-- The first check that fails is the command's status; the table is not read. -/
@[simp] theorem ptChecked_fail {b : Bool} (h : b = true) (st : Nat) (r : List (Bool × Nat)) (e : Exec) (f : State → State) (s : State) :
    ptChecked ((b, st) :: r) e f s = answer e st [] (dropMixed e.entry.tag s) := by
  simp [ptChecked, h]

/-- A check that passes leaves the others. -/
@[simp] theorem ptChecked_pass {b : Bool} (h : b = false) (st : Nat) (r : List (Bool × Nat)) (e : Exec) (f : State → State) (s : State) :
    ptChecked ((b, st) :: r) e f s = ptChecked r e f s := by
  simp [ptChecked, h]

/-- A refused command has its completion, and what it was to find mixed is forgotten (R154). -/
theorem refused_replies (e : Exec) (status : Nat) (s : State) :
    let t := answer e status [] (dropMixed e.entry.tag s)
    Answered e status [] s t ∧ Keeps [.pt, .hi] s t ∧ t.pt = { s.pt with mixed := s.pt.mixed.filter fun x => x.1 != e.entry.tag } := by
  refine ⟨rfl, fun p hp => ?_, rfl⟩
  cases p <;> first | exact absurd (by decide) hp | rfl

/-- The end of the read of a table is seen in what was kept for the command, and in the free values taken (R154). -/
theorem ptReadEnd_keeps (tag : W16) (s : State) : Keeps [.pt, .freeCtr] s (ptReadEnd tag s) := by
  intro p hp
  cases p <;> first | exact absurd (by decide) hp | rfl

theorem ptReadEnd_pt (tag : W16) (s : State) : (ptReadEnd tag s).pt = { s.pt with mixed := s.pt.mixed.filter fun x => x.1 != tag } := rfl

theorem ptReadEnd_logless (tag : W16) (s : State) : logless (ptReadEnd tag s) = logless s := rfl

/-- A read fault of the table leaves the pin table and the pins (R156). -/
theorem ptMemerr_replies (e : Exec) (f : Nat × Nat) {u s : State} (h : logless s = logless u) :
    Replied e 9 [] u (ptMemerr e f s) ∧ (ptMemerr e f s).pt = s.pt ∧ (ptMemerr e f s).pins = s.pins := by
  refine ⟨answer_replied e eMemerr [] ((issue_logless _ _ s).trans h), ?_, ?_⟩
  · simp [ptMemerr]
  · simp [ptMemerr]

/-- The state in which a table in device DRAM is read: the BAR2 writes received before are applied, and the slot has come (R168, R378). -/
def tableRead (s : State) : State := inSlot .maint tableSize (bar2Drain s)

theorem tableRead_eq (s : State) : inSlot .maint tableSize (bar2Drain s) = tableRead s := rfl

theorem tableRead_logless (s : State) : logless (tableRead s) = logless s := by rw [tableRead, inSlot_logless, bar2Drain_logless]

theorem tableRead_unmixed (s : State) : unmixed (tableRead s).pt = unmixed s.pt := by
  rw [tableRead, (inSlot_frame _ _ _).2.2.1, bar2Drain_unmixed]

/-! ### `PT_BIND` -/

theorem exec_ptBind {s : State} {tag : W16} {e : Exec} (src : HostRead) (dr : DramFind) (runs : executing 0x0501 tag s = some e) :
    exec (.ptBind tag src dr) s = .next (ptBindCmd src dr e s) := congrArg Host.Outcome.next (runCmd_some runs _)

theorem ptBindCmd_waits {e : Exec} {s : State} (src : HostRead) (dr : DramFind) (waits : ptTurn e.entry.tag s = false) :
    ptBindCmd src dr e s = s := if_pos (by simp [waits])

theorem ptBindCmd_misaligned {e : Exec} {s : State} (src : HostRead) (dr : DramFind) (turn : ptTurn e.entry.tag s = true)
    (misaligned : payF e 0 8 % 4096 ≠ 0) : ptBindCmd src dr e s = answer e eInval [] (dropMixed e.entry.tag s) := by
  unfold ptBindCmd
  dsimp only
  rw [if_neg (by simp [turn]), ptChecked_fail (by simp [misaligned])]

theorem ptBindCmd_reads {e : Exec} {s : State} (src : HostRead) (dr : DramFind) (turn : ptTurn e.entry.tag s = true)
    (dram : payF e 8 1 = 0) (rest : payZero e 9 39 = true) (aligned : payF e 0 8 % 4096 = 0) (placed : badPlace s (payF e 0 8) = false) :
    ptBindCmd src dr e s = bindRead e src dr (payF e 0 8) false s := by
  unfold ptBindCmd
  dsimp only
  rw [if_neg (by simp [turn]), ptChecked_pass (by simp [dram, rest, aligned]), ptChecked_pass (by simp [placed]), ptChecked_nil, dram]
  rfl

/-- A table with a write fault in its range, or one that the read finds uncorrectable, is refused (R156). -/
theorem bindRead_fault {e : Exec} {dr : DramFind} {a : Nat} {s : State} {f : Nat × Nat} (src : HostRead)
    (fault : ptFault (ptReadEnd e.entry.tag (objNote false dr a (tableRead s))) false src dr a tableSize = some f) :
    bindRead e src dr a false s = ptMemerr e f (ptReadEnd e.entry.tag (objNote false dr a (tableRead s))) := by
  unfold bindRead
  simp only [Bool.false_eq_true, if_false, tableRead_eq, fault]

/-- A table that the read finds uncorrectable is refused, if not for a write fault (R156). -/
theorem ptFault_uncorrectable (s : State) (src : HostRead) (at_ a n : Nat) :
    ∃ f, ptFault s false src { ecc := .uncorrectable, at_ := at_ } a n = some f := by
  unfold ptFault
  simp only [Bool.false_eq_true, if_false]
  split
  · exact ⟨_, rfl⟩
  · exact ⟨_, if_pos trivial⟩

theorem ptFault_written {s : State} {a n w : Nat} (src : HostRead) (dr : DramFind) (first : firstFault s a n = some w) :
    ptFault s false src dr a n = some (w, 0) := by
  simp [ptFault, first]

theorem objNote_logless (host : Bool) (dr : DramFind) (a : Nat) (s : State) : logless (objNote host dr a s) = logless s := by
  unfold objNote noteReadUe
  dsimp only
  split
  · rfl
  · split <;> simp

/-- The binding of a table at an address, before its commit (R145, R147). -/
def boundAt (a : Nat) (s : State) : State :=
  { s with pt := { s.pt with bound := true, hostMem := false, base := BitVec.ofNat 64 a, stale := false, staleAt := [] } }

theorem boundAt_logless (a : Nat) (s : State) : logless (boundAt a s) = logless s := rfl

/-- The pin table once a table is bound and committed whole. -/
theorem bound_pt (a : Nat) (new : Mem) (s : State) : (ptCommit true (0, tableSize) new (boundAt a s)).pt = { s.pt with
    bound := true, hostMem := false, base := BitVec.ofNat 64 a, stale := false, staleAt := [], room := new, shadow := new
    shadowOk := dramOn s, crc := crc32c (memRead 0 new 0 tableSize) } := by
  rw [ptCommit_pt, dramOn_of_logless (boundAt_logless a s)]
  rfl

theorem bindRead_binds {e : Exec} {a : Nat} {s : State} (src : HostRead) (clean : firstFault (tableRead s) a tableSize = none)
    (version : imgAt (ptImage e.entry.tag (tableRead s) false src a (0, tableSize)) 0 2 = 1)
    (levels : badLevels (ptImage e.entry.tag (tableRead s) false src a (0, tableSize)) (List.finRange 512) = false) :
    bindRead e src {} a false s = answer e eOk [] (ptCommit true (0, tableSize)
      (ptImage e.entry.tag (tableRead s) false src a (0, tableSize))
      (boundAt a (inSlot .maint tableSize (ptReadEnd e.entry.tag (tableRead s))))) := by
  have readable : ptFault (ptReadEnd e.entry.tag (tableRead s)) false src {} a tableSize = none := by
    have clean' : firstFault (ptReadEnd e.entry.tag (tableRead s)) a tableSize = none := clean
    simp [ptFault, clean']
  have note : objNote false {} a (tableRead s) = tableRead s := rfl
  have sound : ¬ (imgAt (ptImage e.entry.tag (tableRead s) false src a (0, tableSize)) 0 2 ≠ 1
      ∨ badLevels (ptImage e.entry.tag (tableRead s) false src a (0, tableSize)) (List.finRange 512) = true) := by
    simp [version, levels]
  unfold bindRead boundAt
  simp only [Bool.false_eq_true, if_false, tableRead_eq, note, readable]
  rw [if_neg sound]

/-! ### `PT_REFRESH` -/

theorem exec_ptRefresh {s : State} {tag : W16} {e : Exec} (src : HostRead) (dr : DramFind) (runs : executing 0x0502 tag s = some e) :
    exec (.ptRefresh tag src dr) s = .next (ptRefreshCmd src dr e s) := congrArg Host.Outcome.next (runCmd_some runs _)

/-- A refresh of the whole table reads it where the store room holds one (R147, R151). -/
theorem ptRefreshCmd_whole {e : Exec} {s : State} (src : HostRead) (dr : DramFind) (turn : ptTurn e.entry.tag s = true)
    (scope : payF e 0 1 = 4) (zero : payF e 1 1 = 0) (ix : payF e 2 2 = 0) (rest : payZero e 4 44 = true) :
    ptRefreshCmd src dr e s
      = if roomHeld s then refreshRead e src dr s else answer e eState [] (dropMixed e.entry.tag s) := by
  unfold ptRefreshCmd
  dsimp only
  rw [if_neg (by simp [turn]), ptChecked_pass (by simp [scope, zero, ix, rest]), ptChecked_pass (by simp [scope])]
  split
  · rename_i held
    rw [ptChecked_pass (by simp [held]), ptChecked_nil]
  · rename_i lost
    rw [ptChecked_fail (by simpa using lost)]

theorem refreshRead_reads {e : Exec} {s : State} (src : HostRead) (dram : s.pt.hostMem = false) (scope : payF e 0 1 = 4)
    (clean : firstFault (tableRead s) s.pt.base.toNat tableSize = none) :
    refreshRead e src {} s = refreshEnd e (0, tableSize) (ptImage e.entry.tag (tableRead s) false src s.pt.base.toNat (0, tableSize))
      (ptReadEnd e.entry.tag (tableRead s)) := by
  have readable : ptFault (ptReadEnd e.entry.tag (tableRead s)) false src {} s.pt.base.toNat tableSize = none := by
    have clean' : firstFault (ptReadEnd e.entry.tag (tableRead s)) s.pt.base.toNat tableSize = none := clean
    simp [ptFault, clean']
  have whole (n : Nat) : ptRange 4 n = (0, tableSize) := rfl
  have note (a : Nat) : objNote false {} a (tableRead s) = tableRead s := rfl
  unfold refreshRead
  simp only [scope, whole, dram, Bool.false_eq_true, if_false, tableRead_eq, note, Nat.add_zero, readable]

theorem refreshEnd_busy {e : Exec} {r : Nat × Nat} {new : Mem} {s : State} (run : e.idle = false) (fixed : firstFixed s.pt.room new ≠ none) :
    ∃ o, refreshEnd e r new s = answer e eBusy [] (issue 0x0502 (imgItems o) s) := by
  obtain ⟨o, at_⟩ := Option.ne_none_iff_exists'.mp fixed
  refine ⟨o, ?_⟩
  unfold refreshEnd
  rw [run, if_neg (by decide), at_]

theorem refreshEnd_commits {e : Exec} {r : Nat × Nat} {new : Mem} {s : State} (run : e.idle = false) (live : firstFixed s.pt.room new = none) :
    refreshEnd e r new s = answer e eOk [] (ptCommit false r new (inSlot .maint r.2 s)) := by
  unfold refreshEnd
  rw [run, if_neg (by decide), live]

/-! ### The scrub of the store room (R149) -/

theorem exec_storeRoomScrub (off : Nat) (ecc : Ecc) (s : State) :
    exec (.storeRoomScrub off ecc) s = .next (roomError (off % 2113536) ecc s) := rfl

/-- The state with a stale word of the store room. -/
def staleRoom (off : Nat) (s : State) : State := { s with pt := { s.pt with stale := true, staleAt := s.pt.staleAt ++ [off] } }

/-- An uncorrectable error is reported, and contains the device during a run. -/
theorem roomError_uncorrectable (off : Nat) (s : State) : ∃ items,
    roomError off .uncorrectable s = if running s then contain 0x07 (issue 0x0505 items (staleRoom off s)) else issue 0x0505 items (staleRoom off s) :=
  ⟨_, rfl⟩

theorem setPt_keeps (x : PT) (s : State) : Keeps [.pt] s { s with pt := x } := by
  intro p hp
  cases p <;> first | exact absurd (by decide) hp | rfl

theorem issueOnce_keeps (code : Nat) (items : List Item) (s : State) : Keeps [.sq, .hi, .mg] s (issueOnce code items s) := by
  intro p hp
  cases p <;> first | exact absurd (by decide) hp | simp [samePart]

/-! ### What the rows do to the pin table -/

section
variable {s : State} {e : Exec}

/-- The state after the row of a `PT_BIND` or a `PT_REFRESH` whose read is refused: the completion, and the table and the pins as they were. -/
theorem ptMemerr_row (f : Nat × Nat) (dr : DramFind) (a : Nat) :
    let u := tableRead s
    let t := ptMemerr e f (ptReadEnd e.entry.tag (objNote false dr a u))
    Replied e 9 [] u t ∧ t.pt = { u.pt with mixed := u.pt.mixed.filter fun x => x.1 != e.entry.tag } ∧ t.pins = u.pins := by
  intro u t
  have same : logless (ptReadEnd e.entry.tag (objNote false dr a u)) = logless u :=
    (ptReadEnd_logless _ _).trans (objNote_logless false dr a u)
  obtain ⟨replied, pt, pins⟩ := ptMemerr_replies e f same
  obtain ⟨-, notedPins, -, -, notedPt, -⟩ := objNote_frame false dr a u
  refine ⟨replied, ?_, pins.trans notedPins⟩
  rw [pt, ptReadEnd_pt, notedPt]

/-- The state in which a table has been read, and the slots have come that its shadow takes (R147). -/
def tableSlot (e : Exec) (s : State) : State := inSlot .maint tableSize (ptReadEnd e.entry.tag (tableRead s))

theorem tableSlot_logless (e : Exec) (s : State) : logless (tableSlot e s) = logless (tableRead s) := by
  rw [tableSlot, inSlot_logless, ptReadEnd_logless]

theorem tableSlot_pt (e : Exec) (s : State) : (tableSlot e s).pt
    = { (tableRead s).pt with mixed := (tableRead s).pt.mixed.filter fun x => x.1 != e.entry.tag } :=
  (inSlot_frame _ _ _).2.2.1.trans (ptReadEnd_pt _ _)

/-- The state after a bind: the table committed whole under its new binding (R147). -/
def tableBound (e : Exec) (new : Mem) (s : State) : State :=
  answer e eOk [] (ptCommit true (0, tableSize) new (boundAt (payF e 0 8) (tableSlot e s)))

theorem tableBound_replied (new : Mem) : Replied e 0 [] (tableRead s) (tableBound e new s) :=
  answer_replied e 0 [] (by rw [ptCommit_logless, boundAt_logless, tableSlot_logless])

theorem tableBound_keeps (new : Mem) :
    Keeps [.hi] (ptCommit true (0, tableSize) new (boundAt (payF e 0 8) (tableSlot e s))) (tableBound e new s) :=
  answer_keeps e eOk [] _

theorem tableBound_pt (new : Mem) : (tableBound e new s).pt = { (tableSlot e s).pt with
    bound := true, hostMem := false, base := BitVec.ofNat 64 (payF e 0 8), stale := false, staleAt := [], room := new, shadow := new
    shadowOk := dramOn s, crc := crc32c (memRead 0 new 0 tableSize) } := by
  have power : dramOn (tableSlot e s) = dramOn s := dramOn_of_logless ((tableSlot_logless e s).trans (tableRead_logless s))
  rw [tableBound_keeps new .pt (by decide), bound_pt, power]

theorem tableBound_base (new : Mem) : (tableBound e new s).pt.base.toNat = payF e 0 8 := by
  have small : payF e 0 8 < 2 ^ 64 := payF_lt e 0 8
  rw [tableBound_pt]
  show (BitVec.ofNat 64 (payF e 0 8)).toNat = _
  rw [BitVec.toNat_ofNat, Nat.mod_eq_of_lt small]

theorem tableBound_park (new : Mem) (p : Pin) (d : DacIx) : (tableBound e new s).pins[p].dacs[d].park = imgPark new p d.val := by
  rw [tableBound_keeps new .pins (by decide)]
  exact ptCommit_park true new _ d (mem_ptPins_whole p)

theorem tableBound_unstaged (new : Mem) : unstaged (tableBound e new s).pm = unstaged (tableSlot e s).pm := by
  rw [tableBound_keeps new .pm (by decide), ptCommit_unstaged]
  rfl

/-- The state after a refresh of the whole table during a run. -/
def tableRefreshed (e : Exec) (new : Mem) (s : State) : State := answer e eOk [] (ptCommit false (0, tableSize) new (tableSlot e s))

theorem tableRefreshed_replied (new : Mem) : Replied e 0 [] (tableRead s) (tableRefreshed e new s) :=
  answer_replied e 0 [] (by rw [ptCommit_logless, tableSlot_logless])

/-- A refresh commits the image under the binding that stands. -/
theorem tableRefreshed_pt (new : Mem) : (tableRefreshed e new s).pt.room = new ∧ (tableRefreshed e new s).pt.shadow = new
    ∧ (tableRefreshed e new s).pt.bound = s.pt.bound ∧ (tableRefreshed e new s).pt.base = s.pt.base := by
  have kept : unmixed (tableRead s).pt = unmixed s.pt := tableRead_unmixed s
  have pt : (tableRefreshed e new s).pt = _ := answer_keeps e eOk [] _ .pt (by decide)
  have bound : (tableRead s).pt.bound = s.pt.bound := congrArg (·.bound) kept
  have base : (tableRead s).pt.base = s.pt.base := congrArg (·.base) kept
  rw [pt, ptCommit_pt, tableSlot_pt]
  exact ⟨rfl, rfl, bound, base⟩

/-! ### The rows of bind and refresh -/

theorem exec_ptBind_waits {tag : W16} (src : HostRead) (dr : DramFind) (runs : executing 0x0501 tag s = some e)
    (waits : ptTurn e.entry.tag s = false) : exec (.ptBind tag src dr) s = .next s := by
  rw [exec_ptBind src dr runs, ptBindCmd_waits src dr waits]

theorem exec_ptBind_misaligned {tag : W16} (src : HostRead) (dr : DramFind) (runs : executing 0x0501 tag s = some e)
    (turn : ptTurn e.entry.tag s = true) (misaligned : payF e 0 8 % 4096 ≠ 0) :
    exec (.ptBind tag src dr) s = .next (answer e eInval [] (dropMixed e.entry.tag s)) := by
  rw [exec_ptBind src dr runs, ptBindCmd_misaligned src dr turn misaligned]

/-- A bind of a well-placed table in device DRAM reads it. -/
theorem exec_ptBind_reads {tag : W16} (src : HostRead) (dr : DramFind) (runs : executing 0x0501 tag s = some e) (dram : payF e 8 1 = 0)
    (rest : payZero e 9 39 = true) (turn : ptTurn e.entry.tag s = true) (aligned : payF e 0 8 % 4096 = 0)
    (placed : badPlace s (payF e 0 8) = false) :
    exec (.ptBind tag src dr) s = .next (bindRead e src dr (payF e 0 8) false s) := by
  rw [exec_ptBind src dr runs, ptBindCmd_reads src dr turn dram rest aligned placed]

theorem exec_ptRefresh_whole {tag : W16} (src : HostRead) (dr : DramFind) (runs : executing 0x0502 tag s = some e)
    (turn : ptTurn e.entry.tag s = true) (scope : payF e 0 1 = 4) (zero : payF e 1 1 = 0) (ix : payF e 2 2 = 0)
    (rest : payZero e 4 44 = true) : exec (.ptRefresh tag src dr) s
      = .next (if roomHeld s then refreshRead e src dr s else answer e eState [] (dropMixed e.entry.tag s)) := by
  rw [exec_ptRefresh src dr runs, ptRefreshCmd_whole src dr turn scope zero ix rest]

end

end Sys2Proof.Machine

open Sys2Proof Sys2Proof.Machine

/-- Settles O33: a bind and a refresh of a table in device DRAM by what their checks and their read find, and the two errors of a scrub. -/
theorem pinTableBoundAndRefreshed : Obligations.pinTableBoundAndRefreshed := by
  unfold Obligations.pinTableBoundAndRefreshed
  refine ⟨fun s tag src e runs dram rest => ?bind, fun s tag src e runs turn scope zero ix rest => ?refresh, fun s off => ?scrub⟩
  case bind =>
    obtain rfl := (executing_entry runs).2
    intro a u new read v
    refine ⟨fun waits dr => exec_ptBind_waits src dr runs waits, fun turn misaligned dr => ?_, fun turn aligned placed => ?_⟩
    · obtain ⟨answered, keeps, pt⟩ := refused_replies e eInval s
      exact ⟨_, exec_ptBind_misaligned src dr runs turn misaligned, answered, keeps, pt⟩
    · have row := fun dr => exec_ptBind_reads src dr runs dram rest turn aligned placed
      refine ⟨fun fault => ?_, fun at_ => ?_, fun clean version levels wf => ?_⟩
      · obtain ⟨w, first⟩ := Option.ne_none_iff_exists'.mp fault
        obtain ⟨replied, pt, pins⟩ := ptMemerr_row (s := s) (e := e) (w, 0) {} a
        exact ⟨_, (row {}).trans (congrArg _ (bindRead_fault src (ptFault_written src {} first))), replied, pt, pins⟩
      · obtain ⟨f, found⟩ := ptFault_uncorrectable
          (ptReadEnd e.entry.tag (objNote false { ecc := .uncorrectable, at_ := at_ } a u)) src at_ a tableSize
        obtain ⟨⟨cpls, -⟩, pt, pins⟩ := ptMemerr_row (s := s) (e := e) f { ecc := .uncorrectable, at_ := at_ } a
        exact ⟨_, (row _).trans (congrArg _ (bindRead_fault src found)), pt, pins, cpls⟩
      · refine ⟨tableBound e new s, (row {}).trans (congrArg _ (bindRead_binds src clean version levels)), tableBound_replied new, ?_,
          tableBound_base new, ?_⟩
        · rw [tableBound_pt]
        · have pm := pm_of_unstaged (tableBound_unstaged (e := e) (s := s) new)
          refine ⟨?_, ?_, fun readable o inside => ?bytes, ?_, ?_, ?_, ?crc, tableBound_park new, pm⟩
          case bytes =>
            rw [tableBound_pt]
            exact ptImage_get src a wf readable inside
          case crc =>
            rw [tableBound_pt]
            rfl
          all_goals rw [tableBound_pt]
  case refresh =>
    obtain rfl := (executing_entry runs).2
    intro u a new
    have row := fun dr => exec_ptRefresh_whole src dr runs turn scope zero ix rest
    refine ⟨fun lost dr => ?_, fun held dram clean run => ?_⟩
    · obtain ⟨answered, keeps, pt⟩ := refused_replies e eState s
      refine ⟨_, ?_, answered, keeps, pt⟩
      rw [row, lost, if_neg (by decide)]
    · have reads : exec (.ptRefresh e.entry.tag src {}) s = .next (refreshEnd e (0, tableSize) new (ptReadEnd e.entry.tag u)) := by
        rw [row, if_pos held, refreshRead_reads src dram scope clean]
        rfl
      refine ⟨fun fixed => ?_, fun live => ?_⟩
      · obtain ⟨o, busy⟩ := refreshEnd_busy (r := (0, tableSize)) (s := ptReadEnd e.entry.tag u) run fixed
        refine ⟨_, reads.trans (congrArg _ busy), answer_replied e 5 [] (issue_logless 0x0502 (imgItems o) (ptReadEnd e.entry.tag u)), ?_, ?_⟩
        · simp [ptReadEnd_pt]
        · simp [ptReadEnd, dropMixed]
      · obtain ⟨room, shadow, bound, base⟩ := tableRefreshed_pt (s := s) (e := e) new
        obtain ⟨stands, -⟩ : s.pt.bound = true ∧ s.mg.pstate ≤ 1 := by simpa [roomHeld] using held
        exact ⟨tableRefreshed e new s, reads.trans (congrArg _ (refreshEnd_commits run live)), tableRefreshed_replied new, room, shadow,
          bound.trans stands, base⟩
  case scrub =>
    refine ⟨⟨_, exec_storeRoomScrub off .corrected s, ?_, ?_⟩, ?_⟩
    · exact issueOnce_keeps _ _ _ .pt (by decide)
    · exact ((setPt_keeps _ s).mono (by simp)).trans ((issueOnce_keeps _ _ _).mono (by simp))
    · obtain ⟨items, found⟩ := roomError_uncorrectable (off % 2113536) s
      refine ⟨_, exec_storeRoomScrub off .uncorrectable s, ?_, fun run => ?_, fun idle => ?_⟩
      · rw [found]
        split
        · rw [(contain_frame _ _).2.2.1]
          exact issue_keeps _ _ _ .pt (by decide)
        · exact issue_keeps _ _ _ .pt (by decide)
      · rw [found, if_pos run]
        exact contain_contained _ _
      · rw [found, if_neg (by simp [idle])]
        exact ((setPt_keeps _ s).mono (by simp)).trans ((issue_keeps _ _ _).mono (by simp))
end

section
/-! SUPPORT. The attic's fetches (R170, R179, R185, R186, R189), BAR2 writes and reads (R161, R162, R190, R371, R378), and the statement on them. -/

namespace Sys2Proof.Machine

open Sys2Proof

/-! ### Time and the pattern memory (R44, R168, R289) -/

theorem wrapEffects_unstaged (s : State) : unstaged (wrapEffects s).pm = unstaged s.pm := by
  have closed (t : State) : unstaged (closeEpoch t).pm = unstaged t.pm :=
    foldl_keeps (fun u => unstaged u.pm) (fun u ps => closeSet_unstaged _ _ u ps) _ t
  have marked (kind key : Nat) (w1 : W64) (t : State) : (epochMark kind key w1 t).pm = t.pm := by simp [epochMark]
  unfold wrapEffects
  dsimp only
  rw [marked]
  split
  · rw [closed]
    exact unstaged_of_pm (by simp [flushAll])
  · exact unstaged_of_pm (by simp)

/-- Time reaches the pattern memory in the frames staged at a wrap only (R44, R289). -/
theorem pass_unstaged (n : Nat) (s : State) : unstaged (pass n s).pm = unstaged s.pm := by
  have after (t : State) : (passed t).pm = t.pm := (passed_frame t).2.2.2.2.1
  unfold pass
  dsimp only
  split
  · split
    · rfl
    · rw [after]
      split
      · rw [wrapEffects_unstaged]
      · rfl
  · rfl

theorem inSlot_unstaged (c : SlotClass) (n : Nat) (s : State) : unstaged (inSlot c n s).pm = unstaged s.pm := by
  unfold inSlot
  split
  · exact (pass_unstaged _ _).trans (bookSlots_unstaged c n s)
  · rfl

/-- Which addresses BAR2 may not write is a matter of the region map (R162, R164). -/
theorem bar2Outside_of_regions {s t : State} (h : t.pm.regions = s.pm.regions) (a n : Nat) : bar2Outside t a n = bar2Outside s a n := by
  rw [bar2Outside, bar2Outside, h]

theorem setPm_keeps (x : PM) (s : State) : Keeps [.pm] s { s with pm := x } := by
  intro p hp
  cases p <;> first | exact absurd (by decide) hp | rfl

theorem shelve_keeps (x : Shelf) (s : State) : Keeps [.pm] s (shelve x s) := setPm_keeps _ s

/-! ### Lane blocks (R179, R185) -/

section
variable {s : State} {p : Pin} {a : Nat} {spare : Bool}

/-- A lane block's address is its block's (R179). -/
theorem itemAddr_block (p : Pin) (a : Nat) : itemAddr (.lane p (a / 64 * 64)) = a / 64 * 64 := by
  show a / 64 * 64 / 64 * 64 = a / 64 * 64
  omega

theorem dramRead_length (s : State) (a n : Nat) : (dramRead s a n).length = n := by simp [dramRead]

/-- A requested lane block of a region of patterns arrives in a pattern slot with the bytes of device DRAM. -/
theorem exec_atticFetch_lane (due : fetchDue false spare (.lane p (a / 64 * 64)) s = true) (typ : regionTyp s (a / 64 * 64) = 2) (dr : DramFind) :
    exec (.atticFetchComplete (.lane p a) spare dr) s = .next (shelve {
        item := .lane p (a / 64 * 64), bytes := dramRead s (a / 64 * 64) 64, spare := spare, ue := dr.ecc == .uncorrectable, host := false
        bad := if dr.ecc == .uncorrectable then a / 64 * 64 + dr.at_ else 0 }
      (noteEcc dr.ecc (a / 64 * 64 + dr.at_) (inSlot .pattern 64 s))) := by
  show Host.Outcome.next (atticFetch (.lane p a) spare dr s) = _
  simp only [atticFetch, itemNorm, itemAddr_block, itemTyp, itemBytes, dramRead_length]
  rw [if_pos ⟨due, typ⟩]

/-- Of a lane block that is not requested nothing arrives. -/
theorem exec_atticFetch_unasked (other : fetchDue false spare (.lane p (a / 64 * 64)) s = false) (dr : DramFind) :
    exec (.atticFetchComplete (.lane p a) spare dr) s = .next s := by
  show Host.Outcome.next (atticFetch (.lane p a) spare dr s) = _
  rw [atticFetch]
  simp only [itemNorm, other, Bool.false_eq_true, false_and, if_false]

/-- A PCIe read that succeeds brings a requested lane block of a `HOSTSRC` region. -/
theorem exec_hostsrcRead_lane (due : fetchDue true spare (.lane p (a / 64 * 64)) s = true) {src : HostRead} (good : src.fail = none) :
    exec (.hostsrcReadComplete (.lane p a) spare src) s = .next (shelve {
      item := .lane p (a / 64 * 64), bytes := hostBytes src (hostAddr s (a / 64 * 64)) 64, spare := spare, ue := false, host := true } s) := by
  show Host.Outcome.next (hostFetch (.lane p a) spare src s) = _
  simp only [hostFetch, itemNorm, itemAddr_block, itemBytes, due, if_true, good]

/-- A PCIe read that fails contains the device (R186). -/
theorem exec_hostsrcRead_fails (due : fetchDue true spare (.lane p (a / 64 * 64)) s = true) {src : HostRead} (fails : src.fail ≠ none) :
    ∃ items, exec (.hostsrcReadComplete (.lane p a) spare src) s = .next (contain 0x06 (issue 0x0608 items s)) := by
  obtain ⟨f, found⟩ := Option.ne_none_iff_exists'.mp fails
  refine ⟨[i8 f.1, i1 f.2.toNat], ?_⟩
  show Host.Outcome.next (hostFetch (.lane p a) spare src s) = _
  simp only [hostFetch, itemNorm, due, if_true, found]

end

/-! ### Containment leaves the shelf (R188, R412) -/

theorem endStarve_shelf (s : State) : (endStarve s).pm.shelf = s.pm.shelf := by
  unfold endStarve
  split
  · rfl
  · dsimp only
    split
    · simp
    · split <;> simp

theorem containRun_shelf (s : State) : (containRun s).pm.shelf = s.pm.shelf := by
  cases run : running s
  · rw [containRun_idle run]
  · rw [containRun_running run]
    dsimp only
    rw [(dropProvisional_frame _).2.2.2.2.2.1]
    show (endEpisodes s).pm.shelf = s.pm.shelf
    rw [endEpisodes, (endLimit_frame _).2.2.2.2.2.1, (endBubble_frame _).2.2.2.2.2.1, (endDstall_frame _).2.2.2.2.2.1, endStarve_shelf]

theorem contain_shelf (cause : Nat) (s : State) : (contain cause s).pm.shelf = s.pm.shelf := by
  cases held : s.mg.contained
  · have kept : (contain cause s).pm = (madeSafe s).pm := contain_keeps cause held .pm (by decide)
    rw [kept, (madeSafe_frame s).2.2.2.1, containRun_shelf]
  · rw [contain, if_pos held, (containAgain_frame cause s).2.2.2.2.2.1]

/-! ### BAR2 (R161, R190, R378) -/

theorem take_bar2Here (addr : Nat) (l : List Byte) : l.take (bar2Here addr l.length) = l.take (2 ^ 37 - addr) := by
  rw [bar2Here, Nat.min_comm, ← List.take_take, List.take_length]

/-- Of a BAR2 write the bytes in the window are received (R161, R371). -/
theorem exec_bar2Write_inside {addr : Nat} {l : List Byte} (poisoned : Bool) (s : State) (inside : addr < 2 ^ 37) (some_ : l ≠ []) :
    exec (.bar2Write addr l poisoned) s = .next { s with pm := { s.pm with
      bar2 := s.pm.bar2 ++ [{ addr := addr, bytes := l.take (2 ^ 37 - addr), poisoned := poisoned }] } } := by
  have bytes : (l.take (2 ^ 37 - addr)).isEmpty = false := by
    have room : 2 ^ 37 - addr ≠ 0 := by omega
    rw [List.isEmpty_eq_false_iff, Ne, List.take_eq_nil_iff]
    exact not_or_intro room some_
  show execBar2Write addr l poisoned s = _
  simp only [execBar2Write, take_bar2Here, bytes, Bool.false_eq_true, if_false]

/-- A BAR2 write with no byte in the window reaches nothing. -/
theorem exec_bar2Write_outside {addr : Nat} {l : List Byte} (poisoned : Bool) (s : State) (none_ : 2 ^ 37 ≤ addr ∨ l = []) :
    exec (.bar2Write addr l poisoned) s = .next s := by
  have bytes : (l.take (2 ^ 37 - addr)).isEmpty = true := by
    rw [List.isEmpty_iff, List.take_eq_nil_iff]
    exact none_.imp_left Nat.sub_eq_zero_of_le
  show execBar2Write addr l poisoned s = _
  simp only [execBar2Write, take_bar2Here, bytes, if_true]

/-- The state in which the oldest BAR2 write is applied: it has left the queue, and its slot has come (R24, R168). -/
def bar2Slot (w : Bar2Req) (r : List Bar2Req) (s : State) : State :=
  inSlot .host w.bytes.length { s with pm := { s.pm with bar2 := r } }

section
variable {s : State} {w : Bar2Req} {r : List Bar2Req}

theorem exec_bar2WriteApply (ecc : Ecc) (oldest : s.pm.bar2 = w :: r) :
    exec (.bar2WriteApply ecc) s = .next (bar2One ecc w (bar2Slot w r s)) := by
  show Host.Outcome.next (bar2Apply ecc s) = _
  rw [bar2Apply, oldest]
  rfl

theorem bar2Slot_unstaged : unstaged (bar2Slot w r s).pm = unstaged { s.pm with bar2 := r } := inSlot_unstaged ..

theorem bar2Slot_bar2 : (bar2Slot w r s).pm.bar2 = r := congrArg (·.bar2) bar2Slot_unstaged

theorem bar2Slot_outside (a n : Nat) : bar2Outside (bar2Slot w r s) a n = bar2Outside s a n :=
  bar2Outside_of_regions (congrArg (·.regions) bar2Slot_unstaged) a n

theorem bar2Slot_power : dramOn (bar2Slot w r s) = dramOn s := (dramOn_of_logless (inSlot_logless ..)).trans rfl

/-- Two pin tables that agree but for the bytes kept for commands are the same with these put back (R154). -/
theorem pt_of_unmixed {p q : PT} (h : unmixed p = unmixed q) : { p with mixed := q.mixed } = q :=
  congrArg (fun x : PT => { x with mixed := q.mixed }) h

theorem bar2Slot_pt : (bar2Slot w r s).pt = s.pt := (inSlot_frame _ _ _).2.2.1

end

/-- A good write to an address that BAR2 may write is written whole (R190). -/
theorem bar2One_written {w : Bar2Req} {s : State} (good : w.poisoned = false) (inside : bar2Outside s w.addr w.bytes.length = false) :
    bar2One .ok w s = dramWrite w.addr w.bytes (noteMixed w s) := by
  have free : bar2Cause .ok w s = none := by simp [bar2Cause, good, inside]
  rw [bar2One, free]
  rfl

/-- A poisoned write, and one to another address, is dropped whole with its cause (R190). -/
theorem bar2One_dropped {w : Bar2Req} {s : State} (bad : w.poisoned = true ∨ bar2Outside s w.addr w.bytes.length = true) :
    ∃ c, bar2One .ok w s = bar2Drop c w s := by
  cases poisoned : w.poisoned
  · have outside : bar2Outside s w.addr w.bytes.length = true := by simpa [poisoned] using bad
    have cause : bar2Cause .ok w s = some 2 := by simp [bar2Cause, poisoned, outside]
    exact ⟨2, by rw [bar2One, cause]; rfl⟩
  · have cause : bar2Cause .ok w s = some 1 := by simp [bar2Cause, poisoned]
    exact ⟨1, by rw [bar2One, cause]; rfl⟩

/-- A dropped write is counted and its range kept, and no byte is written (R190). -/
theorem bar2Drop_pm (cause : Nat) (w : Bar2Req) (s : State) :
    (bar2Drop cause w s).pm.bar2 = s.pm.bar2 ∧ (bar2Drop cause w s).pm.dram = s.pm.dram
      ∧ (bar2Drop cause w s).pm.wfault = min 0xFFFFFFFF (s.pm.wfault + 1)
      ∧ (bar2Drop cause w s).pm.wranges = s.pm.wranges ++ [(w.addr, w.bytes.length)] := by
  simp [bar2Drop, satSucc]

theorem bar2Drop_keeps (cause : Nat) (w : Bar2Req) (s : State) : Keeps [.pm, .hi, .mg] s (bar2Drop cause w s) := by
  intro p hp
  cases p <;> first | exact absurd (by decide) hp | simp [samePart]

theorem dramWrite_noteMixed_keeps (w : Bar2Req) (s : State) : Keeps [.pm, .pt] s (dramWrite w.addr w.bytes (noteMixed w s)) := by
  intro p hp
  cases p <;> first | exact absurd (by decide) hp | simp [samePart]

theorem dramWrite_counts (a : Nat) (l : List Byte) (s : State) :
    (dramWrite a l s).pm.bar2 = s.pm.bar2 ∧ (dramWrite a l s).pm.wfault = s.pm.wfault :=
  have kept := dramWrite_unstaged a l s
  ⟨congrArg (·.bar2) kept, congrArg (·.wfault) kept⟩

/-- The state after a BAR2 read whose DRAM is good (R162, R378). -/
def bar2Answered (addr n : Nat) (u : State) : State :=
  { u with hi := { u.hi with rdata := bar2Data u addr n, rpoison := false, rabort := false } }

theorem exec_bar2Read (addr len : Nat) (s : State) : exec (.bar2Read addr len {}) s =
    .next (bar2Answered addr (min len (2 ^ 37 - addr)) (inSlot .host (min len (2 ^ 37 - addr)) (bar2Drain s))) := rfl

theorem bar2Data_get (s : State) (a : Nat) {n i : Nat} (inside : i < n) :
    (bar2Data s a n)[i]? = some (if 0x1FFC000000 ≤ a + i then 0 else dramByte s.pm (a + i)) := by
  simp [bar2Data, inside]

end Sys2Proof.Machine

open Sys2Proof Sys2Proof.Machine

/-- Settles O35: each row in the branch its premises choose; what a slot's time changes of the pattern memory are staged frames only. -/
theorem atticAndBar2 : Obligations.atticAndBar2 := by
  unfold Obligations.atticAndBar2
  refine ⟨fun s p a spare => ?fetches, fun s addr l poisoned => ?receives, fun s w r oldest power => ?applies, fun s addr len => ?reads⟩
  case fetches =>
    refine ⟨fun due typ => ⟨exec_atticFetch_lane due typ {}, fun at_ => ?_⟩, exec_atticFetch_unasked,
      fun src due => ⟨exec_hostsrcRead_lane due, fun fails => ?_⟩⟩
    · exact ⟨_, exec_atticFetch_lane due typ _, rfl, rfl, (setPm_keeps _ _).trans (shelve_keeps _ _)⟩
    · obtain ⟨items, row⟩ := exec_hostsrcRead_fails due fails
      exact ⟨_, row, contain_contained _ _, (contain_shelf _ _).trans (congrArg PM.shelf (issue_frame _ _ _).2.2.2.2.2.1)⟩
  case receives => exact ⟨exec_bar2Write_inside poisoned s, exec_bar2Write_outside poisoned s⟩
  case applies =>
    intro u wf
    have row := exec_bar2WriteApply .ok oldest
    have outside : bar2Outside u w.addr w.bytes.length = bar2Outside s w.addr w.bytes.length := bar2Slot_outside _ _
    refine ⟨fun good inside => ?written, fun bad => ?dropped⟩
    case written =>
      have on : dramOn (noteMixed w u) = true := bar2Slot_power.trans power
      obtain ⟨bar2, wfault⟩ := dramWrite_counts w.addr w.bytes (noteMixed w u)
      have pt := pt_of_unmixed ((bar2One_unmixed .ok w u).trans (congrArg unmixed (bar2Slot_pt (s := s) (r := r))))
      refine ⟨bar2One .ok w u, row, ?_⟩
      rw [bar2One_written good (outside.trans inside)] at pt ⊢
      exact ⟨bar2.trans bar2Slot_bar2, dramRead_dramWrite on wf _ _, dramByte_dramWrite_other (s := noteMixed w u) wf _ _, wfault,
        dramWrite_noteMixed_keeps w u, pt⟩
    case dropped =>
      obtain ⟨c, drop⟩ := bar2One_dropped (s := u) (by rwa [outside])
      obtain ⟨bar2, dram, wfault, wranges⟩ := bar2Drop_pm c w u
      refine ⟨_, row.trans (congrArg _ drop), bar2.trans bar2Slot_bar2, dram, wfault, ?_, bar2Drop_keeps c w u⟩
      rw [wranges]
      exact List.mem_append_right _ (List.mem_singleton_self _)
  case reads =>
    intro n u
    exact ⟨_, exec_bar2Read addr len s, rfl, by simp [bar2Answered, bar2Data, n], fun i inside => bar2Data_get u addr inside, setHi_keeps _ u⟩
end

section
/-! SUPPORT. A pending stop at a word boundary (R214, R248, R308), the end of the fill (R182, R200) and the end of a run (R229, R308), and the
statement on them. -/

namespace Sys2Proof.Machine

open Sys2Proof

/-! ### A pending stop (R214) -/

section
variable {s : State}

/-- A stop whose instant has come acts at a boundary of the vector context. -/
theorem exec_pendingStop (pending : (s.sq.pendHalt || s.sq.pendAbort) = true) (run : (toEpoch s.sq.pendAt s).sq.state = .running)
    (due : stopDue (toEpoch s.sq.pendAt s) = true) (boundary : atBoundary (toEpoch s.sq.pendAt s) = true) :
    exec .pendingStopAtBoundary s = .next (takeStop (toEpoch s.sq.pendAt s)) := by
  show execPendingStopAtBoundary s = _
  simp only [execPendingStopAtBoundary, pending, Bool.true_or, if_true, due, stopHere, run, boundary]

/-- No abort is left for later by a stop whose instant has come. -/
theorem stopVector_pendAbort (cause code : Nat) (due : stopDue s = true) : (stopVector cause code s).sq.pendAbort = false := by
  obtain ⟨-, reached⟩ : (s.sq.pendHalt || s.sq.pendAbort || s.sq.pendSof) = true ∧ s.sq.pendAt ≤ ext s := by simpa [stopDue] using due
  have past : decide (ext s < s.sq.pendAt) = false := by simpa using reached
  show (s.sq.pendAbort && decide (ext s < s.sq.pendAt)) = false
  rw [past, Bool.and_false]

/-- What the statement says of the vector context that has stopped. -/
structure VectorStopped (cause : Nat) (q : SQ) : Prop where
  draining : q.state = .draining
  stopped : q.stopped = true
  cur : q.cur = none
  pendHalt : q.pendHalt = false
  pendAbort : q.pendAbort = false
  cause : q.stopCause = cause

theorem stopVector_stopped (cause code : Nat) (due : stopDue s = true) : VectorStopped cause (stopVector cause code s).sq :=
  ⟨rfl, rfl, rfl, rfl, stopVector_pendAbort cause code due, rfl⟩

/-- An abort leaves the sequencer but for what is provisional and for the procedure (R214). -/
theorem abortRun_sq (s : State) : (abortRun s).sq = { s.sq with
    acts := closeOpens s.sq.acts, held := [], svcQueue := [], reqs := {}, proc := abortProc s.sq.proc } := by
  have sq : (retracted s).sq = s.sq := retracted_keeps s .sq (by decide)
  have closed : (tiuCloseAll (dropProvisional s)).sq = (dropProvisional s).sq := (tiuCloseAll_frame _).2.2.2.2.2.2.1
  show { (tiuCloseAll (dropProvisional s)).sq with proc := abortProc (tiuCloseAll (dropProvisional s)).sq.proc } = _
  rw [closed, dropProvisional_eq, sq]

/-- An abort leaves no open condition (R214). -/
theorem abortRun_open (s : State) : (abortRun s).sp.open_ = [] := by
  rw [abortRun]
  dsimp only
  rw [(tiuCloseAll_frame _).2.2.2.2.2.2.2.1, dropProvisional_eq]

/-- An abort leaves no gate open (R308). -/
theorem abortRun_gopen (g : Glove) (s : State) : (abortRun s).ti.units[g].gopen = false := by
  rw [abortRun]
  dsimp only
  exact tiuCloseAll_gopen g _

theorem takeStop_halt (halt : s.sq.pendAbort = false) : takeStop s = stopVector 2 0 s := by simp [takeStop, halt]

theorem takeStop_abort (abort : s.sq.pendAbort = true) : takeStop s = abortRun (stopVector 3 0 s) := by simp [takeStop, abort]

/-- The stop that is taken stops the vector context with the cause of the abort or of the halt. -/
theorem takeStop_stopped (due : stopDue s = true) : VectorStopped (if s.sq.pendAbort then 3 else 2) (takeStop s).sq := by
  cases asked : s.sq.pendAbort
  · rw [takeStop_halt asked]
    exact stopVector_stopped 2 0 due
  · obtain ⟨draining, stopped, cur, pendHalt, pendAbort, cause⟩ := stopVector_stopped 3 0 due
    rw [takeStop_abort asked, abortRun_sq]
    exact ⟨draining, stopped, cur, pendHalt, pendAbort, cause⟩

/-! ### The fill (R182, R358) -/

/-- A completed fill arms a standalone device; a held `GO` acts. -/
theorem exec_atticFillComplete (arming : s.sq.state = .arming) (alone : formed s = false) (full : filled s = true) :
    exec .atticFillComplete s = .next (enterArmed s) := by
  show Host.Outcome.next (if filled s then fillDone s else s) = _
  rw [if_pos full, fillDone, if_neg (not_not_intro arming), if_neg (by simp [alone])]

theorem enterArmed_waits (free : s.sq.goHeld = false) : enterArmed s = { s with sq := { s.sq with state := .armed } } := by
  simp [enterArmed, free]

/-- A held `GO` starts a standalone device (R200). -/
theorem enterArmed_goes (alone : formed s = false) (held : s.sq.goHeld = true) : enterArmed s = { s with sq := { s.sq with
    state := .running, startTick := ext s + 65536, goHeld := false } } := by
  have alone' : formed { s with sq := { s.sq with state := .armed } } = false := alone
  rw [enterArmed, if_pos held, goNow, if_neg (by simp [alone'])]
  rfl

/-! ### The end of a run (R229, R308) -/

/-- The gate of a unit closes at the end of a run where it is a `TGATE` gate. -/
def endGate (s : State) (g : Glove) : State := if s.ti.units[g].gate = 0 then tiuClose g s else s

/-- A unit has no open `TGATE` gate. -/
def TgateShut (k : Glove) (s : State) : Prop := s.ti.units[k].gate = 0 → s.ti.units[k].gopen = false

theorem endGate_shuts (g : Glove) (s : State) : TgateShut g (endGate s g) := by
  intro tgate
  rw [endGate] at tgate ⊢
  split
  · rw [tiuClose_gopen, if_pos rfl]
  · rename_i other
    rw [if_neg other] at tgate
    exact absurd tgate other

theorem TgateShut.step {k : Glove} (shut : TgateShut k s) (g : Glove) : TgateShut k (endGate s g) := by
  by_cases same : k = g
  · exact same ▸ endGate_shuts k s
  · have unit : (endGate s g).ti.units[k] = s.ti.units[k] := by
      unfold endGate
      split
      · exact (onlyUnit_tiuClose g s).units k same
      · rfl
    rw [TgateShut, unit]
    exact shut

theorem TgateShut.steps {k : Glove} (shut : TgateShut k s) (l : List Glove) : TgateShut k (l.foldl endGate s) := by
  induction l generalizing s with
  | nil => exact shut
  | cons g l ih => exact ih (shut.step g)

theorem endGates_shut {k : Glove} {l : List Glove} (mem : k ∈ l) (s : State) : TgateShut k (l.foldl endGate s) := by
  induction l generalizing s with
  | nil => exact absurd mem List.not_mem_nil
  | cons g l ih =>
    obtain rfl | later := List.mem_cons.mp mem
    · exact (endGate_shuts k s).steps l
    · exact ih later _

theorem finishRun_ti (cause code : Nat) (s : State) : (finishRun cause code s).ti = ((List.finRange 64).foldl endGate s).ti := by
  have closes : (fun (t : State) (g : Glove) => if t.ti.units[g].gate = 0 then tiuClose g t else t) = endGate := rfl
  rw [finishRun, (reportIdle_frame _).2.2.2.2.2.2.2.2.2.2.1, closes]
  exact issue_ti ..

/-- The end of a run leaves no `TGATE` gate open. -/
theorem finishRun_gopen (cause code : Nat) (k : Glove) (s : State) : TgateShut k (finishRun cause code s) := by
  rw [TgateShut, finishRun_ti]
  exact endGates_shut (List.mem_finRange k) s

/-- The end of a run is recorded (R229; log 11). -/
theorem finishRun_records (cause code : Nat) (s : State) : (finishRun cause code s).sq.state = .idle
    ∧ (finishRun cause code s).sq.endCause = cause ∧ (finishRun cause code s).sq.haltCode = if cause = 1 then code else 0 := by
  rw [finishRun, (reportIdle_frame _).2.2.2.2.2.2.1]
  exact ⟨rfl, rfl, rfl⟩

/-- The state at the end of a run: its last results are in, where the end waits for them (R229). -/
def resultsIn (s : State) : State := if 3 ≤ s.sq.stopCause then s else toEpoch (resultsDue s) s

theorem resultsIn_sq (s : State) : (resultsIn s).sq = s.sq := by
  unfold resultsIn
  split <;> simp

theorem resultsIn_past (past : resultsDue s ≤ ext s) : resultsIn s = s := by rw [resultsIn, toEpoch_past past, ite_self]

theorem exec_runEnd (ended : runOver s = true) : exec .runEnd s = .next (finishRun s.sq.stopCause s.sq.stopCode (resultsIn s)) := by
  show Host.Outcome.next (if runOver s then finishRun (resultsIn s).sq.stopCause (resultsIn s).sq.stopCode (resultsIn s) else s) = _
  rw [if_pos ended, resultsIn_sq]

end

end Sys2Proof.Machine

open Sys2Proof Sys2Proof.Machine

/-- Settles O10: a due stop is taken at its boundary, a full shelf arms the device, and a run that is over is recorded once its results are in. -/
theorem stopFillAndRunEnd : Obligations.stopFillAndRunEnd := by
  unfold Obligations.stopFillAndRunEnd
  refine ⟨fun s pending => ?stop, fun s arming alone full => ?fill, fun s ended _ => ?finish⟩
  case stop =>
    intro u run due boundary
    obtain ⟨draining, stopped, cur, pendHalt, pendAbort, cause⟩ := takeStop_stopped due
    refine ⟨_, exec_pendingStop pending run due boundary, draining, stopped, cur, pendHalt, pendAbort, cause, fun abort => ?_⟩
    rw [takeStop_abort abort]
    refine ⟨abortRun_open _, ?_, fun g => abortRun_gopen g _⟩
    rw [abortRun_sq]
  case fill =>
    have row := exec_atticFillComplete arming alone full
    exact ⟨fun free => row.trans (congrArg _ (enterArmed_waits free)), fun held => row.trans (congrArg _ (enterArmed_goes alone held))⟩
  case finish =>
    obtain ⟨idle, endCause, haltCode⟩ := finishRun_records s.sq.stopCause s.sq.stopCode (resultsIn s)
    refine ⟨_, exec_runEnd ended, idle, endCause, haltCode, fun g => finishRun_gopen _ _ g _, fun past => ?_⟩
    rw [(finishRun_frame _ _ _).2.2.2.2.2.1, resultsIn_past past]
end

section
/-! SUPPORT. The words of the vector context: what a word that is ready does (R198, R214, R217), and the statements on vector runs, loops
(R203, R204, R208) and modifiers (R205, R206). -/

namespace Sys2Proof.Machine

open Sys2Proof

/-! ### A word of the vector context (R198, R214) -/

section
variable {op w : Nat} {s u : State}

/-- A word that is ready has its effect, on the state past it. -/
theorem vecWord_ready (ready : VecReady op w s u) (f : Nat → Nat → State → State) :
    vecWord op .ok f s = f u.sq.pc w (pastWord u) := by
  obtain ⟨stands, free, slot, rfl, opcode, decodes⟩ := ready
  simp [vecWord, stands, free, slot, runWord, storeEcc, decodes, opcode, pastWord]

theorem exec_vec (ready : VecReady 0x01 w s u) : exec (.vec .ok) s = .next (startRun .vec u.sq.pc w (pastWord u)) :=
  congrArg _ (vecWord_ready ready _)

theorem exec_rpt (ready : VecReady 0x02 w s u) : exec (.rpt .ok) s = .next (startRun .rpt u.sq.pc w (pastWord u)) :=
  congrArg _ (vecWord_ready ready _)

theorem exec_loop (ready : VecReady 0x03 w s u) : exec (.loop .ok) s = .next (loopWord u.sq.pc w (pastWord u)) :=
  congrArg _ (vecWord_ready ready _)

theorem exec_endl (ready : VecReady 0x04 w s u) : exec (.endl .ok) s = .next (endlWord u.sq.pc w (pastWord u)) :=
  congrArg _ (vecWord_ready ready _)

theorem exec_ltk (ready : VecReady 0x07 w s u) :
    exec (.ltk .ok) s = .next (setReqs (fun r => { r with ltk := true }) (pastWord u)) :=
  congrArg _ (vecWord_ready ready _)

theorem exec_mark (ready : VecReady 0x08 w s u) :
    exec (.mark .ok) s = .next (setReqs (fun r => { r with mark := some (fld w 15 0) }) (pastWord u)) :=
  congrArg _ (vecWord_ready ready _)

theorem exec_tgate (ready : VecReady 0x09 w s u) : exec (.tgate .ok) s = .next (tgateWord u.sq.pc w (pastWord u)) :=
  congrArg _ (vecWord_ready ready _)

theorem exec_mxj (ready : VecReady 0x0A w s u) : exec (.mxj .ok) s = .next (mxjWord u.sq.pc w (pastWord u)) :=
  congrArg _ (vecWord_ready ready _)

theorem exec_site (ready : VecReady 0x0B w s u) :
    exec (.site .ok) s = .next (setReqs (fun r => { r with sites := r.sites ||| BitVec.ofNat 64 (fld w 63 0) }) (pastWord u)) :=
  congrArg _ (vecWord_ready ready _)

theorem exec_evt (ready : VecReady 0x0C w s u) : exec (.evt .ok) s = .next (evtWord u.sq.pc w (pastWord u)) :=
  congrArg _ (vecWord_ready ready _)

end

/-! ### Loops (R208) -/

section
variable {a w : Nat} {lc : Fin 8} {s : State}

theorem loopIx_of_fld (names : fld w 89 87 = lc.val) : loopIx w = lc := by
  rw [loopIx, names]
  exact Fin.ofNat_val_eq_self lc

theorem endlWord_branches (names : fld w 89 87 = lc.val) (left : 1 < s.sq.loops[lc]) : endlWord a w s = { s with sq := { s.sq with
    loops := vset s.sq.loops lc (s.sq.loops[lc] - 1), pc := fld w 17 0 } } := by
  obtain rfl := loopIx_of_fld names
  rw [endlWord, if_neg (by omega), if_neg (by omega)]

theorem endlWord_falls (names : fld w 89 87 = lc.val) (last : s.sq.loops[lc] = 1) : endlWord a w s = { s with sq := { s.sq with
    loops := vset s.sq.loops lc 0 } } := by
  obtain rfl := loopIx_of_fld names
  rw [endlWord, if_neg (by omega), if_pos last, last]

theorem endlWord_faults (names : fld w 89 87 = lc.val) (none_ : s.sq.loops[lc] = 0) : endlWord a w s = vecFault 0x4 a s := by
  obtain rfl := loopIx_of_fld names
  exact if_pos none_

end

/-! ### Modifiers (R205, R206) -/

section
variable {a w : Nat} {s : State}

theorem tgateWord_opens (action : fld w 121 120 = 1) (apart : s.sq.reqs.tclose &&& BitVec.ofNat 64 (fld w 63 0) = 0) :
    tgateWord a w s = setReqs (fun r => { r with topen := r.topen ||| BitVec.ofNat 64 (fld w 63 0) }) s := by
  simp [tgateWord, action, apart]

theorem tgateWord_closes (action : fld w 121 120 = 2) (apart : s.sq.reqs.topen &&& BitVec.ofNat 64 (fld w 63 0) = 0) :
    tgateWord a w s = setReqs (fun r => { r with tclose := r.tclose ||| BitVec.ofNat 64 (fld w 63 0) }) s := by
  simp [tgateWord, action, apart]

/-- A TIU that is to close does not open with the same carrier. -/
theorem tgateWord_open_faults (action : fld w 121 120 = 1) (both : s.sq.reqs.tclose &&& BitVec.ofNat 64 (fld w 63 0) ≠ 0) :
    tgateWord a w s = vecFault 0x5 a s := by
  simp only [tgateWord, action, if_true, if_pos both]

/-- A TIU that is to open does not close with the same carrier. -/
theorem tgateWord_close_faults (action : fld w 121 120 = 2) (both : s.sq.reqs.topen &&& BitVec.ofNat 64 (fld w 63 0) ≠ 0) :
    tgateWord a w s = vecFault 0x5 a s := by
  simp only [tgateWord, action, show ¬ (2 : Nat) = 1 by decide, if_false, if_pos both]

/-- The test of `MXJ` and `EVT`: a channel or an output that the word names has been named before. -/
theorem named_twice_iff {n : Nat} {α : Type} (before now : List (Fin n × α)) :
    (before.any fun x => now.any fun y => decide (y.1 = x.1)) = true ↔ ∃ x ∈ before, ∃ y ∈ now, y.1 = x.1 := by simp

/-- What an `MXJ` word asks of each channel that it names. -/
def mxjAsks (w : Nat) : List (Fin 16 × Nat × Bool) := (maskBits 16 (fld w 15 0)).map fun c => (c, fld w 25 16, bitAt w 121)

theorem mxjWord_adds (apart : ∀ x ∈ s.sq.reqs.mxj, ∀ y ∈ mxjAsks w, y.1 ≠ x.1) :
    mxjWord a w s = setReqs (fun r => { r with mxj := r.mxj ++ mxjAsks w }) s := by
  refine if_neg fun twice => ?_
  obtain ⟨x, before, y, now, same⟩ := (named_twice_iff _ _).mp twice
  exact apart x before y now same

theorem mxjWord_faults (twice : ∃ x ∈ s.sq.reqs.mxj, ∃ y ∈ mxjAsks w, y.1 = x.1) : mxjWord a w s = vecFault 0x5 a s :=
  if_pos ((named_twice_iff _ _).mpr twice)

/-- What an `EVT` word asks of each output that it names. -/
def evtAsks (w : Nat) : List (Fin 4 × Nat × Nat) := (maskBits 4 (fld w 3 0)).map fun c => (c, fld w 121 120, fld w 19 12)

theorem evtWord_adds (apart : ∀ x ∈ s.sq.reqs.evt, ∀ y ∈ evtAsks w, y.1 ≠ x.1) :
    evtWord a w s = setReqs (fun r => { r with evt := r.evt ++ evtAsks w }) s := by
  refine if_neg fun twice => ?_
  obtain ⟨x, before, y, now, same⟩ := (named_twice_iff _ _).mp twice
  exact apart x before y now same

theorem evtWord_faults (twice : ∃ x ∈ s.sq.reqs.evt, ∃ y ∈ evtAsks w, y.1 = x.1) : evtWord a w s = vecFault 0x5 a s :=
  if_pos ((named_twice_iff _ _).mpr twice)

end

end Sys2Proof.Machine

open Sys2Proof Sys2Proof.Machine

/-- Settles O11: each word that is ready has its effect past the word, `ENDL` by what its counter holds. -/
theorem vectorRunWords : Obligations.vectorRunWords := by
  unfold Obligations.vectorRunWords
  intro s u w
  refine ⟨exec_vec, exec_rpt, fun lc names => ⟨fun ready => ?loop, fun ready left => ?branch, fun ready last => ?fall,
    fun ready none_ => ?fault⟩⟩
  case loop =>
    obtain rfl := loopIx_of_fld names
    exact exec_loop ready
  case branch => exact (exec_endl ready).trans (congrArg _ (endlWord_branches names left))
  case fall => exact (exec_endl ready).trans (congrArg _ (endlWord_falls names last))
  case fault => exact (exec_endl ready).trans (congrArg _ (endlWord_faults names none_))

/-- Settles O13: each modifier that is ready changes the pending requests past its word; the contradictions are the tests of
`TGATE`, `MXJ` and `EVT`. -/
theorem modifierWordsAttach : Obligations.modifierWordsAttach := by
  unfold Obligations.modifierWordsAttach
  intro s u w
  refine ⟨exec_ltk, exec_mark, exec_site, fun ready => ?tgate, fun ready => ?mxj, fun ready => ?evt⟩
  case tgate =>
    exact ⟨fun action apart => (exec_tgate ready).trans (congrArg _ (tgateWord_opens action apart)),
      fun action apart => (exec_tgate ready).trans (congrArg _ (tgateWord_closes action apart)),
      fun action both => (exec_tgate ready).trans (congrArg _ (tgateWord_open_faults action both)),
      fun action both => (exec_tgate ready).trans (congrArg _ (tgateWord_close_faults action both))⟩
  case mxj =>
    exact ⟨fun apart => (exec_mxj ready).trans (congrArg _ (mxjWord_adds apart)),
      fun twice => (exec_mxj ready).trans (congrArg _ (mxjWord_faults twice))⟩
  case evt =>
    exact ⟨fun apart => (exec_evt ready).trans (congrArg _ (evtWord_adds apart)),
      fun twice => (exec_evt ready).trans (congrArg _ (evtWord_faults twice))⟩
end

section
/-! SUPPORT. What the end of a run leaves of the sequencer (R214, R215, R248, R412), the faults of the vector context and of the service context
(R198, R222), and the statement on procedures (R220). -/

namespace Sys2Proof.Machine

open Sys2Proof

/-! ### Events counted in a run -/

/-- An event that counts its occurrences changes their list alone of the sequencer. -/
theorem issueUpTo_sq (n code : Nat) (items : List Item) (s : State) :
    ∃ once, (issueUpTo n code items s).sq = { s.sq with once := once } := by
  unfold issueUpTo
  split
  · split
    · exact ⟨_, (issue_frame _ _ _).2.2.2.2.2.2.1⟩
    · exact ⟨s.sq.once, rfl⟩
  · exact ⟨s.sq.once, (issue_frame _ _ _).2.2.2.2.2.2.1⟩

/-! ### The sequencer at the end of a run (R214, R215, R248) -/

/-- The sequencer without what the end of a run changes of it. -/
def lasting (q : SQ) : SQ :=
  { q with
    state := .idle, stopped := false, cur := none, haltWait := none, early := [], stopCause := 0, stopCode := 0, pendHalt := false
    pendAbort := false, pendSof := false, goHeld := false, reqs := {}, held := [], svcQueue := [], proc := none, acts := [], once := []
    stallRun := 0, underLoad := none }

/-- What the end of a run does not change is the same where the rest is. -/
theorem eq_of_lasting {α : Type} {f : SQ → α} (outside : ∀ q, f (lasting q) = f q) {a b : SQ} (h : lasting a = lasting b) : f a = f b := by
  rw [← outside a, h, outside]

@[simp] theorem issue_lasting (code : Nat) (items : List Item) (s : State) : lasting (issue code items s).sq = lasting s.sq := by simp

@[simp] theorem issueUpTo_lasting (n code : Nat) (items : List Item) (s : State) :
    lasting (issueUpTo n code items s).sq = lasting s.sq := by
  obtain ⟨once, sq⟩ := issueUpTo_sq n code items s
  rw [sq]
  rfl

@[simp] theorem endDstall_lasting (s : State) : lasting (endDstall s).sq = lasting s.sq := by
  unfold endDstall
  split
  · rfl
  · rw [issue_lasting]; rfl

@[simp] theorem endBubble_lasting (s : State) : lasting (endBubble s).sq = lasting s.sq := by
  simp only [endBubble]
  split
  · rfl
  · rw [issueUpTo_lasting]

@[simp] theorem endLimit_lasting (s : State) : lasting (endLimit s).sq = lasting s.sq := by
  simp only [endLimit]
  split
  · rfl
  · rw [issueUpTo_lasting]

theorem endEpisodes_lasting (s : State) : lasting (endEpisodes s).sq = lasting s.sq := by
  have starve : (endStarve s).sq = s.sq := (endStarve_frame s).2.2.2.2.2.1
  rw [endEpisodes, endLimit_lasting, endBubble_lasting, endDstall_lasting, starve]

/-- The stop of the vector context changes what the end of a run changes. -/
theorem stopVector_lasting (cause code : Nat) (s : State) : lasting (stopVector cause code s).sq = lasting s.sq := by
  rw [← endEpisodes_lasting s, stopVector]
  rfl

theorem dropProvisional_lasting (s : State) : lasting (dropProvisional s).sq = lasting s.sq := by
  have sq : (retracted s).sq = s.sq := retracted_keeps s .sq (by decide)
  rw [dropProvisional_eq, sq]
  rfl

theorem lasting_noService (q : SQ) : lasting { q with proc := none, underLoad := none } = lasting q := rfl

theorem containRun_lasting (s : State) : lasting (containRun s).sq = lasting s.sq := by
  cases run : running s
  · rw [containRun_idle run]
  · rw [containRun_running run]
    dsimp only
    rw [lasting_noService, dropProvisional_lasting, stopVector_lasting]

/-! ### Containment and the sequencer (R411 to R413) -/

theorem containAgain_sq (cause : Nat) (s : State) : (containAgain cause s).sq = s.sq := by simp [containAgain]

/-- Containment ends the run, where one is in progress and the device was not contained before; else the sequencer stays. -/
theorem contain_sq (cause : Nat) (s : State) :
    (contain cause s).sq = if s.mg.contained then s.sq else (containRun s).sq := by
  cases before : s.mg.contained
  · exact (contain_keeps cause before .sq (by decide)).trans (madeSafe_frame s).1
  · rw [contain, if_pos before, containAgain_sq, if_pos rfl]

@[simp] theorem contain_lasting (cause : Nat) (s : State) : lasting (contain cause s).sq = lasting s.sq := by
  rw [contain_sq]
  split
  · rfl
  · exact containRun_lasting s

theorem contain_dram (cause : Nat) (s : State) : (contain cause s).pm.dram = s.pm.dram := by
  cases before : s.mg.contained
  · rw [contain_keeps cause before .pm (by decide), (madeSafe_frame s).2.2.2.1, containRun_dram]
  · rw [contain, if_pos before]
    simp [containAgain]

/-- The device is contained only once: no post, procedure or copy comes with it. -/
theorem contain_service (cause : Nat) (s : State) : ((contain cause s).sq.proc = none ∨ (contain cause s).sq.proc = s.sq.proc)
    ∧ ((contain cause s).sq.svcQueue = [] ∨ (contain cause s).sq.svcQueue = s.sq.svcQueue)
    ∧ ((contain cause s).sq.underLoad = none ∨ (contain cause s).sq.underLoad = s.sq.underLoad) := by
  rw [contain_sq]
  split
  · exact ⟨.inr rfl, .inr rfl, .inr rfl⟩
  · cases run : running s
    · rw [containRun_idle run]
      exact ⟨.inr rfl, .inr rfl, .inr rfl⟩
    · obtain ⟨-, -, -, proc, queue, -, -, -, -⟩ := containRun_ends run
      refine ⟨.inl proc, .inl queue, .inl ?_⟩
      rw [containRun_running run]

/-! ### Faults (R198, R222) -/

/-- `SQ_FAULT` with a fault of a context, its cause and its address (Table 8.10). -/
def faultWord (ctx cause a : Nat) : W64 := BitVec.ofNat 64 (2 ^ 63 + ctx * 2 ^ 62 + cause * 2 ^ 58 + a % 2 ^ 18)

theorem faultWord_toNat {ctx cause : Nat} (a : Nat) (context : ctx < 2) (small : cause < 16) :
    (faultWord ctx cause a).toNat = 2 ^ 63 + ctx * 2 ^ 62 + cause * 2 ^ 58 + a % 2 ^ 18 := by
  rw [faultWord, BitVec.toNat_ofNat]
  exact Nat.mod_eq_of_lt (by omega)

theorem recordFault_fault (ctx cause a : Nat) (s : State) : (recordFault ctx cause a s).sq.fault = faultWord ctx cause a := by
  rw [recordFault, faultWord]

/-- A fault of the vector context contains the device. -/
theorem vecFault_contained (cause a : Nat) (s : State) : (vecFault cause a s).mg.contained = true := by
  rw [vecFault]
  exact contain_contained _ _

/-- Beside the end of the run the record is all that a fault leaves of the sequencer. -/
theorem vecFault_lasting (cause a : Nat) (s : State) : lasting (vecFault cause a s).sq = lasting (recordFault 0 cause a s).sq := by
  rw [vecFault, contain_lasting, issue_lasting]

/-- What is no matter of the end of a run, nor of the record, is the same after a fault. -/
theorem vecFault_rest {α : Type} {f : SQ → α} (outside : ∀ q w, f (lasting { q with fault := w }) = f q) (cause a : Nat) (s : State) :
    f (vecFault cause a s).sq = f s.sq := by
  have recorded : ∃ w, (recordFault 0 cause a s).sq = { s.sq with fault := w } := ⟨_, rfl⟩
  obtain ⟨w, sq⟩ := recorded
  calc f (vecFault cause a s).sq
    _ = f (lasting (vecFault cause a s).sq) := (outside _ (vecFault cause a s).sq.fault).symm
    _ = f (lasting { s.sq with fault := w }) := by rw [vecFault_lasting, sq]
    _ = f s.sq := outside _ w

theorem vecFault_dram (cause a : Nat) (s : State) : (vecFault cause a s).pm.dram = s.pm.dram := by
  rw [vecFault, contain_dram, (issue_frame _ _ _).2.2.2.2.2.1, recordFault]

theorem vecFault_fault {cause : Nat} (a : Nat) (s : State) (small : cause < 16) :
    (vecFault cause a s).sq.fault.toNat = 2 ^ 63 + cause * 2 ^ 58 + a % 2 ^ 18 := by
  rw [eq_of_lasting (f := SQ.fault) (fun _ => rfl) (vecFault_lasting cause a s), recordFault_fault,
    faultWord_toNat (ctx := 0) a (by omega) small, Nat.zero_mul, Nat.add_zero]

/-- What a service fault leaves (R222): no procedure, no copy, the record; it adds no post. -/
structure SvcFaulted (cause a : Nat) (s t : State) : Prop where
  proc : t.sq.proc = none
  svcFault : t.sq.svcFault = true
  fault : t.sq.fault = faultWord 1 cause a
  underLoad : t.sq.underLoad = none
  queue : t.sq.svcQueue = [] ∨ t.sq.svcQueue = s.sq.svcQueue
  dram : t.pm.dram = s.pm.dram

/-- The state in which a service fault has been recorded. -/
def svcRecorded (cause a : Nat) (s : State) : State :=
  issue 0x0702 [i1 cause, i8 a, i8 ((s.sq.proc.map fun p => p.entry).getD 0)] (recordFault 1 cause a { s with sq := { s.sq with
    proc := none, svcFault := true, fresh := freshen s 0x100 s.sq.fresh, underLoad := none } })

theorem svcRecorded_sq (cause a : Nat) (s : State) : (svcRecorded cause a s).sq = { s.sq with
    proc := none, svcFault := true, fresh := freshen s 0x100 s.sq.fresh, underLoad := none
    fault := faultWord 1 cause a } := (issue_frame _ _ _).2.2.2.2.2.2.1

theorem svcRecorded_faulted (cause a : Nat) (s : State) : SvcFaulted cause a s (svcRecorded cause a s) := by
  have sq := svcRecorded_sq cause a s
  have dram : (svcRecorded cause a s).pm.dram = s.pm.dram := congrArg PM.dram (issue_frame _ _ _).2.2.2.2.2.1
  exact ⟨by rw [sq], by rw [sq], by rw [sq], by rw [sq], .inr (by rw [sq]), dram⟩

theorem svcFaultAt_eq (cause a : Nat) (s : State) :
    svcFaultAt cause a s = if s.sq.svcContain then contain 0x05 (svcRecorded cause a s) else svcRecorded cause a s := rfl

theorem svcFaultAt_faulted (cause a : Nat) (s : State) : SvcFaulted cause a s (svcFaultAt cause a s) := by
  have recorded := svcRecorded_faulted cause a s
  rw [svcFaultAt_eq]
  split
  · obtain ⟨proc, queue, load⟩ := contain_service 0x05 (svcRecorded cause a s)
    have kept := contain_lasting 0x05 (svcRecorded cause a s)
    exact {
      proc := proc.elim id fun same => same.trans recorded.proc
      svcFault := (eq_of_lasting (f := SQ.svcFault) (fun _ => rfl) kept).trans recorded.svcFault
      fault := (eq_of_lasting (f := SQ.fault) (fun _ => rfl) kept).trans recorded.fault
      underLoad := load.elim id fun same => same.trans recorded.underLoad
      queue := queue.elim .inl fun same => same ▸ recorded.queue
      dram := (contain_dram _ _).trans recorded.dram }
  · exact recorded

/-! ### Procedures (R220) -/

section
variable {w : Nat} {p : Proc} {s u : State}

theorem exec_call (ready : SvcReady 0x20 w p s u) :
    exec (.call .ok) s = .next (callWord p.pc w { p with pc := p.pc + 1 } (withProc (some { p with pc := p.pc + 1 }) u)) :=
  congrArg _ (svcRun_ready ready _)

theorem exec_ret (ready : SvcReady 0x21 w p s u) :
    exec (.ret .ok) s = .next (retWord { p with pc := p.pc + 1 } (withProc (some { p with pc := p.pc + 1 }) u)) :=
  congrArg _ (svcRun_ready ready _)

theorem exec_sjmp (ready : SvcReady 0x22 w p s u) :
    exec (.sjmp .ok) s = .next (updProc (fun q => { q with pc := fld w 17 0 }) (withProc (some { p with pc := p.pc + 1 }) u)) :=
  congrArg _ (svcRun_ready ready _)

theorem callWord_pushes (a : Nat) (q : Proc) (room : q.stack.length < 8) :
    callWord a w q s = updProc (fun x => { x with stack := q.pc :: x.stack, pc := fld w 17 0 }) s :=
  if_neg (Nat.not_le.mpr room)

/-- A service word that is ready finds the posts as they stood before its slot. -/
theorem SvcReady.queue {op : Nat} (ready : SvcReady op w p s u) : u.sq.svcQueue = s.sq.svcQueue := by
  obtain ⟨-, -, rfl, -⟩ := ready
  obtain ⟨d, n, a, sq⟩ := freeSlot_sq s
  rw [sq]

end

end Sys2Proof.Machine

open Sys2Proof Sys2Proof.Machine

/-- Settles O25: the oldest post is taken; each word that is ready changes the procedure, and a ninth push is a service fault. -/
theorem serviceProcedures : Obligations.serviceProcedures := by
  unfold Obligations.serviceProcedures
  intro s u w p
  refine ⟨fun e r idle queue => ?start, fun ready room => ?push, fun ready deep => ?ninth,
    fun ready => ⟨fun empty => ?ends, fun a r stack => ?returns⟩, exec_sjmp⟩
  case start =>
    show Host.Outcome.next (match s.sq.proc, s.sq.svcQueue with | none, e :: r => _ | _, _ => s) = _
    rw [idle, queue]
  case push => exact (exec_call ready).trans (congrArg _ (callWord_pushes _ _ room))
  case ninth =>
    refine ⟨_, (exec_call ready).trans (congrArg _ (if_pos deep)), ?_⟩
    obtain ⟨proc, svcFault, fault, -, queue, -⟩ := svcFaultAt_faulted 0xA p.pc (withProc (some { p with pc := p.pc + 1 }) u)
    refine ⟨proc, svcFault, ?_, ?_⟩
    · rw [fault, faultWord_toNat (ctx := 1) p.pc (by omega) (by omega), Nat.one_mul]
    · obtain empty | same := queue
      · simp [empty]
      · rw [same, ← ready.queue]
        exact le_rfl
  case ends =>
    refine (exec_ret ready).trans (congrArg _ ?_)
    simp only [retWord, empty]
    rfl
  case returns =>
    refine (exec_ret ready).trans (congrArg _ ?_)
    simp only [retWord, stack]
    rfl
end

section
/-! SUPPORT. Branches and waits (R209, R210, R212), posts and halts (R205, R216, R219), the decode slots (R217, R218), and what every command of the
vector context does at a word that faults, at a stop, and where its word does not stand (R198, R214, R225); the statements on them. -/

namespace Sys2Proof.Machine

open Sys2Proof

theorem setSqSp_keeps (sq : SQ) (sp : SP) (s : State) : Keeps [.sq, .sp] s { s with sq := sq, sp := sp } := by
  intro p hp
  cases p <;> first | exact absurd (by decide) hp | rfl

/-! ### Branches and waits (R209, R210, R212) -/

section
variable {w : Nat} {s u : State}

theorem exec_br (ready : VecReady 0x05 w s u) : exec (.br .ok) s = .next (brWord u.sq.pc w (pastWord u)) :=
  congrArg _ (vecWord_ready ready _)

theorem exec_wait (ready : VecReady 0x06 w s u) : exec (.wait .ok) s = .next (waitWord u.sq.pc w (pastWord u)) :=
  congrArg _ (vecWord_ready ready _)

/-- The number of the next global condition after a condition (R249). -/
def serialAfter (c : Cond) (s : State) : Nat := if cSrc (condEnt s c.entry) = 6 then (s.sp.gserial + 1) % 2 ^ 32 else s.sp.gserial

/-- The condition that a word leaves behind: with the next identity and its number among the global ones (R239, R249). -/
def waitingCond (c : Cond) (s : State) : Cond :=
  { c with cid := s.sp.nextCid, gserial := s.sp.gserial, check := { c.check with gserial := serialAfter c s } }

theorem addCond_eq (c : Cond) (s : State) : addCond c s = { s with sp := { s.sp with
    toOpen := s.sp.toOpen ++ [waitingCond c s], nextCid := s.sp.nextCid + 1, gserial := serialAfter c s } } := rfl

/-- The condition of a `BR` word at `a`: its checkpoint is that of the path not predicted. -/
def brCond (a w : Nat) (v : Subj) (s : State) : Cond :=
  { cid := 0, word := a, entry := fld w 121 115, sense := bitAt w 114, pred := bitAt w 113, subj := v
    check := checkpoint (if bitAt w 113 then a + 1 else fld w 17 0) none s }

theorem brWord_jumps {a : Nat} (always : fld w 121 115 = 0x40) :
    brWord a w s = { s with sq := { s.sq with pc := fld w 17 0 } } := if_pos always

/-- The state with the program counter where the hint of a `BR` at `a` predicts it. -/
def asHinted (a w : Nat) (s : State) : State := { s with sq := { s.sq with pc := if bitAt w 113 then fld w 17 0 else a + 1 } }

theorem brWord_predicts {a : Nat} {v : Subj} (conditional : fld w 121 115 ≠ 0x40) (last : s.sq.lastIdx = some v) :
    brWord a w s = addCond (brCond a w v s) (asHinted a w s) := by
  rw [brWord, if_neg conditional, last]
  rfl

/-- The `WAIT` at `a` as the word that supplies vectors (R212). -/
def waitCur (a w : Nat) (stay : Bool) : Cur :=
  { kind := .wait (fld w 121 115) (bitAt w 114) 0 (fld w 17 0) stay, word := a, addr := fld w 71 31, left := 0 }

/-- The state in which the `WAIT` at `a` supplies vectors. -/
def atWait (a w : Nat) (stay : Bool) (s : State) : State := { s with sq := { s.sq with cur := some (waitCur a w stay) } }

theorem waitWord_goes {a : Nat} (go : w.testBit 113 = true) : waitWord a w s = atWait a w false s := by
  simp [waitWord, atWait, waitCur, bitAt, go]

theorem waitWord_stays {a : Nat} (stay : w.testBit 113 = false) :
    waitWord a w s = addCond (stayCond (waitCur a w true) (fld w 121 115) (bitAt w 114) s) (atWait a w true s) := by
  simp [waitWord, atWait, waitCur, bitAt, stay]

end

end Sys2Proof.Machine

open Sys2Proof Sys2Proof.Machine

/-- Settles O12: `BR` by whether its condition is the constant, `WAIT` by its mode; what a new condition holds is `addCond_new`. -/
theorem branchAndWaitWords : Obligations.branchAndWaitWords := by
  unfold Obligations.branchAndWaitWords
  intro s u w
  refine ⟨fun ready always => (exec_br ready).trans (congrArg _ (brWord_jumps always)), fun v ready conditional last => ?branch,
    fun ready go => (exec_wait ready).trans (congrArg _ (waitWord_goes go)), fun ready stay => ?stays⟩
  case branch =>
    refine ⟨_, waitingCond (brCond u.sq.pc w v (pastWord u)) (asHinted u.sq.pc w (pastWord u)),
      (exec_br ready).trans (congrArg _ (brWord_predicts conditional last)), ?_⟩
    rw [addCond_eq]
    exact ⟨rfl, rfl, rfl, rfl, rfl, rfl, rfl, rfl, rfl, rfl, rfl, rfl, rfl, rfl, rfl, rfl, setSqSp_keeps _ _ u⟩
  case stays =>
    refine ⟨_, waitingCond (stayCond (waitCur u.sq.pc w true) (fld w 121 115) (bitAt w 114) (pastWord u)) (atWait u.sq.pc w true (pastWord u)),
      (exec_wait ready).trans (congrArg _ (waitWord_stays stay)), ?_⟩
    obtain ⟨-, -, -, word, -⟩ := ready
    rw [addCond_eq]
    exact ⟨rfl, rfl, rfl, rfl, rfl, congrArg (fld · 17 0) word, rfl, rfl, setSqSp_keeps _ _ u⟩
end

section
/-! SUPPORT. Posts and halts (R205, R216, R219), the decode slots (R217, R218), and what every command of the vector context does at a word that
faults, at a stop, and where its word does not stand (R198, R214, R225); the statement on them. -/

namespace Sys2Proof.Machine

open Sys2Proof

/-! ### Posts (R219) -/

section
variable {h : Held} {s : State}

theorem postNow_queues (room : s.sq.svcQueue.length < 16) :
    postNow h s = { s with sq := { s.sq with svcQueue := s.sq.svcQueue ++ [h.entry] } } := if_pos room

theorem postNow_faults (packed : 16 ≤ s.sq.svcQueue.length) (asked : h.full = true) : postNow h s = vecFault 0xC h.word s := by
  rw [postNow, if_neg (by omega), if_pos asked]

/-- The state in which a lost post has been noted. -/
def postNoted (s : State) : State := { s with sq := { s.sq with svcLost := true, fresh := freshen s 0x80 s.sq.fresh } }

theorem postNow_loses (packed : 16 ≤ s.sq.svcQueue.length) (unasked : h.full = false) :
    postNow h s = issue 0x0706 [i8 h.word, i8 h.entry] (postNoted s) := by
  rw [postNow, if_neg (by omega), if_neg (by simp [unasked]), postNoted]

end

/-- The post of an `SVC` word at `a`. -/
def svcPost (a w : Nat) (s : State) : Held := { entry := fld w 17 0, word := a, full := bitAt w 121, conds := olderConds s }

section
variable {w : Nat} {s u : State}

theorem svcWord_posts {a : Nat} (none_ : olderConds s = []) : svcWord a w s = postNow (svcPost a w s) s := if_pos (by simp [none_])

theorem svcWord_holds {a : Nat} (some_ : olderConds s ≠ []) :
    svcWord a w s = { s with sq := { s.sq with held := s.sq.held ++ [svcPost a w s] } } := if_neg (by simp [some_])

theorem exec_svc_posts (ready : VecReady 0x0D w s u) (none_ : olderConds u = []) :
    exec (.svc .ok) s = .next (postNow (svcPost u.sq.pc w (pastWord u)) (pastWord u)) :=
  congrArg _ ((vecWord_ready ready _).trans (svcWord_posts none_))

theorem exec_svc_holds (ready : VecReady 0x0D w s u) (some_ : olderConds u ≠ []) :
    exec (.svc .ok) s = .next { pastWord u with sq := { (pastWord u).sq with held := (pastWord u).sq.held ++ [svcPost u.sq.pc w (pastWord u)] } } :=
  congrArg _ ((vecWord_ready ready _).trans (svcWord_holds some_))

/-! ### Halts (R205, R216) -/

theorem exec_haltWord (ready : VecReady 0x0E w s u) : exec (.haltWord .ok) s = .next (haltWord' u.sq.pc w (pastWord u)) :=
  congrArg _ (vecWord_ready ready _)

theorem haltWord_stops {a : Nat} (free : s.sq.reqs = {}) (none_ : olderConds s = []) :
    haltWord' a w s = stopVector 1 (fld w 15 0) s := by
  rw [haltWord', if_neg (not_not_intro free), if_pos (by simp [none_])]

theorem haltWord_waits {a : Nat} (free : s.sq.reqs = {}) (some_ : olderConds s ≠ []) :
    haltWord' a w s = { s with sq := { s.sq with haltWait := some (fld w 15 0) } } := by
  rw [haltWord', if_neg (not_not_intro free), if_neg (by simp [some_])]

end

/-! ### Decode slots (R217, R218) -/

section
variable {s u : State}

/-- The sequencer without its account of decode slots. -/
def slotless (q : SQ) : SQ := { q with decoded := 0, decUsed := 0, decAt := 0 }

theorem decodeAccount_keeps (s : State) : Keeps [.sq] s (decodeAccount s) := by
  simp only [decodeAccount]
  split
  · exact Keeps.refl _ s
  · exact setSq_keeps _ s

theorem decodeAccount_slotless (s : State) : slotless (decodeAccount s).sq = slotless s.sq := by
  obtain ⟨d, n, a, sq⟩ := decodeAccount_sq s
  rw [sq]
  rfl

theorem useSlot_keeps (s : State) : Keeps [.sq] s (useSlot s) := by
  unfold useSlot
  split
  · exact setSq_keeps _ s
  · exact setSq_keeps _ s

theorem useSlot_slotless (s : State) : slotless (useSlot s).sq = slotless s.sq := by
  unfold useSlot
  split <;> rfl

/-- The slots that the fabric cycles since the last account have brought. -/
theorem decodeAccount_counts (decoding : decodes s = true) (ahead : s.sq.decoded ≤ 64) (past : s.sq.decAt ≤ ext s / 8192) :
    (decodeAccount s).sq.decoded = min 64 (s.sq.decoded + 2 * (ext s / 8192 - s.sq.decAt))
      ∧ (decodeAccount s).sq.decAt = ext s / 8192 := by
  simp only [decodeAccount, decoding, if_true]
  split
  · exact ⟨by omega, by omega⟩
  · exact ⟨by dsimp only; omega, rfl⟩

/-- The slot of a word comes in this cycle, or with the next one: nothing but the account of the slots changes then beside time. -/
theorem takeSlot_eq (slot : takeSlot s = some u) :
    u = useSlot (decodeAccount s) ∨ ∃ e, u = useSlot (decodeAccount (toEpoch e (decodeAccount s))) := by
  simp only [takeSlot] at slot
  split at slot
  · exact .inl (Option.some.inj slot).symm
  · split at slot
    · exact .inr ⟨_, (Option.some.inj slot).symm⟩
    · exact absurd slot nofun

theorem takeSlot_keeps (slot : takeSlot s = some u) : Keeps (.sq :: .pm :: .hostMem :: passParts) s u := by
  have account : ∀ t, Keeps (.sq :: .pm :: .hostMem :: passParts) t (decodeAccount t) := fun t => (decodeAccount_keeps t).mono (by simp)
  have use : ∀ t, Keeps (.sq :: .pm :: .hostMem :: passParts) t (useSlot t) := fun t => (useSlot_keeps t).mono (by simp)
  obtain rfl | ⟨e, rfl⟩ := takeSlot_eq slot
  · exact (account s).trans (use _)
  · exact ((account s).trans ((toEpoch_keeps e _).mono (by simp))).trans ((account _).trans (use _))

theorem takeSlot_slotless (slot : takeSlot s = some u) : slotless u.sq = slotless s.sq := by
  obtain rfl | ⟨e, rfl⟩ := takeSlot_eq slot
  · rw [useSlot_slotless, decodeAccount_slotless]
  · rw [useSlot_slotless, decodeAccount_slotless, (toEpoch_frame e _).2.2.2.1, decodeAccount_slotless]

/-- What is no matter of the decode slots is the same with the slot taken. -/
theorem eq_of_slotless {α : Type} {f : SQ → α} (outside : ∀ q, f (slotless q) = f q) {a b : SQ} (h : slotless a = slotless b) : f a = f b := by
  rw [← outside a, h, outside]

/-- A sequencer of which only the account of the slots is another, with that account put back. -/
theorem sq_of_slotless {a b : SQ} (h : slotless a = slotless b) :
    { a with decoded := b.decoded, decAt := b.decAt, decUsed := b.decUsed } = b :=
  congrArg (fun q : SQ => { q with decoded := b.decoded, decAt := b.decAt, decUsed := b.decUsed }) h

theorem takeSlot_pc (slot : takeSlot s = some u) : u.sq.pc = s.sq.pc := eq_of_slotless (f := SQ.pc) (fun _ => rfl) (takeSlot_slotless slot)

end

/-! ### Every command of the vector context (R198, R214, R225) -/

/-- The commands of the vector context are words of the opcodes 1 to 14, in the order of Table 8.1. -/
theorem vecCommands_get {ecc : Ecc} {n : Nat} {i : Instr} (row : (vecCommands ecc)[n]? = some i) :
    ∃ f, ∀ s, exec i s = .next (vecWord (n + 1) ecc f s) := by
  have bound : n < 14 := (List.getElem?_eq_some_iff.mp row).1
  interval_cases n <;> obtain rfl := Option.some.inj row <;> exact ⟨_, fun _ => rfl⟩

theorem vecCommands_mem {ecc : Ecc} {i : Instr} (mem : i ∈ vecCommands ecc) : ∃ op f, ∀ s, exec i s = .next (vecWord op ecc f s) := by
  obtain ⟨n, row⟩ := List.getElem?_of_mem mem
  exact ⟨n + 1, vecCommands_get row⟩

section
variable {op : Nat} {ecc : Ecc} {f : Nat → Nat → State → State} {s u : State}

theorem vecWord_runs (stands : atWord s = true) (free : stopDue s = false) (slot : takeSlot s = some u) :
    vecWord op ecc f s = runWord op ecc f s u := by
  simp [vecWord, stands, free, slot]

theorem vecWord_stop (stands : atWord s = true) (due : stopDue s = true) : vecWord op ecc f s = takeStop s := by
  simp [vecWord, stands, due]

theorem vecWord_waits (waits : atWord s = false ∨ (stopDue s = false ∧ takeSlot s = none)) : vecWord op ecc f s = s := by
  obtain away | ⟨free, slot⟩ := waits
  · simp [vecWord, away]
  · simp [vecWord, free, slot]

/-- A word that faults when it acts has no effect beside the fault. -/
theorem runWord_faults {c : Nat} (fault : decodeCause false (storeEcc ecc u.sq.pc 0 u) u.sq.pc = some c) :
    runWord op ecc f s u = vecFault c u.sq.pc (storeEcc ecc u.sq.pc 0 u) := by
  simp only [runWord, fault]

theorem runWord_other {w op' : Nat} (ready : VecReady op' w s u) (other : op' ≠ op) : runWord op .ok f s u = s := by
  obtain ⟨-, -, -, rfl, rfl, decodes⟩ := ready
  simp [runWord, storeEcc, decodes, other]

end

/-! ### What decoding finds (R198) -/

theorem decodeCause_lt {svc : Bool} {s : State} {a c : Nat} (found : decodeCause svc s a = some c) : c < 16 := by
  simp only [decodeCause] at found
  repeat' split at found
  all_goals cases found
  all_goals decide

/-- An error that the store's check cannot correct poisons the word. -/
theorem storeEcc_uncorrectable (a found : Nat) (s : State) : (storeEcc .uncorrectable a found s).sq =
    { s.sq with poison := if s.sq.poison.contains a then s.sq.poison else a :: s.sq.poison } := by
  unfold storeEcc
  dsimp only
  split
  · rfl
  · exact (issue_frame _ _ _).2.2.2.2.2.2.1

theorem storeEcc_poisons (a found : Nat) (s : State) : a ∈ (storeEcc .uncorrectable a found s).sq.poison := by
  rw [storeEcc_uncorrectable]
  dsimp only
  split
  · rename_i poisoned
    exact List.contains_iff_mem.mp poisoned
  · exact List.mem_cons_self

/-- A poisoned word that was not decoded before, and no copy covers, faults with cause 0x7. -/
theorem decodeCause_poisoned {s : State} {a : Nat} (poisoned : a ∈ s.sq.poison) (uncovered : underLoad s a = false)
    (fresh : ∀ x ∈ s.sq.early, x.1 ≠ a) : decodeCause false s a = some 0x7 := by
  have unseen : s.sq.early.find? (fun x => x.1 == a) = none := List.find?_eq_none.mpr fun x hx => by simpa using fresh x hx
  simp [decodeCause, unseen, uncovered, poisoned]

/-- A word that its decode ahead found clean is judged without what has poisoned or covered it since. -/
theorem decodeCause_clean {s : State} {a : Nat} (clean : s.sq.early.find? (fun x => x.1 == a) = some (a, 0)) :
    decodeCause false s a = decodeCause false { s with sq := { s.sq with poison := [], underLoad := none, early := [] } } a := by
  simp only [decodeCause, clean]
  rfl

end Sys2Proof.Machine

open Sys2Proof Sys2Proof.Machine

/-- Settles O14: the three words past their slot, the account of the slots, and for every command of the vector context the branch that its
word takes. -/
theorem postHaltAndFaults : Obligations.postHaltAndFaults := by
  unfold Obligations.postHaltAndFaults
  refine ⟨fun s u w => ⟨fun ready none_ => ⟨fun room => ?queues, fun packed asked => ?full, fun packed unasked => ?lost⟩, exec_svc_holds,
      fun ready free => ⟨fun none_ => ?stops, fun some_ => ?waits⟩, fun ready pending => ?pending⟩,
    fun s decoding ahead past => ?account, fun s u slot => ?slot, fun s u c i mem stands free slot inside fault => ?faults,
    fun s u i mem stands free slot uncovered fresh => ?poisoned, fun s ecc i mem stands due => ?due, fun s ecc i mem away => ?away,
    fun s u op w n i ready row other => ?other, fun s u slot clean decodes stands free opcode => ?clean⟩
  case queues => exact (exec_svc_posts ready none_).trans (congrArg _ (postNow_queues room))
  case full => exact (exec_svc_posts ready none_).trans (congrArg _ (postNow_faults packed asked))
  case lost =>
    have sq := (issue_frame 0x0706 [i8 u.sq.pc, i8 (fld w 17 0)] (postNoted (pastWord u))).2.2.2.2.2.2.1
    refine ⟨_, (exec_svc_posts ready none_).trans (congrArg _ (postNow_loses packed unasked)), (congrArg SQ.svcLost sq :),
      (congrArg SQ.svcQueue sq :), (congrArg SQ.pc sq :), ?_⟩
    exact ((setSq_keeps (postNoted (pastWord u)).sq u).mono (by simp)).trans ((issue_keeps _ _ _).mono (by simp))
  case stops =>
    have kept : lasting (stopVector 1 (fld w 15 0) (pastWord u)).sq = lasting (pastWord u).sq := stopVector_lasting ..
    refine ⟨_, (exec_haltWord ready).trans (congrArg _ (haltWord_stops free none_)), rfl, rfl, rfl, rfl,
      (eq_of_lasting (f := SQ.vindex) (fun _ => rfl) kept :), (eq_of_lasting (f := SQ.store) (fun _ => rfl) kept :)⟩
  case waits => exact (exec_haltWord ready).trans (congrArg _ (haltWord_waits free some_))
  case pending => exact (exec_haltWord ready).trans (congrArg _ (if_pos pending))
  case account =>
    obtain ⟨decoded, decAt⟩ := decodeAccount_counts decoding ahead past
    exact ⟨decoded, decAt, decodeAccount_keeps s⟩
  case slot => exact ⟨takeSlot_keeps slot, sq_of_slotless (takeSlot_slotless slot)⟩
  case faults =>
    obtain ⟨op, f, row⟩ := vecCommands_mem mem
    refine ⟨_, (row s).trans (congrArg _ ((vecWord_runs stands free slot).trans (runWord_faults fault))), vecFault_contained _ _ _, ?_, ?_,
      vecFault_dram _ _ _⟩
    · have pc := takeSlot_pc slot
      rw [vecFault_fault _ _ (decodeCause_lt fault), pc, Nat.mod_eq_of_lt inside]
    · rw [vecFault_rest (f := SQ.pc) fun _ _ => rfl]
      exact takeSlot_pc slot
  case poisoned =>
    obtain ⟨op, f, row⟩ := vecCommands_mem mem
    have pc := takeSlot_pc slot
    have same := takeSlot_slotless slot
    have fault : decodeCause false (storeEcc .uncorrectable u.sq.pc 0 u) u.sq.pc = some 0x7 := by
      refine decodeCause_poisoned (storeEcc_poisons _ _ _) ?_ ?_
      · rw [underLoad, storeEcc_uncorrectable, eq_of_slotless (f := SQ.underLoad) (fun _ => rfl) same, pc]
        exact uncovered
      · rw [storeEcc_uncorrectable, pc]
        exact eq_of_slotless (f := SQ.early) (fun _ => rfl) same ▸ fresh
    refine ⟨_, (row s).trans (congrArg _ ((vecWord_runs stands free slot).trans (runWord_faults fault))), vecFault_contained _ _ _, ?_, ?_⟩
    · rw [vecFault_rest (f := SQ.poison) fun _ _ => rfl, ← pc]
      exact storeEcc_poisons _ _ _
    · rw [vecFault_fault _ _ (by decide)]
      omega
  case due =>
    obtain ⟨op, f, row⟩ := vecCommands_mem mem
    exact (row s).trans (congrArg _ (vecWord_stop stands due))
  case away =>
    obtain ⟨op, f, row⟩ := vecCommands_mem mem
    exact (row s).trans (congrArg _ (vecWord_waits away))
  case other =>
    obtain ⟨f, row⟩ := vecCommands_get row
    obtain ⟨stands, free, slot, -⟩ := id ready
    exact (row s).trans (congrArg _ ((vecWord_runs stands free slot).trans (runWord_other ready other)))
  case clean => exact exec_ltk ⟨stands, free, slot, rfl, opcode, (decodeCause_clean clean).trans decodes⟩
end

section
/-! SUPPORT. The refusal of a run-control write (R381), and what `GO`, `HALT` and `ABORT` do by the run state (R200, R214, R355,
R379, R380, Table 8.3);
the statement on them. -/

namespace Sys2Proof.Machine

open Sys2Proof

/-! ### A refusal (R381) -/

/-- `HI_REFUSE` of a command and a cause, without an event of a check (Table 15.4b). -/
def refusal (cmd cause : Nat) : W64 := BitVec.ofNat 64 (2 ^ 63 + cause * 2 ^ 56 + cmd * 2 ^ 48 + 0 * 2 ^ 32)

theorem refusal_toNat {cmd cause : Nat} (command : cmd < 16) (small : cause < 128) :
    (refusal cmd cause).toNat = 2 ^ 63 + cause * 2 ^ 56 + cmd * 2 ^ 48 := by
  rw [refusal, BitVec.toNat_ofNat, Nat.zero_mul, Nat.add_zero]
  exact Nat.mod_eq_of_lt (by omega)

/-- The host interface with a refusal noted. -/
def refusedHi (cmd cause : Nat) (h : HI) : HI :=
  { h with runRef := true, armRef := h.armRef || decide (cmd = 1), refuse := refusal cmd cause }

theorem refuseRunCtl_hi (cmd cause : Nat) (s : State) :
    withTrace (refusedHi cmd cause s.hi) (refuseRunCtl cmd cause 0 s).hi = refusedHi cmd cause s.hi :=
  issue_hi _ _ _ _ (errIrq_hi _ _ _ rfl)

/-- What the statement says of a refused write: the error summary and `HI_REFUSE` record it, and nothing else changes. -/
structure Refused (cmd cause : Nat) (s t : State) : Prop where
  runRef : t.hi.runRef = true
  refuse : t.hi.refuse.toNat = 2 ^ 63 + cause * 2 ^ 56 + cmd * 2 ^ 48
  armRef : cmd = 1 → t.hi.armRef = true
  keeps : Keeps [.hi, .mg] s t
  mg : SameMg s t

theorem refuseRunCtl_refused {cmd cause : Nat} (s : State) (command : cmd < 16) (small : cause < 128) :
    Refused cmd cause s (refuseRunCtl cmd cause 0 s) := by
  have hi := refuseRunCtl_hi cmd cause s
  have mg := issue_sameMg 0x0E03 [i1 cmd, i1 cause, i2 0] (errIrq (errsum s) { s with hi := { refusedHi cmd cause s.hi with
    fresh := freshen s (if cmd = 1 then 6 else 4) s.hi.fresh } })
  rw [SameMg, errIrq_mg] at mg
  exact {
    runRef := (congrArg HI.runRef hi :)
    refuse := (congrArg (fun h => h.refuse.toNat) hi :).trans (refusal_toNat command small)
    armRef := fun arm => (congrArg HI.armRef hi :).trans (by simp [refusedHi, arm])
    keeps := ((setHi_errIrq_keeps _ _ s).mono (by simp)).trans (issue_keeps _ _ _)
    mg := mg }

/-! ### The four commands (Table 8.3) -/

section
variable {s : State}

theorem armWrite_blocked {c : Nat} (blocked : armBlocked s = some c) : armWrite s = refuseRunCtl 1 c 0 s := by simp only [armWrite, blocked]

theorem exec_go (written : cmdWritten 2 s = true) : exec .go s = .next (goWrite (runCtlWrite s)) :=
  congrArg Host.Outcome.next (if_pos written)

theorem exec_halt (written : cmdWritten 3 s = true) : exec .halt s = .next (haltWrite (runCtlWrite s)) :=
  congrArg Host.Outcome.next (if_pos written)

theorem exec_abort (written : cmdWritten 4 s = true) : exec .abort s = .next (abortWrite (runCtlWrite s)) :=
  congrArg Host.Outcome.next (if_pos written)

theorem exec_runCtlInvalidCmd {cmd : BitVec 4} (invalid : cmd.toNat = 0 ∨ 5 ≤ cmd.toNat) (written : cmdWritten cmd.toNat s = true) :
    exec (.runCtlInvalidCmd cmd) s = .next (refuseRunCtl cmd.toNat 1 0 (runCtlWrite s)) := by
  show Host.Outcome.next (if 1 ≤ cmd.toNat ∧ cmd.toNat ≤ 4 then s else applyRunCtl _ _ s) = _
  rw [if_neg (by omega), applyRunCtl, if_pos written]

/-! ### On a device that is no formed member -/

theorem armBlocked_follower (member : formed s = true) (follows : s.en.leader = false) : armBlocked s = some 3 := by
  rw [formed, beq_iff_eq] at member
  simp [armBlocked, member, follows]

theorem armBlocked_running (alone : formed s = false) (run : running s = true) : armBlocked s = some 1 := by
  rw [formed, beq_eq_false_iff_ne] at alone
  simp [armBlocked, alone, run]

theorem armBlocked_contained (alone : formed s = false) (idle : running s = false) (free : s.en.armWait = false)
    (contained : s.mg.contained = true) : armBlocked s = some 5 := by
  rw [formed, beq_eq_false_iff_ne] at alone
  simp [armBlocked, alone, idle, free, contained]

theorem goWrite_follower (member : formed s = true) (follows : s.en.leader = false) : goWrite s = refuseRunCtl 2 3 0 s :=
  if_pos ⟨member, by simp [follows]⟩

section
variable (alone : formed s = false)
include alone

theorem goWrite_refuses (notArming : s.sq.state ≠ .arming) (notArmed : s.sq.state ≠ .armed) : goWrite s = refuseRunCtl 2 1 0 s := by
  rw [goWrite, if_neg (by simp [alone])]
  cases state : s.sq.state
  case arming => exact absurd state notArming
  case armed => exact absurd state notArmed
  all_goals rfl

theorem goWrite_starts (armed : s.sq.state = .armed) (unasked : s.en.goAt = none) : goWrite s = goAt (ext s + 65536) s := by
  simp [goWrite, goNow, alone, armed, unasked]

/-- The state in which `GO` is held. -/
def goHeld (s : State) : State := { s with sq := { s.sq with goHeld := true } }

theorem goWrite_holds (arming : s.sq.state = .arming) : goWrite s = issue 0x0707 [i8 s.tb.epoch.toNat] (goHeld s) := by
  simp [goWrite, goHeld, alone, arming]

theorem haltWrite_alone : haltWrite s = haltNow 0 s := if_neg (by simp [alone])

theorem abortWrite_alone : abortWrite s = abortNow 0 s := if_neg (by simp [alone])

end

/-! ### Stops by the run state (R214, R380) -/

/-- A halt asked for at once is pending. -/
def haltAsked (s : State) : State := { s with sq := { s.sq with pendHalt := true, pendAt := 0 } }

/-- An abort asked for at once is pending, and no halt beside it. -/
def abortAsked (s : State) : State :=
  { s with sq := { s.sq with pendAbort := true, pendHalt := false, pendSof := false, pendAt := 0 } }

theorem haltNow_outside (outside : s.sq.state = .idle ∨ s.sq.state = .draining) : haltNow 0 s = s := by
  obtain idle | draining := outside
  · simp only [haltNow, idle]
  · simp only [haltNow, draining]

theorem haltNow_asks (halt : s.sq.pendHalt = false) (abort : s.sq.pendAbort = false)
    (inside : s.sq.state = .arming ∨ s.sq.state = .armed ∨ s.sq.state = .running) : haltNow 0 s = stopNow (haltAsked s) := by
  obtain state | state | state := inside <;> simp [haltNow, haltAsked, state, halt, abort]

theorem haltNow_again (run : s.sq.state = .running) (asked : (s.sq.pendAbort || s.sq.pendHalt) = true) : haltNow 0 s = s := by
  have asked : s.sq.pendAbort = true ∨ s.sq.pendHalt = true := by simpa using asked
  simp [haltNow, run, asked]

theorem abortNow_ignores (ignored : s.sq.state = .idle ∨ s.sq.pendAbort = true) : abortNow 0 s = s := if_pos ignored

theorem abortNow_asks (inside : s.sq.state ≠ .idle) (abort : s.sq.pendAbort = false) : abortNow 0 s = stopNow (abortAsked s) :=
  if_neg (by simp [inside, abort])

theorem stopNow_running (run : s.sq.state = .running) : stopNow s = s := if_neg (by simp [run])

theorem stopNow_due (outside : s.sq.state ≠ .running) (due : stopDue s = true) : stopNow s = stopHere s := if_pos ⟨outside, due⟩

theorem stopHere_unstarted_halt (early : s.sq.state = .arming ∨ s.sq.state = .armed) (abort : s.sq.pendAbort = false) :
    stopHere s = finishRun 2 0 s := by
  obtain state | state := early <;> simp [stopHere, state, abort]

theorem stopHere_unstarted_abort (early : s.sq.state = .arming ∨ s.sq.state = .armed) (abort : s.sq.pendAbort = true) :
    stopHere s = finishRun 3 0 (tiuCloseAll s) := by
  obtain state | state := early <;> simp [stopHere, state, abort]

theorem stopHere_draining_abort (draining : s.sq.state = .draining) (abort : s.sq.pendAbort = true) :
    stopHere s = finishRun (if s.sq.stopCause = 5 then 5 else 3) 0 (abortRun s) := by
  simp [stopHere, draining, abort]

theorem haltAsked_due (s : State) : stopDue (haltAsked s) = true := by simp [stopDue, haltAsked]

theorem abortAsked_due (s : State) : stopDue (abortAsked s) = true := by simp [stopDue, abortAsked]

/-- A halt ends a run that has not started. -/
theorem haltNow_unstarted (early : s.sq.state = .arming ∨ s.sq.state = .armed) (halt : s.sq.pendHalt = false) (abort : s.sq.pendAbort = false) :
    haltNow 0 s = finishRun 2 0 (haltAsked s) := by
  have outside : s.sq.state ≠ .running := by obtain state | state := early <;> simp [state]
  rw [haltNow_asks halt abort (early.imp_right .inl), stopNow_due (s := haltAsked s) outside (haltAsked_due s)]
  exact stopHere_unstarted_halt (s := haltAsked s) early abort

/-- An abort ends a run that has not started. -/
theorem abortNow_unstarted (early : s.sq.state = .arming ∨ s.sq.state = .armed) (abort : s.sq.pendAbort = false) :
    abortNow 0 s = finishRun 3 0 (tiuCloseAll (abortAsked s)) := by
  have inside : s.sq.state ≠ .idle := by obtain state | state := early <;> simp [state]
  have outside : s.sq.state ≠ .running := by obtain state | state := early <;> simp [state]
  rw [abortNow_asks inside abort, stopNow_due (s := abortAsked s) outside (abortAsked_due s)]
  exact stopHere_unstarted_abort (s := abortAsked s) early rfl

/-- An abort ends a run that drains; a contained run keeps its cause (R412). -/
theorem abortNow_draining (draining : s.sq.state = .draining) (abort : s.sq.pendAbort = false) :
    abortNow 0 s = finishRun (if s.sq.stopCause = 5 then 5 else 3) 0 (abortRun (abortAsked s)) := by
  have inside : s.sq.state ≠ .idle := by simp [draining]
  have outside : s.sq.state ≠ .running := by simp [draining]
  rw [abortNow_asks inside abort, stopNow_due (s := abortAsked s) outside (abortAsked_due s)]
  exact stopHere_draining_abort (s := abortAsked s) draining rfl

/-- The end of a run leaves no open condition. -/
theorem finishRun_open (cause code : Nat) (s : State) : (finishRun cause code s).sp.open_ = [] := by
  rw [finishRun, (reportIdle_frame _).2.2.2.2.2.2.2.1]

end

end Sys2Proof.Machine

open Sys2Proof Sys2Proof.Machine

/-- Settles O8: each write by the branch of Table 8.3 that the run state takes; the refusals are all `refuseRunCtl_refused`. -/
theorem runControlByState : Obligations.runControlByState := by
  unfold Obligations.runControlByState
  refine ⟨fun s => ?refusals, fun s => ?acts⟩
  case refusals =>
    intro u refusedBy
    have refused : ∀ {cmd cause : Nat}, cmd < 16 → cause < 128 → refusedBy (refuseRunCtl cmd cause 0 u) cmd cause := fun command small => by
      obtain ⟨runRef, refuse, armRef, keeps, mg⟩ := refuseRunCtl_refused u command small
      exact ⟨runRef, refuse, armRef, keeps, mg⟩
    have arm : ∀ {c : Nat}, armBlocked u = some c → cmdWritten 1 s = true → exec .arm s = .next (refuseRunCtl 1 c 0 u) :=
      fun blocked written => (exec_arm written).trans (congrArg _ (armWrite_blocked blocked))
    refine ⟨fun member follows => ⟨fun written => ?_, fun written => ?_⟩, fun written alone run => ?_,
    fun written alone idle free contained => ?_,
      fun written alone notArming notArmed => ?_, fun cmd invalid written => ?_⟩
    · exact ⟨_, arm (armBlocked_follower member follows) written, refused (by decide) (by decide)⟩
    · exact ⟨_, (exec_go written).trans (congrArg _ (goWrite_follower member follows)), refused (by decide) (by decide)⟩
    · exact ⟨_, arm (armBlocked_running alone run) written, refused (by decide) (by decide)⟩
    · exact ⟨_, arm (armBlocked_contained alone idle free contained) written, refused (by decide) (by decide)⟩
    · exact ⟨_, (exec_go written).trans (congrArg _ (goWrite_refuses alone notArming notArmed)), refused (by decide) (by decide)⟩
    · exact ⟨_, exec_runCtlInvalidCmd invalid written, refused cmd.isLt (by decide)⟩
  case acts =>
    intro u alone
    have halt : ∀ {t : State}, haltNow 0 u = t → cmdWritten 3 s = true → exec .halt s = .next t :=
      fun now written => (exec_halt written).trans (congrArg _ ((haltWrite_alone alone).trans now))
    have abort : ∀ {t : State}, abortNow 0 u = t → cmdWritten 4 s = true → exec .abort s = .next t :=
      fun now written => (exec_abort written).trans (congrArg _ ((abortWrite_alone alone).trans now))
    refine ⟨fun armed unasked written => ?start, fun arming written => ?held, fun draining => halt (haltNow_outside (.inr draining)),
      fun idle => ⟨halt (haltNow_outside (.inl idle)), abort (abortNow_ignores (.inl idle))⟩,
      fun early free unaborted => ⟨fun written => ?haltEnds, fun written => ?abortEnds⟩,
      fun run written => ⟨fun unaborted free => ?halts, fun asked => halt (haltNow_again run asked) written⟩,
      fun run written => ⟨fun unaborted => ?aborts, fun asked => abort (abortNow_ignores (.inr asked)) written⟩,
      fun draining unaborted written => ?drains⟩
    case start => exact (exec_go written).trans (congrArg _ (goWrite_starts alone armed unasked))
    case held =>
      refine ⟨_, (exec_go written).trans (congrArg _ (goWrite_holds alone arming)), (issue_frame _ _ _).2.2.2.2.2.2.1, ?_⟩
      exact ((setSq_keeps (goHeld u).sq u).mono (by simp)).trans ((issue_keeps _ _ _).mono (by simp))
    case haltEnds =>
      obtain ⟨idle, endCause, -⟩ := finishRun_records 2 0 (haltAsked u)
      exact ⟨_, halt (haltNow_unstarted early free unaborted) written, idle, endCause⟩
    case abortEnds =>
      obtain ⟨idle, endCause, -⟩ := finishRun_records 3 0 (tiuCloseAll (abortAsked u))
      exact ⟨_, abort (abortNow_unstarted early unaborted) written, idle, endCause⟩
    case halts => exact halt ((haltNow_asks free unaborted (.inr (.inr run))).trans (stopNow_running (s := haltAsked u) run)) written
    case aborts =>
      have inside : u.sq.state ≠ .idle := by simp [run]
      exact abort ((abortNow_asks inside unaborted).trans (stopNow_running (s := abortAsked u) run)) written
    case drains =>
      obtain ⟨idle, endCause, -⟩ := finishRun_records (if u.sq.stopCause = 5 then 5 else 3) 0 (abortRun (abortAsked u))
      exact ⟨_, abort (abortNow_draining draining unaborted) written, idle, finishRun_open _ _ _, endCause⟩
end

section
/-! SUPPORT. The resolution of conditions (R209, R210, R212, R213, R239 to R242, R250): which condition resolves next, and
what a confirmation changes. -/

namespace Sys2Proof.Machine

open Sys2Proof

/-! ### The next resolution (R239, R250) -/

section
variable {s : State} {c : Cond} {rest : List Cond} {due : Nat}

/-- No vector is left to issue before a cycle. -/
def Issued (r : Nat) (s : State) : Prop := vecRuns s = true → r < peekStart s - peekStart s % 8192

theorem exec_conditionResolve {r : Nat} (next : nextResolve s = some r) (issued : Issued r s) :
    exec .conditionResolve s = .next (resolveAt r s) := by
  show Host.Outcome.next (match nextResolve s with | some r => _ | none => s) = _
  rw [next]
  refine congrArg _ (if_neg fun waits => ?_)
  obtain ⟨runs, starts⟩ := waits
  exact absurd (issued runs) (Nat.not_lt.mpr starts)

/-- The oldest condition resolves next where no younger global one is late before it. -/
theorem exec_resolves (first : s.sp.open_ = c :: rest) (oldest : oldestDue s = some due) (issued : Issued due s)
    (inTime : ((lateGlobal s).all fun x => decide (due ≤ max x.1 (ext s))) = true) :
    exec .conditionResolve s = .next (resolveNow c (toEpoch due s)) := by
  cases late : lateGlobal s with
  | none =>
    have next : nextResolve s = some due := by simp [nextResolve, oldest, late]
    rw [exec_conditionResolve next issued]
    simp [resolveAt, late, resolveOldest, first]
  | some x =>
    have before : due ≤ max x.1 (ext s) := by simpa [late] using inTime
    have next : nextResolve s = some due := by simp [nextResolve, oldest, late, before]
    rw [exec_conditionResolve next issued]
    simp [resolveAt, late, oldest, Nat.not_lt.mpr before, resolveOldest, first]

/-- A younger global condition without its result contains the device in its own cycle. -/
theorem exec_resolves_late {at_ : Nat} {g : Cond} (oldest : oldestDue s = some due) (issued : Issued due s)
    (late : lateGlobal s = some (at_, g)) (before : max at_ (ext s) < due) :
    exec .conditionResolve s = .next (noResult g (toEpoch (max at_ (ext s)) s)) := by
  have next : nextResolve s = some (max at_ (ext s)) := by
    simp only [nextResolve, oldest, late, Option.map_some, Nat.min_eq_right before.le]
  rw [exec_conditionResolve next fun runs => before.trans (issued runs)]
  simp only [resolveAt, late, oldest, if_pos before]

theorem noResult_contained (g : Cond) (s : State) : (noResult g s).mg.contained = true := contain_contained ..

end

/-! ### How the oldest condition resolves -/

section
variable {u : State} {c : Cond} {r : Subj} {more : List Subj}

/-- A value drawn from an undefined result is seen in the model's own counter only (R469, log 3). -/
theorem drawFree_keeps (s : State) (c : Cond) (sub : Subj) : Keeps [.freeCtr] s (drawFree s c sub) := by
  unfold drawFree
  dsimp only
  split
  · intro p hp
    cases p <;> first | exact absurd (by decide) hp | rfl
  · exact Keeps.refl _ s

theorem resolveNow_branch (branch : c.stay = false) (local_ : cSrc (condEnt u c.entry) ≠ 6) :
    resolveNow c u = resolveBranch c (localValue u (condEnt u c.entry) c.subj) (drawFree u c c.subj) := by
  simp [resolveNow, condValue, subjOf, branch, local_]

theorem resolveNow_noResult (branch : c.stay = false) (global : cSrc (condEnt u c.entry) = 6) (missing : globalResult u c c.subj = none) :
    resolveNow c u = noResult c (drawFree u c c.subj) := by
  simp [resolveNow, condValue, subjOf, branch, global, missing]

theorem resolveNow_repetition (stay : c.stay = true) (reps : c.reps = r :: more) (early : r.start < c.deadline)
    (local_ : cSrc (condEnt u c.entry) ≠ 6) :
    resolveNow c u = resolveStay c (localValue u (condEnt u c.entry) r) (drawFree u c r) := by
  simp [resolveNow, stayOver, condValue, subjOf, stay, reps, early, local_]

theorem resolveNow_over (stay : c.stay = true) (reps : c.reps = r :: more) (past : c.deadline ≤ r.start) :
    resolveNow c u = endStay c u := by
  simp [resolveNow, stayOver, stay, reps, past]

end

/-! ### What stays of the conditions and vectors (R242) -/

/-- Conditions and vectors may go, and vectors may die; no new ones come, and nothing is counted. -/
structure SpShrinks (a b : SP) : Prop where
  resolved : b.resolved = a.resolved
  mispred : b.mispred = a.mispred
  open_ : ∀ x ∈ b.open_, x ∈ a.open_
  inflight : ∀ v ∈ b.inflight, ∃ w ∈ a.inflight, v.conds = w.conds

theorem SpShrinks.refl (a : SP) : SpShrinks a a := ⟨rfl, rfl, fun _ h => h, fun v h => ⟨v, h, rfl⟩⟩

theorem SpShrinks.trans {a b c : SP} (h : SpShrinks a b) (k : SpShrinks b c) : SpShrinks a c where
  resolved := k.resolved.trans h.resolved
  mispred := k.mispred.trans h.mispred
  open_ := fun x hx => h.open_ x (k.open_ x hx)
  inflight := fun v hv => by
    obtain ⟨w, hw, same⟩ := k.inflight v hv
    obtain ⟨x, hx, same'⟩ := h.inflight w hw
    exact ⟨x, hx, same.trans same'⟩

/-- Nothing that matters here changes. -/
theorem SpShrinks.of_same {a b : SP} (resolved : b.resolved = a.resolved) (mispred : b.mispred = a.mispred) (open_ : b.open_ = a.open_)
    (inflight : b.inflight = a.inflight) : SpShrinks a b :=
  ⟨resolved, mispred, fun _ h => open_ ▸ h, fun v h => ⟨v, inflight ▸ h, rfl⟩⟩

theorem SpShrinks.of_eq {a b : SP} (h : b = a) : SpShrinks a b := h ▸ SpShrinks.refl a

theorem issueUpTo_sp (n code : Nat) (items : List Item) (s : State) : (issueUpTo n code items s).sp = s.sp :=
  (issueUpTo_frame n code items s).2.2.2.2.2.2.1

theorem endBubble_shrinks (s : State) : SpShrinks s.sp (endBubble s).sp := by
  simp only [endBubble]
  split
  · exact .of_same rfl rfl rfl rfl
  · rw [issueUpTo_sp]
    exact .of_same rfl rfl rfl rfl

theorem endLimit_shrinks (s : State) : SpShrinks s.sp (endLimit s).sp := by
  simp only [endLimit]
  split
  · exact .refl _
  · rw [issueUpTo_sp]
    exact .of_same rfl rfl rfl rfl

theorem endEpisodes_shrinks (s : State) : SpShrinks s.sp (endEpisodes s).sp := by
  have starve : (endStarve s).sp = s.sp := (endStarve_frame s).2.2.2.2.2.2.1
  have dstall : (endDstall (endStarve s)).sp = (endStarve s).sp := (endDstall_frame _).2.2.2.2.2.2.1
  exact (SpShrinks.of_eq (dstall.trans starve)).trans ((endBubble_shrinks _).trans (endLimit_shrinks _))

theorem stopVector_shrinks (cause code : Nat) (s : State) : SpShrinks s.sp (stopVector cause code s).sp := by
  rw [stopVector]
  exact (endEpisodes_shrinks s).trans (.of_same rfl rfl rfl rfl)

theorem dropResults_conds {l : List VRec} {v : VRec} (h : v ∈ dropResults l) : ∃ w ∈ l, v.conds = w.conds := by
  obtain ⟨w, kept, rfl⟩ := List.mem_map.mp h
  exact ⟨w, List.mem_of_mem_filter kept, rfl⟩

theorem dropProvisional_shrinks (s : State) : SpShrinks s.sp (dropProvisional s).sp := by
  have sp : (retracted s).sp = s.sp := retracted_keeps s .sp (by decide)
  rw [dropProvisional_eq, sp]
  exact ⟨rfl, rfl, fun x h => absurd h List.not_mem_nil, fun v h => dropResults_conds h⟩

theorem containRun_shrinks (s : State) : SpShrinks s.sp (containRun s).sp := by
  cases run : running s
  · rw [containRun_idle run]
    exact .refl _
  · rw [containRun_running run]
    exact (stopVector_shrinks _ _ s).trans (dropProvisional_shrinks _)

theorem contain_shrinks (cause : Nat) (s : State) : SpShrinks s.sp (contain cause s).sp := by
  cases before : s.mg.contained
  · rw [contain_keeps cause before .sp (by decide), (madeSafe_frame s).2.1]
    exact containRun_shrinks s
  · rw [contain, if_pos before]
    exact .of_eq (by simp [containAgain])

theorem vecFault_shrinks (cause a : Nat) (s : State) : SpShrinks s.sp (vecFault cause a s).sp := by
  have recorded : (recordFault 0 cause a s).sp = s.sp := by rw [recordFault]
  rw [vecFault]
  exact (SpShrinks.of_eq ((issue_frame _ _ _).2.2.2.2.2.2.2.1.trans recorded)).trans (contain_shrinks _ _)

/-! ### Posts and the waiting halt (R216, R219) -/

theorem postNow_shrinks (h : Held) (s : State) : SpShrinks s.sp (postNow h s).sp := by
  unfold postNow
  split
  · exact .refl _
  · split
    · exact vecFault_shrinks _ _ s
    · exact .of_eq (issue_frame _ _ _).2.2.2.2.2.2.2.1

theorem postAll_shrinks (l : List Held) (s : State) : SpShrinks s.sp (l.foldl (fun t h => postNow h t) s).sp := by
  induction l generalizing s with
  | nil => exact .refl _
  | cons h l ih => exact (postNow_shrinks h s).trans (ih _)

theorem releasePosts_shrinks (s : State) : SpShrinks s.sp (releasePosts s).sp :=
  postAll_shrinks (s.sq.held.filter fun h => h.conds.isEmpty) { s with sq := { s.sq with held := s.sq.held.filter fun h => !h.conds.isEmpty } }

theorem haltReady_shrinks (s : State) : SpShrinks s.sp (haltReady s).sp := by
  unfold haltReady
  split
  · split
    · exact stopVector_shrinks _ _ s
    · exact .refl _
  · exact .refl _

theorem tiuMergeAll_sp (s : State) : (tiuMergeAll s).sp = s.sp := by
  refine foldl_sp _ (fun t g => ?_) _ s
  unfold tiuMerge
  split
  · split <;> simp
  · rfl

/-! ### A confirmation (R240, R242) -/

/-- A condition is gone: counted, and it stands over no vector any more. -/
structure CondGone (c : Cond) (a b : SP) : Prop where
  counted : b.resolved = satSucc 0xFFFFFFFF a.resolved
  open_ : ∀ x ∈ b.open_, x.cid ≠ c.cid
  inflight : ∀ v ∈ b.inflight, c.cid ∉ v.conds

theorem CondGone.shrinks {c : Cond} {a b d : SP} (h : CondGone c a b) (k : SpShrinks b d) : CondGone c a d where
  counted := k.resolved.trans h.counted
  open_ := fun x hx => h.open_ x (k.open_ x hx)
  inflight := fun v hv => by
    obtain ⟨w, hw, same⟩ := k.inflight v hv
    exact same ▸ h.inflight w hw

/-- The condition counted and forgotten. -/
def resolvedOut (c : Cond) (s : State) : State := forget c.cid (countResolved s)

theorem resolvedOut_gone (c : Cond) (s : State) : CondGone c s.sp (resolvedOut c s).sp where
  counted := rfl
  open_ := fun x hx => by
    have kept : (x.cid != c.cid) = true := (List.mem_filter.mp hx).2
    simpa using kept
  inflight := fun v hv => by
    obtain ⟨w, -, rfl⟩ := List.mem_map.mp hv
    simp

/-- After its condition is forgotten a confirmation only commits: sets merge, posts go, a halt that waited acts. -/
theorem confirm_shrinks (c : Cond) (s : State) : SpShrinks (resolvedOut c s).sp (confirm c s).sp := by
  have merged : (tiuMergeAll (dropSpare (resolvedOut c s))).sp = (resolvedOut c s).sp :=
    (tiuMergeAll_sp _).trans (dropSpare_frame _).2.2.2.2.2.2.1
  exact (SpShrinks.of_eq merged).trans ((releasePosts_shrinks _).trans (haltReady_shrinks _))

theorem confirm_gone (c : Cond) (s : State) : CondGone c s.sp (confirm c s).sp := (resolvedOut_gone c s).shrinks (confirm_shrinks c s)

theorem confirm_mispred (c : Cond) (s : State) : (confirm c s).sp.mispred = s.sp.mispred := (confirm_shrinks c s).mispred

end Sys2Proof.Machine
end

section
/-! SUPPORT. Mispredicts (R209, R240 to R242): the checkpoint that stands again, and what is gone behind it. -/

namespace Sys2Proof.Machine

open Sys2Proof

/-! ### A mispredict (R209, R240) -/

/-- A brim that is served moves the start of the next vector, and nothing else of the sequencer (R240). -/
theorem serveBrim_sq (s : State) : ∃ v, (serveBrim s).sq = { s.sq with lastV := v } := by
  simp only [serveBrim]
  split
  · unfold noteBrim
    split <;> exact ⟨_, rfl⟩
  · exact ⟨s.sq.lastV, rfl⟩

theorem noteBrim_shrinks (n lo hi : Nat) (s : State) : SpShrinks s.sp (noteBrim n lo hi s).sp := by
  unfold noteBrim
  split
  · refine ⟨rfl, rfl, fun x hx => hx, fun v hv => ?_⟩
    obtain ⟨w, hw, rfl⟩ := List.mem_map.mp hv
    refine ⟨w, hw, ?_⟩
    split <;> rfl
  · exact .refl _

theorem serveBrim_shrinks (s : State) : SpShrinks s.sp (serveBrim s).sp := by
  simp only [serveBrim]
  split
  · exact noteBrim_shrinks ..
  · exact .refl _

theorem serveBrim_pm (s : State) : (serveBrim s).pm = s.pm := by
  simp only [serveBrim]
  split
  · unfold noteBrim
    split <;> rfl
  · rfl

theorem swapShelf_pm (s : State) : ∃ l, (swapShelf s).pm = { s.pm with shelf := l } := by
  refine ⟨(s.pm.shelf.filter fun x => x.spare).map fun x => { x with spare := false }, ?_⟩
  refine foldl_pm _ (fun t x => ?_) _ _
  unfold reportShelf
  split
  · exact (issue_frame _ _ _).2.2.2.2.2.1
  · rfl

/-- The tail of a condition discarded and its checkpoint restored. -/
def rolledBack (c : Cond) (s : State) : State := restore c (discardTail c (countResolved (retract c (serveBrim s))))

/-- A mispredict counted (Table 9.8). -/
def countMispred (s : State) : State := { s with sp := { s.sp with mispred := satSucc 0xFFFFFFFF s.sp.mispred } }

theorem countMispred_parts (s : State) : (countMispred s).sq = s.sq ∧ (countMispred s).pm = s.pm
    ∧ (countMispred s).sp = { s.sp with mispred := satSucc 0xFFFFFFFF s.sp.mispred } := ⟨rfl, rfl, rfl⟩

/-- The redirect reported (R253). -/
def redirectSaid (c : Cond) (s : State) : State :=
  issueUpTo 64 0x0803 [i8 c.word, iv c.subj.idx, i2 (tailCount 65536 c s)] (countMispred (swapShelf (rolledBack c s)))

/-- The state after a mispredict, before a go `WAIT` returns to its word. -/
def redirectedTo (c : Cond) (s : State) : State := if 4096 ≤ c.tails then takeFree (redirectSaid c s) else redirectSaid c s

theorem mispredict_eq (c : Cond) (s : State) : mispredict c s = backToWait (redirectedTo c s) := by
  rw [mispredict, redirectedTo, redirectSaid, rolledBack, countMispred]

theorem redirectedTo_said (c : Cond) (s : State) : (redirectedTo c s).sp = (redirectSaid c s).sp
    ∧ (redirectedTo c s).sq = (redirectSaid c s).sq ∧ (redirectedTo c s).pm = (redirectSaid c s).pm := by
  have drawn := takeFree_frame (redirectSaid c s)
  unfold redirectedTo
  split
  · exact ⟨drawn.2.2.2.2.2.2.2.1, drawn.2.2.2.2.2.2.1, drawn.2.2.2.2.2.1⟩
  · exact ⟨rfl, rfl, rfl⟩

theorem redirectedTo_sp (c : Cond) (s : State) : (redirectedTo c s).sp = (countMispred (rolledBack c s)).sp := by
  have shelf : (swapShelf (rolledBack c s)).sp = (rolledBack c s).sp := (swapShelf_frame _).2.2.2.2.2.2.1
  rw [(redirectedTo_said c s).1, redirectSaid, issueUpTo_sp, (countMispred_parts _).2.2, shelf, (countMispred_parts _).2.2]

theorem redirectedTo_sq (c : Cond) (s : State) : ∃ once, (redirectedTo c s).sq = { (rolledBack c s).sq with once := once } := by
  have shelf : (countMispred (swapShelf (rolledBack c s))).sq = (rolledBack c s).sq :=
    (countMispred_parts _).1.trans (swapShelf_frame _).2.2.2.2.2.1
  obtain ⟨once, sq⟩ := issueUpTo_sq 64 0x0803 [i8 c.word, iv c.subj.idx, i2 (tailCount 65536 c s)] (countMispred (swapShelf (rolledBack c s)))
  exact ⟨once, by rw [(redirectedTo_said c s).2.1, redirectSaid, sq, shelf]⟩

theorem redirectedTo_pm (c : Cond) (s : State) : ∃ l, (redirectedTo c s).pm = { (rolledBack c s).pm with shelf := l } := by
  obtain ⟨l, shelf⟩ := swapShelf_pm (rolledBack c s)
  exact ⟨l, by rw [(redirectedTo_said c s).2.2, redirectSaid, (issueUpTo_frame _ _ _ _).2.2.2.2.2.1, (countMispred_parts _).2.1, shelf]⟩

/-- What the statement says of a mispredict: the checkpoint stands, every condition behind it is gone, and it is counted. -/
structure Redirected (c : Cond) (s t : State) : Prop where
  resolved : t.sp.resolved = satSucc 0xFFFFFFFF s.sp.resolved
  mispred : t.sp.mispred = satSucc 0xFFFFFFFF s.sp.mispred
  open_ : t.sp.open_ = []
  toOpen : t.sp.toOpen = []
  redirected : t.sp.redirected = true
  dead : ∀ v ∈ t.sp.inflight, c.cid ∈ v.conds → v.dead = true
  pc : t.sq.pc = c.check.pc
  cur : t.sq.cur = if s.sq.stopped then none else c.check.cur
  loops : t.sq.loops = c.check.loops
  reqs : t.sq.reqs = c.check.reqs
  vindex : t.sq.vindex = c.check.vindex
  timeouts : t.sq.timeouts = s.sq.timeouts
  cursors : t.pm.cursors = c.check.cursors
  dram : t.pm.dram = s.pm.dram

/-- Of the tail only vectors on their way to the formatters are left, and their results are discarded (R242). -/
theorem killTail_dead {cid : Nat} {l : List VRec} {v : VRec} (left : v ∈ killTail cid l) (tail : cid ∈ v.conds) : v.dead = true := by
  obtain ⟨w, -, kept⟩ := List.mem_filterMap.mp left
  split at kept
  · rename_i apart
    obtain rfl := Option.some.inj kept
    exact absurd (List.contains_iff_mem.mpr tail) apart
  · split at kept
    · exact absurd kept nofun
    · exact Option.some.inj kept ▸ rfl

theorem rolledBack_redirected (c : Cond) (s : State) : Redirected c s (countMispred (rolledBack c s)) := by
  obtain ⟨v, sq⟩ := serveBrim_sq s
  have counts := serveBrim_shrinks s
  have retractSq : (retract c (serveBrim s)).sq = { s.sq with lastV := v } := (retract_frame c _).2.2.2.2.2.2.1.trans sq
  have retractSp : (retract c (serveBrim s)).sp = (serveBrim s).sp := (retract_frame c _).2.2.2.2.2.2.2.1
  have retractPm : (retract c (serveBrim s)).pm = s.pm := (retract_frame c _).2.2.2.2.2.1.trans (serveBrim_pm s)
  rw [rolledBack]
  generalize retract c (serveBrim s) = r at *
  exact {
    resolved := by
      show satSucc _ r.sp.resolved = _
      rw [retractSp, counts.resolved]
    mispred := by
      show satSucc _ r.sp.mispred = _
      rw [retractSp, counts.mispred]
    open_ := rfl
    toOpen := rfl
    redirected := rfl
    dead := fun v => killTail_dead
    pc := rfl
    cur := by
      show (if r.sq.stopped then none else c.check.cur) = _
      rw [retractSq]
    loops := rfl
    reqs := rfl
    vindex := rfl
    timeouts := by
      show r.sq.timeouts = _
      rw [retractSq]
    cursors := rfl
    dram := by
      show r.pm.dram = _
      rw [retractPm] }

/-- A report and a swap of the repair table's shelf leave what was redirected. -/
theorem Redirected.of_same {c : Cond} {s t u : State} {once : List Nat} {l : List Shelf} (back : Redirected c s t) (sp : u.sp = t.sp)
    (sq : u.sq = { t.sq with once := once }) (pm : u.pm = { t.pm with shelf := l }) : Redirected c s u where
  resolved := by rw [sp, back.resolved]
  mispred := by rw [sp, back.mispred]
  open_ := by rw [sp, back.open_]
  toOpen := by rw [sp, back.toOpen]
  redirected := by rw [sp, back.redirected]
  dead := by rw [sp]; exact back.dead
  pc := by rw [sq, ← back.pc]
  cur := by rw [sq, ← back.cur]
  loops := by rw [sq, ← back.loops]
  reqs := by rw [sq, ← back.reqs]
  vindex := by rw [sq, ← back.vindex]
  timeouts := by rw [sq, ← back.timeouts]
  cursors := by rw [pm, ← back.cursors]
  dram := by rw [pm, ← back.dram]

theorem redirectedTo_redirected (c : Cond) (s : State) : Redirected c s (redirectedTo c s) := by
  obtain ⟨once, sq⟩ := redirectedTo_sq c s
  obtain ⟨l, pm⟩ := redirectedTo_pm c s
  obtain ⟨sqEq, pmEq, -⟩ := countMispred_parts (rolledBack c s)
  exact (rolledBack_redirected c s).of_same (redirectedTo_sp c s) (by rw [sq, sqEq]) (by rw [pm, pmEq])

end Sys2Proof.Machine
end

section
/-! SUPPORT. Stay and go `WAIT`s and their time-outs (R212, R213); the statement on the resolution of conditions. -/

namespace Sys2Proof.Machine

open Sys2Proof

/-! ### Time-outs (R213) -/

theorem countTimeout_sq (word idx0 : Nat) (s : State) :
    ∃ once, (countTimeout word idx0 s).sq = { s.sq with timeouts := satSucc 0xFFFFFFFF s.sq.timeouts, once := once } :=
  issueUpTo_sq _ _ _ _

theorem countTimeout_sp (word idx0 : Nat) (s : State) : (countTimeout word idx0 s).sp = s.sp := issueUpTo_sp _ _ _ _

theorem timeOut_sq (word target idx0 : Nat) (s : State) : ∃ once, (timeOut word target idx0 s).sq =
    { s.sq with cur := none, pc := target, timeouts := satSucc 0xFFFFFFFF s.sq.timeouts, once := once } :=
  countTimeout_sq _ _ _

theorem timeOut_sp (word target idx0 : Nat) (s : State) : (timeOut word target idx0 s).sp = s.sp := countTimeout_sp _ _ _

theorem nextStart_timeOut (word target idx0 : Nat) (s : State) : nextStart (timeOut word target idx0 s) = nextStart s := by
  obtain ⟨once, sq⟩ := timeOut_sq word target idx0 s
  rw [nextStart, nextStart, sq]

/-- A stop never undoes the count of time-outs. -/
theorem haltReady_timeouts (s : State) : (haltReady s).sq.timeouts = s.sq.timeouts := by
  have stops (cause code : Nat) : (stopVector cause code s).sq.timeouts = s.sq.timeouts :=
    eq_of_lasting (f := SQ.timeouts) (fun _ => rfl) (stopVector_lasting cause code s)
  unfold haltReady
  split
  · split
    · exact stops ..
    · rfl
  · rfl

section
variable {c : Cond} {s : State}

theorem endStay_timesOut {k : Cur} {tt : Nat} (supplies : waitOf c s = some (k, tt)) :
    endStay c s = timeOut c.word tt k.idx0 (swapShelf (resolvedOut c s)) := by
  rw [endStay, supplies, resolvedOut]

theorem endStay_stopped (stopped : waitOf c s = none) (begun : c.deadline ≠ 0) :
    endStay c s = haltReady (countTimeout c.word c.idx0 (resolvedOut c s)) := by
  rw [endStay, stopped, resolvedOut]
  exact congrArg haltReady (if_neg begun)

/-! ### Repetitions (R212) -/

theorem resolveStay_matches {v : Bool} (match_ : v = c.sense) : resolveStay c v s = satisfied c s := if_pos match_

/-- The state in which a repetition of a condition is used up. -/
def repetitionUsed (c : Cond) (s : State) : State :=
  { s with sp := { s.sp with open_ := s.sp.open_.map fun x => if x.cid = c.cid then { x with reps := x.reps.tail } else x } }

theorem resolveStay_differs {v : Bool} (differs : v ≠ c.sense) : resolveStay c v s = repetitionUsed c s := if_neg differs

theorem repetitionUsed_keeps (c : Cond) (s : State) : Keeps [.sp] s (repetitionUsed c s) := by
  intro p hp
  cases p <;> first | exact absurd (by decide) hp | rfl

theorem satisfied_sp (c : Cond) (s : State) : (satisfied c s).sp = (confirm c s).sp := by
  rw [satisfied]
  generalize confirm c s = t
  split <;> rfl

theorem satisfied_goesOn {k : Cur} {tt : Nat} (supplies : waitOf c s = some (k, tt)) :
    (satisfied c s).sq.cur = none ∧ (satisfied c s).sq.pc = c.word + 1 := by
  simp [satisfied, supplies]

theorem waitOf_sq {t : State} (sq : t.sq = s.sq) : waitOf c t = waitOf c s := by rw [waitOf, waitOf, sq]

/-- A stay `WAIT` that times out goes to its target, its condition gone (R213). -/
theorem endStay_goesToTarget {k : Cur} {tt : Nat} (supplies : waitOf c s = some (k, tt)) : CondGone c s.sp (endStay c s).sp
    ∧ (endStay c s).sq.cur = none ∧ (endStay c s).sq.pc = tt ∧ (endStay c s).sq.timeouts = satSucc 0xFFFFFFFF s.sq.timeouts := by
  have out := swapShelf_frame (resolvedOut c s)
  have sp : (swapShelf (resolvedOut c s)).sp = (resolvedOut c s).sp := out.2.2.2.2.2.2.1
  have timeouts : (swapShelf (resolvedOut c s)).sq.timeouts = s.sq.timeouts := (congrArg SQ.timeouts out.2.2.2.2.2.1 :)
  rw [endStay_timesOut supplies]
  obtain ⟨once, sq⟩ := timeOut_sq c.word tt k.idx0 (swapShelf (resolvedOut c s))
  rw [sq, timeOut_sp, sp, timeouts]
  exact ⟨resolvedOut_gone c s, rfl, rfl, rfl⟩

/-- A stay `WAIT` whose repetitions a stop has ended: its time-out is counted, its condition gone (R213, log 28). -/
theorem endStay_counts (stopped : waitOf c s = none) (begun : c.deadline ≠ 0) : CondGone c s.sp (endStay c s).sp
    ∧ (endStay c s).sq.timeouts = satSucc 0xFFFFFFFF s.sq.timeouts := by
  obtain ⟨once, sq⟩ := countTimeout_sq c.word c.idx0 (resolvedOut c s)
  have sp := countTimeout_sp c.word c.idx0 (resolvedOut c s)
  rw [endStay_stopped stopped begun, haltReady_timeouts]
  generalize countTimeout c.word c.idx0 (resolvedOut c s) = t at sq sp
  exact ⟨(sp ▸ resolvedOut_gone c s).shrinks (haltReady_shrinks t), (congrArg SQ.timeouts sq :)⟩

/-- What a value drawn for a condition confirms. -/
theorem confirm_drawn (u : State) (c : Cond) (r : Subj) : CondGone c u.sp (confirm c (drawFree u c r)).sp := by
  have sp : (drawFree u c r).sp = u.sp := drawFree_keeps u c r .sp (by decide)
  rw [← sp]
  exact confirm_gone c _

theorem confirm_drawn_mispred (u : State) (c : Cond) (r : Subj) : (confirm c (drawFree u c r)).sp.mispred = u.sp.mispred :=
  (confirm_mispred c _).trans (congrArg SP.mispred (drawFree_keeps u c r .sp (by decide)))

/-! ### Branches and go `WAIT`s (R210, R212) -/

theorem resolveBranch_confirms {v : Bool} (branch : c.goWait = false) (bears : (v == c.sense) = c.pred) : resolveBranch c v s = confirm c s := by
  simp [resolveBranch, branch, bears]

theorem resolveBranch_mispredicts {v : Bool} (branch : c.goWait = false) (fails : (v == c.sense) ≠ c.pred) :
    resolveBranch c v s = mispredict c s := by
  simp [resolveBranch, branch, fails]

theorem resolveGo_confirms {v : Bool} (go : c.goWait = true) (equal : v = c.sense) : resolveBranch c v s = confirm c s := by
  simp [resolveBranch, go, equal]

theorem resolveGo_mispredicts {v : Bool} (go : c.goWait = true) (differs : v ≠ c.sense) : resolveBranch c v s = mispredict c s := by
  simp [resolveBranch, go, differs]

theorem backToWait_none (none_ : s.sq.cur = none) : backToWait s = s := by rw [backToWait, none_]

/-- A mispredicted `BR` returns to no `WAIT`. -/
theorem mispredict_branch (noWait : c.check.cur = none) : mispredict c s = redirectedTo c s := by
  have cur : (redirectedTo c s).sq.cur = none := by
    rw [(redirectedTo_redirected c s).cur, noWait, ite_self]
  rw [mispredict_eq, backToWait_none cur]

/-! ### A go `WAIT` that mispredicts (R212) -/

section
variable {k : Cur} {en d tt : Nat} {sn : Bool}

theorem backToWait_timesOut (cur : s.sq.cur = some k) (kind : k.kind = .wait en sn d tt true) (past : d ≤ nextStart s) :
    backToWait s = timeOut k.word tt k.idx0 s := by
  simp [backToWait, cur, kind, past]

theorem backToWait_stays (cur : s.sq.cur = some k) (kind : k.kind = .wait en sn d tt true) (before : nextStart s < d) :
    backToWait s = addCond (stayCond k en sn s) s := by
  simp [backToWait, cur, kind, Nat.not_le.mpr before]

/-- What the statement says of a go `WAIT` whose repetition did not equal `SENSE`. -/
structure WentBack (s : State) (k : Cur) (en d tt : Nat) (sn : Bool) (t : State) : Prop where
  mispred : t.sp.mispred = satSucc 0xFFFFFFFF s.sp.mispred
  open_ : t.sp.open_ = []
  stays : nextStart t < d → t.sq.cur = some k ∧ ∃ x, t.sp.toOpen = [x] ∧ x.stay = true ∧ x.entry = en ∧ x.sense = sn ∧ x.word = k.word
  timesOut : d ≤ nextStart t → t.sq.cur = none ∧ t.sq.pc = tt ∧ t.sq.timeouts = satSucc 0xFFFFFFFF s.sq.timeouts

theorem mispredict_go (goes : s.sq.stopped = false) (cur : c.check.cur = some k) (kind : k.kind = .wait en sn d tt true) :
    WentBack s k en d tt sn (mispredict c s) := by
  have red := redirectedTo_redirected c s
  rw [mispredict_eq]
  generalize redirectedTo c s = r at red
  have back : r.sq.cur = some k := by rw [red.cur, goes, cur, if_neg Bool.false_ne_true]
  by_cases past : d ≤ nextStart r
  · rw [backToWait_timesOut back kind past]
    have start := nextStart_timeOut k.word tt k.idx0 r
    have sp := timeOut_sp k.word tt k.idx0 r
    obtain ⟨once, sq⟩ := timeOut_sq k.word tt k.idx0 r
    generalize timeOut k.word tt k.idx0 r = t at start sp sq
    exact {
      mispred := by rw [sp, red.mispred]
      open_ := by rw [sp, red.open_]
      stays := fun early => absurd (start ▸ early) (Nat.not_lt.mpr past)
      timesOut := fun _ => ⟨by rw [sq], by rw [sq], by rw [sq, ← red.timeouts]⟩ }
  · have early := Nat.not_le.mp past
    rw [backToWait_stays back kind early, addCond_eq]
    exact {
      mispred := red.mispred
      open_ := red.open_
      stays := fun _ => ⟨back, waitingCond (stayCond k en sn r) r, by simp [red.toOpen], rfl, rfl, rfl, rfl⟩
      timesOut := fun late => absurd early (Nat.not_lt.mpr late) }

end

end

end Sys2Proof.Machine

open Sys2Proof Sys2Proof.Machine

/-- Settles O20: by the kind of the oldest condition (`resolveNow_branch`, `resolveNow_repetition`, `resolveNow_over`) and by what its value
does (`confirm_gone`, `redirectedTo_redirected`, `mispredict_go`, `timeOut_sq`). -/
theorem branchResolves : Obligations.branchResolves := by
  unfold Obligations.branchResolves
  refine ⟨?branch, ?waits⟩
  case branch =>
    intro s c rest due first oldest issued branch notGo noWait
    refine ⟨fun at_ g late before => ⟨_, exec_resolves_late oldest issued late before, noResult_contained g _⟩,
      fun inTime => ⟨fun local_ bears => ⟨_, exec_resolves first oldest issued inTime, ?confirms⟩,
        fun local_ fails => ⟨_, exec_resolves first oldest issued inTime, ?mispredicts⟩,
        fun global none_ => ⟨_, exec_resolves first oldest issued inTime, ?missing⟩⟩⟩
    case confirms =>
      rw [resolveNow_branch branch local_, resolveBranch_confirms notGo bears]
      exact ⟨(confirm_drawn ..).counted, confirm_drawn_mispred .., (confirm_drawn ..).open_, (confirm_drawn ..).inflight⟩
    case mispredicts =>
      rw [resolveNow_branch branch local_, resolveBranch_mispredicts notGo fails, mispredict_branch noWait]
      have red := redirectedTo_redirected c (drawFree (toEpoch due s) c c.subj)
      have sp := drawFree_keeps (toEpoch due s) c c.subj .sp (by decide)
      have pm := drawFree_keeps (toEpoch due s) c c.subj .pm (by decide)
      exact ⟨sp ▸ red.resolved, sp ▸ red.mispred, red.open_, red.toOpen, red.pc, red.loops, red.reqs, red.vindex, red.cursors,
        red.redirected, pm ▸ red.dram, red.dead⟩
    case missing =>
      rw [resolveNow_noResult branch global none_]
      exact noResult_contained c _
  case waits =>
    intro s c rest due first oldest issued inTime u e gone local_
    have resolves := exec_resolves first oldest issued inTime
    have away {t : State} (h : CondGone c u.sp t.sp) : gone t := ⟨h.counted, h.open_, h.inflight⟩
    refine ⟨fun r more stay reps early => ⟨fun equal => ⟨_, resolves, ?satisfied⟩, fun differs => ⟨_, resolves, ?usedUp⟩⟩,
      fun r more stay reps past => ⟨fun k tt supplies => ⟨_, resolves, ?timesOut⟩, fun stopped begun => ⟨_, resolves, ?stopped⟩⟩,
      fun branch go => ⟨fun equal => ⟨_, resolves, ?confirms⟩, fun k en d tt sn differs goes cur kind => ⟨_, resolves, ?goesBack⟩⟩⟩
    case satisfied =>
      rw [resolveNow_repetition stay reps early local_, resolveStay_matches equal]
      have same := satisfied_sp c (drawFree u c r)
      have sq := drawFree_keeps u c r .sq (by decide)
      refine ⟨away ?_, (congrArg SP.mispred same).trans (confirm_drawn_mispred u c r),
        fun k tt supplies => satisfied_goesOn ((waitOf_sq sq).trans supplies)⟩
      rw [same]
      exact confirm_drawn u c r
    case usedUp =>
      rw [resolveNow_repetition stay reps early local_, resolveStay_differs differs]
      have draws := drawFree_keeps u c r
      have sp : (drawFree u c r).sp = u.sp := draws .sp (by decide)
      exact ⟨(congrArg SP.resolved sp :), by rw [← sp]; rfl, (draws.mono (by decide)).trans ((repetitionUsed_keeps c _).mono (by decide))⟩
    case timesOut =>
      rw [resolveNow_over stay reps past]
      obtain ⟨ended, cur, pc, timeouts⟩ := endStay_goesToTarget supplies
      exact ⟨away ended, cur, pc, timeouts⟩
    case stopped =>
      rw [resolveNow_over stay reps past]
      obtain ⟨ended, timeouts⟩ := endStay_counts stopped begun
      exact ⟨away ended, timeouts⟩
    case confirms =>
      rw [resolveNow_branch branch local_, resolveGo_confirms go equal]
      exact ⟨away (confirm_drawn ..), confirm_drawn_mispred ..⟩
    case goesBack =>
      rw [resolveNow_branch branch local_, resolveGo_mispredicts go differs]
      have sp := drawFree_keeps u c c.subj .sp (by decide)
      have sq := drawFree_keeps u c c.subj .sq (by decide)
      have back := mispredict_go ((congrArg SQ.stopped sq).trans goes) cur kind
      exact ⟨sp ▸ back.mispred, back.open_, back.stays, sq ▸ back.timesOut⟩
end

section
/-! SUPPORT. Service words that move blocks and words (R221, R223 to R225, R313), and the statement on them. -/

namespace Sys2Proof.Machine

open Sys2Proof

/-! ### Device DRAM stays canonical while a slot comes (R24, R289) -/

/-- Device DRAM is in canonical form. -/
def DramWf (s : State) : Prop := Memory.wf 0 s.pm.dram = true

theorem DramWf.of_pm {s t : State} (wf : DramWf s) (same : t.pm = s.pm) : DramWf t := by rwa [DramWf, same]

theorem DramWf.foldl {α : Type} {f : State → α → State} (step : ∀ t x, DramWf t → DramWf (f t x)) (l : List α) {s : State}
    (wf : DramWf s) : DramWf (l.foldl f s) := by
  induction l generalizing s with
  | nil => exact wf
  | cons x l ih => exact ih (step s x wf)

theorem DramWf.dramWrite {s : State} (wf : DramWf s) (a : Nat) (l : List Byte) : DramWf (dramWrite a l s) := by
  unfold Machine.dramWrite
  split
  · exact wf_memWrite 0 s.pm.dram a l wf
  · exact wf

theorem DramWf.bookRounds {c : SlotClass} (fuel n : Nat) {s : State} (wf : DramWf s) : DramWf (bookRounds c fuel n s) := by
  induction fuel generalizing n s with
  | zero => exact wf
  | succ fuel ih =>
    rw [Machine.bookRounds]
    split
    · exact wf
    · exact ih _ wf

theorem DramWf.bookSlots (c : SlotClass) (n : Nat) {s : State} (wf : DramWf s) : DramWf (bookSlots c n s) := by
  unfold Machine.bookSlots
  refine DramWf.bookRounds _ _ ?_
  split <;> exact wf

theorem DramWf.stageOldest {s : State} (wf : DramWf s) : DramWf (stageOldest s) := by
  unfold Machine.stageOldest
  split
  · exact wf
  · dsimp only
    split
    · exact (wf.dramWrite _ _).of_pm (issue_frame _ _ _).2.2.2.2.2.1
    · exact wf.dramWrite _ _

theorem DramWf.frontRoom {s : State} (wf : DramWf s) : DramWf (frontRoom s) := by
  unfold Machine.frontRoom
  split
  · exact wf
  · split
    · exact wf.of_pm (by simp)
    · exact (wf.bookSlots _ _).stageOldest

theorem DramWf.closeFrame {s : State} (wf : DramWf s) (ps : Fin 16) (flag : Nat) : DramWf (closeFrame ps flag s) := by
  unfold Machine.closeFrame
  split
  · exact wf
  · dsimp only
    split
    · exact wf.of_pm (by simp)
    · refine DramWf.of_pm ?_ (endDrop_frame _).2.2.2.2.2.1
      exact DramWf.frontRoom wf

theorem DramWf.putUnit {s : State} (wf : DramWf s) (ps : Fin 16) (era key : Nat) (w0 w1 : W64) (mk : Option Mark) (flag : Nat) :
    DramWf (putUnit ps era key w0 w1 mk flag s) := by
  unfold Machine.putUnit
  dsimp only
  split
  · refine DramWf.closeFrame ?_ ps 0
    exact wf
  · exact wf

theorem DramWf.placeData {s : State} (wf : DramWf s) (ps : Fin 16) (l : List Datum) : DramWf (placeData ps l s) := by
  unfold Machine.placeData
  split
  · exact wf
  · dsimp only
    split
    all_goals
      refine DramWf.putUnit ?_ ..
      exact wf

theorem DramWf.placeMark {s : State} (wf : DramWf s) (m : Mark) : DramWf (placeMark m s) := wf.putUnit ..

theorem DramWf.placeQueued {s : State} (wf : DramWf s) (m : Mark) : DramWf (placeQueued m s) := by
  unfold Machine.placeQueued
  split
  · refine DramWf.placeMark ?_ m
    exact wf
  · split
    all_goals
      refine DramWf.placeMark ?_ _
      exact wf

theorem DramWf.placeItem {s : State} (wf : DramWf s) (ps : Fin 16) (upTo : Option Nat) : DramWf (placeItem ps upTo s) := by
  unfold Machine.placeItem
  split
  · exact wf
  · exact wf.placeData ..
  · exact wf.placeQueued ..
  · split
    · exact wf.placeQueued ..
    · exact wf.placeData ..

theorem DramWf.placeNext {s : State} (wf : DramWf s) (ps : Fin 16) (upTo : Option Nat) : DramWf (placeNext ps upTo s) := by
  unfold Machine.placeNext stalePlace
  split
  · exact wf
  · split
    · split
      · split
        · exact wf
        · exact wf.closeFrame ..
      · exact wf.placeItem ..
    · split
      · exact DramWf.foldl (fun _ m wf => wf.placeMark m) _ wf
      · exact wf.placeItem ..

theorem DramWf.placeAll (ps : Fin 16) (upTo : Option Nat) (n : Nat) {s : State} (wf : DramWf s) : DramWf (placeAll ps upTo n s) := by
  induction n generalizing s with
  | zero => exact wf
  | succ n ih =>
    rw [Machine.placeAll]
    split
    · exact ih (wf.placeNext ps upTo)
    · exact wf

theorem DramWf.closeEpoch {s : State} (wf : DramWf s) : DramWf (closeEpoch s) :=
  DramWf.foldl (fun _ ps wf => (wf.placeAll ps _ _).closeFrame ps _) _ wf

theorem DramWf.wrapEffects {s : State} (wf : DramWf s) : DramWf (wrapEffects s) := by
  have marked (kind key : Nat) (w1 : W64) (t : State) : (epochMark kind key w1 t).pm = t.pm := by simp [epochMark]
  unfold Machine.wrapEffects
  refine DramWf.of_pm ?_ (marked _ _ _ _)
  split
  · refine DramWf.closeEpoch (wf.of_pm ?_)
    simp [flushAll]
  · exact wf.of_pm (by simp)

theorem DramWf.pass (n : Nat) {s : State} (wf : DramWf s) : DramWf (pass n s) := by
  have after (t : State) : (passed t).pm = t.pm := (passed_frame t).2.2.2.2.1
  unfold Machine.pass
  dsimp only
  split
  · split
    · exact wf
    · refine DramWf.of_pm ?_ (after _)
      split
      · refine DramWf.wrapEffects ?_
        exact wf
      · exact wf
  · exact wf

theorem DramWf.inSlot (c : SlotClass) (n : Nat) {s : State} (wf : DramWf s) : DramWf (inSlot c n s) := by
  unfold Machine.inSlot
  split
  · exact (wf.bookSlots c n).pass _
  · exact wf

/-! ### Words of the store (R196, R224) -/

/-- The word that a list of stored words holds at an address: all-zero words are not listed. -/
def storedAt (l : List (Nat × BitVec 128)) (a : Nat) : Nat := ((l.find? fun x => x.1 == a).map fun x => x.2.toNat).getD 0

theorem wordAt_stored {s : State} (known : s.sq.storeFree = none) (a : Nat) : wordAt s a = storedAt s.sq.store a := by
  unfold wordAt storedAt
  cases s.sq.store.find? fun x => x.1 == a with
  | none => simp [known]
  | some x => rfl

/-- A list without an address holds the all-zero word there. -/
theorem storedAt_without (l : List (Nat × BitVec 128)) (k a : Nat) :
    storedAt (l.filter fun x => x.1 != k) a = if a = k then 0 else storedAt l a := by
  unfold storedAt
  rw [List.find?_filter]
  split
  · rename_i same
    have none_ : (l.find? fun x => decide ((x.1 != k) = true ∧ (x.1 == a) = true)) = none :=
      List.find?_eq_none.mpr fun x _ => by simp [same]
    rw [none_]
    rfl
  · rename_i other
    congr 3
    funext x
    by_cases here : x.1 = a
    · simp [here, other]
    · simp [here]

theorem storedAt_putWord (l : List (Nat × BitVec 128)) (k a : Nat) (w : BitVec 128) :
    storedAt (putWord l k w) a = if a = k then w.toNat else storedAt l a := by
  have without := storedAt_without l k a
  unfold putWord
  dsimp only
  split
  · rename_i zero
    rw [without, zero]
    rfl
  · by_cases same : a = k
    · simp [storedAt, same]
    · rw [if_neg same] at without
      rw [if_neg same, ← without]
      simp [storedAt, beq_eq_false_iff_ne.mpr (Ne.symm same)]

/-- `n` words put from `dest` up. -/
def putWords (get : Nat → BitVec 128) (dest n : Nat) (l : List (Nat × BitVec 128)) : List (Nat × BitVec 128) :=
  (List.range n).foldl (fun l i => putWord l (dest + i) (get i)) l

theorem storedAt_putWords (get : Nat → BitVec 128) (dest n : Nat) (l : List (Nat × BitVec 128)) (a : Nat) :
    storedAt (putWords get dest n l) a = if dest ≤ a ∧ a < dest + n then (get (a - dest)).toNat else storedAt l a := by
  induction n with
  | zero => rw [if_neg (by omega)]; rfl
  | succ n ih =>
    rw [putWords, List.range_succ, List.foldl_append]
    show storedAt (putWord (putWords get dest n l) (dest + n) (get n)) a = _
    rw [storedAt_putWord, ih]
    by_cases last : a = dest + n
    · subst last
      rw [if_pos rfl, if_pos (by omega), Nat.add_sub_cancel_left]
    · rw [if_neg last]
      congr 1
      exact propext (by omega)

/-- The words copied, none of them listed where it is all zero. -/
theorem copyWords_store (get : Nat → BitVec 128) (dest n : Nat) {s : State} (known : s.sq.storeFree = none)
    (nonzero : ∀ x ∈ s.sq.store, x.2 ≠ 0) :
    (copyWords get dest n s).sq.store = putWords get dest n s.sq.store := by
  have listed : (s.sq.store.filter fun x => x.2 != 0) = s.sq.store := List.filter_eq_self.mpr fun x hx => by simpa using nonzero x hx
  unfold copyWords putWords
  simp only [known]
  conv_rhs => rw [← listed]
  refine (List.foldl_hom (fun l : List (Nat × BitVec 128) => l.filter fun x => x.2 != 0) fun l i => ?_).symm
  unfold putWord
  rw [List.filter_cons, List.filter_filter, List.filter_filter]
  by_cases zero : get i = 0 <;> simp [zero, Bool.and_comm]

theorem wordAt_copyWords (get : Nat → BitVec 128) (dest n : Nat) {s : State} (known : s.sq.storeFree = none)
    (nonzero : ∀ x ∈ s.sq.store, x.2 ≠ 0) (a : Nat) : wordAt (copyWords get dest n s) a = if dest ≤ a ∧ a < dest + n then (get (a - dest)).toNat else wordAt s a := by
  rw [wordAt_stored (s := copyWords get dest n s) known, copyWords_store get dest n known nonzero, storedAt_putWords, wordAt_stored known]

/-- A word of a block of bytes read from device DRAM (R197). -/
theorem wordOf_dramRead (s : State) (a : Nat) {i n : Nat} (inside : i < n) :
    (wordOf ((dramRead s a (16 * n)).drop (16 * i))).toNat = leNat (dramRead s (a + 16 * i) 16) := by
  have bytes : ((dramRead s a (16 * n)).drop (16 * i)).take 16 = dramRead s (a + 16 * i) 16 := by
    refine List.ext_getElem (by simp [dramRead]; omega) fun k _ _ => ?_
    simp [dramRead, Nat.add_assoc]
  have small := leNat_lt (dramRead s (a + 16 * i) 16)
  rw [dramRead_length] at small
  rw [wordOf, bytes, BitVec.toNat_ofNat, Nat.mod_eq_of_lt (small.trans_le (by decide))]

/-! ### Result blocks (R221, R313) -/

section
variable {w : Nat} {p : Proc} {s u : State}

/-- The state after a service word of procedure `p`. -/
abbrev pastProc (p : Proc) (u : State) : State := withProc (some { p with pc := p.pc + 1 }) u

theorem exec_tiurd (ready : SvcReady 0x27 w p s u) : exec (.tiurd .ok) s = .next (tiurdWord p.pc w (pastProc p u)) :=
  congrArg _ (svcRun_ready ready _)

theorem exec_loadw (ready : SvcReady 0x23 w p s u) : exec (.loadw .ok) s = .next (loadwWord p.pc w (pastProc p u)) :=
  congrArg _ (svcRun_ready ready _)

theorem tiuBlocks_pastProc (m : Nat) : tiuBlocks (pastProc p u) m = tiuBlocks u m := rfl

theorem bytesIn_pastProc (types : List Nat) (a n : Nat) : bytesIn (pastProc p u) types a n = bytesIn u types a n := rfl

theorem tiurdWord_blocks (some_ : tiuBlocks u (fld w 63 0) ≠ [])
    (inside : bytesIn u [5] (fld w 104 64) (tiuBlocks u (fld w 63 0)).length = true) : tiurdWord p.pc w (pastProc p u) =
      withProc (some { p with pc := p.pc + 1, block := some (.tiurd (fld w 104 64) (tiuBlocks u (fld w 63 0))) }) u := by
  have shown : (tiuBlocks u (fld w 63 0)).isEmpty = false := List.isEmpty_eq_false_iff.mpr some_
  simp only [tiurdWord, tiuBlocks_pastProc, bytesIn_pastProc, shown, inside, Bool.false_eq_true, not_true, if_false]
  rfl

theorem tiurdWord_faults (some_ : tiuBlocks u (fld w 63 0) ≠ [])
    (outside : bytesIn u [5] (fld w 104 64) (tiuBlocks u (fld w 63 0)).length = false) :
    tiurdWord p.pc w (pastProc p u) = svcFaultAt 0xB p.pc (pastProc p u) := by
  have shown : (tiuBlocks u (fld w 63 0)).isEmpty = false := List.isEmpty_eq_false_iff.mpr some_
  simp only [tiurdWord, tiuBlocks_pastProc, bytesIn_pastProc, shown, outside, Bool.false_eq_true, not_false_eq_true, if_false, if_true]

/-- A service fault's record names the service context and the cause (R222). -/
theorem svcFaultAt_cause {cause : Nat} (a : Nat) (s : State) (small : cause < 16) :
    (svcFaultAt cause a s).sq.fault.toNat / 2 ^ 58 % 32 = 2 ^ 4 + cause := by
  rw [(svcFaultAt_faulted cause a s).fault, faultWord_toNat a (by decide) small]
  omega

end

/-- A blocking word of a procedure that goes on is done (R220). -/
theorem unblock_goesOn {p : Proc} {s : State} (proc : s.sq.proc = some p) (more : p.last = false) :
    unblock s = withProc (some { p with block := none }) s := by
  rw [unblock, withProc, proc]
  simp [more]

/-- A write to device DRAM changes nothing else of the pattern memory. -/
theorem dramWrite_pm (a : Nat) (l : List Byte) (s : State) :
    { (dramWrite a l s).pm with dram := s.pm.dram, dramKnown := s.pm.dramKnown } = s.pm := by
  unfold dramWrite
  split <;> rfl

theorem dramWrite_keeps (a : Nat) (l : List Byte) (s : State) : Keeps [.pm] s (dramWrite a l s) := by
  intro p hp
  cases p <;> first | exact absurd (by decide) hp | simp [samePart]

theorem exec_tiurdComplete {p : Proc} {s : State} {at_ : Nat} {l : List Byte} (proc : s.sq.proc = some p) (block : p.block = some (.tiurd at_ l)) :
    exec .tiurdComplete s = .next (unblock (dramWrite at_ l (inSlot .maint l.length s))) := by
  show Host.Outcome.next (match s.sq.proc.bind fun p => p.block with | some (.tiurd dest bytes) => _ | _ => s) = _
  rw [proc, Option.bind_some, block]

/-! ### Overlay loads (R223, R224) -/

section
variable {w : Nat} {p : Proc} {s u : State}

/-- The state in which a range of the store is under load (R224). -/
def loadingWords (src dest count : Nat) (p : Proc) (u : State) : State :=
  { u with sq := { u.sq with underLoad := some (dest, count), proc := some { p with block := some (.loadw src dest count) } } }

theorem protected_iff (v : State) (a dest count : Nat) : protected_ v a dest count = true ↔
    (protectedWords v a).any (nearOverlap dest count) = true ∨ ∃ x ∈ decodedWords v, dest ≤ x ∧ x < dest + count := by
  simp [protected_]

theorem loadwWord_faults {a : Nat} (guarded : protected_ u a (fld w 17 0) (fld w 121 105) = true) : loadwWord a w u = svcFaultAt 0x8 a u :=
  if_pos guarded

theorem loadwWord_loads {a : Nat} (proc : u.sq.proc = some p) (free : protected_ u a (fld w 17 0) (fld w 121 105) = false)
    (inside : bytesIn u [1, 5] (fld w 104 64) (16 * fld w 121 105) = true) :
    loadwWord a w u = loadingWords (fld w 104 64) (fld w 17 0) (fld w 121 105) p u := by
  simp only [loadwWord, free, inside, Bool.false_eq_true, not_true, if_false, blockOn, updProc, proc]
  rfl

end

/-- The store with the words of a source copied, before the context is released (R224). -/
def wordsCopied (src dest count : Nat) (v : State) : State :=
  copyWords (fun i => wordOf ((dramRead v src (16 * count)).drop (16 * i))) dest count v

/-- The words decoded under load noted, the range free, and `OVERLAID` set (R224). -/
def loadOver (s : State) : State :=
  { s with sq := { (keepEarly 0x9 (underLoad s) s).sq with underLoad := none, overlaid := true } }

theorem exec_loadwComplete {p : Proc} {s : State} {src dest count : Nat} (proc : s.sq.proc = some p)
    (block : p.block = some (.loadw src dest count)) :
    exec (.loadwComplete {}) s = .next (unblock (loadOver (wordsCopied src dest count (inSlot .maint (16 * count) s)))) := by
  show Host.Outcome.next (match s.sq.proc.bind fun p => p.block with | some (.loadw src dest count) => _ | _ => s) = _
  rw [proc, Option.bind_some, block]
  rfl

/-- What a copy that completes leaves (R224): a state `t` after the context is released, from the state `v` with the source's slots passed. -/
structure Overlaid (src dest count : Nat) (p : Proc) (v t : State) : Prop where
  underLoad : t.sq.underLoad = none
  overlaid : t.sq.overlaid = true
  proc : t.sq.proc = some { p with block := none }
  word : ∀ a, wordAt t a = wordAt (wordsCopied src dest count v) a
  poison : t.sq.poison = (wordsCopied src dest count v).sq.poison
  keeps : Keeps [.sq] v t

theorem wordsCopied_overlaid {src dest count : Nat} {p : Proc} {v : State} (proc : v.sq.proc = some p) (more : p.last = false) :
    Overlaid src dest count p v (unblock (loadOver (wordsCopied src dest count v))) := by
  rw [unblock_goesOn (s := loadOver (wordsCopied src dest count v)) proc more]
  exact ⟨rfl, rfl, rfl, fun _ => rfl, rfl, setSq_keeps _ v⟩

theorem wordAt_wordsCopied {src dest count : Nat} {v : State} (known : v.sq.storeFree = none) (nonzero : ∀ x ∈ v.sq.store, x.2 ≠ 0) (a : Nat) :
    wordAt (wordsCopied src dest count v) a =
      if dest ≤ a ∧ a < dest + count then leNat (dramRead v (src + 16 * (a - dest)) 16) else wordAt v a := by
  rw [wordsCopied, wordAt_copyWords _ _ _ known nonzero]
  split
  · exact wordOf_dramRead v src (by omega)
  · rfl

/-! ### The store scrub (R225) -/

section
variable {s : State} {a : Nat}

/-- A scrub that poisons no word is its check alone (R225). -/
theorem exec_scrub (ecc : Ecc) (inStore : a < 262144) (poisons : ecc ≠ .uncorrectable) :
    exec (.sequenceStoreScrub a ecc) s = .next (storeEcc ecc a 1 s) := by
  show execSequenceStoreScrub a ecc s = _
  simp [execSequenceStoreScrub, Nat.not_le.mpr inStore, poisons]

theorem storeEcc_keeps (ecc : Ecc) (a found : Nat) (s : State) : Keeps [.sq, .hi, .mg] s (storeEcc ecc a found s) := by
  intro p hp
  cases p <;> first | exact absurd (by decide) hp | simp [samePart]

/-- An uncorrectable error poisons its word; words decoded ahead may be noted (R198). -/
theorem scrub_poisons (inStore : a < 262144) : ∃ t, exec (.sequenceStoreScrub a .uncorrectable) s = .next t
    ∧ a ∈ t.sq.poison ∧ t.sq.store = s.sq.store ∧ Keeps [.sq, .hi, .mg] s t := by
  have poisoned := storeEcc_poisons a 1 s
  have store : (storeEcc .uncorrectable a 1 s).sq.store = s.sq.store := by rw [storeEcc_uncorrectable]
  have keeps := storeEcc_keeps .uncorrectable a 1 s
  have acts : exec (.sequenceStoreScrub a .uncorrectable) s = .next (if ¬ s.sq.poison.contains a then
      keepEarly 0 (fun x => x == a) (storeEcc .uncorrectable a 1 s) else storeEcc .uncorrectable a 1 s) := by
    show execSequenceStoreScrub a .uncorrectable s = _
    simp only [execSequenceStoreScrub, if_neg (Nat.not_le.mpr inStore), true_and]
  refine ⟨_, acts, ?_⟩
  split
  · exact ⟨poisoned, store, keeps.trans ((setSq_keeps _ _).mono (by decide))⟩
  · exact ⟨poisoned, store, keeps⟩

end

end Sys2Proof.Machine

open Sys2Proof Sys2Proof.Machine

/-- Settles O27: `TIURD` and `LOADW` by their guards, their completions by what a write to device DRAM and a copy of words leave
(`dramRead_dramWrite`, `wordAt_wordsCopied`), the scrub by the outcome of its check. -/
theorem serviceBlocksAndOverlays : Obligations.serviceBlocksAndOverlays := by
  unfold Obligations.serviceBlocksAndOverlays
  refine ⟨fun s u w p => ⟨fun ready some_ inside => ?tiurd, fun ready some_ outside => ?outside,
      fun at_ l proc block more wf power => ?completes⟩,
    fun s u w p => ⟨fun ready free inside => ?loadw, fun ready guarded => ?guarded⟩,
    fun s p src dest count proc block more range known nonzero => ?copied,
    fun s a inStore => ⟨?corrected, ?uncorrectable, ?clean⟩⟩
  case tiurd => exact (exec_tiurd ready).trans (congrArg _ (tiurdWord_blocks some_ inside))
  case outside =>
    refine ⟨_, exec_tiurd ready, ?_⟩
    rw [tiurdWord_faults some_ outside]
    have faulted := svcFaultAt_faulted 0xB p.pc (pastProc p u)
    exact ⟨faulted.proc, faulted.svcFault, svcFaultAt_cause _ _ (by decide), faulted.dram⟩
  case completes =>
    intro v
    have sq : v.sq = s.sq := (inSlot_frame _ _ _).2.2.2.1
    have power' : dramOn v = true := (dramOn_of_logless (inSlot_logless ..)).trans (decide_eq_true power)
    refine ⟨_, exec_tiurdComplete proc block, ?_⟩
    have written : (dramWrite at_ l v).sq = s.sq := (dramWrite_keeps at_ l v .sq (by decide)).trans sq
    rw [unblock_goesOn ((congrArg SQ.proc written).trans proc) more]
    exact ⟨congrArg (fun q : SQ => { q with proc := some { p with block := none } }) written,
      dramRead_dramWrite power' (DramWf.inSlot .maint l.length wf) at_ l,
      fun x out => dramByte_dramWrite_other (DramWf.inSlot .maint l.length wf) at_ l x out, dramWrite_pm at_ l v,
      ((dramWrite_keeps at_ l v).mono (by decide)).trans ((setSq_keeps _ _).mono (by decide))⟩
  case loadw =>
    have free' := Bool.eq_false_iff.mpr (mt (protected_iff _ _ _ _).mp free)
    exact (exec_loadw ready).trans (congrArg _ (loadwWord_loads (p := { p with pc := p.pc + 1 }) rfl free' inside))
  case guarded =>
    refine ⟨_, exec_loadw ready, ?_⟩
    rw [loadwWord_faults ((protected_iff _ _ _ _).mpr guarded)]
    have faulted := svcFaultAt_faulted 0x8 p.pc (pastProc p u)
    exact ⟨faulted.proc, faulted.svcFault, svcFaultAt_cause _ _ (by decide), faulted.underLoad⟩
  case copied =>
    let v := inSlot .maint (16 * count) s
    have sq : v.sq = s.sq := (inSlot_frame _ _ _).2.2.2.1
    have done := wordsCopied_overlaid (src := src) (dest := dest) (count := count) ((congrArg SQ.proc sq).trans proc) more
    have words := wordAt_wordsCopied (src := src) (dest := dest) (count := count) (v := v) ((congrArg SQ.storeFree sq).trans known) (sq ▸ nonzero)
    refine ⟨_, exec_loadwComplete proc block, done.underLoad, done.overlaid, done.proc, fun i inside => ?_, fun a outside => ?_, fun a left => ?_,
      done.keeps⟩
    · rw [done.word, words, if_pos (by omega), Nat.add_sub_cancel_left]
    · rw [done.word, words, if_neg (by omega), wordAt, wordAt, sq]
    · rw [done.poison] at left
      obtain ⟨poisoned, out⟩ := List.mem_filter.mp left
      refine ⟨sq ▸ poisoned, fun inside => ?_⟩
      simp [inside.1, inside.2] at out
  case corrected =>
    refine ⟨_, exec_scrub _ inStore (by simp), ?_⟩
    obtain ⟨once, sq⟩ := issueUpTo_sq 1 0x0703 [i8 a] { s with sq := { s.sq with eccCe := satSucc 0xF s.sq.eccCe } }
    exact ⟨(congrArg SQ.eccCe sq :), (congrArg SQ.poison sq :), storeEcc_keeps _ _ _ s⟩
  case uncorrectable => exact scrub_poisons inStore
  case clean => exact exec_scrub .ok inStore (by simp)
end

section
/-! SUPPORT. The refutation of the statement on `SQ_LOAD`: an epoch that wraps while the image's slots come stages a frame of the stream over the
image's header (R44, R284, R289), after the header has been read. -/

namespace Sys2Proof.Machine

open Sys2Proof

/-! ### A frame staged at a wrap (R44, R289) -/

/-- The oldest frame of the front, written to the staging region. -/
theorem stageOldest_dram {f : Frame} {r : List Frame} {s : State} (front : s.cs.front = f :: r) (power : dramOn s = true) :
    (stageOldest s).pm.dram = memWrite 0 s.pm.dram (stageAddr s s.cs.stagedAt) (frameBytes s.cs.openSeq f) := by
  have written := dramWrite_dram power (stageAddr s s.cs.stagedAt) (frameBytes s.cs.openSeq f)
  unfold stageOldest
  rw [front]
  dsimp only
  split
  · rw [(issue_frame _ _ _).2.2.2.2.2.1]
    exact written
  · exact written

theorem bookRounds_dram (c : SlotClass) (fuel n : Nat) (s : State) : (bookRounds c fuel n s).pm.dram = s.pm.dram := by
  induction fuel generalizing n s with
  | zero => rfl
  | succ fuel ih =>
    rw [bookRounds]
    split
    · rfl
    · rw [ih]
      rfl

theorem bookSlots_dram (c : SlotClass) (n : Nat) (s : State) : (bookSlots c n s).pm.dram = s.pm.dram := by
  unfold bookSlots
  dsimp only
  rw [bookRounds_dram]
  split <;> rfl

theorem stageAddr_of_regions {s t : State} (h : t.pm.regions = s.pm.regions) (n : Nat) : stageAddr t n = stageAddr s n := by
  rw [stageAddr, regionByType, h]
  rfl

/-- A set without an open frame has none to close. -/
theorem Crowded.closeSet_same {n : Nat} {s : State} (h : Crowded n s) {ps : Fin 16} (flag : Nat) (closed : s.cs.frames[ps] = none) :
    closeSet none flag s ps = s := by
  rw [closeSet, h.placeAll_eq, closeFrame, closed]

/-- The open frame of a set that closes on a full front takes the oldest frame of the front to the staging region. -/
theorem Crowded.closeSet_dram {n : Nat} {s : State} (h : Crowded (n + 1) s) {ps : Fin 16} {f g : Frame} {r : List Frame} (flag : Nat)
    (opened : s.cs.frames[ps] = some g) (front : s.cs.front = f :: r) (power : dramOn s = true) :
    (closeSet none flag s ps).pm.dram = memWrite 0 s.pm.dram (stageAddr s s.cs.stagedAt) (frameBytes s.cs.openSeq f) := by
  have h1 := h.withFrames (vset s.cs.frames ps none) (s.cs.fseq + 1)
  have closed : (closeSet none flag s ps).pm.dram
      = (stageOldest (bookSlots .stream 4096 (Machine.withFrames (vset s.cs.frames ps none) (s.cs.fseq + 1) s))).pm.dram := by
    rw [closeSet, h.placeAll_eq, closeFrame, opened, ← h1.frontRoom_eq]
    simp only [h.not_mustDrop, Bool.false_eq_true, if_false]
    rw [(endDrop_frame _).2.2.2.2.2.1]
    rfl
  generalize hw : Machine.withFrames (vset s.cs.frames ps none) (s.cs.fseq + 1) s = w at closed
  have booked : (bookSlots .stream 4096 w).cs = w.cs := by simp
  have still : dramOn (bookSlots .stream 4096 w) = dramOn w := by simp [dramOn]
  rw [closed, stageOldest_dram (by rw [booked, ← hw]; exact front) (by rw [still, ← hw]; exact power), bookSlots_dram, booked,
    stageAddr_of_regions (bookSlots_regions w), ← hw]
  rfl

/-- Sets without an open frame have none to close. -/
theorem Crowded.closeSets_same {n : Nat} {s : State} (h : Crowded n s) (flag : Nat) (closed : ∀ ps : Fin 16, s.cs.frames[ps] = none)
    (l : List (Fin 16)) : l.foldl (closeSet none flag) s = s := by
  induction l with
  | nil => rfl
  | cons ps l ih => rw [List.foldl_cons, h.closeSet_same flag (closed ps), ih]

/-- The open frames of the stream are one of set 0. -/
def onlyFrame (g : Frame) : Vector (Option Frame) 16 := vset (.replicate 16 none) 0 (some g)

theorem onlyFrame_closed (g : Frame) (ps : Fin 16) : (vset (onlyFrame g) 0 none)[ps] = none := by
  by_cases own : ps = 0
  · subst own
    exact vset_self ..
  · rw [vset_other _ _ (Ne.symm own), onlyFrame, vset_other _ _ (Ne.symm own)]
    simp

/-- Where set 0 alone has an open frame, the end of an epoch on a full front stages one frame. -/
theorem Crowded.closeEpoch_dram {n : Nat} {s : State} (h : Crowded (n + 1) s) {f g : Frame} {r : List Frame}
    (opened : s.cs.frames = onlyFrame g) (front : s.cs.front = f :: r) (power : dramOn s = true) :
    (closeEpoch s).pm.dram = memWrite 0 s.pm.dram (stageAddr s s.cs.stagedAt) (frameBytes s.cs.openSeq f) := by
  have first : s.cs.frames[(0 : Fin 16)] = some g := by rw [opened]; exact vset_self ..
  have sets : List.finRange 16 = 0 :: (List.finRange 16).tail := by decide
  obtain ⟨crowded, -, -, frames⟩ := h.closeSet_spills 0 first
  have closes : closeEpoch s = closeSet none 0 s 0 := by
    rw [closeEpoch, closeFrames, sets, List.foldl_cons]
    exact crowded.closeSets_same 0 (fun ps => by rw [frames, opened, onlyFrame_closed]) _
  rw [closes, h.closeSet_dram 0 first front power]

/-- What a wrap of the epoch leaves of device DRAM where the stream stages one frame. -/
theorem pass_wraps_dram {n k : Nat} {s : State} (edge : s.tb.fabSrc = .edge) (some_ : n ≠ 0) (wraps : 2 ^ 64 ≤ s.tb.epoch.toNat + 8192 * n)
    (open_ : s.cs.open_ = true) (noChange : s.cs.pendX = []) (h : Crowded (k + 1) s) {f g : Frame} {r : List Frame}
    (opened : s.cs.frames = onlyFrame g) (front : s.cs.front = f :: r) (power : dramOn s = true) :
    (pass n s).pm.dram = memWrite 0 s.pm.dram (stageAddr s s.cs.stagedAt) (frameBytes s.cs.openSeq f) := by
  have mark (kind key : Nat) (w : W64) (t : State) : (epochMark kind key w t).pm = t.pm := by simp
  have after (t : State) : (passed t).pm = t.pm := by simp
  obtain ⟨cs, pm, -⟩ := wrapNoted_frame (timeMoved n s)
  have still : dramOn (wrapNoted (timeMoved n s)) = dramOn s := dramOn_of_logless (s := timeMoved n s) (issue_logless ..)
  rw [pass_wraps edge some_ wraps, after, wrapEffects_eq, mark]
  generalize wrapNoted (timeMoved n s) = t at cs pm still ⊢
  have cs' : t.cs = s.cs := cs
  have regions : t.pm.regions = s.pm.regions := congrArg PM.regions pm
  have crowded : Crowded (k + 1) t :=
    { full := by rw [cs']; exact h.full
      spills := by rw [cs']; exact h.spills
      room := by rw [cs', stagingCap_of_regions regions]; exact h.room
      data := by rw [cs']; exact h.data
      marks := by rw [cs']; exact h.marks
      episode := by rw [cs']; exact h.episode }
  have opens : t.cs.open_ = true := by rw [cs', open_]
  rw [if_pos opens, flushAll_idle (by rw [cs', noChange]), crowded.closeEpoch_dram (by rw [cs', opened]) (by rw [cs', front])
    (still.trans power), stageAddr_of_regions regions, cs', pm]
  rfl

/-! ### The load of an image (R226, R231) -/

theorem exec_sqLoad {s : State} {tag : W16} {e : Exec} (executes : executing 0x0701 tag s = some e) (src : HostRead) :
    exec (.sqLoad tag src {}) s = .next (sqLoadCmd src {} e s) := by
  show Host.Outcome.next (runCmd 0x0701 tag (sqLoadCmd src {}) s) = _
  rw [runCmd, executes]

/-- An answer leaves the store. -/
theorem wordAt_answered (e : Exec) (status : Nat) (tag : W16) (f : Exec → Exec) (data : List Byte) (s : State) (a : Nat) :
    wordAt (answer e status data (updExec tag f s)) a = wordAt s a := rfl

/-- A good image in device DRAM is installed, and `E_OK` answers. -/
theorem sqLoadCmd_installs {s : State} {e : Exec} {src : HostRead} (dram : payF e 8 1 = 0) (reserved : payZero e 9 39 = true) :
    let a := payF e 0 8
    let h := dramRead s a 64
    let u := inSlot .maint (seqSize h) s
    let img := dramRead u a (seqSize h)
    rangeIn s [1, 5] a 64 = true → seqHdrOk h = true → seqRangeOk h = true → rangeIn s [1, 5] a (seqSize h) = true →
      faultIn s a (seqSize h) = false → crc32c (img.drop 64) = BitVec.ofNat 32 (fieldAt h 24 4) →
      sqLoadCmd src {} e s = answer e eOk [] (updExec e.entry.tag (fun x => { x with ind := h }) (seqInstall img u)) := by
  intro a h u img inside header counts whole sound crc
  simp only [a, h, u, img] at inside header counts whole sound crc
  simp [sqLoadCmd, dram, reserved, objNote, objBytes, objFails, noteReadUe, noteEcc, a, h, u, img, inside, header, counts, whole, sound, crc]

/-! ### The refuting state -/

/-- The place of the image, which is the start of the staging region. -/
abbrev imagePlace : Nat := 0x10000000

/-- The header of an image of one all-zero word (Table 8.7). -/
def oneWordHeader : List Byte :=
  leBytes 4 0x4B595351 ++ leBytes 2 1 ++ leBytes 2 3 ++ leBytes 8 0 ++ leBytes 4 1 ++ leBytes 4 0 ++ leBytes 4 0x42709AEA ++ zeros 36

/-- A frame whose header would count two words, with an all-zero unit and one that is not. -/
def headerFrame : Frame := { plainFrame 1 with wrap := 2, units := [(0, 0), (1, 0)] }

/-- `SQ_LOAD` of the image. -/
def loadImage : Exec := {
  entry := { opcode := 0x0701, tag := 7, fence := false, indirect := false, badHdr := false, pay := leBytes 8 imagePlace ++ zeros 40, hash := 0 }
  idle := false, parkActs := 0 }

/-- The last fabric cycle before the epoch wraps. An image stands in a `GENERAL` region that a staging region covers too: no
command configures such a map (R165), but the statement speaks of every state. The stream is open with one open frame and a full front, and
it spills. -/
def imageInStaging : State := {
  tb := { fabSrc := .edge, epoch := 0xFFFFFFFFFFFFE000 }
  mg := { pstate := 1 }
  pm := {
    dram := memWrite 0 [] imagePlace oneWordHeader
    regions := vset (vset (.replicate 16 {}) 0 { base := imagePlace, size := 1, typ := 5 }) 1 { base := imagePlace, size := 1, typ := 4 } }
  cs := {
    open_ := true, frames := onlyFrame (plainFrame 0), fseq := 1025, front := List.replicate 1024 headerFrame, staged := [plainFrame 0] }
  hi := { exec := [loadImage] } }

/-- The state with the image's slots taken, and time not yet moved. -/
def imageBooked : State := bookSlots .maint 80 imageInStaging

/-- The state with the image's slots passed. -/
def imageRead : State := inSlot .maint 80 imageInStaging

theorem imageBooked_cs : imageBooked.cs = imageInStaging.cs := by simp [imageBooked]

theorem imageBooked_regions : imageBooked.pm.regions = imageInStaging.pm.regions :=
  (congrArg PM.regions (bookSlots_unstaged .maint 80 imageInStaging) :)

theorem imageBooked_crowded : Crowded 1 imageBooked where
  full := by rw [imageBooked_cs]; exact List.length_replicate
  spills := by rw [imageBooked_cs]; exact List.cons_ne_nil _ _
  room := by rw [imageBooked_cs, stagingCap_of_regions imageBooked_regions]; decide
  data := by rw [imageBooked_cs]; rfl
  marks := by rw [imageBooked_cs]; rfl
  episode := by rw [imageBooked_cs]; rfl

theorem imageBooked_tb : imageBooked.tb = imageInStaging.tb := by simp [imageBooked]

/-- The time until the image's slots have passed. -/
def imageWait : Nat := (imageBooked.pm.slotAt[classIx .maint] * 131072 - ext imageBooked + 8191) / 8192

theorem imageRead_pass : imageRead = pass imageWait imageBooked := inSlot_edge .maint 80 rfl

theorem imageWait_wraps : imageWait ≠ 0 ∧ 2 ^ 64 ≤ imageBooked.tb.epoch.toNat + 8192 * imageWait := by decide +kernel

/-- The wrap comes while the image's slots are waited for, and stages the oldest frame of the front over the image's header. -/
theorem imageRead_dram : imageRead.pm.dram = memWrite 0 imageInStaging.pm.dram imagePlace (frameBytes 0 headerFrame) := by
  have cs := imageBooked_cs
  have front : imageInStaging.cs.front = headerFrame :: List.replicate 1023 headerFrame := List.replicate_succ
  have power : dramOn imageBooked = true := by decide +kernel
  have place : stageAddr imageInStaging imageInStaging.cs.stagedAt = imagePlace := by decide +kernel
  have dram : imageBooked.pm.dram = imageInStaging.pm.dram := bookSlots_dram ..
  have passed := pass_wraps_dram (f := headerFrame) (g := plainFrame 0) (by rw [imageBooked_tb]; rfl) imageWait_wraps.1 imageWait_wraps.2
    (by rw [cs]; rfl) (by rw [cs]; rfl) imageBooked_crowded (by rw [cs]; rfl) (by rw [cs]; exact front) power
  rw [imageRead_pass, passed, stageAddr_of_regions imageBooked_regions, cs, place, dram]
  rfl

/-- Bytes that were never undefined are those of the memory (R161). -/
theorem dramRead_memRead {s : State} (defined : s.pm.dramFree = none) (a n : Nat) : dramRead s a n = memRead 0 s.pm.dram a n := by
  simp only [dramRead, memRead, dramByte, defined]

/-- A part of what is read. -/
theorem dramRead_part (s : State) (a : Nat) {o n k : Nat} (inside : o + n ≤ k) :
    dramRead s (a + o) n = ((dramRead s a k).drop o).take n := by
  refine List.ext_getElem (by simp [dramRead]; omega) fun i _ _ => ?_
  simp [dramRead, Nat.add_assoc]

theorem dramFree_of_unstaged {p q : PM} (h : unstaged p = unstaged q) : p.dramFree = q.dramFree := (congrArg PM.dramFree h :)

theorem imageRead_bytes : dramRead imageRead imagePlace 4096 = frameBytes 0 headerFrame := by
  have defined : imageRead.pm.dramFree = none := by
    rw [imageRead, dramFree_of_unstaged (inSlot_unstaged .maint 80 imageInStaging)]
    rfl
  have wf : Memory.wf 0 imageInStaging.pm.dram = true := by decide +kernel
  have length : (frameBytes 0 headerFrame).length = 4096 := by decide +kernel
  rw [dramRead_memRead defined, imageRead_dram]
  generalize frameBytes 0 headerFrame = l at length
  rw [← length]
  exact memRead_memWrite 0 _ imagePlace l wf

/-- The image as `SQ_LOAD` reads it: it begins with the frame's header. -/
theorem imageRead_image : dramRead imageRead imagePlace 80 = (frameBytes 0 headerFrame).take 80 := by
  rw [← imageRead_bytes]
  exact dramRead_part imageRead imagePlace (o := 0) (by decide)

/-- The second word that the header now counts, as device DRAM holds it. -/
theorem imageRead_second : leNat (dramRead imageRead (imagePlace + 80) 16) = 1 := by
  rw [dramRead_part imageRead imagePlace (k := 4096) (by decide), imageRead_bytes]
  decide +kernel

/-- The store takes no word behind the image's bytes. -/
theorem installed_second : wordAt (seqInstall ((frameBytes 0 headerFrame).take 80) imageRead) 1 = 0 := by decide +kernel

end Sys2Proof.Machine

open Sys2Proof Sys2Proof.Machine

/-- Refutes O28: on `imageInStaging` the header that counts one word is read before the wrap, and the words by the frame's bytes that stand
there after it, which count two; the second lies behind the bytes read, so the store holds 0 where device DRAM holds 1. -/
theorem not_sequenceImageLoads : ¬ Obligations.sequenceImageLoads := by
  unfold Obligations.sequenceImageLoads
  rintro ⟨loads, -⟩
  have place : payF loadImage 0 8 = imagePlace := by decide +kernel
  have header : dramRead imageInStaging imagePlace 64 = oneWordHeader := by decide +kernel
  have size : seqSize oneWordHeader = 80 := by decide +kernel
  have executes : executing 0x0701 7 imageInStaging = some loadImage := by decide +kernel
  have dram : payF loadImage 8 1 = 0 := by decide +kernel
  have reserved : payZero loadImage 9 39 = true := by decide +kernel
  have inside : rangeIn imageInStaging [1, 5] imagePlace 64 = true := by decide +kernel
  have right : seqHdrOk oneWordHeader = true := by decide +kernel
  have ranges : seqRangeOk oneWordHeader = true := by decide +kernel
  have whole : rangeIn imageInStaging [1, 5] imagePlace 80 = true := by decide +kernel
  have sound : faultIn imageInStaging imagePlace 80 = false := by decide +kernel
  have crc : crc32c (((frameBytes 0 headerFrame).take 80).drop 64) = BitVec.ofNat 32 (fieldAt oneWordHeader 24 4) := by decide +kernel
  have counts : 1 < fieldAt ((frameBytes 0 headerFrame).take 80) 16 4 := by decide +kernel
  have load := loads imageInStaging 7 {} loadImage executes dram reserved
  have row := sqLoadCmd_installs (s := imageInStaging) (src := {}) dram reserved
  have read : inSlot .maint 80 imageInStaging = imageRead := rfl
  simp only [place, header, size, read, imageRead_image] at load row
  obtain ⟨t, loaded, -, -, -, -, -, -, -, words, -⟩ := (load inside right ranges whole sound).1 crc
  have second := words 1 counts
  rw [exec_sqLoad executes, row inside right ranges whole sound crc, Host.Outcome.next.injEq] at loaded
  have installed : wordAt t 1 = 0 := by rw [← loaded, wordAt_answered, installed_second]
  rw [installed, imageRead_second] at second
  exact absurd second (by decide)
end

section
/-! SUPPORT. The release of a vector (R244, R251, R254, R255, R265): when it comes, the counters it moves, what its record and stop-on-fail leave
alone, the errors of a cloakroom read, and the statement on it. -/

namespace Sys2Proof.Machine

open Sys2Proof

/-! ### The counters of a released vector (R255, R265) -/

/-- What a release counts and records of the cellar: counters, retired sites, and the last vector released. -/
structure Tally where
  pins : Vector Nat 512
  sites : Vector Nat 64
  dev : Nat
  retired : W64
  relVec : Option Nat

def tally (c : CL) : Tally := ⟨c.pins, c.sites, c.dev, c.retired, c.relVec⟩

/-- A pin's fails counted, saturating (R255). -/
def tallyPin (c : Tally) (x : Pin × Nat) : Tally := { c with pins := vupd c.pins x.1 fun n => min 0xFFFFFFFF (n + x.2) }

/-- A failing vector counted for a site, saturating (R255). -/
def tallySite (c : Tally) (i : Fin 64) : Tally := { c with sites := vupd c.sites i (satSucc 0xFFFFFFFFFFFFFFFF) }

/-- The sites that count a vector with these fails (R255). -/
def failingSites (s : State) (l : List (Pin × Nat)) : List (Fin 64) := (List.finRange 64).filter fun i => siteFails s l i.val

/-- The counters after a vector with these fails (R255). -/
def tallyVector (s : State) (l : List (Pin × Nat)) (c : Tally) : Tally :=
  let d := (failingSites s l).foldl tallySite (l.foldl tallyPin c)
  { d with dev := if l = [] then d.dev else satSucc 0xFFFFFFFFFFFFFFFF d.dev }

section
variable {ι β : Type} {n : Nat} {key : ι → Fin n} {f : ι → β → β}

/-- Elements that no step of a fold names stay. -/
theorem foldl_vupd_other (l : List ι) (v : Vector β n) {i : Fin n} (other : ∀ x ∈ l, key x ≠ i) :
    (l.foldl (fun w x => vupd w (key x) (f x)) v)[i] = v[i] := by
  induction l generalizing v with
  | nil => rfl
  | cons x l ih =>
    rw [List.foldl_cons, ih _ fun y mem => other y (List.mem_cons_of_mem x mem), vupd_other _ _ (other x List.mem_cons_self)]

/-- An element that one step of a fold names is changed by that step. -/
theorem foldl_vupd_mem {l : List ι} (once : (l.map key).Nodup) (v : Vector β n) {x : ι} (mem : x ∈ l) :
    (l.foldl (fun w x => vupd w (key x) (f x)) v)[key x] = f x v[key x] := by
  induction l generalizing v with
  | nil => exact absurd mem List.not_mem_nil
  | cons y l ih =>
    obtain ⟨fresh, once⟩ := List.nodup_cons.mp once
    have named : ∀ z ∈ l, key z ≠ key y := fun z hz same => fresh (same ▸ List.mem_map_of_mem hz)
    rw [List.foldl_cons]
    obtain rfl | later := List.mem_cons.mp mem
    · rw [foldl_vupd_other l _ named, vupd_self]
    · rw [ih once _ later, vupd_other _ _ (named x later).symm]

end

theorem foldl_tallyPin (l : List (Pin × Nat)) (c : Tally) :
    l.foldl tallyPin c = { c with pins := l.foldl (fun w x => vupd w x.1 fun n => min 0xFFFFFFFF (n + x.2)) c.pins } := by
  induction l generalizing c with
  | nil => rfl
  | cons x l ih => rw [List.foldl_cons, ih]; rfl

theorem foldl_tallySite (l : List (Fin 64)) (c : Tally) :
    l.foldl tallySite c = { c with sites := l.foldl (fun w i => vupd w i (satSucc 0xFFFFFFFFFFFFFFFF)) c.sites } := by
  induction l generalizing c with
  | nil => rfl
  | cons i l ih => rw [List.foldl_cons, ih]; rfl

section
variable (s : State) (c : Tally)

theorem tallyVector_pins (l : List (Pin × Nat)) :
    (tallyVector s l c).pins = l.foldl (fun w x => vupd w x.1 fun n => min 0xFFFFFFFF (n + x.2)) c.pins := by
  simp only [tallyVector, foldl_tallySite, foldl_tallyPin]

theorem tallyVector_pin_other {l : List (Pin × Nat)} {p : Pin} (passes : ∀ x ∈ l, x.1 ≠ p) : (tallyVector s l c).pins[p] = c.pins[p] := by
  rw [tallyVector_pins, foldl_vupd_other (key := Prod.fst) (f := fun x n => min 0xFFFFFFFF (n + x.2)) l _ passes]

theorem tallyVector_pin_fails {l : List (Pin × Nat)} (once : (l.map Prod.fst).Nodup) {p : Pin} {n : Nat} (fails : (p, n) ∈ l) :
    (tallyVector s l c).pins[p] = min 0xFFFFFFFF (c.pins[p] + n) := by
  rw [tallyVector_pins]
  exact foldl_vupd_mem (key := Prod.fst) (f := fun x n => min 0xFFFFFFFF (n + x.2)) once _ fails

theorem tallyVector_site (l : List (Pin × Nat)) (i : Fin 64) : (tallyVector s l c).sites[i]
    = if siteFails s l i.val then min 0xFFFFFFFFFFFFFFFF (c.sites[i] + 1) else c.sites[i] := by
  have sites : (tallyVector s l c).sites = (failingSites s l).foldl (fun w i => vupd w i (satSucc 0xFFFFFFFFFFFFFFFF)) c.sites := by
    simp only [tallyVector, foldl_tallySite, foldl_tallyPin]
  have mem : i ∈ failingSites s l ↔ siteFails s l i.val = true := by simp [failingSites]
  have once : ((failingSites s l).map id).Nodup := by
    rw [List.map_id]
    exact (List.nodup_finRange 64).filter _
  rw [sites]
  split
  · exact foldl_vupd_mem (key := id) (f := fun _ => satSucc 0xFFFFFFFFFFFFFFFF) once _ (mem.mpr ‹_›)
  · exact foldl_vupd_other (key := id) (f := fun _ => satSucc 0xFFFFFFFFFFFFFFFF) _ _ fun j hj same => absurd (mem.mp (same ▸ hj)) ‹_›

theorem tallyVector_dev (l : List (Pin × Nat)) :
    (tallyVector s l c).dev = if l = [] then c.dev else min 0xFFFFFFFFFFFFFFFF (c.dev + 1) := by
  simp only [tallyVector, foldl_tallySite, foldl_tallyPin, satSucc]

theorem tallyVector_retired (l : List (Pin × Nat)) : (tallyVector s l c).retired = c.retired := by
  simp only [tallyVector, foldl_tallySite, foldl_tallyPin]

end

/-- A vector's fails name each pin once (R254). -/
theorem vecFails_once (s : State) (ret : W64) (v : VRec) : ((vecFails s ret v).map Prod.fst).Nodup := by
  have pins : ((vecFails s ret v).map Prod.fst).Sublist (usedPins s) := by
    rw [vecFails]
    induction usedPins s with
    | nil => exact .slnil
    | cons p l ih =>
      rw [List.filterMap_cons]
      split
      · exact ih.cons p
      · rename_i x found
        have same : x.1 = p := by
          split at found
          · cases found
          · split at found <;> cases found
            rfl
        rw [List.map_cons, same]
        exact ih.cons_cons p
  exact pins.nodup ((List.nodup_finRange 512).filter _)

/-! ### What goes on beside the counters -/

/-- What records, stop-on-fail and containment leave of a release: its counters, the pin table, device DRAM; no vector comes into the cloakroom. -/
structure Beside (s t : State) : Prop where
  tally : tally t.cl = tally s.cl
  table : t.pt = s.pt
  dram : t.pm.dram = s.pm.dram
  sp : SpShrinks s.sp t.sp

section
variable {s t u : State}

theorem Beside.refl (s : State) : Beside s s := ⟨rfl, rfl, rfl, .refl _⟩

theorem Beside.trans (h : Beside s t) (k : Beside t u) : Beside s u :=
  ⟨k.tally.trans h.tally, k.table.trans h.table, k.dram.trans h.dram, h.sp.trans k.sp⟩

theorem Beside.of_keeps {l : List Part} (h : Keeps l s t) (cl : .cl ∉ l) (pt : .pt ∉ l) (pm : .pm ∉ l) (sp : .sp ∉ l) : Beside s t :=
  ⟨congrArg _ (h .cl cl), h .pt pt, congrArg PM.dram (h .pm pm), .of_eq (h .sp sp)⟩

theorem Beside.ite {c : Prop} [Decidable c] (h : Beside s t) (k : Beside s u) : Beside s (if c then t else u) := by
  split
  · exact h
  · exact k

theorem Beside.issue (h : Beside s t) (code : Nat) (items : List Item) : Beside s (issue code items t) :=
  h.trans (.of_keeps (issue_keeps code items t) (by decide) (by decide) (by decide) (by decide))

theorem Beside.issueOnce (h : Beside s t) (code : Nat) (items : List Item) : Beside s (issueOnce code items t) :=
  h.trans (.of_keeps (issueOnce_keeps code items t) (by decide) (by decide) (by decide) (by decide))

theorem Beside.contain (h : Beside s t) (cause : Nat) : Beside s (contain cause t) :=
  have ⟨_, _, table, cl, _⟩ := contain_frame cause t
  h.trans ⟨congrArg _ cl, table, contain_dram cause t, contain_shrinks cause t⟩

end

section
variable (s : State)

theorem setSq_beside (q : SQ) : Beside s { s with sq := q } :=
  .of_keeps (setSq_keeps q s) (by decide) (by decide) (by decide) (by decide)

/-- A change of the cellar's other fields. -/
theorem setCl_beside {c : CL} (same : tally c = tally s.cl := by rfl) : Beside s { s with cl := c } := ⟨same, rfl, rfl, .refl _⟩

theorem keepCounts_beside : Beside s (keepCounts s) := .ite (.refl s) (setCl_beside s)

theorem saySat_beside (wide : Bool) (alt v : Nat) : Beside s (saySat wide alt v s) := .issueOnce (setCl_beside s) _ _

/-! ### The counters move -/

theorem countPin_tally (x : Pin × Nat) : tally (countPin s x).cl = tallyPin (tally s.cl) x := by
  unfold countPin
  dsimp only
  split
  · exact (saySat_beside _ _ _ _).tally
  · rfl

theorem countSite_tally (i : Fin 64) : tally (countSite s i).cl = tallySite (tally s.cl) i := by
  unfold countSite
  dsimp only
  split
  · exact (saySat_beside _ _ _ _).tally
  · rfl

theorem countDev_tally : tally (countDev s).cl = { tally s.cl with dev := satSucc 0xFFFFFFFFFFFFFFFF s.cl.dev } := by
  unfold countDev
  dsimp only
  split
  · exact (saySat_beside _ _ _ _).tally
  · rfl

/-- The counters of a vector are those of its fails (R255). -/
theorem countVector_tally (l : List (Pin × Nat)) : tally (countVector l s).cl = tallyVector s l (tally s.cl) := by
  unfold countVector
  have pins : tally (l.foldl countPin s).cl = l.foldl tallyPin (tally s.cl) :=
    (List.foldl_hom (fun t : State => tally t.cl) fun t x => (countPin_tally t x).symm).symm
  cases l with
  | nil => simp [tallyVector, failingSites, siteFails]
  | cons x l =>
    have sites : ∀ (k : List (Fin 64)) (t : State), tally (k.foldl countSite t).cl = k.foldl tallySite (tally t.cl) := fun k t =>
      (List.foldl_hom (fun t : State => tally t.cl) fun t i => (countSite_tally t i).symm).symm
    have dev : ∀ t : State, t.cl.dev = (tally t.cl).dev := fun _ => rfl
    rw [if_neg (by simp), countDev_tally, dev, sites, pins]
    rfl

theorem countVector_frame (l : List (Pin × Nat)) :
    (countVector l s).pt = s.pt ∧ (countVector l s).pm = s.pm ∧ (countVector l s).sp = s.sp := by
  and_intros <;> simp [countVector, countPin, countSite, countDev]

/-! ### Records (R258 to R262) -/

theorem storeRecord_beside (bytes : List Byte) (rseq idx : Nat) : Beside s (storeRecord bytes rseq idx s) :=
  .ite (setCl_beside s) (.ite (setCl_beside s)
    (.ite (.contain (.issue (.refl s) _ _) _) (.issueOnce (setCl_beside s) _ _)))

theorem logVector_beside (v : VRec) (l : List (Pin × Nat)) : Beside s (logVector v l s) := by
  unfold logVector
  refine .ite (.refl s) (.trans ?_ (storeRecord_beside _ _ _ _))
  exact .ite (.issue (setCl_beside s) _ _) (setCl_beside s)

/-! ### Stop-on-fail (R266, R267) -/

theorem stopVector_beside (cause code : Nat) : Beside s (stopVector cause code s) := by
  obtain ⟨-, -, -, -, pt, cl, -⟩ := stopVector_frame cause code s
  exact ⟨congrArg _ cl, pt, endEpisodes_dram s, stopVector_shrinks cause code s⟩

theorem dropProvisional_beside : Beside s (dropProvisional s) := by
  obtain ⟨-, -, -, -, pt, pm, cl, -⟩ := dropProvisional_frame s
  exact ⟨congrArg _ cl, pt, congrArg PM.dram pm, dropProvisional_shrinks s⟩

theorem tiuCloseAll_beside : Beside s (tiuCloseAll s) := by
  obtain ⟨-, -, -, -, pt, pm, -, sp, cl, -⟩ := tiuCloseAll_frame s
  exact ⟨congrArg _ cl, pt, congrArg PM.dram pm, .of_eq sp⟩

theorem abortRun_beside : Beside s (abortRun s) :=
  ((dropProvisional_beside s).trans (tiuCloseAll_beside _)).trans (setSq_beside _ _)

theorem takeStop_beside : Beside s (takeStop s) :=
  .ite ((stopVector_beside s 3 0).trans (abortRun_beside _)) (stopVector_beside s 2 0)

/-- The end of a run discards the results left in the cloakroom (R229). -/
theorem finishRun_shrinks (cause code : Nat) : SpShrinks s.sp (finishRun cause code s).sp := by
  have gates : ((List.finRange 64).foldl endGate s).sp = s.sp := foldl_sp _ (fun t g => by simp [endGate]) _ s
  have closes : (fun (t : State) (g : Glove) => if t.ti.units[g].gate = 0 then tiuClose g t else t) = endGate := rfl
  rw [finishRun, (reportIdle_frame _).2.2.2.2.2.2.2.1, closes]
  dsimp only
  rw [(issue_frame _ _ _).2.2.2.2.2.2.2.1, gates]
  exact ⟨rfl, rfl, fun x h => absurd h List.not_mem_nil, fun v h => dropResults_conds h⟩

theorem finishRun_beside (cause code : Nat) : Beside s (finishRun cause code s) := by
  obtain ⟨-, -, -, -, pt, pm, cl, -⟩ := finishRun_frame cause code s
  exact ⟨congrArg _ cl, pt, congrArg PM.dram pm, finishRun_shrinks s cause code⟩

theorem stopHere_beside : Beside s (stopHere s) := by
  unfold stopHere
  split
  · exact .refl s
  · exact .ite (takeStop_beside s) (.refl s)
  · exact .ite ((abortRun_beside s).trans (finishRun_beside _ _ _)) (.refl s)
  · exact .ite ((tiuCloseAll_beside s).trans (finishRun_beside _ _ _)) (finishRun_beside s 2 0)

theorem stopNow_beside : Beside s (stopNow s) := .ite (stopHere_beside s) (.refl s)

theorem haltNow_beside (at_ : Nat) : Beside s (haltNow at_ s) := by
  unfold haltNow
  split
  · exact .refl s
  · exact .refl s
  · exact .ite (.refl s) ((setSq_beside s _).trans (stopNow_beside _))

theorem haltReq_beside (kind : Nat) : Beside s (haltReq kind s) := by
  obtain ⟨-, -, -, -, pt, pm, -, sp, cl, -⟩ := haltReq_frame kind s
  exact ⟨congrArg _ cl, pt, congrArg PM.dram pm, .of_eq sp⟩

theorem burstDown_beside (b : Burst) : Beside s (burstDown b s) := by
  obtain ⟨-, -, -, -, pt, pm, -, sp, cl, -⟩ := burstDown_frame b s
  exact ⟨congrArg _ cl, pt, congrArg PM.dram pm, .of_eq sp⟩

/-- A stop-on-fail of the ensemble is a halt, kind 0 (R355). -/
theorem haltEnsemble_beside (member : Nat) : Beside s (haltEnsemble 0 member s) :=
  .ite ((burstDown_beside s _).trans (haltNow_beside _ _)) (haltReq_beside s 0)

theorem sofStop_beside : Beside s (sofStop s) :=
  .ite (.ite (haltEnsemble_beside s _) (haltReq_beside s 2)) (.ite (.refl s) (setSq_beside s _))

theorem checkSof_beside (idx : Nat) : Beside s (checkSof idx s) :=
  .ite (.ite (setCl_beside s) ((Beside.issue (setCl_beside s) _ _).trans (sofStop_beside _))) (.refl s)

end

/-! ### The release (R244, R265) -/

/-- What the release of a vector with the fails `l` leaves: they are counted, its sites retired, its index recorded; the pin table and device DRAM
stay. -/
structure Released (v : VRec) (l : List (Pin × Nat)) (s t : State) : Prop where
  passes : ∀ p : Pin, (∀ x ∈ l, x.1 ≠ p) → t.cl.pins[p] = s.cl.pins[p]
  fails : ∀ (p : Pin) (n : Nat), (p, n) ∈ l → t.cl.pins[p] = min 0xFFFFFFFF (s.cl.pins[p] + n)
  site : ∀ i : Fin 64, t.cl.sites[i] = if siteFails s l i.val then min 0xFFFFFFFFFFFFFFFF (s.cl.sites[i] + 1) else s.cl.sites[i]
  dev : t.cl.dev = if l = [] then s.cl.dev else min 0xFFFFFFFFFFFFFFFF (s.cl.dev + 1)
  retired : t.cl.retired = s.cl.retired ||| (v.reqs.sites &&& validSites s)
  relVec : t.cl.relVec = some v.idx
  table : t.pt = s.pt
  dram : t.pm.dram = s.pm.dram

/-- The sites that count a vector are read from the pin table alone. -/
theorem tallyVector_of_table {s t : State} (same : t.pt = s.pt) : tallyVector t = tallyVector s := by
  have sites : failingSites t = failingSites s := by
    unfold failingSites siteFails noSite siteOf modeWord roomAt
    rw [same]
  unfold tallyVector
  rw [sites]

theorem validSites_of_table {s t : State} (same : t.pt = s.pt) : validSites t = validSites s := by
  unfold validSites siteValid siteW0 roomAt
  rw [same]

/-- The fails of a vector are counted, and nothing else of its release has come: the state before its sites retire. -/
structure Counted (l : List (Pin × Nat)) (s t : State) : Prop where
  counts : tally t.cl = tallyVector s l (tally s.cl)
  table : t.pt = s.pt
  dram : t.pm.dram = s.pm.dram
  sp : SpShrinks s.sp t.sp

theorem countVector_counted (v : VRec) (l : List (Pin × Nat)) (s : State) : Counted l s (logVector v l (countVector l (keepCounts s))) := by
  have kept := keepCounts_beside s
  have logged := logVector_beside (countVector l (keepCounts s)) v l
  have counts := countVector_tally (keepCounts s) l
  obtain ⟨table, pm, sp⟩ := countVector_frame (keepCounts s) l
  rw [kept.tally, tallyVector_of_table kept.table] at counts
  exact ⟨logged.tally.trans counts, logged.table.trans (table.trans kept.table),
    logged.dram.trans ((congrArg PM.dram pm).trans kept.dram), (kept.sp.trans (.of_eq sp)).trans logged.sp⟩

/-- The sites retire and the index is recorded behind the counting; stop-on-fail changes none of it (R265, R266). -/
theorem Counted.released {l : List (Pin × Nat)} {s a t : State} {v : VRec} (h : Counted l s a) (once : (l.map Prod.fst).Nodup)
    (stops : Beside { retire v.reqs.sites a with cl := { (retire v.reqs.sites a).cl with relVec := some v.idx } } t) : Released v l s t := by
  have pins : t.cl.pins = a.cl.pins := congrArg Tally.pins stops.tally
  have sites : t.cl.sites = a.cl.sites := congrArg Tally.sites stops.tally
  have pins' : a.cl.pins = (tallyVector s l (tally s.cl)).pins := congrArg Tally.pins h.counts
  have sites' : a.cl.sites = (tallyVector s l (tally s.cl)).sites := congrArg Tally.sites h.counts
  have retired : a.cl.retired = s.cl.retired := (congrArg Tally.retired h.counts).trans (tallyVector_retired s (tally s.cl) l)
  exact {
    passes := fun p other => by rw [pins, pins']; exact tallyVector_pin_other s (tally s.cl) other
    fails := fun p n mem => by rw [pins, pins']; exact tallyVector_pin_fails s (tally s.cl) once mem
    site := fun i => by rw [sites, sites']; exact tallyVector_site s (tally s.cl) l i
    dev := (congrArg Tally.dev stops.tally).trans ((congrArg Tally.dev h.counts).trans (tallyVector_dev s (tally s.cl) l))
    retired := by rw [← retired, ← validSites_of_table h.table]; exact congrArg Tally.retired stops.tally
    relVec := congrArg Tally.relVec stops.tally
    table := stops.table.trans h.table
    dram := stops.dram.trans h.dram }

/-- A release with complete compares (R244): it takes no free value. -/
theorem releaseVector_released {v : VRec} {s : State} (complete : anyPending s v = false) :
    Released v (vecFails s s.cl.retired v) s (releaseVector v s) ∧ SpShrinks s.sp (releaseVector v s).sp := by
  have counted := countVector_counted v (vecFails s s.cl.retired v) s
  unfold releaseVector
  simp only [complete, Bool.false_eq_true, if_false]
  generalize logVector v _ _ = a at counted
  have stops := checkSof_beside { retire v.reqs.sites a with cl := { (retire v.reqs.sites a).cl with relVec := some v.idx } } v.idx
  exact ⟨counted.released (vecFails_once s _ v) stops, counted.sp.trans stops.sp⟩

/-- A release counts by the pin table, whatever stands in the cloakroom. -/
theorem Released.of_setSp {v : VRec} {l : List (Pin × Nat)} {s t : State} {p : SP} (h : Released v l { s with sp := p } t) :
    Released v l s t :=
  ⟨h.passes, h.fails, h.site, h.dev, h.retired, h.relVec, h.table, h.dram⟩

theorem vecFails_setSp (s : State) (p : SP) (ret : W64) (v : VRec) : vecFails { s with sp := p } ret v = vecFails s ret v := rfl

theorem countRelease_eq (s : State) : ∃ p : SP, countRelease s = { s with sp := p } ∧ p.inflight = s.sp.inflight := ⟨_, rfl, rfl⟩

theorem letGo_eq (v : VRec) (s : State) : ∃ p : SP, letGo v s = { s with sp := p } ∧ p.inflight = s.sp.inflight.erase v := ⟨_, rfl, rfl⟩

/-- The only vector with complete compares leaves the cloakroom empty (R242, R244). -/
theorem release_only {v : VRec} {s : State} (only : s.sp.inflight = [v]) (complete : anyPending s v = false) :
    Released v (vecFails s s.cl.retired v) s (releaseVector v (letGo v (countRelease s)))
      ∧ (releaseVector v (letGo v (countRelease s))).sp.inflight = [] := by
  obtain ⟨p, counted, same⟩ := countRelease_eq s
  obtain ⟨q, gone, erased⟩ := letGo_eq v (countRelease s)
  have empty : q.inflight = [] := by rw [erased, counted, same, only, List.erase_cons_head]
  have complete' : anyPending { s with sp := q } v = false := complete
  have released : letGo v (countRelease s) = { s with sp := q } := by rw [gone, counted]
  rw [released]
  obtain ⟨out, shrinks⟩ := releaseVector_released complete'
  rw [vecFails_setSp] at out
  refine ⟨out.of_setSp, List.eq_nil_iff_forall_not_mem.mpr fun w mem => ?_⟩
  obtain ⟨x, left, -⟩ := shrinks.inflight w mem
  rw [empty] at left
  exact List.not_mem_nil left

/-- The cycle in which the oldest vector may be released: its results are available, and there is room (R244). -/
def releaseCycle (v : VRec) (s : State) : State := nextRelease (toEpoch (availAt s v) s)

theorem releaseCycle_frame (v : VRec) (s : State) :
    (releaseCycle v s).sq = s.sq ∧ (releaseCycle v s).sp = s.sp ∧ (releaseCycle v s).cl = s.cl := by
  simp [releaseCycle, nextRelease]

theorem releaseCycle_contained (v : VRec) (s : State) : (releaseCycle v s).mg.contained = s.mg.contained := by
  have same : logless (releaseCycle v s) = logless s := by simp [releaseCycle, nextRelease]
  exact mg_of_logless (f := MG.contained) (fun _ => rfl) same

section
variable {s : State} {v : VRec}

/-- A vector with a condition left is not released; the reads find what they find (R244, R251). -/
theorem exec_commitRelease_provisional (only : s.sp.inflight = [v]) (holds : holdsResults v = true) (conds : v.conds ≠ [])
    (finds : List (Nat × Ecc)) : exec (.commitRelease finds) s = .next (cloakFinds finds s) := by
  show execCommitRelease finds s = _
  simp [execCommitRelease, only, holds, conds]

/-- The reads of the release cycle come before its releases (R251). -/
theorem exec_commitRelease_due (only : s.sp.inflight = [v]) (holds : holdsResults v = true) (conds : v.conds = [])
    (finds : List (Nat × Ecc)) : exec (.commitRelease finds) s =
      let t := cloakFinds finds (releaseCycle v s)
      .next (releaseSome t.sp.inflight.length (releaseRoom t) t) := by
  show execCommitRelease finds s = _
  simp [execCommitRelease, only, holds, conds, releaseCycle]

/-- The only vector is released where its results are in and there is room (R244). -/
theorem releaseSome_only (only : s.sp.inflight = [v]) (holds : holdsResults v = true) (conds : v.conds = []) (vector : v.isWait = false)
    {n : Nat} (room : 1 ≤ n) (available : availAt s v ≤ ext s) :
    releaseSome 1 n s = releaseVector v (letGo v (countRelease s)) := by
  have some_ : n ≠ 0 := Nat.ne_of_gt room
  simp [releaseSome, only, holds, conds, vector, some_, available]

/-- Nothing is released where no vector holds results. -/
theorem releaseSome_dead (dead : ∀ w ∈ s.sp.inflight, w.dead = true) (fuel n : Nat) : releaseSome fuel n s = s := by
  cases fuel with
  | zero => rfl
  | succ fuel =>
    have none_ : s.sp.inflight.find? holdsResults = none := List.find?_eq_none.mpr fun w mem => by simp [holdsResults, dead w mem]
    simp [releaseSome, none_]

/-! ### Errors of cloakroom reads (R251) -/

theorem cloakFinds_only (only : s.sp.inflight = [v]) (holds : holdsResults v = true) (ecc : Ecc) :
    cloakFinds [(v.n, ecc)] s = cloakEcc ecc v s := by
  simp [cloakFinds, only, holds]

/-- What the statement says of an uncorrectable error of a read in a run. -/
structure CloakLost (s t : State) : Prop where
  contained : t.mg.contained = true
  flag : t.sp.cloakUe = true
  cl : t.cl = s.cl
  dram : t.pm.dram = s.pm.dram
  dead : ∀ w ∈ t.sp.inflight, w.dead = true

end

theorem endEpisodes_cloakUe (s : State) : (endEpisodes s).sp.cloakUe = s.sp.cloakUe := by
  have bubble : ∀ t, (endBubble t).sp.cloakUe = t.sp.cloakUe := fun t => by
    simp only [endBubble]; split <;> simp
  have limit : ∀ t, (endLimit t).sp.cloakUe = t.sp.cloakUe := fun t => by
    simp only [endLimit]; split <;> simp
  rw [endEpisodes, limit, bubble, (endDstall_frame _).2.2.2.2.2.2.1, (endStarve_frame _).2.2.2.2.2.2.1]

/-- The end of a run by containment leaves the cloakroom's flag (R412). -/
theorem containRun_cloakUe (s : State) : (containRun s).sp.cloakUe = s.sp.cloakUe := by
  cases run : running s
  · rw [containRun_idle run]
  · have sp : (retracted (stopVector 5 0 s)).sp = (stopVector 5 0 s).sp := retracted_keeps _ .sp (by decide)
    rw [containRun_running run]
    dsimp only
    rw [dropProvisional_eq, sp]
    exact endEpisodes_cloakUe s

/-- An uncorrectable error contains the device, which discards every result of the run (R251, R412). -/
theorem cloakEcc_uncorrectable {s : State} (v : VRec) (run : running s = true) (free : s.mg.contained = false) :
    CloakLost s (cloakEcc .uncorrectable v s) := by
  have flagged := issue_frame 0x0806 [iv v.idx] { s with sp := { s.sp with cloakUe := true, fresh := freshen s 8 s.sp.fresh } }
  have free' := (issue_contained 0x0806 [iv v.idx] { s with sp := { s.sp with cloakUe := true, fresh := freshen s 8 s.sp.fresh } }).trans free
  unfold cloakEcc
  dsimp only
  generalize issue 0x0806 _ _ = a at flagged free'
  obtain ⟨-, -, -, -, -, pm, sq, sp, cl, -⟩ := flagged
  have run' : running a = true := by rw [running, sq]; exact run
  have safe : (contain 0x09 a).sp = (containRun a).sp := (contain_keeps 0x09 free' .sp (by decide)).trans (madeSafe_frame a).2.1
  exact {
    contained := contain_contained 0x09 a
    flag := by rw [safe, containRun_cloakUe, sp]
    cl := (contain_frame 0x09 a).2.2.2.1.trans cl
    dram := (contain_dram 0x09 a).trans (congrArg PM.dram pm)
    dead := by rw [safe]; exact (containRun_ends run').dead }

end Sys2Proof.Machine

open Sys2Proof Sys2Proof.Machine

/-- Settles O23: a due release is `release_only`, whose counters are `tallyVector`'s; a vector with a condition left meets only what its
reads find; an uncorrectable find leaves no results to release (`cloakEcc_uncorrectable`). -/
theorem vectorReleaseCounts : Obligations.vectorReleaseCounts := by
  unfold Obligations.vectorReleaseCounts
  intro s v u fails only holds
  obtain ⟨sq, sp, cl⟩ : u.sq = s.sq ∧ u.sp = s.sp ∧ u.cl = s.cl := releaseCycle_frame v s
  have only' : u.sp.inflight = [v] := (congrArg SP.inflight sp).trans only
  refine ⟨fun conds vector room available complete => ?released, fun conds => exec_commitRelease_provisional only holds conds [],
    fun conds => ?corrected, fun run free => ?uncorrectable⟩
  case released =>
    have row : exec (.commitRelease []) s = .next (releaseVector v (letGo v (countRelease u))) := by
      rw [exec_commitRelease_due only holds conds []]
      show Host.Outcome.next (releaseSome u.sp.inflight.length (releaseRoom u) u) = _
      rw [only', List.length_singleton, releaseSome_only only' holds conds vector room available]
    obtain ⟨out, empty⟩ := release_only only' complete
    exact ⟨_, row, by rw [empty]; exact List.not_mem_nil, out.passes, out.fails, out.site, out.dev,
      out.retired, out.relVec, out.dram, out.table⟩
  case corrected =>
    refine ⟨_, (exec_commitRelease_provisional only holds conds _).trans (congrArg _ (cloakFinds_only only holds .corrected)), ?_, ?_, ?_⟩
    · simp [cloakEcc, satSucc]
    · simp [cloakEcc]
    · exact ((setSqSp_keeps s.sq _ s).mono (by simp)).trans ((issueOnce_keeps _ _ _).mono (by simp))
  case uncorrectable =>
    by_cases conds : v.conds = []
    · have run' : running u = true := by rw [running, sq]; exact run
      obtain ⟨contained, flag, same, dram, dead⟩ := cloakEcc_uncorrectable v run' ((releaseCycle_contained v s).trans free)
      have row : exec (.commitRelease [(v.n, .uncorrectable)]) s = .next (cloakEcc .uncorrectable v u) := by
        rw [exec_commitRelease_due only holds conds]
        show Host.Outcome.next (releaseSome _ _ (cloakFinds [(v.n, .uncorrectable)] u)) = _
        rw [cloakFinds_only only' holds, releaseSome_dead dead]
      exact ⟨_, row, contained, flag, same, by rw [if_pos conds]; exact dram⟩
    · obtain ⟨contained, flag, same, dram, -⟩ := cloakEcc_uncorrectable v run free
      have row := (exec_commitRelease_provisional only holds conds _).trans (congrArg _ (cloakFinds_only only holds .uncorrectable))
      exact ⟨_, row, contained, flag, same.trans cl.symm, by rw [if_neg conds]; exact dram⟩
end

section
/-! SUPPORT. The cellar's rows (R257, R260 to R263, R269): where a granule goes, the end of the logging, the read-back of the oldest record, the
snapshot of the counters, `CL_CONFIG` and its completion; and the statement on them. -/

namespace Sys2Proof.Machine

open Sys2Proof

/-- A change of the cellar is one of it only. -/
theorem setCl_keeps (c : CL) (s : State) : Keeps [.cl] s { s with cl := c } := by
  intro p hp
  cases p <;> first | exact absurd (by decide) hp | rfl

theorem inSlot_cl (c : SlotClass) (n : Nat) (s : State) : (inSlot c n s).cl = s.cl := inSlot_keeps c n s .cl (by decide)

/-! ### A granule of the front's first record (R260, R263) -/

/-- The cellar after a granule of its first record has gone: `CL_PROD` passes the record with its last one (R263). -/
def granuleGone (bytes : List Byte) (c : CL) : CL :=
  if c.headOut + 1 < bytes.length / 64 then { c with headOut := c.headOut + 1 }
  else { c with headOut := 0, front := c.front.tail, prod := c.prod + bytes.length / 64 }

/-- The address that the next granule of the cellar goes to (R260). -/
def granulePlace (base g : Nat) (c : CL) : Nat := base + (c.prod + c.headOut) % g * 64

theorem writeGranule_eq (base g : Nat) (bytes : List Byte) (s : State) : writeGranule base g bytes s =
    { dramWrite (granulePlace base g s.cl) (slice bytes (64 * s.cl.headOut) 64) (inSlot .cellar 64 s) with cl := granuleGone bytes s.cl } := by
  have cl (a : Nat) (l : List Byte) : (dramWrite a l (inSlot .cellar 64 s)).cl = s.cl :=
    (dramWrite_keeps a l _ .cl (by decide)).trans (inSlot_cl _ _ s)
  simp only [writeGranule, granuleGone, granulePlace, inSlot_cl, cl]
  split <;> rfl

/-- What the statement says of a granule of a record that is written from `s` in the cellar slot of `u`. -/
structure GranuleWritten (place : Nat) (bytes : List Byte) (s u t : State) : Prop where
  read : dramRead t place 64 = slice bytes (64 * s.cl.headOut) 64
  others : DramSameOutside place 64 u t
  cl : t.cl = granuleGone bytes s.cl
  keeps : Keeps [.pm, .cl] u t

/-- A granule inside its record is 64 bytes long. -/
theorem granule_length {bytes : List Byte} {k : Nat} (inside : k < bytes.length / 64) : (slice bytes (64 * k) 64).length = 64 := by
  simp only [slice, List.length_take, List.length_drop]
  omega

theorem writeGranule_written (base g : Nat) {bytes : List Byte} {s : State} (wf : DramWf s) (power : s.mg.pstate ≤ 2)
    (inside : s.cl.headOut < bytes.length / 64) :
    GranuleWritten (granulePlace base g s.cl) bytes s (inSlot .cellar 64 s) (writeGranule base g bytes s) := by
  have on : dramOn (inSlot .cellar 64 s) = true := (dramOn_of_logless (inSlot_logless _ _ s)).trans (decide_eq_true power)
  have wf' : DramWf (inSlot .cellar 64 s) := wf.inSlot .cellar 64
  have long := granule_length inside
  rw [writeGranule_eq]
  generalize inSlot .cellar 64 s = u at on wf'
  exact {
    read := by
      have read := dramRead_dramWrite on wf' (granulePlace base g s.cl) (slice bytes (64 * s.cl.headOut) 64)
      rwa [long] at read
    others := fun x out => dramByte_dramWrite_other wf' _ _ x (by rwa [long])
    cl := rfl
    keeps := ((dramWrite_keeps _ _ u).mono (by simp)).trans ((setCl_keeps _ _).mono (by simp)) }

/-! ### The end of the logging (R262) -/

/-- The cellar once logging has stopped: every record of the front is counted lost. -/
def logHalted (c : CL) : CL :=
  { c with halted := true, front := [], headOut := 0, readNeed := false, lostFull := min 0xFFFFFFFF (c.lostFull + c.front.length) }

theorem haltLog_cl (s : State) : (haltLog s).cl = logHalted s.cl := rfl

theorem haltLog_keeps (s : State) : Keeps [.cl] s (haltLog s) := setCl_keeps _ s

theorem issue_cl (code : Nat) (items : List Item) (s : State) : (issue code items s).cl = s.cl := issue_keeps code items s .cl (by decide)

/-- A change of the cellar with its event. -/
theorem setCl_issue_keeps (code : Nat) (items : List Item) (c : CL) (s : State) :
    Keeps [.cl, .hi, .mg] s (issue code items { s with cl := c }) :=
  ((setCl_keeps c s).mono (by simp)).trans ((issue_keeps code items _).mono (by simp))

/-! ### The branches of a granule (R260, R262) -/

section
variable {s : State} {bytes : List Byte} {rseq idx base g : Nat} {more : List (List Byte × Nat × Nat)}
  (front : s.cl.front = (bytes, rseq, idx) :: more) (region : cellarRegion s = some (base, g))
include front region

/-- A record that has begun, or that fits, goes on. -/
theorem granule_goes (fits : s.cl.headOut ≠ 0 ∨ s.cl.fullAct = false ∧ s.cl.prod + bytes.length / 64 ≤ g
    ∨ s.cl.fullAct = true ∧ s.cl.prod + bytes.length / 64 - s.cl.oldest ≤ g) : granule s = writeGranule base g bytes s := by
  simp only [granule, front, region]
  by_cases begun : s.cl.headOut = 0
  · rw [if_neg (not_not.mpr begun)]
    obtain begun' | ⟨stop, fits⟩ | ⟨wrap, fits⟩ := fits
    · exact absurd begun begun'
    · rw [stop, if_neg Bool.false_ne_true, if_neg (Nat.not_lt.mpr fits)]
    · rw [wrap, if_pos rfl, if_neg (Nat.not_lt.mpr fits)]
  · rw [if_pos begun]

/-- In stop mode a record that does not fit ends the logging. -/
theorem granule_stops (whole : s.cl.headOut = 0) (stop : s.cl.fullAct = false) (exceeds : g < s.cl.prod + bytes.length / 64) :
    granule s = haltLog (issue 0x0902 [i8 rseq, iv idx] { s with cl := { s.cl with full := true } }) := by
  simp only [granule, front, region]
  rw [if_neg (not_not.mpr whole), stop, if_neg Bool.false_ne_true, if_pos exceeds]

/-- In wrap mode a record that does not fit waits for the read-back of the oldest one. -/
theorem granule_waits (whole : s.cl.headOut = 0) (wrap : s.cl.fullAct = true) (exceeds : g < s.cl.prod + bytes.length / 64 - s.cl.oldest) :
    granule s = { s with cl := { s.cl with readNeed := true } } := by
  simp only [granule, front, region]
  rw [if_neg (not_not.mpr whole), wrap, if_pos rfl, if_pos exceeds]

end

theorem exec_cellarGranuleWrite {s t : State} (row : granule s = t) : exec .cellarGranuleWrite s = .next t :=
  congrArg Host.Outcome.next row

/-! ### The read-back of the oldest record (R262) -/

theorem exec_cellarReadbackComplete {s : State} {base g : Nat} (ecc : Ecc) (region : cellarRegion s = some (base, g))
    (waits : s.cl.readNeed = true) : exec (.cellarReadbackComplete ecc) s = .next (readback ecc base g s) := by
  show Host.Outcome.next (match cellarRegion s with | some (base, g) => _ | none => s) = _
  rw [region]
  exact congrArg Host.Outcome.next (if_pos waits)

/-- What the statement says of a read-back that finds `n` granules: `CL_OLDEST`, in `c` before, passes them, and the first time sets `WRAPPED`. -/
structure OldestPassed (n : Nat) (c : CL) (u t : State) : Prop where
  readNeed : t.cl.readNeed = false
  pm : t.pm = u.pm
  oldest : t.cl.oldest = c.oldest + n
  wrapped : c.oldest = 0 → t.cl.wrapped = true
  keeps : Keeps [.cl, .hi, .mg] u t

/-- The granules that the header of the oldest record counts (Table 10.1). -/
def oldestGranules (base g : Nat) (c : CL) (u : State) : Nat := fld (leNat (dramRead u (base + c.oldest % g * 64) 8)) 59 55

theorem readback_ok (base g : Nat) (s : State) :
    OldestPassed (oldestGranules base g s.cl (inSlot .cellar 64 s)) s.cl (inSlot .cellar 64 s) (readback .ok base g s) := by
  have same : (inSlot .cellar 64 s).cl = s.cl := inSlot_cl _ _ s
  have clean (a : Nat) (t : State) : noteEcc .ok a t = t := rfl
  unfold readback
  dsimp only
  rw [clean, if_neg (by decide)]
  generalize inSlot .cellar 64 s = u at same
  rw [← same]
  by_cases first : u.cl.oldest = 0
  · rw [if_pos first]
    have events (c : CL) := setCl_issue_keeps 0x0903 [i8 u.cl.prod] c u
    exact {
      readNeed := by rw [issue_cl]
      pm := events _ .pm (by decide)
      oldest := by rw [issue_cl]; rfl
      wrapped := fun _ => by rw [issue_cl]
      keeps := events _ }
  · rw [if_neg first]
    exact {
      readNeed := rfl
      pm := rfl
      oldest := rfl
      wrapped := fun first' => absurd first' first
      keeps := (setCl_keeps _ u).mono (by simp) }

/-- A read-back that fails ends the logging, and leaves device DRAM as it is. -/
structure ReadbackFailed (u t : State) : Prop where
  rbErr : t.cl.rbErr = true
  halted : t.cl.halted = true
  front : t.cl.front = []
  dram : t.pm.dram = u.pm.dram
  ueFlag : t.pm.ueFlag = true

theorem readback_uncorrectable (base g : Nat) (s : State) : ReadbackFailed (inSlot .cellar 64 s) (readback .uncorrectable base g s) := by
  simp only [readback, noteEcc, if_true]
  generalize inSlot .cellar 64 s = u
  have pm (code : Nat) (items : List Item) (t : State) : (haltLog (issue code items t)).pm = t.pm :=
    (haltLog_keeps _ .pm (by decide)).trans (issue_keeps code items t .pm (by decide))
  exact {
    rbErr := by rw [haltLog_cl, issue_cl]; rfl
    halted := rfl
    front := rfl
    dram := by rw [pm]
    ueFlag := by rw [pm] }

/-! ### The snapshot of the counters (R257) -/

theorem exec_clCntSnap {s : State} (write : written 0x0484 4 0 (fun _ => true) s = true) :
    exec .clCntSnap s = .next (cntSnap (popWrite 0x0484 4 s)) := congrArg Host.Outcome.next (if_pos write)

/-- The cellar with the counters as they stood before the releases of the present cycle (R257). -/
def countsBefore (s : State) : CL :=
  if s.cl.relAt = s.tb.now then s.cl
  else { s.cl with relAt := s.tb.now, prePins := s.cl.pins, preSites := s.cl.sites, preDev := s.cl.dev, preVec := s.cl.relVec }

/-- The cellar with these counters, and the index of the last vector released before, in the snapshot registers (Table 10.9). -/
def snapshotOf (now : Nat) (c : CL) : CL :=
  { c with
    snapAt := now, snapPins := c.prePins, snapSites := c.preSites, snapDev := c.preDev
    snapVec := BitVec.ofNat 64 (match c.preVec with | some i => 2 ^ 63 + i % 2 ^ 48 | none => 0) }

theorem cntSnap_eq (s : State) : cntSnap s = { s with cl := snapshotOf s.tb.now (countsBefore s) } := by
  have kept : keepCounts s = { s with cl := countsBefore s } := by
    unfold keepCounts countsBefore
    split <;> rfl
  rw [cntSnap, kept]
  rfl

theorem popWrite_keeps (base n : Nat) (s : State) : Keeps [.hi] s (popWrite base n s) := by
  intro p hp
  cases p <;> first | exact absurd (by decide) hp | simp [samePart]

theorem cntSnap_keeps (s : State) : Keeps [.cl, .hi] s (cntSnap (popWrite 0x0484 4 s)) := by
  rw [cntSnap_eq]
  exact ((popWrite_keeps _ _ s).mono (by simp)).trans ((setCl_keeps _ _).mono (by simp))

/-- Where no vector has been released in the present cycle, the snapshot is of the counters as they stand. -/
theorem cntSnap_first {s : State} (first : s.cl.relAt ≠ s.tb.now) : (cntSnap s).cl = snapshotOf s.tb.now
    { s.cl with relAt := s.tb.now, prePins := s.cl.pins, preSites := s.cl.sites, preDev := s.cl.dev, preVec := s.cl.relVec } := by
  rw [cntSnap_eq, countsBefore, if_neg first]

/-- After a release in the present cycle it is of the counters kept before that. -/
theorem cntSnap_later {s : State} (later : s.cl.relAt = s.tb.now) : (cntSnap s).cl = snapshotOf s.tb.now s.cl := by
  rw [cntSnap_eq, countsBefore, if_pos later]

/-- `CL_SNAP_VEC` holds the index of the last vector released, and that there is one (Table 10.9). -/
theorem snapshotOf_vec {now i : Nat} {c : CL} (released : c.preVec = some i) : (snapshotOf now c).snapVec.toNat = 2 ^ 63 + i % 2 ^ 48 := by
  rw [snapshotOf, released]
  show (BitVec.ofNat 64 (2 ^ 63 + i % 2 ^ 48)).toNat = _
  exact (BitVec.toNat_ofNat _ _).trans (Nat.mod_eq_of_lt (by omega))

theorem snapshotOf_noVec {now : Nat} {c : CL} (none_ : c.preVec = none) : (snapshotOf now c).snapVec = 0 := by
  rw [snapshotOf, none_]
  rfl

/-! ### `CL_CONFIG` (R269, Table 10.7) -/

theorem exec_clConfig {s : State} {tag : W16} {e : Exec} (runs : executing 0x0901 tag s = some e) :
    exec (.clConfig tag) s = .next (clConfigCmd e s) := congrArg Host.Outcome.next (runCmd_some runs _)

/-- A limit N in the range of its logging mode (R259). -/
def limitGood (mode n : Nat) : Prop := (mode = 1 ∧ 1 ≤ n) ∨ (mode = 2 ∧ 1 ≤ n ∧ n ≤ 65535) ∨ (mode ≠ 1 ∧ mode ≠ 2 ∧ n = 0)

/-- A threshold in the range of its stop condition (Table 10.4). -/
def thresholdGood (sof th : Nat) : Prop := (sof = 2 ∧ 1 ≤ th) ∨ (sof ≠ 2 ∧ th = 0)

/-- The model's check of N. -/
def limitCheck (mode n : Nat) : Bool :=
  if mode = 1 then decide (1 ≤ n) else if mode = 2 then decide (1 ≤ n ∧ n ≤ 65536 - 1) else decide (n = 0)

/-- The model's check of the threshold. -/
def thresholdCheck (sof th : Nat) : Bool := if sof = 2 then decide (1 ≤ th) else decide (th = 0)

theorem limitCheck_iff (mode n : Nat) : limitCheck mode n = true ↔ limitGood mode n := by
  unfold limitCheck limitGood
  split
  · simp only [decide_eq_true_eq]
    omega
  · split <;> simp only [decide_eq_true_eq] <;> omega

theorem thresholdCheck_iff (sof th : Nat) : thresholdCheck sof th = true ↔ thresholdGood sof th := by
  unfold thresholdCheck thresholdGood
  split <;> simp only [decide_eq_true_eq] <;> omega

section
variable {s : State} {e : Exec} (mode : payF e 0 1 ≤ 3) (full : payF e 1 1 ≤ 1) (frontFull : payF e 2 1 ≤ 1) (sof : payF e 3 1 ≤ 3)
  (rest : payZero e 16 32 = true)
include mode full frontFull sof rest

/-- With the fields in range and the rest 0, the limits decide the answer. -/
theorem clConfigCmd_limits : clConfigCmd e s = checked
    [(!limitCheck (payF e 0 1) (payF e 4 4), eRange), (!thresholdCheck (payF e 3 1) (payF e 8 8), eRange)] e (answer e eOk []) s := by
  have legal : (decide (3 < payF e 0 1 ∨ 1 < payF e 1 1 ∨ 1 < payF e 2 1 ∨ 3 < payF e 3 1) || !payZero e 16 32) = false := by
    rw [rest, decide_eq_false (by omega)]
    rfl
  exact checked_pass legal _ _ e _ s

theorem clConfigCmd_taken (limit : limitGood (payF e 0 1) (payF e 4 4)) (threshold : thresholdGood (payF e 3 1) (payF e 8 8)) :
    clConfigCmd e s = answer e eOk [] s := by
  rw [clConfigCmd_limits mode full frontFull sof rest, (limitCheck_iff _ _).mpr limit, (thresholdCheck_iff _ _).mpr threshold]
  rfl

theorem clConfigCmd_refused (bad : ¬ (limitGood (payF e 0 1) (payF e 4 4) ∧ thresholdGood (payF e 3 1) (payF e 8 8))) :
    clConfigCmd e s = answer e eRange [] s := by
  rw [clConfigCmd_limits mode full frontFull sof rest]
  by_cases limit : limitGood (payF e 0 1) (payF e 4 4)
  · have check := (thresholdCheck_iff _ _).not.mpr fun threshold => bad ⟨limit, threshold⟩
    rw [checked_pass (by rw [(limitCheck_iff _ _).mpr limit]; rfl), checked_fail (by simpa using check)]
  · have check := (limitCheck_iff _ _).not.mpr limit
    rw [checked_fail (by simpa using check)]

end

/-! ### Its completion (R269, R391) -/

/-- A power request that starts leaves the cellar. -/
theorem smbPwr_cl (t : Nat) (s : State) : (smbPwr t s).cl = s.cl := by
  have start (u : State) : (pwrStart t none u).cl = u.cl := beginStep_keeps t _ .cl (by decide)
  unfold smbPwr
  split
  · rfl
  split
  · rfl
  split
  · rfl
  split
  · rfl
  · exact start s

theorem smbResume_cl (s : State) : (smbResume s).cl = s.cl := by
  unfold smbResume
  split
  · split
    · exact (coreSettle_keeps _ .cl (by decide)).trans (smbPwr_cl _ s)
    · rfl
  · rfl

/-- A completion entry changes the cellar by what takes effect with it. -/
theorem writeCpl_cl (c : Cpl) (s : State) : (writeCpl c s).cl = (takesEffect c s).cl := by
  have signal (t : State) : (cplSignal t).cl = t.cl := by simp [cplSignal]
  rw [writeCpl, signal]
  rfl

/-- The settings of `CL_CONFIG` take effect with its completion. -/
theorem takesEffect_clConfig {s : State} {e : Exec} (opcode : e.entry.opcode = 0x0901#16)
    (found : s.hi.exec.find? (fun x => x.entry.tag == e.entry.tag) = some e) : takesEffect (cplOf e 0 []) s = clSettings e s := by
  have asks : (if (cplOf e 0 []).wasExec ∧ (cplOf e 0 []).status = 0 then s.hi.exec.find? (fun x => x.entry.tag == (cplOf e 0 []).tag)
      else none) = some e := (if_pos ⟨rfl, rfl⟩).trans found
  rw [takesEffect, asks]
  exact if_pos opcode

theorem exec_completionWrite (s : State) : exec .completionWrite s = .next (smbResume (cplWrite s)) := rfl

/-- The completion of a `CL_CONFIG` puts its settings in force. -/
theorem cplWrite_clConfig {s : State} {e : Exec} {more : List Cpl} (opcode : e.entry.opcode = 0x0901#16)
    (first : s.hi.cpls = cplOf e 0 [] :: more) (room : cplRoom s = true)
    (found : s.hi.exec.find? (fun x => x.entry.tag == e.entry.tag) = some e) :
    (smbResume (cplWrite s)).cl = (clSettings e s).cl := by
  rw [smbResume_cl, cplWrite, first]
  dsimp only
  rw [if_pos room, coreSettle_keeps _ .cl (by decide), writeCpl_cl]
  exact (congrArg State.cl (takesEffect_clConfig (s := { s with hi := { s.hi with cpls := more } }) opcode found)).trans rfl

end Sys2Proof.Machine

open Sys2Proof Sys2Proof.Machine

/-- Settles O24: a granule by whether its record has begun or fits, the read-back by what it finds, the snapshot by whether a vector has been
released in its cycle, and `CL_CONFIG` by its limits, up to its completion. -/
theorem cellarKeepsRecords : Obligations.cellarKeepsRecords := by
  unfold Obligations.cellarKeepsRecords
  refine ⟨?records, ?snapFirst, ?snapLater, ?config⟩
  case records =>
    intro s bytes rseq idx base g more front region _ wf power u size place
    refine ⟨fun inside fits => ?goes, fun whole stop exceeds => ?stops, fun whole wrap exceeds => ?waits, fun waits => ⟨?passed, ?failed⟩⟩
    case goes =>
      obtain ⟨read, others, cl, keeps⟩ := writeGranule_written base g wf power inside
      refine ⟨_, exec_cellarGranuleWrite (granule_goes front region fits), read, others, fun more_ => ?_, fun last => ?_, keeps⟩
      · rw [cl, granuleGone, if_pos more_]
      · rw [cl, granuleGone, if_neg (by omega), front]
        rfl
    case stops =>
      refine ⟨_, exec_cellarGranuleWrite (granule_stops front region whole stop exceeds), ?_⟩
      rw [haltLog_cl, issue_cl]
      refine ⟨rfl, rfl, rfl, rfl, ?_, (setCl_issue_keeps _ _ _ s).trans ((haltLog_keeps _).mono (by simp))⟩
      rw [logHalted, front]
      rfl
    case waits => exact exec_cellarGranuleWrite (granule_waits front region whole wrap exceeds)
    case passed =>
      obtain ⟨readNeed, pm, oldest, wrapped, keeps⟩ := readback_ok base g s
      exact ⟨_, exec_cellarReadbackComplete .ok region waits, readNeed, pm, oldest, wrapped, keeps⟩
    case failed =>
      obtain ⟨rbErr, halted, empty, dram, ueFlag⟩ := readback_uncorrectable base g s
      exact ⟨_, exec_cellarReadbackComplete .uncorrectable region waits, rbErr, halted, empty, dram, ueFlag⟩
  case snapFirst =>
    intro s u write first
    have same : u.cl = s.cl := popWrite_keeps _ _ s .cl (by decide)
    refine ⟨_, exec_clCntSnap write, ?_⟩
    rw [cntSnap_first first, same]
    exact ⟨rfl, rfl, rfl, fun i released => snapshotOf_vec released, fun none_ => snapshotOf_noVec none_, rfl, rfl, cntSnap_keeps s⟩
  case snapLater =>
    intro s u write later
    have same : u.cl = s.cl := popWrite_keeps _ _ s .cl (by decide)
    refine ⟨_, exec_clCntSnap write, ?_⟩
    rw [cntSnap_later later, same]
    exact ⟨rfl, rfl, rfl, rfl, rfl, cntSnap_keeps s⟩
  case config =>
    intro s tag e runs mode full frontFull sof rest _ n th nGood thGood
    have row := exec_clConfig runs
    refine ⟨fun limit threshold => ⟨?answered, fun r more first room found => ?inForce⟩, fun bad => ?refused⟩
    case answered =>
      rw [row, clConfigCmd_taken mode full frontFull sof rest limit threshold]
      exact ⟨_, rfl, answer_answered e _ _ s, answer_keeps e _ _ s⟩
    case inForce =>
      exact ⟨_, exec_completionWrite r, cplWrite_clConfig (executing_entry runs).1 first room found⟩
    case refused =>
      rw [row, clConfigCmd_refused mode full frontFull sof rest bad]
      exact ⟨_, rfl, answer_answered e _ _ s, answer_keeps e _ _ s⟩
end

section
/-! SUPPORT. The stream's commands, consumer register and message (R285, R287, R288, R295, R296): what opening and closing leave, and what takes
effect with a completion; and the statement on them. -/

namespace Sys2Proof.Machine

open Sys2Proof

/-- A change of the stream is one of it only. -/
theorem setCs_keeps (c : CS) (s : State) : Keeps [.cs] s { s with cs := c } := by
  intro p hp
  cases p <;> first | exact absurd (by decide) hp | rfl

theorem issue_cs (code : Nat) (items : List Item) (s : State) : (issue code items s).cs = s.cs := issue_keeps code items s .cs (by decide)

/-- A change of the stream with its event. -/
theorem setCs_issue_keeps (code : Nat) (items : List Item) (c : CS) (s : State) :
    Keeps [.cs, .hi, .mg] s (issue code items { s with cs := c }) :=
  ((setCs_keeps c s).mono (by simp)).trans ((issue_keeps code items _).mono (by simp))

theorem flushAll_keeps (s : State) : Keeps [.pins, .cs, .mx, .hi, .mg] s (flushAll s) := by
  intro p hp
  cases p <;> first | exact absurd (by decide) hp | simp [samePart]

theorem flushAll_logless (s : State) : logless (flushAll s) = logless s := flushX_logless _ s

/-! ### What marks and hits leave of the stream (R276, R278, R291) -/

/-- The stream without what hits and marks change of it. -/
def unmarked (c : CS) : CS :=
  { c with marks := [], lostMarks := [], hits := [], dropMarks := 0, marksLost := false, lostSaid := false, fresh := {} }

theorem of_unmarked {α : Type} {f : CS → α} (outside : ∀ c, f (unmarked c) = f c) {c d : CS} (h : unmarked c = unmarked d) : f c = f d :=
  (outside c).symm.trans ((congrArg f h).trans (outside d))

theorem loseMark_unmarked (m : Mark) (s : State) : unmarked (loseMark m s).cs = unmarked s.cs := by
  unfold loseMark
  dsimp only
  split
  · rfl
  · rw [issue_cs]
    rfl

theorem queueMark_unmarked (m : Mark) (s : State) : unmarked (queueMark m s).cs = unmarked s.cs := by
  unfold queueMark
  split
  · rfl
  split
  · rfl
  · exact loseMark_unmarked _ s

theorem giveHit_unmarked (p : Pin) (s : State) (h : RawHit) : unmarked (giveHit p s h).cs = unmarked s.cs := by
  unfold giveHit
  dsimp only
  split
  · exact queueMark_unmarked _ _
  · rfl

theorem classify_unmarked (p : Pin) (k : XKind) (t : Int) (s : State) : unmarked (classify p k t s).cs = unmarked s.cs :=
  foldl_keeps (fun u : State => unmarked u.cs) (giveHit_unmarked p) _ _

theorem addOverflow_unmarked (p : Pin) (t : Nat) (s : State) : unmarked (addOverflow p t s).cs = unmarked s.cs := by
  unfold addOverflow
  dsimp only
  split
  · rfl
  · exact queueMark_unmarked _ s

/-! ### What stamps leave of it (R272 to R274) -/

/-- The stream without what stamps change of it. -/
def unstamped (c : CS) : CS := { unmarked c with pendX := [], data := [], stampOvf := false, ovfSaid := [] }

theorem unstamped_of_unmarked {c d : CS} (h : unmarked c = unmarked d) : unstamped c = unstamped d :=
  of_unmarked (f := unstamped) (fun _ => rfl) h

theorem of_unstamped {α : Type} {f : CS → α} (outside : ∀ c, f (unstamped c) = f c) {c d : CS} (h : unstamped c = unstamped d) : f c = f d :=
  (outside c).symm.trans ((congrArg f h).trans (outside d))

theorem loseStamp_unstamped (p : Pin) (t : Nat) (s : State) : unstamped (loseStamp p t s).cs = unstamped s.cs := by
  have counted (u : State) : unstamped (addOverflow p t u).cs = unstamped u.cs := unstamped_of_unmarked (addOverflow_unmarked p t u)
  unfold loseStamp
  dsimp only
  split
  · exact (counted _).trans rfl
  · rw [issue_cs]
    exact (counted _).trans rfl

theorem streamStamp_unstamped (p : Pin) (k : XKind) (t : Int) (seen : Nat) (s : State) :
    unstamped (streamStamp p k t seen s).cs = unstamped s.cs := by
  unfold streamStamp
  dsimp only
  split
  · split
    · exact (loseStamp_unstamped _ _ _).trans rfl
    · rfl
  · rfl

theorem flushX_unstamped (f : PendX → Bool) (s : State) : unstamped (flushX f s).cs = unstamped s.cs :=
  foldl_keeps (fun u : State => unstamped u.cs) (fun _ _ => (streamStamp_unstamped ..).trans (unstamped_of_unmarked (classify_unmarked ..))) _ _

/-! ### `CS_OPEN` (R295) -/

theorem flushAll_openSeq (s : State) : (flushAll s).cs.openSeq = s.cs.openSeq :=
  of_unstamped (f := CS.openSeq) (fun _ => rfl) (flushX_unstamped _ s)

section
variable {s : State} {e : Exec} (base : payF e 0 8 % 4096 = 0) (least : 20 ≤ payF e 8 1) (most : payF e 8 1 ≤ 48)
  (flush : 1 ≤ payF e 9 3) (flushMost : payF e 9 3 ≤ 1000000) (frames : payF e 12 2 ≤ 256) (vec : payF e 14 1 ≤ 63)
  (mustBeZero : payF e 15 1 = 0) (writeBack : payF e 16 8 % 8 = 0) (rest : payZero e 24 24 = true)
include base least most flush flushMost frames vec mustBeZero writeBack rest

/-- With a good payload the stream's state decides the answer. -/
theorem csOpenCmd_good : csOpenCmd e s = if s.cs.open_ then answer e eState [] s else answer e eOk [] (streamOpen e s) := by
  have size : decide (payF e 8 1 < 20 ∨ 48 < payF e 8 1) = false := decide_eq_false (by omega)
  have time : decide (payF e 9 3 = 0 ∨ 1000000 < payF e 9 3) = false := decide_eq_false (by omega)
  have signal : decide (256 < payF e 12 2 ∨ 63 < payF e 14 1) = false := decide_eq_false (by omega)
  rw [csOpenCmd, checked_pass (by rw [base, size, time, signal, mustBeZero, writeBack, rest]; rfl)]
  cases open_ : s.cs.open_
  · exact checked_pass rfl _ _ e _ s
  · exact checked_fail rfl _ _ e _ s

end

theorem streamOpen_logless (e : Exec) (s : State) : logless (streamOpen e s) = logless s :=
  (issue_logless _ _ _).trans (flushAll_logless s)

theorem streamOpen_keeps (e : Exec) (s : State) : Keeps [.pins, .cs, .mx, .hi, .mg] s (streamOpen e s) :=
  (flushAll_keeps s).trans ((setCs_issue_keeps _ _ _ _).mono (by simp))

theorem exec_csOpen {s : State} {tag : W16} {e : Exec} (runs : executing 0x0A01 tag s = some e) :
    exec (.csOpen tag) s = .next (csOpenCmd e s) := congrArg Host.Outcome.next (runCmd_some runs _)

/-! ### Its completion (R295, R391) -/

theorem smbPwr_keeps (t : Nat) (s : State) : Keeps stepParts s (smbPwr t s) := by
  have status (st : Nat) (u : State) : Keeps stepParts u (smbStatus st u) := (setMg_keeps _ u).mono (by simp)
  unfold smbPwr
  split
  · exact status _ s
  split
  · exact status _ s
  split
  · exact (setMg_keeps _ s).mono (by simp)
  split
  · exact status _ s
  · exact (((setMg_keeps _ s).mono (by simp)).trans (beginStep_keeps t _)).trans (status _ _)

theorem smbResume_cs (s : State) : (smbResume s).cs = s.cs := by
  unfold smbResume
  split
  · split
    · exact (coreSettle_keeps _ .cs (by decide)).trans (smbPwr_keeps _ s .cs (by decide))
    · rfl
  · rfl

/-- A completion entry changes the stream by what takes effect with it. -/
theorem writeCpl_cs (c : Cpl) (s : State) : (writeCpl c s).cs = (takesEffect c s).cs := by
  have signal (t : State) : (cplSignal t).cs = t.cs := by simp [cplSignal]
  rw [writeCpl, signal]
  rfl

/-- The stream captures from the completion of its `CS_OPEN` on. -/
theorem takesEffect_csOpen {s : State} {e : Exec} (opcode : e.entry.opcode = 0x0A01#16)
    (found : s.hi.exec.find? (fun x => x.entry.tag == e.entry.tag) = some e) : takesEffect (cplOf e 0 []) s = streamOpened s := by
  have asks : (if (cplOf e 0 []).wasExec ∧ (cplOf e 0 []).status = 0 then s.hi.exec.find? (fun x => x.entry.tag == (cplOf e 0 []).tag)
      else none) = some e := (if_pos ⟨rfl, rfl⟩).trans found
  have code : (cplOf e 0 []).opcode = 0x0A01#16 := opcode
  rw [takesEffect, asks]
  simp [code]

theorem cplWrite_csOpen {s : State} {e : Exec} {more : List Cpl} (opcode : e.entry.opcode = 0x0A01#16)
    (first : s.hi.cpls = cplOf e 0 [] :: more) (room : cplRoom s = true)
    (found : s.hi.exec.find? (fun x => x.entry.tag == e.entry.tag) = some e) :
    (smbResume (cplWrite s)).cs = (streamOpened s).cs := by
  rw [smbResume_cs, cplWrite, first]
  dsimp only
  rw [if_pos room, coreSettle_keeps _ .cs (by decide), writeCpl_cs]
  exact (congrArg State.cs (takesEffect_csOpen (s := { s with hi := { s.hi with cpls := more } }) opcode found)).trans rfl

/-! ### `CS_CLOSE` (R296) -/

/-- The parts that a closing stream changes: time passes while its staged frames are read. -/
abbrev closeParts : List Part := .pm :: .hostMem :: passParts

theorem closeDue_keeps (flag : Nat) (s : State) : Keeps closeParts s (closeDue flag s) := by
  intro p hp
  cases p <;> first | exact absurd (by decide) hp | simp [samePart, closeDue]

theorem sendFrame_keeps (f : Frame) (s : State) : Keeps [.cs, .hostMem, .hi] s (sendFrame f s) := by
  intro p hp
  cases p <;> first | exact absurd (by decide) hp | simp [samePart]

theorem sendOldest_keeps (s : State) : Keeps [.cs, .hostMem, .hi] s (sendOldest s) := by
  intro p hp
  cases p <;> first | exact absurd (by decide) hp | simp [samePart]

theorem stageEmpty_keeps (s : State) : Keeps [.hi, .mg] s (stageEmpty s) := by
  intro p hp
  cases p <;> first | exact absurd (by decide) hp | simp [samePart, stageEmpty]

/-- A staged frame that is read clean goes to the ring, or stays while there is none or no room. -/
theorem stageRead_clean_keeps (s : State) : Keeps closeParts s (stageRead {} s) := by
  unfold stageRead
  split
  · exact .refl _ s
  · refine (inSlot_keeps .stream 4096 s).trans ?_
    dsimp only
    split
    · exact .refl _ _
    · exact (((setCs_keeps _ _).mono (by simp)).trans ((sendFrame_keeps _ _).mono (by simp))).trans ((stageEmpty_keeps _).mono (by simp))

theorem sendWaiting_clean_keeps (n : Nat) (s : State) : Keeps closeParts s (sendWaiting n [] s) := by
  induction n generalizing s with
  | zero => exact .refl _ s
  | succ n ih =>
    rw [sendWaiting]
    split
    · exact .refl _ s
    split
    · exact ((sendOldest_keeps s).mono (by simp)).trans (ih _)
    · exact (stageRead_clean_keeps s).trans (ih _)

theorem streamShut_keeps (cause n : Nat) (s : State) : Keeps [.cs, .hi, .mg] s (streamShut cause n s) := by
  have ended : Keeps [.cs, .hi, .mg] s (endFill s) := by
    intro p hp
    cases p <;> first | exact absurd (by decide) hp | simp [samePart, endFill, stageEmpty]
  exact ended.trans (setCs_issue_keeps _ _ _ _)

/-- A stream that has closed holds nothing. -/
theorem streamShut_empties (cause n : Nat) (s : State) : (streamShut cause n s).cs.open_ = false ∧ (streamShut cause n s).cs.front = []
    ∧ (streamShut cause n s).cs.staged = [] ∧ (streamShut cause n s).cs.data = [] := by
  have dropped (t : State) : (endDrop t).cs.front = t.cs.front ∧ (endDrop t).cs.staged = t.cs.staged := by
    unfold endDrop
    split
    · exact ⟨rfl, rfl⟩
    · rw [issue_cs]
      exact ⟨rfl, rfl⟩
  have ended : (endFill s).cs.front = [] ∧ (endFill s).cs.staged = [] := by
    obtain ⟨front, staged⟩ := dropped (if s.cs.staged.isEmpty then { s with cs := { s.cs with staged := [], front := [] } }
      else stageEmpty { s with cs := { s.cs with staged := [], front := [] } })
    have same (t : State) : (stageEmpty t).cs = t.cs := stageEmpty_keeps t .cs (by decide)
    constructor
    · refine front.trans ?_
      split
      · rfl
      · rw [same]
    · refine staged.trans ?_
      split
      · rfl
      · rw [same]
  rw [streamShut, issue_cs]
  exact ⟨rfl, ended.1, ended.2, rfl⟩

/-- The frames that wait, as `CS_CLOSE` closes every set and sends while the ring has room, with the number it discards. -/
def closeFilled (s : State) : Nat × State := closeFill true [] (closeDue 2 (flushAll s))

/-- The stream after `CS_CLOSE`. -/
def closedStream (s : State) : State := streamShut 0 (closeFilled s).1 (closeFilled s).2

theorem closeFill_clean_keeps (s : State) : Keeps closeParts s (closeFill true [] s).2 := sendWaiting_clean_keeps _ s

theorem closedStream_keeps (s : State) : Keeps closeParts s (closedStream s) := by
  have flushed : Keeps closeParts s (flushAll s) := (flushAll_keeps s).mono (by simp)
  have filled := (flushed.trans (closeDue_keeps 2 _)).trans (closeFill_clean_keeps _)
  exact filled.trans ((streamShut_keeps _ _ _).mono (by simp))

theorem closedStream_logless (s : State) : logless (closedStream s) = logless s := by
  rw [closedStream, streamShut_logless, closeFilled, closeFill_logless, closeDue, closeFrames_logless, flushAll_logless]

/-- The result data of `CS_CLOSE`: the last `FSEQ` sent and the frames discarded (log 37). -/
def closeData (s : State) : List Byte := leBytes 8 (closedStream s).cs.lastSent ++ leBytes 8 (closeFilled s).1

/-- The first field of some bytes that begin with it. -/
theorem fieldAt_leBytes_append (n v : Nat) (l : List Byte) : fieldAt (leBytes n v ++ l) 0 n = v % 256 ^ n := by
  rw [fieldAt, slice, List.drop_zero, List.take_left' (leBytes_length n v), leNat_leBytes]

section
variable {s : State} {e : Exec} (rest : payZero e 0 48 = true)
include rest

theorem csCloseCmd_open (open_ : s.cs.open_ = true) : csCloseCmd [] e s = answer e eOk (closeData s) (closedStream s) := by
  rw [csCloseCmd, checked_pass (by rw [rest]; rfl), checked_pass (by rw [open_]; rfl)]
  simp only [checked_nil, closeData, closedStream, closeFilled]

theorem csCloseCmd_closed (shut : s.cs.open_ = false) : csCloseCmd [] e s = answer e eState [] s := by
  rw [csCloseCmd, checked_pass (by rw [rest]; rfl), checked_fail (by rw [shut]; rfl)]

end

theorem exec_csClose {s : State} {tag : W16} {e : Exec} (runs : executing 0x0A02 tag s = some e) :
    exec (.csClose { tag := tag }) s = .next (csCloseCmd [] e s) := congrArg Host.Outcome.next (runCmd_some runs _)

/-! ### `CS_CONS` and the message (R287, R288) -/

theorem exec_csConsWrite {s : State} {v : W64} (write : written 0x0528 8 0 (· == v.toNat) s = true) (open_ : s.cs.open_ = true) :
    exec (.csConsWrite v) s = .next (if consOk (popWrite 0x0528 8 s) v.toNat
      then { popWrite 0x0528 8 s with cs := { (popWrite 0x0528 8 s).cs with cons := v.toNat % 2 ^ 49 } }
      else issue 0x0A09 [i8 v.toNat] { popWrite 0x0528 8 s with cs := { (popWrite 0x0528 8 s).cs with
        consErr := true, fresh := freshen (popWrite 0x0528 8 s) 0x800 (popWrite 0x0528 8 s).cs.fresh } }) := by
  have still : (popWrite 0x0528 8 s).cs.open_ = true := (congrArg CS.open_ (popWrite_keeps _ _ s .cs (by decide))).trans open_
  refine congrArg Host.Outcome.next ((if_pos write).trans ?_)
  rw [consWrite, still]
  rfl

theorem exec_streamIrqTimer {s : State} (frames : s.cs.irqFrames ≠ 0) (unsignalled : s.cs.unsig ≠ 0) :
    exec .streamIrqTimer s = .next (msix (toTime (s.cs.unsigAt + 8192000 * s.cs.flush) s).cs.irqVec
      { toTime (s.cs.unsigAt + 8192000 * s.cs.flush) s with
        cs := { (toTime (s.cs.unsigAt + 8192000 * s.cs.flush) s).cs with unsig := 0 } }) :=
  congrArg Host.Outcome.next (if_neg (by simp [frames, unsignalled]))

theorem msix_keeps (v : Nat) (s : State) : Keeps [.hi] s (msix v s) := setHi_keeps _ s

/-- A vector that is not masked sends its message, a masked one sets its pending bit (R385; log 9). -/
theorem msix_sends (v : Nat) (s : State) :
    (s.hi.msixMask.getLsbD v = false → (msix v s).hi.sent = s.hi.sent ++ [v])
      ∧ (s.hi.msixMask.getLsbD v = true → (msix v s).hi.sent = s.hi.sent ∧ (msix v s).hi.pba = s.hi.pba ||| (1#64 <<< v)) := by
  constructor
  · intro mask
    simp [msix, mask]
  · intro mask
    simp [msix, mask]

end Sys2Proof.Machine

open Sys2Proof Sys2Proof.Machine

/-- Settles O38: `CS_OPEN` and `CS_CLOSE` by the stream's state, `CS_OPEN` up to its completion entry, `CS_CONS` by its value, and the message by its
vector's mask. -/
theorem streamRegistersAndCommands : Obligations.streamRegistersAndCommands := by
  unfold Obligations.streamRegistersAndCommands
  refine ⟨?opens, ?completes, ?closes, ?consumes, ?signals⟩
  case opens =>
    intro s tag e runs base least most flush flushMost frames vec mustBeZero writeBack rest
    have row := (exec_csOpen runs).trans
      (congrArg Host.Outcome.next (csOpenCmd_good base least most flush flushMost frames vec mustBeZero writeBack rest))
    constructor
    · intro open_
      rw [row, if_pos open_]
      exact ⟨_, rfl, answer_answered e _ _ s, answer_keeps e _ _ s⟩
    · intro shut
      rw [row, if_neg (by simp [shut])]
      refine ⟨_, rfl, answer_replied e _ _ (streamOpen_logless e s), ?_⟩
      have keeps := (streamOpen_keeps e s).trans ((answer_keeps e eOk [] (streamOpen e s)).mono (by simp))
      rw [(answer_keeps e eOk [] (streamOpen e s) .cs (by decide) : _ = _), streamOpen, issue_cs]
      refine ⟨rfl, rfl, rfl, rfl, rfl, ?_, rfl, rfl, rfl, rfl, rfl, rfl, rfl, rfl, rfl, keeps⟩
      exact congrArg (fun n => (n + 1) % 2 ^ 32) (flushAll_openSeq s)
  case completes =>
    intro r e more first room opcode found open_
    refine ⟨_, exec_completionWrite r, (cplWrite_csOpen opcode first room found).trans ?_⟩
    simp [streamOpened, open_]
  case closes =>
    intro s tag e runs rest
    have row := exec_csClose runs
    constructor
    · intro open_
      rw [row, csCloseCmd_open rest open_]
      obtain ⟨shut, front, staged, data⟩ := streamShut_empties 0 (closeFilled s).1 (closeFilled s).2
      refine ⟨_, closeData s, rfl, ?_, fieldAt_leBytes_append 8 _ _, shut, front, staged, data, ?_⟩
      · rw [answer_cpls, cpls_of_logless (closedStream_logless s)]
        rfl
      · exact (closedStream_keeps s).trans ((answer_keeps e _ _ _).mono (by simp))
    · intro shut
      rw [row, csCloseCmd_closed rest shut]
      exact ⟨_, rfl, answer_answered e _ _ s, answer_keeps e _ _ s⟩
  case consumes =>
    intro s v write open_ u
    have row := exec_csConsWrite write open_
    constructor
    · intro good
      rw [row, if_pos good]
    · intro bad
      rw [row, if_neg (by simpa using bad)]
      exact ⟨_, rfl, issue_cs _ _ _, setCs_issue_keeps _ _ _ _⟩
  case signals =>
    intro s frames unsignalled u
    obtain ⟨sends, waits⟩ := msix_sends u.cs.irqVec { u with cs := { u.cs with unsig := 0 } }
    refine ⟨_, exec_streamIrqTimer frames unsignalled, msix_keeps _ _ .cs (by decide), ?_, sends, waits⟩
    exact ((setCs_keeps _ u).mono (by simp)).trans ((msix_keeps _ _).mono (by simp))
end

section
/-! SUPPORT. Comparator crossings, trigger spans, hits and raw samples (R272 to R274, R276, R278, R280): what an output that moves changes on its pin,
in the stamper and in the stream; which hits time delivers; and the statement on them. -/

namespace Sys2Proof.Machine

open Sys2Proof

/-! ### What a crossing leaves (R92, R95, R272, R300) -/

section
variable (g : Glove) (start : Int) (s : State)

theorem tiuOverflow_keeps : Keeps [.ti, .hi, .mg, .freeCtr] s (tiuOverflow g start s) := by
  intro p hp
  cases p <;> first | exact absurd (by decide) hp | simp [samePart, tiuOverflow]

theorem tiuShot_keeps (stop : Int) : Keeps [.ti, .hi, .mg, .freeCtr] s (tiuShot g start stop s) := by
  intro p hp
  cases p <;> first | exact absurd (by decide) hp | simp [samePart, tiuShot]

theorem tiuStart_keeps : Keeps [.ti, .hi, .mg, .freeCtr] s (tiuStart g start s) := by
  unfold tiuStart
  dsimp only
  split
  · exact (updTiu_keeps g _ s).mono (by simp)
  · exact .refl _ s

theorem tiuStop_keeps (stop : Int) (k : Nat) : Keeps [.ti, .hi, .mg, .freeCtr] s (tiuStop g start stop k s) := by
  unfold tiuStop
  split
  · exact .refl _ s
  split
  · exact tiuShot_keeps g start s stop
  · exact (updTiu_keeps g _ s).mono (by simp)

theorem tiuExpire_keeps : Keeps [.ti, .hi, .mg, .freeCtr] s (tiuExpire g start s) := by
  unfold tiuExpire
  split
  · split
    · exact tiuOverflow_keeps g _ s
    · exact .refl _ s
  · exact .refl _ s

end

/-- An event reaches one TIU: nothing but the TIUs and the log changes. -/
theorem tiuEvent_keeps (sel : W32 → Bool) (t : Int) (s : State) (g : Glove) : Keeps [.ti, .hi, .mg, .freeCtr] s (tiuEvent sel t s g) := by
  have expired := tiuExpire_keeps g t s
  unfold tiuEvent
  split
  · dsimp only
    split
    · split
      · exact expired.trans (tiuStop_keeps g _ _ t _)
      · exact expired
    · split
      · exact expired.trans (tiuStart_keeps g t _)
      · exact expired
  · exact .refl _ s

theorem tiuCross_keeps (p : Pin) (kind : Nat) (t : Int) (s : State) : Keeps [.ti, .hi, .mg, .freeCtr] s (tiuCross p kind t s) := by
  refine Keeps.trans (t := if routedTo p kind s then takeFree s else s) ?_
    (foldl_partKeeps (fun u g => tiuEvent_keeps (selCross p kind) _ u g) _ _)
  split
  · intro q hq
    cases q <;> first | exact absurd (by decide) hq | simp [samePart]
  · exact .refl _ s

/-- Of the pins one alone may differ, and there not in its comparator outputs. -/
structure SameOutputs (p : Pin) (v w : Vector PinSt 512) : Prop where
  lo : w[p].lo = v[p].lo
  hi : w[p].hi = v[p].hi
  others : ∀ r : Pin, r ≠ p → w[r] = v[r]

theorem SameOutputs.refl (p : Pin) (v : Vector PinSt 512) : SameOutputs p v v := ⟨rfl, rfl, fun _ _ => rfl⟩

theorem SameOutputs.trans {p : Pin} {u v w : Vector PinSt 512} (h : SameOutputs p u v) (k : SameOutputs p v w) : SameOutputs p u w :=
  ⟨k.lo.trans h.lo, k.hi.trans h.hi, fun r other => (k.others r other).trans (h.others r other)⟩

/-- A late excursion that goes on or is decided leaves the outputs of its pin. -/
theorem seeLate_outputs (p : Pin) (st t : Nat) (free : Bool) (s : State) : SameOutputs p s.pins (seeLate p st t free s).pins := by
  have decided : SameOutputs p s.pins (updPin p (fun x => { x with late := none }) s).pins := by
    have own := updPin_own p (fun x => { x with late := none }) s
    exact ⟨by rw [own], by rw [own], fun r other => updPin_other _ s other⟩
  have passes_ (w : Win) (u : State) : (passLate p w u).pins = u.pins := by simp [passLate]
  unfold seeLate
  split
  · exact .refl p _
  · dsimp only
    split
    · split
      · exact decided
      · rw [passes_]
        exact decided
    · split
      · exact decided
      · exact .refl p _

theorem seeLate_keeps (p : Pin) (st t : Nat) (free : Bool) (s : State) : Keeps [.pins, .sp] s (seeLate p st t free s) := by
  intro q hq
  unfold seeLate
  cases q <;> first | exact absurd (by decide) hq | (simp only [samePart]; split <;> simp [passLate])

theorem noteCrossed_keeps (p : Pin) (idx st : Nat) (s : State) : Keeps [.sq, .hi, .mg] s (noteCrossed p idx st s) := by
  intro q hq
  cases q <;> first | exact absurd (by decide) hq | simp [samePart]

/-- A comparator change beside its pin: a free value drawn, a late window decided, a crossed state noted. -/
theorem observe_keeps (p : Pin) (f : PinSt → PinSt) (t : Nat) (s : State) :
    Keeps [.pins, .sq, .sp, .hi, .mg, .freeCtr] s (observe p f t s) := by
  have drawn (b : Bool) : Keeps [.pins, .sq, .sp, .hi, .mg, .freeCtr] s (if b then takeFree s else s) := by
    intro q hq
    cases q <;> first | exact absurd (by decide) hq | simp [samePart]
  have seen (st : Nat) (free b : Bool) (g : PinSt → PinSt) : Keeps [.pins, .sq, .sp, .hi, .mg, .freeCtr] s
      (seeLate p st t free (updPin p g (if b then takeFree s else s))) :=
    ((drawn b).trans ((updPin_keeps p g _).mono (by simp))).trans ((seeLate_keeps p st t free _).mono (by simp))
  unfold observe
  dsimp only
  split
  · exact (seen _ _ _ _).trans ((noteCrossed_keeps p _ _ _).mono (by simp))
  · exact seen _ _ _ _

/-- On its pin a comparator change has the outputs that it names. -/
theorem observe_outputs (p : Pin) (f : PinSt → PinSt) (t : Nat) (s : State) : SameOutputs p (vupd s.pins p f) (observe p f t s).pins := by
  have noted (w : Win) (st : Nat) (u : State) : (noteCrossed p w.idx st u).pins = u.pins := noteCrossed_keeps p w.idx st u .pins (by decide)
  have drawn (b : Bool) : (if b then takeFree s else s).pins = s.pins := by cases b <;> rfl
  have seen (b : Bool) (past : List (Nat × Nat)) (see : Win → Win) : SameOutputs p (vupd s.pins p f)
      (updPin p (fun y => { f y with past := past, win := y.win.map see }) (if b then takeFree s else s)).pins := by
    rw [updPin_pins, drawn]
    refine ⟨?_, ?_, fun r other => ?_⟩
    · rw [vupd_self, vupd_self]
    · rw [vupd_self, vupd_self]
    · rw [vupd_other _ _ other.symm, vupd_other _ _ other.symm]
  unfold observe
  dsimp only
  split
  · rw [noted]
    exact (seen ..).trans (seeLate_outputs ..)
  · exact (seen ..).trans (seeLate_outputs ..)

/-! ### The stamper (R273, R274) -/

theorem noteChange_first {p : Pin} {k : XKind} {at_ : Nat} {s : State} (first : s.cs.pendX.find? (sameStep p k at_) = none) :
    noteChange p k at_ s = { s with cs := { s.cs with
      pendX := s.cs.pendX ++ [{ pin := p, kind := k, at_ := at_, seen := s.tb.now }] } } := by
  rw [noteChange, first]

theorem noteChange_second {p : Pin} {k : XKind} {at_ : Nat} {s : State} {x : PendX}
    (second : s.cs.pendX.find? (sameStep p k at_) = some x) :
    noteChange p k at_ s = { s with cs := { s.cs with pendX := s.cs.pendX.erase x } } := by
  rw [noteChange, second]

/-- The state after a change of an output, once its time has come: a window and the TIUs have seen it, and the stamper while it runs. -/
def outputMoved (p : Pin) (k : XKind) (at_ : Nat) (s : State) : State :=
  let s1 := observe p (xkApply k) at_ s
  let s2 := if stampsOn s1 p then noteChange p k at_ s1 else s1
  if s1.tb.guardOpen[quadOf p] then tiuCross p (xkCode k) (repTime s1 at_) s2 else s2

section
variable {p : Pin} {th : Threshold} {rise : Bool} {at_ : Nat} {s : State}

/-- A crossing once its time `u` has come. -/
theorem crossing_at {k : XKind} {u : State}
    (time : (if s.tb.fabSrc = .edge ∧ ¬ s.cs.pendX.any (sameStep p k at_) then toEpoch at_ s else s) = u) :
    crossing p k at_ s = if xkMoves k u.pins[p] then outputMoved p k at_ u else u := by
  unfold crossing
  rw [time]
  exact ite_not ..

/-- A crossing that is the first of its output in its step comes at its time. -/
theorem exec_crossing_first (edge : s.tb.fabSrc = .edge) (first : s.cs.pendX.find? (sameStep p (xkOf th rise) at_) = none) :
    exec (.comparatorCrossing p th at_ rise none) s = .next (if xkMoves (xkOf th rise) (toEpoch at_ s).pins[p]
      then outputMoved p (xkOf th rise) at_ (toEpoch at_ s) else toEpoch at_ s) := by
  have alone : ¬ (s.cs.pendX.any (sameStep p (xkOf th rise) at_) = true) := by simpa using first
  exact congrArg Host.Outcome.next (crossing_at (if_pos ⟨edge, alone⟩))

/-- The second change of an output in a step comes at once. -/
theorem exec_crossing_second {x : PendX} (second : s.cs.pendX.find? (sameStep p (xkOf th rise) at_) = some x)
    (moves : xkMoves (xkOf th rise) s.pins[p] = true) :
    exec (.comparatorCrossing p th at_ rise none) s = .next (outputMoved p (xkOf th rise) at_ s) := by
  have before : s.cs.pendX.any (sameStep p (xkOf th rise) at_) = true :=
    List.any_eq_true.mpr ⟨x, List.mem_of_find?_eq_some second, List.find?_some second⟩
  exact congrArg Host.Outcome.next ((crossing_at (if_neg fun h => h.2 before)).trans (if_pos moves))

end

section
variable (p : Pin) (k : XKind) (at_ : Nat) (s : State)

theorem noteChange_keeps : Keeps [.cs] s (noteChange p k at_ s) := by
  unfold noteChange
  split
  · exact setCs_keeps _ s
  · exact setCs_keeps _ s

/-- An output that moves has the value that its crossing names, and no other pin changes. -/
theorem outputMoved_outputs : SameOutputs p (vupd s.pins p (xkApply k)) (outputMoved p k at_ s).pins := by
  have noted (u : State) : (noteChange p k at_ u).pins = u.pins := noteChange_keeps p k at_ u .pins (by decide)
  have crossed (kind : Nat) (t : Int) (u : State) : (tiuCross p kind t u).pins = u.pins := tiuCross_keeps p kind t u .pins (by decide)
  have same : (outputMoved p k at_ s).pins = (observe p (xkApply k) at_ s).pins := by
    simp only [outputMoved, ite_parts, crossed, noted, ite_self]
  exact same ▸ observe_outputs p (xkApply k) at_ s

/-- The stamper sees an output that moves while it runs. -/
theorem outputMoved_cs : (outputMoved p k at_ s).cs = if stampsOn s p then (noteChange p k at_ s).cs else s.cs := by
  have seen := observe_keeps p (xkApply k) at_ s
  have cs : (observe p (xkApply k) at_ s).cs = s.cs := seen .cs (by decide)
  have tb : (observe p (xkApply k) at_ s).tb = s.tb := seen .tb (by decide)
  have crossed (kind : Nat) (t : Int) (u : State) : (tiuCross p kind t u).cs = u.cs := tiuCross_keeps p kind t u .cs (by decide)
  have noted : (noteChange p k at_ (observe p (xkApply k) at_ s)).cs = (noteChange p k at_ s).cs := by
    unfold noteChange
    rw [cs, tb]
    split <;> rfl
  have runs : stampsOn (observe p (xkApply k) at_ s) p = stampsOn s p := by rw [stampsOn, stampsOn, tb]
  simp only [outputMoved, ite_parts, crossed, noted, cs, ite_self, runs]

/-- Behind a closed guard neither the stamper nor a TIU sees it (R36). -/
theorem outputMoved_unguarded (shut : s.tb.guardOpen[quadOf p] = false) :
    (outputMoved p k at_ s).cs = s.cs ∧ (outputMoved p k at_ s).ti = s.ti := by
  have off : stampsOn s p = false := by rw [stampsOn, shut]; rfl
  have tb : (observe p (xkApply k) at_ s).tb = s.tb := observe_keeps p (xkApply k) at_ s .tb (by decide)
  have off' : stampsOn (observe p (xkApply k) at_ s) p = false := by rw [stampsOn, tb, shut]; rfl
  constructor
  · rw [outputMoved_cs, off]
    rfl
  · rw [outputMoved, off', tb, shut]
    exact observe_keeps p (xkApply k) at_ s .ti (by decide)

end

/-- The output of `CLO` that a crossing leaves (Table 11.1). -/
theorem xkApply_lo (k : XKind) (x : PinSt) : (xkApply k x).lo = (match k with | .cloFall => true | .cloRise => false | _ => x.lo) := by
  cases k <;> rfl

theorem xkApply_hi (k : XKind) (x : PinSt) : (xkApply k x).hi = (match k with | .chiRise => true | .chiFall => false | _ => x.hi) := by
  cases k <;> rfl

/-! ### Stamps given on (R272 to R274) -/

/-- With one change waiting, giving all on gives that one on. -/
theorem flushAll_single {s : State} {x : PendX} (only : s.cs.pendX = [x]) :
    flushAll s = stampOut { s with cs := { s.cs with pendX := [] } } x := by
  rw [flushAll, flushX, only]
  rfl

theorem captures_of_unmarked {s t : State} (h : unmarked t.cs = unmarked s.cs) (key : Nat) : captures t key = captures s key :=
  of_unmarked (f := fun c : CS => c.open_ && c.openAt.any fun t => decide (t ≤ key)) (fun _ => rfl) h

theorem capMode_of_pt {s t : State} (h : t.pt = s.pt) (p : Pin) : capMode t p = capMode s p := by
  rw [capMode, capMode, roomAt, roomAt, h]

theorem repTime_standalone {s : State} (alone : memberShift s = 0) (t : Int) : repTime s t = t := by
  rw [repTime, alone, sub_zero]

theorem stampOf_natCast (n : Nat) : stampOf n = ((64 * ((n + 32) / 64) : Nat) : Int) := by
  rw [stampOf]
  omega

/-- A stamp that a pin in edge mode takes, with room in its queue, enters the stream. -/
theorem streamStamp_taken {p : Pin} {k : XKind} {t : Int} {seen : Nat} {s : State} (taken : captures s t.toNat = true) (mode : capMode s p = 2)
    (room : s.pins[p].qLevel < 64) : (streamStamp p k t seen s).cs = { s.cs with
      data := s.cs.data ++ [{ pin := p, era := s.cs.era, key := t.toNat, raw := false, val := xkCode k }] } := by
  have level : ¬ 64 ≤ s.pins[p].qLevel - 4 * ((seen - s.pins[p].qAt) / 8192) := by omega
  unfold streamStamp
  rw [if_pos ⟨taken, mode⟩]
  exact congrArg State.cs (if_neg level)

/-- The classifier's hits leave the queue level of a pin. -/
theorem classify_qLevel (p : Pin) (k : XKind) (t : Int) (s : State) : (classify p k t s).pins[p].qLevel = s.pins[p].qLevel := by
  have given (l : List RawHit) (u : State) : (l.foldl (giveHit p) u).pins = u.pins := by simp
  unfold classify
  dsimp only
  rw [given, updPin_pins, vupd_self]

/-- A change given on to the stream by a pin in edge mode adds its stamp. -/
theorem stampOut_taken {s : State} {x : PendX} (alone : memberShift s = 0) (mode : capMode s x.pin = 2) (room : s.pins[x.pin].qLevel < 64)
    (taken : captures s (64 * ((x.at_ + 32) / 64)) = true) :
    (stampOut s x).cs.pendX = s.cs.pendX
      ∧ (stampOut s x).cs.data = s.cs.data ++ [{
          pin := x.pin, era := s.cs.era, key := 64 * ((x.at_ + 32) / 64), raw := false, val := xkCode x.kind }] := by
  have time : stampOf (repTime s x.at_) = ((64 * ((x.at_ + 32) / 64) : Nat) : Int) := by
    rw [repTime_standalone alone, stampOf_natCast]
  rw [stampOut, time]
  have same := classify_unmarked x.pin x.kind ((64 * ((x.at_ + 32) / 64) : Nat) : Int) s
  have room' := (classify_qLevel x.pin x.kind ((64 * ((x.at_ + 32) / 64) : Nat) : Int) s).trans_lt room
  have mode' := (capMode_of_pt (classify_frame x.pin x.kind ((64 * ((x.at_ + 32) / 64) : Nat) : Int) s).2.2.2.1 x.pin).trans mode
  generalize classify x.pin x.kind ((64 * ((x.at_ + 32) / 64) : Nat) : Int) s = u at same room' mode'
  have pendX : u.cs.pendX = s.cs.pendX := of_unmarked (f := CS.pendX) (fun _ => rfl) same
  have data : u.cs.data = s.cs.data := of_unmarked (f := CS.data) (fun _ => rfl) same
  have era : u.cs.era = s.cs.era := of_unmarked (f := CS.era) (fun _ => rfl) same
  have taken' : captures u ((64 * ((x.at_ + 32) / 64) : Nat) : Int).toNat = true := by
    rw [Int.toNat_natCast]
    exact (captures_of_unmarked same _).trans taken
  rw [streamStamp_taken taken' mode' room']
  exact ⟨pendX, by rw [data, era]; rfl⟩

/-! ### Spans that time ends (R276) -/

theorem flushX_nothing {s : State} {f : PendX → Bool} (none_ : ∀ x ∈ s.cs.pendX, f x = false) : flushX f s = s := by
  have given : s.cs.pendX.filter f = [] := List.filter_eq_nil_iff.mpr fun x hx => by simp [none_ x hx]
  have kept : (s.cs.pendX.filter fun x => !f x) = s.cs.pendX := List.filter_eq_self.mpr fun x hx => by simp [none_ x hx]
  rw [flushX, given, kept]
  rfl

/-- What the classifier's due times rest on. -/
theorem longDue_congr {s u : State} (pins : u.pins = s.pins) (pt : u.pt = s.pt) (p : Pin) (high : Bool) :
    longDue u p high = longDue s p high := by
  unfold longDue trigBit trigLimit trigAt roomAt
  rw [pins, pt]

theorem toutDue_congr {s u : State} (pins : u.pins = s.pins) (pt : u.pt = s.pt) (p : Pin) : toutDue u p = toutDue s p := by
  unfold toutDue trigBit trigLimit trigAt roomAt
  rw [pins, pt]

/-- The long-width hit of a high pulse, as the only span that ends. -/
theorem clsExpire_longHigh {s : State} {p : Pin} {k : Int} (high : longDue s p true = some k) (low : longDue s p false = none)
    (quiet : toutDue s p = none) :
    ∃ v, clsExpire s p k = ({ s.pins[p].cls with longHi := true }, [(TClass.width, true, v, k)]) := by
  refine ⟨((k - s.pins[p].cls.chiUp.getD 0) / 64).toNat, ?_⟩
  simp [clsExpire, high, low, quiet, Option.filter]

/-- A hit joins those not yet delivered. -/
theorem giveHit_hits (p : Pin) (s : State) (h : RawHit) : (giveHit p s h).cs.hits
    = s.cs.hits ++ [{ pin := p, cls := h.1, side := h.2.1, value := h.2.2.1, key := h.2.2.2.toNat }] := by
  have queued (m : Mark) (u : State) : (queueMark m u).cs.hits = u.cs.hits := by
    unfold queueMark
    split
    · rfl
    split
    · rfl
    · unfold loseMark
      dsimp only
      split
      · rfl
      · rw [issue_cs]
  unfold giveHit
  dsimp only
  split
  · exact queued _ _
  · rfl

theorem exec_triggerSpanTimeout (p : Pin) (s : State) : exec (.triggerSpanTimeout p) s = .next (spanTimeout p s) := rfl

section
variable {s : State} {p : Pin} {k : Int} (high : longDue s p true = some k) (low : longDue s p false = none) (quiet : toutDue s p = none)
  (runs : stampsOn s p = true) (alone : memberShift s = 0) (given : (s.cs.pendX.any fun x => x.pin == p) = false)
include high low quiet runs alone given

/-- The only span of a pin that ends does so at its key. -/
theorem spanTimeout_only : spanTimeout p s = (clsExpire (toEpoch k.toNat s) p k).2.foldl (giveHit p)
    (updPin p (fun x => { x with cls := (clsExpire (toEpoch k.toNat s) p k).1 }) (toEpoch k.toNat s)) := by
  have others : ∀ x ∈ s.cs.pendX, (x.pin == p) = false := by simpa using given
  have due : minKey ((longDue s p true).toList ++ (longDue s p false).toList ++ (toutDue s p).toList) = some k := by
    rw [high, low, quiet]
    rfl
  unfold spanTimeout
  dsimp only
  rw [flushX_nothing fun x hx => by rw [others x hx]; rfl, due]
  dsimp only
  rw [if_pos runs, alone, add_zero]

/-- A high pulse beyond `WMAX` gives one hit, at its step (Table 11.3). -/
theorem spanTimeout_longHigh (pins : (toEpoch k.toNat s).pins = s.pins) (pt : (toEpoch k.toNat s).pt = s.pt) :
    ∃ v, (spanTimeout p s).cs.hits
        = (toEpoch k.toNat s).cs.hits ++ [{ pin := p, cls := .width, side := true, value := v, key := k.toNat }]
      ∧ (spanTimeout p s).pins = vupd (toEpoch k.toNat s).pins p fun x => { x with cls := { (toEpoch k.toNat s).pins[p].cls with longHi := true } } := by
  obtain ⟨v, expired⟩ := clsExpire_longHigh ((longDue_congr pins pt p true).trans high) ((longDue_congr pins pt p false).trans low)
    ((toutDue_congr pins pt p).trans quiet)
  refine ⟨v, ?_⟩
  rw [spanTimeout_only high low quiet runs alone given, expired]
  exact ⟨giveHit_hits p _ _, (giveHit_frame p _ _).2.1⟩

end

/-! ### Hits delivered (R278) -/

theorem exec_triggerHitDelivery {s : State} {h : Hit} (first : firstHit s.cs.hits = some h) (waits : h ∈ (toEpoch (hitFrom s h) s).cs.hits) :
    exec .triggerHitDelivery s
      = .next (deliverHit (ext (toEpoch (hitFrom s h) s)) (toEpoch (hitFrom s h) s) h) := by
  refine congrArg Host.Outcome.next ?_
  rw [first]
  exact if_pos (by simpa using waits)

/-- The hits that remain once those whose window is over have been delivered. -/
theorem deliverDue_hits (s : State) : (deliverDue s).cs.hits = s.cs.hits.diff (s.cs.hits.filter fun h => decide (hitBy s h ≤ ext s)) := by
  rw [deliverDue, List.diff_eq_foldl]
  exact (List.foldl_hom (fun u : State => u.cs.hits) fun _ _ => rfl).symm

theorem not_over_of_mem_deliverDue {s : State} {h : Hit} (mem : h ∈ (deliverDue s).cs.hits) : ext s < hitBy s h := by
  rw [deliverDue_hits] at mem
  by_contra isPast
  have counted : (s.cs.hits.filter fun h => decide (hitBy s h ≤ ext s)).count h = s.cs.hits.count h :=
    List.count_filter (by simpa using isPast)
  have left := List.count_pos_iff.mpr mem
  rw [List.count_diff, counted] at left
  omega

theorem hitBy_congr {s t : State} (en : t.en = s.en) (pt : t.pt = s.pt) (h : Hit) : hitBy t h = hitBy s h := by
  simp only [hitBy, memberShift, mskew, ensAt, roomAt, en, pt]

theorem ext_congr {s t : State} (tb : t.tb = s.tb) : ext t = ext s := by rw [ext, ext, tb]

/-- Time that passes on the edge clock leaves no hit whose window is over (R278). -/
theorem not_over_of_mem_passed {s : State} {h : Hit} (mem : h ∈ (passed s).cs.hits) : ext (passed s) < hitBy (passed s) h := by
  have past (u : State) : (tiuPast u).cs = u.cs := (tiuPast_frame u).2.2.2.2.2.2.2.2.2.1
  have frame := passed_frame s
  rw [ext_congr frame.1, hitBy_congr (s := flushX (stepOver (ext s)) s) (by simp [passed]) (by simp [passed])]
  rw [passed, past] at mem
  exact (ext_congr (flushX_frame _ s).1).symm.trans_lt (not_over_of_mem_deliverDue mem)

theorem pass_passed {n : Nat} {s : State} (edge : s.tb.fabSrc = .edge) (some_ : n ≠ 0) : ∃ u, pass n s = passed u := by
  by_cases wraps : 2 ^ 64 ≤ s.tb.epoch.toNat + 8192 * n
  · exact ⟨_, pass_wraps edge some_ wraps⟩
  · exact ⟨_, pass_below edge some_ (by omega)⟩

/-! ### Raw samples (R280) -/

theorem exec_rawSample {s : State} {p : Pin} {land : Nat} (first : firstRaw p s.cs.raws = some (p, land)) (alone : memberShift s = 0) :
    exec (.rawSample p) s = .next (rawSample p land { toEpoch land s with cs := { (toEpoch land s).cs with
      raws := (toEpoch land s).cs.raws.erase (p, land) } }) := by
  refine congrArg Host.Outcome.next ?_
  rw [first]
  dsimp only
  rw [alone, add_zero, Int.toNat_natCast]

theorem rawSample_cs (p : Pin) (land : Nat) (s : State) : (rawSample p land s).cs
    = { s.cs with data := if captures s (land / 64 * 64) && s.tb.guardOpen[quadOf p] then s.cs.data ++ [{
          pin := p, era := s.cs.era, key := land / 64 * 64, raw := true, val := observed s p }] else s.cs.data } := by
  unfold rawSample
  dsimp only
  split
  · rename_i taken
    rw [if_pos (by simpa using taken)]
  · rename_i missed
    rw [if_neg (by simpa using missed)]

theorem rawSample_keeps (p : Pin) (land : Nat) (s : State) : Keeps [.cs] s (rawSample p land s) := by
  unfold rawSample
  dsimp only
  split
  · exact setCs_keeps _ s
  · exact .refl _ s

end Sys2Proof.Machine

open Sys2Proof Sys2Proof.Machine

/-- Settles O36: a crossing by whether it moves its output and is the first in its step, the change given on, the span that time ends, the hit
delivered, and the raw sample. -/
theorem crossingsTriggersSamples : Obligations.crossingsTriggersSamples := by
  unfold Obligations.crossingsTriggersSamples
  refine ⟨⟨?first, ?second, ?givenOn⟩, ?spans, ?delivered, ?inTime, ?sampled⟩
  case first =>
    intro s p th rise at_ k edge alone u
    have row := exec_crossing_first edge alone
    constructor
    · intro moves
      have outputs := outputMoved_outputs p k at_ u
      refine ⟨_, row.trans (congrArg _ (if_pos moves)), ?_, ?_, fun r other => ?_, outputMoved_unguarded p k at_ u, fun runs free => ?_⟩
      · rw [outputs.lo, vupd_self]
        exact xkApply_lo k _
      · rw [outputs.hi, vupd_self]
        exact xkApply_hi k _
      · rw [outputs.others r other, vupd_other _ _ other.symm]
      · rw [outputMoved_cs, if_pos runs, noteChange_first free]
    · intro still
      exact row.trans (congrArg _ (if_neg (by simpa using still)))
  case second =>
    intro s p th rise at_ x k again moves runs
    refine ⟨_, exec_crossing_second again moves, ?_⟩
    rw [outputMoved_cs, if_pos runs, noteChange_second again]
  case givenOn =>
    intro s x only alone mode room taken
    rw [flushAll_single only]
    exact stampOut_taken (s := { s with cs := { s.cs with pendX := [] } }) alone mode room taken
  case spans =>
    intro s p k high low quiet runs alone given u pins pt _
    obtain ⟨v, hits, moved⟩ := spanTimeout_longHigh high low quiet runs alone given pins pt
    refine ⟨_, _, exec_triggerSpanTimeout p s, hits, rfl, rfl, rfl, rfl, ?_, fun r other => ?_⟩
    · rw [moved, vupd_self]
    · rw [moved, vupd_other _ _ other.symm]
  case delivered =>
    intro s h first u waits
    exact exec_triggerHitDelivery first waits
  case inTime =>
    intro s n edge some_ h mem
    obtain ⟨u, passes_⟩ := pass_passed edge some_
    rw [passes_] at mem ⊢
    exact not_over_of_mem_passed mem
  case sampled =>
    intro s p land first alone u
    refine ⟨_, exec_rawSample first alone, ?_, ?_, ?_⟩
    · rw [rawSample_cs]
    · exact (setCs_keeps _ u).trans (rawSample_keeps p land _)
    · rw [rawSample_cs, observed_eq]
      rfl
end

section
/-! SUPPORT. Units, frames, the ring and the staging region (R282, R284 to R286, R289, R292): what the assembler does where one datum
waits, how a frame closes, and where its bytes go. -/

namespace Sys2Proof.Machine

open Sys2Proof

/-! ### One datum that waits (R282, R284) -/

/-- A stamp is all that waits for the assembler, in one set. -/
structure Alone (ps : Fin 16) (d : Datum) (s : State) : Prop where
  data : s.cs.data = [d]
  marks : s.cs.marks = []
  lostMarks : s.cs.lostMarks = []
  begin_ : s.cs.begin_ = []
  pset : psetOf s d.pin = ps
  raw : d.raw = false

section
variable {ps : Fin 16} {d : Datum} {s : State} (h : Alone ps d s)
include h

theorem Alone.firstDatum : firstDatum s ps = some d := by
  simp [Machine.firstDatum, h.data, h.pset]

theorem Alone.nextMark : nextMark s ps = none := by
  rw [Machine.nextMark, h.begin_, h.marks, h.lostMarks]
  rfl

theorem Alone.nextItem : nextItem ps s = some (d.era, d.key) := by
  rw [Machine.nextItem, h.firstDatum, h.nextMark]

/-- The datum is a unit of its own, unless the unit's last key comes before it. -/
theorem Alone.unitData {limit : Option Nat} (within : limit.all (fun k => decide (d.key ≤ k)) = true) : unitData s d limit = [d] := by
  simp [Machine.unitData, h.data, h.raw, within]

theorem Alone.placeKey : placeKey ps s = d.key := by
  rw [Machine.placeKey, h.firstDatum, h.nextMark]
  have unit : Machine.unitData s d (unitLimit d none none) = [d] := h.unitData rfl
  simp [unit]

/-- A datum is placed at 32 ns after its key. -/
theorem Alone.placeItem : placeItem ps (some (d.key + placeLag)) s = placeData ps [d] s := by
  have unit : Machine.unitData s d (unitLimit d none (some (d.key + placeLag))) = [d] := h.unitData (by simp [unitLimit])
  rw [Machine.placeItem, h.firstDatum, h.nextMark]
  exact congrArg (placeData ps · s) unit

theorem Alone.placeNext (closed : s.cs.frames[ps] = none) (noGap : s.cs.gaps = []) :
    placeNext ps (some (d.key + placeLag)) s = placeData ps [d] s := by
  rw [Machine.placeNext, h.nextItem, closed, noGap]
  exact h.placeItem

/-- The assembler's step waits until 32 ns after the key, and for every source that may give an earlier one. -/
theorem Alone.unitPlace (now : d.era = s.cs.era) (standalone : memberShift s = 0) :
    let u := toEpoch (d.key + placeLag) s
    unitPlace ps s = if sourceBehind ps d.key u then u else Machine.placeNext ps (some (d.key + placeLag)) u := by
  rw [Machine.unitPlace, h.nextItem, h.placeKey, standalone]
  simp [now]

end

/-- The frame that opens with a stamp, which is its only unit. -/
def stampFrame (ps : Fin 16) (d : Datum) (s : State) : Frame :=
  { pset := ps, first := d.key, era := d.era, wrap := BitVec.ofNat 16 (min 0xFFFF (d.key / 2 ^ 64)), armseq := armSeqOf s d.era
    units := [(BitVec.ofNat 64 (2 ^ 60 + d.pin.val * 2 ^ 51 + d.val * 2 ^ 48), 0)] }

theorem edgeUnit_alone (d : Datum) : edgeUnit d none = (BitVec.ofNat 64 (2 ^ 60 + d.pin.val * 2 ^ 51 + d.val * 2 ^ 48), 0) := by
  simp [edgeUnit, b2n]

theorem placeData_opens {ps : Fin 16} {d : Datum} {s : State} (data : s.cs.data = [d]) (raw : d.raw = false) (closed : s.cs.frames[ps] = none) :
    placeData ps [d] s = { s with cs := { s.cs with data := [], frames := vset s.cs.frames ps (some (stampFrame ps d s)) } } := by
  rw [placeData, raw]
  simp [putUnit, closed, data, edgeUnit_alone, stampFrame, armSeqOf]

/-! ### Frames that close (R284, R290) -/

theorem mustDrop_of_room {s : State} (room : s.cs.front.length < 1024) : mustDrop s = false := by
  have space : ¬ (1024 ≤ s.cs.front.length ∧ stagingCap s ≤ s.cs.staged.length) := by omega
  rw [mustDrop, decide_eq_false space, Bool.false_and]

theorem endDrop_none {s : State} (noRun : s.cs.dropRun = none) : endDrop s = s := by rw [endDrop, noRun]

section
variable {ps : Fin 16} {f : Frame} {s : State} (flag : Nat) (opened : s.cs.frames[ps] = some f)
include opened

/-- With room in the front a frame that closes waits there. -/
theorem closeFrame_waits (room : s.cs.front.length < 1024) (noRun : s.cs.dropRun = none) :
    closeFrame ps flag s = { s with cs := { s.cs with
      frames := vset s.cs.frames ps none, fseq := s.cs.fseq + 1
      front := s.cs.front ++ [{ f with fseq := s.cs.fseq, flags := f.flags ||| flag }] } } := by
  have stays : frontRoom (withFrames (vset s.cs.frames ps none) (s.cs.fseq + 1) s) = withFrames (vset s.cs.frames ps none) (s.cs.fseq + 1) s :=
    if_pos room
  have keepsIt : mustDrop s = false := mustDrop_of_room room
  rw [withFrames] at stays
  rw [closeFrame, opened]
  simp only [keepsIt, stays, Bool.false_eq_true, if_false]
  exact endDrop_none noRun

/-- With front and staging region full it is dropped. -/
theorem closeFrame_drops (full : mustDrop s = true) : closeFrame ps flag s
    = dropFrame { f with fseq := s.cs.fseq, flags := f.flags ||| flag } (withFrames (vset s.cs.frames ps none) (s.cs.fseq + 1) s) := by
  rw [closeFrame, opened]
  exact if_pos full

end

/-- `FLUSH` microseconds after its `FIRST_EPOCH` an open frame closes. -/
theorem exec_frameFlushExpiry {ps : Fin 16} {f : Frame} {s : State} (opened : s.cs.frames[ps] = some f) (standalone : memberShift s = 0) :
    exec (.frameFlushExpiry ps) s = .next (closeFrame ps 1 (toEpoch (f.first + 8192000 * s.cs.flush) s)) := by
  show Host.Outcome.next (match s.cs.frames[ps] with
    | none => s
    | some f => closeFrame ps 1 (toEpoch (((f.first : Int) + memberShift s).toNat + 8192000 * s.cs.flush) s)) = _
  rw [opened, standalone]
  simp

theorem returnMarks_nil (s : State) : returnMarks [] s = s := by simp [returnMarks]

/-- Of a dropped frame without marks nothing returns to the mark queue. -/
theorem dropFrame_markless {f : Frame} (s : State) (markless : f.kept = []) : ∃ gaps run, dropFrame f s = { s with cs := { s.cs with
    gaps := gaps, dropRun := run, dropped := true, fresh := freshen s 0x100 s.cs.fresh
    dropFrames := satSucc 0xFFFFFFFF s.cs.dropFrames } } := by
  rw [dropFrame, markless]
  exact ⟨_, _, returnMarks_nil _⟩

/-! ### A frame's bytes (Table 11.6a) -/

theorem padTo_length {n : Nat} {l : List Byte} (fits : l.length ≤ n) : (padTo n l).length = n := by
  simp [padTo, zeros]
  omega

/-- A frame of at most 252 units is 4,096 bytes. -/
theorem frameBytes_length (openSeq : Nat) {f : Frame} (fits : f.units.length ≤ 252) : (frameBytes openSeq f).length = 4096 := by
  have units : (f.units.flatMap fun u => leBytes 8 u.1.toNat ++ leBytes 8 u.2.toNat).length ≤ 4032 := by
    simp [List.length_flatMap]
    omega
  simp [frameBytes, padTo_length units, zeros]

/-! ### The ring (R285, R286) -/

/-- What sending a frame leaves, with `PROD_WB` and the message off: its bytes at the producer's place in the ring, and the pointers advanced. -/
structure SentFrame (f : Frame) (s t : State) : Prop where
  bytes : memRead 0 t.hostMem (s.cs.ringBase + s.cs.prod % 2 ^ 48) 4096 = frameBytes s.cs.openSeq f
  others : HostSameOutside (s.cs.ringBase + s.cs.prod % 2 ^ 48) 4096 s t
  prod : t.cs.prod = ringNext s.cs.log2 s.cs.prod
  sent : t.cs.sent = (s.cs.sent + 1) % 2 ^ 64
  lastSent : t.cs.lastSent = f.fseq

/-- The stream without the frames that wait. -/
def unwaiting (c : CS) : CS := { c with front := [], staged := [] }

section
variable {f : Frame} {s t u : State}

theorem SentFrame.all (h : SentFrame f s t) :
    memRead 0 t.hostMem (s.cs.ringBase + s.cs.prod % 2 ^ 48) 4096 = frameBytes s.cs.openSeq f
      ∧ HostSameOutside (s.cs.ringBase + s.cs.prod % 2 ^ 48) 4096 s t ∧ t.cs.prod = ringNext s.cs.log2 s.cs.prod
      ∧ t.cs.sent = (s.cs.sent + 1) % 2 ^ 64 ∧ t.cs.lastSent = f.fseq := ⟨h.bytes, h.others, h.prod, h.sent, h.lastSent⟩

theorem SentFrame.of_same (h : SentFrame f s t) (cs : u.cs = t.cs) (host : u.hostMem = t.hostMem) : SentFrame f s u where
  bytes := by rw [host, h.bytes]
  others := by
    intro x outside
    rw [host]
    exact h.others x outside
  prod := by rw [cs, h.prod]
  sent := by rw [cs, h.sent]
  lastSent := by rw [cs, h.lastSent]

/-- Which frames wait beside it does not matter to a frame that is sent. -/
theorem SentFrame.beside (h : SentFrame f u t) (cs : unwaiting u.cs = unwaiting s.cs) (host : u.hostMem = s.hostMem) : SentFrame f s t := by
  have same {α : Type} (f : CS → α) (outside : ∀ c, f (unwaiting c) = f c) : f u.cs = f s.cs :=
    (outside _).symm.trans ((congrArg f cs).trans (outside _))
  have base := same CS.ringBase fun _ => rfl
  have prod := same CS.prod fun _ => rfl
  have openSeq := same CS.openSeq fun _ => rfl
  have log2 := same CS.log2 fun _ => rfl
  have sent := same CS.sent fun _ => rfl
  obtain ⟨hbytes, hothers, hprod, hsent, hlast⟩ := h
  rw [base, prod, openSeq] at hbytes
  rw [base, prod, HostSameOutside, host] at hothers
  rw [log2, prod] at hprod
  rw [sent] at hsent
  exact ⟨hbytes, hothers, hprod, hsent, hlast⟩

end

/-- A stream that sends frames without the producer's copy and without the message. -/
structure Quiet (s : State) : Prop where
  prodWb : s.cs.prodWb = 0
  irqFrames : s.cs.irqFrames = 0

theorem Quiet.sendFrame_eq {s : State} (h : Quiet s) (f : Frame) :
    ∃ n at_, sendFrame f s = { s with
      hostMem := memWrite 0 s.hostMem (s.cs.ringBase + s.cs.prod % 2 ^ 48) (frameBytes s.cs.openSeq f)
      cs := { s.cs with
        prod := ringNext s.cs.log2 s.cs.prod, sent := (s.cs.sent + 1) % 2 ^ 64, lastSent := f.fseq, unsig := n, unsigAt := at_ } } := by
  have silent : decide (s.cs.irqFrames ≠ 0 ∧ s.cs.irqFrames ≤ s.cs.unsig + 1) = false := by simp [h.irqFrames]
  simp only [sendFrame, if_pos h.prodWb, silent, Bool.false_eq_true, if_false]
  exact ⟨_, _, rfl⟩

section
variable {f : Frame} {s : State} (quiet : Quiet s) (wf : Memory.wf 0 s.hostMem = true) (fits : f.units.length ≤ 252)
include quiet

theorem Quiet.sendFrame_keeps (f : Frame) : Keeps [.cs, .hostMem] s (sendFrame f s) := by
  obtain ⟨n, at_, eq⟩ := quiet.sendFrame_eq f
  rw [eq]
  intro p hp
  cases p <;> first | exact absurd (by decide) hp | rfl

theorem Quiet.sendFrame_waiting (f : Frame) : (sendFrame f s).cs.front = s.cs.front ∧ (sendFrame f s).cs.staged = s.cs.staged := by
  obtain ⟨n, at_, eq⟩ := quiet.sendFrame_eq f
  rw [eq]
  exact ⟨rfl, rfl⟩

include wf fits

theorem Quiet.sendFrame_sent : SentFrame f s (sendFrame f s) := by
  obtain ⟨n, at_, eq⟩ := quiet.sendFrame_eq f
  have length := frameBytes_length s.cs.openSeq fits
  rw [eq]
  refine ⟨?_, ?_, rfl, rfl, rfl⟩
  · have read := memRead_memWrite 0 s.hostMem (s.cs.ringBase + s.cs.prod % 2 ^ 48) (frameBytes s.cs.openSeq f) wf
    rwa [length] at read
  · intro x outside
    exact memGet_memWrite_other 0 s.hostMem _ _ x wf (by rwa [length])

end

theorem exec_frameSend {f : Frame} {r : List Frame} {s : State} (front : s.cs.front = f :: r) :
    exec .frameSend s = .next (if direct s then sendFrame f { s with cs := { s.cs with front := r } } else s) := by
  show Host.Outcome.next (match s.cs.front with | [] => s | _ :: _ => if direct s then sendOldest s else s) = _
  rw [sendOldest, front]

theorem direct_iff (s : State) : direct s = true ↔ s.cs.staged = [] ∧ 4096 ≤ ringFree s := by
  simp [direct]

/-! ### The staging region (R289) -/

/-- Slots pass without a change of the region map. -/
theorem inSlot_regions (c : SlotClass) (n : Nat) (s : State) : (inSlot c n s).pm.regions = s.pm.regions :=
  (congrArg PM.regions (inSlot_unstaged c n s) :)

/-- What writing a frame to the staging region leaves: its bytes at the next place of the region, and the frame among those it holds. -/
structure StagedFrame (f : Frame) (r : List Frame) (s t : State) : Prop where
  front : t.cs.front = r
  staged : t.cs.staged = s.cs.staged ++ [f]
  next : t.cs.stagedAt = s.cs.stagedAt + 1
  bytes : dramRead t (stageAddr s s.cs.stagedAt) 4096 = frameBytes s.cs.openSeq f
  others : DramSameOutside (stageAddr s s.cs.stagedAt) 4096 s t
  keeps : Keeps [.cs, .pm, .hi, .mg] s t

theorem StagedFrame.of_same {f : Frame} {r : List Frame} {s t v : State} (h : StagedFrame f r s t) (cs : v.cs = t.cs) (pm : v.pm = t.pm)
    (keeps : Keeps [.hi, .mg] t v) : StagedFrame f r s v where
  front := by rw [cs, h.front]
  staged := by rw [cs, h.staged]
  next := by rw [cs, h.next]
  bytes := by rw [← h.bytes, dramRead, dramRead, pm]
  others := by
    intro x outside
    rw [pm]
    exact h.others x outside
  keeps := h.keeps.trans (keeps.mono (by simp))

/-- The oldest frame of the front is written, with an event if the region was empty (Table 11.7). -/
theorem stageOldest_stages {f : Frame} {r : List Frame} {s : State} (front : s.cs.front = f :: r) (power : dramOn s = true)
    (wf : Memory.wf 0 s.pm.dram = true) (fits : f.units.length ≤ 252) : StagedFrame f r s (stageOldest s) := by
  have length := frameBytes_length s.cs.openSeq fits
  have written := dramWrite_keeps (stageAddr s s.cs.stagedAt) (frameBytes s.cs.openSeq f) s
  have read := dramRead_dramWrite power wf (stageAddr s s.cs.stagedAt) (frameBytes s.cs.openSeq f)
  have others : DramSameOutside (stageAddr s s.cs.stagedAt) 4096 s (dramWrite (stageAddr s s.cs.stagedAt) (frameBytes s.cs.openSeq f) s) :=
    fun x outside => dramByte_dramWrite_other wf _ _ x (by rwa [length])
  rw [length] at read
  unfold stageOldest
  rw [front]
  dsimp only
  generalize dramWrite (stageAddr s s.cs.stagedAt) (frameBytes s.cs.openSeq f) s = w at written read others ⊢
  have cs : w.cs = s.cs := written .cs (by decide)
  have stages (peak episode : Nat) : StagedFrame f r s { w with cs := { w.cs with
      front := r, staged := w.cs.staged ++ [f], stagedAt := w.cs.stagedAt + 1, stagedPeak := peak, episodeN := episode } } := {
    front := rfl
    staged := by rw [cs]
    next := by rw [cs]
    bytes := read
    others := others
    keeps := (written.mono (by simp)).trans ((setCs_keeps _ w).mono (by simp)) }
  split
  · exact (stages _ _).of_same (issue_cs ..) (issue_keeps _ _ _ .pm (by decide)) (issue_keeps _ _ _)
  · exact stages _ _

theorem exec_stagingWrite {s : State} (waits : s.cs.front ≠ []) (indirect : s.cs.staged ≠ [] ∨ ringFree s < 4096)
    (room : s.cs.staged.length < stagingCap s) : exec .stagingWrite s = .next (stageOldest (inSlot .stream 4096 s)) := by
  refine congrArg Host.Outcome.next (if_neg ?_)
  simp only [List.isEmpty_iff, not_or, not_and]
  refine ⟨waits, fun empty => ?_, by omega⟩
  have := indirect.resolve_left (not_not.mpr empty)
  omega

/-! ### Host memory while the staging region holds a frame (R289, R290) -/

/-- The staging region holds a frame, so that no frame goes to the ring but by way of it; and host memory is `m`. -/
structure RingStill (m : Mem) (s : State) : Prop where
  staged : s.cs.staged ≠ []
  host : s.hostMem = m

section
variable {m : Mem} {s : State}

theorem RingStill.of_same (h : RingStill m s) {t : State} (staged : t.cs.staged = s.cs.staged) (host : t.hostMem = s.hostMem) : RingStill m t :=
  ⟨by rw [staged]; exact h.staged, by rw [host]; exact h.host⟩

theorem RingStill.of_unstamped (h : RingStill m s) {t : State} (cs : unstamped t.cs = unstamped s.cs) (host : t.hostMem = s.hostMem) :
    RingStill m t :=
  h.of_same (Machine.of_unstamped (f := CS.staged) (fun _ => rfl) cs) host

theorem RingStill.foldl {α : Type} {f : State → α → State} (step : ∀ t x, RingStill m t → RingStill m (f t x)) (l : List α)
    (h : RingStill m s) : RingStill m (l.foldl f s) := by
  induction l generalizing s with
  | nil => exact h
  | cons x l ih => exact ih (step s x h)

theorem RingStill.stageOldest (h : RingStill m s) : RingStill m (stageOldest s) := by
  have host : (Machine.stageOldest s).hostMem = s.hostMem := by simp
  cases front : s.cs.front with
  | nil =>
    rw [Machine.stageOldest, front]
    exact h
  | cons f r =>
    obtain ⟨_, _, _, cs⟩ := stageOldest_cs front h.staged
    refine ⟨?_, host.trans h.host⟩
    rw [cs]
    exact List.append_ne_nil_of_right_ne_nil _ (List.cons_ne_nil f [])

theorem RingStill.frontRoom (h : RingStill m s) : RingStill m (frontRoom s) := by
  have indirect : ¬ direct s = true := fun d => h.staged ((direct_iff s).mp d).1
  unfold Machine.frontRoom
  split
  · exact h
  · refine RingStill.stageOldest (h.of_same ?_ ?_) <;> simp

theorem endDrop_staged (s : State) : (endDrop s).cs.staged = s.cs.staged := by
  unfold endDrop
  split
  · rfl
  · rw [issue_cs]

theorem returnMarks_staged (l : List Mark) (s : State) : (returnMarks l s).cs.staged = s.cs.staged :=
  foldl_keeps (fun u : State => u.cs.staged) (fun u x => of_unmarked (f := CS.staged) (fun _ => rfl) (loseMark_unmarked x u)) _ _

theorem RingStill.closeFrame (h : RingStill m s) (ps : Fin 16) (flag : Nat) : RingStill m (closeFrame ps flag s) := by
  unfold Machine.closeFrame
  split
  · exact h
  · dsimp only
    split
    · exact h.of_same (returnMarks_staged _ _) (by simp)
    · have waits : RingStill m (Machine.frontRoom (withFrames (vset s.cs.frames ps none) (s.cs.fseq + 1) s)) :=
        RingStill.frontRoom (h.of_same rfl rfl)
      exact waits.of_same (endDrop_staged _) (by simp only [endDrop_frame, withFrames])

theorem RingStill.putUnit (h : RingStill m s) (ps : Fin 16) (era key : Nat) (w0 w1 : W64) (mk : Option Mark) (flag : Nat) :
    RingStill m (putUnit ps era key w0 w1 mk flag s) := by
  unfold Machine.putUnit
  dsimp only
  split
  · refine RingStill.closeFrame ?_ ps 0
    exact h.of_same rfl rfl
  · exact h.of_same rfl rfl

theorem RingStill.placeData (h : RingStill m s) (ps : Fin 16) (l : List Datum) : RingStill m (placeData ps l s) := by
  unfold Machine.placeData
  split
  · exact h
  · dsimp only
    split
    all_goals
      refine RingStill.putUnit ?_ ..
      exact h.of_same rfl rfl

theorem RingStill.placeMark (h : RingStill m s) (x : Mark) : RingStill m (placeMark x s) := h.putUnit ..

theorem RingStill.placeQueued (h : RingStill m s) (x : Mark) : RingStill m (placeQueued x s) := by
  unfold Machine.placeQueued
  split
  · refine RingStill.placeMark ?_ x
    exact h.of_same rfl rfl
  · split
    all_goals
      refine RingStill.placeMark ?_ x
      exact h.of_same rfl rfl

theorem RingStill.placeItem (h : RingStill m s) (ps : Fin 16) (upTo : Option Nat) : RingStill m (placeItem ps upTo s) := by
  unfold Machine.placeItem
  split
  · exact h
  · exact h.placeData ..
  · exact h.placeQueued ..
  · split
    · exact h.placeQueued ..
    · exact h.placeData ..

theorem RingStill.placeNext (h : RingStill m s) (ps : Fin 16) (upTo : Option Nat) : RingStill m (placeNext ps upTo s) := by
  unfold Machine.placeNext stalePlace
  split
  · exact h
  · split
    · split
      · split
        · exact h
        · exact h.closeFrame ..
      · exact h.placeItem ..
    · split
      · refine RingStill.foldl (fun _ x h => h.placeMark x) _ ?_
        exact h.of_same rfl rfl
      · exact h.placeItem ..

theorem RingStill.placeAll (h : RingStill m s) (ps : Fin 16) (upTo : Option Nat) (n : Nat) : RingStill m (placeAll ps upTo n s) := by
  induction n generalizing s with
  | zero => exact h
  | succ n ih =>
    rw [Machine.placeAll]
    split
    · exact ih (h.placeNext ps upTo)
    · exact h

theorem RingStill.closeEpoch (h : RingStill m s) : RingStill m (closeEpoch s) :=
  RingStill.foldl (fun _ ps h => (h.placeAll ps _ _).closeFrame ps _) _ h

theorem RingStill.epochMark (h : RingStill m s) (kind key : Nat) (w1 : W64) : RingStill m (epochMark kind key w1 s) := by
  unfold Machine.epochMark
  split
  · exact h.of_same rfl rfl
  · exact h

theorem RingStill.flushX (h : RingStill m s) (f : PendX → Bool) : RingStill m (flushX f s) := h.of_unstamped (flushX_unstamped f s) (by simp)

theorem RingStill.wrapEffects (h : RingStill m s) : RingStill m (wrapEffects s) := by
  have noted : RingStill m (wrapNoted s) := h.of_same (congrArg CS.staged (wrapNoted_frame s).1) (by simp [wrapNoted])
  rw [wrapEffects_eq]
  refine RingStill.epochMark ?_ _ _ _
  split
  · exact (noted.flushX _).closeEpoch
  · exact noted

theorem RingStill.passed (h : RingStill m s) : RingStill m (passed s) := by
  have delivers (u : State) : (deliverDue u).cs.staged = u.cs.staged :=
    foldl_keeps (fun v : State => v.cs.staged) (f := fun v h => deliverHit (hitBy u h) v h) (fun _ _ => rfl) _ u
  have settles (u : State) : (tiuPast u).cs.staged = u.cs.staged := by simp [tiuPast]
  exact (h.flushX _).of_same ((settles _).trans (delivers _)) (by simp)

theorem RingStill.pass (h : RingStill m s) (n : Nat) : RingStill m (pass n s) := by
  unfold Machine.pass
  dsimp only
  split
  · split
    · exact h.of_same rfl rfl
    · refine RingStill.passed ?_
      split
      · refine RingStill.wrapEffects ?_
        exact h.of_same rfl rfl
      · exact h.of_same rfl rfl
  · exact h.of_same rfl rfl

/-- While a transfer waits for its slots, the ring stays as it is. -/
theorem RingStill.inSlot (h : RingStill m s) (c : SlotClass) (n : Nat) : RingStill m (inSlot c n s) := by
  unfold Machine.inSlot
  split
  · refine RingStill.pass (h.of_same ?_ ?_) _ <;> simp
  · exact h

end

/-! ### A staged frame that is read (R289, R292) -/

/-- The slots of a staged frame's read have come, and it has left the region, which keeps the frames `r`. -/
def unstage (r : List Frame) (s : State) : State :=
  { inSlot .stream 4096 s with cs := { (inSlot .stream 4096 s).cs with staged := r } }

theorem unstage_keeps (r : List Frame) (s : State) : Keeps [.cs] (inSlot .stream 4096 s) (unstage r s) := setCs_keeps _ _

section
variable {f : Frame} {r : List Frame} {s : State} (staged : s.cs.staged = f :: r) (room : 4096 ≤ ringFree s)
include staged

theorem unstage_hostMem : (unstage r s).hostMem = s.hostMem :=
  (RingStill.inSlot (m := s.hostMem) ⟨by rw [staged]; exact List.cons_ne_nil f r, rfl⟩ .stream 4096).host

variable (still : (inSlot .stream 4096 s).cs = s.cs)
include room still

/-- The oldest staged frame is read once its slots have come, and goes to the ring or is lost. -/
theorem stageRead_eq (dr : DramFind) : ∃ addr, stageRead dr s
    = stageEmpty (if dr.ecc = .uncorrectable then unreadable f addr (noteEcc dr.ecc addr (unstage r s))
      else sendFrame f (noteEcc dr.ecc addr (unstage r s))) := by
  have reads : ¬ (s.cs.staged.isEmpty = true ∨ ringFree s < 4096) := by simp [staged, room]
  unfold stageRead
  rw [if_neg reads]
  dsimp only
  split
  · rename_i empty
    rw [still, staged] at empty
    cases empty
  · rename_i g q slots
    rw [still, staged] at slots
    cases slots
    exact ⟨_, rfl⟩

theorem stageRead_clean : stageRead {} s = stageEmpty (sendFrame f (unstage r s)) := by
  obtain ⟨_, eq⟩ := stageRead_eq staged room still {}
  exact eq

/-- Read clean, it goes to the ring. -/
theorem stageRead_sends (quiet : Quiet s) (wf : Memory.wf 0 s.hostMem = true) (fits : f.units.length ≤ 252) :
    SentFrame f s (stageRead {} s) ∧ (stageRead {} s).cs.staged = r
      ∧ Keeps [.cs, .hostMem, .hi, .mg] (inSlot .stream 4096 s) (stageRead {} s) := by
  have cs : (unstage r s).cs = { s.cs with staged := r } := congrArg (fun c : CS => { c with staged := r }) still
  have host := unstage_hostMem staged
  have quiet' : Quiet (unstage r s) := ⟨by rw [cs]; exact quiet.prodWb, by rw [cs]; exact quiet.irqFrames⟩
  have sent : SentFrame f (unstage r s) (sendFrame f (unstage r s)) := quiet'.sendFrame_sent (by rw [host]; exact wf) fits
  have emptied := stageEmpty_keeps (sendFrame f (unstage r s))
  have sameCs : (stageEmpty (sendFrame f (unstage r s))).cs = (sendFrame f (unstage r s)).cs := emptied .cs (by decide)
  rw [stageRead_clean staged room still]
  refine ⟨?_, ?_, ?_⟩
  · exact (sent.of_same sameCs (emptied .hostMem (by decide))).beside (by rw [cs]; rfl) host
  · rw [sameCs, (quiet'.sendFrame_waiting f).2, cs]
  · exact (((unstage_keeps r s).mono (by simp)).trans ((quiet'.sendFrame_keeps f).mono (by simp))).trans (emptied.mono (by simp))

/-- Read with an uncorrectable error, it is dropped and counted. -/
theorem stageRead_drops (at_ : Nat) : ∃ t, stageRead { ecc := .uncorrectable, at_ := at_ } s = t ∧ t.cs.staged = r ∧ t.hostMem = s.hostMem
    ∧ t.cs.stageUe = true ∧ t.cs.dropFrames = satSucc 0xFFFFFFFF s.cs.dropFrames ∧ t.cs.prod = s.cs.prod := by
  obtain ⟨addr, eq⟩ := stageRead_eq staged room still { ecc := .uncorrectable, at_ := at_ }
  have emptied (t : State) : (stageEmpty t).cs = t.cs ∧ (stageEmpty t).hostMem = t.hostMem :=
    ⟨stageEmpty_keeps t .cs (by decide), stageEmpty_keeps t .hostMem (by decide)⟩
  have issued (c : Nat) (l : List Item) (t : State) : (issue c l t).hostMem = t.hostMem := issue_keeps c l t .hostMem (by decide)
  refine ⟨_, eq, ?_⟩
  rw [(emptied _).1, (emptied _).2, if_pos rfl, unreadable, issue_cs, issued]
  have counted := congrArg (fun c : CS => satSucc 0xFFFFFFFF c.dropFrames) still
  have prod := congrArg CS.prod still
  exact ⟨rfl, unstage_hostMem staged, rfl, counted, prod⟩

end

end Sys2Proof.Machine

open Sys2Proof Sys2Proof.Machine

/-- Settles O37: the assembler by what stands behind the datum, the frame that closes by the room in the front, and a frame by its
way to the ring: from the front, to the staging region, or from there. -/
theorem framesReachTheHost : Obligations.framesReachTheHost := by
  unfold Obligations.framesReachTheHost
  refine ⟨⟨?places, ?flushes⟩, ?sends⟩
  case places =>
    intro s ps d lostMarks data marks begin_ now pset raw _ standalone u
    have waits : Alone ps d s := ⟨data, marks, lostMarks, begin_, pset, raw⟩
    have row : exec (.unitPlace ps) s = .next (if sourceBehind ps d.key u then u else placeNext ps (some (d.key + placeLag)) u) :=
      congrArg Host.Outcome.next (waits.unitPlace now standalone)
    constructor
    · intro behind
      rw [row, if_pos behind]
    · intro past data marks lostMarks closed begin_ noGap pset
      have alone : Alone ps d u := ⟨data, marks, lostMarks, begin_, pset, raw⟩
      rw [row, if_neg (by simp [past]), alone.placeNext closed noGap, placeData_opens data raw closed]
      refine ⟨_, stampFrame ps d u, rfl, vset_self .., rfl, rfl, rfl, rfl, rfl, ?_, setCs_keeps _ u⟩
      exact fun r other => vset_other _ _ (Ne.symm other)
  case flushes =>
    intro s ps f opened standalone u still
    have row : exec (.frameFlushExpiry ps) s = .next (closeFrame ps 1 u) := exec_frameFlushExpiry opened standalone
    constructor
    · intro room noRun
      rw [row, closeFrame_waits 1 still room noRun]
    · intro full markless
      obtain ⟨gaps, run, dropped⟩ := dropFrame_markless
        (f := { f with fseq := u.cs.fseq, flags := f.flags ||| 1 }) (withFrames (vset u.cs.frames ps none) (u.cs.fseq + 1) u) markless
      rw [row, closeFrame_drops 1 still full, dropped]
      exact ⟨_, rfl, vset_self .., rfl, rfl, rfl, rfl, setCs_keeps _ u⟩
  case sends =>
    intro s f r prodWb irqFrames wf fits bytes place u sent
    have quiet : Quiet s := ⟨prodWb, irqFrames⟩
    refine ⟨frameBytes_length _ fits, ?front, ?region⟩
    case front =>
      intro front
      refine ⟨?direct, ?waits, ?stages⟩
      case direct =>
        intro empty room
        have quietU : Quiet { s with cs := { s.cs with front := r } } := ⟨prodWb, irqFrames⟩
        rw [exec_frameSend front, if_pos ((direct_iff s).mpr ⟨empty, room⟩)]
        refine ⟨_, rfl, ((quietU.sendFrame_sent wf fits).beside rfl rfl).all, (quietU.sendFrame_waiting f).1, ?_⟩
        exact ((setCs_keeps _ s).mono (by simp)).trans (quietU.sendFrame_keeps f)
      case waits =>
        intro indirect
        rw [exec_frameSend front, if_neg]
        intro d
        obtain ⟨empty, room⟩ := (direct_iff s).mp d
        exact indirect.elim (fun held => held empty) (fun less => by omega)
      case stages =>
        intro indirect room still wfDram power
        have power' : dramOn u = true := (dramOn_of_logless (inSlot_logless ..)).trans power
        have stages : StagedFrame f r u (stageOldest u) := stageOldest_stages (by rw [still, front]) power' wfDram fits
        have addr : stageAddr u u.cs.stagedAt = stageAddr s s.cs.stagedAt := by
          rw [still]
          exact stageAddr_of_regions (inSlot_regions .stream 4096 s) _
        rw [exec_stagingWrite (by simp [front]) indirect room]
        refine ⟨_, rfl, stages.front, ?_, ?_, ?_, ?_, stages.keeps⟩
        · rw [stages.staged, still]
        · rw [stages.next, still]
        · rw [← addr, stages.bytes, still]
        · rw [← addr]
          exact stages.others
    case region =>
      intro staged room still
      constructor
      · obtain ⟨sentFrame, left, keeps⟩ := stageRead_sends staged room still quiet wf fits
        exact ⟨_, rfl, sentFrame.all, left, keeps⟩
      · intro at_
        obtain ⟨t, eq, left, host, flag, count, prod⟩ := stageRead_drops staged room still at_
        exact ⟨t, congrArg Host.Outcome.next eq, left, host, flag, count, prod⟩
end

section
/-! SUPPORT. The commands of the time-interval units and the snapshot (R314 to R317): units changed alike, the checks of the three
commands, the blocks in the `TI_RES` window, and the statement on them. -/

namespace Sys2Proof.Machine

open Sys2Proof

/-! ### The TIUs of a mask -/

theorem mem_maskBits {n m : Nat} {i : Fin n} : i ∈ maskBits n m ↔ m.testBit i.val = true := by simp [maskBits]

theorem maskBits_nodup (n m : Nat) : (maskBits n m).Nodup := (List.nodup_finRange n).filter _

theorem maskBits_two_pow (g : Glove) : maskBits 64 (2 ^ g.val) = [g] := by
  rw [← maskBits_single g, BitVec.toNat_shiftLeft, Nat.shiftLeft_eq]
  exact congrArg _ ((Nat.mod_eq_of_lt (by simpa using Nat.pow_lt_pow_right Nat.one_lt_two g.isLt)).trans (Nat.one_mul _)).symm

/-- Several units changed alike. -/
def updTius (f : Tiu → Tiu) (l : List Glove) (s : State) : State := l.foldl (fun u g => updTiu g f u) s

theorem updTius_unit (f : Tiu → Tiu) {l : List Glove} (distinct : l.Nodup) (k : Glove) (s : State) :
    (updTius f l s).ti.units[k] = if k ∈ l then f s.ti.units[k] else s.ti.units[k] := by
  induction l generalizing s with
  | nil => rfl
  | cons g l ih =>
    obtain ⟨fresh, distinct⟩ := List.nodup_cons.mp distinct
    refine (ih distinct (updTiu g f s)).trans ?_
    by_cases same : k = g
    · subst same
      rw [if_neg fresh, if_pos List.mem_cons_self, updTiu_self]
    · rw [updTiu_other f s same]
      simp only [List.mem_cons, same, false_or]

theorem updTius_keeps (f : Tiu → Tiu) (l : List Glove) (s : State) : Keeps [.ti] s (updTius f l s) :=
  foldl_partKeeps (fun t g => updTiu_keeps g f t) l s

/-! ### The commands (R314, R316, R317) -/

/-- An effect that leaves the host interface, and then the completion. -/
theorem answer_after {l : List Part} {s t : State} (e : Exec) (status : Nat) (data : List Byte) (kept : Keeps l s t) (other : Part.hi ∉ l) :
    Answered e status data s (answer e status data t) := by
  have hi : t.hi = s.hi := kept .hi other
  rw [Answered, ← hi]
  exact answer_answered e status data t

theorem answer_after_keeps {l : List Part} {s t : State} (e : Exec) (status : Nat) (data : List Byte) (kept : Keeps l s t) :
    Keeps (.hi :: l) s (answer e status data t) :=
  (kept.mono fun _ h => List.mem_cons_of_mem _ h).trans ((answer_keeps e status data t).mono (by simp))

/-- A field of `n` bytes is below `256 ^ n`. -/
theorem fieldAt_lt (l : List Byte) (o n : Nat) : fieldAt l o n < 256 ^ n :=
  (leNat_lt _).trans_le (Nat.pow_le_pow_right (by decide) (by simp [slice]))

section
variable {s : State} {tag : W16} {e : Exec}

theorem exec_tiClear (runs : executing 0x0B02 tag s = some e) : exec (.tiClear tag) s = .next (tiClearCmd e s) :=
  congrArg Host.Outcome.next (runCmd_some runs _)

theorem exec_tiConfig (runs : executing 0x0B01 tag s = some e) : exec (.tiConfig tag) s = .next (tiConfigCmd e s) :=
  congrArg Host.Outcome.next (runCmd_some runs _)

theorem exec_tiRead (runs : executing 0x0B03 tag s = some e) : exec (.tiRead tag) s = .next (tiReadCmd e s) :=
  congrArg Host.Outcome.next (runCmd_some runs _)

/-- With the reserved bytes 0, the mask and the use of its TIUs decide the answer of `TI_CLEAR` (Table 12.6). -/
theorem tiClearCmd_checks (rest : payZero e 8 40 = true) : tiClearCmd e s = checked
    [(payF e 0 8 == 0, eInval), (tiuInUse s (payF e 0 8), eBusy)] e
    (fun t => answer e eOk [] (updTius tiuClear (maskBits 64 (payF e 0 8)) t)) s := by
  rw [tiClearCmd, rest, Bool.not_true, Bool.or_false]
  rfl

/-- A good record for one TIU that no line gates and that is not in use is taken (R299, R317). -/
theorem tiConfigCmd_one {g : Glove} (mask : payF e 0 8 = 2 ^ g.val) (len : e.ind.length = 40)
    (ok : tiRecOk (slice e.ind 8 32) = true) (mark : tiRecMark (slice e.ind 8 32) = false)
    (free : tiuInUse s (2 ^ g.val) = false) (ungated : fieldAt (slice e.ind 8 32) 16 1 = 0) :
    tiConfigCmd e s = answer e eOk [] (updTiu g (tiApply (slice e.ind 8 32)) s) := by
  have recs : tiRecords e (2 ^ g.val) = [(g, slice e.ind 8 32)] := by
    rw [tiRecords, maskBits_two_pow]
    rfl
  have some_ : (2 ^ g.val == 0) = false := by simp
  rw [tiConfigCmd, mask, recs, checked_pass (by simp [some_, len]), checked_pass (by simp [ok]), checked_pass (by simp [mark]),
    checked_pass free, checked_nil]
  exact congrArg (answer e eOk []) (if_neg fun gated => gated.1 ungated)

/-- `TI_READ` with a mask, an aligned address and reserved bytes 0 writes the blocks kept at its start (R316, R317). -/
theorem tiReadCmd_good (mask : fieldAt e.entry.pay 0 8 ≠ 0) (aligned : fieldAt e.entry.pay 8 8 % 8 = 0)
    (rest : allZero (slice e.entry.pay 16 32) = true) :
    tiReadCmd e s = answer e eOk [] (hostWrite (fieldAt e.entry.pay 8 8) e.ind s) := by
  rw [tiReadCmd, checked_pass (by simp [mask, aligned, rest]), checked_nil]

end

theorem hostWrite_keeps (a : Nat) (l : List Byte) (s : State) : Keeps [.hostMem] s (hostWrite a l s) := by
  intro p hp
  cases p <;> simp [samePart] at hp ⊢

/-! ### The snapshot (R315, Table 12.4) -/

theorem tiuBlock_length (u : Tiu) : (tiuBlock u).length = 64 := by simp [tiuBlock]

/-- A block put at its place in the `TI_RES` window. -/
def putBlock (s : State) (m : Mem) (g : Glove) : Mem := memWrite 0 m (64 * g.val) (tiuBlock s.ti.units[g])

theorem putBlock_self (s : State) {m : Mem} (wf : Memory.wf 0 m = true) (g : Glove) :
    memRead 0 (putBlock s m g) (64 * g.val) 64 = tiuBlock s.ti.units[g] := by
  have read := memRead_memWrite 0 m (64 * g.val) (tiuBlock s.ti.units[g]) wf
  rwa [tiuBlock_length] at read

theorem putBlock_other (s : State) {m : Mem} (wf : Memory.wf 0 m = true) {g k : Glove} (other : k ≠ g) :
    memRead 0 (putBlock s m g) (64 * k.val) 64 = memRead 0 m (64 * k.val) 64 := by
  have apart : k.val ≠ g.val := fun same => other (Fin.ext same)
  refine memRead_memWrite_apart wf ?_
  rw [tiuBlock_length]
  omega

/-- The window with the blocks of distinct TIUs put: theirs, and every other place as it was. -/
theorem foldl_putBlock (s : State) {l : List Glove} (distinct : l.Nodup) {m : Mem} (wf : Memory.wf 0 m = true) (k : Glove) :
    memRead 0 (l.foldl (putBlock s) m) (64 * k.val) 64 = if k ∈ l then tiuBlock s.ti.units[k] else memRead 0 m (64 * k.val) 64 := by
  induction l generalizing m with
  | nil => rfl
  | cons g l ih =>
    obtain ⟨fresh, distinct⟩ := List.nodup_cons.mp distinct
    refine (ih distinct (wf_memWrite 0 m _ _ wf)).trans ?_
    by_cases same : k = g
    · subst same
      rw [if_neg fresh, if_pos List.mem_cons_self, ← putBlock, putBlock_self s wf]
    · rw [← putBlock, putBlock_other s wf same]
      simp only [List.mem_cons, same, false_or]

theorem tiuSnap_eq (mask : W64) (s : State) :
    tiuSnap mask s = { s with ti := { s.ti with window := (maskBits 64 mask.toNat).foldl (putBlock s) s.ti.window } } := rfl

theorem exec_tiSnap {mask : W64} {s : State} (write : written 0x0598 8 0 (· == mask.toNat) s = true) :
    exec (.tiSnap mask) s = .next (tiuSnap mask (popWrite 0x0598 8 s)) := congrArg Host.Outcome.next (if_pos write)

end Sys2Proof.Machine

open Sys2Proof Sys2Proof.Machine

/-- Settles O22: `TI_CLEAR` by its mask and the use of its TIUs, `TI_CONFIG` of one TIU, `TI_READ`, and the window block by block. -/
theorem tiuCommandsAct : Obligations.tiuCommandsAct := by
  unfold Obligations.tiuCommandsAct
  refine ⟨fun s tag e mask runs named rest => ?clears, fun s tag e g runs mask len => ?configures,
    fun s tag e runs mask aligned rest wf => ?reads, fun s mask write wf => ?snapshot⟩
  case clears =>
    have row := exec_tiClear runs
    rw [tiClearCmd_checks rest, named] at row
    refine ⟨fun empty => ?_, fun some_ busy => ?_, fun some_ free => ?_⟩
    · rw [checked_fail (by simpa using empty)] at row
      exact ⟨_, row, answer_answered .., answer_keeps e _ [] s⟩
    · rw [checked_pass (by simpa using some_), checked_fail busy] at row
      exact ⟨_, row, answer_answered .., answer_keeps e _ [] s⟩
    · rw [checked_pass (by simpa using some_), checked_pass free, checked_nil] at row
      have kept := updTius_keeps tiuClear (maskBits 64 mask) s
      refine ⟨_, row, answer_after e 0 [] kept (by decide), fun g => ?_, (answer_after_keeps e 0 [] kept).mono (by simp)⟩
      refine (updTius_unit tiuClear (maskBits_nodup 64 mask) g s).trans ?_
      simp only [mem_maskBits]
  case configures =>
    intro r ok mark free ungated
    have row := exec_tiConfig runs
    rw [tiConfigCmd_one mask len ok mark free ungated] at row
    have kept := updTiu_keeps g (tiApply r) s
    have unit : (updTiu g (tiApply r) s).ti.units[g] = tiApply r s.ti.units[g] := updTiu_self g _ s
    have word (o : Nat) : (BitVec.ofNat 32 (fieldAt r o 4)).toNat = fieldAt r o 4 :=
      (BitVec.toNat_ofNat _ _).trans (Nat.mod_eq_of_lt (fieldAt_lt r o 4))
    refine ⟨_, row, answer_after e 0 [] kept (by decide), ?_, ?_, ?_, ?_, ?_, ?_, ?_, fun k other => updTiu_other _ s other,
      (answer_after_keeps e 0 [] kept).mono (by simp)⟩
    · exact (congrArg (fun u : Tiu => u.start.toNat) unit).trans (word 0)
    · exact (congrArg (fun u : Tiu => u.stop.toNat) unit).trans (word 4)
    · exact congrArg Tiu.stopN unit
    · exact congrArg Tiu.n unit
    · exact (congrArg Tiu.gate unit).trans ungated
    · exact congrArg Tiu.com unit
    · exact (congrArg Tiu.gopen unit :)
  case reads =>
    have row := exec_tiRead runs
    rw [tiReadCmd_good mask aligned rest] at row
    have kept := hostWrite_keeps (fieldAt e.entry.pay 8 8) e.ind s
    exact ⟨_, row, answer_after e 0 [] kept (by decide), memRead_memWrite 0 s.hostMem _ e.ind wf,
      fun x outside => memGet_memWrite_other 0 s.hostMem _ e.ind x wf outside, answer_after_keeps e 0 [] kept⟩
  case snapshot =>
    have popped := popWrite_keeps 0x0598 8 s
    have ti : (popWrite 0x0598 8 s).ti = s.ti := popped .ti (by decide)
    refine ⟨_, exec_tiSnap write, fun g => ?_, (congrArg TI.units ti :), (popped.mono (by simp)).trans ((setTi_keeps _ _).mono (by simp))⟩
    have block := foldl_putBlock (popWrite 0x0598 8 s) (maskBits_nodup 64 mask.toNat) wf g
    rw [tiuSnap_eq]
    simpa only [ti, mem_maskBits, BitVec.testBit_toNat] using block
end

section
/-! SUPPORT. Global conditions, time marks and `ENS_EXPECT` (R300, R347, R354, R359 to R361, R367): what sending a burst and combining the
values of a condition leave, bursts that are released, what an event leaves of the other TIUs, and the statement on them. -/

namespace Sys2Proof.Machine

open Sys2Proof

/-! ### Sending (R352, R353) -/

/-- The state with other Hargo ports and other messages sent. -/
def withLink (ports : Vector HPort 4) (tx : List (Port × TxMsg)) (s : State) : State :=
  { s with en := { s.en with ports := ports, tx := tx } }

theorem setEn_keeps (x : EN) (s : State) : Keeps [.en] s { s with en := x } := by
  intro p hp
  cases p <;> simp [samePart] at hp ⊢

theorem setSp_keeps (x : SP) (s : State) : Keeps [.sp] s { s with sp := x } := by
  intro p hp
  cases p <;> simp [samePart] at hp ⊢

/-- A burst on a port leaves all but the ports and the messages sent. -/
theorem enBurst_sends (b : Burst) (s : State) (p : Port) : ∃ ports tx, enBurst b s p = withLink ports tx s := by
  unfold enBurst
  split
  · exact ⟨_, _, rfl⟩
  · exact ⟨s.en.ports, s.en.tx, rfl⟩

theorem burstUp_sends (b : Burst) (s : State) : ∃ ports tx, burstUp b s = withLink ports tx s := enBurst_sends b s 0

theorem burstDown_sends (b : Burst) (s : State) : ∃ ports tx, burstDown b s = withLink ports tx s := by
  have all (l : List Port) (s : State) : ∃ ports tx, l.foldl (enBurst b) s = withLink ports tx s := by
    induction l generalizing s with
    | nil => exact ⟨s.en.ports, s.en.tx, rfl⟩
    | cons p l ih =>
      obtain ⟨ports, tx, first⟩ := enBurst_sends b s p
      obtain ⟨ports', tx', others⟩ := ih (withLink ports tx s)
      rw [List.foldl_cons, first, others]
      exact ⟨ports', tx', rfl⟩
  exact all [1, 2, 3] s

/-! ### The values of a global condition (R359, R360) -/

/-- The state with other results held for global conditions. -/
def withResults (l : List (Nat × Nat × Nat × Bool)) (s : State) : State := { s with sp := { s.sp with gresults := l } }

theorem sendGlobal_sends (entry : Nat) (l : List Contrib) (num sn atime : Nat) (s : State) :
    ∃ ports tx results, sendGlobal entry l num sn atime s = withLink ports tx (withResults results s) := by
  unfold sendGlobal
  dsimp only
  split
  · split
    · obtain ⟨ports, tx, sent⟩ := burstDown_sends _ (withResults _ s)
      exact ⟨ports, tx, _, sent⟩
    · exact ⟨s.en.ports, s.en.tx, s.sp.gresults, rfl⟩
  · obtain ⟨ports, tx, sent⟩ := burstUp_sends _ s
    exact ⟨ports, tx, s.sp.gresults, sent⟩

/-- The combined value goes up, or is the result: the values gathered stay. -/
theorem tryGlobal_sends (num sn : Nat) (s : State) :
    ∃ ports tx results, tryGlobal num sn s = withLink ports tx (withResults results s) := by
  have waits : ∃ ports tx results, s = withLink ports tx (withResults results s) := ⟨s.en.ports, s.en.tx, s.sp.gresults, rfl⟩
  unfold tryGlobal
  dsimp only
  split
  · split
    · exact sendGlobal_sends ..
    · exact waits
  · exact waits

theorem tryGlobal_en (num sn : Nat) (s : State) :
    ∃ ports tx, (tryGlobal num sn s).en = { s.en with ports := ports, tx := tx } := by
  obtain ⟨ports, tx, results, sent⟩ := tryGlobal_sends num sn s
  exact ⟨ports, tx, congrArg State.en sent⟩

theorem tryGlobal_keeps (num sn : Nat) (s : State) : Keeps [.en, .sp] s (tryGlobal num sn s) := by
  obtain ⟨ports, tx, results, sent⟩ := tryGlobal_sends num sn s
  rw [sent]
  exact ((setSp_keeps _ s).mono (by simp)).trans ((setEn_keeps _ _).mono (by simp))

theorem tryGlobal_contribs (num sn : Nat) (s : State) : (tryGlobal num sn s).en.contribs = s.en.contribs := by
  obtain ⟨ports, tx, en⟩ := tryGlobal_en num sn s
  rw [en]

theorem tryGlobal_rx (num sn : Nat) (s : State) : (tryGlobal num sn s).en.rx = s.en.rx := by
  obtain ⟨ports, tx, en⟩ := tryGlobal_en num sn s
  rw [en]

theorem mem_gather (x : Contrib) (s : State) : x ∈ (gather x s).en.contribs := List.mem_append_right _ (List.mem_singleton_self x)

theorem gather_keeps (x : Contrib) (s : State) : Keeps [.en] s (gather x s) := setEn_keeps _ s

/-- The value that a member forms itself (R359). -/
def ownValue (s : State) (c : Cond) (sub : Subj) : Contrib :=
  let e := condEnt s c.entry
  (c.gserial, sub.start % 2 ^ 64, (sub.start + cLat e) % 2 ^ 64, localValue s (condEnt s (cLocal e)) sub, 1, 4)

/-- The state without contributions of conditions that are no longer open (R360). -/
def openValues (s : State) : State :=
  { s with en := { s.en with contribs := s.en.contribs.filter fun x => (globalOf s x.1 x.2.1).isSome } }

theorem openValues_keeps (s : State) : Keeps [.en] s (openValues s) := setEn_keeps _ s

/-- The resolution cycle of the `LOCAL` entry of an open condition: the own value is gathered. -/
theorem exec_localEntryResolution {s : State} {c : Cond} {sub : Subj} (member : formed s = true) (next : nextLocal s = some (c, sub)) :
    let u := toEns (ceilTo 8192 (localDue s (c, sub))) s
    exec .localEntryResolution s = .next (tryGlobal c.gserial sub.start (gather (ownValue u c sub)
      (openValues (drawFree u { c with entry := cLocal (condEnt u c.entry) } sub)))) := by
  have found : (if formed s then nextLocal s else none) = some (c, sub) := (if_pos member).trans next
  show execLocalEntryResolution s = _
  rw [execLocalEntryResolution, localResolve, found]
  rfl

theorem exec_localEntryResolution_none {s : State} (alone : formed s = false) : exec .localEntryResolution s = .next s := by
  have none_ : (if formed s then nextLocal s else none) = none := if_neg (by simp [alone])
  show execLocalEntryResolution s = _
  rw [execLocalEntryResolution, localResolve, none_]

/-! ### Bursts that are released (R345, R353, R354) -/

/-- A burst has left the list of accepted ones. -/
def releasedBurst (x : Port × Burst × Nat) (s : State) : State := { s with en := { s.en with rx := s.en.rx.erase x } }

theorem onBurst_first {t : Nat} {x : Port × Burst × Nat} {s : State} (first : firstBurst t s = some x) (f : Port → Burst → State → State) :
    onBurst t f s = f x.1 x.2.1 (releasedBurst x (toTime x.2.2 s)) := by
  rw [onBurst, first]
  rfl

section
variable {t : Nat} {p : Port} {b : Burst} {r : Nat} {s : State} (first : firstBurst t s = some (p, b, r)) (f : Burst → Nat → State → State)
include first

theorem onDown_late (late : nearTime (toTime r s) b.atime < ensTime (toTime r s)) : onDown t f s = releasedBurst (p, b, r) (toTime r s) := by
  rw [onDown, onBurst_first first]
  generalize toTime r s = u at late ⊢
  exact if_pos late

/-- In time, it goes down the tree, and acts on a state in which nothing but the link has changed. -/
theorem onDown_acts (early : ensTime (toTime r s) ≤ nearTime (toTime r s) b.atime) : ∃ ports tx,
    onDown t f s = f b (nearTime (toTime r s) b.atime).toNat (withLink ports tx (releasedBurst (p, b, r) (toTime r s))) := by
  rw [onDown, onBurst_first first]
  generalize toTime r s = u at early ⊢
  obtain ⟨ports, tx, sent⟩ := burstDown_sends b (releasedBurst (p, b, r) u)
  exact ⟨ports, tx, sent ▸ if_neg (Int.not_lt.mpr early)⟩

end

/-- The mark of a burst is scheduled at its time (R361). -/
def scheduleMark (b : Burst) (t : Nat) (u : State) : State :=
  { u with en := { u.en with events := u.en.events ++ [(b.aux % 256, t)] } }

/-- What a contribution brings (Table 14.3). -/
def contribOf (p : Port) (b : Burst) : Contrib :=
  (fieldAt b.payload 0 4, fieldAt b.payload 4 8, b.atime, bitAt b.aux 8, fld b.aux 14 9 + 1, p.val)

theorem contribAct_gathers {p : Port} {b : Burst} {s : State} (early : ensTime s ≤ nearTime s b.atime)
    (open_ : globalOf s (fieldAt b.payload 0 4) (fieldAt b.payload 4 8) ≠ none) :
    contribAct p b s = tryGlobal (fieldAt b.payload 0 4) (fieldAt b.payload 4 8) (gather (contribOf p b) s) :=
  if_neg (not_or.mpr ⟨Int.not_lt.mpr early, by simpa using open_⟩)

theorem contribAct_ignores {p : Port} {b : Burst} {s : State}
    (gone : nearTime s b.atime < ensTime s ∨ globalOf s (fieldAt b.payload 0 4) (fieldAt b.payload 4 8) = none) : contribAct p b s = s :=
  if_pos (by simpa using gone)

theorem exec_contribBurst {p : Port} {b : Burst} {r : Nat} {s : State} (first : firstBurst 0x10 s = some (p, b, r)) :
    exec .contribBurst s = .next (contribAct p b (releasedBurst (p, b, r) (toTime r s))) :=
  congrArg Host.Outcome.next (onBurst_first first _)

/-- A result held for its condition (R249). -/
def holdResult (b : Burst) (t : Nat) (s : State) : State :=
  withResults (s.sp.gresults ++ [(fieldAt b.payload 0 4, fieldAt b.payload 4 8, t, bitAt b.aux 8)]) s

theorem resultAct_holds {b : Burst} {t : Nat} {s : State} (open_ : globalOf s (fieldAt b.payload 0 4) (fieldAt b.payload 4 8) ≠ none) :
    resultAct b t s = holdResult b t s := if_neg (by simpa using open_)

theorem resultAct_passes {b : Burst} {t : Nat} {s : State} (shut : globalOf s (fieldAt b.payload 0 4) (fieldAt b.payload 4 8) = none) :
    resultAct b t s = s := if_pos (by simpa using shut)

/-- Which conditions are open is no matter of the link and of the bursts accepted. -/
theorem globalOf_withLink (ports : Vector HPort 4) (tx : List (Port × TxMsg)) (x : Port × Burst × Nat) (s : State) (num sn : Nat) :
    globalOf (withLink ports tx (releasedBurst x s)) num sn = globalOf s num sn := rfl

/-! ### An event at the TIUs (R300, R302) -/

/-- Of a TIU: what it holds, its shots that wait to be counted, and the time base, which decide whether it takes a shot. -/
def tiuView (k : Glove) (s : State) : Tiu × List EndedShot × TB :=
  (s.ti.units[k], s.ti.recent.filter fun x => x.tiu == k && !x.overflow, s.tb)

theorem tiuReady_of_view {k : Glove} {s t : State} (same : tiuView k t = tiuView k s) (at_ : Int) : tiuReady t k at_ = tiuReady s k at_ := by
  simp only [tiuView, Prod.mk.injEq] at same
  obtain ⟨unit, shots, tb⟩ := same
  have count : tiuCount t k = tiuCount s k := by rw [tiuCount, tiuCount, unit, shots]
  rw [tiuReady, tiuReady, unit, count, tb]

section
variable {g k : Glove} (other : k ≠ g) (s : State)
include other

/-- What changes no unit but one and no ended shot is not seen at another. -/
theorem tiuView_of_onlyUnit {t : State} (only : OnlyUnit g s t) (recent : t.ti.recent = s.ti.recent) (tb : t.tb = s.tb) :
    tiuView k t = tiuView k s := by
  rw [tiuView, only.units k other, recent, tb]
  rfl

theorem tiuView_updTiu (f : Tiu → Tiu) : tiuView k (updTiu g f s) = tiuView k s :=
  tiuView_of_onlyUnit other s (onlyUnit_updTiu g f s) rfl rfl

/-- A shot of one TIU that waits to be counted is not one of another's. -/
theorem tiuView_ended (start stop : Int) (long : Bool) :
    tiuView k { s with ti := { s.ti with recent := s.ti.recent ++ [⟨g, start, stop, long⟩] } } = tiuView k s := by
  have apart : (g == k) = false := by simpa using Ne.symm other
  simp [tiuView, List.filter_append, apart]

end

theorem tiuSayOnce_recent (g : Glove) (code : Nat) (start : Int) (s : State) : (tiuSayOnce g code start s).ti.recent = s.ti.recent := by
  rw [tiuSayOnce_eq]
  split
  · rfl
  · rw [issue_ti]
    rfl

theorem tiuCheckDone_recent (g : Glove) (s : State) : (tiuCheckDone g s).ti.recent = s.ti.recent := by
  unfold tiuCheckDone
  dsimp only
  split
  · rw [issue_ti]
    rfl
  · rfl

theorem countShot_recent (g : Glove) (start stop : Int) (s : State) : (countShot g start stop s).ti.recent = s.ti.recent := by
  unfold countShot
  dsimp only
  rw [tiuCheckDone_recent]
  split <;> rfl

theorem countOver_recent (g : Glove) (start : Int) (s : State) : (countOver g start s).ti.recent = s.ti.recent :=
  tiuSayOnce_recent g _ _ _

section
variable {g k : Glove} (other : k ≠ g) (s : State)
include other

theorem tiuShot_view (start stop : Int) : tiuView k (tiuShot g start stop s) = tiuView k s := by
  unfold tiuShot
  dsimp only
  split
  · exact (tiuView_ended other _ start stop false).trans (tiuView_updTiu other s _)
  · exact (tiuView_of_onlyUnit other _ (onlyUnit_countShot ..) (countShot_recent ..) (by simp)).trans (tiuView_updTiu other s _)

theorem tiuOverflow_view (start : Int) : tiuView k (tiuOverflow g start s) = tiuView k s := by
  unfold tiuOverflow
  dsimp only
  split
  · exact (tiuView_ended other _ start _ true).trans (tiuView_updTiu other s _)
  · exact (tiuView_of_onlyUnit other _ (onlyUnit_countOver ..) (countOver_recent ..) (by simp)).trans (tiuView_updTiu other s _)

theorem tiuExpire_view (at_ : Int) : tiuView k (tiuExpire g at_ s) = tiuView k s := by
  unfold tiuExpire
  split
  · split
    · exact tiuOverflow_view other s _
    · rfl
  · rfl

theorem tiuStart_view (at_ : Int) : tiuView k (tiuStart g at_ s) = tiuView k s := by
  unfold tiuStart
  dsimp only
  split
  · exact tiuView_updTiu other s _
  · rfl

theorem tiuStop_view (start at_ : Int) (n : Nat) : tiuView k (tiuStop g start at_ n s) = tiuView k s := by
  unfold tiuStop
  split
  · rfl
  split
  · exact tiuShot_view other s start at_
  · exact tiuView_updTiu other s _

/-- An event that reaches one TIU is not seen at another. -/
theorem tiuEvent_view (sel : W32 → Bool) (at_ : Int) : tiuView k (tiuEvent sel at_ s g) = tiuView k s := by
  have expired := tiuExpire_view other s at_
  unfold tiuEvent
  split
  · dsimp only
    split
    · split
      · exact (tiuStop_view other _ _ at_ _).trans expired
      · exact expired
    · split
      · exact (tiuStart_view other _ at_).trans expired
      · exact expired
  · rfl

end

theorem tiuEvents_view {k : Glove} (sel : W32 → Bool) (at_ : Int) {l : List Glove} (apart : k ∉ l) (s : State) :
    tiuView k (l.foldl (tiuEvent sel at_) s) = tiuView k s := by
  induction l generalizing s with
  | nil => rfl
  | cons g l ih =>
    exact (ih (List.not_mem_of_not_mem_cons apart) _).trans (tiuEvent_view (List.ne_of_not_mem_cons apart) s sel at_)

/-- An event at every TIU is for each of them the event at it alone. -/
theorem tiuFeed_unit (sel : W32 → Bool) (at_ : Int) (s : State) (g : Glove) :
    ∃ t, tiuView g t = tiuView g s ∧ (tiuFeed sel at_ s).ti.units[g] = (tiuEvent sel at_ t g).ti.units[g] := by
  obtain ⟨before, after, split⟩ := List.append_of_mem (List.mem_finRange g)
  have distinct := List.nodup_finRange 64
  rw [split, List.nodup_middle] at distinct
  obtain ⟨fresh, -⟩ := List.nodup_cons.mp distinct
  rw [List.mem_append, not_or] at fresh
  refine ⟨before.foldl (tiuEvent sel at_) s, tiuEvents_view sel at_ fresh.1 s, ?_⟩
  rw [tiuFeed, split, List.foldl_append, List.foldl_cons]
  exact congrArg Prod.fst (tiuEvents_view sel at_ fresh.2 _)

theorem tiuFeed_unselected_unit {sel : W32 → Bool} {s : State} {g : Glove} (at_ : Int) (start : sel s.ti.units[g].start = false)
    (stop : tiuStopSel s.ti.units[g] sel = false) : (tiuFeed sel at_ s).ti.units[g] = s.ti.units[g] := by
  obtain ⟨t, same, unit⟩ := tiuFeed_unit sel at_ s g
  have mine : t.ti.units[g] = s.ti.units[g] := congrArg Prod.fst same
  rw [unit, tiuEvent_unselected at_ (by rw [mine, start]) (by rw [mine, stop]), mine]

/-- An event that the start source of a TIU without a shot selects begins one, where the TIU is ready (R302). -/
theorem tiuEvent_starts {sel : W32 → Bool} {s : State} {g : Glove} {at_ : Int} (start : sel s.ti.units[g].start = true)
    (idle : s.ti.units[g].shot = none) (first : s.ti.units[g].lastStop = none) (ready : tiuReady s g at_ = true) :
    (tiuEvent sel at_ s g).ti.units[g].shot = some (at_, 0) := by
  have expired : tiuExpire g at_ s = s := by rw [tiuExpire, idle]
  have event : tiuEvent sel at_ s g = updTiu g (fun x => { x with shot := some (at_, 0) }) s := by
    rw [tiuEvent, start, Bool.true_or, if_pos rfl, expired]
    simp only [idle, start, if_true]
    exact if_pos (by rw [ready, first]; rfl)
  rw [event, updTiu_self]

theorem tiuFeed_starts {sel : W32 → Bool} {s : State} {g : Glove} {at_ : Int} (start : sel s.ti.units[g].start = true)
    (idle : s.ti.units[g].shot = none) (first : s.ti.units[g].lastStop = none) (ready : tiuReady s g at_ = true) :
    (tiuFeed sel at_ s).ti.units[g].shot = some (at_, 0) := by
  obtain ⟨t, same, unit⟩ := tiuFeed_unit sel at_ s g
  have mine : t.ti.units[g] = s.ti.units[g] := congrArg Prod.fst same
  rw [unit, tiuEvent_starts (by rw [mine, start]) (by rw [mine, idle]) (by rw [mine, first]) (by rw [tiuReady_of_view same, ready])]

theorem tiuFeed_keeps (sel : W32 → Bool) (at_ : Int) (s : State) : Keeps [.ti, .hi, .mg, .freeCtr] s (tiuFeed sel at_ s) :=
  foldl_partKeeps (tiuEvent_keeps sel at_) _ s

/-! ### The commands and the marks (R361, R367) -/

section
variable {s : State} {tag : W16} {e : Exec}

theorem exec_ensExpect (runs : executing 0x0D03 tag s = some e) : exec (.ensExpect tag) s = .next (ensExpectCmd e s) :=
  congrArg Host.Outcome.next (runCmd_some runs _)

theorem exec_ensTmark (runs : executing 0x0D04 tag s = some e) : exec (.ensTmark tag) s = .next (ensTmarkCmd e s) :=
  congrArg Host.Outcome.next (runCmd_some runs _)

/-- The digests that a payload gives. -/
def digestsOf (e : Exec) : Vector W64 64 := Vector.ofFn fun m => BitVec.ofNat 64 (payF e (8 * m.val) 8)

theorem digestsOf_toNat (e : Exec) (m : Fin 64) : (digestsOf e)[m].toNat = payF e (8 * m.val) 8 := by
  simp only [digestsOf, Fin.getElem_fin, Vector.getElem_ofFn, BitVec.toNat_ofNat]
  exact Nat.mod_eq_of_lt (payF_lt e _ 8)

/-- `ENS_EXPECT` on a leader, with no digest beyond the members. -/
theorem ensExpectCmd_taken (leads : (formed s && s.en.leader) = true) (rest : ∀ m, s.en.members ≤ m → m < 64 → payF e (8 * m) 8 = 0) :
    ensExpectCmd e s = answer e eOk [] { s with en := { s.en with expect := some (digestsOf e) } } := by
  have none_ : ((List.range 64).any fun m => decide (s.en.members ≤ m) && payF e (8 * m) 8 != 0) = false := by
    simpa using fun m small beyond => rest m beyond small
  rw [ensExpectCmd, none_, checked_pass (by simpa using leads), checked_pass rfl, checked_nil]
  rfl

/-- With a good payload, the time of the first mark and the device's part in the ensemble decide the answer of `ENS_TMARK`. -/
theorem ensTmarkCmd_checks (zero : payF e 1 1 = 0) (reserved : payZero e 4 4 = true) (rest : payZero e 24 24 = true)
    (marks : payF e 2 2 = 1 ∧ payF e 16 8 = 0 ∨ 2 ≤ payF e 2 2 ∧ 8192000 ≤ payF e 16 8) :
    ensTmarkCmd e s = checked [(decide (nearTime s (payF e 8 8) < (ext s : Int) + 2097152), eRange), (!(formed s && s.en.leader), eState)] e
      (fun t => answer e eOk [] { t with en := { t.en with
        tmarks := t.en.tmarks ++ [(payF e 0 1, (nearTime s (payF e 8 8)).toNat, payF e 2 2, payF e 16 8, 0)] } }) s := by
  have count : (payF e 2 2 == 0) = false := by
    rw [beq_eq_false_iff_ne]
    omega
  have period : (if payF e 2 2 = 1 then payF e 16 8 != 0 else decide (payF e 16 8 < 8192000)) = false := by
    obtain ⟨one, none_⟩ | ⟨many, long⟩ := marks
    · rw [if_pos one, none_]
      rfl
    · rw [if_neg (by omega), decide_eq_false (by omega)]
  rw [ensTmarkCmd, checked_pass (by rw [zero, reserved, rest, count, period]; rfl)]

end

/-- The pair of a mark (Table 14.3). -/
def markBurst (tag at_ ix : Nat) : Burst :=
  { stype := 0x15, origin := 0, aux := tag, atime := at_ % 2 ^ 64, payload := leBytes 2 ix ++ zeros 10 }

/-- The state with other marks to send and other marks scheduled. -/
def withMarks (tmarks : List (Nat × Nat × Nat × Nat × Nat)) (events : List (Nat × Nat)) (s : State) : State :=
  { s with en := { s.en with tmarks := tmarks, events := events } }

/-- The one run of marks sends its next: the pair leaves a hop and a slot ahead, and the leader schedules the mark as well (R361). -/
theorem exec_tmarkSend {s : State} {tag at_ left per ix : Nat} (only : s.en.tmarks = [(tag, at_, left, per, ix)]) :
    exec .tmarkSend s = .next (burstDown (markBurst tag at_ ix) (withMarks (runAfter (tag, at_, left, per, ix))
      (s.en.events ++ [(tag, at_)]) (toEns ((at_ - 1179648 - 74752) / 8192 * 8192) s))) := by
  generalize moved : toEns ((at_ - 1179648 - 74752) / 8192 * 8192) s = u
  have en : u.en = s.en := by simp [← moved]
  have row : exec .tmarkSend s = .next (burstDown (markBurst tag at_ ix) (withMarks
      (u.en.tmarks.flatMap fun y => if y = (tag, at_, left, per, ix) then runAfter (tag, at_, left, per, ix) else [y])
      (u.en.events ++ [(tag, at_)]) u)) := by
    show execTmarkSend s = _
    rw [execTmarkSend, tmarkSend, only, ← moved]
    rfl
  rw [row, en, only, List.flatMap_singleton, if_pos rfl]

/-- The mark due has left the schedule. -/
def markTaken (x : Nat × Nat) (s : State) : State := { s with en := { s.en with events := s.en.events.erase x } }

theorem exec_timeMarkEvent {s : State} {tag at_ : Nat} (first : firstEvent s.en.events = some (tag, at_)) :
    exec .timeMarkEvent s = .next (tiuFeed (selMark tag) at_ (markTaken (tag, at_) (toEns at_ s))) := by
  show execTimeMarkEvent s = _
  rw [execTimeMarkEvent, first]
  rfl

end Sys2Proof.Machine

open Sys2Proof Sys2Proof.Machine

/-- Settles O45: the own value, the bursts by their times and conditions, the two commands by their checks, and a mark sent and taken. -/
theorem globalConditionsAndMarks : Obligations.globalConditionsAndMarks := by
  unfold Obligations.globalConditionsAndMarks
  refine ⟨fun s c sub member next => ?own, fun s alone => exec_localEntryResolution_none alone, fun s p b r => ?bursts,
    fun s tag e runs => ⟨fun apart => ?follower, fun leads rest => ?expects⟩, fun s tag e runs zero reserved rest marks => ?marks,
    fun s tag at_ left per ix only => ?sends, fun s tag at_ first => ?taken⟩
  case own =>
    intro u e
    have row := exec_localEntryResolution member next
    refine ⟨_, row, ?_, ?_⟩
    · have drawn := drawFree_keeps u { c with entry := cLocal (condEnt u c.entry) } sub
      have gathered := (openValues_keeps (drawFree u { c with entry := cLocal (condEnt u c.entry) } sub)).trans
        (gather_keeps (ownValue u c sub) _)
      exact ((drawn.mono (by simp)).trans (gathered.mono (by simp))).trans ((tryGlobal_keeps _ _ _).mono (by simp))
    · rw [tryGlobal_contribs]
      exact mem_gather (ownValue u c sub) _
  case bursts =>
    intro num sn u gone
    refine ⟨fun first => ⟨fun early open_ => ?gathered, fun ignored => ?ignored⟩, fun first => ⟨fun late => ?late, fun early open_ => ?held,
      fun early shut => ?passed⟩, fun first early => ?scheduled⟩
    case gathered =>
      have act : contribAct p b gone = tryGlobal num sn (gather (contribOf p b) gone) := contribAct_gathers early open_
      refine ⟨_, (exec_contribBurst first).trans (congrArg _ act), tryGlobal_contribs num sn _, tryGlobal_rx num sn _, ?_⟩
      exact (((setEn_keeps _ u).trans (gather_keeps _ gone)).mono (by simp)).trans (tryGlobal_keeps num sn _)
    case ignored =>
      have act : contribAct p b gone = gone := contribAct_ignores ignored
      exact (exec_contribBurst first).trans (congrArg _ act)
    case late => exact congrArg Host.Outcome.next (onDown_late first _ late)
    case held =>
      obtain ⟨ports, tx, row⟩ := onDown_acts first resultAct early
      rw [resultAct_holds (by rwa [globalOf_withLink])] at row
      refine ⟨_, congrArg Host.Outcome.next row, ?_, rfl⟩
      exact (((setEn_keeps _ u).trans (setEn_keeps _ gone)).mono (by simp)).trans ((setSp_keeps _ _).mono (by simp))
    case passed =>
      obtain ⟨ports, tx, row⟩ := onDown_acts first resultAct early
      rw [resultAct_passes (by rwa [globalOf_withLink])] at row
      exact ⟨_, congrArg Host.Outcome.next row, (setEn_keeps _ u).trans (setEn_keeps _ gone)⟩
    case scheduled =>
      obtain ⟨ports, tx, row⟩ := onDown_acts first scheduleMark early
      exact ⟨_, congrArg Host.Outcome.next row, rfl, ((setEn_keeps _ u).trans (setEn_keeps _ gone)).trans (setEn_keeps _ _)⟩
  case follower =>
    have row := exec_ensExpect runs
    rw [ensExpectCmd, checked_fail (by rw [apart]; rfl)] at row
    exact ⟨_, row, answer_answered .., answer_keeps e _ [] s⟩
  case expects =>
    have row := exec_ensExpect runs
    rw [ensExpectCmd_taken leads rest] at row
    have kept := setEn_keeps { s.en with expect := some (digestsOf e) } s
    exact ⟨_, digestsOf e, row, answer_after e 0 [] kept (by decide), rfl, digestsOf_toNat e, (answer_after_keeps e 0 [] kept).mono (by simp)⟩
  case marks =>
    intro t0
    have row := exec_ensTmark runs
    rw [ensTmarkCmd_checks zero reserved rest marks] at row
    refine ⟨fun near => ?_, fun ahead member leader => ?_⟩
    · rw [checked_fail (decide_eq_true near)] at row
      exact ⟨_, row, answer_answered .., answer_keeps e _ [] s⟩
    · rw [checked_pass (decide_eq_false (Int.not_lt.mpr ahead)), checked_pass (by rw [member, leader]; rfl), checked_nil] at row
      have kept := setEn_keeps { s.en with tmarks := s.en.tmarks ++ [(payF e 0 1, t0.toNat, payF e 2 2, payF e 16 8, 0)] } s
      exact ⟨_, row, answer_after e 0 [] kept (by decide), (answer_after_keeps e 0 [] kept).mono (by simp), rfl⟩
  case sends =>
    intro u
    have row := exec_tmarkSend only
    obtain ⟨ports, tx, sent⟩ := burstDown_sends (markBurst tag at_ ix)
      (withMarks (runAfter (tag, at_, left, per, ix)) (s.en.events ++ [(tag, at_)]) u)
    rw [sent] at row
    exact ⟨_, row, rfl, (setEn_keeps _ u).trans (setEn_keeps _ _), rfl⟩
  case taken =>
    intro u
    have row := exec_timeMarkEvent first
    have fed := tiuFeed_keeps (selMark tag) at_ (markTaken (tag, at_) u)
    refine ⟨_, row, fed .en (by decide), ((setEn_keeps _ u).mono (by simp)).trans (fed.mono (by simp)), fun g => ⟨fun start stop => ?_,
      fun start idle none_ ready => ?_⟩⟩
    · exact tiuFeed_unselected_unit (s := markTaken (tag, at_) u) at_ start stop
    · exact tiuFeed_starts (s := markTaken (tag, at_) u) start idle none_ ready
end

section
/-! SUPPORT. What the block stores: its sparse memories, the module serial and the anti-rollback counter, seen as one value that most
operations leave as it is (`_stored`) and that the writers of a memory take to one they may take it to (`_evolves`): canonical memories
stay canonical (log 5, log 6), the counter does not fall and the serial does not change (R426, R439). -/

namespace Sys2Proof.Machine

open Sys2Proof

/-! ### The stored part of a state -/

/-- The sparse memories of the block, and what is in its one-time-programmable cells. -/
structure Stored where
  /-- device DRAM -/
  dram : Mem
  /-- host memory -/
  hostMem : Mem
  /-- the store room -/
  room : Mem
  /-- the store room's shadow -/
  shadow : Mem
  /-- the result window of the time-interval units -/
  window : Mem
  /-- the larder -/
  larder : Mem
  /-- the MSI-X table -/
  msix : Mem
  /-- the register mirror -/
  mirror : Mem
  /-- the diagnostic partition -/
  diag : Mem
  /-- the boot flash -/
  flash : Mem
  /-- the trims in force -/
  trims : Trims
  /-- the anti-rollback counter -/
  fuses : Nat
  /-- the module serial -/
  serial : W64

/-- What a state stores. -/
def stored (s : State) : Stored :=
  ⟨s.pm.dram, s.hostMem, s.pt.room, s.pt.shadow, s.ti.window, s.mx.larder, s.hi.msix, s.hi.mirror, s.mg.diag, s.bt.flash, s.bt.trims
    , s.bt.fuses, s.bt.serial⟩

/-- Every stored memory has the canonical form. -/
def Stored.wf (a : Stored) : Bool :=
  Memory.wf 0 a.dram && Memory.wf 0 a.hostMem && Memory.wf 0 a.room && Memory.wf 0 a.shadow && Memory.wf 0 a.window
    && Memory.wf 0 a.larder && Memory.wf 0 a.msix && Memory.wf 0 a.mirror && Memory.wf 0 a.diag && Memory.wf 0xFF a.flash
    && trimsWf a.trims

theorem memoriesWf_eq (s : State) : memoriesWf s = (stored s).wf := rfl

/-- What an operation may do to what is stored. -/
def Evolves (a b : Stored) : Prop := (a.wf = true → b.wf = true) ∧ a.fuses ≤ b.fuses ∧ b.serial = a.serial

/-- A row may take what is stored to what it leaves. -/
def Leads (a : Stored) : Host.Outcome State Fault Refusal → Prop
  | .next t => Evolves a (stored t)
  | _ => True

@[simp] theorem leads_next (a : Stored) (t : State) : Leads a (.next t) ↔ Evolves a (stored t) := Iff.rfl

@[simp] theorem Evolves.refl (a : Stored) : Evolves a a := ⟨id, Nat.le_refl _, rfl⟩

theorem Evolves.trans {a b c : Stored} (h : Evolves a b) (k : Evolves b c) : Evolves a c :=
  ⟨fun w => k.1 (h.1 w), Nat.le_trans h.2.1 k.2.1, k.2.2.trans h.2.2⟩

/-- The stored part of a state written out, and read back: an update of any other field leaves it. -/
@[simp] theorem stored_mk (tb : TB) (pins : Vector PinSt 512) (pf : PF) (tg : TG) (pt : PT) (pm : PM) (sq : SQ) (sp : SP) (cl : CL)
    (cs : CS) (ti : TI) (mx : MX) (en : EN) (hi : HI) (mg : MG) (bt : BT) (hostMem : Mem) (pending : List Instr) (freeCtr : Nat) :
    stored ⟨tb, pins, pf, tg, pt, pm, sq, sp, cl, cs, ti, mx, en, hi, mg, bt, hostMem, pending, freeCtr⟩
      = ⟨pm.dram, hostMem, pt.room, pt.shadow, ti.window, mx.larder, hi.msix, hi.mirror, mg.diag, bt.flash, bt.trims, bt.fuses
          , bt.serial⟩ := by
  rw [stored]

@[simp] theorem stored_eta (s : State) :
    Stored.mk s.pm.dram s.hostMem s.pt.room s.pt.shadow s.ti.window s.mx.larder s.hi.msix s.hi.mirror s.mg.diag s.bt.flash s.bt.trims
      s.bt.fuses s.bt.serial = stored s := by
  rw [stored]

@[simp] theorem stored_ite (c : Prop) [Decidable c] (s t : State) : stored (if c then s else t) = if c then stored s else stored t :=
  apply_ite stored c s t

@[simp] theorem evolves_ite (c : Prop) [Decidable c] (a b d : Stored) :
    Evolves a (if c then b else d) ↔ if c then Evolves a b else Evolves a d := by
  split <;> rfl

/-- What a fold of operations that leave what is stored leaves. -/
@[simp] theorem foldl_stored {α : Type} (f : State → α → State) (h : ∀ s x, stored (f s x) = stored s) (l : List α) (s : State) :
    stored (l.foldl f s) = stored s := foldl_keeps stored h l s

@[simp] theorem foldl_evolves {α : Type} {a : Stored} (f : State → α → State)
    (h : ∀ s x, Evolves (stored s) (stored (f s x))) (l : List α) (s : State) (ev : Evolves a (stored s)) : Evolves a (stored (l.foldl f s)) :=
  List.foldlRecOn (motive := fun t : State => Evolves a (stored t)) l f ev fun t k x _ => k.trans (h t x)

@[simp] theorem Stored.eta (a : Stored) :
    Stored.mk a.dram a.hostMem a.room a.shadow a.window a.larder a.msix a.mirror a.diag a.flash a.trims a.fuses a.serial = a := rfl

/-- An update of a state that another operation left, read from the outside in: every field through `stored`. -/
theorem stored_upd :
    (∀ tb pins pf tg pt pm sq sp cl cs ti mx en hi mg bt hostMem pending freeCtr,
      stored ⟨tb, pins, pf, tg, pt, pm, sq, sp, cl, cs, ti, mx, en, hi, mg, bt, hostMem, pending, freeCtr⟩
        = ⟨pm.dram, hostMem, pt.room, pt.shadow, ti.window, mx.larder, hi.msix, hi.mirror, mg.diag, bt.flash, bt.trims, bt.fuses
            , bt.serial⟩)
      ∧ (∀ (c : Prop) [Decidable c] (s t : State), stored (if c then s else t) = if c then stored s else stored t)
      ∧ ∀ s : State,
        s.pm.dram = (stored s).dram ∧ s.hostMem = (stored s).hostMem ∧ s.pt.room = (stored s).room ∧ s.pt.shadow = (stored s).shadow
          ∧ s.ti.window = (stored s).window ∧ s.mx.larder = (stored s).larder ∧ s.hi.msix = (stored s).msix
          ∧ s.hi.mirror = (stored s).mirror ∧ s.mg.diag = (stored s).diag ∧ s.bt.flash = (stored s).flash
          ∧ s.bt.trims = (stored s).trims ∧ s.bt.fuses = (stored s).fuses ∧ s.bt.serial = (stored s).serial :=
  ⟨stored_mk, fun c _ s t => stored_ite c s t, fun _ => ⟨rfl, rfl, rfl, rfl, rfl, rfl, rfl, rfl, rfl, rfl, rfl, rfl, rfl⟩⟩

/-- A write of memories alone: the canonical ones stay so, and counter and serial are kept. -/
theorem Evolves.write {a b c : Stored} (ev : Evolves a b) (wf : b.wf = true → c.wf = true) (fuses : c.fuses = b.fuses)
    (serial : c.serial = b.serial) : Evolves a c :=
  ev.trans ⟨wf, fuses ▸ Nat.le_refl _, serial⟩

theorem wf_iff (a : Stored) :
    a.wf = true ↔ Memory.wf 0 a.dram = true ∧ Memory.wf 0 a.hostMem = true ∧ Memory.wf 0 a.room = true ∧ Memory.wf 0 a.shadow = true
      ∧ Memory.wf 0 a.window = true ∧ Memory.wf 0 a.larder = true ∧ Memory.wf 0 a.msix = true ∧ Memory.wf 0 a.mirror = true
      ∧ Memory.wf 0 a.diag = true ∧ Memory.wf 0xFF a.flash = true ∧ trimsWf a.trims = true := by
  simp only [Stored.wf, Bool.and_eq_true, and_assoc]

/-- Bytes written to a memory leave it canonical. -/
theorem foldl_wf {α : Type} (d : Byte) (f : Mem → α → Mem) (h : ∀ m x, Memory.wf d m = true → Memory.wf d (f m x) = true) (l : List α)
    {m : Mem} (wf : Memory.wf d m = true) : Memory.wf d (l.foldl f m) = true :=
  List.foldlRecOn (motive := fun n => Memory.wf d n = true) l f wf fun n k x _ => h n x k

@[simp] theorem wf_empty (d : Byte) : Memory.wf d [] = true := rfl

@[simp] theorem dramWrite_evolves {z : Stored} (a : Nat) (l : List Byte) (s : State) (ev : Evolves z (stored s)) :
    Evolves z (stored (dramWrite a l s)) := by
  unfold dramWrite; split
  · exact ev.write (by simp +contextual [wf_iff, stored, -stored_eta]) rfl rfl
  · exact ev

@[simp] theorem hostWrite_evolves {z : Stored} (a : Nat) (l : List Byte) (s : State) (ev : Evolves z (stored s)) :
    Evolves z (stored (hostWrite a l s)) :=
  ev.write (by simp +contextual [wf_iff, stored, -stored_eta]) rfl rfl

@[simp] theorem flashWrite_evolves {z : Stored} (a : Nat) (l : List Byte) (s : State) (ev : Evolves z (stored s)) :
    Evolves z (stored (flashWrite a l s)) :=
  ev.write (by simp +contextual [wf_iff, stored, flashWrite, -stored_eta]) rfl rfl

/-! ### What an event leaves -/

/-- A record that is issued leaves the diagnostic partition. -/
theorem enqueue_diag (r : EventRec) (g : MG) : (enqueue r g).diag = g.diag := rfl

theorem noteFatal_diag (code : Nat) (g : MG) : (noteFatal code g).diag = g.diag := by
  unfold noteFatal; split <;> rfl

theorem overflowEvent_diag (sev : Nat) (before : MG) (s : State) : (overflowEvent sev before s).diag = s.mg.diag := by
  unfold overflowEvent; dsimp only; (repeat' split) <;> simp [enqueue_diag]

@[simp] theorem takeFree_stored (s : State) : stored (takeFree s) = stored s := by simp [takeFree]

@[simp] theorem updPin_stored (p : Pin) (f : PinSt → PinSt) (s : State) : stored (updPin p f s) = stored s := by simp [updPin]

@[simp] theorem enTx_stored (p : Port) (m : TxMsg) (s : State) : stored (enTx p m s) = stored s := by simp [enTx]

@[simp] theorem updTiu_stored (g : Glove) (f : Tiu → Tiu) (s : State) : stored (updTiu g f s) = stored s := by simp [updTiu]

@[simp] theorem answer_stored (e : Exec) (status : Nat) (data : List Byte) (s : State) : stored (answer e status data s) = stored s := by
  simp [answer]

@[simp] theorem updExec_stored (tag : W16) (f : Exec → Exec) (s : State) : stored (updExec tag f s) = stored s := by simp [updExec]

@[simp] theorem goAt_stored (start : Nat) (s : State) : stored (goAt start s) = stored s := by simp [goAt]

@[simp] theorem addCond_stored (c : Cond) (s : State) : stored (addCond c s) = stored s := by simp [addCond]

@[simp] theorem setReqs_stored (f : Reqs → Reqs) (s : State) : stored (setReqs f s) = stored s := by simp [setReqs]

@[simp] theorem takeAct_stored (a : Act) (f : Reqs → Reqs) (s : State) : stored (takeAct a f s) = stored s := by simp [takeAct]

@[simp] theorem countResolved_stored (s : State) : stored (countResolved s) = stored s := by simp [countResolved]

@[simp] theorem retire_stored (m : W64) (s : State) : stored (retire m s) = stored s := by simp [retire]

@[simp] theorem updProc_stored (f : Proc → Proc) (s : State) : stored (updProc f s) = stored s := by simp [updProc]

@[simp] theorem unblock_stored (s : State) : stored (unblock s) = stored s := by simp [unblock]

@[simp] theorem blockOn_stored (b : Block) (s : State) : stored (blockOn b s) = stored s := by simp [blockOn]

@[simp] theorem updDac_stored (p : Pin) (i : DacIx) (f : Dac → Dac) (s : State) : stored (updDac p i f s) = stored s := by simp [updDac]

@[simp] theorem updAdc_stored (g : Glove) (f : Adc → Adc) (s : State) : stored (updAdc g f s) = stored s := by simp [updAdc]

@[simp] theorem enterExec_stored (e : Exec) (s : State) : stored (enterExec e s) = stored s := by simp [enterExec]

@[simp] theorem takeFrees_stored (n : Nat) (s : State) : stored (takeFrees n s) = stored s := by simp [takeFrees]

@[simp] theorem updCh_stored (i : Chan) (f : MxCh → MxCh) (s : State) : stored (updCh i f s) = stored s := by simp [updCh]

@[simp] theorem updPort_stored (p : Port) (f : HPort → HPort) (s : State) : stored (updPort p f s) = stored s := by simp [updPort]

@[simp] theorem breakLocal_stored (s : State) : stored (breakLocal s) = stored s := by simp [breakLocal]

@[simp] theorem writeRec_evolves {a : Stored} (r : BootRec) (s : State) (ev : Evolves a (stored s)) :
    Evolves a (stored (writeRec r s)) := by
  obtain ⟨wf, fuses, serial⟩ := flashWrite_evolves (0x1000 * nextCopy s) (recBytes { r with gen := (bootRec s).gen + 1 }) s ev
  exact ⟨wf, fuses, serial⟩

@[simp] theorem pastWord_stored (s : State) : stored (pastWord s) = stored s := by simp [pastWord, stepPast]

@[simp] theorem withProc_stored (p : Option Proc) (s : State) : stored (withProc p s) = stored s := by simp [withProc]

@[simp] theorem msix_stored (v : Nat) (s : State) : stored (msix v s) = stored s := by simp [msix]

@[simp] theorem errIrq_stored (before : W32) (s : State) : stored (errIrq before s) = stored s := by simp [errIrq]

@[simp] theorem issue_stored (code : Nat) (items : List Item) (s : State) : stored (issue code items s) = stored s := by
  simp [issue, overflowEvent_diag, noteFatal_diag, enqueue_diag]

@[simp] theorem issueUpTo_stored (n code : Nat) (items : List Item) (s : State) : stored (issueUpTo n code items s) = stored s := by
  simp [issueUpTo]

@[simp] theorem issueFirst_stored (code : Nat) (items : List Item) (s : State) : stored (issueFirst code items s) = stored s := by
  simp [issueFirst]

@[simp] theorem issueOnce_stored (code : Nat) (items : List Item) (s : State) : stored (issueOnce code items s) = stored s := by
  simp [issueOnce]

@[simp] theorem refuseRunCtl_stored (cmd cause event : Nat) (s : State) : stored (refuseRunCtl cmd cause event s) = stored s := by
  simp [refuseRunCtl]

@[simp] theorem slotCarries_stored (c : SlotClass) (k n : Nat) (s : State) : stored (slotCarries c k n s) = stored s := by
  simp [slotCarries]

@[simp] theorem bookRound_stored (c : SlotClass) (n : Nat) (s : State) : stored (bookRound c n s) = stored s := by simp [bookRound]

@[simp] theorem bookRounds_stored (c : SlotClass) (n x2 : Nat) (s : State) : stored (bookRounds c n x2 s) = stored s := by
  induction n generalizing x2 s with
  | zero => simp [bookRounds]
  | succ k ih => rw [bookRounds]; split <;> simp [ih]

@[simp] theorem bookSlots_stored (c : SlotClass) (n : Nat) (s : State) : stored (bookSlots c n s) = stored s := by simp [bookSlots]

@[simp] theorem loseMark_stored (m : Mark) (s : State) : stored (loseMark m s) = stored s := by simp [loseMark]

@[simp] theorem queueMark_stored (m : Mark) (s : State) : stored (queueMark m s) = stored s := by simp [queueMark]

@[simp] theorem markAll_stored (key : Nat) (w0 w1 : W64) (conds : List Nat) (s : State) :
    stored (markAll key w0 w1 conds s) = stored s := by
  simp [markAll]

@[simp] theorem sendFrame_evolves {a : Stored} (f : Frame) (s : State) (ev : Evolves a (stored s)) :
    Evolves a (stored (sendFrame f s)) := by
  unfold sendFrame; dsimp only; simp [↓stored_upd, ↓msix_stored, ev]

@[simp] theorem endDrop_stored (s : State) : stored (endDrop s) = stored s := by unfold endDrop; split <;> simp

@[simp] theorem returnMarks_stored (l : List Mark) (s : State) : stored (returnMarks l s) = stored s := by simp [returnMarks]

@[simp] theorem dropFrame_stored (f : Frame) (s : State) : stored (dropFrame f s) = stored s := by simp [dropFrame]

@[simp] theorem stageOldest_evolves {a : Stored} (s : State) (ev : Evolves a (stored s)) : Evolves a (stored (stageOldest s)) := by
  unfold stageOldest; split
  · exact ev
  · dsimp only; simp [↓stored_upd, ↓issue_stored, ev]

@[simp] theorem sendOldest_evolves {a : Stored} (s : State) (ev : Evolves a (stored s)) : Evolves a (stored (sendOldest s)) := by
  unfold sendOldest; split <;> simp [ev]

@[simp] theorem frontRoom_evolves {a : Stored} (s : State) (ev : Evolves a (stored s)) : Evolves a (stored (frontRoom s)) := by
  simp [frontRoom, ev]

@[simp] theorem closeFrame_evolves {a : Stored} (ps : Fin 16) (flag : Nat) (s : State) (ev : Evolves a (stored s)) :
    Evolves a (stored (closeFrame ps flag s)) := by
  unfold closeFrame; split
  · exact ev
  · dsimp only; simp [↓stored_upd, ↓endDrop_stored, ev]

@[simp] theorem putUnit_evolves {a : Stored} (ps : Fin 16) (era key : Nat) (w0 w1 : W64) (mk : Option Mark) (flag : Nat) (s : State)
    (ev : Evolves a (stored s)) :
    Evolves a (stored (putUnit ps era key w0 w1 mk flag s)) := by
  simp [putUnit, ev]

@[simp] theorem placeData_evolves {a : Stored} (ps : Fin 16) (l : List Datum) (s : State) (ev : Evolves a (stored s)) :
    Evolves a (stored (placeData ps l s)) := by
  unfold placeData; split <;> simp [ev]

@[simp] theorem placeMark_evolves {a : Stored} (m : Mark) (s : State) (ev : Evolves a (stored s)) : Evolves a (stored (placeMark m s)) := by
  simp [placeMark, ev]

@[simp] theorem placeQueued_evolves {a : Stored} (m : Mark) (s : State) (ev : Evolves a (stored s)) :
    Evolves a (stored (placeQueued m s)) := by
  simp [placeQueued, ev]

@[simp] theorem stalePlace_evolves {a : Stored} (ps : Fin 16) (f : Frame) (s : State) (ev : Evolves a (stored s)) :
    Evolves a (stored (stalePlace ps f s)) := by
  simp [stalePlace, ev]

@[simp] theorem placeItem_evolves {a : Stored} (ps : Fin 16) (upTo : Option Nat) (s : State) (ev : Evolves a (stored s)) :
    Evolves a (stored (placeItem ps upTo s)) := by
  unfold placeItem; split <;> simp [ev]

@[simp] theorem placeNext_evolves {a : Stored} (ps : Fin 16) (upTo : Option Nat) (s : State) (ev : Evolves a (stored s)) :
    Evolves a (stored (placeNext ps upTo s)) := by
  unfold placeNext; (repeat' split) <;> simp [ev]

@[simp] theorem placeAll_evolves {a : Stored} (ps : Fin 16) (upTo : Option Nat) (n : Nat) (s : State) (ev : Evolves a (stored s)) :
    Evolves a (stored (placeAll ps upTo n s)) := by
  induction n generalizing s with
  | zero => simp [placeAll, ev]
  | succ n ih => rw [placeAll]; split <;> simp [ih, ev]

@[simp] theorem closeSet_evolves {a : Stored} (upTo : Option Nat) (flag : Nat) (s : State) (ps : Fin 16) (ev : Evolves a (stored s)) :
    Evolves a (stored (closeSet upTo flag s ps)) := by
  simp [closeSet, ev]

@[simp] theorem closeFrames_evolves {a : Stored} (upTo : Option Nat) (flag : Nat) (s : State) (ev : Evolves a (stored s)) :
    Evolves a (stored (closeFrames upTo flag s)) := by
  simp [closeFrames, ev]

@[simp] theorem closeEpoch_evolves {a : Stored} (s : State) (ev : Evolves a (stored s)) : Evolves a (stored (closeEpoch s)) := by
  simp [closeEpoch, ev]

@[simp] theorem epochMark_stored (kind key : Nat) (w1 : W64) (s : State) : stored (epochMark kind key w1 s) = stored s := by
  simp [epochMark]

@[simp] theorem enBurst_stored (b : Burst) (s : State) (p : Port) : stored (enBurst b s p) = stored s := by simp [enBurst]

@[simp] theorem burstUp_stored (b : Burst) (s : State) : stored (burstUp b s) = stored s := by simp [burstUp]

@[simp] theorem burstDown_stored (b : Burst) (s : State) : stored (burstDown b s) = stored s := by simp [burstDown]

@[simp] theorem enMsg_stored (m : Mgmt) (s : State) (p : Port) : stored (enMsg m s p) = stored s := by simp [enMsg]

@[simp] theorem msgDown_stored (m : Mgmt) (s : State) : stored (msgDown m s) = stored s := by simp [msgDown]

@[simp] theorem recordDiscord_stored (cause member port detail : Nat) (s : State) :
    stored (recordDiscord cause member port detail s) = stored s := by
  simp [recordDiscord]

@[simp] theorem sendDiscord_stored (cause port detail : Nat) (s : State) : stored (sendDiscord cause port detail s) = stored s := by
  simp [sendDiscord]

@[simp] theorem tiuSayOnce_stored (g : Glove) (code : Nat) (start : Int) (s : State) : stored (tiuSayOnce g code start s) = stored s := by
  unfold tiuSayOnce; dsimp only; simp [↓stored_upd, ↓issue_stored]

@[simp] theorem tiuNoStop_stored (g : Glove) (s : State) : stored (tiuNoStop g s) = stored s := by unfold tiuNoStop; split <;> simp

@[simp] theorem tiuCheckDone_stored (g : Glove) (s : State) : stored (tiuCheckDone g s) = stored s := by simp [tiuCheckDone]

@[simp] theorem countShot_stored (g : Glove) (start stop : Int) (s : State) : stored (countShot g start stop s) = stored s := by
  simp [countShot]

@[simp] theorem countOver_stored (g : Glove) (start : Int) (s : State) : stored (countOver g start s) = stored s := by
  unfold countOver; dsimp only
  rw [tiuSayOnce_stored, stored_mk]; dsimp only
  rw [stored_eta, updTiu_stored]

@[simp] theorem countEnded_stored (s : State) (x : EndedShot) : stored (countEnded s x) = stored s := by simp [countEnded]

@[simp] theorem tiuSettle_stored (f : EndedShot → Bool) (s : State) : stored (tiuSettle f s) = stored s := by simp [tiuSettle]

@[simp] theorem tiuPast_stored (s : State) : stored (tiuPast s) = stored s := by simp [tiuPast]

@[simp] theorem giveHit_stored (p : Pin) (s : State) (h : RawHit) : stored (giveHit p s h) = stored s := by simp [giveHit]

@[simp] theorem classify_stored (p : Pin) (k : XKind) (t : Int) (s : State) : stored (classify p k t s) = stored s := by simp [classify]

@[simp] theorem loseStamp_stored (p : Pin) (t : Nat) (s : State) : stored (loseStamp p t s) = stored s := by
  simp [loseStamp, addOverflow]

@[simp] theorem streamStamp_stored (p : Pin) (k : XKind) (t : Int) (seen : Nat) (s : State) :
    stored (streamStamp p k t seen s) = stored s := by
  simp [streamStamp]

@[simp] theorem stampOut_stored (s : State) (x : PendX) : stored (stampOut s x) = stored s := by simp [stampOut]

@[simp] theorem flushX_stored (f : PendX → Bool) (s : State) : stored (flushX f s) = stored s := by simp [flushX]

@[simp] theorem flushAll_stored (s : State) : stored (flushAll s) = stored s := by simp [flushAll]

@[simp] theorem deliverHit_stored (e : Nat) (s : State) (h : Hit) : stored (deliverHit e s h) = stored s := by simp [deliverHit]

@[simp] theorem deliverDue_stored (s : State) : stored (deliverDue s) = stored s := by simp [deliverDue]

@[simp] theorem wrapEffects_evolves {a : Stored} (s : State) (ev : Evolves a (stored s)) : Evolves a (stored (wrapEffects s)) := by
  simp [wrapEffects, ev]

@[simp] theorem passed_stored (s : State) : stored (passed s) = stored s := by simp [passed]

@[simp] theorem pass_evolves {a : Stored} (n : Nat) (s : State) (ev : Evolves a (stored s)) : Evolves a (stored (pass n s)) := by
  unfold pass; dsimp only; split
  · split
    · exact ev
    · rw [passed_stored]; split
      · exact wrapEffects_evolves _ ev
      · exact ev
  · exact ev

@[simp] theorem toEpoch_evolves {a : Stored} (e : Nat) (s : State) (ev : Evolves a (stored s)) : Evolves a (stored (toEpoch e s)) := by
  simp [toEpoch, ev]

@[simp] theorem toTime_evolves {a : Stored} (t : Nat) (s : State) (ev : Evolves a (stored s)) : Evolves a (stored (toTime t s)) := by
  simp [toTime, ev]

@[simp] theorem inSlot_evolves {a : Stored} (c : SlotClass) (n : Nat) (s : State) (ev : Evolves a (stored s)) :
    Evolves a (stored (inSlot c n s)) := by
  unfold inSlot; split <;> simp [ev]

@[simp] theorem mxStopEvent_stored (cause : Nat) (s : State) (i : Chan) : stored (mxStopEvent cause s i) = stored s := by simp [mxStopEvent]

@[simp] theorem parkAll_stored (mxCause : Nat) (s : State) : stored (parkAll mxCause s) = stored s := by
  have events := foldl_stored _ (fun u i => mxStopEvent_stored mxCause u i) (List.finRange 16) s
  unfold parkAll; generalize List.foldl _ s _ = s1 at events ⊢
  exact events

@[simp] theorem tiuClose_stored (g : Glove) (s : State) : stored (tiuClose g s) = stored s := by simp [tiuClose]

@[simp] theorem tiuCloseAll_stored (s : State) : stored (tiuCloseAll s) = stored s := by
  have closed (u : State) := foldl_stored _ (fun u g => tiuClose_stored g u) (List.finRange 64) u
  unfold tiuCloseAll; dsimp only
  rw [stored_mk]; dsimp only
  rw [stored_eta, closed, stored_mk]; dsimp only
  rw [stored_eta]

@[simp] theorem endStarve_stored (s : State) : stored (endStarve s) = stored s := by unfold endStarve; split <;> simp

@[simp] theorem endDstall_stored (s : State) : stored (endDstall s) = stored s := by simp [endDstall]

@[simp] theorem endBubble_stored (s : State) : stored (endBubble s) = stored s := by simp [endBubble]

@[simp] theorem endLimit_stored (s : State) : stored (endLimit s) = stored s := by simp [endLimit]

@[simp] theorem endEpisodes_stored (s : State) : stored (endEpisodes s) = stored s := by simp [endEpisodes]

@[simp] theorem stopVector_stored (cause code : Nat) (s : State) : stored (stopVector cause code s) = stored s := by
  unfold stopVector; dsimp only; simp [↓stored_upd]

@[simp] theorem retract_stored (c : Cond) (s : State) : stored (retract c s) = stored s := by simp [retract]

@[simp] theorem dropProvisional_stored (s : State) : stored (dropProvisional s) = stored s := by
  unfold dropProvisional; split
  · rfl
  · rename_i c _ _
    show stored (if 4096 ≤ c.tails then takeFree (retract c s) else retract c s) = stored s
    simp

@[simp] theorem reportIdle_stored (s : State) : stored (reportIdle s) = stored s := by simp [reportIdle]

@[simp] theorem finishRun_stored (cause code : Nat) (s : State) : stored (finishRun cause code s) = stored s := by
  unfold finishRun; dsimp only; simp [↓stored_upd, ↓issue_stored, ↓reportIdle_stored]

@[simp] theorem containRun_stored (s : State) : stored (containRun s) = stored s := by
  unfold containRun; dsimp only; simp [↓stored_upd, ↓dropProvisional_stored]

@[simp] theorem enterContain_stored (cause : Nat) (s : State) : stored (enterContain cause s) = stored s := by
  have parked : stored (parkAll 2 (tiuCloseAll (containRun s))) = stored s := by simp
  unfold enterContain; dsimp only; rw [issue_stored, errIrq_stored]
  generalize parkAll _ _ = s1 at parked ⊢
  exact parked

@[simp] theorem containAgain_stored (cause : Nat) (s : State) : stored (containAgain cause s) = stored s := by simp [containAgain]

@[simp] theorem contain_stored (cause : Nat) (s : State) : stored (contain cause s) = stored s := by
  unfold contain; dsimp only; split
  · rw [containAgain_stored]
  · split <;> simp

@[simp] theorem discord_stored (cause port detail : Nat) (s : State) : stored (discord cause port detail s) = stored s := by simp [discord]

@[simp] theorem guardTiu_stored (q : Quad) (s : State) (g : Glove) : stored (guardTiu q s g) = stored s := by simp [guardTiu]

@[simp] theorem shutGuard_stored (q : Quad) (s : State) : stored (shutGuard q s) = stored s := by simp [shutGuard]

@[simp] theorem stopPll_stored (q : Quad) (s : State) : stored (stopPll q s) = stored s := by unfold stopPll; dsimp only; simp [↓stored_upd]

@[simp] theorem stopPlls_stored (s : State) : stored (stopPlls s) = stored s := by simp [stopPlls]

@[simp] theorem noteEcc_stored (ecc : Ecc) (addr : Nat) (s : State) : stored (noteEcc ecc addr s) = stored s := by
  unfold noteEcc; split <;> simp

@[simp] theorem noteReadUe_stored (ecc : Ecc) (addr requester : Nat) (s : State) : stored (noteReadUe ecc addr requester s) = stored s := by
  simp [noteReadUe]

@[simp] theorem bar2Drop_stored (cause : Nat) (w : Bar2Req) (s : State) : stored (bar2Drop cause w s) = stored s := by simp [bar2Drop]

@[simp] theorem noteMixed_stored (w : Bar2Req) (s : State) : stored (noteMixed w s) = stored s := by simp [noteMixed]

@[simp] theorem bar2One_evolves {a : Stored} (ecc : Ecc) (w : Bar2Req) (s : State) (ev : Evolves a (stored s)) :
    Evolves a (stored (bar2One ecc w s)) := by
  unfold bar2One; split <;> simp [ev]

@[simp] theorem bar2Apply_evolves {a : Stored} (ecc : Ecc) (s : State) (ev : Evolves a (stored s)) :
    Evolves a (stored (bar2Apply ecc s)) := by
  unfold bar2Apply; split <;> simp [ev]

@[simp] theorem bar2Drain_evolves {a : Stored} (s : State) (ev : Evolves a (stored s)) : Evolves a (stored (bar2Drain s)) := by
  simp [bar2Drain, ev]

@[simp] theorem popBytes_stored (f : Nat → Bool) (s : State) : stored (popBytes f s) = stored s := by unfold popBytes; split <;> simp

@[simp] theorem popWrite_stored (base n : Nat) (s : State) : stored (popWrite base n s) = stored s := by simp [popWrite]

@[simp] theorem objNote_stored (host : Bool) (dr : DramFind) (a : Nat) (s : State) : stored (objNote host dr a s) = stored s := by
  simp [objNote]

@[simp] theorem abortRun_stored (s : State) : stored (abortRun s) = stored s := by unfold abortRun; dsimp only; simp [↓stored_upd]

@[simp] theorem takeStop_stored (s : State) : stored (takeStop s) = stored s := by simp [takeStop]

@[simp] theorem stopHere_stored (s : State) : stored (stopHere s) = stored s := by unfold stopHere; split <;> (try split) <;> simp

@[simp] theorem stopNow_stored (s : State) : stored (stopNow s) = stored s := by unfold stopNow; split <;> simp

@[simp] theorem haltReq_stored (kind : Nat) (s : State) : stored (haltReq kind s) = stored s := by simp [haltReq]

@[simp] theorem storeEcc_stored (ecc : Ecc) (a found : Nat) (s : State) : stored (storeEcc ecc a found s) = stored s := by
  unfold storeEcc; split <;> simp

@[simp] theorem fetchFault_stored (addr pin : Nat) (s : State) : stored (fetchFault addr pin s) = stored s := by simp [fetchFault]

@[simp] theorem poisonFault_stored (addr : Nat) (s : State) : stored (poisonFault addr s) = stored s := by simp [poisonFault]

@[simp] theorem countDrop_stored (cause : Nat) (e : PEdge) (kind : Nat) (s : State) : stored (countDrop cause e kind s) = stored s := by
  simp [countDrop]

@[simp] theorem coreSettle_stored (s : State) : stored (coreSettle s) = stored s := by simp [coreSettle]

@[simp] theorem onResults_stored (n : Nat) (f : List (Pin × W16) → List (Pin × W16)) (s : State) : stored (onResults n f s) = stored s := by
  simp [onResults]

@[simp] theorem putResult_stored (n : Nat) (p : Pin) (w : W16) (s : State) : stored (putResult n p w s) = stored s := by simp [putResult]

@[simp] theorem noteCrossed_stored (p : Pin) (idx st : Nat) (s : State) : stored (noteCrossed p idx st s) = stored s := by
  simp [noteCrossed]

@[simp] theorem strobe_stored (e : PEdge) (s : State) : stored (strobe e s) = stored s := by simp [strobe]

@[simp] theorem tiuOpen_stored (ago : Nat) (g : Glove) (s : State) : stored (tiuOpen ago g s) = stored s := by simp [tiuOpen]

@[simp] theorem forget_stored (cid : Nat) (s : State) : stored (forget cid s) = stored s := by simp [forget]

@[simp] theorem dropSpare_stored (s : State) : stored (dropSpare s) = stored s := by simp [dropSpare, reportShelf]

@[simp] theorem swapShelf_stored (s : State) : stored (swapShelf s) = stored s := by simp [swapShelf, reportShelf]

@[simp] theorem haltReady_stored (s : State) : stored (haltReady s) = stored s := by unfold haltReady; split <;> simp

@[simp] theorem saySat_stored (wide : Bool) (alt v : Nat) (s : State) : stored (saySat wide alt v s) = stored s := by simp [saySat]

@[simp] theorem retWord_stored (p : Proc) (s : State) : stored (retWord p s) = stored s := by unfold retWord; split <;> simp

@[simp] theorem askMeas_stored (src : Option W16) (pins : List Pin) (settle log2n : Nat) (s : State) :
    stored (askMeas src pins settle log2n s) = stored s := by
  unfold askMeas; dsimp only
  rw [foldl_stored _ fun _ _ => by rw [stored_mk, stored_eta]]

@[simp] theorem noteClamp_stored (m : Meas) (clamped : Bool) (s : State) : stored (noteClamp m clamped s) = stored s := by simp [noteClamp]

@[simp] theorem ringError_stored (reg v : Nat) (s : State) : stored (ringError reg v s) = stored s := by simp [ringError]

@[simp] theorem closeCmd_stored (s : State) : stored (closeCmd s) = stored s := by simp [closeCmd]

@[simp] theorem smbRespond_stored (f : State → List Byte) (s : State) : stored (smbRespond f s) = stored s := by simp [smbRespond]

@[simp] theorem parkOnce_stored (s : State) : stored (parkOnce s) = stored s := by simp [parkOnce]

@[simp] theorem mxSync_stored (s : State) : stored (mxSync s) = stored s := by simp [mxSync]

@[simp] theorem jumpIgnored_stored (i : Chan) (seg src : Nat) (s : State) : stored (jumpIgnored i seg src s) = stored s := by
  simp [jumpIgnored]

@[simp] theorem mxRequest_stored (i : Chan) (src seg : Nat) (imm : Bool) (cyc : Int) (s : State) :
    stored (mxRequest i src seg imm cyc s) = stored s := by
  simp [mxRequest]

@[simp] theorem mxOut_stored (i : Chan) (v : Int) (s : State) : stored (mxOut i v s) = stored s := by
  unfold mxOut; dsimp only
  simp only [stored_ite, issue_stored, stored_mk, stored_eta, updCh_stored, ite_self]

@[simp] theorem toEns_evolves {a : Stored} (t : Nat) (s : State) (ev : Evolves a (stored s)) : Evolves a (stored (toEns t s)) := by
  simp [toEns, ev]

@[simp] theorem portDown_stored (p : Port) (cause : Nat) (s : State) : stored (portDown p cause s) = stored s := by simp [portDown]

@[simp] theorem goodData_stored (p : Port) (s : State) : stored (goodData p s) = stored s := by simp [goodData]

@[simp] theorem flashFail_stored (a : Nat) (e : Exec) (s : State) : stored (flashFail a e s) = stored s := by simp [flashFail]

@[simp] theorem uncommit_evolves {a : Stored} (k : Nat) (s : State) (ev : Evolves a (stored s)) : Evolves a (stored (uncommit k s)) := by
  simp [uncommit, ev]

@[simp] theorem stageRun_evolves {a : Stored} (ok : Bool) (e : Exec) (s : State) (ev : Evolves a (stored s)) :
    Evolves a (stored (stageRun ok e s)) := by
  simp [stageRun, ev]

@[simp] theorem commitRun_evolves {a : Stored} (ok : Bool) (k : Nat) (e : Exec) (s : State) (ev : Evolves a (stored s)) :
    Evolves a (stored (commitRun ok k e s)) := by
  unfold commitRun recordFail; dsimp only; split <;> simp [ev]

/-! ### The stream assembler (11) -/

@[simp] theorem stageEmpty_stored (s : State) : stored (stageEmpty s) = stored s := by simp [stageEmpty]

@[simp] theorem endFill_stored (s : State) : stored (endFill s) = stored s := by simp [endFill]

@[simp] theorem streamShut_stored (cause discarded : Nat) (s : State) : stored (streamShut cause discarded s) = stored s := by
  unfold streamShut; dsimp only
  simp [↓stored_upd, ↓issue_stored]

/-! ### Lock guards (02) -/

@[simp] theorem loseLock_stored (q : Quad) (cause : Nat) (s : State) : stored (loseLock q cause s) = stored s := by
  unfold loseLock; dsimp only
  simp [↓stored_upd, ↓contain_stored, ↓issue_stored]

/-! ### The passing of time (02, 11) -/

@[simp] theorem addOverflow_stored (p : Pin) (t : Nat) (s : State) : stored (addOverflow p t s) = stored s := by simp [addOverflow]

@[simp] theorem idleCycle_evolves {a : Stored} (s : State) (ev : Evolves a (stored s)) : Evolves a (stored (idleCycle s)) := by
  simp [idleCycle, ev]

/-! ### Levels (05) -/

@[simp] theorem reportClamp_stored (p : Pin) (l : List (DacIx × W16 × W16)) (s : State) : stored (reportClamp p l s) = stored s := by
  unfold reportClamp; split <;> simp

@[simp] theorem tickPins_stored (idle : Bool) (sel : Pin → Bool) (s : State) : stored (tickPins idle sel s) = stored s := by
  unfold tickPins; dsimp only; split
  · rw [reportClamp_stored, stored_mk, stored_eta]
  · rw [stored_mk, stored_eta]

@[simp] theorem stageWrite_stored (sel : Pin → Bool) (f : Pin → PinSt → PinSt) (s : State) : stored (stageWrite sel f s) = stored s := by
  unfold stageWrite; dsimp only
  simp [↓stored_upd, ↓tickPins_stored]

/-! ### Commands and their checks (15) -/

@[simp] theorem runCmd_stored (op : Nat) (tag : W16) (f : Exec → State → State) (h : ∀ e u, stored (f e u) = stored u) (s : State) :
    stored (runCmd op tag f s) = stored s := by
  unfold runCmd; split <;> simp [h]

@[simp] theorem runCmd_evolves {z : Stored} (op : Nat) (tag : W16) (f : Exec → State → State) (h : ∀ e u, Evolves (stored u) (stored
    (f e u))) (s : State) (ev : Evolves z (stored s)) :
    Evolves z (stored (runCmd op tag f s)) := by
  unfold runCmd; split
  · exact ev.trans (h _ s)
  · exact ev

@[simp] theorem checked_stored (checks : List (Bool × Nat)) (e : Exec) (f : State → State) (h : ∀ u, stored (f u) = stored u) (s : State) :
    stored (checked checks e f s) = stored s := by
  unfold checked; split <;> simp [h]

@[simp] theorem checked_evolves {z : Stored} (checks : List (Bool × Nat)) (e : Exec) (f : State → State) (h : ∀ u, Evolves (stored u)
    (stored (f u))) (s : State) (ev : Evolves z (stored s)) :
    Evolves z (stored (checked checks e f s)) := by
  unfold checked; split
  · rwa [answer_stored]
  · exact ev.trans (h s)

/-- The row of a command that may do to what is stored what every operation may. -/
theorem runCmd_leads (op : Nat) (tag : W16) {f : Exec → State → State} (h : ∀ e u, Evolves (stored u) (stored (f e u))) (s : State) :
    Leads (stored s) (.next (runCmd op tag f s)) :=
  runCmd_evolves op tag f h s (Evolves.refl _)

/-! ### Arm checks (08) -/

@[simp] theorem issueFailures_stored (l : List (Nat × List Item)) (s : State) : stored (issueFailures l s) = stored s := by
  simp [issueFailures]

/-! ### Device DRAM (07) -/

@[simp] theorem applyReg_stored (base n cur : Nat) (ok : Nat → Bool) (f : State → State) (h : ∀ u, stored (f u) = stored u) (s : State) :
    stored (applyReg base n cur ok f s) = stored s := by
  simp [applyReg, h]

@[simp] theorem applyReg_evolves {z : Stored} (base n cur : Nat) (ok : Nat → Bool) (f : State → State) (h : ∀ u, Evolves (stored u)
    (stored (f u))) (s : State) (ev : Evolves z (stored s)) :
    Evolves z (stored (applyReg base n cur ok f s)) := by
  unfold applyReg; split
  · exact Evolves.trans (by rwa [popWrite_stored]) (h _)
  · exact ev

@[simp] theorem runCtlWrite_evolves {a : Stored} (s : State) (ev : Evolves a (stored s)) : Evolves a (stored (runCtlWrite s)) := by
  simp [runCtlWrite, ev]

@[simp] theorem applyRunCtl_evolves {z : Stored} (cmd : Nat) (f : State → State) (h : ∀ u, Evolves (stored u) (stored (f u)))
    (s : State) (ev : Evolves z (stored s)) :
    Evolves z (stored (applyRunCtl cmd f s)) := by
  unfold applyRunCtl; split
  · exact (runCtlWrite_evolves s ev).trans (h _)
  · exact ev

/-! ### Run control (08) -/

@[simp] theorem shiftTimes_stored (s : State) : stored (shiftTimes s) = stored s := by simp [shiftTimes]

@[simp] theorem clearMark_stored (n : Nat) (s : State) : stored (clearMark n s) = stored s := by simp [clearMark]

@[simp] theorem clearEpoch_evolves {a : Stored} (ensemble : Bool) (s : State) (ev : Evolves a (stored s)) :
    Evolves a (stored (clearEpoch ensemble s)) := by
  unfold clearEpoch; dsimp only
  rw [issue_stored, stored_mk]; dsimp only
  rw [stored_eta]
  simp [ev]

@[simp] theorem armEffect_evolves {a : Stored} (ensemble : Bool) (s : State) (ev : Evolves a (stored s)) :
    Evolves a (stored (armEffect ensemble s)) := by
  unfold armEffect; dsimp only
  rw [stored_mk]; dsimp only
  rw [stored_eta]
  exact clearEpoch_evolves ensemble s ev

@[simp] theorem sendArm_stored (s : State) : stored (sendArm s) = stored s := by simp [sendArm]

@[simp] theorem armDecide_stored (s : State) : stored (armDecide s) = stored s := by unfold armDecide; dsimp only; split <;> simp

@[simp] theorem ownRefusal_stored (s : State) : stored (ownRefusal s) = stored s := by simp [ownRefusal]

@[simp] theorem armPassed_evolves {a : Stored} (s : State) (ev : Evolves a (stored s)) : Evolves a (stored (armPassed s)) := by
  unfold armPassed; dsimp only
  simp [ev]

@[simp] theorem armWrite_evolves {a : Stored} (s : State) (ev : Evolves a (stored s)) : Evolves a (stored (armWrite s)) := by
  unfold armWrite; split
  · simp [ev]
  · split <;> simp [ev]

@[simp] theorem execArm_leads (s : State) : Leads (stored s) (execArm s) := by simp [execArm]

@[simp] theorem goNow_stored (s : State) : stored (goNow s) = stored s := by simp [goNow]

@[simp] theorem goWrite_stored (s : State) : stored (goWrite s) = stored s := by unfold goWrite; (repeat' split) <;> simp

@[simp] theorem execGo_leads (s : State) : Leads (stored s) (execGo s) := by simp [execGo]

@[simp] theorem execPendingStopAtBoundary_leads (s : State) : Leads (stored s) (execPendingStopAtBoundary s) := by
  simp [execPendingStopAtBoundary]

@[simp] theorem haltNow_stored (at_ : Nat) (s : State) : stored (haltNow at_ s) = stored s := by unfold haltNow; split <;> simp

@[simp] theorem abortNow_stored (at_ : Nat) (s : State) : stored (abortNow at_ s) = stored s := by simp [abortNow]

@[simp] theorem haltEnsemble_stored (kind member : Nat) (s : State) : stored (haltEnsemble kind member s) = stored s := by
  simp [haltEnsemble]

@[simp] theorem haltWrite_stored (s : State) : stored (haltWrite s) = stored s := by simp [haltWrite]

@[simp] theorem execHalt_leads (s : State) : Leads (stored s) (execHalt s) := by simp [execHalt]

@[simp] theorem abortWrite_stored (s : State) : stored (abortWrite s) = stored s := by simp [abortWrite]

@[simp] theorem execAbort_leads (s : State) : Leads (stored s) (execAbort s) := by simp [execAbort]

@[simp] theorem execRunCtlInvalidCmd_leads (cmd : BitVec 4) (s : State) : Leads (stored s) (execRunCtlInvalidCmd cmd s) := by
  simp [execRunCtlInvalidCmd]

@[simp] theorem enterArmed_stored (s : State) : stored (enterArmed s) = stored s := by simp [enterArmed]

@[simp] theorem execRunEnd_leads (s : State) : Leads (stored s) (execRunEnd s) := by simp [execRunEnd]

/-! ### Sequence words (08) -/

@[simp] theorem decodeAccount_stored (s : State) : stored (decodeAccount s) = stored s := by simp [decodeAccount]

@[simp] theorem useSlot_stored (s : State) : stored (useSlot s) = stored s := by simp [useSlot]

theorem takeSlot_evolves {a : Stored} {s t : State} (h : takeSlot s = some t) (ev : Evolves a (stored s)) : Evolves a (stored t) := by
  unfold takeSlot at h
  dsimp only at h
  split at h
  · cases h; simp [ev]
  · split at h
    · cases h; simp [ev]
    · cases h

@[simp] theorem freeSlot_evolves {a : Stored} (s : State) (ev : Evolves a (stored s)) : Evolves a (stored (freeSlot s)) := by
  unfold freeSlot; dsimp only
  rw [stored_mk, stored_eta]
  simp [ev]

@[simp] theorem recordFault_stored (ctx cause a : Nat) (s : State) : stored (recordFault ctx cause a s) = stored s := by
  simp [recordFault]

@[simp] theorem vecFault_stored (cause a : Nat) (s : State) : stored (vecFault cause a s) = stored s := by simp [vecFault]

@[simp] theorem postNow_stored (h : Held) (s : State) : stored (postNow h s) = stored s := by simp [postNow]

@[simp] theorem stepPast_stored (a : Nat) (s : State) : stored (stepPast a s) = stored s := by simp [stepPast]

theorem runWord_evolves {z : Stored} (op : Nat) (ecc : Ecc) (f : Nat → Nat → State → State)
    (h : ∀ a w u, Evolves (stored u) (stored (f a w u))) (s0 s : State) (ev0 : Evolves z (stored s0)) (ev : Evolves z (stored s)) :
    Evolves z (stored (runWord op ecc f s0 s)) := by
  unfold runWord; dsimp only; split
  · simp [ev]
  · split
    · exact Evolves.trans (by simp [ev]) (h _ _ _)
    · exact ev0

@[simp] theorem vecWord_evolves {z : Stored} (op : Nat) (ecc : Ecc) (f : Nat → Nat → State → State)
    (h : ∀ a w u, Evolves (stored u) (stored (f a w u))) (s : State) (ev : Evolves z (stored s)) :
    Evolves z (stored (vecWord op ecc f s)) := by
  unfold vecWord; split
  · exact ev
  · split
    · simp [ev]
    · split
      · rename_i t slot
        exact runWord_evolves op ecc f h s t ev (takeSlot_evolves slot ev)
      · exact ev

/-! ### The words of the vector context (08) -/

@[simp] theorem startRun_stored (k : CurKind) (a w : Nat) (s : State) : stored (startRun k a w s) = stored s := by simp [startRun]

@[simp] theorem execVec_leads (ecc : Ecc) (s : State) : Leads (stored s) (execVec ecc s) := by simp [execVec]

@[simp] theorem execRpt_leads (ecc : Ecc) (s : State) : Leads (stored s) (execRpt ecc s) := by simp [execRpt]

@[simp] theorem loopWord_stored (a w : Nat) (s : State) : stored (loopWord a w s) = stored s := by simp [loopWord]

@[simp] theorem execLoop_leads (ecc : Ecc) (s : State) : Leads (stored s) (execLoop ecc s) := by simp [execLoop]

@[simp] theorem execEndl_leads (ecc : Ecc) (s : State) : Leads (stored s) (execEndl ecc s) := by simp [execEndl, endlWord]

@[simp] theorem execBr_leads (ecc : Ecc) (s : State) : Leads (stored s) (execBr ecc s) := by simp [execBr, brWord]

@[simp] theorem execWait_leads (ecc : Ecc) (s : State) : Leads (stored s) (execWait ecc s) := by simp [execWait, waitWord]

@[simp] theorem execLtk_leads (ecc : Ecc) (s : State) : Leads (stored s) (execLtk ecc s) := by simp [execLtk]

@[simp] theorem execMark_leads (ecc : Ecc) (s : State) : Leads (stored s) (execMark ecc s) := by simp [execMark]

@[simp] theorem execTgate_leads (ecc : Ecc) (s : State) : Leads (stored s) (execTgate ecc s) := by simp [execTgate, tgateWord]

@[simp] theorem execMxj_leads (ecc : Ecc) (s : State) : Leads (stored s) (execMxj ecc s) := by simp [execMxj, mxjWord]

@[simp] theorem execSite_leads (ecc : Ecc) (s : State) : Leads (stored s) (execSite ecc s) := by simp [execSite]

@[simp] theorem execEvt_leads (ecc : Ecc) (s : State) : Leads (stored s) (execEvt ecc s) := by simp [execEvt, evtWord]

@[simp] theorem execSvc_leads (ecc : Ecc) (s : State) : Leads (stored s) (execSvc ecc s) := by simp [execSvc, svcWord]

@[simp] theorem execHaltWord_leads (ecc : Ecc) (s : State) : Leads (stored s) (execHaltWord ecc s) := by
  simp [execHaltWord, haltWord']

@[simp] theorem execEvtOutputAct_leads (s : State) : Leads (stored s) (execEvtOutputAct s) := by
  unfold execEvtOutputAct; split <;> simp [driveEvt]

@[simp] theorem execEvtPulseEnd_leads (line : Fin 4) (s : State) : Leads (stored s) (execEvtPulseEnd line s) := by
  unfold execEvtPulseEnd; split
  · simp
  · simp only [leads_next]
    simp [↓stored_upd]

/-! ### The issue of vectors (08) -/

@[simp] theorem noteBrim_stored (n lo hi : Nat) (s : State) : stored (noteBrim n lo hi s) = stored s := by simp [noteBrim]

@[simp] theorem cutEdge_stored (l : List PEdge) (s : State) (e : PEdge) : stored (cutEdge l s e) = stored s := by simp [cutEdge, dropEdge]

@[simp] theorem cutOverhang_stored (n start : Nat) (s : State) : stored (cutOverhang n start s) = stored s := by simp [cutOverhang]

@[simp] theorem openSome_stored (n : Nat) (s : State) : stored (openSome n s) = stored s := by
  induction n generalizing s with
  | zero => rfl
  | succ n ih => unfold openSome; split <;> simp [ih]

@[simp] theorem openAll_stored (s : State) : stored (openAll s) = stored s := by simp [openAll]

@[simp] theorem endOthers_stored (k : Option IdleKind) (s : State) : stored (endOthers k s) = stored s := by
  unfold endOthers; (repeat' split) <;> simp

@[simp] theorem noteIdle_stored (k : IdleKind) (s : State) : stored (noteIdle k s) = stored s := by
  unfold noteIdle; split <;> simp [noteStarve]

@[simp] theorem idleVector_stored (k : IdleKind) (start : Nat) (s : State) : stored (idleVector k start s) = stored s := by
  simp [idleVector, emitIdle]

@[simp] theorem missingData_stored (cause pin start : Nat) (s : State) : stored (missingData cause pin start s) = stored s := by
  simp [missingData]

@[simp] theorem carry_stored (n idx start : Nat) (conds : List Nat) (r : Reqs) (s : State) :
    stored (carry n idx start conds r s) = stored s := by
  unfold carry; split <;> simp

@[simp] theorem goAfter_stored (c : Cur) (sub : Subj) (s : State) : stored (goAfter c sub s) = stored s := by unfold goAfter; split <;> simp

@[simp] theorem boundarySlot_stored (s : State) : stored (boundarySlot s) = stored s := by simp [boundarySlot]

@[simp] theorem emitVector_stored (c : Cur) (b : List Byte) (start : Nat) (s0 : State) : stored (emitVector c b start s0) = stored s0 := by
  unfold emitVector; dsimp only
  split <;> simp [↓stored_upd, ↓goAfter_stored, ↓cutOverhang_stored, ↓noteBrim_stored, ↓carry_stored, takeData]

@[simp] theorem issueLanes_evolves {a : Stored} (c : Cur) (b : List Byte) (start : Nat) (s : State) (ev : Evolves a (stored s)) :
    Evolves a (stored (issueLanes c b start s)) := by
  unfold issueLanes; dsimp only; (repeat' split) <;> simp [emitBad, ev]

@[simp] theorem descFault_stored (d : Nat) (s : State) : stored (descFault d s) = stored s := by simp [descFault]

@[simp] theorem issueDue_evolves {a : Stored} (c : Cur) (start : Nat) (s : State) (ev : Evolves a (stored s)) :
    Evolves a (stored (issueDue c start s)) := by
  unfold issueDue; (repeat' split) <;> simp [ev]

theorem loadDesc_stored {c d : Cur} {s t : State} (h : loadDesc c s = some (d, t)) : stored t = stored s := by
  unfold loadDesc at h
  split at h
  · cases h; rfl
  · split at h
    · cases h
    · split at h
      · cases h; rfl
      · dsimp only at h
        split at h
        · cases h
        · cases h; rw [stored_mk, stored_eta]

@[simp] theorem issueWord_evolves {a : Stored} (c : Cur) (start : Nat) (s : State) (ev : Evolves a (stored s)) :
    Evolves a (stored (issueWord c start s)) := by
  unfold issueWord; dsimp only; split
  · simp [ev]
  · split
    · simp [ev]
    · rename_i h
      exact issueDue_evolves _ start _ (by rwa [loadDesc_stored h])

@[simp] theorem vectorStart_evolves {a : Stored} (s0 : State) (ev : Evolves a (stored s0)) : Evolves a (stored (vectorStart s0)) := by
  unfold vectorStart; dsimp only; (repeat' split) <;> simp [ev]

@[simp] theorem execVectorIssue_leads (s : State) : Leads (stored s) (execVectorIssue s) := by simp [execVectorIssue]

/-! ### Edges and compares (03, 04) -/

@[simp] theorem placeVector_stored (v : VRec) (s : State) : stored (placeVector v s) = stored s := by simp [placeVector]

@[simp] theorem execVectorAtFormatter_leads (s : State) : Leads (stored s) (execVectorAtFormatter s) := by
  unfold execVectorAtFormatter; split
  · simp
  · simp only [leads_next]
    simp [↓stored_upd, ↓contain_stored, ↓issue_stored]

@[simp] theorem fireDrive_stored (s : State) (e : PEdge) : stored (fireDrive s e) = stored s := by simp [fireDrive]

@[simp] theorem execEdgeFire_leads (p : Pin) (s : State) : Leads (stored s) (execEdgeFire p s) := by
  unfold execEdgeFire; split
  · simp
  · simp only [leads_next]
    rw [updPin_stored, foldl_stored _ fireDrive_stored]
    simp

@[simp] theorem windowE4_stored (e : PEdge) (s : State) : stored (windowE4 e s) = stored s := by unfold windowE4; split <;> simp [openWin]

@[simp] theorem closeWin_stored (e : PEdge) (s : State) : stored (closeWin e s) = stored s := by unfold closeWin; split <;> simp

@[simp] theorem seeLate_stored (p : Pin) (st t : Nat) (free : Bool) (s : State) : stored (seeLate p st t free s) = stored s := by
  unfold seeLate; split <;> simp [passLate]

@[simp] theorem observe_stored (p : Pin) (f : PinSt → PinSt) (t : Nat) (s : State) : stored (observe p f t s) = stored s := by
  unfold observe; dsimp only; (repeat' split) <;> simp

@[simp] theorem fireCompare_stored (e : PEdge) (s : State) : stored (fireCompare e s) = stored s := by simp [fireCompare]

@[simp] theorem execCompareEdge_leads (p : Pin) (s : State) : Leads (stored s) (execCompareEdge p s) := by
  unfold execCompareEdge; split <;> simp

/-! ### Time-interval units (12) -/

@[simp] theorem tiuOverflow_stored (g : Glove) (start : Int) (s : State) : stored (tiuOverflow g start s) = stored s := by
  unfold tiuOverflow; dsimp only
  simp [↓stored_upd, ↓countOver_stored]

@[simp] theorem tiuExpire_stored (g : Glove) (t : Int) (s : State) : stored (tiuExpire g t s) = stored s := by
  unfold tiuExpire; split <;> simp

@[simp] theorem tiuShot_stored (g : Glove) (start stop : Int) (s : State) : stored (tiuShot g start stop s) = stored s := by
  unfold tiuShot; dsimp only
  simp [↓stored_upd, ↓countShot_stored]

@[simp] theorem tiuStop_stored (g : Glove) (st t : Int) (k : Nat) (s : State) : stored (tiuStop g st t k s) = stored s := by
  simp [tiuStop]

@[simp] theorem tiuStart_stored (g : Glove) (t : Int) (s : State) : stored (tiuStart g t s) = stored s := by simp [tiuStart]

@[simp] theorem tiuEvent_stored (sel : W32 → Bool) (t : Int) (s0 : State) (g : Glove) : stored (tiuEvent sel t s0 g) = stored s0 := by
  unfold tiuEvent; dsimp only; (repeat' split) <;> simp

@[simp] theorem tiuFeed_stored (sel : W32 → Bool) (t : Int) (s : State) : stored (tiuFeed sel t s) = stored s := by simp [tiuFeed]

@[simp] theorem execTiuShotOverflow_leads (g : Glove) (s : State) : Leads (stored s) (execTiuShotOverflow g s) := by
  unfold execTiuShotOverflow; split <;> simp

@[simp] theorem execTgateAct_leads (s : State) : Leads (stored s) (execTgateAct s) := by
  unfold execTgateAct; split <;> simp [tgateOpen, tgateClose]

@[simp] theorem tiuMerge_stored (s : State) (g : Glove) : stored (tiuMerge s g) = stored s := by unfold tiuMerge; split <;> simp

@[simp] theorem tiuMergeAll_stored (s : State) : stored (tiuMergeAll s) = stored s := by simp [tiuMergeAll]

@[simp] theorem execGateInEdge_leads (line : Fin 4) (rise : Bool) (s : State) : Leads (stored s) (execGateInEdge line rise s) := by
  simp [execGateInEdge, gateInTiu, tiuCloseAt, tiuJudge]

@[simp] theorem tiuCalibrated_stored (g : Glove) (r1 r2 : Nat) (s : State) : stored (tiuCalibrated g r1 r2 s) = stored s := by
  unfold tiuCalibrated; dsimp only
  simp [↓stored_upd, ↓issue_stored]

@[simp] theorem execTiuGateReady_leads (g : Glove) (r1 r2 : Nat) (s : State) : Leads (stored s) (execTiuGateReady g r1 r2 s) := by
  unfold execTiuGateReady; split <;> simp

@[simp] theorem tiuSnap_evolves {a : Stored} (mask : W64) (s : State) (ev : Evolves a (stored s)) :
    Evolves a (stored (tiuSnap mask s)) := by
  refine ev.write (fun wf => ?_) rfl rfl
  have window := foldl_wf 0 (fun m g => memWrite 0 m (64 * g.val) (tiuBlock s.ti.units[g])) (fun m g w => wf_memWrite 0 m _ _ w)
    (maskBits 64 mask.toNat) ((wf_iff _).1 wf).2.2.2.2.1
  simp_all [wf_iff, tiuSnap, stored, -stored_eta]

@[simp] theorem execTiSnap_leads (mask : W64) (s : State) : Leads (stored s) (execTiSnap mask s) := by simp [execTiSnap]

@[simp] theorem tiConfigOne_stored (s : State) (x : Glove × List Byte) : stored (tiConfigOne s x) = stored s := by simp [tiConfigOne]

@[simp] theorem tiConfigCmd_stored (e : Exec) (s : State) : stored (tiConfigCmd e s) = stored s := by simp [tiConfigCmd]

@[simp] theorem execTiConfig_leads (tag : W16) (s : State) : Leads (stored s) (execTiConfig tag s) := by simp [execTiConfig]

@[simp] theorem tiClearCmd_stored (e : Exec) (s : State) : stored (tiClearCmd e s) = stored s := by simp [tiClearCmd]

@[simp] theorem execTiClear_leads (tag : W16) (s : State) : Leads (stored s) (execTiClear tag s) := by simp [execTiClear]

theorem tiReadCmd_evolves {a : Stored} (e : Exec) (s : State) (ev : Evolves a (stored s)) : Evolves a (stored (tiReadCmd e s)) := by
  simp [tiReadCmd, ev]

@[simp] theorem execTiRead_leads (tag : W16) (s : State) : Leads (stored s) (execTiRead tag s) :=
  runCmd_leads _ tag (fun e u => tiReadCmd_evolves e u (Evolves.refl _)) s

/-! ### Conditions (09) -/

@[simp] theorem drawFree_stored (s : State) (c : Cond) (sub : Subj) : stored (drawFree s c sub) = stored s := by simp [drawFree]

@[simp] theorem reportShelf_stored (s : State) (x : Shelf) : stored (reportShelf s x) = stored s := by simp [reportShelf]

@[simp] theorem confirm_stored (c : Cond) (s : State) : stored (confirm c s) = stored s := by simp [confirm, releasePosts]

@[simp] theorem countTimeout_stored (word idx0 : Nat) (s : State) : stored (countTimeout word idx0 s) = stored s := by simp [countTimeout]

@[simp] theorem timeOut_stored (word target idx0 : Nat) (s : State) : stored (timeOut word target idx0 s) = stored s := by simp [timeOut]

@[simp] theorem backToWait_stored (s : State) : stored (backToWait s) = stored s := by unfold backToWait; (repeat' split) <;> simp

@[simp] theorem endStay_stored (c : Cond) (s : State) : stored (endStay c s) = stored s := by unfold endStay; split <;> simp

@[simp] theorem satisfied_stored (c : Cond) (s : State) : stored (satisfied c s) = stored s := by unfold satisfied; split <;> simp

@[simp] theorem noResult_stored (c : Cond) (s : State) : stored (noResult c s) = stored s := by simp [noResult]

@[simp] theorem restore_stored (c : Cond) (s : State) : stored (restore c s) = stored s := by simp [restore]

@[simp] theorem discardTail_stored (c : Cond) (s : State) : stored (discardTail c s) = stored s := by simp [discardTail]

@[simp] theorem serveBrim_stored (s : State) : stored (serveBrim s) = stored s := by
  unfold serveBrim; dsimp only
  simp [↓stored_upd]

@[simp] theorem mispredict_stored (c : Cond) (s : State) : stored (mispredict c s) = stored s := by
  unfold mispredict; dsimp only
  simp [↓stored_upd, ↓backToWait_stored, ↓takeFree_stored, ↓issueUpTo_stored]

@[simp] theorem resolveNow_stored (c : Cond) (s : State) : stored (resolveNow c s) = stored s := by
  unfold resolveNow; dsimp only; (repeat' split) <;> simp [resolveStay, resolveBranch]

@[simp] theorem resolveOldest_evolves {a : Stored} (r : Nat) (s : State) (ev : Evolves a (stored s)) :
    Evolves a (stored (resolveOldest r s)) := by
  unfold resolveOldest; split <;> simp [ev]

@[simp] theorem resolveAt_evolves {a : Stored} (r : Nat) (s : State) (ev : Evolves a (stored s)) : Evolves a (stored (resolveAt r s)) := by
  unfold resolveAt; split <;> simp [ev]

@[simp] theorem execConditionResolve_leads (s : State) : Leads (stored s) (execConditionResolve s) := by
  unfold execConditionResolve; split <;> simp

/-! ### The fetcher (07) -/

@[simp] theorem mainPath_stored (s : State) : stored (mainPath s) = stored s := by simp [mainPath]

@[simp] theorem sparePath_stored (pc : Nat) (cur : Option Cur) (loops : Vector Nat 8) (cursors : Vector (Option Nat) 512) (s : State) :
    stored (sparePath pc cur loops cursors s) = stored s := by
  simp [sparePath]

@[simp] theorem waitOther_stored (a : Nat) (s : State) : stored (waitOther a s) = stored s := by simp [waitOther]

theorem otherPath_stored {s t : State} (h : otherPath s = some t) : stored t = stored s := by
  unfold otherPath at h
  split at h
  · cases h; simp
  · split at h
    · obtain ⟨a, -, rfl⟩ := Option.map_eq_some_iff.mp h; simp
    · cases h

/-! ### The cellar (09, 10) -/

@[simp] theorem keepCounts_stored (s : State) : stored (keepCounts s) = stored s := by simp [keepCounts]

@[simp] theorem cntSnap_stored (s : State) : stored (cntSnap s) = stored s := by simp [cntSnap]

@[simp] theorem execClCntSnap_leads (s : State) : Leads (stored s) (execClCntSnap s) := by simp [execClCntSnap]

@[simp] theorem countPin_stored (s : State) (x : Pin × Nat) : stored (countPin s x) = stored s := by simp [countPin]

@[simp] theorem countSite_stored (s : State) (i : Fin 64) : stored (countSite s i) = stored s := by simp [countSite]

@[simp] theorem countDev_stored (s : State) : stored (countDev s) = stored s := by simp [countDev]

@[simp] theorem countVector_stored (l : List (Pin × Nat)) (s : State) : stored (countVector l s) = stored s := by simp [countVector]

@[simp] theorem storeRecord_stored (bytes : List Byte) (rseq idx : Nat) (s : State) : stored (storeRecord bytes rseq idx s) = stored s := by
  simp [storeRecord]

@[simp] theorem logVector_stored (v : VRec) (l : List (Pin × Nat)) (s : State) : stored (logVector v l s) = stored s := by
  simp [logVector]

@[simp] theorem sofStop_stored (s : State) : stored (sofStop s) = stored s := by simp [sofStop]

@[simp] theorem checkSof_stored (idx : Nat) (s : State) : stored (checkSof idx s) = stored s := by simp [checkSof]

@[simp] theorem releaseVector_stored (v : VRec) (s0 : State) : stored (releaseVector v s0) = stored s0 := by
  unfold releaseVector; dsimp only
  simp [↓stored_upd, ↓checkSof_stored]

@[simp] theorem commitWait_stored (v : VRec) (s : State) : stored (commitWait v s) = stored s := by simp [commitWait]

@[simp] theorem letGo_stored (v : VRec) (s : State) : stored (letGo v s) = stored s := by simp [letGo]

@[simp] theorem countRelease_stored (s : State) : stored (countRelease s) = stored s := by
  rw [countRelease, stored_mk, stored_eta]

@[simp] theorem releaseSome_stored (fuel n : Nat) (s : State) : stored (releaseSome fuel n s) = stored s := by
  induction fuel generalizing n s with
  | zero => rfl
  | succ fuel ih => unfold releaseSome; split <;> simp [ih]

@[simp] theorem cloakEcc_stored (ecc : Ecc) (v : VRec) (s : State) : stored (cloakEcc ecc v s) = stored s := by
  unfold cloakEcc; split <;> simp

@[simp] theorem cloakFinds_stored (finds : List (Nat × Ecc)) (s : State) : stored (cloakFinds finds s) = stored s := by
  refine foldl_stored _ (fun u x => ?_) finds s
  split <;> simp

@[simp] theorem execCommitRelease_leads (finds : List (Nat × Ecc)) (s : State) : Leads (stored s) (execCommitRelease finds s) := by
  unfold execCommitRelease; split <;> simp [nextRelease]

@[simp] theorem haltLog_stored (s : State) : stored (haltLog s) = stored s := by simp [haltLog]

@[simp] theorem writeGranule_evolves {a : Stored} (base g : Nat) (bytes : List Byte) (s : State) (ev : Evolves a (stored s)) :
    Evolves a (stored (writeGranule base g bytes s)) := by
  unfold writeGranule; dsimp only
  simp [↓stored_upd, ev]

@[simp] theorem granule_evolves {a : Stored} (s : State) (ev : Evolves a (stored s)) : Evolves a (stored (granule s)) := by
  unfold granule; split
  · dsimp only; simp [ev]
  · exact ev

@[simp] theorem execCellarGranuleWrite_leads (s : State) : Leads (stored s) (execCellarGranuleWrite s) := by
  simp [execCellarGranuleWrite]

@[simp] theorem readback_evolves {a : Stored} (ecc : Ecc) (base g : Nat) (s0 : State) (ev : Evolves a (stored s0)) :
    Evolves a (stored (readback ecc base g s0)) := by
  unfold readback; dsimp only
  simp [↓stored_upd, ↓haltLog_stored, ↓issue_stored, ev]

@[simp] theorem execCellarReadbackComplete_leads (ecc : Ecc) (s : State) : Leads (stored s) (execCellarReadbackComplete ecc s) := by
  unfold execCellarReadbackComplete; split <;> simp

@[simp] theorem execClConfig_leads (tag : W16) (s : State) : Leads (stored s) (execClConfig tag s) := by
  simp [execClConfig, clConfigCmd]

/-! ### The service context (08) -/

@[simp] theorem svcFaultAt_stored (cause a : Nat) (s : State) : stored (svcFaultAt cause a s) = stored s := by simp [svcFaultAt]

@[simp] theorem execServiceProcedureStart_leads (s : State) : Leads (stored s) (execServiceProcedureStart s) := by
  unfold execServiceProcedureStart; split <;> simp

@[simp] theorem svcRun_evolves {z : Stored} (op : Nat) (ecc : Ecc) (f : Nat → Nat → Proc → State → State)
    (h : ∀ a w p u, Evolves (stored u) (stored (f a w p u))) (s : State) (ev : Evolves z (stored s)) :
    Evolves z (stored (svcRun op ecc f s)) := by
  unfold svcRun; split
  · exact ev
  · split
    · exact ev
    · dsimp only; split
      · simp [ev]
      · split
        · exact Evolves.trans (by simp [ev]) (h _ _ _ _)
        · exact ev

@[simp] theorem execCall_leads (ecc : Ecc) (s : State) : Leads (stored s) (execCall ecc s) := by simp [execCall, callWord]

@[simp] theorem execRet_leads (ecc : Ecc) (s : State) : Leads (stored s) (execRet ecc s) := by simp [execRet]

@[simp] theorem execSjmp_leads (ecc : Ecc) (s : State) : Leads (stored s) (execSjmp ecc s) := by simp [execSjmp]

@[simp] theorem execLvl_leads (ecc : Ecc) (s : State) : Leads (stored s) (execLvl ecc s) := by simp [execLvl, lvlWord]

@[simp] theorem execPfn_leads (ecc : Ecc) (s : State) : Leads (stored s) (execPfn ecc s) := by simp [execPfn, pfnWord]

@[simp] theorem execPmeas_leads (ecc : Ecc) (s : State) : Leads (stored s) (execPmeas ecc s) := by simp [execPmeas, pmeasWord]

@[simp] theorem execTiurd_leads (ecc : Ecc) (s : State) : Leads (stored s) (execTiurd ecc s) := by simp [execTiurd, tiurdWord]

@[simp] theorem execTiurdComplete_leads (s : State) : Leads (stored s) (execTiurdComplete s) := by
  unfold execTiurdComplete; split <;> simp

@[simp] theorem keepEarly_stored (cause : Nat) (f : Nat → Bool) (s : State) : stored (keepEarly cause f s) = stored s := by simp [keepEarly]

@[simp] theorem execLoadw_leads (ecc : Ecc) (s : State) : Leads (stored s) (execLoadw ecc s) := by simp [execLoadw, loadwWord]

@[simp] theorem copyWords_stored (get : Nat → BitVec 128) (dest n : Nat) (s : State) : stored (copyWords get dest n s) = stored s := by
  simp [copyWords]

@[simp] theorem loadwDone_evolves {a : Stored} (dr : DramFind) (src dest count : Nat) (s : State) (ev : Evolves a (stored s)) :
    Evolves a (stored (loadwDone dr src dest count s)) := by
  unfold loadwDone; dsimp only
  simp [↓stored_upd, ↓unblock_stored, ev]

@[simp] theorem execLoadwComplete_leads (dr : DramFind) (s : State) : Leads (stored s) (execLoadwComplete dr s) := by
  unfold execLoadwComplete; split <;> simp

@[simp] theorem execSequenceStoreScrub_leads (addr : Nat) (ecc : Ecc) (s : State) :
    Leads (stored s) (execSequenceStoreScrub addr ecc s) := by
  simp [execSequenceStoreScrub]

@[simp] theorem seqFail_stored (s : State) : stored (seqFail s) = stored s := by simp [seqFail]

@[simp] theorem seqInstall_stored (img : List Byte) (s : State) : stored (seqInstall img s) = stored s := by simp [seqInstall]

theorem sqLoadCmd_evolves {a : Stored} (src : HostRead) (dr : DramFind) (e : Exec) (s : State) (ev : Evolves a (stored s)) :
    Evolves a (stored (sqLoadCmd src dr e s)) := by
  unfold sqLoadCmd; dsimp only; split
  · simp [ev]
  · simp [↓stored_upd, ev]

@[simp] theorem execSqLoad_leads (tag : W16) (src : HostRead) (dr : DramFind) (s : State) : Leads (stored s) (execSqLoad tag src dr s) :=
  runCmd_leads _ tag (fun e u => sqLoadCmd_evolves src dr e u (Evolves.refl _)) s

@[simp] theorem execSqConfig_leads (tag : W16) (s : State) : Leads (stored s) (execSqConfig tag s) := by
  simp [execSqConfig, sqConfigCmd]

/-! ### The front end (05) -/

@[simp] theorem execLevelTimerExpiry_leads (s : State) : Leads (stored s) (execLevelTimerExpiry s) := by
  unfold execLevelTimerExpiry; dsimp only
  rw [leads_next]
  simp [↓stored_upd]

@[simp] theorem execLevelTick_leads (s : State) : Leads (stored s) (execLevelTick s) := by
  unfold execLevelTick; split
  · simp
  · simp only [leads_next]
    simp [↓stored_upd, ↓tickPins_stored]

@[simp] theorem execDeglitchHoldEnd_leads (p : Pin) (d : DacIx) (s : State) : Leads (stored s) (execDeglitchHoldEnd p d s) := by
  unfold execDeglitchHoldEnd; split <;> simp

@[simp] theorem execSlewStep_leads (p : Pin) (d : DacIx) (s : State) : Leads (stored s) (execSlewStep p d s) := by
  unfold execSlewStep; split <;> simp

@[simp] theorem execFunctionEnable_leads (p : Pin) (s : State) : Leads (stored s) (execFunctionEnable p s) := by
  unfold execFunctionEnable; split <;> simp

@[simp] theorem execPpmuRangeOverlapEnd_leads (p : Pin) (s : State) : Leads (stored s) (execPpmuRangeOverlapEnd p s) := by
  simp [execPpmuRangeOverlapEnd]

@[simp] theorem beginMeas_stored (g : Glove) (r : MeasReq) (s : State) : stored (beginMeas g r s) = stored s := by simp [beginMeas]

@[simp] theorem measStart_evolves {a : Stored} (g : Glove) (s : State) (ev : Evolves a (stored s)) :
    Evolves a (stored (measStart g s)) := by
  unfold measStart; (repeat' split) <;> simp [startService, ev]

@[simp] theorem execPpmuMeasStart_leads (g : Glove) (s : State) : Leads (stored s) (execPpmuMeasStart g s) := by
  simp [execPpmuMeasStart]

@[simp] theorem execPpmuMuxConnected_leads (g : Glove) (s : State) : Leads (stored s) (execPpmuMuxConnected g s) := by
  unfold execPpmuMuxConnected; split <;> simp

@[simp] theorem execPpmuSettleExpiry_leads (g : Glove) (s : State) : Leads (stored s) (execPpmuSettleExpiry g s) := by
  unfold execPpmuSettleExpiry; split <;> simp

@[simp] theorem giveService_evolves {a : Stored} (p : Pin) (w : W64) (s : State) (ev : Evolves a (stored s)) :
    Evolves a (stored (giveService p w s)) := by
  unfold giveService; split <;> simp [ev]

@[simp] theorem giveMailbox_evolves {a : Stored} (tag : W16) (p : Pin) (w : W64) (s : State) (ev : Evolves a (stored s)) :
    Evolves a (stored (giveMailbox tag p w s)) := by
  unfold giveMailbox; dsimp only; (repeat' split) <;> simp [ev]

@[simp] theorem measDone_evolves {a : Stored} (g : Glove) (m : Meas) (s : State) (ev : Evolves a (stored s)) :
    Evolves a (stored (measDone g m s)) := by
  unfold measDone; split <;> simp [ev]

@[simp] theorem execPpmuConversion_leads (g : Glove) (code : BitVec 18) (clamped : Bool) (s : State) :
    Leads (stored s) (execPpmuConversion g code clamped s) := by
  unfold execPpmuConversion; split <;> simp [convert]

@[simp] theorem execParkNFall_leads (pulse : ParkPulse) (s : State) : Leads (stored s) (execParkNFall pulse s) := by
  unfold execParkNFall; (repeat' split) <;> simp [parkLand]

@[simp] theorem execParkNRise_leads (s : State) : Leads (stored s) (execParkNRise s) := by simp [execParkNRise]

@[simp] theorem pfApply_stored (e : Exec) (s : State) : stored (pfApply e s) = stored s := by
  unfold pfApply; dsimp only; split
  · rw [reportClamp_stored, stored_mk, stored_eta]
  · rw [stored_mk, stored_eta]

@[simp] theorem execPfConfig_leads (tag : W16) (s : State) : Leads (stored s) (execPfConfig tag s) := by
  simp [execPfConfig, pfConfigCmd]

@[simp] theorem execPfUnpark_leads (tag : W16) (s : State) : Leads (stored s) (execPfUnpark tag s) := by
  simp [execPfUnpark, pfUnparkCmd, releaseAll]

@[simp] theorem execPfPpmuMeas_leads (tag : W16) (s : State) : Leads (stored s) (execPfPpmuMeas tag s) := by
  simp [execPfPpmuMeas, pfPpmuMeasCmd]

/-! ### The pin table (06) -/

@[simp] theorem dropMixed_stored (tag : W16) (s : State) : stored (dropMixed tag s) = stored s := by simp [dropMixed]

@[simp] theorem ptReadEnd_stored (tag : W16) (s : State) : stored (ptReadEnd tag s) = stored s := by simp [ptReadEnd]

@[simp] theorem ptChecked_stored (checks : List (Bool × Nat)) (e : Exec) (f : State → State) (h : ∀ u, stored (f u) = stored u)
    (s : State) :
    stored (ptChecked checks e f s) = stored s := by
  unfold ptChecked; split <;> simp [h]

@[simp] theorem ptChecked_evolves {z : Stored} (checks : List (Bool × Nat)) (e : Exec) (f : State → State) (h : ∀ u, Evolves (stored u)
    (stored (f u))) (s : State) (ev : Evolves z (stored s)) :
    Evolves z (stored (ptChecked checks e f s)) := by
  unfold ptChecked; split
  · rwa [answer_stored, dropMixed_stored]
  · exact ev.trans (h s)

@[simp] theorem beforeCommit_evolves {a : Stored} (old new : Mem) (pins : List Pin) (s : State) (ev : Evolves a (stored s)) :
    Evolves a (stored (beforeCommit old new pins s)) := by
  unfold beforeCommit; dsimp only
  refine foldl_evolves _ (fun u ps => ?_) _ _ ?_
  · exact closeSet_evolves _ _ u ps (Evolves.refl _)
  · simp [ev]

/-- The store room takes an image in canonical form, and its shadow with it. -/
theorem ptCommit_evolves {a : Stored} (idle : Bool) (r : Nat × Nat) {new : Mem} (wf : a.wf = true → Memory.wf 0 new = true) (s : State)
    (ev : Evolves a (stored s)) : Evolves a (stored (ptCommit idle r new s)) := by
  obtain ⟨kept, fuses, serial⟩ := beforeCommit_evolves s.pt.room new (ptPins r) s ev
  unfold ptCommit; dsimp only
  rw [stageWrite_stored]
  generalize beforeCommit _ _ _ _ = s1 at kept fuses serial ⊢
  rw [stored_mk]
  refine ⟨fun w => ?_, fuses, serial⟩
  have image := wf w
  have old := kept w
  simp_all [wf_iff, stored, -stored_eta]

/-- What a bind or refresh reads is canonical where the memories it reads are. -/
theorem ptImage_wf (tag : W16) {s : State} (wf : (stored s).wf = true) (host : Bool) (src : HostRead) (a : Nat) (r : Nat × Nat) :
    Memory.wf 0 (ptImage tag s host src a r) = true := by
  obtain ⟨dram, -, room, -⟩ := (wf_iff _).1 wf
  refine wf_memSplice 0 s.pt.room r.1 r.2 _ _ room ?_
  unfold ptSource mixOld
  split
  · exact wf_hostMemOf src
  · refine foldl_wf 0 _ (fun m x k => ?_) _ (dramPart_wf _ _ dram)
    split
    · exact wfFrom_memPut 0 x.1.2 (Nat.zero_le _) k
    · exact k

@[simp] theorem ptMemerr_stored (e : Exec) (f : Nat × Nat) (s : State) : stored (ptMemerr e f s) = stored s := by simp [ptMemerr]

@[simp] theorem bindRead_evolves {a : Stored} (e : Exec) (src : HostRead) (dr : DramFind) (at_ : Nat) (host : Bool) (s : State)
    (ev : Evolves a (stored s)) : Evolves a (stored (bindRead e src dr at_ host s)) := by
  have read : Evolves a (stored (objNote host dr at_ (if host then s else inSlot .maint tableSize (bar2Drain s)))) := by
    rw [objNote_stored]; split <;> simp [ev]
  unfold bindRead; dsimp only
  generalize objNote _ _ _ _ = s1 at read ⊢
  split
  · simpa using read
  · split
    · simpa using read
    · rw [answer_stored]
      refine ptCommit_evolves true _ (fun w => ptImage_wf _ (read.1 w) _ _ _ _) _ ?_
      simp [↓stored_upd, read]

@[simp] theorem ptBindCmd_evolves {a : Stored} (src : HostRead) (dr : DramFind) (e : Exec) (s : State) (ev : Evolves a (stored s)) :
    Evolves a (stored (ptBindCmd src dr e s)) := by
  unfold ptBindCmd; dsimp only; split
  · exact ev
  · exact ptChecked_evolves _ e _ (fun u => bindRead_evolves e src dr _ _ u (Evolves.refl _)) s ev

@[simp] theorem execPtBind_leads (tag : W16) (src : HostRead) (dr : DramFind) (s : State) : Leads (stored s) (execPtBind tag src dr s) :=
  runCmd_leads _ tag (fun e u => ptBindCmd_evolves src dr e u (Evolves.refl _)) s

theorem refreshEnd_evolves {a : Stored} (e : Exec) (r : Nat × Nat) {new : Mem} (wf : a.wf = true → Memory.wf 0 new = true) (s : State)
    (ev : Evolves a (stored s)) : Evolves a (stored (refreshEnd e r new s)) := by
  unfold refreshEnd; split
  · split
    · simpa
    · rw [answer_stored]; exact ptCommit_evolves true r wf _ (by simp [ev])
  · split
    · simpa
    · rw [answer_stored]; exact ptCommit_evolves false r wf _ (by simp [ev])

@[simp] theorem refreshRead_evolves {a : Stored} (e : Exec) (src : HostRead) (dr : DramFind) (s : State) (ev : Evolves a (stored s)) :
    Evolves a (stored (refreshRead e src dr s)) := by
  unfold refreshRead; dsimp only
  generalize ptRange _ _ = r
  have read : Evolves a (stored (objNote s.pt.hostMem dr (s.pt.base.toNat + r.1)
      (if s.pt.hostMem then s else inSlot .maint r.2 (bar2Drain s)))) := by
    rw [objNote_stored]; split <;> simp [ev]
  generalize objNote _ _ _ _ = s1 at read ⊢
  split
  · simpa using read
  · exact refreshEnd_evolves e r (fun w => ptImage_wf _ (read.1 w) _ _ _ _) _ (by simpa using read)

@[simp] theorem ptRefreshCmd_evolves {a : Stored} (src : HostRead) (dr : DramFind) (e : Exec) (s : State) (ev : Evolves a (stored s)) :
    Evolves a (stored (ptRefreshCmd src dr e s)) := by
  unfold ptRefreshCmd; dsimp only; split
  · exact ev
  · exact ptChecked_evolves _ e _ (fun u => refreshRead_evolves e src dr u (Evolves.refl _)) s ev

@[simp] theorem execPtRefresh_leads (tag : W16) (src : HostRead) (dr : DramFind) (s : State) :
    Leads (stored s) (execPtRefresh tag src dr s) :=
  runCmd_leads _ tag (fun e u => ptRefreshCmd_evolves src dr e u (Evolves.refl _)) s

@[simp] theorem roomError_stored (off : Nat) (ecc : Ecc) (s : State) : stored (roomError off ecc s) = stored s := by
  unfold roomError; split <;> simp

@[simp] theorem execStoreRoomScrub_leads (off : Nat) (ecc : Ecc) (s : State) : Leads (stored s) (execStoreRoomScrub off ecc s) := by
  simp [execStoreRoomScrub]

/-! ### The pattern memory (07) -/

@[simp] theorem execPmConfig_leads (tag : W16) (s : State) : Leads (stored s) (execPmConfig tag s) := by
  simp [execPmConfig, pmConfigCmd]

@[simp] theorem toFrame_evolves {a : Stored} (s : State) (ev : Evolves a (stored s)) : Evolves a (stored (toFrame s)) := by
  simp [toFrame, ev]

@[simp] theorem execPmConfigFrameApply_leads (s : State) : Leads (stored s) (execPmConfigFrameApply s) := by
  unfold execPmConfigFrameApply; split
  · simp
  · simp only [leads_next]
    rw [runCmd_stored _ _ _ fun e u => answer_stored e _ _ u]
    simp [↓stored_upd]

@[simp] theorem execPmRegion_leads (tag : W16) (s : State) : Leads (stored s) (execPmRegion tag s) := by
  simp [execPmRegion, pmRegionCmd]

@[simp] theorem execPmWfclr_leads (tag : W16) (s : State) : Leads (stored s) (execPmWfclr tag s) := by
  simp [execPmWfclr, pmWfclrCmd]

theorem pmVerifyCmd_evolves {a : Stored} (src : HostRead) (dr : DramFind) (e : Exec) (s : State) (ev : Evolves a (stored s)) :
    Evolves a (stored (pmVerifyCmd src dr e s)) := by
  unfold pmVerifyCmd; dsimp only; (repeat' split) <;> simp [ev]

@[simp] theorem execPmVerify_leads (tag : W16) (src : HostRead) (dr : DramFind) (s : State) :
    Leads (stored s) (execPmVerify tag src dr s) :=
  runCmd_leads _ tag (fun e u => pmVerifyCmd_evolves src dr e u (Evolves.refl _)) s

@[simp] theorem shelve_stored (x : Shelf) (s : State) : stored (shelve x s) = stored s := by simp [shelve]

@[simp] theorem execAtticFetchComplete_leads (item : FetchItem) (spare : Bool) (dr : DramFind) (s : State) :
    Leads (stored s) (execAtticFetchComplete item spare dr s) := by
  simp [execAtticFetchComplete, atticFetch]

@[simp] theorem hostFetch_stored (item : FetchItem) (spare : Bool) (src : HostRead) (s : State) :
    stored (hostFetch item spare src s) = stored s := by
  unfold hostFetch; split <;> simp

@[simp] theorem execHostsrcReadComplete_leads (item : FetchItem) (spare : Bool) (src : HostRead) (s : State) :
    Leads (stored s) (execHostsrcReadComplete item spare src s) := by
  simp [execHostsrcReadComplete]

@[simp] theorem execAtticFillComplete_leads (s : State) : Leads (stored s) (execAtticFillComplete s) := by
  simp [execAtticFillComplete, fillDone]

@[simp] theorem execDramScrub_leads (addr : Nat) (ecc : Ecc) (s : State) : Leads (stored s) (execDramScrub addr ecc s) := by
  simp [execDramScrub]

@[simp] theorem execBar2Write_leads (addr : Nat) (bytes : List Byte) (poisoned : Bool) (s : State) :
    Leads (stored s) (execBar2Write addr bytes poisoned s) := by
  simp [execBar2Write]

@[simp] theorem execBar2WriteApply_leads (ecc : Ecc) (s : State) : Leads (stored s) (execBar2WriteApply ecc s) := by
  simp [execBar2WriteApply]

@[simp] theorem execBar2Read_leads (addr : Nat) (len : Nat) (dr : DramFind) (s : State) :
    Leads (stored s) (execBar2Read addr len dr s) := by
  unfold execBar2Read; dsimp only
  rw [leads_next]
  simp [↓stored_upd]

/-! ### The capture stream (11) -/

@[simp] theorem noteChange_stored (p : Pin) (k : XKind) (at_ : Nat) (s : State) : stored (noteChange p k at_ s) = stored s := by
  unfold noteChange; split <;> simp

@[simp] theorem tiuCross_stored (p : Pin) (kind : Nat) (t : Int) (s : State) : stored (tiuCross p kind t s) = stored s := by
  simp [tiuCross]

@[simp] theorem tiuStateUe_stored (g : Glove) (s : State) : stored (tiuStateUe g s) = stored s := by
  unfold tiuStateUe; dsimp only
  simp [↓stored_upd, ↓issue_stored]

@[simp] theorem crossing_evolves {a : Stored} (p : Pin) (k : XKind) (at_ : Nat) (s : State) (ev : Evolves a (stored s)) :
    Evolves a (stored (crossing p k at_ s)) := by
  unfold crossing; dsimp only
  simp [↓stored_upd, ev]

@[simp] theorem execComparatorCrossing_leads (p : Pin) (th : Threshold) (at_ : Nat) (rise : Bool) (tiuUE : Option Glove) (s : State) :
    Leads (stored s) (execComparatorCrossing p th at_ rise tiuUE s) := by
  unfold execComparatorCrossing; split <;> simp

@[simp] theorem spanTimeout_evolves {a : Stored} (p : Pin) (s0 : State) (ev : Evolves a (stored s0)) :
    Evolves a (stored (spanTimeout p s0)) := by
  unfold spanTimeout; dsimp only; (repeat' split) <;> simp [ev]

@[simp] theorem execTriggerSpanTimeout_leads (p : Pin) (s : State) : Leads (stored s) (execTriggerSpanTimeout p s) := by
  simp [execTriggerSpanTimeout]

@[simp] theorem execTriggerHitDelivery_leads (s : State) : Leads (stored s) (execTriggerHitDelivery s) := by
  unfold execTriggerHitDelivery; split <;> simp

@[simp] theorem rawSample_stored (p : Pin) (land : Nat) (s : State) : stored (rawSample p land s) = stored s := by simp [rawSample]

@[simp] theorem execRawSample_leads (p : Pin) (s : State) : Leads (stored s) (execRawSample p s) := by
  unfold execRawSample; split
  · simp
  · simp only [leads_next]
    simp [↓stored_upd, ↓rawSample_stored]

@[simp] theorem unitPlace_evolves {a : Stored} (ps : Fin 16) (s : State) (ev : Evolves a (stored s)) :
    Evolves a (stored (unitPlace ps s)) := by
  unfold unitPlace; split <;> simp [ev]

@[simp] theorem execUnitPlace_leads (pset : Fin 16) (s : State) : Leads (stored s) (execUnitPlace pset s) := by simp [execUnitPlace]

@[simp] theorem execFrameFlushExpiry_leads (pset : Fin 16) (s : State) : Leads (stored s) (execFrameFlushExpiry pset s) := by
  unfold execFrameFlushExpiry; split <;> simp

@[simp] theorem execFrameSend_leads (s : State) : Leads (stored s) (execFrameSend s) := by unfold execFrameSend; split <;> simp

@[simp] theorem execStagingWrite_leads (s : State) : Leads (stored s) (execStagingWrite s) := by simp [execStagingWrite, stageFrame]

@[simp] theorem unreadable_stored (f : Frame) (addr : Nat) (s : State) : stored (unreadable f addr s) = stored s := by simp [unreadable]

@[simp] theorem stageRead_evolves {a : Stored} (dr : DramFind) (s0 : State) (ev : Evolves a (stored s0)) :
    Evolves a (stored (stageRead dr s0)) := by
  unfold stageRead; dsimp only; split
  · exact ev
  · split
    · simp [ev]
    · rw [stageEmpty_stored]; split
      · rw [unreadable_stored, noteEcc_stored, stored_mk, stored_eta]
        exact inSlot_evolves _ _ _ ev
      · refine sendFrame_evolves _ _ ?_
        rw [noteEcc_stored, stored_mk, stored_eta]
        exact inSlot_evolves _ _ _ ev

@[simp] theorem execStagingReadComplete_leads (dr : DramFind) (s : State) : Leads (stored s) (execStagingReadComplete dr s) := by
  simp [execStagingReadComplete]

@[simp] theorem sendWaiting_evolves {a : Stored} (n : Nat) (reads : List DramFind) (s : State) (ev : Evolves a (stored s)) :
    Evolves a (stored (sendWaiting n reads s)) := by
  induction n generalizing reads s with
  | zero => exact ev
  | succ n ih =>
    unfold sendWaiting
    split
    · exact ev
    · split
      · exact ih _ _ (sendOldest_evolves s ev)
      · exact ih _ _ (stageRead_evolves _ s ev)

@[simp] theorem closeDue_evolves {a : Stored} (flag : Nat) (s : State) (ev : Evolves a (stored s)) :
    Evolves a (stored (closeDue flag s)) := by
  simp [closeDue, ev]

@[simp] theorem closeFill_evolves {a : Stored} (send : Bool) (reads : List DramFind) (s : State) (ev : Evolves a (stored s)) :
    Evolves a (stored (closeFill send reads s).2) := by
  simp [closeFill, ev]

@[simp] theorem closeStream_evolves {a : Stored} (cause : Nat) (send : Bool) (s : State) (ev : Evolves a (stored s)) :
    Evolves a (stored (closeStream cause send s)) := by
  simp [closeStream, ev]

@[simp] theorem execStreamIrqTimer_leads (s : State) : Leads (stored s) (execStreamIrqTimer s) := by
  unfold execStreamIrqTimer; dsimp only
  rw [leads_next]
  simp [↓stored_upd, ↓msix_stored]

@[simp] theorem consWrite_stored (v : W64) (s : State) : stored (consWrite v s) = stored s := by simp [consWrite]

@[simp] theorem execCsConsWrite_leads (v : W64) (s : State) : Leads (stored s) (execCsConsWrite v s) := by simp [execCsConsWrite]

@[simp] theorem streamOpen_stored (e : Exec) (s : State) : stored (streamOpen e s) = stored s := by
  unfold streamOpen; dsimp only
  simp [↓stored_upd, ↓issue_stored]

@[simp] theorem csOpenCmd_stored (e : Exec) (s : State) : stored (csOpenCmd e s) = stored s := by simp [csOpenCmd]

@[simp] theorem execCsOpen_leads (tag : W16) (s : State) : Leads (stored s) (execCsOpen tag s) := by simp [execCsOpen]

theorem csCloseCmd_evolves {a : Stored} (reads : List DramFind) (e : Exec) (s : State) (ev : Evolves a (stored s)) :
    Evolves a (stored (csCloseCmd reads e s)) :=
  checked_evolves _ e _ (fun u => by simp) s ev

@[simp] theorem execCsClose_leads (req : CloseReq) (s : State) : Leads (stored s) (execCsClose req s) :=
  runCmd_leads _ req.tag (fun e u => csCloseCmd_evolves req.reads e u (Evolves.refl _)) s

/-! ### The margin outputs (13) -/

@[simp] theorem mxjRequest_evolves {a : Stored} (i : Chan) (s : State) (ev : Evolves a (stored s)) :
    Evolves a (stored (mxjRequest i s)) := by
  unfold mxjRequest; (repeat' split) <;> simp [ev]

@[simp] theorem trigRequest_evolves {a : Stored} (i : Chan) (evt : Bool) (s : State) (ev : Evolves a (stored s)) :
    Evolves a (stored (trigRequest i evt s)) := by
  unfold trigRequest; dsimp only; split
  · exact ev
  · simp [↓stored_upd, ↓mxRequest_stored, ev]

@[simp] theorem execMxJumpRequest_leads (ch : Chan) (src : JumpSrc) (s : State) : Leads (stored s) (execMxJumpRequest ch src s) := by
  unfold execMxJumpRequest; split <;> simp

@[simp] theorem mxDead_stored (i : Chan) (k : Nat) (s : State) : stored (mxDead i k s) = stored s := by
  unfold mxDead; split <;> simp [mxSample0, mxJumpStart]

@[simp] theorem mxStopAct_stored (i : Chan) (s : State) : stored (mxStopAct i s) = stored s := by
  unfold mxStopAct; dsimp only; (repeat' split) <;> simp

@[simp] theorem mxFault_stored (i : Chan) (s : State) : stored (mxFault i s) = stored s := by simp [mxFault]

@[simp] theorem mxPlay_stored (i : Chan) (k : Nat) (s : State) : stored (mxPlay i k s) = stored s := by simp [mxPlay]

@[simp] theorem mxSine_stored (i : Chan) (s : State) : stored (mxSine i s) = stored s := by simp [mxSine]

@[simp] theorem larderFault_stored (i : Chan) (g : Nat) (s : State) : stored (larderFault i g s) = stored s := by simp [larderFault]

@[simp] theorem mxUpdateCh_stored (k : Nat) (ue : Option (Chan × Nat)) (s0 : State) (i : Chan) :
    stored (mxUpdateCh k ue s0 i) = stored s0 := by
  unfold mxUpdateCh; dsimp only; (repeat' split) <;> simp

@[simp] theorem mxUpdate_evolves {a : Stored} (ue : Option (Chan × Nat)) (s0 : State) (ev : Evolves a (stored s0)) :
    Evolves a (stored (mxUpdate ue s0)) := by
  unfold mxUpdate; dsimp only; split
  · simp [ev]
  · rw [foldl_stored _ fun u i => mxUpdateCh_stored _ ue u i]
    simp [↓stored_upd, ev]

@[simp] theorem execMxUpdate_leads (larderUE : Option (Chan × Nat)) (s : State) : Leads (stored s) (execMxUpdate larderUE s) := by
  simp [execMxUpdate]

@[simp] theorem segRead_evolves {a : Stored} (i : Chan) (addr : Nat) (ecc : Ecc) (s : State) (ev : Evolves a (stored s)) :
    Evolves a (stored (segRead i addr ecc s)) := by
  unfold segRead; dsimp only
  simp [↓stored_upd, ↓mxFault_stored, ↓issue_stored, ev]

@[simp] theorem execMxSegmentRead_leads (ch : Chan) (addr : Nat) (ecc : Ecc) (s : State) :
    Leads (stored s) (execMxSegmentRead ch addr ecc s) := by
  simp [execMxSegmentRead]

@[simp] theorem sineAt_stored (off : Nat) (bytes : List (Option Byte)) (s : State) : stored (sineAt off bytes s) = stored s := by
  simp [sineAt, sineWrite]

@[simp] theorem execSineBlockWrite_leads (off : Nat) (bytes : List (Option Byte)) (s : State) :
    Leads (stored s) (execSineBlockWrite off bytes s) := by
  simp [execSineBlockWrite]

@[simp] theorem mxConfigCmd_stored (e : Exec) (s : State) : stored (mxConfigCmd e s) = stored s := by simp [mxConfigCmd]

@[simp] theorem execMxConfig_leads (tag : W16) (s : State) : Leads (stored s) (execMxConfig tag s) := by simp [execMxConfig]

@[simp] theorem execMxSegtab_leads (tag : W16) (s : State) : Leads (stored s) (execMxSegtab tag s) := by
  simp [execMxSegtab, mxSegtabCmd]

theorem mxLoadCmd_evolves {a : Stored} (src : HostRead) (dr : DramFind) (e : Exec) (s : State) (ev : Evolves a (stored s)) :
    Evolves a (stored (mxLoadCmd src dr e s)) := by
  unfold mxLoadCmd; dsimp only; split
  · exact checked_evolves _ e _ (fun u => Evolves.refl _) s ev
  · refine checked_evolves _ e _ (fun u => ?_) _ ?_
    · rw [answer_stored]
      exact (Evolves.refl _).write (by simp +contextual [wf_iff, stored, -stored_eta]) rfl rfl
    · rw [objNote_stored]; split <;> simp [ev]

@[simp] theorem execMxLoad_leads (tag : W16) (src : HostRead) (dr : DramFind) (s : State) : Leads (stored s) (execMxLoad tag src dr s) :=
  runCmd_leads _ tag (fun e u => mxLoadCmd_evolves src dr e u (Evolves.refl _)) s

@[simp] theorem mxStartCh_stored (seg : Nat) (s : State) (i : Chan) : stored (mxStartCh seg s i) = stored s := by simp [mxStartCh]

@[simp] theorem mxStartCmd_stored (e : Exec) (s : State) : stored (mxStartCmd e s) = stored s := by simp [mxStartCmd]

@[simp] theorem execMxStart_leads (tag : W16) (s : State) : Leads (stored s) (execMxStart tag s) := by simp [execMxStart]

@[simp] theorem mxJumpCmd_stored (e : Exec) (s : State) : stored (mxJumpCmd e s) = stored s := by simp [mxJumpCmd]

@[simp] theorem execMxJump_leads (tag : W16) (s : State) : Leads (stored s) (execMxJump tag s) := by simp [execMxJump]

@[simp] theorem mxStopCmd_stored (e : Exec) (s : State) : stored (mxStopCmd e s) = stored s := by simp [mxStopCmd]

@[simp] theorem execMxStop_leads (tag : W16) (s : State) : Leads (stored s) (execMxStop tag s) := by simp [execMxStop]

@[simp] theorem execEvtInEdge_leads (line : Fin 4) (rise : Bool) (s : State) : Leads (stored s) (execEvtInEdge line rise s) := by
  simp [execEvtInEdge, evtRise]

/-! ### The ensemble (14) -/

@[simp] theorem execHargoControlSlot_leads (port : Port) (slot : CtlSlot) (s : State) :
    Leads (stored s) (execHargoControlSlot port slot s) := by
  simp [execHargoControlSlot, badSlot, goodSlot]

@[simp] theorem execLinkBlockLockLost_leads (port : Port) (s : State) : Leads (stored s) (execLinkBlockLockLost port s) := by
  simp [execLinkBlockLockLost]

@[simp] theorem execMgmtRetransmitTimeout_leads (port : Port) (s : State) : Leads (stored s) (execMgmtRetransmitTimeout port s) := by
  simp [execMgmtRetransmitTimeout, retransmit]

@[simp] theorem execDataSlotAcknowledgement_leads (ack : SlotAck) (s : State) : Leads (stored s) (execDataSlotAcknowledgement ack s) := by
  simp [execDataSlotAcknowledgement]

@[simp] theorem onBurst_evolves {z : Stored} (t : Nat) (f : Port → Burst → State → State)
    (h : ∀ p b u, Evolves (stored u) (stored (f p b u))) (s : State) (ev : Evolves z (stored s)) : Evolves z (stored (onBurst t f s)) := by
  unfold onBurst; dsimp only; split
  · exact Evolves.trans (by simp [↓stored_upd, ev]) (h _ _ _)
  · exact ev

@[simp] theorem onDown_evolves {z : Stored} (t : Nat) (f : Burst → Nat → State → State)
    (h : ∀ b n u, Evolves (stored u) (stored (f b n u))) (s : State) (ev : Evolves z (stored s)) : Evolves z (stored (onDown t f s)) := by
  refine onBurst_evolves t _ (fun p b u => ?_) s ev
  split
  · exact Evolves.refl _
  · exact Evolves.trans (by simp) (h _ _ _)

@[simp] theorem execArmBurst_leads (s : State) : Leads (stored s) (execArmBurst s) := by simp [execArmBurst]

@[simp] theorem armAtTime_evolves {a : Stored} (s : State) (ev : Evolves a (stored s)) : Evolves a (stored (armAtTime s)) := by
  unfold armAtTime; dsimp only; split
  · exact ev
  · rename_i at_ _
    have passed : Evolves a (stored (toEns at_ s)) := toEns_evolves at_ s ev
    split
    · rwa [stored_mk, stored_eta]
    · exact armEffect_evolves true _ (by rwa [stored_mk, stored_eta])

@[simp] theorem execArmBurstAtime_leads (s : State) : Leads (stored s) (execArmBurstAtime s) := by simp [execArmBurstAtime]

@[simp] theorem execGoBurst_leads (s : State) : Leads (stored s) (execGoBurst s) := by simp [execGoBurst]

@[simp] theorem goAtTime_evolves {a : Stored} (s : State) (ev : Evolves a (stored s)) : Evolves a (stored (goAtTime s)) := by
  unfold goAtTime; dsimp only; split
  · exact ev
  · simp [↓stored_upd, ↓goAt_stored, ev]

@[simp] theorem execGoBurstAtime_leads (s : State) : Leads (stored s) (execGoBurstAtime s) := by simp [execGoBurstAtime]

@[simp] theorem haltAct_stored (b : Burst) (t : Nat) (s : State) : stored (haltAct b t s) = stored s := by unfold haltAct; split <;> simp

@[simp] theorem execHaltBurst_leads (s : State) : Leads (stored s) (execHaltBurst s) := by simp [execHaltBurst]

@[simp] theorem parkAtTime_evolves {a : Stored} (s : State) (ev : Evolves a (stored s)) : Evolves a (stored (parkAtTime s)) := by
  unfold parkAtTime; dsimp only; split
  · exact ev
  · simp [↓stored_upd, ↓recordDiscord_stored, ↓contain_stored, ev]

@[simp] theorem execHaltBurstParkAtime_leads (s : State) : Leads (stored s) (execHaltBurstParkAtime s) := by
  simp [execHaltBurstParkAtime]

@[simp] theorem execHaltreqBurst_leads (s : State) : Leads (stored s) (execHaltreqBurst s) := by simp [execHaltreqBurst, haltreqAct]

@[simp] theorem execDiscordBurst_leads (s : State) : Leads (stored s) (execDiscordBurst s) := by simp [execDiscordBurst, discordAct]

@[simp] theorem tryGlobal_stored (num sn : Nat) (s : State) : stored (tryGlobal num sn s) = stored s := by
  unfold tryGlobal; split <;> simp [sendGlobal]

@[simp] theorem gather_stored (x : Contrib) (s : State) : stored (gather x s) = stored s := by simp [gather]

@[simp] theorem localResolve_evolves {a : Stored} (s0 : State) (ev : Evolves a (stored s0)) : Evolves a (stored (localResolve s0)) := by
  unfold localResolve; split <;> simp [ev]

@[simp] theorem execLocalEntryResolution_leads (s : State) : Leads (stored s) (execLocalEntryResolution s) := by
  simp [execLocalEntryResolution]

@[simp] theorem execContribBurst_leads (s : State) : Leads (stored s) (execContribBurst s) := by simp [execContribBurst, contribAct]

@[simp] theorem execResultBurst_leads (s : State) : Leads (stored s) (execResultBurst s) := by simp [execResultBurst, resultAct]

@[simp] theorem execTmarkBurst_leads (s : State) : Leads (stored s) (execTmarkBurst s) := by simp [execTmarkBurst]

@[simp] theorem tmarkSend_evolves {a : Stored} (s : State) (ev : Evolves a (stored s)) : Evolves a (stored (tmarkSend s)) := by
  unfold tmarkSend; dsimp only; split
  · exact ev
  · simp [↓stored_upd, ↓burstDown_stored, ev]

@[simp] theorem execTmarkSend_leads (s : State) : Leads (stored s) (execTmarkSend s) := by simp [execTmarkSend]

@[simp] theorem execTimeMarkEvent_leads (s : State) : Leads (stored s) (execTimeMarkEvent s) := by
  unfold execTimeMarkEvent; split
  · simp
  · simp only [leads_next]
    simp [↓stored_upd, ↓tiuFeed_stored]

@[simp] theorem probeDue_evolves {a : Stored} (s : State) (ev : Evolves a (stored s)) : Evolves a (stored (probeDue s)) := by
  unfold probeDue; split <;> simp [ev]

@[simp] theorem execSyncProbeSend_leads (s : State) : Leads (stored s) (execSyncProbeSend s) := by simp [execSyncProbeSend, probeOn]

@[simp] theorem alignTo_stored (t : Nat) (s : State) : stored (alignTo t s) = stored s := by simp [alignTo]

@[simp] theorem track_stored (time : Nat) (s : State) : stored (track time s) = stored s := by
  unfold track; dsimp only; (repeat' split) <;> simp

@[simp] theorem execSyncProbe_leads (time : Nat) (s : State) : Leads (stored s) (execSyncProbe time s) := by simp [execSyncProbe]

@[simp] theorem execRefclkCountCheck_leads (count : Nat) (s : State) : Leads (stored s) (execRefclkCountCheck count s) := by
  simp [execRefclkCountCheck]

@[simp] theorem formAnswer_stored (status : Nat) (s : State) : stored (formAnswer status s) = stored s := by
  unfold formAnswer; split <;> simp

@[simp] theorem becomeFormed_stored (m : Nat) (s : State) : stored (becomeFormed m s) = stored s := by simp [becomeFormed]

@[simp] theorem execEnsForm_leads (tag : W16) (s : State) : Leads (stored s) (execEnsForm tag s) := by
  simp [execEnsForm, ensFormCmd, startForm]

@[simp] theorem trained_stored (p : Port) (r : Training) (s : State) : stored (trained p r s) = stored s := by
  unfold trained; (repeat' split) <;> simp

@[simp] theorem execPortTrainingDone_leads (port : Port) (result : Training) (s : State) :
    Leads (stored s) (execPortTrainingDone port result s) := by
  simp [execPortTrainingDone]

@[simp] theorem joinLeader_stored (p : Port) (path : List Port) (member : Nat) (ensId : W64) (major : W16) (depth : Nat) (s : State) :
    stored (joinLeader p path member ensId major depth s) = stored s := by
  unfold joinLeader; split <;> simp

@[simp] theorem joinRefused_stored (member c : Nat) (path : List Port) (s : State) : stored (joinRefused member c path s) = stored s := by
  unfold joinRefused; split <;> simp

@[simp] theorem execJoinMessage_leads (port : Port) (member : Nat) (ensId : W64) (major : W16) (depth : Nat) (way : JoinWay) (s : State) :
    Leads (stored s) (execJoinMessage port member ensId major depth way s) := by
  unfold execJoinMessage; (repeat' split) <;> simp

@[simp] theorem execFormedMessage_leads (members : Nat) (s : State) : Leads (stored s) (execFormedMessage members s) := by
  simp [execFormedMessage, formedAct]

@[simp] theorem execEnsFormTimeout_leads (s : State) : Leads (stored s) (execEnsFormTimeout s) := by
  simp [execEnsFormTimeout, formTimeout]

@[simp] theorem broken_stored (s : State) : stored (broken s) = stored s := by simp [broken]

@[simp] theorem execEnsBreak_leads (tag : W16) (s : State) : Leads (stored s) (execEnsBreak tag s) := by
  simp [execEnsBreak, ensBreakCmd]

@[simp] theorem execBreakMessage_leads (s : State) : Leads (stored s) (execBreakMessage s) := by simp [execBreakMessage]

@[simp] theorem execArmCheckRequest_leads (s : State) : Leads (stored s) (execArmCheckRequest s) := by simp [execArmCheckRequest]

@[simp] theorem execArmCheckReply_leads (src : Sender) (pass : Bool) (digest : W64) (imageId : W64) (crc : ReplyCrc) (profile : Byte)
    (common : W32) (s : State) :
    Leads (stored s) (execArmCheckReply src pass digest imageId crc profile common s) := by
  simp [execArmCheckReply, armReplyAct]

@[simp] theorem execArmCheckReplyTimeout_leads (s : State) : Leads (stored s) (execArmCheckReplyTimeout s) := by
  unfold execArmCheckReplyTimeout; (repeat' split) <;> simp

@[simp] theorem execArmedReport_leads (src : Sender) (idle : Bool) (s : State) : Leads (stored s) (execArmedReport src idle s) := by
  simp [execArmedReport, armedAct]

@[simp] theorem execEnsExpect_leads (tag : W16) (s : State) : Leads (stored s) (execEnsExpect tag s) := by
  simp [execEnsExpect, ensExpectCmd]

@[simp] theorem execEnsTmark_leads (tag : W16) (s : State) : Leads (stored s) (execEnsTmark tag s) := by
  simp [execEnsTmark, ensTmarkCmd]

/-! ### RW1C bits (00) -/

@[simp] theorem writeClears_stored (off : Nat) (bytes : List (Option Byte)) (s : State) : stored (writeClears off bytes s) = stored s := by
  simp [writeClears, clearHi, clearCl]

/-! ### Trims (17) -/

@[simp] theorem loadTrims_evolves {a : Stored} {body : Mem} (wf : Memory.wf 0 body = true) (s : State) (ev : Evolves a (stored s)) :
    Evolves a (stored (loadTrims body s)) := by
  unfold loadTrims; dsimp only
  rw [foldl_stored _ fun u x => issue_stored _ _ u]
  rw [stored_mk]
  refine ev.write (fun old => ?_) rfl rfl
  obtain ⟨dram, hostMem, room, shadow, window, larder, msix, mirror, diag, flash, -⟩ := (wf_iff _).1 old
  exact (wf_iff _).2 ⟨dram, hostMem, room, shadow, window, larder, msix, mirror, diag, flash, wf⟩

/-! ### The host interface (15) -/

@[simp] theorem execPostedWriteReceive_leads (bar4 : Bool) (off : Nat) (bytes : List (Option Byte)) (s : State) :
    Leads (stored s) (execPostedWriteReceive bar4 off bytes s) := by
  simp [execPostedWriteReceive, receive, dropWrite]

@[simp] theorem baseWrite_stored (off : Nat) (bytes : List (Option Byte)) (s : State) : stored (baseWrite off bytes s) = stored s := by
  unfold baseWrite; dsimp only
  simp [↓stored_upd, ↓ringError_stored]

@[simp] theorem unmaskOne_stored (s : State) (v : Fin 64) : stored (unmaskOne s v) = stored s := by simp [unmaskOne]

@[simp] theorem msixWrite_evolves {a : Stored} (off : Nat) (bytes : List (Option Byte)) (s : State) (ev : Evolves a (stored s)) :
    Evolves a (stored (msixWrite off bytes s)) := by
  unfold msixWrite; dsimp only; split
  · rw [foldl_stored _ unmaskOne_stored]
    refine ev.write (fun wf => ?_) rfl rfl
    obtain ⟨dram, hostMem, room, shadow, window, larder, msix, rest⟩ := (wf_iff _).1 wf
    exact (wf_iff _).2 ⟨dram, hostMem, room, shadow, window, larder, foldl_wf 0 _ (fun m k w => wf_memWrite 0 m _ _ w) _ msix, rest⟩
  · exact ev

@[simp] theorem plainWrite_evolves {a : Stored} (off : Nat) (bytes : List (Option Byte)) (s : State) (ev : Evolves a (stored s)) :
    Evolves a (stored (plainWrite off bytes s)) := by
  unfold plainWrite; dsimp only
  refine msixWrite_evolves off bytes _ ?_
  rw [baseWrite_stored]
  simp [↓stored_upd, ev]

@[simp] theorem execRegisterWrite_leads (off : Nat) (bytes : List (Option Byte)) (s : State) :
    Leads (stored s) (execRegisterWrite off bytes s) := by
  simp [execRegisterWrite]

@[simp] theorem doorbell_evolves {a : Stored} (v : W32) (s0 : State) (ev : Evolves a (stored s0)) : Evolves a (stored (doorbell v s0)) := by
  unfold doorbell; dsimp only
  simp [↓stored_upd, ev]

@[simp] theorem execHiCmdDb_leads (v : W32) (s : State) : Leads (stored s) (execHiCmdDb v s) := by simp [execHiCmdDb]

@[simp] theorem cplHeadWrite_stored (v : W32) (s : State) : stored (cplHeadWrite v s) = stored s := by simp [cplHeadWrite]

@[simp] theorem execHiCplHead_leads (v : W32) (s : State) : Leads (stored s) (execHiCplHead v s) := by simp [execHiCplHead]

@[simp] theorem cmdSizeWrite_stored (v : W32) (s : State) : stored (cmdSizeWrite v s) = stored s := by simp [cmdSizeWrite]

@[simp] theorem execHiCmdSize_leads (v : W32) (s : State) : Leads (stored s) (execHiCmdSize v s) := by simp [execHiCmdSize]

@[simp] theorem cplSizeWrite_stored (v : W32) (s : State) : stored (cplSizeWrite v s) = stored s := by simp [cplSizeWrite]

@[simp] theorem execHiCplSize_leads (v : W32) (s : State) : Leads (stored s) (execHiCplSize v s) := by simp [execHiCplSize]

@[simp] theorem execCommandFetch_leads (entry : List Byte) (s : State) : Leads (stored s) (execCommandFetch entry s) := by
  simp [execCommandFetch, fetchEntry]

@[simp] theorem startNew_stored (c : CmdEntry) (src : HostRead) (s : State) : stored (startNew c src s) = stored s := by
  unfold startNew; split <;> simp [refuseStart]

@[simp] theorem startEntry_stored (c : CmdEntry) (src : HostRead) (s : State) : stored (startEntry c src s) = stored s := by
  unfold startEntry; (repeat' split) <;> simp

@[simp] theorem execCommandStart_leads (src : HostRead) (s : State) : Leads (stored s) (execCommandStart src s) := by
  unfold execCommandStart; split <;> simp

@[simp] theorem trimsInForce_evolves {a : Stored} (image : List Byte) (kept : Bool) (s : State) (ev : Evolves a (stored s)) :
    Evolves a (stored (trimsInForce image kept s)) := by
  unfold trimsInForce; dsimp only
  rw [issue_stored]
  exact loadTrims_evolves (wf_memWrite 0 [] _ _ rfl) _ (by simpa)

@[simp] theorem takesEffect_evolves {a : Stored} (c : Cpl) (s : State) (ev : Evolves a (stored s)) :
    Evolves a (stored (takesEffect c s)) := by
  unfold takesEffect; split
  · exact ev
  · simp [clSettings, seqLoaded, sqSettings, streamOpened, ev]

@[simp] theorem cplSignal_stored (s : State) : stored (cplSignal s) = stored s := by simp [cplSignal]

@[simp] theorem writeCpl_evolves {a : Stored} (c : Cpl) (s : State) (ev : Evolves a (stored s)) : Evolves a (stored (writeCpl c s)) := by
  unfold writeCpl; dsimp only
  rw [cplSignal_stored]
  simp [↓stored_upd, ev]

@[simp] theorem cplWrite_evolves {a : Stored} (s : State) (ev : Evolves a (stored s)) : Evolves a (stored (cplWrite s)) := by
  unfold cplWrite; split <;> simp [ev]

@[simp] theorem execCompletionIrqTimer_leads (s : State) : Leads (stored s) (execCompletionIrqTimer s) := by
  unfold execCompletionIrqTimer; dsimp only
  rw [leads_next]
  simp [↓stored_upd, ↓msix_stored]

@[simp] theorem execHiNop_leads (tag : W16) (s : State) : Leads (stored s) (execHiNop tag s) := by simp [execHiNop, hiNopCmd]

@[simp] theorem execHiInfo_leads (tag : W16) (s : State) : Leads (stored s) (execHiInfo tag s) := by simp [execHiInfo, hiInfoCmd]

@[simp] theorem mirrorDue_evolves {a : Stored} (s : State) (ev : Evolves a (stored s)) : Evolves a (stored (mirrorDue s)) := by
  unfold mirrorDue; split <;> simp [ev]

@[simp] theorem mirrorFill_evolves {a : Stored} (s : State) (ev : Evolves a (stored s)) : Evolves a (stored (mirrorFill s)) := by
  have image := wf_regImage s
  unfold mirrorFill; generalize regImage s = m at image ⊢
  refine ev.write (fun wf => ?_) rfl rfl
  obtain ⟨dram, hostMem, room, shadow, window, larder, msix, -, rest⟩ := (wf_iff _).1 wf
  exact (wf_iff _).2 ⟨dram, hostMem, room, shadow, window, larder, msix, image, rest⟩

@[simp] theorem execMirrorRefresh_leads (s : State) : Leads (stored s) (execMirrorRefresh s) := by
  simp [execMirrorRefresh]

/-! ### Management (16) -/

@[simp] theorem wakeCore_stored (cause : Wake) (s : State) : stored (wakeCore cause s) = stored s := by
  unfold wakeCore; split <;> simp

@[simp] theorem execCoreWake_leads (cause : Wake) (s : State) : Leads (stored s) (execCoreWake cause s) := by simp [execCoreWake]

@[simp] theorem dieReading_stored (k : Nat) (r : W16) (s : State) : stored (dieReading k r s) = stored s := by simp [dieReading]

@[simp] theorem stackReading_stored (old r : W16) (s : State) : stored (stackReading old r s) = stored s := by simp [stackReading]

@[simp] theorem railEvent_stored (j r codeCore codeBank : Nat) (s : State) :
    stored (railEvent j r codeCore codeBank s) = stored s := by simp [railEvent]

@[simp] theorem railCause_stored (j : Fin 24) (cause : Nat) (fresh : Bool) (s : State) :
    stored (railCause j cause fresh s) = stored s := by
  unfold railCause; dsimp only
  simp [↓stored_upd, ↓contain_stored]

@[simp] theorem railContain_stored (j : Fin 24) (fresh : Bool) (s : State) : stored (railContain j fresh s) = stored s := by
  simp [railContain]

@[simp] theorem bankReading_stored (b : Bank) (r : Nat) (s : State) : stored (bankReading b r s) = stored s := by simp [bankReading]

@[simp] theorem railReading_stored (j : Fin 24) (r : Nat) (s : State) : stored (railReading j r s) = stored s := by
  have banked : stored (if coreRail j.val then s else bankReading (Fin.ofNat 8 (j.val - 12)) r s) = stored s := by simp
  unfold railReading; dsimp only
  generalize (if coreRail j.val then s else bankReading (Fin.ofNat 8 (j.val - 12)) r s) = t at banked ⊢
  simp [banked]

@[simp] theorem slotReading_stored (k : Nat) (old r : W16) (s : State) : stored (slotReading k old r s) = stored s := by
  simp [slotReading]

@[simp] theorem frameEnd_stored (s : State) : stored (frameEnd s) = stored s := by simp [frameEnd]

@[simp] theorem execSensorSlotEnd_leads (reading : W16) (s : State) : Leads (stored s) (execSensorSlotEnd reading s) := by
  unfold execSensorSlotEnd; dsimp only
  generalize passed : toTime ((s.mg.frame.toNat * 64 + s.mg.slot + 1) * 4000000000) s = t
  have ev : Evolves (stored s) (stored t) := passed ▸ toTime_evolves _ s (Evolves.refl _)
  simp [ev]

@[simp] theorem execThermalTrip115_leads (sensor : Fin 32) (s : State) : Leads (stored s) (execThermalTrip115 sensor s) := by
  simp [execThermalTrip115]

@[simp] theorem tripFast_stored (sensor : Fin 32) (s : State) : stored (tripFast sensor s) = stored s := by
  unfold tripFast; dsimp only
  rw [issue_stored, stored_mk, stored_eta]
  simp

@[simp] theorem execThermalTrip125_leads (sensor : Fin 32) (s : State) : Leads (stored s) (execThermalTrip125 sensor s) := by
  simp [execThermalTrip125]

@[simp] theorem notPersisted_stored (r : EventRec) (s : State) : stored (notPersisted r s) = stored s := by simp [notPersisted]

@[simp] theorem askCopy_stored (r : EventRec) (s : State) : stored (askCopy r s) = stored s := by simp [askCopy]

@[simp] theorem nextFatal_stored (s : State) : stored (nextFatal s) = stored s := by
  unfold nextFatal; split <;> simp [beginFatal]

@[simp] theorem abortCmd_stored (s : State) (e : Exec) : stored (abortCmd s e) = stored s := by simp [abortCmd]

@[simp] theorem enterDouble_stored (code : Nat) (s : State) : stored (enterDouble code s) = stored s := by simp [enterDouble]

@[simp] theorem fatalCheck_stored (s : State) : stored (fatalCheck s) = stored s := by
  unfold fatalCheck; (repeat' split) <;> simp

@[simp] theorem drainRec_stored (r : EventRec) (s : State) : stored (drainRec r s) = stored s := by
  unfold drainRec; dsimp only
  simp [↓stored_upd, ↓nextFatal_stored, ↓askCopy_stored]

@[simp] theorem execEventLogDrain_leads (s : State) : Leads (stored s) (execEventLogDrain s) := by
  unfold execEventLogDrain; split <;> simp

@[simp] theorem persistOne_evolves {a : Stored} (ok : Bool) (s : State) (ev : Evolves a (stored s)) :
    Evolves a (stored (persistOne ok s)) := by
  unfold persistOne; split
  · exact ev
  next r t =>
    dsimp only
    split
    · rw [fatalCheck_stored, stored_mk, stored_eta, notPersisted_stored, stored_mk, stored_eta]
      exact ev
    · split
      · simp [ev]
      · rw [fatalCheck_stored]
        exact ev.write (by simp +contextual [wf_iff, stored, -stored_eta]) rfl rfl

@[simp] theorem execPersistCopy_leads (ok : Bool) (s : State) : Leads (stored s) (execPersistCopy ok s) := by simp [execPersistCopy]

/-- A record takes 64 bytes (Table 16.4). -/
@[simp] theorem eventBytes_length (r : EventRec) : (eventBytes r).length = 64 := by
  simp [eventBytes, padTo, zeros]
  omega

/-- What a memory holds after a write lies below an address that bounded it before and that the bytes written stay under. -/
theorem memWrite_below {d : Byte} {m : Mem} {a n : Nat} {l : List Byte} (below : ∀ c ∈ m, c.1 < n) (fits : a + l.length ≤ n) :
    ∀ c ∈ memWrite d m a l, c.1 < n := by
  intro c hc
  simp only [memWrite, List.mem_append, List.mem_filter] at hc
  rcases hc with (⟨old, -⟩ | new) | ⟨old, -⟩
  · exact below c old
  · exact Nat.lt_of_lt_of_le (memCells_range new).2 fits
  · exact below c old

/-- The records before a fatal one that its snapshot holds: 62 at most (Table 16.18). -/
theorem records_bytes_le (l : List EventRec) (h : l.length ≤ 62) : (l.flatMap eventBytes).length ≤ 62 * 64 := by
  simp [List.length_flatMap]
  omega

/-- The snapshot of a fatal record (Table 16.18): the records lie below 0x1000, the registers from there on. -/
theorem wf_diagImage (r : EventRec) (s : State) : Memory.wf 0 (diagImage r s) = true := by
  unfold diagImage; dsimp only
  have registers := wfFrom_memShift 0 0 0x1000 0x1000 (wf_regImage s)
  refine wfFrom_append (b := 0x1000) ?_ (wfFrom_mono 0 (Nat.le_add_left _ _) registers) (Nat.zero_le _) ?_
  · exact wf_memWrite _ _ _ _ (wf_memWrite _ _ _ _ (wf_memWrite _ _ _ _ rfl))
  · refine memWrite_below (memWrite_below (memWrite_below (by simp) ?_) (by simp)) ?_
    · simp
    · refine Nat.le_trans (Nat.add_le_add_left (records_bytes_le _ ?_) _) (by omega)
      split
      · simp; omega
      · simp

@[simp] theorem execDiagSnapshot_leads (s : State) : Leads (stored s) (execDiagSnapshot s) := by
  unfold execDiagSnapshot; split
  · simp
  next f _ =>
    have image := wf_diagImage f.event s
    generalize diagImage f.event s = m at image ⊢
    rw [leads_next]
    split
    · exact Evolves.refl _
    · rw [coreSettle_stored, fatalCheck_stored]
      refine (Evolves.refl _).write (fun wf => ?_) rfl rfl
      obtain ⟨dram, hostMem, room, shadow, window, larder, msix, mirror, -, rest⟩ := (wf_iff _).1 wf
      exact (wf_iff _).2 ⟨dram, hostMem, room, shadow, window, larder, msix, mirror, image, rest⟩

@[simp] theorem execMgRelease_leads (tag : W16) (s : State) : Leads (stored s) (execMgRelease tag s) := by
  refine runCmd_leads _ tag (fun e u => ?_) s
  simp [mgReleaseCmd]

@[simp] theorem clearPersisted_evolves {a : Stored} (s : State) (ev : Evolves a (stored s)) : Evolves a (stored (clearPersisted s)) :=
  ev.write (by simp +contextual [wf_iff, stored, clearPersisted, -stored_eta]) rfl rfl

@[simp] theorem logRead_evolves {a : Stored} (e : Exec) (s : State) (ev : Evolves a (stored s)) : Evolves a (stored (logRead e s)) := by
  unfold logRead; dsimp only
  rw [answer_stored]
  simp [↓stored_upd, ev]

@[simp] theorem execMgLogRead_leads (tag : W16) (s : State) : Leads (stored s) (execMgLogRead tag s) := by
  refine runCmd_leads _ tag (fun e u => ?_) s
  simp [mgLogReadCmd]

@[simp] theorem execMgSensors_leads (tag : W16) (s : State) : Leads (stored s) (execMgSensors tag s) := by
  refine runCmd_leads _ tag (fun e u => ?_) s
  simp [mgSensorsCmd]

@[simp] theorem challengeCmd_stored (e : Exec) (s : State) : stored (challengeCmd e s) = stored s := by
  simp [challengeCmd]

@[simp] theorem execMgDbgUnlockChallenge_leads (tag : W16) (s : State) : Leads (stored s) (execMgDbgUnlockChallenge tag s) := by
  simp [execMgDbgUnlockChallenge]

@[simp] theorem execMgDbgUnlockToken_leads (tag : W16) (s : State) : Leads (stored s) (execMgDbgUnlockToken tag s) := by
  simp [execMgDbgUnlockToken, tokenCmd]

@[simp] theorem execSmbReadStatus_leads (s : State) : Leads (stored s) (execSmbReadStatus s) := by simp [execSmbReadStatus]

@[simp] theorem execSmbReadSensors_leads (s : State) : Leads (stored s) (execSmbReadSensors s) := by simp [execSmbReadSensors]

@[simp] theorem execSmbReadRecord_leads (s : State) : Leads (stored s) (execSmbReadRecord s) := by
  unfold execSmbReadRecord; split <;> simp

@[simp] theorem execSmbAlertResponse_leads (s : State) : Leads (stored s) (execSmbAlertResponse s) := by simp [execSmbAlertResponse]

@[simp] theorem mgCtrl_stored (v : W32) (s : State) : stored (mgCtrl v s) = stored s := by simp [mgCtrl]

@[simp] theorem execMgCtrlWrite_leads (v : W32) (s : State) : Leads (stored s) (execMgCtrlWrite v s) := by simp [execMgCtrlWrite]

@[simp] theorem execMuxKeeperRelease_leads (s : State) : Leads (stored s) (execMuxKeeperRelease s) := by
  unfold execMuxKeeperRelease; split
  · simp
  next t _ =>
    simp only [leads_next]
    generalize passed : toTime t s = u
    have ev : Evolves (stored s) (stored u) := passed ▸ toTime_evolves _ s (Evolves.refl _)
    simp [ev]

/-! ### The time base (02) -/

@[simp] theorem loseRefclk_stored (cause : Nat) (s : State) : stored (loseRefclk cause s) = stored s := by simp [loseRefclk]

@[simp] theorem startPlls_stored (s : State) : stored (startPlls s) = stored s := by simp [startPlls, startPll]

@[simp] theorem execRefclkMissingEdge_leads (s : State) : Leads (stored s) (execRefclkMissingEdge s) := by
  simp [execRefclkMissingEdge]

@[simp] theorem recoverRefclk_stored (s : State) : stored (recoverRefclk s) = stored s := by simp [recoverRefclk]

@[simp] theorem judgeWindow_stored (count : Nat) (s : State) : stored (judgeWindow count s) = stored s := by
  unfold judgeWindow; dsimp only
  simp [↓stored_upd, ↓recoverRefclk_stored, ↓loseRefclk_stored]

@[simp] theorem execRefclkMonitorWindowEnd_leads (count : Nat) (s : State) :
    Leads (stored s) (execRefclkMonitorWindowEnd count s) := by
  simp [execRefclkMonitorWindowEnd]

@[simp] theorem execLockDetectorAssert_leads (q : Quad) (s : State) : Leads (stored s) (execLockDetectorAssert q s) := by
  simp [execLockDetectorAssert]

@[simp] theorem execLockDetectorDeassert_leads (q : Quad) (s : State) : Leads (stored s) (execLockDetectorDeassert q s) := by
  simp [execLockDetectorDeassert]

@[simp] theorem judgeGuard_stored (q : Quad) (count : Nat) (stayed : Bool) (s : State) :
    stored (judgeGuard q count stayed s) = stored s := by
  simp [judgeGuard]

@[simp] theorem execGuardWindowEnd_leads (q : Quad) (count : Nat) (stayed : Bool) (s : State) :
    Leads (stored s) (execGuardWindowEnd q count stayed s) := by
  simp [execGuardWindowEnd]

@[simp] theorem execPhaseAlignDone_leads (q : Quad) (phi : Int) (s : State) : Leads (stored s) (execPhaseAlignDone q phi s) := by
  simp [execPhaseAlignDone]

@[simp] theorem execFabSwitchComplete_leads (s : State) : Leads (stored s) (execFabSwitchComplete s) := by
  simp [execFabSwitchComplete]

@[simp] theorem execEpochWrap_leads (s : State) : Leads (stored s) (execEpochWrap s) := by simp [execEpochWrap]

/-! ### Power states (16) -/

@[simp] theorem drainOne_evolves {a : Stored} (s : State) (ev : Evolves a (stored s)) : Evolves a (stored (drainOne s)) := by
  unfold drainOne; dsimp only; (repeat' split) <;> simp [ev]

@[simp] theorem drainCellar_evolves {a : Stored} (n : Nat) (s : State) (ev : Evolves a (stored s)) :
    Evolves a (stored (drainCellar n s)) := by
  induction n generalizing s with
  | zero => exact ev
  | succ n ih => unfold drainCellar; split <;> simp [ih, ev]

@[simp] theorem enterP2_evolves {a : Stored} (s : State) (ev : Evolves a (stored s)) : Evolves a (stored (enterP2 s)) := by
  have drained : Evolves a (stored (stopPlls (drainCellar (s.cl.front.length * 1024) s))) := by simp [ev]
  unfold enterP2
  generalize stopPlls (drainCellar (s.cl.front.length * 1024) s) = u at drained ⊢
  exact drained.write (by simp +contextual [wf_iff, stored, -stored_eta]) rfl rfl

@[simp] theorem loseDram_evolves {a : Stored} (s : State) (ev : Evolves a (stored s)) : Evolves a (stored (loseDram s)) :=
  ev.write (by simp +contextual [wf_iff, stored, loseDram, -stored_eta]) rfl rfl

@[simp] theorem enterP3_evolves {a : Stored} (s : State) (ev : Evolves a (stored s)) : Evolves a (stored (enterP3 s)) := by
  have closed : Evolves a (stored (loseDram (if s.cs.open_ then closeStream 1 true s else s))) := by
    refine loseDram_evolves _ ?_
    split <;> simp [ev]
  unfold enterP3
  generalize loseDram (if s.cs.open_ then closeStream 1 true s else s) = u at closed ⊢
  exact closed.write (by simp +contextual [wf_iff, stored, unbind, -stored_eta]) rfl rfl

@[simp] theorem enterP4_evolves {a : Stored} (s : State) (ev : Evolves a (stored s)) : Evolves a (stored (enterP4 s)) := by
  unfold enterP4; dsimp only
  rw [stored_mk, stored_eta]
  split <;> simp [ev]

@[simp] theorem pwrAnswer_stored (status : Nat) (s : State) : stored (pwrAnswer status s) = stored s := by
  unfold pwrAnswer; (repeat' split) <;> simp

@[simp] theorem beginStep_stored (target : Nat) (s : State) : stored (beginStep target s) = stored s := by simp [beginStep]

@[simp] theorem pwrStart_stored (target : Nat) (tag : Option W16) (s : State) : stored (pwrStart target tag s) = stored s := by
  simp [pwrStart]

@[simp] theorem stepTo_stored (n : Nat) (s : State) : stored (stepTo n s) = stored s := by simp [stepTo]

@[simp] theorem enterP1_evolves {a : Stored} (s : State) (ev : Evolves a (stored s)) : Evolves a (stored (enterP1 s)) := by
  have slotted : Evolves a (stored (if s.pt.bound && s.pt.shadowOk then inSlot .maint tableSize s else s)) := by
    split <;> simp [ev]
  unfold enterP1; dsimp only
  generalize (if s.pt.bound && s.pt.shadowOk then inSlot .maint tableSize s else s) = u at slotted ⊢
  refine slotted.write (fun wf => ?_) rfl rfl
  obtain ⟨dram, hostMem, -, shadow, rest⟩ := (wf_iff _).1 wf
  refine (wf_iff _).2 ⟨dram, hostMem, ?_, shadow, rest⟩
  change Memory.wf 0 (if u.pt.bound && u.pt.shadowOk then u.pt.shadow else []) = true
  split
  · exact shadow
  · rfl

@[simp] theorem pwrNext_stored (target : Nat) (s : State) : stored (pwrNext target s) = stored s := by simp [pwrNext]

@[simp] theorem stepDown_evolves {a : Stored} (target : Nat) (s : State) (ev : Evolves a (stored s)) :
    Evolves a (stored (stepDown target s)) := by
  unfold stepDown; dsimp only; (repeat' split)
  · simp [ev]
  · simp [ev]
  · exact ev
  · simp [ev]
  · exact ev

@[simp] theorem stepUp_evolves {a : Stored} (target : Nat) (ok : Bool) (s : State) (ev : Evolves a (stored s)) :
    Evolves a (stored (stepUp target ok s)) := by
  unfold stepUp; dsimp only; (repeat' split) <;> simp [ev]

@[simp] theorem execPowerStepComplete_leads (ok : Bool) (s : State) : Leads (stored s) (execPowerStepComplete ok s) := by
  unfold execPowerStepComplete; split
  · simp
  · rw [leads_next, coreSettle_stored]
    split <;> simp

@[simp] theorem execPwrSet_leads (tag : W16) (s : State) : Leads (stored s) (execPwrSet tag s) := by
  refine runCmd_leads _ tag (fun e u => ?_) s
  simp [pwrSetCmd]

@[simp] theorem smbPwr_stored (t : Nat) (s : State) : stored (smbPwr t s) = stored s := by
  unfold smbPwr; (repeat' split) <;> simp [smbStatus]

@[simp] theorem execSmbPwrSet_leads (target : Byte) (s : State) : Leads (stored s) (execSmbPwrSet target s) := by
  simp [execSmbPwrSet]

@[simp] theorem smbResume_stored (s : State) : stored (smbResume s) = stored s := by unfold smbResume; split <;> simp

@[simp] theorem execCompletionWrite_leads (s : State) : Leads (stored s) (execCompletionWrite s) := by simp [execCompletionWrite]

@[simp] theorem acqFail_stored (s : State) (q : Quad) : stored (acqFail s q) = stored s := by
  unfold acqFail; dsimp only
  simp [↓stored_upd, ↓stopPll_stored, ↓issue_stored]

@[simp] theorem acqTimeout_stored (s : State) : stored (acqTimeout s) = stored s := by simp [acqTimeout]

@[simp] theorem execAcquisitionTimeout_leads (s : State) : Leads (stored s) (execAcquisitionTimeout s) := by
  simp [execAcquisitionTimeout]

/-! ### Start-up and resets (17) -/

@[simp] theorem trialStep_evolves {a : Stored} (s : State) (ev : Evolves a (stored s)) : Evolves a (stored (trialStep s).1) := by
  unfold trialStep; dsimp only; (repeat' split) <;> simp [ev]

@[simp] theorem bootSlot_stored (k : Nat) (s : State) : stored (bootSlot k s) = stored s := by simp [bootSlot]

@[simp] theorem enterRecovery_stored (a b : Nat) (s : State) : stored (enterRecovery a b s) = stored s := by simp [enterRecovery]

@[simp] theorem bootFirmware_evolves {a : Stored} (s : State) (ev : Evolves a (stored s)) : Evolves a (stored (bootFirmware s)) := by
  have trial := trialStep_evolves s ev
  unfold bootFirmware
  generalize trialStep s = x at trial ⊢
  (repeat' split) <;> simp [trial]

@[simp] theorem execAxrasStart_leads (busMaster : Bool) (s : State) : Leads (stored s) (execAxrasStart busMaster s) := by
  unfold execAxrasStart; dsimp only
  rw [leads_next]
  simp [↓stored_upd]

@[simp] theorem bootCal_evolves {a : Stored} (s : State) (ev : Evolves a (stored s)) : Evolves a (stored (bootCal s)) := by
  unfold bootCal; dsimp only; split
  · exact loadTrims_evolves (wf_memWrite 0 [] _ _ rfl) _ (by simpa)
  · rw [issue_stored]
    exact ev.write (by simp +contextual [wf_iff, stored, trimsWf, -stored_eta]) rfl rfl

@[simp] theorem execBootComplete_leads (s : State) : Leads (stored s) (execBootComplete s) := by
  unfold execBootComplete; dsimp only
  rw [leads_next]
  simp [↓stored_upd, ↓issue_stored]

@[simp] theorem execPerstNDeassert_leads (s : State) : Leads (stored s) (execPerstNDeassert s) := by simp [execPerstNDeassert]

@[simp] theorem coldReset_evolves {a : Stored} (s : State) (ev : Evolves a (stored s)) : Evolves a (stored (coldReset s)) := by
  refine ev.write (fun wf => ?_) rfl rfl
  obtain ⟨-, hostMem, -, -, -, -, -, -, -, flash, -⟩ := (wf_iff _).1 wf
  exact (wf_iff _).2 ⟨rfl, hostMem, rfl, rfl, rfl, rfl, rfl, rfl, rfl, flash, rfl⟩

@[simp] theorem startLines_stored (s : State) : stored (startLines s) = stored s := by
  simp [startLines]

@[simp] theorem execPowerOnReset_leads (s : State) : Leads (stored s) (execPowerOnReset s) := by
  simp [execPowerOnReset]

@[simp] theorem warmReset_evolves {a : Stored} (s : State) (ev : Evolves a (stored s)) : Evolves a (stored (warmReset s)) := by
  unfold warmReset; dsimp only
  rw [stored_mk, stored_eta]
  exact coldReset_evolves s ev

@[simp] theorem execConventionalReset_leads (s : State) : Leads (stored s) (execConventionalReset s) := by
  simp [execConventionalReset]

@[simp] theorem flrPower_stored (s : State) : stored (flrPower s) = stored s := by
  unfold flrPower; dsimp only
  simp [↓stored_upd, ↓stopPlls_stored]

@[simp] theorem flrBlocks_evolves {a : Stored} (s : State) (ev : Evolves a (stored s)) : Evolves a (stored (flrBlocks s)) := by
  have ended : Evolves a (stored (parkAll 1 (tiuCloseAll (abortNow 0 s)))) := by simp [ev]
  unfold flrBlocks; dsimp only
  generalize parkAll 1 (tiuCloseAll (abortNow 0 s)) = u at ended ⊢
  have closed : Evolves a (stored (if u.cs.open_ then closeStream 2 false u else u)) := by split <;> simp [ended]
  generalize (if u.cs.open_ then closeStream 2 false u else u) = v at closed ⊢
  rw [flrPower_stored]
  refine closed.write (fun wf => ?_) rfl rfl
  obtain ⟨dram, hostMem, room, shadow, window, larder, -, mirror, rest⟩ := (wf_iff _).1 wf
  exact (wf_iff _).2 ⟨dram, hostMem, room, shadow, window, larder, rfl, mirror, rest⟩

@[simp] theorem flr_evolves {a : Stored} (s : State) (ev : Evolves a (stored s)) : Evolves a (stored (flr s)) := by
  unfold flr; dsimp only
  rw [smbResume_stored, coreSettle_stored, issue_stored]
  refine flrBlocks_evolves _ ?_
  split <;> simp [ev]

@[simp] theorem execFlr_leads (s : State) : Leads (stored s) (execFlr s) := by simp [execFlr]

/-! ### Update and calibration (17) -/

@[simp] theorem recordFail_evolves {a : Stored} (k : Nat) (e : Exec) (s : State) (ev : Evolves a (stored s)) :
    Evolves a (stored (recordFail k e s)) := by
  simp [recordFail, ev]

@[simp] theorem execFwStage_leads (tag : W16) (flashOk : Bool) (s : State) : Leads (stored s) (execFwStage tag flashOk s) := by
  refine runCmd_leads _ tag (fun e u => ?_) s
  simp [fwStageCmd]

@[simp] theorem execFwCommit_leads (tag : W16) (flashOk : Bool) (s : State) : Leads (stored s) (execFwCommit tag flashOk s) := by
  refine runCmd_leads _ tag (fun e u => ?_) s
  simp [fwCommitCmd]

@[simp] theorem activate_evolves {a : Stored} (k : Nat) (s : State) (ev : Evolves a (stored s)) : Evolves a (stored (activate k s)) := by
  simp [activate, ev]

/-- A confirmed trial is the one place that raises the anti-rollback counter (R439). -/
@[simp] theorem confirmTrial_evolves {a : Stored} (k : Nat) (s : State) (ev : Evolves a (stored s)) :
    Evolves a (stored (confirmTrial k s)) := by
  have written := writeRec_evolves { bootRec s with flags := setFlag 2 false (setFlag 3 false (bootRec s).flags) } s ev
  have kept : (stored (writeRec { bootRec s with flags := setFlag 2 false (setFlag 3 false (bootRec s).flags) } s)).fuses
    = s.bt.fuses := rfl
  unfold confirmTrial; dsimp only
  generalize writeRec { bootRec s with flags := setFlag 2 false (setFlag 3 false (bootRec s).flags) } s = u at written kept ⊢
  split
  · rename_i below
    rw [issue_stored]
    exact written.trans ⟨id, Nat.le_of_lt (kept ▸ below), rfl⟩
  · rwa [stored_mk, stored_eta]

@[simp] theorem execFwActivate_leads (tag : W16) (flashOk : Bool) (s : State) : Leads (stored s) (execFwActivate tag flashOk s) := by
  refine runCmd_leads _ tag (fun e u => ?_) s
  simp [fwActivateCmd]

@[simp] theorem execFwInfo_leads (tag : W16) (s : State) : Leads (stored s) (execFwInfo tag s) := by simp [execFwInfo, fwInfoCmd]

@[simp] theorem execCalSave_leads (tag : W16) (s : State) : Leads (stored s) (execCalSave tag s) := by
  refine runCmd_leads _ tag (fun e u => ?_) s
  simp [calSaveCmd]

@[simp] theorem calApply_evolves {a : Stored} (ok store : Bool) (e : Exec) (h body : List Byte) (s : State)
    (ev : Evolves a (stored s)) : Evolves a (stored (calApply ok store e h body s)) := by
  unfold calApply; dsimp only; split
  · simp [ev]
  · split <;> simp [ev]

@[simp] theorem calLoadCmd_evolves {a : Stored} (src : HostRead) (ok : Bool) (e : Exec) (s : State) (ev : Evolves a (stored s)) :
    Evolves a (stored (calLoadCmd src ok e s)) := by
  unfold calLoadCmd; dsimp only
  refine checked_evolves _ e _ (fun u => ?_) s ev
  split <;> simp

@[simp] theorem execCalLoad_leads (tag : W16) (src : HostRead) (flashOk : Bool) (s : State) :
    Leads (stored s) (execCalLoad tag src flashOk s) :=
  runCmd_leads _ tag (fun e u => calLoadCmd_evolves src flashOk e u (Evolves.refl _)) s

@[simp] theorem checkRun_evolves {a : Stored} (dev : List Int) (e : Exec) (s : State) (ev : Evolves a (stored s)) :
    Evolves a (stored (checkRun dev e s)) := by
  unfold checkRun; dsimp only
  rw [answer_stored]
  split <;> simp [ev]

@[simp] theorem adcLeave_stored (tag : W16) (s : State) : stored (adcLeave tag s) = stored s := by simp [adcLeave]

@[simp] theorem checkTurn_evolves {a : Stored} (dev : List Int) (e : Exec) (s : State) (ev : Evolves a (stored s)) :
    Evolves a (stored (checkTurn dev e s)) := by
  unfold checkTurn; split <;> simp [ev]

@[simp] theorem execCalCheck_leads (tag : W16) (dev : List Int) (s : State) : Leads (stored s) (execCalCheck tag dev s) := by
  refine runCmd_leads _ tag (fun e u => ?_) s
  simp [calCheckCmd]

/-! ### Reads of BAR0 and BAR4 (15) -/

@[simp] theorem runCtlAct_evolves {a : Stored} (cmd : Nat) (s : State) (ev : Evolves a (stored s)) :
    Evolves a (stored (runCtlAct cmd s)) := by
  unfold runCtlAct; dsimp only; (repeat' split) <;> simp [ev]

@[simp] theorem ringAct_evolves {a : Stored} (w : Posted) (s : State) (ev : Evolves a (stored s)) :
    Evolves a (stored (ringAct w s)) := by
  unfold ringAct; dsimp only
  simp [ev]

@[simp] theorem blockAct_evolves {a : Stored} (w : Posted) (s : State) (ev : Evolves a (stored s)) :
    Evolves a (stored (blockAct w s)) := by
  unfold blockAct; dsimp only
  simp [ev]

@[simp] theorem applyPosted_evolves {a : Stored} (w : Posted) (s : State) (ev : Evolves a (stored s)) :
    Evolves a (stored (applyPosted w s)) := by
  unfold applyPosted; split
  · exact ev
  · exact blockAct_evolves w _ (ringAct_evolves w _ (by split <;> simp [ev]))

@[simp] theorem mergeWrites_evolves {a : Stored} (bar4 : Bool) (off n : Nat) (s : State) (ev : Evolves a (stored s)) :
    Evolves a (stored (mergeWrites bar4 off n s)) := by
  unfold mergeWrites; dsimp only
  rw [stored_mk, stored_eta]
  exact foldl_evolves _ (fun u w => applyPosted_evolves w u (Evolves.refl _)) _ _ (by simpa)

@[simp] theorem latchEpoch_stored (s : State) : stored (latchEpoch s) = stored s := by simp [latchEpoch]

@[simp] theorem barRead_evolves {a : Stored} (bar4 : Bool) (off n : Nat) (s : State) (ev : Evolves a (stored s)) :
    Evolves a (stored (barRead bar4 off n s)) := by
  have merged := mergeWrites_evolves bar4 off n s ev
  unfold barRead; dsimp only; split
  · simpa
  · rw [stored_mk, stored_eta]
    split <;> simpa

@[simp] theorem execTbEpochLoRead_leads (req : BarReq) (s : State) : Leads (stored s) (execTbEpochLoRead req s) := by
  simp [execTbEpochLoRead]

/-! ### Every row -/

/-- Every row keeps canonical memories canonical, never lowers the anti-rollback counter and keeps the serial. -/
theorem exec_leads (c : Instr) (s : State) : Leads (stored s) (exec c s) := by
  cases c
  all_goals simp [exec]

/-- What a step leaves stored follows from what stood before it. -/
theorem step_evolves {s t : State} (next : step s = .next t) : Evolves (stored s) (stored t) := by
  unfold step at next
  split at next
  · cases next
    exact idleCycle_evolves s (Evolves.refl _)
  · rename_i c rest _
    have leads := exec_leads c { s with pending := rest }
    rwa [next, leads_next, stored_mk, stored_eta] at leads

end Sys2Proof.Machine

open Sys2Proof Sys2Proof.Machine

/-- Settles O57: an idle cycle and every row take canonical memories to canonical ones. -/
theorem memoriesStayCanonical : Obligations.memoriesStayCanonical := by
  intro s t canonical next
  exact (step_evolves next).1 canonical

/-- Settles O58: the one place that writes the counter raises it, and none writes the serial. -/
theorem rollbackCounterNeverFalls : Obligations.rollbackCounterNeverFalls := by
  rintro n serial s t ⟨atLeast, here⟩ next
  obtain ⟨-, fuses, kept⟩ := step_evolves next
  exact ⟨Nat.le_trans atLeast fuses, kept.trans here⟩
end

section
/-! SUPPORT. What the issue of an event does to the event log (R404 to R407, R410, R421), a further cause of containment (R413), and the
statements on them. -/

namespace Sys2Proof.Machine

open Sys2Proof

/-! ### Severities and queues (R405, R407) -/

theorem severity_lt (code : Nat) : severity code < 4 := by
  unfold severity; (repeat' split) <;> omega

theorem evQueue_eq {sev : Nat} (h : sev < 4) (g : MG) : evQueue sev g = g.queues[Fin.ofNat 4 sev] := by
  simp [evQueue, h, Nat.mod_eq_of_lt h]

/-! ### The parts of an issue -/

theorem enqueue_alert (r : EventRec) (g : MG) :
    (enqueue r g).alert = (g.alert || (!decide (64 ≤ g.queues[Fin.ofNat 4 r.sev].length) && decide (2 ≤ r.sev))) := rfl

theorem enqueue_alert_low {r : EventRec} (low : r.sev < 2) (g : MG) : (enqueue r g).alert = g.alert := by
  rw [enqueue_alert, decide_eq_false (by omega : ¬ 2 ≤ r.sev), Bool.and_false, Bool.or_false]

/-- A record that finds room: the queue of its severity takes it, and nothing is counted. -/
theorem enqueue_room {r : EventRec} {g : MG} (room : g.queues[Fin.ofNat 4 r.sev].length < 64) :
    (enqueue r g).queues = vupd g.queues (Fin.ofNat 4 r.sev) (· ++ [r]) ∧ (enqueue r g).lost = g.lost := by
  have open_ : ¬ 64 ≤ g.queues[Fin.ofNat 4 r.sev].length := by omega
  simp only [enqueue, open_, decide_false, Bool.false_eq_true, if_false, and_self]

/-- A record that finds its queue full is dropped and counted. -/
theorem enqueue_full {r : EventRec} {g : MG} (full : 64 ≤ g.queues[Fin.ofNat 4 r.sev].length) :
    (enqueue r g).queues = g.queues ∧ (enqueue r g).lost = vupd g.lost (Fin.ofNat 4 r.sev) (satSucc 0xFFFF) := by
  simp only [enqueue, full, decide_true, if_true, and_self]

/-- A fatal code that is kept is no matter of the queues and the land. -/
theorem noteFatal_queues (code : Nat) (g : MG) :
    (noteFatal code g).queues = g.queues ∧ (noteFatal code g).seq = g.seq ∧ (noteFatal code g).lost = g.lost
      ∧ (noteFatal code g).alert = g.alert := by
  unfold noteFatal; split <;> simp

/-- The overflow event is a warning: it leaves the land and the code kept for `DOUBLE`. -/
theorem overflowEvent_alert (sev : Nat) (before : MG) (s : State) :
    (overflowEvent sev before s).alert = s.mg.alert ∧ (overflowEvent sev before s).second = s.mg.second := by
  have low (items : List Item) (t : State) : (eventRec 0x0F09 items t).sev < 2 := (by decide : severity 0x0F09 < 2)
  unfold overflowEvent; dsimp only
  split
  · split
    · exact ⟨(enqueue_alert_low (low _ _) _).trans (enqueue_alert_low (low _ _) _), rfl⟩
    · exact ⟨enqueue_alert_low (low _ _) _, rfl⟩
  · exact ⟨rfl, rfl⟩

/-- Only the first drop of a severity is reported (R407). -/
theorem overflowEvent_none {sev : Nat} {before : MG} {s : State}
    (h : ¬ (before.lost[Fin.ofNat 4 sev] = 0 ∧ s.mg.lost[Fin.ofNat 4 sev] ≠ 0)) : overflowEvent sev before s = s.mg := by
  unfold overflowEvent; exact if_neg h

/-! ### The issue of an event -/

/-- The log after the record of an event is put in its queue. -/
def logged (code : Nat) (items : List Item) (s : State) : MG := noteFatal code (enqueue (eventRec code items s) s.mg)

theorem issue_mg (code : Nat) (items : List Item) (s : State) :
    (issue code items s).mg = overflowEvent (severity code) s.mg { s with mg := logged code items s } := by
  simp [issue, logged]

theorem issue_alert (code : Nat) (items : List Item) (s : State) :
    (issue code items s).mg.alert
      = (s.mg.alert || (decide (2 ≤ severity code) && decide ((evQueue (severity code) s.mg).length < 64))) := by
  rw [issue_mg, (overflowEvent_alert _ _ _).1, evQueue_eq (severity_lt code)]
  obtain ⟨-, -, -, alert⟩ := noteFatal_queues code (enqueue (eventRec code items s) s.mg)
  refine alert.trans ?_
  rw [enqueue_alert, Bool.and_comm]
  congr 2
  simp only [← decide_not, Nat.not_le]
  rfl

/-- An event whose queue has room: the log takes its record and nothing more. -/
theorem issue_room {code : Nat} {s : State} (room : (evQueue (severity code) s.mg).length < 64) (items : List Item) :
    (issue code items s).mg = logged code items s := by
  rw [evQueue_eq (severity_lt code)] at room
  obtain ⟨-, -, lost, -⟩ := noteFatal_queues code (enqueue (eventRec code items s) s.mg)
  rw [issue_mg, overflowEvent_none]
  rintro ⟨none_, some_⟩
  exact some_ ((congrArg (·[Fin.ofNat 4 (severity code)]) (lost.trans (enqueue_room room).2)).trans none_)

/-- An event whose queue is full, not the first one dropped there: it is counted. -/
theorem issue_dropped {code : Nat} {s : State} (before : s.mg.lost[Fin.ofNat 4 (severity code)] ≠ 0) (items : List Item) :
    (issue code items s).mg = logged code items s := by
  rw [issue_mg, overflowEvent_none]
  exact fun h => before h.1

theorem issue_second (code : Nat) (items : List Item) (s : State) : (issue code items s).mg.second = (logged code items s).second := by
  rw [issue_mg, (overflowEvent_alert _ _ _).2]

theorem logged_seq (code : Nat) (items : List Item) (s : State) : (logged code items s).seq = s.mg.seq + 1 :=
  (noteFatal_queues code _).2.1

/-- The record that an event leaves in the queue of its severity. -/
theorem logged_queue {code : Nat} {s : State} (room : (evQueue (severity code) s.mg).length < 64) (items : List Item) :
    evQueue (severity code) (logged code items s) = evQueue (severity code) s.mg ++ [eventRec code items s]
      ∧ (logged code items s).lost = s.mg.lost := by
  obtain ⟨queues, -, lost, -⟩ := noteFatal_queues code (enqueue (eventRec code items s) s.mg)
  rw [evQueue_eq (severity_lt code)] at room ⊢
  obtain ⟨taken, kept⟩ := enqueue_room (r := eventRec code items s) room
  refine ⟨?_, lost.trans kept⟩
  rw [evQueue_eq (severity_lt code)]
  refine (congrArg (·[Fin.ofNat 4 (severity code)]) (queues.trans taken)).trans ?_
  exact vupd_self _ _ _

/-! ### A further cause of containment (R413) -/

theorem contain_again {s : State} (held : s.mg.contained = true) (cause : Nat) : contain cause s = containAgain cause s := if_pos held

/-- The second fatal code while one is handled (R410). -/
theorem logged_second {code : Nat} {s : State} (fatal : severity code = 3) (one : s.mg.fatal.isSome = true) (first : s.mg.second = none)
    (single : s.mg.double = false) (items : List Item) : (logged code items s).second = some code := by
  have noted : severity code = 3 ∧ (enqueue (eventRec code items s) s.mg).fatal.isSome = true
      ∧ (enqueue (eventRec code items s) s.mg).second.isNone = true ∧ ¬ (enqueue (eventRec code items s) s.mg).double = true :=
    ⟨fatal, one, by rw [show (enqueue (eventRec code items s) s.mg).second = none from first]; rfl,
      by rw [show (enqueue (eventRec code items s) s.mg).double = false from single]; exact Bool.false_ne_true⟩
  rw [logged, noteFatal, if_pos noted]

/-- `MG_CONTAIN` written. -/
def withContain (c : W64) (g : MG) : MG := { g with contain := c }

theorem withContain_kept (c : W64) (g : MG) :
    (withContain c g).queues = g.queues ∧ (withContain c g).fatal = g.fatal ∧ (withContain c g).second = g.second
      ∧ (withContain c g).double = g.double ∧ (withContain c g).contained = g.contained := ⟨rfl, rfl, rfl, rfl, rfl⟩

/-- `MG_CONTAIN` with one more in its count field, which saturates (Table 16.13). -/
def causeCounted (g : MG) : MG :=
  withContain (BitVec.ofNat 64 (g.contain.toNat
    + (satSucc 0xFF (fld g.contain.toNat 55 48) - fld g.contain.toNat 55 48) * 2 ^ 48)) g

theorem causeCounted_contain (g : MG) :
    (causeCounted g).contain.toNat / 2 ^ 56 = g.contain.toNat / 2 ^ 56 ∧ (causeCounted g).contain.toNat % 2 ^ 48 = g.contain.toNat % 2 ^ 48
      ∧ (causeCounted g).contain.toNat / 2 ^ 48 % 256 = min 255 (g.contain.toNat / 2 ^ 48 % 256 + 1) := by
  have small := g.contain.isLt
  simp only [causeCounted, withContain, BitVec.toNat_ofNat, satSucc, fld]
  generalize g.contain.toNat = c at small ⊢
  obtain ⟨n, hn⟩ : ∃ n, c / 2 ^ 48 % 256 = n := ⟨_, rfl⟩
  norm_num at hn ⊢
  rw [hn]
  rcases Nat.lt_or_ge n 255 with room | full
  · rw [Nat.min_eq_right (by omega), Nat.add_sub_cancel_left]
    omega
  · rw [Nat.min_eq_left (by omega)]
    omega

theorem containAgain_eq (cause : Nat) (s : State) :
    containAgain cause s = issue 0x0F01 [i1 cause, i1 (b2n (running s)), i1 1] { s with mg := causeCounted s.mg } := rfl

/-- What event 0x0F01 leaves once the cause is counted: its record in the queue of fatal ones, and the code kept for `DOUBLE`. -/
theorem causeCounted_issued {s u : State} (mg : u.mg = causeCounted s.mg) (items : List Item) :
    ((evQueue 3 s.mg).length < 64 → ∃ r, evQueue 3 (issue 0x0F01 items u).mg = evQueue 3 s.mg ++ [r] ∧ r.code = 0x0F01 ∧ r.sev = 3)
      ∧ (s.mg.fatal.isSome = true → s.mg.second = none → s.mg.double = false → (issue 0x0F01 items u).mg.second = some 0x0F01) := by
  have fatal : severity 0x0F01 = 3 := rfl
  obtain ⟨queues, fatal_, second, double, -⟩ : u.mg.queues = s.mg.queues ∧ u.mg.fatal = s.mg.fatal ∧ u.mg.second = s.mg.second
      ∧ u.mg.double = s.mg.double ∧ u.mg.contained = s.mg.contained := mg ▸ withContain_kept _ s.mg
  have queue : evQueue 3 u.mg = evQueue 3 s.mg := congrArg (fun q : Vector (List EventRec) 4 => q.toList.getD 3 []) queues
  refine ⟨fun room => ?_, fun one first single => ?_⟩
  · have roomU : (evQueue (severity 0x0F01) u.mg).length < 64 := by rw [fatal, queue]; exact room
    have entered := (logged_queue roomU items).1
    rw [← issue_room roomU items, fatal, queue] at entered
    exact ⟨_, entered, rfl, fatal⟩
  · rw [issue_second]
    exact logged_second fatal (by rwa [fatal_]) (second.trans first) (double.trans single) items

end Sys2Proof.Machine

open Sys2Proof Sys2Proof.Machine

/-- Settles O50: by the severity of the record and the room in its queue. -/
theorem alertLandFollowsRecords : Obligations.alertLandFollowsRecords :=
  ⟨fun s code items => issue_alert code items s, fun _ => rfl⟩

/-- Settles O51: the count of `MG_CONTAIN` and the record of event 0x0F01. -/
theorem furtherCauseIsCounted : Obligations.furtherCauseIsCounted := by
  refine ⟨fun s cause held => ?_, fun _ _ => rfl⟩
  rw [contain_again held cause, containAgain_eq]
  generalize [i1 cause, i1 (b2n (running s)), i1 1] = items
  obtain ⟨u, hu⟩ : ∃ u : State, u = { s with mg := causeCounted s.mg } := ⟨_, rfl⟩
  have mg : u.mg = causeCounted s.mg := by rw [hu]
  have moved : Keeps [.hi, .mg] s u := fun p hp => by subst hu; cases p <;> simp [samePart] at hp ⊢
  have contained : u.mg.contained = true := by rw [mg, causeCounted, (withContain_kept _ s.mg).2.2.2.2, held]
  obtain ⟨cause_, time, count⟩ := causeCounted_contain s.mg
  obtain ⟨queued, second⟩ := causeCounted_issued mg items
  rw [← mg, ← issue_containWord 0x0F01 items u] at cause_ time count
  rw [← hu]
  exact ⟨(issue_contained 0x0F01 items u).trans contained, cause_, time, count, queued, second,
    moved.trans (issue_keeps 0x0F01 items u)⟩
end

section
/-! SUPPORT. The event log on its way (R408 to R410, R470): the drain, the persisted copy, the diagnostic snapshot, `MG_LOG_READ` (R424) and
`MG_RELEASE` (R415); the statement on them. -/

namespace Sys2Proof.Machine

open Sys2Proof

/-- The core awake, or its PLL stopped. -/
def setAwake (b : Bool) (s : State) : State := { s with mg := { s.mg with awake := b } }

theorem setAwake_keeps (b : Bool) (s : State) : Keeps [.mg] s (setAwake b s) := setMg_keeps _ s

/-- A settled core changes no more than whether it is awake. -/
theorem settled_row {c : Instr} {s t : State} (row : exec c s = .next (coreSettle t)) : ∃ b, exec c s = .next (setAwake b t) := by
  rw [row]
  unfold coreSettle
  split
  · exact ⟨t.mg.awake, rfl⟩
  · exact ⟨false, rfl⟩

/-! ### The drain (R408) -/

/-- The highest queue that holds a record gives its oldest. -/
theorem firstQueued_highest {g : MG} {i : Fin 4} {r : EventRec} {l : List EventRec} (here : g.queues[i] = r :: l)
    (above : ∀ j : Fin 4, i < j → g.queues[j] = []) : firstQueued g = some (r, vset g.queues i l) := by
  have three (h : i < 3) := above 3 h
  have two (h : i < 2) := above 2 h
  have one (h : i < 1) := above 1 h
  match i, here, three, two, one with
  | 3, here, _, _, _ => simp only [firstQueued, List.foldl, here]
  | 2, here, three, _, _ => simp only [firstQueued, List.foldl, here, three (by decide)]
  | 1, here, three, two, _ => simp only [firstQueued, List.foldl, here, three (by decide), two (by decide)]
  | 0, here, three, two, one => simp only [firstQueued, List.foldl, here, three (by decide), two (by decide), one (by decide)]

/-- The core awake, with a record taken from the queues. -/
def recordTaken (q : Vector (List EventRec) 4) (s : State) : State := { s with mg := { s.mg with queues := q, awake := true } }

theorem exec_eventLogDrain {s : State} {r : EventRec} {q : Vector (List EventRec) 4} (first : firstQueued s.mg = some (r, q)) :
    exec .eventLogDrain s = .next (coreSettle (drainRec r (recordTaken q s))) := by
  change execEventLogDrain s = _
  rw [execEventLogDrain, first]
  rfl

/-- The SRAM log with one more record, where it has room. -/
def logTook (r : EventRec) (s : State) : State := { s with mg := { s.mg with log := s.mg.log ++ [r] } }

/-- The copy of a record asked for. -/
def copyAsked (r : EventRec) (s : State) : State := { s with mg := { s.mg with toPersist := s.mg.toPersist ++ [r] } }

theorem askCopy_room {s : State} (room : s.mg.persisted < 256) (r : EventRec) : askCopy r s = copyAsked r s := if_neg (by omega)

/-- A fatal record that waits to be handled. -/
def fatalWaits (r : EventRec) (s : State) : State := { s with mg := { s.mg with fatalTodo := s.mg.fatalTodo ++ [r] } }

/-- What the steps of a drain change is the management state. -/
theorem drain_keeps (r : EventRec) (q : Vector (List EventRec) 4) (s : State) :
    Keeps [.mg] s (recordTaken q s) ∧ Keeps [.mg] s (logTook r s) ∧ Keeps [.mg] s (copyAsked r s) ∧ Keeps [.mg] s (fatalWaits r s) :=
  ⟨setMg_keeps _ s, setMg_keeps _ s, setMg_keeps _ s, setMg_keeps _ s⟩

section
variable {r : EventRec} {s : State} (room : s.mg.log.length < 4096)
include room

theorem log_room : (s.mg.log ++ [r]).drop (s.mg.log.length + 1 - 4096) = s.mg.log ++ [r] := by
  rw [Nat.sub_eq_zero_of_le (by omega), List.drop_zero]

theorem drainRec_low (low : r.sev ≤ 1) : drainRec r s = logTook r s := by
  rw [drainRec, log_room room, if_neg (by omega), if_neg (by omega)]
  rfl

theorem drainRec_error (error : r.sev = 2) : drainRec r s = askCopy r (logTook r s) := by
  rw [drainRec, log_room room, if_neg (by omega), if_pos error]
  rfl

/-- A fatal record issued during `DOUBLE` is neither copied nor handled. -/
theorem drainRec_inDouble (fatal : r.sev = 3) (during : r.inDouble = true) : drainRec r s = logTook r s := by
  rw [drainRec, log_room room, if_pos fatal, if_pos during]
  rfl

theorem drainRec_fatal (fatal : r.sev = 3) (before : r.inDouble = false) :
    drainRec r s = nextFatal (fatalWaits r (askCopy r (logTook r s))) := by
  rw [drainRec, log_room room, if_pos fatal, if_neg (by simp [before])]
  rfl

end

theorem nextFatal_double {s : State} (double : s.mg.double = true) : nextFatal s = s := by
  unfold nextFatal
  split
  · exact if_pos double
  · rfl

theorem nextFatal_empty {s : State} (none_ : s.mg.fatalTodo = []) : nextFatal s = s := by simp [nextFatal, none_]

theorem nextFatal_begins {s : State} {r : EventRec} {l : List EventRec} (idle : s.mg.fatal = none) (waits : s.mg.fatalTodo = r :: l)
    (single : s.mg.double = false) : nextFatal s = beginFatal r { s with mg := { s.mg with fatalTodo := l } } := by
  simp [nextFatal, idle, waits, single]

theorem nextFatal_keeps (s : State) : Keeps [.mg] s (nextFatal s) := by
  unfold nextFatal
  split
  · split
    · exact Keeps.refl _ s
    · exact setMg_keeps _ s
  · exact Keeps.refl _ s

/-- One record drained: what its severity asks for, and the core settles. -/
theorem exec_drain {s : State} {i : Fin 4} {r : EventRec} {l : List EventRec} (here : s.mg.queues[i] = r :: l)
    (above : ∀ j : Fin 4, i < j → s.mg.queues[j] = []) {t : State} (drains : drainRec r (recordTaken (vset s.mg.queues i l) s) = t)
    (kept : Keeps [.mg] (recordTaken (vset s.mg.queues i l) s) t) :
    ∃ b, exec .eventLogDrain s = .next (setAwake b t) ∧ Keeps [.mg] s (setAwake b t) := by
  obtain ⟨b, row⟩ := settled_row (exec_eventLogDrain (firstQueued_highest here above))
  obtain ⟨taken, -⟩ := drain_keeps r (vset s.mg.queues i l) s
  rw [drains] at row
  exact ⟨b, row, (taken.trans kept).trans (setAwake_keeps b t)⟩

/-- The state with a drained record in the log and its copy asked for. -/
def copyDue (r : EventRec) (q : Vector (List EventRec) 4) (s : State) : State := copyAsked r (logTook r (recordTaken q s))

theorem copyDue_keeps (r : EventRec) (q : Vector (List EventRec) 4) (s : State) : Keeps [.mg] (recordTaken q s) (copyDue r q s) := by
  obtain ⟨-, took, -⟩ := drain_keeps r q (recordTaken q s)
  obtain ⟨-, -, copied, -⟩ := drain_keeps r q (logTook r (recordTaken q s))
  exact took.trans copied

/-- The handling of a fatal record begun (R410): it waits for its copy. -/
def handling (r : EventRec) (s : State) : State :=
  { s with mg := { s.mg with fatalTodo := [], fatal := some { event := r, copied := false, snapped := false } } }

theorem beginFatal_asked (r : EventRec) (q : Vector (List EventRec) 4) (s : State) :
    beginFatal r { copyDue r q s with mg := { (copyDue r q s).mg with fatalTodo := [] } } = handling r (copyDue r q s) := by
  have found : ((s.mg.toPersist ++ [r]).any fun x => x.seq == r.seq) = true := by simp
  exact congrArg (fun c : Bool => { copyDue r q s with
    mg := { (copyDue r q s).mg with fatalTodo := [], fatal := some (Fatal.mk r (!c) false) } }) found

/-- What a record in the log leads to, with the SRAM log and the persisted log not full. -/
theorem drainRec_taken {s : State} {r : EventRec} (q : Vector (List EventRec) 4) (log : s.mg.log.length < 4096) (room : s.mg.persisted < 256) :
    (r.sev ≤ 1 ∨ r.sev = 3 ∧ r.inDouble = true → drainRec r (recordTaken q s) = logTook r (recordTaken q s))
      ∧ (r.sev = 2 → drainRec r (recordTaken q s) = copyDue r q s)
      ∧ (r.sev = 3 → r.inDouble = false → drainRec r (recordTaken q s) = nextFatal (fatalWaits r (copyDue r q s))) := by
  have logU : (recordTaken q s).mg.log.length < 4096 := log
  have roomU : (logTook r (recordTaken q s)).mg.persisted < 256 := room
  have asked : askCopy r (logTook r (recordTaken q s)) = copyDue r q s := askCopy_room roomU r
  refine ⟨fun plain => ?_, fun error => ?_, fun fatal before => ?_⟩
  · rcases plain with low | ⟨fatal, during⟩
    · exact drainRec_low logU low
    · exact drainRec_inDouble logU fatal during
  · rw [drainRec_error logU error, asked]
  · rw [drainRec_fatal logU fatal before, asked]

/-- What the oldest fatal record's turn leads to: while `DOUBLE` holds it waits, else it is handled at once. -/
theorem nextFatal_due {s : State} {r : EventRec} (q : Vector (List EventRec) 4) :
    (s.mg.double = true → nextFatal (fatalWaits r (copyDue r q s)) = fatalWaits r (copyDue r q s))
      ∧ (s.mg.fatal = none → s.mg.fatalTodo = [] → s.mg.double = false →
          nextFatal (fatalWaits r (copyDue r q s)) = handling r (copyDue r q s)) := by
  refine ⟨fun double => nextFatal_double double, fun idle none_ single => ?_⟩
  have todo : (fatalWaits r (copyDue r q s)).mg.fatalTodo = r :: [] := congrArg (· ++ [r]) none_
  have idleU : (fatalWaits r (copyDue r q s)).mg.fatal = none := idle
  have singleU : (fatalWaits r (copyDue r q s)).mg.double = false := single
  rw [nextFatal_begins idleU todo singleU]
  exact beginFatal_asked r q s

theorem fatal_keeps (r : EventRec) (q : Vector (List EventRec) 4) (s : State) :
    Keeps [.mg] (recordTaken q s) (fatalWaits r (copyDue r q s)) ∧ Keeps [.mg] (recordTaken q s) (handling r (copyDue r q s)) := by
  obtain ⟨-, -, -, waiting⟩ := drain_keeps r q (copyDue r q s)
  exact ⟨(copyDue_keeps r q s).trans waiting, (copyDue_keeps r q s).trans (setMg_keeps _ (copyDue r q s))⟩

/-- A record whose copy is asked for, in the management state. -/
theorem copyDue_mg (r : EventRec) (q : Vector (List EventRec) 4) (s : State) :
    (copyDue r q s).mg.queues = q ∧ (copyDue r q s).mg.log = s.mg.log ++ [r] ∧ (copyDue r q s).mg.toPersist = s.mg.toPersist ++ [r]
      ∧ (copyDue r q s).mg.fatal = s.mg.fatal ∧ (copyDue r q s).mg.fatalTodo = s.mg.fatalTodo := ⟨rfl, rfl, rfl, rfl, rfl⟩

theorem fatalWaits_mg (b : Bool) (r : EventRec) (s : State) :
    (setAwake b (fatalWaits r s)).mg.log = s.mg.log ∧ (setAwake b (fatalWaits r s)).mg.toPersist = s.mg.toPersist
      ∧ (setAwake b (fatalWaits r s)).mg.fatal = s.mg.fatal ∧ (setAwake b (fatalWaits r s)).mg.fatalTodo = s.mg.fatalTodo ++ [r] :=
  ⟨rfl, rfl, rfl, rfl⟩

theorem handling_mg (b : Bool) (r : EventRec) (s : State) :
    (setAwake b (handling r s)).mg.queues = s.mg.queues ∧ (setAwake b (handling r s)).mg.log = s.mg.log
      ∧ (setAwake b (handling r s)).mg.toPersist = s.mg.toPersist
      ∧ (setAwake b (handling r s)).mg.fatal = some { event := r, copied := false, snapped := false } := ⟨rfl, rfl, rfl, rfl⟩

/-! ### The persisted copy (R409, R440) -/

theorem exec_persistCopy (ok : Bool) (s : State) : exec (.persistCopy ok) s = .next (coreSettle (persistOne ok s)) := rfl

/-- Where the next record of the persisted log goes. -/
def copyPlace (s : State) : Nat := 0x020000 + 64 * s.mg.persisted

/-- The copy of the oldest waiting record made. -/
def copyMade (r : EventRec) (l : List EventRec) (s : State) : State :=
  { s with
    bt := { s.bt with flash := memWrite 0xFF s.bt.flash (copyPlace s) (eventBytes { r with persist := true }) }
    mg := { s.mg with toPersist := l, persisted := s.mg.persisted + 1, log := markPersist r.seq s.mg.log, fatal := none } }

theorem setBtMg_keeps (b : BT) (g : MG) (s : State) : Keeps [.bt, .mg] s { s with bt := b, mg := g } := by
  intro p hp
  cases p <;> simp [samePart] at hp ⊢

theorem copyMade_mg (r : EventRec) (l : List EventRec) (s : State) :
    (copyMade r l s).mg.persisted = s.mg.persisted + 1 ∧ (copyMade r l s).mg.toPersist = l := by
  unfold copyMade
  exact ⟨rfl, rfl⟩

theorem copyMade_keeps (r : EventRec) (l : List EventRec) (s : State) : Keeps [.bt, .mg] s (copyMade r l s) := setBtMg_keeps _ _ s

/-- A flash operation that failed its read-back (R440). -/
def flashErred (s : State) : State := { s with bt := { s.bt with flashErr := true, fresh := freshen s 4 s.bt.fresh } }

theorem setBt_keeps (b : BT) (s : State) : Keeps [.bt] s { s with bt := b } := by
  intro p hp
  cases p <;> simp [samePart] at hp ⊢

section
variable {s : State} {r : EventRec} {l : List EventRec} (waits : s.mg.toPersist = r :: l) (room : s.mg.persisted < 256)
include waits room

theorem persistOne_made (idle : s.mg.fatal = none) : persistOne true s = copyMade r l s := by
  have none_ : s.mg.fatal.map (fun f => if f.event.seq = r.seq then { f with copied := true } else f) = none := by rw [idle]; rfl
  simp only [persistOne, waits]
  rw [if_neg (by omega), if_neg (by simp), none_]
  rfl

theorem persistOne_failed : persistOne false s = issue 0x100A [i8 (copyPlace s)] (flashErred s) := by
  simp only [persistOne, waits]
  rw [if_neg (by omega), if_pos (by simp)]
  rfl

end

/-! ### The diagnostic snapshot (R410, R470) -/

/-- The snapshot of the fatal record in handling taken. -/
def snapTaken (f : Fatal) (s : State) : State :=
  { s with mg := { s.mg with diag := diagImage f.event s, dseq := s.mg.dseq + 2, fatal := some { f with snapped := true } } }

theorem exec_diagSnapshot {s : State} {f : Fatal} (handled : s.mg.fatal = some f) (unsnapped : f.snapped = false) :
    exec .diagSnapshot s = .next (coreSettle (fatalCheck (snapTaken f s))) := by
  change execDiagSnapshot s = _
  simp only [execDiagSnapshot, handled, unsnapped]
  rfl

/-- The handling of a fatal record ended. -/
def fatalDone (s : State) : State := { s with mg := { s.mg with fatal := none } }

theorem fatalCheck_waits {s : State} {f : Fatal} (handled : s.mg.fatal = some f) (waits : f.copied = false) : fatalCheck s = s := by
  simp [fatalCheck, handled, waits]

theorem fatalCheck_done {s : State} {f : Fatal} (handled : s.mg.fatal = some f) (copied : f.copied = true) (snapped : f.snapped = true) :
    fatalCheck s = match s.mg.second with
      | some c => enterDouble c (fatalDone s)
      | none => nextFatal (fatalDone s) := by
  simp only [fatalCheck, handled, copied, snapped]
  rfl

theorem abortCmd_mg (s : State) (e : Exec) : (abortCmd s e).mg = s.mg := by simp [abortCmd]

/-- Only a fatal event is one that `DOUBLE` follows. -/
theorem issue_second_low {code : Nat} (low : severity code ≠ 3) (items : List Item) (s : State) :
    (issue code items s).mg.second = s.mg.second := by
  rw [issue_second, logged, noteFatal, if_neg fun h => low h.1]
  rfl

/-- The state in which `DOUBLE` is set, before its event. -/
def doubled (s : State) : State := { s with mg := { s.mg with double := true, second := none } }

/-- `DOUBLE` entered: no second record is kept, and the records that wait stay so. -/
theorem enterDouble_mg (code : Nat) (s : State) :
    (enterDouble code s).mg.double = true ∧ (enterDouble code s).mg.second = none ∧ (enterDouble code s).mg.fatal = s.mg.fatal
      ∧ (enterDouble code s).mg.fatalTodo = s.mg.fatalTodo := by
  have mg : (enterDouble code s).mg = (issue 0x0F03 [i2 code] (errIrq (errsum s) (doubled s))).mg := foldl_keeps State.mg abortCmd_mg _ _
  have log : logless (issue 0x0F03 [i2 code] (errIrq (errsum s) (doubled s))) = logless (doubled s) := by
    rw [issue_logless, errIrq_logless]
  have second := issue_second_low (code := 0x0F03) (by decide) [i2 code] (errIrq (errsum s) (doubled s))
  rw [errIrq_mg] at second
  rw [mg]
  exact ⟨mg_of_logless (f := MG.double) (s := doubled s) (fun _ => rfl) log, second,
    mg_of_logless (f := MG.fatal) (s := doubled s) (fun _ => rfl) log,
    mg_of_logless (f := MG.fatalTodo) (s := doubled s) (fun _ => rfl) log⟩

/-! ### `MG_LOG_READ` (R424) -/

theorem mem_insertSeq {r x : Nat × List Byte} {l : List (Nat × List Byte)} (h : x ∈ insertSeq r l) : x = r ∨ x ∈ l := by
  induction l with
  | nil => simpa [insertSeq] using h
  | cons y l ih =>
    rw [insertSeq] at h
    split at h
    · simpa using h
    · rcases List.mem_cons.mp h with here | later
      · exact .inr (here ▸ List.mem_cons_self)
      · exact (ih later).imp_right (List.mem_cons_of_mem _)

/-- The records put in order are those given. -/
theorem mem_inOrder {l : List (Nat × List Byte)} {x : Nat × List Byte} (h : x ∈ l.foldl (fun m r => insertSeq r m) []) : x ∈ l := by
  have all : ∀ y ∈ l.foldl (fun m r => insertSeq r m) [], y ∈ l :=
    List.foldlRecOn (motive := fun m => ∀ y ∈ m, y ∈ l) l _ (by simp) fun m k r hr y hy =>
      (mem_insertSeq hy).elim (fun same => same ▸ hr) (k y)
  exact all x h

/-- The records that `MG_LOG_READ` picks from. -/
def logSource (e : Exec) (s : State) : List (Nat × List Byte) := if payF e 8 1 = 1 then flashRecords s else sramRecords s

/-- The records that it returns: from the lowest `SEQ` asked for on, as many as asked for at most. -/
def logPicked (e : Exec) (s : State) : List (Nat × List Byte) :=
  (((logSource e s).foldl (fun m r => insertSeq r m) []).filter fun r => decide (payF e 16 8 ≤ r.1)).take (payF e 10 2)

theorem logSource_length {e : Exec} {s : State} {x : Nat × List Byte} (h : x ∈ logSource e s) : x.2.length = 64 := by
  unfold logSource at h
  split at h
  · obtain ⟨i, -, rfl⟩ := List.mem_map.mp h
    exact memRead_length ..
  · obtain ⟨r, -, rfl⟩ := List.mem_map.mp h
    exact eventBytes_length r

theorem logPicked_length (e : Exec) (s : State) : (logPicked e s).length ≤ payF e 10 2 := List.length_take_le _ _

/-- Each record takes 64 bytes. -/
theorem logPicked_bytes (e : Exec) (s : State) : ((logPicked e s).flatMap fun r => r.2).length = 64 * (logPicked e s).length := by
  have each : ∀ x ∈ logPicked e s, x.2.length = 64 := fun x hx =>
    logSource_length (mem_inOrder (List.mem_of_mem_filter (List.mem_of_mem_take hx)))
  rw [List.length_flatMap, List.map_congr_left each, List.map_const', List.sum_replicate, smul_eq_mul, Nat.mul_comm]

/-- The result of `MG_LOG_READ`. -/
def logData (e : Exec) (s : State) : List Byte :=
  leBytes 4 (logPicked e s).length ++ leBytes 4 s.mg.notKept ++ leBytes 8 (((logPicked e s).getLast?.map fun r => r.1).getD 0)

/-- With nothing to clear, the records are written and the count answered. -/
theorem logRead_plain {e : Exec} (keep : payF e 9 1 = 0) (s : State) :
    logRead e s = answer e eOk (logData e s) (hostWrite (payF e 0 8) ((logPicked e s).flatMap fun r => r.2) s) := by
  rw [logRead, keep]
  rfl

theorem exec_mgLogRead {s : State} {tag : W16} {e : Exec} (runs : executing 0x0F02 tag s = some e) :
    exec (.mgLogRead tag) s = .next (mgLogReadCmd e s) := congrArg Host.Outcome.next (runCmd_some runs _)

theorem mgLogReadCmd_good {e : Exec} (s : State) (aligned : payF e 0 8 % 64 = 0) (source : payF e 8 1 ≤ 1) (keep : payF e 9 1 = 0)
    (some_ : 1 ≤ payF e 10 2) (most : payF e 10 2 ≤ 4096) (rest : payZero e 12 4 = true) (rest' : payZero e 24 24 = true) :
    mgLogReadCmd e s = logRead e s := by
  have range : ¬ (1 < payF e 8 1 ∨ 3 < payF e 9 1 ∨ payF e 10 2 = 0 ∨ 4096 < payF e 10 2) := by omega
  rw [mgLogReadCmd, checked_pass, checked_nil]
  rw [decide_eq_false range]
  simp [aligned, keep, rest, rest', bitAt]

/-! ### `MG_RELEASE` (R415) -/

theorem exec_mgRelease {s : State} {tag : W16} {e : Exec} (runs : executing 0x0F04 tag s = some e) :
    exec (.mgRelease tag) s = .next (mgReleaseCmd e s) := congrArg Host.Outcome.next (runCmd_some runs _)

/-- Containment ended, before the next fatal record is handled. -/
def releasedContain (s : State) : State :=
  { s with mg := { s.mg with contained := false, double := false, railNamed := .replicate 24 false } }

/-- The event of a release, with the cause and the count that `MG_CONTAIN` showed. -/
def releaseEvent (s : State) : State :=
  issue 0x0F02 [i1 (fld s.mg.contain.toNat 62 56), i1 (fld s.mg.contain.toNat 55 48)] (nextFatal (releasedContain s))

theorem mgReleaseCmd_releases {e : Exec} {s : State} (idle : e.idle = true) (cool : (stillHot s || railStillOut s) = false)
    (agrees : s.en.state ≠ .discord) : mgReleaseCmd e s = answer e eOk [] (releaseEvent s) := by
  have agrees' : (s.en.state == .discord) = false := by simpa using agrees
  rw [mgReleaseCmd, checked_pass (by rw [idle]; rfl), checked_pass (by rw [cool, agrees']; rfl), checked_nil]
  rfl

/-- An effect that leaves no more than traces on the host interface, and then the completion (R382). -/
theorem answer_traced (e : Exec) (status : Nat) (data : List Byte) {s t : State} (h : withTrace s.hi t.hi = s.hi) :
    Replied e status data s (answer e status data t) := by
  have cpls : (withTrace s.hi t.hi).cpls = s.hi.cpls := congrArg HI.cpls h
  change t.hi.cpls = s.hi.cpls at cpls
  constructor
  · rw [answer_cpls, cpls]
    rfl
  · exact congrArg (fun x : HI => { x with cpls := s.hi.cpls }) h

end Sys2Proof.Machine

open Sys2Proof Sys2Proof.Machine

/-- The oldest record of the highest severity, drained with nothing further to handle. -/
theorem eventLogDrain_plain (s : State) (i : Fin 4) (r : EventRec) (l : List EventRec) (here : s.mg.queues[i] = r :: l)
    (above : ∀ j : Fin 4, i < j → s.mg.queues[j] = []) (log : s.mg.log.length < 4096) (kept : s.mg.persisted < 256) :
    (r.sev ≤ 1 → ∃ t, exec .eventLogDrain s = .next t ∧ t.mg.queues = vset s.mg.queues i l ∧ t.mg.log = s.mg.log ++ [r]
        ∧ t.mg.toPersist = s.mg.toPersist ∧ Keeps [.mg] s t)
    ∧ (r.sev = 2 → ∃ t, exec .eventLogDrain s = .next t ∧ t.mg.queues = vset s.mg.queues i l ∧ t.mg.log = s.mg.log ++ [r]
        ∧ t.mg.toPersist = s.mg.toPersist ++ [r] ∧ Keeps [.mg] s t)
    ∧ (r.sev = 3 → r.inDouble = true → ∃ t, exec .eventLogDrain s = .next t ∧ t.mg.queues = vset s.mg.queues i l
        ∧ t.mg.log = s.mg.log ++ [r] ∧ t.mg.toPersist = s.mg.toPersist ∧ t.mg.fatal = s.mg.fatal ∧ t.mg.fatalTodo = s.mg.fatalTodo
        ∧ Keeps [.mg] s t) := by
  obtain ⟨logs, copies, -⟩ := drainRec_taken (r := r) (vset s.mg.queues i l) log kept
  obtain ⟨-, took, -⟩ := drain_keeps r (vset s.mg.queues i l) (recordTaken (vset s.mg.queues i l) s)
  refine ⟨fun low => ?_, fun error => ?_, fun fatal during => ?_⟩
  · obtain ⟨b, row, keeps⟩ := exec_drain here above (logs (.inl low)) took
    exact ⟨_, row, rfl, rfl, rfl, keeps⟩
  · obtain ⟨b, row, keeps⟩ := exec_drain here above (copies error) (copyDue_keeps r _ s)
    exact ⟨_, row, rfl, rfl, rfl, keeps⟩
  · obtain ⟨b, row, keeps⟩ := exec_drain here above (logs (.inr ⟨fatal, during⟩)) took
    exact ⟨_, row, rfl, rfl, rfl, rfl, rfl, keeps⟩

/-- A fatal record drained, by the state of `DOUBLE` and of the fatal record before it. -/
theorem eventLogDrain_fatal (s : State) (i : Fin 4) (r : EventRec) (l : List EventRec) (here : s.mg.queues[i] = r :: l)
    (above : ∀ j : Fin 4, i < j → s.mg.queues[j] = []) (log : s.mg.log.length < 4096) (kept : s.mg.persisted < 256) :
    (r.sev = 3 → r.inDouble = false → s.mg.double = true → ∃ t, exec .eventLogDrain s = .next t ∧ t.mg.log = s.mg.log ++ [r]
        ∧ t.mg.toPersist = s.mg.toPersist ++ [r] ∧ t.mg.fatal = s.mg.fatal ∧ t.mg.fatalTodo = s.mg.fatalTodo ++ [r] ∧ Keeps [.mg] s t)
    ∧ (r.sev = 3 → r.inDouble = false → s.mg.fatal = none → s.mg.fatalTodo = [] → s.mg.double = false →
        ∃ t, exec .eventLogDrain s = .next t ∧ t.mg.queues = vset s.mg.queues i l ∧ t.mg.log = s.mg.log ++ [r]
        ∧ t.mg.toPersist = s.mg.toPersist ++ [r] ∧ t.mg.fatal = some { event := r, copied := false, snapped := false }
        ∧ Keeps [.mg] s t) := by
  obtain ⟨-, -, fatals⟩ := drainRec_taken (r := r) (vset s.mg.queues i l) log kept
  obtain ⟨waits, handles⟩ := nextFatal_due (s := s) (r := r) (vset s.mg.queues i l)
  obtain ⟨waiting, handled⟩ := fatal_keeps r (vset s.mg.queues i l) s
  obtain ⟨queues, logged_, copied, held, todo⟩ := copyDue_mg r (vset s.mg.queues i l) s
  refine ⟨fun fatal before double => ?_, fun fatal before free none_ single => ?_⟩
  · obtain ⟨b, row, keeps⟩ := exec_drain here above ((fatals fatal before).trans (waits double)) waiting
    obtain ⟨sameLog, sameCopies, sameFatal, oneMore⟩ := fatalWaits_mg b r (copyDue r (vset s.mg.queues i l) s)
    exact ⟨_, row, sameLog.trans logged_, sameCopies.trans copied, sameFatal.trans held, oneMore.trans (congrArg (· ++ [r]) todo), keeps⟩
  · obtain ⟨b, row, keeps⟩ := exec_drain here above ((fatals fatal before).trans (handles free none_ single)) handled
    obtain ⟨sameQueues, sameLog, sameCopies, begun⟩ := handling_mg b r (copyDue r (vset s.mg.queues i l) s)
    exact ⟨_, row, sameQueues.trans queues, sameLog.trans logged_, sameCopies.trans copied, begun, keeps⟩

/-- The persisted copy of the oldest record that waits, programmed or failed. -/
theorem persistCopy_rows (s : State) (r : EventRec) (l : List EventRec) (waits : s.mg.toPersist = r :: l) (room : s.mg.persisted < 256)
    (idle : s.mg.fatal = none) (wf : Memory.wf 0xFF s.bt.flash = true) :
    let a := 0x020000 + 64 * s.mg.persisted
    (∃ t, exec (.persistCopy true) s = .next t ∧ flashRead t a 64 = eventBytes { r with persist := true }
        ∧ (∀ x, (x < a ∨ a + 64 ≤ x) → memGet 0xFF t.bt.flash x = memGet 0xFF s.bt.flash x)
        ∧ t.mg.persisted = s.mg.persisted + 1 ∧ t.mg.toPersist = l ∧ Keeps [.bt, .mg] s t)
    ∧ ∃ t, exec (.persistCopy false) s = .next t ∧ t.bt = { s.bt with flashErr := true, fresh := t.bt.fresh } ∧ t.mg.toPersist = r :: l
        ∧ t.mg.persisted = s.mg.persisted ∧ Keeps [.bt, .hi, .mg] s t := by
  have place := memRead_memWrite 0xFF s.bt.flash (copyPlace s) (eventBytes { r with persist := true }) wf
  rw [eventBytes_length] at place
  have made := exec_persistCopy true s
  have failed := exec_persistCopy false s
  rw [persistOne_made waits room idle] at made
  rw [persistOne_failed waits room] at failed
  obtain ⟨b, made⟩ := settled_row made
  obtain ⟨c, failed⟩ := settled_row failed
  refine ⟨⟨_, made, place, fun x apart => ?_, (copyMade_mg r l s).1, (copyMade_mg r l s).2,
    (copyMade_keeps r l s).trans ((setAwake_keeps b _).mono (by simp))⟩, _, failed, ?_⟩
  · exact memGet_memWrite_other 0xFF _ _ _ x wf (by rw [eventBytes_length]; exact apart)
  · have log : logless (issue 0x100A [i8 (copyPlace s)] (flashErred s)) = logless s := issue_logless ..
    have bt : (issue 0x100A [i8 (copyPlace s)] (flashErred s)).bt = (flashErred s).bt := by simp
    have keeps : Keeps [.bt, .hi, .mg] s (issue 0x100A [i8 (copyPlace s)] (flashErred s)) :=
      ((setBt_keeps _ s).mono (by simp)).trans ((issue_keeps _ _ _).mono (by simp))
    generalize issue 0x100A [i8 (copyPlace s)] (flashErred s) = u at log bt keeps
    refine ⟨?_, (mg_of_logless (t := u) (f := MG.toPersist) (fun _ => rfl) log).trans waits,
      mg_of_logless (t := u) (f := MG.persisted) (fun _ => rfl) log,
      keeps.trans ((setAwake_keeps c u).mono (by simp))⟩
    change u.bt = { s.bt with flashErr := true, fresh := u.bt.fresh }
    rw [bt]
    rfl

/-- The snapshot of a fatal record by what is left to do for it. -/
theorem diagSnapshot_rows (s : State) (f : Fatal) (handled : s.mg.fatal = some f) (unsnapped : f.snapped = false) :
    (f.copied = false → ∃ t, exec .diagSnapshot s = .next t ∧ t.mg.dseq = s.mg.dseq + 2 ∧ t.mg.fatal = some { f with snapped := true }
        ∧ t.mg.double = s.mg.double ∧ Keeps [.mg] s t)
    ∧ (f.copied = true → s.mg.second = none → s.mg.fatalTodo = [] → ∃ t, exec .diagSnapshot s = .next t ∧ t.mg.dseq = s.mg.dseq + 2
        ∧ t.mg.fatal = none ∧ t.mg.double = s.mg.double ∧ Keeps [.mg] s t)
    ∧ ∀ c, f.copied = true → s.mg.second = some c → ∃ t, exec .diagSnapshot s = .next t ∧ t.mg.double = true ∧ t.mg.fatal = none
        ∧ t.mg.fatalTodo = s.mg.fatalTodo ∧ t.mg.second = none := by
  have taken : Keeps [.mg] s (snapTaken f s) := setMg_keeps _ s
  have handled' : (snapTaken f s).mg.fatal = some { f with snapped := true } := rfl
  have row := exec_diagSnapshot handled unsnapped
  refine ⟨fun waits => ?_, fun copied first none_ => ?_, fun c copied again => ?_⟩
  · rw [fatalCheck_waits handled' waits] at row
    obtain ⟨b, row⟩ := settled_row row
    exact ⟨_, row, rfl, rfl, rfl, taken.trans (setAwake_keeps b _)⟩
  · have second : (snapTaken f s).mg.second = none := first
    have todo : (fatalDone (snapTaken f s)).mg.fatalTodo = [] := none_
    rw [fatalCheck_done handled' copied rfl, second] at row
    dsimp only at row
    rw [nextFatal_empty todo] at row
    obtain ⟨b, row⟩ := settled_row row
    exact ⟨_, row, rfl, rfl, rfl, (taken.trans (setMg_keeps _ _)).trans (setAwake_keeps b _)⟩
  · have second : (snapTaken f s).mg.second = some c := again
    rw [fatalCheck_done handled' copied rfl, second] at row
    obtain ⟨b, row⟩ := settled_row row
    obtain ⟨double, gone, fatal, todo⟩ := enterDouble_mg c (fatalDone (snapTaken f s))
    exact ⟨_, row, double, fatal, todo, gone⟩

/-- Settles O53: by the room in the queues, by the severity of the drained record, by what copy and snapshot leave, and by the checks of the two
commands. -/
theorem eventLogKept : Obligations.eventLogKept := by
  refine ⟨fun s code items => ?_, fun s i r l here above log kept => ?_, persistCopy_rows, diagSnapshot_rows,
    fun s tag e runs aligned source keep some_ most rest rest' wf => ?_, fun s tag e runs => ?_⟩
  · refine ⟨issue_keeps code items s, fun room => ?_, fun full before => ?_⟩
    · obtain ⟨queue, lost⟩ := logged_queue room items
      rw [issue_room room items]
      exact ⟨logged_seq code items s, lost, _, queue, rfl, rfl, rfl, rfl, rfl, rfl, rfl⟩
    · rw [issue_dropped before items]
      rw [evQueue_eq (severity_lt code)] at full
      obtain ⟨queues, -, lost, -⟩ := noteFatal_queues code (enqueue (eventRec code items s) s.mg)
      obtain ⟨same, counted_⟩ := enqueue_full (r := eventRec code items s) full
      refine ⟨logged_seq code items s, queues.trans same, ?_⟩
      rw [logged, lost, counted_]
      exact vupd_self _ _ _
  · obtain ⟨low, error, during⟩ := eventLogDrain_plain s i r l here above log kept
    exact ⟨low, error, during, eventLogDrain_fatal s i r l here above log kept⟩
  · have few := logPicked_length e s
    have count : fieldAt (logData e s) 0 4 = (logPicked e s).length := by
      rw [logData, List.append_assoc, fieldAt_leBytes_append, Nat.mod_eq_of_lt (by omega)]
    have row := exec_mgLogRead runs
    rw [mgLogReadCmd_good s aligned source keep some_ most rest rest', logRead_plain keep] at row
    have wrote := hostWrite_keeps (payF e 0 8) ((logPicked e s).flatMap fun r => r.2) s
    refine ⟨_, logData e s, row, answer_after e eOk _ wrote (by decide), by omega, fun x apart => ?_, answer_after_keeps e eOk _ wrote⟩
    exact memGet_memWrite_other 0 _ _ _ x wf (by rw [logPicked_bytes, ← count]; exact apart)
  · rw [exec_mgRelease runs]
    refine ⟨fun busy => ?_, fun idle stands => ?_, fun idle cool agrees => ?_⟩
    · rw [mgReleaseCmd, checked_fail (by rw [busy]; rfl)]
      exact ⟨_, rfl, answer_answered e eBusy [] s, answer_keeps e eBusy [] s⟩
    · rw [mgReleaseCmd, checked_pass (by rw [idle]; rfl), checked_fail stands]
      exact ⟨_, rfl, answer_answered e eState [] s, answer_keeps e eState [] s⟩
    · rw [mgReleaseCmd_releases idle cool agrees]
      have hi : (nextFatal (releasedContain s)).hi = s.hi := nextFatal_keeps (releasedContain s) .hi (by decide)
      have mg : (nextFatal (releasedContain s)).mg.contained = false ∧ (nextFatal (releasedContain s)).mg.double = false := by
        unfold nextFatal
        split
        · split <;> exact ⟨rfl, rfl⟩
        · exact ⟨rfl, rfl⟩
      have keeps : Keeps [.hi, .mg] s (releaseEvent s) :=
        ((setMg_keeps _ s).trans (nextFatal_keeps (releasedContain s))).mono (by simp) |>.trans (issue_keeps _ _ _)
      have log : logless (releaseEvent s) = logless (nextFatal (releasedContain s)) := issue_logless ..
      refine ⟨_, rfl, answer_traced e eOk [] (issue_hi _ _ s.hi _ (by rw [hi]; rfl)), ?_, ?_,
        keeps.trans ((answer_keeps e eOk [] _).mono (by simp))⟩
      · exact (mg_of_logless (f := MG.contained) (fun _ => rfl) log).trans mg.1
      · exact (mg_of_logless (f := MG.double) (fun _ => rfl) log).trans mg.2
end

section
/-! SUPPORT. Debug unlock (R423), the reads of the SMBus target (R420), and power requests over SMBus (R418, R434); the statement on them. -/

namespace Sys2Proof.Machine

open Sys2Proof

/-! ### `MG_DBG_UNLOCK` (R423) -/

theorem exec_mgDbgUnlockChallenge {s : State} {tag : W16} {e : Exec} (runs : executing 0x0F05 tag s = some e) :
    exec (.mgDbgUnlockChallenge tag) s = .next (challengeCmd e s) := congrArg Host.Outcome.next (runCmd_some runs _)

theorem exec_mgDbgUnlockToken {s : State} {tag : W16} {e : Exec} (runs : executing 0x0F05 tag s = some e) :
    exec (.mgDbgUnlockToken tag) s = .next (tokenCmd e s) := congrArg Host.Outcome.next (runCmd_some runs _)

/-- A challenge in force. -/
def challenged (s : State) : State :=
  { s with mg := { s.mg with challenge := some (BitVec.ofNat 128 (leNat (freeBytes 16 s))) }, freeCtr := s.freeCtr + 16 }

theorem setMgFree_keeps (g : MG) (n : Nat) (s : State) : Keeps [.mg, .freeCtr] s { s with mg := g, freeCtr := n } := by
  intro p hp
  cases p <;> simp [samePart] at hp ⊢

theorem challengeCmd_good {e : Exec} (inline : e.entry.indirect = false) (rest : payZero e 0 48 = true) (s : State) :
    challengeCmd e s = answer e eOk (freeBytes 16 s) (challenged s) := by
  rw [challengeCmd, if_neg (by simp [inline]), checked_pass (by rw [rest]; rfl), checked_nil]
  rfl

/-- The challenge ended, with debug unlocked or as it was. -/
def tokenTaken (ok : Bool) (s : State) : State := { s with mg := { s.mg with challenge := none, dbg := s.mg.dbg || ok } }

/-- The event of a token (R423). -/
def tokenEvent (ok : Bool) (s : State) : State :=
  if ok then issue 0x0F0D [i8 s.bt.serialReg.toNat] (tokenTaken ok s) else issue 0x0F0C [i1 1] (tokenTaken ok s)

theorem tokenCmd_eq {e : Exec} (indirect : e.entry.indirect = true) (s : State) :
    tokenCmd e s = answer e (if tokenOk e.ind s then eOk else eSig) [] (tokenEvent (tokenOk e.ind s) s) := by
  rw [tokenCmd, if_neg (by simp [indirect])]
  unfold tokenEvent tokenTaken
  cases tokenOk e.ind s <;> simp

theorem tokenEvent_logless (ok : Bool) (s : State) : logless (tokenEvent ok s) = logless (tokenTaken ok s) := by
  unfold tokenEvent
  split <;> exact issue_logless ..

theorem tokenEvent_mg (ok : Bool) (s : State) :
    (tokenEvent ok s).mg.dbg = (s.mg.dbg || ok) ∧ (tokenEvent ok s).mg.challenge = none :=
  ⟨mg_of_logless (f := MG.dbg) (s := tokenTaken ok s) (fun _ => rfl) (tokenEvent_logless ok s),
    mg_of_logless (f := MG.challenge) (s := tokenTaken ok s) (fun _ => rfl) (tokenEvent_logless ok s)⟩

theorem tokenEvent_keeps (ok : Bool) (s : State) : Keeps [.hi, .mg] s (tokenEvent ok s) := by
  have taken : Keeps [.hi, .mg] s (tokenTaken ok s) := (setMg_keeps _ s).mono (by simp)
  unfold tokenEvent
  split <;> exact taken.trans (issue_keeps _ _ _)

theorem tokenEvent_traces (ok : Bool) (s : State) : withTrace s.hi (tokenEvent ok s).hi = s.hi := by
  unfold tokenEvent
  split <;> exact issue_hi _ _ s.hi _ rfl

/-! ### The reads (R420, Table 16.10) -/

/-- The state in which the target forms a response. -/
def smbForms (s : State) : State := { s with mg := { s.mg with awake := true, smbWork := true } }

/-- The state with a response formed. -/
def smbFormed (l : List Byte) (s : State) : State := { s with mg := { s.mg with awake := true, smbWork := false, smbReply := l } }

theorem smbFormed_keeps (l : List Byte) (s : State) : Keeps [.mg] s (smbFormed l s) := setMg_keeps _ s

theorem smbRespond_eq (f : State → List Byte) (s : State) : smbRespond f s = coreSettle (smbFormed (f (smbForms s)) s) := rfl

/-- A response stands in the reply, and no more than the management state has changed. -/
theorem smbRespond_reply (f : State → List Byte) (s : State) :
    (smbRespond f s).mg.smbReply = f (smbForms s) ∧ Keeps [.mg] s (smbRespond f s) := by
  rw [smbRespond_eq]
  refine ⟨?_, (smbFormed_keeps _ s).trans (coreSettle_keeps _)⟩
  unfold coreSettle
  split <;> rfl

theorem exec_smbReadRecord_some {s : State} {r : EventRec} (last : lastError s = some r) :
    exec .smbReadRecord s = .next (smbRespond (fun _ => 0 :: eventBytes r) s) := by
  change execSmbReadRecord s = _
  rw [execSmbReadRecord, last]

theorem exec_smbReadRecord_none {s : State} (none_ : lastError s = none) :
    exec .smbReadRecord s = .next (takeFrees 64 (smbRespond (fun t => 0 :: freeBytes 64 t) s)) := by
  change execSmbReadRecord s = _
  rw [execSmbReadRecord, none_]

theorem setFree_keeps (n : Nat) (s : State) : Keeps [.freeCtr] s { s with freeCtr := n } := by
  intro p hp
  cases p <;> simp [samePart] at hp ⊢

theorem takeFrees_keeps (n : Nat) {s t : State} (h : Keeps [.mg] s t) : Keeps [.mg, .freeCtr] s (takeFrees n t) :=
  (h.mono (by simp)).trans ((setFree_keeps _ t).mono (by simp))

theorem frameSlots_length (s : State) (a n : Nat) : (frameSlots s a n).length = 2 * n := by
  simp [frameSlots, List.length_flatMap]
  omega

/-- Frames of slots that follow each other are one. -/
theorem frameSlots_append (s : State) (a n m : Nat) : frameSlots s a n ++ frameSlots s (a + n) m = frameSlots s a (n + m) := by
  simp [frameSlots, List.range_add, List.flatMap_map, Nat.add_assoc]

theorem fieldAt_cons (b : Byte) (l : List Byte) (o n : Nat) : fieldAt (b :: l) (o + 1) n = fieldAt l o n := rfl

theorem fieldAt_append (k : List Byte) (l : List Byte) (o n : Nat) : fieldAt (k ++ l) (k.length + o) n = fieldAt l o n := by
  rw [fieldAt, slice, List.drop_append, List.drop_eq_nil_of_le (by omega), List.nil_append, Nat.add_sub_cancel_left]
  rfl

/-- The reading of a slot stands at its place. -/
theorem frameSlots_field (s : State) (a : Nat) {n i : Nat} (inside : i < n) (l : List Byte) :
    fieldAt (frameSlots s a n ++ l) (2 * i) 2 = (readingAt s (a + i)).toNat := by
  obtain ⟨m, rfl⟩ : ∃ m, n = i + 1 + m := ⟨n - (i + 1), by omega⟩
  have before : (frameSlots s a i).length = 2 * i := by simp [frameSlots, List.length_flatMap]; omega
  have split_ : frameSlots s a (i + 1 + m)
      = frameSlots s a i ++ (leBytes 2 (readingAt s (a + i)).toNat ++ ((List.range m).map (i + 1 + ·)).flatMap
          fun j => leBytes 2 (readingAt s (a + j)).toNat) := by
    simp [frameSlots, List.range_add, List.flatMap_append, List.append_assoc]
  have small := (readingAt s (a + i)).isLt
  rw [split_, List.append_assoc, List.append_assoc, fieldAt, slice, List.drop_left' before, List.take_left' (leBytes_length _ _), leNat_leBytes_lt small]

/-- The power state and `CONTAINED` in `MG_STAT` (Table 16.12). -/
theorem mgStat_fields (s : State) : mgStat s / 2 ^ 20 % 16 = pstate s % 16 ∧ (mgStat s).testBit 15 = s.mg.contained := by
  have bits (b : Bool) : b2n b ≤ 1 := by cases b <;> decide
  obtain ⟨hi, hhi⟩ : ∃ h, h = b2n (s.mg.pwr.isSome || s.hi.exec.any fun e => e.entry.opcode == 0x0F01#16) * 8 + b2n s.mg.dbg * 4
      + b2n s.mg.fastStop * 2
    + b2n s.mg.double := ⟨_, rfl⟩
  obtain ⟨lo, hlo⟩ : ∃ l, l = b2n s.mg.thermWarn * 4 + b2n s.mg.railErr * 2 + b2n s.mg.awake := ⟨_, rfl⟩
  have value : mgStat s = pstate s * 2 ^ 20 + hi * 2 ^ 16 + b2n s.mg.contained * 2 ^ 15 + lo * 2 ^ 12 := by
    simp only [mgStat, pack, List.foldl, bit, hhi, hlo]
    ring
  have hiLt : hi < 16 := by
    have := bits (s.mg.pwr.isSome || s.hi.exec.any fun e => e.entry.opcode == 0x0F01#16)
    have := bits s.mg.dbg
    have := bits s.mg.fastStop
    have := bits s.mg.double
    omega
  have loLt : lo < 8 := by
    have := bits s.mg.thermWarn
    have := bits s.mg.railErr
    have := bits s.mg.awake
    omega
  have contained := bits s.mg.contained
  refine ⟨by omega, ?_⟩
  have at15 : mgStat s / 2 ^ 15 % 2 = b2n s.mg.contained := by omega
  rw [Nat.testBit_eq_decide_div_mod_eq, at15]
  cases s.mg.contained <;> rfl

theorem mgTemp_lt (s : State) : mgTemp s < 256 ^ 4 := by
  have stack := s.mg.tstack.isLt
  have die := s.mg.tj.isLt
  simp only [mgTemp, pack, List.foldl]
  omega

/-! ### Power requests (R418, R420) -/

theorem exec_smbPwrSet (n : Byte) (s : State) :
    exec (.smbPwrSet n) s = .next (coreSettle (smbPwr n.toNat (setAwake true s))) := rfl

section
variable {s : State} {n : Nat} (free : s.mg.pwr = none) (others : ∀ e ∈ s.hi.exec, e.entry.opcode ≠ 0x0F01#16)
include free others

theorem smbPwr_free : smbPwr n s = match (pwrChecks n s).find? fun c => c.1 with
    | some (_, st) => smbStatus st s
    | none =>
      if execCount s ≠ 0 then { s with mg := { s.mg with smbWait := some n, smbWork := true } }
      else if n = s.mg.pstate then smbStatus eOk s else smbStatus eOk (pwrStart n none s) := by
  have silent : ¬ (s.mg.pwr.isSome = true ∨ (s.hi.exec.any fun e => e.entry.opcode == 0x0F01#16) = true) := by
    simpa [free] using others
  exact if_neg silent

/-- A request that a check refuses is answered with its status. -/
theorem smbPwr_refused {b : Bool} {st : Nat} (refused : ((pwrChecks n s).find? fun c => c.1) = some (b, st)) :
    smbPwr n s = smbStatus st s := by
  rw [smbPwr_free free others, refused]

/-- A request that no check refuses waits for executing commands, or is answered, with the transition it asks for. -/
theorem smbPwr_taken (taken : ((pwrChecks n s).find? fun c => c.1) = none) :
    smbPwr n s = if execCount s ≠ 0 then { s with mg := { s.mg with smbWait := some n, smbWork := true } }
      else if n = s.mg.pstate then smbStatus eOk s else smbStatus eOk (pwrStart n none s) := by
  rw [smbPwr_free free others, taken]

end

/-- What the checks of a request come to (R418, R434). -/
theorem pwrChecks_find (n : Nat) (s : State) :
    ((n = 0 ∨ 4 < n) → ((pwrChecks n s).find? fun c => c.1) = some (true, eInval))
      ∧ (1 ≤ n → n ≤ 4 → running s = true → ((pwrChecks n s).find? fun c => c.1) = some (true, eBusy))
      ∧ (1 ≤ n → n ≤ 4 → running s = false → s.bt.recovery = true → ((pwrChecks n s).find? fun c => c.1) = some (true, eState))
      ∧ (1 ≤ n → n ≤ 4 → running s = false → s.bt.recovery = false → (formed s = true → n = 1) → (n = 1 → p1Blocked s = false) →
          ((pwrChecks n s).find? fun c => c.1) = none) := by
  refine ⟨fun out => ?_, fun low high runs => ?_, fun low high idle recovers => ?_, fun low high idle awake formed_ cool => ?_⟩
  · simp [pwrChecks, out]
  · have legal : ¬ (n = 0 ∨ 4 < n) := by omega
    simp [pwrChecks, legal, runs]
  · have legal : ¬ (n = 0 ∨ 4 < n) := by omega
    simp [pwrChecks, legal, idle, recovers]
  · have legal : ¬ (n = 0 ∨ 4 < n) := by omega
    have may : (formed s && decide (2 ≤ n)) = false := by
      simp only [Bool.and_eq_false_imp, decide_eq_false_iff_not]
      exact fun is => by have := formed_ is; omega
    have cold : (decide (n = 1) && p1Blocked s) = false := by simpa using cool
    simp [pwrChecks, legal, idle, awake, may, cold]

theorem smbStatus_keeps (st : Nat) (s : State) : Keeps [.mg] s (smbStatus st s) := setMg_keeps _ s

end Sys2Proof.Machine

open Sys2Proof Sys2Proof.Machine

/-- Settles O54: by the phase and the token, by what each read puts in the reply, and by the checks of a power request. -/
theorem debugAndSmbus : Obligations.debugAndSmbus := by
  refine ⟨fun s tag e runs => ⟨fun inline rest => ?_, fun indirect => ?_⟩, fun s => ⟨?_, ?_, fun r last => ?_, fun none_ => ?_⟩,
    fun s n free others => ?_⟩
  · have row := exec_mgDbgUnlockChallenge runs
    rw [challengeCmd_good inline rest] at row
    have taken : Keeps [.mg, .freeCtr] s (challenged s) := setMgFree_keeps _ _ s
    exact ⟨_, freeBytes 16 s, row, answer_after e eOk _ taken (by decide), by simp [freeBytes], rfl, rfl, rfl, answer_after_keeps e eOk _ taken⟩
  · have row := exec_mgDbgUnlockToken runs
    rw [tokenCmd_eq indirect] at row
    obtain ⟨dbg, challenge⟩ := tokenEvent_mg (tokenOk e.ind s) s
    exact ⟨_, row, answer_traced e _ [] (tokenEvent_traces _ s), dbg, challenge,
      (tokenEvent_keeps _ s).trans ((answer_keeps e _ [] _).mono (by simp))⟩
  · obtain ⟨reply, keeps⟩ := smbRespond_reply (fun t => 0 :: (leBytes 4 (mgStat t) ++ leBytes 4 (mgTemp t))) s
    have row : exec .smbReadStatus s = .next _ := rfl
    obtain ⟨power, contained⟩ := mgStat_fields (smbForms s)
    have stat : fieldAt (smbRespond (fun t => 0 :: (leBytes 4 (mgStat t) ++ leBytes 4 (mgTemp t))) s).mg.smbReply 1 4
        = mgStat (smbForms s) % 2 ^ 32 := by
      rw [reply]
      exact (fieldAt_cons 0 _ 0 4).trans (fieldAt_leBytes_append 4 _ _)
    refine ⟨_, row, ?_, ?_, ?_, ?_, ?_, keeps⟩
    · rw [reply]; simp
    · rw [reply]; rfl
    · rw [reply]
      refine (fieldAt_cons 0 _ 4 4).trans ((fieldAt_append (leBytes 4 (mgStat (smbForms s))) _ 0 4).trans ?_)
      rw [← List.append_nil (leBytes 4 (mgTemp (smbForms s))), fieldAt_leBytes_append]
      exact Nat.mod_eq_of_lt (mgTemp_lt s)
    · rw [stat]
      change mgStat (smbForms s) / 2 ^ 20 % 16 = pstate s % 16 at power
      omega
    · rw [stat, Nat.testBit_mod_two_pow, contained]
      rfl
  · obtain ⟨reply, keeps⟩ := smbRespond_reply
      (fun t => 0 :: (frameSlots t 32 4 ++ frameSlots t 36 12 ++ frameSlots t (currentSlot t) 1)) s
    have row : exec .smbReadSensors s = .next _ := rfl
    refine ⟨_, row, ?_, ?_, keeps, fun i inside => ?_⟩
    · rw [reply]
      simp [frameSlots_length]
    · rw [reply]; rfl
    · rw [reply, Nat.add_comm 1, fieldAt_cons, frameSlots_append]
      exact frameSlots_field (smbForms s) 32 inside _
  · obtain ⟨reply, keeps⟩ := smbRespond_reply (fun _ => 0 :: eventBytes r) s
    exact ⟨_, exec_smbReadRecord_some last, reply, keeps⟩
  · obtain ⟨reply, keeps⟩ := smbRespond_reply (fun t => 0 :: freeBytes 64 t) s
    refine ⟨_, exec_smbReadRecord_none none_, ?_, ?_, takeFrees_keeps 64 keeps⟩
    · change (smbRespond _ s).mg.smbReply.length = 65
      rw [reply]
      simp [freeBytes]
    · exact congrArg (· + 64) (keeps .freeCtr (by decide))
  · obtain ⟨out, busy, recovers, taken⟩ := pwrChecks_find n.toNat (setAwake true s)
    have refused {st : Nat} (find : ((pwrChecks n.toNat (setAwake true s)).find? fun c => c.1) = some (true, st)) :
        ∃ t, exec (.smbPwrSet n) s = .next t ∧ t.mg.smbReply = [BitVec.ofNat 8 st] ∧ t.mg.pwr = none
          ∧ t.mg.pstate = s.mg.pstate ∧ Keeps [.mg] s t := by
      have row := exec_smbPwrSet n s
      rw [smbPwr_refused (s := setAwake true s) free others find] at row
      obtain ⟨b, row⟩ := settled_row row
      exact ⟨_, row, rfl, free, rfl, ((setAwake_keeps true s).trans (smbStatus_keeps st _)).trans (setAwake_keeps b _)⟩
    refine ⟨fun bad => ?_, fun low high runs => ?_, fun low high idle recovery => ?_, fun low high idle awake formed_ cool =>
      ⟨fun busy_ => ?_, fun quiet same => ?_, fun quiet other => ?_⟩⟩
    · obtain ⟨t, row, reply, pwr, -, keeps⟩ := refused (out bad)
      exact ⟨t, row, reply, pwr, keeps⟩
    · obtain ⟨t, row, reply, pwr, -, keeps⟩ := refused (busy low high runs)
      exact ⟨t, row, reply, pwr, keeps⟩
    · exact refused (recovers low high idle recovery)
    · obtain ⟨b, row⟩ := settled_row (exec_smbPwrSet n s)
      rw [smbPwr_taken (s := setAwake true s) free others (taken low high idle awake formed_ cool), if_pos (by exact busy_)] at row
      exact ⟨_, row, rfl, rfl, free, ((setAwake_keeps true s).trans (setMg_keeps _ _)).trans (setAwake_keeps b _)⟩
    · obtain ⟨b, row⟩ := settled_row (exec_smbPwrSet n s)
      rw [smbPwr_taken (s := setAwake true s) free others (taken low high idle awake formed_ cool),
        if_neg (show ¬ execCount (setAwake true s) ≠ 0 from not_not.mpr quiet),
        if_pos (by exact same)] at row
      exact ⟨_, row, rfl, free, ((setAwake_keeps true s).trans (smbStatus_keeps _ _)).trans (setAwake_keeps b _)⟩
    · obtain ⟨b, row⟩ := settled_row (exec_smbPwrSet n s)
      rw [smbPwr_taken (s := setAwake true s) free others (taken low high idle awake formed_ cool),
        if_neg (show ¬ execCount (setAwake true s) ≠ 0 from not_not.mpr quiet),
        if_neg (by exact other)] at row
      obtain ⟨pwr, state⟩ := pwrStart_asked n.toNat none (setAwake true s)
      refine ⟨_, row, rfl, pwr, fun down => ?_, state⟩
      change (pwrStart n.toNat none (setAwake true s)).pf.parked = true
      rw [pwrStart_down (s := setAwake true s) none down, parkOnce_parked]
end

section
/-! SUPPORT. The boot flash and its records (R426, R427), and the firmware-update commands (R437 to R440); the statement on them. -/

namespace Sys2Proof.Machine

open Sys2Proof

/-! ### The boot flash (R426) -/

/-- Outside an erased range a memory reads as before. -/
theorem memGet_memErase_other {d : Byte} {m : Mem} {z : Nat} (a n : Nat) {x : Nat} (wf : Memory.wfFrom d z m = true)
    (apart : x < a ∨ a + n ≤ x) : memGet d (memErase m a n) x = memGet d m x := by
  induction m generalizing z with
  | nil => rfl
  | cons c r ih =>
    obtain ⟨k, v⟩ := c
    simp only [Memory.wfFrom, Bool.and_eq_true, decide_eq_true_eq] at wf
    have rest : memGet d (memErase r a n) x = memGet d r x := ih wf.2
    by_cases kept : k < a ∨ a + n ≤ k
    · have cell : memErase ((k, v) :: r) a n = (k, v) :: memErase r a n := by simp [memErase, kept]
      rw [cell, memGet, memGet, rest]
    · have cell : memErase ((k, v) :: r) a n = memErase r a n := by simp only [memErase, List.filter_cons, kept, decide_false]; rfl
      rw [cell, memGet, if_neg (by omega)]
      split
      · exact memGet_below (wfFrom_filter _ wf.2) (by omega)
      · exact rest

/-- Bytes programmed read back, and outside their sectors the flash is as before. -/
theorem flashWrite_flash {s : State} (wf : Memory.wf 0xFF s.bt.flash = true) (a : Nat) (l : List Byte) :
    Memory.wf 0xFF (flashWrite a l s).bt.flash = true ∧ flashRead (flashWrite a l s) a l.length = l
      ∧ ∀ x, (x < a ∨ a + ceilTo 4096 l.length ≤ x) → memGet 0xFF (flashWrite a l s).bt.flash x = memGet 0xFF s.bt.flash x := by
  have erased := wf_memErase 0xFF s.bt.flash a (ceilTo 4096 l.length) wf
  refine ⟨wf_memWrite 0xFF _ _ _ erased, memRead_memWrite 0xFF _ a l erased, fun x apart => ?_⟩
  have covers : l.length ≤ ceilTo 4096 l.length := by unfold ceilTo; omega
  exact (memGet_memWrite_other 0xFF _ a l x erased (by omega)).trans (memGet_memErase_other a _ wf apart)

theorem flashWrite_keeps (a : Nat) (l : List Byte) (s : State) : Keeps [.bt] s (flashWrite a l s) := setBt_keeps _ s

/-! ### The boot record (R427) -/

theorem recBytes_length (r : BootRec) : (recBytes r).length = 64 := by simp [recBytes, zeros]

theorem nextCopy_le (s : State) : nextCopy s ≤ 1 := by
  unfold nextCopy
  cases recInForce s with
  | none => exact Nat.zero_le _
  | some x => exact Nat.sub_le _ _

/-- An update of the boot record writes its other copy, in the first two sectors. -/
theorem writeRec_flash {s : State} (wf : Memory.wf 0xFF s.bt.flash = true) (r : BootRec) :
    Memory.wf 0xFF (writeRec r s).bt.flash = true
      ∧ ∀ x, 0x2000 ≤ x → memGet 0xFF (writeRec r s).bt.flash x = memGet 0xFF s.bt.flash x := by
  obtain ⟨canonical, -, other⟩ := flashWrite_flash wf (0x1000 * nextCopy s) (recBytes { r with gen := (bootRec s).gen + 1 })
  refine ⟨canonical, fun x high => other x (.inr ?_)⟩
  have copy := nextCopy_le s
  rw [recBytes_length, show ceilTo 4096 64 = 4096 from rfl]
  omega

theorem writeRec_keeps (r : BootRec) (s : State) : Keeps [.bt] s (writeRec r s) :=
  (flashWrite_keeps _ _ s).trans (setBt_keeps _ _)

/-- A slot uncommitted is an update of the boot record. -/
theorem uncommit_eq (k : Nat) (s : State) : ∃ r, uncommit k s = writeRec r s := by
  unfold uncommit
  dsimp only
  split
  · exact ⟨_, rfl⟩
  · exact ⟨_, rfl⟩

/-! ### A flash operation that fails (R440) -/

/-- A command that a failed flash operation ends, with what it had done before. -/
theorem flashFail_replies (a : Nat) (e : Exec) {s t : State} {l : List Part} (kept : Keeps l s t) (hi : Part.hi ∉ l) :
    Replied e eMemerr [] s (flashFail a e t) ∧ (flashFail a e t).bt.flashErr = true ∧ (flashFail a e t).bt.fuses = t.bt.fuses
      ∧ (flashFail a e t).bt.runSlot = t.bt.runSlot ∧ (flashFail a e t).bt.trial = t.bt.trial
      ∧ Keeps (.hi :: .mg :: .bt :: l) s (flashFail a e t) := by
  have bt : (flashFail a e t).bt = (flashErred t).bt := by simp [flashFail, flashErred]
  have issued := issue_keeps 0x100A [i8 a] (flashErred t)
  have same : t.hi = s.hi := kept .hi hi
  have moved : Keeps (.hi :: .mg :: .bt :: l) s (flashErred t) :=
    (kept.mono fun _ h => by simp [h]).trans ((setBt_keeps _ t).mono (by simp))
  refine ⟨answer_traced e eMemerr [] (issue_hi _ _ s.hi _ ?_), ?_, ?_, ?_, ?_,
    (moved.trans (issued.mono (by simp))).trans ((answer_keeps e eMemerr [] _).mono (by simp))⟩
  · change withTrace s.hi t.hi = s.hi
    rw [same]
    rfl
  all_goals rw [bt]; rfl

/-! ### The commands (R437 to R440) -/

section
variable {s : State} {tag : W16} {e : Exec}

theorem exec_fwStage (ok : Bool) (runs : executing 0x1001 tag s = some e) : exec (.fwStage tag ok) s = .next (fwStageCmd ok e s) :=
  congrArg Host.Outcome.next (runCmd_some runs _)

theorem exec_fwCommit (ok : Bool) (runs : executing 0x1002 tag s = some e) : exec (.fwCommit tag ok) s = .next (fwCommitCmd ok e s) :=
  congrArg Host.Outcome.next (runCmd_some runs _)

theorem exec_fwActivate (ok : Bool) (runs : executing 0x1003 tag s = some e) :
    exec (.fwActivate tag ok) s = .next (fwActivateCmd ok e s) := congrArg Host.Outcome.next (runCmd_some runs _)

theorem exec_fwInfo (runs : executing 0x1004 tag s = some e) : exec (.fwInfo tag) s = .next (fwInfoCmd e s) :=
  congrArg Host.Outcome.next (runCmd_some runs _)

variable (turn : fwTurn e.entry.tag s = true)
include turn

/-- A chunk in range is staged unless its slot runs. -/
theorem fwStageCmd_good (slot : payF e 0 1 ≤ 1) (aligned : payF e 4 4 % 4096 = 0) (some_ : 1 ≤ payF e 8 4) (most : payF e 8 4 ≤ 1048560)
    (len : indLen e.entry = 16 + payF e 8 4) (rest : payZero e 1 3 = true) (rest' : payZero e 12 4 = true)
    (inside : payF e 4 4 + payF e 8 4 ≤ 1835008) (ok : Bool) :
    fwStageCmd ok e s = if slotRuns s (payF e 0 1) then answer e eActive [] s else stageRun ok e s := by
  have good : ¬ (1 < payF e 0 1 ∨ payF e 4 4 % 4096 ≠ 0 ∨ payF e 8 4 = 0 ∨ 1048560 < payF e 8 4
      ∨ indLen e.entry ≠ 16 + payF e 8 4) := by omega
  rw [fwStageCmd, if_neg (by simp [turn]), checked_pass (by rw [decide_eq_false good, rest, rest']; rfl),
    checked_pass (decide_eq_false (by omega))]
  cases runs : slotRuns s (payF e 0 1)
  · rw [checked_pass rfl, checked_nil]; rfl
  · rw [checked_fail rfl]; rfl

/-- The status of a commit (R438): header, signature, anti-rollback counter, version, in this order. -/
def commitStatus (s : State) (k : Nat) : Nat :=
  if fwHeaderOk (fwHeader s k) = false then 2 else if fwSigned s k = false then 0xE
  else if fwRollback s k < s.bt.fuses then 0xF else if fieldAt (fwHeader s k) 8 2 < 3 then 0xC else 0

theorem fwCommitCmd_good (slot : payF e 0 1 ≤ 1) (rest : payZero e 1 47 = true) (idle : slotRuns s (payF e 0 1) = false) (ok : Bool) :
    fwCommitCmd ok e s = if commitStatus s (payF e 0 1) = 0 then commitRun ok (payF e 0 1) e s
      else answer e (commitStatus s (payF e 0 1)) [] s := by
  rw [fwCommitCmd, if_neg (by simp [turn]), checked_pass (by rw [decide_eq_false (by omega), rest]; rfl), checked_pass idle]
  unfold commitStatus
  cases header : fwHeaderOk (fwHeader s (payF e 0 1))
  · rw [checked_fail (b := !false) rfl]; rfl
  · rw [checked_pass (b := !true) rfl]
    cases signed : fwSigned s (payF e 0 1)
    · rw [checked_fail (b := !false) rfl]; rfl
    · rw [checked_pass (b := !true) rfl]
      by_cases old : fwRollback s (payF e 0 1) < s.bt.fuses
      · rw [checked_fail (decide_eq_true old)]; simp [old, eRollback]
      · rw [checked_pass (decide_eq_false old)]
        by_cases major : fieldAt (fwHeader s (payF e 0 1)) 8 2 < 3
        · rw [checked_fail (decide_eq_true major)]; simp [old, major, eVersion]
        · rw [checked_pass (decide_eq_false major), checked_nil]; simp [old, major]

/-- `FW_ACTIVATE` by what the slot is: the running trial, a committed slot that does not run, or neither. -/
theorem fwActivateCmd_good (slot : payF e 0 1 ≤ 1) (rest : payZero e 1 47 = true) (ok : Bool) :
    (slotRuns s (payF e 0 1) = true → s.bt.trial = true →
        fwActivateCmd ok e s = if ok then answer e eOk [] (confirmTrial (payF e 0 1) s) else recordFail (payF e 0 1) e s)
      ∧ (slotRuns s (payF e 0 1) = false → bitAt (bootRec s).flags (payF e 0 1) = true →
        fwActivateCmd ok e s = if ok then answer e eOk [] (activate (payF e 0 1) s) else recordFail (payF e 0 1) e s)
      ∧ (slotRuns s (payF e 0 1) = false → bitAt (bootRec s).flags (payF e 0 1) = false → fwActivateCmd ok e s = answer e eState [] s) := by
  have legal : (decide (1 < payF e 0 1) || !payZero e 1 47) = false := by rw [decide_eq_false (by omega), rest]; rfl
  refine ⟨fun runs trial => ?_, fun idle committed => ?_, fun idle open_ => ?_⟩
  · rw [fwActivateCmd, if_neg (by simp [turn]), checked_pass legal, checked_pass (by simp [runs, trial]), checked_nil]
    cases ok <;> simp [runs]
  · rw [fwActivateCmd, if_neg (by simp [turn]), checked_pass legal, checked_pass (by simp [idle, committed]), checked_nil]
    cases ok <;> simp [idle, committed]
  · rw [fwActivateCmd, if_neg (by simp [turn]), checked_pass legal, checked_fail (by simp [idle, open_])]

end

/-- Staged bytes stand in the slot, and outside their sectors and the boot record the flash is as it was (R437). -/
theorem staged_flash {s : State} (wf : Memory.wf 0xFF s.bt.flash = true) (k a : Nat) (l : List Byte) :
    flashRead (flashWrite a l (uncommit k s)) a l.length = l
      ∧ ∀ x, 0x2000 ≤ x → (x < a ∨ a + ceilTo 4096 l.length ≤ x) →
        memGet 0xFF (flashWrite a l (uncommit k s)).bt.flash x = memGet 0xFF s.bt.flash x := by
  obtain ⟨r, record⟩ := uncommit_eq k s
  rw [record]
  obtain ⟨canonical, high⟩ := writeRec_flash wf r
  obtain ⟨-, read, other⟩ := flashWrite_flash canonical a l
  exact ⟨read, fun x above apart => (other x apart).trans (high x above)⟩

/-- Staging leaves the counter and the running slot. -/
theorem staged_bt (k a : Nat) (l : List Byte) (s : State) :
    (flashWrite a l (uncommit k s)).bt.fuses = s.bt.fuses ∧ (flashWrite a l (uncommit k s)).bt.runSlot = s.bt.runSlot
      ∧ Keeps [.bt] s (flashWrite a l (uncommit k s)) := by
  obtain ⟨r, record⟩ := uncommit_eq k s
  rw [record]
  exact ⟨rfl, rfl, (writeRec_keeps r s).trans (flashWrite_keeps a l _)⟩

/-- Where `FW_STAGE` writes its chunk (Table 17.1). -/
def stagePlace (e : Exec) : Nat := (if payF e 0 1 = 0 then 0x030000 else 0x1F0000) + payF e 4 4

theorem stageRun_done {e : Exec} {s : State} (wf : Memory.wf 0xFF s.bt.flash = true) (ind : e.ind.length = 16 + payF e 8 4) :
    Answered e 0 [] s (stageRun true e s) ∧ flashRead (stageRun true e s) (stagePlace e) (payF e 8 4) = slice e.ind 16 (payF e 8 4)
      ∧ (∀ x, 0x2000 ≤ x → (x < stagePlace e ∨ stagePlace e + ceilTo 4096 (payF e 8 4) ≤ x) →
        memGet 0xFF (stageRun true e s).bt.flash x = memGet 0xFF s.bt.flash x)
      ∧ (stageRun true e s).bt.fuses = s.bt.fuses ∧ (stageRun true e s).bt.runSlot = s.bt.runSlot
      ∧ Keeps [.bt, .hi] s (stageRun true e s) := by
  have eq : stageRun true e s = answer e eOk [] (flashWrite (stagePlace e) (slice e.ind 16 (payF e 8 4)) (uncommit (payF e 0 1) s)) := rfl
  have length : (slice e.ind 16 (payF e 8 4)).length = payF e 8 4 := by simp [slice, ind]
  obtain ⟨read, other⟩ := staged_flash wf (payF e 0 1) (stagePlace e) (slice e.ind 16 (payF e 8 4))
  obtain ⟨fuses, slot_, keeps⟩ := staged_bt (payF e 0 1) (stagePlace e) (slice e.ind 16 (payF e 8 4)) s
  rw [length] at read other
  rw [eq]
  generalize flashWrite (stagePlace e) (slice e.ind 16 (payF e 8 4)) (uncommit (payF e 0 1) s) = t at read other fuses slot_ keeps ⊢
  exact ⟨answer_after e eOk [] keeps (by decide), read, other, fuses, slot_, (answer_after_keeps e eOk [] keeps).mono (by simp)⟩

theorem stageRun_failed (e : Exec) (s : State) :
    Replied e 9 [] s (stageRun false e s) ∧ (stageRun false e s).bt.flashErr = true ∧ (stageRun false e s).bt.fuses = s.bt.fuses
      ∧ Keeps [.bt, .hi, .mg, .freeCtr] s (stageRun false e s) := by
  obtain ⟨fuses, -, keeps⟩ := staged_bt (payF e 0 1) (stagePlace e) (freeBytes (ceilTo 4096 (payF e 8 4)) (uncommit (payF e 0 1) s)) s
  have eq : stageRun false e s = flashFail (stagePlace e) e (takeFrees (ceilTo 4096 (payF e 8 4)) (flashWrite (stagePlace e)
    (freeBytes (ceilTo 4096 (payF e 8 4)) (uncommit (payF e 0 1) s)) (uncommit (payF e 0 1) s))) := rfl
  rw [eq]
  generalize flashWrite (stagePlace e) (freeBytes (ceilTo 4096 (payF e 8 4)) (uncommit (payF e 0 1) s)) (uncommit (payF e 0 1) s) = t
    at fuses keeps ⊢
  have freed : Keeps [.bt, .freeCtr] s (takeFrees (ceilTo 4096 (payF e 8 4)) t) :=
    (keeps.mono (by simp)).trans ((setFree_keeps _ t).mono (by simp))
  obtain ⟨replied, err, same, -, -, kept⟩ := flashFail_replies (stagePlace e) e freed (by decide)
  exact ⟨replied, err, same.trans fuses, kept.mono (by simp)⟩

theorem recordFail_replies (k : Nat) (e : Exec) (s : State) :
    Replied e 9 [] s (recordFail k e s) ∧ (recordFail k e s).bt.flashErr = true ∧ (recordFail k e s).bt.fuses = s.bt.fuses
      ∧ (recordFail k e s).bt.runSlot = s.bt.runSlot ∧ (recordFail k e s).bt.trial = s.bt.trial
      ∧ Keeps [.bt, .hi, .mg] s (recordFail k e s) := by
  obtain ⟨replied, err, fuses, slot, trial, keeps⟩ := flashFail_replies (0x1000 * nextCopy s) e
    (writeRec_keeps { bootRec s with flags := setFlag k false (bootRec s).flags } s) (by decide)
  exact ⟨replied, err, fuses, slot, trial, keeps.mono (by simp)⟩

/-- An event that follows a change of the boot registers, and then the completion. -/
theorem issued_replies (code : Nat) (items : List Item) (e : Exec) {s t : State} (kept : Keeps [.bt] s t) :
    Replied e eOk [] s (answer e eOk [] (issue code items t)) ∧ (answer e eOk [] (issue code items t)).bt = t.bt
      ∧ Keeps [.bt, .hi, .mg] s (answer e eOk [] (issue code items t)) := by
  have same : t.hi = s.hi := kept .hi (by decide)
  refine ⟨answer_traced e eOk [] (issue_hi _ _ s.hi _ (by rw [same]; rfl)), by simp,
    ((kept.mono (by simp)).trans ((issue_keeps code items t).mono (by simp))).trans ((answer_keeps e eOk [] _).mono (by simp))⟩

theorem commitRun_done (k : Nat) (e : Exec) (s : State) :
    Replied e 0 [] s (commitRun true k e s) ∧ (commitRun true k e s).bt.fuses = s.bt.fuses
      ∧ (commitRun true k e s).bt.runSlot = s.bt.runSlot ∧ Keeps [.bt, .hi, .mg] s (commitRun true k e s) := by
  obtain ⟨r, hr⟩ : ∃ r, r = { bootRec s with flags := setFlag k true (bootRec s).flags } := ⟨_, rfl⟩
  have eq : commitRun true k e s = answer e eOk [] (issue 0x1005 [i1 k, i8 (fwVersion s k)] (writeRec r s)) := by rw [hr]; rfl
  obtain ⟨replied, bt, keeps⟩ := issued_replies 0x1005 [i1 k, i8 (fwVersion s k)] e (writeRec_keeps r s)
  rw [eq]
  exact ⟨replied, by rw [bt]; rfl, by rw [bt]; rfl, keeps⟩

theorem activate_done {k : Nat} (slot : k ≤ 1) (e : Exec) (s : State) :
    Replied e 0 [] s (answer e eOk [] (activate k s)) ∧ (answer e eOk [] (activate k s)).bt.next = k
      ∧ (answer e eOk [] (activate k s)).bt.fuses = s.bt.fuses ∧ (answer e eOk [] (activate k s)).bt.runSlot = s.bt.runSlot
      ∧ Keeps [.bt, .hi, .mg] s (answer e eOk [] (activate k s)) := by
  obtain ⟨r, hr⟩ : ∃ r, r = { bootRec s with
    next := k, prev := s.bt.runSlot, flags := setFlag 2 true (setFlag 3 false (bootRec s).flags) } := ⟨_, rfl⟩
  have eq : activate k s = issue 0x1006 [i1 k, i8 (fwVersion s k)] (writeRec r s) := by rw [hr]; rfl
  have next : r.next % 2 = k := by rw [hr]; exact Nat.mod_eq_of_lt (Nat.lt_succ_of_le slot)
  obtain ⟨replied, bt, keeps⟩ := issued_replies 0x1006 [i1 k, i8 (fwVersion s k)] e (writeRec_keeps r s)
  rw [eq]
  exact ⟨replied, by rw [bt]; exact next, by rw [bt]; rfl, by rw [bt]; rfl, keeps⟩

/-- The record with the trial confirmed (R439). -/
def trialEnded (s : State) : State :=
  let t := writeRec { bootRec s with flags := setFlag 2 false (setFlag 3 false (bootRec s).flags) } s
  { t with bt := { t.bt with trial := false } }

theorem trialEnded_keeps (s : State) : Keeps [.bt] s (trialEnded s) := (writeRec_keeps _ s).trans (setBt_keeps _ _)

theorem confirmTrial_eq (k : Nat) (s : State) : confirmTrial k s = if s.bt.fuses < fwRollback s k then
    issue 0x100B [i1 (fwRollback s k)] { trialEnded s with bt := { (trialEnded s).bt with fuses := fwRollback s k, rollback := fwRollback s k } }
    else trialEnded s := rfl

/-- A confirmed trial: its flag cleared, and the counter at its image's where that is higher. -/
theorem confirmTrial_replies (k : Nat) (e : Exec) (s : State) :
    Replied e eOk [] s (answer e eOk [] (confirmTrial k s)) ∧ (answer e eOk [] (confirmTrial k s)).bt.trial = false
      ∧ (answer e eOk [] (confirmTrial k s)).bt.fuses = max s.bt.fuses (fwRollback s k)
      ∧ (answer e eOk [] (confirmTrial k s)).bt.runSlot = s.bt.runSlot ∧ Keeps [.bt, .hi, .mg] s (answer e eOk [] (confirmTrial k s)) := by
  rw [confirmTrial_eq]
  split
  · rename_i above
    obtain ⟨replied, bt, keeps⟩ := issued_replies 0x100B [i1 (fwRollback s k)] e ((trialEnded_keeps s).trans
      (setBt_keeps { (trialEnded s).bt with fuses := fwRollback s k, rollback := fwRollback s k } (trialEnded s)))
    exact ⟨replied, by rw [bt]; rfl, by rw [bt]; exact (Nat.max_eq_right (Nat.le_of_lt above)).symm, by rw [bt]; rfl, keeps⟩
  · rename_i below
    have same : (trialEnded s).hi = s.hi := trialEnded_keeps s .hi (by decide)
    exact ⟨answer_traced e eOk [] (by rw [same]; rfl), rfl, (Nat.max_eq_left (Nat.le_of_not_lt below)).symm, rfl,
      ((trialEnded_keeps s).mono (by simp)).trans ((answer_keeps e eOk [] _).mono (by simp))⟩

/-! ### `FW_INFO` (Table 17.7) -/

theorem versionBytes_length (v : Nat) : (versionBytes v).length = 6 := by simp [versionBytes]

theorem versionBytes_major (v : Nat) (l : List Byte) : fieldAt (versionBytes v ++ l) 0 2 = v / 2 ^ 32 % 2 ^ 16 := by
  rw [versionBytes, List.append_assoc, List.append_assoc, fieldAt_leBytes_append]
  simp only [fld]
  omega

theorem fwInfo_fields (s : State) :
    (fwInfoBytes s).length = 16 ∧ fieldAt (fwInfoBytes s) 13 1 = s.bt.fuses % 256
      ∧ fieldAt (fwInfoBytes s) 0 2 = fwVersion s 0 / 2 ^ 32 % 2 ^ 16 ∧ fieldAt (fwInfoBytes s) 6 2 = fwVersion s 1 / 2 ^ 32 % 2 ^ 16 := by
  unfold fwInfoBytes
  dsimp only
  generalize BitVec.ofNat 8 ((bootRec s).flags % 4 + (bootRec s).next % 2 * 4 + b2n (bitAt (bootRec s).flags 2) * 8 + s.bt.runSlot * 16) = b
  have zero_ := versionBytes_length (fwVersion s 0)
  have one_ := versionBytes_length (fwVersion s 1)
  refine ⟨by simp [zero_, one_], ?_, by rw [List.append_assoc]; exact versionBytes_major _ _, ?_⟩
  · have both : (versionBytes (fwVersion s 0) ++ versionBytes (fwVersion s 1)).length = 12 := by simp [zero_, one_]
    have field := fieldAt_append (versionBytes (fwVersion s 0) ++ versionBytes (fwVersion s 1))
      [b, BitVec.ofNat 8 s.bt.fuses, BitVec.ofNat 8 (fwRollback s 0), BitVec.ofNat 8 (fwRollback s 1)] 1 1
    rw [both] at field
    exact field.trans (by simp [fieldAt, slice, leNat])
  · have field := fieldAt_append (versionBytes (fwVersion s 0)) (versionBytes (fwVersion s 1)
      ++ [b, BitVec.ofNat 8 s.bt.fuses, BitVec.ofNat 8 (fwRollback s 0), BitVec.ofNat 8 (fwRollback s 1)]) 0 2
    rw [zero_, ← List.append_assoc] at field
    exact field.trans (versionBytes_major _ _)

end Sys2Proof.Machine

open Sys2Proof Sys2Proof.Machine

/-- Settles O55: by the checks of each command, by what the boot record and the slots hold after it, and by the failed write. -/
theorem firmwareUpdates : Obligations.firmwareUpdates := by
  refine ⟨fun s tag e runs turn => ?_, fun s tag e runs turn => ?_, fun s tag e runs turn => ?_, fun s tag e runs => ?_⟩
  · intro k off n a slot aligned some_ most len ind rest rest' inside wf
    have row (ok : Bool) := exec_fwStage ok runs
    simp only [fwStageCmd_good turn slot aligned some_ most len rest rest' inside] at row
    refine ⟨fun active ok => ?_, fun idle => ?_⟩
    · simp only [if_pos (show slotRuns s (payF e 0 1) = true from active)] at row
      exact ⟨_, row ok, answer_answered e eActive [] s, answer_keeps e eActive [] s⟩
    · have idle_ : ¬ slotRuns s (payF e 0 1) = true := by rw [show slotRuns s (payF e 0 1) = false from idle]; decide
      simp only [if_neg idle_] at row
      exact ⟨⟨_, row true, stageRun_done wf ind⟩, _, row false, stageRun_failed e s⟩
  · intro k slot rest idle st
    have row (ok : Bool) := exec_fwCommit ok runs
    simp only [fwCommitCmd_good turn slot rest idle] at row
    by_cases accepted : commitStatus s (payF e 0 1) = 0
    · simp only [if_pos accepted] at row
      obtain ⟨replied, fuses, slot_, keeps⟩ := commitRun_done (payF e 0 1) e s
      obtain ⟨replied', err, fuses', slot', -, keeps'⟩ := recordFail_replies (payF e 0 1) e s
      rw [show st = 0 from accepted]
      exact ⟨_, row true, replied, fun h => absurd rfl h, keeps, fuses, slot_, fun _ => ⟨_, row false, replied', err, fuses', slot', keeps'⟩⟩
    · simp only [if_neg accepted] at row
      have kept := answer_keeps e (commitStatus s (payF e 0 1)) [] s
      exact ⟨_, row true, answer_replied e _ [] rfl, fun _ => kept, kept.mono (by simp), rfl, rfl, fun h => absurd h accepted⟩
  · intro k slot rest
    have row (ok : Bool) := exec_fwActivate ok runs
    have good := fwActivateCmd_good turn slot rest
    refine ⟨fun active trial => ?_, fun idle committed => ?_, fun may => ?_, fun idle open_ ok => ?_⟩
    · have row := row true
      rw [(good true).1 active trial] at row
      exact ⟨_, row, confirmTrial_replies (payF e 0 1) e s⟩
    · have row := row true
      rw [(good true).2.1 idle committed] at row
      exact ⟨_, row, activate_done slot e s⟩
    · have row := row false
      obtain ⟨replied, err, fuses, slot_, trial, keeps⟩ := recordFail_replies (payF e 0 1) e s
      rcases may with ⟨active, trial_⟩ | ⟨idle, committed⟩
      · rw [(good false).1 active trial_] at row
        exact ⟨_, row, replied, err, fuses, trial, slot_, keeps⟩
      · rw [(good false).2.1 idle committed] at row
        exact ⟨_, row, replied, err, fuses, trial, slot_, keeps⟩
    · have row := row ok
      rw [(good ok).2.2 idle open_] at row
      exact ⟨_, row, answer_answered e eState [] s, answer_keeps e eState [] s⟩
  · obtain ⟨length, fuses, zero_, one_⟩ := fwInfo_fields s
    exact ⟨_, fwInfoBytes s, exec_fwInfo runs, answer_answered e eOk _ s, length, fuses, zero_, one_, answer_keeps e eOk _ s⟩
end

section
/-! SUPPORT. Commands start, take effect and complete (R385, R390 to R393); the statement on them. -/

namespace Sys2Proof.Machine

open Sys2Proof

/-- An event leaves every register of the host interface outside the traces. -/
theorem issue_reg {α : Type} {f : HI → α} (outside : ∀ b, f (withTrace {} b) = f b) (code : Nat) (items : List Item) (s : State) :
    f (issue code items s).hi = f s.hi := hi_of_logless outside (issue_logless code items s)

/-! ### The start of a command (R392) -/

/-- The state in which the oldest fetched entry is taken. -/
def entryTaken (r : List CmdEntry) (s : State) : State := { s with hi := { s.hi with fetched := r } }

theorem exec_commandStart {s : State} {c : CmdEntry} {r : List CmdEntry} (src : HostRead) (first : s.hi.fetched = c :: r) :
    exec (.commandStart src) s
      = .next (if mustWait s c then s else startEntry c src (entryTaken r s)) := by
  show execCommandStart src s = _
  rw [execCommandStart, first]
  rfl

/-- A completion queued that ends no command. -/
def withCpl (x : Cpl) (s : State) : State := { s with hi := { s.hi with cpls := s.hi.cpls ++ [x] } }

/-- A tag in use is refused with event 0x0E06. -/
theorem startEntry_duplicate {s : State} {c : CmdEntry} (src : HostRead) (busy : tagBusy s c.tag = true) :
    (startEntry c src s).hi.cpls
        = s.hi.cpls ++ [{ tag := c.tag, status := BitVec.ofNat 16 eDup, opcode := c.opcode, hash := none, wasExec := false }]
      ∧ (startEntry c src s).hi.exec = s.hi.exec ∧ (startEntry c src s).hi.fetched = s.hi.fetched
      ∧ Keeps [.hi, .mg] s (startEntry c src s) := by
  obtain ⟨x, hx⟩ : ∃ x : Cpl, x = { tag := c.tag, status := BitVec.ofNat 16 eDup, opcode := c.opcode, hash := none, wasExec := false } :=
    ⟨_, rfl⟩
  have refused : startEntry c src s = issue 0x0E06 [i2 c.tag.toNat, i2 c.opcode.toNat] (withCpl x s) := by
    rw [startEntry, if_pos busy, hx]
    rfl
  rw [refused, ← hx]
  exact ⟨issue_reg (f := HI.cpls) (fun _ => rfl) _ _ (withCpl x s), (issue_reg (f := HI.exec) (fun _ => rfl) _ _ (withCpl x s)).trans rfl,
    (issue_reg (f := HI.fetched) (fun _ => rfl) _ _ (withCpl x s)).trans rfl, ((setHi_keeps _ s).mono (by simp)).trans (issue_keeps _ _ _)⟩

/-- A repeated entry gets the completion of the history again. -/
theorem startEntry_repeated {s : State} {c : CmdEntry} {h : Cpl} (src : HostRead) (free : tagBusy s c.tag = false)
    (kept : replayOf s c = some h) :
    startEntry c src s
      = { s with hi := { s.hi with cpls := s.hi.cpls ++ [{ h with replay := true, hash := none, wasExec := false }] } } := by
  rw [startEntry, free, kept]
  rfl

theorem startEntry_new {s : State} {c : CmdEntry} (src : HostRead) (free : tagBusy s c.tag = false) (kept : replayOf s c = none) :
    startEntry c src s = startNew c src s := by
  rw [startEntry, free, kept]
  rfl

theorem startNew_unlisted {s : State} {c : CmdEntry} (src : HostRead) (unlisted : payKind c.opcode.toNat = none) :
    startNew c src s = refuseStart c eUnknown s := by
  rw [startNew, startStatus, unlisted]
  rfl

/-- A good inline entry is refused by the device's mode only. -/
theorem startNew_inline {s : State} {c : CmdEntry} (src : HostRead) (listed : payKind c.opcode.toNat = some .inl)
    (good : headerBad .inl c = false) (mode : modeRefusal s c = none) :
    startNew c src s = enterExec { entry := c, ind := startBytes s c src, idle := !running s, parkActs := s.pf.parkActs } s := by
  have inline : c.indirect = false := by
    simp only [headerBad, Bool.or_eq_false_iff, Bool.not_eq_false'] at good
    simpa using good.1.1.2
  have passes : startStatus s c src = none := by
    rw [startStatus, listed]
    simp [good, inline, mode]
  rw [startNew, passes]

/-! ### The mailbox rows of HI (R397) -/

/-- A field behind an encoded number. -/
theorem fieldAt_skip (k v : Nat) (l : List Byte) (o n : Nat) : fieldAt (leBytes k v ++ l) (k + o) n = fieldAt l o n := by
  have field := fieldAt_append (leBytes k v) l o n
  rwa [leBytes_length] at field

theorem exec_hiNop {s : State} {tag : W16} {e : Exec} (runs : executing 0x0E01 tag s = some e) :
    exec (.hiNop tag) s = .next (answer e 0 [] s) := congrArg Host.Outcome.next (runCmd_some runs _)

theorem exec_hiInfo {s : State} {tag : W16} {e : Exec} (runs : executing 0x0E02 tag s = some e) :
    exec (.hiInfo tag) s = .next (answer e 0 (infoBytes s) s) := congrArg Host.Outcome.next (runCmd_some runs _)

theorem infoBytes_fields (s : State) :
    (infoBytes s).length = 16 ∧ fieldAt (infoBytes s) 0 2 = s.bt.fwVer.toNat / 2 ^ 32 % 2 ^ 16
      ∧ fieldAt (infoBytes s) 2 2 = s.bt.fwVer.toNat / 2 ^ 16 % 2 ^ 16 ∧ fieldAt (infoBytes s) 4 2 = s.bt.fwVer.toNat % 2 ^ 16
      ∧ fieldAt (infoBytes s) 6 1 = s.bt.runSlot % 256 ∧ fieldAt (infoBytes s) 8 8 = s.bt.serialReg.toNat := by
  have version (i j : Nat) (w : Nat) : fld w (i + 15) i % 256 ^ 2 = w / 2 ^ i % 2 ^ 16 := by
    have width : i + 15 + 1 - i = 16 := by omega
    simp [fld, width]
  unfold infoBytes
  dsimp only
  simp only [List.append_assoc]
  refine ⟨by simp, (fieldAt_leBytes_append _ _ _).trans (version 32 0 _), ?_, ?_, ?_, ?_⟩
  · exact (fieldAt_skip 2 _ _ 0 2).trans ((fieldAt_leBytes_append _ _ _).trans (version 16 0 _))
  · refine (fieldAt_skip 2 _ _ 2 2).trans ((fieldAt_skip 2 _ _ 0 2).trans ((fieldAt_leBytes_append _ _ _).trans ?_))
    exact (version 0 0 _).trans (by simp)
  · refine (fieldAt_skip 2 _ _ 4 1).trans ((fieldAt_skip 2 _ _ 2 1).trans ((fieldAt_skip 2 _ _ 0 1).trans ?_))
    simp [fieldAt, slice, leNat]
  · refine (fieldAt_skip 2 _ _ 6 8).trans ((fieldAt_skip 2 _ _ 4 8).trans ((fieldAt_skip 2 _ _ 2 8).trans ?_))
    have bytes := fieldAt_leBytes_append 8 s.bt.serialReg.toNat []
    rw [List.append_nil] at bytes
    exact bytes.trans (Nat.mod_eq_of_lt s.bt.serialReg.isLt)

/-! ### What takes effect with a completion (R391) -/

/-- The command whose completion is written, if it succeeded. -/
theorem takesEffect_eq {s : State} {c : Cpl} {e : Exec} (was : c.wasExec = true) (good : c.status = 0)
    (found : s.hi.exec.find? (fun x => x.entry.tag == c.tag) = some e) :
    takesEffect c s = if c.opcode = 0x0901#16 then clSettings e s
      else if c.opcode = 0x0702#16 then sqSettings e s
      else if c.opcode = 0x0701#16 then seqLoaded e.ind s
      else if c.opcode = 0x0A01#16 then streamOpened s
      else if c.opcode = 0x1006#16 then trimsInForce e.ind (payF e 8 1 == 1) s else s := by
  rw [takesEffect, if_pos ⟨was, good⟩, found]

/-- The completions with which nothing takes effect. -/
theorem takesEffect_none {s : State} {c : Cpl}
    (none_ : c.opcode ∉ [0x0901#16, 0x0702#16, 0x0701#16, 0x0A01#16, 0x1006#16] ∨ c.wasExec = false ∨ c.status ≠ 0) :
    takesEffect c s = s := by
  rcases none_ with other | ended | bad
  · simp only [List.mem_cons, List.not_mem_nil, or_false, not_or] at other
    obtain ⟨cl, sq, load, cs, cal⟩ := other
    unfold takesEffect
    split
    · rfl
    · rw [if_neg cl, if_neg sq, if_neg load, if_neg cs, if_neg cal]
  · rw [takesEffect, if_neg (by simp [ended])]
  · rw [takesEffect, if_neg fun h => bad h.2]

theorem setBtTg_keeps (b : BT) (g : TG) (s : State) : Keeps [.bt, .tg] s { s with bt := b, tg := g } := by
  intro p hp
  cases p <;> simp [samePart] at hp ⊢

theorem loadTrims_keeps (body : Mem) (s : State) : Keeps [.hi, .mg, .bt, .tg] s (loadTrims body s) := by
  have marks : Keeps [.hi, .mg] _ (loadTrims body s) := foldl_partKeeps (fun u x => issue_keeps _ _ u) _ _
  exact ((setBtTg_keeps _ _ s).mono (by simp)).trans (marks.mono (by simp))

theorem trimsInForce_keeps (image : List Byte) (stored : Bool) (s : State) :
    Keeps [.hi, .mg, .bt, .tg] s (trimsInForce image stored s) :=
  (((setBt_keeps _ s).mono (by simp)).trans (loadTrims_keeps _ _)).trans ((issue_keeps _ _ _).mono (by simp))

/-- The trims and their kind in force. -/
theorem trimsInForce_bt (image : List Byte) (stored : Bool) (s : State) :
    (trimsInForce image stored s).bt = { s.bt with
      cal := if fieldAt image 6 2 = 5 then 1 else 2
      trims := .image (memWrite 0 [] 0 ((image.drop 512).take trimBytes)) } := by
  unfold trimsInForce
  dsimp only
  rw [issue_keeps _ _ _ .bt (by decide)]
  generalize memWrite 0 [] 0 ((image.drop 512).take trimBytes) = body
  unfold loadTrims
  dsimp only
  exact foldl_keeps State.bt (fun u _ => issue_keeps _ _ u .bt (by decide)) _ _

theorem takesEffect_keeps (c : Cpl) (s : State) : Keeps [.hi, .mg, .cl, .sq, .cs, .bt, .tg] s (takesEffect c s) := by
  unfold takesEffect
  split
  · exact Keeps.refl _ s
  · split_ifs
    · exact (setCl_keeps _ s).mono (by simp)
    · exact (setSq_keeps _ s).mono (by simp)
    · exact (setSq_keeps _ s).mono (by simp)
    · exact (setCs_keeps _ s).mono (by simp)
    · exact (trimsInForce_keeps _ _ s).mono (by simp)
    · exact Keeps.refl _ s

theorem takesEffect_exec (c : Cpl) (s : State) : (takesEffect c s).hi.exec = s.hi.exec :=
  hi_of_logless (f := HI.exec) (fun _ => rfl) (takesEffect_logless c s)

/-! ### A completion entry written (R390, R391) -/

theorem cplBytes_fields (c : Cpl) (phase : Bool) (head : W32) :
    (cplBytes c phase head).length = 32 ∧ fieldAt (cplBytes c phase head) 0 2 = c.tag.toNat
      ∧ fieldAt (cplBytes c phase head) 2 2 = c.status.toNat ∧ fieldAt (cplBytes c phase head) 8 4 = head.toNat := by
  unfold cplBytes
  simp only [List.append_assoc]
  have field (w : W16) (l : List Byte) : fieldAt (leBytes 2 w.toNat ++ l) 0 2 = w.toNat :=
    (fieldAt_leBytes_append _ _ _).trans (Nat.mod_eq_of_lt w.isLt)
  refine ⟨by simp [padTo, zeros]; omega, field c.tag _, (fieldAt_skip 2 _ _ 0 2).trans (field c.status _), ?_⟩
  refine (fieldAt_skip 2 _ _ 6 4).trans ((fieldAt_skip 2 _ _ 4 4).trans ((fieldAt_skip 2 _ _ 2 4).trans ?_))
  exact (fieldAt_leBytes_append _ _ _).trans (Nat.mod_eq_of_lt head.isLt)

/-- A message, or its waiting, is of the trace alone. -/
theorem cplSignal_hi (s : State) :
    (cplSignal s).hi.cpls = s.hi.cpls ∧ (cplSignal s).hi.cplTail = s.hi.cplTail ∧ (cplSignal s).hi.exec = s.hi.exec := by
  unfold cplSignal
  dsimp only
  split <;> exact ⟨rfl, rfl, rfl⟩

theorem cplSignal_keeps (s : State) : Keeps [.hi] s (cplSignal s) := by
  unfold cplSignal
  dsimp only
  split
  · exact (setHi_keeps _ s).trans (msix_keeps _ _)
  · exact setHi_keeps _ s

/-- The state in which the oldest completion is taken from the queue. -/
def cplTaken (r : List Cpl) (s : State) : State := { s with hi := { s.hi with cpls := r } }

/-- The oldest completion in its place of the ring, with what takes effect. -/
def cplPut (c : Cpl) (s : State) : State :=
  hostWrite (s.hi.cplBase.toNat + 32 * (s.hi.cplTail.toNat % s.hi.cplSize))
    (cplBytes c (decide (s.hi.cplTail.toNat / s.hi.cplSize % 2 = 0)) s.hi.cmdHead) (takesEffect c s)

theorem writeCpl_put (c : Cpl) (s : State) : ∃ h, writeCpl c s = cplSignal { cplPut c s with hi := h } := ⟨_, rfl⟩

/-- What the write of a completion entry keeps, by what takes effect with it. -/
theorem writeCpl_keeps {c : Cpl} {s : State} {l : List Part} (effect : Keeps l s (takesEffect c s)) :
    Keeps (.hi :: .hostMem :: l) s (writeCpl c s) := by
  obtain ⟨h, put⟩ := writeCpl_put c s
  have moved : Keeps (.hi :: .hostMem :: l) s (takesEffect c s) := effect.mono fun _ h => by simp [h]
  have wrote : Keeps [.hostMem] (takesEffect c s) (cplPut c s) := hostWrite_keeps _ _ _
  rw [put]
  exact ((moved.trans (wrote.mono (by simp))).trans ((setHi_keeps h _).mono (by simp))).trans ((cplSignal_keeps _).mono (by simp))

theorem writeCpl_hostMem (c : Cpl) (s : State) :
    (writeCpl c s).hostMem = memWrite 0 s.hostMem (s.hi.cplBase.toNat + 32 * (s.hi.cplTail.toNat % s.hi.cplSize))
      (cplBytes c (decide (s.hi.cplTail.toNat / s.hi.cplSize % 2 = 0)) s.hi.cmdHead) := by
  have effect : (takesEffect c s).hostMem = s.hostMem := takesEffect_keeps c s .hostMem (by decide)
  rw [writeCpl, cplSignal_keeps _ .hostMem (by decide)]
  show memWrite 0 (takesEffect c s).hostMem _ _ = _
  rw [effect]

/-- The queue, the tail and the executing commands once an entry is written. -/
theorem writeCpl_hi (c : Cpl) (s : State) :
    (writeCpl c s).hi.cpls = s.hi.cpls ∧ (writeCpl c s).hi.cplTail = s.hi.cplTail + 1
      ∧ (writeCpl c s).hi.exec = if c.wasExec then s.hi.exec.filter fun e => e.entry.tag != c.tag else s.hi.exec := by
  obtain ⟨cpls, tail, exec_⟩ := cplSignal_hi { hostWrite (s.hi.cplBase.toNat + 32 * (s.hi.cplTail.toNat % s.hi.cplSize))
    (cplBytes c (decide (s.hi.cplTail.toNat / s.hi.cplSize % 2 = 0)) s.hi.cmdHead) (takesEffect c s) with
      hi := { (takesEffect c s).hi with
        cplTail := s.hi.cplTail + 1
        history := if c.hash.isSome then (s.hi.history ++ [c]).drop (s.hi.history.length + 1 - 64) else s.hi.history
        exec := if c.wasExec then (takesEffect c s).hi.exec.filter fun e => e.entry.tag != c.tag else (takesEffect c s).hi.exec } }
  have same : (takesEffect c s).hi.cpls = s.hi.cpls := cpls_of_logless (takesEffect_logless c s)
  refine ⟨cpls.trans same, tail, exec_.trans ?_⟩
  dsimp only
  rw [takesEffect_exec]

/-- Where no SMBus request waits, the completion row is the write of the oldest completion, after which the core settles. -/
theorem exec_completionWrite_room {s : State} {c : Cpl} {r : List Cpl} (first : s.hi.cpls = c :: r) (room : cplRoom s = true)
    (wait : s.mg.smbWait = none) : exec .completionWrite s = .next (coreSettle (writeCpl c (cplTaken r s))) := by
  have wrote : cplWrite s = coreSettle (writeCpl c (cplTaken r s)) := by
    rw [cplWrite, first]
    exact if_pos room
  have mg : (writeCpl c (cplTaken r s)).mg = (takesEffect c (cplTaken r s)).mg := by
    rw [writeCpl, cplSignal_keeps _ .mg (by decide)]
    rfl
  have waits : (coreSettle (writeCpl c (cplTaken r s))).mg.smbWait = none := by
    have settled : (coreSettle (writeCpl c (cplTaken r s))).mg.smbWait = (writeCpl c (cplTaken r s)).mg.smbWait := by
      unfold coreSettle
      split <;> rfl
    rw [settled, mg]
    exact (mg_of_logless (f := MG.smbWait) (fun _ => rfl) (takesEffect_logless c (cplTaken r s))).trans wait
  rw [exec_completionWrite, wrote, smbResume, waits]

theorem exec_completionWrite_full {s : State} (full : cplRoom s = false) (wait : s.mg.smbWait = none) :
    exec .completionWrite s = .next s := by
  have stays : cplWrite s = s := by
    unfold cplWrite
    split
    · rfl
    · exact if_neg (by simp [full])
  rw [exec_completionWrite, stays, smbResume, wait]

/-- What the completion row keeps, by what takes effect with the completion. -/
theorem completion_keeps {c : Cpl} {r : List Cpl} {s : State} {l : List Part}
    (effect : Keeps l (cplTaken r s) (takesEffect c (cplTaken r s))) :
    Keeps (.hi :: .hostMem :: .mg :: l) s (coreSettle (writeCpl c (cplTaken r s))) := by
  have taken : Keeps (.hi :: .hostMem :: .mg :: l) s (cplTaken r s) := (setHi_keeps _ s).mono (by simp)
  refine (taken.trans ((writeCpl_keeps effect).mono fun p hp => ?_)).trans ((coreSettle_keeps _).mono (by simp))
  simp only [List.mem_cons] at hp ⊢
  tauto

/-- A part that neither the entry nor the core's settling touches is as what takes effect leaves it. -/
theorem completion_part (c : Cpl) (s : State) : Keeps [.hi, .hostMem, .mg] (takesEffect c s) (coreSettle (writeCpl c s)) := by
  obtain ⟨h, put⟩ := writeCpl_put c s
  have wrote : Keeps [.hostMem] (takesEffect c s) (cplPut c s) := hostWrite_keeps _ _ _
  rw [put]
  exact (((wrote.mono (by simp)).trans ((setHi_keeps h _).mono (by simp))).trans ((cplSignal_keeps _).mono (by simp))).trans
    ((coreSettle_keeps _).mono (by simp))

end Sys2Proof.Machine

open Sys2Proof Sys2Proof.Machine

/-- A started entry by its tag, the history and its checks. -/
theorem commandStart_rows (s : State) (c : CmdEntry) (r : List CmdEntry) (src : HostRead) (first : s.hi.fetched = c :: r)
    (free : mustWait s c = false) :
    (tagBusy s c.tag = true → ∃ t x, exec (.commandStart src) s = .next t ∧ t.hi.cpls = s.hi.cpls ++ [x] ∧ x.tag = c.tag
        ∧ x.status = 7 ∧ t.hi.exec = s.hi.exec ∧ t.hi.fetched = r ∧ Keeps [.hi, .mg] s t)
    ∧ (tagBusy s c.tag = false → ∀ h, replayOf s c = some h → ∃ t x, exec (.commandStart src) s = .next t
        ∧ t.hi.cpls = s.hi.cpls ++ [x] ∧ x.replay = true ∧ x.tag = h.tag ∧ x.status = h.status ∧ x.data = h.data
        ∧ t.hi.exec = s.hi.exec ∧ t.hi.fetched = r ∧ Keeps [.hi] s t)
    ∧ (tagBusy s c.tag = false → replayOf s c = none →
      (payKind c.opcode.toNat = none → ∃ t x, exec (.commandStart src) s = .next t ∧ t.hi.cpls = s.hi.cpls ++ [x] ∧ x.tag = c.tag
          ∧ x.status = 1 ∧ t.hi.fetched = r ∧ Keeps [.hi] s t)
      ∧ (payKind c.opcode.toNat = some .inl → headerBad .inl c = false → modeRefusal s c = none →
        ∃ (t : State) (e : Exec), exec (.commandStart src) s = .next t ∧ t.hi.exec = s.hi.exec ++ [e] ∧ e.entry = c ∧ e.idle = !running s
          ∧ t.hi.cpls = s.hi.cpls ∧ t.hi.fetched = r ∧ Keeps [.hi] s t)) := by
  have row := exec_commandStart src first
  rw [if_neg (by simp [free])] at row
  have taken : Keeps [.hi] s (entryTaken r s) := setHi_keeps _ s
  refine ⟨fun busy => ?_, fun idle h kept => ?_, fun idle new => ⟨fun unlisted => ?_, fun listed good mode => ?_⟩⟩
  · obtain ⟨cpls, exec_, fetched, kept⟩ := startEntry_duplicate (s := entryTaken r s) src busy
    exact ⟨_, _, row, cpls, rfl, rfl, exec_, fetched, (taken.mono (by simp)).trans kept⟩
  · rw [startEntry_repeated (s := entryTaken r s) src idle kept] at row
    exact ⟨_, _, row, rfl, rfl, rfl, rfl, rfl, rfl, rfl, taken.trans (setHi_keeps _ _)⟩
  · rw [startEntry_new (s := entryTaken r s) src idle new, startNew_unlisted src unlisted] at row
    exact ⟨_, _, row, rfl, rfl, rfl, rfl, (taken.trans (setHi_keeps _ _)).trans (setHi_keeps _ _)⟩
  · rw [startEntry_new (s := entryTaken r s) src idle new, startNew_inline (s := entryTaken r s) src listed good mode] at row
    exact ⟨_, _, row, rfl, rfl, rfl, rfl, rfl, taken.trans (setHi_keeps _ _)⟩

/-- What takes effect with a good completion, by its opcode. -/
theorem completion_effects {s : State} {c : Cpl} {r : List Cpl} {e : Exec} (was : c.wasExec = true) (good : c.status = 0)
    (found : s.hi.exec.find? (fun x => x.entry.tag == c.tag) = some e) :
    let t := coreSettle (writeCpl c (cplTaken r s))
    (c.opcode = 0x0901 → t.cl.mode.toNat = payF e 0 1 % 4 ∧ t.cl.nLimit = payF e 4 4 ∧ t.cl.sofThresh = payF e 8 8 ∧ t.sq = s.sq)
      ∧ (c.opcode = 0x0702 → t.sq = { s.sq with svcContain := payF e 0 1 == 1 } ∧ t.cl = s.cl)
      ∧ (c.opcode = 0x0701 → t.sq.loaded = true ∧ t.sq.imageId.toNat = fieldAt e.ind 8 8 ∧ t.sq.imgCrc.toNat = fieldAt e.ind 24 4
        ∧ t.sq.words = fieldAt e.ind 16 4 ∧ t.cl = s.cl)
      ∧ (c.opcode = 0x0A01 → s.cs.open_ = true → t.cs = { s.cs with openAt := some (repTime s (ext s)).toNat }
        ∧ Keeps [.hi, .hostMem, .mg, .cs] s t)
      ∧ (c.opcode = 0x1006 → t.bt.cal = (if fieldAt e.ind 6 2 = 5 then 1 else 2) ∧ Keeps [.hi, .hostMem, .mg, .bt, .tg] s t) := by
  have effect := takesEffect_eq (s := cplTaken r s) was good found
  have sq : (coreSettle (writeCpl c (cplTaken r s))).sq = (takesEffect c (cplTaken r s)).sq := completion_part _ _ .sq (by decide)
  have cl : (coreSettle (writeCpl c (cplTaken r s))).cl = (takesEffect c (cplTaken r s)).cl := completion_part _ _ .cl (by decide)
  have cs : (coreSettle (writeCpl c (cplTaken r s))).cs = (takesEffect c (cplTaken r s)).cs := completion_part _ _ .cs (by decide)
  have bt : (coreSettle (writeCpl c (cplTaken r s))).bt = (takesEffect c (cplTaken r s)).bt := completion_part _ _ .bt (by decide)
  refine ⟨fun op => ?_, fun op => ?_, fun op => ?_, fun op open_ => ?_, fun op => ?_⟩ <;> rw [op] at effect
  · rw [cl, sq, effect]
    exact ⟨BitVec.toNat_ofNat _ _, rfl, rfl, rfl⟩
  · rw [cl, sq, effect]
    exact ⟨rfl, rfl⟩
  · rw [cl, sq, effect]
    exact ⟨rfl, (BitVec.toNat_ofNat _ _).trans (Nat.mod_eq_of_lt (fieldAt_lt e.ind 8 8)),
      (BitVec.toNat_ofNat _ _).trans (Nat.mod_eq_of_lt (fieldAt_lt e.ind 24 4)), rfl, rfl⟩
  · have opened : takesEffect c (cplTaken r s) = streamOpened (cplTaken r s) := effect
    have kept := completion_keeps (l := [.cs]) (c := c) (r := r) (s := s) (by rw [opened]; exact setCs_keeps _ _)
    refine ⟨?_, kept⟩
    rw [cs, opened]
    exact congrArg (fun at_ => { s.cs with openAt := at_ }) (if_pos open_)
  · have force : takesEffect c (cplTaken r s) = trimsInForce e.ind (payF e 8 1 == 1) (cplTaken r s) := effect
    have kept := completion_keeps (l := [.hi, .mg, .bt, .tg]) (c := c) (r := r) (s := s) (by rw [force]; exact trimsInForce_keeps _ _ _)
    refine ⟨?_, kept.mono (by simp)⟩
    rw [bt, force, trimsInForce_bt]

/-- The oldest completion, where the ring has room. -/
theorem completionWrite_row (s : State) (c : Cpl) (r : List Cpl) (first : s.hi.cpls = c :: r) (wf : Memory.wf 0 s.hostMem = true)
    (room : cplRoom s = true) (wait : s.mg.smbWait = none) :
    let n := s.hi.cplTail.toNat
    let place := s.hi.cplBase.toNat + 32 * (n % s.hi.cplSize)
    let t := coreSettle (writeCpl c (cplTaken r s))
    exec .completionWrite s = .next t ∧ memRead 0 t.hostMem place 32 = cplBytes c (decide (n / s.hi.cplSize % 2 = 0)) s.hi.cmdHead
      ∧ HostSameOutside place 32 s t ∧ t.hi.cpls = r ∧ t.hi.cplTail = s.hi.cplTail + 1
      ∧ (c.wasExec = true → ∀ e ∈ t.hi.exec, e.entry.tag ≠ c.tag) ∧ (∀ e ∈ t.hi.exec, e ∈ s.hi.exec) := by
  intro n place t
  have mem : t.hostMem = memWrite 0 s.hostMem place (cplBytes c (decide (n / s.hi.cplSize % 2 = 0)) s.hi.cmdHead) :=
    (coreSettle_keeps _ .hostMem (by decide)).trans (writeCpl_hostMem c (cplTaken r s))
  have length := (cplBytes_fields c (decide (n / s.hi.cplSize % 2 = 0)) s.hi.cmdHead).1
  obtain ⟨cpls, tail, exec_⟩ := writeCpl_hi c (cplTaken r s)
  have hi : t.hi = (writeCpl c (cplTaken r s)).hi := coreSettle_keeps _ .hi (by decide)
  have left : t.hi.exec = if c.wasExec then s.hi.exec.filter fun e => e.entry.tag != c.tag else s.hi.exec := hi ▸ exec_
  refine ⟨exec_completionWrite_room first room wait, ?_, fun x apart => ?_, hi ▸ cpls, hi ▸ tail, fun was e mem_ => ?_, fun e mem_ => ?_⟩
  · have read := memRead_memWrite 0 s.hostMem place (cplBytes c (decide (n / s.hi.cplSize % 2 = 0)) s.hi.cmdHead) wf
    rw [length] at read
    rw [mem, read]
  · rw [mem]
    exact memGet_memWrite_other 0 _ _ _ _ wf (by rw [length]; exact apart)
  · rw [left, if_pos was] at mem_
    simpa using (List.mem_filter.mp mem_).2
  · rw [left] at mem_
    split at mem_
    · exact (List.mem_filter.mp mem_).1
    · exact mem_

/-- The message timer of the completion ring (R385). -/
theorem completionIrqTimer_row (s : State) (on : s.hi.cplIrq.getLsbD 31 = true) (some_ : s.hi.cplIrq.toNat % 256 ≠ 0)
    (unsig : s.hi.unsig ≠ 0) :
    let u := toTime (s.hi.unsigAt + 8192000 * (s.hi.cplIrq.toNat % 256)) s
    let v := s.hi.cplIrq.toNat / 2 ^ 16 % 64
    ∃ t, exec .completionIrqTimer s = .next t ∧ t.hi.unsig = 0 ∧ Keeps [.hi] u t
      ∧ (u.hi.msixMask.getLsbD v = false → t.hi.sent = u.hi.sent ++ [v])
      ∧ (u.hi.msixMask.getLsbD v = true → t.hi.sent = u.hi.sent ∧ t.hi.pba = u.hi.pba ||| (1#64 <<< v)) := by
  intro u v
  have time : fld s.hi.cplIrq.toNat 7 0 = s.hi.cplIrq.toNat % 256 := by simp [fld]
  have vector : fld u.hi.cplIrq.toNat 21 16 = v := by
    have same : u.hi.cplIrq = s.hi.cplIrq := hi_of_logless (f := HI.cplIrq) (fun _ => rfl) (toTime_logless _ s)
    rw [same]
    rfl
  have row : exec .completionIrqTimer s = .next (msix v { u with hi := { u.hi with unsig := 0 } }) := by
    show execCompletionIrqTimer s = _
    rw [execCompletionIrqTimer]
    dsimp only
    rw [time, if_pos ⟨on, some_, unsig⟩]
    show Host.Outcome.next (msix (fld u.hi.cplIrq.toNat 21 16) { u with hi := { u.hi with unsig := 0 } }) = _
    rw [vector]
  obtain ⟨sends, waits⟩ := msix_sends v { u with hi := { u.hi with unsig := 0 } }
  exact ⟨_, row, rfl, (setHi_keeps _ u).trans (msix_keeps _ _), sends, waits⟩

/-- Settles O48: the start of the oldest entry by its tag, the history and its checks; the two commands of HI; the oldest completion with what takes
effect; the message timer; and each row without a command. -/
theorem commandsStartAndComplete : Obligations.commandsStartAndComplete := by
  refine ⟨fun s c r src first free => commandStart_rows s c r src first free, fun s c r src first waits => ?_,
    fun s tag e => ⟨fun runs => ?_, fun runs => ?_⟩, fun s c r first wf => ?_, completionIrqTimer_row, fun s tag src dr dev => ?_⟩
  · have row := exec_commandStart src first
    rwa [if_pos waits] at row
  · exact ⟨_, exec_hiNop runs, answer_answered e 0 [] s, answer_keeps e 0 [] s⟩
  · exact ⟨_, infoBytes s, exec_hiInfo runs, answer_answered e 0 _ s, answer_keeps e 0 _ s, infoBytes_fields s⟩
  · intro n place bytes
    obtain ⟨length, tag, status, head⟩ := cplBytes_fields c (decide (n / s.hi.cplSize % 2 = 0)) s.hi.cmdHead
    refine ⟨length, tag, status, head, fun room wait => ?_, exec_completionWrite_full⟩
    obtain ⟨row, read, apart, cpls, tail, ended, kept⟩ := completionWrite_row s c r first wf room wait
    refine ⟨_, row, read, apart, cpls, tail, ended, kept, (completion_keeps (takesEffect_keeps c _)).mono (by simp), fun idle => ?_,
      fun e was good found => completion_effects was good found⟩
    exact completion_keeps (l := []) (by rw [takesEffect_none idle]; exact Keeps.refl _ _)
  · simp only [List.forall_mem_cons, List.not_mem_nil, false_implies, implies_true, and_true]
    and_intros <;> exact fun idle => congrArg Host.Outcome.next (runCmd_none idle _)

end

section
/-! SUPPORT. The registers of the rings and the fetch of command entries (R386, R387, R391); the statement on them. -/

namespace Sys2Proof.Machine

open Sys2Proof

/-! ### A register row by the front of the posted writes -/

theorem applyReg_other {base n cur : Nat} {ok : Nat → Bool} {s : State} (other : written base n cur ok s = false) (f : State → State) :
    applyReg base n cur ok f s = s := if_neg (by simp [other])

theorem applyReg_front {base n cur : Nat} {ok : Nat → Bool} {s : State} (front : written base n cur ok s = true) (f : State → State) :
    applyReg base n cur ok f s = f (popWrite base n s) := if_pos front

/-! ### The rings (R386, R387) -/

/-- A register outside the traces after an ignored write. -/
theorem ringError_reg {α : Type} {f : HI → α} (outside : ∀ a b, f (withTrace a b) = f b) (reg v : Nat) (s : State) :
    f (ringError reg v s).hi = f (ringErrored s.hi) :=
  (outside (ringErrored s.hi) (ringError reg v s).hi).symm.trans (congrArg f (ringError_hi reg v s))

theorem ringError_set (reg v : Nat) (s : State) : (ringError reg v s).hi.ringErr = true :=
  ringError_reg (f := HI.ringErr) (fun _ _ => rfl) reg v s

theorem validEntries_iff (n : Nat) : validEntries n = true ↔ n ∈ [64, 128, 256, 512, 1024, 2048, 4096] := List.contains_iff_mem

/-- A valid number of entries is no multiple of 8,192. -/
theorem entries_small {n : Nat} (good : n ∈ [64, 128, 256, 512, 1024, 2048, 4096]) : n % 8192 = n ∧ n ≠ 0 := by
  simp only [List.mem_cons, List.not_mem_nil, or_false] at good
  omega

/-- A size that an open ring, or a ring, does not take. -/
theorem sizeIgnored_iff (size n : Nat) :
    (size ≠ 0 ∨ ¬ validEntries n = true) ↔ (size ≠ 0 ∨ n ∉ [64, 128, 256, 512, 1024, 2048, 4096]) := by
  rw [validEntries_iff]

/-- The command ring opened with a number of entries. -/
def cmdOpened (n : Nat) (s : State) : State :=
  { s with hi := { s.hi with cmdSize := n, cmdDb := 0, cmdHead := 0, history := [] } }

theorem cmdSizeWrite_opens {v : W32} {s : State} (closed : s.hi.cmdSize = 0) (good : v.toNat ∈ [64, 128, 256, 512, 1024, 2048, 4096]) :
    cmdSizeWrite v s = issue 0x0E04 [i2 v.toNat] (cmdOpened v.toNat s) := by
  obtain ⟨small, some_⟩ := entries_small good
  have taken : ¬ (s.hi.cmdSize ≠ 0 ∨ ¬ validEntries v.toNat = true) := by
    rw [sizeIgnored_iff]
    exact fun h => h.elim (fun open_ => open_ closed) fun bad => bad good
  unfold cmdSizeWrite
  dsimp only
  rw [small, if_neg some_, if_neg taken]
  rfl

/-- The command ring closed. -/
def cmdClosed (s : State) : State := { s with hi := { s.hi with cmdSize := 0, dbLatch := false } }

theorem cmdSizeWrite_closes {s : State} (open_ : s.hi.cmdSize ≠ 0) :
    cmdSizeWrite 0 s = issue 0x0E05 [i2 (cntDiff s.hi.cmdDb s.hi.cmdHead)] (cmdClosed s) := by
  unfold cmdSizeWrite
  dsimp only
  rw [if_pos (by rfl), if_neg open_]
  rfl

theorem cmdSizeWrite_ignored {v : W32} {s : State} (some_ : v.toNat % 8192 ≠ 0)
    (bad : s.hi.cmdSize ≠ 0 ∨ v.toNat % 8192 ∉ [64, 128, 256, 512, 1024, 2048, 4096]) : cmdSizeWrite v s = ringError 1 v.toNat s := by
  unfold cmdSizeWrite
  dsimp only
  rw [if_neg some_, if_pos ((sizeIgnored_iff _ _).mpr bad)]

theorem cplSizeWrite_opens {v : W32} {s : State} (closed : s.hi.cplSize = 0) (good : v.toNat ∈ [64, 128, 256, 512, 1024, 2048, 4096]) :
    cplSizeWrite v s = { s with hi := { s.hi with cplSize := v.toNat, cplTail := 0, cplHead := 0 } } := by
  obtain ⟨small, some_⟩ := entries_small good
  have taken : ¬ (s.hi.cplSize ≠ 0 ∨ ¬ validEntries v.toNat = true) := by
    rw [sizeIgnored_iff]
    exact fun h => h.elim (fun open_ => open_ closed) fun bad => bad good
  unfold cplSizeWrite
  dsimp only
  rw [small, if_neg some_, if_neg taken]

theorem cplSizeWrite_closes {s : State} (exec_ : s.hi.exec = []) (cpls : s.hi.cpls = []) :
    cplSizeWrite 0 s = { s with hi := { s.hi with cplSize := 0 } } := by
  unfold cplSizeWrite
  dsimp only
  rw [if_pos (by rfl), if_pos ⟨by rw [exec_]; rfl, by rw [cpls]; rfl⟩]

theorem cplSizeWrite_ignored {v : W32} {s : State} (bad : v = 0 ∧ (s.hi.exec ≠ [] ∨ s.hi.cpls ≠ [])
    ∨ v.toNat % 8192 ≠ 0 ∧ (s.hi.cplSize ≠ 0 ∨ v.toNat % 8192 ∉ [64, 128, 256, 512, 1024, 2048, 4096])) :
    cplSizeWrite v s = ringError 5 v.toNat s := by
  unfold cplSizeWrite
  dsimp only
  rcases bad with ⟨rfl, busy⟩ | ⟨some_, bad⟩
  · have stays : ¬ (s.hi.exec.isEmpty = true ∧ s.hi.cpls.isEmpty = true) := by
      rw [List.isEmpty_iff, List.isEmpty_iff]
      exact fun h => busy.elim (fun e => e h.1) fun c => c h.2
    rw [if_pos (by rfl), if_neg stays]
  · rw [if_neg some_, if_pos ((sizeIgnored_iff _ _).mpr bad)]

/-! ### The fetch (R391) -/

theorem padTo_full {n : Nat} {l : List Byte} (full : l.length = n) : padTo n l = l := by
  rw [padTo, ← full, List.take_length, Nat.sub_self]
  exact List.append_nil l

/-- What an entry of 64 bytes names (Table 15.9). -/
theorem entryOf_fields {l : List Byte} (full : l.length = 64) :
    (entryOf l).opcode.toNat = fieldAt l 0 2 ∧ (entryOf l).tag.toNat = fieldAt l 2 2 ∧ (entryOf l).pay = slice l 16 48
      ∧ ((entryOf l).indirect = true ↔ (fieldAt l 4 1).testBit 0 = true) := by
  have word (o : Nat) : (BitVec.ofNat 16 (fieldAt l o 2)).toNat = fieldAt l o 2 :=
    (BitVec.toNat_ofNat _ _).trans (Nat.mod_eq_of_lt (fieldAt_lt l o 2))
  unfold entryOf
  dsimp only
  rw [padTo_full full]
  exact ⟨word 0, word 2, rfl, Iff.rfl⟩

theorem mayFetch_iff (s : State) : mayFetch s = true
    ↔ s.bt.fwReady = true ∧ s.hi.cmdSize ≠ 0 ∧ s.hi.cmdHead ≠ s.hi.cmdDb ∧ execCount s < 64 ∧ s.mg.pstate ≠ 4 := by
  rw [mayFetch, Bool.and_eq_true, decide_eq_true_iff]

end Sys2Proof.Machine

open Sys2Proof Sys2Proof.Machine

/-- Settles O47: each register's write by the value it takes or ignores, and the fetch of one entry. -/
theorem ringsAndDoorbell : Obligations.ringsAndDoorbell := by
  refine ⟨fun s v => ⟨fun other => ?_, fun other => ?_, fun other => ?_, fun other => ?_⟩, fun s v front => ?_, fun s v front => ?_,
    fun s v front => ?_, fun s v front => ?_, fun s l full => ?_⟩
  · exact congrArg Host.Outcome.next (applyReg_other other _)
  · exact congrArg Host.Outcome.next (applyReg_other other _)
  · exact congrArg Host.Outcome.next (applyReg_other other _)
  · exact congrArg Host.Outcome.next (applyReg_other other _)
  · intro u good
    have row : exec (.hiCmdSize v) s = .next (cmdSizeWrite v u) := congrArg Host.Outcome.next (applyReg_front front _)
    refine ⟨fun closed taken => ?_, fun open_ zero_ => ?_, fun some_ bad => ?_⟩
    · rw [cmdSizeWrite_opens closed taken] at row
      have reg {α : Type} {f : HI → α} (outside : ∀ b, f (withTrace {} b) = f b) :=
        issue_reg outside 0x0E04 [i2 v.toNat] (cmdOpened v.toNat u)
      exact ⟨_, row, reg (f := HI.cmdSize) fun _ => rfl, reg (f := HI.cmdDb) fun _ => rfl, reg (f := HI.cmdHead) fun _ => rfl,
        reg (f := HI.history) fun _ => rfl, (reg (f := HI.ringErr) fun _ => rfl).trans rfl,
        ((setHi_keeps _ u).mono (by simp)).trans (issue_keeps _ _ _)⟩
    · subst zero_
      rw [cmdSizeWrite_closes open_] at row
      have reg {α : Type} {f : HI → α} (outside : ∀ b, f (withTrace {} b) = f b) :=
        issue_reg outside 0x0E05 [i2 (cntDiff u.hi.cmdDb u.hi.cmdHead)] (cmdClosed u)
      exact ⟨_, row, reg (f := HI.cmdSize) fun _ => rfl, (reg (f := HI.fetched) fun _ => rfl).trans rfl,
        (reg (f := HI.exec) fun _ => rfl).trans rfl, ((setHi_keeps _ u).mono (by simp)).trans (issue_keeps _ _ _)⟩
    · rw [cmdSizeWrite_ignored some_ bad] at row
      exact ⟨_, row, ringError_set _ _ u, ringError_reg (f := HI.cmdSize) (fun _ _ => rfl) _ _ u,
        ringError_reg (f := HI.cmdHead) (fun _ _ => rfl) _ _ u, ringError_keeps _ _ u⟩
  · intro u
    have row : exec (.hiCplSize v) s = .next (cplSizeWrite v u) := congrArg Host.Outcome.next (applyReg_front front _)
    refine ⟨fun closed taken => ?_, fun zero_ exec_ cpls => ?_, fun bad => ?_⟩
    · rwa [cplSizeWrite_opens closed taken] at row
    · subst zero_
      rwa [cplSizeWrite_closes exec_ cpls] at row
    · rw [cplSizeWrite_ignored bad] at row
      exact ⟨_, row, ringError_set _ _ u, ringError_reg (f := HI.cplSize) (fun _ _ => rfl) _ _ u, ringError_keeps _ _ u⟩
  · intro u good
    have row : exec (.hiCmdDb v) s
        = .next (if dbOk v u then { u with hi := { u.hi with cmdDb := v, dbLatch := true } } else ringError 2 v.toNat u) :=
      congrArg Host.Outcome.next (applyReg_front front _)
    refine ⟨fun accepted => ?_, fun refused => ?_⟩
    · rwa [if_pos (show dbOk v u = true from decide_eq_true accepted)] at row
    · rw [if_neg fun h : dbOk v u = true => refused (of_decide_eq_true h)] at row
      exact ⟨_, row, ringError_set _ _ u, ringError_reg (f := HI.cmdDb) (fun _ _ => rfl) _ _ u, ringError_keeps _ _ u⟩
  · intro u good
    have row : exec (.hiCplHead v) s
        = .next (if cplHeadOk v u then { u with hi := { u.hi with cplHead := v } } else ringError 7 v.toNat u) :=
      congrArg Host.Outcome.next (applyReg_front front _)
    refine ⟨fun accepted => ?_, fun refused => ?_⟩
    · rwa [if_pos (show cplHeadOk v u = true from decide_eq_true accepted)] at row
    · rw [if_neg fun h : cplHeadOk v u = true => refused (of_decide_eq_true h)] at row
      exact ⟨_, row, ringError_set _ _ u, ringError_reg (f := HI.cplHead) (fun _ _ => rfl) _ _ u, ringError_keeps _ _ u⟩
  · intro can
    have row : exec (.commandFetch l) s = .next (if mayFetch s then fetchEntry l s else s) := rfl
    refine ⟨fun may => ?_, fun stays => ?_⟩
    · obtain ⟨opcode, tag, pay, indirect⟩ := entryOf_fields full
      rw [if_pos ((mayFetch_iff s).mpr may)] at row
      exact ⟨_, entryOf l, row, rfl, opcode, tag, pay, indirect, rfl, rfl, rfl, rfl, setHiMg_keeps _ _ s⟩
    · rwa [if_neg (fun h => stays ((mayFetch_iff s).mp h))] at row

end

section
/-! SUPPORT. The calibration commands (R444 to R446); the statement on them. -/

namespace Sys2Proof.Machine

open Sys2Proof

/-! ### Bytes that a write leaves in a memory -/

/-- A part of what was written reads back. -/
theorem memRead_memWrite_slice {d : Byte} {m : Mem} {l : List Byte} (wf : Memory.wf d m = true) (a : Nat) {o n : Nat}
    (inside : o + n ≤ l.length) : memRead d (memWrite d m a l) (a + o) n = slice l o n := by
  have whole := memRead_memWrite d m a l wf
  obtain ⟨k, length⟩ : ∃ k, l.length = o + (n + k) := ⟨l.length - (o + n), by omega⟩
  rw [length, memRead_add, memRead_add] at whole
  rw [slice, ← congrArg (fun l => (l.drop o).take n) whole, List.drop_left' (memRead_length _ _ _ _),
    List.take_left' (memRead_length _ _ _ _)]

theorem padTo_short {n : Nat} {l : List Byte} (fits : l.length ≤ n) : padTo n l = l ++ zeros (n - l.length) := by
  rw [padTo, List.take_of_length_le fits]

/-- The start of one record in a table of records of one length. -/
theorem slice_record {α : Type} {f : α → List Byte} {k : Nat} (each : ∀ x, (f x).length = k) {n : Nat} (short : n ≤ k) {l : List α} {i : Nat}
    {x : α} (at_ : l[i]? = some x) : slice (l.flatMap f) (k * i) n = slice (f x) 0 n := by
  induction l generalizing i with
  | nil => simp at at_
  | cons y l ih =>
    cases i with
    | zero =>
      obtain rfl : y = x := by simpa using at_
      simp only [List.flatMap_cons, slice, Nat.mul_zero, List.drop_zero]
      exact List.take_append_of_le_length (by rw [each]; exact short)
    | succ i =>
      rw [← ih (i := i) (by simpa using at_), List.flatMap_cons, slice, slice, Nat.mul_succ, Nat.add_comm, ← List.drop_drop,
        List.drop_left' (each y)]

/-! ### `CAL_SAVE` (R444) -/

theorem nominalGen_length : nominalGen.length = 163 := by simp [nominalGen, List.length_flatMap, zeros]

theorem trimBody_length (s : State) : (trimBody s).length = trimBytes := by
  have gens (n : Nat) : ((List.range n).flatMap fun _ => nominalGen).length = n * 163 := by
    simp [List.length_flatMap, nominalGen_length]
  unfold trimBody
  split
  · exact memRead_length _ _ _ _
  · rw [List.length_append, gens, List.length_map, List.length_range]
    rfl

/-- The fields of a saved header that are not free: 40 bytes, padded. -/
theorem trimHeader_fields (body : List Byte) (s : State) :
    (trimHeader body s).length = 512 ∧ fieldAt (trimHeader body s) 0 4 = 0x4B59434C ∧ fieldAt (trimHeader body s) 6 2 = 6 := by
  have fits : (leBytes 4 0x4B59434C ++ leBytes 2 1 ++ leBytes 2 6 ++ zeros 8 ++ leBytes 4 body.length ++ leBytes 4 (crc32c body).toNat
      ++ freeBytes 16 s).length ≤ 512 := by
    simp [freeBytes, zeros]
  refine ⟨padTo_length fits, ?_, ?_⟩
  · rw [trimHeader, padTo_short fits]
    simp only [List.append_assoc]
    exact fieldAt_leBytes_append _ _ _
  · rw [trimHeader, padTo_short fits]
    simp only [List.append_assoc]
    exact (fieldAt_skip 4 _ _ 2 2).trans ((fieldAt_skip 2 _ _ 0 2).trans (fieldAt_leBytes_append _ _ _))

/-- The image that `CAL_SAVE` writes. -/
def savedImage (s : State) : List Byte := trimHeader (trimBody s) s ++ trimBody s

theorem savedImage_length (s : State) : (savedImage s).length = 1230400 := by
  rw [savedImage, List.length_append, (trimHeader_fields _ _).1, trimBody_length]
  rfl

theorem savedImage_body (s : State) : slice (savedImage s) 512 1229888 = trimBody s := by
  rw [slice, savedImage, List.drop_left' (trimHeader_fields _ _).1, List.take_of_length_le (by rw [trimBody_length]; exact Nat.le_refl _)]

/-- A field of the saved header stands at its place in the image. -/
theorem savedImage_field (s : State) (o n : Nat) (inside : o + n ≤ 512) :
    slice (savedImage s) o n = slice (trimHeader (trimBody s) s) o n := by
  have length := (trimHeader_fields (trimBody s) s).1
  rw [slice, slice, savedImage, List.drop_append_of_le_length (by omega),
    List.take_append_of_le_length (by rw [List.length_drop]; omega)]

section
variable {s : State} {tag : W16} {e : Exec}

theorem exec_calSave (runs : executing 0x1005 tag s = some e) : exec (.calSave tag) s = .next (calSaveCmd e s) :=
  congrArg Host.Outcome.next (runCmd_some runs _)

theorem exec_calLoad (src : HostRead) (ok : Bool) (runs : executing 0x1006 tag s = some e) :
    exec (.calLoad tag src ok) s = .next (calLoadCmd src ok e s) := congrArg Host.Outcome.next (runCmd_some runs _)

theorem exec_calCheck (dev : List Int) (runs : executing 0x1007 tag s = some e) :
    exec (.calCheck tag dev) s = .next (calCheckCmd dev e s) := congrArg Host.Outcome.next (runCmd_some runs _)

/-- The state in which `CAL_SAVE` has written its image. -/
def imageSaved (a : Nat) (s : State) : State := takeFrees 16 (hostWrite a (savedImage s) s)

theorem calSaveCmd_good (rest : payZero e 8 40 = true) (aligned : payF e 0 8 % 64 = 0) :
    calSaveCmd e s = answer e eOk (leBytes 4 (512 + trimBytes)) (imageSaved (payF e 0 8) s) := by
  rw [calSaveCmd, checked_pass (by simp [rest, aligned]), checked_nil]
  rfl

theorem calSaveCmd_bad (odd : payF e 0 8 % 64 ≠ 0) : calSaveCmd e s = answer e eInval [] s := by
  rw [calSaveCmd, checked_fail (by simp [odd])]

theorem imageSaved_keeps (a : Nat) (s : State) : Keeps [.hostMem, .freeCtr] s (imageSaved a s) :=
  ((hostWrite_keeps a _ s).mono (by simp)).trans ((setFree_keeps _ _).mono (by simp))

theorem imageSaved_hostMem (a : Nat) (s : State) : (imageSaved a s).hostMem = memWrite 0 s.hostMem a (savedImage s) := rfl

/-! ### `CAL_LOAD` (R444) -/

section
variable {src : HostRead} {ok : Bool} (store : payF e 8 1 = 0) (rest : payZero e 9 3 = true) (rest' : payZero e 16 32 = true)
  (most : payF e 12 4 ≤ 3145728) (least : 512 ≤ payF e 12 4) (read : src.fail = none)
include store rest rest' most least read

/-- An image that was read is refused with the status of its first failing check. -/
theorem calLoadCmd_refused {st : Nat} (fails : calRefusal (hostBytes src (payF e 0 8) 512)
    (hostBytes src (payF e 0 8 + 512) (payF e 12 4 - 512)) (payF e 12 4) s.bt.serial = some st) :
    calLoadCmd src ok e s = answer e st [] s := by
  unfold calLoadCmd
  dsimp only
  rw [checked_pass (by simp [store, rest, rest']), checked_pass (by simpa using most), checked_pass (by simpa using least),
    checked_pass (by simp [read]), checked_nil, fails]

/-- An image that passes its checks is accepted; nothing is stored where that is not asked for. -/
theorem calLoadCmd_accepted (passes : calRefusal (hostBytes src (payF e 0 8) 512)
    (hostBytes src (payF e 0 8 + 512) (payF e 12 4 - 512)) (payF e 12 4) s.bt.serial = none) :
    calLoadCmd src ok e s
      = calApply ok false e (hostBytes src (payF e 0 8) 512) (hostBytes src (payF e 0 8 + 512) (payF e 12 4 - 512)) s := by
  unfold calLoadCmd
  dsimp only
  rw [checked_pass (by simp [store, rest, rest']), checked_pass (by simpa using most), checked_pass (by simpa using least),
    checked_pass (by simp [read]), checked_nil, passes, show (payF e 8 1 == 1) = false by rw [store]; rfl]

end

/-- An image that is not to be stored is kept by its command. -/
theorem calApply_keeps (ok : Bool) (h body : List Byte) :
    calApply ok false e h body s = answer e eOk [] (updExec e.entry.tag (fun x => { x with ind := h ++ body }) s) := by
  unfold calApply
  simp

theorem updExec_keeps (tag : W16) (f : Exec → Exec) (s : State) : Keeps [.hi] s (updExec tag f s) := setHi_keeps _ s

/-- Every executing command of the tag is changed. -/
theorem mem_updExec {f : Exec → Exec} {x : Exec} (mem : x ∈ (updExec tag f s).hi.exec)
    (own : x.entry.tag = tag) : ∃ y ∈ s.hi.exec, x = f y := by
  obtain ⟨y, memY, same⟩ := List.mem_map.mp mem
  by_cases hers : y.entry.tag = tag
  · rw [if_pos hers] at same
    exact ⟨y, memY, same.symm⟩
  · rw [if_neg hers] at same
    exact absurd (same ▸ own) hers

/-! ### `CAL_CHECK` (R445, R446) -/

theorem deviations_length (d : List Int) (n : Nat) :
    (((List.range n).map fun i => d.getD i 0).flatMap fun x => leBytes 4 (unsgn 32 x)).length = 4 * n := by
  rw [List.length_flatMap, List.map_congr_left fun x _ => leBytes_length 4 (unsgn 32 x), List.map_const', List.sum_replicate]
  simp [Nat.mul_comm]

theorem checkRecord_length (p : Pin) (dev : List Int) : (checkRecord p dev).length = 128 :=
  padTo_length (by simp [zeros, -List.getD_eq_getElem?_getD, -List.length_flatMap, deviations_length])

/-- A record begins with its pin. -/
theorem checkRecord_pin (p : Pin) (dev : List Int) : leNat (slice (checkRecord p dev) 0 2) = p.val := by
  have field : fieldAt (checkRecord p dev) 0 2 = p.val % 256 ^ 2 := by
    unfold checkRecord
    dsimp only
    rw [padTo_short (by simp [zeros, -List.getD_eq_getElem?_getD, -List.length_flatMap, deviations_length])]
    simp only [List.append_assoc]
    exact fieldAt_leBytes_append _ _ _
  exact field.trans (Nat.mod_eq_of_lt (by omega))

/-- The records of the pins, ascending. -/
def checkRecs (dev : List Int) (e : Exec) : List (Pin × List Int) :=
  (measPins e).zipIdx.map fun x => (x.1, (dev.drop (18 * x.2)).take 18)

theorem checkRecs_bytes (dev : List Int) (e : Exec) :
    ((checkRecs dev e).flatMap fun x => checkRecord x.1 x.2).length = 128 * (measPins e).length := by
  rw [List.length_flatMap, List.map_congr_left fun x _ => checkRecord_length x.1 x.2, List.map_const', List.sum_replicate, smul_eq_mul,
    Nat.mul_comm, checkRecs, List.length_map, List.length_zipIdx]

theorem checkRecs_get {dev : List Int} {e : Exec} {i : Nat} {p : Pin} (at_ : (measPins e)[i]? = some p) :
    (checkRecs dev e)[i]? = some (p, (dev.drop (18 * i)).take 18) := by
  simp [checkRecs, at_]

/-- The state in which the records are written. -/
def recsWritten (dev : List Int) (e : Exec) (s : State) : State :=
  hostWrite (payF e 64 8) ((checkRecs dev e).flatMap fun x => checkRecord x.1 x.2) s

/-- `CAL_CHECK` ends with its records, and an event where a pin is flagged. -/
theorem checkRun_eq (dev : List Int) (e : Exec) (s : State) :
    checkRun dev e s = answer e eOk [] (recsWritten dev e s)
      ∨ ∃ items, checkRun dev e s = answer e eOk [] (issue 0x1009 items (recsWritten dev e s)) := by
  unfold checkRun
  dsimp only
  split
  · exact .inl rfl
  · exact .inr ⟨_, rfl⟩

/-- What an accepted `CAL_CHECK` has done when it answers. -/
def Checked (e : Exec) (s t : State) : Prop :=
  t.hi.cpls = s.hi.cpls ++ [cplOf e 0 []]
    ∧ HostSameOutside (payF e 64 8) (128 * (measPins e).length) s t ∧ Keeps [.pf, .hi, .hostMem, .mg] s t
    ∧ ∀ (i : Nat) (p : Pin), (measPins e)[i]? = some p → leNat (memRead 0 t.hostMem (payF e 64 8 + 128 * i) 2) = p.val

theorem checkRun_checked {u : State} (dev : List Int) (wf : Memory.wf 0 s.hostMem = true) (asked : Keeps [.pf, .hi] s u)
    (cpls : u.hi.cpls = s.hi.cpls) : Checked e s (checkRun dev e u) := by
  have host : (checkRun dev e u).hostMem = (recsWritten dev e u).hostMem ∧ (checkRun dev e u).hi.cpls = u.hi.cpls ++ [cplOf e 0 []]
      ∧ Keeps [.hi, .mg] (recsWritten dev e u) (checkRun dev e u) := by
    rcases checkRun_eq dev e u with quiet | ⟨items, event⟩
    · rw [quiet]
      exact ⟨rfl, rfl, (answer_keeps _ _ _ _).mono (by simp)⟩
    · rw [event]
      refine ⟨issue_keeps _ _ _ .hostMem (by decide), ?_, (issue_keeps _ _ _).trans ((answer_keeps _ _ _ _).mono (by simp))⟩
      rw [answer_cpls, issue_reg (f := HI.cpls) (fun _ => rfl)]
      rfl
  obtain ⟨mem, queued, kept⟩ := host
  have same : u.hostMem = s.hostMem := asked .hostMem (by decide)
  have written : (checkRun dev e u).hostMem
      = memWrite 0 s.hostMem (payF e 64 8) ((checkRecs dev e).flatMap fun x => checkRecord x.1 x.2) := by
    rw [mem, ← same]
    rfl
  have length := checkRecs_bytes dev e
  refine ⟨by rw [queued, cpls], fun x apart => ?_, ?_, fun i p at_ => ?_⟩
  · rw [written]
    exact memGet_memWrite_other 0 _ _ _ _ wf (by rw [length]; exact apart)
  · exact ((asked.mono (by simp)).trans ((hostWrite_keeps _ _ u).mono (by simp))).trans (kept.mono (by simp))
  · have inside : i < (measPins e).length := (List.getElem?_eq_some_iff.mp at_).1
    rw [written, memRead_memWrite_slice wf _ (by omega),
      slice_record (fun x : Pin × List Int => checkRecord_length x.1 x.2) (by decide) (checkRecs_get at_)]
    exact checkRecord_pin _ _

theorem setPf_keeps (x : PF) (s : State) : Keeps [.pf] s { s with pf := x } := by
  intro p hp
  cases p <;> simp [samePart] at hp ⊢

theorem adcLeave_keeps (tag : W16) (s : State) : Keeps [.pf] s (adcLeave tag s) := setPf_keeps _ s

theorem calCheckCmd_waiting (dev : List Int) (asked : e.left ≠ []) : calCheckCmd dev e s = checkTurn dev e s := by
  unfold calCheckCmd
  dsimp only
  exact if_pos (by simpa using asked)

/-- The state in which the command holds the pins that it has asked for. -/
def askingPins (e : Exec) (s : State) : State := updExec e.entry.tag (fun x => { x with left := measPins e }) s

/-- The state in which `CAL_CHECK` has asked for the ADCs of its pins. -/
def checkAsked (e : Exec) (s : State) : State :=
  askMeas (some e.entry.tag) (measPins e) 0 0 (askingPins e s)

/-- A first `CAL_CHECK` by its checks. -/
theorem calCheckCmd_first (dev : List Int) (fresh : e.left = []) (some_ : measPins e ≠ []) (aligned : payF e 64 8 % 8 = 0) :
    calCheckCmd dev e s = checked [(s.bt.cal == 0, eUncal)
      , ((measPins e).any fun p => s.pins[p].ctl.func != 0 && !pinParked s p, eState)] e
      (fun t => checkTurn dev e (askMeas (some e.entry.tag) (measPins e) 0 0
        (updExec e.entry.tag (fun x => { x with left := measPins e }) t))) s := by
  unfold calCheckCmd
  dsimp only
  rw [if_neg (by simp [fresh]), checked_pass (by simp [some_, aligned])]

theorem checkAsked_keeps (e : Exec) (s : State) : Keeps [.pf, .hi] s (checkAsked e s) := by
  intro p hp
  cases p <;> first | exact absurd (by decide) hp | simp [samePart, checkAsked, askingPins]

theorem checkAsked_cpls (e : Exec) (s : State) : (checkAsked e s).hi.cpls = s.hi.cpls := by
  have hi : (checkAsked e s).hi = (askingPins e s).hi := by simp [checkAsked]
  rw [hi]
  rfl

/-- Requests do not touch a measurement in progress. -/
theorem askOnes_cur (src : Option W16) (settle log2n now : Nat) (pins : List Pin) (t : State) (g : Glove) :
    (pins.foldl (askOne src settle log2n now) t).pf.adcs[g].cur = t.pf.adcs[g].cur := by
  refine foldl_keeps (fun t : State => t.pf.adcs[g].cur) (fun u p => ?_) pins t
  by_cases own : gloveOf p = g
  · subst own
    rw [askOne, updAdc_adcs, vupd_self]
  · rw [askOne, updAdc_adcs, vupd_other _ _ own]

/-- Queues that hold a command's requests only hold no others after further ones. -/
theorem askOnes_own {tag : W16} (settle log2n now : Nat) (pins : List Pin) {t : State} {g : Glove}
    (own : ∀ r ∈ t.pf.adcs[g].queue, r.src = some tag) :
    ∀ r ∈ (pins.foldl (askOne (some tag) settle log2n now) t).pf.adcs[g].queue, r.src = some tag := by
  induction pins generalizing t with
  | nil => exact own
  | cons p pins ih =>
    refine ih ?_
    by_cases hers : gloveOf p = g
    · subst hers
      rw [askOne, updAdc_adcs, vupd_self]
      intro r mem
      rcases List.mem_append.mp (show r ∈ t.pf.adcs[gloveOf p].queue ++ [_] from mem) with old | new
      · exact own r old
      · rw [List.mem_singleton.mp new]
    · rwa [askOne, updAdc_adcs, vupd_other _ _ hers]

theorem checkAsked_adcs (e : Exec) (s : State) : (checkAsked e s).pf.adcs
    = ((measPins e).foldl (askOne (some e.entry.tag) 0 0 s.tb.now) (askingPins e s)).pf.adcs := by
  have tb : (askingPins e s).tb = s.tb := rfl
  rw [checkAsked, askMeas_eq, tb]

/-- The ADC of a glove once the pins are asked for: its measurement as before, and only the command's requests where there was none. -/
theorem checkAsked_adc (e : Exec) (s : State) (g : Glove) :
    (checkAsked e s).pf.adcs[g].cur = s.pf.adcs[g].cur
      ∧ (s.pf.adcs[g].queue = [] → (∀ r ∈ (checkAsked e s).pf.adcs[g].queue, r.src = some e.entry.tag)
        ∧ (checkAsked e s).pf.adcs[g].queue.length = ((measPins e).filter fun r => gloveOf r = g).length) := by
  have pf : (askingPins e s).pf = s.pf := rfl
  have cur := askOnes_cur (some e.entry.tag) 0 0 s.tb.now (measPins e) (askingPins e s) g
  have grown := askOnes_queue (some e.entry.tag) 0 0 s.tb.now (measPins e) (askingPins e s) g
  rw [← checkAsked_adcs, pf] at cur grown
  refine ⟨cur, fun none_ => ⟨?_, ?_⟩⟩
  · rw [checkAsked_adcs]
    exact askOnes_own 0 0 s.tb.now (measPins e) fun r old => absurd (none_ ▸ pf ▸ old) List.not_mem_nil
  · rw [grown, none_, List.length_nil, Nat.zero_add]

/-- The first of a command's own requests is its own. -/
theorem head_own {q : List MeasReq} {tag : W16} (own : ∀ r ∈ q, r.src = some tag) (some_ : 0 < q.length) :
    (q.head?.any fun r => r.src == some tag) = true := by
  cases q with
  | nil => exact absurd some_ (Nat.lt_irrefl 0)
  | cons r q => simp [own r List.mem_cons_self]

/-- At gloves without a measurement or a request, the turn comes at once. -/
theorem adcTurn_checkAsked (idle : ∀ p ∈ measPins e, s.pf.adcs[gloveOf p].cur = none ∧ s.pf.adcs[gloveOf p].queue = []) :
    adcTurn e (checkAsked e s) = true := by
  refine List.all_eq_true.mpr fun p mem => ?_
  obtain ⟨none_, queue⟩ := idle p mem
  obtain ⟨cur, requests⟩ := checkAsked_adc e s (gloveOf p)
  obtain ⟨own, length⟩ := requests queue
  have pos : 0 < ((measPins e).filter fun r => gloveOf r = gloveOf p).length :=
    List.length_pos_of_mem (List.mem_filter.mpr ⟨mem, by simp⟩)
  rw [Bool.and_eq_true, cur, none_]
  exact ⟨rfl, head_own own (pos.trans_eq length.symm)⟩

/-- At a glove that measures, the turn does not come. -/
theorem adcTurn_measuring (busy : ∃ p ∈ measPins e, s.pf.adcs[gloveOf p].cur ≠ none) : adcTurn e (checkAsked e s) = false := by
  obtain ⟨p, mem, measures⟩ := busy
  refine List.all_eq_false.mpr ⟨p, mem, ?_⟩
  have cur := (checkAsked_adc e s (gloveOf p)).1
  rw [Bool.and_eq_true, cur]
  exact fun both => measures (Option.isNone_iff_eq_none.mp both.1)

end

end Sys2Proof.Machine

open Sys2Proof Sys2Proof.Machine

/-- `CAL_SAVE` by the alignment of its address. -/
theorem calSave_rows (s : State) (tag : W16) (e : Exec) (runs : executing 0x1005 tag s = some e) (rest : payZero e 8 40 = true)
    (wf : Memory.wf 0 s.hostMem = true) :
    let a := payF e 0 8
    (a % 64 = 0 → ∃ t data, exec (.calSave tag) s = .next t ∧ Answered e 0 data s t ∧ fieldAt data 0 4 = 1230400
        ∧ HostSameOutside a 1230400 s t ∧ leNat (memRead 0 t.hostMem a 4) = 0x4B59434C ∧ leNat (memRead 0 t.hostMem (a + 6) 2) = 6
        ∧ memRead 0 t.hostMem (a + 512) 1229888 = trimBody s ∧ Keeps [.hi, .hostMem, .freeCtr] s t)
    ∧ (a % 64 ≠ 0 → ∃ t, exec (.calSave tag) s = .next t ∧ Answered e 2 [] s t ∧ Keeps [.hi] s t) := by
  intro a
  have row := exec_calSave runs
  refine ⟨fun aligned => ?_, fun odd => ?_⟩
  · rw [calSaveCmd_good rest aligned] at row
    have kept := imageSaved_keeps a s
    have length := savedImage_length s
    obtain ⟨-, magic, kind⟩ := trimHeader_fields (trimBody s) s
    have mem : (answer e eOk (leBytes 4 (512 + trimBytes)) (imageSaved a s)).hostMem = memWrite 0 s.hostMem a (savedImage s) :=
      imageSaved_hostMem a s
    refine ⟨_, _, row, answer_after e eOk _ kept (by decide), ?_, fun x apart => ?_, ?_, ?_, ?_, answer_after_keeps e eOk _ kept⟩
    · rw [← List.append_nil (leBytes 4 _), fieldAt_leBytes_append]
      rfl
    · rw [mem]
      exact memGet_memWrite_other 0 _ _ _ _ wf (by rw [length]; exact apart)
    · have first := memRead_memWrite_slice (l := savedImage s) (o := 0) (n := 4) wf a (by omega)
      rw [Nat.add_zero, savedImage_field s 0 4 (by decide)] at first
      rw [mem, first]
      exact magic
    · rw [mem, memRead_memWrite_slice wf a (by omega), savedImage_field s 6 2 (by decide)]
      exact kind
    · rw [mem, memRead_memWrite_slice wf a (by omega)]
      exact savedImage_body s
  · rw [calSaveCmd_bad odd] at row
    exact ⟨_, row, answer_answered e eInval [] s, answer_keeps e eInval [] s⟩

/-- A first `CAL_CHECK` by the calibration, its pins and their ADCs. -/
theorem calCheck_first (s : State) (tag : W16) (e : Exec) (dev : List Int) (runs : executing 0x1007 tag s = some e)
    (wf : Memory.wf 0 s.hostMem = true) (fresh : e.left = []) (some_ : measPins e ≠ []) (aligned : payF e 64 8 % 8 = 0) :
    let free := ∀ p ∈ measPins e, s.pins[p].ctl.func = 0 ∨ pinParked s p = true
    (s.bt.cal = 0 → ∃ t, exec (.calCheck tag dev) s = .next t ∧ Answered e 0x11 [] s t ∧ Keeps [.hi] s t)
    ∧ (s.bt.cal ≠ 0 → free → (∀ p ∈ measPins e, s.pf.adcs[gloveOf p].cur = none ∧ s.pf.adcs[gloveOf p].queue = []) →
        ∃ t, exec (.calCheck tag dev) s = .next t ∧ Checked e s t)
    ∧ (s.bt.cal ≠ 0 → free → (∃ p ∈ measPins e, s.pf.adcs[gloveOf p].cur ≠ none) →
        ∃ t, exec (.calCheck tag dev) s = .next t ∧ t.hi.cpls = s.hi.cpls ∧ Keeps [.pf, .hi] s t)
    ∧ (s.bt.cal ≠ 0 → ¬ free → ∃ t, exec (.calCheck tag dev) s = .next t ∧ Answered e 6 [] s t ∧ Keeps [.hi] s t) := by
  intro free
  have row := exec_calCheck dev runs
  rw [calCheckCmd_first dev fresh some_ aligned] at row
  have inUse : ((measPins e).any fun p => s.pins[p].ctl.func != 0 && !pinParked s p) = true ↔ ¬ free := by
    simp [free, not_or]
  have rests (idle : free) : ((measPins e).any fun p => s.pins[p].ctl.func != 0 && !pinParked s p) = false :=
    Bool.eq_false_iff.mpr fun h => inUse.mp h idle
  refine ⟨fun uncal => ?_, fun cal idle turn => ?_, fun cal idle busy => ?_, fun cal used => ?_⟩
  · rw [checked_fail (by simp [uncal])] at row
    exact ⟨_, row, answer_answered e eUncal [] s, answer_keeps e eUncal [] s⟩
  · rw [checked_pass (by simp [cal]), checked_pass (rests idle), checked_nil] at row
    have run : checkTurn dev e (checkAsked e s) = checkRun dev e (adcLeave e.entry.tag (checkAsked e s)) :=
      if_pos (adcTurn_checkAsked turn)
    exact ⟨_, row.trans (congrArg Host.Outcome.next run), checkRun_checked dev wf
      ((checkAsked_keeps e s).trans ((adcLeave_keeps _ _).mono (by simp)))
      ((congrArg HI.cpls (adcLeave_keeps e.entry.tag (checkAsked e s) .hi (by decide))).trans (checkAsked_cpls e s))⟩
  · rw [checked_pass (by simp [cal]), checked_pass (rests idle), checked_nil] at row
    have waits : checkTurn dev e (checkAsked e s) = checkAsked e s := 
      if_neg fun h => Bool.false_ne_true ((adcTurn_measuring busy).symm.trans h)
    exact ⟨_, row.trans (congrArg Host.Outcome.next waits), checkAsked_cpls e s, checkAsked_keeps e s⟩
  · rw [checked_pass (by simp [cal]), checked_fail (inUse.mpr used)] at row
    exact ⟨_, row, answer_answered e eState [] s, answer_keeps e eState [] s⟩

/-- Settles O56: the image that `CAL_SAVE` writes, the checks of `CAL_LOAD` and its completion, and `CAL_CHECK` by the turn at the ADCs. -/
theorem calibrationCommands : Obligations.calibrationCommands := by
  refine ⟨calSave_rows, fun s tag e src ok runs store rest rest' most least read => ?_, fun s e more first room wait op found => ?_,
    fun s tag e dev runs wf => ?_⟩
  · intro a len h body
    have row := exec_calLoad src ok runs
    refine ⟨fun st fails => ?_, fun passes => ?_⟩
    · rw [calLoadCmd_refused store rest rest' most least read fails] at row
      exact ⟨_, row, answer_answered e st [] s, answer_keeps e st [] s⟩
    · rw [calLoadCmd_accepted store rest rest' most least read passes, calApply_keeps] at row
      refine ⟨_, row, rfl, (updExec_keeps _ _ s).trans (answer_keeps _ _ _ _), fun x mem own => ?_⟩
      obtain ⟨y, -, same⟩ := mem_updExec mem (own.trans (executing_entry runs).2.symm)
      rw [same]
  · have effect := takesEffect_eq (s := cplTaken more s) (c := cplOf e 0 []) rfl rfl found
    have force : takesEffect (cplOf e 0 []) (cplTaken more s) = trimsInForce e.ind (payF e 8 1 == 1) (cplTaken more s) := by
      rw [effect, show (cplOf e 0 []).opcode = 0x1006#16 from op]
      rfl
    have kept := completion_keeps (l := [.hi, .mg, .bt, .tg]) (c := cplOf e 0 []) (r := more) (s := s)
      (by rw [force]; exact trimsInForce_keeps _ _ _)
    have bt : (coreSettle (writeCpl (cplOf e 0 []) (cplTaken more s))).bt = _ :=
      (completion_part (cplOf e 0 []) (cplTaken more s) .bt (by decide)).trans
        ((congrArg State.bt force).trans (trimsInForce_bt e.ind _ (cplTaken more s)))
    refine ⟨_, exec_completionWrite_room first room wait, ?_, ?_, ?_, ?_, kept.mono (by simp)⟩
    all_goals rw [bt]
    · rfl
    · rfl
    · rfl
  · refine ⟨fun asked => ⟨fun turn => ?_, fun waits => ?_⟩, fun fresh some_ aligned => calCheck_first s tag e dev runs wf fresh some_ aligned⟩
    · have row := exec_calCheck dev runs
      rw [calCheckCmd_waiting dev asked, checkTurn, if_pos turn] at row
      exact ⟨_, row, checkRun_checked dev wf ((adcLeave_keeps _ s).mono (by simp)) rfl⟩
    · have row := exec_calCheck dev runs
      rwa [calCheckCmd_waiting dev asked, checkTurn, if_neg (by simp [waits])] at row

end

section
/-! SUPPORT. What containment leaves of the management registers (R412, R413), and the sensor sampler with its trips (R401 to R403, R414), the
core's wake (R399), `MG_CTRL` (R422) and `MG_SENSORS` (R424); the statement on them. -/

namespace Sys2Proof.Machine

open Sys2Proof

/-! ### The management registers through containment -/

@[simp] theorem endStarve_logless (s : State) : logless (endStarve s) = logless s := by
  unfold endStarve
  split
  · rfl
  · dsimp only
    split
    · simp
    · split <;> simp

@[simp] theorem endDstall_logless (s : State) : logless (endDstall s) = logless s := by simp [endDstall]

@[simp] theorem endBubble_logless (s : State) : logless (endBubble s) = logless s := by simp [endBubble]

@[simp] theorem endLimit_logless (s : State) : logless (endLimit s) = logless s := by simp [endLimit]

@[simp] theorem endEpisodes_logless (s : State) : logless (endEpisodes s) = logless s := by simp [endEpisodes]

@[simp] theorem stopVector_logless (cause code : Nat) (s : State) : logless (stopVector cause code s) = logless s := by simp [stopVector]

@[simp] theorem retract_logless (c : Cond) (s : State) : logless (retract c s) = logless s := by simp [retract, markAll]

@[simp] theorem dropProvisional_logless (s : State) : logless (dropProvisional s) = logless s := by
  unfold dropProvisional
  split <;> simp

@[simp] theorem containRun_logless (s : State) : logless (containRun s) = logless s := by simp [containRun]

@[simp] theorem tiuClose_logless (g : Glove) (s : State) : logless (tiuClose g s) = logless s := by simp [tiuClose]

@[simp] theorem tiuCloseAll_logless (s : State) : logless (tiuCloseAll s) = logless s := by simp [tiuCloseAll]

@[simp] theorem madeSafe_logless (s : State) : logless (madeSafe s) = logless s := by simp [madeSafe]

/-- The management registers without the log, and without the two that containment sets. -/
def uncontained (g : MG) : MG := withContain 0 { withLog {} g with contained := false }

theorem uncontained_of_logless {s t : State} (h : logless t = logless s) : uncontained t.mg = uncontained s.mg :=
  congrArg (fun x : MG × HI => withContain 0 { x.1 with contained := false }) h

theorem issue_uncontained (code : Nat) (items : List Item) (s : State) : uncontained (issue code items s).mg = uncontained s.mg :=
  uncontained_of_logless (issue_logless code items s)

theorem uncontained_set (c : W64) (g : MG) : uncontained { g with contained := true, contain := c } = uncontained g := rfl

theorem uncontained_withContain (c : W64) (g : MG) : uncontained (withContain c g) = uncontained g := rfl

theorem enterContain_uncontained (cause : Nat) (s : State) : uncontained (enterContain cause s).mg = uncontained s.mg := by
  have set_ : uncontained (enterContain cause s).mg = uncontained (madeSafe s).mg := by
    simp only [enterContain, issue_uncontained, errIrq_mg]
    exact uncontained_set _ (madeSafe s).mg
  exact set_.trans (uncontained_of_logless (madeSafe_logless s))

/-- Containment, first or further, leaves every management register but its own and the log. -/
theorem contain_uncontained (cause : Nat) (s : State) : uncontained (contain cause s).mg = uncontained s.mg := by
  by_cases held : s.mg.contained = true
  · rw [contain_again held, containAgain_eq, issue_uncontained]
    exact uncontained_withContain _ s.mg
  · rw [contain, if_neg held]
    dsimp only
    split
    · have mg : ∀ a b c t, (sendDiscord a b c t).mg = t.mg := fun a b c t => by simp
      rw [mg, recordDiscord, issue_uncontained]
      exact enterContain_uncontained cause s
    · exact enterContain_uncontained cause s

theorem contain_reg {α : Type} {f : MG → α} (outside : ∀ g, f (uncontained g) = f g) (cause : Nat) (s : State) :
    f (contain cause s).mg = f s.mg :=
  (outside _).symm.trans ((congrArg f (contain_uncontained cause s)).trans (outside _))

theorem issue_mgReg {α : Type} {f : MG → α} (outside : ∀ g, f (uncontained g) = f g) (code : Nat) (items : List Item) (s : State) :
    f (issue code items s).mg = f s.mg :=
  (outside _).symm.trans ((congrArg f (issue_uncontained code items s)).trans (outside _))

/-- A pin of a parked bank stays off through containment. -/
theorem contain_pins (cause : Nat) (s : State) (b : Bank) (bank : s.pf.bankPark[b] = true)
    (off : ∀ p : Pin, bankOf p = b → s.pins[p].enabled = false ∧ s.pins[p].en = false) :
    (contain cause s).pf.bankPark[b] = true
      ∧ ∀ p : Pin, bankOf p = b → (contain cause s).pins[p].enabled = false ∧ (contain cause s).pins[p].en = false := by
  by_cases held : s.mg.contained = true
  · rw [contain_again held, containAgain_eq]
    have pf : (issue 0x0F01 [i1 cause, i1 (b2n (running s)), i1 1] { s with mg := causeCounted s.mg }).pf = s.pf := by simp
    have pins : (issue 0x0F01 [i1 cause, i1 (b2n (running s)), i1 1] { s with mg := causeCounted s.mg }).pins = s.pins := by simp
    rw [pf, pins]
    exact ⟨bank, off⟩
  · have kept := contain_keeps cause (Bool.eq_false_iff.mpr held)
    have pf : (contain cause s).pf = (madeSafe s).pf := kept .pf (by decide)
    have pins : (contain cause s).pins = (madeSafe s).pins := kept .pins (by decide)
    obtain ⟨-, parked, -⟩ := parkAll_parked 2 (tiuCloseAll (containRun s))
    rw [pf, pins]
    refine ⟨?_, fun p _ => ⟨(parked p).1, (parked p).2.1⟩⟩
    show (Vector.replicate 8 true)[b] = true
    simp

/-! ### The readings (R401 to R403) -/

/-- What a reading's effect leaves of the sampler. -/
def sampled (g : MG) : Nat × Vector W16 64 × W32 := (g.slot, g.temps, g.frame)

theorem sampled_uncontained (g : MG) : sampled (uncontained g) = sampled g := rfl

theorem issue_sampled (code : Nat) (items : List Item) (s : State) : sampled (issue code items s).mg = sampled s.mg :=
  issue_mgReg (f := sampled) sampled_uncontained code items s

theorem contain_sampled (cause : Nat) (s : State) : sampled (contain cause s).mg = sampled s.mg :=
  contain_reg (f := sampled) sampled_uncontained cause s

theorem railEvent_sampled (j r a b : Nat) (s : State) : sampled (railEvent j r a b s).mg = sampled s.mg := by
  unfold railEvent
  split <;> exact issue_sampled _ _ s

theorem dieReading_sampled (k : Nat) (r : W16) (s : State) : sampled (dieReading k r s).mg = sampled s.mg := by
  unfold dieReading
  split
  · exact issue_sampled _ _ _
  · split
    · exact issue_sampled _ _ _
    · rfl

theorem stackReading_sampled (old r : W16) (s : State) : sampled (stackReading old r s).mg = sampled s.mg := by
  unfold stackReading
  split
  · exact contain_sampled _ s
  · rfl

theorem railCause_sampled (j : Fin 24) (cause : Nat) (fresh : Bool) (s : State) : sampled (railCause j cause fresh s).mg = sampled s.mg := by
  unfold railCause
  dsimp only
  split
  · rfl
  · exact contain_sampled cause s

theorem railContain_sampled (j : Fin 24) (fresh : Bool) (s : State) : sampled (railContain j fresh s).mg = sampled s.mg := by
  unfold railContain
  split_ifs
  · exact railCause_sampled _ _ _ s
  · rfl
  · exact railCause_sampled _ _ _ s
  · rfl

theorem bankReading_mg (b : Bank) (r : Nat) (s : State) : (bankReading b r s).mg = s.mg := by
  unfold bankReading
  dsimp only
  split <;> rfl

theorem railReading_sampled (j : Fin 24) (r : Nat) (s : State) : sampled (railReading j r s).mg = sampled s.mg := by
  obtain ⟨u, hu⟩ : ∃ u, u = if coreRail j.val then s else bankReading (Fin.ofNat 8 (j.val - 12)) r s := ⟨_, rfl⟩
  have mg : u.mg = s.mg := by
    rw [hu]
    split
    · rfl
    · exact bankReading_mg _ _ s
  unfold railReading
  dsimp only
  rw [← hu, ← mg]
  split
  · split
    · exact railEvent_sampled _ _ _ _ _
    · rfl
  · split
    · rfl
    · split
      · exact railContain_sampled _ _ _
      · exact (railContain_sampled _ _ _).trans (railEvent_sampled _ _ _ _ _)

theorem slotReading_sampled (k : Nat) (old r : W16) (s : State) : sampled (slotReading k old r s).mg = sampled s.mg := by
  unfold slotReading
  split
  · exact dieReading_sampled _ _ s
  · split
    · exact stackReading_sampled _ _ s
    · split
      · exact railReading_sampled _ _ s
      · rfl

/-- The state at the end of the slot in progress. -/
def slotDue (s : State) : State := toTime ((s.mg.frame.toNat * 64 + s.mg.slot + 1) * 4000000000) s

/-- The reading stored. -/
def readingStored (r : W16) (s : State) : State :=
  { slotDue s with mg := { (slotDue s).mg with temps := vset (slotDue s).mg.temps (Fin.ofNat 64 s.mg.slot) r, slot := s.mg.slot + 1 } }

theorem slotDue_mg {α : Type} {f : MG → α} (outside : ∀ b, f (withLog {} b) = f b) (s : State) : f (slotDue s).mg = f s.mg :=
  mg_of_logless outside (toTime_logless _ s)

theorem exec_sensorSlotEnd (r : W16) {s : State} (inside : s.mg.slot < 63) :
    exec (.sensorSlotEnd r) s = .next (slotReading s.mg.slot (readingAt s s.mg.slot) r (readingStored r s)) := by
  show execSensorSlotEnd r s = _
  unfold execSensorSlotEnd
  dsimp only
  rw [if_neg (by omega)]
  rfl

theorem exec_sensorSlotEnd_last (r : W16) {s : State} (last : s.mg.slot = 63) :
    exec (.sensorSlotEnd r) s = .next (frameEnd (readingStored r s)) := by
  have quiet : slotReading s.mg.slot (readingAt s s.mg.slot) r (readingStored r s) = readingStored r s := by
    rw [last]
    rfl
  show execSensorSlotEnd r s = _
  unfold execSensorSlotEnd
  dsimp only
  rw [if_pos (by omega)]
  exact congrArg (fun t => Host.Outcome.next (frameEnd t)) quiet

/-- The highest of some readings is one of them, and none is higher. -/
theorem maxTemp_spec (l : List W16) (some_ : l ≠ []) : maxTemp l ∈ l ∧ ∀ x ∈ l, x.toInt ≤ (maxTemp l).toInt := by
  have fold (l : List W16) (m : W16) : (l.foldl (fun m x => if m.toInt < x.toInt then x else m) m = m
        ∨ l.foldl (fun m x => if m.toInt < x.toInt then x else m) m ∈ l)
      ∧ m.toInt ≤ (l.foldl (fun m x => if m.toInt < x.toInt then x else m) m).toInt
      ∧ ∀ x ∈ l, x.toInt ≤ (l.foldl (fun m x => if m.toInt < x.toInt then x else m) m).toInt := by
    induction l generalizing m with
    | nil => exact ⟨.inl rfl, le_refl _, by simp⟩
    | cons y l ih =>
      rw [List.foldl_cons]
      by_cases higher : m.toInt < y.toInt
      · rw [if_pos higher]
        obtain ⟨mem, first, rest⟩ := ih y
        refine ⟨.inr (mem.elim (fun h => by rw [h]; exact List.mem_cons_self) fun h => List.mem_cons_of_mem _ h), by omega, fun x hx => ?_⟩
        rcases List.mem_cons.mp hx with rfl | later
        · exact first
        · exact rest x later
      · rw [if_neg higher]
        obtain ⟨mem, first, rest⟩ := ih m
        refine ⟨mem.imp_right fun h => List.mem_cons_of_mem _ h, first, fun x hx => ?_⟩
        rcases List.mem_cons.mp hx with rfl | later
        · omega
        · exact rest x later
  obtain ⟨x, r, rfl⟩ := List.exists_cons_of_ne_nil some_
  obtain ⟨mem, first, rest⟩ := fold (x :: r) x
  exact ⟨mem.elim (fun h => by rw [show maxTemp (x :: r) = x from h]; exact List.mem_cons_self) id, rest⟩

theorem readingAt_eq (s : State) {i : Nat} (inside : i < 64) : readingAt s i = s.mg.temps[(⟨i, inside⟩ : Fin 64)] := by
  simp [readingAt, inside]

/-- The reading of another slot is as before. -/
theorem readingAt_stored (r : W16) (s : State) {i : Nat} (inside : i < 64) (other : s.mg.slot % 64 ≠ i) :
    readingAt (readingStored r s) i = readingAt s i := by
  have temps : (slotDue s).mg.temps = s.mg.temps := slotDue_mg (f := MG.temps) (fun _ => rfl) s
  have differs : Fin.ofNat 64 s.mg.slot ≠ ⟨i, inside⟩ := fun h => other (congrArg Fin.val h)
  rw [readingAt_eq _ inside, readingAt_eq _ inside, ← temps]
  exact vset_other _ _ differs

/-- A core rail's reading outside its window, the first in a row. -/
theorem railReading_first {j : Fin 24} {r : Nat} {s : State} (core : coreRail j.val = true) (out : railWindow j.val r = false)
    (first : s.mg.outRun[j] = 0) : railReading j r s = { s with mg := { s.mg with outRun := vset s.mg.outRun j 1 } } := by
  unfold railReading
  dsimp only
  rw [if_pos core, if_neg (by simp [railIn, core, out]), first, if_pos (by decide)]
  rfl

/-- A core rail reported out of its window. -/
def railReported (j : Fin 24) (r : Nat) (s : State) : State :=
  railEvent j.val r 0x0F07 0x0406 { s with mg := { s.mg with
    outRun := vset s.mg.outRun j 2, railOut := vset s.mg.railOut j true, railErr := true, fresh := freshen s 0x2000 s.mg.fresh } }

/-- The second in a row reports it, which contains the device. -/
theorem railReading_second {j : Fin 24} {r : Nat} {s : State} (core : coreRail j.val = true) (out : railWindow j.val r = false)
    (second : s.mg.outRun[j] = 1) (new : s.mg.railOut[j] = false) :
    railReading j r s = railContain j true (railReported j r s) := by
  unfold railReading
  dsimp only
  rw [if_pos core, if_neg (by simp [railIn, core, out]), second, if_neg (by decide), if_neg (by simp [new])]
  rfl

theorem railCause_fresh (j : Fin 24) (cause : Nat) (s : State) :
    ∃ named : Vector Bool 24, railCause j cause true s
      = { contain cause s with mg := { (contain cause s).mg with railNamed := vset named j true } } := by
  refine ⟨if s.mg.contained then s.mg.railNamed else .replicate 24 false, ?_⟩
  unfold railCause
  dsimp only
  rw [if_neg (by simp)]

/-- A core rail newly out in P0 to P2 is named, and the device contained. -/
theorem railContain_core {j : Fin 24} (r : Nat) {s : State} (core : coreRail j.val = true) (power : s.mg.pstate ≤ 2) :
    let t := railContain j true (railReported j r s)
    t.mg.railErr = true ∧ t.mg.railOut[j] = true ∧ t.mg.contained = true ∧ t.mg.railNamed[j] = true := by
  intro t
  obtain ⟨v, hv⟩ : ∃ v, v = railReported j r s := ⟨_, rfl⟩
  have reg {α : Type} {f : MG → α} (outside : ∀ g, f (uncontained g) = f g) : f v.mg = f { s.mg with
      outRun := vset s.mg.outRun j 2, railOut := vset s.mg.railOut j true, railErr := true, fresh := freshen s 0x2000 s.mg.fresh } := by
    rw [hv, railReported, railEvent, if_pos core]
    exact issue_mgReg outside _ _ _
  have err : v.mg.railErr = true := reg (f := MG.railErr) fun _ => rfl
  have out : v.mg.railOut = vset s.mg.railOut j true := reg (f := MG.railOut) fun _ => rfl
  have level : v.mg.pstate = s.mg.pstate := reg (f := MG.pstate) fun _ => rfl
  obtain ⟨named, caused⟩ := railCause_fresh j 0x0E v
  have eq : t = { contain 0x0E v with mg := { (contain 0x0E v).mg with railNamed := vset named j true } } := by
    rw [← caused, show t = railContain j true v by rw [hv], railContain, if_pos core, if_pos (by rw [level]; exact power)]
  rw [eq]
  refine ⟨(contain_reg (f := MG.railErr) (fun _ => rfl) 0x0E v).trans err, ?_, contain_contained 0x0E v, vset_self _ _ _⟩
  show (contain 0x0E v).mg.railOut[j] = true
  rw [contain_reg (f := MG.railOut) (fun _ => rfl) 0x0E v, out]
  exact vset_self _ _ _

/-- The windows of the `VCORE` rails (Table 16.2). -/
theorem railWindow_vcore {j r : Nat} (vcore : j < 4) (out : r < 713 ∨ 788 ≤ r) : railWindow j r = false := by
  unfold railWindow
  rw [if_pos vcore]
  exact decide_eq_false (by omega)

theorem coreRail_vcore {j : Nat} (vcore : j < 4) : coreRail j = true := decide_eq_true (by omega)

/-! ### A bank's supply (R21) -/

/-- The pins of a bank are in the park state. -/
def BankOff (b : Bank) (s : State) : Prop :=
  s.pf.bankPark[b] = true ∧ ∀ p : Pin, bankOf p = b → s.pins[p].enabled = false ∧ s.pins[p].en = false

theorem BankOff.keeps {b : Bank} {s t : State} (off : BankOff b s) (kept : Keeps [.hi, .mg] s t) : BankOff b t := by
  have pf : t.pf = s.pf := kept .pf (by decide)
  have pins : t.pins = s.pins := kept .pins (by decide)
  rw [BankOff, pf, pins]
  exact off

theorem BankOff.railEvent {b : Bank} {s : State} (off : BankOff b s) (j r x y : Nat) : BankOff b (railEvent j r x y s) := by
  unfold Machine.railEvent
  split <;> exact off.keeps (issue_keeps _ _ s)

theorem BankOff.railCause {b : Bank} {s : State} (off : BankOff b s) (j : Fin 24) (cause : Nat) (fresh : Bool) :
    BankOff b (railCause j cause fresh s) := by
  unfold Machine.railCause
  dsimp only
  split
  · exact off.keeps ((setMg_keeps _ s).mono (by simp))
  · have contained : BankOff b (contain cause s) := contain_pins cause s b off.1 off.2
    exact contained.keeps ((setMg_keeps _ _).mono (by simp))

theorem BankOff.railContain {b : Bank} {s : State} (off : BankOff b s) (j : Fin 24) (fresh : Bool) : BankOff b (railContain j fresh s) := by
  unfold Machine.railContain
  split_ifs
  · exact off.railCause _ _ _
  · exact off
  · exact off.railCause _ _ _
  · exact off

/-- A supply outside its range parks the bank's pins. -/
theorem bankReading_parks {b : Bank} {r : Nat} {s : State} (out : bankInRange r = false) (idle : s.pf.bankPark[b] = false) :
    BankOff b (bankReading b r s) := by
  unfold bankReading
  dsimp only
  rw [if_neg (by simp [out, idle])]
  refine ⟨vset_self _ _ _, fun p own => ?_⟩
  have pin : (vmapIdx (fun p x => if bankOf p = b then parkPin x else x) s.pins)[p] = parkPin s.pins[p] :=
    (vmapIdx_get _ _ p).trans (if_pos own)
  show (vmapIdx (fun p x => if bankOf p = b then parkPin x else x) s.pins)[p].enabled = false
    ∧ (vmapIdx (fun p x => if bankOf p = b then parkPin x else x) s.pins)[p].en = false
  rw [pin]
  exact ⟨rfl, rfl⟩

/-- What follows of a bank's reading leaves its pins parked. -/
theorem railReading_bank {j : Fin 24} {b : Bank} {r : Nat} {s : State} (bank : coreRail j.val = false) (own : Fin.ofNat 8 (j.val - 12) = b)
    (out : bankInRange r = false) (idle : s.pf.bankPark[b] = false) : BankOff b (railReading j r s) := by
  obtain ⟨u, hu⟩ : ∃ u, u = if coreRail j.val then s else bankReading (Fin.ofNat 8 (j.val - 12)) r s := ⟨_, rfl⟩
  have off : BankOff b u := by
    rw [hu, if_neg (by simp [bank]), own]
    exact bankReading_parks out idle
  unfold railReading
  dsimp only
  rw [← hu]
  split
  · split
    · exact (off.keeps ((setMg_keeps _ u).mono (by simp))).railEvent _ _ _ _
    · exact off.keeps ((setMg_keeps _ u).mono (by simp))
  · split
    · exact off.keeps ((setMg_keeps _ u).mono (by simp))
    · split
      · exact (off.keeps ((setMg_keeps _ u).mono (by simp))).railContain _ _
      · exact ((off.keeps ((setMg_keeps _ u).mono (by simp))).railEvent _ _ _ _).railContain _ _

/-! ### Trips (R403, R414) -/

theorem contain_parked {s : State} (cause : Nat) (free : s.mg.contained = false) : Parked (contain cause s) := by
  have kept := contain_keeps cause free
  exact (parkAll_parked 2 (tiuCloseAll (containRun s))).congr (kept .pf (by decide)) (kept .pins (by decide)) (kept .mx (by decide))

/-- The 125 degree trip: contained, with every PLL off and `FASTSTOP`. -/
theorem tripFast_stops (sensor : Fin 32) (s : State) :
    (tripFast sensor s).mg.contained = true ∧ (tripFast sensor s).mg.fastStop = true ∧ (tripFast sensor s).mg.pstate = s.mg.pstate
      ∧ ∀ q : Quad, (tripFast sensor s).tb.pll[q] = .off ∧ (tripFast sensor s).tb.guardOpen[q] = false := by
  obtain ⟨u, hu⟩ : ∃ u, u = if s.mg.contained then s else contain 0x0C s := ⟨_, rfl⟩
  have state : u.mg.contained = true ∧ u.mg.pstate = s.mg.pstate := by
    rw [hu]
    split
    · exact ⟨by assumption, rfl⟩
    · exact ⟨contain_contained 0x0C s, contain_reg (f := MG.pstate) (fun _ => rfl) 0x0C s⟩
  have held : (stopPlls u).mg.contained = u.mg.contained := mg_of_logless (f := MG.contained) (fun _ => rfl) (stopPlls_logless u)
  have level : (stopPlls u).mg.pstate = u.mg.pstate := mg_of_logless (f := MG.pstate) (fun _ => rfl) (stopPlls_logless u)
  have off := stopPlls_off u
  have eq : tripFast sensor s = issue 0x0F06 [i1 sensor.val] { stopPlls u with mg := { (stopPlls u).mg with fastStop := true } } := by
    rw [hu]
    rfl
  have tb : (tripFast sensor s).tb = (stopPlls u).tb := by
    rw [eq]
    exact issue_keeps _ _ _ .tb (by decide)
  rw [tb]
  generalize stopPlls u = v at held level off eq
  rw [eq]
  exact ⟨(issue_contained _ _ _).trans (held.trans state.1), issue_mgReg (f := MG.fastStop) (fun _ => rfl) _ _ _,
    (issue_mgReg (f := MG.pstate) (fun _ => rfl) _ _ _).trans (level.trans state.2), off⟩

/-! ### The core's wake (R399) -/

theorem exec_coreWake {w : Wake} (other : w ≠ .smbus) (s : State) :
    exec (.coreWake w) s = .next { s with mg := { s.mg with awake := coreWork s } } := by
  have settles : exec (.coreWake w) s = .next (coreSettle (setAwake true s)) := by
    cases w <;> first | exact absurd rfl other | rfl
  have work : coreWork (setAwake true s) = coreWork s := rfl
  rw [settles, coreSettle, work]
  cases coreWork s <;> rfl

/-! ### `MG_CTRL` (R422) -/

/-- A land whose `MUX` bit changes. -/
def muxMoved (v : W32) (s : State) (i : Fin 3) : Bool := (v.setWidth 8 &&& 0xE7#8).getLsbD i.val != s.mg.ctrl.getLsbD i.val

theorem mgCtrl_keeper (v : W32) (s : State) (i : Fin 3) :
    (mgCtrl v s).mg.muxOld[i] = (if muxMoved v s i then some (s.mg.muxOld[i].getD s.mg.ctrl) else s.mg.muxOld[i])
      ∧ (mgCtrl v s).mg.muxAt[i] = if muxMoved v s i then (s.tb.now / 250000000 + 3) * 250000000 else s.mg.muxAt[i] :=
  ⟨vmapIdx_get _ _ i, vmapIdx_get _ _ i⟩

theorem mgCtrl_alert (v : W32) (s : State) :
    (mgCtrl v s).mg.muxAlert = if muxMoved v s 2 ∧ s.mg.muxOld[(2 : Fin 3)].isNone then s.mg.alert else s.mg.muxAlert := rfl

/-- The keeper of the alert land holds its level through the write. -/
theorem mgCtrl_alertLand {v : W32} {s : State} (moved : muxMoved v s 2 = true) : alertLand (mgCtrl v s) = alertLand s := by
  have keeper := (mgCtrl_keeper v s 2).1
  have level := mgCtrl_alert v s
  rw [if_pos moved] at keeper
  unfold alertLand
  rw [keeper, level]
  cases s.mg.muxOld[(2 : Fin 3)] with
  | none => simp [moved]
  | some c => simp

/-- The keeper of a debug land holds its level through the write. -/
theorem mgCtrl_debugLand {v : W32} {s : State} {k : Fin 2} (moved : muxMoved v s k.castSucc = true) :
    debugLand (mgCtrl v s) k = debugLand s k := by
  have keeper := (mgCtrl_keeper v s k.castSucc).1
  rw [if_pos moved] at keeper
  unfold debugLand
  dsimp only
  rw [keeper]
  rfl

/-- A keeper that starts lasts past two AON cycles, at most three. -/
theorem keeper_time (now : Nat) :
    now + 500000000 < (now / 250000000 + 3) * 250000000 ∧ (now / 250000000 + 3) * 250000000 ≤ now + 750000000 := by omega

/-- The keeper that holds longest since. -/
theorem keeperDue_least {s : State} {i : Fin 3} (holds : s.mg.muxOld[i] ≠ none)
    (least : ∀ j : Fin 3, s.mg.muxOld[j] ≠ none → s.mg.muxAt[i] ≤ s.mg.muxAt[j]) : keeperDue s = some s.mg.muxAt[i] := by
  have held (j : Fin 3) : j ∈ (List.finRange 3).filter (fun i => s.mg.muxOld[i].isSome) ↔ s.mg.muxOld[j] ≠ none := by
    simp [Option.isSome_iff_ne_none]
  refine List.min?_eq_some_iff.mpr ⟨List.mem_map.mpr ⟨i, (held i).mpr holds, rfl⟩, fun t mem => ?_⟩
  obtain ⟨j, waits, rfl⟩ := List.mem_map.mp mem
  exact least j ((held j).mp waits)

/-! ### `MG_SENSORS` (R424) -/

theorem exec_mgSensors {s : State} {tag : W16} {e : Exec} (runs : executing 0x0F03 tag s = some e) :
    exec (.mgSensors tag) s = .next (mgSensorsCmd e s) := congrArg Host.Outcome.next (runCmd_some runs _)

theorem mgSensorsCmd_good {e : Exec} (s : State) (aligned : payF e 0 8 % 8 = 0) (rest : payZero e 8 40 = true) :
    mgSensorsCmd e s = answer e eOk [] (hostWrite (payF e 0 8) (sensorBlock s) s) := by
  rw [mgSensorsCmd, checked_pass (by simp [aligned, rest]), checked_nil]

theorem mgSensorsCmd_bad {e : Exec} (s : State) (odd : payF e 0 8 % 8 ≠ 0) : mgSensorsCmd e s = answer e eInval [] s := by
  rw [mgSensorsCmd, checked_fail (by simp [odd])]

/-- The readings and the frame number in the 256-byte block. -/
theorem sensorBlock_fields (s : State) :
    (sensorBlock s).length = 256 ∧ (∀ i, i < 64 → fieldAt (sensorBlock s) (2 * i) 2 = (readingAt s i).toNat)
      ∧ fieldAt (sensorBlock s) 136 4 = s.mg.frame.toNat := by
  have slots := frameSlots_length s 0 64
  have fits : (frameSlots s 0 64 ++ leBytes 8 s.mg.rtcFrame ++ leBytes 4 s.mg.frame.toNat).length ≤ 256 := by simp [slots]
  refine ⟨padTo_length fits, fun i inside => ?_, ?_⟩
  · rw [sensorBlock, padTo_short fits, List.append_assoc, List.append_assoc, frameSlots_field s 0 inside, Nat.zero_add]
  · rw [sensorBlock, padTo_short fits, List.append_assoc, List.append_assoc]
    have frame := fieldAt_append (frameSlots s 0 64) (leBytes 8 s.mg.rtcFrame ++ (leBytes 4 s.mg.frame.toNat
      ++ zeros (256 - (frameSlots s 0 64 ++ leBytes 8 s.mg.rtcFrame ++ leBytes 4 s.mg.frame.toNat).length))) 8 4
    rw [slots] at frame
    refine frame.trans ((fieldAt_skip 8 _ _ 0 4).trans ((fieldAt_leBytes_append _ _ _).trans (Nat.mod_eq_of_lt s.mg.frame.isLt)))

end Sys2Proof.Machine

open Sys2Proof Sys2Proof.Machine

/-- The end of a slot, and of a frame. -/
theorem sensorSlotEnd_frame (s : State) (r : W16) :
    let k := s.mg.slot
    (k < 63 → ∃ t, exec (.sensorSlotEnd r) s = .next t ∧ t.mg.slot = k + 1 ∧ t.mg.temps[(Fin.ofNat 64 k)] = r ∧ t.mg.frame = s.mg.frame)
    ∧ (k = 63 → ∃ t, exec (.sensorSlotEnd r) s = .next t ∧ t.mg.slot = 0 ∧ t.mg.frame = s.mg.frame + 1
        ∧ (∀ i, i < 32 → (readingAt s i).toInt ≤ t.mg.tj.toInt) ∧ ∃ i, i < 32 ∧ t.mg.tj = readingAt s i) := by
  intro k
  refine ⟨fun inside => ?_, fun last => ?_⟩
  · have kept := slotReading_sampled s.mg.slot (readingAt s s.mg.slot) r (readingStored r s)
    have slot : _ = k + 1 := congrArg Prod.fst kept
    have temps : _ = (readingStored r s).mg.temps := congrArg (fun x => x.2.1) kept
    have frame : _ = (readingStored r s).mg.frame := congrArg (fun x => x.2.2) kept
    refine ⟨_, exec_sensorSlotEnd r inside, slot, ?_, frame.trans (slotDue_mg (f := MG.frame) (fun _ => rfl) s)⟩
    exact (congrArg (fun v : Vector W16 64 => v[Fin.ofNat 64 k]) temps).trans (vset_self _ _ r)
  · have same {i : Nat} (die : i < 32) : readingAt (readingStored r s) i = readingAt s i :=
      readingAt_stored r s (by omega) (by rw [show s.mg.slot = 63 from last]; omega)
    have frame : (readingStored r s).mg.frame = s.mg.frame := slotDue_mg (f := MG.frame) (fun _ => rfl) s
    obtain ⟨mem, highest⟩ := maxTemp_spec (dieTemps (readingStored r s)) (by simp [dieTemps])
    refine ⟨_, exec_sensorSlotEnd_last r last, rfl, congrArg (· + 1) frame, fun i die => ?_, ?_⟩
    · exact highest _ (List.mem_map.mpr ⟨i, List.mem_range.mpr die, same die⟩)
    · obtain ⟨i, die, is⟩ := List.mem_map.mp mem
      have inside := List.mem_range.mp die
      exact ⟨i, inside, is.symm.trans (same inside)⟩

/-- A die's reading below the warning and at it. -/
theorem sensorSlotEnd_die (s : State) (r : W16) (die : s.mg.slot < 32) (cool : s.mg.thermWarn = false) :
    let u := toTime ((s.mg.frame.toNat * 64 + s.mg.slot + 1) * 4000000000) s
    (r.toInt < 1680 → exec (.sensorSlotEnd r) s = .next { u with mg := { u.mg with
        temps := vset u.mg.temps (Fin.ofNat 64 s.mg.slot) r, slot := s.mg.slot + 1 } })
    ∧ (1680 ≤ r.toInt → ∃ t, exec (.sensorSlotEnd r) s = .next t ∧ t.mg.thermWarn = true ∧ t.mg.contained = u.mg.contained
        ∧ Keeps [.hi, .mg] u t) := by
  intro u
  have warn : (readingStored r s).mg.thermWarn = s.mg.thermWarn := slotDue_mg (f := MG.thermWarn) (fun _ => rfl) s
  have stored_ : Keeps [.mg] u (readingStored r s) := setMg_keeps _ (slotDue s)
  have row := exec_sensorSlotEnd r (show s.mg.slot < 63 by omega)
  rw [slotReading, if_pos die, dieReading, warn, cool] at row
  refine ⟨fun low => ?_, fun hot => ?_⟩
  · rw [if_neg (by simp; omega), if_neg (by simp)] at row
    exact row
  · have same : (readingStored r s).mg.contained = u.mg.contained := rfl
    rw [if_pos ⟨by simp, hot⟩] at row
    generalize readingStored r s = v at row stored_ same
    exact ⟨_, row, issue_mgReg (f := MG.thermWarn) (fun _ => rfl) _ _ _, (issue_contained _ _ _).trans same,
      ((stored_.trans (setMg_keeps _ v)).mono (by simp)).trans (issue_keeps _ _ _)⟩

/-- A stack's reading at 105 degrees. -/
theorem sensorSlotEnd_stack (s : State) (r : W16) (low : 32 ≤ s.mg.slot) (high : s.mg.slot < 36) (hot : 1680 ≤ r.toInt) :
    ∃ t, exec (.sensorSlotEnd r) s = .next t
      ∧ ((toTime ((s.mg.frame.toNat * 64 + s.mg.slot + 1) * 4000000000) s).mg.contained = false → t.mg.contained = true ∧ Parked t) := by
  have row := exec_sensorSlotEnd r (show s.mg.slot < 63 by omega)
  rw [slotReading, if_neg (by omega), if_pos high, stackReading] at row
  refine ⟨_, row, fun free => ?_⟩
  have open_ : (readingStored r s).mg.contained = false := free
  rw [if_pos ⟨hot, .inl (by simp [open_])⟩]
  exact ⟨contain_contained _ _, contain_parked _ open_⟩

/-- The reading of a `VCORE` rail outside its window, the first and the second in a row. -/
theorem sensorSlotEnd_rail (s : State) (r : W16) (j : Fin 24) (slot : s.mg.slot = 36 + j.val) (vcore : j.val < 4)
    (out : r.toNat < 713 ∨ 788 ≤ r.toNat) :
    let u := toTime ((s.mg.frame.toNat * 64 + s.mg.slot + 1) * 4000000000) s
    (s.mg.outRun[j] = 0 → exec (.sensorSlotEnd r) s = .next { u with mg := { u.mg with
        temps := vset u.mg.temps (Fin.ofNat 64 s.mg.slot) r, slot := s.mg.slot + 1, outRun := vset u.mg.outRun j 1 } })
    ∧ (s.mg.outRun[j] = 1 → s.mg.railOut[j] = false → s.mg.pstate ≤ 2 →
      ∃ t, exec (.sensorSlotEnd r) s = .next t ∧ t.mg.railErr = true ∧ t.mg.railOut[j] = true ∧ t.mg.contained = true
        ∧ t.mg.railNamed[j] = true) := by
  intro u
  have row := exec_sensorSlotEnd r (show s.mg.slot < 63 by omega)
  have rail : Fin.ofNat 24 (s.mg.slot - 36) = j := Fin.ext (by simp [slot])
  rw [slotReading, if_neg (by omega), if_neg (by omega), if_pos (by omega), rail] at row
  have outRun : (readingStored r s).mg.outRun = s.mg.outRun := slotDue_mg (f := MG.outRun) (fun _ => rfl) s
  have railOut : (readingStored r s).mg.railOut = s.mg.railOut := slotDue_mg (f := MG.railOut) (fun _ => rfl) s
  have level : (readingStored r s).mg.pstate = s.mg.pstate := slotDue_mg (f := MG.pstate) (fun _ => rfl) s
  refine ⟨fun first => ?_, fun second new power => ?_⟩
  · rw [railReading_first (coreRail_vcore vcore) (railWindow_vcore vcore out) (by rw [outRun]; exact first)] at row
    exact row
  · rw [railReading_second (coreRail_vcore vcore) (railWindow_vcore vcore out) (by rw [outRun]; exact second)
      (by rw [railOut]; exact new)] at row
    exact ⟨_, row, railContain_core r.toNat (coreRail_vcore vcore) (by rw [level]; exact power)⟩

/-- A bank's supply outside 0.9 to 1.8 V. -/
theorem sensorSlotEnd_bank (s : State) (r : W16) (b : Bank) (slot : s.mg.slot = 48 + b.val) (out : bankInRange r.toNat = false)
    (idle : s.pf.bankPark[b] = false) :
    ∃ t, exec (.sensorSlotEnd r) s = .next t ∧ t.pf.bankPark[b] = true
      ∧ ∀ p : Pin, bankOf p = b → t.pins[p].enabled = false ∧ t.pins[p].en = false := by
  have row := exec_sensorSlotEnd r (show s.mg.slot < 63 by omega)
  have rail : (Fin.ofNat 24 (s.mg.slot - 36)).val = 12 + b.val := by
    simp [slot]
    omega
  have bank : coreRail (Fin.ofNat 24 (s.mg.slot - 36)).val = false := by
    rw [rail]
    exact decide_eq_false (by omega)
  have own : Fin.ofNat 8 ((Fin.ofNat 24 (s.mg.slot - 36)).val - 12) = b := by
    rw [rail]
    exact Fin.ext (by simp)
  have pf : (readingStored r s).pf = s.pf := toTime_keeps _ s .pf (by decide)
  rw [slotReading, if_neg (by omega), if_neg (by omega), if_pos (by omega)] at row
  exact ⟨_, row, railReading_bank bank own out (by rw [pf]; exact idle)⟩

/-- A write of `MG_CTRL` that is the front of the posted writes. -/
theorem mgCtrlWrite_front (s : State) (v : W32) (front : written 0x0828 4 s.mg.ctrl.toNat (· == v.toNat) s = true) :
    let u := popWrite 0x0828 4 s
    ∃ t, exec (.mgCtrlWrite v) s = .next t ∧ t.mg.ctrl = v.setWidth 8 &&& 0xE7 ∧ Keeps [.mg] u t
      ∧ ∀ i : Fin 3,
        (t.mg.ctrl.getLsbD i.val = s.mg.ctrl.getLsbD i.val → t.mg.muxOld[i] = s.mg.muxOld[i] ∧ t.mg.muxAt[i] = s.mg.muxAt[i])
        ∧ (t.mg.ctrl.getLsbD i.val ≠ s.mg.ctrl.getLsbD i.val →
            (s.mg.muxOld[i] = none → t.mg.muxOld[i] = some s.mg.ctrl)
            ∧ s.tb.now + 500000000 < t.mg.muxAt[i] ∧ t.mg.muxAt[i] ≤ s.tb.now + 750000000
            ∧ (i.val = 2 → alertLand t = alertLand u)
            ∧ ∀ k : Fin 2, k.val = i.val → debugLand t k = debugLand u k) := by
  intro u
  have row : exec (.mgCtrlWrite v) s = .next (mgCtrl v u) := congrArg Host.Outcome.next (applyReg_front front _)
  have mg : u.mg = s.mg := by simp [u]
  have tb : u.tb = s.tb := by simp [u]
  rw [← mg, ← tb]
  refine ⟨_, row, rfl, setMg_keeps _ u, fun i => ?_⟩
  obtain ⟨old, at_⟩ := mgCtrl_keeper v u i
  refine ⟨fun same => ?_, fun differs => ?_⟩
  · have stays : ¬ muxMoved v u i = true := fun moved => bne_iff_ne.mp moved same
    rw [old, at_, if_neg stays, if_neg stays]
    exact ⟨rfl, rfl⟩
  · have moved : muxMoved v u i = true := bne_iff_ne.mpr differs
    rw [if_pos moved] at old at_
    obtain ⟨later, soon⟩ := keeper_time u.tb.now
    refine ⟨fun free => by rw [old, free]; rfl, by rw [at_]; exact later, by rw [at_]; exact soon, fun alert => ?_, fun k own => ?_⟩
    · obtain rfl : i = 2 := Fin.ext alert
      exact mgCtrl_alertLand moved
    · obtain rfl : i = k.castSucc := Fin.ext own.symm
      exact mgCtrl_debugLand moved

/-- Settles O49: the slot's reading by its place and value, the trips, the wake, the write of `MG_CTRL` with its keepers, and `MG_SENSORS`. -/
theorem sensorsAndTrips : Obligations.sensorsAndTrips := by
  refine ⟨fun s r => ?_, sensorSlotEnd_bank, fun s sensor => ⟨fun free => ?_, ?_⟩, fun s => ⟨rfl, fun w other => exec_coreWake other s⟩,
    fun s v => ⟨fun other => ?_, mgCtrlWrite_front s v⟩, fun s i holds least => ?_, fun s tag e runs rest wf => ?_⟩
  · obtain ⟨inside, last⟩ := sensorSlotEnd_frame s r
    exact ⟨inside, last, sensorSlotEnd_die s r, sensorSlotEnd_stack s r, fun j slot vcore out => sensorSlotEnd_rail s r j slot vcore out⟩
  · exact ⟨_, rfl, contain_contained _ s, contain_parked _ free, contain_cause (by decide) free,
      contain_reg (f := MG.fastStop) (fun _ => rfl) _ s⟩
  · exact ⟨_, rfl, tripFast_stops sensor s⟩
  · exact congrArg Host.Outcome.next (applyReg_other other _)
  · intro u
    have due := keeperDue_least holds least
    have row : exec .muxKeeperRelease s = .next { u with mg := { u.mg with
        muxOld := vmapIdx (fun i o => if u.mg.muxAt[i] ≤ u.tb.now then none else o) u.mg.muxOld } } := by
      show execMuxKeeperRelease s = _
      rw [execMuxKeeperRelease, due]
    have old : u.mg.muxOld = s.mg.muxOld := mg_of_logless (f := MG.muxOld) (fun _ => rfl) (toTime_logless _ s)
    have at_ : u.mg.muxAt = s.mg.muxAt := mg_of_logless (f := MG.muxAt) (fun _ => rfl) (toTime_logless _ s)
    refine ⟨_, row, setMg_keeps _ u, rfl, fun j => (vmapIdx_get _ _ j).trans ?_⟩
    rw [old, at_]
  · intro a
    have row := exec_mgSensors runs
    refine ⟨fun aligned => ?_, fun odd => ?_⟩
    · rw [mgSensorsCmd_good s aligned rest] at row
      obtain ⟨length, slots, frame⟩ := sensorBlock_fields s
      have wrote := hostWrite_keeps a (sensorBlock s) s
      refine ⟨_, row, answer_after e eOk _ wrote (by decide), fun x apart => ?_, answer_after_keeps e eOk _ wrote, fun i inside => ?_, ?_⟩
      · exact memGet_memWrite_other 0 _ _ _ x wf (by rw [length]; exact apart)
      · exact (congrArg leNat (memRead_memWrite_slice wf a (by omega))).trans (slots i inside)
      · exact (congrArg leNat (memRead_memWrite_slice wf a (by omega))).trans frame
    · rw [mgSensorsCmd_bad s odd] at row
      exact ⟨_, row, answer_answered e eInval [] s, answer_keeps e eInval [] s⟩

end

section
/-! SUPPORT. What time that passes leaves of the margin outputs, what an action on one channel leaves of the others, and the update of a channel
(R321, R322, R329, R334, R336); the statement on the update. -/

namespace Sys2Proof.Machine

open Sys2Proof

/-! ### The margin outputs while time passes -/

/-- The margin outputs without the requests of hits that wait. -/
def reqless (s : State) : MX := { s.mx with reqs := [] }

theorem reqless_of_mx {s t : State} (h : t.mx = s.mx) : reqless t = reqless s := by rw [reqless, reqless, h]

theorem giveHit_reqless (p : Pin) (s : State) (h : RawHit) : reqless (giveHit p s h) = reqless s := by
  have marked (m : Mark) (t : State) : (queueMark m t).mx = t.mx := by simp
  unfold giveHit
  dsimp only
  split
  · exact (reqless_of_mx (marked _ _)).trans rfl
  · rfl

theorem stampOut_reqless (s : State) (x : PendX) : reqless (stampOut s x) = reqless s := by
  have streamed (p : Pin) (k : XKind) (t : Int) (seen : Nat) (u : State) : (streamStamp p k t seen u).mx = u.mx := by simp
  unfold stampOut
  dsimp only
  refine (reqless_of_mx (streamed _ _ _ _ _)).trans ?_
  unfold classify
  dsimp only
  exact foldl_keeps reqless (giveHit_reqless x.pin) _ _

theorem flushX_reqless (f : PendX → Bool) (s : State) : reqless (flushX f s) = reqless s :=
  (foldl_keeps reqless stampOut_reqless _ _).trans rfl

theorem passed_reqless (s : State) : reqless (passed s) = reqless s :=
  (reqless_of_mx (by simp [passed])).trans (flushX_reqless (stepOver (ext s)) s)

theorem closeEpoch_reqless (s : State) : reqless (closeEpoch s) = reqless s := reqless_of_mx (by simp [closeEpoch])

theorem wrapEffects_reqless (s : State) : reqless (wrapEffects s) = reqless s := by
  have marked (a b : Nat) (w : W64) (t : State) : (epochMark a b w t).mx = t.mx := by simp
  have said (code : Nat) (items : List Item) (t : State) : (issue code items t).mx = t.mx := by simp
  unfold wrapEffects
  dsimp only
  refine (reqless_of_mx (marked _ _ _ _)).trans ?_
  split
  · exact (closeEpoch_reqless _).trans ((flushX_reqless _ _).trans (reqless_of_mx (said _ _ _)))
  · exact reqless_of_mx (said _ _ _)

theorem pass_reqless (n : Nat) (s : State) : reqless (pass n s) = reqless s := by
  unfold pass
  dsimp only
  split
  · split
    · rfl
    · rw [passed_reqless]
      split
      · exact (wrapEffects_reqless _).trans rfl
      · rfl
  · rfl

theorem toEpoch_reqless (e : Nat) (s : State) : reqless (toEpoch e s) = reqless s := pass_reqless _ s

/-- A register of the margin outputs other than those requests. -/
theorem mx_of_reqless {α : Type} {f : MX → α} (outside : ∀ m : MX, f { m with reqs := [] } = f m) {s t : State}
    (h : reqless t = reqless s) : f t.mx = f s.mx :=
  (outside t.mx).symm.trans ((congrArg f h).trans (outside s.mx))

theorem mxSync_tables (s : State) : (mxSync s).mx.segs = s.mx.segs ∧ (mxSync s).mx.larder = s.mx.larder := by
  unfold mxSync
  split <;> exact ⟨rfl, rfl⟩

/-! ### An action on one channel -/

theorem setMx_keeps (m : MX) (s : State) : Keeps [.mx] s { s with mx := m } := by
  intro p hp
  cases p <;> simp [samePart] at hp ⊢

/-- Only one channel, the flags and the log have changed. -/
structure OnlyCh (i : Chan) (s t : State) : Prop where
  others : ∀ j : Chan, j ≠ i → t.mx.ch[j] = s.mx.ch[j]
  segs : t.mx.segs = s.mx.segs
  larder : t.mx.larder = s.mx.larder
  nextK : t.mx.nextK = s.mx.nextK
  reqs : t.mx.reqs = s.mx.reqs
  keeps : Keeps [.mx, .hi, .mg] s t

section
variable {i : Chan} {s t u : State}

theorem OnlyCh.refl (i : Chan) (s : State) : OnlyCh i s s := ⟨fun _ _ => rfl, rfl, rfl, rfl, rfl, Keeps.refl _ s⟩

theorem OnlyCh.trans (h : OnlyCh i s t) (k : OnlyCh i t u) : OnlyCh i s u :=
  ⟨fun j other => (k.others j other).trans (h.others j other), k.segs.trans h.segs, k.larder.trans h.larder, k.nextK.trans h.nextK,
    k.reqs.trans h.reqs, h.keeps.trans k.keeps⟩

theorem updCh_keeps (i : Chan) (f : MxCh → MxCh) (s : State) : Keeps [.mx] s (updCh i f s) := setMx_keeps _ s

theorem updCh_only (i : Chan) (f : MxCh → MxCh) (s : State) : OnlyCh i s (updCh i f s) :=
  ⟨fun _ other => vupd_other _ _ (Ne.symm other), rfl, rfl, rfl, rfl, (updCh_keeps i f s).mono (by simp)⟩

theorem updCh_self (i : Chan) (f : MxCh → MxCh) (s : State) : (updCh i f s).mx.ch[i] = f s.mx.ch[i] := vupd_self _ _ _

theorem issue_mx (code : Nat) (items : List Item) (s : State) : (issue code items s).mx = s.mx := by simp

theorem issue_ch (i : Chan) (code : Nat) (items : List Item) (s : State) : (issue code items s).mx.ch[i] = s.mx.ch[i] := by
  rw [issue_mx]

theorem issue_only (i : Chan) (code : Nat) (items : List Item) (s : State) : OnlyCh i s (issue code items s) := by
  have mx := issue_mx code items s
  exact ⟨fun _ _ => by rw [mx], by rw [mx], by rw [mx], by rw [mx], by rw [mx], (issue_keeps code items s).mono (by simp)⟩

/-- A change of the flags. -/
theorem OnlyCh.flags {m : MX} (h : OnlyCh i s t) (ch : m.ch = t.mx.ch) (segs : m.segs = t.mx.segs) (larder : m.larder = t.mx.larder)
    (nextK : m.nextK = t.mx.nextK) (reqs : m.reqs = t.mx.reqs) : OnlyCh i s { t with mx := m } :=
  h.trans ⟨fun _ _ => by rw [ch], segs, larder, nextK, reqs, (setMx_keeps m t).mono (by simp)⟩

/-- The code within the clamp. -/
def clampTo (c : MxCh) (v : Int) : Int :=
  if v < c.clampLo.toNat then c.clampLo.toNat else if (c.clampHi.toNat : Int) < v then c.clampHi.toNat else v

/-- The channel with the code that goes out. -/
def codeOut (i : Chan) (v : Int) (s : State) : State :=
  updCh i (fun x => { pushOut s.tb.now (BitVec.ofNat 18 (clampTo s.mx.ch[i] v).toNat) x with
    clamped := x.clamped || decide (clampTo s.mx.ch[i] v ≠ v) }) s

/-- The flag of a limited code. -/
def clampFlag (s : State) : State := { s with mx := { s.mx with clamped := true, fresh := freshen s 2 s.mx.fresh } }

/-- A code that goes out, with the flag and an event for the first that is limited. -/
theorem mxOut_eq (i : Chan) (v : Int) (s : State) :
    mxOut i v s = if clampTo s.mx.ch[i] v = v ∨ s.mx.ch[i].clamped then codeOut i v s
      else issue 0x0C03 [i1 i.val, i4 (unsgn 32 v)] (clampFlag (codeOut i v s)) := rfl

theorem mxOut_only (i : Chan) (v : Int) (s : State) : OnlyCh i s (mxOut i v s) := by
  have out : OnlyCh i s (codeOut i v s) := updCh_only _ _ s
  have flagged : OnlyCh i s (clampFlag (codeOut i v s)) := out.flags rfl rfl rfl rfl rfl
  rw [mxOut_eq]
  split
  · exact out
  · exact flagged.trans (issue_only i _ _ _)

/-- The channel whose code goes out. -/
theorem mxOut_ch (i : Chan) (v : Int) (s : State) :
    ∃ b, (mxOut i v s).mx.ch[i] = { pushOut s.tb.now (BitVec.ofNat 18 (clampTo s.mx.ch[i] v).toNat) s.mx.ch[i] with clamped := b } := by
  have out := updCh_self i (fun x => { pushOut s.tb.now (BitVec.ofNat 18 (clampTo s.mx.ch[i] v).toNat) x with
    clamped := x.clamped || decide (clampTo s.mx.ch[i] v ≠ v) }) s
  rw [mxOut_eq]
  split
  · exact ⟨_, out⟩
  · exact ⟨_, (issue_ch i _ _ _).trans out⟩

/-- A code within the clamp is a code of 18 bits. -/
theorem clampTo_code {c : MxCh} (bounds : c.clampLo.toNat ≤ c.clampHi.toNat) (v : Int) :
    let w := (BitVec.ofNat 18 (clampTo c v).toNat).toNat
    c.clampLo.toNat ≤ w ∧ w ≤ c.clampHi.toNat ∧ ((c.clampLo.toNat : Int) ≤ v → v ≤ (c.clampHi.toNat : Int) → (w : Int) = v) := by
  dsimp only
  rw [BitVec.toNat_ofNat]
  unfold clampTo
  split <;> [skip; split] <;> omega

/-- The code that goes out lies within the clamp, and is the value itself where that lies within. -/
theorem mxOut_code {i : Chan} {s : State} (bounds : s.mx.ch[i].clampLo.toNat ≤ s.mx.ch[i].clampHi.toNat) (v : Int) :
    let t := mxOut i v s
    (s.mx.ch[i].clampLo.toNat ≤ t.mx.ch[i].code.toNat ∧ t.mx.ch[i].code.toNat ≤ s.mx.ch[i].clampHi.toNat)
      ∧ ((s.mx.ch[i].clampLo.toNat : Int) ≤ v → v ≤ (s.mx.ch[i].clampHi.toNat : Int) → (t.mx.ch[i].code.toNat : Int) = v)
      ∧ t.mx.ch[i].acc = s.mx.ch[i].acc ∧ t.mx.ch[i].state = s.mx.ch[i].state := by
  obtain ⟨b, ch⟩ := mxOut_ch i v s
  obtain ⟨low, high, same⟩ := clampTo_code bounds v
  dsimp only
  rw [ch]
  exact ⟨⟨low, high⟩, same, rfl, rfl⟩

/-! ### The parts of an update -/

/-- The event of a stop. -/
def stopSaid (i : Chan) (s : State) : State := if mxActive s.mx.ch[i].state then issue 0x0C05 [i1 i.val, i1 0] s else s

theorem stopSaid_only (i : Chan) (s : State) : OnlyCh i s (stopSaid i s) ∧ (stopSaid i s).mx = s.mx ∧ (stopSaid i s).tb = s.tb := by
  unfold stopSaid
  split
  · exact ⟨issue_only i _ _ s, issue_mx _ _ s, issue_keeps _ _ s .tb (by decide)⟩
  · exact ⟨OnlyCh.refl i s, rfl, rfl⟩

/-- What a stop makes of a channel. -/
def stopCh (toPark : Bool) (now : Nat) (c : MxCh) : MxCh := if toPark then pushOut now c.park (mxStopped c) else mxStopped c

theorem mxStopAct_none {i : Chan} {s : State} (stop : s.mx.ch[i].stopReq = none) : mxStopAct i s = s := by
  rw [mxStopAct]
  dsimp only
  rw [stop]

theorem mxStopAct_parked {i : Chan} {s : State} {toPark : Bool} (stop : s.mx.ch[i].stopReq = some toPark)
    (parked : s.mx.ch[i].state = .parked) : mxStopAct i s = updCh i (fun x => { x with stopReq := none }) s := by
  rw [mxStopAct]
  dsimp only
  rw [stop]
  exact if_pos parked

theorem mxStopAct_stops {i : Chan} {s : State} {toPark : Bool} (stop : s.mx.ch[i].stopReq = some toPark)
    (free : s.mx.ch[i].state ≠ .parked) : mxStopAct i s = updCh i (stopCh toPark s.tb.now) (stopSaid i s) := by
  rw [mxStopAct]
  dsimp only
  rw [stop]
  exact if_neg free

theorem mxStopAct_only (i : Chan) (s : State) : OnlyCh i s (mxStopAct i s) := by
  cases stop : s.mx.ch[i].stopReq with
  | none =>
    rw [mxStopAct_none stop]
    exact OnlyCh.refl i s
  | some toPark =>
    by_cases parked : s.mx.ch[i].state = .parked
    · rw [mxStopAct_parked stop parked]
      exact updCh_only _ _ s
    · rw [mxStopAct_stops stop parked]
      exact (stopSaid_only i s).1.trans (updCh_only _ _ _)

theorem mxSample0_only (i : Chan) (seg k : Nat) (s : State) : OnlyCh i s (mxSample0 i seg k s) :=
  ((updCh_only i _ s).trans (updCh_only i _ _)).trans (mxOut_only i _ _)

theorem mxJumpStart_only (i : Chan) (seg : Nat) (s : State) : OnlyCh i s (mxJumpStart i seg s) :=
  (updCh_only i _ s).trans (issue_only i _ _ _)

theorem mxDead_only (i : Chan) (k : Nat) (s : State) : OnlyCh i s (mxDead i k s) := by
  unfold mxDead
  split
  · exact OnlyCh.refl i s
  · split
    · exact (mxJumpStart_only i _ s).trans (mxSample0_only i _ k _)
    · exact mxSample0_only i _ k s
  · exact updCh_only i _ s

theorem mxPlay_only (i : Chan) (k : Nat) (s : State) : OnlyCh i s (mxPlay i k s) := (updCh_only i _ s).trans (mxOut_only i _ _)

theorem mxSine_only (i : Chan) (s : State) : OnlyCh i s (mxSine i s) := (updCh_only i _ s).trans (mxOut_only i _ _)

/-- The state in which a channel's stop and its requests have taken effect. -/
def mxTaken (k : Nat) (i : Chan) (s : State) : State := updCh i (mxInbox (mxStopAct i s) (32768 * k)) (mxStopAct i s)

/-- An update with no uncorrectable larder read. -/
theorem mxUpdateCh_cases (k : Nat) (i : Chan) (s : State) :
    (((mxTaken k i s).mx.ch[i].imm.isSome = true → mxUpdateCh k none s i = mxDead i k (mxTaken k i s)))
      ∧ ((mxTaken k i s).mx.ch[i].imm = none → (mxTaken k i s).mx.ch[i].state = .playing → mxUpdateCh k none s i = mxPlay i k (mxTaken k i s))
      ∧ ((mxTaken k i s).mx.ch[i].imm = none → (mxTaken k i s).mx.ch[i].state = .sine → mxUpdateCh k none s i = mxSine i (mxTaken k i s))
      ∧ ((mxTaken k i s).mx.ch[i].imm = none → (mxTaken k i s).mx.ch[i].state ≠ .playing → (mxTaken k i s).mx.ch[i].state ≠ .sine →
        mxUpdateCh k none s i = mxTaken k i s) := by
  have eq : mxUpdateCh k none s i = if (mxTaken k i s).mx.ch[i].imm.isSome then mxDead i k (mxTaken k i s)
      else match (mxTaken k i s).mx.ch[i].state with
        | .playing => mxPlay i k (mxTaken k i s)
        | .sine => mxSine i (mxTaken k i s)
        | _ => mxTaken k i s := rfl
  rw [eq]
  refine ⟨fun due => if_pos due, fun none_ plays => ?_, fun none_ sine => ?_, fun none_ other other' => ?_⟩
  · rw [none_, plays]
    rfl
  · rw [none_, sine]
    rfl
  · rw [none_]
    revert other other'
    cases (mxTaken k i s).mx.ch[i].state <;> simp

theorem mxTaken_only (k : Nat) (i : Chan) (s : State) : OnlyCh i s (mxTaken k i s) := (mxStopAct_only i s).trans (updCh_only i _ _)

theorem mxUpdateCh_only (k : Nat) (s : State) (i : Chan) : OnlyCh i s (mxUpdateCh k none s i) := by
  have taken := mxTaken_only k i s
  obtain ⟨dead, play, sine, rest⟩ := mxUpdateCh_cases k i s
  cases due : (mxTaken k i s).mx.ch[i].imm with
  | some x =>
    rw [dead (by rw [due]; rfl)]
    exact taken.trans (mxDead_only i k _)
  | none =>
    by_cases plays : (mxTaken k i s).mx.ch[i].state = .playing
    · rw [play due plays]
      exact taken.trans (mxPlay_only i k _)
    · by_cases sines : (mxTaken k i s).mx.ch[i].state = .sine
      · rw [sine due sines]
        exact taken.trans (mxSine_only i _)
      · rw [rest due plays sines]
        exact taken

end

/-- The clamp of a channel. -/
def clampOf (c : MxCh) : BitVec 18 × BitVec 18 := (c.clampLo, c.clampHi)

theorem mxPassEnd_clamp (s : State) (c : MxCh) : clampOf (mxPassEnd s c) = clampOf c := by
  unfold mxPassEnd
  dsimp only
  split
  · rfl
  · split
    · rfl
    · split
      · rfl
      · split <;> rfl

theorem mxNext_clamp (s : State) (c : MxCh) : clampOf (mxNext s c) = clampOf c := by
  obtain ⟨b, hb⟩ : ∃ b : MxCh, b =
      if c.pos % 16 = 15 then { c with buf := c.buf.filter fun x => x.1 != segAddr (segAt s c.seg) + c.pos / 16 * 64 } else c :=
    ⟨_, rfl⟩
  have same : clampOf b = clampOf c := by
    rw [hb]
    split <;> rfl
  unfold mxNext
  dsimp only
  rw [← hb]
  split
  · rfl
  · split
    · exact same
    · exact (mxPassEnd_clamp s b).trans same

theorem mxAdvance_clamp (s : State) (n : Nat) (c : MxCh) : clampOf (mxAdvance s n c) = clampOf c := by
  induction n generalizing c with
  | zero => rfl
  | succ n ih => exact (ih (mxNext s c)).trans (mxNext_clamp s c)

theorem mxDecide_clamp (s : State) (e : Nat) (c : MxCh) : clampOf (mxDecide s e c) = clampOf c := by
  unfold mxDecide
  split
  · split <;> rfl
  · rfl

/-- The channel after the samples of an update (R329). -/
def playedCh (i : Chan) (k : Nat) (s : State) : MxCh :=
  let c := s.mx.ch[i]
  let c1 := mxAdvance s (mxGrid k c) c
  let v := mxSample s c1
  mxDecide s (32768 * k) { c1 with
    hist := if c.fresh then List.replicate 8 v else if mxGrid k c = 0 then c.hist else (v :: c.hist).take 16, fresh := false }

/-- The value that it puts out. -/
def playedVal (i : Chan) (k : Nat) (s : State) : Int :=
  if (playedCh i k s).state = .playing then mxValue (updCh i (fun _ => playedCh i k s) s) k (playedCh i k s)
  else ((mxSample s (mxAdvance s (mxGrid k s.mx.ch[i]) s.mx.ch[i])).toNat : Int)

theorem mxPlay_eq (i : Chan) (k : Nat) (s : State) :
    mxPlay i k s = mxOut i (playedVal i k s) (updCh i (fun _ => playedCh i k s) s) := rfl

theorem playedCh_clamp (i : Chan) (k : Nat) (s : State) : clampOf (playedCh i k s) = clampOf s.mx.ch[i] :=
  (mxDecide_clamp _ _ _).trans (mxAdvance_clamp s (mxGrid k s.mx.ch[i]) s.mx.ch[i])

/-! ### The update of every channel -/

section
variable {f : State → Chan → State} (only : ∀ s i, OnlyCh i s (f s i))
include only

/-- Actions on a list of channels leave what each leaves. -/
theorem foldl_margins (l : List Chan) (s : State) :
    (l.foldl f s).mx.segs = s.mx.segs ∧ (l.foldl f s).mx.larder = s.mx.larder ∧ (l.foldl f s).mx.nextK = s.mx.nextK
      ∧ (l.foldl f s).mx.reqs = s.mx.reqs ∧ Keeps [.mx, .hi, .mg] s (l.foldl f s) :=
  ⟨foldl_keeps (fun s => s.mx.segs) (fun s i => (only s i).segs) l s, foldl_keeps (fun s => s.mx.larder) (fun s i => (only s i).larder) l s,
    foldl_keeps (fun s => s.mx.nextK) (fun s i => (only s i).nextK) l s, foldl_keeps (fun s => s.mx.reqs) (fun s i => (only s i).reqs) l s,
    foldl_partKeeps (fun s i => (only s i).keeps) l s⟩

theorem foldl_chOther {l : List Chan} {i : Chan} (out : i ∉ l) (s : State) : (l.foldl f s).mx.ch[i] = s.mx.ch[i] := by
  induction l generalizing s with
  | nil => rfl
  | cons j l ih =>
    rw [List.foldl_cons, ih (fun h => out (List.mem_cons_of_mem _ h))]
    exact (only s j).others i fun h => out (h ▸ List.mem_cons_self)

/-- A channel of the list moves by its own action alone. -/
theorem foldl_ch {l : List Chan} (once : l.Nodup) {i : Chan} (mem : i ∈ l) (s : State) :
    ∃ v, v.mx.ch[i] = s.mx.ch[i] ∧ (l.foldl f s).mx.ch[i] = (f v i).mx.ch[i] := by
  induction l generalizing s with
  | nil => exact absurd mem List.not_mem_nil
  | cons j l ih =>
    obtain ⟨fresh, rest⟩ := List.nodup_cons.mp once
    by_cases own : j = i
    · subst own
      exact ⟨s, rfl, foldl_chOther only fresh (f s j)⟩
    · obtain ⟨v, same, moved⟩ := ih rest ((List.mem_cons.mp mem).resolve_left (Ne.symm own)) (f s j)
      exact ⟨v, same.trans ((only s j).others i (Ne.symm own)), moved⟩

end

/-- Requests that are none change no channel. -/
theorem mxInbox_empty {c : MxCh} (none_ : c.inbox = []) (s : State) (e : Nat) : mxInbox s e c = c := by
  unfold mxInbox
  dsimp only
  rw [none_]
  cases c
  cases none_
  rfl

/-- A stop that waits takes effect on a channel that is not parked. -/
theorem mxTaken_stops {k : Nat} {i : Chan} {s : State} {toPark : Bool} (stop : s.mx.ch[i].stopReq = some toPark) (free : s.mx.ch[i].state ≠ .parked) :
    (mxTaken k i s).mx.ch[i] = stopCh toPark s.tb.now s.mx.ch[i] := by
  have acted : (mxStopAct i s).mx.ch[i] = stopCh toPark s.tb.now s.mx.ch[i] := by
    rw [mxStopAct_stops stop free, updCh_self, (stopSaid_only i s).2.1]
  have none_ : (mxStopAct i s).mx.ch[i].inbox = [] := by
    rw [acted]
    cases toPark <;> rfl
  rw [mxTaken, updCh_self, mxInbox_empty none_, acted]

/-- The stop at an update (R334). -/
theorem mxUpdateCh_stops {k : Nat} {i : Chan} {s : State} {toPark : Bool} (stop : s.mx.ch[i].stopReq = some toPark) (free : s.mx.ch[i].state ≠ .parked) :
    let c := s.mx.ch[i]
    let d := (mxUpdateCh k none s i).mx.ch[i]
    d.state = .stopped ∧ d.stopReq = none ∧ d.en = c.en ∧ d.code = if toPark then c.park else c.code := by
  have taken := mxTaken_stops (k := k) stop free
  have stands : (mxTaken k i s).mx.ch[i].imm = none ∧ (mxTaken k i s).mx.ch[i].state = .stopped := by
    rw [taken]
    cases toPark <;> exact ⟨rfl, rfl⟩
  obtain ⟨-, -, -, rest⟩ := mxUpdateCh_cases k i s
  dsimp only
  rw [rest stands.1 (by rw [stands.2]; decide) (by rw [stands.2]; decide), taken]
  cases toPark <;> exact ⟨rfl, rfl, rfl, rfl⟩

section
variable {k : Nat} {i : Chan} {s : State} (empty : s.mx.ch[i].inbox = [])
include empty

/-- With no stop and no request a channel is taken as it stands. -/
theorem mxTaken_idle (stop : s.mx.ch[i].stopReq = none) : (mxTaken k i s).mx.ch[i] = s.mx.ch[i] := by
  rw [mxTaken, updCh_self, mxStopAct_none stop]
  exact mxInbox_empty empty _ _

variable (stop : s.mx.ch[i].stopReq = none) (imm : s.mx.ch[i].imm = none)
include stop imm

/-- A channel with nothing requested that stands keeps everything. -/
theorem mxUpdateCh_rests (still : s.mx.ch[i].state = .stopped ∨ s.mx.ch[i].state = .parked ∨ s.mx.ch[i].state = .holding) :
    (mxUpdateCh k none s i).mx.ch[i] = s.mx.ch[i] := by
  have taken := mxTaken_idle (k := k) empty stop
  obtain ⟨-, -, -, rest⟩ := mxUpdateCh_cases k i s
  rw [taken] at rest
  rw [rest imm (by rcases still with h | h | h <;> rw [h] <;> decide) (by rcases still with h | h | h <;> rw [h] <;> decide), taken]

variable (bounds : s.mx.ch[i].clampLo.toNat ≤ s.mx.ch[i].clampHi.toNat)
include bounds

/-- The sine mode at an update (R336). -/
theorem mxUpdateCh_sine (sine : s.mx.ch[i].state = .sine) :
    let c := s.mx.ch[i]
    let acc := if c.fresh then 0 else c.acc + c.ftw
    let v := sineCode { c with acc := acc, fresh := false }
    let d := (mxUpdateCh k none s i).mx.ch[i]
    d.acc = acc ∧ d.state = .sine ∧ (c.clampLo.toNat ≤ d.code.toNat ∧ d.code.toNat ≤ c.clampHi.toNat)
      ∧ ((c.clampLo.toNat : Int) ≤ v → v ≤ (c.clampHi.toNat : Int) → (d.code.toNat : Int) = v) := by
  intro c acc v
  have taken := mxTaken_idle (k := k) empty stop
  obtain ⟨-, -, sines, -⟩ := mxUpdateCh_cases k i s
  rw [taken] at sines
  have moved : (updCh i (fun c => { c with acc := if c.fresh then 0 else c.acc + c.ftw, fresh := false }) (mxTaken k i s)).mx.ch[i]
      = { c with acc := acc, fresh := false } := by
    rw [updCh_self, taken]
  have eq : mxSine i (mxTaken k i s) = mxOut i v
      (updCh i (fun c => { c with acc := if c.fresh then 0 else c.acc + c.ftw, fresh := false }) (mxTaken k i s)) := by
    rw [mxSine, moved]
  rw [sines imm sine, eq]
  generalize updCh i (fun c => { c with acc := if c.fresh then 0 else c.acc + c.ftw, fresh := false }) (mxTaken k i s) = u at moved
  obtain ⟨clamp, same, accs, state⟩ := mxOut_code (i := i) (s := u) (by rw [moved]; exact bounds) v
  rw [moved] at clamp same accs state
  exact ⟨accs, state.trans sine, clamp, same⟩

/-- A playing channel's code goes out within the clamp (R322). -/
theorem mxUpdateCh_plays (plays : s.mx.ch[i].state = .playing) :
    let c := s.mx.ch[i]
    let d := (mxUpdateCh k none s i).mx.ch[i]
    c.clampLo.toNat ≤ d.code.toNat ∧ d.code.toNat ≤ c.clampHi.toNat := by
  intro c
  have taken := mxTaken_idle (k := k) empty stop
  obtain ⟨-, play, -, -⟩ := mxUpdateCh_cases k i s
  rw [taken] at play
  have self : (updCh i (fun _ => playedCh i k (mxTaken k i s)) (mxTaken k i s)).mx.ch[i] = playedCh i k (mxTaken k i s) := updCh_self _ _ _
  have kept := playedCh_clamp i k (mxTaken k i s)
  rw [taken] at kept
  have low : (playedCh i k (mxTaken k i s)).clampLo = c.clampLo := congrArg Prod.fst kept
  have high : (playedCh i k (mxTaken k i s)).clampHi = c.clampHi := congrArg Prod.snd kept
  rw [play imm plays, mxPlay_eq]
  generalize updCh i (fun _ => playedCh i k (mxTaken k i s)) (mxTaken k i s) = u at self
  obtain ⟨clamp, -⟩ := mxOut_code (i := i) (s := u) (by rw [self, low, high]; exact bounds) (playedVal i k (mxTaken k i s))
  rwa [self, low, high] at clamp

end

end Sys2Proof.Machine

open Sys2Proof Sys2Proof.Machine

/-- Settles O39: each channel moves by its own action at the update, which its stop, its state and its requests tell. -/
theorem marginUpdateStaysInClamp : Obligations.marginUpdateStaysInClamp := by
  intro s edge u w
  have row : exec (.mxUpdate none) s
      = .next ((List.finRange 16).foldl (mxUpdateCh u.mx.nextK none) { w with mx := { w.mx with nextK := u.mx.nextK + 1 } }) :=
    congrArg Host.Outcome.next (if_neg (not_not.mpr edge))
  have only := mxUpdateCh_only u.mx.nextK
  obtain ⟨segs, larder, nextK, -, kept⟩ := foldl_margins only (List.finRange 16) { w with mx := { w.mx with nextK := u.mx.nextK + 1 } }
  have each (i : Chan) := foldl_ch only (List.nodup_finRange 16) (List.mem_finRange i) { w with mx := { w.mx with nextK := u.mx.nextK + 1 } }
  generalize (List.finRange 16).foldl (mxUpdateCh u.mx.nextK none) { w with mx := { w.mx with nextK := u.mx.nextK + 1 } } = t
    at row segs larder nextK kept each
  have time := toEpoch_reqless (32768 * u.mx.nextK) u
  have synced : u.mx.segs = s.mx.segs ∧ u.mx.larder = s.mx.larder := mxSync_tables s
  have sq : w.sq = s.sq := (toEpoch_keeps _ u .sq (by decide)).trans (mxSync_frame s).2.2.2.2.2.2.1
  refine ⟨t, row, nextK, segs.trans ((mx_of_reqless (f := MX.segs) (fun _ => rfl) time).trans synced.1),
    larder.trans ((mx_of_reqless (f := MX.larder) (fun _ => rfl) time).trans synced.2), kept .pm (by decide),
    (kept .sq (by decide)).trans sq, fun i => ?_⟩
  obtain ⟨v, same, moved⟩ := each i
  have chan : v.mx.ch[i] = w.mx.ch[i] := same
  rw [moved, ← chan]
  exact ⟨fun toPark _ stop free => mxUpdateCh_stops stop free, fun empty stop imm bounds => ⟨mxUpdateCh_rests empty stop imm,
    mxUpdateCh_sine empty stop imm bounds, mxUpdateCh_plays empty stop imm bounds⟩⟩

end

section
/-! SUPPORT. Jump requests (R331), the reads of DRAM segments (R327) and the sine blocks (R335); the statement on them. -/

namespace Sys2Proof.Machine

open Sys2Proof

/-! ### Jump requests (R331, R332) -/

/-- Where the updates stand changes no channel. -/
theorem mxSync_chans (s : State) : (mxSync s).mx.ch = s.mx.ch ∧ (mxSync s).mx.reqs = s.mx.reqs ∧ Keeps [.mx] s (mxSync s) := by
  unfold mxSync
  split
  · exact ⟨rfl, rfl, Keeps.refl _ s⟩
  · exact ⟨rfl, rfl, setMx_keeps _ s⟩

section
variable {i : Chan} {src seg : Nat} {imm : Bool} {cyc : Int} {s : State}

theorem goodTarget (valid : segValid (segAt (mxSync s) seg) = true) (off : (mxSync s).mx.ch[i].en = false) :
    ¬(¬segValid (segAt (mxSync s) seg) = true ∨ (mxSync s).mx.ch[i].en = true) :=
  fun bad => bad.elim (fun h => h valid) fun on => Bool.false_ne_true (off.symm.trans on)

/-- The channel with one more request in its inbox. -/
def asked (cyc : Int) (src seg : Nat) (imm : Bool) (c : MxCh) : MxCh := { c with inbox := inboxAdd cyc src seg imm c.inbox }

/-- A request for a good target waits in the inbox. -/
theorem mxRequest_waits (valid : segValid (segAt (mxSync s) seg) = true) (off : (mxSync s).mx.ch[i].en = false)
    (free : (mxSync s).mx.ch[i].state ≠ .parked) (empty : (mxSync s).mx.ch[i].inbox = []) :
    mxRequest i src seg imm cyc s = updCh i (asked cyc src seg imm) (mxSync s)
      ∧ (mxRequest i src seg imm cyc s).mx.ch[i] = { (mxSync s).mx.ch[i] with inbox := [(cyc, src, seg, imm)] } := by
  have row : mxRequest i src seg imm cyc s = updCh i (asked cyc src seg imm) (mxSync s) := by
    rw [mxRequest, if_neg (goodTarget valid off), if_neg free]
    rfl
  refine ⟨row, ?_⟩
  rw [row, updCh_self, asked, empty]
  rfl

/-- A parked channel takes none. -/
theorem mxRequest_parked (valid : segValid (segAt (mxSync s) seg) = true) (off : (mxSync s).mx.ch[i].en = false)
    (parked : (mxSync s).mx.ch[i].state = .parked) : mxRequest i src seg imm cyc s = mxSync s := by
  rw [mxRequest, if_neg (goodTarget valid off), if_pos parked]

/-- A target that is not `VALID`, or the sine mode, ignores it. -/
theorem mxRequest_ignored (bad : segValid (segAt (mxSync s) seg) = false ∨ (mxSync s).mx.ch[i].en = true) :
    mxRequest i src seg imm cyc s = jumpIgnored i seg src (mxSync s) := by
  rw [mxRequest, if_pos (bad.imp (fun h => by simp [h]) id)]

end

theorem jumpIgnored_mx (i : Chan) (seg src : Nat) (s : State) :
    (jumpIgnored i seg src s).mx.jumpIgn = true ∧ (jumpIgnored i seg src s).mx.ch = s.mx.ch ∧ Keeps [.mx, .hi, .mg] s (jumpIgnored i seg src s) := by
  unfold jumpIgnored
  rw [issue_mx]
  exact ⟨rfl, rfl, ((setMx_keeps _ s).mono (by simp)).trans ((issue_keeps _ _ _).mono (by simp))⟩

/-- The request of a hit or an edge, the only one that waits. -/
theorem exec_mxJumpRequest {s : State} {i : Chan} {evt : Bool} {due : Int} (only : s.mx.reqs = [(i, evt, due)])
    (still : (toEpoch due.toNat s).mx.reqs = [(i, evt, due)]) :
    let u := toEpoch due.toNat s
    let w : State := { u with mx := { u.mx with reqs := [] } }
    exec (.mxJumpRequest i (if evt then .evtIn else .trigger)) s
      = .next (mxRequest i (if evt then 2 else 1) (fld w.mx.ch[i].trig.toNat 9 0) (w.mx.ch[i].trig.toNat.testBit 14)
        ((if evt then due else min (ext u : Int) (due + 65536)) / 8192 * 8192) w) := by
  intro u w
  have taken : ({ u with mx := { u.mx with reqs := u.mx.reqs.erase (i, evt, due) } } : State) = w := by
    rw [still]
    simp [w]
  have asks : trigRequest i evt s = mxRequest i (if evt then 2 else 1) (fld w.mx.ch[i].trig.toNat 9 0) (w.mx.ch[i].trig.toNat.testBit 14)
      ((if evt then due else min (ext u : Int) (due + 65536)) / 8192 * 8192) w := by
    have found : s.mx.reqs.find? (fun x => x.1 = i ∧ x.2.1 = evt) = some (i, evt, due) := by simp [only]
    rw [trigRequest, found]
    dsimp only
    rw [show toEpoch due.toNat s = u from rfl, taken]
    rfl
  rw [← asks]
  cases evt <;> rfl

/-! ### DRAM segments (R327) -/

theorem noteReadUe_pm (ecc : Ecc) (a r : Nat) (s : State) :
    (noteReadUe ecc a r s).pm.regions = s.pm.regions ∧ (noteReadUe ecc a r s).pm.regfault = s.pm.regfault := by
  cases ecc with
  | ok => exact ⟨rfl, rfl⟩
  | corrected =>
    have once (code : Nat) (items : List Item) (t : State) : (issueOnce code items t).pm = t.pm := by simp
    have same : (noteReadUe .corrected a r s).pm = { s.pm with eccCe := satSucc 0xFFFF s.pm.eccCe } := once _ _ _
    rw [same]
    exact ⟨rfl, rfl⟩
  | uncorrectable =>
    have said (code : Nat) (items : List Item) (t : State) : (issue code items t).pm = t.pm := by simp
    have same : (noteReadUe .uncorrectable a r s).pm = (noteEcc .uncorrectable a s).pm := said _ _ _
    rw [same]
    exact ⟨rfl, rfl⟩

theorem noteReadUe_good (a r : Nat) (s : State) : noteReadUe .ok a r s = s := rfl

theorem granuleFaulted_note (ecc : Ecc) (b r : Nat) (s : State) (a : Nat) : granuleFaulted (noteReadUe ecc b r s) a = granuleFaulted s a := by
  obtain ⟨regions, faults⟩ := noteReadUe_pm ecc b r s
  rw [granuleFaulted, granuleFaulted, regionOf, regionOf, regions, faults]

section
variable {s : State} {i : Chan} {a : Nat} (aligned : a % 64 = 0)
include aligned

theorem exec_mxSegmentRead_idle (ecc : Ecc) (none_ : needsGranule s s.mx.ch[i] a = false) : exec (.mxSegmentRead i a ecc) s = .next s := by
  have own : a / 64 * 64 = a := by omega
  show Host.Outcome.next (segRead i a ecc s) = _
  rw [segRead]
  dsimp only
  rw [own, if_pos (Bool.eq_false_iff.mp none_)]

/-- A needed granule enters the read buffer. -/
theorem exec_mxSegmentRead_good (needs : needsGranule s s.mx.ch[i] a = true) (good : granuleFaulted (inSlot .maint 64 s) a = false) :
    exec (.mxSegmentRead i a .ok) s = .next (updCh i (fun c => { c with
      buf := ((a, dramRead (inSlot .maint 64 s) a 64) :: c.buf.filter fun x => x.1 != a).take 256 }) (inSlot .maint 64 s)) := by
  have own : a / 64 * 64 = a := by omega
  show Host.Outcome.next (segRead i a .ok s) = _
  rw [segRead]
  dsimp only
  rw [own, if_neg (not_not.mpr needs), noteReadUe_good, if_neg (by simp [good])]

/-- A granule that cannot be read parks the code and stops the channel. -/
theorem exec_mxSegmentRead_bad {ecc : Ecc} (needs : needsGranule s s.mx.ch[i] a = true)
    (bad : ecc = .uncorrectable ∨ granuleFaulted (inSlot .maint 64 s) a = true) :
    ∃ items fresh, exec (.mxSegmentRead i a ecc) s = .next (mxFault i (issue 0x0C02 items
      { noteReadUe ecc a 1 (inSlot .maint 64 s) with mx := { (inSlot .maint 64 s).mx with fetchErr := true, fresh := fresh } })) := by
  have own : a / 64 * 64 = a := by omega
  have mx : (noteReadUe ecc a 1 (inSlot .maint 64 s)).mx = (inSlot .maint 64 s).mx := by simp
  refine ⟨[i1 i.val, i8 a], freshen (noteReadUe ecc a 1 (inSlot .maint 64 s)) 4 (inSlot .maint 64 s).mx.fresh, ?_⟩
  show Host.Outcome.next (segRead i a ecc s) = _
  rw [segRead]
  dsimp only
  rw [own, if_neg (not_not.mpr needs), if_pos (by rw [granuleFaulted_note]; exact bad), mx]

end

/-- A channel that a fault stops. -/
theorem mxFault_ch (i : Chan) (s : State) :
    (mxFault i s).mx.ch[i].state = .stopped ∧ (mxFault i s).mx.ch[i].code = s.mx.ch[i].park
      ∧ (∀ j : Chan, j ≠ i → (mxFault i s).mx.ch[j] = s.mx.ch[j]) ∧ (mxFault i s).mx.fetchErr = s.mx.fetchErr := by
  have self := updCh_self i (fun c => { mxStopped c with code := c.park, outs := [] }) s
  have others := (updCh_only i (fun c => { mxStopped c with code := c.park, outs := [] }) s).others
  have flag : (updCh i (fun c => { mxStopped c with code := c.park, outs := [] }) s).mx.fetchErr = s.mx.fetchErr := rfl
  unfold mxFault
  rw [issue_mx, self]
  exact ⟨rfl, rfl, others, flag⟩

/-! ### Sine blocks (R335) -/

/-- A write of a sine block's `AMPL` alone, as the bytes of the block. -/
theorem overlay_ampl (c : MxCh) (ampl : Nat) :
    let l := overlay (sineBytes c) 0x18 ((leBytes 4 ampl).map some)
    slice l 0 1 = (leBytes 4 (b2n c.en)).take 1 ∧ slice l 8 4 = leBytes 4 c.ftwLo.toNat ∧ slice l 16 4 = leBytes 4 c.poffLo.toNat
      ∧ slice l 24 4 = leBytes 4 ampl ∧ slice l 28 4 = leBytes 4 c.dc.toNat := ⟨rfl, rfl, rfl, rfl, rfl⟩

/-- Only `AMPL` changes with it. -/
theorem sineFields_ampl (c : MxCh) {ampl : Nat} (small : ampl < 2 ^ 18) :
    sineFields 0x18 ((leBytes 4 ampl).map some) c = { c with ampl := BitVec.ofNat 18 ampl } := by
  obtain ⟨-, ftwLo, poffLo, new, dc⟩ := overlay_ampl c ampl
  have word {n v : Nat} (fits : v < 2 ^ n) (n32 : n ≤ 32) : BitVec.ofNat n (leNat (leBytes 4 v)) = BitVec.ofNat n v := by
    rw [leNat_leBytes_lt (fits.trans_le ((Nat.pow_le_pow_right (by decide) n32).trans (by decide)))]
  have far : wHits 0x18 ((leBytes 4 ampl).map some) 12 4 = false ∧ wHits 0x18 ((leBytes 4 ampl).map some) 20 4 = false := ⟨rfl, rfl⟩
  have f8 : fieldAt (overlay (sineBytes c) 0x18 ((leBytes 4 ampl).map some)) 8 4 = leNat (leBytes 4 c.ftwLo.toNat) := congrArg leNat ftwLo
  have f16 : fieldAt (overlay (sineBytes c) 0x18 ((leBytes 4 ampl).map some)) 16 4 = leNat (leBytes 4 c.poffLo.toNat) := congrArg leNat poffLo
  have f24 : fieldAt (overlay (sineBytes c) 0x18 ((leBytes 4 ampl).map some)) 24 4 = leNat (leBytes 4 ampl) := congrArg leNat new
  have f28 : fieldAt (overlay (sineBytes c) 0x18 ((leBytes 4 ampl).map some)) 28 4 = leNat (leBytes 4 c.dc.toNat) := congrArg leNat dc
  unfold sineFields
  dsimp only
  rw [far.1, far.2, f8, f16, f24, f28, word c.ftwLo.isLt (by decide), word c.poffLo.isLt (by decide), word small (by decide),
    word c.dc.isLt (by decide), BitVec.ofNat_toNat, BitVec.ofNat_toNat, BitVec.ofNat_toNat]
  simp

/-- A write of one channel's `AMPL` that is the front of the posted writes. -/
theorem exec_sineBlockWrite_ampl {s : State} {i : Chan} {ampl : Nat} (small : ampl < 2 ^ 18)
    (front : frontWrite s = some { bar4 := false, off := 0x1000 + 64 * i.val + 0x18, bytes := (leBytes 4 ampl).map some }) :
    exec (.sineBlockWrite (0x1000 + 64 * i.val + 0x18) ((leBytes 4 ampl).map some)) s
      = .next (updCh i (fun c => { c with ampl := BitVec.ofNat 18 ampl }) (mxSync (popWrite (0x1000 + 64 * i.val + 0x18) 4 s))) := by
  have inside := i.isLt
  have chan : Fin.ofNat 16 ((0x1000 + 64 * i.val + 0x18 - 0x1000) / 64) = i := Fin.ext (by simp; omega)
  have place : (0x1000 + 64 * i.val + 0x18) % 64 = 0x18 := by omega
  have length : ((leBytes 4 ampl).map some).length = 4 := by simp
  have bytes : ((leBytes 4 ampl).map some).take (32 - 0x18) = (leBytes 4 ampl).map some := List.take_of_length_le (by simp)
  have fields : sineFields 0x18 ((leBytes 4 ampl).map some) = fun c => { c with ampl := BitVec.ofNat 18 ampl } :=
    funext fun c => sineFields_ampl c small
  have en (c : MxCh) : bitAt (fieldAt (overlay (sineBytes c) 0x18 ((leBytes 4 ampl).map some)) 0 1) 0 = c.en := by
    rw [fieldAt, (overlay_ampl c ampl).1]
    cases c.en <;> rfl
  show execSineBlockWrite _ _ s = _
  rw [execSineBlockWrite, if_pos ⟨front, by omega, by omega⟩, sineAt, if_pos ⟨by omega, by omega, by omega⟩, place, chan, bytes, length,
    sineWrite]
  dsimp only
  rw [if_pos (.inl (en _)), fields]

end Sys2Proof.Machine

open Sys2Proof Sys2Proof.Machine

/-- Settles O40: the request by its target and channel, the granule by its need and its reading, and the block's one field. -/
theorem marginRequestsAndReads : Obligations.marginRequestsAndReads := by
  refine ⟨fun s i evt due only => ?_, fun s i a aligned => ?_, fun s i ampl small => ?_⟩
  · intro u v c seg still empty
    have row := exec_mxJumpRequest only still
    obtain ⟨w, hw⟩ : ∃ w : State, w = { u with mx := { u.mx with reqs := [] } } := ⟨_, rfl⟩
    obtain ⟨chans, reqs, synced⟩ := mxSync_chans w
    have kept : Keeps [.mx] u w := by
      rw [hw]
      exact setMx_keeps _ u
    have vw : v = mxSync w := by rw [hw]
    have wch : w.mx.ch = u.mx.ch := by rw [hw]
    have wreqs : w.mx.reqs = [] := by rw [hw]
    have trig : (toEpoch due.toNat s).mx.ch[i].trig = c.trig := by rw [show c = v.mx.ch[i] from rfl, vw, chans, wch]
    dsimp only at row
    rw [show ({ toEpoch due.toNat s with mx := { (toEpoch due.toNat s).mx with reqs := [] } } : State) = w from hw.symm, trig] at row
    have here : c = (mxSync w).mx.ch[i] := by rw [← vw]
    refine ⟨fun valid off free => ?_, fun valid off parked => ?_, fun bad => ?_⟩
    · obtain ⟨eq, self⟩ := mxRequest_waits (src := if evt then 2 else 1) (imm := c.trig.toNat.testBit 14)
        (cyc := (if evt then due else min (ext u : Int) (due + 65536)) / 8192 * 8192) (i := i) (seg := seg) (s := w)
        (vw ▸ valid) (here ▸ off) (here ▸ free) (here ▸ empty)
      have only := updCh_only i (asked ((if evt then due else min (ext u : Int) (due + 65536)) / 8192 * 8192) (if evt then 2 else 1) seg
        (c.trig.toNat.testBit 14)) (mxSync w)
      have keeps := updCh_keeps i (asked ((if evt then due else min (ext u : Int) (due + 65536)) / 8192 * 8192) (if evt then 2 else 1) seg
        (c.trig.toNat.testBit 14)) (mxSync w)
      rw [← eq] at only keeps
      refine ⟨_, row, only.reqs.trans (reqs.trans wreqs), self.trans (by rw [here]), fun j other => ?_, (kept.trans synced).trans keeps⟩
      rw [only.others j other, chans, wch]
    · rw [mxRequest_parked (vw ▸ valid) (here ▸ off) (here ▸ parked)] at row
      rw [vw]
      exact row
    · rw [mxRequest_ignored (bad.imp (fun h => vw ▸ h) fun h => here ▸ h)] at row
      obtain ⟨flag, same, keeps⟩ := jumpIgnored_mx i seg (if evt then 2 else 1) (mxSync w)
      exact ⟨_, row, flag, same.trans (chans.trans wch), ((kept.trans synced).mono (by simp)).trans keeps⟩
  · intro u
    refine ⟨fun none_ ecc => exec_mxSegmentRead_idle aligned ecc none_, fun needs => ⟨fun good => ?_, fun ecc bad => ?_⟩⟩
    · have row := exec_mxSegmentRead_good aligned needs good
      have self := updCh_self i (fun c => { c with buf := ((a, dramRead u a 64) :: c.buf.filter fun x => x.1 != a).take 256 }) u
      refine ⟨_, row, ?_, ?_, (updCh_only i _ u).others, updCh_keeps i _ u⟩
      · rw [self]
        rfl
      · rw [self]
    · obtain ⟨items, fresh, row⟩ := exec_mxSegmentRead_bad aligned needs bad
      obtain ⟨state, code, others, flag⟩ := mxFault_ch i (issue 0x0C02 items
        { noteReadUe ecc a 1 (inSlot .maint 64 s) with mx := { (inSlot .maint 64 s).mx with fetchErr := true, fresh := fresh } })
      rw [issue_mx] at code flag
      refine ⟨_, row, flag, state, code, fun j other => (others j other).trans (issue_ch j _ _ _)⟩
  · intro off b u front
    have row := exec_sineBlockWrite_ampl small front
    obtain ⟨chans, -, synced⟩ := mxSync_chans u
    have mx : u.mx = s.mx := by simp [u]
    have self := updCh_self i (fun c => { c with ampl := BitVec.ofNat 18 ampl }) (mxSync u)
    rw [chans, mx] at self
    refine ⟨_, row, ?_, ?_, fun j other => ?_, synced.trans (updCh_keeps i _ _)⟩
    · rw [self]
      exact (BitVec.toNat_ofNat _ _).trans (Nat.mod_eq_of_lt small)
    · rw [self]
    · rw [(updCh_only i _ (mxSync u)).others j other, chans, mx]

end

section
/-! SUPPORT. The commands on margin channels (R337): one equation per command for a mask of one channel; the statement on them. -/

namespace Sys2Proof.Machine

open Sys2Proof

theorem maskBits_chan (i : Chan) : maskBits 16 (2 ^ i.val) = [i] := by
  revert i
  decide

section
variable {s : State} {tag : W16} {e : Exec} {i : Chan} (mask : payF e 0 2 = 2 ^ i.val)
include mask

theorem exec_mxConfig (runs : executing 0x0C01 tag s = some e) (zeros : payZero e 2 6 = true) (length : e.ind.length = 40)
    (good : mxRecOk i (slice e.ind 8 32) = true) (rest : atRest s.mx.ch[i] = true) :
    exec (.mxConfig tag) s = .next (answer e 0 [] (updCh i (mxApply (slice e.ind 8 32)) s)) := by
  have recs : mxRecords e (payF e 0 2) = [(i, slice e.ind 8 32)] := by
    rw [mxRecords, mask, maskBits_chan]
    rfl
  have some_ : (payF e 0 2 == 0) = false := by
    rw [mask]
    exact beq_false_of_ne (Nat.two_pow_pos _).ne'
  have form : (payF e 0 2 == 0 || !payZero e 2 6 || e.ind.length != 8 + 32 * [(i, slice e.ind 8 32)].length) = false := by
    rw [some_, zeros, length]
    rfl
  have record : [(i, slice e.ind 8 32)].any (fun x => !mxRecOk x.1 x.2) = false := by
    rw [List.any_cons, good]
    rfl
  have still : [(i, slice e.ind 8 32)].any (fun x => !atRest s.mx.ch[x.1]) = false := by
    rw [List.any_cons, rest]
    rfl
  show Host.Outcome.next (runCmd 0x0C01 tag mxConfigCmd s) = _
  rw [runCmd_some runs, mxConfigCmd]
  rw [recs, checked_pass form, checked_pass record, checked_pass still]
  rfl

theorem exec_mxStart_starts (runs : executing 0x0C04 tag s = some e) (zeros : payZero e 4 44 = true)
    (valid : segValid (segAt s (payF e 2 2)) = true) (stopped : s.mx.ch[i].state = .stopped) (off : s.mx.ch[i].en = false) :
    exec (.mxStart tag) s = .next (answer e 0 [] (mxStartCh (payF e 2 2) (mxSync s) i)) := by
  have form : ([i].isEmpty || !payZero e 4 44 || !segValid (segAt s (payF e 2 2))) = false := by
    rw [zeros, valid]
    rfl
  have rest : [i].any (fun j => s.mx.ch[j].state != .stopped || s.mx.ch[j].en) = false := by
    rw [List.any_cons, stopped, off]
    rfl
  show Host.Outcome.next (runCmd 0x0C04 tag mxStartCmd s) = _
  rw [runCmd_some runs, mxStartCmd]
  rw [mask, maskBits_chan, checked_pass form, checked_pass rest]
  rfl

theorem exec_mxStart_refused (runs : executing 0x0C04 tag s = some e) (zeros : payZero e 4 44 = true)
    (valid : segValid (segAt s (payF e 2 2)) = true) (busy : s.mx.ch[i].state ≠ .stopped ∨ s.mx.ch[i].en = true) :
    exec (.mxStart tag) s = .next (answer e 6 [] s) := by
  have form : ([i].isEmpty || !payZero e 4 44 || !segValid (segAt s (payF e 2 2))) = false := by
    rw [zeros, valid]
    rfl
  have here : (s.mx.ch[i].state != .stopped || s.mx.ch[i].en) = true := by
    rw [Bool.or_eq_true]
    exact busy.imp_left bne_iff_ne.mpr
  have busyAny : [i].any (fun j => s.mx.ch[j].state != .stopped || s.mx.ch[j].en) = true := by
    rw [List.any_cons, here]
    rfl
  show Host.Outcome.next (runCmd 0x0C04 tag mxStartCmd s) = _
  rw [runCmd_some runs, mxStartCmd]
  rw [mask, maskBits_chan, checked_pass form, checked_fail busyAny]
  rfl

theorem exec_mxJump (runs : executing 0x0C05 tag s = some e) (when_ : payF e 4 1 ≤ 1) (zeros : payZero e 5 43 = true)
    (range : payF e 2 2 ≤ 1023) :
    exec (.mxJump tag) s = .next (answer e 0 [] (mxRequest i 3 (payF e 2 2) (payF e 4 1 == 1) ((ext s : Int) / 8192 * 8192) s)) := by
  have form : ([i].isEmpty || decide (1 < payF e 4 1) || !payZero e 5 43) = false := by
    rw [zeros, decide_eq_false (Nat.not_lt.mpr when_)]
    rfl
  show Host.Outcome.next (runCmd 0x0C05 tag mxJumpCmd s) = _
  rw [runCmd_some runs, mxJumpCmd]
  rw [mask, maskBits_chan, checked_pass form, checked_pass (decide_eq_false (Nat.not_lt.mpr range))]
  rfl

theorem exec_mxStop (runs : executing 0x0C06 tag s = some e) (how : payF e 2 1 ≤ 1) (zeros : payZero e 3 45 = true) :
    exec (.mxStop tag) s = .next (answer e 0 [] (updCh i (fun c => { c with stopReq := some (payF e 2 1 == 1) }) (mxSync s))) := by
  have form : ([i].isEmpty || decide (1 < payF e 2 1) || !payZero e 3 45) = false := by
    rw [zeros, decide_eq_false (Nat.not_lt.mpr how)]
    rfl
  show Host.Outcome.next (runCmd 0x0C06 tag mxStopCmd s) = _
  rw [runCmd_some runs, mxStopCmd]
  rw [mask, maskBits_chan, checked_pass form]
  rfl

end

/-- What a record says, a channel has. -/
theorem mxApply_fields {i : Chan} {r : List Byte} (good : mxRecOk i r = true) (c : MxCh) :
    (mxApply r c).clampLo.toNat = fieldAt r 0 4 ∧ (mxApply r c).clampHi.toNat = fieldAt r 4 4 ∧ (mxApply r c).park.toNat = fieldAt r 8 4
      ∧ (mxApply r c).rate0.toNat = fieldAt r 24 8 := by
  rw [mxRecOk] at good
  simp only [Bool.and_eq_true, decide_eq_true_eq] at good
  obtain ⟨⟨⟨⟨lo, hi, -, park, -⟩, -⟩, -⟩, -⟩ := good
  have exact_ {v : Nat} (n : Nat) (fits : v < 2 ^ n) : (BitVec.ofNat n v).toNat = v := (BitVec.toNat_ofNat v n).trans (Nat.mod_eq_of_lt fits)
  exact ⟨exact_ 18 lo, exact_ 18 hi, exact_ 18 park, exact_ 64 (fieldAt_lt r 24 8)⟩

/-- A channel that a command starts (R334). -/
theorem mxStartCh_ch (seg : Nat) (i : Chan) (s : State) :
    (mxStartCh seg s i).mx.ch[i] = mxEnter s seg { s.mx.ch[i] with clamped := false, fresh := true, rate := s.mx.ch[i].rate0 } := by
  rw [mxStartCh, issue_mx, updCh_self]

theorem mxStartCh_only (seg : Nat) (i : Chan) (s : State) : OnlyCh i s (mxStartCh seg s i) :=
  (updCh_only i (fun c => mxEnter s seg { c with clamped := false, fresh := true, rate := c.rate0 }) s).trans (issue_only i _ _ _)

theorem mxStartCh_logless (seg : Nat) (i : Chan) (s : State) : logless (mxStartCh seg s i) = logless s := issue_logless ..

theorem mxSync_logless (s : State) : logless (mxSync s) = logless s := by
  unfold mxSync
  split <;> rfl

theorem segAt_mxSync (s : State) : segAt (mxSync s) = segAt s := by
  funext i
  rw [segAt, segAt, (mxSync_tables s).1]

/-! ### The segment table (R326) -/

theorem getD_vector {α : Type} {n : Nat} (v : Vector α n) (i : Nat) (d : α) :
    v.toList.getD i d = if h : i < n then v[i] else d := by
  split
  next h => simp [List.getD_eq_getElem?_getD, h]
  next h => simp [List.getD_eq_getElem?_getD, h]

/-- The device with a new segment table. -/
def withSegs (v : Vector Seg 1024) (s : State) : State := { s with mx := { s.mx with segs := v } }

theorem withSegs_keeps (v : Vector Seg 1024) (s : State) : Keeps [.mx] s (withSegs v s) := setMx_keeps _ s

theorem answer_withSegs (e : Exec) (status : Nat) (data : List Byte) (v : Vector Seg 1024) (s : State) :
    (answer e status data (withSegs v s)).mx.ch = s.mx.ch ∧ (answer e status data (withSegs v s)).mx.segs = v := ⟨rfl, rfl⟩

/-- The new table has the entry of the payload at its place, and the old ones elsewhere. -/
theorem newSegs_single (e : Exec) (first : Nat) (s : State) (i : Nat) :
    (newSegs e first 1 s).toList.getD i {} = if i = first ∧ i < 1024 then paySeg e 0 else segAt s i := by
  rw [segAt, getD_vector, getD_vector]
  by_cases inside : i < 1024
  · have at_ := vmapIdx_get (fun (i : Fin 1024) g => if first ≤ i.val ∧ i.val < first + 1 then paySeg e (i.val - first) else g)
      s.mx.segs ⟨i, inside⟩
    rw [dif_pos inside, dif_pos inside]
    refine Eq.trans at_ ?_
    show (if first ≤ i ∧ i < first + 1 then paySeg e (i - first) else s.mx.segs[i]) = _
    by_cases same : i = first
    · rw [if_pos (by omega), if_pos ⟨same, inside⟩, same, Nat.sub_self]
    · rw [if_neg (by omega), if_neg (fun h => same h.1)]
  · rw [dif_neg inside, dif_neg inside, if_neg (fun h => inside h.2)]

section
variable {s : State} {tag : W16} {e : Exec} (runs : executing 0x0C02 tag s = some e) (one : payF e 2 2 = 1) (first : payF e 0 2 < 1024)
  (zeros : payZero e 4 4 = true) (length : e.ind.length = 40) (good : segInval (newSegs e (payF e 0 2) 1 s) e 0 = false)
  (inside : segRange s e 0 = false)
include runs one first zeros length good inside

theorem exec_mxSegtab : exec (.mxSegtab tag) s = .next (checked
    [((segsUsed s).any fun i => (newSegs e (payF e 0 2) 1 s).toList.getD i {} != segAt s i, eBusy)] e
    (fun u => answer e eOk [] { u with mx := { u.mx with segs := newSegs e (payF e 0 2) 1 s } }) s) := by
  have form : ((1 : Nat) == 0 || !payZero e 4 4 || e.ind.length != 8 + 32 * 1) = false := by
    rw [zeros, length]
    rfl
  have inval : (List.range 1).any (segInval (newSegs e (payF e 0 2) 1 s) e) = false := by
    rw [List.range_one, List.any_cons, good]
    rfl
  have range : (List.range 1).any (segRange s e) = false := by
    rw [List.range_one, List.any_cons, inside]
    rfl
  show Host.Outcome.next (runCmd 0x0C02 tag mxSegtabCmd s) = _
  rw [runCmd_some runs, mxSegtabCmd]
  rw [one, checked_pass form, checked_pass (decide_eq_false (by omega)), checked_pass inval, checked_pass range]

theorem exec_mxSegtab_replaces (unused : payF e 0 2 ∉ segsUsed s) :
    exec (.mxSegtab tag) s = .next (answer e 0 [] (withSegs (newSegs e (payF e 0 2) 1 s) s)) := by
  have free : ((segsUsed s).any fun i => (newSegs e (payF e 0 2) 1 s).toList.getD i {} != segAt s i) = false := by
    refine List.any_eq_false.mpr fun i used => ?_
    have other : ¬(i = payF e 0 2 ∧ i < 1024) := fun ⟨same, _⟩ => unused (same ▸ used)
    rw [newSegs_single, if_neg other, bne_self_eq_false]
    exact Bool.false_ne_true
  rw [exec_mxSegtab runs one first zeros length good inside, checked_pass free]
  rfl

theorem exec_mxSegtab_busy (used : payF e 0 2 ∈ segsUsed s) (new : paySeg e 0 ≠ segAt s (payF e 0 2)) :
    exec (.mxSegtab tag) s = .next (answer e 5 [] s) := by
  have busy : ((segsUsed s).any fun i => (newSegs e (payF e 0 2) 1 s).toList.getD i {} != segAt s i) = true := by
    refine List.any_eq_true.mpr ⟨payF e 0 2, used, ?_⟩
    rw [newSegs_single, if_pos ⟨rfl, first⟩]
    exact bne_iff_ne.mpr new
  rw [exec_mxSegtab runs one first zeros length good inside, checked_fail busy]
  rfl

end

/-! ### Loading the larder (R328) -/

section
variable {s : State} {tag : W16} {src : HostRead} {e : Exec} (runs : executing 0x0C03 tag s = some e) (device : payF e 8 1 = 0)
  (zeros1 : payZero e 9 3 = true) (zeros2 : payZero e 20 28 = true) (some_ : 1 ≤ payF e 16 4) (few : payF e 16 4 ≤ 16384)
  (inside : payF e 12 4 + payF e 16 4 ≤ 60928) (range : payF e 0 8 + 64 * payF e 16 4 ≤ 0x1FFC000000)
include runs device zeros1 zeros2 some_ few inside range

theorem exec_mxLoad_free (free : larderBusy s (payF e 12 4) (payF e 16 4) = false) (dr : DramFind) :
    exec (.mxLoad tag src dr) s = .next (checked
      [(decide (dr.ecc = .uncorrectable) || faultIn (noteReadUe dr.ecc (payF e 0 8 + dr.at_) 1 (inSlot .maint (64 * payF e 16 4) s)) (payF e 0 8)
        (64 * payF e 16 4), eMemerr)] e
      (fun t => answer e eOk [] { t with mx := { t.mx with
        larder := memWrite 0 t.mx.larder (64 * payF e 12 4) (dramRead t (payF e 0 8) (64 * payF e 16 4)) } })
      (noteReadUe dr.ecc (payF e 0 8 + dr.at_) 1 (inSlot .maint (64 * payF e 16 4) s))) := by
  have form : (decide (1 < 0 ∨ payF e 16 4 = 0) || !payZero e 9 3 || !payZero e 20 28) = false := by
    rw [zeros1, zeros2, decide_eq_false (by omega)]
    rfl
  have long : decide (16384 < payF e 16 4) = false := decide_eq_false (by omega)
  have far : (decide (60928 < payF e 12 4 + payF e 16 4) || (!((0 : Nat) == 1) && decide (0x1FFC000000 < payF e 0 8 + 64 * payF e 16 4))) = false := by
    rw [decide_eq_false (by omega), decide_eq_false (by omega)]
    rfl
  show Host.Outcome.next (runCmd 0x0C03 tag (mxLoadCmd src dr) s) = _
  rw [runCmd_some runs, mxLoadCmd]
  rw [device, form, long, far, free]
  rfl

theorem exec_mxLoad_busy (busy : larderBusy s (payF e 12 4) (payF e 16 4) = true) (dr : DramFind) :
    exec (.mxLoad tag src dr) s = .next (answer e 5 [] s) := by
  have form : (decide (1 < 0 ∨ payF e 16 4 = 0) || !payZero e 9 3 || !payZero e 20 28) = false := by
    rw [zeros1, zeros2, decide_eq_false (by omega)]
    rfl
  have long : decide (16384 < payF e 16 4) = false := decide_eq_false (by omega)
  have far : (decide (60928 < payF e 12 4 + payF e 16 4) || (!((0 : Nat) == 1) && decide (0x1FFC000000 < payF e 0 8 + 64 * payF e 16 4))) = false := by
    rw [decide_eq_false (by omega), decide_eq_false (by omega)]
    rfl
  show Host.Outcome.next (runCmd 0x0C03 tag (mxLoadCmd src dr) s) = _
  rw [runCmd_some runs, mxLoadCmd]
  rw [device, form, long, far, busy]
  rfl

end

/-- What is noted of a read leaves the ranges of write faults. -/
theorem faultIn_noteReadUe (ecc : Ecc) (b r : Nat) (s : State) (a n : Nat) : faultIn (noteReadUe ecc b r s) a n = faultIn s a n := by
  have ranges : (noteReadUe ecc b r s).pm.wranges = s.pm.wranges := by
    cases ecc with
    | ok => rfl
    | corrected =>
      have once (code : Nat) (items : List Item) (t : State) : (issueOnce code items t).pm = t.pm := by simp
      have same : (noteReadUe .corrected b r s).pm = { s.pm with eccCe := satSucc 0xFFFF s.pm.eccCe } := once _ _ _
      rw [same]
    | uncorrectable =>
      have said (code : Nat) (items : List Item) (t : State) : (issue code items t).pm = t.pm := by simp
      have same : (noteReadUe .uncorrectable b r s).pm = (noteEcc .uncorrectable b s).pm := said _ _ _
      rw [same]
      rfl
  rw [faultIn, faultIn, ranges]

end Sys2Proof.Machine

open Sys2Proof Sys2Proof.Machine

/-- Settles O41: each command by its equation, and the channel by the change that the equation names. -/
theorem marginCommands : Obligations.marginCommands := by
  refine ⟨fun s tag e i => ?_, fun s tag e runs one first zeros length good inside => ⟨fun unused => ?_, fun used new => ?_⟩,
    fun s tag src e runs device zeros1 zeros2 => ?_⟩
  · intro others c mask
    obtain ⟨chans, -, synced⟩ := mxSync_chans s
    refine ⟨fun runs zeros length good rest => ?_, fun runs zeros valid => ⟨fun stopped off => ?_, fun busy => ?_⟩,
      fun runs when_ zeros range valid off free empty => ?_, fun runs how zeros => ?_⟩
    · have row := exec_mxConfig mask runs zeros length good rest
      have keeps := updCh_keeps i (mxApply (slice e.ind 8 32)) s
      have self := updCh_self i (mxApply (slice e.ind 8 32)) s
      obtain ⟨lo, hi, park, rate⟩ := mxApply_fields good c
      refine ⟨_, row, answer_after e 0 [] keeps (by simp), (updCh_only i _ s).others, (answer_after_keeps e 0 [] keeps).mono (by simp), ?_⟩
      show (updCh i (mxApply (slice e.ind 8 32)) s).mx.ch[i].clampLo.toNat = _ ∧ (updCh i (mxApply (slice e.ind 8 32)) s).mx.ch[i].clampHi.toNat = _
        ∧ (updCh i (mxApply (slice e.ind 8 32)) s).mx.ch[i].park.toNat = _ ∧ (updCh i (mxApply (slice e.ind 8 32)) s).mx.ch[i].rate0.toNat = _
        ∧ (updCh i (mxApply (slice e.ind 8 32)) s).mx.ch[i].state = _
        ∧ (updCh i (mxApply (slice e.ind 8 32)) s).mx.ch[i].code =
          if c.state = .parked then (updCh i (mxApply (slice e.ind 8 32)) s).mx.ch[i].park else c.code
      rw [self]
      exact ⟨lo, hi, park, rate, rfl, rfl⟩
    · have row := exec_mxStart_starts mask runs zeros valid stopped off
      have only := mxStartCh_only (payF e 2 2) i (mxSync s)
      have self := mxStartCh_ch (payF e 2 2) i (mxSync s)
      have keeps : Keeps [.mx, .hi, .mg] s (mxStartCh (payF e 2 2) (mxSync s) i) := (synced.mono (by simp)).trans only.keeps
      refine ⟨_, row, answer_replied e 0 [] ((mxStartCh_logless _ i _).trans (mxSync_logless s)), fun j other => ?_, ?_⟩
      · exact (only.others j other).trans (congrArg (fun v : Vector MxCh 16 => v[j]) chans)
      · show (mxStartCh (payF e 2 2) (mxSync s) i).mx.ch[i].state = _ ∧ (mxStartCh (payF e 2 2) (mxSync s) i).mx.ch[i].seg = _
          ∧ (mxStartCh (payF e 2 2) (mxSync s) i).mx.ch[i].pos = _ ∧ (mxStartCh (payF e 2 2) (mxSync s) i).mx.ch[i].pass = _
          ∧ (mxStartCh (payF e 2 2) (mxSync s) i).mx.ch[i].rate = _ ∧ _
        rw [self, chans, mxEnter, segAt_mxSync]
        exact ⟨rfl, rfl, rfl, rfl, rfl, keeps.trans ((answer_keeps e 0 [] _).mono (by simp))⟩
    · exact ⟨_, exec_mxStart_refused mask runs zeros valid busy, answer_answered e 6 [] s, answer_keeps e 6 [] s⟩
    · have row := exec_mxJump mask runs when_ zeros range
      have here : (mxSync s).mx.ch[i] = c := congrArg (fun v : Vector MxCh 16 => v[i]) chans
      obtain ⟨eq, self⟩ := mxRequest_waits (i := i) (src := 3) (imm := payF e 4 1 == 1)
        (cyc := (ext s : Int) / 8192 * 8192) (seg := payF e 2 2) (s := s)
        (by rw [segAt_mxSync]; exact valid) (by rw [here]; exact off) (by rw [here]; exact free) (by rw [here]; exact empty)
      have only := updCh_only i (asked ((ext s : Int) / 8192 * 8192) 3 (payF e 2 2) (payF e 4 1 == 1)) (mxSync s)
      have keeps := synced.trans (updCh_keeps i (asked ((ext s : Int) / 8192 * 8192) 3 (payF e 2 2) (payF e 4 1 == 1)) (mxSync s))
      rw [← eq] at only keeps
      refine ⟨_, row, answer_after e 0 [] keeps (by simp), fun j other => ?_, (answer_after_keeps e 0 [] keeps).mono (by simp), ?_⟩
      · exact (only.others j other).trans (congrArg (fun v : Vector MxCh 16 => v[j]) chans)
      · exact self.trans (by rw [here])
    · have row := exec_mxStop mask runs how zeros
      have only := updCh_only i (fun c => { c with stopReq := some (payF e 2 1 == 1) }) (mxSync s)
      have keeps := synced.trans (updCh_keeps i (fun c => { c with stopReq := some (payF e 2 1 == 1) }) (mxSync s))
      have self := updCh_self i (fun c => { c with stopReq := some (payF e 2 1 == 1) }) (mxSync s)
      refine ⟨_, row, answer_after e 0 [] keeps (by simp), fun j other => ?_, (answer_after_keeps e 0 [] keeps).mono (by simp), ?_⟩
      · exact (only.others j other).trans (congrArg (fun v : Vector MxCh 16 => v[j]) chans)
      · exact self.trans (by rw [chans])
  · have row := exec_mxSegtab_replaces runs one first zeros length good inside unused
    have keeps := withSegs_keeps (newSegs e (payF e 0 2) 1 s) s
    obtain ⟨ch, segs⟩ := answer_withSegs e 0 [] (newSegs e (payF e 0 2) 1 s) s
    refine ⟨_, row, answer_after e 0 [] keeps (by simp), ?_, fun i other => ?_, ch, (answer_after_keeps e 0 [] keeps).mono (by simp)⟩
    · rw [segAt, segs, newSegs_single, if_pos ⟨rfl, first⟩]
    · have elsewhere : ¬(i = payF e 0 2 ∧ i < 1024) := fun h => other h.1
      rw [segAt, segs, newSegs_single, if_neg elsewhere]
  · exact ⟨_, exec_mxSegtab_busy runs one first zeros length good inside used new, answer_answered e 5 [] s, answer_keeps e 5 [] s⟩
  · intro a first n some_ few inside range u wf
    refine ⟨fun free sound => ?_, fun free dr bad => ?_, fun busy dr => ?_⟩
    · have row := exec_mxLoad_free (src := src) runs device zeros1 zeros2 some_ few inside range free {}
      rw [noteReadUe_good,
        checked_pass (by rw [show faultIn (inSlot .maint (64 * payF e 16 4) s) (payF e 0 8) (64 * payF e 16 4) = false from sound]; rfl),
        checked_nil] at row
      have keeps := setMx_keeps { u.mx with larder := memWrite 0 u.mx.larder (64 * first) (dramRead u a (64 * n)) } u
      have length : (dramRead u a (64 * n)).length = 64 * n := by simp [dramRead]
      refine ⟨_, row, answer_after e 0 [] keeps (by simp), ?_, fun x apart => ?_, rfl, (answer_after_keeps e 0 [] keeps).mono (by simp)⟩
      · have read := memRead_memWrite 0 u.mx.larder (64 * first) (dramRead u a (64 * n)) wf
        rw [length] at read
        exact read
      · exact memGet_memWrite_other 0 u.mx.larder (64 * first) (dramRead u a (64 * n)) x wf (by omega)
    · have row := exec_mxLoad_free (src := src) runs device zeros1 zeros2 some_ few inside range free dr
      have fails : (decide (dr.ecc = .uncorrectable) || faultIn (noteReadUe dr.ecc (a + dr.at_) 1 u) a (64 * n)) = true := by
        rw [faultIn_noteReadUe, Bool.or_eq_true, decide_eq_true_eq]
        exact bad.symm
      rw [checked_fail fails] at row
      have quiet : logless (noteReadUe dr.ecc (a + dr.at_) 1 u) = logless u := objNote_logless false { ecc := dr.ecc, at_ := dr.at_ } a u
      refine ⟨_, row, ?_, ?_⟩
      · show (noteReadUe dr.ecc (a + dr.at_) 1 u).hi.cpls ++ _ = _
        rw [cpls_of_logless quiet]
        rfl
      · exact (noteReadUe_frame dr.ecc (a + dr.at_) 1 u).2.2.2.2.2.2.2.2.2.1
    · exact ⟨_, exec_mxLoad_busy runs device zeros1 zeros2 some_ few inside range busy dr, answer_answered e 5 [] s, answer_keeps e 5 [] s⟩

end

section
/-! SUPPORT. Messages on the link (R353, R354), the answer of the forming command, and the steps of forming (R349, R350); the statement
on them. -/

namespace Sys2Proof.Machine

open Sys2Proof

/-! ### Messages on the ports -/

theorem withLink_keeps (ports : Vector HPort 4) (tx : List (Port × TxMsg)) (s : State) : Keeps [.en] s (withLink ports tx s) := setEn_keeps _ s

/-- A port once a data slot has been sent on it. -/
def dataSent (n now : Nat) (m : Mgmt) (q : HPort) : HPort :=
  { q with txData := n, unacked := q.unacked ++ [(n, m)], sentAt := if q.unacked.isEmpty then now else q.sentAt }

section
variable {m : Mgmt} {s : State} {p : Port}

theorem enMsg_up (up : s.en.ports[p].up = true) : enMsg m s p
    = withLink (vupd s.en.ports p (dataSent (s.en.ports[p].txData + 1) s.tb.now m)) (s.en.tx ++ [(p, .data (s.en.ports[p].txData + 1) m)]) s :=
  if_pos up

theorem enMsg_down (down : ¬s.en.ports[p].up = true) : enMsg m s p = s := if_neg down

end

theorem enMsg_link (m : Mgmt) (s : State) (p : Port) : ∃ ports tx, enMsg m s p = withLink ports tx s := by
  by_cases up : s.en.ports[p].up = true
  · exact ⟨_, _, enMsg_up up⟩
  · exact ⟨s.en.ports, s.en.tx, enMsg_down up⟩

theorem enMsg_tx (m : Mgmt) (s : State) (p : Port) :
    (enMsg m s p).en.tx = s.en.tx ++ if s.en.ports[p].up then [(p, .data (s.en.ports[p].txData + 1) m)] else [] := by
  by_cases up : s.en.ports[p].up = true
  · rw [enMsg_up up, if_pos up]
    rfl
  · rw [enMsg_down up, if_neg up, List.append_nil]

/-- A message on a port leaves the other ports. -/
theorem enMsg_other (m : Mgmt) (s : State) {p q : Port} (other : q ≠ p) : (enMsg m s p).en.ports[q] = s.en.ports[q] := by
  by_cases up : s.en.ports[p].up = true
  · rw [enMsg_up up]
    exact vupd_other _ _ other.symm
  · rw [enMsg_down up]

/-- What a step sends on each port of a list, where it looks at that port only. -/
theorem foldl_tx {f : State → Port → State} {msg : State → Port → TxMsg}
    (sends : ∀ s p, (f s p).en.tx = s.en.tx ++ if s.en.ports[p].up then [(p, msg s p)] else [])
    (apart : ∀ s (p q : Port), q ≠ p → (f s p).en.ports[q].up = s.en.ports[q].up ∧ msg (f s p) q = msg s q) {l : List Port} (once : l.Nodup)
    (s : State) : (l.foldl f s).en.tx = s.en.tx ++ (l.filter fun p => s.en.ports[p].up).map fun p => (p, msg s p) := by
  induction l generalizing s with
  | nil => rw [List.foldl_nil, List.filter_nil, List.map_nil, List.append_nil]
  | cons p l ih =>
    obtain ⟨out, once⟩ := List.nodup_cons.mp once
    have alike (q : Port) (mem : q ∈ l) := apart s p q fun same => out (same ▸ mem)
    have ups : (l.filter fun q => (f s p).en.ports[q].up) = l.filter fun q => s.en.ports[q].up :=
      List.filter_congr fun q mem => (alike q mem).1
    have msgs : ((l.filter fun q => s.en.ports[q].up).map fun q => (q, msg (f s p) q)) = (l.filter fun q => s.en.ports[q].up).map fun q => (q, msg s q) :=
      List.map_congr_left fun q mem => congrArg (Prod.mk q) (alike q (List.mem_filter.mp mem).1).2
    rw [List.foldl_cons, ih once, ups, msgs, sends, List.append_assoc, List.filter_cons]
    split <;> rfl

theorem msgDown_tx (m : Mgmt) (s : State) : (msgDown m s).en.tx
    = s.en.tx ++ (([1, 2, 3] : List Port).filter fun p => s.en.ports[p].up).map fun p => (p, .data (s.en.ports[p].txData + 1) m) :=
  foldl_tx (f := enMsg m) (msg := fun s p => .data (s.en.ports[p].txData + 1) m) (enMsg_tx m)
    (fun s p q other => by rw [enMsg_other m s other]; exact ⟨rfl, rfl⟩) (by decide) s

theorem msgDown_link (m : Mgmt) (s : State) : ∃ ports tx, msgDown m s = withLink ports tx s := by
  obtain ⟨p1, x1, e1⟩ := enMsg_link m s 1
  obtain ⟨p2, x2, e2⟩ := enMsg_link m (withLink p1 x1 s) 2
  obtain ⟨p3, x3, e3⟩ := enMsg_link m (withLink p2 x2 (withLink p1 x1 s)) 3
  refine ⟨p3, x3, ?_⟩
  rw [msgDown, List.foldl_cons, e1, List.foldl_cons, e2, List.foldl_cons, e3]
  rfl

/-- A good data slot changes its own port and sends the acknowledgement. -/
theorem goodData_link (p : Port) (s : State) : ∃ ports tx, goodData p s = withLink ports tx s
    ∧ ∀ r : Port, ports[r].up = s.en.ports[r].up ∧ ports[r].txData = s.en.ports[r].txData := by
  unfold goodData
  split
  · refine ⟨vupd s.en.ports p fun q => { q with badRun := 0, rxData := s.en.ports[p].rxData + 1 }, _, rfl, fun r => ?_⟩
    by_cases same : p = r
    · rw [same, vupd_self]
      exact ⟨rfl, rfl⟩
    · rw [vupd_other _ _ same]
      exact ⟨rfl, rfl⟩
  · exact ⟨s.en.ports, s.en.tx, rfl, fun r => ⟨rfl, rfl⟩⟩

/-! ### The forming command's answer -/

/-- No `ENS_FORM` waits for its answer. -/
def unasked (s : State) : State := { s with en := { s.en with formTag := none } }

section
variable {s : State} {tag : W16} {e : Exec} (asked_ : s.en.formTag = some tag) (runs : executing 0x0D01 tag s = some e)
include asked_ runs

theorem formAnswer_answers (status : Nat) : formAnswer status s = answer e status [] (unasked s) := by
  have still : executing 0x0D01 tag (unasked s) = some e := (executing_of_logless _ tag rfl).trans runs
  rw [formAnswer, asked_]
  exact runCmd_some still _

/-- A formed ensemble answers its command, and clears the registers of an earlier one. -/
theorem becomeFormed_answers (m : Nat) : ∃ u, becomeFormed m s = answer e 0 [] u
    ∧ u.en = { s.en with state := .formed, members := m, discord := 0, mismatch := 0, formTag := none }
    ∧ logless u = logless s ∧ Keeps [.en, .hi, .mg] s u := by
  obtain ⟨w, hw⟩ : ∃ w : State, w = { s with en := { s.en with state := .formed, members := m, discord := 0, mismatch := 0 } } := ⟨_, rfl⟩
  have said : becomeFormed m s = formAnswer 0 (issue 0x0D01 [i8 s.en.ensId.toNat, i1 m, i1 s.en.depth] w) := by rw [hw]; rfl
  have quiet : logless (issue 0x0D01 [i8 s.en.ensId.toNat, i1 m, i1 s.en.depth] w) = logless s := by
    rw [issue_logless, hw]
    rfl
  have en : (issue 0x0D01 [i8 s.en.ensId.toNat, i1 m, i1 s.en.depth] w).en = w.en := by simp
  have keeps : Keeps [.en, .hi, .mg] s (issue 0x0D01 [i8 s.en.ensId.toNat, i1 m, i1 s.en.depth] w) := by
    have first : Keeps [.en] s w := hw ▸ setEn_keeps _ s
    exact (first.mono (by simp)).trans ((issue_keeps _ _ w).mono (by simp))
  have tagged : w.en.formTag = some tag := by rw [hw]; exact asked_
  rw [said, formAnswer_answers (by rw [en]; exact tagged) ((executing_of_logless _ tag quiet).trans runs)]
  refine ⟨_, rfl, ?_, quiet, keeps.trans ((setEn_keeps _ _).mono (by simp))⟩
  rw [unasked]
  dsimp only
  rw [en, hw]

end

/-! ### Forming begins (R349) -/

/-- The ensemble's registers as `ENS_FORM` leaves them. -/
def formingEn (e : Exec) (s : State) : EN :=
  { tx := s.en.tx, state := .forming, member := payF e 0 1, members := payF e 1 1, leader := payF e 0 1 == 0
    ensId := BitVec.ofNat 64 (payF e 8 8), aligned := payF e 0 1 == 0, formTag := some e.entry.tag
    formAt := s.tb.now, ports := Vector.ofFn fun p => { training := decide (payF e 0 1 ≠ 0 ∨ p ≠ 0) } }

def forming (e : Exec) (s : State) : State := { s with en := formingEn e s }

theorem startForm_eq (e : Exec) (s : State) :
    startForm e s = if payF e 0 1 = 0 ∧ payF e 1 1 = 1 then becomeFormed 1 (forming e s) else forming e s := rfl

theorem forming_keeps (e : Exec) (s : State) : Keeps [.en] s (forming e s) := setEn_keeps _ s

theorem forming_ports (e : Exec) (s : State) (p : Port) :
    (forming e s).en.ports[p].training = decide (payF e 0 1 ≠ 0 ∨ p ≠ 0) ∧ (forming e s).en.ports[p].up = false := by
  have at_ : (forming e s).en.ports[p] = { training := decide (payF e 0 1 ≠ 0 ∨ p ≠ 0) } := Vector.getElem_ofFn p.isLt
  rw [at_]
  exact ⟨rfl, rfl⟩

section
variable {s : State} {tag : W16} {e : Exec} (runs : executing 0x0D01 tag s = some e) (none_ : s.en.formTag = none)
  (zeros1 : payZero e 2 6 = true) (zeros2 : payZero e 16 32 = true)
  (sizes : payF e 0 1 = 0 ∧ 1 ≤ payF e 1 1 ∧ payF e 1 1 ≤ 64 ∨ 1 ≤ payF e 0 1 ∧ payF e 0 1 ≤ 63 ∧ payF e 1 1 = 0)
include runs none_ zeros1 zeros2 sizes

theorem exec_ensForm : exec (.ensForm tag) s
    = .next (checked [(decide (s.mg.pstate ≠ 1) || s.en.state != .standalone, eState)] e (startForm e) s) := by
  have form : (decide (63 < payF e 0 1) || (if payF e 0 1 = 0 then decide (payF e 1 1 = 0 ∨ 64 < payF e 1 1) else payF e 1 1 != 0)
      || !payZero e 2 6 || !payZero e 16 32) = false := by
    rw [zeros1, zeros2]
    obtain ⟨lead, some_, few⟩ | ⟨some_, few, zero⟩ := sizes
    · rw [lead, if_pos rfl, decide_eq_false (by omega), decide_eq_false (by omega)]
      rfl
    · rw [decide_eq_false (by omega), if_neg (by omega), zero]
      rfl
  have fresh : s.en.formTag ≠ some e.entry.tag := by rw [none_]; exact Option.some_ne_none _ |>.symm
  show Host.Outcome.next (runCmd 0x0D01 tag ensFormCmd s) = _
  rw [runCmd_some runs, ensFormCmd, if_neg fresh, checked_pass form]

theorem exec_ensForm_refused (not_ : s.mg.pstate ≠ 1 ∨ s.en.state ≠ .standalone) : exec (.ensForm tag) s = .next (answer e 6 [] s) := by
  have fails : (decide (s.mg.pstate ≠ 1) || s.en.state != .standalone) = true := by
    rw [Bool.or_eq_true, decide_eq_true_eq]
    exact not_.imp_right bne_iff_ne.mpr
  rw [exec_ensForm runs none_ zeros1 zeros2 sizes, checked_fail fails]
  rfl

theorem exec_ensForm_starts (power : s.mg.pstate = 1) (alone : s.en.state = .standalone) : exec (.ensForm tag) s = .next (startForm e s) := by
  have passes : (decide (s.mg.pstate ≠ 1) || s.en.state != .standalone) = false := by
    rw [decide_eq_false (not_not.mpr power), alone]
    rfl
  rw [exec_ensForm runs none_ zeros1 zeros2 sizes, checked_pass passes]
  rfl

end

theorem ensForm_clause (s : State) (tag : W16) (e : Exec) (runs : executing 0x0D01 tag s = some e) (none_ : s.en.formTag = none)
    (zeros1 : payZero e 2 6 = true) (zeros2 : payZero e 16 32 = true)
    (sizes : payF e 0 1 = 0 ∧ 1 ≤ payF e 1 1 ∧ payF e 1 1 ≤ 64 ∨ 1 ≤ payF e 0 1 ∧ payF e 0 1 ≤ 63 ∧ payF e 1 1 = 0)
    (power : s.mg.pstate = 1) (alone : s.en.state = .standalone) :
    (payF e 1 1 ≠ 1 → exec (.ensForm tag) s = .next (forming e s))
      ∧ (payF e 1 1 = 1 → ∃ t, exec (.ensForm tag) s = .next t
          ∧ t.en.state = .formed ∧ t.en.leader = true ∧ t.en.members = 1 ∧ Replied e 0 [] s t ∧ Keeps [.en, .hi, .mg] s t) := by
  have row := exec_ensForm_starts runs none_ zeros1 zeros2 sizes power alone
  rw [startForm_eq] at row
  refine ⟨fun big => ?_, fun one => ?_⟩
  · rwa [if_neg fun h => big h.2] at row
  · have lead : payF e 0 1 = 0 := by omega
    have tagged : (forming e s).en.formTag = some tag := congrArg some (executing_entry runs).2
    obtain ⟨u, eq, en, quiet, keeps⟩ := becomeFormed_answers (s := forming e s) tagged ((executing_of_logless _ tag rfl).trans runs) 1
    rw [if_pos ⟨lead, one⟩, eq] at row
    refine ⟨_, row, congrArg EN.state en, (congrArg EN.leader en).trans (beq_iff_eq.mpr lead), congrArg EN.members en,
      answer_replied e 0 [] (quiet.trans rfl), ?_⟩
    exact (((forming_keeps e s).mono (by simp)).trans keeps).trans ((answer_keeps e 0 [] u).mono (by simp))

/-! ### Training (R344) -/

/-- A port that has stopped training. -/
def untrained (q : HPort) : HPort := { q with training := false }

/-- A port that training has brought up. -/
def trainedUp (d : Nat) (q : HPort) : HPort := { q with training := false, up := true, d := d }

theorem updPort_keeps (p : Port) (f : HPort → HPort) (s : State) : Keeps [.en] s (updPort p f s) := setEn_keeps _ s

theorem updPort_self (p : Port) (f : HPort → HPort) (s : State) : (updPort p f s).en.ports[p] = f s.en.ports[p] := vupd_self _ _ _

theorem updPort_other {p r : Port} (other : r ≠ p) (f : HPort → HPort) (s : State) : (updPort p f s).en.ports[r] = s.en.ports[r] :=
  vupd_other _ _ other.symm

section
variable {s : State} {p : Port} {d depth : Nat} (forms : s.en.state = .forming) (trains : s.en.ports[p].training = true)
include forms trains

theorem trains_ : ¬(s.en.state ≠ .forming ∨ ¬s.en.ports[p].training = true) := not_or.mpr ⟨not_not.mpr forms, not_not.mpr trains⟩

theorem exec_portTrainingDone_noLock :
    exec (.portTrainingDone p .noLock) s = .next (issue 0x0D05 [i1 p.val, iAlt 1 0] (updPort p untrained s)) :=
  congrArg Host.Outcome.next (if_neg (trains_ forms trains))

theorem exec_portTrainingDone_far (far : 36864 < d) :
    exec (.portTrainingDone p (.measured d depth)) s = .next (issue 0x0D05 [i1 p.val, iAlt 0 (d % 65536)] (updPort p untrained s)) :=
  congrArg Host.Outcome.next ((if_neg (trains_ forms trains)).trans (if_pos far))

theorem exec_portTrainingDone_near (near : d ≤ 36864) (other : p ≠ 0 ∨ s.en.leader = true) :
    exec (.portTrainingDone p (.measured d depth)) s = .next (updPort p (trainedUp d) s) := by
  have stays : ¬(p = 0 ∧ ¬s.en.leader = true) := fun ⟨zero, member⟩ => other.elim (fun h => h zero) member
  exact congrArg Host.Outcome.next ((if_neg (trains_ forms trains)).trans ((if_neg (by omega)).trans (if_neg stays)))

end

/-- The depth of a member whose way to the leader is up. -/
def withDepth (n : Nat) (s : State) : State := { s with en := { s.en with depth := n } }

/-- With its way to the leader up, a member asks to join. -/
theorem exec_portTrainingDone_joins {s : State} {d depth : Nat} (forms : s.en.state = .forming) (trains : s.en.ports[(0 : Port)].training = true)
    (near : d ≤ 36864) (member : s.en.leader = false) : exec (.portTrainingDone 0 (.measured d depth)) s
      = .next (enMsg (.join s.en.member s.en.ensId (axrasMajor s) (depth + 1) []) (withDepth (depth + 1) (updPort 0 (trainedUp d) s)) 0) := by
  have asks : (0 : Port) = 0 ∧ ¬s.en.leader = true := ⟨rfl, fun leads => Bool.false_ne_true (member.symm.trans leads)⟩
  exact congrArg Host.Outcome.next ((if_neg (trains_ forms trains)).trans ((if_neg (by omega)).trans (if_pos asks)))

theorem training_fails (p : Port) (items : List Item) (s : State) :
    (issue 0x0D05 items (updPort p untrained s)).en.ports[p].training = false
      ∧ (issue 0x0D05 items (updPort p untrained s)).en.ports[p].up = s.en.ports[p].up
      ∧ (issue 0x0D05 items (updPort p untrained s)).en.tx = s.en.tx
      ∧ Keeps [.en, .hi, .mg] s (issue 0x0D05 items (updPort p untrained s)) := by
  have en : (issue 0x0D05 items (updPort p untrained s)).en = (updPort p untrained s).en := by simp
  rw [en, updPort_self]
  exact ⟨rfl, rfl, rfl, ((updPort_keeps p untrained s).mono (by simp)).trans ((issue_keeps _ _ _).mono (by simp))⟩

/-- What a port that training brings up has. -/
theorem training_clause (s : State) (p : Port) (d depth : Nat) (forms : s.en.state = .forming) (trains : s.en.ports[p].training = true)
    (near : d ≤ 36864) : ∃ t, exec (.portTrainingDone p (.measured d depth)) s = .next t ∧ Keeps [.en] s t
      ∧ t.en.ports[p].up = true ∧ t.en.ports[p].training = false ∧ t.en.ports[p].d = d
      ∧ (∀ r : Port, r ≠ p → t.en.ports[r] = s.en.ports[r])
      ∧ (p = 0 → s.en.leader = false → t.en.depth = depth + 1
          ∧ t.en.tx = s.en.tx
            ++ [((0 : Port), .data (s.en.ports[(0 : Port)].txData + 1) (.join s.en.member s.en.ensId (axrasMajor s) (depth + 1) []))])
      ∧ ((p ≠ 0 ∨ s.en.leader = true) → t.en.depth = s.en.depth ∧ t.en.tx = s.en.tx) := by
  by_cases joins : p = 0 ∧ s.en.leader = false
  · obtain ⟨rfl, member⟩ := joins
    have row := exec_portTrainingDone_joins (depth := depth) forms trains near member
    obtain ⟨w, hw⟩ : ∃ w, w = withDepth (depth + 1) (updPort 0 (trainedUp d) s) := ⟨_, rfl⟩
    have self : w.en.ports[(0 : Port)] = trainedUp d s.en.ports[(0 : Port)] := by rw [hw]; exact updPort_self 0 (trainedUp d) s
    have others (r : Port) (other : r ≠ 0) : w.en.ports[r] = s.en.ports[r] := by rw [hw]; exact updPort_other other (trainedUp d) s
    have rest : w.en.depth = depth + 1 ∧ w.en.tx = s.en.tx := by rw [hw]; exact ⟨rfl, rfl⟩
    have keeps : Keeps [.en] s w := by rw [hw]; exact (updPort_keeps 0 (trainedUp d) s).trans (setEn_keeps _ _)
    have up : w.en.ports[(0 : Port)].up = true := by rw [self]; rfl
    rw [← hw, enMsg_up up, self, rest.2] at row
    refine ⟨_, row, keeps.trans (withLink_keeps _ _ w), ?_⟩
    have sent := vupd_self w.en.ports 0 (dataSent ((trainedUp d s.en.ports[(0 : Port)]).txData + 1) w.tb.now
      (.join s.en.member s.en.ensId (axrasMajor s) (depth + 1) []))
    rw [self] at sent
    rw [withLink]
    dsimp only
    rw [sent]
    exact ⟨rfl, rfl, rfl, fun r other => (vupd_other _ _ other.symm).trans (others r other), fun _ _ => ⟨rest.1, rfl⟩,
      fun stays => stays.elim (fun h => absurd rfl h) fun leads => absurd (member.symm.trans leads) Bool.false_ne_true⟩
  · have stays : p ≠ 0 ∨ s.en.leader = true := by
      by_cases zero : p = 0
      · exact .inr (Bool.not_eq_false _ ▸ fun member => joins ⟨zero, member⟩)
      · exact .inl zero
    have row := exec_portTrainingDone_near (depth := depth) forms trains near stays
    have self := updPort_self p (trainedUp d) s
    refine ⟨_, row, updPort_keeps p (trainedUp d) s, ?_⟩
    rw [self]
    exact ⟨rfl, rfl, rfl, fun r other => updPort_other other (trainedUp d) s,
      fun zero member => absurd ⟨zero, member⟩ joins, fun _ => ⟨rfl, rfl⟩⟩

/-! ### Joins (R350) -/

section
variable {s : State} {p : Port} {m : Nat} {id : W64} {major : W16} {depth : Nat} {path : List Port}

theorem exec_joinMessage_leader (forms : s.en.state = .forming) (leads : s.en.leader = true) :
    exec (.joinMessage p m id major depth { path := path }) s = .next (joinLeader p path m id major depth (goodData p s)) := by
  have active : s.en.state ≠ .standalone := by rw [forms]; decide
  exact congrArg Host.Outcome.next ((if_neg active).trans ((if_pos leads).trans (if_pos forms)))

theorem exec_joinMessage_member (active : s.en.state ≠ .standalone) (member : s.en.leader = false) :
    exec (.joinMessage p m id major depth { path := path }) s = .next (enMsg (.join m id major.toNat depth (p :: path)) (goodData p s) 0) := by
  have not_ : ¬s.en.leader = true := fun leads => Bool.false_ne_true (member.symm.trans leads)
  exact congrArg Host.Outcome.next ((if_neg active).trans (if_neg not_))

theorem exec_joinMessage_refused {c : Fin 5} (forms : s.en.state = .forming) (member : s.en.leader = false) :
    exec (.joinMessage p m id major depth { refusal := some c }) s
      = .next (breakLocal (formAnswer (joinStatus c.val) (issue 0x0D02 [i1 m, i1 c.val] (goodData p s)))) := by
  have active : s.en.state ≠ .standalone := by rw [forms]; decide
  obtain ⟨ports, tx, link, -⟩ := goodData_link p s
  have here : (goodData p s).en.state = .forming ∧ ¬(goodData p s).en.leader = true := by
    rw [link]
    exact ⟨forms, fun leads => Bool.false_ne_true (member.symm.trans leads)⟩
  exact congrArg Host.Outcome.next ((if_neg active).trans (if_pos here))

end

theorem joinLeader_refuses {s : State} {m : Nat} {id : W64} {major : W16} {depth c : Nat} (bad : joinCase s m id major depth = some c) (p : Port)
    (path : List Port) : joinLeader p path m id major depth s = enMsg (.refuse m c path) (issue 0x0D02 [i1 m, i1 c] s) p := by
  rw [joinLeader, bad]

/-- A join at the leader, taken or refused. -/
theorem joinLeader_clause (s : State) (p : Port) (m : Nat) (id : W64) (major : W16) (depth : Nat) (path : List Port) (forms : s.en.state = .forming)
    (leads : s.en.leader = true) :
    (joinCase s m id major depth = none → exec (.joinMessage p m id major depth { path := path }) s
        = .next { goodData p s with en := { (goodData p s).en with joined := s.en.joined ++ [(m, p.val)] } })
      ∧ ∀ c, joinCase s m id major depth = some c →
        ∃ t, exec (.joinMessage p m id major depth { path := path }) s = .next t ∧ t.en.state = .forming ∧ t.en.joined = s.en.joined
          ∧ t.en.tx = (goodData p s).en.tx ++ (if s.en.ports[p].up then [(p, .data (s.en.ports[p].txData + 1) (.refuse m c path))] else [])
          ∧ Keeps [.en, .hi, .mg] s t := by
  have row := exec_joinMessage_leader (p := p) (m := m) (id := id) (major := major) (depth := depth) (path := path) forms leads
  obtain ⟨ports, tx, link, same⟩ := goodData_link p s
  have keeps : Keeps [.en] s (goodData p s) := by rw [link]; exact withLink_keeps ports tx s
  have case_ : joinCase (goodData p s) m id major depth = joinCase s m id major depth := by rw [link]; rfl
  have joined : (goodData p s).en.joined = s.en.joined := by rw [link]; rfl
  have state : (goodData p s).en.state = .forming := by rw [link]; exact forms
  have port : (goodData p s).en.ports[p].up = s.en.ports[p].up ∧ (goodData p s).en.ports[p].txData = s.en.ports[p].txData := by
    rw [link]
    exact same p
  refine ⟨fun good => ?_, fun c bad => ?_⟩
  · rw [joinLeader, case_, good] at row
    rw [row, joined]
  · rw [joinLeader_refuses (case_.trans bad)] at row
    have en : (issue 0x0D02 [i1 m, i1 c] (goodData p s)).en = (goodData p s).en := by simp
    have sent := enMsg_tx (.refuse m c path) (issue 0x0D02 [i1 m, i1 c] (goodData p s)) p
    obtain ⟨ports', tx', out⟩ := enMsg_link (.refuse m c path) (issue 0x0D02 [i1 m, i1 c] (goodData p s)) p
    rw [en, port.1, port.2] at sent
    refine ⟨_, row, ?_, ?_, sent, ?_⟩
    · rw [out, withLink]
      dsimp only
      rw [en, state]
    · rw [out, withLink]
      dsimp only
      rw [en, joined]
    · rw [out]
      exact ((keeps.mono (by simp)).trans ((issue_keeps _ _ _).mono (by simp))).trans ((withLink_keeps ports' tx' _).mono (by simp))

/-- A join on its way up. -/
theorem joinMember_clause (s : State) (p : Port) (m : Nat) (id : W64) (major : W16) (depth : Nat) (path : List Port)
    (active : s.en.state ≠ .standalone) (member : s.en.leader = false) (up : s.en.ports[(0 : Port)].up = true) :
    ∃ t, exec (.joinMessage p m id major depth { path := path }) s = .next t ∧ Keeps [.en] s t ∧ t.en.joined = s.en.joined
      ∧ t.en.tx = (goodData p s).en.tx
        ++ [((0 : Port), .data (s.en.ports[(0 : Port)].txData + 1) (.join m id major.toNat depth (p :: path)))] := by
  have row := exec_joinMessage_member (p := p) (m := m) (id := id) (major := major) (depth := depth) (path := path) active member
  obtain ⟨ports, tx, link, same⟩ := goodData_link p s
  have keeps : Keeps [.en] s (goodData p s) := by rw [link]; exact withLink_keeps ports tx s
  have joined : (goodData p s).en.joined = s.en.joined := by rw [link]; rfl
  have port : (goodData p s).en.ports[(0 : Port)].up = s.en.ports[(0 : Port)].up
      ∧ (goodData p s).en.ports[(0 : Port)].txData = s.en.ports[(0 : Port)].txData := by
    rw [link]
    exact same 0
  rw [enMsg_up (port.1.trans up), port.2] at row
  exact ⟨_, row, keeps.trans (withLink_keeps _ _ _), joined, rfl⟩

/-! ### The ensemble is formed, or is not (R349, R350) -/

theorem exec_formedMessage_unaligned {s : State} {n : Nat} (unaligned : s.en.aligned = false) :
    exec (.formedMessage n) s = .next (if s.en.leader then s else goodData 0 s) := by
  obtain ⟨ports, tx, link, -⟩ := goodData_link 0 s
  have waits : (if s.en.leader then s else goodData 0 s).en.aligned = false := by
    split
    · exact unaligned
    · rw [link]
      exact unaligned
  exact congrArg Host.Outcome.next (if_pos (.inr (Bool.eq_false_iff.mp waits)))

section
variable {s : State} {n : Nat} (forms : s.en.state = .forming)
include forms

theorem exec_formedMessage_leader (leads : s.en.leader = true) (aligned : s.en.aligned = true) : exec (.formedMessage n) s
    = .next (if s.en.joined.length + 1 = s.en.members then becomeFormed s.en.members (msgDown (.formed s.en.members) s) else s) := by
  have ready : ¬(s.en.state ≠ .forming ∨ ¬s.en.aligned = true) := not_or.mpr ⟨not_not.mpr forms, not_not.mpr aligned⟩
  show Host.Outcome.next (formedAct n (if s.en.leader then s else goodData 0 s)) = _
  rw [if_pos leads, formedAct, if_neg ready, if_pos leads]

theorem exec_formedMessage_member (member : s.en.leader = false) (aligned : s.en.aligned = true) :
    exec (.formedMessage n) s = .next (becomeFormed n (msgDown (.formed n) (goodData 0 s))) := by
  obtain ⟨ports, tx, link, -⟩ := goodData_link 0 s
  have not_ : ¬s.en.leader = true := fun leads => Bool.false_ne_true (member.symm.trans leads)
  have ready : ¬((goodData 0 s).en.state ≠ .forming ∨ ¬(goodData 0 s).en.aligned = true) := by
    rw [link]
    exact not_or.mpr ⟨not_not.mpr forms, not_not.mpr aligned⟩
  have other : ¬(goodData 0 s).en.leader = true := by
    rw [link]
    exact not_
  show Host.Outcome.next (formedAct n (if s.en.leader then s else goodData 0 s)) = _
  rw [if_neg not_, formedAct, if_neg ready, if_neg other]

end

/-- An ensemble formed after messages on the link. -/
theorem becomeFormed_linked {s : State} {tag : W16} {e : Exec} (asked_ : s.en.formTag = some tag) (runs : executing 0x0D01 tag s = some e)
    (ports : Vector HPort 4) (tx : List (Port × TxMsg)) (n : Nat) : ∃ t, becomeFormed n (withLink ports tx s) = t ∧ t.en.state = .formed
      ∧ t.en.members = n ∧ t.en.discord = 0 ∧ t.en.mismatch = 0 ∧ t.en.formTag = none ∧ Replied e 0 [] s t ∧ Keeps [.en, .hi, .mg] s t := by
  obtain ⟨u, eq, en, quiet, keeps⟩ := becomeFormed_answers (s := withLink ports tx s) asked_ ((executing_of_logless _ tag rfl).trans runs) n
  refine ⟨_, eq, congrArg EN.state en, congrArg EN.members en, congrArg EN.discord en, congrArg EN.mismatch en, congrArg EN.formTag en,
    answer_replied e 0 [] (quiet.trans rfl), ?_⟩
  exact (((withLink_keeps ports tx s).mono (by simp)).trans keeps).trans ((answer_keeps e 0 [] u).mono (by simp))

/-- A refused member answers with the case's status and stands alone. -/
theorem joinRefused_clause {s : State} {tag : W16} {e : Exec} (forms : s.en.state = .forming) (asked_ : s.en.formTag = some tag)
    (runs : executing 0x0D01 tag s = some e) (member : s.en.leader = false) (p : Port) (m : Nat) (id : W64) (major : W16) (depth : Nat) (c : Fin 5) :
    ∃ t, exec (.joinMessage p m id major depth { refusal := some c }) s = .next t ∧ t.en.state = .standalone
      ∧ Replied e (if c.val = 0 then 0xC else if c.val = 1 ∨ c.val = 3 then 6 else 3) [] s t ∧ Keeps [.en, .hi, .mg] s t := by
  have row := exec_joinMessage_refused (p := p) (m := m) (id := id) (major := major) (depth := depth) (c := c) forms member
  obtain ⟨ports, tx, link, -⟩ := goodData_link p s
  obtain ⟨u, hu⟩ : ∃ u, u = issue 0x0D02 [i1 m, i1 c.val] (goodData p s) := ⟨_, rfl⟩
  have quiet : logless u = logless s := by rw [hu, issue_logless, link]; rfl
  have en : u.en = (goodData p s).en := by rw [hu]; simp
  have tagged : u.en.formTag = some tag := by rw [en, link]; exact asked_
  have keeps : Keeps [.en, .hi, .mg] s u := by
    rw [hu, link]
    exact ((withLink_keeps ports tx s).mono (by simp)).trans ((issue_keeps _ _ _).mono (by simp))
  rw [← hu, formAnswer_answers tagged ((executing_of_logless _ tag quiet).trans runs)] at row
  have reply : Replied e (joinStatus c.val) [] s (answer e (joinStatus c.val) [] (unasked u)) :=
    answer_replied e _ [] (quiet.trans rfl : logless (unasked u) = logless s)
  refine ⟨_, row, rfl, reply, ?_⟩
  exact ((keeps.trans ((setEn_keeps _ u).mono (by simp))).trans ((answer_keeps e _ [] (unasked u)).mono (by simp))).trans
    ((setEn_keeps _ _).mono (by simp))

/-- At its bound, the leader breaks what it has begun. -/
theorem formTimeout_clause {s : State} {tag : W16} {e : Exec} (forms : s.en.state = .forming) (asked_ : s.en.formTag = some tag)
    (leads : s.en.leader = true) (runs : executing 0x0D01 tag (toTime (s.en.formAt + 2048000000000) s) = some e) :
    ∃ t, exec .ensFormTimeout s = .next t ∧ t.en = { tx := t.en.tx } ∧ Answered e 0xD [] (toTime (s.en.formAt + 2048000000000) s) t
      ∧ Keeps [.en, .hi] (toTime (s.en.formAt + 2048000000000) s) t
      ∧ t.en.tx = s.en.tx ++ (([1, 2, 3] : List Port).filter fun p => s.en.ports[p].up).map fun p =>
        (p, .data (s.en.ports[p].txData + 1) .breakMsg) := by
  have row : exec .ensFormTimeout s = .next (breakLocal (formAnswer eTimeout (msgDown .breakMsg (toTime (s.en.formAt + 2048000000000) s)))) :=
    congrArg Host.Outcome.next (if_pos ⟨forms, leads⟩)
  have en : (toTime (s.en.formAt + 2048000000000) s).en = s.en := by simp
  generalize toTime (s.en.formAt + 2048000000000) s = u at row en runs ⊢
  have sent := msgDown_tx .breakMsg u
  obtain ⟨ports, tx, link⟩ := msgDown_link .breakMsg u
  have tagged : (withLink ports tx u).en.formTag = some tag := (congrArg EN.formTag en).trans asked_
  rw [link] at row sent
  rw [formAnswer_answers tagged ((executing_of_logless _ tag rfl).trans runs)] at row
  rw [en] at sent
  refine ⟨_, row, rfl, answer_answered e 0xD [] (unasked (withLink ports tx u)), ?_, sent⟩
  exact ((((withLink_keeps ports tx u).trans (setEn_keeps _ _)).mono (by simp)).trans ((answer_keeps e _ [] _).mono (by simp))).trans
    ((setEn_keeps _ _).mono (by simp))

end Sys2Proof.Machine

open Sys2Proof Sys2Proof.Machine

/-- Settles O42: the command by its checks, a port by its training, a join and the end of forming by who the device is. -/
theorem ensembleForms : Obligations.ensembleForms := by
  refine ⟨fun s tag e runs none_ => ?_, fun s p d depth forms trains => ⟨training_clause s p d depth forms trains, fun far => ?_, ?_⟩,
    fun s p m id major depth path => ⟨joinLeader_clause s p m id major depth path, joinMember_clause s p m id major depth path⟩,
    fun s tag e forms asked_ runs => ⟨fun unaligned n => exec_formedMessage_unaligned unaligned, fun leads aligned n => ?_,
      fun member => ⟨fun aligned n => ?_, joinRefused_clause forms asked_ runs member⟩, formTimeout_clause forms asked_⟩⟩
  · intro m zeros1 zeros2 sizes
    refine ⟨fun power alone big => ?_, fun power alone => (ensForm_clause s tag e runs none_ zeros1 zeros2 sizes power alone).2,
      fun not_ => ⟨_, exec_ensForm_refused runs none_ zeros1 zeros2 sizes not_, answer_answered e 6 [] s, answer_keeps e 6 [] s⟩⟩
    have row := (ensForm_clause s tag e runs none_ zeros1 zeros2 sizes power alone).1 big
    exact ⟨_, row, rfl, rfl, rfl, rfl, (BitVec.toNat_ofNat _ _).trans (Nat.mod_eq_of_lt (payF_lt e 8 8)), rfl,
      rfl, congrArg some (executing_entry runs).2, forming_ports e s, forming_keeps e s⟩
  · exact ⟨_, exec_portTrainingDone_far forms trains far, training_fails p _ s⟩
  · exact ⟨_, exec_portTrainingDone_noLock forms trains, training_fails p _ s⟩
  · have row := exec_formedMessage_leader (n := n) forms leads aligned
    obtain ⟨ports, tx, link⟩ := msgDown_link (.formed s.en.members) s
    refine ⟨fun missing => by rwa [if_neg missing] at row, fun all => ?_⟩
    obtain ⟨t, eq, facts⟩ := becomeFormed_linked asked_ runs ports tx s.en.members
    rw [if_pos all, link, eq] at row
    exact ⟨t, row, facts⟩
  · have row := exec_formedMessage_member (n := n) forms member aligned
    obtain ⟨ports, tx, first, -⟩ := goodData_link 0 s
    obtain ⟨ports', tx', link⟩ := msgDown_link (.formed n) (withLink ports tx s)
    obtain ⟨t, eq, state, members, -, -, -, reply, keeps⟩ :=
      becomeFormed_linked (s := withLink ports tx s) asked_ ((executing_of_logless _ tag rfl).trans runs) ports' tx' n
    rw [first, link, eq] at row
    exact ⟨t, row, state, members, reply, ((withLink_keeps ports tx s).mono (by simp)).trans keeps⟩

end

section
/-! SUPPORT. Bursts on the ports (R353), a discord (R362, R363), ports that go down (R364), probes (R346, R348), breaking (R351); the
statement on them. -/

namespace Sys2Proof.Machine

open Sys2Proof

/-! ### Bursts on the ports -/

theorem enBurst_tx (b : Burst) (s : State) (p : Port) :
    (enBurst b s p).en.tx = s.en.tx ++ if s.en.ports[p].up then [(p, .burst ((s.en.ports[p].txSeq + 1) % 65536) b)] else [] := by
  unfold enBurst
  split
  · rfl
  · exact (List.append_nil _).symm

/-- A burst leaves which ports are up. -/
theorem enBurst_link (b : Burst) (s : State) (p : Port) : ∃ ports tx, enBurst b s p = withLink ports tx s
    ∧ ∀ r : Port, ports[r].up = s.en.ports[r].up := by
  unfold enBurst
  split
  · refine ⟨vupd s.en.ports p fun q => { q with txSeq := (s.en.ports[p].txSeq + 1) % 65536 }, _, rfl, fun r => ?_⟩
    by_cases same : p = r
    · rw [same, vupd_self]
    · rw [vupd_other _ _ same]
  · exact ⟨s.en.ports, s.en.tx, rfl, fun _ => rfl⟩

theorem burstDown_link (b : Burst) (s : State) : ∃ ports tx, burstDown b s = withLink ports tx s
    ∧ ∀ r : Port, ports[r].up = s.en.ports[r].up := by
  obtain ⟨p1, x1, e1, u1⟩ := enBurst_link b s 1
  obtain ⟨p2, x2, e2, u2⟩ := enBurst_link b (withLink p1 x1 s) 2
  obtain ⟨p3, x3, e3, u3⟩ := enBurst_link b (withLink p2 x2 (withLink p1 x1 s)) 3
  refine ⟨p3, x3, ?_, fun r => (u3 r).trans ((u2 r).trans (u1 r))⟩
  rw [burstDown, List.foldl_cons, e1, List.foldl_cons, e2, List.foldl_cons, e3]
  rfl

/-! ### A discord (R362, R363) -/

/-- The park that the leader has set. -/
def withPark (a : Option (Nat × Nat × Nat)) (s : State) : State := { s with en := { s.en with parkAt := a } }

theorem sendDiscord_link (cause port detail : Nat) (s : State) : ∃ ports tx a, sendDiscord cause port detail s = withLink ports tx (withPark a s)
    ∧ ∀ r : Port, ports[r].up = s.en.ports[r].up := by
  unfold sendDiscord
  split
  · obtain ⟨ports, tx, link, ups⟩ := burstDown_link (haltBurst 2 s.en.member cause s)
      (withPark (if s.en.leader then some ((ensTime s + burstLead).toNat, s.en.member, cause) else s.en.parkAt) s)
    exact ⟨ports, tx, _, link, ups⟩
  · obtain ⟨ports, tx, link, ups⟩ := enBurst_link (discordMsg cause port detail s) s 0
    exact ⟨ports, tx, s.en.parkAt, link, ups⟩

/-- `EN_DISCORD` of a first discord (Table 14.9). -/
def discordWord (cause member port detail : Nat) (s : State) : W64 :=
  BitVec.ofNat 64 (2 ^ 63 + cause * 2 ^ 60 + member * 2 ^ 54 + port * 2 ^ 52 + detail * 2 ^ 48 + (ensTime s % (2 ^ 48 : Nat)).toNat)

theorem discordWord_fields {cause member port detail : Nat} (c : cause < 8) (m : member < 64) (p : port < 4) (d : detail < 16) (s : State) :
    (discordWord cause member port detail s).toNat / 2 ^ 48 = 2 ^ 15 + cause * 2 ^ 12 + member * 2 ^ 6 + port * 2 ^ 4 + detail := by
  have time : (ensTime s % (2 ^ 48 : Nat)).toNat < 2 ^ 48 := by omega
  rw [discordWord, BitVec.toNat_ofNat]
  generalize (ensTime s % (2 ^ 48 : Nat)).toNat = k at time
  omega

theorem recordDiscord_en (cause member port detail : Nat) (s : State) : (recordDiscord cause member port detail s).en
    = { s.en with state := .discord, discord := if s.en.discord.getLsbD 63 then s.en.discord else discordWord cause member port detail s } := by
  have said (code : Nat) (items : List Item) (t : State) : (issue code items t).en = t.en := by simp
  exact said _ _ _

theorem recordDiscord_keeps (cause member port detail : Nat) (s : State) : Keeps [.en, .hi, .mg] s (recordDiscord cause member port detail s) :=
  ((setEn_keeps _ s).mono (by simp)).trans (issue_keeps _ _ _ |>.mono (by simp))

theorem recordDiscord_parked {s : State} (parked : Parked s) (cause member port detail : Nat) : Parked (recordDiscord cause member port detail s) :=
  parked.congr (by simp) (by simp) (by simp)

/-- The containment of a discord is not one more discord. -/
theorem contain_discord_en (s : State) : (contain 0x0B s).en = s.en := by
  unfold contain
  split
  · have said (code : Nat) (items : List Item) (t : State) : (issue code items t).en = t.en := by simp
    exact said _ _ _
  · have never : ¬(formed s = true ∧ (0x0B : Nat) ≠ 0x0B) := fun h => h.2 rfl
    have en : (enterContain 0x0B s).en = s.en := by simp
    exact (congrArg State.en (if_neg never)).trans en

section
variable {s : State} (cause port detail : Nat) (member : formed s = true)
include member

/-- A discord contains the device and stands in `EN_DISCORD`. -/
theorem discord_formed :
    (discord cause port detail s).mg.contained = true ∧ (discord cause port detail s).en.state = .discord
      ∧ (discord cause port detail s).en.rx = s.en.rx ∧ (∀ r : Port, (discord cause port detail s).en.ports[r].up = s.en.ports[r].up)
      ∧ (discord cause port detail s).en.discord
        = if s.en.discord.getLsbD 63 then s.en.discord else discordWord cause s.en.member port detail (contain 0x0B s) := by
  obtain ⟨ports, tx, a, link, ups⟩ := sendDiscord_link cause port detail (recordDiscord cause s.en.member port detail (contain 0x0B s))
  have en := recordDiscord_en cause s.en.member port detail (contain 0x0B s)
  have held : (recordDiscord cause s.en.member port detail (contain 0x0B s)).mg.contained = true :=
    (recordDiscord_contained _ _ _ _ _).trans (contain_contained _ _)
  rw [contain_discord_en] at en
  have state := congrArg EN.state en
  have rx := congrArg EN.rx en
  have word := congrArg EN.discord en
  have port (r : Port) := congrArg (fun e : EN => e.ports[r].up) en
  rw [discord, if_pos member, link]
  exact ⟨held, state, rx, fun r => (ups r).trans (port r), word⟩

theorem discord_parked (free : s.mg.contained = false) : Parked (discord cause port detail s) := by
  obtain ⟨ports, tx, a, link, -⟩ := sendDiscord_link cause port detail (recordDiscord cause s.en.member port detail (contain 0x0B s))
  rw [discord, if_pos member, link]
  exact (contain_parked 0x0B free).congr (by simp [withLink, withPark]) (by simp [withLink, withPark]) (by simp [withLink, withPark])

end

/-! ### Ports that go down (R364) -/

/-- What the loss of a port of a formed ensemble leaves. -/
def PortLost (s : State) (p : Port) (t : State) : Prop :=
  t.en.ports[p].up = false ∧ t.mg.contained = true ∧ Parked t ∧ t.en.state = .discord
    ∧ t.en.discord.toNat / 2 ^ 48 = 2 ^ 15 + 3 * 2 ^ 12 + s.en.member * 2 ^ 6 + p.val * 2 ^ 4 + 2

/-- A port that is down, with what was on its way on it. -/
def portOff (p : Port) (s : State) : State :=
  { updPort p (fun q => { q with up := false, training := false, unacked := [] }) s with
    en := { (updPort p (fun q => { q with up := false, training := false, unacked := [] }) s).en with rx := s.en.rx.filter fun x => x.1 != p } }

theorem portOff_en (p : Port) (s : State) : (portOff p s).en.ports[p].up = false ∧ (portOff p s).en.state = s.en.state
    ∧ (portOff p s).en.member = s.en.member ∧ (portOff p s).en.discord = s.en.discord
    ∧ (portOff p s).en.rx = s.en.rx.filter (fun x => x.1 != p) ∧ (portOff p s).mg = s.mg := by
  have self := updPort_self p (fun q => { q with up := false, training := false, unacked := [] }) s
  exact ⟨congrArg HPort.up self, rfl, rfl, rfl, rfl, rfl⟩

theorem portDown_up {p : Port} {cause : Nat} {s : State} (up : s.en.ports[p].up = true) :
    portDown p cause s = discord 3 p.val 2 (issue 0x0D06 [i1 p.val, i1 cause] (portOff p s)) := if_pos up

theorem portDown_down {p : Port} {cause : Nat} {s : State} (down : s.en.ports[p].up = false) : portDown p cause s = s :=
  if_neg (Bool.eq_false_iff.mp down)

/-- In a formed ensemble, the loss of a port is a discord. -/
theorem portDown_formed {p : Port} (cause : Nat) {s : State} (up : s.en.ports[p].up = true) (member : formed s = true) :
    (portDown p cause s).en.ports[p].up = false ∧ (portDown p cause s).mg.contained = true ∧ (portDown p cause s).en.state = .discord
      ∧ (portDown p cause s).en.rx = s.en.rx.filter (fun x => x.1 != p)
      ∧ (s.en.discord.getLsbD 63 = false → ∃ u, (portDown p cause s).en.discord = discordWord 3 s.en.member p.val 2 u)
      ∧ (s.mg.contained = false → Parked (portDown p cause s)) := by
  obtain ⟨off, state, number, word, rx, mg⟩ := portOff_en p s
  obtain ⟨u, hu⟩ : ∃ u, u = issue 0x0D06 [i1 p.val, i1 cause] (portOff p s) := ⟨_, rfl⟩
  have en : u.en = (portOff p s).en := by rw [hu]; simp
  have formed_ : formed u = true := by
    rw [formed, en, state]
    exact member
  have held : u.mg.contained = s.mg.contained := by rw [hu, issue_contained, mg]
  obtain ⟨contained, discorded, kept, ups, record⟩ := discord_formed (s := u) 3 p.val 2 formed_
  rw [portDown_up up, ← hu]
  refine ⟨(ups p).trans (by rw [en, off]), contained, discorded, kept.trans (by rw [en, rx]), fun first => ⟨contain 0x0B u, ?_⟩,
    fun free => discord_parked 3 p.val 2 formed_ (held.trans free)⟩
  rw [record, en, word, number, if_neg (Bool.eq_false_iff.mp first)]

theorem portDown_lost {p : Port} (cause : Nat) {s : State} (up : s.en.ports[p].up = true) (member : formed s = true) (free : s.mg.contained = false)
    (small : s.en.member < 64) (first : s.en.discord.getLsbD 63 = false) : PortLost s p (portDown p cause s) := by
  obtain ⟨off, contained, discorded, -, record, parked⟩ := portDown_formed cause up member
  obtain ⟨u, word⟩ := record first
  exact ⟨off, contained, parked free, discorded, word ▸ discordWord_fields (by decide) small p.isLt (by decide) u⟩

/-! ### Data slots (R354) -/

/-- A port whose data slots go again. -/
def sentAgain (now : Nat) (q : HPort) : HPort := { q with retries := q.retries + 1, sentAt := now }

section
variable {s : State} {p : Port}

theorem exec_mgmtRetransmit_idle (down : s.en.ports[p].up = false) : exec (.mgmtRetransmitTimeout p) s = .next s :=
  congrArg Host.Outcome.next (if_pos (.inl (Bool.eq_false_iff.mp down)))

theorem exec_mgmtRetransmit (up : s.en.ports[p].up = true) (some_ : s.en.ports[p].unacked ≠ []) : exec (.mgmtRetransmitTimeout p) s
    = .next (if 8 ≤ s.en.ports[p].retries then
        portDown p 2 (updPort p (sentAgain (toTime (s.en.ports[p].sentAt + 16384000) s).tb.now) (toTime (s.en.ports[p].sentAt + 16384000) s))
      else s.en.ports[p].unacked.foldl (fun t x => enTx p (.data x.1 x.2) t)
        (updPort p (sentAgain (toTime (s.en.ports[p].sentAt + 16384000) s).tb.now) (toTime (s.en.ports[p].sentAt + 16384000) s))) := by
  have waits : ¬(¬s.en.ports[p].up = true ∨ s.en.ports[p].unacked.isEmpty = true) :=
    not_or.mpr ⟨not_not.mpr up, fun none_ => some_ (List.isEmpty_iff.mp none_)⟩
  exact congrArg Host.Outcome.next (if_neg waits)

end

/-- The data slots of a list go again in their order. -/
theorem foldl_data (p : Port) (l : List (Nat × Mgmt)) (s : State) :
    l.foldl (fun t x => enTx p (.data x.1 x.2) t) s = withLink s.en.ports (s.en.tx ++ l.map fun m => (p, .data m.1 m.2)) s := by
  induction l generalizing s with
  | nil =>
    rw [List.foldl_nil, List.map_nil, List.append_nil]
    rfl
  | cons x l ih =>
    rw [List.foldl_cons, ih, List.map_cons]
    show withLink s.en.ports (s.en.tx ++ [_] ++ _) s = _
    rw [List.append_assoc]
    rfl

theorem retransmit_clause (s : State) (p : Port) (up : s.en.ports[p].up = true) (some_ : s.en.ports[p].unacked ≠ [])
    (few : s.en.ports[p].retries < 8) :
    ∃ t, exec (.mgmtRetransmitTimeout p) s = .next t ∧ t.en.tx = s.en.tx ++ s.en.ports[p].unacked.map (fun m => (p, .data m.1 m.2))
      ∧ t.en.ports[p].retries = s.en.ports[p].retries + 1 ∧ t.en.ports[p].sentAt = (toTime (s.en.ports[p].sentAt + 16384000) s).tb.now
      ∧ Keeps [.en] (toTime (s.en.ports[p].sentAt + 16384000) s) t := by
  have row := exec_mgmtRetransmit up some_
  rw [if_neg (Nat.not_le.mpr few), foldl_data] at row
  have en : (toTime (s.en.ports[p].sentAt + 16384000) s).en = s.en := by simp
  generalize toTime (s.en.ports[p].sentAt + 16384000) s = u at row en ⊢
  have self := updPort_self p (sentAgain u.tb.now) u
  have port : u.en.ports[p] = s.en.ports[p] := congrArg (fun e : EN => e.ports[p]) en
  rw [port] at self
  refine ⟨_, row, ?_, congrArg HPort.retries self, congrArg HPort.sentAt self, (updPort_keeps p _ u).trans (withLink_keeps _ _ _)⟩
  show u.en.tx ++ _ = _
  rw [en]

theorem lostAfterRetries {s : State} {p : Port} (up : s.en.ports[p].up = true) (some_ : s.en.ports[p].unacked ≠ [])
    (spent : 8 ≤ s.en.ports[p].retries) (member : formed s = true) (free : s.mg.contained = false) (small : s.en.member < 64)
    (first : s.en.discord.getLsbD 63 = false) : ∃ t, exec (.mgmtRetransmitTimeout p) s = .next t ∧ PortLost s p t := by
  have row := exec_mgmtRetransmit up some_
  rw [if_pos spent] at row
  have en : (toTime (s.en.ports[p].sentAt + 16384000) s).en = s.en := by simp
  have mg : (toTime (s.en.ports[p].sentAt + 16384000) s).mg.contained = s.mg.contained :=
    mg_of_logless (f := MG.contained) (fun _ => rfl) (toTime_logless _ _)
  generalize toTime (s.en.ports[p].sentAt + 16384000) s = u at row en mg
  obtain ⟨w, hw⟩ : ∃ w, w = updPort p (sentAgain u.tb.now) u := ⟨_, rfl⟩
  have port : w.en.ports[p].up = true := by
    rw [hw, updPort_self, en]
    exact up
  have number_ := congrArg EN.member en
  have word_ := congrArg EN.discord en
  have rest : formed w = true ∧ w.mg.contained = false ∧ w.en.member = s.en.member ∧ w.en.discord = s.en.discord := by
    rw [hw]
    exact ⟨(congrArg (fun e : EN => e.state == .formed) en).trans member, mg.trans free, number_, word_⟩
  obtain ⟨member', free', number, word⟩ := rest
  have lost := portDown_lost 2 port member' free' (number ▸ small) (word ▸ first)
  rw [PortLost, number] at lost
  rw [← hw] at row
  exact ⟨_, row, lost⟩

/-! ### Acknowledgements (R354) -/

theorem portAck_none {now n : Nat} {q : HPort} (all : ∀ x ∈ q.unacked, n < x.1) : portAck now n q = { q with badRun := 0 } := by
  have same : (q.unacked.filter fun x => decide (n < x.1)) = q.unacked := List.filter_eq_self.mpr fun x mem => decide_eq_true (all x mem)
  rw [portAck, same, if_neg (Nat.lt_irrefl _)]

theorem portAck_some {now n : Nat} {q : HPort} (one : ∃ x ∈ q.unacked, x.1 ≤ n) : portAck now n q
    = { q with unacked := q.unacked.filter fun x => decide (n < x.1), retries := 0, sentAt := now, badRun := 0 } := by
  obtain ⟨x, mem, old⟩ := one
  have fewer : (q.unacked.filter fun x => decide (n < x.1)).length < q.unacked.length :=
    List.length_filter_lt_length_iff_exists.mpr ⟨x, mem, fun h => Nat.not_lt.mpr old (of_decide_eq_true h)⟩
  rw [portAck, if_pos fewer]

theorem portAck_unacked (now n : Nat) (q : HPort) :
    (portAck now n q).unacked = (q.unacked.filter fun x => decide (n < x.1)) ∧ (portAck now n q).badRun = 0 := by
  by_cases one : ∃ x ∈ q.unacked, x.1 ≤ n
  · rw [portAck_some one]
    exact ⟨rfl, rfl⟩
  · have all (x) (mem : x ∈ q.unacked) : n < x.1 := Nat.lt_of_not_le fun old => one ⟨x, mem, old⟩
    rw [portAck_none all]
    exact ⟨(List.filter_eq_self.mpr fun x mem => decide_eq_true (all x mem)).symm, rfl⟩

theorem ack_clause (s : State) (p : Port) (n : Nat) : ∃ t, exec (.dataSlotAcknowledgement { port := p, upTo := n }) s = .next t
    ∧ t.en.ports[p].unacked = (s.en.ports[p].unacked.filter fun x => decide (n < x.1)) ∧ t.en.ports[p].badRun = 0
    ∧ ((∃ x ∈ s.en.ports[p].unacked, x.1 ≤ n) → t.en.ports[p].retries = 0 ∧ t.en.ports[p].sentAt = s.tb.now)
    ∧ ((∀ x ∈ s.en.ports[p].unacked, n < x.1) → t.en.ports[p] = { s.en.ports[p] with badRun := 0 })
    ∧ (∀ r : Port, r ≠ p → t.en.ports[r] = s.en.ports[r]) ∧ { t.en with ports := s.en.ports } = s.en ∧ Keeps [.en] s t := by
  have row : exec (.dataSlotAcknowledgement { port := p, upTo := n }) s = .next (updPort p (portAck s.tb.now n) s) := rfl
  have self := updPort_self p (portAck s.tb.now n) s
  refine ⟨_, row, ?_⟩
  rw [self]
  obtain ⟨left, run⟩ := portAck_unacked s.tb.now n s.en.ports[p]
  refine ⟨left, run, fun one => ?_, fun all => portAck_none all, fun r other => updPort_other other _ s, rfl, updPort_keeps p _ s⟩
  rw [portAck_some one]
  exact ⟨rfl, rfl⟩

/-! ### Probes (R346, R348) -/

theorem foldl_probes (l : List Port) (s : State) : l.foldl probeOn s
    = withLink s.en.ports (s.en.tx ++ (l.filter fun p => s.en.ports[p].up).map fun p => (p, .probe (ensTime s).toNat)) s := by
  induction l generalizing s with
  | nil =>
    rw [List.foldl_nil, List.filter_nil, List.map_nil, List.append_nil]
    rfl
  | cons p l ih =>
    rw [List.foldl_cons, List.filter_cons, probeOn]
    split
    · rw [ih, List.map_cons]
      show withLink s.en.ports (s.en.tx ++ [_] ++ _) s = _
      rw [List.append_assoc]
      rfl
    · exact ih s

theorem exec_syncProbeSend {s : State} (active : s.en.state ≠ .standalone) (aligned : s.en.aligned = true) :
    exec .syncProbeSend s = .next (([1, 2, 3] : List Port).foldl probeOn
      { probeDue s with en := { (probeDue s).en with probeAt := some (probeDue s).tb.now } }) :=
  congrArg Host.Outcome.next (if_neg (not_or.mpr ⟨active, not_not.mpr aligned⟩))

theorem exec_syncProbeSend_none {s : State} (none_ : s.en.state = .standalone ∨ s.en.aligned = false) : exec .syncProbeSend s = .next s :=
  congrArg Host.Outcome.next (if_pos (none_.imp_right Bool.eq_false_iff.mp))

theorem probeDue_eq (s : State) : probeDue s = (s.en.probeAt.map fun a => toTime (a + 136314880) s).getD s := by
  unfold probeDue
  cases s.en.probeAt <;> rfl

section
variable {s : State} {time : Nat} (active : s.en.state ≠ .standalone) (member : s.en.leader = false) (up : s.en.ports[(0 : Port)].up = true)
include active member up

theorem exec_syncProbe : exec (.syncProbe time) s = .next (if s.en.aligned then track time s else alignTo (time + hopLat) s) :=
  congrArg Host.Outcome.next (if_neg (not_or.mpr ⟨active, not_or.mpr ⟨fun leads => Bool.false_ne_true (member.symm.trans leads), not_not.mpr up⟩⟩))

theorem exec_syncProbe_aligns (unaligned : s.en.aligned = false) : exec (.syncProbe time) s = .next (alignTo (time + 196608) s) := by
  rw [exec_syncProbe active member up, if_neg (Bool.eq_false_iff.mp unaligned)]
  rfl

theorem exec_syncProbe_tracks (aligned : s.en.aligned = true) : exec (.syncProbe time) s = .next (track time s) := by
  rw [exec_syncProbe active member up, if_pos aligned]

end

/-- The first probe sets the time. -/
theorem alignTo_time {t : Nat} (small : t < 2 ^ 80 - 4096) (s : State) : ensTime (alignTo t s) = t ∧ -4096 ≤ (alignTo t s).en.align
    ∧ (alignTo t s).en.align ≤ 4095 ∧ (alignTo t s).tb.epoch.toNat % 8192 = 0 := by
  have epoch : (alignTo t s).tb.epoch.toNat = (t + 4096) / 8192 * 8192 % 2 ^ 64 := BitVec.toNat_ofNat _ _
  have wraps : (alignTo t s).tb.wraps.toNat = min 0xFFFF ((t + 4096) / 8192 * 8192 / 2 ^ 64) % 2 ^ 16 := BitVec.toNat_ofNat _ _
  have align : (alignTo t s).en.align = (t : Int) - ((t + 4096) / 8192 * 8192 : Nat) := rfl
  rw [ensTime, ext, epoch, wraps, align]
  refine ⟨?_, ?_, ?_, ?_⟩ <;> omega

theorem alignTo_keeps (t : Nat) (s : State) : Keeps [.tb, .en] s (alignTo t s) :=
  ((setTb_keeps _ s).mono (by simp)).trans ((setEn_keeps _ _).mono (by simp))

/-- The state once a probe's difference is kept. -/
def probed (d : Int) (s : State) : State := { s with en := { s.en with deltas := [d], probes := s.en.probes + 1 } }

theorem meanDelta_single (d : Int) : meanDelta [d] = d := by
  show (2 * (0 + d) + ((1 : Nat) : Int)) / (2 * ((1 : Nat) : Int)) = d
  omega

/-- A probe on a member that has kept no difference. -/
theorem track_first {time : Nat} {s : State} {d : Int} (none_ : s.en.deltas = []) (diff : nearTime s (time % 2 ^ 64) + 196608 - ensTime s = d) :
    track time s = if 1 < d.natAbs ∨ s.en.align + d < -4096 ∨ 4095 < s.en.align + d then discord 1 0 0 (probed d s)
      else if d = 0 then probed d s
      else { probed d s with en := { (probed d s).en with align := s.en.align + d, adj := satSucc 0xFFFF s.en.adj } } := by
  have kept : ((nearTime s (time % 2 ^ 64) + hopLat - ensTime s) :: s.en.deltas).take 64 = [d] := by
    rw [none_, show nearTime s (time % 2 ^ 64) + (hopLat : Int) - ensTime s = d from diff]
    rfl
  rw [track]
  dsimp only
  rw [kept, meanDelta_single]
  rfl

theorem track_clause {s : State} {time : Nat} (active : s.en.state ≠ .standalone) (member : s.en.leader = false)
    (up : s.en.ports[(0 : Port)].up = true) (aligned : s.en.aligned = true) (none_ : s.en.deltas = []) {d : Int}
    (diff : nearTime s (time % 2 ^ 64) + 196608 - ensTime s = d) :
    (d.natAbs ≤ 1 → -4096 ≤ s.en.align + d → s.en.align + d ≤ 4095 →
      ∃ t, exec (.syncProbe time) s = .next t ∧ t.en.align = s.en.align + d ∧ t.en.deltas = [d]
        ∧ t.en.adj = (if d = 0 then s.en.adj else min 0xFFFF (s.en.adj + 1)) ∧ t.en.state = s.en.state ∧ Keeps [.en] s t)
      ∧ (1 < d.natAbs → formed s = true → ∃ t, exec (.syncProbe time) s = .next t ∧ t.mg.contained = true ∧ t.en.state = .discord) := by
  have row := exec_syncProbe_tracks (time := time) active member up aligned
  rw [track_first none_ diff] at row
  have kept : Keeps [.en] s (probed d s) := setEn_keeps _ s
  refine ⟨fun small low high => ?_, fun large isFormed => ?_⟩
  · rw [if_neg (by omega)] at row
    by_cases zero : d = 0
    · rw [if_pos zero] at row
      refine ⟨_, row, ?_, rfl, (if_pos zero).symm, rfl, kept⟩
      rw [zero, Int.add_zero]
      rfl
    · rw [if_neg zero] at row
      exact ⟨_, row, rfl, rfl, (if_neg zero).symm, rfl, kept.trans (setEn_keeps _ _)⟩
  · rw [if_pos (.inl large)] at row
    obtain ⟨contained, discorded, -⟩ := discord_formed (s := probed d s) 1 0 0 isFormed
    exact ⟨_, row, contained, discorded⟩

/-! ### The reference count (R364) -/

/-- The state with another count of probe intervals. -/
def withProbes (n : Nat) (s : State) : State := { s with en := { s.en with probes := n } }

theorem formed_withProbes (n : Nat) (s : State) : formed (withProbes n s) = formed s := rfl

theorem exec_refclkCountCheck {s : State} {count : Nat} (active : s.en.state ≠ .standalone) (member : s.en.leader = false)
    (due : 4096 ≤ s.en.probes) : exec (.refclkCountCheck count) s
      = .next (if count < 6815744 - 13 ∨ 6815744 + 13 < count then discord 2 0 0 (withProbes (s.en.probes - 4096) s)
        else withProbes (s.en.probes - 4096) s) :=
  congrArg Host.Outcome.next (if_neg
    (not_or.mpr ⟨active, not_or.mpr ⟨fun leads => Bool.false_ne_true (member.symm.trans leads), Nat.not_lt.mpr due⟩⟩))

/-! ### Discord messages and parks (R362, R363) -/

section
variable {s : State} {p : Port} {b : Burst} {r : Nat} (first : firstBurst 0x17 s = some (p, b, r))
include first

theorem exec_discordBurst : exec .discordBurst s = .next (discordAct p b (releasedBurst (p, b, r) (toTime r s))) :=
  congrArg Host.Outcome.next (onBurst_first first discordAct)

theorem discordBurst_leader (leads : s.en.leader = true) (member : formed s = true) : ∃ t, exec .discordBurst s = .next t ∧ t.en.state = .discord
    ∧ t.en.parkAt = some ((ensTime (toTime r s) + 1179648).toNat, fieldAt b.payload 0 1, b.aux % 8)
    ∧ t.mg.contained = (toTime r s).mg.contained ∧ Keeps [.en, .hi, .mg] (toTime r s) t := by
  have row := exec_discordBurst first
  have en : (toTime r s).en = s.en := by simp
  generalize toTime r s = u at row en ⊢
  have leads' : (releasedBurst (p, b, r) u).en.leader = true := (congrArg EN.leader en).trans leads
  have state : (releasedBurst (p, b, r) u).en.state = .formed := (congrArg EN.state en).trans (beq_iff_eq.mp member)
  obtain ⟨w, hw⟩ : ∃ w, w =
      withPark (some ((ensTime u + 1179648).toNat, fieldAt b.payload 0 1, b.aux % 8)) (releasedBurst (p, b, r) u) := ⟨_, rfl⟩
  have keeps : Keeps [.en] u w := by
    rw [hw]
    exact (setEn_keeps _ u).trans (setEn_keeps _ _)
  have facts : w.en.parkAt = some ((ensTime u + 1179648).toNat, fieldAt b.payload 0 1, b.aux % 8) ∧ w.mg = u.mg := by rw [hw]; exact ⟨rfl, rfl⟩
  rw [discordAct, if_pos leads', if_pos state] at row
  obtain ⟨ports, tx, link, -⟩ := burstDown_link (haltBurst 2 (fieldAt b.payload 0 1) (b.aux % 8) (releasedBurst (p, b, r) u)) w
  have park : ({ releasedBurst (p, b, r) u with en := { (releasedBurst (p, b, r) u).en with
      parkAt := some ((ensTime (releasedBurst (p, b, r) u) + burstLead).toNat, fieldAt b.payload 0 1, b.aux % 8) } } : State) = w := hw.symm
  rw [park, link] at row
  have record := recordDiscord_en (b.aux % 8) (fieldAt b.payload 0 1) (fieldAt b.payload 1 1) (fieldAt b.payload 2 1) (withLink ports tx w)
  refine ⟨_, row, congrArg EN.state record, (congrArg EN.parkAt record).trans facts.1, ?_, ?_⟩
  · exact (recordDiscord_contained _ _ _ _ _).trans (congrArg MG.contained facts.2)
  · exact ((keeps.trans (withLink_keeps ports tx w)).mono (by simp)).trans (recordDiscord_keeps _ _ _ _ _)

theorem discordBurst_member (member : s.en.leader = false) : ∃ t, exec .discordBurst s = .next t ∧ t.en.rx = s.en.rx.erase (p, b, r)
    ∧ Keeps [.en] (toTime r s) t ∧ t.en.tx = s.en.tx
      ++ (if s.en.ports[(0 : Port)].up then [((0 : Port), .burst ((s.en.ports[(0 : Port)].txSeq + 1) % 65536) b)] else []) := by
  have row := exec_discordBurst first
  have en : (toTime r s).en = s.en := by simp
  generalize toTime r s = u at row en ⊢
  have not_ : ¬(releasedBurst (p, b, r) u).en.leader = true := fun leads =>
    Bool.false_ne_true (((congrArg EN.leader en).trans member).symm.trans leads)
  rw [discordAct, if_neg not_, burstUp] at row
  have sent := enBurst_tx b (releasedBurst (p, b, r) u) 0
  obtain ⟨ports, tx, link, -⟩ := enBurst_link b (releasedBurst (p, b, r) u) 0
  refine ⟨_, row, ?_, ?_, sent.trans ?_⟩
  · rw [link]
    show u.en.rx.erase _ = _
    rw [en]
  · rw [link]
    exact (setEn_keeps _ u).trans (withLink_keeps ports tx _)
  · show u.en.tx ++ (if u.en.ports[(0 : Port)].up then [((0 : Port), TxMsg.burst ((u.en.ports[(0 : Port)].txSeq + 1) % 65536) b)] else []) = _
    rw [en]

end

theorem exec_haltBurstParkAtime {s : State} {at_ m c : Nat} (park : s.en.parkAt = some (at_, m, c)) :
    exec .haltBurstParkAtime s = .next (if (contain 0x0B (withPark none (toEns at_ s))).en.state = .formed then
      recordDiscord c m 0 0 (contain 0x0B (withPark none (toEns at_ s))) else contain 0x0B (withPark none (toEns at_ s))) := by
  show Host.Outcome.next (parkAtTime s) = _
  rw [parkAtTime, park]
  rfl

/-! ### Breaking (R351) -/

theorem formAnswer_none {s : State} (none_ : s.en.formTag = none) (status : Nat) : formAnswer status s = s := by
  rw [formAnswer, none_]

theorem formAnswer_keeps (status : Nat) (s : State) : Keeps [.en, .hi] s (formAnswer status s) := by
  unfold formAnswer
  split
  next t _ =>
    have first : Keeps [.en, .hi] s (unasked s) := (setEn_keeps _ s).mono (by simp)
    refine first.trans ?_
    show Keeps [.en, .hi] (unasked s) (runCmd 0x0D01 t (fun e u => answer e status [] u) (unasked s))
    unfold runCmd
    split
    · exact (answer_keeps _ _ _ _).mono (by simp)
    · exact Keeps.refl _ _
  next => exact Keeps.refl _ s

section
variable {s : State} {tag : W16} {e : Exec} (runs : executing 0x0D02 tag s = some e) (zeros : payZero e 0 48 = true)
include runs zeros

theorem exec_ensBreak : exec (.ensBreak tag) s = .next (checked
    [(s.en.state == .standalone || (formed s && !s.en.leader), eState), (formed s && !e.idle, eBusy)] e
    (fun t => answer e eOk [] (breakLocal (formAnswer eState (broken (if formed t then msgDown .breakMsg t else t))))) s) := by
  show Host.Outcome.next (runCmd 0x0D02 tag ensBreakCmd s) = _
  rw [runCmd_some runs, ensBreakCmd, checked_pass (by rw [zeros]; rfl)]

theorem ensBreak_refused (not_ : s.en.state = .standalone ∨ (formed s = true ∧ s.en.leader = false)) :
    exec (.ensBreak tag) s = .next (answer e 6 [] s) := by
  have fails : (s.en.state == .standalone || (formed s && !s.en.leader)) = true := by
    rw [Bool.or_eq_true, Bool.and_eq_true, Bool.not_eq_true']
    exact not_.imp_left beq_iff_eq.mpr
  rw [exec_ensBreak runs zeros, checked_fail fails]
  rfl

theorem ensBreak_busy (member : formed s = true) (leads : s.en.leader = true) (busy : e.idle = false) :
    exec (.ensBreak tag) s = .next (answer e 5 [] s) := by
  have passes : (s.en.state == .standalone || (formed s && !s.en.leader)) = false := by
    rw [member, leads, beq_iff_eq.mp member]
    rfl
  have fails : (formed s && !e.idle) = true := by
    rw [member, busy]
    rfl
  rw [exec_ensBreak runs zeros, checked_pass passes, checked_fail fails]
  rfl

theorem ensBreak_breaks (active : s.en.state ≠ .standalone) (idle : formed s = true → s.en.leader = true ∧ e.idle = true)
    (none_ : s.en.formTag = none) :
    ∃ t, exec (.ensBreak tag) s = .next t ∧ Replied e 0 [] s t ∧ t.en = { tx := t.en.tx } ∧ Keeps [.en, .hi, .mg] s t := by
  have passes : (s.en.state == .standalone || (formed s && !s.en.leader)) = false := by
    rw [beq_false_of_ne active]
    cases member : formed s
    · rfl
    · rw [(idle member).1]
      rfl
  have starts : (formed s && !e.idle) = false := by
    cases member : formed s
    · rfl
    · rw [(idle member).2]
      rfl
  have row := exec_ensBreak runs zeros
  rw [checked_pass passes, checked_pass starts, checked_nil] at row
  obtain ⟨ports, tx, link⟩ : ∃ ports tx, (if formed s then msgDown .breakMsg s else s) = withLink ports tx s := by
    split
    · exact msgDown_link .breakMsg s
    · exact ⟨s.en.ports, s.en.tx, rfl⟩
  have en : (broken (withLink ports tx s)).en = (withLink ports tx s).en := by simp [broken]
  have quiet : logless (broken (withLink ports tx s)) = logless s := issue_logless _ _ _
  rw [link, formAnswer_none ((congrArg EN.formTag en).trans none_)] at row
  have reply : Replied e 0 [] s (answer e eOk [] (breakLocal (broken (withLink ports tx s)))) := answer_replied e 0 [] (quiet.trans rfl)
  refine ⟨_, row, reply, rfl, ?_⟩
  exact ((((withLink_keeps ports tx s).mono (by simp)).trans
    ((issue_keeps _ _ _).mono (by simp) : Keeps [.en, .hi, .mg] _ (broken (withLink ports tx s)))).trans
    ((setEn_keeps _ _).mono (by simp) : Keeps [.en, .hi, .mg] _ (breakLocal (broken (withLink ports tx s))))).trans
      ((answer_keeps e _ [] _).mono (by simp))

end

theorem breakMessage_clause {s : State} (active : s.en.state ≠ .standalone) :
    ∃ t, exec .breakMessage s = .next t ∧ t.en = { tx := t.en.tx } ∧ Keeps [.en, .hi, .mg] s t := by
  have row : exec .breakMessage s = .next (breakLocal (if s.en.state = .forming then formAnswer eTimeout (msgDown .breakMsg (goodData 0 s))
      else broken (msgDown .breakMsg (goodData 0 s)))) := congrArg Host.Outcome.next (if_neg active)
  obtain ⟨ports, tx, first, -⟩ := goodData_link 0 s
  obtain ⟨ports', tx', link⟩ := msgDown_link .breakMsg (withLink ports tx s)
  rw [first, link] at row
  have linked : Keeps [.en, .hi, .mg] s (withLink ports' tx' (withLink ports tx s)) :=
    ((withLink_keeps ports tx s).trans (withLink_keeps ports' tx' _)).mono (by simp)
  generalize withLink ports' tx' (withLink ports tx s) = w at row linked
  have keeps : Keeps [.en, .hi, .mg] w (if s.en.state = .forming then formAnswer eTimeout w else broken w) := by
    split
    · exact (formAnswer_keeps eTimeout w).mono (by simp)
    · exact (issue_keeps _ _ w).mono (by simp)
  generalize (if s.en.state = .forming then formAnswer eTimeout w else broken w) = v at row keeps
  exact ⟨_, row, rfl, (linked.trans keeps).trans ((setEn_keeps _ v).mono (by simp))⟩

end Sys2Proof.Machine

open Sys2Proof Sys2Proof.Machine

/-- Settles O43: each way out of an ensemble by its row, and the discords by what every discord leaves. -/
theorem ensembleBreaksAndDiscords : Obligations.ensembleBreaksAndDiscords := by
  refine ⟨fun s tag e runs zeros => ⟨fun not_ => ?_, ensBreak_breaks runs zeros, fun member leads busy => ?_⟩,
    fun s => ⟨fun alone => congrArg Host.Outcome.next (if_pos alone), breakMessage_clause⟩, fun s p up member free small first => ?_,
    fun s p => ⟨fun down => ⟨?_, exec_mgmtRetransmit_idle down⟩, retransmit_clause s p, ack_clause s p⟩,
    fun s => ⟨exec_syncProbeSend_none, fun active aligned => ?_⟩,
    fun s time active member up => ⟨fun unaligned small => ?_, fun aligned none_ => ?_⟩,
    fun s count active member due => ⟨fun low high => ?_, fun outside isFormed => ?_⟩,
    fun s p b r first => ⟨discordBurst_leader first, discordBurst_member first⟩, fun s at_ m c park => ?_⟩
  · exact ⟨_, ensBreak_refused runs zeros not_, answer_answered e 6 [] s, answer_keeps e 6 [] s⟩
  · exact ⟨_, ensBreak_busy runs zeros member leads busy, answer_answered e 5 [] s, answer_keeps e 5 [] s⟩
  · exact ⟨⟨_, rfl, portDown_lost 0 up member free small first⟩, fun some_ spent => lostAfterRetries up some_ spent member free small first⟩
  · exact congrArg Host.Outcome.next (portDown_down down)
  · intro u
    have row := exec_syncProbeSend active aligned
    rw [foldl_probes, show probeDue s = u from probeDue_eq s] at row
    exact row
  · obtain ⟨time_, low, high, edge⟩ := alignTo_time (t := time + 196608) (by omega) s
    exact ⟨_, exec_syncProbe_aligns active member up unaligned, rfl, time_.trans (by push_cast; rfl), low, high, edge, alignTo_keeps _ s⟩
  · exact track_clause active member up aligned none_ rfl
  · have row := exec_refclkCountCheck (count := count) active member due
    rwa [if_neg (by omega)] at row
  · have row := exec_refclkCountCheck (count := count) active member due
    rw [if_pos (by omega)] at row
    obtain ⟨contained, discorded, -⟩ := discord_formed (s := withProbes (s.en.probes - 4096) s) 2 0 0 ((formed_withProbes _ s).trans isFormed)
    exact ⟨_, row, contained, discorded⟩
  · intro u free member
    have row := exec_haltBurstParkAtime park
    have en := contain_discord_en (withPark none u)
    have free' : (withPark none u).mg.contained = false := free
    rw [if_pos ((congrArg EN.state en).trans member)] at row
    have record := recordDiscord_en c m 0 0 (contain 0x0B (withPark none u))
    refine ⟨_, row, (recordDiscord_contained _ _ _ _ _).trans (contain_contained _ _), ?_, congrArg EN.state record,
      (congrArg EN.parkAt record).trans (congrArg EN.parkAt en)⟩
    exact recordDiscord_parked (contain_parked 0x0B free') _ _ _ _

end

section
/-! SUPPORT. Control slots (R342, R353), bursts that act at their release or at their time (R355, R356, R358), the arm check and its
decision, and the reports of the members; the statement on them. -/

namespace Sys2Proof.Machine

open Sys2Proof

/-! ### Control slots (R353) -/

section
variable {s : State} {p : Port} {c : CtlSlot}

theorem exec_hargoControlSlot_down (down : s.en.ports[p].up = false) : exec (.hargoControlSlot p c) s = .next s :=
  congrArg Host.Outcome.next (if_pos (Bool.eq_false_iff.mp down))

theorem exec_hargoControlSlot_good (up : s.en.ports[p].up = true) (good : slotGood c = true) :
    exec (.hargoControlSlot p c) s = .next (goodSlot p c.bytes s) :=
  congrArg Host.Outcome.next ((if_neg (not_not.mpr up)).trans (if_pos good))

theorem exec_hargoControlSlot_bad (up : s.en.ports[p].up = true) (bad : slotGood c = false) :
    exec (.hargoControlSlot p c) s = .next (badSlot p s) :=
  congrArg Host.Outcome.next ((if_neg (not_not.mpr up)).trans (if_neg (Bool.eq_false_iff.mp bad)))

theorem slotGood_headers (apart : c.sync0 ≠ 2 ∨ c.sync1 ≠ 2) : slotGood c = false := by
  rw [slotGood]
  obtain h | h := apart
  · rw [beq_false_of_ne h]
    rfl
  · rw [beq_false_of_ne h, Bool.and_false]
    rfl

end

/-- A port after a good slot, and after a bad one. -/
def goodRun (q : HPort) : HPort := { q with badRun := 0, badCtl := 0 }

def badRun (n m : Nat) (q : HPort) : HPort := { q with badRun := n, badCtl := m }

/-- A burst with the next pair number waits for its release. -/
theorem goodSlot_next {p : Port} {l : List Byte} {s : State} (burst : 0x10 ≤ slotType l)
    (next : fieldAt l 2 2 = (s.en.ports[p].rxSeq + 1) % 65536) : ∃ t, goodSlot p l s = t
      ∧ t.en.rx = s.en.rx ++ [(p, slotBurst l, releaseAt p (fieldAt l 1 1 % 2) s)] ∧ t.en.ports[p].rxSeq = fieldAt l 2 2
      ∧ t.en.ports[p].badRun = 0 ∧ t.en.ports[p].badCtl = 0 ∧ Keeps [.en] s t := by
  have near : gapAhead s.en.ports[p].rxSeq (fieldAt l 2 2) = false := by
    rw [gapAhead]
    exact decide_eq_false (by omega)
  have idle : ¬(slotType l = 2 ∨ slotType l = 3) := by omega
  obtain ⟨u, hu⟩ : ∃ u, u = updPort p (fun q => { q with rxSeq := fieldAt l 2 2 }) (updPort p goodRun s) := ⟨_, rfl⟩
  have eq : goodSlot p l s = { u with en := { u.en with rx := u.en.rx ++ [(p, slotBurst l, releaseAt p (fieldAt l 1 1 % 2) s)] } } := by
    rw [goodSlot]
    dsimp only
    rw [if_neg idle, if_neg (Bool.eq_false_iff.mp near), if_pos ⟨burst, next⟩, hu]
    rfl
  have self : u.en.ports[p] = { goodRun s.en.ports[p] with rxSeq := fieldAt l 2 2 } := by
    rw [hu, updPort_self, updPort_self]
  have rx : u.en.rx = s.en.rx := by rw [hu]; rfl
  have keeps : Keeps [.en] s u := by
    rw [hu]
    exact (updPort_keeps p goodRun s).trans (updPort_keeps p _ _)
  refine ⟨_, eq, ?_, congrArg HPort.rxSeq self, congrArg HPort.badRun self, congrArg HPort.badCtl self, keeps.trans (setEn_keeps _ u)⟩
  rw [rx]

/-- The second copy of a burst. -/
theorem goodSlot_again {p : Port} {l : List Byte} {s : State} (burst : 0x10 ≤ slotType l) (same : fieldAt l 2 2 = s.en.ports[p].rxSeq) :
    goodSlot p l s = updPort p goodRun s := by
  have near : gapAhead s.en.ports[p].rxSeq (fieldAt l 2 2) = false := by
    rw [gapAhead]
    exact decide_eq_false (by omega)
  have idle : ¬(slotType l = 2 ∨ slotType l = 3) := by omega
  have old : ¬(0x10 ≤ slotType l ∧ fieldAt l 2 2 = (s.en.ports[p].rxSeq + 1) % 65536) := by omega
  rw [goodSlot]
  dsimp only
  rw [if_neg idle, if_neg (Bool.eq_false_iff.mp near), if_neg old]
  rfl

/-- A port that has had a bad slot more. -/
def oneMoreBad (p : Port) (s : State) : State := updPort p (badRun (s.en.ports[p].badRun + 1) (s.en.ports[p].badCtl + 1)) s

theorem oneMoreBad_facts (p : Port) (s : State) : (oneMoreBad p s).en.ports[p] = badRun (s.en.ports[p].badRun + 1) (s.en.ports[p].badCtl + 1) s.en.ports[p]
    ∧ (oneMoreBad p s).en.rx = s.en.rx ∧ formed (oneMoreBad p s) = formed s ∧ Keeps [.en] s (oneMoreBad p s) :=
  ⟨updPort_self p _ s, rfl, rfl, updPort_keeps p _ s⟩

theorem badSlot_eq (p : Port) (s : State) : badSlot p s = if 3 ≤ s.en.ports[p].badRun then
    portDown p 1 (if 1 ≤ s.en.ports[p].badCtl then discord 3 p.val 1 (oneMoreBad p s) else oneMoreBad p s)
  else if 1 ≤ s.en.ports[p].badCtl then discord 3 p.val 1 (oneMoreBad p s) else oneMoreBad p s := rfl

/-- The fourth bad slot in a row puts the port down, in a discord. -/
theorem badSlot_downs {p : Port} {s : State} (up : s.en.ports[p].up = true) (long : 3 ≤ s.en.ports[p].badRun) (member : formed s = true) :
    (badSlot p s).en.ports[p].up = false ∧ (badSlot p s).mg.contained = true ∧ (badSlot p s).en.rx = s.en.rx.filter fun x => x.1 != p := by
  obtain ⟨port, rx, same, -⟩ := oneMoreBad_facts p s
  have up' : (oneMoreBad p s).en.ports[p].up = true := by rw [port]; exact up
  rw [badSlot_eq, if_pos long]
  by_cases two : 1 ≤ s.en.ports[p].badCtl
  · obtain ⟨contained, state, rx', ups, -⟩ := discord_formed (s := oneMoreBad p s) 3 p.val 1 (same.trans member)
    rw [if_pos two]
    generalize discord 3 p.val 1 (oneMoreBad p s) = u at contained state rx' ups
    obtain ⟨off, kept, -, -, lost, mg⟩ := portOff_en p u
    obtain ⟨w, hw⟩ : ∃ w, w = issue 0x0D06 [i1 p.val, i1 1] (portOff p u) := ⟨_, rfl⟩
    have en : w.en = (portOff p u).en := by rw [hw]; simp
    have outside : ¬formed w = true := by
      rw [formed, en, kept, state]
      decide
    rw [portDown_up ((ups p).trans up'), ← hw, discord, if_neg outside, en, lost, rx', rx]
    refine ⟨off, ?_, rfl⟩
    rw [hw, issue_contained, mg]
    exact contained
  · obtain ⟨off, contained, -, lost, -⟩ := portDown_formed 1 up' (same.trans member)
    rw [if_neg two]
    exact ⟨off, contained, lost.trans (by rw [rx])⟩

/-! ### Bursts that act at once (R353, R354) -/

/-- A downstream burst in time acts on a state in which only the link and the list of accepted bursts have changed. -/
theorem onDown_state {t : Nat} {p : Port} {b : Burst} {r : Nat} {s : State} (first : firstBurst t s = some (p, b, r))
    (f : Burst → Nat → State → State)
    (early : ensTime (toTime r s) ≤ nearTime (toTime r s) b.atime) : ∃ w, onDown t f s = f b (nearTime (toTime r s) b.atime).toNat w
      ∧ w.sq = s.sq ∧ ext w = ext (toTime r s) ∧ w.en.rx = (toTime r s).en.rx.erase (p, b, r) ∧ Keeps [.en] (toTime r s) w := by
  obtain ⟨ports, tx, eq⟩ := onDown_acts first f early
  have sq : (toTime r s).sq = s.sq := by simp
  generalize toTime r s = u at eq sq early ⊢
  exact ⟨_, eq, sq, rfl, rfl, (setEn_keeps _ u).trans (withLink_keeps ports tx _)⟩

/-- A halt, or an abort, that waits for its time. -/
def haltSet (at_ : Nat) (s : State) : State := { s with sq := { s.sq with pendHalt := true, pendAt := at_ } }

def abortSet (at_ : Nat) (s : State) : State :=
  { s with sq := { s.sq with pendAbort := true, pendHalt := false, pendSof := false, pendAt := at_ } }

/-- Before its time, or in a run, what has been asked for only waits. -/
theorem stopNow_waits {s : State} (later : s.sq.state = .running ∨ ext s < s.sq.pendAt) : stopNow s = s := by
  refine if_neg fun ⟨outside, due⟩ => ?_
  obtain running | later := later
  · exact outside running
  · rw [stopDue, Bool.and_eq_true, decide_eq_true_eq] at due
    exact Nat.not_le.mpr later due.2

theorem haltNow_sets {at_ : Nat} {s : State} (inside : s.sq.state = .running ∨ (s.sq.state = .arming ∨ s.sq.state = .armed) ∧ ext s < at_)
    (abort : s.sq.pendAbort = false) (halt : s.sq.pendHalt = false) : haltNow at_ s = haltSet at_ s := by
  have asks : haltNow at_ s = stopNow (haltSet at_ s) := by
    have free : ¬(s.sq.pendAbort = true ∨ s.sq.pendHalt = true) := not_or.mpr ⟨Bool.eq_false_iff.mp abort, Bool.eq_false_iff.mp halt⟩
    obtain state | ⟨state | state, -⟩ := inside
    · rw [haltNow, state]
      exact if_neg free
    · rw [haltNow, state]
      exact if_neg free
    · rw [haltNow, state]
      exact if_neg free
  rw [asks]
  exact stopNow_waits (s := haltSet at_ s) (inside.imp_right And.right)

theorem haltNow_ignored {at_ : Nat} {s : State}
    (ignored : s.sq.pendAbort = true ∨ s.sq.pendHalt = true ∨ s.sq.state = .idle ∨ s.sq.state = .draining) : haltNow at_ s = s := by
  unfold haltNow
  split
  · rfl
  · rfl
  next noIdle noDrain =>
    have asked_ : s.sq.pendAbort = true ∨ s.sq.pendHalt = true := by
      obtain h | h | h | h := ignored
      · exact .inl h
      · exact .inr h
      · exact absurd h noIdle
      · exact absurd h noDrain
    exact if_pos asked_

theorem abortNow_sets {at_ : Nat} {s : State} (active : s.sq.state ≠ .idle) (later : s.sq.state = .running ∨ ext s < at_)
    (abort : s.sq.pendAbort = false) : abortNow at_ s = abortSet at_ s := by
  have asks : abortNow at_ s = stopNow (abortSet at_ s) := if_neg (not_or.mpr ⟨active, Bool.eq_false_iff.mp abort⟩)
  rw [asks]
  exact stopNow_waits (s := abortSet at_ s) later

theorem abortNow_ignored {at_ : Nat} {s : State} (ignored : s.sq.pendAbort = true ∨ s.sq.state = .idle) : abortNow at_ s = s :=
  if_pos ignored.symm

theorem setSq_en_keeps {u w : State} (keeps : Keeps [.en] u w) (q : SQ) : Keeps [.sq, .en] u { w with sq := q } :=
  (keeps.mono (by simp)).trans ((setSq_keeps q w).mono (by simp))

section
variable {s : State} {p : Port} {b : Burst} {r : Nat}

/-- The `HALT` bursts (R355). -/
theorem haltBurst_clause (first : firstBurst 0x14 s = some (p, b, r)) (early : ensTime (toTime r s) ≤ nearTime (toTime r s) b.atime) :
    let u := toTime r s
    let at_ := nearTime u b.atime
    (b.aux % 4 = 0 → (s.sq.state = .running ∨ (s.sq.state = .arming ∨ s.sq.state = .armed) ∧ ext u < at_) →
        s.sq.pendAbort = false → s.sq.pendHalt = false → ∃ t, exec .haltBurst s = .next t
          ∧ t.sq = { s.sq with pendHalt := true, pendAt := at_.toNat } ∧ Keeps [.sq, .en] u t)
      ∧ (b.aux % 4 = 0 → (s.sq.pendAbort = true ∨ s.sq.pendHalt = true ∨ s.sq.state = .idle ∨ s.sq.state = .draining) →
          ∃ t, exec .haltBurst s = .next t ∧ t.en.rx = u.en.rx.erase (p, b, r) ∧ Keeps [.en] u t)
      ∧ (b.aux % 4 = 1 → (s.sq.pendAbort = true ∨ s.sq.state = .idle) →
          ∃ t, exec .haltBurst s = .next t ∧ t.en.rx = u.en.rx.erase (p, b, r) ∧ Keeps [.en] u t)
      ∧ (b.aux % 4 = 1 → s.sq.state ≠ .idle → (s.sq.state = .running ∨ ext u < at_) → s.sq.pendAbort = false →
          ∃ t, exec .haltBurst s = .next t
          ∧ t.sq = { s.sq with pendAbort := true, pendHalt := false, pendSof := false, pendAt := at_.toNat } ∧ Keeps [.sq, .en] u t)
      ∧ (b.aux % 4 = 2 → ∃ t, exec .haltBurst s = .next t
          ∧ t.en.parkAt = some (at_.toNat, fieldAt b.payload 0 1, fieldAt b.payload 1 1) ∧ Keeps [.en] u t) := by
  intro u at_
  obtain ⟨w, acts, sq, time, rx, keeps⟩ := onDown_state first haltAct early
  have row : exec .haltBurst s = .next (haltAct b at_.toNat w) := congrArg Host.Outcome.next acts
  have before (h : (ext (toTime r s) : Int) < nearTime (toTime r s) b.atime) : ext w < (nearTime (toTime r s) b.atime).toNat := by
    rw [time]
    omega
  rw [← sq]
  refine ⟨fun kind inside abort halt => ?_, fun kind ignored => ?_, fun kind ignored => ?_, fun kind active later abort => ?_, fun kind => ?_⟩
  · rw [haltAct, kind] at row
    exact ⟨_, row.trans (congrArg _ (haltNow_sets (inside.imp_right fun h => ⟨h.1, before h.2⟩) abort halt)), rfl, setSq_en_keeps keeps _⟩
  · rw [haltAct, kind] at row
    exact ⟨_, row.trans (congrArg _ (haltNow_ignored ignored)), rx, keeps⟩
  · rw [haltAct, kind] at row
    exact ⟨_, row.trans (congrArg _ (abortNow_ignored ignored)), rx, keeps⟩
  · rw [haltAct, kind] at row
    exact ⟨_, row.trans (congrArg _ (abortNow_sets active (later.imp_right before) abort)), rfl, setSq_en_keeps keeps _⟩
  · rw [haltAct, kind] at row
    exact ⟨_, row, rfl, keeps.trans (setEn_keeps _ w)⟩

theorem exec_haltreqBurst (first : firstBurst 0x16 s = some (p, b, r)) :
    exec .haltreqBurst s = .next (haltreqAct p b (releasedBurst (p, b, r) (toTime r s))) :=
  congrArg Host.Outcome.next (onBurst_first first haltreqAct)

/-- A `HALTREQ` at the leader (R355). -/
theorem haltreqBurst_leader (first : firstBurst 0x16 s = some (p, b, r)) (leads : s.en.leader = true) (member : formed s = true)
    (run : s.sq.state = .running) (abort : s.sq.pendAbort = false) (halt : s.sq.pendHalt = false) (kind : b.aux % 4 ≠ 1) :
    ∃ t, exec .haltreqBurst s = .next t ∧ t.sq = { s.sq with pendHalt := true, pendAt := ext (toTime r s) + 1179648 }
      ∧ Keeps [.sq, .en] (toTime r s) t := by
  have row := exec_haltreqBurst first
  have en : (toTime r s).en = s.en := by simp
  have sq : (toTime r s).sq = s.sq := by simp
  generalize toTime r s = u at row en sq ⊢
  obtain ⟨w, hw⟩ : ∃ w, w = releasedBurst (p, b, r) u := ⟨_, rfl⟩
  have facts : w.en.leader = true ∧ formed w = true ∧ w.sq = s.sq ∧ ext w = ext u ∧ Keeps [.en] u w := by
    rw [hw]
    exact ⟨(congrArg EN.leader en :).trans leads, (congrArg (fun e : EN => e.state == .formed) en :).trans member, sq, rfl, setEn_keeps _ u⟩
  obtain ⟨leads', member', sq', time, keeps⟩ := facts
  rw [← hw, haltreqAct, if_pos leads', if_pos member', if_neg kind, haltEnsemble, if_pos leads'] at row
  obtain ⟨ports, tx, link, -⟩ := burstDown_link (haltBurst 0 (fieldAt b.payload 0 1) 0 w) w
  have sets := haltNow_sets (at_ := ext w + burstLead) (s := withLink ports tx w) (.inl ((congrArg SQ.state sq').trans run))
    ((congrArg SQ.pendAbort sq').trans abort) ((congrArg SQ.pendHalt sq').trans halt)
  have halts : exec .haltreqBurst s = .next (haltNow (ext w + burstLead) (burstDown (haltBurst 0 (fieldAt b.payload 0 1) 0 w) w)) := row
  rw [link, sets] at halts
  refine ⟨_, halts, ?_, setSq_en_keeps (keeps.trans (withLink_keeps ports tx w)) _⟩
  show ({ w.sq with pendHalt := true, pendAt := ext w + burstLead } : SQ) = _
  rw [sq', time]
  rfl

/-- A `HALTREQ` on its way up. -/
theorem haltreqBurst_member (first : firstBurst 0x16 s = some (p, b, r)) (member : s.en.leader = false) : ∃ t, exec .haltreqBurst s = .next t
    ∧ t.en.rx = (toTime r s).en.rx.erase (p, b, r) ∧ Keeps [.en] (toTime r s) t ∧ t.en.tx = s.en.tx
      ++ (if s.en.ports[(0 : Port)].up then [((0 : Port), .burst ((s.en.ports[(0 : Port)].txSeq + 1) % 65536) b)] else []) := by
  have row := exec_haltreqBurst first
  have en : (toTime r s).en = s.en := by simp
  generalize toTime r s = u at row en ⊢
  have not_ : ¬(releasedBurst (p, b, r) u).en.leader = true := fun leads =>
    Bool.false_ne_true (((congrArg EN.leader en).trans member).symm.trans leads)
  rw [haltreqAct, if_neg not_, burstUp] at row
  have sent := enBurst_tx b (releasedBurst (p, b, r) u) 0
  obtain ⟨ports, tx, link, -⟩ := enBurst_link b (releasedBurst (p, b, r) u) 0
  refine ⟨_, row, ?_, ?_, sent.trans ?_⟩
  · rw [link]
    rfl
  · rw [link]
    exact (setEn_keeps _ u).trans (withLink_keeps ports tx _)
  · show u.en.tx ++ (if u.en.ports[(0 : Port)].up then [((0 : Port), TxMsg.burst ((u.en.ports[(0 : Port)].txSeq + 1) % 65536) b)] else []) = _
    rw [en]

end

/-! ### Bursts that act at their time (R356, R358) -/

/-- No arm is set any more. -/
def armTaken (s : State) : State := { s with en := { s.en with armAt := none, armAsked := none } }

theorem exec_armBurstAtime {s : State} {at_ : Nat} (set_ : s.en.armAt = some at_) : exec .armBurstAtime s
    = .next (if running (toEns at_ s) ∨ (toEns at_ s).mg.contained ∨ armHeldOff (toEns at_ s) ∨ ¬timeBaseReady (toEns at_ s)
      then armTaken (toEns at_ s) else armEffect true (armTaken (toEns at_ s))) := by
  show Host.Outcome.next (armAtTime s) = _
  rw [armAtTime, set_]
  rfl

theorem clearEpoch_en (ensemble : Bool) (s : State) : (clearEpoch ensemble s).en = s.en := by
  have said (code : Nat) (items : List Item) (t : State) : (issue code items t).en = t.en := by simp
  have closed : (closeEpoch (flushAll s)).en = s.en := by simp
  have marked (n : Nat) (t : State) : (shiftTimes (clearMark n t)).en = t.en := by
    have mark (kind key : Nat) (w : W64) (u : State) : (epochMark kind key w u).en = u.en := by simp
    exact mark _ _ _ _
  obtain ⟨n, count⟩ : ∃ n, n = (s.hi.armSeq + 1) % 2 ^ 32 := ⟨_, rfl⟩
  rw [clearEpoch, ← count]
  dsimp only
  rw [said]
  dsimp only
  rw [marked, closed]

theorem clearEpoch_armSeq (ensemble : Bool) (s : State) : (clearEpoch ensemble s).hi.armSeq = (s.hi.armSeq + 1) % 2 ^ 32 :=
  issue_reg (f := HI.armSeq) (fun _ => rfl) _ _ _

theorem armEffect_clears (ensemble : Bool) (s : State) : (armEffect ensemble s).tb.epoch = 0 ∧ (armEffect ensemble s).tb.wraps = 0
    ∧ (armEffect ensemble s).tb.epochValid = true ∧ (armEffect ensemble s).sq.state = .arming
    ∧ (armEffect ensemble s).hi.armSeq = (s.hi.armSeq + 1) % 2 ^ 32 ∧ (armEffect ensemble s).en.armAt = s.en.armAt := by
  have tb : (armEffect ensemble s).tb = (clearEpoch ensemble s).tb := rfl
  have hi : (armEffect ensemble s).hi = (clearEpoch ensemble s).hi := rfl
  have armAt : (armEffect ensemble s).en.armAt = (clearEpoch ensemble s).en.armAt := rfl
  rw [tb, hi, armAt, clearEpoch_en, clearEpoch_armSeq, clearEpoch_tb]
  exact ⟨rfl, rfl, rfl, rfl, rfl, rfl⟩

theorem exec_goBurstAtime {s : State} {at_ : Nat} (set_ : s.en.goAt = some at_) : exec .goBurstAtime s
    = .next (if (toEns at_ s).sq.state = .armed then goAt at_ { toEns at_ s with en := { (toEns at_ s).en with goAt := none } }
      else { toEns at_ s with en := { (toEns at_ s).en with goAt := none } }) := by
  show Host.Outcome.next (goAtTime s) = _
  rw [goAtTime, set_]

/-! ### The arm check (R356) -/

theorem issueFailures_facts (l : List (Nat × List Item)) (s : State) : (issueFailures l s).en = s.en ∧ (issueFailures l s).tb = s.tb
    ∧ Keeps [.hi, .mg] s (issueFailures l s) :=
  ⟨by simp [issueFailures], issueFailures_tb l s, 
    foldl_partKeeps (f := fun t (x : Nat × List Item) => issue x.1 x.2 t) (m := [.hi, .mg]) (fun t x => issue_keeps x.1 x.2 t) l s⟩

/-- Messages down the tree leave the port to the leader. -/
theorem msgDown_up (m : Mgmt) (s : State) : (msgDown m s).en.ports[(0 : Port)] = s.en.ports[(0 : Port)] := by
  rw [msgDown, List.foldl_cons, List.foldl_cons, List.foldl_cons, List.foldl_nil, enMsg_other m _ (by decide), enMsg_other m _ (by decide),
    enMsg_other m _ (by decide)]

theorem armCheckRequest_clause (s : State) (member : formed s = true) (follows : s.en.leader = false) (up : s.en.ports[(0 : Port)].up = true) :
    ∃ t r, exec .armCheckRequest s = .next t ∧ t.en.tx.getLast? = some ((0 : Port), .data (s.en.ports[(0 : Port)].txData + 1) (.armReply r))
      ∧ t.en.armAsked = some s.tb.now ∧ r.member = s.en.member ∧ r.imageId = s.sq.imageId ∧ r.crc = s.sq.imgCrc ∧ r.ptCrc = s.pt.crc
      ∧ (r.pass = true ↔ armFailures s = [] ∧ armUnready s = false) ∧ Keeps [.en, .hi, .mg] s t := by
  have inside : ¬(¬formed s = true ∨ s.en.leader = true) :=
    not_or.mpr ⟨not_not.mpr member, fun leads => Bool.false_ne_true (follows.symm.trans leads)⟩
  have row : exec .armCheckRequest s = .next (enMsg (.armReply (ownReply ((armFailures s).isEmpty && !armUnready s) s))
      { issueFailures (armFailures s) (msgDown .armCheck (goodData 0 s)) with
        en := { (issueFailures (armFailures s) (msgDown .armCheck (goodData 0 s))).en with
          armAsked := some (issueFailures (armFailures s) (msgDown .armCheck (goodData 0 s))).tb.now } } 0) :=
    congrArg Host.Outcome.next (if_neg inside)
  obtain ⟨p1, x1, link1, same1⟩ := goodData_link 0 s
  obtain ⟨p2, x2, link2⟩ := msgDown_link .armCheck (goodData 0 s)
  have port : (msgDown .armCheck (goodData 0 s)).en.ports[(0 : Port)].up = true
      ∧ (msgDown .armCheck (goodData 0 s)).en.ports[(0 : Port)].txData = s.en.ports[(0 : Port)].txData := by
    rw [msgDown_up, link1]
    exact ⟨(same1 0).1.trans up, (same1 0).2⟩
  have time : (msgDown .armCheck (goodData 0 s)).tb = s.tb := by rw [link2, link1]; rfl
  have linked : Keeps [.en] s (msgDown .armCheck (goodData 0 s)) := by
    rw [link2, link1]
    exact (withLink_keeps p1 x1 s).trans (withLink_keeps p2 x2 _)
  obtain ⟨en, tb, told⟩ := issueFailures_facts (armFailures s) (msgDown .armCheck (goodData 0 s))
  obtain ⟨w, hw⟩ : ∃ w, w = issueFailures (armFailures s) (msgDown .armCheck (goodData 0 s)) := ⟨_, rfl⟩
  obtain ⟨v, hv⟩ : ∃ v : State, v = { w with en := { w.en with armAsked := some w.tb.now } } := ⟨_, rfl⟩
  rw [← hw] at row en tb told
  have vport : v.en.ports[(0 : Port)].up = true ∧ v.en.ports[(0 : Port)].txData = s.en.ports[(0 : Port)].txData := by
    have ports : v.en.ports = (msgDown .armCheck (goodData 0 s)).en.ports := by
      have same := congrArg EN.ports en
      rw [hv]
      exact same
    rw [ports]
    exact port
  have vtime : v.en.armAsked = some s.tb.now := by
    rw [hv, ← time, ← tb]
  have keeps : Keeps [.en, .hi, .mg] s v := by
    rw [hv]
    exact ((linked.mono (by simp)).trans (told.mono (by simp))).trans ((setEn_keeps _ w).mono (by simp))
  rw [← hv, enMsg_up vport.1, vport.2] at row
  refine ⟨_, _, row, List.getLast?_concat, vtime, rfl, rfl, rfl, rfl, ?_, keeps.trans ((withLink_keeps _ _ v).mono (by simp))⟩
  show ((armFailures s).isEmpty && !armUnready s) = true ↔ _
  rw [Bool.and_eq_true, List.isEmpty_iff, Bool.not_eq_true']

/-! ### The leader's decision (R356) -/

/-- A member that passes has replied. -/
theorem memberCase_replied {s : State} {m : Nat} (other : s.en.member ≠ m) (passes : memberCase s m = none) :
    (s.en.replies.any fun x => x.member == m) = true := by
  rw [memberCase] at passes
  have own : ¬((fun r : ArmReply => decide (r.member = m)) (ownReply true s)) = true := fun h => other (of_decide_eq_true h)
  rw [List.find?_cons_of_neg (p := fun r : ArmReply => decide (r.member = m)) own] at passes
  cases found : s.en.replies.find? fun x => decide (x.member = m) with
  | none =>
    rw [found] at passes
    exact absurd passes (Option.some_ne_none _)
  | some x => exact List.any_eq_true.mpr ⟨x, List.mem_of_find?_eq_some found,
      beq_iff_eq.mpr (of_decide_eq_true (List.find?_some (p := fun x : ArmReply => decide (x.member = m)) found))⟩

/-- The members that fail, differ or are missing. -/
def badMembers (s : State) : List (Nat × Nat) := (List.range s.en.members).filterMap fun m => (memberCase s m).map fun c => (m, c)

theorem badMembers_nil {s : State} (all : ∀ m, m < s.en.members → memberCase s m = none) : badMembers s = [] :=
  List.filterMap_eq_nil_iff.mpr fun m mem => by rw [all m (List.mem_range.mp mem)]; rfl

theorem badMembers_ne_nil {s : State} (one : ∃ m, m < s.en.members ∧ memberCase s m ≠ none) : badMembers s ≠ [] := by
  obtain ⟨m, few, bad⟩ := one
  obtain ⟨c, case_⟩ := Option.ne_none_iff_exists'.mp bad
  refine List.ne_nil_of_mem (a := (m, c)) (List.mem_filterMap.mpr ⟨m, List.mem_range.mpr few, ?_⟩)
  rw [case_]
  rfl

theorem armDecide_passes {s : State} (all : ∀ m, m < s.en.members → memberCase s m = none) : armDecide s = sendArm s := by
  have none_ : (List.range s.en.members).filterMap (fun m => (memberCase s m).map fun c => (m, c)) = [] := badMembers_nil all
  rw [armDecide]
  dsimp only
  rw [none_]

/-- The leader no longer waits, and names the members that failed. -/
def armFailed (mask : Nat) (s : State) : State :=
  { s with en := { s.en with armWait := false, armAsked := none, mismatch := BitVec.ofNat 64 mask } }

theorem armDecide_refuses {s : State} (one : ∃ m, m < s.en.members ∧ memberCase s m ≠ none) :
    ∃ items mask, armDecide s = refuseRunCtl 1 6 0x0D03 (issue 0x0D03 items (armFailed mask s)) := by
  obtain ⟨x, l, bad⟩ : ∃ x l, badMembers s = x :: l := List.exists_cons_of_ne_nil (badMembers_ne_nil one)
  have bad_ : (List.range s.en.members).filterMap (fun m => (memberCase s m).map fun c => (m, c)) = x :: l := bad
  rw [armDecide]
  dsimp only
  rw [bad_]
  exact ⟨_, _, rfl⟩

theorem refuseRunCtl_says (event : Nat) (s : State) : (refuseRunCtl 1 6 event s).hi.armRef = true ∧ (refuseRunCtl 1 6 event s).hi.runRef = true
    ∧ (refuseRunCtl 1 6 event s).hi.refuse = BitVec.ofNat 64 (2 ^ 63 + 6 * 2 ^ 56 + 1 * 2 ^ 48 + event * 2 ^ 32)
    ∧ Keeps [.hi, .mg] s (refuseRunCtl 1 6 event s) := by
  obtain ⟨word, hword⟩ : ∃ word : W64, word = BitVec.ofNat 64 (2 ^ 63 + 6 * 2 ^ 56 + 1 * 2 ^ 48 + event * 2 ^ 32) := ⟨_, rfl⟩
  obtain ⟨h, hh⟩ : ∃ h : HI, h = { s.hi with
    runRef := true, armRef := s.hi.armRef || decide ((1 : Nat) = 1), fresh := freshen s 6 s.hi.fresh, refuse := word } := ⟨_, rfl⟩
  have eq : refuseRunCtl 1 6 event s = issue 0x0E03 [i1 1, i1 6, i2 event] (errIrq (errsum s) { s with hi := h }) := by rw [hh, hword]; rfl
  have quiet : logless (refuseRunCtl 1 6 event s) = logless { s with hi := h } := by rw [eq, issue_logless, errIrq_logless]
  have armRef : h.armRef = true := by rw [hh]; exact Bool.or_true _
  have runRef : h.runRef = true := by rw [hh]
  have refuse : h.refuse = BitVec.ofNat 64 (2 ^ 63 + 6 * 2 ^ 56 + 1 * 2 ^ 48 + event * 2 ^ 32) := by rw [hh, hword]
  refine ⟨(hi_of_logless (f := HI.armRef) (fun _ => rfl) quiet).trans armRef, (hi_of_logless (f := HI.runRef) (fun _ => rfl) quiet).trans runRef,
    (hi_of_logless (f := HI.refuse) (fun _ => rfl) quiet).trans refuse, ?_⟩
  rw [eq]
  exact ((setHi_errIrq_keeps _ _ s).mono (by simp)).trans (issue_keeps _ _ _)

/-- The `ARM` burst leaves. -/
theorem sendArm_sends (s : State) : (sendArm s).en.armAt = some (ensTime s + 1179648).toNat ∧ (sendArm s).en.armWait = false
    ∧ (sendArm s).en.mismatch = 0 ∧ Keeps [.en] s (sendArm s) := by
  obtain ⟨w, hw⟩ : ∃ w : State, w = { s with en := { s.en with armAt := some (ensTime s + 1179648).toNat, armWait := false, mismatch := 0 } } :=
    ⟨_, rfl⟩
  obtain ⟨b, eq⟩ : ∃ b, sendArm s = burstDown b w := by
    rw [hw]
    exact ⟨_, rfl⟩
  obtain ⟨ports, tx, link, -⟩ := burstDown_link b w
  rw [eq, link, hw]
  exact ⟨rfl, rfl, rfl, (setEn_keeps _ s).trans (withLink_keeps ports tx _)⟩

/-- A reply kept at the leader. -/
def withReply (r : ArmReply) (s : State) : State :=
  { s with en := { s.en with replies := (s.en.replies.filter fun x => x.member != r.member) ++ [r] } }

theorem armReplyAct_leader {r : ArmReply} {s : State} (leads : s.en.leader = true) (waits : s.en.armWait = true) : armReplyAct r s
    = if (List.range s.en.members).all fun m => m == 0 || (withReply r s).en.replies.any fun x => x.member == m then armDecide (withReply r s)
      else withReply r s :=
  (if_pos leads).trans (if_pos waits)

theorem armReplyAct_waits {r : ArmReply} {s : State} (leads : s.en.leader = true) (waits : s.en.armWait = true)
    (missing : ∃ m, m < s.en.members ∧ m ≠ 0 ∧ ∀ x ∈ (withReply r s).en.replies, x.member ≠ m) : armReplyAct r s = withReply r s := by
  obtain ⟨m, few, other, none_⟩ := missing
  rw [armReplyAct_leader leads waits]
  refine if_neg fun all => ?_
  have here := List.all_eq_true.mp all m (List.mem_range.mpr few)
  rw [Bool.or_eq_true] at here
  obtain zero | any := here
  · exact other (beq_iff_eq.mp zero)
  · obtain ⟨x, mem, same⟩ := List.any_eq_true.mp any
    exact none_ x mem (beq_iff_eq.mp same)

theorem armReplyAct_arms {r : ArmReply} {s : State} (leads : s.en.leader = true) (waits : s.en.armWait = true) (zero : s.en.member = 0)
    (all : ∀ m, m < s.en.members → memberCase (withReply r s) m = none) : armReplyAct r s = sendArm (withReply r s) := by
  have replied : ((List.range s.en.members).all fun m => m == 0 || (withReply r s).en.replies.any fun x => x.member == m) = true := by
    refine List.all_eq_true.mpr fun m mem => ?_
    rw [Bool.or_eq_true]
    by_cases own : m = 0
    · exact .inl (beq_iff_eq.mpr own)
    · exact .inr (memberCase_replied (s := withReply r s) (fun h => own (h.symm.trans zero)) (all m (List.mem_range.mp mem)))
  rw [armReplyAct_leader leads waits, if_pos replied]
  exact armDecide_passes (s := withReply r s) all

/-- What a good data slot leaves at a leader. -/
theorem goodData_rest (p : Port) (s : State) : (goodData p s).en.leader = s.en.leader ∧ (goodData p s).en.armWait = s.en.armWait
    ∧ (goodData p s).en.member = s.en.member ∧ (goodData p s).en.members = s.en.members ∧ (goodData p s).en.replies = s.en.replies
    ∧ (goodData p s).en.state = s.en.state ∧ ensTime (goodData p s) = ensTime s ∧ (goodData p s).sq = s.sq
    ∧ (goodData p s).en.idleReports = s.en.idleReports ∧ (goodData p s).en.armReports = s.en.armReports ∧ Keeps [.en] s (goodData p s) := by
  obtain ⟨ports, tx, link, -⟩ := goodData_link p s
  rw [link]
  exact ⟨rfl, rfl, rfl, rfl, rfl, rfl, rfl, rfl, rfl, rfl, withLink_keeps ports tx s⟩

/-- A message that a member passes up after a good data slot. -/
theorem passedUp {s : State} (p : Port) (m : Mgmt) (up : s.en.ports[(0 : Port)].up = true) :
    (enMsg m (goodData p s) 0).en.tx = (goodData p s).en.tx ++ [((0 : Port), .data (s.en.ports[(0 : Port)].txData + 1) m)]
      ∧ Keeps [.en] s (enMsg m (goodData p s) 0) := by
  obtain ⟨ports, tx, link, same⟩ := goodData_link p s
  have port : (goodData p s).en.ports[(0 : Port)].up = true
      ∧ (goodData p s).en.ports[(0 : Port)].txData = s.en.ports[(0 : Port)].txData := by
    rw [link]
    exact ⟨(same 0).1.trans up, (same 0).2⟩
  have keeps : Keeps [.en] s (goodData p s) := by rw [link]; exact withLink_keeps ports tx s
  rw [enMsg_up port.1, port.2]
  exact ⟨rfl, keeps.trans (withLink_keeps _ _ _)⟩

/-! ### The members' reports (R358) -/

theorem armedAct_member {m : Nat} {idle : Bool} {s : State} (member : s.en.leader = false) (active : s.en.state ≠ .standalone) :
    armedAct m idle s = enMsg (.armedReport m idle) s 0 := (if_pos (Bool.eq_false_iff.mp member)).trans (if_neg active)

theorem armedAct_idle {m : Nat} {s : State} (leads : s.en.leader = true) :
    armedAct m true s = { s with en := { s.en with idleReports := s.en.idleReports ++ [m] } } := if_neg (not_not.mpr leads)

/-- One more member whose fill is complete. -/
def withArmed (m : Nat) (s : State) : State := { s with en := { s.en with armReports := s.en.armReports ++ [m] } }

theorem armedAct_armed {m : Nat} {s : State} (leads : s.en.leader = true) :
    armedAct m false s = if s.sq.state = .arming ∧ allArmed (withArmed m s) then enterArmed (withArmed m s) else withArmed m s :=
  if_neg (not_not.mpr leads)

theorem armedReport_clause (s : State) (src : Sender) (leads : s.en.leader = true) :
    let g := goodData src.port s
    let u : State := { g with en := { g.en with armReports := s.en.armReports ++ [src.member.val] } }
    exec (.armedReport src true) s = .next { g with en := { g.en with idleReports := s.en.idleReports ++ [src.member.val] } }
      ∧ ((s.sq.state ≠ .arming ∨ allArmed u = false) → exec (.armedReport src false) s = .next u)
      ∧ (s.sq.state = .arming → allArmed u = true → s.sq.goHeld = false →
        exec (.armedReport src false) s = .next { u with sq := { u.sq with state := .armed } }) := by
  intro g u
  obtain ⟨leader, -, -, -, -, -, -, sq, idles, arms, -⟩ := goodData_rest src.port s
  have same : u = withArmed src.member.val g := by
    show ({ g with en := { g.en with armReports := s.en.armReports ++ [src.member.val] } } : State) = _
    rw [← arms]
    rfl
  have row : exec (.armedReport src false) s = .next (armedAct src.member.val false g) := rfl
  rw [armedAct_armed (leader.trans leads), ← same, show g.sq = s.sq from sq] at row
  refine ⟨?_, fun not_ => ?_, fun arming all free => ?_⟩
  · have idle : exec (.armedReport src true) s = .next (armedAct src.member.val true g) := rfl
    rw [armedAct_idle (leader.trans leads), show g.en.idleReports = s.en.idleReports from idles] at idle
    exact idle
  · rwa [if_neg fun h => not_.elim (fun other => other h.1) fun none_ => Bool.false_ne_true (none_.symm.trans h.2)] at row
  · have waits : u.sq.goHeld = false := (congrArg SQ.goHeld sq).trans free
    rwa [if_pos ⟨arming, all⟩, enterArmed_waits waits] at row

/-! ### Replies (R356) -/

theorem armCheckReply_clause (s : State) (src : Sender) (pass : Bool) (digest id : W64) (crc : ReplyCrc) (profile : Byte) (common : W32) :
    let r : ArmReply := { member := src.member.val, pass := pass, digest := digest, imageId := id, crc := crc.image
                          ptCrc := crc.table, profile := profile, common := common }
    let u := goodData src.port s
    let v : State := { u with en := { u.en with replies := (s.en.replies.filter fun x => x.member != src.member.val) ++ [r] } }
    (s.en.leader = true → s.en.armWait = true →
      ((∃ m, m < s.en.members ∧ m ≠ 0 ∧ ∀ x ∈ v.en.replies, x.member ≠ m) →
        exec (.armCheckReply src pass digest id crc profile common) s = .next v)
      ∧ (s.en.member = 0 → (∀ m, m < s.en.members → memberCase v m = none) →
        ∃ t, exec (.armCheckReply src pass digest id crc profile common) s = .next t ∧ Keeps [.en] s t
          ∧ t.en.armAt = some (ensTime s + 1179648).toNat ∧ t.en.armWait = false ∧ t.en.mismatch = 0))
      ∧ (s.en.leader = false → s.en.state ≠ .standalone → s.en.ports[(0 : Port)].up = true →
        ∃ t, exec (.armCheckReply src pass digest id crc profile common) s = .next t ∧ Keeps [.en] s t
          ∧ t.en.tx = u.en.tx ++ [((0 : Port), .data (s.en.ports[(0 : Port)].txData + 1) (.armReply r))]) := by
  intro r u v
  obtain ⟨leader, waits_, number, many, replies, state, time, -, -, -, keeps⟩ := goodData_rest src.port s
  have row : exec (.armCheckReply src pass digest id crc profile common) s = .next (armReplyAct r u) := rfl
  have same : v = withReply r u := by
    show ({ u with en := { u.en with replies := (s.en.replies.filter fun x => x.member != src.member.val) ++ [r] } } : State) = _
    rw [← replies]
    rfl
  refine ⟨fun leads waits => ⟨fun missing => ?_, fun zero all => ?_⟩, fun member active up => ?_⟩
  · rw [← many, same] at missing
    rw [armReplyAct_waits (leader.trans leads) (waits_.trans waits) missing, ← same] at row
    exact row
  · rw [← many, same] at all
    rw [armReplyAct_arms (leader.trans leads) (waits_.trans waits) (number.trans zero) all] at row
    obtain ⟨armAt, wait, mismatch, sent⟩ := sendArm_sends (withReply r u)
    have time' : ensTime (withReply r u) = ensTime s := time
    rw [time'] at armAt
    exact ⟨_, row, (keeps.trans (setEn_keeps _ u)).trans sent, armAt, wait, mismatch⟩
  · have not_ : ¬u.en.leader = true := fun leads => Bool.false_ne_true ((leader.trans member).symm.trans leads)
    have on : ¬u.en.state = .standalone := fun alone => active (state.symm.trans alone)
    have passes : armReplyAct r u = enMsg (.armReply r) u 0 := (if_neg not_).trans (if_neg on)
    rw [passes] at row
    obtain ⟨tx, kept⟩ := passedUp src.port (.armReply r) up
    exact ⟨_, row, kept, tx⟩

theorem exec_armCheckReplyTimeout {s : State} {at_ : Nat} (leads : s.en.leader = true) (waits : s.en.armWait = true)
    (asked_ : s.en.armAsked = some at_) : exec .armCheckReplyTimeout s = .next (armDecide (toTime (at_ + 409600000) s)) := by
  show execArmCheckReplyTimeout s = _
  rw [execArmCheckReplyTimeout, if_pos ⟨leads, waits⟩, asked_]

end Sys2Proof.Machine

open Sys2Proof Sys2Proof.Machine

/-- Settles O44: a slot by its goodness and its number, a burst by its time, a reply and a report by who receives it. -/
theorem runControlBursts : Obligations.runControlBursts := by
  refine ⟨fun s p c down => exec_hargoControlSlot_down down, fun s p c up => ?_, fun s p b r => ?_, fun s at_ set_ => ?_, fun s at_ set_ => ?_,
    armCheckRequest_clause, armCheckReply_clause, fun s at_ leads waits asked_ => ?_,
    fun s src => ⟨armedReport_clause s src, fun member active up idle => ?_⟩⟩
  · intro l
    obtain ⟨port, rx, same, keeps⟩ := oneMoreBad_facts p s
    refine ⟨slotGood_headers, fun good burst next => ?_, fun good burst again => ?_, fun bad one few => ?_, fun bad two few member => ?_,
      fun bad long member => ?_⟩
    · obtain ⟨t, eq, facts⟩ := goodSlot_next (s := s) burst next
      exact ⟨t, (exec_hargoControlSlot_good up good).trans (congrArg _ eq), facts⟩
    · exact (exec_hargoControlSlot_good up good).trans (congrArg _ (goodSlot_again burst again))
    · have row := exec_hargoControlSlot_bad up bad
      rw [badSlot_eq, if_neg (by omega), if_neg (by omega)] at row
      refine ⟨_, row, (congrArg HPort.badCtl port).trans ?_, congrArg HPort.badRun port, rx, (congrArg HPort.up port).trans up, keeps⟩
      exact congrArg (· + 1) one
    · have row := exec_hargoControlSlot_bad up bad
      rw [badSlot_eq, if_neg (by omega), if_pos two] at row
      obtain ⟨contained, -, kept, -⟩ := discord_formed (s := oneMoreBad p s) 3 p.val 1 (same.trans member)
      exact ⟨_, row, contained, kept.trans rx⟩
    · exact ⟨_, exec_hargoControlSlot_bad up bad, badSlot_downs up long member⟩
  · intro u at_ gone
    refine ⟨fun first => ⟨fun early => ?_, fun late => congrArg Host.Outcome.next (onDown_late first _ late)⟩,
      fun first => ⟨fun early => ?_, fun late => congrArg Host.Outcome.next (onDown_late first _ late)⟩,
      fun first early => haltBurst_clause first early, haltreqBurst_leader, haltreqBurst_member⟩
    · obtain ⟨w, acts, -, -, rx, keeps⟩ := onDown_state first (fun _ t u => { u with en := { u.en with armAt := some t } }) early
      exact ⟨_, congrArg Host.Outcome.next acts, rfl, rx, keeps.trans (setEn_keeps _ w)⟩
    · obtain ⟨w, acts, -, -, rx, keeps⟩ := onDown_state first (fun _ t u => { u with en := { u.en with goAt := some t } }) early
      exact ⟨_, congrArg Host.Outcome.next acts, rfl, rx, keeps.trans (setEn_keeps _ w)⟩
  · intro u
    have row := exec_armBurstAtime set_
    refine ⟨fun stopped free open_ ready => ?_, fun blocked => ?_⟩
    · have may : ¬(running u = true ∨ u.mg.contained = true ∨ armHeldOff u = true ∨ ¬timeBaseReady u = true) :=
        not_or.mpr ⟨Bool.eq_false_iff.mp stopped, not_or.mpr ⟨Bool.eq_false_iff.mp free,
          not_or.mpr ⟨Bool.eq_false_iff.mp open_, not_not.mpr ready⟩⟩⟩
      rw [if_neg may] at row
      exact ⟨_, row, armEffect_clears true (armTaken u)⟩
    · rwa [if_pos (blocked.imp_right (Or.imp_right (Or.imp_right Bool.eq_false_iff.mp)))] at row
  · intro u
    have row := exec_goBurstAtime set_
    exact ⟨fun armed => row.trans (congrArg _ (if_pos armed)), fun other => row.trans (congrArg _ (if_neg other))⟩
  · intro u
    have row := exec_armCheckReplyTimeout leads waits asked_
    refine ⟨fun one => ?_, fun all => ?_⟩
    · obtain ⟨items, mask, refuses⟩ := armDecide_refuses one
      obtain ⟨armRef, runRef, refuse, told⟩ := refuseRunCtl_says 0x0D03 (issue 0x0D03 items (armFailed mask u))
      have en : (refuseRunCtl 1 6 0x0D03 (issue 0x0D03 items (armFailed mask u))).en = (armFailed mask u).en := by simp
      have wait := congrArg EN.armWait en
      have armAt := congrArg EN.armAt en
      rw [refuses] at row
      refine ⟨_, row, wait, armRef, runRef, ?_, armAt, ?_⟩
      · rw [refuse]
        rfl
      · exact (((setEn_keeps _ u).mono (by simp) : Keeps [.en, .hi, .mg] u (armFailed mask u)).trans
          ((issue_keeps _ _ _).mono (by simp))).trans (told.mono (by simp))
    · rw [armDecide_passes all] at row
      exact ⟨_, row, sendArm_sends u⟩
  · obtain ⟨leader, -, -, -, -, state, -⟩ := goodData_rest src.port s
    have row : exec (.armedReport src idle) s = .next (armedAct src.member.val idle (goodData src.port s)) := rfl
    rw [armedAct_member (leader.trans member) fun alone => active (state.symm.trans alone)] at row
    obtain ⟨tx, kept⟩ := passedUp src.port (.armedReport src.member.val idle) up
    exact ⟨_, row, kept, tx⟩

end

section
/-! SUPPORT. The two resets (R435, Table 17.4), the boot with its choice of the slot (R432 to R434, R442), and the function-level reset
(R372, R436); the statement on them. -/

namespace Sys2Proof.Machine

open Sys2Proof

/-! ### The resets (R435) -/

/-- What both resets leave, as the statement puts it. -/
def AsReset (s t : State) : Prop :=
  let r := State.reset
  ((∀ p : Pin, t.pins[p] = { r.pins[p] with hi := t.pins[p].hi, lo := t.pins[p].lo }) ∧ t.tg = r.tg ∧ t.pt = r.pt ∧ t.pm = r.pm ∧ t.sq = r.sq
      ∧ t.sp = r.sp ∧ t.cl = r.cl ∧ t.cs = r.cs ∧ t.mx = r.mx)
    ∧ t.ti.units = r.ti.units ∧ t.en.state = .standalone ∧ t.pf.parked = true
    ∧ t.bt.flash = s.bt.flash ∧ t.bt.serial = s.bt.serial ∧ t.bt.fuses = s.bt.fuses
    ∧ { t.bt with flash := r.bt.flash, serial := r.bt.serial, fuses := r.bt.fuses } = r.bt
    ∧ { t.hi with sent := r.hi.sent } = r.hi
    ∧ t.mg.persisted = s.mg.persisted ∧ t.mg.pstate = 3 ∧ t.mg.log = [] ∧ t.mg.seq = 0
    ∧ t.hostMem = s.hostMem ∧ t.pending = s.pending
    ∧ { t.pf with parkN := r.pf.parkN, bankMv := r.pf.bankMv } = r.pf

/-- The pins as the supplies rise. -/
theorem startLines_pin (s : State) (p : Pin) : (startLines s).pins[p]
    = { s.pins[p] with hi := Config.freeBool (s.freeCtr + 2 * p.val), lo := Config.freeBool (s.freeCtr + 2 * p.val + 1) } :=
  vmapIdx_get _ s.pins p

theorem powerOn_asReset (s : State) : AsReset s (startLines (coldReset s)) := by
  refine ⟨⟨fun p => ?_, rfl, rfl, rfl, rfl, rfl, rfl, rfl, rfl⟩, rfl, rfl, rfl, rfl, rfl, rfl, rfl, rfl, rfl, rfl, rfl, rfl, rfl, rfl, rfl⟩
  rw [startLines_pin]
  rfl

theorem warmReset_pin (s : State) (p : Pin) : (warmReset s).pins[p] = keepLine s.pins[p] State.reset.pins[p] :=
  vmapIdx_get (fun (p : Pin) x => keepLine s.pins[p] x) State.reset.pins p

theorem warmReset_asReset (s : State) : AsReset s (warmReset s) := by
  refine ⟨⟨fun p => ?_, rfl, rfl, rfl, rfl, rfl, rfl, rfl, rfl⟩, rfl, rfl, rfl, rfl, rfl, rfl, rfl, rfl, rfl, rfl, rfl, rfl, rfl, rfl, rfl⟩
  rw [warmReset_pin]
  rfl

/-! ### The calibration image at boot (R442) -/

/-- The image of the partition as a valid one leaves it. -/
def calSet (s : State) : State := { s with bt := { s.bt with cal := 1, calFlash := true } }

def calNone (s : State) : State := { s with bt := { s.bt with cal := 0, calFlash := false, trims := .nominal }, tg := { s.tg with bad := [] } }

/-- The image of the partition is taken exactly if its checks pass. -/
theorem bootCal_cases (s : State) :
    (calCause (flashRead s calBase 512) (flashRead s (calBase + 512) factoryBytes) s.bt.serial = none ∧ ∃ body, bootCal s = loadTrims body (calSet s))
      ∨ (calCause (flashRead s calBase 512) (flashRead s (calBase + 512) factoryBytes) s.bt.serial ≠ none
        ∧ ∃ c, bootCal s = issue 0x1007 [i1 c] (calNone s)) := by
  unfold bootCal
  dsimp only
  split
  next good => exact .inl ⟨good, _, rfl⟩
  next c bad => exact .inr ⟨fun good => Option.some_ne_none c (bad.symm.trans good), c, rfl⟩

/-- The trims in force, before the events that name what they lack. -/
def trimsTaken (body : Mem) (s : State) : State :=
  { s with bt := { s.bt with trims := .image body }, tg := { s.tg with bad := (badMaps body).map fun x => (x.1, x.2.1) } }

theorem loadTrims_eq (body : Mem) (s : State) :
    loadTrims body s = (badMaps body).foldl (fun t x => issue 0x0207 [i2 x.1.val, i1 x.2.1.val, i1 x.2.2] t) (trimsTaken body s) := rfl

theorem logless_setBtTg (b : BT) (g : TG) (s : State) : logless { s with bt := b, tg := g } = logless s := rfl

theorem loadTrims_rest (body : Mem) (s : State) :
    (loadTrims body s).bt = { s.bt with trims := .image body } ∧ logless (loadTrims body s) = logless s := by
  refine ⟨by simp [loadTrims], ?_⟩
  rw [loadTrims_eq, foldl_keeps logless (fun t x => issue_logless _ _ t)]
  exact logless_setBtTg _ _ s

theorem sameMg_of_logless {s t : State} (quiet : logless t = logless s) : SameMg s t :=
  congrArg (fun x : MG × HI => withLog s.mg x.1) quiet

/-- Step 6 of the boot: what of the state of the boot it sets. -/
theorem bootCal_facts (s : State) :
    ((bootCal s).bt.cal = 1 ↔ calCause (flashRead s calBase 512) (flashRead s (calBase + 512) factoryBytes) s.bt.serial = none)
      ∧ ((bootCal s).bt.cal = 1 ∨ ((bootCal s).bt.cal = 0 ∧ (bootCal s).bt.trims = .nominal))
      ∧ (bootCal s).bt.flash = s.bt.flash ∧ (bootCal s).bt.fuses = s.bt.fuses ∧ Keeps [.bt, .tg, .hi, .mg] s (bootCal s)
      ∧ logless (bootCal s) = logless s := by
  obtain ⟨good, body, eq⟩ | ⟨bad, c, eq⟩ := bootCal_cases s
  · obtain ⟨bt, quiet⟩ := loadTrims_rest body (calSet s)
    have keeps : Keeps [.bt, .tg, .hi, .mg] s (loadTrims body (calSet s)) :=
      ((setBt_keeps _ s).mono (by simp) : Keeps [.bt, .tg, .hi, .mg] s (calSet s)).trans ((loadTrims_keeps body (calSet s)).mono (by simp))
    rw [eq, bt]
    exact ⟨⟨fun _ => good, fun _ => rfl⟩, .inl rfl, rfl, rfl, keeps, quiet.trans rfl⟩
  · have bt : (issue 0x1007 [i1 c] (calNone s)).bt = (calNone s).bt := by simp
    have keeps : Keeps [.bt, .tg, .hi, .mg] s (issue 0x1007 [i1 c] (calNone s)) :=
      ((setBtTg_keeps _ _ s).mono (by simp) : Keeps [.bt, .tg, .hi, .mg] s (calNone s)).trans ((issue_keeps _ _ _).mono (by simp))
    have quiet : logless (issue 0x1007 [i1 c] (calNone s)) = logless s := issue_logless _ _ _
    rw [eq, bt]
    exact ⟨⟨fun one => absurd one Nat.zero_ne_one, fun good => absurd good bad⟩, .inr ⟨rfl, rfl⟩, rfl, rfl, keeps, quiet⟩

/-- The firmware is ready (R432). -/
def bootReady (s : State) : State := { s with bt := { s.bt with booting := false, fwReady := true } }

theorem exec_bootComplete {s : State} (boots : s.bt.booting = true) (runs : s.bt.axras = true) : exec .bootComplete s
    = .next (issue 0x1001 [i1 (bootCal s).bt.runSlot, i8 (bootCal s).bt.fwVer.toNat, i1 (bootCal s).bt.cal] (bootReady (bootCal s))) :=
  congrArg Host.Outcome.next (if_pos ⟨boots, runs⟩)

theorem calPlaces : calBase = 0x400000 ∧ calBase + 512 = 0x400200 ∧ factoryBytes = 3032128 := by decide

theorem bootComplete_clause (s : State) (boots : s.bt.booting = true) (runs : s.bt.axras = true) :
    ∃ t, exec .bootComplete s = .next t ∧ t.bt.booting = false ∧ t.bt.fwReady = true
      ∧ (t.bt.cal = 1 ↔ calCause (flashRead s 0x400000 512) (flashRead s 0x400200 3032128) s.bt.serial = none)
      ∧ (t.bt.cal = 1 ∨ (t.bt.cal = 0 ∧ t.bt.trims = .nominal))
      ∧ t.bt.flash = s.bt.flash ∧ t.bt.fuses = s.bt.fuses ∧ Keeps [.bt, .tg, .hi, .mg] s t ∧ SameMg s t := by
  have row := exec_bootComplete boots runs
  obtain ⟨cal, trims, flash, fuses, keeps, quiet⟩ := bootCal_facts s
  obtain ⟨base, body, bytes⟩ := calPlaces
  rw [body, bytes, base] at cal
  generalize bootCal s = u at row cal trims flash fuses keeps quiet
  have bt (items : List Item) : (issue 0x1001 items (bootReady u)).bt = (bootReady u).bt := by simp
  refine ⟨_, row, ?_⟩
  rw [bt]
  refine ⟨rfl, rfl, cal, trims, flash, fuses, ?_, sameMg_of_logless ((issue_logless _ _ _).trans (quiet : logless (bootReady u) = logless s))⟩
  exact (keeps.trans ((setBt_keeps _ u).mono (by simp) : Keeps [.bt, .tg, .hi, .mg] u (bootReady u))).trans ((issue_keeps _ _ _).mono (by simp))

/-! ### The choice of the slot (R433, R434) -/

theorem flashRead_of_flash {s t : State} (flash : t.bt.flash = s.bt.flash) : flashRead t = flashRead s := by
  funext a n
  rw [flashRead, flashRead, flash]

/-- A slot's checks look at the flash and at the anti-rollback counter only. -/
theorem slotCause_of_flash {s t : State} (flash : t.bt.flash = s.bt.flash) (fuses : t.bt.fuses = s.bt.fuses) (k : Nat) :
    slotCause t k = slotCause s k := by
  have read := flashRead_of_flash flash
  have record : bootRec t = bootRec s := by rw [bootRec, bootRec, recInForce, recInForce, recCopy, recCopy, recCopy, recCopy, read]
  have header : fwHeader t k = fwHeader s k := by rw [fwHeader, fwHeader, read]
  have signed : fwSigned t k = fwSigned s k := by rw [fwSigned, fwSigned, header, read]
  have rollback : fwRollback t k = fwRollback s k := by rw [fwRollback, fwRollback, header]
  rw [slotCause, slotCause, header, signed, rollback, fuses, record]

/-- What the choice of the slot leaves of the boot's state. -/
structure BootKept (s t : State) : Prop where
  axras : t.bt.axras = s.bt.axras
  recovery : t.bt.recovery = s.bt.recovery
  fuses : t.bt.fuses = s.bt.fuses
  serial : t.bt.serial = s.bt.serial
  keeps : Keeps [.bt, .hi, .mg] s t

theorem writeRec_kept (r : BootRec) (s : State) : BootKept s (writeRec r s) :=
  ⟨rfl, rfl, rfl, rfl, (setBt_keeps _ s).mono (by simp)⟩

theorem issue_bootKept (code : Nat) (items : List Item) {s t : State} (kept : BootKept s t) :
    BootKept s (issue code items t) ∧ (issue code items t).bt.flash = t.bt.flash := by
  have bt : (issue code items t).bt = t.bt := by simp
  refine ⟨⟨?_, ?_, ?_, ?_, kept.keeps.trans ((issue_keeps _ _ _).mono (by simp))⟩, congrArg BT.flash bt⟩
  · exact (congrArg BT.axras bt).trans kept.axras
  · exact (congrArg BT.recovery bt).trans kept.recovery
  · exact (congrArg BT.fuses bt).trans kept.fuses
  · exact (congrArg BT.serial bt).trans kept.serial

theorem trialStep_kept (s : State) : BootKept s (trialStep s).1 ∧ (trialStep s).2 ≤ 1 := by
  have small (n : Nat) : n % 2 ≤ 1 := by omega
  unfold trialStep
  dsimp only
  split
  · exact ⟨writeRec_kept _ s, small _⟩
  split
  · exact ⟨(issue_bootKept _ _ (writeRec_kept _ s)).1, small _⟩
  · exact ⟨⟨rfl, rfl, rfl, rfl, Keeps.refl _ s⟩, small _⟩

/-- The chosen slot, else the other, else recovery. -/
theorem bootFirmware_cases (s : State) : ∃ t k, BootKept s t ∧ k ≤ 1
    ∧ ((slotCause t k = none ∧ bootFirmware s = bootSlot k t)
      ∨ (slotCause t (1 - k) = none ∧ ∃ items, bootFirmware s = bootSlot (1 - k) (issue 0x1002 items t))
      ∨ (slotCause t k ≠ none ∧ slotCause t (1 - k) ≠ none ∧ ∃ a b, bootFirmware s = enterRecovery a b t)) := by
  obtain ⟨kept, small⟩ := trialStep_kept s
  refine ⟨(trialStep s).1, (trialStep s).2, kept, small, ?_⟩
  unfold bootFirmware
  split
  next t k step =>
    rw [step]
    split
    next good => exact .inl ⟨good, rfl⟩
    next c bad good => exact .inr (.inl ⟨good, _, rfl⟩)
    next c d bad bad' =>
      refine .inr (.inr ⟨fun good => Option.some_ne_none c (bad.symm.trans good), fun good => Option.some_ne_none d (bad'.symm.trans good), ?_⟩)
      split
      · exact ⟨_, _, rfl⟩
      · exact ⟨_, _, rfl⟩

/-- What `AXRAS_START` leaves of the choice. -/
structure Chosen (s t : State) : Prop where
  one : t.bt.axras = true ∨ t.bt.recovery = true
  runs : t.bt.axras = true → slotCause t t.bt.runSlot = none ∧ t.bt.runSlot ≤ 1
  recovers : t.bt.recovery = true → slotCause t 0 ≠ none ∧ slotCause t 1 ≠ none
  fuses : t.bt.fuses = s.bt.fuses
  serial : t.bt.serial = s.bt.serial
  keeps : Keeps [.bt, .hi, .mg] s t

theorem bootSlot_chosen {s t : State} {k : Nat} (kept : BootKept s t) (off : s.bt.recovery = false) (small : k ≤ 1) (good : slotCause t k = none) :
    Chosen s (bootSlot k t) where
  one := .inl rfl
  runs := fun _ => ⟨(slotCause_of_flash (t := bootSlot k t) rfl rfl k).trans good, small⟩
  recovers := fun on => absurd ((kept.recovery.trans off).symm.trans on) Bool.false_ne_true
  fuses := kept.fuses
  serial := kept.serial
  keeps := kept.keeps.trans ((setBt_keeps _ t).mono (by simp))

/-- The boot ROM serves the rings. -/
def recovered (s : State) : State :=
  { s with bt := { s.bt with
    recovery := true, fwReady := true, booting := false, next := (bootRec s).next % 2, aOk := bitAt (bootRec s).flags 0
    bOk := bitAt (bootRec s).flags 1 } }

theorem enterRecovery_chosen {s t : State} (a b : Nat) (kept : BootKept s t) (off : s.bt.axras = false) (first : slotCause t 0 ≠ none)
    (second : slotCause t 1 ≠ none) : Chosen s (enterRecovery a b t) := by
  have said (code : Nat) (items : List Item) (u : State) : (issue code items u).bt = u.bt := by simp
  have bt : (enterRecovery a b t).bt = (recovered t).bt := said 0x1003 [i1 a, i1 b] (recovered t)
  have axras : (enterRecovery a b t).bt.axras = t.bt.axras := (congrArg BT.axras bt :)
  have recovery : (enterRecovery a b t).bt.recovery = true := (congrArg BT.recovery bt :)
  have flash : (enterRecovery a b t).bt.flash = t.bt.flash := (congrArg BT.flash bt :)
  have fuses : (enterRecovery a b t).bt.fuses = t.bt.fuses := (congrArg BT.fuses bt :)
  have serial : (enterRecovery a b t).bt.serial = t.bt.serial := (congrArg BT.serial bt :)
  exact {
    one := .inr recovery
    runs := fun on => absurd ((axras.trans (kept.axras.trans off)).symm.trans on) Bool.false_ne_true
    recovers := fun _ => by
      rw [slotCause_of_flash flash fuses, slotCause_of_flash flash fuses]
      exact ⟨first, second⟩
    fuses := fuses.trans kept.fuses
    serial := serial.trans kept.serial
    keeps := (kept.keeps.trans ((setBt_keeps _ t).mono (by simp))).trans ((issue_keeps _ _ _).mono (by simp)) }

theorem bootFirmware_chosen {s : State} (axras : s.bt.axras = false) (recovery : s.bt.recovery = false) : Chosen s (bootFirmware s) := by
  obtain ⟨t, k, kept, small, cases_⟩ := bootFirmware_cases s
  obtain ⟨good, eq⟩ | ⟨good, items, eq⟩ | ⟨first, second, a, b, eq⟩ := cases_
  · rw [eq]
    exact bootSlot_chosen kept recovery small good
  · obtain ⟨told, flash⟩ := issue_bootKept 0x1002 items kept
    have fuses : (issue 0x1002 items t).bt.fuses = t.bt.fuses := told.fuses.trans kept.fuses.symm
    rw [eq]
    exact bootSlot_chosen told recovery (by omega) ((slotCause_of_flash flash fuses _).trans good)
  · rw [eq]
    obtain rfl | rfl : k = 0 ∨ k = 1 := by omega
    · exact enterRecovery_chosen a b kept axras first second
    · exact enterRecovery_chosen a b kept axras second first

/-- The endpoint serves the host. -/
def served (bm : Bool) (ids : W32) (s : State) : State := { s with hi := { s.hi with serving := true, busMaster := bm, subsys := ids } }

theorem exec_axrasStart {s : State} {bm : Bool} (boots : s.bt.booting = true) (idle : s.hi.serving = false) :
    exec (.axrasStart bm) s = .next (served bm (boardIds s) (bootFirmware s)) :=
  congrArg Host.Outcome.next (if_pos ⟨boots, Bool.eq_false_iff.mp idle⟩)

theorem axrasStart_clause (s : State) (bm : Bool) (boots : s.bt.booting = true) (idle : s.hi.serving = false) (axras : s.bt.axras = false)
    (recovery : s.bt.recovery = false) :
    ∃ t, exec (.axrasStart bm) s = .next t ∧ t.hi.serving = true ∧ t.hi.busMaster = bm ∧ t.hi.subsys = boardIds s
      ∧ (t.bt.axras = true ∨ t.bt.recovery = true)
      ∧ (t.bt.axras = true → slotCause t t.bt.runSlot = none ∧ t.bt.runSlot ≤ 1)
      ∧ (t.bt.recovery = true → slotCause t 0 ≠ none ∧ slotCause t 1 ≠ none)
      ∧ t.bt.fuses = s.bt.fuses ∧ t.bt.serial = s.bt.serial ∧ Keeps [.bt, .hi, .mg] s t := by
  have row := exec_axrasStart (bm := bm) boots idle
  have chosen := bootFirmware_chosen axras recovery
  generalize boardIds s = ids at row ⊢
  generalize bootFirmware s = u at row chosen
  have same (k : Nat) : slotCause (served bm ids u) k = slotCause u k := slotCause_of_flash rfl rfl k
  refine ⟨_, row, rfl, rfl, rfl, chosen.one, fun on => ?_, fun on => ?_, chosen.fuses, chosen.serial, ?_⟩
  · rw [same]
    exact chosen.runs on
  · rw [same, same]
    exact chosen.recovers on
  · exact chosen.keeps.trans ((setHi_keeps _ u).mono (by simp))

/-! ### The host interface through an abort and a containment -/

/-- The host-interface registers are the same, the traces of events apart. -/
def QuietHi (s t : State) : Prop := withTrace {} t.hi = withTrace {} s.hi

theorem QuietHi.refl (s : State) : QuietHi s s := rfl

theorem QuietHi.trans {s t u : State} (h : QuietHi s t) (k : QuietHi t u) : QuietHi s u := Eq.trans k h

theorem quietHi_of_logless {s t : State} (quiet : logless t = logless s) : QuietHi s t := congrArg Prod.snd quiet

theorem QuietHi.reg {α : Type} {f : HI → α} (outside : ∀ b, f (withTrace {} b) = f b) {s t : State} (h : QuietHi s t) : f t.hi = f s.hi :=
  (outside t.hi).symm.trans ((congrArg f h).trans (outside s.hi))

theorem issue_quietHi (code : Nat) (items : List Item) (s : State) : QuietHi s (issue code items s) := quietHi_of_logless (issue_logless _ _ s)

theorem enterContain_quietHi (cause : Nat) (s : State) : QuietHi s (enterContain cause s) := by
  have recorded (before : W32) (g : MG) (t : State) : QuietHi t (errIrq before { t with mg := g }) :=
    QuietHi.trans (t := { t with mg := g }) rfl (quietHi_of_logless (errIrq_logless before { t with mg := g }))
  obtain ⟨before, g, items, eq⟩ : ∃ before g items, enterContain cause s = issue 0x0F01 items (errIrq before { madeSafe s with mg := g }) :=
    ⟨_, _, _, rfl⟩
  rw [eq]
  exact ((quietHi_of_logless (madeSafe_logless s)).trans (recorded before g _)).trans (issue_quietHi 0x0F01 items _)

theorem recordDiscord_quietHi (cause member port detail : Nat) (s : State) : QuietHi s (recordDiscord cause member port detail s) := by
  obtain ⟨items, e, eq⟩ : ∃ items e, recordDiscord cause member port detail s = issue 0x0D04 items { s with en := e } := ⟨_, _, rfl⟩
  rw [eq]
  exact issue_quietHi 0x0D04 items { s with en := e }

theorem contain_quietHi (cause : Nat) (s : State) : QuietHi s (contain cause s) := by
  by_cases held : s.mg.contained = true
  · rw [contain_again held]
    have again (g : MG) (items : List Item) : QuietHi s (issue 0x0F01 items { s with mg := g }) := issue_quietHi 0x0F01 items { s with mg := g }
    exact again _ _
  · rw [contain, if_neg held]
    dsimp only
    split
    · obtain ⟨ports, tx, a, link, -⟩ := sendDiscord_link 4 0 0 (recordDiscord 4 s.en.member 0 0 (enterContain cause s))
      rw [link]
      exact ((enterContain_quietHi cause s).trans (recordDiscord_quietHi _ _ _ _ _) : QuietHi s _)
    · exact enterContain_quietHi cause s

/-- The end of a run, as the abort of an FLR finds it. -/
theorem finishRun_quietHi (cause code : Nat) (s : State) : QuietHi s (finishRun cause code s) := by
  have closes : (fun (t : State) (g : Glove) => if t.ti.units[g].gate = 0 then tiuClose g t else t) = endGate := rfl
  have gates : logless ((List.finRange 64).foldl endGate s) = logless s :=
    foldl_keeps logless (fun t g => by unfold endGate; split <;> simp) _ s
  have reports (t : State) : QuietHi t (reportIdle t) := congrArg (withTrace {}) (reportIdle_frame t).2.2.2.2.2.2.2.2.2.2.2.2.1
  rw [finishRun, closes]
  dsimp only
  refine QuietHi.trans ?_ (reports _)
  exact ((quietHi_of_logless gates).trans (issue_quietHi _ _ _) : QuietHi s _)

theorem abortRun_quietHi (s : State) : QuietHi s (abortRun s) := by
  have closed : QuietHi s (tiuCloseAll (dropProvisional s)) :=
    (quietHi_of_logless (dropProvisional_logless s)).trans (quietHi_of_logless (tiuCloseAll_logless _))
  rw [abortRun]
  dsimp only
  generalize tiuCloseAll (dropProvisional s) = u at closed ⊢
  exact closed

theorem stopNow_quietHi (s : State) : QuietHi s (stopNow s) := by
  unfold stopNow stopHere
  split
  next due =>
    split
    · exact QuietHi.refl s
    next run => exact absurd run due.1
    · split
      · exact (abortRun_quietHi s).trans (finishRun_quietHi _ _ _)
      · exact QuietHi.refl s
    · split
      · exact (quietHi_of_logless (tiuCloseAll_logless s)).trans (finishRun_quietHi _ _ _)
      · exact finishRun_quietHi _ _ s
  · exact QuietHi.refl s

theorem abortNow_rest (at_ : Nat) (s : State) : QuietHi s (abortNow at_ s) ∧ (abortNow at_ s).pt = s.pt ∧ (abortNow at_ s).bt = s.bt
    ∧ (abortNow at_ s).pending = s.pending := by
  by_cases ignored : s.sq.state = .idle ∨ s.sq.pendAbort = true
  · rw [abortNow_ignored ignored.symm]
    exact ⟨QuietHi.refl s, rfl, rfl, rfl⟩
  · have asks : abortNow at_ s = stopNow (abortSet at_ s) := if_neg ignored
    have pt : (stopNow (abortSet at_ s)).pt = (abortSet at_ s).pt := by simp
    have bt : (stopNow (abortSet at_ s)).bt = (abortSet at_ s).bt := by simp
    have pending : (stopNow (abortSet at_ s)).pending = (abortSet at_ s).pending := by simp
    rw [asks]
    exact ⟨stopNow_quietHi (abortSet at_ s), pt, bt, pending⟩

/-! ### The function-level reset (R372) -/

/-- What the last steps of an FLR leave: registers, other blocks, and the park state. -/
structure FlrKept (s t : State) : Prop where
  hi : QuietHi s t
  dbg : t.mg.dbg = s.mg.dbg
  challenge : t.mg.challenge = s.mg.challenge
  en : t.en = s.en
  pt : t.pt = s.pt
  bt : t.bt = s.bt
  pending : t.pending = s.pending
  open_ : t.cs.open_ = s.cs.open_
  parked : Parked s → Parked t

theorem FlrKept.refl (s : State) : FlrKept s s := ⟨rfl, rfl, rfl, rfl, rfl, rfl, rfl, rfl, id⟩

theorem FlrKept.trans {s t u : State} (h : FlrKept s t) (k : FlrKept t u) : FlrKept s u :=
  ⟨h.hi.trans k.hi, k.dbg.trans h.dbg, k.challenge.trans h.challenge, k.en.trans h.en, k.pt.trans h.pt, k.bt.trans h.bt,
    k.pending.trans h.pending, k.open_.trans h.open_, fun p => k.parked (h.parked p)⟩

theorem setMg_flrKept (g : MG) (s : State) (dbg : g.dbg = s.mg.dbg) (challenge : g.challenge = s.mg.challenge) :
    FlrKept s { s with mg := g } := ⟨rfl, dbg, challenge, rfl, rfl, rfl, rfl, rfl, id⟩

theorem flrKept_of_logless {s t : State} (quiet : logless t = logless s) (en : t.en = s.en) (pt : t.pt = s.pt) (bt : t.bt = s.bt)
    (pending : t.pending = s.pending) (open_ : t.cs.open_ = s.cs.open_) (parked : Parked s → Parked t) : FlrKept s t :=
  ⟨quietHi_of_logless quiet, mg_of_logless (f := MG.dbg) (fun _ => rfl) quiet, mg_of_logless (f := MG.challenge) (fun _ => rfl) quiet, en, pt, bt,
    pending, open_, parked⟩

theorem issue_flrKept (code : Nat) (items : List Item) (s : State) : FlrKept s (issue code items s) :=
  flrKept_of_logless (issue_logless _ _ s) (by simp) (by simp) (by simp) (by simp) (by simp) fun h => h.congr (by simp) (by simp) (by simp)

theorem coreSettle_flrKept (s : State) : FlrKept s (coreSettle s) := by
  unfold coreSettle
  split
  · exact FlrKept.refl s
  · exact setMg_flrKept _ s rfl rfl

/-- A PLL that stops takes the windows of its pins, and nothing that is parked. -/
theorem shutGuard_parked (q : Quad) {s : State} (parked : Parked s) : Parked (shutGuard q s) := by
  have pf : (shutGuard q s).pf = s.pf := by simp
  have mx : (shutGuard q s).mx = s.mx := by simp
  obtain ⟨flag, pins, chans⟩ := parked
  refine ⟨by rw [pf]; exact flag, fun p => ?_, by rw [mx]; exact chans⟩
  have pin : (shutGuard q s).pins[p] = if quadOf p = q then noWin s.pins[p] else s.pins[p] := by
    rw [shutGuard_pins]
    exact vmapIdx_get _ s.pins p
  rw [pin]
  split
  · exact pins p
  · exact pins p

theorem stopPll_flrKept (q : Quad) (s : State) : FlrKept s (stopPll q s) := by
  refine flrKept_of_logless (stopPll_logless q s) (by simp) (by simp) (by simp) (by simp) ?_ ?_
  · unfold stopPll
    split
    · have same := congrArg CS.open_ (shutGuard_cs q s)
      exact same
    · rfl
  · intro parked
    unfold stopPll
    split
    · exact (shutGuard_parked q parked).congr rfl rfl rfl
    · exact parked.congr rfl rfl rfl

theorem stopPlls_flrKept (s : State) : FlrKept s (stopPlls s) := by
  have all (l : List Quad) (t : State) : FlrKept t (l.foldl (fun t q => stopPll q t) t) := by
    induction l generalizing t with
    | nil => exact FlrKept.refl t
    | cons q l ih => exact (stopPll_flrKept q t).trans (ih _)
  exact all (List.finRange 4) s

theorem flrPower_flrKept (s : State) : FlrKept s (flrPower s) := by
  unfold flrPower
  split
  · dsimp only
    split
    · exact (stopPlls_flrKept s).trans (setMg_flrKept _ _ rfl rfl)
    · exact setMg_flrKept _ s rfl rfl
  · exact FlrKept.refl s

/-- A transition that begins finds the pins and channels parked. -/
theorem beginStep_flrKept (target : Nat) {s : State} (parked : Parked s) : FlrKept s (beginStep target s) := by
  by_cases down : s.mg.pstate < target
  · have still : beginStep target s = s := (beginStep_down down).trans (if_pos parked.1)
    rw [still]
    exact FlrKept.refl s
  · have keeps := beginStep_up_keeps (s := s) (target := target) down
    exact flrKept_of_logless (beginStep_logless target s) (keeps .en (by decide)) (keeps .pt (by decide)) (keeps .bt (by decide))
      (keeps .pending (by decide)) (congrArg CS.open_ (keeps .cs (by decide)))
      fun h => h.congr (keeps .pf (by decide)) (keeps .pins (by decide)) (keeps .mx (by decide))

theorem smbPwr_flrKept (t : Nat) {s : State} (parked : Parked s) : FlrKept s (smbPwr t s) := by
  have status (st : Nat) (u : State) : FlrKept u (smbStatus st u) := setMg_flrKept _ u rfl rfl
  have asked_ (g : MG) (dbg : g.dbg = s.mg.dbg) (challenge : g.challenge = s.mg.challenge) : FlrKept s { s with mg := g } :=
    setMg_flrKept g s dbg challenge
  unfold smbPwr
  split
  · exact status _ s
  split
  · exact status _ s
  split
  · exact asked_ _ rfl rfl
  split
  · exact status _ s
  · have set_ := asked_ { s.mg with pwr := some { target := t, tag := none } } rfl rfl
    exact (set_.trans (beginStep_flrKept t (set_.parked parked))).trans (status _ _)

theorem smbResume_flrKept {s : State} (parked : Parked s) : FlrKept s (smbResume s) := by
  unfold smbResume
  split
  · split
    · exact (smbPwr_flrKept _ parked).trans (coreSettle_flrKept _)
    · exact FlrKept.refl s
  · exact FlrKept.refl s

/-- The state in which an FLR's own steps begin. -/
def flrFrom (s : State) : State := if formed s then contain 0x10 s else s

/-- The run aborted, the gates closed, the outputs parked. -/
def flrParked (s : State) : State := parkAll 1 (tiuCloseAll (abortNow 0 s))

def flrShut (s : State) : State := if (flrParked s).cs.open_ then closeStream 2 false (flrParked s) else flrParked s

/-- The blocks as an FLR resets them. -/
def flrCleared (s : State) : State :=
  { breakLocal s with
    hi := flrHi s.hi
    pf := { s.pf with adcs := vmap flrAdc s.pf.adcs }
    pt := { s.pt with mixed := [] }
    pm := { s.pm with bar2 := [], newCfg := none }
    mg := { s.mg with dbg := false, challenge := none } }

theorem flrBlocks_eq (s : State) : flrBlocks s = flrPower (flrCleared (flrShut s)) := by
  have shut : (if (parkAll 1 (tiuCloseAll (abortNow 0 s))).cs.open_ then closeStream 2 false (parkAll 1 (tiuCloseAll (abortNow 0 s)))
      else parkAll 1 (tiuCloseAll (abortNow 0 s))) = flrShut s := by rw [flrShut, flrParked]
  unfold flrBlocks
  dsimp only
  rw [shut]
  generalize flrShut s = u
  rfl

theorem exec_flr (s : State) : ∃ n, exec .flr s = .next (smbResume (coreSettle (issue 0x0E08 [i1 n] (flrBlocks (flrFrom s))))) := ⟨_, rfl⟩

theorem flrFrom_rest (s : State) : QuietHi s (flrFrom s) ∧ (flrFrom s).pt = s.pt ∧ (flrFrom s).bt = s.bt ∧ (flrFrom s).pending = s.pending := by
  unfold flrFrom
  split
  · exact ⟨contain_quietHi 0x10 s, by simp, by simp, by simp⟩
  · exact ⟨QuietHi.refl s, rfl, rfl, rfl⟩

theorem flrParked_rest (s : State) : QuietHi s (flrParked s) ∧ (flrParked s).pt = s.pt ∧ (flrParked s).bt = s.bt
    ∧ (flrParked s).pending = s.pending ∧ Parked (flrParked s) := by
  obtain ⟨hi, pt, bt, pending⟩ := abortNow_rest 0 s
  have pt' (t : State) : (parkAll 1 (tiuCloseAll t)).pt = t.pt := by simp
  have bt' (t : State) : (parkAll 1 (tiuCloseAll t)).bt = t.bt := by simp
  have pending' (t : State) : (parkAll 1 (tiuCloseAll t)).pending = t.pending := by simp
  have quiet (t : State) : QuietHi t (parkAll 1 (tiuCloseAll t)) :=
    (quietHi_of_logless (tiuCloseAll_logless t)).trans (quietHi_of_logless (parkAll_logless 1 _))
  exact ⟨hi.trans (quiet _), (pt' _).trans pt, (bt' _).trans bt, (pending' _).trans pending, parkAll_parked 1 _⟩

theorem closeStream_rest (s : State) : (closeStream 2 false s).pins = s.pins ∧ (closeStream 2 false s).pf = s.pf
    ∧ (closeStream 2 false s).mx = s.mx ∧ (closeStream 2 false s).pt = s.pt ∧ (closeStream 2 false s).pending = s.pending := by
  simp [closeStream, closeFill, closeDue, streamShut, endFill, stageEmpty]

theorem flrShut_rest (s : State) : QuietHi s (flrShut s) ∧ (flrShut s).pt = s.pt ∧ (flrShut s).bt = s.bt
    ∧ (flrShut s).pending = s.pending ∧ Parked (flrShut s) ∧ (flrShut s).cs.open_ = false := by
  obtain ⟨hi, pt, bt, pending, parked⟩ := flrParked_rest s
  unfold flrShut
  split
  · obtain ⟨pins, pf, mx, pt', pending'⟩ := closeStream_rest (flrParked s)
    exact ⟨hi.trans (quietHi_of_logless (closeStream_logless 2 false _)), pt'.trans pt, (closeStream_bt 2 false _).trans bt,
      pending'.trans pending, parked.congr pf pins mx, closeStream_closed 2 false _⟩
  next shut => exact ⟨hi, pt, bt, pending, parked, Bool.eq_false_iff.mpr shut⟩

theorem flrCleared_parked {s : State} (parked : Parked s) : Parked (flrCleared s) := parked

/-- The whole reset of the function. -/
theorem flr_clause (s : State) :
    ∃ t, exec .flr s = .next t ∧ Parked t ∧ t.en.state = .standalone ∧ t.mg.dbg = false ∧ t.mg.challenge = none
      ∧ t.hi.exec = [] ∧ t.hi.fetched = [] ∧ t.hi.cpls = [] ∧ t.hi.posted = [] ∧ t.hi.cmdSize = 0 ∧ t.hi.cplSize = 0
      ∧ t.hi.msixMask = 0xFFFFFFFFFFFFFFFF ∧ t.hi.linkUp = s.hi.linkUp ∧ t.hi.serving = s.hi.serving ∧ t.cs.open_ = false
      ∧ { t.pt with mixed := s.pt.mixed } = s.pt ∧ t.pt.mixed = [] ∧ t.bt = s.bt ∧ t.pending = s.pending := by
  obtain ⟨n, row⟩ := exec_flr s
  obtain ⟨hi1, pt1, bt1, pending1⟩ := flrFrom_rest s
  obtain ⟨hi2, pt2, bt2, pending2, parked2, open2⟩ := flrShut_rest (flrFrom s)
  obtain ⟨u, hu⟩ : ∃ u, u = flrShut (flrFrom s) := ⟨_, rfl⟩
  rw [flrBlocks_eq] at row
  rw [← hu] at row hi2 pt2 bt2 pending2 parked2 open2
  have quiet := hi1.trans hi2
  have cleared := flrCleared_parked parked2
  have before := ((flrPower_flrKept (flrCleared u)).trans (issue_flrKept 0x0E08 [i1 n] _)).trans (coreSettle_flrKept _)
  have kept := before.trans (smbResume_flrKept (before.parked cleared))
  generalize smbResume (coreSettle (issue 0x0E08 [i1 n] (flrPower (flrCleared u)))) = t at row kept
  have pt : t.pt = { u.pt with mixed := [] } := kept.pt
  refine ⟨t, row, kept.parked cleared, congrArg EN.state kept.en, kept.dbg, kept.challenge, kept.hi.reg (f := HI.exec) fun _ => rfl,
    kept.hi.reg (f := HI.fetched) fun _ => rfl, kept.hi.reg (f := HI.cpls) fun _ => rfl, kept.hi.reg (f := HI.posted) fun _ => rfl,
    kept.hi.reg (f := HI.cmdSize) fun _ => rfl, kept.hi.reg (f := HI.cplSize) fun _ => rfl, kept.hi.reg (f := HI.msixMask) fun _ => rfl,
    (kept.hi.reg (f := HI.linkUp) fun _ => rfl).trans (quiet.reg (f := HI.linkUp) fun _ => rfl),
    (kept.hi.reg (f := HI.serving) fun _ => rfl).trans (quiet.reg (f := HI.serving) fun _ => rfl), kept.open_.trans open2, ?_, ?_,
    kept.bt.trans (bt2.trans bt1), kept.pending.trans (pending2.trans pending1)⟩
  · rw [pt, pt2, pt1]
  · rw [pt]

end Sys2Proof.Machine

open Sys2Proof Sys2Proof.Machine

/-- Settles O6: each reset by its own lemma, the boot by the choice of the slot, the FLR by what its last steps leave. -/
theorem resetsBootAndFlr : Obligations.resetsBootAndFlr := by
  refine ⟨fun s => ?_, ⟨fun s down => ?_, bootComplete_clause, flr_clause⟩, axrasStart_clause⟩
  · intro r common
    refine ⟨⟨_, rfl, powerOn_asReset s, rfl, rfl, fun p => ?_⟩, ⟨_, rfl, warmReset_asReset s, rfl, rfl, rfl, rfl, fun p => ?_, rfl, rfl, rfl⟩⟩
    · rw [startLines_pin]
      exact ⟨rfl, rfl⟩
    · rw [warmReset_pin]
      exact ⟨rfl, rfl⟩
  · exact congrArg Host.Outcome.next (if_pos down)

end
